-- ==== Sys2Proof/Word.lean ====
section
/-! DEFINITION. The words of the block: bytes, 16-, 32-, 48-, 64- and 128-bit words (R9, R10, R22, R28). -/
namespace Sys2Proof

/-- One byte; byte order is little-endian everywhere (R9). -/
abbrev Byte := BitVec 8
/-- A register-window word (R10). -/
abbrev W32 := BitVec 32
/-- An address of the 48-bit space (R28: PC is 48 bits wide). -/
abbrev Addr := BitVec 48
/-- A general register's value (R28). -/
abbrev W64 := BitVec 64
/-- A lane register's value (R28). -/
abbrev W128 := BitVec 128
/-- The number of a physical engine, SE0 to SE71 (R7). -/
abbrev PE := Fin 72
/-- The number of a logical engine, LE0 to LE63 (R7). -/
abbrev LE := Fin 64
/-- The number of a Carafe bank, CB0 to CB63 (R16). -/
abbrev BankId := Fin 64

end Sys2Proof
end

