-- ==== Sys2Proof/Syntax.lean ====
section
/-! DEFINITION. The commands that the block takes: every row of the table, and the kinds of operand that only commands have. -/
namespace Sys2Proof

/-- What an array read finds (R207, R208, R211); the surroundings decide it. -/
inductive EccFind where
  | clean
  /-- A correctable error; whether it is still there after the write-back. -/
  | correctable (stays : Bool)
  | uncorrectable
deriving DecidableEq, Repr

/-- What a bank's array read finds (R207 to R213): nothing; a correctable error in the request's first or second line, and whether
it is still there after the write-back; uncorrectable codewords of one of its lines, one bit each; a source field that its
check cannot correct. Another target answers a read with an error exactly where the find is uncorrectable. -/
inductive BankFind where
  | clean
  | correctable (second stays : Bool)
  | uncorrectable (second : Bool) (words : BitVec 8)
  | sourceLost (second : Bool)
deriving DecidableEq, Repr

/-- What happens to the residue and parity checks of a word from outside (R59, R295, R296): nothing; a first mismatch, or two
in succession (operand or result), in the word's own paths, and for two whether the word's request had been presented; or the
stored code of element `elem` of R28 (numbered in State.lean) is changed to `code`, so that every word that reads it fails. -/
inductive Residue where
  | clean
  | once (opnd : Bool)
  | twice (first second sent : Bool)
  | stored (elem code : Nat)
deriving DecidableEq, Repr

/-- What answers a spill (R437 to R439): SACK, a refusal, or a SACK that comes after TIMEOUT. -/
inductive SpillAnswer where
  | sack
  | refused
  | late
deriving DecidableEq, Repr

/-- An island in which the power-fail warning becomes usable (R288). -/
inductive Island where
  | engine (n : PE)
  | intake
  | fabric
  | spm
  | ring
deriving DecidableEq, Repr

/-- What a scan does at a data register (R460 to R462): Capture-DR, or Update-DR with the bits shifted in. -/
inductive DrScan (w : Nat) where
  | capture
  | update (v : BitVec w)
deriving DecidableEq, Repr

/-- The commands of the block: one constructor for each row of the table (log entry 60 says what the operands are). The
name of the row and the rule that describes it stand beside each. -/
inductive Instr where
  /-- SEAL_INPUT_HIGH (R4). The seal input is sampled high on an AON cycle and LC_STATE moves from DEVELOPMENT to SEALED
  for good. -/
  | sealInputHigh
  /-- POWER_ON_RESET (R456). PORST_N releases and the whole block, PD6 and AON included, restarts. -/
  | powerOnReset
  /-- BLOCK_RESET (R456). BLKRST_N releases and every domain except PD1 restarts, after which the Loader runs again. -/
  | blockReset
  /-- PLL_LOCK (R488). The last PLL or DCO locks after a reset, which lets the Loader leave WAITMAN. -/
  | pllLock
  /-- REGISTER_WRITE (R511). A write, with the W1S, W1C and RW effects of its fields, to a register that has no
  behaviour of its own. -/
  | registerWrite (rq : BitVec 7) (off : BitVec 20) (v : W32)
  /-- MICROWORD (R57). An engine executes one microword, performing all of its fields, checks, commits and next-address
  selection. -/
  | microword (n : PE) (find : EccFind) (res : Residue)
  /-- FABRIC_RESPONSE (R52). The response to an XFOP or a non-Carafe load arrives in its channel slot, with FERR if the
  target answered with an error. -/
  | fabricResponse (n : PE) (c : BitVec 5)
  /-- EXT_ANSWER (R54). A unit's answer to an EXT strobe reaches the engine, setting EXTACK and EXTERR and writing MDR.
  -/
  | extAnswer (n : PE)
  /-- CARAFE_LOAD_DATA (R57). The data of a MEMOP load becomes usable at the engine and the waiting word completes. -/
  | carafeLoadData (n : PE) (res : Residue)
  /-- MICRO_TRAP (R61). At a TRAPOK point a due micro-trap (freeze, monitor halt, watchdog, or interrupt or doorbell) is
  entered. -/
  | microTrap (n : PE)
  /-- INSTRUCTION_FETCH (R77). An instruction-buffer line arrives, and the waiting dispatch goes ahead or a fetch error
  raises vector 5. -/
  | instructionFetch (n : PE) (find : BankFind)
  /-- ENGINE_START (R325). An engine starts at microaddress 0x0000 and FEIS execution begins with the reset state. -/
  | engineStart (n : PE)
  /-- ENGINE_CLOCK_WRITE (R66). A write of ENGn_CLK.FSTEP starts a relock, or sets BADSTEP when the value is out of
  range. -/
  | engineClockWrite (n : PE) (fstep : BitVec 7)
  /-- ENGINE_CLOCK_SWITCH (R66). After relock, the engine switches to the new frequency at a TRAPOK point. -/
  | engineClockSwitch (n : PE)
  /-- BREAK_NOTICE (R91). A break notice for a lock arrives at the engine and records a break with cause remote write.
  -/
  | breakNotice (n : PE)
  /-- ADD (R81). FEIS ADD writes A + B to D and sets ZNCV. -/
  | add (n : PE) (d a b : BitVec 5) (x : BitVec 9)
  /-- SUB (R81). FEIS SUB writes A − B to D and sets ZNCV. -/
  | sub (n : PE) (d a b : BitVec 5) (x : BitVec 9)
  /-- ADC (R81). FEIS ADC adds with carry. -/
  | adc (n : PE) (d a b : BitVec 5) (x : BitVec 9)
  /-- SBC (R81). FEIS SBC subtracts with borrow. -/
  | sbc (n : PE) (d a b : BitVec 5) (x : BitVec 9)
  /-- AND (R81). FEIS AND is a bitwise AND. -/
  | and (n : PE) (d a b : BitVec 5) (x : BitVec 9)
  /-- OR (R81). FEIS OR is a bitwise OR. -/
  | or (n : PE) (d a b : BitVec 5) (x : BitVec 9)
  /-- XOR (R81). FEIS XOR is a bitwise exclusive OR. -/
  | xor (n : PE) (d a b : BitVec 5) (x : BitVec 9)
  /-- ANDN (R81). FEIS ANDN writes A AND NOT B. -/
  | andn (n : PE) (d a b : BitVec 5) (x : BitVec 9)
  /-- NEG (R81). FEIS NEG negates A. -/
  | neg (n : PE) (d a b : BitVec 5) (x : BitVec 9)
  /-- NOT (R81). FEIS NOT inverts A. -/
  | not (n : PE) (d a b : BitVec 5) (x : BitVec 9)
  /-- CMP (R81). FEIS CMP compares A with B and sets ZNCV. -/
  | cmp (n : PE) (d a b : BitVec 5) (x : BitVec 9)
  /-- TST (R81). FEIS TST tests A AND B and sets ZN. -/
  | tst (n : PE) (d a b : BitVec 5) (x : BitVec 9)
  /-- SHL (R81). FEIS SHL shifts left by a register amount. -/
  | shl (n : PE) (d a b : BitVec 5) (x : BitVec 9)
  /-- SHR (R81). FEIS SHR shifts right logically. -/
  | shr (n : PE) (d a b : BitVec 5) (x : BitVec 9)
  /-- SAR (R81). FEIS SAR shifts right arithmetically. -/
  | sar (n : PE) (d a b : BitVec 5) (x : BitVec 9)
  /-- ROR (R81). FEIS ROR rotates right. -/
  | ror (n : PE) (d a b : BitVec 5) (x : BitVec 9)
  /-- MINS (R81). FEIS MINS writes the signed minimum. -/
  | mins (n : PE) (d a b : BitVec 5) (x : BitVec 9)
  /-- MAXS (R81). FEIS MAXS writes the signed maximum. -/
  | maxs (n : PE) (d a b : BitVec 5) (x : BitVec 9)
  /-- MINU (R81). FEIS MINU writes the unsigned minimum. -/
  | minu (n : PE) (d a b : BitVec 5) (x : BitVec 9)
  /-- MAXU (R81). FEIS MAXU writes the unsigned maximum. -/
  | maxu (n : PE) (d a b : BitVec 5) (x : BitVec 9)
  /-- CLZ (R81). FEIS CLZ counts leading zeros. -/
  | clz (n : PE) (d a b : BitVec 5) (x : BitVec 9)
  /-- CTZ (R81). FEIS CTZ counts trailing zeros. -/
  | ctz (n : PE) (d a b : BitVec 5) (x : BitVec 9)
  /-- POPC (R81). FEIS POPC counts ones. -/
  | popc (n : PE) (d a b : BitVec 5) (x : BitVec 9)
  /-- EXT (R81). FEIS EXT sign- or zero-extends A as X selects. -/
  | ext (n : PE) (d a b : BitVec 5) (x : BitVec 9)
  /-- BSWAP (R81). FEIS BSWAP reverses the bytes of A. -/
  | bswap (n : PE) (d a b : BitVec 5) (x : BitVec 9)
  /-- SEL (R81). FEIS SEL selects A or B on a condition code. -/
  | sel (n : PE) (d a b : BitVec 5) (x : BitVec 9)
  /-- MOV (R81). FEIS MOV copies A to D. -/
  | mov (n : PE) (d a b : BitVec 5) (x : BitVec 9)
  /-- ADDI (R82). FEIS ADDI adds a sign-extended immediate. -/
  | addi (n : PE) (d a : BitVec 5) (imm : BitVec 14)
  /-- ANDI (R82). FEIS ANDI ANDs a zero-extended immediate. -/
  | andi (n : PE) (d a : BitVec 5) (imm : BitVec 14)
  /-- ORI (R82). FEIS ORI ORs a zero-extended immediate. -/
  | ori (n : PE) (d a : BitVec 5) (imm : BitVec 14)
  /-- XORI (R82). FEIS XORI exclusive-ORs a zero-extended immediate. -/
  | xori (n : PE) (d a : BitVec 5) (imm : BitVec 14)
  /-- CMPI (R82). FEIS CMPI compares A with an immediate. -/
  | cmpi (n : PE) (d a : BitVec 5) (imm : BitVec 14)
  /-- SHLI (R82). FEIS SHLI shifts left by an immediate amount. -/
  | shli (n : PE) (d a : BitVec 5) (imm : BitVec 14)
  /-- SHRI (R82). FEIS SHRI shifts right logically by an immediate amount. -/
  | shri (n : PE) (d a : BitVec 5) (imm : BitVec 14)
  /-- SARI (R82). FEIS SARI shifts right arithmetically by an immediate amount. -/
  | sari (n : PE) (d a : BitVec 5) (imm : BitVec 14)
  /-- RORI (R82). FEIS RORI rotates right by an immediate amount. -/
  | rori (n : PE) (d a : BitVec 5) (imm : BitVec 14)
  /-- BFX (R82). FEIS BFX extracts a bit field. -/
  | bfx (n : PE) (d a : BitVec 5) (imm : BitVec 14)
  /-- BFI (R82). FEIS BFI inserts a bit field. -/
  | bfi (n : PE) (d a : BitVec 5) (imm : BitVec 14)
  /-- LI (R82). FEIS LI loads a sign-extended 32-bit immediate. -/
  | li (n : PE) (d a : BitVec 5) (x : BitVec 14) (imm : BitVec 32)
  /-- LIH (R82). FEIS LIH loads the high 32 bits of D. -/
  | lih (n : PE) (d a : BitVec 5) (x : BitVec 14) (imm : BitVec 32)
  /-- ADDIW (R82). FEIS ADDIW adds a 32-bit immediate. -/
  | addiw (n : PE) (d a : BitVec 5) (x : BitVec 14) (imm : BitVec 32)
  /-- MUL (R83). FEIS MUL writes the low 64 bits of the product and sets V on signed overflow. -/
  | mul (n : PE) (d a b : BitVec 5) (x : BitVec 9)
  /-- MULH_S (R83). FEIS MULH.S writes the signed high product. -/
  | mulhS (n : PE) (d a b : BitVec 5) (x : BitVec 9)
  /-- MULH_U (R83). FEIS MULH.U writes the unsigned high product. -/
  | mulhU (n : PE) (d a b : BitVec 5) (x : BitVec 9)
  /-- MULW_S (R83). FEIS MULW.S writes the full signed product to a register pair. -/
  | mulwS (n : PE) (d a b : BitVec 5) (x : BitVec 9)
  /-- MULW_U (R83). FEIS MULW.U writes the full unsigned product to a register pair. -/
  | mulwU (n : PE) (d a b : BitVec 5) (x : BitVec 9)
  /-- DSTEP (R108). FEIS DSTEP performs one radix-4 non-restoring division step. -/
  | dstep (n : PE) (d a b : BitVec 5) (x : BitVec 9)
  /-- DFIX (R109). FEIS DFIX corrects the remainder, applies the signs and settles the exceptional cases. -/
  | dfix (n : PE) (d a b : BitVec 5) (x : BitVec 9)
  /-- LDB (R84). FEIS LDB and LDBS load one byte. -/
  | ldb (n : PE) (sgn : Bool) (d a : BitVec 5) (imm : BitVec 14) (find : BankFind)
  /-- LDH (R84). FEIS LDH and LDHS load two bytes. -/
  | ldh (n : PE) (sgn : Bool) (d a : BitVec 5) (imm : BitVec 14) (find : BankFind)
  /-- LDW (R84). FEIS LDW and LDWS load four bytes. -/
  | ldw (n : PE) (sgn : Bool) (d a : BitVec 5) (imm : BitVec 14) (find : BankFind)
  /-- LDD (R84). FEIS LDD loads eight bytes. -/
  | ldd (n : PE) (d a : BitVec 5) (imm : BitVec 14) (find : BankFind)
  /-- STB (R84). FEIS STB, STH, STW and STD post a store of 1, 2, 4 or 8 bytes. -/
  | stb (n : PE) (size : Fin 4) (d a : BitVec 5) (imm : BitVec 14)
  /-- LDV (R84). FEIS LDV loads 16 bytes into a lane register. -/
  | ldv (n : PE) (d a : BitVec 5) (imm : BitVec 14) (find : BankFind)
  /-- STV (R84). FEIS STV stores a lane register. -/
  | stv (n : PE) (d a : BitVec 5) (imm : BitVec 14)
  /-- AMOADD (R84). FEIS AMOADD performs an atomic add and returns the old value. -/
  | amoadd (n : PE) (d a b : BitVec 5) (x : BitVec 9) (find : BankFind)
  /-- AMOSWP (R84). FEIS AMOSWP performs an atomic swap. -/
  | amoswp (n : PE) (d a b : BitVec 5) (x : BitVec 9) (find : BankFind)
  /-- AMOCAS (R84). FEIS AMOCAS performs an atomic compare-and-swap and sets Z. -/
  | amocas (n : PE) (d a b : BitVec 5) (x : BitVec 9) (find : BankFind)
  /-- AMOAND (R84). FEIS AMOAND performs an atomic AND through the fabric. -/
  | amoand (n : PE) (d a b : BitVec 5) (x : BitVec 9) (find : BankFind)
  /-- AMOOR (R84). FEIS AMOOR performs an atomic OR through the fabric. -/
  | amoor (n : PE) (d a b : BitVec 5) (x : BitVec 9) (find : BankFind)
  /-- LKB (R90). FEIS LKB loads a word, takes the line lock and starts a locked sequence. -/
  | lkb (n : PE) (d a b : BitVec 5) (x : BitVec 9) (find : BankFind)
  /-- LKE (R91). FEIS LKE stores conditionally on the lock and ends the locked sequence. -/
  | lke (n : PE) (d a b : BitVec 5) (x : BitVec 9) (find : BankFind)
  /-- FENCE (R84). FEIS FENCE completes when every earlier memory request has taken effect. -/
  | fence (n : PE) (d a b : BitVec 5) (x : BitVec 9)
  /-- VINS (R84). FEIS VINS inserts A into one half of a lane register. -/
  | vins (n : PE) (d a b : BitVec 5) (x : BitVec 9)
  /-- VEXT (R84). FEIS VEXT extracts one half of a lane register. -/
  | vext (n : PE) (d a b : BitVec 5) (x : BitVec 9)
  /-- FADD (R86). FEIS FADD adds in floating point. -/
  | fadd (n : PE) (d a b : BitVec 5) (x : BitVec 9)
  /-- FSUB (R86). FEIS FSUB subtracts in floating point. -/
  | fsub (n : PE) (d a b : BitVec 5) (x : BitVec 9)
  /-- FMUL (R86). FEIS FMUL multiplies in floating point. -/
  | fmul (n : PE) (d a b : BitVec 5) (x : BitVec 9)
  /-- FMA (R124). FEIS FMA is a fused multiply-add. -/
  | fma (n : PE) (d a b : BitVec 5) (x : BitVec 9)
  /-- FMS (R124). FEIS FMS is a fused multiply-subtract. -/
  | fms (n : PE) (d a b : BitVec 5) (x : BitVec 9)
  /-- FNMA (R124). FEIS FNMA is a negated fused multiply-add. -/
  | fnma (n : PE) (d a b : BitVec 5) (x : BitVec 9)
  /-- FNMS (R124). FEIS FNMS is a negated fused multiply-subtract. -/
  | fnms (n : PE) (d a b : BitVec 5) (x : BitVec 9)
  /-- FMIN (R122). FEIS FMIN returns minimumNumber. -/
  | fmin (n : PE) (d a b : BitVec 5) (x : BitVec 9)
  /-- FMAX (R122). FEIS FMAX returns maximumNumber. -/
  | fmax (n : PE) (d a b : BitVec 5) (x : BitVec 9)
  /-- FCMP (R123). FEIS FCMP compares quietly and sets one of Z, N, C and V. -/
  | fcmp (n : PE) (d a b : BitVec 5) (x : BitVec 9)
  /-- FCMPS (R123). FEIS FCMPS compares with signalling. -/
  | fcmps (n : PE) (d a b : BitVec 5) (x : BitVec 9)
  /-- FABS (R115). FEIS FABS clears the sign bit. -/
  | fabs (n : PE) (d a b : BitVec 5) (x : BitVec 9)
  /-- FNEG (R115). FEIS FNEG inverts the sign bit. -/
  | fneg (n : PE) (d a b : BitVec 5) (x : BitVec 9)
  /-- FSGN (R115). FEIS FSGN takes the magnitude of A with the sign of B. -/
  | fsgn (n : PE) (d a b : BitVec 5) (x : BitVec 9)
  /-- FCLASS (R129). FEIS FCLASS writes a one-hot class code. -/
  | fclass (n : PE) (d a b : BitVec 5) (x : BitVec 9)
  /-- FCVT (R125). FEIS FCVT converts between FP formats. -/
  | fcvt (n : PE) (d a b : BitVec 5) (x : BitVec 9)
  /-- FTOI (R126). FEIS FTOI converts FP to a 64-bit integer. -/
  | ftoi (n : PE) (d a b : BitVec 5) (x : BitVec 9)
  /-- ITOF (R127). FEIS ITOF converts an integer to FP. -/
  | itof (n : PE) (d a b : BitVec 5) (x : BitVec 9)
  /-- FRINT (R128). FEIS FRINT rounds to an integral value. -/
  | frint (n : PE) (d a b : BitVec 5) (x : BitVec 9)
  /-- FDINIT (R132). FEIS FDINIT sets up an FP division or square root and settles the special cases. -/
  | fdinit (n : PE) (d a b : BitVec 5) (x : BitVec 9)
  /-- FDSTEP (R133). FEIS FDSTEP develops two bits of the quotient or root. -/
  | fdstep (n : PE) (d a b : BitVec 5) (x : BitVec 9)
  /-- FDFIN (R134). FEIS FDFIN rounds and writes the final quotient or root. -/
  | fdfin (n : PE) (d a b : BitVec 5) (x : BitVec 9)
  /-- FBAR (R121). FEIS FBAR takes any pending FPTRAP. -/
  | fbar (n : PE) (d a b : BitVec 5) (x : BitVec 9)
  /-- B (R87). FEIS B branches unconditionally. -/
  | b (n : PE) (off : BitVec 24)
  /-- BL (R87). FEIS BL branches and links into g30. -/
  | bl (n : PE) (off : BitVec 24)
  /-- BCC (R88). FEIS Bcc branches when condition CC holds. -/
  | bcc (n : PE) (cc : BitVec 5) (off : BitVec 19)
  /-- JR (R87). FEIS JR jumps to a register address. -/
  | jr (n : PE) (d a b : BitVec 5) (x : BitVec 9)
  /-- JALR (R87). FEIS JALR jumps to a register address and links. -/
  | jalr (n : PE) (d a b : BitVec 5) (x : BitVec 9)
  /-- SYSCALL (R89). FEIS SYSCALL enters vector 9. -/
  | syscall (n : PE) (code : BitVec 24)
  /-- BREAK (R89). FEIS BREAK enters vector 8. -/
  | breakpoint (n : PE) (code : BitVec 24)
  /-- TRAP (R89). FEIS TRAP enters vector n, 32 or above. -/
  | trap (n : PE) (code : BitVec 24)
  /-- GCALL (R340). FEIS GCALL crosses into the other world through a gate descriptor. -/
  | gcall (n : PE) (code : BitVec 24)
  /-- RTE (R339). FEIS RTE pops the return address and ST and returns from an exception. -/
  | rte (n : PE) (code : BitVec 24) (find : BankFind)
  /-- WFI (R358). FEIS WFI waits until an interrupt or doorbell line of its target is high. -/
  | wfi (n : PE) (code : BitVec 24)
  /-- MFST (R89). FEIS MFST reads ST. -/
  | mfst (n : PE) (d a b : BitVec 5) (x : BitVec 9)
  /-- MTST (R69). FEIS MTST writes ST as its level allows. -/
  | mtst (n : PE) (d a b : BitVec 5) (x : BitVec 9)
  /-- MFSR (R73). FEIS MFSR reads a special register. -/
  | mfsr (n : PE) (d a : BitVec 5) (imm : BitVec 14)
  /-- MTSR (R73). FEIS MTSR writes a special register. -/
  | mtsr (n : PE) (d a : BitVec 5) (imm : BitVec 14)
  /-- ISYNC (R77). FEIS ISYNC discards the instruction buffer. -/
  | isync (n : PE) (code : BitVec 24)
  /-- NOP (R89). FEIS NOP does nothing. -/
  | nop (n : PE) (code : BitVec 24)
  /-- CUSTOMER_OPCODE (R178). An opcode in 0xC0–0xEF runs customer microcode, or raises ILLEGAL if the image does not
  define it. -/
  | customerOpcode (n : PE) (word : W64) (defined : Bool)
  /-- BMOV (R100). FEIS BMOV copies a byte range resumably. -/
  | bmov (n : PE) (d a b : BitVec 5) (x : BitVec 9)
  /-- BFIL (R100). FEIS BFIL fills a byte range with a pattern. -/
  | bfil (n : PE) (d a b : BitVec 5) (x : BitVec 9)
  /-- BSCN (R100). FEIS BSCN scans a byte range for a byte value. -/
  | bscn (n : PE) (d a b : BitVec 5) (x : BitVec 9)
  /-- BCMP (R100). FEIS BCMP compares two byte ranges. -/
  | bcmp (n : PE) (d a b : BitVec 5) (x : BitVec 9)
  /-- BSUM (R100). FEIS BSUM computes a CRC-32C or byte sum over a range. -/
  | bsum (n : PE) (d a b : BitVec 5) (x : BitVec 9)
  /-- KCALL (R156). FEIS KCALL runs a kernel chain from a descriptor. -/
  | kcall (n : PE) (d a b : BitVec 5) (x : BitVec 9) (find : BankFind)
  /-- LONG_CHUNK (R96). One chunk of a long instruction is checked, read, written and recorded in its registers. -/
  | longChunk (n : PE) (find : BankFind)
  /-- KERNEL_BLOCK (R159). One kernel block is checked, read, written, and its state and progress are recorded. -/
  | kernelBlock (n : PE) (find : BankFind)
  /-- FLUSHOUT (R152). A write of ENGn_CHSTAT.FLUSHOUT discards the entries of the chain output FIFO. -/
  | flushout (n : PE)
  /-- CHAIN_ENTRY_ARRIVAL (R149). A pushed chain entry becomes visible to the consumer, or a returned credit to the
  producer. -/
  | chainEntryArrival (c : Fin 8) (j : Fin 7) (credit : Bool)
  /-- CS_ERROR_REPAIR (R175). The Spare Manager writes back or remaps a control-store row that has an error. -/
  | csErrorRepair (n : PE) (row : BitVec 13) (again own : Bool)
  /-- CS_SCRUB (R177). Every 256 PERIPH ticks, scrub reads one control-store row of a LOADED store. -/
  | csScrub (n : PE) (find : EccFind)
  /-- CS_CLRCNT (R188). A write of ENGn_CSSTAT.CLRCNT sets CECNT to 0. -/
  | csClrcnt (n : PE)
  /-- ROOT_OF_TRUST_WRITE (R503). The root-of-trust port writes a manifest word, which clears or sets MVALID. -/
  | rootOfTrustWrite (idx : BitVec 4) (data : W32)
  /-- LOADER_START (R183). With MVALID set and the clocks locked, the Loader leaves WAITMAN and clears every store. -/
  | loaderStart
  /-- LOADER_READ_DATA (R183). An image read returns to the Loader, which digests it, checks the header and broadcasts
  the words, or retries or fails on an error. -/
  | loaderReadData (find : BankFind)
  /-- DIGEST_RESULT (R499). The digest engine returns a digest or compare result for a context. -/
  | digestResult (ctx : BitVec 3) (digest : BitVec 384) (ok : Bool)
  /-- DIGEST_REQUEST (R501). The digest arbiter takes a request block sent by MSG and streams its data to a context. -/
  | digestRequest (find : BankFind)
  /-- ACTIVATION_START (R189). A write of ACT_CTRL.START begins an activation with verification, or is refused. -/
  | activationStart (reload : Bool)
  /-- ACTIVATION_ABORT (R194). A write of ACT_CTRL.ABORT stops the activation after the current step. -/
  | activationAbort
  /-- STORE_COPY_DONE (R190). A store-to-store image copy through the maintenance ports completes. -/
  | storeCopyDone (dst : PE)
  /-- ACTIVATION_STEP (R191). The next ROLL or RELOAD step of an activation is applied. -/
  | activationStep
  /-- BANK_SERVE (R200). A Carafe bank serves one waiting request chosen by age, ownership or round robin. -/
  | bankServe (k : BankId) (find : BankFind)
  /-- CARAFE_SCRUB (R209). Every 256 PERIPH ticks, scrub reads one row of a bank that is ON. -/
  | carafeScrub (k : BankId) (find : BankFind)
  /-- SECOND_SOURCE_REFETCH (R211). The DRAM write-buffer copy arrives and the damaged line is repaired, or it is handed
  on to the Intake. -/
  | secondSourceRefetch (k : BankId) (err same stays : Bool)
  /-- BANK_INIT_DONE (R206). A bank entering ON from OFF finishes writing zero rows and becomes ON. -/
  | bankInitDone (k : BankId)
  /-- BANK_CLRCNT (R214). A write of CBn_CTRL.CLRCNT clears the bank's error counters. -/
  | bankClrcnt (k : BankId)
  /-- OWNER_REMAP_APPLY (R201). A changed owner or engine map becomes effective at the bank after synchronisation. -/
  | ownerRemapApply (k : BankId)
  /-- COMMAND_ARRIVAL (R216). The command port accepts one command with its sideband. -/
  | commandArrival (sqe : BitVec 512) (cls : BitVec 3) (sqid : BitVec 16) (capns : Bool) (dir : BitVec 2) (clen xlen : W32) (row : EccFind)
  /-- ADMISSION_AGEING (R222). An admission-queue head reaches AGE microseconds and counts as Urgent. -/
  | admissionAgeing (cls : BitVec 3)
  /-- ADMISSION_GRANT (R230). The Kettle's grant reaches the Intake and the tag moves from ADMIT to QUEUED, or the grant
  is returned if the tag has left. -/
  | admissionGrant
  /-- DISPATCH (R224). The Intake dispatches a queued head command to a group member and writes its dispatch record. -/
  | dispatch (row : EccFind)
  /-- DISPATCH_RECORD_WRITTEN (R227). The record write takes effect, INQ rises, and for LAND the data request is sent.
  -/
  | dispatchRecordWritten (le : LE) (slot : BitVec 6)
  /-- LANDING_BEAT (R493). An inbound Host Shim beat is written to the staging bank and write buffer, or discarded; an
  END beat reports the transfer end. -/
  | landingBeat (tag : BitVec 16) (off : W32) (data : BitVec 512) (ben : BitVec 64) (fin : Bool) (err : BitVec 2) (row : EccFind)
  /-- LAST_BEAT_HELD (R232). The last landing beat is held in the write buffer and the tag moves to LANDED, or to
  POSTING for AUTOCPL. -/
  | lastBeatHeld (tag : BitVec 16)
  /-- INTAKE_TAKE (R228). EXT TAKE returns the oldest untaken dispatch record, or with RETAKE the taken ones. -/
  | intakeTake (n : PE)
  /-- INTAKE_LANDED (R228). EXT LANDED returns a tag's landed byte count. -/
  | intakeLanded (n : PE)
  /-- INTAKE_COMPLETE (R228). EXT COMPLETE decides a tag's completion status and DW0. -/
  | intakeComplete (n : PE) (row : EccFind)
  /-- INTAKE_ABORT (R232). EXT ABORT looks up a tag by SQID and CID and tries to abort it. -/
  | intakeAbort (n : PE)
  /-- INTAKE_RELEASE (R228). EXT RELEASE frees a record slot and staging extent and returns the outcome. -/
  | intakeRelease (n : PE)
  /-- COMPLETION_POSTED (R491). A completion transfers on the completion port and its tag returns to FREE. -/
  | completionPosted
  /-- FLUSH_COMPLETE (R235). A FLUSH completes once INT_DHOR passes its FTARGET. -/
  | flushComplete
  /-- CONTROLLER_RESET (R236). An FE_CRST pulse aborts every allocated tag with SQ Deletion status. -/
  | controllerReset
  /-- CONTROLLER_RESET_DONE (R236). Every tag is FREE and every transfer has ended, so RSTACT clears. -/
  | controllerResetDone
  /-- SECOND_SOURCE_LOOKUP (R241). The Intake finds the landing tag of a write-buffer line and requests a refetch, or
  answers no tag. -/
  | secondSourceLookup (k : BankId)
  /-- WRITE_BUFFER_RELEASE (R226). A write-buffer extent release takes effect at the Intake and INT_DHOR advances. -/
  | writeBufferRelease
  /-- MP_SUBMIT (R253). A write of MP_SUBMIT adds new ring entries for a channel slot, or is ignored with SUBOVF. -/
  | mpSubmit (slot : BitVec 5) (count : BitVec 11)
  /-- DESCRIPTOR_FETCH (R253). A fetched ring entry arrives, or its second fetch error completes the entry as BADDESC.
  -/
  | descriptorFetch (find : BankFind)
  /-- MP_PROG (R254). A PROG descriptor is accepted, installs its map slots if MAP is set, and goes to the channel
  controller. -/
  | mpProg
  /-- MP_READ (R254). A READ descriptor is accepted and sent to the channel controller. -/
  | mpRead
  /-- MP_MREAD (R259). An MREAD descriptor looks up its map slot at acceptance and reads or completes. -/
  | mpMread
  /-- MP_ERASE (R260). An ERASE descriptor is accepted and held until earlier reads complete. -/
  | mpErase
  /-- MP_UNMAP (R256). An UNMAP descriptor installs DEALLOC slots and completes at once. -/
  | mpUnmap
  /-- ERASE_RELEASE (R260). A held ERASE is handed to its controller once every earlier read has completed. -/
  | eraseRelease
  /-- PROGRAM_DATA_REQUEST (R497). An MPW request makes the Media Port read a granule's source and send its eight beats,
  or zero beats after a source error. -/
  | programDataRequest (slot : BitVec 5) (idx : BitVec 15) (gidx : BitVec 12) (find : BankFind)
  /-- READ_DATA (R497). An MPR beat of read data is written to the descriptor's buffer. -/
  | readData (slot : BitVec 5) (idx : BitVec 15) (gidx : BitVec 12) (beat : BitVec 3) (data : BitVec 512) (oob : W128)
  /-- MEDIA_COMPLETION (R258). An MPC completion arrives, releases what REL names on OK, writes the completion entry and
  rings any doorbell. -/
  | mediaCompletion (slot : BitVec 5) (idx : BitVec 15) (fail : Bool)
  /-- JFLUSH (R262). A write of MP_CTRL.JFLUSH closes the open journal block if it holds a record. -/
  | jflush
  /-- JOURNAL_HANDOFF (R262). The oldest closed journal block is given a GRAN and handed off as an internal program. -/
  | journalHandoff
  /-- ADC_SAMPLE (R269). A RAIL or BANK code becomes usable, and E, budget, DEFICIT and the power-fail test are updated.
  -/
  | adcSample (bank : Bool) (code : BitVec 14)
  /-- ADC_LOST (R270). 8 µs pass with no valid sample on a channel and ADCLOST is set. -/
  | adcLost
  /-- KETTLE_CYCLE (R275). In an AON cycle the Kettle applies releases and withdrawals, tests the pending request, and
  serves RESERVE strobes. -/
  | kettleCycle
  /-- RESERVATION_RELEASE (R275). A release from the Media Port, a tag return or a withdrawal becomes usable at the
  Kettle. -/
  | reservationRelease
  /-- KETTLE_RESERVE (R276). EXT RESERVE grants or refuses an amount of energy. -/
  | kettleReserve (n : PE)
  /-- KETTLE_RELEASE (R276). EXT RELEASE returns an amount of reserved energy. -/
  | kettleRelease (n : PE)
  /-- KETTLE_QUERY (R276). EXT QUERY returns KET_HEAD and E. -/
  | kettleQuery (n : PE)
  /-- THROTTLE (R279). The Intake's request has been pending for KET_THRT.US and THROTTLE is set. -/
  | throttle
  /-- TESTPF (R286). A write of KET_CTRL.TESTPF with KEY 0xA5 raises the warning. -/
  | testpf (key : BitVec 8)
  /-- WARNING_ARRIVAL (R288). The power-fail warning becomes usable in an island and that island switches to drain
  behaviour. -/
  | warningArrival (w : Island)
  /-- MOVE_DRAIN_DONE (R303). The source's requests have all taken effect and the fabric stop reports the drain. -/
  | moveDrainDone
  /-- MOVE_TRANSFER_DONE (R304). Frame, configuration and held responses reach the target and the CRC is checked. -/
  | moveTransferDone (crcOk : Bool)
  /-- MOVE_REMAP (R304). The logical-to-physical map switches in one cycle and Distributor targets are swapped. -/
  | moveRemap
  /-- REMAP_ACKNOWLEDGED (R304). Every island acknowledges the remap and the target's start is sent. -/
  | remapAcknowledged (ns : BitVec 16)
  /-- SPM_MOVE (R313). Command MOVE queues a TRAPOK or MACRO move of a logical engine. -/
  | spmMove (mode : Bool) (pe : BitVec 7) (le : LE) (mgmt : Bool)
  /-- SPM_RETIRE (R313). Command RETIRE queues the retirement of a physical engine. -/
  | spmRetire (mode : Bool) (pe : BitVec 7) (le : LE) (mgmt : Bool)
  /-- SPM_RESTORE (R313). Command RESTORE queues the power-up, reload and test of a retired engine. -/
  | spmRestore (mode : Bool) (pe : BitVec 7) (le : LE) (mgmt : Bool)
  /-- SPM_TEST (R313). Command TEST queues the engine test of a SPARE engine. -/
  | spmTest (mode : Bool) (pe : BitVec 7) (le : LE) (mgmt : Bool)
  /-- SPM_RESTART (R313). Command RESTART queues a restart of a STOPPED or OFFLINE logical engine. -/
  | spmRestart (mode : Bool) (pe : BitVec 7) (le : LE) (mgmt : Bool)
  /-- TRANSITION_APPLY (R314). The Spare Manager applies the next queued transition wholly and logs it. -/
  | transitionApply
  /-- ENGINE_TEST_DONE (R311). The 65,536-tick engine test ends and the engine becomes SPARE or RETIRED. -/
  | engineTestDone (n : PE) (pass : Bool)
  /-- WEAR_SAMPLE (R312). At the end of a sampling period, the retry rise is checked against RETRYLIM and an engine may
  become WORN. -/
  | wearSample
  /-- MIRROR_UPDATE (R317). A changed summary word reaches the AON mirror, and MSEQ follows the last one. -/
  | mirrorUpdate
  /-- RGP_COMMIT (R330). A write of ENGn_RGP commits the staged region entry. -/
  | rgpCommit (n : PE) (en : Bool) (perm : BitVec 12)
  /-- WATCHDOG_EXPIRY (R343). The watchdog count reaches 0, giving a first expiry micro-trap or an engine reset. -/
  | watchdogExpiry (n : PE)
  /-- WATCHDOG_SERVICE (R344). A write of ENGn_WDG_SVC with KEY 0xA5 reloads the count and clears EXP1. -/
  | watchdogService (n : PE) (key : Byte)
  /-- SERVICE (R344). EXT watchdog SERVICE reloads the count and clears EXP1. -/
  | service (n : PE)
  /-- SOURCE_EVENT (R348). An interrupt source's edge event or level input changes PENDING, and may raise a line or a
  wake request. -/
  | sourceEvent (x : BitVec 10)
  /-- DIST_CLAIM (R352). A read of DIST_CLAIMt claims the highest-priority claimable source. -/
  | distClaim (t : Fin 144)
  /-- DIST_COMPLETE (R354). A write of DIST_COMPLETEt clears a source's ACTIVE and re-samples a level source. -/
  | distComplete (t : Fin 144) (x : BitVec 10)
  /-- DIST_PENDSET (R348). A write of DIST_PENDSET sets pending bits or rings doorbells. -/
  | distPendset (r : Fin 32) (w : W32)
  /-- CLAIM (R359). EXT CLAIM claims for the engine's own target. -/
  | claim (n : PE)
  /-- COMPLETE (R359). EXT COMPLETE completes a source for the engine's own target. -/
  | complete (n : PE)
  /-- RING (R359). EXT RING rings a doorbell or software source. -/
  | ring (n : PE)
  /-- TIMER_EXPIRY (R363). A timer channel's COUNT reaches 0 and its event fires. -/
  | timerExpiry (c : Fin 64)
  /-- TIMER_ARM (R364). A write of TCc_CTRL.ARM arms the channel from LOAD. -/
  | timerArm (c : Fin 64)
  /-- TIMER_STOP (R364). A write of TCc_CTRL.STOP stops the channel. -/
  | timerStop (c : Fin 64)
  /-- TIMER_CLRCNT (R384). A write of TCc_STAT.CLRCNT clears EXPCNT. -/
  | timerClrcnt (c : Fin 64)
  /-- ARM (R370). EXT timer ARM writes LOAD and arms a channel. -/
  | arm (n : PE)
  /-- STOP (R370). EXT timer STOP stops a channel. -/
  | stop (n : PE)
  /-- READ (R370). EXT timer READ returns COUNT and status. -/
  | read (n : PE)
  /-- READCAP (R370). EXT READCAP returns one capture event and takes its snapshot. -/
  | readcap (n : PE)
  /-- GROUP_GO (R367). A write of TMR_GCTRL.GO starts the group or sets a timed start pending. -/
  | groupGo (timed : Bool)
  /-- GROUP_CANCEL (R367). A write of TMR_GCTRL.CANCEL withdraws a pending timed start. -/
  | groupCancel
  /-- GROUP_START (R367). A timed group start falls due when TNOW reaches TMR_GAT and arms the named channels. -/
  | groupStart
  /-- PHASE_DELAY_END (R367). A channel's PHASE delay expires and it starts counting. -/
  | phaseDelayEnd (c : Fin 64)
  /-- CAPTURE_EDGE (R372). A filtered capture edge is accepted, and a second edge publishes an event. -/
  | captureEdge (c : Fin 16) (rising : Bool) (dt : W32)
  /-- CAPR_READ (R373). A read of TCc_CAPR returns RISE, takes the snapshot and clears NEW. -/
  | caprRead (c : Fin 16)
  /-- TIME_LOAD (R377). A write of TIME_CTRL.LOAD sets TNOW from TIME_SET. -/
  | timeLoad
  /-- ALARM_CLEAR (R382). A write of TIME_CTRL.ALCLR disarms the alarm. -/
  | alarmClear
  /-- TIME_ADJ (R377). A write of TIME_ADJ adds a signed value to TNOW. -/
  | timeAdj (ns : W32)
  /-- ALARM_ARM (R382). A write of TIME_ALARM_LO arms the alarm. -/
  | alarmArm (lo : W32)
  /-- ALARM (R382). TNOW reaches the alarm time and the ALARM event is set. -/
  | alarm
  /-- TIME_PORT_EVENT (R378). A TP_STB edge latches TNOW and computes the offset theta. -/
  | timePortEvent (ns : W64) (frac : BitVec 16) (close : Bool) (dt : W32)
  /-- SERVO_RESULT (R379). Four AON ticks after a capture, the servo steps TNOW or sets a new TIME_INC. -/
  | servoResult
  /-- TPMISS (R380). TPGAP milliseconds pass without an event and the counter goes into holdover. -/
  | tpmiss
  /-- AXIS_INCREMENT (R389). An accepted A/B change counts one increment, with the reversal test. -/
  | axisIncrement (a : Fin 2) (la lb : Bool)
  /-- SINCOS_SAMPLE (R390). A sine/cosine sample is processed into an interpolated increment, or raises AMP or OVERSPD.
  -/
  | sincosSample (a : Fin 2) (sin cos : BitVec 16)
  /-- SAMPLOST (R390). No sine/cosine strobe arrives for 500 ticks. -/
  | samplost (a : Fin 2)
  /-- SPEED_WINDOW_END (R393). A speed window ends and SPD, STALE and REVWIN are published. -/
  | speedWindowEnd (a : Fin 2)
  /-- SPDWIN_WRITE (R393). A write of AXa_SPDWIN ends the current window without a result. -/
  | spdwinWrite (a : Fin 2) (win : BitVec 17)
  /-- INDEX (R395). An accepted Z edge latches the index, and homes or corrects the position. -/
  | index (a : Fin 2)
  /-- PROBE (R397). An accepted probe edge latches the position and TNOW. -/
  | probe (a : Fin 2) (rising : Bool) (dt : W32)
  /-- PRBLO_READ (R397). A read of AXa_PRBLO snapshots the probe latch. -/
  | prbloRead (a : Fin 2)
  /-- AXIS_LOAD (R391). A write of AXa_CTRL.LOAD sets the position from PRESET. -/
  | axisLoad (a : Fin 2)
  /-- CNTCLR (R410). A write of AXa_CTRL.CNTCLR clears ADJCNT and FLTCNT. -/
  | cntclr (a : Fin 2)
  /-- EMULATOR_STEP (R398). The emulated count moves one step toward the position and the outputs change. -/
  | emulatorStep (a : Fin 2)
  /-- SLOT_AGED (R403). A PENDING slot's age reaches AGE and the slot is freed. -/
  | slotAged (slot : BitVec 10)
  /-- LOOKUP (R405). EXT Crema LOOKUP finds and holds the slot of a frame number. -/
  | lookup (n : PE)
  /-- CONSUME (R405). EXT Crema CONSUME frees a slot held by this logical engine. -/
  | consume (n : PE)
  /-- COUNT (R405). EXT Crema COUNT increments the length and header counters. -/
  | count (n : PE)
  /-- SLOTCLR (R409). A write of CREMA_SLOTCLR frees one slot or all slots. -/
  | slotclr (all : Bool) (slot : BitVec 10)
  /-- PS_PINS (R416). Pin Sequencer step PINS sets OUT or OE bits. -/
  | psPins (n : Fin 16)
  /-- PS_WAITFOR (R416). Pin Sequencer step WAITFOR completes when its source condition holds, with optional strobe,
  event and flag clear. -/
  | psWaitfor (n : Fin 16) (pins : W32)
  /-- PS_SEND (R418). Pin Sequencer step SEND drives an N-bit group from SER. -/
  | psSend (n : Fin 16)
  /-- PS_TAKE (R418). Pin Sequencer step TAKE samples pins into DES. -/
  | psTake (n : Fin 16) (pins : W32)
  /-- PS_LOADS (R416). Pin Sequencer step LOADS loads SER from the send FIFO. -/
  | psLoads (n : Fin 16)
  /-- PS_STORED (R416). Pin Sequencer step STORED pushes DES into the receive FIFO. -/
  | psStored (n : Fin 16)
  /-- PS_TALLY (R416). Pin Sequencer step TALLY sets or adds to a tally. -/
  | psTally (n : Fin 16)
  /-- PS_REPEAT (R416). Pin Sequencer step REPEAT decrements a tally and loops. -/
  | psRepeat (n : Fin 16)
  /-- PS_BRANCH (R416). Pin Sequencer step BRANCH jumps on a condition. -/
  | psBranch (n : Fin 16) (pins : W32)
  /-- PS_FLAG (R416). Pin Sequencer step FLAG sets or clears a shared flag. -/
  | psFlag (n : Fin 16)
  /-- PS_STROBE (R416). Pin Sequencer step STROBE sends the Crema strobe or an event. -/
  | psStrobe (n : Fin 16)
  /-- PS_HALT (R416). Pin Sequencer step HALT stops the sequencer. -/
  | psHalt (n : Fin 16)
  /-- PS_PAUSE (R416). Pin Sequencer step PAUSE waits T[n] + 1 cycles. -/
  | psPause (n : Fin 16)
  /-- PS_BADOP (R416). A reserved opcode or encoding halts the sequencer with BADOP. -/
  | psBadop (n : Fin 16)
  /-- PS_STALL_END (R417). A stalled step's condition ends and the step completes. -/
  | psStallEnd (n : Fin 16) (pins : W32)
  /-- PS_DWELL_END (R417). The DWELL idle cycles end and the next step is fetched. -/
  | psDwellEnd (n : Fin 16)
  /-- PS_STEPDATA_WRITE (R415). A write of PSn_STEPDATA writes a step word and advances STEPADDR. -/
  | psStepdataWrite (n : Fin 16) (w : W32)
  /-- PS_INJECT (R422). A write of PSn_INJECT sets an injected step pending. -/
  | psInject (n : Fin 16) (w : W32)
  /-- PS_INJECT_EXEC (R423). The injected step executes at the next boundary, abandoning a stall if INJ_FORCE is set. -/
  | psInjectExec (n : Fin 16) (pins : W32)
  /-- PS_SNDF_PUSH (R419). A write of PSn_SNDF pushes a word into the send FIFO. -/
  | psSndfPush (n : Fin 16) (w : W32)
  /-- PS_RCVF_READ (R419). A read of PSn_RCVF pops the receive FIFO. -/
  | psRcvfRead (n : Fin 16)
  /-- PS_CLKRST (R414). A write of PSn_CTRL.CLKRST restarts the divider. -/
  | psClkrst (n : Fin 16)
  /-- PS_RESTART (R423). A write of PSn_CTRL.RESTART resets PC and the shift registers. -/
  | psRestart (n : Fin 16)
  /-- PS_FIFOCLR (R423). A write of PSn_CTRL.FIFOCLR empties both FIFOs. -/
  | psFifoclr (n : Fin 16)
  /-- PS_FLAGS_WRITE (R420). A write of PS_FLAGS sets or clears the shared flags. -/
  | psFlagsWrite (w : W32)
  /-- PS_GO (R421). A write of PS_GCTRL.GO starts the named sequencers or sets a timed start pending. -/
  | psGo (timed : Bool) (mask : BitVec 16)
  /-- PS_GSTOP (R421). A write of PS_GCTRL.STOP clears EN of the named sequencers. -/
  | psGstop (mask : BitVec 16)
  /-- PS_GROUP_START (R421). A timed Pin Sequencer start falls due and enables the named sequencers. -/
  | psGroupStart
  /-- LINK_UP (R430). An enabled ring link finishes training and becomes UP. -/
  | linkUp (l : Fin 4)
  /-- LINK_DOWN (R430). A link sees nothing for 1 µs, or is disabled, and goes DOWN, returning its credits. -/
  | linkDown (l : Fin 4)
  /-- LINK_ECHO (R431). The 1 ms echo updates the peer ID and round-trip time. -/
  | linkEcho (l : Fin 4) (id rtt : BitVec 16)
  /-- CENSUS_SEND (R433). Each census period, a census message is built and sent on the forwarding links. -/
  | censusSend
  /-- CENSUS_RECEIVE (R434). An arriving census is aged and written to the event queue and forwarded, or dropped. -/
  | censusReceive (l : Fin 4) (msg : BitVec 512)
  /-- CREDIT_PUSH (R435). A write of RING_CRPUSH offers a spill credit on a link. -/
  | creditPush (l : BitVec 2) (size : BitVec 5)
  /-- CREDIT_RECEIVE (R435). A credit arrives from the neighbour and RCRED increments. -/
  | creditReceive (l : Fin 4) (size : BitVec 5)
  /-- RING_SUBMIT (R436). A write of RING_SUBMIT queues spill descriptors. -/
  | ringSubmit (n : BitVec 9)
  /-- SPILL_START (R437). A head descriptor obtains a credit and streams its unit to the neighbour. -/
  | spillStart (l : Fin 4) (find : BankFind)
  /-- NOCRED (R438). No credit arrives within SPTMO and the descriptor completes NOCRED. -/
  | nocred (l : Fin 4)
  /-- SPILL_RECEIVE (R437). The last spill byte lands at the receiver, which writes SPILLIN and answers SACK. -/
  | spillReceive (l : Fin 4) (frame : W32) (data : List Byte)
  /-- SACK (R437). SACK reaches the sender, which releases the write buffer and energy and writes SPILLDONE. -/
  | sack (l : Fin 4) (a : SpillAnswer)
  /-- SPILL_TIMEOUT (R438). No SACK arrives within SPTMO and the spill completes TIMEOUT. -/
  | spillTimeout (l : Fin 4)
  /-- ENGINE_DOMAIN_REQUEST (R445). A write of PWR_ENGn.REQ requests an engine domain state change. -/
  | engineDomainRequest (n : PE) (dest : BitVec 2) (auto : Bool)
  /-- BANK_DOMAIN_REQUEST (R445). A write of PWR_BANKn.REQ requests a bank domain state change. -/
  | bankDomainRequest (k : BankId) (dest : BitVec 2)
  /-- PERIOFF (R445). A write of PWR_CTRL.PERIOFF switches PD4 off or on. -/
  | perioff (off : Bool)
  /-- RINGOFF (R445). A write of PWR_CTRL.RINGOFF switches PD5 off or on. -/
  | ringoff (off : Bool)
  /-- DOMAIN_DONE (R445). A domain request completes with DOMDONE, or is refused with DOMREF. -/
  | domainDone
  /-- DRIP_ENTER (R448). A write of PWR_DRIP.ENTER begins Drip entry, or is refused with a cause. -/
  | dripEnter
  /-- DRIP_OFF (R449). Freezing, saving, banks and shadow are done and the domains switch off into Drip. -/
  | dripOff
  /-- PWR_WAKE (R453). The PWR_WAKE input asks for a wake from Drip. -/
  | pwrWake (level : Bool)
  /-- WAKE (R453). A write of PWR_CTRL.WAKE from the debug bus asks for a wake. -/
  | wake
  /-- DRIP_WAKE (R452). A wake request is usable and the 40 µs wake sequence begins. -/
  | dripWake
  /-- WAKE_COMPLETE (R452). At 40 µs every logical engine resumes and DRIP clears. -/
  | wakeComplete
  /-- TAP_RESET (R459). The TAP controller resets and IDCODE is loaded. -/
  | tapReset
  /-- UPDATE_IR (R460). Update-IR selects an instruction, or BYPASS with DENIED. -/
  | updateIr (code : BitVec 4)
  /-- MEMADDR (R461). Update-DR of MEMADDR issues a read or loads a write address. -/
  | memaddr (v : BitVec 50)
  /-- MEMDATA (R461). Update-DR of MEMDATA issues a write, and Capture-DR returns status and data. -/
  | memdata (x : DrScan 34)
  /-- OBSADDR (R462). Update-DR of OBSADDR issues a register-window read. -/
  | obsaddr (v : BitVec 19)
  /-- OBSDATA (R462). Capture-DR of OBSDATA returns the observed register. -/
  | obsdata (x : DrScan 34)
  /-- TRACE (R476). Capture-DR of TRACE moves the oldest trace record out of the buffer. -/
  | trace
  /-- PORTSTAT (R460). Update-DR of PORTSTAT clears sticky bits or performs the debug reset. -/
  | portstat (x : DrScan 16)
  /-- DEBUG_ACCESS_DONE (R461). An outstanding debug bus access completes with OK or ERR. -/
  | debugAccessDone (find : BankFind)
  /-- HALT (R465). A write of ENGn_DBGCTL.HALT raises a halt request. -/
  | halt (n : PE)
  /-- RESUME (R466). A write of ENGn_DBGCTL.RESUME releases a clock-stop halt. -/
  | resume (n : PE)
  /-- STEP (R468). A write of ENGn_DBGCTL.STEP releases the halt and raises a new one. -/
  | step (n : PE)
  /-- CANCEL (R465). A write of ENGn_DBGCTL.CANCEL withdraws a pending halt request. -/
  | cancel (n : PE)
  /-- DBGRD_COMMIT (R470). A write of ENGn_DBGRD_HI commits a halted engine's selected element. -/
  | dbgrdCommit (n : PE) (hi : W32)
  /-- CMPCTL_COMMIT (R471). A write of ENGn_CMPCTL commits the staged comparator values. -/
  | cmpctlCommit (n : PE) (v : W32)
  /-- XRESUME (R469). A write of DBG_XRESUME.GO releases every halted member of the halt group. -/
  | xresume
  /-- DRESET (R480). A write of DBG_CTRL.DRESET performs the debug reset. -/
  | dreset
  /-- DBG_PWRREQ (R480). The DBG_PWRREQ input switches PD1 on or off, with a debug reset. -/
  | dbgPwrreq (level : Bool)
  /-- PMC_CLR (R482). A write of ENGn_PMCTL.CLR sets every engine counter to 0. -/
  | pmcClr (n : PE)
  /-- GPC_CLR (R478). A write of GPCTL.CLR sets every global counter to 0. -/
  | gpcClr
  /-- VT_DTX_PUSH (R479). A write of VTk_DTX pushes a word to the debugger. -/
  | vtDtxPush (k : Fin 8) (v : W32)
  /-- VT_DRX_PUSH (R479). A write of VTk_DRX pushes a word to the engines. -/
  | vtDrxPush (k : Fin 8) (v : W32)
  /-- VT_DRX_READ (R479). A read of VTk_DRX pops a word. -/
  | vtDrxRead (k : Fin 8) (peek : Bool)
  /-- POPTX (R479). A write of VTk_CTL.POPTX pops the DTX head. -/
  | poptx (k : Fin 8)
  /-- VT_FLUSH (R483). A write of VTk_CTL.FLUSH empties both terminal FIFOs. -/
  | vtFlush (k : Fin 8)
  /-- DRAM_RESPONSE (R495). A DRAM Port response arrives, with data or an error, for its requester. -/
  | dramResponse (k : BitVec 10) (err : Bool)
  /-- OUTBOUND_READ (R494). The front end issues an outbound read on HS_RD and the block returns the beats. -/
  | outboundRead (id : Byte) (addr : Addr) (lines : Byte) (errs : BitVec 255)
  /-- DRAM_PORT_REQUEST (R520). A request reaches the DRAM Port, which answers an out-of-window offset with an error,
  applies the lock-slot rules for LKRD, STCX, AMO and writes, and presents it on DRc_RQ when RQ_READY allows. -/
  | dramPortRequest (c : Fin 4)
  /-- MEDIA_DESCRIPTOR_HANDOFF (R497). An accepted descriptor transfers on MPD to its channel controller in a cycle in
  which VALID and READY[SLOT] are both high. -/
  | mediaDescriptorHandoff (slot : BitVec 5)
  /-- DATA_REQUEST_SENT (R227). The Intake's data request transfers on HSn_DRQ when the front end raises READY, and the
  tag's DREQ bit is set. -/
  | dataRequestSent
deriving DecidableEq, Repr

end Sys2Proof
end

