-- ==== Sys2Proof/Config.lean ====
section
/-! DEFINITION. What an implementation or its integration fixes (the stamped values of R2, R183, R504) and the free
values: each is an opaque constant without a body, so nothing can be proved of its value. -/
namespace Sys2Proof.Config

/-! ## Stamped at integration (R2, R504) -/

/-- INTEG_CHAN.PRESENT (R504), held modulo 2^32. -/
opaque chanPresent : Nat
/-- INTEG_DRAM.GIB (R504). -/
opaque dramGib : Nat
/-- INTEG_OPT.FECLS (R504). -/
opaque feCls : Nat
/-- INTEG_OPT.AX0 (R504). -/
opaque axis0 : Nat
/-- INTEG_OPT.AX1 (R504). -/
opaque axis1 : Nat
/-- INTEG_OPT.RING (R504). -/
opaque ring : Nat
/-- INTEG_MFR.MFR (R504). -/
opaque mfr : Nat
/-- LDR_IMGADDR (R186): the address of the boot image in the DRAM window. -/
opaque imgAddr : Nat

/-! ## Free values: log entry 3 says how each is drawn -/

/-- A free 64-bit value (log entry 3). -/
opaque freeWord : Nat → W64
/-- A free byte (log entry 3). -/
opaque freeByte : Nat → Nat → Byte

end Sys2Proof.Config
end

