-- ==== Sys2Proof/Machine/RegMap.lean ====
section
/-! DEFINITION. The register window: every field of every register of the spec's register tables, with its
offset, bits, access code and reset value (R3, R10 to R14, R508 to R519 and the table each comment names). -/
namespace Sys2Proof.Machine

/-- The access codes of R12. -/
inductive Acc where
  | rw | ro | wo | w1s | w1c
deriving DecidableEq, Repr

/-- One field of one register: its window offset, its lowest bit, its width, its access code and the value it
holds at reset. -/
structure Fld where
  off : Nat
  lo : Nat
  w : Nat
  acc : Acc
  rst : Nat
deriving DecidableEq, Repr

/-- The key a field's value is held under: its register's offset and its lowest bit. -/
def Fld.key (f : Fld) : Nat := f.off * 32 + f.lo

/-- A register of the window or an array of them: the base offset, up to two counts with their strides, and the
fields of the register at those indices. -/
structure RegRow where
  base : Nat
  count1 : Nat
  stride1 : Nat
  count2 : Nat
  stride2 : Nat
  fields : Nat → Nat → List Fld

end Sys2Proof.Machine

namespace Sys2Proof.Machine.R
/-! 00_scope.md, R3 -/
def LC_STATE_STATE : Fld := ⟨0x8, 0, 2, .ro, 1⟩

/-! 02_sequencer_and_microword.md, R66 -/
def ENG_CLK_BADSTEP (i : Nat) : Fld := ⟨0x40010 + i * 0x100, 10, 1, .w1c, 0⟩
def ENG_CLK_PENDING (i : Nat) : Fld := ⟨0x40010 + i * 0x100, 9, 1, .ro, 0⟩
def ENG_CLK_LOCKED (i : Nat) : Fld := ⟨0x40010 + i * 0x100, 8, 1, .ro, 1⟩
def ENG_CLK_FSTEP (i : Nat) : Fld := ⟨0x40010 + i * 0x100, 0, 7, .rw, 0x40⟩

/-! 02_sequencer_and_microword.md, R67 -/
def ENG_USTAT_WRERR (i : Nat) : Fld := ⟨0x40014 + i * 0x100, 27, 1, .w1c, 0⟩
def ENG_USTAT_MSGDROP (i : Nat) : Fld := ⟨0x40014 + i * 0x100, 26, 1, .w1c, 0⟩
def ENG_USTAT_HALTED (i : Nat) : Fld := ⟨0x40014 + i * 0x100, 25, 1, .ro, 0⟩
def ENG_USTAT_UTIN (i : Nat) : Fld := ⟨0x40014 + i * 0x100, 24, 1, .ro, 0⟩
def ENG_USTAT_LASTCAUSE (i : Nat) : Fld := ⟨0x40014 + i * 0x100, 16, 8, .ro, 0⟩
def ENG_USTAT_UTPC (i : Nat) : Fld := ⟨0x40014 + i * 0x100, 0, 13, .ro, 0⟩

/-! 03_feis_instruction_set.md, R94 -/
def ENG_LKSTAT_BRKCAUSE (i : Nat) : Fld := ⟨0x40018 + i * 0x100, 16, 2, .ro, 0⟩
def ENG_LKSTAT_LKCNT (i : Nat) : Fld := ⟨0x40018 + i * 0x100, 8, 7, .ro, 0⟩
def ENG_LKSTAT_LOCKBREAK (i : Nat) : Fld := ⟨0x40018 + i * 0x100, 1, 1, .w1c, 0⟩
def ENG_LKSTAT_LKACT (i : Nat) : Fld := ⟨0x40018 + i * 0x100, 0, 1, .ro, 0⟩

/-! 05_stream_lane_and_kernels.md, R151 -/
def ENG_CHSTAT_FLUSHOUT (i : Nat) : Fld := ⟨0x4001c + i * 0x100, 26, 1, .wo, 0⟩
def ENG_CHSTAT_OUTLVL (i : Nat) : Fld := ⟨0x4001c + i * 0x100, 16, 6, .ro, 0⟩
def ENG_CHSTAT_INLVL (i : Nat) : Fld := ⟨0x4001c + i * 0x100, 8, 6, .ro, 0⟩

/-! 06_control_store_and_loading.md, R186 -/
def LDR_STAT_MVALID : Fld := ⟨0x104, 16, 1, .ro, 0⟩
def LDR_STAT_CAUSE : Fld := ⟨0x104, 8, 4, .ro, 0⟩
def LDR_STAT_PHASE : Fld := ⟨0x104, 0, 3, .ro, 0⟩

def LDR_IMGADDR_LO_ADDR : Fld := ⟨0x108, 0, 32, .ro, Config.imgAddr % 2 ^ 32⟩

def LDR_IMGADDR_HI_ADDR : Fld := ⟨0x10c, 0, 16, .ro, Config.imgAddr / 2 ^ 32 % 2 ^ 16⟩

def LDR_MANIFEST_DIG (i : Nat) : Fld := ⟨0x110 + i * 0x4, 0, 32, .ro, 0⟩

/-! 06_control_store_and_loading.md, R188 -/
def ENG_CSVER_DIGPFX (i : Nat) : Fld := ⟨0x40020 + i * 0x100, 16, 16, .ro, 0⟩
def ENG_CSVER_MAJOR (i : Nat) : Fld := ⟨0x40020 + i * 0x100, 12, 4, .ro, 0⟩
def ENG_CSVER_MINOR (i : Nat) : Fld := ⟨0x40020 + i * 0x100, 8, 4, .ro, 0⟩
def ENG_CSVER_PATCH (i : Nat) : Fld := ⟨0x40020 + i * 0x100, 4, 4, .ro, 0⟩
def ENG_CSVER_MSFV (i : Nat) : Fld := ⟨0x40020 + i * 0x100, 0, 4, .ro, 0⟩

def ENG_CSSTAT_IMGST (i : Nat) : Fld := ⟨0x40024 + i * 0x100, 30, 2, .ro, 0⟩
def ENG_CSSTAT_SPUSED (i : Nat) : Fld := ⟨0x40024 + i * 0x100, 16, 7, .ro, 0⟩
def ENG_CSSTAT_CECNT (i : Nat) : Fld := ⟨0x40024 + i * 0x100, 8, 8, .ro, 0⟩
def ENG_CSSTAT_CLRCNT (i : Nat) : Fld := ⟨0x40024 + i * 0x100, 7, 1, .wo, 0⟩
def ENG_CSSTAT_UEPEND (i : Nat) : Fld := ⟨0x40024 + i * 0x100, 0, 1, .ro, 0⟩

def ENG_CSERR_REMAPPED (i : Nat) : Fld := ⟨0x40028 + i * 0x100, 17, 1, .ro, 0⟩
def ENG_CSERR_UE (i : Nat) : Fld := ⟨0x40028 + i * 0x100, 16, 1, .ro, 0⟩
def ENG_CSERR_ROW (i : Nat) : Fld := ⟨0x40028 + i * 0x100, 0, 13, .ro, 0⟩

/-! 06_control_store_and_loading.md, R195 -/
def ACT_CTRL_MODE : Fld := ⟨0x2100, 8, 1, .rw, 0⟩
def ACT_CTRL_ABORT : Fld := ⟨0x2100, 1, 1, .wo, 0⟩
def ACT_CTRL_START : Fld := ⟨0x2100, 0, 1, .wo, 0⟩

def ACT_STAT_MSFVCHG : Fld := ⟨0x2104, 16, 1, .ro, 0⟩
def ACT_STAT_CAUSE : Fld := ⟨0x2104, 12, 4, .ro, 0⟩
def ACT_STAT_STEPS : Fld := ⟨0x2104, 8, 4, .ro, 0⟩
def ACT_STAT_CLUSTER : Fld := ⟨0x2104, 4, 3, .ro, 0⟩
def ACT_STAT_PHASE : Fld := ⟨0x2104, 0, 3, .ro, 0⟩

def ACT_IMGADDR_LO_ADDR : Fld := ⟨0x2108, 0, 32, .rw, 0⟩

def ACT_IMGADDR_HI_ADDR : Fld := ⟨0x210c, 0, 16, .rw, 0⟩

/-! 07_carafe_banks.md, R214 -/
def CB_CTRL_CLRCNT (i : Nat) : Fld := ⟨0x20000 + i * 0x20, 31, 1, .wo, 0⟩
def CB_CTRL_DRIPPOL (i : Nat) : Fld := ⟨0x20000 + i * 0x20, 8, 1, .rw, 0⟩
def CB_CTRL_OWNER (i : Nat) : Fld := ⟨0x20000 + i * 0x20, 0, 6, .rw, i⟩

def CB_STAT_SPFULL (i : Nat) : Fld := ⟨0x20004 + i * 0x20, 23, 1, .ro, 0⟩
def CB_STAT_SPUSED (i : Nat) : Fld := ⟨0x20004 + i * 0x20, 16, 7, .ro, 0⟩
def CB_STAT_LOCKS (i : Nat) : Fld := ⟨0x20004 + i * 0x20, 8, 7, .ro, 0⟩
def CB_STAT_INIT (i : Nat) : Fld := ⟨0x20004 + i * 0x20, 2, 1, .ro, 0⟩
def CB_STAT_PSTATE (i : Nat) : Fld := ⟨0x20004 + i * 0x20, 0, 2, .ro, 0⟩

def CB_ECCCNT_UECNT (i : Nat) : Fld := ⟨0x20008 + i * 0x20, 24, 8, .ro, 0⟩
def CB_ECCCNT_RFCNT (i : Nat) : Fld := ⟨0x20008 + i * 0x20, 16, 8, .ro, 0⟩
def CB_ECCCNT_CECNT (i : Nat) : Fld := ⟨0x20008 + i * 0x20, 0, 16, .ro, 0⟩

def CB_ERRADDR_DROPST (i : Nat) : Fld := ⟨0x2000c + i * 0x20, 19, 1, .ro, 0⟩
def CB_ERRADDR_REFETCHED (i : Nat) : Fld := ⟨0x2000c + i * 0x20, 18, 1, .ro, 0⟩
def CB_ERRADDR_REMAPPED (i : Nat) : Fld := ⟨0x2000c + i * 0x20, 17, 1, .ro, 0⟩
def CB_ERRADDR_UE (i : Nat) : Fld := ⟨0x2000c + i * 0x20, 16, 1, .ro, 0⟩
def CB_ERRADDR_LINE (i : Nat) : Fld := ⟨0x2000c + i * 0x20, 0, 14, .ro, 0⟩

def CB_EVT_HOSTRF (i : Nat) : Fld := ⟨0x20010 + i * 0x20, 3, 1, .w1c, 0⟩
def CB_EVT_SPFULL (i : Nat) : Fld := ⟨0x20010 + i * 0x20, 2, 1, .w1c, 0⟩
def CB_EVT_DROPST (i : Nat) : Fld := ⟨0x20010 + i * 0x20, 1, 1, .w1c, 0⟩
def CB_EVT_UNREP (i : Nat) : Fld := ⟨0x20010 + i * 0x20, 0, 1, .w1c, 0⟩

def CB_SCRUB_ACTIVE (i : Nat) : Fld := ⟨0x20014 + i * 0x20, 16, 1, .ro, 0⟩
def CB_SCRUB_NEXT (i : Nat) : Fld := ⟨0x20014 + i * 0x20, 0, 15, .ro, 0⟩

def CB_ARB_LASTRQ (i : Nat) : Fld := ⟨0x20018 + i * 0x20, 8, 7, .ro, 0x4b⟩
def CB_ARB_ENTRIES (i : Nat) : Fld := ⟨0x20018 + i * 0x20, 0, 5, .ro, 0⟩

def CB_WAITCNT_COUNT (i : Nat) : Fld := ⟨0x2001c + i * 0x20, 0, 32, .ro, 0⟩

/-! 08_intake_and_tags.md, R243 -/
def INT_CTRL_AGE : Fld := ⟨0x4000, 24, 8, .rw, 0⟩
def INT_CTRL_HOLD : Fld := ⟨0x4000, 1, 1, .rw, 0⟩
def INT_CTRL_EN : Fld := ⟨0x4000, 0, 1, .rw, 0⟩

def INT_STAT_HELD : Fld := ⟨0x4004, 18, 1, .ro, 0⟩
def INT_STAT_RSTACT : Fld := ⟨0x4004, 17, 1, .ro, 0⟩
def INT_STAT_INUSE : Fld := ⟨0x4004, 0, 17, .ro, 0⟩

def INT_EVT_HELD : Fld := ⟨0x4008, 7, 1, .w1c, 0⟩
def INT_EVT_HWM : Fld := ⟨0x4008, 6, 1, .w1c, 0⟩
def INT_EVT_RSTDONE : Fld := ⟨0x4008, 5, 1, .w1c, 0⟩
def INT_EVT_TUE : Fld := ⟨0x4008, 4, 1, .w1c, 0⟩
def INT_EVT_DUPCID : Fld := ⟨0x4008, 3, 1, .w1c, 0⟩
def INT_EVT_NOFIT : Fld := ⟨0x4008, 2, 1, .w1c, 0⟩
def INT_EVT_LENERR : Fld := ⟨0x4008, 1, 1, .w1c, 0⟩
def INT_EVT_ABORTC : Fld := ⟨0x4008, 0, 1, .w1c, 0⟩

def INT_HWM_HWM : Fld := ⟨0x400c, 0, 17, .rw, 0x10000⟩

def INT_CSEQ_CSEQ : Fld := ⟨0x4010, 0, 32, .ro, 0⟩

def INT_DHOR_DHOR : Fld := ⟨0x4014, 0, 32, .ro, 1⟩

def INT_Q_COUNT (i : Nat) : Fld := ⟨0x4018 + i * 0x4, 0, 17, .ro, 0⟩

def INT_ABCNT_NOTCAUGHT : Fld := ⟨0x402c, 16, 16, .ro, 0⟩
def INT_ABCNT_CAUGHT : Fld := ⟨0x402c, 0, 16, .ro, 0⟩

def INT_LENCNT_COUNT : Fld := ⟨0x4030, 0, 32, .ro, 0⟩

def INT_TERR_CECNT : Fld := ⟨0x4034, 24, 8, .ro, 0⟩
def INT_TERR_UE : Fld := ⟨0x4034, 16, 1, .ro, 0⟩
def INT_TERR_TAG : Fld := ⟨0x4034, 0, 16, .ro, 0⟩

def INT_DREC_LO_ADDR : Fld := ⟨0x4038, 19, 13, .rw, 0⟩

def INT_DREC_HI_ADDR : Fld := ⟨0x403c, 0, 16, .rw, 0⟩

def INT_WB_LO_ADDR : Fld := ⟨0x4040, 20, 12, .rw, 0⟩

def INT_WB_HI_ADDR : Fld := ⟨0x4044, 0, 16, .rw, 0⟩

def INT_WBSIZE_FREE : Fld := ⟨0x4048, 16, 16, .ro, 0⟩
def INT_WBSIZE_SIZE : Fld := ⟨0x4048, 0, 16, .rw, 0⟩

def INT_RULE_M_VALID (i : Nat) : Fld := ⟨0x4080 + i * 0x8, 31, 1, .rw, 0⟩
def INT_RULE_M_CAPCARE (i : Nat) : Fld := ⟨0x4080 + i * 0x8, 19, 1, .rw, 0⟩
def INT_RULE_M_CAP (i : Nat) : Fld := ⟨0x4080 + i * 0x8, 18, 1, .rw, 0⟩
def INT_RULE_M_ADMQCARE (i : Nat) : Fld := ⟨0x4080 + i * 0x8, 17, 1, .rw, 0⟩
def INT_RULE_M_ADMQ (i : Nat) : Fld := ⟨0x4080 + i * 0x8, 16, 1, .rw, 0⟩
def INT_RULE_M_OPCMASK (i : Nat) : Fld := ⟨0x4080 + i * 0x8, 8, 8, .rw, 0⟩
def INT_RULE_M_OPC (i : Nat) : Fld := ⟨0x4080 + i * 0x8, 0, 8, .rw, 0⟩

def INT_RULE_A_FLUSH (i : Nat) : Fld := ⟨0x4084 + i * 0x8, 6, 1, .rw, 0⟩
def INT_RULE_A_AUTOCPL (i : Nat) : Fld := ⟨0x4084 + i * 0x8, 5, 1, .rw, 0⟩
def INT_RULE_A_ENERGY (i : Nat) : Fld := ⟨0x4084 + i * 0x8, 4, 1, .rw, 0⟩
def INT_RULE_A_LAND (i : Nat) : Fld := ⟨0x4084 + i * 0x8, 3, 1, .rw, 0⟩
def INT_RULE_A_GROUP (i : Nat) : Fld := ⟨0x4084 + i * 0x8, 0, 3, .rw, 0⟩

def INT_GRP_LO_MASK (i : Nat) : Fld := ⟨0x40c0 + i * 0x8, 0, 32, .rw, 0⟩

def INT_GRP_HI_MASK (i : Nat) : Fld := ⟨0x40c4 + i * 0x8, 0, 32, .rw, 0⟩

def INT_STG_FREE (i : Nat) : Fld := ⟨0x4100 + i * 0x4, 15, 15, .ro, 0⟩
def INT_STG_SIZE (i : Nat) : Fld := ⟨0x4100 + i * 0x4, 10, 5, .rw, 0⟩
def INT_STG_BANK (i : Nat) : Fld := ⟨0x4100 + i * 0x4, 4, 6, .rw, i⟩
def INT_STG_BASE (i : Nat) : Fld := ⟨0x4100 + i * 0x4, 0, 4, .rw, 0⟩

/-! 09_placement_and_media.md, R267 -/
def MP_CTRL_JFLUSH : Fld := ⟨0x200, 1, 1, .wo, 0⟩
def MP_CTRL_EN : Fld := ⟨0x200, 0, 1, .rw, 0⟩

def MP_STAT_PFAIL : Fld := ⟨0x204, 18, 1, .ro, 0⟩
def MP_STAT_JSTALL : Fld := ⟨0x204, 17, 1, .ro, 0⟩
def MP_STAT_OUTST : Fld := ⟨0x204, 0, 16, .ro, 0⟩

def MP_SUBMIT_COUNT : Fld := ⟨0x208, 8, 11, .wo, 0⟩
def MP_SUBMIT_SLOT : Fld := ⟨0x208, 0, 5, .wo, 0⟩

def MP_CHSEL_SLOT : Fld := ⟨0x20c, 0, 5, .rw, 0⟩

def MP_CHQ_FREE : Fld := ⟨0x210, 16, 11, .ro, 0x400⟩
def MP_CHQ_HEAD : Fld := ⟨0x210, 0, 10, .ro, 0⟩

def MP_RING_LO_ADDR : Fld := ⟨0x214, 21, 11, .rw, 0⟩

def MP_RING_HI_ADDR : Fld := ⟨0x218, 0, 16, .rw, 0⟩

def MP_CPL_LO_ADDR : Fld := ⟨0x21c, 19, 13, .rw, 0⟩

def MP_CPL_HI_ADDR : Fld := ⟨0x220, 0, 16, .rw, 0⟩

def MP_CPLTAIL_PHASE : Fld := ⟨0x224, 15, 1, .ro, 1⟩
def MP_CPLTAIL_INDEX : Fld := ⟨0x224, 0, 15, .ro, 0⟩

def MP_CPLHEAD_INDEX : Fld := ⟨0x228, 0, 15, .rw, 0⟩

def MP_JBUF_LO_ADDR : Fld := ⟨0x22c, 16, 16, .rw, 0⟩

def MP_JBUF_HI_ADDR : Fld := ⟨0x230, 0, 16, .rw, 0⟩

def MP_JNEXT_LO_GRAN : Fld := ⟨0x234, 3, 29, .rw, 0⟩

def MP_JNEXT_HI_GRAN : Fld := ⟨0x238, 0, 8, .rw, 0⟩

def MP_JROOM_ROOM : Fld := ⟨0x23c, 0, 16, .rw, 0⟩

def MP_JSEQ_LO_JSEQ : Fld := ⟨0x240, 0, 32, .rw, 0⟩

def MP_JSEQ_HI_JSEQ : Fld := ⟨0x244, 0, 32, .rw, 0⟩

def MP_JLAST_LO_GRAN : Fld := ⟨0x248, 0, 32, .ro, 0⟩

def MP_JLAST_HI_GRAN : Fld := ⟨0x24c, 0, 8, .ro, 0⟩

def MP_EVT_JSTALL : Fld := ⟨0x250, 4, 1, .w1c, 0⟩
def MP_EVT_SUBOVF : Fld := ⟨0x250, 3, 1, .w1c, 0⟩
def MP_EVT_BADDESC : Fld := ⟨0x250, 2, 1, .w1c, 0⟩
def MP_EVT_MEDIAERR : Fld := ⟨0x250, 1, 1, .w1c, 0⟩
def MP_EVT_SRCERR : Fld := ⟨0x250, 0, 1, .w1c, 0⟩

def MP_ERRCNT_MEDIA : Fld := ⟨0x254, 16, 16, .ro, 0⟩
def MP_ERRCNT_SRC : Fld := ⟨0x254, 0, 16, .ro, 0⟩

def MP_NS_CFG_EN (i : Nat) : Fld := ⟨0x280 + i * 0x10, 31, 1, .rw, 0⟩
def MP_NS_CFG_CAPT (i : Nat) : Fld := ⟨0x280 + i * 0x10, 1, 1, .rw, 0⟩
def MP_NS_CFG_IU64 (i : Nat) : Fld := ⟨0x280 + i * 0x10, 0, 1, .rw, 0⟩

def MP_NS_MAP_LO_ADDR (i : Nat) : Fld := ⟨0x284 + i * 0x10, 12, 20, .rw, 0⟩

def MP_NS_MAP_HI_ADDR (i : Nat) : Fld := ⟨0x288 + i * 0x10, 0, 16, .rw, 0⟩

def MP_NS_IUCNT_COUNT (i : Nat) : Fld := ⟨0x28c + i * 0x10, 0, 32, .rw, 0⟩

/-! 10_kettle_and_percolator.md, R293 -/
def KET_CTRL_KEY : Fld := ⟨0x3000, 8, 8, .wo, 0⟩
def KET_CTRL_TESTPF : Fld := ⟨0x3000, 1, 1, .wo, 0⟩
def KET_CTRL_EN : Fld := ⟨0x3000, 0, 1, .rw, 0⟩

def KET_STAT_LOWBANK : Fld := ⟨0x3004, 7, 1, .ro, 0⟩
def KET_STAT_THROTTLE : Fld := ⟨0x3004, 6, 1, .ro, 0⟩
def KET_STAT_WAITING : Fld := ⟨0x3004, 5, 1, .ro, 0⟩
def KET_STAT_RAILOK : Fld := ⟨0x3004, 4, 1, .ro, 0⟩
def KET_STAT_DRAINED : Fld := ⟨0x3004, 3, 1, .ro, 0⟩
def KET_STAT_ADCLOST : Fld := ⟨0x3004, 2, 1, .ro, 1⟩
def KET_STAT_DEFICIT : Fld := ⟨0x3004, 1, 1, .ro, 0⟩
def KET_STAT_PFWARN : Fld := ⟨0x3004, 0, 1, .ro, 0⟩

def KET_EVT_LOWBANK : Fld := ⟨0x3008, 6, 1, .w1c, 0⟩
def KET_EVT_RAILOK : Fld := ⟨0x3008, 5, 1, .w1c, 0⟩
def KET_EVT_DRAINED : Fld := ⟨0x3008, 4, 1, .w1c, 0⟩
def KET_EVT_ADCLOST : Fld := ⟨0x3008, 3, 1, .w1c, 0⟩
def KET_EVT_DEFICIT : Fld := ⟨0x3008, 2, 1, .w1c, 0⟩
def KET_EVT_THROTTLE : Fld := ⟨0x3008, 1, 1, .w1c, 0⟩
def KET_EVT_PFWARN : Fld := ⟨0x3008, 0, 1, .w1c, 0⟩

def KET_VRAIL_MIN16 : Fld := ⟨0x300c, 16, 14, .ro, 0⟩
def KET_VRAIL_LAST : Fld := ⟨0x300c, 0, 14, .ro, 0⟩

def KET_VBANK_MIN16 : Fld := ⟨0x3010, 16, 14, .ro, 0⟩
def KET_VBANK_LAST : Fld := ⟨0x3010, 0, 14, .ro, 0⟩

def KET_CAP_CAP : Fld := ⟨0x3014, 0, 20, .rw, 0⟩

def KET_VMIN_VMIN : Fld := ⟨0x3018, 0, 14, .rw, 0x683⟩

def KET_EFF_EFF : Fld := ⟨0x301c, 0, 11, .rw, 0⟩

def KET_MARGIN_MARGIN : Fld := ⟨0x3020, 0, 32, .rw, 0⟩

def KET_COEF_UCOEF : Fld := ⟨0x3024, 16, 16, .rw, 0⟩
def KET_COEF_BCOEF : Fld := ⟨0x3024, 0, 16, .rw, 0⟩

def KET_PF_HYST : Fld := ⟨0x3028, 20, 12, .rw, 0xa7⟩
def KET_PF_PFN : Fld := ⟨0x3028, 16, 4, .rw, 3⟩
def KET_PF_PFV : Fld := ⟨0x3028, 0, 14, .rw, 0x683⟩

def KET_E_E : Fld := ⟨0x302c, 0, 32, .ro, 0⟩

def KET_RESV_RESV : Fld := ⟨0x3030, 0, 32, .ro, 0⟩

def KET_HEAD_HEAD : Fld := ⟨0x3034, 0, 32, .ro, 0⟩

def KET_THRT_US : Fld := ⟨0x3038, 0, 16, .rw, 0x64⟩

def KET_LOWE_LOWE : Fld := ⟨0x303c, 0, 32, .rw, 0⟩

def KET_STALL_COUNT : Fld := ⟨0x3040, 0, 32, .ro, 0⟩

def KET_GRANT_COUNT : Fld := ⟨0x3044, 0, 32, .ro, 0⟩

def KET_PFT_LO_TNOW : Fld := ⟨0x3048, 0, 32, .ro, 0⟩

def KET_PFT_HI_TNOW : Fld := ⟨0x304c, 0, 32, .ro, 0⟩

def PERC_STAT_P1ABAND : Fld := ⟨0x3080, 9, 1, .ro, 0⟩
def PERC_STAT_P5CLOSED : Fld := ⟨0x3080, 8, 1, .ro, 0⟩
def PERC_STAT_EMPTY : Fld := ⟨0x3080, 0, 6, .ro, 0x3f⟩

def PERC_WAITS_COUNT : Fld := ⟨0x3084, 0, 32, .ro, 0⟩

def PERC_WIN_LO_ADDR (i : Nat) : Fld := ⟨0x3090 + i * 0x10, 12, 20, .rw, 0⟩

def PERC_WIN_HI_ADDR (i : Nat) : Fld := ⟨0x3094 + i * 0x10, 0, 16, .rw, 0⟩

def PERC_WIN_CFG_EN (i : Nat) : Fld := ⟨0x3098 + i * 0x10, 31, 1, .rw, 0⟩
def PERC_WIN_CFG_CLS (i : Nat) : Fld := ⟨0x3098 + i * 0x10, 24, 1, .rw, 0⟩
def PERC_WIN_CFG_SIZE (i : Nat) : Fld := ⟨0x3098 + i * 0x10, 0, 24, .rw, 0⟩

/-! 11_residue_spares_migration.md, R320 -/
def SPM_POLICY_CSWORN : Fld := ⟨0x2000, 16, 6, .rw, 0x38⟩
def SPM_POLICY_RETRYLIM : Fld := ⟨0x2000, 8, 8, .rw, 0⟩
def SPM_POLICY_STRIKEMAX : Fld := ⟨0x2000, 4, 4, .rw, 3⟩
def SPM_POLICY_XCLUSTER : Fld := ⟨0x2000, 0, 1, .rw, 0⟩

def SPM_STAT_LOGNEXT : Fld := ⟨0x2004, 16, 3, .ro, 0⟩
def SPM_STAT_FREE : Fld := ⟨0x2004, 8, 7, .ro, 0⟩
def SPM_STAT_BUSY : Fld := ⟨0x2004, 5, 1, .ro, 0⟩
def SPM_STAT_QDEPTH : Fld := ⟨0x2004, 0, 5, .ro, 0⟩

def SPM_EVT_TAGSP : Fld := ⟨0x2008, 7, 1, .w1c, 0⟩
def SPM_EVT_SPARELOW : Fld := ⟨0x2008, 6, 1, .w1c, 0⟩
def SPM_EVT_CSREPAIR : Fld := ⟨0x2008, 5, 1, .w1c, 0⟩
def SPM_EVT_ACT : Fld := ⟨0x2008, 4, 1, .w1c, 0⟩
def SPM_EVT_RETIRED : Fld := ⟨0x2008, 3, 1, .w1c, 0⟩
def SPM_EVT_OFFLINE : Fld := ⟨0x2008, 2, 1, .w1c, 0⟩
def SPM_EVT_CMDDONE : Fld := ⟨0x2008, 1, 1, .w1c, 0⟩
def SPM_EVT_FAULTMOVE : Fld := ⟨0x2008, 0, 1, .w1c, 0⟩

def SPM_CMD_OP : Fld := ⟨0x200c, 28, 4, .wo, 0⟩
def SPM_CMD_MODE : Fld := ⟨0x200c, 24, 1, .wo, 0⟩
def SPM_CMD_PE : Fld := ⟨0x200c, 16, 7, .wo, 0⟩
def SPM_CMD_LE : Fld := ⟨0x200c, 8, 6, .wo, 0⟩

def SPM_LSEQ_LSEQ : Fld := ⟨0x2010, 0, 32, .ro, 0⟩

def SPM_MIGLAST_MAX : Fld := ⟨0x2014, 16, 16, .ro, 0⟩
def SPM_MIGLAST_LAST : Fld := ⟨0x2014, 0, 16, .ro, 0⟩

def SPM_MIGCNT_FAULT : Fld := ⟨0x2018, 16, 16, .ro, 0⟩
def SPM_MIGCNT_ALL : Fld := ⟨0x2018, 0, 16, .ro, 0⟩

def SPM_TAGSP_RETIRED : Fld := ⟨0x201c, 16, 11, .ro, 0⟩
def SPM_TAGSP_USED : Fld := ⟨0x201c, 0, 11, .ro, 0⟩

def SPM_LAG_COUNT : Fld := ⟨0x2020, 0, 32, .ro, 0⟩

def SPM_LOG_A_OP (i : Nat) : Fld := ⟨0x2040 + i * 0x8, 28, 4, .ro, 0⟩
def SPM_LOG_A_RESULT (i : Nat) : Fld := ⟨0x2040 + i * 0x8, 24, 4, .ro, 0⟩
def SPM_LOG_A_ORIGIN (i : Nat) : Fld := ⟨0x2040 + i * 0x8, 22, 2, .ro, 0⟩
def SPM_LOG_A_PE (i : Nat) : Fld := ⟨0x2040 + i * 0x8, 14, 7, .ro, 0x7f⟩
def SPM_LOG_A_LE (i : Nat) : Fld := ⟨0x2040 + i * 0x8, 8, 6, .ro, 0⟩

def SPM_LOG_B_LSEQ (i : Nat) : Fld := ⟨0x2044 + i * 0x8, 0, 32, .ro, 0⟩

def SPM_MAP_RUN0 (i : Nat) : Fld := ⟨0x2080 + i * 0x4, 7, 1, .ro, 0⟩
def SPM_MAP_RUN1 (i : Nat) : Fld := ⟨0x2080 + i * 0x4, 15, 1, .ro, 0⟩
def SPM_MAP_RUN2 (i : Nat) : Fld := ⟨0x2080 + i * 0x4, 23, 1, .ro, 0⟩
def SPM_MAP_RUN3 (i : Nat) : Fld := ⟨0x2080 + i * 0x4, 31, 1, .ro, 0⟩
def SPM_MAP_PE0 (i : Nat) : Fld := ⟨0x2080 + i * 0x4, 0, 7, .ro, 9 * ((4 * i + 0) / 8) + (4 * i + 0) % 8⟩
def SPM_MAP_PE1 (i : Nat) : Fld := ⟨0x2080 + i * 0x4, 8, 7, .ro, 9 * ((4 * i + 1) / 8) + (4 * i + 1) % 8⟩
def SPM_MAP_PE2 (i : Nat) : Fld := ⟨0x2080 + i * 0x4, 16, 7, .ro, 9 * ((4 * i + 2) / 8) + (4 * i + 2) % 8⟩
def SPM_MAP_PE3 (i : Nat) : Fld := ⟨0x2080 + i * 0x4, 24, 7, .ro, 9 * ((4 * i + 3) / 8) + (4 * i + 3) % 8⟩

def SPM_PE_WORN0 (i : Nat) : Fld := ⟨0x2110 + i * 0x4, 6, 1, .ro, 0⟩
def SPM_PE_WORN1 (i : Nat) : Fld := ⟨0x2110 + i * 0x4, 14, 1, .ro, 0⟩
def SPM_PE_WORN2 (i : Nat) : Fld := ⟨0x2110 + i * 0x4, 22, 1, .ro, 0⟩
def SPM_PE_WORN3 (i : Nat) : Fld := ⟨0x2110 + i * 0x4, 30, 1, .ro, 0⟩
def SPM_PE_STRIKES0 (i : Nat) : Fld := ⟨0x2110 + i * 0x4, 3, 3, .ro, 0⟩
def SPM_PE_STRIKES1 (i : Nat) : Fld := ⟨0x2110 + i * 0x4, 11, 3, .ro, 0⟩
def SPM_PE_STRIKES2 (i : Nat) : Fld := ⟨0x2110 + i * 0x4, 19, 3, .ro, 0⟩
def SPM_PE_STRIKES3 (i : Nat) : Fld := ⟨0x2110 + i * 0x4, 27, 3, .ro, 0⟩
def SPM_PE_STATE0 (i : Nat) : Fld := ⟨0x2110 + i * 0x4, 0, 3, .ro, 0⟩
def SPM_PE_STATE1 (i : Nat) : Fld := ⟨0x2110 + i * 0x4, 8, 3, .ro, 0⟩
def SPM_PE_STATE2 (i : Nat) : Fld := ⟨0x2110 + i * 0x4, 16, 3, .ro, 0⟩
def SPM_PE_STATE3 (i : Nat) : Fld := ⟨0x2110 + i * 0x4, 24, 3, .ro, 0⟩

/-! 11_residue_spares_migration.md, R322 -/
def ENG_RES_RETRY (i : Nat) : Fld := ⟨0x4002c + i * 0x100, 16, 16, .ro, 0⟩
def ENG_RES_OPND (i : Nat) : Fld := ⟨0x4002c + i * 0x100, 15, 1, .ro, 0⟩
def ENG_RES_ADDR (i : Nat) : Fld := ⟨0x4002c + i * 0x100, 0, 13, .ro, 0⟩

/-! 11_residue_spares_migration.md, R323 -/
def MIR_SEL_CLASS : Fld := ⟨0x300, 8, 2, .rw, 0⟩
def MIR_SEL_INDEX : Fld := ⟨0x300, 0, 7, .rw, 0⟩

def MIR_DATA_STALE : Fld := ⟨0x304, 31, 1, .ro, 0⟩
def MIR_DATA_WORD : Fld := ⟨0x304, 0, 16, .ro, 0⟩

def MIR_CMD_CMD : Fld := ⟨0x308, 0, 32, .wo, 0⟩

/-! 12_worlds_and_exceptions.md, R330 -/
def ENG_RGIDX_INDEX (i : Nat) : Fld := ⟨0x40040 + i * 0x100, 0, 6, .rw, 0⟩

def ENG_RGB_LO_BASE (i : Nat) : Fld := ⟨0x40044 + i * 0x100, 12, 20, .rw, 0⟩

def ENG_RGB_HI_BASE (i : Nat) : Fld := ⟨0x40048 + i * 0x100, 0, 16, .rw, 0⟩

def ENG_RGL_LO_LIM (i : Nat) : Fld := ⟨0x4004c + i * 0x100, 12, 20, .rw, 0⟩

def ENG_RGL_HI_LIM (i : Nat) : Fld := ⟨0x40050 + i * 0x100, 0, 16, .rw, 0⟩

def ENG_RGP_EN (i : Nat) : Fld := ⟨0x40054 + i * 0x100, 31, 1, .rw, 0⟩
def ENG_RGP_PERM (i : Nat) : Fld := ⟨0x40054 + i * 0x100, 0, 12, .rw, 0⟩

/-! 12_worlds_and_exceptions.md, R341 -/
def ENG_XSTAT_LOCKUP (i : Nat) : Fld := ⟨0x40030 + i * 0x100, 31, 1, .ro, 0⟩
def ENG_XSTAT_LKCAUSE (i : Nat) : Fld := ⟨0x40030 + i * 0x100, 24, 4, .ro, 0⟩
def ENG_XSTAT_LKVEC (i : Nat) : Fld := ⟨0x40030 + i * 0x100, 16, 8, .ro, 0⟩
def ENG_XSTAT_LKWORLD (i : Nat) : Fld := ⟨0x40030 + i * 0x100, 15, 1, .ro, 0⟩
def ENG_XSTAT_LASTVEC (i : Nat) : Fld := ⟨0x40030 + i * 0x100, 0, 8, .ro, 0⟩

def ENG_BOOT_LO_PC (i : Nat) : Fld := ⟨0x40034 + i * 0x100, 2, 30, .rw, 0⟩

def ENG_BOOT_HI_PC (i : Nat) : Fld := ⟨0x40038 + i * 0x100, 0, 16, .rw, 1⟩

def ENG_LOCKUP_ANY : Fld := ⟨0x340, 0, 1, .ro, 0⟩

def LOCKUP_VEC0_SE : Fld := ⟨0x344, 0, 32, .ro, 0⟩

def LOCKUP_VEC1_SE : Fld := ⟨0x348, 0, 32, .ro, 0⟩

def LOCKUP_VEC2_SE : Fld := ⟨0x34c, 0, 8, .ro, 0⟩

/-! 12_worlds_and_exceptions.md, R345 -/
def ENG_WDG_CTRL_EN (i : Nat) : Fld := ⟨0x40060 + i * 0x100, 31, 1, .rw, 0⟩
def ENG_WDG_CTRL_FREEZE (i : Nat) : Fld := ⟨0x40060 + i * 0x100, 30, 1, .rw, 1⟩
def ENG_WDG_CTRL_EXP1 (i : Nat) : Fld := ⟨0x40060 + i * 0x100, 29, 1, .ro, 0⟩

def ENG_WDG_PERIOD_PERIOD (i : Nat) : Fld := ⟨0x40064 + i * 0x100, 0, 32, .rw, 0x4000000⟩

def ENG_WDG_CNT_COUNT (i : Nat) : Fld := ⟨0x40068 + i * 0x100, 0, 32, .ro, 0⟩

def ENG_WDG_GRACE_GRACE (i : Nat) : Fld := ⟨0x4006c + i * 0x100, 0, 32, .rw, 0x1000⟩

def ENG_WDG_SVC_KEY (i : Nat) : Fld := ⟨0x40070 + i * 0x100, 0, 8, .wo, 0⟩

/-! 13_interrupt_distributor.md, R360 -/
def DIST_ENSET_EN (i : Nat) : Fld := ⟨0x10000 + i * 0x4, 0, 32, .w1s, 0⟩

def DIST_ENCLR_EN (i : Nat) : Fld := ⟨0x10080 + i * 0x4, 0, 32, .w1c, 0⟩

def DIST_PENDSET_PEND (i : Nat) : Fld := ⟨0x10100 + i * 0x4, 0, 32, .w1s, 0⟩

def DIST_PENDCLR_PEND (i : Nat) : Fld := ⟨0x10180 + i * 0x4, 0, 32, .w1c, 0⟩

def DIST_ACTIVE_ACT (i : Nat) : Fld := ⟨0x10200 + i * 0x4, 0, 32, .ro, 0⟩

def DIST_ROUTE_ROUTE0 (i : Nat) : Fld := ⟨0x10280 + i * 0x4, 0, 8, .rw, if 9 ≤ 4 * i + 0 ∧ 4 * i + 0 ≤ 26 then 0xFE else 0xFF⟩
def DIST_ROUTE_ROUTE1 (i : Nat) : Fld := ⟨0x10280 + i * 0x4, 8, 8, .rw, if 9 ≤ 4 * i + 1 ∧ 4 * i + 1 ≤ 26 then 0xFE else 0xFF⟩
def DIST_ROUTE_ROUTE2 (i : Nat) : Fld := ⟨0x10280 + i * 0x4, 16, 8, .rw, if 9 ≤ 4 * i + 2 ∧ 4 * i + 2 ≤ 26 then 0xFE else 0xFF⟩
def DIST_ROUTE_ROUTE3 (i : Nat) : Fld := ⟨0x10280 + i * 0x4, 24, 8, .rw, if 9 ≤ 4 * i + 3 ∧ 4 * i + 3 ≤ 26 then 0xFE else 0xFF⟩

def DIST_PRIO_PRIO0 (i : Nat) : Fld := ⟨0x10400 + i * 0x4, 0, 8, .rw, 0⟩
def DIST_PRIO_PRIO1 (i : Nat) : Fld := ⟨0x10400 + i * 0x4, 8, 8, .rw, 0⟩
def DIST_PRIO_PRIO2 (i : Nat) : Fld := ⟨0x10400 + i * 0x4, 16, 8, .rw, 0⟩
def DIST_PRIO_PRIO3 (i : Nat) : Fld := ⟨0x10400 + i * 0x4, 24, 8, .rw, 0⟩

def DIST_THRESH_THR (i : Nat) : Fld := ⟨0x10800 + i * 0x10, 0, 8, .rw, 0⟩

def DIST_CLAIM_VALID (i : Nat) : Fld := ⟨0x10804 + i * 0x10, 31, 1, .ro, 0⟩
def DIST_CLAIM_SRC (i : Nat) : Fld := ⟨0x10804 + i * 0x10, 0, 10, .ro, 0⟩

def DIST_COMPLETE_SRC (i : Nat) : Fld := ⟨0x10808 + i * 0x10, 0, 10, .wo, 0⟩

def DIST_STAT_IRQ (i : Nat) : Fld := ⟨0x1080c + i * 0x10, 31, 1, .ro, 0⟩
def DIST_STAT_DB (i : Nat) : Fld := ⟨0x1080c + i * 0x10, 30, 1, .ro, 0⟩
def DIST_STAT_BADCPL (i : Nat) : Fld := ⟨0x1080c + i * 0x10, 29, 1, .w1c, 0⟩
def DIST_STAT_BEST (i : Nat) : Fld := ⟨0x1080c + i * 0x10, 16, 10, .ro, 0⟩
def DIST_STAT_NACT (i : Nat) : Fld := ⟨0x1080c + i * 0x10, 0, 11, .ro, 0⟩

/-! 14_timers_and_time.md, R384 -/
def TC_CTRL_TENANT (i : Nat) : Fld := ⟨0x8000 + i * 0x20, 31, 1, .rw, 0⟩
def TC_CTRL_OWNER (i : Nat) : Fld := ⟨0x8000 + i * 0x20, 24, 7, .rw, 0x7f⟩
def TC_CTRL_FREEZE (i : Nat) : Fld := ⟨0x8000 + i * 0x20, 23, 1, .rw, 1⟩
def TC_CTRL_FILT (i : Nat) : Fld := ⟨0x8000 + i * 0x20, 16, 4, .rw, 0⟩
def TC_CTRL_CAPEN (i : Nat) : Fld := ⟨0x8000 + i * 0x20, 15, 1, .rw, 0⟩
def TC_CTRL_CAPPOL (i : Nat) : Fld := ⟨0x8000 + i * 0x20, 14, 1, .rw, 0⟩
def TC_CTRL_LINK (i : Nat) : Fld := ⟨0x8000 + i * 0x20, 11, 1, .rw, 0⟩
def TC_CTRL_PRESC (i : Nat) : Fld := ⟨0x8000 + i * 0x20, 8, 3, .rw, 0⟩
def TC_CTRL_RELOAD (i : Nat) : Fld := ⟨0x8000 + i * 0x20, 2, 1, .rw, 0⟩
def TC_CTRL_STOP (i : Nat) : Fld := ⟨0x8000 + i * 0x20, 1, 1, .wo, 0⟩
def TC_CTRL_ARM (i : Nat) : Fld := ⟨0x8000 + i * 0x20, 0, 1, .wo, 0⟩

def TC_LOAD_LOAD (i : Nat) : Fld := ⟨0x8004 + i * 0x20, 0, 32, .rw, 0⟩

def TC_COUNT_COUNT (i : Nat) : Fld := ⟨0x8008 + i * 0x20, 0, 32, .ro, 0⟩

def TC_PHASE_PHASE (i : Nat) : Fld := ⟨0x800c + i * 0x20, 0, 32, .rw, 0⟩

def TC_CAPR_RISE (i : Nat) : Fld := ⟨0x8010 + i * 0x20, 0, 32, .ro, 0⟩

def TC_CAPF_FALL (i : Nat) : Fld := ⟨0x8014 + i * 0x20, 0, 32, .ro, 0⟩

def TC_CAPW_WIDTH (i : Nat) : Fld := ⟨0x8018 + i * 0x20, 0, 32, .ro, 0⟩

def TC_STAT_EXPCNT (i : Nat) : Fld := ⟨0x801c + i * 0x20, 24, 8, .ro, 0⟩
def TC_STAT_CLRCNT (i : Nat) : Fld := ⟨0x801c + i * 0x20, 23, 1, .wo, 0⟩
def TC_STAT_CAPHALF (i : Nat) : Fld := ⟨0x801c + i * 0x20, 18, 1, .ro, 0⟩
def TC_STAT_OVR (i : Nat) : Fld := ⟨0x801c + i * 0x20, 17, 1, .w1c, 0⟩
def TC_STAT_NEW (i : Nat) : Fld := ⟨0x801c + i * 0x20, 16, 1, .ro, 0⟩
def TC_STAT_FROZEN (i : Nat) : Fld := ⟨0x801c + i * 0x20, 2, 1, .ro, 0⟩
def TC_STAT_WAITPH (i : Nat) : Fld := ⟨0x801c + i * 0x20, 1, 1, .ro, 0⟩
def TC_STAT_ARMED (i : Nat) : Fld := ⟨0x801c + i * 0x20, 0, 1, .ro, 0⟩

/-! 14_timers_and_time.md, R385 -/
def TMR_GMASK_LO_MASK : Fld := ⟨0x380, 0, 32, .rw, 0⟩

def TMR_GMASK_HI_MASK : Fld := ⟨0x384, 0, 32, .rw, 0⟩

def TMR_GAT_LO_TNOW : Fld := ⟨0x388, 0, 32, .rw, 0⟩

def TMR_GAT_HI_TNOW : Fld := ⟨0x38c, 0, 32, .rw, 0⟩

def TMR_GCTRL_PEND : Fld := ⟨0x390, 3, 1, .ro, 0⟩
def TMR_GCTRL_CANCEL : Fld := ⟨0x390, 2, 1, .wo, 0⟩
def TMR_GCTRL_TIMED : Fld := ⟨0x390, 1, 1, .rw, 0⟩
def TMR_GCTRL_GO : Fld := ⟨0x390, 0, 1, .wo, 0⟩

/-! 14_timers_and_time.md, R386 -/
def TIME_CTRL_ALCLR : Fld := ⟨0x5000, 4, 1, .wo, 0⟩
def TIME_CTRL_LOAD : Fld := ⟨0x5000, 3, 1, .wo, 0⟩
def TIME_CTRL_TPEN : Fld := ⟨0x5000, 2, 1, .rw, 0⟩
def TIME_CTRL_STEPEN : Fld := ⟨0x5000, 1, 1, .rw, 1⟩
def TIME_CTRL_SERVO : Fld := ⟨0x5000, 0, 1, .rw, 0⟩

def TIME_STAT_LOCKCNT : Fld := ⟨0x5004, 8, 8, .ro, 0⟩
def TIME_STAT_ALARMED : Fld := ⟨0x5004, 4, 1, .ro, 0⟩
def TIME_STAT_CLAMPED : Fld := ⟨0x5004, 3, 1, .ro, 0⟩
def TIME_STAT_HOLDOVER : Fld := ⟨0x5004, 2, 1, .ro, 0⟩
def TIME_STAT_LOCKED : Fld := ⟨0x5004, 1, 1, .ro, 0⟩

def TIME_EVT_ALARM : Fld := ⟨0x5008, 6, 1, .w1c, 0⟩
def TIME_EVT_CLAMP : Fld := ⟨0x5008, 5, 1, .w1c, 0⟩
def TIME_EVT_TPMISS : Fld := ⟨0x5008, 4, 1, .w1c, 0⟩
def TIME_EVT_LOCKLOST : Fld := ⟨0x5008, 3, 1, .w1c, 0⟩
def TIME_EVT_LOCK : Fld := ⟨0x5008, 2, 1, .w1c, 0⟩
def TIME_EVT_STEP : Fld := ⟨0x5008, 1, 1, .w1c, 0⟩
def TIME_EVT_TPEVT : Fld := ⟨0x5008, 0, 1, .w1c, 0⟩

def TNOW_LO_TNOW : Fld := ⟨0x500c, 0, 32, .ro, 0⟩

def TNOW_HI_TNOW : Fld := ⟨0x5010, 0, 32, .ro, 0⟩

def TIME_SET_LO_SET : Fld := ⟨0x5014, 0, 32, .rw, 0⟩

def TIME_SET_HI_SET : Fld := ⟨0x5018, 0, 32, .rw, 0⟩

def TIME_INC_INC : Fld := ⟨0x501c, 0, 32, .rw, 0x40000000⟩

def TIME_NOMINC_NOMINC : Fld := ⟨0x5020, 0, 32, .rw, 0x40000000⟩

def TIME_SERVO_KISH : Fld := ⟨0x5024, 8, 5, .rw, 0x15⟩
def TIME_SERVO_KPSH : Fld := ⟨0x5024, 0, 5, .rw, 0x11⟩

def TIME_ADJMAX_ADJMAX : Fld := ⟨0x5028, 0, 24, .rw, 0x80000⟩

def TIME_STEPTHR_THR : Fld := ⟨0x502c, 0, 32, .rw, 0x4000⟩

def TIME_LOCK_LOCKN : Fld := ⟨0x5030, 16, 4, .rw, 4⟩
def TIME_LOCK_LOCKTHR : Fld := ⟨0x5030, 0, 16, .rw, 0x64⟩

def TIME_OFFS_THETA : Fld := ⟨0x5034, 0, 32, .ro, 0⟩

def TIME_INTEG_INTEG : Fld := ⟨0x5038, 0, 32, .ro, 0⟩

def TIME_TPCAP_LO_TNOW : Fld := ⟨0x503c, 0, 32, .ro, 0⟩

def TIME_TPCAP_HI_TNOW : Fld := ⟨0x5040, 0, 32, .ro, 0⟩

def TIME_TPREF_LO_NS : Fld := ⟨0x5044, 0, 32, .ro, 0⟩

def TIME_TPREF_HI_NS : Fld := ⟨0x5048, 0, 32, .ro, 0⟩

def TIME_TPGAP_MS : Fld := ⟨0x504c, 0, 16, .rw, 0xbb8⟩

def TIME_ALARM_LO_TNOW : Fld := ⟨0x5050, 0, 32, .rw, 0⟩

def TIME_ALARM_HI_TNOW : Fld := ⟨0x5054, 0, 32, .rw, 0⟩

def TIME_TICKS_LO_TICKS : Fld := ⟨0x5058, 0, 32, .ro, 0⟩

def TIME_TICKS_HI_TICKS : Fld := ⟨0x505c, 0, 32, .ro, 0⟩

def TIME_ADJ_NS : Fld := ⟨0x5060, 0, 32, .wo, 0⟩

/-! 15_axis_ports_and_crema.md, R409 -/
def CREMA_CTRL_EN : Fld := ⟨0x3c0, 31, 1, .rw, 0⟩
def CREMA_CTRL_TRIGPS : Fld := ⟨0x3c0, 16, 4, .rw, 0⟩
def CREMA_CTRL_AGE : Fld := ⟨0x3c0, 8, 8, .rw, 0x20⟩
def CREMA_CTRL_TLAT : Fld := ⟨0x3c0, 0, 4, .rw, 0⟩

def CREMA_FRAME_NEXT : Fld := ⟨0x3c4, 0, 32, .rw, 0⟩

def CREMA_STAT_HELD : Fld := ⟨0x3c8, 16, 11, .ro, 0⟩
def CREMA_STAT_PEND : Fld := ⟨0x3c8, 0, 11, .ro, 0⟩

def CREMA_EVT_DUP : Fld := ⟨0x3cc, 5, 1, .w1c, 0⟩
def CREMA_EVT_AGED : Fld := ⟨0x3cc, 4, 1, .w1c, 0⟩
def CREMA_EVT_SLOTFULL : Fld := ⟨0x3cc, 3, 1, .w1c, 0⟩
def CREMA_EVT_HDRBAD : Fld := ⟨0x3cc, 2, 1, .w1c, 0⟩
def CREMA_EVT_LEN : Fld := ⟨0x3cc, 1, 1, .w1c, 0⟩
def CREMA_EVT_NOSLOT : Fld := ⟨0x3cc, 0, 1, .w1c, 0⟩

def CREMA_TRIGCNT_COUNT : Fld := ⟨0x3d0, 0, 32, .ro, 0⟩

def CREMA_LOST_COUNT : Fld := ⟨0x3d4, 0, 32, .ro, 0⟩

def CREMA_MISS_COUNT : Fld := ⟨0x3d8, 0, 32, .ro, 0⟩

def CREMA_AGED_COUNT : Fld := ⟨0x3dc, 0, 32, .ro, 0⟩

def CREMA_LSHORT_COUNT : Fld := ⟨0x3e0, 0, 32, .ro, 0⟩

def CREMA_LLONG_COUNT : Fld := ⟨0x3e4, 0, 32, .ro, 0⟩

def CREMA_HDRBAD_COUNT : Fld := ⟨0x3e8, 0, 32, .ro, 0⟩

def CREMA_SLOTCLR_ALL : Fld := ⟨0x3ec, 31, 1, .wo, 0⟩
def CREMA_SLOTCLR_SLOT : Fld := ⟨0x3ec, 0, 10, .wo, 0⟩

/-! 15_axis_ports_and_crema.md, R410 -/
def AX_CFG_EN (i : Nat) : Fld := ⟨0xb000 + i * 0xc0, 31, 1, .rw, 0⟩
def AX_CFG_MODE (i : Nat) : Fld := ⟨0xb000 + i * 0xc0, 30, 1, .rw, 0⟩
def AX_CFG_DIRINV (i : Nat) : Fld := ⟨0xb000 + i * 0xc0, 29, 1, .rw, 0⟩
def AX_CFG_INTERP (i : Nat) : Fld := ⟨0xb000 + i * 0xc0, 25, 4, .rw, 0xc⟩
def AX_CFG_FILT (i : Nat) : Fld := ⟨0xb000 + i * 0xc0, 21, 4, .rw, 0⟩
def AX_CFG_PRBPOL (i : Nat) : Fld := ⟨0xb000 + i * 0xc0, 20, 1, .rw, 0⟩
def AX_CFG_PRBEN (i : Nat) : Fld := ⟨0xb000 + i * 0xc0, 19, 1, .rw, 0⟩
def AX_CFG_IDXCORR (i : Nat) : Fld := ⟨0xb000 + i * 0xc0, 18, 1, .rw, 0⟩
def AX_CFG_IDXHOME (i : Nat) : Fld := ⟨0xb000 + i * 0xc0, 17, 1, .rw, 0⟩
def AX_CFG_IDXEN (i : Nat) : Fld := ⟨0xb000 + i * 0xc0, 16, 1, .rw, 0⟩
def AX_CFG_REVHYST (i : Nat) : Fld := ⟨0xb000 + i * 0xc0, 0, 16, .rw, 2⟩

def AX_CTRL_CNTCLR (i : Nat) : Fld := ⟨0xb004 + i * 0xc0, 1, 1, .wo, 0⟩
def AX_CTRL_LOAD (i : Nat) : Fld := ⟨0xb004 + i * 0xc0, 0, 1, .wo, 0⟩

def AX_STAT_EMULAG (i : Nat) : Fld := ⟨0xb008 + i * 0xc0, 5, 1, .ro, 0⟩
def AX_STAT_PRBNEW (i : Nat) : Fld := ⟨0xb008 + i * 0xc0, 4, 1, .ro, 0⟩
def AX_STAT_MOVING (i : Nat) : Fld := ⟨0xb008 + i * 0xc0, 3, 1, .ro, 0⟩
def AX_STAT_DIRVALID (i : Nat) : Fld := ⟨0xb008 + i * 0xc0, 2, 1, .ro, 0⟩
def AX_STAT_DIR (i : Nat) : Fld := ⟨0xb008 + i * 0xc0, 1, 1, .ro, 0⟩
def AX_STAT_FAULT (i : Nat) : Fld := ⟨0xb008 + i * 0xc0, 0, 1, .ro, 0⟩

def AX_EVT_PRBOVR (i : Nat) : Fld := ⟨0xb00c + i * 0xc0, 7, 1, .w1c, 0⟩
def AX_EVT_IDXERR (i : Nat) : Fld := ⟨0xb00c + i * 0xc0, 6, 1, .w1c, 0⟩
def AX_EVT_SAMPLOST (i : Nat) : Fld := ⟨0xb00c + i * 0xc0, 5, 1, .w1c, 0⟩
def AX_EVT_OVERSPD (i : Nat) : Fld := ⟨0xb00c + i * 0xc0, 4, 1, .w1c, 0⟩
def AX_EVT_AMP (i : Nat) : Fld := ⟨0xb00c + i * 0xc0, 3, 1, .w1c, 0⟩
def AX_EVT_ILLEGAL (i : Nat) : Fld := ⟨0xb00c + i * 0xc0, 2, 1, .w1c, 0⟩
def AX_EVT_REV (i : Nat) : Fld := ⟨0xb00c + i * 0xc0, 1, 1, .w1c, 0⟩
def AX_EVT_INDEX (i : Nat) : Fld := ⟨0xb00c + i * 0xc0, 0, 1, .w1c, 0⟩

def AX_POSLO_POS (i : Nat) : Fld := ⟨0xb010 + i * 0xc0, 0, 32, .ro, 0⟩

def AX_POSHI_POS (i : Nat) : Fld := ⟨0xb014 + i * 0xc0, 0, 32, .ro, 0⟩

def AX_PRESET_LO_POS (i : Nat) : Fld := ⟨0xb018 + i * 0xc0, 0, 32, .rw, 0⟩

def AX_PRESET_HI_POS (i : Nat) : Fld := ⟨0xb01c + i * 0xc0, 0, 32, .rw, 0⟩

def AX_SPDWIN_WIN (i : Nat) : Fld := ⟨0xb020 + i * 0xc0, 0, 17, .rw, 0x64⟩

def AX_SPD_SPD (i : Nat) : Fld := ⟨0xb024 + i * 0xc0, 0, 32, .ro, 0⟩

def AX_SPDF_WSEQ (i : Nat) : Fld := ⟨0xb028 + i * 0xc0, 16, 16, .ro, 0⟩
def AX_SPDF_REVWIN (i : Nat) : Fld := ⟨0xb028 + i * 0xc0, 1, 1, .ro, 0⟩
def AX_SPDF_STALE (i : Nat) : Fld := ⟨0xb028 + i * 0xc0, 0, 1, .ro, 1⟩

def AX_IDXREF_REF (i : Nat) : Fld := ⟨0xb02c + i * 0xc0, 0, 32, .rw, 0⟩

def AX_IDXPER_PER (i : Nat) : Fld := ⟨0xb030 + i * 0xc0, 0, 32, .rw, 0⟩

def AX_IDXTOL_TOL (i : Nat) : Fld := ⟨0xb034 + i * 0xc0, 0, 16, .rw, 4⟩

def AX_IDXPOS_POS (i : Nat) : Fld := ⟨0xb038 + i * 0xc0, 0, 32, .ro, 0⟩

def AX_IDXERR_ERR (i : Nat) : Fld := ⟨0xb03c + i * 0xc0, 0, 32, .ro, 0⟩

def AX_IDXCNT_ADJCNT (i : Nat) : Fld := ⟨0xb040 + i * 0xc0, 16, 16, .ro, 0⟩
def AX_IDXCNT_COUNT (i : Nat) : Fld := ⟨0xb040 + i * 0xc0, 0, 16, .ro, 0⟩

def AX_PRBLO_POS (i : Nat) : Fld := ⟨0xb044 + i * 0xc0, 0, 32, .ro, 0⟩

def AX_PRBHI_POS (i : Nat) : Fld := ⟨0xb048 + i * 0xc0, 0, 32, .ro, 0⟩

def AX_PRBT_LO_TNOW (i : Nat) : Fld := ⟨0xb04c + i * 0xc0, 0, 32, .ro, 0⟩

def AX_PRBT_HI_TNOW (i : Nat) : Fld := ⟨0xb050 + i * 0xc0, 0, 32, .ro, 0⟩

def AX_SCOFF_OFFC (i : Nat) : Fld := ⟨0xb054 + i * 0xc0, 16, 16, .rw, 0⟩
def AX_SCOFF_OFFS (i : Nat) : Fld := ⟨0xb054 + i * 0xc0, 0, 16, .rw, 0⟩

def AX_SCAMP_AMPMAX (i : Nat) : Fld := ⟨0xb058 + i * 0xc0, 16, 16, .rw, 0x7fff⟩
def AX_SCAMP_AMPMIN (i : Nat) : Fld := ⟨0xb058 + i * 0xc0, 0, 16, .rw, 0x800⟩

def AX_SCRAW_COS (i : Nat) : Fld := ⟨0xb05c + i * 0xc0, 16, 16, .ro, 0⟩
def AX_SCRAW_SIN (i : Nat) : Fld := ⟨0xb05c + i * 0xc0, 0, 16, .ro, 0⟩

def AX_EMUCFG_EMUEN (i : Nat) : Fld := ⟨0xb060 + i * 0xc0, 31, 1, .rw, 0⟩
def AX_EMUCFG_EMUMIN (i : Nat) : Fld := ⟨0xb060 + i * 0xc0, 16, 15, .rw, 0⟩
def AX_EMUCFG_EMUDIV (i : Nat) : Fld := ⟨0xb060 + i * 0xc0, 0, 16, .rw, 0⟩

def AX_EMUZPER_PER (i : Nat) : Fld := ⟨0xb064 + i * 0xc0, 0, 32, .rw, 0⟩

def AX_EMUCNT_E (i : Nat) : Fld := ⟨0xb068 + i * 0xc0, 0, 32, .ro, 0⟩

def AX_FLTCNT_COUNT (i : Nat) : Fld := ⟨0xb06c + i * 0xc0, 0, 32, .ro, 0⟩

/-! 16_pin_sequencers.md, R426 -/
def PS_CTRL_EN (i : Nat) : Fld := ⟨0xa000 + i * 0x40, 31, 1, .rw, 0⟩
def PS_CTRL_CLKRST (i : Nat) : Fld := ⟨0xa000 + i * 0x40, 30, 1, .wo, 0⟩
def PS_CTRL_RESTART (i : Nat) : Fld := ⟨0xa000 + i * 0x40, 29, 1, .wo, 0⟩
def PS_CTRL_FIFOCLR (i : Nat) : Fld := ⟨0xa000 + i * 0x40, 28, 1, .wo, 0⟩
def PS_CTRL_INJ_FORCE (i : Nat) : Fld := ⟨0xa000 + i * 0x40, 27, 1, .rw, 0⟩
def PS_CTRL_PINBASE (i : Nat) : Fld := ⟨0xa000 + i * 0x40, 16, 5, .rw, 0⟩
def PS_CTRL_START (i : Nat) : Fld := ⟨0xa000 + i * 0x40, 0, 6, .rw, 0⟩

def PS_CLKDIV_DIV (i : Nat) : Fld := ⟨0xa004 + i * 0x40, 0, 16, .rw, 1⟩

def PS_FRMCFG_SLSB (i : Nat) : Fld := ⟨0xa008 + i * 0x40, 31, 1, .rw, 0⟩
def PS_FRMCFG_DLSB (i : Nat) : Fld := ⟨0xa008 + i * 0x40, 30, 1, .rw, 0⟩
def PS_FRMCFG_SLEN (i : Nat) : Fld := ⟨0xa008 + i * 0x40, 24, 5, .rw, 0⟩
def PS_FRMCFG_DLEN (i : Nat) : Fld := ⟨0xa008 + i * 0x40, 16, 5, .rw, 0⟩
def PS_FRMCFG_MMASK (i : Nat) : Fld := ⟨0xa008 + i * 0x40, 8, 8, .rw, 0⟩
def PS_FRMCFG_MVAL (i : Nat) : Fld := ⟨0xa008 + i * 0x40, 0, 8, .rw, 0⟩

def PS_STAT_HALTED (i : Nat) : Fld := ⟨0xa00c + i * 0x40, 31, 1, .ro, 0⟩
def PS_STAT_STALL (i : Nat) : Fld := ⟨0xa00c + i * 0x40, 30, 1, .ro, 0⟩
def PS_STAT_INJ_PEND (i : Nat) : Fld := ⟨0xa00c + i * 0x40, 29, 1, .ro, 0⟩
def PS_STAT_DWELLING (i : Nat) : Fld := ⟨0xa00c + i * 0x40, 28, 1, .ro, 0⟩
def PS_STAT_RQLVL (i : Nat) : Fld := ⟨0xa00c + i * 0x40, 23, 5, .ro, 0⟩
def PS_STAT_SQLVL (i : Nat) : Fld := ⟨0xa00c + i * 0x40, 18, 5, .ro, 0⟩
def PS_STAT_DCNT (i : Nat) : Fld := ⟨0xa00c + i * 0x40, 12, 6, .ro, 0⟩
def PS_STAT_SCNT (i : Nat) : Fld := ⟨0xa00c + i * 0x40, 6, 6, .ro, 0⟩
def PS_STAT_PC (i : Nat) : Fld := ⟨0xa00c + i * 0x40, 0, 6, .ro, 0⟩

def PS_EVT_BADOP (i : Nat) : Fld := ⟨0xa010 + i * 0x40, 6, 1, .w1c, 0⟩
def PS_EVT_CONTEND (i : Nat) : Fld := ⟨0xa010 + i * 0x40, 5, 1, .w1c, 0⟩
def PS_EVT_INJOVR (i : Nat) : Fld := ⟨0xa010 + i * 0x40, 4, 1, .w1c, 0⟩
def PS_EVT_RQRDE (i : Nat) : Fld := ⟨0xa010 + i * 0x40, 3, 1, .w1c, 0⟩
def PS_EVT_SQOVR (i : Nat) : Fld := ⟨0xa010 + i * 0x40, 2, 1, .w1c, 0⟩
def PS_EVT_STALL_ABORT (i : Nat) : Fld := ⟨0xa010 + i * 0x40, 1, 1, .w1c, 0⟩
def PS_EVT_HALT (i : Nat) : Fld := ⟨0xa010 + i * 0x40, 0, 1, .w1c, 0⟩

def PS_STEPADDR_ADDR (i : Nat) : Fld := ⟨0xa014 + i * 0x40, 0, 6, .rw, 0⟩

def PS_STEPDATA_WORD (i : Nat) : Fld := ⟨0xa018 + i * 0x40, 0, 32, .rw, 0⟩

def PS_INJECT_WORD (i : Nat) : Fld := ⟨0xa01c + i * 0x40, 0, 32, .wo, 0⟩

def PS_SNDF_DATA (i : Nat) : Fld := ⟨0xa020 + i * 0x40, 0, 32, .wo, 0⟩

def PS_RCVF_DATA (i : Nat) : Fld := ⟨0xa024 + i * 0x40, 0, 32, .ro, 0⟩

def PS_TALLY01_T1 (i : Nat) : Fld := ⟨0xa028 + i * 0x40, 16, 16, .rw, 0⟩
def PS_TALLY01_T0 (i : Nat) : Fld := ⟨0xa028 + i * 0x40, 0, 16, .rw, 0⟩

def PS_TALLY23_T3 (i : Nat) : Fld := ⟨0xa02c + i * 0x40, 16, 16, .rw, 0⟩
def PS_TALLY23_T2 (i : Nat) : Fld := ⟨0xa02c + i * 0x40, 0, 16, .rw, 0⟩

def PS_PINST_IN (i : Nat) : Fld := ⟨0xa030 + i * 0x40, 16, 8, .ro, 0⟩
def PS_PINST_OE (i : Nat) : Fld := ⟨0xa030 + i * 0x40, 8, 8, .rw, 0⟩
def PS_PINST_OUT (i : Nat) : Fld := ⟨0xa030 + i * 0x40, 0, 8, .rw, 0⟩

def PS_SER_SER (i : Nat) : Fld := ⟨0xa034 + i * 0x40, 0, 32, .ro, 0⟩

def PS_FLAGS_CLR : Fld := ⟨0xa038, 16, 16, .wo, 0⟩
def PS_FLAGS_FLAGS : Fld := ⟨0xa038, 0, 16, .w1s, 0⟩

def PS_GCTRL_PEND : Fld := ⟨0xa03c, 20, 1, .ro, 0⟩
def PS_GCTRL_TIMED : Fld := ⟨0xa03c, 19, 1, .rw, 0⟩
def PS_GCTRL_STOP : Fld := ⟨0xa03c, 18, 1, .wo, 0⟩
def PS_GCTRL_GO : Fld := ⟨0xa03c, 17, 1, .wo, 0⟩
def PS_GCTRL_MASK : Fld := ⟨0xa03c, 0, 16, .rw, 0⟩

/-! 17_ring_port.md, R441 -/
def RING_CTRL_CENSEN : Fld := ⟨0x6000, 1, 1, .rw, 0⟩
def RING_CTRL_EN : Fld := ⟨0x6000, 0, 1, .rw, 0⟩

def RING_ME_ID : Fld := ⟨0x6004, 0, 16, .rw, 0xffff⟩

def RING_STAT_UP : Fld := ⟨0x6008, 16, 4, .ro, 0⟩
def RING_STAT_SQWAIT : Fld := ⟨0x6008, 0, 9, .ro, 0⟩

def RING_EVT_LATESACK : Fld := ⟨0x600c, 7, 1, .w1c, 0⟩
def RING_EVT_SFAIL : Fld := ⟨0x600c, 6, 1, .w1c, 0⟩
def RING_EVT_DROP : Fld := ⟨0x600c, 5, 1, .w1c, 0⟩
def RING_EVT_PEERTHR : Fld := ⟨0x600c, 4, 1, .w1c, 0⟩
def RING_EVT_LINKCHG : Fld := ⟨0x600c, 3, 1, .w1c, 0⟩
def RING_EVT_SPILLDONE : Fld := ⟨0x600c, 2, 1, .w1c, 0⟩
def RING_EVT_SPILLIN : Fld := ⟨0x600c, 1, 1, .w1c, 0⟩
def RING_EVT_CENSUS : Fld := ⟨0x600c, 0, 1, .w1c, 0⟩

def RING_RTTMAX_NS : Fld := ⟨0x6010, 0, 16, .rw, 0x1770⟩

def RING_CENSUS_US : Fld := ⟨0x6014, 0, 16, .rw, 0x3e8⟩

def RING_SPTMO_US : Fld := ⟨0x6018, 0, 16, .rw, 0x64⟩

def RING_SUBMIT_COUNT : Fld := ⟨0x601c, 0, 9, .wo, 0⟩

def RING_SQ_LO_ADDR : Fld := ⟨0x6020, 14, 18, .rw, 0⟩

def RING_SQ_HI_ADDR : Fld := ⟨0x6024, 0, 16, .rw, 0⟩

def RING_EQ_LO_ADDR : Fld := ⟨0x6028, 17, 15, .rw, 0⟩

def RING_EQ_HI_ADDR : Fld := ⟨0x602c, 0, 16, .rw, 0⟩

def RING_EQTAIL_PHASE : Fld := ⟨0x6030, 10, 1, .ro, 1⟩
def RING_EQTAIL_INDEX : Fld := ⟨0x6030, 0, 10, .ro, 0⟩

def RING_EQHEAD_INDEX : Fld := ⟨0x6034, 0, 10, .rw, 0⟩

def RING_CRBUF_LO_ADDR : Fld := ⟨0x6038, 16, 16, .rw, 0⟩

def RING_CRBUF_HI_ADDR : Fld := ⟨0x603c, 0, 16, .rw, 0⟩

def RING_CRKRES_KRES : Fld := ⟨0x6040, 0, 32, .rw, 0⟩

def RING_CRPUSH_LINK : Fld := ⟨0x6044, 16, 2, .wo, 0⟩
def RING_CRPUSH_SIZE : Fld := ⟨0x6044, 0, 5, .wo, 0⟩

def RING_DROP_AGED : Fld := ⟨0x6048, 16, 16, .ro, 0⟩
def RING_DROP_LATESACK : Fld := ⟨0x6048, 0, 16, .ro, 0⟩

def LINK_CFG_EN (i : Nat) : Fld := ⟨0x6080 + i * 0x10, 31, 1, .rw, 0⟩
def LINK_CFG_NOFWD (i : Nat) : Fld := ⟨0x6080 + i * 0x10, 30, 1, .rw, 0⟩

def LINK_STAT_STATE (i : Nat) : Fld := ⟨0x6084 + i * 0x10, 30, 2, .ro, 0⟩
def LINK_STAT_RCRED (i : Nat) : Fld := ⟨0x6084 + i * 0x10, 16, 5, .ro, 0⟩
def LINK_STAT_LCRED (i : Nat) : Fld := ⟨0x6084 + i * 0x10, 0, 5, .ro, 0⟩

def LINK_RTT_MAX (i : Nat) : Fld := ⟨0x6088 + i * 0x10, 16, 16, .ro, 0⟩
def LINK_RTT_LAST (i : Nat) : Fld := ⟨0x6088 + i * 0x10, 0, 16, .ro, 0⟩

def LINK_PEER_VALID (i : Nat) : Fld := ⟨0x608c + i * 0x10, 16, 1, .ro, 0⟩
def LINK_PEER_ID (i : Nat) : Fld := ⟨0x608c + i * 0x10, 0, 16, .ro, 0xffff⟩

/-! 18_power_and_drip.md, R457 -/
def PWR_CTRL_WAKE : Fld := ⟨0x1000, 2, 1, .wo, 0⟩
def PWR_CTRL_RINGOFF : Fld := ⟨0x1000, 1, 1, .rw, 0⟩
def PWR_CTRL_PERIOFF : Fld := ⟨0x1000, 0, 1, .rw, 0⟩

def PWR_STAT_EMUL : Fld := ⟨0x1004, 8, 1, .ro, 0⟩
def PWR_STAT_DRIP : Fld := ⟨0x1004, 7, 1, .ro, 0⟩
def PWR_STAT_PHASE : Fld := ⟨0x1004, 4, 3, .ro, 0⟩
def PWR_STAT_DOMQ : Fld := ⟨0x1004, 0, 4, .ro, 0⟩

def PWR_EVT_ABANDON : Fld := ⟨0x1008, 4, 1, .w1c, 0⟩
def PWR_EVT_DOMREF : Fld := ⟨0x1008, 3, 1, .w1c, 0⟩
def PWR_EVT_DOMDONE : Fld := ⟨0x1008, 2, 1, .w1c, 0⟩
def PWR_EVT_REFUSED : Fld := ⟨0x1008, 1, 1, .w1c, 0⟩
def PWR_EVT_WAKE : Fld := ⟨0x1008, 0, 1, .w1c, 0⟩

def PWR_DRIP_CAUSE : Fld := ⟨0x100c, 1, 3, .ro, 0⟩
def PWR_DRIP_ENTER : Fld := ⟨0x100c, 0, 1, .wo, 0⟩

def PWR_WAKESTAT_KIND : Fld := ⟨0x1010, 30, 2, .ro, 0⟩
def PWR_WAKESTAT_SRC : Fld := ⟨0x1010, 0, 10, .ro, 0⟩

def PWR_DRIPCNT_COUNT : Fld := ⟨0x1014, 0, 32, .ro, 0⟩

def PWR_ENG_BUSY (i : Nat) : Fld := ⟨0x1100 + i * 0x4, 16, 1, .ro, 0⟩
def PWR_ENG_STATE (i : Nat) : Fld := ⟨0x1100 + i * 0x4, 8, 2, .ro, 2⟩
def PWR_ENG_AUTOWAKE (i : Nat) : Fld := ⟨0x1100 + i * 0x4, 2, 1, .rw, 0⟩
def PWR_ENG_REQ (i : Nat) : Fld := ⟨0x1100 + i * 0x4, 0, 2, .rw, 2⟩

def PWR_BANK_BUSY (i : Nat) : Fld := ⟨0x1220 + i * 0x4, 16, 1, .ro, 0⟩
def PWR_BANK_STATE (i : Nat) : Fld := ⟨0x1220 + i * 0x4, 8, 2, .ro, 2⟩
def PWR_BANK_REQ (i : Nat) : Fld := ⟨0x1220 + i * 0x4, 0, 2, .rw, 2⟩

/-! 19_debug_and_trace.md, R482 -/
def ENG_DBGCTL_TREN (i : Nat) : Fld := ⟨0x40000 + i * 0x100, 11, 1, .rw, 0⟩
def ENG_DBGCTL_STEPU (i : Nat) : Fld := ⟨0x40000 + i * 0x100, 9, 1, .rw, 0⟩
def ENG_DBGCTL_HALTMODE (i : Nat) : Fld := ⟨0x40000 + i * 0x100, 8, 1, .rw, 0⟩
def ENG_DBGCTL_CANCEL (i : Nat) : Fld := ⟨0x40000 + i * 0x100, 3, 1, .wo, 0⟩
def ENG_DBGCTL_STEP (i : Nat) : Fld := ⟨0x40000 + i * 0x100, 2, 1, .wo, 0⟩
def ENG_DBGCTL_RESUME (i : Nat) : Fld := ⟨0x40000 + i * 0x100, 1, 1, .wo, 0⟩
def ENG_DBGCTL_HALT (i : Nat) : Fld := ⟨0x40000 + i * 0x100, 0, 1, .wo, 0⟩

def ENG_DBGSTAT_WREF (i : Nat) : Fld := ⟨0x40004 + i * 0x100, 15, 1, .w1c, 0⟩
def ENG_DBGSTAT_RESERR (i : Nat) : Fld := ⟨0x40004 + i * 0x100, 14, 1, .w1c, 0⟩
def ENG_DBGSTAT_HIT (i : Nat) : Fld := ⟨0x40004 + i * 0x100, 13, 1, .w1c, 0⟩
def ENG_DBGSTAT_HITCMP (i : Nat) : Fld := ⟨0x40004 + i * 0x100, 10, 3, .ro, 0⟩
def ENG_DBGSTAT_HITDATA (i : Nat) : Fld := ⟨0x40004 + i * 0x100, 9, 1, .ro, 0⟩
def ENG_DBGSTAT_MONITOR (i : Nat) : Fld := ⟨0x40004 + i * 0x100, 4, 1, .ro, 0⟩
def ENG_DBGSTAT_INSTR (i : Nat) : Fld := ⟨0x40004 + i * 0x100, 3, 1, .ro, 0⟩
def ENG_DBGSTAT_STEPPING (i : Nat) : Fld := ⟨0x40004 + i * 0x100, 2, 1, .ro, 0⟩
def ENG_DBGSTAT_PENDING (i : Nat) : Fld := ⟨0x40004 + i * 0x100, 1, 1, .ro, 0⟩
def ENG_DBGSTAT_CSTOP (i : Nat) : Fld := ⟨0x40004 + i * 0x100, 0, 1, .ro, 0⟩

def ENG_DBGHIT_LO_ADDR (i : Nat) : Fld := ⟨0x40008 + i * 0x100, 0, 32, .ro, 0⟩

def ENG_DBGHIT_HI_ADDR (i : Nat) : Fld := ⟨0x4000c + i * 0x100, 0, 16, .ro, 0⟩

def ENG_DBGRSEL_SEL (i : Nat) : Fld := ⟨0x40080 + i * 0x100, 0, 7, .rw, 0⟩

def ENG_DBGRD_LO_DATA (i : Nat) : Fld := ⟨0x40084 + i * 0x100, 0, 32, .rw, 0⟩

def ENG_DBGRD_HI_DATA (i : Nat) : Fld := ⟨0x40088 + i * 0x100, 0, 32, .rw, 0⟩

def ENG_CMPIDX_INDEX (i : Nat) : Fld := ⟨0x40090 + i * 0x100, 0, 3, .rw, 0⟩

def ENG_CMPA_LO_A (i : Nat) : Fld := ⟨0x40094 + i * 0x100, 0, 32, .rw, 0⟩

def ENG_CMPA_HI_A (i : Nat) : Fld := ⟨0x40098 + i * 0x100, 0, 32, .rw, 0⟩

def ENG_CMPB_LO_B (i : Nat) : Fld := ⟨0x4009c + i * 0x100, 0, 32, .rw, 0⟩

def ENG_CMPB_HI_B (i : Nat) : Fld := ⟨0x400a0 + i * 0x100, 0, 32, .rw, 0⟩

def ENG_CMPCTX_CTXID (i : Nat) : Fld := ⟨0x400a4 + i * 0x100, 0, 32, .rw, 0⟩

def ENG_CMPCTL_EN (i : Nat) : Fld := ⟨0x400a8 + i * 0x100, 31, 1, .rw, 0⟩
def ENG_CMPCTL_CTXEN (i : Nat) : Fld := ⟨0x400a8 + i * 0x100, 30, 1, .rw, 0⟩
def ENG_CMPCTL_LVL (i : Nat) : Fld := ⟨0x400a8 + i * 0x100, 26, 4, .rw, 0⟩
def ENG_CMPCTL_LINK (i : Nat) : Fld := ⟨0x400a8 + i * 0x100, 24, 2, .rw, 0⟩
def ENG_CMPCTL_ACTION (i : Nat) : Fld := ⟨0x400a8 + i * 0x100, 16, 4, .rw, 0⟩
def ENG_CMPCTL_TYPE (i : Nat) : Fld := ⟨0x400a8 + i * 0x100, 0, 4, .rw, 0⟩

def ENG_PMC_COUNT (i j : Nat) : Fld := ⟨0x400c0 + i * 0x100 + j * 0x4, 0, 32, .rw, 0⟩

def ENG_PMSEL_LO_EVT0 (i : Nat) : Fld := ⟨0x400e0 + i * 0x100, 0, 8, .rw, 0⟩
def ENG_PMSEL_LO_EVT1 (i : Nat) : Fld := ⟨0x400e0 + i * 0x100, 8, 8, .rw, 0⟩
def ENG_PMSEL_LO_EVT2 (i : Nat) : Fld := ⟨0x400e0 + i * 0x100, 16, 8, .rw, 0⟩
def ENG_PMSEL_LO_EVT3 (i : Nat) : Fld := ⟨0x400e0 + i * 0x100, 24, 8, .rw, 0⟩

def ENG_PMSEL_HI_EVT0 (i : Nat) : Fld := ⟨0x400e4 + i * 0x100, 0, 8, .rw, 0⟩
def ENG_PMSEL_HI_EVT1 (i : Nat) : Fld := ⟨0x400e4 + i * 0x100, 8, 8, .rw, 0⟩
def ENG_PMSEL_HI_EVT2 (i : Nat) : Fld := ⟨0x400e4 + i * 0x100, 16, 8, .rw, 0⟩
def ENG_PMSEL_HI_EVT3 (i : Nat) : Fld := ⟨0x400e4 + i * 0x100, 24, 8, .rw, 0⟩

def ENG_PMCTL_OVF (i : Nat) : Fld := ⟨0x400e8 + i * 0x100, 24, 8, .w1c, 0⟩
def ENG_PMCTL_LINK (i : Nat) : Fld := ⟨0x400e8 + i * 0x100, 8, 4, .rw, 0⟩
def ENG_PMCTL_CLR (i : Nat) : Fld := ⟨0x400e8 + i * 0x100, 2, 1, .wo, 0⟩
def ENG_PMCTL_FRZHALT (i : Nat) : Fld := ⟨0x400e8 + i * 0x100, 1, 1, .rw, 1⟩
def ENG_PMCTL_EN (i : Nat) : Fld := ⟨0x400e8 + i * 0x100, 0, 1, .rw, 0⟩

/-! 19_debug_and_trace.md, R483 -/
def DBG_CTRL_DRESET : Fld := ⟨0x80000, 1, 1, .wo, 0⟩
def DBG_CTRL_ATTACH : Fld := ⟨0x80000, 0, 1, .rw, 0⟩

def DBG_STAT_DENIED : Fld := ⟨0x80004, 2, 1, .w1c, 0⟩
def DBG_STAT_OVR : Fld := ⟨0x80004, 1, 1, .w1c, 0⟩
def DBG_STAT_SEALED : Fld := ⟨0x80004, 0, 1, .ro, 0⟩

def DBG_EMU_SLEEP_SLEEP : Fld := ⟨0x80008, 0, 1, .rw, 0⟩

def DBG_XHALT_SE (i : Nat) : Fld := ⟨0x8000c + i * 0x4, 0, 32, .rw, 0⟩

def DBG_XHALT2_SE : Fld := ⟨0x80014, 0, 8, .rw, 0⟩

def DBG_HALTED_SE (i : Nat) : Fld := ⟨0x80018 + i * 0x4, 0, 32, .ro, 0⟩

def DBG_XRESUME_GO : Fld := ⟨0x80024, 0, 1, .wo, 0⟩

def TRC_CTRL_STOPFULL : Fld := ⟨0x80040, 2, 1, .rw, 1⟩
def TRC_CTRL_SINK : Fld := ⟨0x80040, 1, 1, .rw, 0⟩
def TRC_CTRL_EN : Fld := ⟨0x80040, 0, 1, .rw, 0⟩

def TRC_STAT_LEVEL : Fld := ⟨0x80044, 0, 9, .ro, 0⟩

def TRC_BUF_LO_ADDR : Fld := ⟨0x80048, 16, 16, .rw, 0⟩

def TRC_BUF_HI_ADDR : Fld := ⟨0x8004c, 0, 16, .rw, 0⟩

def TRC_SIZE_SIZE : Fld := ⟨0x80050, 0, 4, .rw, 0⟩

def TRC_WPTR_OFFSET : Fld := ⟨0x80054, 0, 32, .ro, 0⟩

def TRC_LOST_COUNT : Fld := ⟨0x80058, 0, 32, .ro, 0⟩

def GPC_COUNT (i : Nat) : Fld := ⟨0x80100 + i * 0x4, 0, 32, .ro, 0⟩

def GPSEL_EVT0 (i : Nat) : Fld := ⟨0x80200 + i * 0x4, 0, 8, .rw, 0⟩
def GPSEL_EVT1 (i : Nat) : Fld := ⟨0x80200 + i * 0x4, 8, 8, .rw, 0⟩
def GPSEL_EVT2 (i : Nat) : Fld := ⟨0x80200 + i * 0x4, 16, 8, .rw, 0⟩
def GPSEL_EVT3 (i : Nat) : Fld := ⟨0x80200 + i * 0x4, 24, 8, .rw, 0⟩

def GPCTL_CLR : Fld := ⟨0x80240, 1, 1, .wo, 0⟩
def GPCTL_EN : Fld := ⟨0x80240, 0, 1, .rw, 0⟩

def VT_DTX_DATA (i : Nat) : Fld := ⟨0x80280 + i * 0x10, 0, 32, .rw, 0⟩

def VT_DRX_DATA (i : Nat) : Fld := ⟨0x80284 + i * 0x10, 0, 32, .rw, 0⟩

def VT_STAT_TXLVL (i : Nat) : Fld := ⟨0x80288 + i * 0x10, 16, 5, .ro, 0⟩
def VT_STAT_RXLVL (i : Nat) : Fld := ⟨0x80288 + i * 0x10, 8, 5, .ro, 0⟩
def VT_STAT_RXUNF (i : Nat) : Fld := ⟨0x80288 + i * 0x10, 2, 1, .w1c, 0⟩
def VT_STAT_RXOVR (i : Nat) : Fld := ⟨0x80288 + i * 0x10, 1, 1, .w1c, 0⟩
def VT_STAT_TXOVR (i : Nat) : Fld := ⟨0x80288 + i * 0x10, 0, 1, .w1c, 0⟩

def VT_CTL_POPTX (i : Nat) : Fld := ⟨0x8028c + i * 0x10, 31, 1, .wo, 0⟩
def VT_CTL_FLUSH (i : Nat) : Fld := ⟨0x8028c + i * 0x10, 30, 1, .wo, 0⟩
def VT_CTL_TXIE (i : Nat) : Fld := ⟨0x8028c + i * 0x10, 1, 1, .rw, 0⟩
def VT_CTL_RXIE (i : Nat) : Fld := ⟨0x8028c + i * 0x10, 0, 1, .rw, 0⟩

/-! 20_block_interface.md, R504 -/
def INTEG_CHAN_PRESENT : Fld := ⟨0x80, 0, 32, .ro, Config.chanPresent % 2 ^ 32⟩

def INTEG_DRAM_GIB : Fld := ⟨0x84, 0, 9, .ro, Config.dramGib % 2 ^ 9⟩

def INTEG_ADC_MSAPS : Fld := ⟨0x88, 16, 8, .ro, 1⟩
def INTEG_ADC_UVLSB : Fld := ⟨0x88, 0, 12, .ro, 0xbb8⟩

def INTEG_OPT_FECLS : Fld := ⟨0x8c, 3, 3, .ro, Config.feCls % 8⟩
def INTEG_OPT_AX1 : Fld := ⟨0x8c, 2, 1, .ro, Config.axis1 % 2⟩
def INTEG_OPT_AX0 : Fld := ⟨0x8c, 1, 1, .ro, Config.axis0 % 2⟩
def INTEG_OPT_RING : Fld := ⟨0x8c, 0, 1, .ro, Config.ring % 2⟩

def INTEG_MFR_MFR : Fld := ⟨0x90, 0, 11, .ro, Config.mfr % 2 ^ 11⟩

/-! 21_register_map.md, R513 -/
def GLB_ID_FAMILY : Fld := ⟨0x0, 16, 16, .ro, 0xf1a⟩
def GLB_ID_PART : Fld := ⟨0x0, 0, 16, .ro, 0x72⟩

def GLB_REV_IPREV : Fld := ⟨0x4, 16, 8, .ro, 0xc1⟩
def GLB_REV_RELMAJ : Fld := ⟨0x4, 8, 8, .ro, 3⟩
def GLB_REV_RELMIN : Fld := ⟨0x4, 0, 8, .ro, 2⟩

def GLB_RSTCAUSE_AFTERPF : Fld := ⟨0xc, 2, 1, .w1c, 0⟩
def GLB_RSTCAUSE_BLOCK : Fld := ⟨0xc, 1, 1, .w1c, 0⟩
def GLB_RSTCAUSE_POWERON : Fld := ⟨0xc, 0, 1, .w1c, 1⟩

def GLB_SCRATCH_DATA (i : Nat) : Fld := ⟨0x10 + i * 0x4, 0, 32, .rw, 0⟩

def GLB_EVTSUM_CB : Fld := ⟨0x20, 9, 1, .ro, 0⟩
def GLB_EVTSUM_LOCKUP : Fld := ⟨0x20, 8, 1, .ro, 0⟩
def GLB_EVTSUM_CREMA : Fld := ⟨0x20, 7, 1, .ro, 0⟩
def GLB_EVTSUM_PWR : Fld := ⟨0x20, 6, 1, .ro, 0⟩
def GLB_EVTSUM_TIME : Fld := ⟨0x20, 5, 1, .ro, 0⟩
def GLB_EVTSUM_RING : Fld := ⟨0x20, 4, 1, .ro, 0⟩
def GLB_EVTSUM_MP : Fld := ⟨0x20, 3, 1, .ro, 0⟩
def GLB_EVTSUM_SPM : Fld := ⟨0x20, 2, 1, .ro, 0⟩
def GLB_EVTSUM_INT : Fld := ⟨0x20, 1, 1, .ro, 0⟩
def GLB_EVTSUM_KET : Fld := ⟨0x20, 0, 1, .ro, 0⟩

/-! 21_register_map.md, R516 -/
def ENG_ID_RUN (i : Nat) : Fld := ⟨0x4003c + i * 0x100, 31, 1, .ro, 0⟩
def ENG_ID_CFGREF (i : Nat) : Fld := ⟨0x4003c + i * 0x100, 30, 1, .w1c, 0⟩
def ENG_ID_LE (i : Nat) : Fld := ⟨0x4003c + i * 0x100, 16, 6, .ro, 0⟩
def ENG_ID_CLUSTER (i : Nat) : Fld := ⟨0x4003c + i * 0x100, 12, 3, .ro, i / 9⟩
def ENG_ID_SLOT (i : Nat) : Fld := ⟨0x4003c + i * 0x100, 8, 4, .ro, i % 9⟩
def ENG_ID_PE (i : Nat) : Fld := ⟨0x4003c + i * 0x100, 0, 7, .ro, i⟩

/-- Rows of the register window, part 0. -/
def rows0 : List RegRow := [
  ⟨0x8, 1, 0x1, 1, 0x1, fun _ _ => [LC_STATE_STATE]⟩,
  ⟨0x40010, 72, 0x100, 1, 0x1, fun i _ => [ENG_CLK_BADSTEP i, ENG_CLK_PENDING i, ENG_CLK_LOCKED i, ENG_CLK_FSTEP i]⟩,
  ⟨0x40014, 72, 0x100, 1, 0x1, fun i _ => [ENG_USTAT_WRERR i, ENG_USTAT_MSGDROP i, ENG_USTAT_HALTED i, ENG_USTAT_UTIN i, ENG_USTAT_LASTCAUSE i, ENG_USTAT_UTPC i]⟩,
  ⟨0x40018, 72, 0x100, 1, 0x1, fun i _ => [ENG_LKSTAT_BRKCAUSE i, ENG_LKSTAT_LKCNT i, ENG_LKSTAT_LOCKBREAK i, ENG_LKSTAT_LKACT i]⟩,
  ⟨0x4001c, 72, 0x100, 1, 0x1, fun i _ => [ENG_CHSTAT_FLUSHOUT i, ENG_CHSTAT_OUTLVL i, ENG_CHSTAT_INLVL i]⟩,
  ⟨0x104, 1, 0x1, 1, 0x1, fun _ _ => [LDR_STAT_MVALID, LDR_STAT_CAUSE, LDR_STAT_PHASE]⟩,
  ⟨0x108, 1, 0x1, 1, 0x1, fun _ _ => [LDR_IMGADDR_LO_ADDR]⟩,
  ⟨0x10c, 1, 0x1, 1, 0x1, fun _ _ => [LDR_IMGADDR_HI_ADDR]⟩,
  ⟨0x110, 12, 0x4, 1, 0x1, fun i _ => [LDR_MANIFEST_DIG i]⟩,
  ⟨0x40020, 72, 0x100, 1, 0x1, fun i _ => [ENG_CSVER_DIGPFX i, ENG_CSVER_MAJOR i, ENG_CSVER_MINOR i, ENG_CSVER_PATCH i, ENG_CSVER_MSFV i]⟩,
  ⟨0x40024, 72, 0x100, 1, 0x1, fun i _ => [ENG_CSSTAT_IMGST i, ENG_CSSTAT_SPUSED i, ENG_CSSTAT_CECNT i, ENG_CSSTAT_CLRCNT i, ENG_CSSTAT_UEPEND i]⟩,
  ⟨0x40028, 72, 0x100, 1, 0x1, fun i _ => [ENG_CSERR_REMAPPED i, ENG_CSERR_UE i, ENG_CSERR_ROW i]⟩,
  ⟨0x2100, 1, 0x1, 1, 0x1, fun _ _ => [ACT_CTRL_MODE, ACT_CTRL_ABORT, ACT_CTRL_START]⟩,
  ⟨0x2104, 1, 0x1, 1, 0x1, fun _ _ => [ACT_STAT_MSFVCHG, ACT_STAT_CAUSE, ACT_STAT_STEPS, ACT_STAT_CLUSTER, ACT_STAT_PHASE]⟩,
  ⟨0x2108, 1, 0x1, 1, 0x1, fun _ _ => [ACT_IMGADDR_LO_ADDR]⟩,
  ⟨0x210c, 1, 0x1, 1, 0x1, fun _ _ => [ACT_IMGADDR_HI_ADDR]⟩,
  ⟨0x20000, 64, 0x20, 1, 0x1, fun i _ => [CB_CTRL_CLRCNT i, CB_CTRL_DRIPPOL i, CB_CTRL_OWNER i]⟩,
  ⟨0x20004, 64, 0x20, 1, 0x1, fun i _ => [CB_STAT_SPFULL i, CB_STAT_SPUSED i, CB_STAT_LOCKS i, CB_STAT_INIT i, CB_STAT_PSTATE i]⟩,
  ⟨0x20008, 64, 0x20, 1, 0x1, fun i _ => [CB_ECCCNT_UECNT i, CB_ECCCNT_RFCNT i, CB_ECCCNT_CECNT i]⟩,
  ⟨0x2000c, 64, 0x20, 1, 0x1, fun i _ => [CB_ERRADDR_DROPST i, CB_ERRADDR_REFETCHED i, CB_ERRADDR_REMAPPED i, CB_ERRADDR_UE i, CB_ERRADDR_LINE i]⟩,
  ⟨0x20010, 64, 0x20, 1, 0x1, fun i _ => [CB_EVT_HOSTRF i, CB_EVT_SPFULL i, CB_EVT_DROPST i, CB_EVT_UNREP i]⟩,
  ⟨0x20014, 64, 0x20, 1, 0x1, fun i _ => [CB_SCRUB_ACTIVE i, CB_SCRUB_NEXT i]⟩,
  ⟨0x20018, 64, 0x20, 1, 0x1, fun i _ => [CB_ARB_LASTRQ i, CB_ARB_ENTRIES i]⟩,
  ⟨0x2001c, 64, 0x20, 1, 0x1, fun i _ => [CB_WAITCNT_COUNT i]⟩,
  ⟨0x4000, 1, 0x1, 1, 0x1, fun _ _ => [INT_CTRL_AGE, INT_CTRL_HOLD, INT_CTRL_EN]⟩,
  ⟨0x4004, 1, 0x1, 1, 0x1, fun _ _ => [INT_STAT_HELD, INT_STAT_RSTACT, INT_STAT_INUSE]⟩,
  ⟨0x4008, 1, 0x1, 1, 0x1, fun _ _ => [INT_EVT_HELD, INT_EVT_HWM, INT_EVT_RSTDONE, INT_EVT_TUE, INT_EVT_DUPCID, INT_EVT_NOFIT, INT_EVT_LENERR, INT_EVT_ABORTC]⟩,
  ⟨0x400c, 1, 0x1, 1, 0x1, fun _ _ => [INT_HWM_HWM]⟩,
  ⟨0x4010, 1, 0x1, 1, 0x1, fun _ _ => [INT_CSEQ_CSEQ]⟩,
  ⟨0x4014, 1, 0x1, 1, 0x1, fun _ _ => [INT_DHOR_DHOR]⟩,
  ⟨0x4018, 5, 0x4, 1, 0x1, fun i _ => [INT_Q_COUNT i]⟩,
  ⟨0x402c, 1, 0x1, 1, 0x1, fun _ _ => [INT_ABCNT_NOTCAUGHT, INT_ABCNT_CAUGHT]⟩,
  ⟨0x4030, 1, 0x1, 1, 0x1, fun _ _ => [INT_LENCNT_COUNT]⟩,
  ⟨0x4034, 1, 0x1, 1, 0x1, fun _ _ => [INT_TERR_CECNT, INT_TERR_UE, INT_TERR_TAG]⟩,
  ⟨0x4038, 1, 0x1, 1, 0x1, fun _ _ => [INT_DREC_LO_ADDR]⟩,
  ⟨0x403c, 1, 0x1, 1, 0x1, fun _ _ => [INT_DREC_HI_ADDR]⟩,
  ⟨0x4040, 1, 0x1, 1, 0x1, fun _ _ => [INT_WB_LO_ADDR]⟩,
  ⟨0x4044, 1, 0x1, 1, 0x1, fun _ _ => [INT_WB_HI_ADDR]⟩,
  ⟨0x4048, 1, 0x1, 1, 0x1, fun _ _ => [INT_WBSIZE_FREE, INT_WBSIZE_SIZE]⟩,
  ⟨0x4080, 8, 0x8, 1, 0x1, fun i _ => [INT_RULE_M_VALID i, INT_RULE_M_CAPCARE i, INT_RULE_M_CAP i, INT_RULE_M_ADMQCARE i, INT_RULE_M_ADMQ i, INT_RULE_M_OPCMASK i, INT_RULE_M_OPC i]⟩]

/-- Rows of the register window, part 1. -/
def rows1 : List RegRow := [
  ⟨0x4084, 8, 0x8, 1, 0x1, fun i _ => [INT_RULE_A_FLUSH i, INT_RULE_A_AUTOCPL i, INT_RULE_A_ENERGY i, INT_RULE_A_LAND i, INT_RULE_A_GROUP i]⟩,
  ⟨0x40c0, 8, 0x8, 1, 0x1, fun i _ => [INT_GRP_LO_MASK i]⟩,
  ⟨0x40c4, 8, 0x8, 1, 0x1, fun i _ => [INT_GRP_HI_MASK i]⟩,
  ⟨0x4100, 64, 0x4, 1, 0x1, fun i _ => [INT_STG_FREE i, INT_STG_SIZE i, INT_STG_BANK i, INT_STG_BASE i]⟩,
  ⟨0x200, 1, 0x1, 1, 0x1, fun _ _ => [MP_CTRL_JFLUSH, MP_CTRL_EN]⟩,
  ⟨0x204, 1, 0x1, 1, 0x1, fun _ _ => [MP_STAT_PFAIL, MP_STAT_JSTALL, MP_STAT_OUTST]⟩,
  ⟨0x208, 1, 0x1, 1, 0x1, fun _ _ => [MP_SUBMIT_COUNT, MP_SUBMIT_SLOT]⟩,
  ⟨0x20c, 1, 0x1, 1, 0x1, fun _ _ => [MP_CHSEL_SLOT]⟩,
  ⟨0x210, 1, 0x1, 1, 0x1, fun _ _ => [MP_CHQ_FREE, MP_CHQ_HEAD]⟩,
  ⟨0x214, 1, 0x1, 1, 0x1, fun _ _ => [MP_RING_LO_ADDR]⟩,
  ⟨0x218, 1, 0x1, 1, 0x1, fun _ _ => [MP_RING_HI_ADDR]⟩,
  ⟨0x21c, 1, 0x1, 1, 0x1, fun _ _ => [MP_CPL_LO_ADDR]⟩,
  ⟨0x220, 1, 0x1, 1, 0x1, fun _ _ => [MP_CPL_HI_ADDR]⟩,
  ⟨0x224, 1, 0x1, 1, 0x1, fun _ _ => [MP_CPLTAIL_PHASE, MP_CPLTAIL_INDEX]⟩,
  ⟨0x228, 1, 0x1, 1, 0x1, fun _ _ => [MP_CPLHEAD_INDEX]⟩,
  ⟨0x22c, 1, 0x1, 1, 0x1, fun _ _ => [MP_JBUF_LO_ADDR]⟩,
  ⟨0x230, 1, 0x1, 1, 0x1, fun _ _ => [MP_JBUF_HI_ADDR]⟩,
  ⟨0x234, 1, 0x1, 1, 0x1, fun _ _ => [MP_JNEXT_LO_GRAN]⟩,
  ⟨0x238, 1, 0x1, 1, 0x1, fun _ _ => [MP_JNEXT_HI_GRAN]⟩,
  ⟨0x23c, 1, 0x1, 1, 0x1, fun _ _ => [MP_JROOM_ROOM]⟩,
  ⟨0x240, 1, 0x1, 1, 0x1, fun _ _ => [MP_JSEQ_LO_JSEQ]⟩,
  ⟨0x244, 1, 0x1, 1, 0x1, fun _ _ => [MP_JSEQ_HI_JSEQ]⟩,
  ⟨0x248, 1, 0x1, 1, 0x1, fun _ _ => [MP_JLAST_LO_GRAN]⟩,
  ⟨0x24c, 1, 0x1, 1, 0x1, fun _ _ => [MP_JLAST_HI_GRAN]⟩,
  ⟨0x250, 1, 0x1, 1, 0x1, fun _ _ => [MP_EVT_JSTALL, MP_EVT_SUBOVF, MP_EVT_BADDESC, MP_EVT_MEDIAERR, MP_EVT_SRCERR]⟩,
  ⟨0x254, 1, 0x1, 1, 0x1, fun _ _ => [MP_ERRCNT_MEDIA, MP_ERRCNT_SRC]⟩,
  ⟨0x280, 8, 0x10, 1, 0x1, fun i _ => [MP_NS_CFG_EN i, MP_NS_CFG_CAPT i, MP_NS_CFG_IU64 i]⟩,
  ⟨0x284, 8, 0x10, 1, 0x1, fun i _ => [MP_NS_MAP_LO_ADDR i]⟩,
  ⟨0x288, 8, 0x10, 1, 0x1, fun i _ => [MP_NS_MAP_HI_ADDR i]⟩,
  ⟨0x28c, 8, 0x10, 1, 0x1, fun i _ => [MP_NS_IUCNT_COUNT i]⟩,
  ⟨0x3000, 1, 0x1, 1, 0x1, fun _ _ => [KET_CTRL_KEY, KET_CTRL_TESTPF, KET_CTRL_EN]⟩,
  ⟨0x3004, 1, 0x1, 1, 0x1, fun _ _ => [KET_STAT_LOWBANK, KET_STAT_THROTTLE, KET_STAT_WAITING, KET_STAT_RAILOK, KET_STAT_DRAINED, KET_STAT_ADCLOST, KET_STAT_DEFICIT, KET_STAT_PFWARN]⟩,
  ⟨0x3008, 1, 0x1, 1, 0x1, fun _ _ => [KET_EVT_LOWBANK, KET_EVT_RAILOK, KET_EVT_DRAINED, KET_EVT_ADCLOST, KET_EVT_DEFICIT, KET_EVT_THROTTLE, KET_EVT_PFWARN]⟩,
  ⟨0x300c, 1, 0x1, 1, 0x1, fun _ _ => [KET_VRAIL_MIN16, KET_VRAIL_LAST]⟩,
  ⟨0x3010, 1, 0x1, 1, 0x1, fun _ _ => [KET_VBANK_MIN16, KET_VBANK_LAST]⟩,
  ⟨0x3014, 1, 0x1, 1, 0x1, fun _ _ => [KET_CAP_CAP]⟩,
  ⟨0x3018, 1, 0x1, 1, 0x1, fun _ _ => [KET_VMIN_VMIN]⟩,
  ⟨0x301c, 1, 0x1, 1, 0x1, fun _ _ => [KET_EFF_EFF]⟩,
  ⟨0x3020, 1, 0x1, 1, 0x1, fun _ _ => [KET_MARGIN_MARGIN]⟩,
  ⟨0x3024, 1, 0x1, 1, 0x1, fun _ _ => [KET_COEF_UCOEF, KET_COEF_BCOEF]⟩]

/-- Rows of the register window, part 2. -/
def rows2 : List RegRow := [
  ⟨0x3028, 1, 0x1, 1, 0x1, fun _ _ => [KET_PF_HYST, KET_PF_PFN, KET_PF_PFV]⟩,
  ⟨0x302c, 1, 0x1, 1, 0x1, fun _ _ => [KET_E_E]⟩,
  ⟨0x3030, 1, 0x1, 1, 0x1, fun _ _ => [KET_RESV_RESV]⟩,
  ⟨0x3034, 1, 0x1, 1, 0x1, fun _ _ => [KET_HEAD_HEAD]⟩,
  ⟨0x3038, 1, 0x1, 1, 0x1, fun _ _ => [KET_THRT_US]⟩,
  ⟨0x303c, 1, 0x1, 1, 0x1, fun _ _ => [KET_LOWE_LOWE]⟩,
  ⟨0x3040, 1, 0x1, 1, 0x1, fun _ _ => [KET_STALL_COUNT]⟩,
  ⟨0x3044, 1, 0x1, 1, 0x1, fun _ _ => [KET_GRANT_COUNT]⟩,
  ⟨0x3048, 1, 0x1, 1, 0x1, fun _ _ => [KET_PFT_LO_TNOW]⟩,
  ⟨0x304c, 1, 0x1, 1, 0x1, fun _ _ => [KET_PFT_HI_TNOW]⟩,
  ⟨0x3080, 1, 0x1, 1, 0x1, fun _ _ => [PERC_STAT_P1ABAND, PERC_STAT_P5CLOSED, PERC_STAT_EMPTY]⟩,
  ⟨0x3084, 1, 0x1, 1, 0x1, fun _ _ => [PERC_WAITS_COUNT]⟩,
  ⟨0x3090, 4, 0x10, 1, 0x1, fun i _ => [PERC_WIN_LO_ADDR i]⟩,
  ⟨0x3094, 4, 0x10, 1, 0x1, fun i _ => [PERC_WIN_HI_ADDR i]⟩,
  ⟨0x3098, 4, 0x10, 1, 0x1, fun i _ => [PERC_WIN_CFG_EN i, PERC_WIN_CFG_CLS i, PERC_WIN_CFG_SIZE i]⟩,
  ⟨0x2000, 1, 0x1, 1, 0x1, fun _ _ => [SPM_POLICY_CSWORN, SPM_POLICY_RETRYLIM, SPM_POLICY_STRIKEMAX, SPM_POLICY_XCLUSTER]⟩,
  ⟨0x2004, 1, 0x1, 1, 0x1, fun _ _ => [SPM_STAT_LOGNEXT, SPM_STAT_FREE, SPM_STAT_BUSY, SPM_STAT_QDEPTH]⟩,
  ⟨0x2008, 1, 0x1, 1, 0x1, fun _ _ => [SPM_EVT_TAGSP, SPM_EVT_SPARELOW, SPM_EVT_CSREPAIR, SPM_EVT_ACT, SPM_EVT_RETIRED, SPM_EVT_OFFLINE, SPM_EVT_CMDDONE, SPM_EVT_FAULTMOVE]⟩,
  ⟨0x200c, 1, 0x1, 1, 0x1, fun _ _ => [SPM_CMD_OP, SPM_CMD_MODE, SPM_CMD_PE, SPM_CMD_LE]⟩,
  ⟨0x2010, 1, 0x1, 1, 0x1, fun _ _ => [SPM_LSEQ_LSEQ]⟩,
  ⟨0x2014, 1, 0x1, 1, 0x1, fun _ _ => [SPM_MIGLAST_MAX, SPM_MIGLAST_LAST]⟩,
  ⟨0x2018, 1, 0x1, 1, 0x1, fun _ _ => [SPM_MIGCNT_FAULT, SPM_MIGCNT_ALL]⟩,
  ⟨0x201c, 1, 0x1, 1, 0x1, fun _ _ => [SPM_TAGSP_RETIRED, SPM_TAGSP_USED]⟩,
  ⟨0x2020, 1, 0x1, 1, 0x1, fun _ _ => [SPM_LAG_COUNT]⟩,
  ⟨0x2040, 8, 0x8, 1, 0x1, fun i _ => [SPM_LOG_A_OP i, SPM_LOG_A_RESULT i, SPM_LOG_A_ORIGIN i, SPM_LOG_A_PE i, SPM_LOG_A_LE i]⟩,
  ⟨0x2044, 8, 0x8, 1, 0x1, fun i _ => [SPM_LOG_B_LSEQ i]⟩,
  ⟨0x2080, 16, 0x4, 1, 0x1, fun i _ => [SPM_MAP_RUN0 i, SPM_MAP_RUN1 i, SPM_MAP_RUN2 i, SPM_MAP_RUN3 i, SPM_MAP_PE0 i, SPM_MAP_PE1 i, SPM_MAP_PE2 i, SPM_MAP_PE3 i]⟩,
  ⟨0x2110, 18, 0x4, 1, 0x1, fun i _ => [SPM_PE_WORN0 i, SPM_PE_WORN1 i, SPM_PE_WORN2 i, SPM_PE_WORN3 i, SPM_PE_STRIKES0 i, SPM_PE_STRIKES1 i, SPM_PE_STRIKES2 i, SPM_PE_STRIKES3 i, SPM_PE_STATE0 i, SPM_PE_STATE1 i, SPM_PE_STATE2 i, SPM_PE_STATE3 i]⟩,
  ⟨0x4002c, 72, 0x100, 1, 0x1, fun i _ => [ENG_RES_RETRY i, ENG_RES_OPND i, ENG_RES_ADDR i]⟩,
  ⟨0x300, 1, 0x1, 1, 0x1, fun _ _ => [MIR_SEL_CLASS, MIR_SEL_INDEX]⟩,
  ⟨0x304, 1, 0x1, 1, 0x1, fun _ _ => [MIR_DATA_STALE, MIR_DATA_WORD]⟩,
  ⟨0x308, 1, 0x1, 1, 0x1, fun _ _ => [MIR_CMD_CMD]⟩,
  ⟨0x40040, 72, 0x100, 1, 0x1, fun i _ => [ENG_RGIDX_INDEX i]⟩,
  ⟨0x40044, 72, 0x100, 1, 0x1, fun i _ => [ENG_RGB_LO_BASE i]⟩,
  ⟨0x40048, 72, 0x100, 1, 0x1, fun i _ => [ENG_RGB_HI_BASE i]⟩,
  ⟨0x4004c, 72, 0x100, 1, 0x1, fun i _ => [ENG_RGL_LO_LIM i]⟩,
  ⟨0x40050, 72, 0x100, 1, 0x1, fun i _ => [ENG_RGL_HI_LIM i]⟩,
  ⟨0x40054, 72, 0x100, 1, 0x1, fun i _ => [ENG_RGP_EN i, ENG_RGP_PERM i]⟩,
  ⟨0x40030, 72, 0x100, 1, 0x1, fun i _ => [ENG_XSTAT_LOCKUP i, ENG_XSTAT_LKCAUSE i, ENG_XSTAT_LKVEC i, ENG_XSTAT_LKWORLD i, ENG_XSTAT_LASTVEC i]⟩,
  ⟨0x40034, 72, 0x100, 1, 0x1, fun i _ => [ENG_BOOT_LO_PC i]⟩]

/-- Rows of the register window, part 3. -/
def rows3 : List RegRow := [
  ⟨0x40038, 72, 0x100, 1, 0x1, fun i _ => [ENG_BOOT_HI_PC i]⟩,
  ⟨0x340, 1, 0x1, 1, 0x1, fun _ _ => [ENG_LOCKUP_ANY]⟩,
  ⟨0x344, 1, 0x1, 1, 0x1, fun _ _ => [LOCKUP_VEC0_SE]⟩,
  ⟨0x348, 1, 0x1, 1, 0x1, fun _ _ => [LOCKUP_VEC1_SE]⟩,
  ⟨0x34c, 1, 0x1, 1, 0x1, fun _ _ => [LOCKUP_VEC2_SE]⟩,
  ⟨0x40060, 72, 0x100, 1, 0x1, fun i _ => [ENG_WDG_CTRL_EN i, ENG_WDG_CTRL_FREEZE i, ENG_WDG_CTRL_EXP1 i]⟩,
  ⟨0x40064, 72, 0x100, 1, 0x1, fun i _ => [ENG_WDG_PERIOD_PERIOD i]⟩,
  ⟨0x40068, 72, 0x100, 1, 0x1, fun i _ => [ENG_WDG_CNT_COUNT i]⟩,
  ⟨0x4006c, 72, 0x100, 1, 0x1, fun i _ => [ENG_WDG_GRACE_GRACE i]⟩,
  ⟨0x40070, 72, 0x100, 1, 0x1, fun i _ => [ENG_WDG_SVC_KEY i]⟩,
  ⟨0x10000, 32, 0x4, 1, 0x1, fun i _ => [DIST_ENSET_EN i]⟩,
  ⟨0x10080, 32, 0x4, 1, 0x1, fun i _ => [DIST_ENCLR_EN i]⟩,
  ⟨0x10100, 32, 0x4, 1, 0x1, fun i _ => [DIST_PENDSET_PEND i]⟩,
  ⟨0x10180, 32, 0x4, 1, 0x1, fun i _ => [DIST_PENDCLR_PEND i]⟩,
  ⟨0x10200, 32, 0x4, 1, 0x1, fun i _ => [DIST_ACTIVE_ACT i]⟩,
  ⟨0x10280, 32, 0x4, 1, 0x1, fun i _ => [DIST_ROUTE_ROUTE0 i, DIST_ROUTE_ROUTE1 i, DIST_ROUTE_ROUTE2 i, DIST_ROUTE_ROUTE3 i]⟩,
  ⟨0x10400, 256, 0x4, 1, 0x1, fun i _ => [DIST_PRIO_PRIO0 i, DIST_PRIO_PRIO1 i, DIST_PRIO_PRIO2 i, DIST_PRIO_PRIO3 i]⟩,
  ⟨0x10800, 144, 0x10, 1, 0x1, fun i _ => [DIST_THRESH_THR i]⟩,
  ⟨0x10804, 144, 0x10, 1, 0x1, fun i _ => [DIST_CLAIM_VALID i, DIST_CLAIM_SRC i]⟩,
  ⟨0x10808, 144, 0x10, 1, 0x1, fun i _ => [DIST_COMPLETE_SRC i]⟩,
  ⟨0x1080c, 144, 0x10, 1, 0x1, fun i _ => [DIST_STAT_IRQ i, DIST_STAT_DB i, DIST_STAT_BADCPL i, DIST_STAT_BEST i, DIST_STAT_NACT i]⟩,
  ⟨0x8000, 64, 0x20, 1, 0x1, fun i _ => [TC_CTRL_TENANT i, TC_CTRL_OWNER i, TC_CTRL_FREEZE i, TC_CTRL_FILT i, TC_CTRL_CAPEN i, TC_CTRL_CAPPOL i, TC_CTRL_LINK i, TC_CTRL_PRESC i, TC_CTRL_RELOAD i, TC_CTRL_STOP i, TC_CTRL_ARM i]⟩,
  ⟨0x8004, 64, 0x20, 1, 0x1, fun i _ => [TC_LOAD_LOAD i]⟩,
  ⟨0x8008, 64, 0x20, 1, 0x1, fun i _ => [TC_COUNT_COUNT i]⟩,
  ⟨0x800c, 64, 0x20, 1, 0x1, fun i _ => [TC_PHASE_PHASE i]⟩,
  ⟨0x8010, 64, 0x20, 1, 0x1, fun i _ => [TC_CAPR_RISE i]⟩,
  ⟨0x8014, 64, 0x20, 1, 0x1, fun i _ => [TC_CAPF_FALL i]⟩,
  ⟨0x8018, 64, 0x20, 1, 0x1, fun i _ => [TC_CAPW_WIDTH i]⟩,
  ⟨0x801c, 64, 0x20, 1, 0x1, fun i _ => [TC_STAT_EXPCNT i, TC_STAT_CLRCNT i, TC_STAT_CAPHALF i, TC_STAT_OVR i, TC_STAT_NEW i, TC_STAT_FROZEN i, TC_STAT_WAITPH i, TC_STAT_ARMED i]⟩,
  ⟨0x380, 1, 0x1, 1, 0x1, fun _ _ => [TMR_GMASK_LO_MASK]⟩,
  ⟨0x384, 1, 0x1, 1, 0x1, fun _ _ => [TMR_GMASK_HI_MASK]⟩,
  ⟨0x388, 1, 0x1, 1, 0x1, fun _ _ => [TMR_GAT_LO_TNOW]⟩,
  ⟨0x38c, 1, 0x1, 1, 0x1, fun _ _ => [TMR_GAT_HI_TNOW]⟩,
  ⟨0x390, 1, 0x1, 1, 0x1, fun _ _ => [TMR_GCTRL_PEND, TMR_GCTRL_CANCEL, TMR_GCTRL_TIMED, TMR_GCTRL_GO]⟩,
  ⟨0x5000, 1, 0x1, 1, 0x1, fun _ _ => [TIME_CTRL_ALCLR, TIME_CTRL_LOAD, TIME_CTRL_TPEN, TIME_CTRL_STEPEN, TIME_CTRL_SERVO]⟩,
  ⟨0x5004, 1, 0x1, 1, 0x1, fun _ _ => [TIME_STAT_LOCKCNT, TIME_STAT_ALARMED, TIME_STAT_CLAMPED, TIME_STAT_HOLDOVER, TIME_STAT_LOCKED]⟩,
  ⟨0x5008, 1, 0x1, 1, 0x1, fun _ _ => [TIME_EVT_ALARM, TIME_EVT_CLAMP, TIME_EVT_TPMISS, TIME_EVT_LOCKLOST, TIME_EVT_LOCK, TIME_EVT_STEP, TIME_EVT_TPEVT]⟩,
  ⟨0x500c, 1, 0x1, 1, 0x1, fun _ _ => [TNOW_LO_TNOW]⟩,
  ⟨0x5010, 1, 0x1, 1, 0x1, fun _ _ => [TNOW_HI_TNOW]⟩,
  ⟨0x5014, 1, 0x1, 1, 0x1, fun _ _ => [TIME_SET_LO_SET]⟩]

/-- Rows of the register window, part 4. -/
def rows4 : List RegRow := [
  ⟨0x5018, 1, 0x1, 1, 0x1, fun _ _ => [TIME_SET_HI_SET]⟩,
  ⟨0x501c, 1, 0x1, 1, 0x1, fun _ _ => [TIME_INC_INC]⟩,
  ⟨0x5020, 1, 0x1, 1, 0x1, fun _ _ => [TIME_NOMINC_NOMINC]⟩,
  ⟨0x5024, 1, 0x1, 1, 0x1, fun _ _ => [TIME_SERVO_KISH, TIME_SERVO_KPSH]⟩,
  ⟨0x5028, 1, 0x1, 1, 0x1, fun _ _ => [TIME_ADJMAX_ADJMAX]⟩,
  ⟨0x502c, 1, 0x1, 1, 0x1, fun _ _ => [TIME_STEPTHR_THR]⟩,
  ⟨0x5030, 1, 0x1, 1, 0x1, fun _ _ => [TIME_LOCK_LOCKN, TIME_LOCK_LOCKTHR]⟩,
  ⟨0x5034, 1, 0x1, 1, 0x1, fun _ _ => [TIME_OFFS_THETA]⟩,
  ⟨0x5038, 1, 0x1, 1, 0x1, fun _ _ => [TIME_INTEG_INTEG]⟩,
  ⟨0x503c, 1, 0x1, 1, 0x1, fun _ _ => [TIME_TPCAP_LO_TNOW]⟩,
  ⟨0x5040, 1, 0x1, 1, 0x1, fun _ _ => [TIME_TPCAP_HI_TNOW]⟩,
  ⟨0x5044, 1, 0x1, 1, 0x1, fun _ _ => [TIME_TPREF_LO_NS]⟩,
  ⟨0x5048, 1, 0x1, 1, 0x1, fun _ _ => [TIME_TPREF_HI_NS]⟩,
  ⟨0x504c, 1, 0x1, 1, 0x1, fun _ _ => [TIME_TPGAP_MS]⟩,
  ⟨0x5050, 1, 0x1, 1, 0x1, fun _ _ => [TIME_ALARM_LO_TNOW]⟩,
  ⟨0x5054, 1, 0x1, 1, 0x1, fun _ _ => [TIME_ALARM_HI_TNOW]⟩,
  ⟨0x5058, 1, 0x1, 1, 0x1, fun _ _ => [TIME_TICKS_LO_TICKS]⟩,
  ⟨0x505c, 1, 0x1, 1, 0x1, fun _ _ => [TIME_TICKS_HI_TICKS]⟩,
  ⟨0x5060, 1, 0x1, 1, 0x1, fun _ _ => [TIME_ADJ_NS]⟩,
  ⟨0x3c0, 1, 0x1, 1, 0x1, fun _ _ => [CREMA_CTRL_EN, CREMA_CTRL_TRIGPS, CREMA_CTRL_AGE, CREMA_CTRL_TLAT]⟩,
  ⟨0x3c4, 1, 0x1, 1, 0x1, fun _ _ => [CREMA_FRAME_NEXT]⟩,
  ⟨0x3c8, 1, 0x1, 1, 0x1, fun _ _ => [CREMA_STAT_HELD, CREMA_STAT_PEND]⟩,
  ⟨0x3cc, 1, 0x1, 1, 0x1, fun _ _ => [CREMA_EVT_DUP, CREMA_EVT_AGED, CREMA_EVT_SLOTFULL, CREMA_EVT_HDRBAD, CREMA_EVT_LEN, CREMA_EVT_NOSLOT]⟩,
  ⟨0x3d0, 1, 0x1, 1, 0x1, fun _ _ => [CREMA_TRIGCNT_COUNT]⟩,
  ⟨0x3d4, 1, 0x1, 1, 0x1, fun _ _ => [CREMA_LOST_COUNT]⟩,
  ⟨0x3d8, 1, 0x1, 1, 0x1, fun _ _ => [CREMA_MISS_COUNT]⟩,
  ⟨0x3dc, 1, 0x1, 1, 0x1, fun _ _ => [CREMA_AGED_COUNT]⟩,
  ⟨0x3e0, 1, 0x1, 1, 0x1, fun _ _ => [CREMA_LSHORT_COUNT]⟩,
  ⟨0x3e4, 1, 0x1, 1, 0x1, fun _ _ => [CREMA_LLONG_COUNT]⟩,
  ⟨0x3e8, 1, 0x1, 1, 0x1, fun _ _ => [CREMA_HDRBAD_COUNT]⟩,
  ⟨0x3ec, 1, 0x1, 1, 0x1, fun _ _ => [CREMA_SLOTCLR_ALL, CREMA_SLOTCLR_SLOT]⟩,
  ⟨0xb000, 2, 0xc0, 1, 0x1, fun i _ => [AX_CFG_EN i, AX_CFG_MODE i, AX_CFG_DIRINV i, AX_CFG_INTERP i, AX_CFG_FILT i, AX_CFG_PRBPOL i, AX_CFG_PRBEN i, AX_CFG_IDXCORR i, AX_CFG_IDXHOME i, AX_CFG_IDXEN i, AX_CFG_REVHYST i]⟩,
  ⟨0xb004, 2, 0xc0, 1, 0x1, fun i _ => [AX_CTRL_CNTCLR i, AX_CTRL_LOAD i]⟩,
  ⟨0xb008, 2, 0xc0, 1, 0x1, fun i _ => [AX_STAT_EMULAG i, AX_STAT_PRBNEW i, AX_STAT_MOVING i, AX_STAT_DIRVALID i, AX_STAT_DIR i, AX_STAT_FAULT i]⟩,
  ⟨0xb00c, 2, 0xc0, 1, 0x1, fun i _ => [AX_EVT_PRBOVR i, AX_EVT_IDXERR i, AX_EVT_SAMPLOST i, AX_EVT_OVERSPD i, AX_EVT_AMP i, AX_EVT_ILLEGAL i, AX_EVT_REV i, AX_EVT_INDEX i]⟩,
  ⟨0xb010, 2, 0xc0, 1, 0x1, fun i _ => [AX_POSLO_POS i]⟩,
  ⟨0xb014, 2, 0xc0, 1, 0x1, fun i _ => [AX_POSHI_POS i]⟩,
  ⟨0xb018, 2, 0xc0, 1, 0x1, fun i _ => [AX_PRESET_LO_POS i]⟩,
  ⟨0xb01c, 2, 0xc0, 1, 0x1, fun i _ => [AX_PRESET_HI_POS i]⟩,
  ⟨0xb020, 2, 0xc0, 1, 0x1, fun i _ => [AX_SPDWIN_WIN i]⟩]

/-- Rows of the register window, part 5. -/
def rows5 : List RegRow := [
  ⟨0xb024, 2, 0xc0, 1, 0x1, fun i _ => [AX_SPD_SPD i]⟩,
  ⟨0xb028, 2, 0xc0, 1, 0x1, fun i _ => [AX_SPDF_WSEQ i, AX_SPDF_REVWIN i, AX_SPDF_STALE i]⟩,
  ⟨0xb02c, 2, 0xc0, 1, 0x1, fun i _ => [AX_IDXREF_REF i]⟩,
  ⟨0xb030, 2, 0xc0, 1, 0x1, fun i _ => [AX_IDXPER_PER i]⟩,
  ⟨0xb034, 2, 0xc0, 1, 0x1, fun i _ => [AX_IDXTOL_TOL i]⟩,
  ⟨0xb038, 2, 0xc0, 1, 0x1, fun i _ => [AX_IDXPOS_POS i]⟩,
  ⟨0xb03c, 2, 0xc0, 1, 0x1, fun i _ => [AX_IDXERR_ERR i]⟩,
  ⟨0xb040, 2, 0xc0, 1, 0x1, fun i _ => [AX_IDXCNT_ADJCNT i, AX_IDXCNT_COUNT i]⟩,
  ⟨0xb044, 2, 0xc0, 1, 0x1, fun i _ => [AX_PRBLO_POS i]⟩,
  ⟨0xb048, 2, 0xc0, 1, 0x1, fun i _ => [AX_PRBHI_POS i]⟩,
  ⟨0xb04c, 2, 0xc0, 1, 0x1, fun i _ => [AX_PRBT_LO_TNOW i]⟩,
  ⟨0xb050, 2, 0xc0, 1, 0x1, fun i _ => [AX_PRBT_HI_TNOW i]⟩,
  ⟨0xb054, 2, 0xc0, 1, 0x1, fun i _ => [AX_SCOFF_OFFC i, AX_SCOFF_OFFS i]⟩,
  ⟨0xb058, 2, 0xc0, 1, 0x1, fun i _ => [AX_SCAMP_AMPMAX i, AX_SCAMP_AMPMIN i]⟩,
  ⟨0xb05c, 2, 0xc0, 1, 0x1, fun i _ => [AX_SCRAW_COS i, AX_SCRAW_SIN i]⟩,
  ⟨0xb060, 2, 0xc0, 1, 0x1, fun i _ => [AX_EMUCFG_EMUEN i, AX_EMUCFG_EMUMIN i, AX_EMUCFG_EMUDIV i]⟩,
  ⟨0xb064, 2, 0xc0, 1, 0x1, fun i _ => [AX_EMUZPER_PER i]⟩,
  ⟨0xb068, 2, 0xc0, 1, 0x1, fun i _ => [AX_EMUCNT_E i]⟩,
  ⟨0xb06c, 2, 0xc0, 1, 0x1, fun i _ => [AX_FLTCNT_COUNT i]⟩,
  ⟨0xa000, 16, 0x40, 1, 0x1, fun i _ => [PS_CTRL_EN i, PS_CTRL_CLKRST i, PS_CTRL_RESTART i, PS_CTRL_FIFOCLR i, PS_CTRL_INJ_FORCE i, PS_CTRL_PINBASE i, PS_CTRL_START i]⟩,
  ⟨0xa004, 16, 0x40, 1, 0x1, fun i _ => [PS_CLKDIV_DIV i]⟩,
  ⟨0xa008, 16, 0x40, 1, 0x1, fun i _ => [PS_FRMCFG_SLSB i, PS_FRMCFG_DLSB i, PS_FRMCFG_SLEN i, PS_FRMCFG_DLEN i, PS_FRMCFG_MMASK i, PS_FRMCFG_MVAL i]⟩,
  ⟨0xa00c, 16, 0x40, 1, 0x1, fun i _ => [PS_STAT_HALTED i, PS_STAT_STALL i, PS_STAT_INJ_PEND i, PS_STAT_DWELLING i, PS_STAT_RQLVL i, PS_STAT_SQLVL i, PS_STAT_DCNT i, PS_STAT_SCNT i, PS_STAT_PC i]⟩,
  ⟨0xa010, 16, 0x40, 1, 0x1, fun i _ => [PS_EVT_BADOP i, PS_EVT_CONTEND i, PS_EVT_INJOVR i, PS_EVT_RQRDE i, PS_EVT_SQOVR i, PS_EVT_STALL_ABORT i, PS_EVT_HALT i]⟩,
  ⟨0xa014, 16, 0x40, 1, 0x1, fun i _ => [PS_STEPADDR_ADDR i]⟩,
  ⟨0xa018, 16, 0x40, 1, 0x1, fun i _ => [PS_STEPDATA_WORD i]⟩,
  ⟨0xa01c, 16, 0x40, 1, 0x1, fun i _ => [PS_INJECT_WORD i]⟩,
  ⟨0xa020, 16, 0x40, 1, 0x1, fun i _ => [PS_SNDF_DATA i]⟩,
  ⟨0xa024, 16, 0x40, 1, 0x1, fun i _ => [PS_RCVF_DATA i]⟩,
  ⟨0xa028, 16, 0x40, 1, 0x1, fun i _ => [PS_TALLY01_T1 i, PS_TALLY01_T0 i]⟩,
  ⟨0xa02c, 16, 0x40, 1, 0x1, fun i _ => [PS_TALLY23_T3 i, PS_TALLY23_T2 i]⟩,
  ⟨0xa030, 16, 0x40, 1, 0x1, fun i _ => [PS_PINST_IN i, PS_PINST_OE i, PS_PINST_OUT i]⟩,
  ⟨0xa034, 16, 0x40, 1, 0x1, fun i _ => [PS_SER_SER i]⟩,
  ⟨0xa038, 1, 0x1, 1, 0x1, fun _ _ => [PS_FLAGS_CLR, PS_FLAGS_FLAGS]⟩,
  ⟨0xa03c, 1, 0x1, 1, 0x1, fun _ _ => [PS_GCTRL_PEND, PS_GCTRL_TIMED, PS_GCTRL_STOP, PS_GCTRL_GO, PS_GCTRL_MASK]⟩,
  ⟨0x6000, 1, 0x1, 1, 0x1, fun _ _ => [RING_CTRL_CENSEN, RING_CTRL_EN]⟩,
  ⟨0x6004, 1, 0x1, 1, 0x1, fun _ _ => [RING_ME_ID]⟩,
  ⟨0x6008, 1, 0x1, 1, 0x1, fun _ _ => [RING_STAT_UP, RING_STAT_SQWAIT]⟩,
  ⟨0x600c, 1, 0x1, 1, 0x1, fun _ _ => [RING_EVT_LATESACK, RING_EVT_SFAIL, RING_EVT_DROP, RING_EVT_PEERTHR, RING_EVT_LINKCHG, RING_EVT_SPILLDONE, RING_EVT_SPILLIN, RING_EVT_CENSUS]⟩,
  ⟨0x6010, 1, 0x1, 1, 0x1, fun _ _ => [RING_RTTMAX_NS]⟩]

/-- Rows of the register window, part 6. -/
def rows6 : List RegRow := [
  ⟨0x6014, 1, 0x1, 1, 0x1, fun _ _ => [RING_CENSUS_US]⟩,
  ⟨0x6018, 1, 0x1, 1, 0x1, fun _ _ => [RING_SPTMO_US]⟩,
  ⟨0x601c, 1, 0x1, 1, 0x1, fun _ _ => [RING_SUBMIT_COUNT]⟩,
  ⟨0x6020, 1, 0x1, 1, 0x1, fun _ _ => [RING_SQ_LO_ADDR]⟩,
  ⟨0x6024, 1, 0x1, 1, 0x1, fun _ _ => [RING_SQ_HI_ADDR]⟩,
  ⟨0x6028, 1, 0x1, 1, 0x1, fun _ _ => [RING_EQ_LO_ADDR]⟩,
  ⟨0x602c, 1, 0x1, 1, 0x1, fun _ _ => [RING_EQ_HI_ADDR]⟩,
  ⟨0x6030, 1, 0x1, 1, 0x1, fun _ _ => [RING_EQTAIL_PHASE, RING_EQTAIL_INDEX]⟩,
  ⟨0x6034, 1, 0x1, 1, 0x1, fun _ _ => [RING_EQHEAD_INDEX]⟩,
  ⟨0x6038, 1, 0x1, 1, 0x1, fun _ _ => [RING_CRBUF_LO_ADDR]⟩,
  ⟨0x603c, 1, 0x1, 1, 0x1, fun _ _ => [RING_CRBUF_HI_ADDR]⟩,
  ⟨0x6040, 1, 0x1, 1, 0x1, fun _ _ => [RING_CRKRES_KRES]⟩,
  ⟨0x6044, 1, 0x1, 1, 0x1, fun _ _ => [RING_CRPUSH_LINK, RING_CRPUSH_SIZE]⟩,
  ⟨0x6048, 1, 0x1, 1, 0x1, fun _ _ => [RING_DROP_AGED, RING_DROP_LATESACK]⟩,
  ⟨0x6080, 4, 0x10, 1, 0x1, fun i _ => [LINK_CFG_EN i, LINK_CFG_NOFWD i]⟩,
  ⟨0x6084, 4, 0x10, 1, 0x1, fun i _ => [LINK_STAT_STATE i, LINK_STAT_RCRED i, LINK_STAT_LCRED i]⟩,
  ⟨0x6088, 4, 0x10, 1, 0x1, fun i _ => [LINK_RTT_MAX i, LINK_RTT_LAST i]⟩,
  ⟨0x608c, 4, 0x10, 1, 0x1, fun i _ => [LINK_PEER_VALID i, LINK_PEER_ID i]⟩,
  ⟨0x1000, 1, 0x1, 1, 0x1, fun _ _ => [PWR_CTRL_WAKE, PWR_CTRL_RINGOFF, PWR_CTRL_PERIOFF]⟩,
  ⟨0x1004, 1, 0x1, 1, 0x1, fun _ _ => [PWR_STAT_EMUL, PWR_STAT_DRIP, PWR_STAT_PHASE, PWR_STAT_DOMQ]⟩,
  ⟨0x1008, 1, 0x1, 1, 0x1, fun _ _ => [PWR_EVT_ABANDON, PWR_EVT_DOMREF, PWR_EVT_DOMDONE, PWR_EVT_REFUSED, PWR_EVT_WAKE]⟩,
  ⟨0x100c, 1, 0x1, 1, 0x1, fun _ _ => [PWR_DRIP_CAUSE, PWR_DRIP_ENTER]⟩,
  ⟨0x1010, 1, 0x1, 1, 0x1, fun _ _ => [PWR_WAKESTAT_KIND, PWR_WAKESTAT_SRC]⟩,
  ⟨0x1014, 1, 0x1, 1, 0x1, fun _ _ => [PWR_DRIPCNT_COUNT]⟩,
  ⟨0x1100, 72, 0x4, 1, 0x1, fun i _ => [PWR_ENG_BUSY i, PWR_ENG_STATE i, PWR_ENG_AUTOWAKE i, PWR_ENG_REQ i]⟩,
  ⟨0x1220, 64, 0x4, 1, 0x1, fun i _ => [PWR_BANK_BUSY i, PWR_BANK_STATE i, PWR_BANK_REQ i]⟩,
  ⟨0x40000, 72, 0x100, 1, 0x1, fun i _ => [ENG_DBGCTL_TREN i, ENG_DBGCTL_STEPU i, ENG_DBGCTL_HALTMODE i, ENG_DBGCTL_CANCEL i, ENG_DBGCTL_STEP i, ENG_DBGCTL_RESUME i, ENG_DBGCTL_HALT i]⟩,
  ⟨0x40004, 72, 0x100, 1, 0x1, fun i _ => [ENG_DBGSTAT_WREF i, ENG_DBGSTAT_RESERR i, ENG_DBGSTAT_HIT i, ENG_DBGSTAT_HITCMP i, ENG_DBGSTAT_HITDATA i, ENG_DBGSTAT_MONITOR i, ENG_DBGSTAT_INSTR i, ENG_DBGSTAT_STEPPING i, ENG_DBGSTAT_PENDING i, ENG_DBGSTAT_CSTOP i]⟩,
  ⟨0x40008, 72, 0x100, 1, 0x1, fun i _ => [ENG_DBGHIT_LO_ADDR i]⟩,
  ⟨0x4000c, 72, 0x100, 1, 0x1, fun i _ => [ENG_DBGHIT_HI_ADDR i]⟩,
  ⟨0x40080, 72, 0x100, 1, 0x1, fun i _ => [ENG_DBGRSEL_SEL i]⟩,
  ⟨0x40084, 72, 0x100, 1, 0x1, fun i _ => [ENG_DBGRD_LO_DATA i]⟩,
  ⟨0x40088, 72, 0x100, 1, 0x1, fun i _ => [ENG_DBGRD_HI_DATA i]⟩,
  ⟨0x40090, 72, 0x100, 1, 0x1, fun i _ => [ENG_CMPIDX_INDEX i]⟩,
  ⟨0x40094, 72, 0x100, 1, 0x1, fun i _ => [ENG_CMPA_LO_A i]⟩,
  ⟨0x40098, 72, 0x100, 1, 0x1, fun i _ => [ENG_CMPA_HI_A i]⟩,
  ⟨0x4009c, 72, 0x100, 1, 0x1, fun i _ => [ENG_CMPB_LO_B i]⟩,
  ⟨0x400a0, 72, 0x100, 1, 0x1, fun i _ => [ENG_CMPB_HI_B i]⟩,
  ⟨0x400a4, 72, 0x100, 1, 0x1, fun i _ => [ENG_CMPCTX_CTXID i]⟩,
  ⟨0x400a8, 72, 0x100, 1, 0x1, fun i _ => [ENG_CMPCTL_EN i, ENG_CMPCTL_CTXEN i, ENG_CMPCTL_LVL i, ENG_CMPCTL_LINK i, ENG_CMPCTL_ACTION i, ENG_CMPCTL_TYPE i]⟩]

/-- Rows of the register window, part 7. -/
def rows7 : List RegRow := [
  ⟨0x400c0, 72, 0x100, 8, 0x4, fun i j => [ENG_PMC_COUNT i j]⟩,
  ⟨0x400e0, 72, 0x100, 1, 0x1, fun i _ => [ENG_PMSEL_LO_EVT0 i, ENG_PMSEL_LO_EVT1 i, ENG_PMSEL_LO_EVT2 i, ENG_PMSEL_LO_EVT3 i]⟩,
  ⟨0x400e4, 72, 0x100, 1, 0x1, fun i _ => [ENG_PMSEL_HI_EVT0 i, ENG_PMSEL_HI_EVT1 i, ENG_PMSEL_HI_EVT2 i, ENG_PMSEL_HI_EVT3 i]⟩,
  ⟨0x400e8, 72, 0x100, 1, 0x1, fun i _ => [ENG_PMCTL_OVF i, ENG_PMCTL_LINK i, ENG_PMCTL_CLR i, ENG_PMCTL_FRZHALT i, ENG_PMCTL_EN i]⟩,
  ⟨0x80000, 1, 0x1, 1, 0x1, fun _ _ => [DBG_CTRL_DRESET, DBG_CTRL_ATTACH]⟩,
  ⟨0x80004, 1, 0x1, 1, 0x1, fun _ _ => [DBG_STAT_DENIED, DBG_STAT_OVR, DBG_STAT_SEALED]⟩,
  ⟨0x80008, 1, 0x1, 1, 0x1, fun _ _ => [DBG_EMU_SLEEP_SLEEP]⟩,
  ⟨0x8000c, 2, 0x4, 1, 0x1, fun i _ => [DBG_XHALT_SE i]⟩,
  ⟨0x80014, 1, 0x1, 1, 0x1, fun _ _ => [DBG_XHALT2_SE]⟩,
  ⟨0x80018, 3, 0x4, 1, 0x1, fun i _ => [DBG_HALTED_SE i]⟩,
  ⟨0x80024, 1, 0x1, 1, 0x1, fun _ _ => [DBG_XRESUME_GO]⟩,
  ⟨0x80040, 1, 0x1, 1, 0x1, fun _ _ => [TRC_CTRL_STOPFULL, TRC_CTRL_SINK, TRC_CTRL_EN]⟩,
  ⟨0x80044, 1, 0x1, 1, 0x1, fun _ _ => [TRC_STAT_LEVEL]⟩,
  ⟨0x80048, 1, 0x1, 1, 0x1, fun _ _ => [TRC_BUF_LO_ADDR]⟩,
  ⟨0x8004c, 1, 0x1, 1, 0x1, fun _ _ => [TRC_BUF_HI_ADDR]⟩,
  ⟨0x80050, 1, 0x1, 1, 0x1, fun _ _ => [TRC_SIZE_SIZE]⟩,
  ⟨0x80054, 1, 0x1, 1, 0x1, fun _ _ => [TRC_WPTR_OFFSET]⟩,
  ⟨0x80058, 1, 0x1, 1, 0x1, fun _ _ => [TRC_LOST_COUNT]⟩,
  ⟨0x80100, 64, 0x4, 1, 0x1, fun i _ => [GPC_COUNT i]⟩,
  ⟨0x80200, 16, 0x4, 1, 0x1, fun i _ => [GPSEL_EVT0 i, GPSEL_EVT1 i, GPSEL_EVT2 i, GPSEL_EVT3 i]⟩,
  ⟨0x80240, 1, 0x1, 1, 0x1, fun _ _ => [GPCTL_CLR, GPCTL_EN]⟩,
  ⟨0x80280, 8, 0x10, 1, 0x1, fun i _ => [VT_DTX_DATA i]⟩,
  ⟨0x80284, 8, 0x10, 1, 0x1, fun i _ => [VT_DRX_DATA i]⟩,
  ⟨0x80288, 8, 0x10, 1, 0x1, fun i _ => [VT_STAT_TXLVL i, VT_STAT_RXLVL i, VT_STAT_RXUNF i, VT_STAT_RXOVR i, VT_STAT_TXOVR i]⟩,
  ⟨0x8028c, 8, 0x10, 1, 0x1, fun i _ => [VT_CTL_POPTX i, VT_CTL_FLUSH i, VT_CTL_TXIE i, VT_CTL_RXIE i]⟩,
  ⟨0x80, 1, 0x1, 1, 0x1, fun _ _ => [INTEG_CHAN_PRESENT]⟩,
  ⟨0x84, 1, 0x1, 1, 0x1, fun _ _ => [INTEG_DRAM_GIB]⟩,
  ⟨0x88, 1, 0x1, 1, 0x1, fun _ _ => [INTEG_ADC_MSAPS, INTEG_ADC_UVLSB]⟩,
  ⟨0x8c, 1, 0x1, 1, 0x1, fun _ _ => [INTEG_OPT_FECLS, INTEG_OPT_AX1, INTEG_OPT_AX0, INTEG_OPT_RING]⟩,
  ⟨0x90, 1, 0x1, 1, 0x1, fun _ _ => [INTEG_MFR_MFR]⟩,
  ⟨0x0, 1, 0x1, 1, 0x1, fun _ _ => [GLB_ID_FAMILY, GLB_ID_PART]⟩,
  ⟨0x4, 1, 0x1, 1, 0x1, fun _ _ => [GLB_REV_IPREV, GLB_REV_RELMAJ, GLB_REV_RELMIN]⟩,
  ⟨0xc, 1, 0x1, 1, 0x1, fun _ _ => [GLB_RSTCAUSE_AFTERPF, GLB_RSTCAUSE_BLOCK, GLB_RSTCAUSE_POWERON]⟩,
  ⟨0x10, 4, 0x4, 1, 0x1, fun i _ => [GLB_SCRATCH_DATA i]⟩,
  ⟨0x20, 1, 0x1, 1, 0x1, fun _ _ => [GLB_EVTSUM_CB, GLB_EVTSUM_LOCKUP, GLB_EVTSUM_CREMA, GLB_EVTSUM_PWR, GLB_EVTSUM_TIME, GLB_EVTSUM_RING, GLB_EVTSUM_MP, GLB_EVTSUM_SPM, GLB_EVTSUM_INT, GLB_EVTSUM_KET]⟩,
  ⟨0x4003c, 72, 0x100, 1, 0x1, fun i _ => [ENG_ID_RUN i, ENG_ID_CFGREF i, ENG_ID_LE i, ENG_ID_CLUSTER i, ENG_ID_SLOT i, ENG_ID_PE i]⟩]

/-- Every register of the window (R508). -/
def rows : List RegRow :=
  rows0 ++ rows1 ++ rows2 ++ rows3 ++ rows4 ++ rows5 ++ rows6 ++ rows7

end Sys2Proof.Machine.R
end

