-- ==== Sys2Proof/Machine/Tab.lean ====
section
/-! DEFINITION. The two containers of the state: a table of values by number (sorted, no repeats), and memory as the
canonical list of the bytes that differ from what an unlisted address reads as. -/
namespace Sys2Proof.Machine

/-- A table of values by number: keys strictly rising; a key that is not listed holds the reader's default. -/
abbrev Tab (α : Type) := List (Nat × α)

/-- The value listed under a key. -/
def Tab.look {α : Type} : Tab α → Nat → Option α
  | [], _ => none
  | (k, v) :: t, i => if i = k then some v else if i < k then none else Tab.look t i

/-- The value under a key, or the default where the key is not listed. -/
def Tab.get {α : Type} (t : Tab α) (i : Nat) (d : α) : α := (t.look i).getD d

/-- The table with a value listed under a key. -/
def Tab.put {α : Type} : Tab α → Nat → α → Tab α
  | [], i, x => [(i, x)]
  | (k, v) :: t, i, x =>
    if i = k then (i, x) :: t else if i < k then (i, x) :: (k, v) :: t else (k, v) :: Tab.put t i x

/-- The table without a key. What stands behind it with no greater key, which no table of this model has, goes too, so that the other
keys read as before in any list. -/
def Tab.del {α : Type} : Tab α → Nat → Tab α
  | [], _ => []
  | (k, v) :: t, i =>
    if i = k then t.filter fun p => decide (i < p.1) else if i < k then (k, v) :: t else (k, v) :: Tab.del t i

/-- Memory: (address, byte) pairs, addresses strictly rising, no byte listed that is 0 (log entry 2). -/
abbrev Mem := List Host.Cell

/-- What an address that is not listed reads as: Carafe rows are written with zero when a bank enters ON (R206); the
DRAM window's first contents are not stated (log entry 2, DESIGN CHOICE). -/
def Mem.unlisted : Byte := 0

/-- The byte at an address. -/
def Mem.read (m : Mem) (a : Nat) : Byte := Tab.get m a Mem.unlisted

/-- One byte written; the canonical form is kept by removing a byte that equals what an unlisted address reads as. -/
def Mem.write (m : Mem) (a : Nat) (v : Byte) : Mem :=
  if v = Mem.unlisted then Tab.del m a else Tab.put m a v

/-- `n` bytes from an address upwards. -/
def Mem.bytes (m : Mem) (a : Nat) : Nat → List Byte
  | 0 => []
  | n + 1 => m.read a :: Mem.bytes m (a + 1) n

/-- A list of bytes written from an address upwards. -/
def Mem.writes (m : Mem) (a : Nat) : List Byte → Mem
  | [] => m
  | v :: vs => Mem.writes (m.write a v) (a + 1) vs

/-- The canonical form, as a check: every listed address is above `lo`, addresses rise strictly and no listed byte is
the one an unlisted address reads as. -/
def Mem.wfFrom : Nat → Mem → Bool
  | _, [] => true
  | lo, (a, v) :: m => decide (lo ≤ a) && decide (v ≠ Mem.unlisted) && Mem.wfFrom (a + 1) m

/-- The canonical form of a memory. -/
def Mem.wf (m : Mem) : Bool := Mem.wfFrom 0 m

/-- A little-endian list of bytes as a number (R9). -/
def leNat : List Byte → Nat
  | [] => 0
  | v :: vs => v.toNat + 256 * leNat vs

/-- The `n` low bytes of a number, little-endian (R9). -/
def leBytes (v : Nat) : Nat → List Byte
  | 0 => []
  | n + 1 => BitVec.ofNat 8 v :: leBytes (v / 256) n

/-- Bits `[lo + w - 1 : lo]` of a number. -/
def bitsOf (v lo w : Nat) : Nat := v / 2 ^ lo % 2 ^ w

/-- A Boolean as the bit it reads as. -/
def bit (b : Bool) : Nat := if b then 1 else 0

/-- A number read as signed in `w` bits. -/
def toSigned (v w : Nat) : Int :=
  if v % 2 ^ w < 2 ^ (w - 1) then (v % 2 ^ w : Nat) else (v % 2 ^ w : Nat) - (2 ^ w : Nat)

/-- An integer narrowed to `w` bits. -/
def ofSigned (v : Int) (w : Nat) : Nat := (v % (2 ^ w : Nat)).toNat

/-- A count that holds at its largest value instead of wrapping. -/
def satAdd (v k w : Nat) : Nat := min (v + k) (2 ^ w - 1)

end Sys2Proof.Machine
end

