-- ==== Sys2Proof/Machine/State.lean ====
section
/-! DEFINITION. The state of the block as plain data: every register field of the register window in one table, and
beside it everything the spec gives the block that no register shows; the reasons a step can stop; the state at reset. -/
namespace Sys2Proof.Machine

/-! ## The engine (02, 03, 12, 19) -/

/-- ST, by its fields (R69); its reserved bits read 0 and take no write, so the fields hold all of it. -/
structure St where
  tw : Bool
  sup : Bool
  ss : Bool
  fen : BitVec 5
  fflags : BitVec 5
  rm : BitVec 2
  fz : Bool
  ie : Bool
  rsm : Bool
  v : Bool
  n : Bool
  z : Bool
  c : Bool
deriving DecidableEq, Repr

/-- ST at engine start: VS, everything else 0 (R69, R325). -/
def St.start : St := ⟨false, true, false, 0, 0, 0, false, false, false, false, false, false, false⟩

/-- The condition latches (R28). -/
structure Latches where
  z : Bool
  n : Bool
  c : Bool
  v : Bool
  z32 : Bool
  n32 : Bool
  c32 : Bool
  uf : BitVec 4
  flt : Bool
  feq : Bool
  fun' : Bool
  lz : Bool
  lmatch : Bool
  lnc : Bool
deriving DecidableEq, Repr

/-- Every latch 0 (no reset value is stated: log entry 1). -/
def Latches.zero : Latches :=
  ⟨false, false, false, false, false, false, false, 0, false, false, false, false, false, false⟩

/-- A fabric response slot (R52): free, expecting a response (which a DROP already given discards on arrival), or
holding one with its FERR bit. -/
inductive Slot where
  | free
  | expecting (dropped : Bool) (size : Nat)
  | held (data : List Byte) (err : Bool)
deriving DecidableEq, Repr

/-- An entry of the stream input buffer (R143): awaited by an SLD, awaited on a channel by an RDL, or filled. -/
inductive StreamIn where
  | sld
  | rdl (channel : Nat)
  | data (bytes : List Byte)
deriving DecidableEq, Repr

/-- A region table entry (R327): enabled, first page, last page, and three rights for each of the four levels. -/
structure RgEntry where
  en : Bool
  base : Nat
  lim : Nat
  perm : BitVec 12
deriving DecidableEq, Repr

/-- A comparator (R471 to R473). `armed` is the sequence link's arming, held at the even comparator of the pair. -/
structure Cmp where
  en : Bool
  ctxen : Bool
  lvl : BitVec 4
  link : Nat
  action : Nat
  type : Nat
  a : Nat
  b : Nat
  ctx : Nat
  armed : Bool
deriving DecidableEq, Repr

/-- A comparator that is not in use. -/
def Cmp.off : Cmp := ⟨false, false, 0, 0, 0, 0, 0, 0, 0, false⟩

/-- A word that waits for its MEMOP's data (R57): the conditions it read at its start, and the kind of a mismatch that it has
already had (R59), true for an operand's. -/
structure MemWait where
  condA : Bool
  condB : Bool
  condC : Bool
  seen : Option Bool
deriving DecidableEq, Repr

/-- A long instruction in progress (R95): its opcode and register fields, whether the next block is the first one after a
start (R153, R159), and BMOV's direction as that start decided it (R100). -/
structure LongOp where
  op : Nat
  d : Nat
  a : Nat
  b : Nat
  x : Nat
  first : Bool
  down : Bool
deriving DecidableEq, Repr

/-- An FPTRAP that is pending (R120, R121): the world where it arose, the FP instructions completed since the faulting one, and
whether the instruction still in progress is the faulting one. -/
structure FpTrap where
  tenant : Bool
  count : Nat
  raised : Bool
deriving DecidableEq, Repr

/-- The kinds of halt request (R465, R468). -/
inductive HaltKind where
  | clockStop
  | monitor
deriving DecidableEq, Repr

/-- What holds a running engine up: nothing, the wait for the next instruction after ENDI (R38), or a WFI (R358). -/
inductive Hold where
  | none
  | fetch
  | wfi
deriving DecidableEq, Repr

/-- The replay record of a word that a hard residue fault stopped (R306): the kind of its request (0 none presented, 1 MEMOP,
2 XFOP, 3 EXT), the EXT answer and the MEMOP data as received. -/
structure Replay where
  kind : Nat
  ext : Option W64
  extErr : Bool
  data : List Byte
deriving DecidableEq, Repr

/-- What a kernel stage carries from block to block (R163, R164): bytes received, the CRC register, bytes of an element or record
not yet whole, and for a compressor the bytes received and the bytes emitted. -/
structure StageRun where
  count : Nat
  crc : W32
  part : List Byte
  past : List Byte
  sent : List Byte
deriving DecidableEq, Repr

/-- The progress of a KCALL beside its registers, held by descriptor address (R153, R159; log entry 16): bytes 0x00 to 0x37
of the descriptor and the parameter block as read, what its stages carry (none before the first block), its WARN bits, the
header of a capture unit, payload bytes taken, output that waits for a whole beat, whether all input has landed, and the input a
decoder has read. -/
structure KernRun where
  desc : List Byte
  params : List Byte
  stages : List StageRun
  warn : Nat
  hdr : List Byte
  taken : Nat
  out : List Byte
  landed : Bool
  got : List Byte
deriving DecidableEq, Repr

/-- The macro-level state of a physical engine (R28, R68, R73, R77). -/
structure EngMacro where
  /-- The engine issues words. -/
  running : Bool
  /-- A start has been sent to the engine and not yet taken (R34, R325). -/
  startDue : Bool
  /-- g0 to g30 of the Vendor bank. -/
  gV : Tab W64
  /-- g0 to g30 of the Tenant bank. -/
  gT : Tab W64
  /-- g31 by level: 0 VS, 1 VU, 2 TS, 3 TU. -/
  sp : Tab W64
  st : St
  pc : Addr
  /-- v0 to v7. -/
  vr : Tab W128
  /-- Special registers by world: 0 Vendor, 1 Tenant (R73). -/
  ctxid : Tab W32
  vbase : Tab Addr
  ftpc : Tab Addr
  faddr : Tab Addr
  fcause : Tab Byte
  /-- The instruction buffer: the lines held, by line address (R77). -/
  ibuf : Tab (List Byte)
  hold : Hold
  long : Option LongOp
  fpt : Option FpTrap
  /-- Special register CYCLE as last read; each read advances it by a free number of ticks (R73; log entry 11). -/
  cycle : W64
  /-- KCALLs in progress (log entry 16). -/
  kern : Tab KernRun
  /-- The region table (R327) and its staged BASE and LIM (R330). -/
  rg : Tab RgEntry
  rgBase : Nat
  rgLim : Nat
deriving DecidableEq, Repr

/-- The micro-level state of a physical engine (R28). -/
structure EngMicro where
  u : Tab W64
  ir : W64
  mdr : W64
  mlo : W64
  mhi : W64
  fpr : W64
  /-- The result, with its flags, of a fused operation that becomes readable after the next word (R48). -/
  fprLate : Option (W64 × BitVec 5)
  scnt : W32
  lat : Latches
  l : Tab (BitVec 16)
  ustack : List (BitVec 13)
  upc : BitVec 13
  /-- The PC written through DSEL, applied at ENDI (R38, R44). -/
  pcNext : Option Addr
  streamIn : List StreamIn
  /-- Bytes already consumed of the head input entry. -/
  streamPos : Nat
  streamOut : List Byte
  slots : Tab Slot
  /-- An EXT strobe has no answer yet (EXTACK = 0, R54). -/
  extBusy : Bool
  extErr : Bool
  /-- Answer data that waits for a word that does not itself write MDR (R54). -/
  extData : Option W64
  /-- The last word wrote MDR, so that an answer's data waits (R54). -/
  mdrWritten : Bool
  wait : Option MemWait
  /-- The TRAPOK point that the engine stands at since its last word, if it does: true at an ENDI (R61, R62). -/
  trapPt : Option Bool
  /-- Between entry at 0x0028 and that routine's first ENDI, UTRET or HALTU (R60, R341). -/
  inFault : Bool
  /-- A hard residue fault has stopped the engine (R59, R297). -/
  resFault : Bool
  /-- The replay record of a faulted word (R306). -/
  replay : Option Replay
  /-- The stored residue and parity codes that have been changed, by element of R28 (R142, R295): every element that is not
  listed holds the code of its value. Elements 0 to 117 carry residues, in the order of the frame's RES field (R299): g0 to g30
  of the Vendor and of the Tenant bank, the four g31, the four words of v0 to v7, u0 to u15, MDR, MLO, MHI, FPR; from 128 they
  carry parity: ST, PC, IR, SCNT, the latches, L0 to L3, the micro-stack, µPC, UTPC, the stream buffers, then the 32 slots. -/
  codes : Tab Nat
  /-- The control store: rows, by row number (R30); a row that is not listed holds the fill word (log entry 19). -/
  cs : Tab (BitVec 192)
  /-- Rows with an error: true where it is uncorrectable (R174, R175). -/
  csErr : Tab Bool
  /-- Rows remapped to a spare row (R174). -/
  csMap : Tab Nat
  /-- The manifest digest of the image in the store (R176). -/
  csDigest : Option (List Byte)
  /-- The row the next scrub reads (R177). -/
  csScrub : Nat
deriving DecidableEq, Repr

/-- Locks, debug, trace and management state of a physical engine. -/
structure EngAux where
  /-- The line of the active locked sequence (R90). -/
  lkLine : Option Nat
  /-- Numbers the locks this engine has taken, so that a break notice names its lock (R91). -/
  lkSeq : Nat
  /-- Break notices on their way to the engine, oldest first (R91). -/
  notices : List Nat
  cmp : Tab Cmp
  cmpA : Nat
  cmpB : Nat
  cmpCtx : Nat
  /-- A halt request that has not been taken (R465). -/
  halt : Option HaltKind
  /-- The stack address of the frame that the monitor's entry pushed (R467). -/
  monFrame : Option W64
  /-- The first dispatch after a resume does not match IADDR comparators (R466). -/
  skipIaddr : Bool
  /-- The staged low half of a DBGRD write (R470). -/
  dbgLo : Nat
  /-- Trace (R475): the queue, records dropped since the last LOST, ICNT and the records since the last SYNC. -/
  trq : List (List Byte)
  trDrop : Nat
  icnt : Nat
  trCount : Nat
  /-- A first watchdog expiry has not been entered (R343). -/
  wdgDue : Bool
  /-- COUNT holds the watchdog's count itself; else the count is a free value at most COUNT (R342; log entry 32). -/
  wdgExact : Bool
  /-- A freeze request from the Spare Manager is pending (R61, R301). -/
  freezeReq : Bool
  /-- Frozen at its freeze point (R301). -/
  frozen : Bool
deriving DecidableEq, Repr

/-- A physical engine. -/
structure Engine extends EngMacro, EngMicro, EngAux
deriving DecidableEq, Repr

/-- Entry 0 of a region table at reset: the whole space, R, W and X for VS (R329). -/
def RgEntry.whole : RgEntry := ⟨true, 0, 2 ^ 36 - 1, 7⟩

/-- A region table entry that is not in use. -/
def RgEntry.off : RgEntry := ⟨false, 0, 0, 0⟩

/-- An engine before its first start: every register 0 (log entry 1), the region table as R329 gives it, no image in its
control store (R173), no strobe unanswered. -/
def Engine.reset : Engine where
  running := false
  startDue := false
  gV := []
  gT := []
  sp := []
  st := St.start
  pc := 0
  vr := []
  ctxid := []
  vbase := []
  ftpc := []
  faddr := []
  fcause := []
  ibuf := []
  hold := .none
  long := none
  fpt := none
  cycle := 0
  kern := []
  rg := [(0, RgEntry.whole)]
  rgBase := 0
  rgLim := 0
  u := []
  ir := 0
  mdr := 0
  mlo := 0
  mhi := 0
  fpr := 0
  fprLate := none
  scnt := 0
  lat := Latches.zero
  l := []
  ustack := []
  upc := 0
  pcNext := none
  streamIn := []
  streamPos := 0
  streamOut := []
  slots := []
  extBusy := false
  extErr := false
  extData := none
  mdrWritten := false
  wait := none
  trapPt := none
  inFault := false
  resFault := false
  replay := none
  codes := []
  cs := []
  csErr := []
  csMap := []
  csDigest := none
  csScrub := 0
  lkLine := none
  lkSeq := 0
  notices := []
  cmp := []
  cmpA := 0
  cmpB := 0
  cmpCtx := 0
  halt := none
  monFrame := none
  skipIaddr := false
  dbgLo := 0
  trq := []
  trDrop := 0
  icnt := 0
  trCount := 0
  wdgDue := false
  wdgExact := false
  freezeReq := false
  frozen := false

/-! ## Requests, Carafe banks and the DRAM Port (07, R495, R520) -/

/-- What a request asks of its target (R51, R52, R203, R210). -/
inductive ReqKind where
  | read
  | write
  /-- A landing write; the write-buffer line that receives the same bytes where it writes a whole line (R210). -/
  | landing (wbLine : Option Nat)
  | lockRead
  | condStore
  | lockRelease
  /-- 0 add, 1 swap, 2 compare-and-swap, 3 AND, 4 OR (R52). -/
  | amo (op : Nat)
deriving DecidableEq, Repr

/-- Where a request's answer goes: nowhere, to the engine's waiting word, or to a channel slot (R51, R52); a FENCE's answer
goes to its slot once the requests ahead of it have taken effect; or, for a request that is served inside the command that makes
it, to that command. -/
inductive Reply where
  | none
  | word
  | channel (c : Nat)
  | fence (c : Nat)
  | now
deriving DecidableEq, Repr

/-- A request on its way to a target: its requester (R200: 0 to 71 the engines, 72 Host Shim landing, 73 Media Port,
74 Ring Port, 75 debug), its bytes, and for a lock the number of the lock it takes (R91). -/
structure Req where
  rq : Nat
  kind : ReqKind
  addr : Nat
  len : Nat
  data : List Byte
  cmp : Nat
  reply : Reply
  lock : Nat
  /-- Bank cycles it has waited since it took its place at the arbiter (R200). -/
  age : Nat
  /-- Its class, fixed when it is issued (R281, R282). -/
  cls : Nat
  /-- It goes through the fabric, not through a direct port of the bank (R199). -/
  fab : Bool
  /-- Its place at the bank's arbiter: 0 none yet, 1 a direct port, 2 a shared fabric entry, 3 its class's reserved one (R199,
  R283). -/
  place : Nat
deriving DecidableEq, Repr

/-- An answer on its way back to an engine; a FENCE's holds the requests that were ahead of it. -/
structure Resp where
  pe : Nat
  reply : Reply
  addr : Nat
  data : List Byte
  err : Bool
  before : List Req
  /-- Its class (R281, R282). -/
  cls : Nat
deriving DecidableEq, Repr

/-- A Carafe bank (R196 to R214); its registers are in the register table. -/
structure Bank where
  /-- Requests sent and not yet served, in the order they reached the Fabric island or the bank (R199). -/
  waiting : List Req
  /-- Lock slots: per physical engine the line held and the number of the lock (R202). -/
  locks : Tab (Nat × Nat)
  /-- Source fields that are valid: line to write-buffer line (R207, R210). -/
  src : Tab Nat
  /-- Lines remapped to a spare row (R208). -/
  spare : Tab Nat
  /-- Spare rows taken, by sub-array; a row that was given up stays taken (R208). -/
  spUsed : Tab Nat
  /-- Lines found to hold uncorrectable codewords, by line the words' bits (R207, R213). -/
  bad : Tab Nat
  /-- Rows whose uncorrectable error has been reported: scrub does not raise the event for them again (R209). -/
  seen : List Nat
  /-- Lines under repair, in the order the repairs began, and whether the line has been handed to the Intake (R211). -/
  repair : List (Nat × Bool)
  /-- Bank cycles that a scrub read has waited for one without a request (R200). -/
  scrubAge : Option Nat
  /-- The physical engine the bank takes for its owner's (R201). -/
  ownerPE : Nat
  /-- A power state asked for and not yet entered: 0 OFF, 1 RETAIN, 2 ON (R206). -/
  target : Option Nat
deriving DecidableEq, Repr

/-- The bank of number `k` at reset: nothing waits, no lock is held; LE k runs on slot k mod 8 of cluster k div 8. -/
def Bank.reset (k : Nat) : Bank :=
  ⟨[], [], [], [], [], [], [], [], none, 9 * (k / 8) + k % 8, none⟩

/-- The DRAM Port (R20, R495, R520). -/
structure DramPort where
  /-- Requests that have reached the port and wait for RQ_READY. -/
  waiting : List Req
  /-- Requests presented, oldest first. -/
  presented : List Req
  /-- Lock slots: per physical engine the line (window offset / 64) and the number of the lock. -/
  locks : Tab (Nat × Nat)
  /-- The requester that round robin last served, by channel (R20); 75 at reset (log entry 80). -/
  last : Tab Nat
deriving DecidableEq, Repr

/-- A chain FIFO (R147 to R149): entries pushed and not yet visible to the consumer, entries its CHINE shows, the
credits the producer has spent, and those of them on their way back. An entry is 16 bytes and a tag. -/
structure Chain where
  moving : List (List Byte × Nat)
  shown : List (List Byte × Nat)
  spent : Nat
  returning : Nat
deriving DecidableEq, Repr

/-- An empty chain FIFO. -/
def Chain.empty : Chain := ⟨[], [], 0, 0⟩

/-- A virtual terminal channel's two FIFOs (R479). -/
structure Vt where
  dtx : List Nat
  drx : List Nat
deriving DecidableEq, Repr

/-- A power domain request that waits (R445): an engine's, a bank's, PD4's or PD5's, the state asked for, and whether
AUTOWAKE asked for it (R446). -/
inductive DomReq where
  | engine (n dest : Nat) (auto : Bool)
  | bank (k dest : Nat)
  | periph (off : Bool)
  | ring (off : Bool)
deriving DecidableEq, Repr

/-! ## The Loader, the Spare Manager and activation (06, 11) -/

/-- An image being read (R183, R189): the one store it goes to, or all of them; image bytes received, the header, the
bytes of a word not yet whole, and whether the present read is being repeated. -/
structure ImgRead where
  dst : Option Nat
  got : Nat
  hdr : List Byte
  part : List Byte
  retried : Bool
deriving DecidableEq, Repr

/-- The kinds of move (R301). -/
inductive MoveKind where
  | trapok
  | atMacro
  | fault
deriving DecidableEq, Repr

/-- What a move waits for (R304, R307). -/
inductive MovePhase where
  | copy
  | freeze
  | drain
  | transfer
  | remap
  | ack
deriving DecidableEq, Repr

/-- A move under way (R301, R304, R314): `op` and `origin` are what its log entry will say; `retire` makes the source
RETIRED at its end; `crcBad` that one CRC check has failed. -/
structure Move where
  le : Nat
  src : Nat
  dst : Nat
  kind : MoveKind
  op : Nat
  origin : Nat
  retire : Bool
  phase : MovePhase
  crcBad : Bool
  /-- The operation and origin of a transition whose move a fault has taken over: it is logged too (R309, R314). -/
  also : Option (Nat × Nat)
deriving DecidableEq, Repr

/-- A hardware transition (R314). -/
inductive HwReq where
  | fault (n : Nat) (dataFault : Bool)
  | wear (n : Nat)
  | stop (n : Nat)
  | tagRow (tag : Nat)
deriving DecidableEq, Repr

/-- A command in the transition queue (R313, R319); `origin` 1 register window, 2 management. -/
structure SpmCmd where
  op : Nat
  mode : Bool
  pe : Nat
  le : Nat
  origin : Nat
deriving DecidableEq, Repr

/-- What a store-to-store copy is for (R190, R191, R193, R307, R313). -/
inductive CopyFor where
  | move
  | roll
  | inPlace (le : Nat)
  | reload
  | restore
deriving DecidableEq, Repr

/-- A store-to-store copy under way (R190). -/
structure Copy where
  src : Nat
  dst : Nat
  use : CopyFor
deriving DecidableEq, Repr

/-- An activation under way (R189 to R194): the engine verified and its digest context, the new image's digest, the
logical engine whose move is queued, one frozen in place, and what has been asked of it. -/
structure Act where
  reload : Bool
  verPe : Nat
  ctx : Option Nat
  digest : List Byte
  step : Option Nat
  inPlace : Option Nat
  abort : Bool
  faulted : Bool
deriving DecidableEq, Repr

/-- The Spare Manager and the Loader beside their registers. -/
structure Spm where
  hwQ : List HwReq
  cmdQ : List SpmCmd
  move : Option Move
  copies : List Copy
  /-- Engines in TESTING that a RETIRE has named (R313). -/
  retireAfter : List Nat
  /-- Tests that a command started, by engine: its OP, ORIGIN and LE for the log entry at their end (R313, R314). -/
  testOf : Tab (Nat × Nat × Nat)
  /-- Logical engines: 0 RUNNING, 1 FROZEN, 2 STOPPED, 3 OFFLINE (R323). -/
  leState : Tab Nat
  /-- ENGn_RES.RETRY as the present sampling period found it (R312). -/
  retryBase : Tab Nat
  /-- The AON mirror's words by 128 × class + index, those still to be sent, MSEQ, and the LSEQ that has reached AON
  (R317, R318). -/
  mirror : Tab Nat
  mirQ : List Nat
  mseq : Nat
  lseqAon : Nat
  /-- RESULT of the last management command (R323). -/
  mgmt : Nat
  /-- The image the Loader or a verification is reading. -/
  img : Option ImgRead
  /-- Every PLL and DCO has locked since the last reset (R488). -/
  locked : Bool
  act : Option Act
deriving DecidableEq, Repr

/-- The Spare Manager at reset. -/
def Spm.reset : Spm where
  hwQ := []
  cmdQ := []
  move := none
  copies := []
  retireAfter := []
  testOf := []
  leState := []
  retryBase := []
  mirror := []
  mirQ := []
  mseq := 0
  lseqAon := 0
  mgmt := 0
  img := none
  locked := false
  act := none


/-! ## EXT strobes and the ports (R54, R489 to R502) -/

/-- An EXT strobe that its unit has not served (R54): the issuing engine, EXT's eight bits, the operands, the world. -/
structure Strobe where
  pe : Nat
  op : Nat
  a : W64
  b : W64
  tenant : Bool
deriving DecidableEq, Repr

/-- A unit's answer on its way to the engine (R54). -/
structure ExtAns where
  pe : Nat
  err : Bool
  data : Option W64
deriving DecidableEq, Repr

/-- A program data transfer on MPWD (R497): slot, index, granule index, the granule's bytes and its out-of-band bytes. -/
structure MpwdXfer where
  slot : Nat
  idx : Nat
  gidx : Nat
  data : List Byte
  oob : List Byte
deriving DecidableEq, Repr

/-- A message on DGQ and DGX (R499): context, FIRST, LAST, the bytes, the expected digest of a CMP message. -/
structure DgqXfer where
  ctx : Nat
  first : Bool
  last : Bool
  data : List Byte
  exp : Option (List Byte)
deriving DecidableEq, Repr

/-- A message between two Ring Ports: a census of 64 bytes, a credit of SIZE units of 64 KiB, a unit's bytes with its FRAME
and COOKIE, and its two answers (R433 to R439). -/
inductive RlMsg where
  | census (bytes : List Byte)
  | credit (size : Nat)
  | spill (frame cookie : Nat) (data : List Byte)
  | sack
  | refused
deriving DecidableEq, Repr

/-- The last transfer on each output port. -/
structure Ports where
  /-- CPL: SQID, CID, status, DW0 (R491). -/
  cpl : Option (Nat × Nat × Nat × Nat)
  /-- HSn_DRQ: port, tag, offset, length, kind (R492). -/
  drq : Option (Nat × Nat × Nat × Nat × Bool)
  /-- HSn_TX: ID, the beats of an outbound read with their ERR (R494). -/
  tx : Option (Nat × List (List Byte × Bool))
  /-- MPD: slot, index, the descriptor's 64 bytes (R497). -/
  mpd : Option (Nat × Nat × List Byte)
  mpwd : Option MpwdXfer
  dgq : Option DgqXfer
  /-- RLn_TXD: the messages that the last command sent, with their links (R431 to R437). -/
  rl : List (Nat × RlMsg)
deriving DecidableEq, Repr

/-- No transfer yet. -/
def Ports.none : Ports := ⟨.none, .none, .none, .none, .none, .none, []⟩

/-! ## The Intake (08) -/

/-- The rows of a tag's reservation: none, held at the Kettle, or energy-backed (R25, R230, R277). -/
inductive Resv where
  | none
  | held
  | backed
deriving DecidableEq, Repr

/-- A tag: its row (R229) and what the Intake keeps beside it. `st` 0 FREE, 1 ADMIT, 2 QUEUED, 3 LANDING, 4 LANDED, 5 WORK,
6 ABORTING, 7 POSTING. -/
structure Tag where
  st : Nat
  cls : Nat
  taken : Bool
  tseq : Nat
  le : Nat
  tend : Bool
  dreq : Bool
  /-- [0] LAND, [1] ENERGY, [2] AUTOCPL, [3] FLUSH. -/
  attr : Nat
  /-- The matching rule, if one matched. -/
  rule : Option Nat
  slot : Nat
  sqid : Nat
  cid : Nat
  nsid : Nat
  slba : Nat
  len : Nat
  stage : Nat
  wbuf : Nat
  kres : Nat
  cseq : Nat
  decided : Bool
  status : Nat
  dw0 : Nat
  sqe : List Byte
  group : Nat
  ftarget : Nat
  resv : Resv
  /-- Bytes received on the Host Shim, and the port of the data request (R493). -/
  rx : Nat
  port : Nat
  /-- The status an ABORTING tag will post, and whether an abort or a reset decided the tag (R228, R232). -/
  abst : Nat
  lost : Bool
  /-- The admission-queue head counts as Urgent by age (R222). -/
  aged : Bool
  /-- The command met an allocated (SQID, CID) pair (R219). -/
  dup : Bool
deriving DecidableEq, Repr

/-- A tag that was never allocated. -/
def Tag.free : Tag where
  st := 0
  cls := 0
  taken := false
  tseq := 0
  le := 0
  tend := false
  dreq := false
  attr := 0
  rule := none
  slot := 0
  sqid := 0
  cid := 0
  nsid := 0
  slba := 0
  len := 0
  stage := 0
  wbuf := 0
  kres := 0
  cseq := 0
  decided := false
  status := 0
  dw0 := 0
  sqe := []
  group := 0
  ftarget := 0
  resv := .none
  rx := 0
  port := 0
  abst := 0
  lost := false
  aged := false
  dup := false

/-- A dispatch record (R227, R228): its tag, the order of its dispatch, whether its write has taken effect and it has been
taken, and the outcome once decided. -/
structure Rec where
  tag : Nat
  tseq : Nat
  order : Nat
  bytes : List Byte
  visible : Bool
  taken : Bool
  outcome : Option (Nat × Nat)
  /-- Its write has been sent: P5 was open (R288). -/
  sent : Bool
deriving DecidableEq, Repr

/-- An extent of a ring (R225, R226): its name, its lines (skipped ones included), released or not; for the write buffer the
completion sequence number it holds (R234). -/
structure Extent where
  name : Nat
  lines : Nat
  released : Bool
  cseq : Option Nat
deriving DecidableEq, Repr

/-- A ring of extents in allocation order: the next line, and what is held. -/
structure Ring where
  next : Nat
  exts : List Extent
deriving DecidableEq, Repr

/-- A data request that waits for READY (R227, R241, R493): a transfer of a tag's allocation, or the refetch of 64 bytes for
a line of a bank. -/
inductive DataReq where
  | transfer (tag tseq : Nat)
  | refetch (tag off bank line : Nat)
deriving DecidableEq, Repr

/-- The Intake beside its registers. -/
structure Intake where
  tags : Tab Tag
  /-- The first tag of the free list never allocated since reset, and the tags returned to its tail (R218). -/
  fresh : Nat
  freed : List Nat
  admQ : List Nat
  dispQ : List Nat
  lastGroup : Nat
  lastMember : Tab Nat
  rings : Tab Ring
  wb : Ring
  recs : Tab Rec
  order : Nat
  /-- Where RETAKE goes on, per logical engine (R228). -/
  retake : Tab Nat
  postQ : List Nat
  drqQ : List DataReq
  /-- Refetches asked of the front end and not yet landed: tag, offset, bank, line (R241). -/
  refetch : List (Nat × Nat × Nat × Nat)
  /-- Write buffer releases on their way to the Intake: address and lines (R26, R226). -/
  wbRel : List (Nat × Nat)
  /-- The warning is usable at the Intake (R288). -/
  warned : Bool
  /-- Tags to be retired when next freed (R316). -/
  retiring : List Nat
  /-- Tag rows moved to a spare row (R316). -/
  rowMap : List Nat
deriving DecidableEq, Repr

/-- The Intake after a reset or a wake (R218, R240). -/
def Intake.reset : Intake where
  tags := []
  fresh := 0
  freed := []
  admQ := []
  dispQ := []
  lastGroup := 7
  lastMember := []
  rings := []
  wb := ⟨0, []⟩
  recs := []
  order := 0
  retake := []
  postQ := []
  drqQ := []
  refetch := []
  wbRel := []
  warned := false
  retiring := []
  rowMap := []

/-! ## The Kettle and the Percolator (10) -/

/-- What is on its way to the Kettle (R275): a release, or a withdrawal of the request of a tag's allocation. -/
inductive KetIn where
  | release (amount : Nat)
  | withdraw (tag tseq : Nat)
deriving DecidableEq, Repr

/-- The Intake's outstanding request (R273, R274): its tag, CLEN, and the amount once the Kettle has computed it. -/
structure KetReq where
  tag : Nat
  tseq : Nat
  clen : Nat
  amount : Option Nat
deriving DecidableEq, Repr

/-- The Kettle beside its registers: the last codes of each channel (newest first), valid samples since a gap, low and
recovered RAIL samples in a row, the budget of the last BANK sample. -/
structure Kettle where
  rail : List Nat
  bank : List Nat
  railN : Nat
  bankN : Nat
  low : Nat
  good : Nat
  budget : Nat
  req : Option KetReq
  /-- A grant on its way to the Intake: tag, TSEQ, amount. -/
  grant : Option (Nat × Nat × Nat)
  moving : List KetIn
  usable : List KetIn
  /-- The warning is usable in the Fabric island, and in the engines whose bit is set (R286, R288). -/
  warnFabric : Bool
  warnEng : Nat
deriving DecidableEq, Repr

/-- The Kettle after a block reset. -/
def Kettle.reset : Kettle where
  rail := []
  bank := []
  railN := 0
  bankN := 0
  low := 0
  good := 0
  budget := 0
  req := none
  grant := none
  moving := []
  usable := []
  warnFabric := false
  warnEng := 0

/-! ## The Media Port (09) -/

/-- A media descriptor by its fields (R251); `raw` its 64 bytes. -/
structure Desc64 where
  op : Nat
  flags : Nat
  le : Nat
  ns : Nat
  gcnt : Nat
  iucnt : Nat
  gran : Nat
  buf : Nat
  iu : Nat
  wbuf : Nat
  wblen : Nat
  cseq : Nat
  kres : Nat
  cookie : Nat
  blen : Nat
  oldgran : Nat
  raw : List Byte
deriving DecidableEq, Repr

/-- A descriptor accepted and not complete, or an internal journal program: its index, the ring it came from, the channel
slot it goes to, its place in acceptance order, whether it has been handed over, an ERASE still held, a failed source read,
and the DATA of its completion entry. -/
structure Accepted where
  idx : Nat
  ring : Nat
  slot : Nat
  order : Nat
  desc : Desc64
  /-- The journal block of an internal program (R262). -/
  block : Option Nat
  handed : Bool
  held : Bool
  srcErr : Bool
  data : Nat
deriving DecidableEq, Repr

/-- A closed journal block (R262): its place in the buffer, its records and its first JSEQ. -/
structure JBlock where
  at' : Nat
  count : Nat
  first : Nat
deriving DecidableEq, Repr

/-- The Media Port beside its registers. -/
structure Media where
  /-- Entries submitted and not yet fetched: ring and how many are left, in the order of the MP_SUBMIT writes (R253). -/
  subs : List (Nat × Nat)
  /-- Per ring the next entry to fetch, and how many entries are submitted and not fetched. -/
  heads : Tab Nat
  used : Tab Nat
  /-- The present fetch has had one error. -/
  retried : Bool
  /-- Fetched entries that wait for acceptance: ring and 64 bytes. -/
  fetched : List (Nat × List Byte)
  accepted : List Accepted
  order : Nat
  /-- Completion entries not yet consumed (R253, R261). -/
  unread : Nat
  /-- The open journal block, if a block is free, closed ones oldest first, a program of the oldest in flight. -/
  jopen : Option JBlock
  jclosed : List JBlock
  jbusy : Bool
  /-- A journal block has been programmed since EN rose (R263). -/
  jprog : Bool
deriving DecidableEq, Repr

/-- The Media Port after a reset. -/
def Media.reset : Media where
  subs := []
  heads := []
  used := []
  retried := false
  fetched := []
  accepted := []
  order := 0
  unread := 0
  jopen := some ⟨0, 0, 0⟩
  jclosed := []
  jbusy := false
  jprog := false


/-! ## The digest arbiter (R499 to R501) -/

/-- A digest context in use: the logical engine that holds it (none: the Spare Manager), and the request block that waits
for its result, with its result address, FLAGS.CMP, FLAGS.DB and LE. -/
structure DgCtx where
  owner : Option Nat
  job : Option (Nat × Nat × Bool × Bool × Nat)
deriving DecidableEq, Repr

/-! ## Timers and the time counter (14) -/

/-- What the timer channels, the capture pairs and the servo hold beside their registers (R363 to R374, R378, R379): ticks since
the last prescaled tick, ticks left of a phase delay, the first stamp of a half-captured event, CAP_FALL and CAP_WIDTH of the live
triple with its CAPPOL, the tick and the level of the last accepted edge, the θ of a servo result and the tick in which it falls
due, the tick of the last accepted Time Port event, and whether a start of the timers' or the sequencers' group comes with the next
tick (R367, R421). -/
structure Timers where
  presc : Tab Nat
  phase : Tab Nat
  first : Tab Nat
  live : Tab (Nat × Nat × Bool)
  edge : Tab (Nat × Bool)
  servo : Option (Int × Nat)
  tpAt : Option Nat
  go : Bool
  psGo : Bool
deriving DecidableEq, Repr

/-- The timers after a reset. -/
def Timers.reset : Timers := ⟨[], [], [], [], [], none, none, false, false⟩

/-- The model's own: what the present cycle of the Distributor has applied (R348, R353): the last step of R353's order, the targets
whose claim it has served, the level sources that a PENDSET forced, those that a PENDCLR masked. -/
structure DistCycle where
  step : Nat
  served : List Nat
  forced : List Nat
  cut : List Nat
deriving DecidableEq, Repr

/-- A cycle in which nothing has reached the Distributor. -/
def DistCycle.idle : DistCycle := ⟨0, [], [], []⟩

/-- The model's own: what the present PERIPH tick has seen (R365, R374, R377, R406): the last step of Crema's order and the logical
engine of the last LOOKUP, the capture pairs read, those that published, the publications held over to the next tick (RISE, FALL, WIDTH,
the low pulse's order), the channels that a group start armed, a LOAD, a servo result. -/
structure Tick where
  crema : Nat
  looked : Nat
  read : List Nat
  published : List Nat
  held : Tab (Nat × Nat × Nat × Bool)
  started : List Nat
  loaded : Bool
  servoed : Bool
deriving DecidableEq, Repr

/-- A tick in which nothing has happened yet. -/
def Tick.fresh : Tick := ⟨0, 0, [], [], [], [], false, false⟩

/-! ## Axis ports and Crema (15) -/

/-- An axis beside its registers (R389 to R398): the accepted levels of A and B, the last interpolated step, the extreme
position in direction DIR, the window's increments and their sum, whether the window is the first one or the one in which
motion began, whether it holds a reversal, the live probe latch (position, TNOW), the emulated count. -/
structure Axis where
  lvlA : Bool
  lvlB : Bool
  phi : Option Nat
  ext : Nat
  n : Nat
  net : Int
  young : Bool
  rev : Bool
  prb : Nat × Nat
  emu : Int
deriving DecidableEq, Repr

/-- An axis after a reset. -/
def Axis.reset : Axis := ⟨false, false, none, 0, 0, 0, false, false, (0, 0), 0⟩

/-- A Crema slot that is not FREE (R402, R403): the logical engine that holds it (none: PENDING), what the trigger wrote,
RFLAGS[15:8] in place, the order of its trigger and its tick. -/
structure CSlot where
  held : Option Nat
  frame : Nat
  tnow : Nat
  pos0 : Nat
  pos1 : Nat
  spd0 : Nat
  spd1 : Nat
  flags : Nat
  order : Nat
  born : Nat
deriving DecidableEq, Repr



/-! ## Pin Sequencers (16) -/

/-- A stalled step (R417): its word as latched, whether it was injected, its partial bits. -/
structure PsStall where
  word : Nat
  inj : Bool
  bits : List Bool
deriving DecidableEq, Repr

/-- A Pin Sequencer beside its registers (R412 to R423): its step memory, its two FIFOs, DES, the stalled step, the DWELL
cycles it is in, the pending injection, the ticks since its divider restarted. -/
structure PinSeq where
  steps : Tab Nat
  sndf : List Nat
  rcvf : List Nat
  des : Nat
  stall : Option PsStall
  dwell : Nat
  inj : Option Nat
  div : Nat
deriving DecidableEq, Repr

/-- A Pin Sequencer after a reset. -/
def PinSeq.reset : PinSeq := ⟨[], [], [], 0, none, 0, none, 0⟩



/-! ## The Ring Port (17) -/

/-- A spill descriptor (R436). -/
structure SpillDesc where
  link : Nat
  blen : Nat
  buf : Nat
  wbuf : Nat
  wblen : Nat
  cseq : Nat
  kres : Nat
  frame : Nat
  cookie : Nat
deriving DecidableEq, Repr

/-- The Ring Port beside its registers: per link the credits offered to the peer (BUF, KRES, SIZE) and the sizes of the
credits held from it, oldest first; descriptors that wait for a credit and spills without an answer; the next entry of the
submission ring and the submitted entries not yet fetched; the frames to cover in the next census and whether some came by spill; the
census count; the warning is usable in the Ring island. -/
structure RingPort where
  offered : Tab (List (Nat × Nat × Nat))
  held : Tab (List Nat)
  waiting : List SpillDesc
  flight : List SpillDesc
  head : Nat
  due : Nat
  frames : List Nat
  spilled : Bool
  seq : Nat
  warned : Bool
deriving DecidableEq, Repr

/-- The Ring Port after a reset. -/
def RingPort.reset : RingPort := ⟨[], [], [], [], 0, 0, [], false, 0, false⟩



/-! ## Power (18) -/

/-- What the power controller holds beside its registers: the level of PWR_WAKE, a wake asked for from the debug bus, the
cause of the wake under way (R448, R453). -/
structure Power where
  wakeIn : Bool
  wakeDbg : Bool
  cause : Option (Nat × Nat)
deriving DecidableEq, Repr



/-! ## The debug port (19) -/

/-- The debug bus access that is outstanding (R461, R462): its address and, for a write, its data. -/
structure DbgAcc where
  addr : Nat
  data : Option Nat
deriving DecidableEq, Repr

/-- The scan port (R459 to R462): the instruction selected, what the last Capture-IR and the last Capture-DR loaded (IDCODE's
word from its selection on), ADDR,
WR and INC of MEMADDR, OFFSET and INC of OBSADDR, the access outstanding, and DATA and STATUS of the last one completed. -/
structure Tap where
  ir : Nat
  irCap : Nat
  dr : Nat
  addr : Nat
  wr : Bool
  inc : Bool
  off : Nat
  offInc : Bool
  acc : Option DbgAcc
  data : Nat
  status : Nat
deriving DecidableEq, Repr

/-- The scan port after power-on (R459): IDCODE is selected. -/
def Tap.reset : Tap := ⟨1, 0, 0, 0, false, false, 0, false, none, 0, 0⟩


/-! ## The whole block -/

/-- Everything but the queue of commands. -/
structure Block where
  /-- LC_STATE is SEALED (R3, R4); only SEAL_INPUT_HIGH changes it. -/
  isSealed : Bool
  /-- Register fields that differ from their reset value or have been written, by key (R12, R14). -/
  regs : Tab Nat
  /-- The Carafe banks' bytes at 0x0 to 0x03FF_FFFF and the DRAM window's from 0x1_0000_0000 (R196, R495). -/
  mem : Mem
  /-- Physical engines; one that is not listed is as at reset. -/
  eng : Tab Engine
  /-- Carafe banks; one that is not listed is as at reset. -/
  bank : Tab Bank
  /-- The DRAM Port (R495, R520). -/
  dram : DramPort
  /-- Answers on their way to engines, oldest first (R52). -/
  resps : List Resp
  /-- Chain FIFOs, by 8 × cluster + j (R147). -/
  chain : Tab Chain
  /-- The target that claimed each active source (R348). -/
  claimer : Tab Nat
  /-- The model's own: counts the free values drawn so far (log entry 3). -/
  fresh : Nat
  /-- Virtual terminal channels (R479). -/
  vt : Tab Vt
  /-- Domain requests in the order they arrived (R445). -/
  domQ : List DomReq
  /-- PD1 is ON: it follows the DBG_PWRREQ input (R480). -/
  pd1 : Bool
  /-- PD4 is ON (R443, R445). -/
  pd4 : Bool
  /-- PD5 is ON; with INTEG_OPT.RING = 0 it counts as OFF (R443, R445, R505). -/
  pd5 : Bool
  /-- Trace records in the sink's buffer, oldest first (R476). -/
  trcBuf : List (List Byte)
  /-- The Spare Manager, the Loader and activation (06, 11). -/
  spm : Spm
  /-- EXT strobes that wait for their unit (R54). -/
  strobes : List Strobe
  /-- Answers to EXT strobes on their way (R54). -/
  extAns : List ExtAns
  /-- The last transfer on each output port (20). -/
  ports : Ports
  /-- The Intake and its tag table (08). -/
  intake : Intake
  /-- The Kettle and the Percolator (10). -/
  kettle : Kettle
  /-- The Media Port (09). -/
  media : Media
  /-- FRAC, TNOW's fraction in units of 2⁻²⁸ ns (R376). -/
  frac : Nat
  /-- Digest requests sent by MSG and not yet taken: logical engine and request block (R501). -/
  digQ : List (Nat × Nat)
  /-- Digest contexts 1 to 7 in use (R500). -/
  dg : Tab DgCtx
  /-- Timers, capture pairs and the servo (14). -/
  timers : Timers
  /-- The model's own: the Distributor's present cycle (log entry 12). -/
  dcycle : DistCycle
  /-- The model's own: the present PERIPH tick (log entry 31). -/
  tick : Tick
  /-- The axes beside their registers (15). -/
  axes : Tab Axis
  /-- Crema's slots that are not FREE (R402, R403). -/
  crema : Tab CSlot
  /-- The Pin Sequencers beside their registers (16). -/
  pinseq : Tab PinSeq
  /-- The synchronised inputs of PSIO0 to PSIO31 as last told (R412). -/
  psio : Nat
  /-- The Ring Port (17). -/
  rport : RingPort
  /-- The power controller beside its registers and `domQ` (18). -/
  power : Power
  /-- The scan port and the debug bus master (19). -/
  tap : Tap
deriving DecidableEq, Repr

/-- The block right after power-on reset: every register at its reset value (a register that `regs` does not list holds
the reset value its field names), every queue empty. -/
def Block.reset : Block where
  isSealed := false
  regs := []
  mem := []
  eng := []
  bank := []
  dram := ⟨[], [], [], []⟩
  resps := []
  chain := []
  claimer := []
  fresh := 0
  vt := []
  domQ := []
  pd1 := false
  pd4 := true
  pd5 := true
  trcBuf := []
  spm := Spm.reset
  strobes := []
  extAns := []
  ports := Ports.none
  intake := Intake.reset
  kettle := Kettle.reset
  media := Media.reset
  frac := 0
  digQ := []
  dg := []
  timers := Timers.reset
  dcycle := DistCycle.idle
  tick := Tick.fresh
  axes := []
  crema := []
  pinseq := []
  psio := 0
  rport := RingPort.reset
  power := ⟨false, false, none⟩
  tap := Tap.reset

/-- Why a step stops with a fault. -/
inductive Fault where
  /-- Raised by a command whose operands no agent can send (WellFormed refuses it); safe: the hardware has no such
  command. -/
  | illFormed
deriving DecidableEq, Repr

/-- Why a command is refused. -/
inductive Refusal where
  /-- Raised by an arm of `exec` whose command has no meaning yet; safe. -/
  | notModelled (mnemonic : String)
deriving DecidableEq, Repr

/-- The state of the machine: the block, and the commands that wait, first in first out. -/
structure State where
  blk : Block
  pending : List Instr
deriving DecidableEq, Repr

/-- The machine right after power-on reset in DEVELOPMENT, with no command waiting. -/
def State.reset : State := ⟨Block.reset, []⟩

end Sys2Proof.Machine
end

