-- ==== Sys2Proof/Machine/Ops.lean ====
section
/-! DEFINITION. The named operations over the block: register fields, engines and banks, free values, addresses and
rights, memory with its line locks and source fields, counters. -/
namespace Sys2Proof.Machine

/-- A meaning's answer: the block after the command; LC_STATE stays as it was (R4), whatever the command. -/
def done (s : State) (b : Block) : Host.Outcome State Fault Refusal :=
  .next { s with blk := { b with isSealed := s.blk.isSealed } }

/-! ## Register fields -/

/-- The value of a register field. -/
def Block.get (b : Block) (f : Fld) : Nat := b.regs.get f.key f.rst

/-- A register field given a value, narrowed to its width. -/
def Block.put (b : Block) (f : Fld) (v : Nat) : Block := { b with regs := b.regs.put f.key (v % 2 ^ f.w) }

/-- A one-bit field as a Boolean. -/
def Block.flag (b : Block) (f : Fld) : Bool := b.get f != 0

/-- A one-bit field set to 1. -/
def Block.raise (b : Block) (f : Fld) : Block := b.put f 1

/-- A field set to 0. -/
def Block.clear (b : Block) (f : Fld) : Block := b.put f 0

/-- A counter that wraps at its width. -/
def Block.inc (b : Block) (f : Fld) (k : Nat) : Block := b.put f (b.get f + k)

/-- A counter that saturates at its width. -/
def Block.incSat (b : Block) (f : Fld) (k : Nat) : Block := b.put f (satAdd (b.get f) k f.w)

/-- A field returned to its reset value. -/
def Block.toReset (b : Block) (f : Fld) : Block := { b with regs := b.regs.del f.key }

/-- A 64-bit value held in two registers. -/
def Block.get64 (b : Block) (lo hi : Fld) : Nat := b.get hi * 2 ^ 32 + b.get lo

/-- A 64-bit value written to two registers. -/
def Block.put64 (b : Block) (lo hi : Fld) (v : Nat) : Block := (b.put lo v).put hi (v / 2 ^ 32)

/-- An address held as bits [31:s] of a LO register's field and a HI register's field. -/
def Block.getAddr (b : Block) (lo hi : Fld) : Nat := b.get hi * 2 ^ 32 + b.get lo * 2 ^ lo.lo

/-! ## Fields of arrays that several registers hold -/

/-- EVT*i* of ENGn_PMSEL (R482). -/
def R.pmEvt (n i : Nat) : Fld := ⟨0x400e0 + n * 0x100 + i / 4 * 4, 8 * (i % 4), 8, .rw, 0⟩
/-- EVT of GPC*i* (R483). -/
def R.gpEvt (i : Nat) : Fld := ⟨0x80200 + i / 4 * 4, 8 * (i % 4), 8, .rw, 0⟩
/-- The route byte of group *g* (R349, R360). -/
def R.routeByte (g : Nat) : Fld :=
  ⟨0x10280 + g / 4 * 4, 8 * (g % 4), 8, .rw, if 9 ≤ g ∧ g ≤ 26 then 0xFE else 0xFF⟩
/-- PRIO of source *x* (R360). -/
def R.prioByte (x : Nat) : Fld := ⟨0x10400 + x / 4 * 4, 8 * (x % 4), 8, .rw, 0⟩
/-- PE of logical engine *k* in SPM_MAP (R320). -/
def R.mapPE (k : Nat) : Fld := ⟨0x2080 + k / 4 * 4, 8 * (k % 4), 7, .ro, 9 * (k / 8) + k % 8⟩
/-- RUN of logical engine *k* in SPM_MAP (R320). -/
def R.mapRun (k : Nat) : Fld := ⟨0x2080 + k / 4 * 4, 8 * (k % 4) + 7, 1, .ro, 0⟩
/-- STATE of physical engine *n* in SPM_PE (R320). -/
def R.peState (n : Nat) : Fld := ⟨0x2110 + n / 4 * 4, 8 * (n % 4), 3, .ro, 0⟩
/-- STRIKES of physical engine *n* in SPM_PE (R320). -/
def R.peStrikes (n : Nat) : Fld := ⟨0x2110 + n / 4 * 4, 8 * (n % 4) + 3, 3, .ro, 0⟩
/-- WORN of physical engine *n* in SPM_PE (R320). -/
def R.peWorn (n : Nat) : Fld := ⟨0x2110 + n / 4 * 4, 8 * (n % 4) + 6, 1, .ro, 0⟩
/-- The LOCKUP_VEC register that holds engine *n*'s bit (R341). -/
def R.lockupVec (n : Nat) : Fld :=
  if n < 32 then R.LOCKUP_VEC0_SE else if n < 64 then R.LOCKUP_VEC1_SE else R.LOCKUP_VEC2_SE
/-- The DBG_XHALT register that holds engine *n*'s bit (R483). -/
def R.xhalt (n : Nat) : Fld := if n < 64 then R.DBG_XHALT_SE (n / 32) else R.DBG_XHALT2_SE

/-- A number with bit `i` set. -/
def setBit (v i : Nat) : Nat := if v.testBit i then v else v + 2 ^ i

/-- A number with bit `i` clear. -/
def clrBit (v i : Nat) : Nat := if v.testBit i then v - 2 ^ i else v

/-- A number with bit `i` given a value. -/
def putBit (v i : Nat) (x : Bool) : Nat := if x then setBit v i else clrBit v i

/-! ## Power domains of the window (R508 to R512, R517, R518) -/

/-- The offsets of PD4 (R508, R512): timers, Pin Sequencers, axes, the group start, Crema and its slot view. -/
def isPeriph (off : Nat) : Bool :=
  decide (0x8000 ≤ off ∧ off < 0x8800) || decide (0xA000 ≤ off ∧ off < 0xA400) || decide (0xB000 ≤ off ∧ off < 0xB180) ||
    decide (0x380 ≤ off ∧ off < 0x394) || decide (0x3C0 ≤ off ∧ off < 0x3F0) || decide (0x60000 ≤ off ∧ off < 0x70000)

/-- The registers of PD1 (R483, R508): the debug and trace view but for the global counters. -/
def isDebug (off : Nat) : Bool :=
  decide (0x80000 ≤ off ∧ off < 0x80400) && !decide (0x80100 ≤ off ∧ off < 0x80244)

/-- The domains that Drip switches off are off: in Drip, without emulation (R449, R454). -/
def Block.drips (b : Block) : Bool := b.flag R.PWR_STAT_DRIP && !b.flag R.PWR_STAT_EMUL

/-- The domain that answers for a window offset is not ON, or its unit is stamped absent (R505, R508, R510). -/
def Block.winOff (b : Block) (off : Nat) : Bool :=
  if off < 0x40000 then
    if isPeriph off then
      !b.pd4 || (decide (0xB000 ≤ off ∧ off < 0xB0C0) && !b.flag R.INTEG_OPT_AX0) ||
        (decide (0xB0C0 ≤ off ∧ off < 0xB180) && !b.flag R.INTEG_OPT_AX1)
    else if 0x6000 ≤ off ∧ off < 0x6100 then !b.pd5 || !b.flag R.INTEG_OPT_RING
    else if (0x200 ≤ off ∧ off < 0x300) ∨ (0x2000 ≤ off ∧ off < 0x2200) ∨ (0x3080 ≤ off ∧ off < 0x3100) ∨
        (0x4000 ≤ off ∧ off < 0x4200) ∨ (0x20000 ≤ off ∧ off < 0x20800) then b.drips
    else false
  else if off < 0x44800 then b.get (R.PWR_ENG_STATE ((off - 0x40000) / 0x100)) != 2
  else if isPeriph off then !b.pd4
  else isDebug off && !b.pd1

/-- A register's access: nothing where its domain does not answer (R510). -/
def Block.atReg (b : Block) (f : Fld) (act : Block → Block) : Block := if b.winOff f.off then b else act b

/-- A write to engine `n`'s block at an offset below 0x100 (R510, R517): to a MOVING engine a configuration write is
ignored and sets CFGREF. -/
def Block.atEng (b : Block) (n o : Nat) (act : Block → Block) : Block :=
  if b.get (R.PWR_ENG_STATE n) ≠ 2 then b
  else if ((0x40 ≤ o ∧ o ≤ 0x70) ∨ (0x90 ≤ o ∧ o ≤ 0xA8)) ∧ b.get (R.peState n) = 3 then b.raise (R.ENG_ID_CFGREF n)
  else act b

/-! ## Engines, banks, free values -/

/-- Physical engine *n*. -/
def Block.engine (b : Block) (n : Nat) : Engine := b.eng.get n Engine.reset

/-- Physical engine *n* given a state. -/
def Block.setEngine (b : Block) (n : Nat) (e : Engine) : Block := { b with eng := b.eng.put n e }

/-- Physical engine *n* changed by a function. -/
def Block.modEngine (b : Block) (n : Nat) (f : Engine → Engine) : Block := b.setEngine n (f (b.engine n))

/-- Bank *k*. -/
def Block.bankAt (b : Block) (k : Nat) : Bank := b.bank.get k (Bank.reset k)

/-- Bank *k* given a state. -/
def Block.setBank (b : Block) (k : Nat) (c : Bank) : Block := { b with bank := b.bank.put k c }

/-- The next free 64-bit value (log entry 3). -/
def Block.freeWord (b : Block) : W64 := Config.freeWord b.fresh

/-- `n` free bytes (log entry 3). -/
def Block.freeBytes (b : Block) (n : Nat) : List Byte := (List.range n).map (Config.freeByte b.fresh)

/-- The free value has been drawn: the next one is another. -/
def Block.drawn (b : Block) : Block := { b with fresh := b.fresh + 1 }

/-- A function applied for every number below `n`, in ascending order. -/
def forEach {α : Type} (n : Nat) (f : Nat → α → α) (x : α) : α := (List.range n).foldl (fun y i => f i y) x

/-- The physical engine that runs logical engine *k* (R7, R320). -/
def Block.peOf (b : Block) (k : Nat) : Nat := b.get (R.mapPE k)

/-- The logical engine that physical engine *n* runs, if it runs one (R516). -/
def Block.leOf (b : Block) (n : Nat) : Option Nat :=
  if b.flag (R.ENG_ID_RUN n) then some (b.get (R.ENG_ID_LE n)) else none

/-- Engine *n* can issue words: it has started and nothing has stopped, halted or frozen it, and its domain is ON
(R67, R301, R341, R466, R444). -/
def Block.runs (b : Block) (n : Nat) : Bool :=
  (b.engine n).running && !(b.engine n).frozen && !(b.engine n).resFault && !b.flag (R.ENG_USTAT_HALTED n) &&
    !b.flag (R.ENG_XSTAT_LOCKUP n) && !b.flag (R.ENG_DBGSTAT_CSTOP n) && b.get (R.PWR_ENG_STATE n) == 2

/-- Engine *n* is at a macro boundary with its next instruction in IR (R33, R38): it runs, no word waits for data, no
long instruction is in progress, no fetch or WFI holds it, and its next word is the dispatch word of IR. -/
def Block.ready (b : Block) (n : Nat) : Bool :=
  b.runs n && (b.engine n).wait.isNone && (b.engine n).long.isNone && (b.engine n).hold == .none &&
    (b.engine n).upc.toNat == 0x1000 + 4 * ((b.engine n).ir.extractLsb' 24 8).toNat

/-! ## Registers of an engine -/

/-- The level that ST names: 0 VS, 1 VU, 2 TS, 3 TU (R8, R330). -/
def St.level (s : St) : Nat := 2 * bit s.tw + bit (!s.sup)

/-- The world that ST names: 0 Vendor, 1 Tenant. -/
def St.world (s : St) : Nat := bit s.tw

/-- General register *i* of the current bank; g31 is the current level's copy (R28). -/
def Engine.g (e : Engine) (i : Nat) : W64 :=
  if i = 31 then e.sp.get e.st.level 0 else if e.st.tw then e.gT.get i 0 else e.gV.get i 0

/-- The element of R28 that general register *i* of the current bank is (R299's order). -/
def Engine.gElem (e : Engine) (i : Nat) : Nat :=
  if i = 31 then 62 + e.st.level else if e.st.tw then 31 + i else i

/-- Elements have been written: their stored codes are those of their values (R142, R295). -/
def Engine.recode (e : Engine) (l : List Nat) : Engine := { e with codes := e.codes.filter fun p => !l.contains p.1 }

/-- General register *i* of the current bank written (R28). -/
def Engine.setG (e : Engine) (i : Nat) (v : W64) : Engine :=
  Engine.recode (if i = 31 then { e with sp := e.sp.put e.st.level v }
    else if e.st.tw then { e with gT := e.gT.put i v } else { e with gV := e.gV.put i v }) [e.gElem i]

/-- Lane register *i* (R28). -/
def Engine.v (e : Engine) (i : Nat) : W128 := e.vr.get i 0

/-- The elements of lane register *i*: its four words (R28). -/
def vElems (i : Nat) : List Nat := (List.range 4).map (66 + 4 * i + ·)

/-- Lane register *i* written. -/
def Engine.setV (e : Engine) (i : Nat) (x : W128) : Engine := Engine.recode { e with vr := e.vr.put i x } (vElems i)

/-- Micro-register *i* (R28). -/
def Engine.ur (e : Engine) (i : Nat) : W64 := e.u.get i 0

/-- ST as the 64-bit word it reads as (R69). -/
def St.word (s : St) : W64 :=
  BitVec.ofNat 64 (bit s.c + 2 * bit s.z + 4 * bit s.n + 8 * bit s.v + 16 * bit s.rsm + 32 * bit s.ie + 64 * bit s.fz
    + 128 * s.rm.toNat + 512 * s.fflags.toNat + 2 ^ 14 * s.fen.toNat + 2 ^ 19 * bit s.ss + 2 ^ 20 * bit s.sup
    + 2 ^ 21 * bit s.tw)

/-- ST from a 64-bit word, its reserved bits taken as 0 (R69, R339). -/
def St.ofWord (w : W64) : St where
  c := w.getLsbD 0
  z := w.getLsbD 1
  n := w.getLsbD 2
  v := w.getLsbD 3
  rsm := w.getLsbD 4
  ie := w.getLsbD 5
  fz := w.getLsbD 6
  rm := w.extractLsb' 7 2
  fflags := w.extractLsb' 9 5
  fen := w.extractLsb' 14 5
  ss := w.getLsbD 19
  sup := w.getLsbD 20
  tw := w.getLsbD 21

/-! ## Stored codes (R28, R142, R295) -/

/-- The value of a residue-carrying element. -/
def Engine.elem (e : Engine) (x : Nat) : Nat :=
  if x < 31 then (e.gV.get x 0).toNat
  else if x < 62 then (e.gT.get (x - 31) 0).toNat
  else if x < 66 then (e.sp.get (x - 62) 0).toNat
  else if x < 98 then (e.v ((x - 66) / 4)).toNat / 2 ^ (32 * ((x - 66) % 4)) % 2 ^ 32
  else if x < 114 then (e.ur (x - 98)).toNat
  else match x with
    | 114 => e.mdr.toNat
    | 115 => e.mlo.toNat
    | 116 => e.mhi.toNat
    | _ => e.fpr.toNat

/-- The residue code of a value: modulo 15, so never 0xF (R295). -/
def residue (v : Nat) : Nat := v % 15

/-- The stored residue code of element `x` (R28, R295). -/
def Engine.code (e : Engine) (x : Nat) : Nat := e.codes.get x (residue (e.elem x)) % 16

/-- An element and its stored code disagree (R142, R295): a residue that is not the value's, 0xF always; or a parity code that
has been changed. -/
def Engine.corrupt (e : Engine) (x : Nat) : Bool :=
  if 128 ≤ x then (e.codes.look x).isSome else e.code x != residue (e.elem x)

/-! ## Counters (R477, R478) -/

/-- One more in counter *i* of engine *n*, with the carry into the counter it is linked to and the wrap recorded. -/
def Block.pmcStep (n i : Nat) (b : Block) : Block :=
  let v := b.get (R.ENG_PMC_COUNT n i)
  let b := b.put (R.ENG_PMC_COUNT n i) (v + 1)
  if v + 1 < 2 ^ 32 then b
  else
    let b := b.put (R.ENG_PMCTL_OVF n) (setBit (b.get (R.ENG_PMCTL_OVF n)) i)
    if i % 2 = 0 ∧ (b.get (R.ENG_PMCTL_LINK n)).testBit (i / 2) then
      let h := b.get (R.ENG_PMC_COUNT n (i + 1))
      let b := b.put (R.ENG_PMC_COUNT n (i + 1)) (h + 1)
      if h + 1 < 2 ^ 32 then b else b.put (R.ENG_PMCTL_OVF n) (setBit (b.get (R.ENG_PMCTL_OVF n)) (i + 1))
    else b

/-- An engine event counted in every counter of engine *n* that selects it (R477). -/
def Block.countEng (b : Block) (n code : Nat) : Block :=
  if b.flag (R.ENG_PMCTL_EN n) then
    if b.flag (R.ENG_PMCTL_FRZHALT n) && (b.flag (R.ENG_DBGSTAT_CSTOP n) || b.flag (R.ENG_DBGSTAT_MONITOR n)) then b
    else forEach 8 (fun i b => if b.get (R.pmEvt n i) = code then b.pmcStep n i else b) b
  else b

/-- `k` occurrences of a global event counted in every global counter that selects it (R478). -/
def Block.countGlob (b : Block) (code k : Nat) : Block :=
  if b.flag R.GPCTL_EN then
    forEach 64 (fun i b => if b.get (R.gpEvt i) = code then b.inc (R.GPC_COUNT i) k else b) b
  else b

/-! ## Addresses -/

/-- The unit an address belongs to (R196, R10, R229, R495): a bank, the register window by offset, the tag table window
by offset, the DRAM window by offset, or none. -/
inductive Target where
  | carafe (bank : Nat)
  | window (off : Nat)
  | tags (off : Nat)
  | dram (off : Nat)
  | nothing
deriving DecidableEq, Repr

/-- Where the DRAM window starts. -/
def dramBase : Nat := 0x100000000

/-- The DRAM window's stamped size in bytes (R495, R504). -/
def Block.dramSize (b : Block) : Nat := b.get R.INTEG_DRAM_GIB * 2 ^ 30

/-- The target of an address; a DRAM window offset at or above the stamped size has none (R495). -/
def Block.target (b : Block) (a : Nat) : Target :=
  if a < 0x4000000 then .carafe (a / 2 ^ 20)
  else if 0x10000000 ≤ a ∧ a < 0x10100000 then .window (a - 0x10000000)
  else if 0x20000000 ≤ a ∧ a < 0x20400000 then .tags (a - 0x20000000)
  else if dramBase ≤ a ∧ a - dramBase < b.dramSize then .dram (a - dramBase)
  else .nothing

/-- Bank *k* is ON as the requesters' bank-state copy shows it (R205, R206). -/
def Block.bankOn (b : Block) (k : Nat) : Bool := b.get (R.CB_STAT_PSTATE k) == 2 && (b.bankAt k).target.isNone

/-- The rights of a region entry (R327): R, W, X. -/
inductive Right where
  | read
  | write
  | exec
deriving DecidableEq, Repr

/-- The bit of a right within a level's three (R330). -/
def Right.bit : Right → Nat
  | .read => 0
  | .write => 1
  | .exec => 2

/-- The lowest-numbered enabled entry that contains a byte (R328). -/
def Engine.regionOf (e : Engine) (a : Nat) : Option RgEntry :=
  (e.rg.find? fun p => p.2.en && decide (p.2.base ≤ a / 4096) && decide (a / 4096 ≤ p.2.lim)).map (·.2)

/-- A byte's region grants a right at a level (R328). -/
def Engine.grants (e : Engine) (level : Nat) (r : Right) (a : Nat) : Bool :=
  match e.regionOf a with
  | some p => p.perm.getLsbD (3 * level + r.bit)
  | none => false

/-- An access of `n` bytes passes the region table at a level: first and last byte both do, inside the 48-bit space
(R328, R95). -/
def Engine.allows (e : Engine) (level : Nat) (r : Right) (a n : Nat) : Bool :=
  decide (a + n ≤ 2 ^ 48) && e.grants level r a && e.grants level r (a + n - 1)

/-- The first address of an access at which a bank that is not ON is touched (R197). -/
def Block.bankFault (b : Block) (a n : Nat) : Option Nat :=
  let t := a / 2 ^ 20 * 2 ^ 20 + 2 ^ 20
  match b.target a with
  | .carafe k =>
    if !b.bankOn k then some a
    else if a + n ≤ t then none
    else match b.target t with
      | .carafe j => if b.bankOn j then none else some t
      | _ => none
  | _ => none

/-! ## Memory: writes break locks and clear source fields (R204, R210, R520) -/

/-- The line locks of other requesters on a line of bank *k* emptied, with a break notice to each holder (R204). -/
def Block.breakBank (b : Block) (k line rq : Nat) : Block :=
  let c := b.bankAt k
  let hit := c.locks.filter fun p => p.2.1 == line && p.1 != rq
  if hit.isEmpty then b
  else hit.foldl (fun b p => b.modEngine p.1 fun e => { e with notices := e.notices ++ [p.2.2] })
    (b.setBank k { c with locks := c.locks.filter fun p => !(p.2.1 == line && p.1 != rq) })

/-- The line locks of other requesters on a line of the DRAM window emptied; no notice is sent (R520). -/
def Block.breakDram (b : Block) (line rq : Nat) : Block :=
  { b with dram := { b.dram with locks := b.dram.locks.filter fun p => !(p.2.1 == line && p.1 != rq) } }

/-- The 8-byte words of a line, one bit each, that `n` bytes from offset `o` touch (R207). -/
def touchMask (o n : Nat) : Nat :=
  (List.range 8).foldl (fun m w => if o < 8 * w + 8 ∧ 8 * w < o + n then m + 2 ^ w else m) 0

/-- Those that they replace whole. -/
def coverMask (o n : Nat) : Nat :=
  (List.range 8).foldl (fun m w => if o ≤ 8 * w ∧ 8 * w + 8 ≤ o + n then m + 2 ^ w else m) 0

/-- Words of a bank's line written anew: they are no longer damaged, and a line without damage is whole again (R209, R213). -/
def Bank.heal (c : Bank) (line words : Nat) : Bank :=
  let m := c.bad.get line 0
  let m := m - Nat.land m words
  if m = 0 then { c with bad := c.bad.del line, seen := c.seen.filter (· != line) } else { c with bad := c.bad.put line m }

/-- What a write of `n` bytes of one line at `a` by requester `rq` does beside its bytes: locks of others, and in the Carafe the
source field, which only a landing write of a whole line sets (R204, R210), and damaged words that it replaces (R213). -/
def Block.touchLine (b : Block) (rq a n : Nat) (src : Option Nat) : Block :=
  match b.target a with
  | .carafe k =>
    let line := a / 64 % 2 ^ 14
    let b := b.breakBank k line rq
    let c := (b.bankAt k).heal line (coverMask (a % 64) n)
    let s := match src with
      | some l => if n = 64 then c.src.put line l else c.src.del line
      | none => c.src.del line
    b.setBank k { c with src := s }
  | .dram off => b.breakDram (off / 64) rq
  | _ => b

/-- `n` bytes written at `a`, line by line: the lines' side effects, at most `fuel` lines. -/
def Block.touchLines (rq : Nat) (src : Option Nat) : Nat → Nat → Nat → Block → Block
  | 0, _, _, b => b
  | fuel + 1, a, n, b =>
    if n = 0 then b
    else
      let k := min n (64 - a % 64)
      Block.touchLines rq src fuel (a + k) (n - k) (b.touchLine rq a k src)

/-- A write that takes effect at its target: bytes, locks and source fields (R204, R210, R520). -/
def Block.store (b : Block) (rq a : Nat) (data : List Byte) (src : Option Nat) : Block :=
  let b := Block.touchLines rq src (data.length / 64 + 2) a data.length b
  { b with mem := b.mem.writes a data }

/-- `n` bytes of memory from `a`. -/
def Block.fetch (b : Block) (a n : Nat) : List Byte := b.mem.bytes a n

/-! ## Requests that take effect at their target -/

/-- The line lock slots of the target of an address: the line requester `rq` holds there, with the lock's number. -/
def Block.lockHeld (b : Block) (rq a : Nat) : Option (Nat × Nat) :=
  match b.target a with
  | .carafe k => (b.bankAt k).locks.look rq
  | .dram _ => b.dram.locks.look rq
  | _ => none

/-- The line number under which the target of an address keeps a lock. -/
def Block.lockLine (b : Block) (a : Nat) : Nat :=
  match b.target a with
  | .dram off => off / 64
  | _ => a / 64 % 2 ^ 14

/-- Requester `rq`'s lock slot at the target of an address given a line, replacing what it held (R202). -/
def Block.takeLock (b : Block) (rq a lock : Nat) : Block :=
  match b.target a with
  | .carafe k =>
    let c := b.bankAt k
    b.setBank k { c with locks := c.locks.put rq (b.lockLine a, lock) }
  | .dram _ => { b with dram := { b.dram with locks := b.dram.locks.put rq (b.lockLine a, lock) } }
  | _ => b

/-- Requester `rq`'s lock slot at the target of an address emptied. -/
def Block.freeLock (b : Block) (rq a : Nat) : Block :=
  match b.target a with
  | .carafe k =>
    let c := b.bankAt k
    b.setBank k { c with locks := c.locks.del rq }
  | .dram _ => { b with dram := { b.dram with locks := b.dram.locks.del rq } }
  | _ => b

/-- The new value an AMO writes (R52, R84): 0 add, 1 swap, 2 compare-and-swap, 3 AND, 4 OR. A compare-and-swap whose
comparison fails writes the old value back. -/
def amoValue (op old b cmp w : Nat) : Nat :=
  match op with
  | 0 => (old + b) % 2 ^ w
  | 1 => b % 2 ^ w
  | 2 => if old = cmp % 2 ^ w then b % 2 ^ w else old
  | 3 => Nat.land old (b % 2 ^ w)
  | _ => Nat.lor old (b % 2 ^ w)

/-- The request changes memory. -/
def ReqKind.writes : ReqKind → Bool
  | .write | .landing _ | .condStore | .amo _ => true
  | _ => false

/-- A request that takes effect at its target, Carafe or DRAM (R52, R202 to R204, R210, R520): the block after it and
the bytes it answers. -/
def Block.effect (b : Block) (q : Req) : Block × List Byte :=
  match q.kind with
  | .read => (b, b.fetch q.addr q.len)
  | .write => (b.store q.rq q.addr q.data none, [])
  | .landing src => (b.store q.rq q.addr q.data src, [])
  | .lockRead => (b.takeLock q.rq q.addr q.lock, b.fetch q.addr q.len)
  | .lockRelease => (b.freeLock q.rq q.addr, [])
  | .condStore =>
    match b.lockHeld q.rq q.addr with
    | some (line, _) =>
      if line = b.lockLine q.addr then ((b.freeLock q.rq q.addr).store q.rq q.addr q.data none, leBytes 1 q.len)
      else (b.freeLock q.rq q.addr, leBytes 0 q.len)
    | none => (b, leBytes 0 q.len)
  | .amo op =>
    let old := b.fetch q.addr q.len
    (b.store q.rq q.addr (leBytes (amoValue op (leNat old) (leNat q.data) q.cmp (8 * q.len)) q.len) none, old)

/-- The answer of a request that took effect sent on its way (R51, R52). -/
def Block.answer (b : Block) (q : Req) (data : List Byte) (err : Bool) : Block :=
  match q.reply with
  | .none => b
  | .now => b
  | r => { b with resps := b.resps ++ [⟨q.rq, r, q.addr, data, err, [], q.cls⟩] }

/-- A request takes effect and its answer is sent. -/
def Block.perform (b : Block) (q : Req) : Block :=
  let r := b.effect q
  r.1.answer q r.2 false

/-- The lines of an access to the DRAM window counted (R478). -/
def Block.countDram (b : Block) (a n : Nat) (rd wr : Bool) : Block :=
  match b.target a with
  | .dram _ =>
    let k := if n = 0 then 0 else (a + n - 1) / 64 - a / 64 + 1
    let b := if rd then b.countGlob 0x0D k else b
    if wr then b.countGlob 0x0E k else b
  | _ => b

/-- The request reads data. -/
def ReqKind.reads : ReqKind → Bool
  | .read | .lockRead | .amo _ | .condStore => true
  | _ => false

/-- A request presented on DRc_RQ takes effect in the controller's order and waits for its answer (R495, R520). -/
def Block.present (b : Block) (q : Req) : Block :=
  let r := (b.countDram q.addr q.len q.kind.reads q.kind.writes).effect q
  { r.1 with dram := { r.1.dram with presented := r.1.dram.presented ++ [{ q with data := r.2 }] } }

/-- The class of an engine request by its address (R281, R282): the lowest-numbered window that covers it, else P4. -/
def Block.classOf (b : Block) (a : Nat) : Nat :=
  match (List.range 4).find? fun w =>
      b.flag (R.PERC_WIN_CFG_EN w) && decide (b.getAddr (R.PERC_WIN_LO_ADDR w) (R.PERC_WIN_HI_ADDR w) ≤ a) &&
        decide (a < b.getAddr (R.PERC_WIN_LO_ADDR w) (R.PERC_WIN_HI_ADDR w) + 4096 * b.get (R.PERC_WIN_CFG_SIZE w)) with
  | some w => if b.flag (R.PERC_WIN_CFG_CLS w) then 3 else 2
  | none => 4

/-- A request of engine `n` as it is issued, through the fabric or not: its class is fixed by its address (R282). -/
def Block.engReq (b : Block) (n : Nat) (kind : ReqKind) (a len : Nat) (data : List Byte) (cmp : Nat) (reply : Reply) (lock : Nat)
    (fab : Bool) : Req := ⟨n, kind, a, len, data, cmp, reply, lock, 0, b.classOf a, fab, 0⟩

/-- Request `q` reaches bank *k* through the fabric: every one but a direct request of an engine of the bank's cluster (R199). -/
def Req.viaFabric (q : Req) (k : Nat) : Bool := q.fab || q.rq / 9 != k / 8

/-- The classes with a reserved fabric entry at a bank: all that send requests to banks but the highest (R281, R283). -/
def reservedClass (c : Nat) : Bool := c == 0 || c == 2 || c == 3 || c == 4

/-- The fabric entry that a request of class `c` takes at a bank whose arbiter holds `held`: a shared one of three, else its class's
own of four (R199, R283). -/
def fabricEntry (held : List Req) (c : Nat) : Option Nat :=
  if (held.filter (·.place == 2)).length < 3 then some 2
  else if reservedClass c && (held.all fun q => q.place != 3 || q.cls != c) then some 3
  else none

/-- The place at bank *k*'s arbiter that a request can take, with those in `held` there and those in `ahead` sent before it: a direct
port holds one request (R199), and a request does not pass an earlier one of its requester (R17). -/
def placeFor (k : Nat) (held ahead : List Req) (q : Req) : Option Nat :=
  if q.place ≠ 0 then none
  else if !q.viaFabric k then (if held.any fun p => p.place == 1 && p.rq == q.rq then none else some 1)
  else if ahead.any fun p => p.rq == q.rq && p.place == 0 && p.viaFabric k then none
  else fabricEntry held q.cls

/-- The requests of class `c` given the places that are free, oldest first; `ahead` are the earlier ones, in reverse. -/
def seatClass (k c : Nat) : List Req → List Req → List Req
  | ahead, [] => ahead.reverse
  | ahead, q :: qs =>
    if q.cls = c then
      let now := ahead.reverse ++ (q :: qs)
      match placeFor k now ahead q with
      | some p => seatClass k c ({ q with place := p } :: ahead) qs
      | none => seatClass k c (q :: ahead) qs
    else seatClass k c (q :: ahead) qs

/-- Free places at bank *k*'s arbiter taken: the lower class first, then the oldest (R199, R283). -/
def seat (k : Nat) (l : List Req) : List Req := (List.range 6).foldl (fun l c => seatClass k c [] l) l

/-- A request put in line at its Carafe bank or at the DRAM Port (R199, R520). -/
def Block.post (b : Block) (q : Req) : Block :=
  match b.target q.addr with
  | .carafe k =>
    let c := b.bankAt k
    b.setBank k { c with waiting := seat k (c.waiting ++ [q]) }
  | .dram _ => { b with dram := { b.dram with waiting := b.dram.waiting ++ [q] } }
  | _ => b

/-- An outcome of R213 at bank *k*'s line: counted, ERRADDR names the line, and UNREP or DROPST is set, unless `quiet` (R209). -/
def Block.unrepairable (b : Block) (k line : Nat) (store quiet : Bool) : Block :=
  let b := b.incSat (R.CB_ECCCNT_UECNT k) 1
  let b := if quiet then b else b.raise (if store then R.CB_EVT_DROPST k else R.CB_EVT_UNREP k)
  ((((b.put (R.CB_ERRADDR_DROPST k) (bit store)).clear (R.CB_ERRADDR_REFETCHED k)).put (R.CB_ERRADDR_REMAPPED k)
    (bit ((b.bankAt k).spare.look line).isSome)).raise (R.CB_ERRADDR_UE k)).put (R.CB_ERRADDR_LINE k) line

end Sys2Proof.Machine
end

