-- ==== Sys2Proof/Machine/Dist.lean ====
section
/-! DEFINITION. The Interrupt Distributor: sources, routes, lines, claims, completions and doorbells (13, R347 to
R361). -/
namespace Sys2Proof.Machine

/-! ## Sources (R347, R348) -/

/-- A level source (R347: 320 to 447); every other source is an edge source. -/
def isLevel (x : Nat) : Bool := decide (320 ≤ x) && decide (x < 448)

/-- A doorbell source (R347: 72 to 215, of target source − 72). -/
def isDoorbell (x : Nat) : Bool := decide (72 ≤ x) && decide (x < 216)

/-- Channel `k`'s level source is high (R479). -/
def Block.vtHigh (b : Block) (k : Nat) : Bool :=
  let t := b.vt.get k ⟨[], []⟩
  !b.isSealed && b.pd1 &&
    ((b.flag (R.VT_CTL_RXIE k) && !t.drx.isEmpty) || (b.flag (R.VT_CTL_TXIE k) && decide (t.dtx.length < 16)))

/-- A bit of an event register, as its unit's interrupt line sees it: low while the unit's domain is not ON (R357). -/
def Block.evtLine (b : Block) (off i : Nat) : Bool := !b.winOff off && b.flag ⟨off, i, 1, .w1c, 0⟩

/-- The input of a level source (R215, R245, R294, R321, R357, R387, R442, R458, R479). -/
def Block.level (b : Block) (x : Nat) : Bool :=
  if x < 384 then (List.range 4).any fun i => b.evtLine (0x20010 + (x - 320) * 0x20) i
  else if x < 391 then b.evtLine 0x3008 (x - 384)
  else if x < 392 then false
  else if x < 400 then b.evtLine 0x4008 (x - 392)
  else if x < 408 then b.evtLine 0x2008 (x - 400)
  else if x < 415 then b.flag ⟨0x5008, x - 408, 1, .w1c, 0⟩
  else if x < 416 then false
  else if x < 424 then b.evtLine 0x600c (x - 416)
  else if x < 432 then b.vtHigh (x - 424)
  else if x < 437 then b.flag ⟨0x1008, x - 432, 1, .w1c, 0⟩
  else false

/-- The bit of source `x` in the six per-source arrays (R360). -/
def Block.srcBit (b : Block) (f : Nat → Fld) (x : Nat) : Bool := (b.get (f (x / 32))).testBit (x % 32)

/-- The bit of source `x` in a per-source array written. -/
def Block.putSrcBit (b : Block) (f : Nat → Fld) (x : Nat) (v : Bool) : Block :=
  b.put (f (x / 32)) (putBit (b.get (f (x / 32))) (x % 32) v)

/-- ENABLE of a source. -/
def Block.enabled (b : Block) (x : Nat) : Bool := b.srcBit R.DIST_ENSET_EN x

/-- ACTIVE of a source. -/
def Block.active (b : Block) (x : Nat) : Bool := b.srcBit R.DIST_ACTIVE_ACT x

/-- PENDING of a source (R348): an edge source's is latched; a level source's follows its input in every cycle in which it is not
active, but for the cycle in which a PENDCLR masks it (R353), and a PENDSET holds for its own cycle. -/
def Block.pend (b : Block) (x : Nat) : Bool :=
  b.srcBit R.DIST_PENDSET_PEND x || (isLevel x && !b.active x && !b.dcycle.cut.contains x && b.level x)

/-- A new cycle of the Distributor: a level source that a PENDSET forced is sampled again (R348). -/
def Block.distCycle (b : Block) : Block :=
  { (b.dcycle.forced.filter isLevel).foldl (fun b x => b.putSrcBit R.DIST_PENDSET_PEND x false) b with
    dcycle := DistCycle.idle }

/-- A change that R353 applies in step `k` reaches the Distributor: in the present cycle where no later step has been applied in it,
else in the next one. -/
def Block.distAt (b : Block) (k : Nat) : Block :=
  let b := if k < b.dcycle.step then b.distCycle else b
  { b with dcycle := { b.dcycle with step := k } }

/-- The target of a source: a doorbell's own, or the one its group's route byte names (R349). -/
def Block.routeOf (b : Block) (x : Nat) : Option Nat :=
  if isDoorbell x then some (x - 72)
  else if b.get (R.routeByte (x / 8)) < 144 then some (b.get (R.routeByte (x / 8))) else none

/-- A source is claimable for a target (R351). -/
def Block.claimable (b : Block) (t x : Nat) : Bool :=
  !isDoorbell x && b.enabled x && b.pend x && !b.active x && b.routeOf x == some t &&
    decide (b.get (R.DIST_THRESH_THR t) < b.get (R.prioByte x))

/-- The source a claim for a target would return: highest PRIO, then lowest number (R352). -/
def Block.best (b : Block) (t : Nat) : Option Nat :=
  (List.range 1024).foldl (fun w x =>
    if b.claimable t x then
      match w with
      | some y => if b.get (R.prioByte y) < b.get (R.prioByte x) then some x else w
      | none => some x
    else w) none

/-- The interrupt line of a target (R351). -/
def Block.irqLine (b : Block) (t : Nat) : Bool := (b.best t).isSome

/-- The doorbell line of a target (R356). -/
def Block.dbLine (b : Block) (t : Nat) : Bool :=
  b.enabled (72 + t) && b.pend (72 + t) && decide (b.get (R.DIST_THRESH_THR t) < b.get (R.prioByte (72 + t)))

/-- The number of sources active for a target (R360). -/
def Block.nact (b : Block) (t : Nat) : Nat := (b.claimer.filter (·.2 == t)).length

/-- An engine in CS-RETAIN with AUTOWAKE set is asked to power ON when a line of one of its targets is high (R446). -/
def Block.autowake (b : Block) (n : Nat) : Block :=
  if b.get (R.PWR_ENG_STATE n) = 1 && b.flag (R.PWR_ENG_AUTOWAKE n) &&
      !b.domQ.any (fun d => match d with | .engine m _ _ => m == n | _ => false) &&
      (b.irqLine (2 * n) || b.irqLine (2 * n + 1) || b.dbLine (2 * n) || b.dbLine (2 * n + 1)) then
    { b.raise (R.PWR_ENG_BUSY n) with domQ := b.domQ ++ [.engine n 2 true] }
  else b

/-- The engine of a source's target asked to power ON where R446 says so. -/
def Block.autowakeSrc (b : Block) (x : Nat) : Block :=
  match b.routeOf x with
  | some t => b.autowake (t / 2)
  | none => b

/-- PENDING of a source set: it merges with one already held (R348). -/
def Block.setPend (b : Block) (x : Nat) : Block := (b.putSrcBit R.DIST_PENDSET_PEND x true).autowakeSrc x

/-- An edge event of a source: step 1 of its cycle (R348, R353). -/
def Block.event (b : Block) (x : Nat) : Block := (b.distAt 1).setPend x

/-- A level source sampled: a PENDSET no longer holds it (R348). -/
def Block.sample (b : Block) (x : Nat) : Block :=
  if b.active x then b else (b.putSrcBit R.DIST_PENDSET_PEND x false).autowakeSrc x

/-! ## Claim and complete (R352 to R356) -/

/-- The claim word of a winner (R352). -/
def claimWord : Option Nat → Nat
  | some x => 2 ^ 31 + x
  | none => 0

/-- The cycle of a claim for a target (R353): claims are a cycle's last step, and a second claim for one target waits for the next. -/
def Block.claimCycle (b : Block) (t : Nat) : Block :=
  let b := b.distAt 4
  if b.dcycle.served.contains t then b.distCycle.distAt 4 else b

/-- A claim for a target: the winner's PENDING clears, its ACTIVE sets and records the target (R352). -/
def Block.claim (b : Block) (t : Nat) : Block × Nat :=
  let b := b.claimCycle t
  let b := { b with dcycle := { b.dcycle with served := t :: b.dcycle.served } }
  match b.best t with
  | some x =>
    let b := (b.putSrcBit R.DIST_PENDSET_PEND x false).putSrcBit R.DIST_ACTIVE_ACT x true
    (({ b with claimer := b.claimer.put x t }).countGlob 0x11 1, claimWord (some x))
  | none => (b, 0)

/-- A COMPLETE for a target naming a source (R354, R356): the block after it, and whether it changed nothing; step 3 of its cycle, and
ahead of step 1 where it names the target's own doorbell (R353). -/
def Block.complete (b : Block) (t x : Nat) : Block × Bool :=
  if x = 72 + t then ((b.distAt 0).putSrcBit R.DIST_PENDSET_PEND x false, false)
  else
  let b := b.distAt 3
  if b.active x && b.claimer.look x == some t then
    let b := { b.putSrcBit R.DIST_ACTIVE_ACT x false with claimer := b.claimer.del x }
    (if isLevel x then b.sample x else b.autowakeSrc x, false)
  else (b.raise (R.DIST_STAT_BADCPL t), true)

/-- Every source of a set bit of a 32-bit word written to a per-source register, in ascending order. -/
def forBits (r w : Nat) (f : Nat → Block → Block) (b : Block) : Block :=
  forEach 32 (fun i b => if w.testBit i then f (32 * r + i) b else b) b

/-- A PENDSET bit (R348): a level source's holds for this cycle only. -/
def Block.force (b : Block) (x : Nat) : Block :=
  let b := b.setPend x
  if isLevel x then { b with dcycle := { b.dcycle with forced := x :: b.dcycle.forced } } else b

/-- A write of DIST_PENDSET (R348, R356, R360): step 2 of its cycle. -/
def Block.pendSet (b : Block) (r w : Nat) : Block := forBits r w (fun x b => b.force x) (b.distAt 2)

/-- A PENDCLR bit (R348, R353): a level source is masked for the rest of this cycle. -/
def Block.unpend (b : Block) (x : Nat) : Block :=
  let b := b.putSrcBit R.DIST_PENDSET_PEND x false
  if isLevel x then { b with dcycle := { b.dcycle with cut := x :: b.dcycle.cut } } else b

/-- A write of DIST_PENDCLR (R353, R360). -/
def Block.pendClr (b : Block) (r w : Nat) : Block := forBits r w (fun x b => b.unpend x) (b.distAt 2)

/-- A write of a route byte's value: 0x90 to 0xFE is taken as 0xFF; the doorbell groups ignore it (R349). -/
def Block.writeRoute (b : Block) (g v : Nat) : Block :=
  if 9 ≤ g ∧ g ≤ 26 then b else b.put (R.routeByte g) (if v < 144 then v else 0xFF)

/-! ## What an engine sees (R334, R351, R358) -/

/-- The target of physical engine `n` in the world that ST names (R324). -/
def Block.targetOf (b : Block) (n : Nat) : Nat := 2 * n + (b.engine n).st.world

/-- A line of a target that ST admits (R334): the Vendor target's in the Tenant world always and in the Vendor world
with IE = 1; the Tenant target's only in the Tenant world with IE = 1. -/
def Block.admits (b : Block) (n : Nat) (tenantTarget : Bool) : Bool :=
  let s := (b.engine n).st
  if tenantTarget then s.tw && s.ie else s.tw || s.ie

/-- Condition IRQ (R40, R334). -/
def Block.irqDue (b : Block) (n : Nat) : Bool :=
  (b.admits n false && b.irqLine (2 * n)) || (b.admits n true && b.irqLine (2 * n + 1))

/-- Condition DOORB (R40, R334). -/
def Block.dbDue (b : Block) (n : Nat) : Bool :=
  (b.admits n false && b.dbLine (2 * n)) || (b.admits n true && b.dbLine (2 * n + 1))

/-! ## Micro-traps that are due (R37, R38, R61, R62, R64) -/

/-- The micro-trap points at which engine `n` stands (R37, R38, R61, R62): true at an instruction boundary, false inside an
instruction. -/
def Engine.point (e : Engine) : Option Bool :=
  if e.hold = .fetch then some true
  else if e.hold = .wfi ∨ e.long.isSome then some false
  else e.trapPt

/-- The microaddress at which an interrupted flow goes on, given UTPC (R33, R62, R301); inside an instruction's wait, where UTPC is
not stated, the dispatch word stands for it (log entry 54). -/
def Engine.resumeAt (e : Engine) (utpc : BitVec 13) : BitVec 13 :=
  if e.hold == .none && e.long.isNone then utpc else BitVec.ofNat 13 (0x1000 + 4 * (e.ir.extractLsb' 24 8).toNat)

/-- The micro-traps, in the order of R61. -/
inductive MicroTrap where
  | clockStop
  | freeze
  | monitor
  | watchdog
  | event
deriving DecidableEq, Repr

/-- The entry point of a micro-trap's routine (R34); a clock-stop halt runs none. -/
def MicroTrap.entry : MicroTrap → BitVec 13
  | .clockStop => 0
  | .freeze => 0x08
  | .monitor => 0x10
  | .watchdog => 0x18
  | .event => 0x20

/-- A clock-stop request may be taken at the point where the engine stands (R64, R468): a step waits for an ENDI, or with
STEPU for any TRAPOK point, after its release. -/
def Block.stopDue (b : Block) (n : Nat) : Bool :=
  let e := b.engine n
  e.halt == some .clockStop && !b.flag (R.ENG_LKSTAT_LKACT n) &&
    (!b.flag (R.ENG_DBGSTAT_STEPPING n) || e.trapPt == some true ||
      (b.flag (R.ENG_DBGCTL_STEPU n) && (e.trapPt.isSome || e.long.isSome || e.hold == .wfi)))

/-- The first due micro-trap of engine `n` (R61, R64); in monitor mode the watchdog waits for the monitor's RTE (R346). -/
def Block.trapDue (b : Block) (n : Nat) : Option MicroTrap :=
  let e := b.engine n
  if b.stopDue n then some .clockStop
  else if e.freezeReq then some .freeze
  else if e.halt == some .monitor && !b.flag (R.ENG_LKSTAT_LKACT n) then some .monitor
  else if e.wdgDue && b.flag (R.ENG_WDG_CTRL_EXP1 n) && !b.flag (R.ENG_DBGSTAT_MONITOR n) then some .watchdog
  else if b.irqDue n || b.dbDue n then some .event
  else none

/-- Engine `n` stands at a TRAPOK point at which a micro-trap is due: it takes that before it goes on (R61, R72, R93; log entry
52). -/
def Block.trapFirst (b : Block) (n : Nat) : Bool := (b.engine n).point.isSome && (b.trapDue n).isSome

end Sys2Proof.Machine
end

