-- ==== Sys2Proof/Machine/Trace.lean ====
section
/-! DEFINITION. Trace records and comparators of an engine (19, R471 to R476). -/
namespace Sys2Proof.Machine

/-! ## Trace (R475, R476) -/

/-- A 16-byte trace record (R475). -/
def Block.traceRecord (b : Block) (n kind info vec payload : Nat) : List Byte :=
  let s := (b.engine n).st
  leBytes (kind + 16 * info) 1 ++ leBytes (n + 128 * bit s.tw) 1 ++
    leBytes ((b.leOf n).getD 0 + 64 * bit s.sup) 1 ++ leBytes vec 1 ++
    leBytes (b.get R.TIME_TICKS_LO_TICKS) 4 ++ leBytes payload 8

/-- A record reaches the sink (R476): the buffer of 256 records, or the ring in memory that the debug bus master
(requester 75) writes. -/
def Block.sinkRecord (b : Block) (r : List Byte) : Block :=
  if b.flag R.TRC_CTRL_SINK then
    let w := b.get R.TRC_WPTR_OFFSET
    let b := b.store 75 (b.getAddr R.TRC_BUF_LO_ADDR R.TRC_BUF_HI_ADDR + w) r none
    b.put R.TRC_WPTR_OFFSET ((w + 16) % (2 ^ 16 * 2 ^ b.get R.TRC_SIZE_SIZE))
  else if b.trcBuf.length < 256 then { b with trcBuf := b.trcBuf ++ [r] }
  else if b.flag R.TRC_CTRL_STOPFULL then b.inc R.TRC_LOST_COUNT 1
  else { b.inc R.TRC_LOST_COUNT 1 with trcBuf := b.trcBuf.drop 1 ++ [r] }

/-- The queue of engine `n` empties into the sink while PD1 is ON (R475, R476; log entry 20). -/
def Block.drainTrace (b : Block) (n : Nat) : Block :=
  if b.pd1 then
    (b.engine n).trq.foldl Block.sinkRecord (b.modEngine n fun e => { e with trq := [] })
  else b

/-- A record put in the engine's queue of four, or dropped and counted (R475). -/
def Block.queueRecord (b : Block) (n kind info vec payload : Nat) : Block :=
  let e := b.engine n
  if e.trq.length < 4 then
    b.setEngine n { e with trq := e.trq ++ [b.traceRecord n kind info vec payload], trCount := e.trCount + 1 }
  else b.setEngine n { e with trDrop := e.trDrop + 1 }

/-- PC with ICNT above it, the payload of SYNC, FLOW and EXC (R475). -/
def Engine.flowPayload (e : Engine) (pc : Nat) : Nat := pc + 2 ^ 48 * (e.icnt % 2 ^ 16)

/-- Trace is on for engine `n` (R475). -/
def Block.tracing (b : Block) (n : Nat) : Bool := b.flag (R.ENG_DBGCTL_TREN n) && b.flag R.TRC_CTRL_EN

/-- A SYNC record (R475); ICNT restarts. -/
def Block.traceSync (b : Block) (n : Nat) : Block :=
  let e := b.engine n
  ((b.queueRecord n 1 0 0 (e.flowPayload e.pc.toNat)).modEngine n fun e => { e with icnt := 0 }).drainTrace n

/-- A record of engine `n` (R475): a LOST and a SYNC first where records were dropped and room has returned, and a SYNC
as every 256th record. -/
def Block.emit (b : Block) (n kind info vec payload : Nat) : Block :=
  if b.tracing n then
    let e := b.engine n
    let b := if e.trDrop ≠ 0 ∧ e.trq.length < 4 then
        ((b.setEngine n { e with trDrop := 0 }).queueRecord n 8 0 0 e.trDrop).traceSync n
      else b
    let b := (b.queueRecord n kind info vec payload).drainTrace n
    if (b.engine n).trCount % 256 = 255 then b.traceSync n else b
  else b

/-- A FLOW or EXC record, which carries ICNT and restarts it (R475). -/
def Block.emitFlow (b : Block) (n kind info vec pc : Nat) : Block :=
  let p := (b.engine n).flowPayload pc
  if b.tracing n then (b.emit n kind info vec p).modEngine n fun e => { e with icnt := 0 } else b

/-- An instruction completed: ICNT counts it, and a SYNC goes out when it reaches 0xFFFF (R475). -/
def Block.traceCount (b : Block) (n : Nat) : Block :=
  if b.tracing n then
    let b := b.modEngine n fun e => { e with icnt := e.icnt + 1 }
    if (b.engine n).icnt = 0xFFFF then b.traceSync n else b
  else b

/-- The records of a release: RESUME and a SYNC (R475). -/
def Block.traceResume (b : Block) (n : Nat) : Block :=
  if b.tracing n then (b.emit n 6 0 0 (b.engine n).pc.toNat).traceSync n else b

/-! ## Halt requests and comparators (R465, R471 to R474) -/

/-- A halt request raised and not yet taken (R465). -/
def Block.requestHalt (b : Block) (n : Nat) (k : HaltKind) : Block :=
  (b.modEngine n fun e => { e with halt := some k }).raise (R.ENG_DBGSTAT_PENDING n)

/-- What comparator `i` does when it acts (R474); `addr` is the access's first address for a data match. -/
def Block.cmpAct (b : Block) (n i : Nat) (addr : Option Nat) (pc : Nat) : Block :=
  let c := (b.engine n).cmp.get i Cmp.off
  let b := ((b.raise (R.ENG_DBGSTAT_HIT n)).put (R.ENG_DBGSTAT_HITCMP n) i).countEng n 0x14
  let b := match addr with
    | some a => (b.raise (R.ENG_DBGSTAT_HITDATA n)).put64 (R.ENG_DBGHIT_LO_ADDR n) (R.ENG_DBGHIT_HI_ADDR n) a
    | none => b.clear (R.ENG_DBGSTAT_HITDATA n)
  match c.action with
  | 1 => b.requestHalt n .clockStop
  | 2 => b.requestHalt n .monitor
  | 3 => b.emit n 4 i 0 (addr.getD pc)
  | _ => b

/-- Comparator `i` of engine `n` is in use, its level and context fit (R472), and a test of its own holds. -/
def Block.cmpMatch (b : Block) (n i : Nat) (test : Cmp → Bool) : Bool :=
  let e := b.engine n
  let c := e.cmp.get i Cmp.off
  !b.isSealed && c.en && c.lvl.getLsbD e.st.level && (!c.ctxen || c.ctx == (e.ctxid.get e.st.world 0).toNat) && test c

/-- The pair (2*k*, 2*k* + 1) sees an access (R473). -/
def Block.cmpPair (n : Nat) (test : Cmp → Bool) (addr : Option Nat) (pc k : Nat) (b : Block) : Block :=
  let m0 := b.cmpMatch n (2 * k) test
  let m1 := b.cmpMatch n (2 * k + 1) test
  let e := b.engine n
  let c0 := e.cmp.get (2 * k) Cmp.off
  match (e.cmp.get (2 * k + 1) Cmp.off).link with
  | 1 =>
    let acts := m1 && c0.armed
    let b := if acts then b.cmpAct n (2 * k + 1) addr pc else b
    if acts || m0 then
      b.modEngine n fun e => { e with cmp := e.cmp.put (2 * k) { c0 with armed := m0 } }
    else b
  | 2 => if m0 && m1 then b.cmpAct n (2 * k + 1) addr pc else b
  | _ =>
    let b := if m0 then b.cmpAct n (2 * k) addr pc else b
    if m1 then b.cmpAct n (2 * k + 1) addr pc else b

/-- Every comparator of engine `n` sees an access. -/
def Block.cmpAll (b : Block) (n : Nat) (test : Cmp → Bool) (addr : Option Nat) (pc : Nat) : Block :=
  if (b.engine n).cmp.isEmpty then b else forEach 4 (fun k b => Block.cmpPair n test addr pc k b) b

/-- Dispatch of the instruction at `pc` (R472 TYPE 0x0). -/
def Block.cmpFetch (b : Block) (n pc : Nat) : Block :=
  b.cmpAll n (fun c => c.type == 0 && decide (c.a ≤ pc) && decide (pc ≤ c.b)) none pc

/-- A data access of `len` bytes at `a` whose value is `v` (R472 TYPE 0x1 to 0x4). -/
def Block.cmpData (b : Block) (n : Nat) (rd wr : Bool) (a len v : Nat) : Block :=
  let spans := fun (c : Cmp) => decide (a ≤ c.b) && decide (c.a < a + len)
  b.cmpAll n (fun c => match c.type with
    | 1 => rd && spans c
    | 2 => wr && spans c
    | 3 => spans c
    | 4 => (v ^^^ c.a) &&& c.b == 0
    | _ => false) (some a) 0

end Sys2Proof.Machine
end

