-- ==== Sys2Proof/Machine/Frame.lean ====
section
/-! DEFINITION. The Micro-State Frame: what it holds, its 2,048 bytes, what an engine puts into it and takes from it (11, R299 to R302,
R306); the break of a line lock (R91); CRC-32C (R100, R163). -/
namespace Sys2Proof.Machine

/-! ## CRC-32C (R100, R163): polynomial 0x1EDC_6F41, reflected -/

/-- One bit of the reflected CRC-32C register. -/
def crcBit (c : BitVec 32) : BitVec 32 := if c.getLsbD 0 then (c >>> 1) ^^^ 0x82F63B78 else c >>> 1

/-- One byte. -/
def crcByte (c : BitVec 32) (x : Byte) : BitVec 32 :=
  crcBit (crcBit (crcBit (crcBit (crcBit (crcBit (crcBit (crcBit (c ^^^ x.setWidth 32))))))))

/-- CRC-32C over bytes, with no initial or final inversion. -/
def crc32c (c : BitVec 32) (d : List Byte) : BitVec 32 := d.foldl crcByte c

/-- CRC-32C in standard form (R263, R299). -/
def crcStandard (d : List Byte) : Nat := (~~~(crc32c 0xFFFFFFFF d)).toNat

/-! ## Breaks of a locked sequence (R90, R91) -/

/-- The causes of a break (R94). -/
inductive BreakCause where
  | limit
  | exception
  | remote
deriving DecidableEq, Repr

/-- BRKCAUSE (R94). -/
def BreakCause.code : BreakCause → Nat
  | .limit => 1
  | .exception => 2
  | .remote => 3

/-- A break of the active locked sequence (R91, R204): LKACT falls, LOCKBREAK and the cause are recorded, and the engine
sends the release of the line lock (which finds nothing where the target has already emptied the slot). -/
def Block.lockBreak (b : Block) (n : Nat) (c : BreakCause) : Block :=
  if b.flag (R.ENG_LKSTAT_LKACT n) then
    let e := b.engine n
    let b := b.setEngine n { e with lkLine := none }
    let b := match e.lkLine with
      | some a => b.post (b.engReq n .lockRelease a 0 [] 0 .none e.lkSeq false)
      | none => b
    ((((b.clear (R.ENG_LKSTAT_LKACT n)).clear (R.ENG_LKSTAT_LKCNT n)).raise (R.ENG_LKSTAT_LOCKBREAK n)).put
      (R.ENG_LKSTAT_BRKCAUSE n) c.code).countEng n 0x0C
  else b

/-! ## The frame (R299) -/

/-- What the U section says of the sequencer: the resume microaddress, UTPC, UTIN and the micro-stack, and the place of a base flow
that the resume microaddress and u0 to u15 stand for (log entry 79). -/
structure MsfSeq where
  upc : BitVec 13
  utpc : Nat
  utin : Bool
  stack : List (BitVec 13)
  hold : Hold
  long : Option LongOp
deriving DecidableEq, Repr

/-- A Micro-State Frame by its fields (R299). A MACRO frame holds 0 in every U field; `res` lists the residue codes that are not
those of their values, by element (R300). -/
structure Msf where
  msfv : Nat
  kind : MoveKind
  le : Nat
  srcPe : Nat
  cycle : W64
  st : St
  pc : Addr
  ir : W64
  gV : Tab W64
  gT : Tab W64
  sp : Tab W64
  vr : Tab W128
  ctxid : Tab W32
  fcause : Tab Byte
  vbase : Tab Addr
  ftpc : Tab Addr
  faddr : Tab Addr
  fpt : Option FpTrap
  u : Tab W64
  mdr : W64
  mlo : W64
  mhi : W64
  fpr : W64
  seq : MsfSeq
  l : Tab (BitVec 16)
  lat : Latches
  extErr : Bool
  scnt : W32
  streamPos : Nat
  streamIn : List (List Byte)
  streamOut : List Byte
  /-- The channels whose slots hold a response, and its size (R52). -/
  held : List (Nat × Nat)
  replay : Option Replay
  res : Tab Nat
deriving DecidableEq, Repr

/-- KIND (R299). -/
def MoveKind.code : MoveKind → Nat
  | .trapok => 1
  | .atMacro => 2
  | .fault => 3

/-- The first `n` entries of a table of 64-bit registers. -/
def wordBytes (t : Tab W64) (n : Nat) : List Byte := (List.range n).flatMap fun i => leBytes (t.get i 0).toNat 8

/-- Bytes cut or filled with zeros to a length. -/
def fitTo (n : Nat) (d : List Byte) : List Byte := d.take n ++ List.replicate (n - d.length) 0

/-- The special registers of a world (R299). -/
def Msf.srBytes (f : Msf) (w : Nat) : List Byte :=
  leBytes (f.ctxid.get w 0).toNat 4 ++ leBytes (f.fcause.get w 0).toNat 1 ++ [0, 0, 0] ++ leBytes (f.vbase.get w 0).toNat 8 ++
    leBytes (f.ftpc.get w 0).toNat 8 ++ leBytes (f.faddr.get w 0).toNat 8

/-- FPT (R299). -/
def Msf.fptWord (f : Msf) : Nat :=
  match f.fpt with
  | some t => 1 + 2 * bit t.tenant + 4 * (t.count % 16)
  | none => 0

/-- LAT (R299); after the drain no EXT answer is outstanding, so EXTACK is 1. -/
def Msf.latWord (f : Msf) : Nat :=
  let l := f.lat
  bit l.z + 2 * bit l.n + 4 * bit l.c + 8 * bit l.v + 16 * bit l.z32 + 32 * bit l.n32 + 64 * bit l.c32 + 2 ^ 7 * l.uf.toNat +
    2 ^ 11 * bit l.flt + 2 ^ 12 * bit l.feq + 2 ^ 13 * bit l.fun' + 2 ^ 14 * bit l.lz + 2 ^ 15 * bit l.lmatch + 2 ^ 16 * bit l.lnc +
    2 ^ 17 + 2 ^ 18 * bit f.extErr

/-- SEQ (R299). -/
def Msf.seqWord (f : Msf) : Nat :=
  f.seq.upc.toNat + 2 ^ 16 * (f.seq.utpc % 2 ^ 13) + 2 ^ 29 * bit f.seq.utin + 2 ^ 30 * f.seq.stack.length

/-- STRM (R299); the entries are numbered from the head, as the model keeps no other number of theirs. -/
def Msf.strmWord (f : Msf) : Nat :=
  f.scnt.toNat + 2 ^ 34 * (f.streamPos / 16) + 2 ^ 40 * f.streamIn.length + 2 ^ 45 * (f.streamOut.length / 64) +
    2 ^ 48 * (f.streamOut.length % 64 / 16)

/-- The MSZ code of a response's size. -/
def mszCode (n : Nat) : Nat := if n ≤ 1 then 0 else if n = 2 then 1 else if n = 4 then 2 else if n = 8 then 3 else if n = 16 then 4 else 5

/-- RSLOT (R299). -/
def Msf.slotBytes (f : Msf) : List Byte :=
  (List.range 32).map fun c =>
    match f.held.find? (·.1 == c) with
    | some p => BitVec.ofNat 8 (1 + 2 * mszCode p.2)
    | none => 0

/-- The replay record (R306). -/
def replayBytes : Option Replay → List Byte
  | none => List.replicate 80 0
  | some r =>
    leBytes (1 + 2 * r.kind + 16 * bit (r.kind != 0)) 8 ++ leBytes (r.ext.getD 0).toNat 8 ++ fitTo 64 r.data

/-- A value of the frame by its residue-carrying element. -/
def Msf.elem (f : Msf) (x : Nat) : Nat :=
  if x < 31 then (f.gV.get x 0).toNat
  else if x < 62 then (f.gT.get (x - 31) 0).toNat
  else if x < 66 then (f.sp.get (x - 62) 0).toNat
  else if x < 98 then (f.vr.get ((x - 66) / 4) 0).toNat / 2 ^ (32 * ((x - 66) % 4)) % 2 ^ 32
  else if x < 114 then (f.u.get (x - 98) 0).toNat
  else match x with
    | 114 => f.mdr.toNat
    | 115 => f.mlo.toNat
    | 116 => f.mhi.toNat
    | _ => f.fpr.toNat

/-- The residue code of an element of the frame. -/
def Msf.code (f : Msf) (x : Nat) : Nat := f.res.get x (residue (f.elem x)) % 16

/-- RES (R299). -/
def Msf.resBytes (f : Msf) : List Byte :=
  fitTo 64 ((List.range 59).map fun i => BitVec.ofNat 8 (f.code (2 * i) + 16 * f.code (2 * i + 1)))

/-- Bytes 0x000 to 0x7FB (R299). -/
def Msf.body (f : Msf) : List Byte :=
  leBytes 0x46534D31 4 ++ leBytes (f.msfv % 16) 1 ++ leBytes f.kind.code 1 ++ leBytes (f.le % 64) 1 ++ leBytes (f.srcPe % 128) 1 ++
    leBytes f.cycle.toNat 8 ++ leBytes f.st.word.toNat 8 ++ leBytes f.pc.toNat 8 ++ leBytes f.ir.toNat 8 ++
    wordBytes f.gV 31 ++ wordBytes f.gT 31 ++ wordBytes f.sp 4 ++
    ((List.range 8).flatMap fun i => leBytes (f.vr.get i 0).toNat 16) ++ f.srBytes 0 ++ f.srBytes 1 ++ leBytes f.fptWord 8 ++
    wordBytes f.u 16 ++ leBytes f.mdr.toNat 8 ++ leBytes f.mlo.toNat 8 ++ leBytes f.mhi.toNat 8 ++ leBytes f.fpr.toNat 8 ++
    leBytes f.seqWord 8 ++ ((List.range 4).flatMap fun i => leBytes (f.l.get i 0).toNat 2) ++
    ((List.range 16).flatMap fun i => leBytes (f.seq.stack.getD i 0).toNat 2) ++ leBytes f.latWord 8 ++ leBytes f.strmWord 8 ++
    f.slotBytes ++ ((List.range 4).flatMap fun i => fitTo 64 (f.streamIn.getD i [])) ++ fitTo 256 f.streamOut ++
    replayBytes f.replay ++ f.resBytes ++ List.replicate 364 0

/-- The frame's 2,048 bytes (R299). -/
def Msf.bytes (f : Msf) : List Byte := f.body ++ leBytes (crcStandard f.body) 4

/-- What an engine holds at its start (R69, R325): every register of R28 and its region table as at reset; its control
store, its remap table and its trace and counters stay. -/
def Engine.started (e : Engine) : Engine :=
  { Engine.reset with
    cs := e.cs, csErr := e.csErr, csMap := e.csMap, csDigest := e.csDigest, csScrub := e.csScrub, lkSeq := e.lkSeq,
    notices := e.notices, cmp := e.cmp, cmpA := e.cmpA, cmpB := e.cmpB, cmpCtx := e.cmpCtx, halt := e.halt,
    dbgLo := e.dbgLo, trq := e.trq, trDrop := e.trDrop, icnt := e.icnt, trCount := e.trCount }

/-! ## From an engine and onto one (R299 to R302, R306) -/

/-- Results on their way land before a frame is taken: a fused FP result (R48), an EXT answer's data (R54). -/
def Engine.landed (e : Engine) : Engine :=
  let e := match e.fprLate with
    | some l => Engine.recode { e with fpr := l.1, fprLate := none } [117]
    | none => e
  match e.extData with
  | some d => Engine.recode { e with mdr := d, extData := none } [114]
  | none => e

/-- The M section of the frame of engine `src` (R299); the U fields are 0. -/
def Engine.frameM (e : Engine) (kind : MoveKind) (msfv le src : Nat) : Msf where
  msfv := msfv
  kind := kind
  le := le
  srcPe := src
  cycle := e.cycle
  st := e.st
  pc := e.pc
  ir := 0
  gV := e.gV
  gT := e.gT
  sp := e.sp
  vr := e.vr
  ctxid := e.ctxid
  fcause := e.fcause
  vbase := e.vbase
  ftpc := e.ftpc
  faddr := e.faddr
  fpt := e.fpt.map fun t => { t with raised := false }
  u := []
  mdr := 0
  mlo := 0
  mhi := 0
  fpr := 0
  seq := ⟨0, 0, false, [], .none, none⟩
  l := []
  lat := Latches.zero
  extErr := false
  scnt := 0
  streamPos := 0
  streamIn := []
  streamOut := []
  held := []
  replay := none
  res := e.codes.filter (·.1 < 98)

/-- The frame of engine `src` at its freeze point (R299, R301): the resume microaddress is UTPC, or at a fault the faulted word's
own. -/
def Engine.frame (e0 : Engine) (kind : MoveKind) (msfv le src utpc : Nat) (utin : Bool) : Msf :=
  let e := e0.landed
  let f := e.frameM kind msfv le src
  if kind = .atMacro then f
  else { f with
    ir := e.ir, u := e.u, mdr := e.mdr, mlo := e.mlo, mhi := e.mhi, fpr := e.fpr
    seq := ⟨if kind = .fault then e.upc else e.resumeAt (BitVec.ofNat 13 utpc), utpc, utin, e.ustack, e.hold, e.long⟩
    l := e.l, lat := e.lat, extErr := e.extErr, scnt := e.scnt, streamPos := e.streamPos
    streamIn := e.streamIn.filterMap fun x => match x with
      | .data d => some d
      | _ => none
    streamOut := e.streamOut
    held := e.slots.filterMap fun p => match p.2 with
      | .held d _ => some (p.1, d.length)
      | _ => none
    replay := if kind = .fault then e.replay else none
    res := e.codes.filter (·.1 < 118) }

/-- Where a logical engine goes on from its macro state (R34, R301): the routine at 0x0030 (log entry 79). -/
def Engine.atMacro (e : Engine) : Engine :=
  Engine.recode { e with upc := 0x30, hold := .fetch, long := none, ibuf := [], trapPt := none } [138]

/-- Engine `e` with a frame, the configuration block of `src` and its held responses on it, frozen until its start (R299 to R302):
nothing else moves. KCALLs in progress, which the frame has no field for, go with the registers (log entry 16). -/
def Engine.receive (e src : Engine) (f : Msf) : Engine :=
  let m := { e.started with
    cycle := f.cycle, st := f.st, pc := f.pc, gV := f.gV, gT := f.gT, sp := f.sp, vr := f.vr, ctxid := f.ctxid
    fcause := f.fcause, vbase := f.vbase, ftpc := f.ftpc, faddr := f.faddr, fpt := f.fpt, codes := f.res, frozen := true
    kern := src.kern, rg := src.rg, cmp := src.cmp, wdgDue := src.wdgDue
    halt := if src.halt = some HaltKind.monitor then src.halt else none }
  if f.kind = .atMacro then m.atMacro
  else { m with
    ir := f.ir, u := f.u, mdr := f.mdr, mlo := f.mlo, mhi := f.mhi, fpr := f.fpr, upc := f.seq.upc, ustack := f.seq.stack
    hold := f.seq.hold, long := f.seq.long, l := f.l, lat := f.lat, extErr := f.extErr, scnt := f.scnt
    streamPos := f.streamPos, streamIn := f.streamIn.map .data, streamOut := f.streamOut, replay := f.replay
    slots := src.slots.filter fun p => f.held.any (·.1 == p.1) }

/-- An engine frozen at a TRAPOK point goes on where it stopped (R62, R301, R308): UTRET to UTPC. -/
def Engine.unfrozen (e : Engine) (utpc : Nat) : Engine :=
  if e.frozen then
    Engine.recode { e with frozen := false, freezeReq := false, wdgExact := false, upc := e.resumeAt (BitVec.ofNat 13 utpc) } [138]
  else { e with freezeReq := false }

end Sys2Proof.Machine
end

