-- ==== Sys2Proof/Machine/Spm.lean ====
section
/-! DEFINITION. The Spare Manager: live state and its mirror, the transition queue, moves, physical engine states and
control-store errors (06, 11: R174 to R177, R297 to R323). -/
namespace Sys2Proof.Machine

/-! ## Engine states, maps and the mirror (R310, R317, R318) -/

/-- SPM_PE.STATE (R310). -/
inductive PeState where
  | empty
  | active
  | spare
  | moving
  | testing
  | stopped
  | retired
deriving DecidableEq, Repr

/-- The code of an engine state. -/
def PeState.code : PeState → Nat
  | .empty => 0
  | .active => 1
  | .spare => 2
  | .moving => 3
  | .testing => 4
  | .stopped => 5
  | .retired => 6

/-- The state of physical engine `n`. -/
def Block.peIs (b : Block) (n : Nat) (s : PeState) : Bool := b.get (R.peState n) == s.code

/-- The state of logical engine `k`: 0 RUNNING, 1 FROZEN, 2 STOPPED, 3 OFFLINE (R323). -/
def Block.leState (b : Block) (k : Nat) : Nat := b.spm.leState.get k 0

/-- The Spare Manager's own state changed. -/
def Block.modSpm (b : Block) (f : Spm → Spm) : Block := { b with spm := f b.spm }

/-- Mirror units: class and index as one number (R323). -/
def mirPe (n : Nat) : Nat := n
def mirBank (k : Nat) : Nat := 128 + k
def mirTags : Nat := 256
def mirLe (k : Nat) : Nat := 384 + k

/-- A change of live state (R317): LSEQ advances once and the changed units' words wait to be sent to the mirror. -/
def Block.live (b : Block) (units : List Nat) : Block :=
  (b.inc R.SPM_LSEQ_LSEQ 1).modSpm fun s => { s with mirQ := s.mirQ ++ units }

/-- FREE as the engine states give it (R320). -/
def Block.countFree (b : Block) : Block :=
  b.put R.SPM_STAT_FREE ((List.range 72).filter fun n => b.peIs n .spare).length

/-- Engine `n`'s state written; a cluster that loses its last SPARE engine sets SPARELOW (R320). -/
def Block.setPe (b : Block) (n : Nat) (s : PeState) : Block :=
  let was := b.peIs n .spare
  let b := (b.put (R.peState n) s.code).countFree
  let none := (List.range 9).all fun i => !b.peIs (9 * (n / 9) + i) .spare
  let b := if s = .retired then b.raise R.SPM_EVT_RETIRED else b
  if was && none then b.raise R.SPM_EVT_SPARELOW else b

/-- Logical engine `k`'s state written; RUN reads 1 only while it is RUNNING (R320). -/
def Block.setLe (b : Block) (k v : Nat) : Block :=
  let b := (b.modSpm fun s => { s with leState := s.leState.put k v }).put (R.mapRun k) (bit (v == 0))
  if v = 2 ∨ v = 3 then b.raise R.SPM_EVT_OFFLINE else b

/-- The summary word of a unit (R323). -/
def Block.summary (b : Block) (u : Nat) : Nat :=
  if u < 72 then
    b.get (R.peState u) + 8 * b.get (R.peStrikes u) + 64 * b.get (R.peWorn u) + 128 * b.get (R.ENG_ID_LE u) +
      2 ^ 13 * b.get (R.ENG_ID_RUN u)
  else if 128 ≤ u ∧ u < 192 then
    b.get (R.CB_STAT_PSTATE (u - 128)) + 4 * b.get (R.CB_STAT_SPUSED (u - 128)) + 2 ^ 9 * b.get (R.CB_STAT_SPFULL (u - 128))
  else if u = mirTags then b.get R.SPM_TAGSP_USED + 2 ^ 11 * bit (b.get R.SPM_TAGSP_RETIRED != 0)
  else if 384 ≤ u ∧ u < 448 then
    b.get (R.mapPE (u - 384)) + 128 * b.get (R.mapRun (u - 384)) + 256 * b.leState (u - 384)
  else 0

/-- MIRROR_UPDATE's effect (R317): the new LSEQ reaches AON first; then one waiting word is sent, and MSEQ follows the
last. While PD6 is not ON nothing is sent, so that a word reads the state it was last sent (R318). -/
def Block.mirrorUpdate (b : Block) : Block :=
  let s := b.spm
  if b.drips then b
  else if s.lseqAon ≠ b.get R.SPM_LSEQ_LSEQ then b.modSpm fun s => { s with lseqAon := b.get R.SPM_LSEQ_LSEQ }
  else match s.mirQ with
    | [] => b
    | u :: q => b.modSpm fun s => { s with
        mirror := s.mirror.put u (b.summary u), mirQ := q, mseq := if q.isEmpty then s.lseqAon else s.mseq }

/-- The unit that MIR_SEL names, if it names one (R323). -/
def Block.mirUnit (b : Block) : Option Nat :=
  let i := b.get R.MIR_SEL_INDEX
  match b.get R.MIR_SEL_CLASS with
  | 0 => if i < 72 then some i else none
  | 1 => if i < 64 then some (128 + i) else none
  | 2 => if i = 0 then some mirTags else none
  | _ => if i < 64 then some (384 + i) else if i = 0x7F then some (384 + 127) else none

/-- A read of MIR_DATA (R318, R323); a STALE answer is counted (R320). -/
def Block.readMirror (b : Block) : Block × Nat :=
  match b.mirUnit with
  | none => (b, 0)
  | some u =>
    let stale := b.spm.mseq != b.spm.lseqAon
    let w := if u = 384 + 127 then b.spm.mgmt else b.spm.mirror.get u 0
    (if stale then b.inc R.SPM_LAG_COUNT 1 else b, 2 ^ 31 * bit stale + w)

/-! ## The log (R314, R320) -/

/-- RESULT codes (R314). -/
inductive SpmRes where
  | ok
  | full
  | badarg
  | state
  | nospare
  | crc
  | dataflt
  | testfail
deriving DecidableEq, Repr

/-- The code of a result. -/
def SpmRes.code : SpmRes → Nat
  | .ok => 0
  | .full => 1
  | .badarg => 2
  | .state => 3
  | .nospare => 4
  | .crc => 5
  | .dataflt => 6
  | .testfail => 7

/-- An SPM_LOG entry (R314, R320); a management command's result is kept for the mirror (R323). -/
def Block.logSpm (b : Block) (op : Nat) (r : SpmRes) (origin pe le : Nat) : Block :=
  let i := b.get R.SPM_STAT_LOGNEXT
  let b := ((((b.put (R.SPM_LOG_A_OP i) op).put (R.SPM_LOG_A_RESULT i) r.code).put (R.SPM_LOG_A_ORIGIN i) origin).put
    (R.SPM_LOG_A_PE i) pe).put (R.SPM_LOG_A_LE i) le
  let b := ((b.put (R.SPM_LOG_B_LSEQ i) (b.get R.SPM_LSEQ_LSEQ)).put R.SPM_STAT_LOGNEXT ((i + 1) % 8)).raise
    R.SPM_EVT_CMDDONE
  if origin = 2 then b.modSpm fun s => { s with mgmt := r.code } else b

/-! ## Strikes and hardware transitions (R312, R314) -/

/-- One strike more for engine `n`, saturating at 7. -/
def Block.strike (b : Block) (n : Nat) : Block := b.incSat (R.peStrikes n) 1

/-- The engine a hardware transition is about. -/
def HwReq.pe : HwReq → Option Nat
  | .fault n _ => some n
  | .wear n => some n
  | .stop n => some n
  | .tagRow _ => none

/-- The transition moves a worn engine's logical engine. -/
def HwReq.isWear : HwReq → Bool
  | .wear _ => true
  | _ => false

/-- A hardware transition queued: each physical engine has at most one pending (R314); a fault or a stop takes the place of a wear
move that waits, as the engine runs no more. -/
def Block.queueHw (b : Block) (r : HwReq) : Block :=
  let b := if r.isWear then b else b.modSpm fun s => { s with hwQ := s.hwQ.filter fun q => !(q.isWear && q.pe == r.pe) }
  if r.pe.isSome ∧ (b.spm.hwQ.any fun q => q.pe == r.pe) then b
  else b.modSpm fun s => { s with hwQ := s.hwQ ++ [r] }

/-- A lockup or a second watchdog expiry: the Spare Manager will stop the engine (R341, R343). -/
def Block.stopWithStrike (b : Block) (n : Nat) : Block := b.queueHw (.stop n)

/-- A hard residue fault, or an uncorrectable control-store row met by a fetch: the engine stops with its state as it
stood (R59, R175, R297). -/
def Block.hardFault (b : Block) (n : Nat) (dataFault : Bool) : Block :=
  ((b.modEngine n fun e => { e with resFault := true }).raise (R.ENG_USTAT_HALTED n)).queueHw (.fault n dataFault)

/-! ## Commands (R313, R319) -/

/-- A command put in the queue of 16, or logged at once with FULL (R314). -/
def Block.queueCmd (b : Block) (c : SpmCmd) : Block :=
  if 16 ≤ b.spm.cmdQ.length then b.logSpm c.op .full c.origin c.pe c.le
  else
    let b := b.modSpm fun s => { s with cmdQ := s.cmdQ ++ [c] }
    b.put R.SPM_STAT_QDEPTH b.spm.cmdQ.length

/-- A command as SPM_CMD encodes it (R320). -/
def SpmCmd.ofWord (v origin : Nat) : SpmCmd := ⟨bitsOf v 28 4, v.testBit 24, bitsOf v 16 7, bitsOf v 8 6, origin⟩

/-! ## Targets (R176, R307) -/

/-- A store may be copied from: LOADED, no uncorrectable row pending (R176). -/
def Block.isSource (b : Block) (n : Nat) : Bool :=
  b.get (R.ENG_CSSTAT_IMGST n) == 2 && !b.flag (R.ENG_CSSTAT_UEPEND n)

/-- Engine `n` holds an image that a frame of engine `s` can resume on (R307). -/
def Block.compatible (b : Block) (kind : MoveKind) (s n : Nat) : Bool :=
  b.get (R.ENG_CSSTAT_IMGST n) == 2 && (match kind with
    | .atMacro => b.get (R.ENG_CSVER_MAJOR n) == b.get (R.ENG_CSVER_MAJOR s)
    | _ => b.get (R.ENG_CSVER_MSFV n) == b.get (R.ENG_CSVER_MSFV s))

/-- The engines of a cluster that satisfy a test, best first: fewest strikes, then the lower number (R307). -/
def Block.bestOf (b : Block) (c : Nat) (ok : Nat → Bool) : Option Nat :=
  (List.range 9).foldl (fun w i =>
    let n := 9 * c + i
    if b.peIs n .spare && ok n then
      match w with
      | some m => if b.get (R.peStrikes n) < b.get (R.peStrikes m) then some n else w
      | none => some n
    else w) none

/-- The first cluster in R307's order that has an engine satisfying a test. -/
def Block.searchSpare (b : Block) (c : Nat) (ok : Nat → Bool) : Option Nat :=
  let order := if b.flag R.SPM_POLICY_XCLUSTER then (List.range 8).map fun i => (c + i) % 8 else [c]
  order.findSome? fun k => b.bestOf k ok

/-- The target of a move of engine `s`'s logical engine onto an image that `ok` accepts, and whether one must first be copied into it,
from which engine (R307). -/
def Block.targetFor (b : Block) (s : Nat) (ok : Nat → Bool) : Option (Nat × Option Nat) :=
  match b.searchSpare (s / 9) ok with
  | some d => some (d, none)
  | none =>
    match b.searchSpare (s / 9) (fun n => b.get (R.ENG_CSSTAT_IMGST n) != 1), (List.range 72).find? (fun n => b.isSource n && ok n) with
    | some d, some f => some (d, some f)
    | _, _ => none

/-- Cluster `c` is the one that a ROLL is treating (R191, R194). -/
def Block.rolling (b : Block) (c : Nat) : Bool :=
  b.spm.act.isSome && b.get R.ACT_STAT_PHASE == 2 && b.get R.ACT_STAT_CLUSTER == c

/-- Engine `n` holds the image of engine `s` (R176). -/
def Block.sameImage (b : Block) (s n : Nat) : Bool :=
  b.get (R.ENG_CSSTAT_IMGST n) == 2 && (b.engine s).csDigest.isSome && (b.engine n).csDigest == (b.engine s).csDigest

/-- The target of a move of engine `s`'s logical engine (R307); in the cluster being activated the same image comes first (R194). -/
def Block.chooseTarget (b : Block) (kind : MoveKind) (s : Nat) : Option (Nat × Option Nat) :=
  let any := b.targetFor s (b.compatible kind s)
  if b.rolling (s / 9) then (b.targetFor s (b.sameImage s)).or any else any

/-! ## Engines out of use, under test, at their start (R310, R311, R325) -/

/-- Engine `n`'s lockup ends (R341): its bit, and ANY, which is the OR of all of them. -/
def Block.unlock (b : Block) (n : Nat) : Block :=
  let b := b.clear (R.ENG_XSTAT_LOCKUP n)
  let b := b.put (R.lockupVec n) (clrBit (b.get (R.lockupVec n)) (n % 32))
  b.put R.ENG_LOCKUP_ANY (bit (b.get R.LOCKUP_VEC0_SE + b.get R.LOCKUP_VEC1_SE + b.get R.LOCKUP_VEC2_SE != 0))

/-- Engine `n` becomes RETIRED (R310): its domain is OFF, its store is lost, and its lockup record clears (R341). -/
def Block.retire (b : Block) (n : Nat) : Block :=
  let b := (b.setPe n .retired).modEngine n fun e =>
    { e with running := false, cs := [], csErr := [], csDigest := none }
  (((b.clear (R.PWR_ENG_STATE n)).clear (R.ENG_CSSTAT_IMGST n)).clear (R.ENG_CSSTAT_UEPEND n)).unlock n

/-- The engine test begins (R311). -/
def Block.beginTest (b : Block) (n : Nat) : Block :=
  (b.setPe n .testing).modEngine n fun e => { e with running := false, frozen := false, resFault := false }

/-- The watchdog registers at their reset values (R325). -/
def Block.resetWdg (b : Block) (n : Nat) : Block :=
  [R.ENG_WDG_CTRL_EN n, R.ENG_WDG_CTRL_FREEZE n, R.ENG_WDG_CTRL_EXP1 n, R.ENG_WDG_PERIOD_PERIOD n, R.ENG_WDG_CNT_COUNT n,
    R.ENG_WDG_GRACE_GRACE n].foldl Block.toReset b

/-- A start sent to engine `n` for logical engine `k` (R34, R325): it takes it as ENGINE_START; until then it issues no words. -/
def Block.sendStart (b : Block) (n k : Nat) : Block :=
  let b := ((b.put (R.mapPE k) n).raise (R.ENG_ID_RUN n)).put (R.ENG_ID_LE n) k
  let b := b.modEngine n fun e => { e with startDue := true, running := false }
  (b.setPe n .active).setLe k 0

/-- FSTEP of an engine written inside its range: relocking begins (R66). -/
def Block.relock (b : Block) (n v : Nat) : Block := (b.put (R.ENG_CLK_FSTEP n) v).raise (R.ENG_CLK_PENDING n)

/-! ## Moves (R301 to R308) -/

/-- The source of a move is asked to freeze, or at a fault has its freeze point where it stopped, which breaks a line lock that it
holds (R301). -/
def Block.freezeSource (b : Block) (m : Move) : Block :=
  if m.kind = .fault then (b.lockBreak m.src .exception).modEngine m.src fun e => { e with frozen := true, freezeReq := false }
  else b.modEngine m.src fun e => { e with freezeReq := true }

/-- Where a move goes on once its target holds a fitting image (R301, R307). -/
def MoveKind.first : MoveKind → MovePhase
  | .fault => .drain
  | _ => .freeze

/-- A move begins (R304, R307, R317, R446): a target in CS-RETAIN is powered ON, both engines become MOVING, the logical engine
FROZEN, the target takes the source's FSTEP (R302), and the source is asked to freeze, once an image that must be copied first
has been. -/
def Block.beginMove (b : Block) (m : Move) (copyFrom : Option Nat) : Block :=
  let b := ((b.setPe m.src .moving).setPe m.dst .moving).setLe m.le 1
  let b := b.live [mirPe m.src, mirPe m.dst, mirLe m.le]
  let b := if b.get (R.PWR_ENG_STATE m.dst) = 1 then b.put (R.PWR_ENG_STATE m.dst) 2 else b
  let f := b.get (R.ENG_CLK_FSTEP m.src)
  let b := if b.get (R.ENG_CLK_FSTEP m.dst) = f then b else b.relock m.dst f
  let b := b.raise R.SPM_STAT_BUSY
  match copyFrom with
  | some f => (b.put (R.ENG_CSSTAT_IMGST m.dst) 1).modSpm fun s => { s with
      move := some { m with phase := .copy }, copies := s.copies ++ [⟨f, m.dst, .move⟩] }
  | none => (b.freezeSource m).modSpm fun s => { s with move := some { m with phase := m.kind.first } }

/-- The image that a move needed has been copied: the freeze is requested (R307). -/
def Block.moveCopied (b : Block) : Block :=
  match b.spm.move with
  | some m =>
    if m.phase = .copy then (b.freezeSource m).modSpm fun s => { s with move := some { m with phase := m.kind.first } } else b
  | none => b

/-- The move under way is over and logged, and so is a transition whose move a fault took over (R309, R314). -/
def Block.endMove (b : Block) (m : Move) (r : SpmRes) : Block :=
  let b := (b.modSpm fun s => { s with move := none }).clear R.SPM_STAT_BUSY |>.logSpm m.op r m.origin m.dst m.le
  match m.also with
  | some (op, origin) => b.logSpm op r origin m.dst m.le
  | none => b

/-- A move's source has reached its freeze point (R301): a frozen engine reads HALTED. -/
def Block.froze (b : Block) (n : Nat) : Block :=
  let b := (b.modEngine n fun e => { e with freezeReq := false, frozen := true }).raise (R.ENG_USTAT_HALTED n)
  match b.spm.move with
  | some m => if m.src = n ∧ m.phase = .freeze then b.modSpm fun s => { s with move := some { m with phase := .drain } } else b
  | none => b

/-- Nothing that engine `n` has issued is still on its way (R303). -/
def Block.drained (b : Block) (n : Nat) : Bool :=
  ((List.range 64).all fun k => (b.bankAt k).waiting.all (·.rq != n)) && b.dram.waiting.all (·.rq != n) &&
    b.dram.presented.all (·.rq != n) && b.resps.all (·.pe != n) && !(b.engine n).extBusy &&
    ((b.engine n).slots.all fun s => match s.2 with
      | .expecting dropped _ => dropped
      | _ => true) && (b.engine n).streamIn.all fun x => match x with
      | .data _ => true
      | _ => false

/-- MOVE_DRAIN_DONE's effect (R303). -/
def Block.moveDrained (b : Block) : Block :=
  match b.spm.move with
  | some m =>
    if m.phase = .drain ∧ b.drained m.src then b.modSpm fun s => { s with move := some { m with phase := .transfer } }
    else b
  | none => b

/-- Registers that a move copies: of the configuration block (R302), and with micro-state UTPC and UTIN (R299). -/
def moveRegs (n : Nat) (micro : Bool) : List Fld :=
  (if micro then [R.ENG_USTAT_UTPC n, R.ENG_USTAT_UTIN n] else []) ++
  [R.ENG_WDG_CTRL_EN n, R.ENG_WDG_CTRL_FREEZE n, R.ENG_WDG_CTRL_EXP1 n, R.ENG_WDG_PERIOD_PERIOD n,
    R.ENG_WDG_CNT_COUNT n, R.ENG_WDG_GRACE_GRACE n]

/-- A strike for a target whose CRC check failed twice, which then goes to testing (R308, R312). -/
def Block.badTarget (b : Block) (n : Nat) : Block := (b.strike n).beginTest n

/-- A FAULT move that found no way on (R308): the logical engine is OFFLINE, the source goes to testing with its strike and
its fault source fires; `also` names other units that the transition has changed. -/
def Block.faultLost (b : Block) (src le : Nat) (also : List Nat) : Block :=
  let b := ((b.strike src).beginTest src).setLe le 3
  ((b.clear (R.ENG_ID_RUN src)).clear (R.ENG_ID_LE src)).event src |>.live (mirPe src :: mirLe le :: also)

/-- The source of a move that failed resumes where it stopped (R308): at UTPC, or from its macro state. -/
def Block.resumeSource (b : Block) (m : Move) : Block :=
  let utpc := b.get (R.ENG_USTAT_UTPC m.src)
  let b := (b.modEngine m.src fun e =>
    let e := e.unfrozen utpc
    if m.kind = .atMacro then e.atMacro else e).clear (R.ENG_USTAT_HALTED m.src)
  ((b.setPe m.src .active).setLe m.le 0).live [mirPe m.src, mirPe m.dst, mirLe m.le]

/-- The frame that the Spare Manager reads from the source of a move (R299, R301). -/
def Block.frameOf (b : Block) (m : Move) : Msf :=
  (b.engine m.src).frame m.kind (b.get (R.ENG_CSVER_MSFV m.src)) m.le m.src (b.get (R.ENG_USTAT_UTPC m.src))
    (b.flag (R.ENG_USTAT_UTIN m.src))

/-- MOVE_TRANSFER_DONE's effect (R299, R300, R304, R308): the frame's bytes have reached the target with their CRC, and it takes
what they say, with the configuration block and the held responses; or the CRC check failed before anything was committed, once to
be repeated and twice for good. A monitor halt that was pending is presented to the target (R302). -/
def Block.moveTransferred (b : Block) (crcOk : Bool) : Block :=
  match b.spm.move with
  | some m =>
    if m.phase ≠ .transfer then b
    else if crcOk then
      let mon := (b.engine m.src).halt == some HaltKind.monitor
      let b := b.setEngine m.dst ((b.engine m.dst).receive (b.engine m.src) (b.frameOf m))
      let micro := m.kind != .atMacro
      let b := ((moveRegs m.src micro).zip (moveRegs m.dst micro)).foldl (fun b p => b.put p.2 (b.get p.1)) b
      let b := if mon then (b.clear (R.ENG_DBGSTAT_PENDING m.src)).raise (R.ENG_DBGSTAT_PENDING m.dst) else b
      b.modSpm fun s => { s with move := some { m with phase := .remap } }
    else if !m.crcBad then b.modSpm fun s => { s with move := some { m with crcBad := true } }
    else if m.kind = .fault then ((b.badTarget m.dst).faultLost m.src m.le [mirPe m.dst]).endMove m .crc
    else ((b.badTarget m.dst).resumeSource m).endMove m .crc
  | none => b

/-- Two fields exchanged. -/
def Block.swap (b : Block) (f g : Fld) : Block := (b.put f (b.get g)).put g (b.get f)

/-- The bits of two sources of a per-source array exchanged. -/
def Block.swapSrc (b : Block) (f : Nat → Fld) (x y : Nat) : Block :=
  (b.putSrcBit f x (b.srcBit f y)).putSrcBit f y (b.srcBit f x)

/-- One pair of targets of the Distributor exchanged (R350). -/
def Block.swapTargets (b : Block) (s d : Nat) : Block :=
  let ren := fun (v : Nat) => if v = s then d else if v = d then s else v
  let b := forEach 128 (fun g b =>
    if 9 ≤ g ∧ g ≤ 26 then b
    else if b.get (R.routeByte g) = ren (b.get (R.routeByte g)) then b
    else b.put (R.routeByte g) (ren (b.get (R.routeByte g)))) b
  let b := ((b.swap (R.DIST_THRESH_THR s) (R.DIST_THRESH_THR d)).swap (R.DIST_STAT_BADCPL s) (R.DIST_STAT_BADCPL d)).swap
    (R.prioByte (72 + s)) (R.prioByte (72 + d))
  let b := (b.swapSrc R.DIST_ENSET_EN (72 + s) (72 + d)).swapSrc R.DIST_PENDSET_PEND (72 + s) (72 + d)
  { b with claimer := b.claimer.map fun p => (p.1, ren p.2) }

/-- What becomes of a move's source (R310, R312, R313). -/
def Block.leaveSource (b : Block) (m : Move) : Block :=
  let b := ((b.clear (R.ENG_ID_RUN m.src)).clear (R.ENG_ID_LE m.src)).modEngine m.src fun e =>
    { e with running := false, freezeReq := false, halt := none, lkLine := none }
  if m.kind = .fault then (b.strike m.src).beginTest m.src
  else if m.retire then b.retire m.src
  else b.setPe m.src .spare

/-- MOVE_REMAP's effect (R304, R317, R350, R516): the map and everything held by target switch at once. -/
def Block.moveRemap (b : Block) : Block :=
  match b.spm.move with
  | some m =>
    if m.phase ≠ .remap then b
    else
      let b := (b.put (R.mapPE m.le) m.dst).leaveSource m
      let b := (((b.raise (R.ENG_ID_RUN m.dst)).put (R.ENG_ID_LE m.dst) m.le).setPe m.dst .active)
      let b := (b.swapTargets (2 * m.src) (2 * m.dst)).swapTargets (2 * m.src + 1) (2 * m.dst + 1)
      let b := b.live [mirPe m.src, mirPe m.dst, mirLe m.le]
      b.modSpm fun s => { s with move := some { m with phase := .ack } }
  | none => b

/-- Every bank that belongs to logical engine `le` takes physical engine `n` for its owner's (R201, R302). -/
def Block.banksSwitched (b : Block) (le n : Nat) : Bool :=
  (List.range 64).all fun k => b.get (R.CB_CTRL_OWNER k) != le || (b.bankAt k).ownerPE == n

/-- REMAP_ACKNOWLEDGED's effect (R301, R304, R314): once every bank has taken the new map the target resumes, at the resume
microaddress or, after a MACRO freeze, at 0x0030 from its macro state; the move is counted, timed and logged. RUNNING is not a
change that LSEQ counts (R317), but the logical engine's word is sent to the mirror again. -/
def Block.moveAcked (b : Block) (ns : Nat) : Block :=
  match b.spm.move with
  | some m =>
    if m.phase ≠ .ack ∨ !b.banksSwitched m.le m.dst then b
    else
      let b := (b.modEngine m.dst fun e => { e with running := true, frozen := false, wdgExact := false }).clear
        (R.ENG_USTAT_HALTED m.dst)
      let b := ((b.setLe m.le 0).incSat R.SPM_MIGCNT_ALL 1).countGlob 0x09 1
      let b := b.modSpm fun s => { s with mirQ := s.mirQ ++ [mirLe m.le] }
      let b := if m.kind = .fault then (b.incSat R.SPM_MIGCNT_FAULT 1).raise R.SPM_EVT_FAULTMOVE else b
      let t := min ns 0xFFFF
      let b := (b.put R.SPM_MIGLAST_LAST t).put R.SPM_MIGLAST_MAX (max t (b.get R.SPM_MIGLAST_MAX))
      b.endMove m .ok
  | none => b

/-! ## Transitions (R313, R314) -/

/-- The logical engine that engine `n` runs, by the map (R7). -/
def Block.mapped (b : Block) (n : Nat) : Nat := b.get (R.ENG_ID_LE n)

/-- A move that a command or a policy asks for (R307, R308). -/
def Block.tryMove (b : Block) (op origin src le : Nat) (kind : MoveKind) (named : Option Nat) (retire : Bool) : Block :=
  match named with
  | some d =>
    if b.peIs d .spare && b.compatible kind src d then
      b.beginMove ⟨le, src, d, kind, op, origin, retire, .freeze, false, none⟩ none
    else b.logSpm op .state origin d le
  | none =>
    match b.chooseTarget kind src with
    | some (d, f) => b.beginMove ⟨le, src, d, kind, op, origin, retire, .freeze, false, none⟩ f
    | none => b.logSpm op .nospare origin 0x7F le

/-- Command RETIRE (R313). -/
def Block.cmdRetire (b : Block) (c : SpmCmd) : Block :=
  if b.peIs c.pe .active then b.tryMove 2 c.origin c.pe (b.mapped c.pe) .trapok none true
  else if b.peIs c.pe .spare || b.peIs c.pe .stopped then
    ((b.retire c.pe).live [mirPe c.pe]).logSpm 2 .ok c.origin c.pe c.le
  else if b.peIs c.pe .testing then
    (b.modSpm fun s => { s with retireAfter := s.retireAfter ++ [c.pe] }).logSpm 2 .ok c.origin c.pe c.le
  else if b.peIs c.pe .retired then b.logSpm 2 .ok c.origin c.pe c.le
  else b.logSpm 2 .state c.origin c.pe c.le

/-- Command RESTORE (R310, R313): the domain is switched on, strikes and WORN are cleared, and an image is copied. It applies to a
RETIRED engine, and to an EMPTY one, which R310 lets RESTORE leave and R313 does not name (log entry 84). -/
def Block.cmdRestore (b : Block) (c : SpmCmd) : Block :=
  if !b.peIs c.pe .retired && !b.peIs c.pe .empty then b.logSpm 3 .state c.origin c.pe c.le
  else match (List.range 72).find? fun n => b.isSource n with
    | none => b.logSpm 3 .nospare c.origin c.pe c.le
    | some f =>
      let b := (((b.put (R.PWR_ENG_STATE c.pe) 2).clear (R.peStrikes c.pe)).clear (R.peWorn c.pe)).put (R.ENG_CSSTAT_IMGST c.pe) 1
      (b.modSpm fun s => { s with
        copies := s.copies ++ [⟨f, c.pe, .restore⟩], testOf := s.testOf.put c.pe (3, c.origin, c.le) }).live [mirPe c.pe]

/-- The Crema slots that a logical engine holds become FREE (R403). -/
def Block.freeHeld (b : Block) (k : Nat) : Block := { b with crema := b.crema.filter fun p => p.2.held != some k }

/-- Command RESTART (R313). -/
def Block.cmdRestart (b : Block) (c : SpmCmd) : Block :=
  let own := b.peOf c.le
  let ownStopped := b.peIs own .stopped && b.mapped own == c.le && b.flag (R.ENG_ID_RUN own)
  let leave := fun (b : Block) =>
    if ownStopped then ((b.clear (R.ENG_ID_RUN own)).clear (R.ENG_ID_LE own)).beginTest own else b
  let go := fun (d : Nat) =>
    let b := if d = own then b else leave b
    (((b.sendStart d c.le).freeHeld c.le).live [mirPe d, mirPe own, mirLe c.le]).logSpm 5 .ok c.origin d c.le
  if b.leState c.le ≠ 2 ∧ b.leState c.le ≠ 3 then b.logSpm 5 .state c.origin c.pe c.le
  else if c.pe = 0x7F then
    if ownStopped && decide (b.get (R.peStrikes own) < b.get R.SPM_POLICY_STRIKEMAX) then go own
    else match b.searchSpare (own / 9) (fun n => b.get (R.ENG_CSSTAT_IMGST n) == 2) with
      | some d => go d
      | none => b.logSpm 5 .nospare c.origin 0x7F c.le
  else if b.peIs c.pe .spare || (c.pe == own && ownStopped) then go c.pe
  else b.logSpm 5 .state c.origin c.pe c.le

/-- A command applied (R313). -/
def Block.applyCmd (b : Block) (c : SpmCmd) : Block :=
  let peOk := decide (c.pe < 72)
  match c.op with
  | 1 =>
    if !(peOk || c.pe == 0x7F) then b.logSpm 1 .badarg c.origin c.pe c.le
    else if b.leState c.le ≠ 0 ∨ !b.peIs (b.peOf c.le) .active then b.logSpm 1 .state c.origin c.pe c.le
    else b.tryMove 1 c.origin (b.peOf c.le) c.le (if c.mode then .atMacro else .trapok)
      (if c.pe = 0x7F then none else some c.pe) false
  | 2 => if peOk then b.cmdRetire c else b.logSpm 2 .badarg c.origin c.pe c.le
  | 3 => if peOk then b.cmdRestore c else b.logSpm 3 .badarg c.origin c.pe c.le
  | 4 =>
    if !peOk then b.logSpm 4 .badarg c.origin c.pe c.le
    else if b.peIs c.pe .spare then
      ((b.beginTest c.pe).live [mirPe c.pe]).modSpm fun s => { s with testOf := s.testOf.put c.pe (4, c.origin, c.le) }
    else b.logSpm 4 .state c.origin c.pe c.le
  | 5 => if peOk || c.pe == 0x7F then b.cmdRestart c else b.logSpm 5 .badarg c.origin c.pe c.le
  | op => b.logSpm op .badarg c.origin c.pe c.le

/-- A data fault (R298): the logical engine is OFFLINE, the engine's fault source fires, and the engine returns to SPARE
without a strike or a test; HALTED stays until its next start (R301). -/
def Block.dataFault (b : Block) (n le : Nat) : Block :=
  let b := b.modEngine n fun e => { e with running := false, resFault := false, replay := none }
  let b := ((b.clear (R.ENG_ID_RUN n)).clear (R.ENG_ID_LE n)).setPe n .spare
  (((b.setLe le 3).event n).live [mirPe n, mirLe le]).logSpm 8 .dataflt 0 n le

/-- A lockup or watchdog reset applied (R341, R343). -/
def Block.applyStop (b : Block) (n : Nat) : Block :=
  let le := b.mapped n
  let b := (b.setPe n .stopped).strike n |>.modEngine n fun e => { e with running := false, freezeReq := false }
  let b := if b.flag (R.ENG_ID_RUN n) then (b.setLe le 2).live [mirPe n, mirLe le] else b.live [mirPe n]
  b.logSpm 0xA .ok 0 n le

/-- A hardware transition applied (R297, R298, R308, R312, R316). `tagRow` is the Intake's part of R316. -/
def Block.applyHw (b : Block) (tagRow : Nat → Block → Block) : HwReq → Block
  | .fault n data =>
    let le := b.mapped n
    if data then b.dataFault n le
    else if b.peIs n .active || b.peIs n .moving then
      match b.chooseTarget .fault n with
      | some (d, f) => b.beginMove ⟨le, n, d, .fault, 8, 0, false, .drain, false, none⟩ f
      | none => (b.faultLost n le []).logSpm 8 .nospare 0 n le
    else b.logSpm 8 .state 0 n le
  | .wear n =>
    if b.peIs n .active then
      match b.chooseTarget .trapok n with
      | some (d, f) => b.beginMove ⟨b.mapped n, n, d, .trapok, 9, 0, true, .freeze, false, none⟩ f
      | none => b
    else b
  | .stop n => b.applyStop n
  | .tagRow t => (tagRow t b).logSpm 0xB .ok 0 0x7F 0

/-- A move that has not reached its freeze point ends with result STATE: the target is SPARE again, and the source as before. -/
def Block.moveDropped (b : Block) (m : Move) : Block :=
  let b := b.modEngine m.src fun e => { e with freezeReq := false }
  ((((b.setPe m.dst .spare).setPe m.src .active).setLe m.le 0).live [mirPe m.src, mirPe m.dst, mirLe m.le]).endMove m .state

/-- What a move meets before its freeze point: a lockup or a second watchdog expiry ends it with STATE (R343, R346), and so does a
data fault (R298); a hard fault turns it into a FAULT move onto the target already chosen, and its own transition is logged
too (R309, R314). -/
def Block.moveMeets (b : Block) : Block :=
  match b.spm.move with
  | some m =>
    if m.phase ≠ .freeze ∧ m.phase ≠ .copy then b
    else if b.spm.hwQ.contains (.stop m.src) || b.spm.hwQ.contains (.fault m.src true) then b.moveDropped m
    else if m.kind ≠ .fault ∧ (b.engine m.src).resFault then
      let m' := { m with kind := .fault, op := 8, origin := 0, also := some (m.op, m.origin) }
      let b := b.modSpm fun s => { s with move := some m', hwQ := s.hwQ.filter fun q => q.pe != some m.src }
      if m.phase = .copy then b
      else (b.freezeSource m').modSpm fun s => { s with move := some { m' with phase := .drain } }
    else b
  | none => b

/-- A WORN ACTIVE engine's wear move is queued as soon as R307 finds a target (R312). -/
def Block.queueWear (b : Block) : Block :=
  forEach 72 (fun n b =>
    if b.flag (R.peWorn n) && b.peIs n .active && (b.chooseTarget .trapok n).isSome then b.queueHw (.wear n) else b) b

/-- A step of an activation, or a copy, is under way: a command waits for its end (R194, R314). -/
def Block.stepping (b : Block) : Bool :=
  !b.spm.copies.isEmpty || match b.spm.act with
    | some a => b.get R.ACT_STAT_PHASE != 2 || a.step.isSome || a.inPlace.isSome
    | none => false

/-- TRANSITION_APPLY's effect (R314): hardware transitions first, then the activation step (`step`), then commands; one at
a time, none while a move is under way. -/
def Block.applyTransition (b : Block) (tagRow : Nat → Block → Block) (step : Nat → Block → Block) : Block :=
  let b := b.moveMeets
  if b.spm.move.isSome then b
  else
    let b := b.queueWear
    match b.spm.hwQ with
    | r :: q => (b.modSpm fun s => { s with hwQ := q }).applyHw tagRow r
    | [] =>
      match b.spm.act.bind (·.step) with
      | some le => step le (b.modSpm fun s => { s with act := s.act.map fun a => { a with step := none } })
      | none =>
        match b.spm.cmdQ with
        | c :: q =>
          if b.stepping then b
          else
            let b := b.modSpm fun s => { s with cmdQ := q }
            (b.put R.SPM_STAT_QDEPTH q.length).applyCmd c
        | [] => b

/-- ENGINE_TEST_DONE's effect (R311, R313, R314): the command that asked for the test is logged with its result. -/
def Block.testDone (b : Block) (n : Nat) (pass : Bool) : Block :=
  if !b.peIs n .testing then b
  else
    let ret := !pass || b.spm.retireAfter.contains n || b.flag (R.peWorn n) ||
      decide (b.get R.SPM_POLICY_STRIKEMAX ≤ b.get (R.peStrikes n))
    let cmd := b.spm.testOf.look n
    let b := b.modSpm fun s => { s with retireAfter := s.retireAfter.filter (· != n), testOf := s.testOf.del n }
    let b := (if ret then b.retire n else b.setPe n .spare).live [mirPe n]
    match cmd with
    | some (op, origin, le) => b.logSpm op (if pass then .ok else .testfail) origin n le
    | none => b

/-- Engine `n` becomes WORN (R312); while it is ACTIVE it is to be moved. -/
def Block.wearOut (b : Block) (n : Nat) : Block :=
  if b.flag (R.peWorn n) then b else (b.raise (R.peWorn n)).live [mirPe n]

/-- Engine `n` is WORN once its spare rows in use reach CSWORN (R312, R320). -/
def Block.rowWear (b : Block) (n : Nat) : Block :=
  let lim := b.get R.SPM_POLICY_CSWORN
  if lim ≠ 0 ∧ lim ≤ b.get (R.ENG_CSSTAT_SPUSED n) then b.wearOut n else b

/-- WEAR_SAMPLE's effect for one engine (R312): the rise of RETRY over the period. -/
def Block.wearSample (b : Block) (n : Nat) : Block :=
  let r := b.get (R.ENG_RES_RETRY n)
  let lim := b.get R.SPM_POLICY_RETRYLIM
  let rise := r - b.spm.retryBase.get n 0
  let b := b.modSpm fun s => { s with retryBase := s.retryBase.put n r }
  if lim ≠ 0 ∧ lim ≤ rise then b.wearOut n else b

/-! ## Control-store rows (R174 to R177) -/

/-- A row that no write has reached since CLEAR holds the fill word: SEQ = 0xF, everything else 0 (R178, R183). -/
def fillWord : BitVec 192 := BitVec.ofNat 192 (0xF * 2 ^ 184)

/-- The microword at a row. -/
def Engine.row (e : Engine) (r : Nat) : BitVec 192 := e.cs.get r fillWord

/-- An error found in a row, by fetch or by scrub (R175, R177): recorded for the Spare Manager, and a corrected one
counted. -/
def Block.csFound (b : Block) (n r : Nat) (ue : Bool) : Block :=
  let e := b.engine n
  let b := b.setEngine n { e with csErr := e.csErr.put r ue }
  let b := ((b.put (R.ENG_CSERR_ROW n) r).put (R.ENG_CSERR_UE n) (bit ue)).put (R.ENG_CSERR_REMAPPED n)
    (bit (e.csMap.look r).isSome)
  if ue then b.raise (R.ENG_CSSTAT_UEPEND n) else b.incSat (R.ENG_CSSTAT_CECNT n) 1

/-- A row moved to a spare row, another one where it sits in one already (R174, R175): live state changes (R317), and the engine may be
WORN (R312). -/
def Block.csRemap (b : Block) (n r : Nat) : Block :=
  let e := b.engine n
  let k := b.get (R.ENG_CSSTAT_SPUSED n)
  let b := (b.setEngine n { e with csMap := e.csMap.put r k }).put (R.ENG_CSSTAT_SPUSED n) (k + 1)
  let b := if b.get (R.ENG_CSERR_ROW n) = r then b.raise (R.ENG_CSERR_REMAPPED n) else b
  (b.live [mirPe n]).rowWear n

/-- Engine `n` retired because a repair finds no spare row or no copy (R175, R176, R315): as RETIRE, once a move or a test that it is
in has ended. -/
def Block.csRetire (b : Block) (n : Nat) : Block :=
  if b.peIs n .active || b.peIs n .moving then
    if b.spm.cmdQ.any fun c => c.op == 2 && c.pe == n && c.origin == 0 then b else b.queueCmd ⟨2, false, n, 0, 0⟩
  else if b.peIs n .testing then b.modSpm fun s => { s with retireAfter := s.retireAfter ++ [n] }
  else (b.retire n).live [mirPe n]

/-- The store a faulty row is copied from: another one that holds the same image, LOADED and without a pending error, the
row itself whole there (R176). -/
def Block.csSource (b : Block) (n r : Nat) : Option Nat :=
  let d := (b.engine n).csDigest
  (List.range 72).find? fun m => m != n && b.isSource m && d.isSome && (b.engine m).csDigest == d &&
    (b.engine m).csErr.look r != some true

/-- CS_ERROR_REPAIR's effect on one row (R175, R176): `again` says that a corrected word reads wrong again; `own` that the
own store still gives an uncorrectable row's word codeword by codeword. -/
def Block.csRepair (b : Block) (n r : Nat) (again own : Bool) : Block :=
  let e := b.engine n
  let full := 64 ≤ b.get (R.ENG_CSSTAT_SPUSED n)
  let fixed := fun (b : Block) => b.modEngine n fun e => { e with csErr := e.csErr.del r }
  match e.csErr.look r with
  | none => b
  | some false =>
    if !again then fixed b else if full then b.csRetire n else fixed (b.csRemap n r)
  | some true =>
    if full then b.csRetire n
    else
      let done := fun (w : BitVec 192) =>
        let b := fixed ((b.csRemap n r).modEngine n fun e => { e with cs := e.cs.put r w })
        let b := if (b.engine n).csErr.any (·.2) then b else b.clear (R.ENG_CSSTAT_UEPEND n)
        b.raise R.SPM_EVT_CSREPAIR
      match b.csSource n r with
      | some m => done ((b.engine m).row r)
      | none => if own then done (e.row r) else b.csRetire n

/-- The source of a copy as it stands (R176): the one it began with, or another store with the same image where that one no longer
qualifies. -/
def Block.copySource (b : Block) (c : Copy) : Option Nat :=
  if b.isSource c.src then some c.src
  else (List.range 72).find? fun m => m != c.dst && b.isSource m && b.sameImage c.src m

/-- A store becomes the copy of another (R176, R188, R190). -/
def Block.csCopy (b : Block) (src dst : Nat) : Block :=
  let s := b.engine src
  let b := b.modEngine dst fun e => { e with cs := s.cs, csErr := [], csDigest := s.csDigest }
  let b := (b.put (R.ENG_CSSTAT_IMGST dst) 2).clear (R.ENG_CSSTAT_UEPEND dst)
  [(R.ENG_CSVER_DIGPFX src, R.ENG_CSVER_DIGPFX dst), (R.ENG_CSVER_MAJOR src, R.ENG_CSVER_MAJOR dst),
    (R.ENG_CSVER_MINOR src, R.ENG_CSVER_MINOR dst), (R.ENG_CSVER_PATCH src, R.ENG_CSVER_PATCH dst),
    (R.ENG_CSVER_MSFV src, R.ENG_CSVER_MSFV dst)].foldl (fun b p => b.put p.2 (b.get p.1)) b

end Sys2Proof.Machine
end

