-- ==== Sys2Proof/Machine/Banks.lean ====
section
/-! DEFINITION. The Carafe banks: service order, errors and repair, scrub, initialisation, ownership (07, R196 to R215). -/
namespace Sys2Proof.Machine

/-! ## Errors and spare rows (R208, R209, R211, R213) -/

/-- ERRADDR names a line and what became of its error (R214). -/
def Block.bankErr (b : Block) (k line : Nat) (ue refetched drop : Bool) : Block :=
  let mapped := ((b.bankAt k).spare.look line).isSome
  ((((b.put (R.CB_ERRADDR_LINE k) line).put (R.CB_ERRADDR_UE k) (bit ue)).put (R.CB_ERRADDR_REFETCHED k)
    (bit refetched)).put (R.CB_ERRADDR_DROPST k) (bit drop)).put (R.CB_ERRADDR_REMAPPED k) (bit mapped)

/-- A line copied to a spare row of its sub-array (R208), another one where it sits in a spare row already; SPFULL where none is
left. -/
def Block.bankRemap (b : Block) (k line : Nat) : Block :=
  let c := b.bankAt k
  let used := c.spUsed.get (line % 2) 0
  if used < 32 then
    ((b.setBank k { c with
        spare := c.spare.put line (32 * (line % 2) + used), spUsed := c.spUsed.put (line % 2) (used + 1) }).inc
      (R.CB_STAT_SPUSED k) 1).live [mirBank k]
  else (b.raise (R.CB_STAT_SPFULL k)).raise (R.CB_EVT_SPFULL k)

/-- A correctable error in a line (R208): counted, written back, and remapped where it stays. -/
def Block.bankCorrect (b : Block) (k line : Nat) (stays : Bool) : Block :=
  let b := (b.incSat (R.CB_ECCCNT_CECNT k) 1).countGlob 0x07 1
  (if stays then b.bankRemap k line else b).bankErr k line false false false

/-- A line has no usable second source (R211, R213): no repair is under way and its source field is not used again. -/
def Block.bankDead (b : Block) (k line : Nat) : Block :=
  let c := b.bankAt k
  b.setBank k { c with src := c.src.del line, repair := c.repair.filter (·.1 != line) }

/-- Words of a line are known to be uncorrectable (R207). -/
def Block.markBad (b : Block) (k line words : Nat) : Block :=
  let c := b.bankAt k
  b.setBank k { c with bad := c.bad.put line (Nat.lor (c.bad.get line 0) words) }

/-- The line's repair begins (R211), unless it is under way. -/
def Block.beginRepair (b : Block) (k line : Nat) : Block :=
  let c := b.bankAt k
  b.setBank k { c with repair := if c.repair.any (·.1 == line) then c.repair else c.repair ++ [(line, false)] }

/-! ## Service order (R200) -/

/-- The number under which a requester stands in round robin (R200): the Intake's record writes count as the Host Shim's, the digest
arbiter's and the Spare Manager's accesses as the debug bus master's, as R200 gives them no number (log entry 80). -/
def arbNumber (rq : Nat) : Nat := if rq = 76 then 72 else if rq = 77 then 75 else rq

/-- The place of requester `rq` in round-robin order after `last`. -/
def rrAfter (last rq : Nat) : Nat := (arbNumber rq + 75 - last) % 76

/-- The first of some requests in round-robin order. -/
def rrFirst (last : Nat) : List Req → Option Req
  | [] => none
  | q :: qs => match rrFirst last qs with
    | some p => if rrAfter last p.rq < rrAfter last q.rq then some p else some q
    | none => some q

/-- The first request of each requester in the list: a requester's requests are served in the order in which it issued them (R17),
those of different channels too, which the spec leaves open (log entry 80). -/
def firstsOf : List Nat → List Req → List Req
  | _, [] => []
  | seen, q :: qs => if seen.contains q.rq then firstsOf seen qs else q :: firstsOf (q.rq :: seen) qs

/-- The line of the bank that a request touches first. -/
def Req.line (q : Req) : Nat := q.addr / 64 % 2 ^ 14

/-- The request goes on into the next line (R196). -/
def Req.two (q : Req) : Bool := decide (64 < q.addr % 64 + q.len)

/-- The lines that a request touches, with the offset and the bytes in each (R196). -/
def Req.spans (q : Req) : List (Nat × Nat × Nat) :=
  let o := q.addr % 64
  if q.two then [(q.line, o, 64 - o), (q.line + 1, 0, o + q.len - 64)] else [(q.line, o, q.len)]

/-- A line that the request touches is under repair, so that it waits (R212). -/
def Bank.holdsUp (c : Bank) (q : Req) : Bool := c.repair.any fun r => q.spans.any (·.1 == r.1)

/-- The request that bank `k` serves (R200), and whether round robin chose it: of the requests at the arbiter, the first of each
requester, unless its line is under repair (R212). -/
def Block.bankPick (b : Block) (k : Nat) : Option (Req × Bool) :=
  let c := b.bankAt k
  let can := (firstsOf [] c.waiting).filter fun q => q.place != 0 && !c.holdsUp q
  let last := b.get (R.CB_ARB_LASTRQ k)
  let oldest := can.foldl (fun m q => max m q.age) 0
  if 16 ≤ oldest then (rrFirst last (can.filter (·.age == oldest))).map (·, false)
  else match can.find? (·.rq == c.ownerPE) with
    | some q => some (q, false)
    | none => (rrFirst last can).map (·, true)

/-- The request stores bytes without reading them first. -/
def ReqKind.stores : ReqKind → Bool
  | .write | .landing _ | .condStore => true
  | _ => false

/-- A request replaces every 8-byte word it touches. -/
def Req.wholeWords (q : Req) : Bool := q.addr % 8 == 0 && q.len % 8 == 0

/-- The bank cycles a request occupies (R196): two for a store of part of a word. -/
def Req.cycles (q : Req) : Nat := if q.kind.stores && !q.wholeWords then 2 else 1

/-- The request taken out of the bank's list. -/
def removeReq (q : Req) : List Req → List Req
  | [] => []
  | p :: ps => if p = q then ps else p :: removeReq q ps

/-- What became of a request at its target: its data, an error, or nothing yet because a line of it is being repaired. -/
inductive Served where
  | data (d : List Byte)
  | lost
  | later
deriving DecidableEq, Repr

/-- The line that a find is about. -/
def Req.findLine (q : Req) (second : Bool) : Nat := if second && q.two then q.line + 1 else q.line

/-- The damage that the request meets in one line (R213): of a read every damaged word of the row; of a store the damaged words that
it touches, unless it replaces all of them. -/
def Req.meets (q : Req) (bad o n : Nat) : Bool :=
  if q.kind.stores then
    let hit := Nat.land bad (touchMask o n)
    hit != 0 && Nat.land hit (coverMask o n) != hit
  else if q.kind == .lockRelease then false
  else bad != 0

/-- A store that replaces words known to be damaged and without a second source (R213): applied, and counted as the outcome it is. -/
def Block.countApplied (b : Block) (k : Nat) (q : Req) : Block :=
  q.spans.foldl (fun b s =>
    if q.kind.stores && Nat.land ((b.bankAt k).bad.get s.1 0) (coverMask s.2.1 s.2.2) != 0 then b.unrepairable k s.1 false false
    else b) b

/-- The outcome for a request whose line nothing repairs (R213): an error for a read, a store discarded. -/
def Block.bankLost (b : Block) (k line : Nat) (q : Req) : Block :=
  match q.kind with
  | .condStore => (b.unrepairable k line true false).freeLock q.rq q.addr
  | .write | .landing _ => b.unrepairable k line true false
  | _ => b.unrepairable k line false false

/-- What the array read finds recorded (R207, R208): a correctable error is corrected, damaged words are marked where the request reads
them, and a source field that cannot be read is not used. A store of whole words reads nothing. -/
def Block.bankFinds (b : Block) (k : Nat) (q : Req) (find : BankFind) : Block :=
  if q.kind == .lockRelease || (q.kind.stores && q.wholeWords) then b
  else match find with
    | .clean => b
    | .correctable second stays => b.bankCorrect k (q.findLine second) stays
    | .uncorrectable second words => if words = 0 then b else b.markBad k (q.findLine second) words.toNat
    | .sourceLost second => b.bankDead k (q.findLine second)

/-- A request served with what its array read finds (R207, R208, R211 to R213). -/
def Block.bankDo (b : Block) (k : Nat) (q : Req) (find : BankFind) : Block × Served :=
  let b := b.bankFinds k q find
  let c := b.bankAt k
  match q.spans.find? fun s => q.meets (c.bad.get s.1 0) s.2.1 s.2.2 with
  | some (l, _) => if (c.src.look l).isSome then (b.beginRepair k l, .later) else (b.bankLost k l q, .lost)
  | none => let r := (b.countApplied k q).effect q; (r.1, .data r.2)

/-- A request found neither a shared entry nor its class's own at bank *k* (R283). -/
def Req.outside (k : Nat) (q : Req) : Bool := q.place == 0 && q.viaFabric k

/-- Bank `k` serves one waiting request (R200, R203, R204, R208, R213): the request, and what became of it; one that waits for a
repair keeps its place. `find` is what its array read finds. PERC_WAITS counts the Fabric cycles in which a request found no entry:
one or more, a free number (R293; log entry 21). -/
def Block.bankStep (b : Block) (k : Nat) (find : BankFind) : Block × Option (Req × Served) :=
  match b.bankPick k with
  | none => (b, none)
  | some (q, rr) =>
    let c := b.bankAt k
    let aged := fun (p : Req) => if p.place = 0 then p else { p with age := p.age + q.cycles }
    let rest := (removeReq q c.waiting).map aged
    let b := b.setBank k { c with waiting := rest, scrubAge := c.scrubAge.map (· + q.cycles) }
    let b := if rr then b.put (R.CB_ARB_LASTRQ k) (arbNumber q.rq) else b
    let b := if rest.all (·.place == 0) then b else b.inc (R.CB_WAITCNT_COUNT k) q.cycles
    let b := if rest.any (Req.outside k) then b.drawn.inc R.PERC_WAITS_COUNT (1 + b.freeWord.toNat) else b
    match b.bankDo k q find with
    | (b, .later) => (b.setBank k { b.bankAt k with waiting := c.waiting.map fun p => if p = q then q else aged p }, some (q, .later))
    | (b, r) => (b.setBank k { b.bankAt k with waiting := seat k (b.bankAt k).waiting }, some (q, r))

/-- What a served request answers sent on its way (R51, R52, R213). -/
def Block.bankReply (b : Block) (q : Req) : Served → Block
  | .data d => b.answer q d false
  | .lost => b.answer q [] true
  | .later => b

/-- A bank cycle of bank `k`, and its answer (R200). -/
def Block.bankServe (b : Block) (k : Nat) (find : BankFind) : Block :=
  match b.bankStep k find with
  | (b, some (q, r)) => b.bankReply q r
  | (b, none) => b

/-- BANK_SERVE (R200). -/
def execBankServe (k : BankId) (find : BankFind) (s : State) : Host.Outcome State Fault Refusal :=
  done s (s.blk.bankServe k find)

/-! ## Requests served within a command -/

/-- Bank `k` serves its requests until the one that a command makes has had its turn (R200), at most `fuel` of them; `find` is what
that one's read finds, and the others' find nothing. -/
def Block.bankUntil (k : Nat) (find : BankFind) : Nat → Block → Block × Served
  | 0, b => (b, .later)
  | fuel + 1, b =>
    match b.bankPick k with
    | none => (b, .later)
    | some (q, _) =>
      if q.reply = .now then
        match b.bankStep k find with
        | (b, some (_, r)) => (b, r)
        | (b, none) => (b, .later)
      else Block.bankUntil k find fuel (b.bankServe k .clean)

/-- The request that a command has made withdrawn from bank `k`: the command is given again later. -/
def Block.bankWithdraw (b : Block) (k : Nat) : Block :=
  let c := b.bankAt k
  b.setBank k { c with waiting := seat k (c.waiting.filter (·.reply != .now)) }

/-- A request of a command's own, served in its turn at bank `k`; one that waits for a repair is withdrawn (R212). -/
def Block.bankNow (b : Block) (k : Nat) (q : Req) (find : BankFind) : Block × Served :=
  let b := b.post { q with reply := .now }
  match Block.bankUntil k find ((b.bankAt k).waiting.length + 1) b with
  | (b, .later) => (b.bankWithdraw k, .later)
  | r => r

/-- Bank `k` serves its requests until none of requester `rq`'s is left, or none can be served, at most `fuel` of them. -/
def Block.bankFlush (k rq : Nat) : Nat → Block → Block
  | 0, b => b
  | fuel + 1, b =>
    if (b.bankAt k).waiting.all (·.rq != rq) || (b.bankPick k).isNone then b
    else Block.bankFlush k rq fuel (b.bankServe k .clean)

/-- Every request of requester `rq` at bank `k` has had its turn. -/
def Block.drainBank (b : Block) (rq k : Nat) : Block := Block.bankFlush k rq (b.bankAt k).waiting.length b

/-! ## The DRAM Port's order (R20, R495, R520) -/

/-- The channel of a request (R495). -/
def Req.channel (q : Req) : Nat := q.addr / 64 % 4

/-- The request that channel `c` of the DRAM Port takes next: rotating round-robin among the requesters whose first waiting request
goes there; all that wait are taken to have reached the port together (R17, R20; log entry 80). -/
def Block.dramPick (b : Block) (c : Nat) : Option Req :=
  rrFirst (b.dram.last.get c 75) ((firstsOf [] b.dram.waiting).filter (·.channel == c))

/-- A waiting request leaves its line; round robin has served its requester. -/
def Block.dramLeave (b : Block) (q : Req) : Block :=
  { b with dram := { b.dram with
      waiting := removeReq q b.dram.waiting, last := b.dram.last.put q.channel (arbNumber q.rq) } }

/-- The request that the channel of requester `rq`'s first waiting request takes next. -/
def Block.dramNext (b : Block) (rq : Nat) : Option Req := (b.dram.waiting.find? (·.rq == rq)).bind fun q => b.dramPick q.channel

/-- The DRAM Port presents requests until the one of requester `rq` that a command makes has its turn, at most `fuel` of them; that
one is taken out. -/
def Block.dramUntil (rq : Nat) : Nat → Block → Block
  | 0, b => b
  | fuel + 1, b =>
    match b.dramNext rq with
    | none => b
    | some q => if q.reply = .now then b.dramLeave q else Block.dramUntil rq fuel ((b.dramLeave q).present q)

/-- A request of a command's own at the DRAM Port, in its turn: the controller answers it with an error where `err` holds. -/
def Block.dramNow (b : Block) (q : Req) (err : Bool) : Block × Served :=
  let b := b.post { q with reply := .now }
  let b := (Block.dramUntil q.rq (b.dram.waiting.length + 1) b).countDram q.addr q.len q.kind.reads q.kind.writes
  if err then (b, .lost) else let r := b.effect q; (r.1, .data r.2)

/-- Requests presented until none of requester `rq`'s waits, at most `fuel` in all. -/
def Block.dramFlush (rq : Nat) : Nat → Block → Block
  | 0, b => b
  | fuel + 1, b =>
    match b.dramNext rq with
    | none => b
    | some q => Block.dramFlush rq fuel ((b.dramLeave q).present q)

/-- Every waiting request of requester `rq` at the DRAM Port is presented, in order. -/
def Block.drainDram (b : Block) (rq : Nat) : Block := Block.dramFlush rq b.dram.waiting.length b

/-- Every waiting request of requester `rq` at every target has had its turn (FENCE, R84). -/
def Block.drainAll (b : Block) (rq : Nat) : Block :=
  (forEach 64 (fun k b => b.drainBank rq k) b).drainDram rq

/-- Every waiting request of requester `rq` at the target of an address has had its turn. -/
def Block.drainFor (b : Block) (rq a : Nat) : Block :=
  match b.target a with
  | .carafe k => b.drainBank rq k
  | .dram _ => b.drainDram rq
  | _ => b

/-- Requester `rq` still has a request at the target of an address: its line is under repair. -/
def Block.waitsAt (b : Block) (rq a : Nat) : Bool :=
  match b.target a with
  | .carafe k => (b.bankAt k).waiting.any (·.rq == rq)
  | .dram _ => b.dram.waiting.any (·.rq == rq)
  | _ => false

/-- Requester `rq` has a request that has not taken effect. -/
def Block.hasWaiting (b : Block) (rq : Nat) : Bool :=
  b.dram.waiting.any (·.rq == rq) || (List.range 64).any fun k => (b.bankAt k).waiting.any (·.rq == rq)

/-- The find says that the target answers with an error. -/
def readFails : BankFind → Bool
  | .uncorrectable _ w => w != 0
  | _ => false

/-- A command's request in its turn at its target, Carafe or DRAM; anywhere else there is none that serves it. -/
def Block.now (b : Block) (q : Req) (find : BankFind) : Block × Served :=
  match b.target q.addr with
  | .carafe k => b.bankNow k q find
  | .dram _ => b.dramNow q (readFails find)
  | _ => (b, .lost)

/-! ## Scrub (R209) -/

/-- The line that row `r` of bank `k` holds: a line's own row, or the line remapped to a spare row. -/
def Block.rowLine (b : Block) (k r : Nat) : Option Nat :=
  if r < 0x4000 then (if ((b.bankAt k).spare.look r).isSome then none else some r)
  else ((b.bankAt k).spare.find? (·.2 == r - 0x4000)).map (·.1)

/-- An uncorrectable error reported once by scrub (R209): `key` names the line, or above all lines a row. -/
def Block.report (b : Block) (k key : Nat) : Block :=
  let c := b.bankAt k
  b.setBank k { c with seen := if c.seen.contains key then c.seen else key :: c.seen }

/-- An uncorrectable line without a second source found by scrub (R209, R213): counted every time, the event raised once. -/
def Block.scrubLost (b : Block) (k line : Nat) : Block :=
  (b.report k line).unrepairable k line false ((b.bankAt k).seen.contains line)

/-- An uncorrectable row without a line: counted every time, the event raised once (log entry 81). -/
def Block.scrubRowLost (b : Block) (k r : Nat) : Block :=
  let key := 0x8000 + r
  let b1 := (b.report k key).incSat (R.CB_ECCCNT_UECNT k) 1
  if (b.bankAt k).seen.contains key then b1 else b1.raise (R.CB_EVT_UNREP k)

/-- What scrub does with what it finds in row `r` (R208, R209, R211). A row that holds no line, an unused spare row or one given up,
has an error only to count (log entry 81). -/
def Block.scrubRow (b : Block) (k r : Nat) (find : BankFind) : Block :=
  match b.rowLine k r, find with
  | _, .clean => b
  | some l, .correctable _ stays => b.bankCorrect k l stays
  | some l, .uncorrectable _ words =>
    if words = 0 then b
    else
      let b := b.markBad k l words.toNat
      if ((b.bankAt k).src.look l).isSome then b.beginRepair k l else b.scrubLost k l
  | some l, .sourceLost _ => b.bankDead k l
  | none, .correctable _ _ => (b.incSat (R.CB_ECCCNT_CECNT k) 1).countGlob 0x07 1
  | none, .uncorrectable _ words => if words = 0 then b else b.scrubRowLost k r
  | none, .sourceLost _ => b

/-- CARAFE_SCRUB (R200, R209): one row of a bank that is ON is read; while a request waits at the arbiter the read waits too, until
it has waited 16 bank cycles. `find` is what the read finds. -/
def execCarafeScrub (k : BankId) (find : BankFind) (s : State) : Host.Outcome State Fault Refusal :=
  let b := s.blk
  let c := b.bankAt k
  done s <|
    if b.get (R.CB_STAT_PSTATE k) ≠ 2 then b
    else if c.waiting.any (·.place != 0) && decide (c.scrubAge.getD 0 < 16) then
      b.setBank k { c with scrubAge := some (c.scrubAge.getD 0) }
    else
      let r := b.get (R.CB_SCRUB_NEXT k)
      let b := (b.setBank k { c with scrubAge := none }).put (R.CB_SCRUB_NEXT k) ((r + 1) % 0x4040)
      b.scrubRow k r find

/-! ## Second source (R211) -/

/-- The repaired line is written (R211): the bytes of the write-buffer line, locks and source field left as they are. -/
def Block.repairLine (b : Block) (k line wb : Nat) (stays : Bool) : Block :=
  let b := { b with mem := b.mem.writes (k * 2 ^ 20 + line * 64) (b.fetch (dramBase + 64 * wb) 64) }
  let b := if stays then b.bankRemap k line else b
  let c := (b.bankAt k).heal line 255
  (((b.setBank k { c with repair := c.repair.filter (·.1 != line) }).incSat (R.CB_ECCCNT_RFCNT k) 1).countGlob 0x08 1).bankErr k
    line true true false

/-- The first repair of bank `k` that has been handed to the Intake or not, as `handed` says. -/
def Bank.repairing (c : Bank) (handed : Bool) : Option Nat := (c.repair.find? (·.2 == handed)).map (·.1)

/-- A repair handed to the Intake, or taken up again. -/
def Block.handRepair (b : Block) (k line : Nat) (handed : Bool) : Block :=
  let c := b.bankAt k
  b.setBank k { c with repair := c.repair.map fun r => if r.1 = line then (line, handed) else r }

/-- SECOND_SOURCE_REFETCH (R211, R213): the write-buffer line's read returns to bank `k` for its first repair. `err`: with an error, so
that the line is passed to the Intake; `same`: every codeword the bank can correct matches it, and there is one; `stays`: the
repaired row does not hold what is written. -/
def execSecondSourceRefetch (k : BankId) (err same stays : Bool) (s : State) : Host.Outcome State Fault Refusal :=
  let b := s.blk
  done s <|
    match (b.bankAt k).repairing false with
    | some l => match (b.bankAt k).src.look l with
      | some wb =>
        if err then b.handRepair k l true
        else if same && (b.bankAt k).bad.get l 0 != 255 then b.repairLine k l wb stays
        else b.bankDead k l
      | none => b.bankDead k l
    | none => b

/-- The bank at which the request of engine `n`'s waiting word waits for a repair (R212). -/
def Block.deferred (b : Block) (n : Nat) : Option Nat :=
  (List.range 64).find? fun k => (b.bankAt k).waiting.any fun q => q.rq == n && q.reply == .word && (b.bankAt k).holdsUp q

/-! ## Initialisation, counters, ownership (R201, R206, R214) -/

/-- Bank `k`'s bytes at 0 and no source field valid (R206). -/
def Block.zeroBank (b : Block) (k : Nat) : Block :=
  let b := { b with mem := b.mem.filter fun p => p.1 / 2 ^ 20 != k }
  b.setBank k { b.bankAt k with src := [], bad := [], seen := [], repair := [], scrubAge := none }

/-- Bank `k` is entering ON from OFF: in INIT, or just after a reset, when PWR_BANKk already says ON (R206, R456; log entry
42). -/
def Block.bankInits (b : Block) (k : Nat) : Bool :=
  b.flag (R.CB_STAT_INIT k) || (b.get (R.CB_STAT_PSTATE k) == 0 && b.get (R.PWR_BANK_STATE k) == 2)

/-- BANK_INIT_DONE (R206): a bank in INIT has zero in every row and becomes ON. -/
def execBankInitDone (k : BankId) (s : State) : Host.Outcome State Fault Refusal :=
  let b := s.blk
  done s <|
    if b.bankInits k then
      let b := ((b.zeroBank k).clear (R.CB_STAT_INIT k)).put (R.CB_STAT_PSTATE k) 2 |>.put (R.PWR_BANK_STATE k) 2
      (b.setBank k { b.bankAt k with target := none }).live [mirBank k]
    else b

/-- A write of CBk_CTRL.CLRCNT (R214). -/
def Block.bankClrcnt (b : Block) (k : Nat) : Block :=
  ((b.clear (R.CB_ECCCNT_CECNT k)).clear (R.CB_ECCCNT_RFCNT k)).clear (R.CB_ECCCNT_UECNT k)

/-- BANK_CLRCNT (R214). -/
def execBankClrcnt (k : BankId) (s : State) : Host.Outcome State Fault Refusal :=
  done s (s.blk.atReg (R.CB_CTRL_CLRCNT k) fun b => b.bankClrcnt k)

/-- OWNER_REMAP_APPLY (R201): the bank's owner and engine map take effect at it. -/
def execOwnerRemapApply (k : BankId) (s : State) : Host.Outcome State Fault Refusal :=
  let b := s.blk
  done s (b.setBank k { b.bankAt k with ownerPE := b.peOf (b.get (R.CB_CTRL_OWNER k)) })

/-- Bank `k` leaves ON (R204, R206): every lock slot is emptied with a break notice. -/
def Block.bankLeaveOn (b : Block) (k : Nat) : Block :=
  let c := b.bankAt k
  c.locks.foldl (fun b p => b.modEngine p.1 fun e => { e with notices := e.notices ++ [p.2.2] })
    (b.setBank k { c with locks := [] })

end Sys2Proof.Machine
end

