-- ==== Sys2Proof/Machine/Ext.lean ====
section
/-! DEFINITION. What the units share: EXT strobes and their answers, memory accesses of requesters that pass no region
table (R54, R198, R281, R494). -/
namespace Sys2Proof.Machine

/-! ## EXT strobes (R54) -/

/-- The strobe of engine `n` that names an operation. -/
def Block.strobeOf (b : Block) (n op : Nat) : Option Strobe := b.strobes.find? fun q => q.pe == n && q.op == op

/-- An answer sent to engine `n`: a refusal code, or a value. -/
def Block.extReply (b : Block) (n : Nat) (r : Except Nat W64) : Block :=
  let a : ExtAns := match r with
    | .error c => ⟨n, true, some (BitVec.ofNat 64 c)⟩
    | .ok v => ⟨n, false, some v⟩
  { b with extAns := b.extAns ++ [a], strobes := b.strobes.filter (·.pe != n) }

/-- An operation of a unit served for engine `n`'s waiting strobe; without one nothing happens. A strobe from the Tenant
world is refused with code WORLD where the unit says so (R228, R276). -/
def Block.extServe (b : Block) (n op : Nat) (world : Option Nat) (f : Strobe → Block → Block × Except Nat W64) : Block :=
  match b.strobeOf n op, world with
  | none, _ => b
  | some q, some w => if q.tenant then b.extReply n (.error w) else let r := f q b; r.1.extReply n r.2
  | some q, none => let r := f q b; r.1.extReply n r.2

/-! ## Requesters without a region table (R198) -/

/-- `n` bytes from `a` are served: a bank that is ON, or the DRAM window. -/
def Block.reachable (b : Block) (a n : Nat) : Bool :=
  (match b.target a with
    | .carafe _ | .dram _ => true
    | _ => false) && (b.bankFault a n).isNone && (match b.target (a + n - 1) with
    | .carafe _ | .dram _ => true
    | _ => false)

/-- The lines of an access of `n` bytes at `a`, at most `fuel`. -/
def lineParts : Nat → Nat → Nat → List (Nat × Nat)
  | 0, _, _ => []
  | fuel + 1, a, n =>
    if n = 0 then []
    else
      let k := min n (64 - a % 64)
      (a, k) :: lineParts fuel (a + k) (n - k)

/-- A request of a requester without a region table. -/
def dmaReq (rq : Nat) (kind : ReqKind) (a len : Nat) (data : List Byte) (cls : Nat) : Req :=
  ⟨rq, kind, a, len, data, 0, .none, 0, 0, cls, true, 0⟩

/-- The lines of a read served in turn; `find` is what the first one's read finds. -/
def Block.dmaLines (rq cls : Nat) (find : BankFind) : List (Nat × Nat) → Block → Block × Served
  | [], b => (b, .data [])
  | (a, n) :: ps, b =>
    match b.now (dmaReq rq .read a n [] cls) find with
    | (b, .data d) =>
      match Block.dmaLines rq cls .clean ps b with
      | (b, .data d') => (b, .data (d ++ d'))
      | r => r
    | r => r

/-- A read of `n` bytes by requester `rq` in class `cls`, line by line in the order of its targets' service (R199, R281): the bytes, an
error answer, or nothing yet where a line waits for a repair (R212). -/
def Block.dmaRead (b : Block) (rq cls a n : Nat) (find : BankFind) : Block × Served :=
  if !b.reachable a n then (b, .lost) else Block.dmaLines rq cls find (lineParts (n / 64 + 2) a n) b

/-- A posted write of one line has had its turn, unless its line is under repair, where it waits (R212). -/
def Block.dmaPut (rq cls : Nat) (d : List Byte) (b : Block) (p : Nat × Nat × Nat) : Block :=
  let b := b.post (dmaReq rq .write p.1 p.2.1 ((d.drop p.2.2).take p.2.1) cls)
  match b.target p.1 with
  | .carafe k => b.drainBank rq k
  | _ => b.drainDram rq

/-- A write by requester `rq` in class `cls`, which has had its turn at its targets when the command ends. -/
def Block.dmaWrite (b : Block) (rq cls a : Nat) (d : List Byte) : Block :=
  if d.isEmpty || !b.reachable a d.length then b
  else ((lineParts (d.length / 64 + 2) a d.length).map fun p => (p.1, p.2, p.1 - a)).foldl (Block.dmaPut rq cls d) b

/-- Requesters that have no place of their own at a bank's arbiter: the Intake's records, the digest arbiter and the Spare
Manager's image reads. -/
def rqIntake : Nat := 76
def rqDigest : Nat := 77
def rqMedia : Nat := 73
def rqHost : Nat := 72
def rqRing : Nat := 74

/-- The Vendor doorbell of logical engine `k` rung (R261, R501). -/
def Block.ringLe (b : Block) (k : Nat) : Block := b.event (72 + 2 * b.peOf k)

end Sys2Proof.Machine
end

