-- ==== Sys2Proof/Machine/Intake.lean ====
section
/-! DEFINITION. The Intake: allocation, rules, admission, dispatch, landing, engine operations, aborts, flushes, resets and
row errors (08, R216 to R245; R489 to R493). -/
namespace Sys2Proof.Machine

/-! ## Rows and rings -/

/-- Tag `t`. -/
def Block.tag (b : Block) (t : Nat) : Tag := b.intake.tags.get t Tag.free

/-- The Intake changed by a function. -/
def Block.modInt (b : Block) (f : Intake → Intake) : Block := { b with intake := f b.intake }

/-- Tag `t` given a row. -/
def Block.setTag (b : Block) (t : Nat) (x : Tag) : Block := b.modInt fun i => { i with tags := i.tags.put t x }

/-- Attributes (R220, R227). -/
def Tag.land (t : Tag) : Bool := t.attr.testBit 0
def Tag.energy (t : Tag) : Bool := t.attr.testBit 1
def Tag.autocpl (t : Tag) : Bool := t.attr.testBit 2
def Tag.flush (t : Tag) : Bool := t.attr.testBit 3

/-- The tag's row holds the allocation of a TSEQ; a tag never allocated holds none (R218, R228). -/
def Tag.isAlloc (t : Tag) (tseq : Nat) : Bool := t.tseq == tseq && t.tseq != 0

/-- A status field other than Success: SCT or SC is not 0. -/
def failed (status : Nat) : Bool := status % 2 ^ 11 != 0

/-- Lines of a ring that are held, skipped ones included. -/
def Ring.held (r : Ring) : Nat := r.exts.foldl (fun n e => n + e.lines) 0

/-- Whether a ring of `size` lines takes an extent of `n` lines, and how many lines before its end it skips (R225). -/
def Ring.fit (r : Ring) (size n : Nat) : Option Nat :=
  let left := size - r.next
  let skip := if n ≤ left then 0 else left
  if skip + n ≤ size - r.held then some skip else none

/-- An extent allocated: its first line, and the ring after it. -/
def Ring.take (r : Ring) (size n skip : Nat) (name : Nat → Nat) : Nat × Ring :=
  let at' := if skip = 0 ∧ r.next + n ≤ size then r.next else 0
  (at', ⟨at' + n, r.exts ++ [⟨name at', skip + n, false, none⟩]⟩)

/-- Space comes back in allocation order only (R225). -/
def Ring.settle (r : Ring) : Ring := { r with exts := r.exts.dropWhile (·.released) }

/-- The extent of a name released. -/
def Ring.release (r : Ring) (name : Nat) : Ring :=
  ({ r with exts := r.exts.map fun e => if e.name = name then { e with released := true } else e } : Ring).settle

/-- Lines of LE `k`'s staging ring; a ring that reaches past its bank takes no extent (R225). -/
def Block.stageSize (b : Block) (k : Nat) : Nat :=
  if b.get (R.INT_STG_BASE k) + b.get (R.INT_STG_SIZE k) ≤ 16 then 1024 * b.get (R.INT_STG_SIZE k) else 0

/-- LE `k`'s staging ring. -/
def Block.stageRing (b : Block) (k : Nat) : Ring := b.intake.rings.get k ⟨0, []⟩

/-- Where LE `k`'s ring starts in the Carafe. -/
def Block.stageBase (b : Block) (k : Nat) : Nat := b.get (R.INT_STG_BANK k) * 2 ^ 20 + b.get (R.INT_STG_BASE k) * 2 ^ 16

/-- The write buffer's start and lines (R226). -/
def Block.wbBase (b : Block) : Nat := b.getAddr R.INT_WB_LO_ADDR R.INT_WB_HI_ADDR
def Block.wbLines (b : Block) : Nat := 16384 * b.get R.INT_WBSIZE_SIZE

/-- INT_DHOR (R234): the smallest CSEQ, by signed difference, whose extent has not been released, else CSEQ + 1. -/
def Block.dhor (b : Block) : Nat :=
  let next := (b.get R.INT_CSEQ_CSEQ + 1) % 2 ^ 32
  b.intake.wb.exts.foldl (fun m e =>
    match e.cseq with
    | some c => if !e.released && decide (toSigned (c + 2 ^ 32 - m) 32 < 0) then c else m
    | none => m) next

/-- Tags of a class in ADMIT or QUEUED (INT_Qc.COUNT). -/
def Block.classCount (b : Block) (c : Nat) : Nat :=
  ((b.intake.admQ ++ b.intake.dispQ).filter fun t => (b.tag t).cls == c).length

/-! ## The Kettle's side of a tag (R221, R222, R230, R238) -/

/-- Something sent to the Kettle (R275). -/
def Block.toKettle (b : Block) (x : KetIn) : Block := { b with kettle := { b.kettle with moving := b.kettle.moving ++ [x] } }

/-- The first tag of a class in the admission queue. -/
def Block.admHead (b : Block) (c : Nat) : Option Nat := b.intake.admQ.find? fun t => (b.tag t).cls == c

/-- The tag whose reservation the Intake asks for (R221, R222): Admin first, then the earliest head that counts as Urgent,
then the highest class. -/
def Block.admChoice (b : Block) : Option Nat :=
  let aged := b.get R.INT_CTRL_AGE != 0
  let urgent := fun t =>
    let x := b.tag t
    b.admHead x.cls == some t && (x.cls == 1 || (aged && x.aged))
  match b.admHead 0 with
  | some t => some t
  | none =>
    match b.intake.admQ.find? urgent with
    | some t => some t
    | none => [2, 3, 4].findSome? b.admHead

/-- A reservation request is outstanding (R238). -/
def Block.reqOut (b : Block) : Bool := b.kettle.req.isSome || b.kettle.grant.isSome

/-- The Intake asks for one reservation at a time, none while HOLD is set or after the warning, when the Kettle keeps no request of
its either (R221, R238, R239, R288); HELD follows, and its first rise sets the event. -/
def Block.settleIntake (b : Block) : Block :=
  let hold := b.flag R.INT_CTRL_HOLD
  let b := if b.reqOut || hold || b.intake.warned || b.flag R.KET_STAT_PFWARN then b
    else match b.admChoice with
      | some t =>
        let x := b.tag t
        { b with kettle := { b.kettle with req := some ⟨t, x.tseq, x.len, none⟩ } }
      | none => b
  let held := hold && !b.reqOut
  let b := if held && !b.flag R.INT_STAT_HELD then b.raise R.INT_EVT_HELD else b
  b.put R.INT_STAT_HELD (bit held)

/-- The reservation of a tag that was never energy-backed goes back (R230). -/
def Block.giveBack (b : Block) (t : Nat) : Block :=
  let x := b.tag t
  if x.resv = .held then (b.setTag t { x with resv := .none }).toKettle (.release x.kres) else b

/-- A tag leaves its queue; a request outstanding for it is withdrawn (R230). -/
def Block.leaveQueues (b : Block) (t : Nat) : Block :=
  let b := match b.kettle.req with
    | some q => if q.tag = t then b.toKettle (.withdraw t q.tseq) else b
    | none => b
  b.modInt fun i => { i with admQ := i.admQ.filter (· != t), dispQ := i.dispQ.filter (· != t) }

/-! ## Dispatch records (R227) -/

/-- The address of a dispatch record. -/
def Block.recAddr (b : Block) (le slot : Nat) : Nat :=
  b.getAddr R.INT_DREC_LO_ADDR R.INT_DREC_HI_ADDR + le * 0x2000 + slot * 0x80

/-- The key of a record. -/
def recKey (le slot : Nat) : Nat := 64 * le + slot

/-- OUTCOME and DW0 as a record holds them. -/
def outcomeBytes (o : Nat × Nat) : List Byte := leBytes (o.1 + 2 ^ 31) 4 ++ leBytes o.2 4

/-- A posted write of the Intake to a dispatch record, in class P5 (R281); once P5 is closed it takes no entry anywhere (R288). -/
def Block.intWrite (b : Block) (a : Nat) (d : List Byte) : Block :=
  if b.kettle.warnFabric then b else b.post (dmaReq rqIntake .write a d.length d 5)

/-- The outcome of a decided tag put into its record. -/
def Block.recordOutcome (b : Block) (t : Nat) : Block :=
  let x := b.tag t
  let k := recKey x.le x.slot
  match b.intake.recs.look k with
  | some r =>
    if r.tag = t ∧ r.tseq = x.tseq then
      let b := b.modInt fun i => { i with recs := i.recs.put k { r with outcome := some (x.status, x.dw0) } }
      b.intWrite (b.recAddr x.le x.slot + 0x70) (outcomeBytes (x.status, x.dw0))
    else b
  | none => b

/-- The write buffer extent at an address released (R226). -/
def Block.releaseWb (b : Block) (a : Nat) : Block := b.modInt fun i => { i with wb := i.wb.release a }

/-! ## Deciding a completion (R230, R232) -/

/-- A tag enters POSTING with a status: its completion is decided, its reservation goes back unless it is energy-backed, and
the write buffer extent of a tag that failed is released (R226, R230). -/
def Block.toPosting (b : Block) (t status dw0 : Nat) (lost : Bool) : Block :=
  let b := (b.leaveQueues t).giveBack t
  let x := b.tag t
  let b := b.setTag t { x with st := 7, decided := true, status := status, dw0 := dw0, lost := lost }
  let b := (b.modInt fun i => { i with postQ := i.postQ ++ [t] }).recordOutcome t
  if failed status && x.wbuf != 0 then b.releaseWb x.wbuf else b

/-- An abort, a reset or a row error reaches an allocated tag that is not decided (R230): LANDING with an open transfer
waits in ABORTING. -/
def Block.endTag (b : Block) (t status : Nat) (lost : Bool) : Block :=
  let x := b.tag t
  if x.st = 3 ∧ x.dreq ∧ !x.tend then
    (b.giveBack t).modInt fun i =>
      { i with tags := i.tags.put t { b.tag t with st := 6, abst := status, lost := lost, resv := .none } }
  else b.toPosting t status 0 lost

/-- The states that an abort catches (R230, R232). -/
def Tag.catchable (x : Tag) : Bool := decide (1 ≤ x.st) && decide (x.st ≤ 5)

/-- What a row access finds (R242): a corrected error is counted, and a row that fails its write-back is to be moved; an
uncorrectable one decides the tag with Internal Error. -/
def Block.rowFind (b : Block) (t : Nat) (f : EccFind) : Block :=
  match f with
  | .clean => b
  | .correctable stays =>
    let b := ((b.incSat R.INT_TERR_CECNT 1).put R.INT_TERR_TAG t).clear R.INT_TERR_UE
    if stays then b.queueHw (.tagRow t) else b
  | .uncorrectable =>
    let b := ((b.raise R.INT_EVT_TUE).put R.INT_TERR_TAG t).raise R.INT_TERR_UE
    if (b.tag t).catchable && !b.intake.warned then b.endTag t 0x06 false else b

/-! ## Arrival (R216 to R223, R489) -/

/-- The action of rule `r` breaks no requirement for a data direction (R220). -/
def Block.ruleSound (b : Block) (r dir : Nat) : Bool :=
  let land := b.flag (R.INT_RULE_A_LAND r)
  let energy := b.flag (R.INT_RULE_A_ENERGY r)
  let auto := b.flag (R.INT_RULE_A_AUTOCPL r)
  (!land || dir == 1) && (!auto || (land && energy)) && (!b.flag (R.INT_RULE_A_FLUSH r) || !(land || energy || auto))

/-- Rule `r` matches a command (R220). -/
def Block.ruleMatches (b : Block) (r opc cls dir : Nat) (capns : Bool) : Bool :=
  let m := b.get (R.INT_RULE_M_OPCMASK r)
  b.flag (R.INT_RULE_M_VALID r) && b.ruleSound r dir && Nat.land opc m == Nat.land (b.get (R.INT_RULE_M_OPC r)) m &&
    (!b.flag (R.INT_RULE_M_ADMQCARE r) || b.flag (R.INT_RULE_M_ADMQ r) == (cls == 0)) &&
    (!b.flag (R.INT_RULE_M_CAPCARE r) || b.flag (R.INT_RULE_M_CAP r) == capns)

/-- The attributes of a rule as the record keeps them. -/
def Block.ruleAttr (b : Block) (r : Nat) : Nat :=
  b.get (R.INT_RULE_A_LAND r) + 2 * b.get (R.INT_RULE_A_ENERGY r) + 4 * b.get (R.INT_RULE_A_AUTOCPL r) +
    8 * b.get (R.INT_RULE_A_FLUSH r)

/-- The first free tag, and the Intake without it (R218). -/
def Intake.firstFree (i : Intake) : Option (Nat × Intake) :=
  if i.fresh < 65536 then some (i.fresh, { i with fresh := i.fresh + 1 })
  else match i.freed with
    | t :: q => some (t, { i with freed := q })
    | [] => none

/-- The command port accepts (R217, R239, R243, R485): CMD_READY, low while PD2 is off. -/
def Block.cmdReady (b : Block) : Bool :=
  !b.drips && b.flag R.INT_CTRL_EN && !b.flag R.INT_STAT_RSTACT && !b.intake.warned && !b.kettle.warnFabric &&
    b.intake.firstFree.isSome

/-- A (SQID, CID) pair belongs to an allocated tag (R219, R228): the tag the index holds, which is not one that conflicted. -/
def Block.findPair (b : Block) (sqid cid : Nat) : Option Nat :=
  let hits := b.intake.tags.filter fun p => p.2.st != 0 && p.2.sqid == sqid && p.2.cid == cid
  ((hits.find? fun p => !p.2.dup).orElse fun _ => hits.head?).map (·.1)

/-- A command as it is allocated (R218, R220, R229, R235). -/
def Block.newTag (b : Block) (old : Tag) (sqe : List Byte) (cls sqid : Nat) (capns : Bool) (dir clen : Nat) : Tag :=
  let opc := leNat (sqe.take 1)
  let rule := (List.range 8).find? fun r => b.ruleMatches r opc cls dir capns
  let attr := (rule.map b.ruleAttr).getD 0
  { Tag.free with
    cls := cls, tseq := if old.tseq = 0xFFFF then 1 else old.tseq + 1, attr := attr, rule := rule, sqid := sqid,
    cid := leNat ((sqe.drop 2).take 2), nsid := leNat ((sqe.drop 4).take 4), slba := leNat ((sqe.drop 40).take 8),
    len := clen, sqe := sqe, group := (rule.map fun r => b.get (R.INT_RULE_A_GROUP r)).getD 0,
    ftarget := if attr.testBit 3 then b.get R.INT_CSEQ_CSEQ else 0 }

/-- A length mismatch counted (R223). -/
def Block.lengthError (b : Block) : Block := (b.raise R.INT_EVT_LENERR).inc R.INT_LENCNT_COUNT 1

/-- A command allocated (R218 to R223). -/
def Block.allocate (b : Block) (sqe : List Byte) (cls sqid : Nat) (capns : Bool) (dir clen xlen : Nat) (row : EccFind) :
    Block :=
  match b.intake.firstFree with
  | none => b
  | some (t, i) =>
    let x := b.newTag (b.tag t) sqe cls sqid capns dir clen
    let dup := (b.findPair sqid x.cid).isSome
    let n := b.get R.INT_STAT_INUSE + 1
    let b := ({ b with intake := i }).put R.INT_STAT_INUSE n
    let b := if n = b.get R.INT_HWM_HWM then b.raise R.INT_EVT_HWM else b
    let b :=
      if dup then ((b.setTag t { x with dup := true }).toPosting t 0x03 0 false).raise R.INT_EVT_DUPCID
      else if x.land && decide (clen ≠ xlen) then ((b.setTag t x).toPosting t 0x0F 0 false).lengthError
      else if x.energy then (b.setTag t { x with st := 1 }).modInt fun i => { i with admQ := i.admQ ++ [t] }
      else (b.setTag t { x with st := 2 }).modInt fun i => { i with dispQ := i.dispQ ++ [t] }
    (b.countGlob 0x02 1).rowFind t row

/-- COMMAND_ARRIVAL (R216, R489): the command port presents a command; while CMD_READY is low the front end holds it and
nothing changes. -/
def execCommandArrival (sqe : BitVec 512) (cls : BitVec 3) (sqid : BitVec 16) (capns : Bool) (dir : BitVec 2)
    (clen xlen : W32) (row : EccFind) (s : State) : Host.Outcome State Fault Refusal :=
  let b := s.blk
  done s <|
    if b.cmdReady then
      (b.allocate (leBytes sqe.toNat 64) cls.toNat sqid.toNat capns dir.toNat clen.toNat xlen.toNat row).settleIntake
    else b

/-! ## Admission (R221, R222, R230) -/

/-- ADMISSION_AGEING (R222): the head of a class has waited AGE microseconds; with AGE = 0 nothing ages. -/
def execAdmissionAgeing (cls : BitVec 3) (s : State) : Host.Outcome State Fault Refusal :=
  let b := s.blk
  done s <|
    if b.get R.INT_CTRL_AGE = 0 then b
    else match b.admHead cls.toNat with
      | some t => (b.setTag t { b.tag t with aged := true }).settleIntake
      | none => b

/-- AGE has changed from `old` (R222): a head that counted as Urgent by a shorter wait is told of again once it has waited the longer
one. -/
def Block.reAge (b : Block) (old : Nat) : Block :=
  if old < b.get R.INT_CTRL_AGE then
    b.intake.admQ.foldl (fun b t => b.setTag t { b.tag t with aged := false }) b
  else b

/-- ADMISSION_GRANT (R230): the grant reaches the Intake; a tag that has left ADMIT gives it back. -/
def execAdmissionGrant (s : State) : Host.Outcome State Fault Refusal :=
  let b := s.blk
  done s <|
    match b.kettle.grant with
    | none => b
    | some (t, tseq, r) =>
      let b := { b with kettle := { b.kettle with grant := none } }
      let x := b.tag t
      if b.intake.warned then b
      else if x.st = 1 ∧ x.tseq = tseq then
        let b := b.setTag t { x with st := 2, kres := r, resv := .held }
        (b.modInt fun i => { i with admQ := i.admQ.filter (· != t), dispQ := i.dispQ ++ [t] }).settleIntake
      else (b.toKettle (.release r)).settleIntake

/-! ## Dispatch (R224 to R227) -/

/-- The logical engines of a group (R224). -/
def Block.members (b : Block) (g : Nat) : List Nat :=
  (List.range 64).filter fun k =>
    if k < 32 then (b.get (R.INT_GRP_LO_MASK g)).testBit k else (b.get (R.INT_GRP_HI_MASK g)).testBit (k - 32)

/-- The head that a group would serve: its highest non-empty class (R224). -/
def Block.groupHead (b : Block) (g : Nat) : Option Nat :=
  (List.range 5).findSome? fun c => b.intake.dispQ.find? fun t => (b.tag t).group == g && (b.tag t).cls == c

/-- The lowest free record slot of a logical engine (R227). -/
def Block.freeSlot (b : Block) (k : Nat) : Option Nat :=
  (List.range 64).find? fun s => (b.intake.recs.look (recKey k s)).isNone

/-- Lines of an extent of CLEN bytes (R224). -/
def linesOf (len : Nat) : Nat := (len + 63) / 64

/-- Member `k` can take a tag (R224). -/
def Block.canTake (b : Block) (x : Tag) (k : Nat) : Bool :=
  (b.freeSlot k).isSome && (!x.land || (((b.stageRing k).fit (b.stageSize k) (linesOf x.len)).isSome &&
    decide (0 < b.stageSize k) && (b.intake.wb.fit b.wbLines (linesOf x.len)).isSome && decide (0 < b.wbLines)))

/-- The member that a group's head goes to: the first after the group's last choice (R224). -/
def Block.chooseMember (b : Block) (g : Nat) (x : Tag) : Option Nat :=
  let ms := b.members g
  let last := b.intake.lastMember.get g 63
  ((ms.filter (last < ·)) ++ (ms.filter (· ≤ last))).find? fun k => b.canTake x k

/-- The status with which R224 refuses a group's head, if it does. -/
def Block.refusal (b : Block) (g : Nat) (x : Tag) : Option Nat :=
  let ms := b.members g
  if ms.isEmpty then some 0x01
  else if x.land && ms.all fun k => decide (65536 * b.get (R.INT_STG_SIZE k) < x.len) then some 0x02
  else none

/-- The 112 fixed bytes of a dispatch record (R227). -/
def Tag.record (t : Nat) (x : Tag) : List Byte :=
  x.sqe ++ leBytes t 2 ++ leBytes x.tseq 2 ++ leBytes x.cls 1 ++ leBytes (x.rule.getD 0xFF) 1 ++ leBytes x.attr 1 ++ [0] ++
    leBytes x.sqid 2 ++ [0, 0] ++ leBytes x.len 4 ++ leBytes x.stage 8 ++ leBytes x.wbuf 8 ++ leBytes x.ftarget 8 ++
    leBytes x.kres 4 ++ [0, 0, 0, 0]

/-- A tag given its record slot and, for LAND, its two extents at member `k` (R225 to R227). -/
def Block.place (b : Block) (t k : Nat) : Block :=
  let x := b.tag t
  let slot := (b.freeSlot k).getD 0
  let n := linesOf x.len
  let ring := b.stageRing k
  let st := ring.take (b.stageSize k) n ((ring.fit (b.stageSize k) n).getD 0) fun _ => slot
  let base := b.wbBase
  let wb := b.intake.wb.take b.wbLines n ((b.intake.wb.fit b.wbLines n).getD 0) fun l => base + 64 * l
  let x := { x with st := if x.land then 3 else 5, le := k, slot := slot }
  let x := if x.land then { x with stage := b.stageBase k + 64 * st.1, wbuf := base + 64 * wb.1 } else x
  let b := (b.setTag t x).modInt fun i => { i with
    dispQ := i.dispQ.filter (· != t)
    recs := i.recs.put (recKey k slot) ⟨t, x.tseq, i.order, x.record t, false, false, none, !b.kettle.warnFabric⟩
    order := i.order + 1 }
  let b := if x.land then b.modInt fun i => { i with rings := i.rings.put k st.2, wb := wb.2 } else b
  let d := x.record t ++ List.replicate 16 0
  (b.intWrite (b.recAddr k slot) (d.take 64)).intWrite (b.recAddr k slot + 64) (d.drop 64)

/-- A pair put in its place among pairs in ascending order of their first part. -/
def insertFst (p : Nat × Nat) : List (Nat × Nat) → List (Nat × Nat)
  | [] => [p]
  | q :: qs => if p.1 ≤ q.1 then p :: q :: qs else q :: insertFst p qs

/-- The heads that R224 refuses in this cycle, with their statuses, in ascending tag number. -/
def Block.refusedHeads (b : Block) : List (Nat × Nat) :=
  ((List.range 8).filterMap fun g => (b.groupHead g).bind fun t => (b.refusal g (b.tag t)).map (t, ·)).foldr insertFst []

/-- Heads that R224 refuses complete at once, in the order of R230. -/
def Block.refuseHeads (b : Block) : Block :=
  b.refusedHeads.foldl (fun b p => (b.toPosting p.1 p.2 0 false).raise R.INT_EVT_NOFIT) b

/-- DISPATCH (R224): one command at most; the group after the last dispatch's comes first. `row` is what the dispatched
tag's row access finds (R242). -/
def execDispatch (row : EccFind) (s : State) : Host.Outcome State Fault Refusal :=
  let b := s.blk
  done s <|
    if b.flag R.INT_CTRL_HOLD || b.intake.warned then b
    else
      let b := b.refuseHeads
      let order := (List.range 8).map fun i => (b.intake.lastGroup + 1 + i) % 8
      match order.findSome? fun g => (b.groupHead g).bind fun t => (b.chooseMember g (b.tag t)).map (g, t, ·) with
      | none => b
      | some (g, t, k) =>
        let b := b.rowFind t row
        if (b.tag t).st ≠ 2 then b
        else (b.place t k).modInt fun i => { i with lastGroup := g, lastMember := i.lastMember.put g k }

/-- DISPATCH_RECORD_WRITTEN (R227): the record's write has taken effect; INQ rises, and a LAND tag still in LANDING has its
data requested. A write that P5's closing kept from being sent never takes effect (R288). -/
def execDispatchRecordWritten (le : LE) (slot : BitVec 6) (s : State) : Host.Outcome State Fault Refusal :=
  let b := s.blk
  let key := recKey le slot.toNat
  done s <|
    match b.intake.recs.look key with
    | none => b
    | some r =>
      if r.visible || !r.sent then b
      else
        let b := b.drainFor rqIntake (b.recAddr le slot.toNat)
        let x := b.tag r.tag
        if b.waitsAt rqIntake (b.recAddr le slot.toNat) then b
        else
        let b := b.modInt fun i => { i with recs := i.recs.put key { r with visible := true } }
        if x.land && x.st == 3 && x.tseq == r.tseq && !b.intake.warned then
          b.modInt fun i => { i with drqQ := i.drqQ ++ [.transfer r.tag r.tseq] }
        else b

/-- Condition INQ of logical engine `k` (R40, R227): a record that is visible and not taken. -/
def Block.inq (b : Block) (k : Nat) : Bool :=
  b.intake.recs.any fun p => p.1 / 64 == k && p.2.visible && !p.2.taken

/-- Bytes of a tag's extent whose landing writes the bank has served (R228). -/
def Block.landed (b : Block) (x : Tag) : Nat :=
  let rest := (b.bankAt (x.stage / 2 ^ 20)).waiting.filterMap fun q =>
    match q.kind with
    | .landing _ => if x.stage ≤ q.addr ∧ q.addr < x.stage + x.rx then some (q.addr - x.stage) else none
    | _ => none
  rest.foldl min x.rx

/-- Requested bytes of a port not yet landed (R493). -/
def Block.portLoad (b : Block) (p : Nat) : Nat :=
  (b.intake.tags.filter fun t => t.2.dreq && !t.2.tend && t.2.port == p).foldl (fun n t => n + (t.2.len - t.2.rx)) 0

/-- DATA_REQUEST_SENT (R227, R230, R493): the oldest waiting data request transfers on the port with fewer bytes still to
land; a request whose tag has left LANDING is never sent. -/
def execDataRequestSent (s : State) : Host.Outcome State Fault Refusal :=
  let b := s.blk
  done s <|
    match b.intake.drqQ with
    | [] => b
    | q :: rest =>
      let b := b.modInt fun i => { i with drqQ := rest }
      let port := if b.portLoad 1 < b.portLoad 0 then 1 else 0
      let send := fun (b : Block) tag off len kind => { b with ports := { b.ports with drq := some (port, tag, off, len, kind) } }
      match q with
      | .transfer t tseq =>
        let x := b.tag t
        if x.st = 3 ∧ x.tseq = tseq ∧ !b.intake.warned then
          send (b.setTag t { x with dreq := true, port := port }) t 0 x.len false
        else b
      | .refetch t off k l =>
        send (b.modInt fun i => { i with refetch := i.refetch ++ [(t, off, k, l)] }) t off 64 true

/-! ## Landing (R231, R232, R241, R493) -/

/-- The runs of enabled bytes of a beat: offset and bytes. -/
def runsFrom : Nat → List (Byte × Bool) → List (Nat × List Byte)
  | _, [] => []
  | i, (v, true) :: t =>
    match runsFrom (i + 1) t with
    | (j, d) :: r => if j = i + 1 then (i, v :: d) :: r else (i, [v]) :: (j, d) :: r
    | [] => [(i, [v])]
  | i, (_, false) :: t => runsFrom (i + 1) t

/-- The enabled bytes of a beat. -/
def beatRuns (data : BitVec 512) (ben : BitVec 64) : List (Nat × List Byte) :=
  runsFrom 0 ((leBytes data.toNat 64).zip ((List.range 64).map ben.getLsbD))

/-- A beat of a tag in LANDING written to the staging bank and to the write buffer (R24, R210, R493). -/
def Block.landBeat (b : Block) (t off : Nat) (data : BitVec 512) (ben : BitVec 64) : Block :=
  let x := b.tag t
  if 64 * linesOf x.len < off + 64 then b
  else
    let whole := ben == BitVec.allOnes 64
    let src := if whole then some ((x.wbuf + off - dramBase) / 64) else none
    let b := (beatRuns data ben).foldl (fun b r =>
      let a := x.stage + off + r.1
      let b := if (b.bankFault a r.2.length).isNone then
          b.post (dmaReq rqHost (.landing src) a r.2.length r.2 4) else b
      b.post (dmaReq rqHost .write (x.wbuf + off + r.1) r.2.length r.2 4)) b
    (b.countGlob 0x0C 1).setTag t { x with rx := min x.len (max x.rx (off + 64)) }

/-- The transfer end of a tag's data (R223, R230, R493). -/
def Block.endBeat (b : Block) (t err : Nat) : Block :=
  let x := b.tag t
  let b := b.setTag t { x with tend := true }
  if x.st = 6 then b.toPosting t x.abst 0 x.lost
  else if x.st = 3 then
    match err with
    | 1 => (b.endTag t 0x0F true).lengthError
    | 2 => b.endTag t 0x04 true
    | _ => b
  else b

/-- A refetched line landed in both copies (R211, R241): HOSTRF, and the bank starts its repair again; discarded where the tag has
moved on. -/
def Block.landRefetch (b : Block) (t off k line : Nat) (data : BitVec 512) (err : Nat) : Block :=
  let x := b.tag t
  let b := b.modInt fun i => { i with refetch := i.refetch.filter (· != (t, off, k, line)) }
  if (x.st = 3 ∨ x.st = 4) ∧ err = 0 then
    let d := leBytes data.toNat 64
    let b := b.dmaWrite rqHost 4 (x.wbuf + off) d
    let b := b.store rqHost (k * 2 ^ 20 + line * 64) d (some ((x.wbuf + off - dramBase) / 64))
    (b.handRepair k line false).raise (R.CB_EVT_HOSTRF k)
  else
    let b := b.bankDead k line
    if err = 2 ∧ (x.st = 3 ∨ x.st = 4) then b.endTag t 0x04 true else b

/-- LANDING_BEAT (R231, R288, R493): an inbound beat of a tag's transfer or of a refetch. Beats of a tag that is not in
LANDING are written nowhere; after the warning every beat is discarded. -/
def execLandingBeat (tag : BitVec 16) (off : W32) (data : BitVec 512) (ben : BitVec 64) (fin : Bool) (err : BitVec 2)
    (row : EccFind) (s : State) : Host.Outcome State Fault Refusal :=
  let b := s.blk
  let t := tag.toNat
  let o := off.toNat / 64 * 64
  done s <|
    if b.intake.warned then b
    else match b.intake.refetch.find? fun r => r.1 == t && r.2.1 == o with
      | some (_, _, k, l) => (b.landRefetch t o k l data err.toNat).settleIntake
      | none =>
        let b := b.rowFind t row
        let b := if (b.tag t).st = 3 then b.landBeat t o data ben else b
        (if fin then b.endBeat t err.toNat else b).settleIntake

/-- An AUTOCPL write's completion decided with Success takes the next CSEQ (R234). -/
def Block.takeCseq (b : Block) (t : Nat) : Block :=
  let c := (b.get R.INT_CSEQ_CSEQ + 1) % 2 ^ 32
  let x := b.tag t
  let b := (b.put R.INT_CSEQ_CSEQ c).setTag t { x with cseq := c }
  b.modInt fun i => { i with wb := { i.wb with
    exts := i.wb.exts.map fun e => if e.name = x.wbuf ∧ !e.released then { e with cseq := some c } else e } }

/-- LAST_BEAT_HELD (R230, R232): every byte of a tag's data is held in the write buffer. -/
def execLastBeatHeld (tag : BitVec 16) (s : State) : Host.Outcome State Fault Refusal :=
  let b := s.blk
  let t := tag.toNat
  let x := b.tag t
  done s <|
    if b.intake.warned || x.st != 3 || decide (x.rx < x.len) || !x.dreq then b
    else
      let b := b.drainDram rqHost
      let b := b.setTag t { x with resv := if x.resv = .held then .backed else x.resv }
      if x.autocpl then (b.takeCseq t).toPosting t 0 0 false
      else b.setTag t { b.tag t with st := 4 }

/-! ## Engine operations (R228, R288) -/

/-- The logical engine that the strobe's engine runs. -/
def Block.strobeLe (b : Block) (q : Strobe) : Nat := (b.leOf q.pe).getD 0

/-- TAKE's answer for a record. -/
def takeAnswer (slot : Nat) (r : Rec) : W64 := BitVec.ofNat 64 (r.tag + 2 ^ 16 * r.tseq + 2 ^ 32 * slot)

/-- TAKE (R228). -/
def Block.opTake (b : Block) (q : Strobe) : Block × Except Nat W64 :=
  let k := b.strobeLe q
  if q.b.getLsbD 0 then
    let from' := b.intake.retake.get k 0
    match (List.range 64).find? fun s => decide (from' ≤ s) && ((b.intake.recs.look (recKey k s)).map (·.taken)).getD false with
    | some s =>
      let b := b.modInt fun i => { i with retake := i.retake.put k (s + 1) }
      (b, match b.intake.recs.look (recKey k s) with
        | some r => .ok (takeAnswer s r)
        | none => .error 1)
    | none => (b.modInt fun i => { i with retake := i.retake.put k 0 }, .error 1)
  else
    let mine := b.intake.recs.filter fun p => p.1 / 64 == k && p.2.visible && !p.2.taken
    let oldest := mine.foldl (fun (w : Option (Nat × Rec)) p =>
      match w with
      | some v => if p.2.order < v.2.order then some p else w
      | none => some p) none
    match oldest with
    | none => (b, .error 1)
    | some (key, r) =>
      let b := b.modInt fun i => { i with recs := i.recs.put key { r with taken := true } }
      let x := b.tag r.tag
      let b := if x.tseq = r.tseq ∧ !b.intake.warned then b.setTag r.tag { x with taken := true } else b
      (b, .ok (takeAnswer (key % 64) r))

/-- A tag's write is acknowledged (R287). -/
def Tag.acked (x : Tag) : Bool := x.decided && !failed x.status

/-- LANDED (R228, R288). -/
def Block.opLanded (b : Block) (q : Strobe) : Block × Except Nat W64 :=
  let x := b.tag (q.a.toNat % 2 ^ 16)
  if !x.isAlloc (q.b.toNat % 2 ^ 16) then (b, .ok (BitVec.ofNat 64 (2 ^ 32)))
  else if x.st = 6 ∨ (x.decided ∧ failed x.status) ∨ (b.intake.warned ∧ !x.acked) then (b, .error 2)
  else (b, .ok (BitVec.ofNat 64 (b.landed x)))

/-- COMPLETE (R228, R288). `row` is what the tag's row access finds (R242). -/
def Block.opComplete (row : EccFind) (q : Strobe) (b : Block) : Block × Except Nat W64 :=
  let t := q.a.toNat % 2 ^ 16
  if b.intake.warned then (b, .error 4)
  else if !(b.tag t).isAlloc (q.a.toNat / 2 ^ 16 % 2 ^ 16) then (b, .error 3)
  else
    let b := b.rowFind t row
    let x := b.tag t
    if x.st = 6 ∨ (x.decided ∧ x.lost) then (b, .error 4)
    else if x.decided then (b, .error 5)
    else if x.st = 4 ∨ x.st = 5 then
      ((b.toPosting t (q.b.toNat % 2 ^ 15) (q.b.toNat / 2 ^ 32) false).settleIntake, .ok 0)
    else (b, .error 9)

/-- ABORT (R228, R232, R288); after the warning it answers NOT_CAUGHT also where no tag has the pair, with a free tag number, as the
spec states none (log entry 29). -/
def Block.opAbort (b : Block) (q : Strobe) : Block × Except Nat W64 :=
  match b.findPair (q.a.toNat / 2 ^ 16 % 2 ^ 16) (q.a.toNat % 2 ^ 16) with
  | none =>
    if b.intake.warned then
      ((b.incSat R.INT_ABCNT_NOTCAUGHT 1).drawn, .ok (BitVec.ofNat 64 (1 + 2 ^ 16 * (b.freeWord.toNat % 2 ^ 16))))
    else (b, .ok 2)
  | some t =>
    let answer := fun (c : Nat) => BitVec.ofNat 64 (c + 2 ^ 16 * t)
    if (b.tag t).catchable && !b.intake.warned then
      let b := (b.endTag t 0x07 true).settleIntake
      ((b.incSat R.INT_ABCNT_CAUGHT 1).raise R.INT_EVT_ABORTC, .ok (answer 0))
    else (b.incSat R.INT_ABCNT_NOTCAUGHT 1, .ok (answer 1))

/-- RELEASE (R228): the record slot and the staging extent are freed. -/
def Block.opRelease (b : Block) (q : Strobe) : Block × Except Nat W64 :=
  let k := b.strobeLe q
  let slot := q.a.toNat % 64
  match b.intake.recs.look (recKey k slot) with
  | none => (b, .error 7)
  | some r =>
    if !r.taken then (b, .error 7)
    else match r.outcome with
      | none => (b, .error 6)
      | some o =>
        (b.modInt fun i => { i with
          recs := i.recs.del (recKey k slot)
          rings := i.rings.put k ((i.rings.get k ⟨0, []⟩).release slot) }, .ok (BitVec.ofNat 64 (o.1 + 2 ^ 32 * o.2)))

/-- INTAKE_TAKE (R228). -/
def execIntakeTake (n : PE) (s : State) : Host.Outcome State Fault Refusal :=
  done s (s.blk.extServe n 0x40 (some 8) fun q b => b.opTake q)

/-- INTAKE_LANDED (R228). -/
def execIntakeLanded (n : PE) (s : State) : Host.Outcome State Fault Refusal :=
  done s (s.blk.extServe n 0x41 (some 8) fun q b => b.opLanded q)

/-- INTAKE_COMPLETE (R228). -/
def execIntakeComplete (n : PE) (row : EccFind) (s : State) : Host.Outcome State Fault Refusal :=
  done s (s.blk.extServe n 0x42 (some 8) (Block.opComplete row))

/-- INTAKE_ABORT (R232). -/
def execIntakeAbort (n : PE) (s : State) : Host.Outcome State Fault Refusal :=
  done s (s.blk.extServe n 0x43 (some 8) fun q b => b.opAbort q)

/-- INTAKE_RELEASE (R228). -/
def execIntakeRelease (n : PE) (s : State) : Host.Outcome State Fault Refusal :=
  done s (s.blk.extServe n 0x44 (some 8) fun q b => b.opRelease q)

/-! ## Posting, flush, reset (R218, R230, R234 to R236, R491) -/

/-- A tag returns to FREE and to the tail of the free list; one whose row could not be moved is retired (R218, R316). -/
def Block.freeTag (b : Block) (t : Nat) : Block :=
  let b := (b.setTag t { b.tag t with st := 0 }).put R.INT_STAT_INUSE (b.get R.INT_STAT_INUSE - 1)
  if b.intake.retiring.contains t then
    let b := if b.get R.SPM_TAGSP_RETIRED = 0 then b.raise R.SPM_EVT_TAGSP else b
    ((b.inc R.SPM_TAGSP_RETIRED 1).modInt fun i => { i with retiring := i.retiring.filter (· != t) }).live [mirTags]
  else b.modInt fun i => { i with freed := i.freed ++ [t] }

/-- COMPLETION_POSTED (R230, R491): the oldest decided completion transfers; after the warning none is posted, as P1 takes no entry (R239, R288). -/
def execCompletionPosted (s : State) : Host.Outcome State Fault Refusal :=
  let b := s.blk
  done s <|
    match b.intake.postQ with
    | [] => b
    | t :: q =>
      if b.intake.warned || b.kettle.warnFabric then b
      else
        let x := b.tag t
        let b := b.modInt fun i => { i with postQ := q }
        ({ b with ports := { b.ports with cpl := some (x.sqid, x.cid, x.status, x.dw0) } }.countGlob 0x03 1).freeTag t

/-- FLUSH_COMPLETE (R235): every FLUSH in WORK whose FTARGET INT_DHOR has passed completes with Success. -/
def execFlushComplete (s : State) : Host.Outcome State Fault Refusal :=
  let b := s.blk
  let d := b.dhor
  let due := b.intake.tags.filter fun p =>
    p.2.st == 5 && p.2.flush && decide (0 < toSigned (d + 2 ^ 32 - p.2.ftarget) 32)
  done s <| if b.intake.warned then b else due.foldl (fun b p => b.toPosting p.1 0 0 false) b

/-- CONTROLLER_RESET (R236, R487): an FE_CRST pulse; one while RSTACT = 1 is ignored. -/
def execControllerReset (s : State) : Host.Outcome State Fault Refusal :=
  let b := s.blk
  done s <|
    if b.flag R.INT_STAT_RSTACT then b
    else
      let b := b.raise R.INT_STAT_RSTACT
      if b.intake.warned then b
      else ((b.intake.tags.filter fun p => p.2.catchable).foldl (fun b p => b.endTag p.1 0x08 true) b).settleIntake

/-- CONTROLLER_RESET_DONE (R236): every tag is FREE and every transfer has ended. -/
def execControllerResetDone (s : State) : Host.Outcome State Fault Refusal :=
  let b := s.blk
  done s <|
    if b.flag R.INT_STAT_RSTACT && (b.intake.tags.all fun p => p.2.st == 0) && b.intake.refetch.isEmpty then
      (b.clear R.INT_STAT_RSTACT).raise R.INT_EVT_RSTDONE
    else b

/-! ## Second source and write buffer releases (R26, R226, R241) -/

/-- SECOND_SOURCE_LOOKUP (R241): bank `k` has handed on a write-buffer line; a tag in LANDING or LANDED that holds it has
the range fetched again, and without one the line has no second source (R213). -/
def execSecondSourceLookup (k : BankId) (s : State) : Host.Outcome State Fault Refusal :=
  let b := s.blk
  done s <|
    match (b.bankAt k).repairing true with
    | some l => match (b.bankAt k).src.look l with
      | some wb =>
        let a := dramBase + 64 * wb
        match b.intake.tags.find? fun p => (p.2.st == 3 || p.2.st == 4) && p.2.land && decide (p.2.wbuf ≤ a) &&
            decide (a < p.2.wbuf + p.2.len) with
        | some (t, x) =>
          if b.intake.drqQ.contains (.refetch t (a - x.wbuf) k l) || b.intake.refetch.contains (t, a - x.wbuf, k.val, l) then b
          else b.modInt fun i => { i with drqQ := i.drqQ ++ [.refetch t (a - x.wbuf) k l] }
        | none => b.bankDead k l
      | none => b.bankDead k l
    | none => b

/-- WRITE_BUFFER_RELEASE (R26, R226): the oldest release of the Media Port or of a spill becomes usable at the Intake. -/
def execWriteBufferRelease (s : State) : Host.Outcome State Fault Refusal :=
  let b := s.blk
  done s <|
    match b.intake.wbRel with
    | [] => b
    | (a, _) :: q => (b.modInt fun i => { i with wbRel := q }).releaseWb a

/-! ## Tag rows (R229, R316) -/

/-- The state word (R229). -/
def Tag.stateWord (x : Tag) : Nat :=
  x.st + 2 ^ 4 * x.cls + 2 ^ 7 * bit x.taken + 2 ^ 8 * x.tseq + 2 ^ 24 * x.le + 2 ^ 30 * bit x.tend + 2 ^ 31 * bit x.dreq +
    2 ^ 32 * x.attr + 2 ^ 39 * (x.rule.getD 0) + 2 ^ 42 * bit x.rule.isSome + 2 ^ 48 * x.slot

/-- The 64 bytes of a row (R229). -/
def Block.tagRow (b : Block) (t : Nat) : List Byte :=
  let x := b.tag t
  leBytes x.stateWord 8 ++ leBytes x.sqid 2 ++ leBytes x.cid 2 ++ leBytes x.nsid 4 ++ leBytes x.slba 8 ++ leBytes x.len 4 ++
    leBytes (b.landed x) 4 ++ leBytes x.stage 8 ++ leBytes x.wbuf 8 ++ leBytes x.kres 4 ++ leBytes x.cseq 4 ++
    leBytes (x.status + 2 ^ 31 * bit x.decided) 4 ++ leBytes x.dw0 4

/-- Bytes of the tag table window (R229). -/
def Block.tagBytes (b : Block) (off n : Nat) : List Byte :=
  ((b.tagRow (off / 64) ++ b.tagRow (off / 64 + 1)).drop (off % 64)).take n

/-- The Intake's part of a tag-row move (R316): the lowest spare row, or the tag is retired when next freed. -/
def Block.spareTagRow (t : Nat) (b : Block) : Block :=
  if b.get R.SPM_TAGSP_USED < 1312 then
    ((b.inc R.SPM_TAGSP_USED 1).modInt fun i => { i with rowMap := i.rowMap ++ [t] }).live [mirTags]
  else b.modInt fun i => { i with retiring := if i.retiring.contains t then i.retiring else i.retiring ++ [t] }

/-- The Intake's registers that R244 protects: record area and write buffer while a tag is allocated, LE `k`'s ring while
one of its extents is held. -/
def Block.stageLocked (b : Block) (k : Nat) : Bool := !(b.stageRing k).exts.isEmpty

/-- A reset of the Intake (R218, R240, R456). -/
def Block.resetIntake (b : Block) : Block := { b with intake := Intake.reset }

end Sys2Proof.Machine
end

