-- ==== Sys2Proof/Machine/Kettle.lean ====
section
/-! DEFINITION. The Kettle and the Percolator: sensing, stored energy, reservations, the power-fail warning, classes (10,
R269 to R294). -/
namespace Sys2Proof.Machine

/-- The Kettle's own state changed. -/
def Block.modKet (b : Block) (f : Kettle → Kettle) : Block := { b with kettle := f b.kettle }

/-- TNOW (R376). -/
def Block.tnow (b : Block) : Nat := b.get64 R.TNOW_LO_TNOW R.TNOW_HI_TNOW

/-! ## Percolator classes (R281, R282, R285) -/

/-- The classes of the requests under way: waiting at a bank or the DRAM Port, presented, or answered and not arrived. -/
def Block.outstanding (b : Block) : List Nat :=
  (b.bank.flatMap fun p => p.2.waiting.map (·.cls)) ++ b.dram.waiting.map (·.cls) ++ b.dram.presented.map (·.cls) ++
    b.resps.map (·.cls)

/-- No request of a class is under way. -/
def Block.noneOf (b : Block) (c : Nat) : Bool := b.outstanding.all (· != c)

/-- PERC_STAT.EMPTY (R285), bit `c` for class P`c`; P4 has the READ and MREAD descriptors and the debug bus accesses too (R281). -/
def Block.percEmpty (b : Block) : Nat :=
  let m := b.media
  let p0 := (m.accepted.all fun a => a.desc.op != 1 && a.desc.op != 4) && m.jclosed.isEmpty
  let p1 := b.intake.postQ.isEmpty
  let p2 := !b.flag R.MP_STAT_JSTALL && (m.jopen.all fun j => j.count == 0) && b.noneOf 2
  let p4 := (m.accepted.all fun a => a.desc.op != 2 && a.desc.op != 3) && b.tap.acc.isNone && b.noneOf 4
  let p5 := b.intake.admQ.isEmpty && b.intake.dispQ.isEmpty && (b.intake.recs.all fun r => r.2.visible) && b.noneOf 5
  bit p0 + 2 * bit p1 + 4 * bit p2 + 8 * bit (b.noneOf 3) + 16 * bit p4 + 32 * bit p5

/-! ## Status (R272, R278, R291) -/

/-- A status bit that follows its condition, its event set at a rise. -/
def Block.follow (b : Block) (stat evt : Fld) (v : Bool) : Block :=
  let b := if v && !b.flag stat then b.raise evt else b
  b.put stat (bit v)

/-- What follows E, RESV and the budget in every AON cycle (R272, R278, R285, R291). -/
def Block.settleKettle (b : Block) : Block :=
  let k := b.kettle
  let resv := b.get R.KET_RESV_RESV
  let b := (b.put R.KET_HEAD_HEAD (k.budget - resv)).put R.KET_STAT_WAITING (bit k.req.isSome)
  let b := b.follow R.KET_STAT_DEFICIT R.KET_EVT_DEFICIT (decide (k.budget < resv))
  let b := b.follow R.KET_STAT_LOWBANK R.KET_EVT_LOWBANK (decide (b.get R.KET_E_E < b.get R.KET_LOWE_LOWE))
  let warn := b.flag R.KET_STAT_PFWARN
  let b := b.follow R.KET_STAT_DRAINED R.KET_EVT_DRAINED (warn && b.percEmpty % 16 == 15)
  b.follow R.KET_STAT_RAILOK R.KET_EVT_RAILOK (warn && decide (b.get R.KET_PF_PFN < k.good))

/-- The request pending at the Kettle goes (R279, R288): THROTTLE clears. -/
def Block.dropRequest (b : Block) : Block := (b.modKet fun k => { k with req := none }).clear R.KET_STAT_THROTTLE

/-! ## The warning (R286, R288) -/

/-- The engines that an entry into Drip has frozen or asked to freeze go on where they stopped (R450). -/
def Block.unfreeze (b : Block) : Block :=
  forEach 72 (fun n b =>
    let e := b.engine n
    if e.frozen || e.freezeReq then
      let b := b.setEngine n (e.unfrozen (b.get (R.ENG_USTAT_UTPC n)))
      let b := if e.frozen then b.clear (R.ENG_USTAT_HALTED n) else b
      match b.leOf n with
      | some k => { b with spm := { b.spm with leState := b.spm.leState.put k 0 } }
      | none => b
    else b) b

/-- A warning during an entry into Drip, before OFF: the entry is abandoned (R450). -/
def Block.dripAbandon (b : Block) : Block :=
  if 1 ≤ b.get R.PWR_STAT_PHASE ∧ b.get R.PWR_STAT_PHASE ≤ 5 then
    (b.unfreeze.clear R.PWR_STAT_PHASE).raise R.PWR_EVT_ABANDON
  else b

/-- PFWARN rises (R286): TNOW is latched and the Intake's pending request is withdrawn; without effect while it is
already 1. -/
def Block.pfWarn (b : Block) : Block :=
  if b.flag R.KET_STAT_PFWARN then b
  else
    let b := (b.raise R.KET_STAT_PFWARN).raise R.KET_EVT_PFWARN
    let b := (b.put64 R.KET_PFT_LO_TNOW R.KET_PFT_HI_TNOW b.tnow).dropRequest
    (b.modKet fun k => { k with good := 0 }).settleKettle.dripAbandon

/-- TESTPF (R286): a write of KET_CTRL with TESTPF = 1 raises the warning where KEY is 0xA5. -/
def Block.testPf (b : Block) (key : Nat) : Block := if key = 0xA5 then b.pfWarn else b

/-! ## Samples (R269 to R271, R286, R291) -/

/-- E from the smallest of the last 16 BANK codes (R271). -/
def Block.energy (b : Block) : Nat :=
  let vc := b.get R.KET_VBANK_MIN16
  let vm := max (b.get R.KET_VMIN_VMIN) 1667
  if vm < vc ∧ !b.flag R.KET_STAT_ADCLOST then
    b.get R.KET_CAP_CAP * (vc * vc - vm * vm) * 9 * min (b.get R.KET_EFF_EFF) 1024 / 2048000000
  else 0

/-- E and the budget taken from the present registers (R271, R272). -/
def Block.newEnergy (b : Block) : Block :=
  let e := b.energy % 2 ^ 32
  (b.put R.KET_E_E e).modKet fun k => { k with budget := e - b.get R.KET_MARGIN_MARGIN }

/-- One more sample of a channel since a gap: ADCLOST clears once both have 16 (R270). -/
def Block.refill (b : Block) : Block :=
  if 16 ≤ b.kettle.railN ∧ 16 ≤ b.kettle.bankN then b.clear R.KET_STAT_ADCLOST else b

/-- The smallest of a channel's codes. -/
def minOf : List Nat → Nat
  | [] => 0
  | v :: vs => vs.foldl min v

/-- A RAIL sample (R269, R286, R291). -/
def Block.railSample (b : Block) (v : Nat) : Block :=
  let k := b.kettle
  let codes := (v :: k.rail).take 16
  let b := ((b.put R.KET_VRAIL_LAST v).put R.KET_VRAIL_MIN16 (minOf codes)).modKet fun k =>
    { k with rail := codes, railN := min (k.railN + 1) 16 }
  let b := b.refill
  let warned := b.flag R.KET_STAT_PFWARN
  let low := if v < b.get R.KET_PF_PFV then k.low + 1 else 0
  let good := if warned && decide (b.get R.KET_PF_PFV + b.get R.KET_PF_HYST ≤ v) then k.good + 1 else 0
  let b := b.modKet fun k => { k with low := low, good := good }
  if b.get R.KET_PF_PFN < low then b.pfWarn else b

/-- A BANK sample (R269, R271). -/
def Block.bankSample (b : Block) (v : Nat) : Block :=
  let codes := (v :: b.kettle.bank).take 16
  let b := ((b.put R.KET_VBANK_LAST v).put R.KET_VBANK_MIN16 (minOf codes)).modKet fun k =>
    { k with bank := codes, bankN := min (k.bankN + 1) 16 }
  b.refill.newEnergy

/-- ADC_SAMPLE (R269): a code of a channel becomes usable (`bank`: BANK, else RAIL). -/
def execAdcSample (bank : Bool) (code : BitVec 14) (s : State) : Host.Outcome State Fault Refusal :=
  let b := s.blk
  done s (if bank then b.bankSample code.toNat else b.railSample code.toNat).settleKettle

/-- ADC_LOST (R270): 8 µs have passed with no valid sample on a channel; E is taken as 0. The command does not say which channel it
was, so ADCLOST clears once 16 more samples have arrived on both (log entry 77); MIN16 goes on over each channel's last 16 codes
(R269). -/
def execAdcLost (s : State) : Host.Outcome State Fault Refusal :=
  let b := s.blk.follow R.KET_STAT_ADCLOST R.KET_EVT_ADCLOST true
  let b := b.modKet fun k => { k with railN := 0, bankN := 0 }
  done s b.newEnergy.settleKettle

/-! ## Reservations (R273 to R278) -/

/-- The amount for a command's length (R273). -/
def Block.amountOf (b : Block) (clen : Nat) : Nat :=
  min ((clen * b.get R.KET_COEF_BCOEF + 65535) / 65536 + b.get R.KET_COEF_UCOEF) (2 ^ 32 - 1)

/-- RESV less by a release; a release never takes it below 0. -/
def Block.unreserve (b : Block) (r : Nat) : Block := b.put R.KET_RESV_RESV (b.get R.KET_RESV_RESV - r)

/-- A release or a withdrawal applied (R275). -/
def Block.applyKetIn (b : Block) : KetIn → Block
  | .release r => b.unreserve r
  | .withdraw t tseq =>
    match b.kettle.req with
    | some q => if q.tag = t ∧ q.tseq = tseq then b.dropRequest else b
    | none => b

/-- A reservation may be granted: EN = 1, no warning, and no deficit, which is RESV > B as it now stands (R274, R276, R278). -/
def Block.ketOpen (b : Block) : Bool :=
  b.flag R.KET_CTRL_EN && !b.flag R.KET_STAT_PFWARN && decide (b.get R.KET_RESV_RESV ≤ b.kettle.budget)

/-- `r` fits (R274). -/
def Block.fits (b : Block) (r : Nat) : Bool := decide (b.get R.KET_RESV_RESV + r ≤ b.kettle.budget)

/-- A grant: RESV and the grant count (R274, R293). -/
def Block.reserve (b : Block) (r : Nat) : Block :=
  (b.put R.KET_RESV_RESV (b.get R.KET_RESV_RESV + r)).inc R.KET_GRANT_COUNT 1

/-- The Intake's pending request tested (R273, R274): its amount is fixed in the first cycle that finds it pending. -/
def Block.testRequest (b : Block) : Block :=
  match b.kettle.req with
  | none => b
  | some q =>
    let r := q.amount.getD (b.amountOf q.clen)
    let b := b.inc R.KET_STALL_COUNT 1
    if b.ketOpen && b.fits r then
      (b.dropRequest.reserve r).modKet fun k => { k with grant := some (q.tag, q.tseq, r) }
    else b.modKet fun k => { k with req := some { q with amount := some r } }

/-- RESERVE (R276). -/
def Block.opReserve (q : Strobe) (b : Block) : Block × Except Nat W64 :=
  let r := q.a.toNat % 2 ^ 32
  if b.flag R.KET_STAT_PFWARN then (b, .error 2)
  else if !b.ketOpen then (b, .error 3)
  else if !b.fits r then (b, .error 1)
  else
    let b := (b.reserve r).settleKettle
    (b, .ok (BitVec.ofNat 64 (b.get R.KET_HEAD_HEAD)))

/-- RELEASE (R276). -/
def Block.opUnreserve (q : Strobe) (b : Block) : Block × Except Nat W64 :=
  let r := q.a.toNat % 2 ^ 32
  if b.get R.KET_RESV_RESV < r then (b, .error 4)
  else
    let b := (b.unreserve r).settleKettle
    (b, .ok (BitVec.ofNat 64 (b.get R.KET_RESV_RESV)))

/-- QUERY (R276). -/
def Block.opQuery (_ : Strobe) (b : Block) : Block × Except Nat W64 :=
  (b, .ok (BitVec.ofNat 64 (b.get R.KET_HEAD_HEAD + 2 ^ 32 * b.get R.KET_E_E)))

/-- An AON cycle of the Kettle (R275): releases and withdrawals, then the Intake's request, then the RESERVE strobes of the engines
below `n` in ascending physical engine number. -/
def Block.ketCycle (b : Block) (n : Nat) : Block :=
  let b := if b.kettle.req.isSome then b.countGlob 0x04 1 else b
  let b := b.kettle.usable.foldl Block.applyKetIn (b.modKet fun k => { k with usable := [] })
  let b := (forEach 72 (fun n b => b.extServe n 0x81 (some 8) Block.opUnreserve) b).testRequest
  forEach n (fun n b => b.extServe n 0x80 (some 8) Block.opReserve) b

/-- KETTLE_CYCLE (R275). -/
def execKettleCycle (s : State) : Host.Outcome State Fault Refusal :=
  done s (s.blk.ketCycle 72).settleIntake.settleKettle

/-- RESERVATION_RELEASE (R275): the oldest release or withdrawal on its way becomes usable at the Kettle. -/
def execReservationRelease (s : State) : Host.Outcome State Fault Refusal :=
  let b := s.blk
  done s <|
    match b.kettle.moving with
    | [] => b
    | x :: q => b.modKet fun k => { k with moving := q, usable := k.usable ++ [x] }

/-- KETTLE_RESERVE (R275, R276): engine `n`'s strobe is decided in its place in an AON cycle, after the releases, the Intake's request
and the strobes of lower engines; without one nothing happens. -/
def execKettleReserve (n : PE) (s : State) : Host.Outcome State Fault Refusal :=
  let b := s.blk
  done s <|
    if (b.strobeOf n 0x80).isNone then b
    else ((b.ketCycle n).extServe n 0x80 (some 8) Block.opReserve).settleIntake.settleKettle

/-- KETTLE_RELEASE (R276). -/
def execKettleRelease (n : PE) (s : State) : Host.Outcome State Fault Refusal :=
  done s (s.blk.extServe n 0x81 (some 8) Block.opUnreserve)

/-- KETTLE_QUERY (R276). -/
def execKettleQuery (n : PE) (s : State) : Host.Outcome State Fault Refusal :=
  done s (s.blk.extServe n 0x82 (some 8) Block.opQuery)

/-- THROTTLE (R279): the Intake's request has been pending for KET_THRT.US microseconds; with US = 0 it is never set. -/
def execThrottle (s : State) : Host.Outcome State Fault Refusal :=
  let b := s.blk
  done s <|
    if b.kettle.req.isSome && b.get R.KET_THRT_US != 0 then b.follow R.KET_STAT_THROTTLE R.KET_EVT_THROTTLE true else b

/-- TESTPF (R286): a write of KET_CTRL with TESTPF = 1 and this KEY. -/
def execTestpf (key : BitVec 8) (s : State) : Host.Outcome State Fault Refusal := done s (s.blk.testPf key.toNat)

end Sys2Proof.Machine
end

