-- ==== Sys2Proof/Machine/Media.lean ====
section
/-! DEFINITION. The Media Port: rings, acceptance, installs and the journal, lookups, channel traffic, completions (09, R246
to R268; R497, R498). -/
namespace Sys2Proof.Machine

/-- The Media Port's own state changed. -/
def Block.modMp (b : Block) (f : Media → Media) : Block := { b with media := f b.media }

/-- OUTST follows what is held (R253): accepted and not complete, and completion entries not consumed. -/
def Block.settleMp (b : Block) : Block := b.put R.MP_STAT_OUTST (b.media.accepted.length + b.media.unread)

/-! ## Descriptors (R251, R252) -/

/-- A descriptor from its 64 bytes (R251); reserved bits stay in `raw`. -/
def Desc64.ofBytes (d : List Byte) : Desc64 :=
  let f := fun (o n : Nat) => leNat ((d.drop o).take n)
  { op := f 0 1, flags := f 1 1, le := f 2 1, ns := f 3 1, gcnt := f 4 2, iucnt := f 6 1, gran := f 8 8, buf := f 0x10 8,
    iu := f 0x18 8, wbuf := f 0x20 8, wblen := f 0x28 4, cseq := f 0x2C 4, kres := f 0x30 4, cookie := f 0x34 4,
    blen := f 0x38 3, oldgran := f 0x3B 5, raw := d }

/-- Flags of a descriptor (R251). -/
def Desc64.db (d : Desc64) : Bool := d.flags.testBit 0
def Desc64.map (d : Desc64) : Bool := d.flags.testBit 1
def Desc64.cond (d : Desc64) : Bool := d.flags.testBit 2
def Desc64.oob (d : Desc64) : Bool := d.flags.testBit 3
def Desc64.rel (d : Desc64) : Bool := d.flags.testBit 4
def Desc64.nss (d : Desc64) : Nat := d.ns % 8
def Desc64.kind (d : Desc64) : Nat := d.ns / 16 % 4

/-- The channel slot of a granule (R246). -/
def granSlot (g : Nat) : Nat := g / 2 ^ 35 % 32

/-- Granules of one IU of namespace slot `s` (R247). -/
def Block.iuGrans (b : Block) (s : Nat) : Nat := if b.flag (R.MP_NS_CFG_IU64 s) then 128 else 32

/-- IUs that namespace slot `s` maps (R247, R267). -/
def Block.iuCount (b : Block) (s : Nat) : Nat := 16 * b.get (R.MP_NS_IUCNT_COUNT s)

/-- A descriptor's fields keep their stated values and ranges (R251). -/
def Desc64.sound (d : Desc64) : Bool :=
  let moves := d.op == 1 || d.op == 2
  let needsIu := d.map || d.op == 3 || d.op == 5
  decide (1 ≤ d.op) && decide (d.op ≤ 5) && decide (d.flags < 32) && decide (d.le < 64) && d.ns / 8 % 2 == 0 &&
    decide (d.ns < 64) && (d.op == 1 || !(d.map || d.cond || d.rel)) && (d.op == 2 || d.op == 3 || !d.oob) &&
    (!d.cond || d.map) && (if d.map then d.kind == 1 || d.kind == 2 else d.kind == 0) &&
    (if moves then decide (1 ≤ d.gcnt) && decide (d.gcnt ≤ 4095) else d.gcnt == 0) &&
    (if d.map || d.op == 5 then decide (1 ≤ d.iucnt) && decide (d.iucnt ≤ 64) else d.iucnt == 0) &&
    d.raw.getD 7 0 == 0 && decide (d.gran < 2 ^ 40) && (d.op == 1 || d.op == 2 || d.op == 4 || d.gran == 0) &&
    decide (d.buf < 2 ^ 48) && decide (d.iu < 2 ^ 48) && (needsIu || d.iu == 0) && decide (d.wbuf < 2 ^ 48) &&
    (d.rel || (d.wbuf == 0 && d.wblen == 0 && d.cseq == 0 && d.kres == 0)) &&
    (if d.op == 1 then (d.blen + 511) / 512 == d.gcnt else d.blen == 0) && (d.cond || d.oldgran == 0)

/-- BUF lies in the Carafe or the DRAM window and is 64-byte aligned (R251). -/
def Block.bufOk (b : Block) (d : Desc64) : Bool :=
  4 ≤ d.op || (d.buf % 64 == 0 && (match b.target d.buf with
    | .carafe _ | .dram _ => true
    | _ => false))

/-- A descriptor fails as BADDESC (R252). -/
def Block.badDesc (b : Block) (d : Desc64) : Bool :=
  let s := d.nss
  !d.sound || !b.bufOk d || (d.map && ((d.kind == 2 && !b.flag (R.MP_NS_CFG_CAPT s)) ||
      (d.kind == 1 && (d.iucnt != 1 || d.gcnt != b.iuGrans s)))) ||
    ((d.map || d.op == 5) && decide (b.iuCount s < d.iu + d.iucnt)) ||
    ((d.map || d.op == 3 || d.op == 5) && !b.flag (R.MP_NS_CFG_EN s))

/-- An extent of `n` granules from `g` lies in one channel slot that is stamped present (R252, R259). -/
def Block.extentOk (b : Block) (g n : Nat) : Bool :=
  (b.get R.INTEG_CHAN_PRESENT).testBit (granSlot g) && decide (g % 2 ^ 35 + n ≤ 2 ^ 35)

/-- A descriptor of ring `c` fails as BADADDR (R252). -/
def Block.badAddr (b : Block) (c : Nat) (d : Desc64) : Bool :=
  d.op != 3 && !(granSlot d.gran == c && b.extentOk d.gran d.gcnt)

/-! ## Completions (R258, R261) -/

/-- STATUS of a completion entry (R261). -/
inductive MpStatus where
  | ok
  | mediaErr
  | srcErr
  | badDesc
  | badAddr
  | abandoned
  | unmapped
  | pending
  | range
deriving DecidableEq, Repr

/-- The code of a status. -/
def MpStatus.code : MpStatus → Nat
  | .ok => 0
  | .mediaErr => 1
  | .srcErr => 2
  | .badDesc => 3
  | .badAddr => 4
  | .abandoned => 5
  | .unmapped => 6
  | .pending => 7
  | .range => 8

/-- The event and the count of a status (R252, R261). -/
def Block.mpCount (b : Block) : MpStatus → Block
  | .mediaErr => (b.raise R.MP_EVT_MEDIAERR).incSat R.MP_ERRCNT_MEDIA 1
  | .srcErr => (b.raise R.MP_EVT_SRCERR).incSat R.MP_ERRCNT_SRC 1
  | .badDesc | .badAddr => b.raise R.MP_EVT_BADDESC
  | _ => b

/-- A completion entry written at the tail, the tail advanced, and then the doorbell (R261). -/
def Block.mpEntry (b : Block) (cookie op data : Nat) (st : MpStatus) (db : Option Nat) : Block :=
  let tail := b.get R.MP_CPLTAIL_INDEX
  let phase := b.get R.MP_CPLTAIL_PHASE
  let e := leBytes cookie 4 ++ leBytes st.code 2 ++ leBytes op 1 ++ leBytes phase 1 ++ leBytes data 8
  let b := b.dmaWrite rqMedia 0 (b.getAddr R.MP_CPL_LO_ADDR R.MP_CPL_HI_ADDR + 16 * tail) e
  let b := b.put R.MP_CPLTAIL_INDEX (tail + 1)
  let b := if tail + 1 = 32768 then b.put R.MP_CPLTAIL_PHASE (1 - phase) else b
  let b := (((b.modMp fun m => { m with unread := m.unread + 1 }).mpCount st).settleMp).countGlob 0x06 1
  match db with
  | some k => b.ringLe k
  | none => b

/-- A descriptor's completion entry. -/
def Block.mpFinish (b : Block) (d : Desc64) (data : Nat) (st : MpStatus) : Block :=
  b.mpEntry d.cookie (if 1 ≤ d.op ∧ d.op ≤ 5 then d.op else 0) data st (if d.db then some (d.le % 64) else none)

/-- A write of MP_CPLHEAD (R261): the entries it passes stop counting. -/
def Block.writeCplHead (b : Block) (v : Nat) : Block :=
  let d := (v + 32768 - b.get R.MP_CPLHEAD_INDEX) % 32768
  ((b.put R.MP_CPLHEAD_INDEX v).modMp fun m => { m with unread := m.unread - d }).settleMp

/-! ## The journal (R256, R257, R262 to R264) -/

/-- The address of journal block `j` (R262). -/
def Block.jAddr (b : Block) (j : Nat) : Nat := b.getAddr R.MP_JBUF_LO_ADDR R.MP_JBUF_HI_ADDR + 4096 * j

/-- The open block closes (R262): its header and the zeros of its unused record slots are written, and it waits to be
programmed; the next block opens where one is free. -/
def Block.closeJournal (b : Block) : Block :=
  match b.media.jopen with
  | none => b
  | some j =>
    if j.count = 0 then b
    else
      let a := b.jAddr j.at'
      let b := b.dmaWrite rqMedia 2 a (leBytes 0x4C4E524A 4 ++ leBytes j.count 2 ++ [0, 0] ++ leBytes j.first 8 ++
        List.replicate 16 0)
      let b := b.dmaWrite rqMedia 2 (a + 0x20 + 32 * j.count) (List.replicate (4096 - 0x20 - 32 * j.count) 0)
      b.modMp fun m =>
        let closed := m.jclosed ++ [j]
        { m with jclosed := closed, jopen := if closed.length < 16 then some ⟨(j.at' + 1) % 16, 0, 0⟩ else none }

/-- The records the journal buffer can still take (R257). -/
def Block.jRoomFor (b : Block) : Nat :=
  match b.media.jopen with
  | some j => 127 - j.count + 127 * (15 - b.media.jclosed.length)
  | none => 0

/-- The next JSEQ (R264). -/
def Block.jseq (b : Block) : Nat := b.get64 R.MP_JSEQ_LO_JSEQ R.MP_JSEQ_HI_JSEQ

/-- One record appended (R256, R264): for the run of `n` IUs from index `i` of the install. -/
def Block.appendRecord (b : Block) (d : Desc64) (kind gran ugran : Nat) (run : Nat × Nat) : Block :=
  match b.media.jopen with
  | none => b
  | some j =>
    let q := b.jseq
    let off := if kind = 2 then run.1 else 0
    let r := leBytes q 8 ++ leBytes (d.iu + run.1 + 2 ^ 48 * d.nss + 2 ^ 52 * kind + 2 ^ 54 * off) 8 ++
      leBytes (gran + 2 ^ 40 * ugran + 2 ^ 52 * run.2) 8 ++ leBytes d.cookie 4
    let b := b.dmaWrite rqMedia 2 (b.jAddr j.at' + 0x20 + 32 * j.count) (r ++ leBytes (crcStandard r) 4)
    let b := b.put64 R.MP_JSEQ_LO_JSEQ R.MP_JSEQ_HI_JSEQ (q + 1)
    let b := b.modMp fun m => { m with jopen := some { j with
      count := j.count + 1, first := if j.count = 0 then q else j.first } }
    if j.count + 1 = 127 then b.closeJournal else b

/-- JFLUSH (R262). -/
def execJflush (s : State) : Host.Outcome State Fault Refusal :=
  done s (s.blk.atReg R.MP_CTRL_JFLUSH Block.closeJournal)

/-- The 64 bytes of an internal journal program's descriptor (R262). -/
def journalDesc (gran buf : Nat) : List Byte :=
  leBytes 1 4 ++ leBytes 8 4 ++ leBytes gran 8 ++ leBytes buf 8 ++ List.replicate 32 0 ++ leBytes 4096 8

/-- The lowest descriptor index not in use (R497). -/
def Block.freeIdx (b : Block) : Nat :=
  ((List.range (b.media.accepted.length + 1)).find? fun i => b.media.accepted.all (·.idx != i)).getD 0

/-- Descriptors that count toward the limit of R253: accepted and not complete, internal programs too, and completion entries not
consumed. -/
def Block.mpHeld (b : Block) : Nat := b.media.accepted.length + b.media.unread

/-- The Media Port holds all the descriptors that it can (R253). -/
def Block.mpFull (b : Block) : Bool := decide (32768 ≤ b.mpHeld)

/-- JOURNAL_HANDOFF (R262): the oldest closed block is given a GRAN and handed off as an internal program, which counts toward R253's
limit and so waits for it. -/
def execJournalHandoff (s : State) : Host.Outcome State Fault Refusal :=
  let b := s.blk
  done s <|
    match b.media.jclosed with
    | [] => b
    | j :: _ =>
      if b.media.jbusy || b.get R.MP_JROOM_ROOM == 0 || b.mpFull then b
      else
        let gran := b.getAddr R.MP_JNEXT_LO_GRAN R.MP_JNEXT_HI_GRAN
        let a := b.jAddr j.at'
        let prev := if b.media.jprog then b.get64 R.MP_JLAST_LO_GRAN R.MP_JLAST_HI_GRAN else 0
        let b := b.dmaWrite rqMedia 0 (a + 0x10) (leBytes prev 8 ++ List.replicate 8 0)
        let b := b.dmaWrite rqMedia 0 (a + 0x1C) (leBytes (crcStandard (b.fetch a 4096)) 4)
        let b := (b.put R.MP_JNEXT_LO_GRAN ((gran + 8) % 2 ^ 32 / 8)).put R.MP_JNEXT_HI_GRAN ((gran + 8) / 2 ^ 32)
        let b := b.put R.MP_JROOM_ROOM (b.get R.MP_JROOM_ROOM - 1)
        let x : Accepted := ⟨b.freeIdx, 32, granSlot gran, b.media.order, Desc64.ofBytes (journalDesc gran a), some j.at',
          false, false, false, 0⟩
        (b.modMp fun m => { m with accepted := m.accepted ++ [x], order := m.order + 1, jbusy := true }).settleMp

/-! ## Submission and fetch (R253) -/

/-- A write of MP_SUBMIT (R253): new entries of ring `c`, or SUBOVF. -/
def Block.mpSubmit (b : Block) (c n : Nat) : Block :=
  let u := b.media.used.get c 0
  if n = 0 ∨ 1024 - u < n then b.raise R.MP_EVT_SUBOVF
  else b.modMp fun m => { m with subs := m.subs ++ [(c, n)], used := m.used.put c (u + n) }

/-- MP_SUBMIT (R253). -/
def execMpSubmit (slot : BitVec 5) (count : BitVec 11) (s : State) : Host.Outcome State Fault Refusal :=
  done s (s.blk.atReg R.MP_SUBMIT_SLOT fun b => b.mpSubmit slot.toNat count.toNat)

/-- The first submitted entry taken off the list: it is free again (R253). -/
def Media.advance (m : Media) (c n : Nat) (rest : List (Nat × Nat)) : Media :=
  { m with
    subs := if n ≤ 1 then rest else (c, n - 1) :: rest
    heads := m.heads.put c ((m.heads.get c 0 + 1) % 1024)
    used := m.used.put c (m.used.get c 0 - 1)
    retried := false }

/-- DESCRIPTOR_FETCH (R253): the next ring entry's read, which `find` is about, returns; a first error repeats it, a second completes
the entry. The spec gives these reads no class; they carry P0 (log entry 80). -/
def execDescriptorFetch (find : BankFind) (s : State) : Host.Outcome State Fault Refusal :=
  let b := s.blk
  done s <|
    match b.media.subs with
    | [] => b
    | (c, n) :: rest =>
      if !b.flag R.MP_CTRL_EN || decide (32768 ≤ b.mpHeld + b.media.fetched.length) then b
      else
        let i := b.media.heads.get c 0
        match b.dmaRead rqMedia 0 (b.getAddr R.MP_RING_LO_ADDR R.MP_RING_HI_ADDR + c * 0x10000 + 64 * i) 64 find with
        | (b, .later) => b
        | (b, .data d) => b.modMp fun m => { m.advance c n rest with fetched := m.fetched ++ [(c, d)] }
        | (b, .lost) =>
          if b.media.retried then
            (b.modMp fun m => m.advance c n rest).mpEntry 0 0 (i + 2 ^ 16 * c) .badDesc none
          else b.modMp fun m => { m with retried := true }

/-! ## Installs and lookups (R248, R256, R259) -/

/-- The address of a map slot (R247). -/
def Block.mapAddr (b : Block) (s iu : Nat) : Nat := b.getAddr (R.MP_NS_MAP_LO_ADDR s) (R.MP_NS_MAP_HI_ADDR s) + 8 * iu

/-- A map slot as it stands (R248). -/
def Block.mapSlot (b : Block) (s iu : Nat) : Nat := leNat (b.fetch (b.mapAddr s iu) 8)

/-- The IUs of an install that receive a slot, by their index (R256): with COND only those that hold OLDGRAN. -/
def Block.installSet (b : Block) (d : Desc64) : List Nat :=
  (List.range d.iucnt).filter fun i =>
    let w := b.mapSlot d.nss (d.iu + i)
    let k := w / 2 ^ 58 % 4
    !d.cond || (w % 2 ^ 40 == d.oldgran && (k == 1 || k == 2))

/-- Maximal runs of consecutive numbers of a rising list: start and length. -/
def runsOf : List Nat → List (Nat × Nat)
  | [] => []
  | i :: t =>
    match runsOf t with
    | (j, n) :: r => if j = i + 1 then (i, n + 1) :: r else (i, 1) :: (j, n) :: r
    | [] => [(i, 1)]

/-- The slot an install writes for index `i` (R248, R256). -/
def slotWord (kind gran ugran i : Nat) : Nat :=
  gran + 2 ^ 40 * ugran + 2 ^ 52 * (if kind = 2 then i else 0) + 2 ^ 58 * kind

/-- An install (R256): the block after it and the first JSEQ appended (0 where none is), or nothing while the journal
buffer cannot take its records (R257). -/
def Block.install (b : Block) (d : Desc64) (kind gran ugran : Nat) : Option (Block × Nat) :=
  let set := b.installSet d
  let runs := runsOf set
  if b.jRoomFor < runs.length then none
  else
    let q := if runs.isEmpty then 0 else b.jseq
    let b := set.foldl (fun b i =>
      b.dmaWrite rqMedia 2 (b.mapAddr d.nss (d.iu + i)) (leBytes (slotWord kind gran ugran i) 8)) b
    some (runs.foldl (fun b r => b.appendRecord d kind gran ugran r) b, q)

/-! ## Acceptance (R252 to R254, R266) -/

/-- The head of the fetched entries. -/
def Block.mpHead (b : Block) : Option (Nat × Desc64) := b.media.fetched.head?.map fun p => (p.1, Desc64.ofBytes p.2)

/-- The head taken off: no install waits any longer (R257). -/
def Block.mpPop (b : Block) : Block := (b.clear R.MP_STAT_JSTALL).modMp fun m => { m with fetched := m.fetched.drop 1 }

/-- The head goes to a channel controller (R254). -/
def Block.mpAccept (b : Block) (c slot data : Nat) (d : Desc64) (held : Bool) : Block :=
  let x : Accepted := ⟨b.freeIdx, c, slot, b.media.order, d, none, false, held, false, data⟩
  let b := (b.mpPop.modMp fun m => { m with accepted := m.accepted ++ [x], order := m.order + 1 }).settleMp
  if d.op = 1 then b.countGlob 0x05 1 else b

/-- Installs wait for the journal (R257). -/
def Block.jStall (b : Block) : Block := b.follow R.MP_STAT_JSTALL R.MP_EVT_JSTALL true

/-- Acceptance of the head where it is a descriptor of operation `op`, unless the Media Port holds all it can (R253); one whose
operation is undefined fails in any case (R252). `f` gives what a sound descriptor does. -/
def Block.acceptOp (b : Block) (op : Nat) (f : Nat → Desc64 → Block → Block) : Block :=
  match b.mpHead with
  | none => b
  | some (c, d) =>
    if b.mpFull then b
    else if d.op = 0 ∨ 5 < d.op then b.mpPop.mpFinish d 0 .badDesc
    else if d.op ≠ op then b
    else if b.flag R.MP_STAT_PFAIL && (op == 2 || op == 3) then b.mpPop.mpFinish d 0 .abandoned
    else if b.badDesc d then b.mpPop.mpFinish d 0 .badDesc
    else if b.badAddr c d then b.mpPop.mpFinish d 0 .badAddr
    else f c d b

/-- MP_PROG (R254, R256). -/
def execMpProg (s : State) : Host.Outcome State Fault Refusal :=
  done s <| s.blk.acceptOp 1 fun c d b =>
    if d.map then
      match b.install d d.kind d.gran d.gcnt with
      | some (b, q) => b.mpAccept c c q d false
      | none => b.jStall
    else b.mpAccept c c 0 d false

/-- MP_READ (R254). -/
def execMpRead (s : State) : Host.Outcome State Fault Refusal :=
  done s <| s.blk.acceptOp 2 fun c d b => b.mpAccept c c 0 d false

/-- The descriptor an MREAD hands over (R259, R497): GRAN and GCNT replaced by its map slot's. -/
def Desc64.resolved (d : Desc64) (gran ugran : Nat) : Desc64 :=
  { d with
    gran := gran, gcnt := ugran,
    raw := d.raw.take 4 ++ leBytes ugran 2 ++ ((d.raw.drop 6).take 2) ++ leBytes gran 8 ++ d.raw.drop 16 }

/-- MP_MREAD (R259): the map slot decides, at acceptance. -/
def execMpMread (s : State) : Host.Outcome State Fault Refusal :=
  done s <| s.blk.acceptOp 3 fun c d b =>
    if b.iuCount d.nss ≤ d.iu then b.mpPop.mpFinish d 0 .range
    else
      let w := b.mapSlot d.nss d.iu
      let g := w % 2 ^ 40
      let n := w / 2 ^ 40 % 2 ^ 12
      let k := w / 2 ^ 58 % 4
      if k = 0 ∨ k = 3 then b.mpPop.mpFinish d w .unmapped
      else match (b.media.accepted.filter fun x => x.desc.op == 1 && x.block.isNone && x.desc.gran == g).getLast? with
        | some x => b.mpPop.mpFinish d x.desc.buf .pending
        | none =>
          if b.extentOk g n then b.mpAccept c (granSlot g) w (d.resolved g n) false
          else b.mpPop.mpFinish d w .badAddr

/-- Reads accepted and not complete, earlier than a place in acceptance order (R260). -/
def Block.readsBefore (b : Block) (order : Nat) : Bool :=
  b.media.accepted.any fun x => (x.desc.op == 2 || x.desc.op == 3) && decide (x.order < order)

/-- MP_ERASE (R260): held while an earlier read is not complete. -/
def execMpErase (s : State) : Host.Outcome State Fault Refusal :=
  done s <| s.blk.acceptOp 4 fun c d b => b.mpAccept c c 0 d (b.readsBefore b.media.order)

/-- MP_UNMAP (R256): DEALLOC slots, and the completion at once. -/
def execMpUnmap (s : State) : Host.Outcome State Fault Refusal :=
  done s <| s.blk.acceptOp 5 fun _ d b =>
    match b.install d 3 0 0 with
    | some (b, q) => b.mpPop.mpFinish d q .ok
    | none => b.jStall

/-- ERASE_RELEASE (R260): every held ERASE whose earlier reads have all completed. -/
def execEraseRelease (s : State) : Host.Outcome State Fault Refusal :=
  let b := s.blk
  done s (b.modMp fun m =>
    { m with accepted := m.accepted.map fun x => if !(b.readsBefore x.order) then { x with held := false } else x })

/-! ## The channel controllers (R254, R255, R258, R497) -/

/-- The descriptor that channel slot `c` is given next: the first in acceptance order, unless an ERASE of its own ring that
is still held stands before it (R254, R260). -/
def Block.mpNext (b : Block) (c : Nat) : Option Accepted :=
  match b.media.accepted.find? fun x => x.slot == c && !x.handed with
  | some x =>
    if x.held || (b.media.accepted.any fun y => y.held && y.ring == x.ring && decide (y.order < x.order)) then none
    else some x
  | none => none

/-- A held descriptor changed. -/
def Block.modAccepted (b : Block) (idx : Nat) (f : Accepted → Accepted) : Block :=
  b.modMp fun m => { m with accepted := m.accepted.map fun x => if x.idx = idx then f x else x }

/-- MEDIA_DESCRIPTOR_HANDOFF (R497): READY of channel slot `c` is high. -/
def execMediaDescriptorHandoff (slot : BitVec 5) (s : State) : Host.Outcome State Fault Refusal :=
  let b := s.blk
  done s <|
    match b.mpNext slot.toNat with
    | some x =>
      { b.modAccepted x.idx fun x => { x with handed := true } with
        ports := { b.ports with mpd := some (slot.toNat, x.idx, x.desc.raw) } }
    | none => b

/-- The descriptor of an index that a controller has taken. -/
def Block.handedAt (b : Block) (slot idx : Nat) : Option Accepted :=
  b.media.accepted.find? fun x => x.slot == slot && x.idx == idx && x.handed

/-- The 16 out-of-band bytes of granule `g` of a program (R250). -/
def Accepted.oobBytes (x : Accepted) (g : Nat) : List Byte :=
  let t := if x.block.isSome then 3 else if x.desc.map then x.desc.kind else 0
  leBytes (x.desc.blen + 2 ^ 24 * g + 2 ^ 36 * x.desc.nss + 2 ^ 39 * t) 8 ++
    leBytes (if t = 1 ∨ t = 2 then x.desc.iu else 0) 8

/-- PROGRAM_DATA_REQUEST (R250, R255, R497): the source of one granule is read, never beyond BLEN, and its eight beats are
sent; after a failed source read they are zeros. `find` is what the source read finds. -/
def execProgramDataRequest (slot : BitVec 5) (idx : BitVec 15) (gidx : BitVec 12) (find : BankFind) (s : State) :
    Host.Outcome State Fault Refusal :=
  let b := s.blk
  done s <|
    match b.handedAt slot.toNat idx.toNat with
    | some x =>
      if x.desc.op ≠ 1 then b
      else
        let g := gidx.toNat
        let n := min 512 (x.desc.blen - 512 * g)
        let send := fun (b : Block) (d : List Byte) => { b with ports := { b.ports with
          mpwd := some ⟨slot.toNat, idx.toNat, g, d ++ List.replicate (512 - d.length) 0, x.oobBytes g⟩ } }
        if x.srcErr || n == 0 then send b []
        else match b.dmaRead rqMedia 0 (x.desc.buf + 512 * g) n find with
          | (b, .data d) => send b d
          | (b, .lost) => send (b.modAccepted x.idx fun x => { x with srcErr := true }) []
          | (b, .later) => b
    | none => b

/-- READ_DATA (R254, R497): one beat of read data goes to the buffer; with OOB its out-of-band bytes follow the data. -/
def execReadData (slot : BitVec 5) (idx : BitVec 15) (gidx : BitVec 12) (beat : BitVec 3) (data : BitVec 512)
    (oob : W128) (s : State) : Host.Outcome State Fault Refusal :=
  let b := s.blk
  done s <|
    match b.handedAt slot.toNat idx.toNat with
    | some x =>
      if x.desc.op ≠ 2 ∧ x.desc.op ≠ 3 then b
      else
        let b := b.dmaWrite rqMedia 4 (x.desc.buf + 512 * gidx.toNat + 64 * beat.toNat) (leBytes data.toNat 64)
        if x.desc.oob && beat == 0 then
          b.dmaWrite rqMedia 4 (x.desc.buf + 512 * x.desc.gcnt + 16 * gidx.toNat) (leBytes oob.toNat 16)
        else b
    | none => b

/-- REL honoured (R258): the write buffer extent at the Intake and the reservation at the Kettle. -/
def Block.mpRelease (b : Block) (d : Desc64) : Block :=
  (b.modInt fun i => { i with wbRel := i.wbRel ++ [(d.wbuf, d.wblen)] }).toKettle (.release d.kres)

/-- An internal journal program ends (R262); it fails too where a read of its source failed, whatever MPC reports (R255). -/
def Block.journalDone (b : Block) (x : Accepted) (fail : Bool) : Block :=
  let b := b.modMp fun m => { m with jbusy := false }
  if fail then b.mpCount .mediaErr
  else
    (b.put64 R.MP_JLAST_LO_GRAN R.MP_JLAST_HI_GRAN x.desc.gran).modMp fun m =>
      let at' := ((m.jclosed.getLast?.map (·.at')).getD 0 + 1) % 16
      { m with jclosed := m.jclosed.drop 1, jprog := true, jopen := m.jopen.or (some ⟨at', 0, 0⟩) }

/-- MEDIA_COMPLETION (R255, R258, R261, R262): a controller's MPC; STATUS 1 is `fail`. -/
def execMediaCompletion (slot : BitVec 5) (idx : BitVec 15) (fail : Bool) (s : State) : Host.Outcome State Fault Refusal :=
  let b := s.blk
  done s <|
    match b.handedAt slot.toNat idx.toNat with
    | some x =>
      let b := b.modMp fun m => { m with accepted := m.accepted.filter (·.idx != x.idx) }
      if x.block.isSome then (b.journalDone x (fail || x.srcErr)).settleMp
      else
        let st := if x.srcErr then MpStatus.srcErr else if fail then .mediaErr else .ok
        let b := if x.desc.rel && st == .ok then b.mpRelease x.desc else b
        b.mpFinish x.desc x.data st
    | none => b

/-! ## The power-fail warning in the Fabric island (R266, R288) -/

/-- The Media Port and the Percolator after the warning. -/
def Block.warnFabric (b : Block) : Block :=
  let b := ((b.raise R.MP_STAT_PFAIL).raise R.PERC_STAT_P5CLOSED).raise R.PERC_STAT_P1ABAND
  let gone := b.media.accepted.filter fun x => !x.handed && (x.desc.op == 2 || x.desc.op == 3)
  let b := b.modMp fun m => { m with accepted := m.accepted.filter fun x => x.handed || !(x.desc.op == 2 || x.desc.op == 3) }
  let b := gone.foldl (fun b x => b.mpFinish x.desc x.data .abandoned) b
  (b.closeJournal.settleMp).modKet fun k => { k with warnFabric := true }

/-! ## Registers (R262, R268) -/

/-- A write of MP_CTRL (R262, R263): a rise of EN starts a journal chain anew. -/
def Block.writeMpCtrl (b : Block) (v : Nat) : Block :=
  let b := if v.testBit 0 && !b.flag R.MP_CTRL_EN then b.modMp fun m => { m with jprog := false } else b
  let b := b.put R.MP_CTRL_EN (v % 2)
  if v.testBit 1 then b.closeJournal else b

end Sys2Proof.Machine
end

