-- ==== Sys2Proof/Machine/Loader.lean ====
section
/-! DEFINITION. The Loader, the root-of-trust port, the digest arbiter, activation and the Spare Manager's commands (06, 11,
R173 to R195, R313, R499 to R503). -/
namespace Sys2Proof.Machine

/-! ## Images (R181, R182, R186) -/

/-- The manifest digest, byte 0 first (R186). -/
def Block.manifest (b : Block) : List Byte := (List.range 12).flatMap fun i => leBytes (b.get (R.LDR_MANIFEST_DIG i)) 4

/-- Section `i` of a header: START and COUNT (R181). -/
def sect (h : List Byte) (i : Nat) : Nat × Nat :=
  (leNat ((h.drop (0x80 + 8 * i)).take 2), leNat ((h.drop (0x82 + 8 * i)).take 2))

/-- The sections in use. -/
def sections (h : List Byte) : List (Nat × Nat) := (List.range (leNat ((h.drop 6).take 2))).map (sect h)

/-- Sections in ascending order, without overlap, each ending at or below 0x1FFF (R182). -/
def sectionsOk : Nat → List (Nat × Nat) → Bool
  | _, [] => true
  | lo, (s, n) :: t => decide (lo ≤ s) && decide (1 ≤ n) && decide (s + n ≤ 8192) && sectionsOk (s + n) t

/-- IMGLEN of a header. -/
def imgLen (h : List Byte) : Nat := leNat ((h.drop 8).take 4)

/-- VERSION of a header: MAJOR, MINOR, PATCH, MSFV (R181). -/
def imgVersion (h : List Byte) : Nat := leNat ((h.drop 0x10).take 4)

/-- A run of bytes is all zero. -/
def allZero (d : List Byte) : Bool := d.all (· == 0)

/-- A header that R182 accepts. -/
def headerOk (h : List Byte) : Bool :=
  let n := leNat ((h.drop 6).take 2)
  let words := (sections h).foldl (fun k s => k + s.2) 0
  h.length == 256 && leNat (h.take 4) == 0x474D4942 && leNat ((h.drop 4).take 2) == 3 && decide (1 ≤ n) &&
    decide (n ≤ 16) && imgLen h == 256 + 24 * words && decide (imgLen h ≤ 0x30100) &&
    leNat ((h.drop 0xC).take 4) == 0x0F1A0072 && decide (imgVersion h < 2 ^ 16) &&
    decide (leNat ((h.drop 0x14).take 4) < 2) && allZero ((h.drop 0x20).take 96) && sectionsOk 0 (sections h) &&
    ((List.range n).all fun i => allZero ((h.drop (0x84 + 8 * i)).take 4)) && allZero (h.drop (0x80 + 8 * n))

/-- The microaddress of word `i` of an image, its sections given (R181). -/
def wordAddr : List (Nat × Nat) → Nat → Option Nat
  | [], _ => none
  | (s, n) :: t, i => if i < n then some (s + i) else wordAddr t (i - n)

/-- Whole words of 24 bytes at the head of a list, and the rest. -/
def takeWords : Nat → List Byte → List (BitVec 192) × List Byte
  | 0, d => ([], d)
  | fuel + 1, d =>
    if d.length < 24 then ([], d)
    else
      let r := takeWords fuel (d.drop 24)
      (BitVec.ofNat 192 (leNat (d.take 24)) :: r.1, r.2)

/-! ## Stores (R173, R183, R188) -/

/-- Engines that a load goes to. -/
def loadTargets : Option Nat → List Nat
  | some n => [n]
  | none => List.range 72

/-- A store cleared to the fill word and marked LOADING (R178, R183). -/
def Block.clearStore (n : Nat) (b : Block) : Block :=
  ((b.modEngine n fun e => { e with cs := [], csErr := [], csDigest := none }).put (R.ENG_CSSTAT_IMGST n) 1).clear
    (R.ENG_CSSTAT_UEPEND n)

/-- A store's microword written. -/
def Block.writeRow (b : Block) (n a : Nat) (w : BitVec 192) : Block :=
  b.modEngine n fun e => { e with cs := e.cs.put a w }

/-- A store holds a verified image (R183, R188). -/
def Block.markLoaded (h dig : List Byte) (n : Nat) (b : Block) : Block :=
  let v := imgVersion h
  let b := (b.modEngine n fun e => { e with csDigest := some dig }).put (R.ENG_CSSTAT_IMGST n) 2
  ((((b.put (R.ENG_CSVER_MAJOR n) (v / 4096)).put (R.ENG_CSVER_MINOR n) (v / 256)).put (R.ENG_CSVER_PATCH n)
    (v / 16)).put (R.ENG_CSVER_MSFV n) v).put (R.ENG_CSVER_DIGPFX n) ((dig.getD 0 0).toNat * 256 + (dig.getD 1 0).toNat)

/-- A store whose load failed. -/
def Block.markInvalid (n : Nat) (b : Block) : Block := b.put (R.ENG_CSSTAT_IMGST n) 3

/-! ## The Loader (R183, R488, R503) -/

/-- LOADER_FAIL (R183). -/
def Block.loaderFail (b : Block) (cause : Nat) : Block :=
  let b := (forEach 72 Block.markInvalid b).put R.LDR_STAT_CAUSE cause
  (b.put R.LDR_STAT_PHASE 5).modSpm fun s => { s with img := none }

/-- LOADER_DONE (R183): every store is LOADED, and each logical engine starts on the engine of its reset map. -/
def Block.loaderDone (b : Block) (h : List Byte) : Block :=
  let b := forEach 72 (Block.markLoaded h b.manifest) b
  let b := (b.clear R.LDR_STAT_MVALID).put R.LDR_STAT_PHASE 4
  let b := forEach 72 (fun n b => b.setPe n .spare) b
  let b := forEach 64 (fun k b => b.sendStart (9 * (k / 8) + k % 8) k) b
  let b := b.modSpm fun s => { s with img := none }
  b.live (((List.range 72).map mirPe) ++ (List.range 64).map mirLe)

/-- PLL_LOCK (R488): every PLL and DCO has locked. -/
def execPllLock (s : State) : Host.Outcome State Fault Refusal :=
  done s (s.blk.modSpm fun x => { x with locked := true })

/-- LOADER_START (R183, R488): with MVALID set and every clock locked the Loader leaves WAITMAN for CLEAR, which clears every
store; STREAM begins with the first read. -/
def execLoaderStart (s : State) : Host.Outcome State Fault Refusal :=
  let b := s.blk
  done s <|
    if b.get R.LDR_STAT_PHASE = 0 ∧ b.flag R.LDR_STAT_MVALID ∧ b.spm.locked then
      ((forEach 72 Block.clearStore b).put R.LDR_STAT_PHASE 1).modSpm fun s => { s with img := some ⟨none, 0, [], [], false⟩ }
    else b

/-- ROT_BUSY (R503). -/
def Block.rotBusy (b : Block) : Bool :=
  let p := b.get R.LDR_STAT_PHASE
  (decide (1 ≤ p) && decide (p ≤ 3)) || b.get R.ACT_STAT_PHASE == 1

/-- ROOT_OF_TRUST_WRITE (R186, R503). -/
def execRootOfTrustWrite (idx : BitVec 4) (data : W32) (s : State) : Host.Outcome State Fault Refusal :=
  let b := s.blk
  done s <|
    if b.rotBusy || decide (12 ≤ idx.toNat) then b
    else (b.put (R.LDR_MANIFEST_DIG idx.toNat) data.toNat).put R.LDR_STAT_MVALID (bit (idx.toNat == 11))

/-! ## Digest contexts (R500) -/

/-- The lowest free context of 1 to 7. -/
def Block.freeCtx (b : Block) : Option Nat := [1, 2, 3, 4, 5, 6, 7].find? fun c => (b.dg.look c).isNone

/-- A waiting verification takes a free context first (R500). -/
def Block.giveCtx (b : Block) : Block :=
  match b.spm.act, b.freeCtx with
  | some a, some c =>
    if a.ctx.isNone ∧ b.get R.ACT_STAT_PHASE = 1 then
      { b with dg := b.dg.put c ⟨none, none⟩, spm := { b.spm with act := some { a with ctx := some c } } }
    else b
  | _, _ => b

/-- A context frees. -/
def Block.dropCtx (b : Block) (c : Nat) : Block := ({ b with dg := b.dg.del c } : Block).giveCtx

/-- A message's data on DGQ (R499). -/
def Block.sendDigest (b : Block) (c : Nat) (first last : Bool) (d : List Byte) (exp : Option (List Byte)) : Block :=
  { b with ports := { b.ports with dgq := some ⟨c, first, last, d, exp⟩ } }

/-! ## The end of an activation (R189, R194, R195) -/

/-- An activation ends (R195). -/
def Block.actEnd (b : Block) (cause : Nat) : Block :=
  let b := (b.put R.ACT_STAT_CAUSE cause).put R.ACT_STAT_PHASE (if cause = 0 then 5 else 6)
  (b.raise R.SPM_EVT_ACT).modSpm fun s => { s with act := none }

/-- A verification fails (R189): the engine's store is INVALID, and the engine EMPTY. -/
def Block.actVerifyFail (b : Block) (cause : Nat) : Block :=
  match b.spm.act with
  | none => b
  | some a =>
    let b := ((b.markInvalid a.verPe).setPe a.verPe .empty).modSpm fun s => { s with img := none }
    let b := match a.ctx with
      | some c => { b with dg := b.dg.del c }
      | none => b
    (b.live [mirPe a.verPe]).actEnd cause

/-- A load failed: the Loader's, or an activation's verification. -/
def Block.loadFail (b : Block) (dst : Option Nat) (cause : Nat) : Block :=
  if dst.isNone then b.loaderFail cause else b.actVerifyFail cause

/-! ## Reading an image (R182, R183, R189) -/

/-- The image address of a load. -/
def Block.imageAddr (b : Block) (dst : Option Nat) : Nat :=
  if dst.isNone then b.get64 R.LDR_IMGADDR_LO_ADDR R.LDR_IMGADDR_HI_ADDR
  else b.get64 R.ACT_IMGADDR_LO_ADDR R.ACT_IMGADDR_HI_ADDR

/-- The words that some bytes complete, broadcast to the load's stores. -/
def Block.broadcast (b : Block) (x : ImgRead) (d : List Byte) : Block × List Byte :=
  let r := takeWords 8 (x.part ++ d)
  let i0 := (x.got - 256 - x.part.length) / 24
  let secs := sections x.hdr
  let b := ((List.range r.1.length).zip r.1).foldl (fun b p =>
    match wordAddr secs (i0 + p.1) with
    | some a => (loadTargets x.dst).foldl (fun b n => b.writeRow n a p.2) b
    | none => b) b
  (b, r.2)

/-- The context of a load's digest; a verification without one waits (R183, R500). -/
def Block.loadCtx (b : Block) (dst : Option Nat) : Option Nat :=
  if dst.isNone then some 0 else b.spm.act.bind (·.ctx)

/-- The whole header has arrived (R182, R191): it is checked before any word is broadcast. -/
def Block.headerCause (b : Block) (x : ImgRead) (h : List Byte) : Option Nat :=
  if !headerOk h then some 1
  else if x.dst.isSome && !(b.spm.act.map (·.reload)).getD true &&
      ((List.range 72).any fun n => b.get (R.ENG_CSSTAT_IMGST n) == 2 &&
        b.get (R.ENG_CSVER_MAJOR n) != imgVersion h / 4096 % 16) then some 5
  else none

/-- One read of an image returned with its data (R183). -/
def Block.imageData (b : Block) (x : ImgRead) (c : Nat) (d : List Byte) : Block :=
  let got := x.got + d.length
  let hdr := if x.got < 256 then x.hdr ++ d else x.hdr
  let last := decide (256 < got) && got == imgLen hdr
  let b := b.sendDigest c (x.got == 0) last d (if last then some b.manifest else none)
  match (if got = 256 then b.headerCause x hdr else none) with
  | some cause => b.loadFail x.dst cause
  | none =>
    let r := if x.got < 256 then (b, []) else b.broadcast { x with hdr := hdr } d
    let b := r.1.modSpm fun s => { s with img := some ⟨x.dst, got, hdr, r.2, false⟩ }
    if last && x.dst.isNone then b.put R.LDR_STAT_PHASE 3 else b

/-- LOADER_READ_DATA (R183, R189): the next read of the image, which `find` is about, returns; the Loader's first one begins STREAM.
The spec gives these reads no class; they carry P4 (log entry 80). -/
def execLoaderReadData (find : BankFind) (s : State) : Host.Outcome State Fault Refusal :=
  let b := s.blk
  done s <|
    match b.spm.img with
    | none => b
    | some x =>
      match b.loadCtx x.dst with
      | none => b
      | some c =>
        let n := if x.got < 256 then 128 else min 128 (imgLen x.hdr - x.got)
        if n = 0 then b
        else
          let b := if x.dst.isNone then b.put R.LDR_STAT_PHASE 2 else b
          match b.dmaRead rqDigest 4 (b.imageAddr x.dst + x.got) n find with
          | (b, .later) => b
          | (b, .data d) => b.imageData x c d
          | (b, .lost) =>
            if x.retried then b.loadFail x.dst 3 else b.modSpm fun s => { s with img := some { x with retried := true } }

/-! ## Digest requests of engines (R501) -/

/-- A request block that keeps its rules (R501). -/
def digestOk (d : List Byte) : Bool :=
  let f := fun (o n : Nat) => leNat ((d.drop o).take n)
  let fl := f 1 1
  f 0 1 == 1 && decide (fl < 16) && (!fl.testBit 2 || fl.testBit 1) && decide (f 2 1 < 64) &&
    (fl.testBit 1 || f 4 4 % 128 == 0) && decide (f 8 8 < 2 ^ 48) && decide (f 0x10 8 < 2 ^ 48) && f 0x10 8 % 8 == 0 &&
    allZero (d.drop 0x19)

/-- The result of a request written: STATUS last, then the doorbell (R501). -/
def Block.digestEnd (b : Block) (addr st : Nat) (db : Bool) (le : Nat) : Block :=
  let b := b.dmaWrite rqDigest 4 (addr + 0x18) (leBytes st 1)
  if db then b.ringLe le else b

/-- The reads of a request block's message: its source, which `find` is about, and the digest it is to be compared with (R501). -/
def Block.digestReads (b : Block) (d : List Byte) (find : BankFind) : Block × Served × Served :=
  let f := fun (o n : Nat) => leNat ((d.drop o).take n)
  let src := if f 4 4 = 0 then (b, .data []) else b.dmaRead rqDigest 4 (f 8 8) (f 4 4) find
  let exp := if (f 1 1).testBit 2 then src.1.dmaRead rqDigest 4 (f 0x10 8) 48 .clean else (src.1, .data [])
  (exp.1, src.2, exp.2)

/-- Request block `q`, as it was read, carried out for its logical engine (R501); it stays in the queue while a read of its waits for
a repair. -/
def Block.digestRun (b : Block) (q : Nat × Nat) (d : List Byte) (find : BankFind) : Block :=
  let k := q.1
  let addr := q.2
  let f := fun (o n : Nat) => leNat ((d.drop o).take n)
  let fl := f 1 1
  let db := fl.testBit 3
  let le := f 2 1 % 64
  let taken := fun (b : Block) => { b with digQ := b.digQ.erase q }
  let held := fun c => decide (1 ≤ c) && ((b.dg.look c).map fun x => x.owner == some k && x.job.isNone).getD false
  let ctx := if fl.testBit 0 then b.freeCtx else if held (f 3 1) then some (f 3 1) else none
  let drop := fun (b : Block) => match ctx with
    | some c => b.dropCtx c
    | none => b
  if !digestOk d then (drop (taken b)).digestEnd addr 4 db le
  else match ctx with
    | none => (taken b).digestEnd addr 3 db le
    | some c =>
      let open' := fun (b : Block) => if fl.testBit 0 then b.dmaWrite rqDigest 4 (addr + 3) (leBytes c 1) else b
      match b.digestReads d find with
      | (b, .later, _) | (b, _, .later) => b
      | (b, .data data, .data e) =>
        let b := (open' (taken b)).sendDigest c (fl.testBit 0) (fl.testBit 1) data (if fl.testBit 2 then some e else none)
        if fl.testBit 1 then
          { b with dg := b.dg.put c ⟨some k, some (addr, f 0x10 8, fl.testBit 2, db, le)⟩ }
        else ({ b with dg := b.dg.put c ⟨some k, none⟩ } : Block).digestEnd addr 1 db le
      | (b, _, _) => ((open' (taken b)).dropCtx c).digestEnd addr 5 db le

/-- The first request that does not wait for a context (R500), and the others. -/
def Block.digestPick (b : Block) : Option (Nat × Nat) :=
  b.digQ.find? fun q => b.freeCtx.isSome || !(b.fetch (q.2 + 1) 1).any (·.getLsbD 0)

/-- DIGEST_REQUEST (R500, R501): the arbiter takes the next request block; `find` is what its source read finds. A block that cannot
be read has no place for a status, and is dropped. -/
def execDigestRequest (find : BankFind) (s : State) : Host.Outcome State Fault Refusal :=
  let b := s.blk
  done s <|
    match b.digestPick with
    | none => b
    | some q =>
      match b.dmaRead rqDigest 4 q.2 64 .clean with
      | (b, .later) => b
      | (b, .data d) => b.digestRun q d find
      | (b, .lost) => { b with digQ := b.digQ.erase q }

/-- A verification has ended well (R189, R191, R193). -/
def Block.actVerified (b : Block) (a : Act) (h : List Byte) : Block :=
  let dig := b.manifest
  let others := (List.range 72).filter fun n => b.get (R.ENG_CSSTAT_IMGST n) == 2
  let chg := others.any fun n => b.get (R.ENG_CSVER_MSFV n) != imgVersion h % 16
  let b := ((b.markLoaded h dig a.verPe).setPe a.verPe .spare).clear R.LDR_STAT_MVALID
  let b := (b.put R.ACT_STAT_PHASE (if a.reload then 3 else 2)).put R.ACT_STAT_MSFVCHG (bit (chg || a.reload))
  let b := b.modSpm fun s => { s with img := none, act := some { a with digest := dig, ctx := none } }
  b.live [mirPe a.verPe]

/-- DIGEST_RESULT (R499, R500): the digest engine answers for a context; `ok` is MATCH. -/
def execDigestResult (ctx : BitVec 3) (digest : BitVec 384) (ok : Bool) (s : State) : Host.Outcome State Fault Refusal :=
  let b := s.blk
  let c := ctx.toNat
  done s <|
    if c = 0 then
      match b.spm.img with
      | some x =>
        if x.dst.isNone ∧ b.get R.LDR_STAT_PHASE = 3 then if ok then b.loaderDone x.hdr else b.loaderFail 2 else b
      | none => b
    else match b.dg.look c with
      | some ⟨some _, some (addr, res, cmp, db, le)⟩ =>
        let b := if cmp then b else b.dmaWrite rqDigest 4 res (leBytes digest.toNat 48)
        (b.dropCtx c).digestEnd addr (if cmp && !ok then 2 else 1) db le
      | some ⟨none, _⟩ =>
        match b.spm.act, b.spm.img with
        | some a, some x =>
          if a.ctx = some c ∧ 256 < x.got ∧ x.got = imgLen x.hdr then
            let b := { b with dg := b.dg.del c }
            if ok then b.actVerified a x.hdr else ({ b with dg := b.dg.put c ⟨none, none⟩ } : Block).actVerifyFail 2
          else b
        | _, _ => b
      | _ => b

/-! ## Activation (R189 to R195) -/

/-- A START refused (R187, R189, R193): PHASE is FAILED with the cause, STEPS, CLUSTER and MSFVCHG are 0, and source 404 fires, where
the spec says only that START is refused or ends with the cause (DESIGN CHOICE, log entry 85). -/
def Block.actRefuse (b : Block) (cause : Nat) : Block := b.actEnd cause

/-- ACT_CTRL.START with MODE (R189, R193, R194). -/
def Block.actStart (b : Block) (reload : Bool) : Block :=
  if b.spm.act.isSome then b.put R.ACT_STAT_CAUSE 6
  else
    let b := ((b.clear R.ACT_STAT_STEPS).clear R.ACT_STAT_CLUSTER).clear R.ACT_STAT_MSFVCHG
    if reload && b.percEmpty % 16 != 15 then b.actRefuse 9
    else if !b.flag R.LDR_STAT_MVALID then b.actRefuse 4
    else match (List.range 72).find? fun n => b.peIs n .spare || b.peIs n .empty with
      | none => b.actRefuse 7
      | some n =>
        let b := ((Block.clearStore n b).put R.ACT_STAT_PHASE 1).clear R.ACT_STAT_CAUSE
        (b.modSpm fun s => { s with
          img := some ⟨some n, 0, [], [], false⟩
          act := some ⟨reload, n, none, [], none, none, false, false⟩ }).giveCtx

/-- ACTIVATION_START (R189, R193, R194): a write of ACT_CTRL.START with MODE. -/
def execActivationStart (reload : Bool) (s : State) : Host.Outcome State Fault Refusal :=
  done s (s.blk.atReg R.ACT_CTRL_START fun b => (b.put R.ACT_CTRL_MODE (bit reload)).actStart reload)

/-- A logical engine frozen on its own engine goes on from its macro state (R191, R193); one that has not reached its freeze point is
asked no longer. -/
def Block.thaw (b : Block) (k : Nat) : Block :=
  let n := b.peOf k
  let was := (b.engine n).frozen
  let b := b.modEngine n fun e =>
    if e.frozen then { e.atMacro with frozen := false, freezeReq := false, wdgExact := false } else { e with freezeReq := false }
  let b := if was then b.clear (R.ENG_USTAT_HALTED n) else b
  (b.setLe k 0).live [mirLe k]

/-- A step that waits for the release of a clock-stop halt is given up at ABORT (R194). -/
def Block.stopWaiting (b : Block) : Block :=
  let b : Block := match b.spm.act.bind (·.inPlace) with
    | some k =>
      if b.flag (R.ENG_DBGSTAT_CSTOP (b.peOf k)) && !(b.engine (b.peOf k)).frozen then
        (b.thaw k).modSpm fun s => { s with act := s.act.map fun a => { a with inPlace := none } }
      else b
    | none => b
  match b.spm.move with
  | some m =>
    if m.origin = 3 ∧ (m.phase = .freeze ∨ m.phase = .copy) ∧ b.flag (R.ENG_DBGSTAT_CSTOP m.src) then b.moveDropped m else b
  | none => b

/-- ACT_CTRL.ABORT (R194): no further step starts. -/
def Block.actAbort (b : Block) : Block :=
  if b.spm.act.isSome then
    (b.modSpm fun s => { s with act := s.act.map fun a => { a with abort := true } }).stopWaiting
  else b

/-- ACTIVATION_ABORT (R194): a write of ACT_CTRL.ABORT. -/
def execActivationAbort (s : State) : Host.Outcome State Fault Refusal :=
  done s (s.blk.atReg R.ACT_CTRL_ABORT Block.actAbort)

/-- Engine `n` holds the new image. -/
def Block.hasNew (b : Block) (a : Act) (n : Nat) : Bool :=
  b.get (R.ENG_CSSTAT_IMGST n) == 2 && (b.engine n).csDigest == some a.digest

/-- A source of the new image (R176). -/
def Block.newSource (b : Block) (a : Act) : Option Nat := (List.range 72).find? fun n => b.hasNew a n && b.isSource n

/-- A copy begins (R190). -/
def Block.beginCopy (b : Block) (src dst : Nat) (use : CopyFor) : Block :=
  (b.put (R.ENG_CSSTAT_IMGST dst) 1).modSpm fun s => { s with copies := s.copies ++ [⟨src, dst, use⟩] }

/-- The logical engine of cluster `c` that is to move next: the lowest-numbered one on an engine without the new image. -/
def Block.rollNext (b : Block) (a : Act) (c : Nat) : Option Nat :=
  (List.range 64).find? fun k =>
    b.peOf k / 9 == c && b.peIs (b.peOf k) .active && b.flag (R.ENG_ID_RUN (b.peOf k)) && !b.hasNew a (b.peOf k)

/-- The free engines of a cluster. -/
def freeOf (b : Block) (c : Nat) : List Nat := ((List.range 9).map (9 * c + ·)).filter fun n => b.peIs n .spare

/-- The next ROLL step (R191). -/
def Block.rollStep (b : Block) (a : Act) : Block :=
  let c := b.get R.ACT_STAT_CLUSTER
  let free := freeOf b c
  match b.rollNext a c with
  | some k =>
    match free.find? (b.hasNew a), free.find? fun n => b.get (R.ENG_CSSTAT_IMGST n) != 1, b.newSource a with
    | some _, _, _ => b.modSpm fun s => { s with act := some { a with step := some k } }
    | none, some f, some src => b.beginCopy src f .roll
    | none, none, some _ =>
      if free.isEmpty then b.modSpm fun s => { s with act := some { a with step := some k } } else b
    | _, _, none => b
  | none =>
    match free.find? (fun n => !b.hasNew a n), b.newSource a with
    | some f, some src => b.beginCopy src f .roll
    | _, _ =>
      if c = 7 then b.actEnd 0 else (b.put R.ACT_STAT_CLUSTER (c + 1)).clear R.ACT_STAT_STEPS

/-- The step of a logical engine applied as a transition (R191, R192): a move onto the free engine that holds the new image,
or, without one, a freeze at a macro boundary on its own engine. -/
def Block.applyStep (k : Nat) (b : Block) : Block :=
  match b.spm.act with
  | none => b
  | some a =>
    let src := b.peOf k
    if b.leState k ≠ 0 ∨ !b.peIs src .active then b
    else match (freeOf b (src / 9)).find? (b.hasNew a) with
      | some d =>
        let kind := if b.get (R.ENG_CSVER_MSFV src) = b.get (R.ENG_CSVER_MSFV d) then MoveKind.trapok else .atMacro
        b.beginMove ⟨k, src, d, kind, 1, 3, false, .freeze, false, none⟩ none
      | none =>
        let b := (b.modEngine src fun e => { e with freezeReq := true }).setLe k 1
        (b.modSpm fun s => { s with act := some { a with inPlace := some k } }).live [mirLe k]

/-- Logical engines that a RELOAD has asked to freeze. -/
def Block.frozenLes (b : Block) : List Nat := (List.range 64).filter fun k => b.leState k == 1

/-- Logical engines that run, or are asked to freeze no longer, while a RELOAD needs all of them frozen (R193). -/
def Block.unfrozenLes (b : Block) : List Nat :=
  (List.range 64).filter fun k =>
    b.leState k == 0 || (b.leState k == 1 && !(b.engine (b.peOf k)).frozen && !(b.engine (b.peOf k)).freezeReq)

/-- Logical engine `k` is asked to freeze at a macro boundary. -/
def Block.askFreeze (b : Block) (k : Nat) : Block :=
  ((b.modEngine (b.peOf k) fun e => { e with freezeReq := true }).setLe k 1).live [mirLe k]

/-- The next RELOAD step (R193, R194): every logical engine is asked to freeze; once all are frozen, a source of the new image is copied to
all other stores. -/
def Block.reloadStep (b : Block) (a : Act) : Block :=
  if b.get R.ACT_STAT_PHASE = 3 then
    if a.abort || a.faulted then b.frozenLes.foldl Block.thaw (b.actEnd (if a.faulted then 8 else 10))
    else if !b.unfrozenLes.isEmpty then b.unfrozenLes.foldl Block.askFreeze b
    else if b.frozenLes.all fun k => (b.engine (b.peOf k)).frozen then
      match b.newSource a with
      | none => b
      | some src =>
        let b := b.put R.ACT_STAT_PHASE 4
        forEach 72 (fun n b => if n = src || b.peIs n .retired then b else b.beginCopy src n .reload) b
    else b
  else b

/-- ACTIVATION_STEP (R191, R193, R194): the next step, once the one under way has ended. -/
def execActivationStep (s : State) : Host.Outcome State Fault Refusal :=
  let b := s.blk
  done s <|
    match b.spm.act with
    | none => b
    | some a =>
      if b.get R.ACT_STAT_PHASE = 1 || b.spm.move.isSome || !b.spm.copies.isEmpty || a.step.isSome then b
      else if a.reload then b.reloadStep a
      else match a.inPlace with
        | some k =>
          let n := b.peOf k
          match b.newSource a with
          | some src => if (b.engine n).frozen then b.beginCopy src n (.inPlace k) else b
          | none => b
        | none =>
          if a.faulted then b.actEnd 8
          else if a.abort then b.actEnd 10
          else b.rollStep a

/-- Every copy of a RELOAD has ended (R193): each engine that runs a logical engine starts at 0x0000. -/
def Block.reloadDone (b : Block) : Block :=
  let b := b.frozenLes.foldl (fun b k => b.sendStart (b.peOf k) k) b
  (b.live (((List.range 72).map mirPe) ++ (List.range 64).map mirLe)).actEnd 0

/-- STORE_COPY_DONE (R176, R190): a copy under way ends, and what it was for goes on; a copy whose source no longer qualifies goes on
from another one, or waits for one. -/
def execStoreCopyDone (dst : PE) (s : State) : Host.Outcome State Fault Refusal :=
  let b := s.blk
  done s <|
    match b.spm.copies.find? fun c => c.dst == dst.val with
    | none => b
    | some c =>
      match b.copySource c with
      | none => b
      | some m =>
        if m ≠ c.src then
          b.modSpm fun s => { s with copies := s.copies.map fun x => if x.dst = c.dst then { x with src := m } else x }
        else
          let b := (b.csCopy c.src c.dst).modSpm fun s => { s with copies := s.copies.filter fun x => x.dst != c.dst }
          match c.use with
          | .move => b.moveCopied
          | .roll => b.put R.ACT_STAT_STEPS (b.get R.ACT_STAT_STEPS + 1)
          | .inPlace k =>
            let b := (b.put R.ACT_STAT_STEPS (b.get R.ACT_STAT_STEPS + 1)).thaw k
            b.modSpm fun s => { s with act := s.act.map fun a => { a with inPlace := none } }
          | .reload => if b.spm.copies.any fun x => x.use == .reload then b else b.reloadDone
          | .restore => (b.beginTest c.dst).live [mirPe c.dst]

/-! ## Control-store rows (R175, R177, R188) -/

/-- CS_ERROR_REPAIR (R175, R176): a row with a recorded error; `again`: the corrected word reads wrong again; `own`: the own
store still gives an uncorrectable row's word codeword by codeword. -/
def execCsErrorRepair (n : PE) (row : BitVec 13) (again own : Bool) (s : State) : Host.Outcome State Fault Refusal :=
  done s (s.blk.csRepair n row.toNat again own)

/-- CS_SCRUB (R177, R312): one row of a LOADED store, spare rows included; scrub pauses on a store that is being copied. An uncorrectable
row that it finds is a strike. -/
def execCsScrub (n : PE) (find : EccFind) (s : State) : Host.Outcome State Fault Refusal :=
  let b := s.blk
  let e := b.engine n
  let r := e.csScrub
  done s <|
    if b.get (R.ENG_CSSTAT_IMGST n) ≠ 2 ∨ (b.spm.copies.any fun c => c.src == n.val || c.dst == n.val) then b
    else
      let b := b.setEngine n { e with csScrub := (r + 1) % 8256 }
      let row := if r < 8192 then some r else (e.csMap.find? (·.2 == r - 8192)).map (·.1)
      match row, find with
      | some r, .correctable _ => b.csFound n r false
      | some r, .uncorrectable =>
        let b' := b.csFound n r true
        if e.csErr.look r = some true then b' else (b'.strike n).live [mirPe n]
      | _, _ => b

/-- CS_CLRCNT (R188). -/
def execCsClrcnt (n : PE) (s : State) : Host.Outcome State Fault Refusal :=
  done s (s.blk.atEng n 0x24 fun b => b.clear (R.ENG_CSSTAT_CECNT n))

/-! ## The Spare Manager's commands and transitions (11, R303 to R319) -/

/-- A command from SPM_CMD or MIR_CMD; one written to MIR_CMD in Drip is discarded (R319). -/
def Block.spmCommand (b : Block) (op : Nat) (mode : Bool) (pe le : Nat) (mgmt : Bool) : Block :=
  if mgmt && b.drips then b.modSpm fun s => { s with mgmt := 0xF }
  else if b.drips then b
  else b.queueCmd ⟨op, mode, pe, le, if mgmt then 2 else 1⟩

/-- SPM_MOVE (R313); `mode`: at a macro boundary. -/
def execSpmMove (mode : Bool) (pe : BitVec 7) (le : LE) (mgmt : Bool) (s : State) : Host.Outcome State Fault Refusal :=
  done s (s.blk.spmCommand 1 mode pe.toNat le mgmt)

/-- SPM_RETIRE (R313). -/
def execSpmRetire (mode : Bool) (pe : BitVec 7) (le : LE) (mgmt : Bool) (s : State) : Host.Outcome State Fault Refusal :=
  done s (s.blk.spmCommand 2 mode pe.toNat le mgmt)

/-- SPM_RESTORE (R313). -/
def execSpmRestore (mode : Bool) (pe : BitVec 7) (le : LE) (mgmt : Bool) (s : State) : Host.Outcome State Fault Refusal :=
  done s (s.blk.spmCommand 3 mode pe.toNat le mgmt)

/-- SPM_TEST (R313). -/
def execSpmTest (mode : Bool) (pe : BitVec 7) (le : LE) (mgmt : Bool) (s : State) : Host.Outcome State Fault Refusal :=
  done s (s.blk.spmCommand 4 mode pe.toNat le mgmt)

/-- SPM_RESTART (R313). -/
def execSpmRestart (mode : Bool) (pe : BitVec 7) (le : LE) (mgmt : Bool) (s : State) : Host.Outcome State Fault Refusal :=
  done s (s.blk.spmCommand 5 mode pe.toNat le mgmt)

/-- The engine whose fault, or whose retirement by the hardware, is the next transition that needs a move (R194). -/
def Block.nextLeaver (b : Block) : Option Nat :=
  match b.spm.hwQ, b.spm.cmdQ with
  | .fault n _ :: _, _ | .wear n :: _, _ => some n
  | [], c :: _ => if c.op = 2 ∧ c.origin = 0 ∧ b.peIs c.pe .active ∧ !b.stepping then some c.pe else none
  | _, _ => none

/-- A fault or a retirement that needs a move ends an activation with FAULT (R194): of a ROLL in the cluster being activated, of a
RELOAD that is quiescing in any. -/
def Block.actMeets (b : Block) : Block :=
  match b.nextLeaver, b.spm.act with
  | some n, some a =>
    if b.rolling (n / 9) || (a.reload && b.get R.ACT_STAT_PHASE == 3) then
      b.modSpm fun s => { s with act := some { a with faulted := true } }
    else b
  | _, _ => b

/-- TRANSITION_APPLY (R194, R312, R314, R316). -/
def execTransitionApply (s : State) : Host.Outcome State Fault Refusal :=
  done s (s.blk.queueWear.actMeets.applyTransition Block.spareTagRow Block.applyStep)

/-- MOVE_DRAIN_DONE (R303). -/
def execMoveDrainDone (s : State) : Host.Outcome State Fault Refusal := done s s.blk.moveDrained

/-- MOVE_TRANSFER_DONE (R304, R308): `crcOk`: the frame's check holds. -/
def execMoveTransferDone (crcOk : Bool) (s : State) : Host.Outcome State Fault Refusal := done s (s.blk.moveTransferred crcOk)

/-- MOVE_REMAP (R304). -/
def execMoveRemap (s : State) : Host.Outcome State Fault Refusal := done s s.blk.moveRemap

/-- REMAP_ACKNOWLEDGED (R304, R320): `ns` is the time from the freeze point to the resume. -/
def execRemapAcknowledged (ns : BitVec 16) (s : State) : Host.Outcome State Fault Refusal := done s (s.blk.moveAcked ns.toNat)

/-- ENGINE_TEST_DONE (R311). -/
def execEngineTestDone (n : PE) (pass : Bool) (s : State) : Host.Outcome State Fault Refusal := done s (s.blk.testDone n pass)

/-- WEAR_SAMPLE (R312): the end of a sampling period for every engine. -/
def execWearSample (s : State) : Host.Outcome State Fault Refusal := done s (forEach 72 (fun n b => b.wearSample n) s.blk)

/-- MIRROR_UPDATE (R317). -/
def execMirrorUpdate (s : State) : Host.Outcome State Fault Refusal := done s s.blk.mirrorUpdate

end Sys2Proof.Machine
end

