-- ==== Sys2Proof/Machine/Timers.lean ====
section
/-! DEFINITION. Time: TICKS, TNOW and the servo, timer channels and capture pairs, the alarm (14, R362 to R387). -/
namespace Sys2Proof.Machine

/-- The timers' own state changed. -/
def Block.modTim (b : Block) (f : Timers → Timers) : Block := { b with timers := f b.timers }

/-! ## Channels (R362 to R368) -/

/-- The division factor of a PRESC value (R362). -/
def divOf (presc : Nat) : Nat :=
  match presc with
  | 0 => 1
  | 1 => 2
  | 2 => 4
  | 3 => 8
  | 4 => 16
  | 5 => 64
  | 6 => 256
  | _ => 1024

/-- Channel `c` is the odd channel of a linked pair (R366). -/
def Block.oddLinked (b : Block) (c : Nat) : Bool := c % 2 == 1 && b.flag (R.TC_CTRL_LINK (c - 1))

/-- Channel `c` is the even channel of a linked pair (R366). -/
def Block.linked (b : Block) (c : Nat) : Bool := c % 2 == 0 && b.flag (R.TC_CTRL_LINK c)

/-- The bits of a channel's count: 64 for a linked pair (R366). -/
def Block.tcBits (b : Block) (c : Nat) : Nat := if b.linked c then 64 else 32

/-- A channel's count, both halves of a linked pair (R366). -/
def Block.tcCount (b : Block) (c : Nat) : Nat :=
  if b.linked c then b.get64 (R.TC_COUNT_COUNT c) (R.TC_COUNT_COUNT (c + 1)) else b.get (R.TC_COUNT_COUNT c)

/-- A channel's count written. -/
def Block.setCount (b : Block) (c v : Nat) : Block :=
  if b.linked c then b.put64 (R.TC_COUNT_COUNT c) (R.TC_COUNT_COUNT (c + 1)) v else b.put (R.TC_COUNT_COUNT c) v

/-- A channel's reload value. -/
def Block.tcLoad (b : Block) (c : Nat) : Nat :=
  if b.linked c then b.get64 (R.TC_LOAD_LOAD c) (R.TC_LOAD_LOAD (c + 1)) else b.get (R.TC_LOAD_LOAD c)

/-- A channel is held by its owner's clock-stop halt (R368). -/
def Block.tcFrozen (b : Block) (c : Nat) : Bool :=
  let k := b.get (R.TC_CTRL_OWNER c)
  b.flag (R.TC_CTRL_FREEZE c) && decide (k < 64) && b.flag (R.ENG_DBGSTAT_CSTOP (b.peOf k))

/-- Prescaled ticks still to come: a count of 0 stands for the whole range (R363, R366). -/
def Block.tcLeft (b : Block) (c : Nat) : Nat :=
  if b.tcCount c = 0 then 2 ^ b.tcBits c else b.tcCount c

/-- The PERIPH ticks from now to a channel's expiry (R363). -/
def Block.tcDue (b : Block) (c : Nat) : Nat :=
  b.tcLeft c * divOf (b.get (R.TC_CTRL_PRESC c)) - b.timers.presc.get c 0

/-- Something noted of the present PERIPH tick. -/
def Block.noting (b : Block) (f : Tick → Tick) : Block := { b with tick := f b.tick }

/-- Channel `c` armed (R363): COUNT from LOAD, the prescaler anew; a group start in the same tick wins over any other arm (R365). -/
def Block.tcArm (b : Block) (c : Nat) : Block :=
  if b.oddLinked c || b.tick.started.contains c then b
  else
    let b := ((b.setCount c (b.tcLoad c)).raise (R.TC_STAT_ARMED c)).clear (R.TC_STAT_WAITPH c)
    b.modTim fun t => { t with presc := t.presc.del c, phase := t.phase.del c }

/-- Channel `c` stopped: its count holds (R364). -/
def Block.tcStop (b : Block) (c : Nat) : Block :=
  if b.oddLinked c then b
  else ((b.clear (R.TC_STAT_ARMED c)).clear (R.TC_STAT_WAITPH c)).modTim fun t => { t with phase := t.phase.del c }

/-- Channel `c` has expired `k` times, and `past` prescaled ticks have passed since the last of them (R363, R366): a channel that
reloads counts on from LOAD, any other one stops at 0. -/
def Block.tcExpire (b : Block) (c k past : Nat) : Block :=
  let b := b.incSat (R.TC_STAT_EXPCNT c) k
  let b := if b.flag (R.TC_CTRL_RELOAD c) then (b.setCount c (b.tcLoad c)).setCount c ((b.setCount c (b.tcLoad c)).tcLeft c - past)
    else ((b.setCount c 0).clear (R.TC_STAT_ARMED c)).modTim fun t => { t with presc := t.presc.del c }
  b.event (216 + c)

/-- The prescaled ticks from one expiry of channel `c` to the next (R363). -/
def Block.tcPeriod (b : Block) (c : Nat) : Nat := if b.tcLoad c = 0 then 2 ^ b.tcBits c else b.tcLoad c

/-- Channel `c` of a group start (R367): armed, its counting delayed by PHASE. -/
def Block.tcStart (b : Block) (c : Nat) : Block :=
  if b.oddLinked c then b
  else
    let p := b.get (R.TC_PHASE_PHASE c)
    let b := b.tcArm c
    let b := if p = 0 then b else (b.raise (R.TC_STAT_WAITPH c)).modTim fun t => { t with phase := t.phase.put c p }
    b.noting fun t => { t with started := c :: t.started }

/-- Channel `c` counts: armed, not in a phase delay, not held. -/
def Block.tcRuns (b : Block) (c : Nat) : Bool :=
  b.pd4 && b.flag (R.TC_STAT_ARMED c) && !b.flag (R.TC_STAT_WAITPH c) && !b.oddLinked c && !b.tcFrozen c

/-! ## One PERIPH tick after another (R363, R367, R375 to R377; log entry 31) -/

/-- A channel that counts, over `dt` PERIPH ticks: its expiries fall at LOAD × div from one another and never drift (R363). -/
def Block.tcCountOn (dt c : Nat) (b : Block) : Block :=
  let d := divOf (b.get (R.TC_CTRL_PRESC c))
  let p := b.timers.presc.get c 0 + dt
  let b := b.modTim fun t => { t with presc := t.presc.put c (p % d) }
  if p / d < b.tcLeft c then b.setCount c (b.tcLeft c - p / d)
  else b.tcExpire c (if b.flag (R.TC_CTRL_RELOAD c) then 1 + (p / d - b.tcLeft c) / b.tcPeriod c else 1)
    ((p / d - b.tcLeft c) % b.tcPeriod c)

/-- A channel over `dt` PERIPH ticks: its phase delay first, then its count (R363, R367, R368). -/
def Block.tcElapse (dt c : Nat) (b : Block) : Block :=
  if dt = 0 then b
  else if b.pd4 && b.flag (R.TC_STAT_WAITPH c) && !b.tcFrozen c then
    let p := b.timers.phase.get c 0
    if dt < p then b.modTim fun t => { t with phase := t.phase.put c (p - dt) }
    else
      let b := (b.clear (R.TC_STAT_WAITPH c)).modTim fun t => { t with phase := t.phase.del c }
      if p < dt && b.tcRuns c then b.tcCountOn (dt - p) c else b
  else if b.tcRuns c then b.tcCountOn dt c
  else b

/-- {TNOW, FRAC} as one number in units of 2⁻²⁸ ns (R376). -/
def Block.fine (b : Block) : Nat := b.tnow * 2 ^ 28 + b.frac

/-- {TNOW, FRAC} given a value, modulo its 92 bits. -/
def Block.setFine (b : Block) (v : Nat) : Block :=
  { b.put64 R.TNOW_LO_TNOW R.TNOW_HI_TNOW (v / 2 ^ 28) with frac := v % 2 ^ 28 }

/-- {TNOW, FRAC} moved by a signed amount, modulo its 92 bits. -/
def Block.moveFine (b : Block) (d : Int) : Block := b.setFine (ofSigned (b.fine + d) 92)

/-- TICKS (R375). -/
def Block.ticks (b : Block) : Nat := b.get64 R.TIME_TICKS_LO_TICKS R.TIME_TICKS_HI_TICKS

/-- The divider of Pin Sequencer `n` over `dt` ticks (R414). -/
def Block.psElapse (dt n : Nat) (b : Block) : Block :=
  if b.pd4 && b.flag (R.PS_CTRL_EN n) then
    let d := b.get (R.PS_CLKDIV_DIV n)
    let p := b.pinseq.get n PinSeq.reset
    { b with pinseq := b.pinseq.put n { p with div := (p.div + dt) % (if d = 0 then 65536 else d) } }
  else b

/-- `dt` PERIPH ticks in which nothing but counting falls due (R363, R375, R377, R414, R478). -/
def Block.pass (b : Block) (dt : Nat) : Block :=
  let b := b.put64 R.TIME_TICKS_LO_TICKS R.TIME_TICKS_HI_TICKS (b.ticks + dt)
  let b := b.setFine (b.fine + dt * b.get R.TIME_INC_INC)
  (forEach 16 (Block.psElapse dt) (forEach 64 (Block.tcElapse dt) b)).countGlob 0x01 dt

/-- The ticks until TNOW reaches a time; none where it stands still below it (R367, R382). -/
def Block.ticksTo (b : Block) (t : Nat) : Option Nat :=
  let inc := b.get R.TIME_INC_INC
  if t ≤ b.tnow then some 0
  else if inc = 0 then none else some ((t * 2 ^ 28 - b.fine + inc - 1) / inc)

/-- TMR_GMASK as one number. -/
def Block.groupMask (b : Block) : Nat := b.get64 R.TMR_GMASK_LO_MASK R.TMR_GMASK_HI_MASK

/-- The group start's tick (R367): every named channel is armed. -/
def Block.startGroup (b : Block) : Block :=
  let m := b.groupMask
  forEach 64 (fun c b => if m.testBit c then b.tcStart c else b)
    ((b.clear R.TMR_GCTRL_PEND).modTim fun t => { t with go := false })

/-- The Pin Sequencers' group start (R421): every sequencer that MASK names runs, its divider anew. -/
def Block.psStart (b : Block) : Block :=
  let m := b.get R.PS_GCTRL_MASK
  forEach 16 (fun n b =>
    if m.testBit n then
      let b := b.raise (R.PS_CTRL_EN n)
      { b with pinseq := b.pinseq.put n { b.pinseq.get n PinSeq.reset with div := 0 } }
    else b) ((b.clear R.PS_GCTRL_PEND).modTim fun t => { t with psGo := false })

/-- LOCKED falls (R379, R380). -/
def Block.loseLock (b : Block) : Block :=
  let b := if b.flag R.TIME_STAT_LOCKED then b.raise R.TIME_EVT_LOCKLOST else b
  (b.clear R.TIME_STAT_LOCKED).clear R.TIME_STAT_LOCKCNT

/-- An integer held between two bounds. -/
def clampInt (v lo hi : Int) : Int := if v < lo then lo else if hi < v then hi else v

/-- θ saturated to 64 signed bits (R378). -/
def satTheta (v : Int) : Int := clampInt v (-(2 ^ 63)) (2 ^ 63 - 1)

/-- A servo result (R379): a step, or a new TIME_INC. -/
def Block.servoResult (b : Block) (theta : Int) : Block :=
  let max := (b.get R.TIME_ADJMAX_ADJMAX : Int)
  if b.flag R.TIME_CTRL_STEPEN && decide (b.get R.TIME_STEPTHR_THR * 2 ^ 16 ≤ theta.natAbs) then
    ((b.moveFine (theta * 2 ^ 12)).loseLock).raise R.TIME_EVT_STEP
  else
    let i0 := toSigned (b.get R.TIME_INTEG_INTEG) 32 + theta / 2 ^ b.get R.TIME_SERVO_KISH
    let integ := clampInt i0 (-max) max
    let a0 := theta / 2 ^ b.get R.TIME_SERVO_KPSH + integ
    let adj := clampInt a0 (-max) max
    let bound := integ != i0 || adj != a0
    let b := if bound then b.raise R.TIME_EVT_CLAMP else b
    let b := (b.put R.TIME_STAT_CLAMPED (bit bound)).put R.TIME_INTEG_INTEG (ofSigned integ 32)
    let b := b.put R.TIME_INC_INC (ofSigned ((b.get R.TIME_NOMINC_NOMINC : Int) + adj) 32)
    let cnt := if theta.natAbs ≤ b.get R.TIME_LOCK_LOCKTHR * 2 ^ 16 then min (b.get R.TIME_STAT_LOCKCNT + 1) 255 else 0
    if b.get R.TIME_LOCK_LOCKN ≤ cnt then
      (b.follow R.TIME_STAT_LOCKED R.TIME_EVT_LOCK true).put R.TIME_STAT_LOCKCNT cnt
    else b.loseLock.put R.TIME_STAT_LOCKCNT cnt

/-- The servo's result where it has fallen due (R377, R379, R381): none in a tick that a LOAD loaded, and TIME_INC stays where SERVO
is 0. -/
def Block.servoDue (b : Block) : Block :=
  match b.timers.servo with
  | some (theta, due) =>
    if b.ticks < due then b
    else
      let load := b.tick.loaded
      let b := (b.modTim fun t => { t with servo := none }).noting fun t => { t with servoed := true }
      if b.flag R.TIME_CTRL_SERVO && !load then b.servoResult theta else b
  | none => b

/-- TNOW has reached the time of a timed group start, or the tick after a GO has come (R367, R421). -/
def Block.startDue (b : Block) : Bool := decide (b.get64 R.TMR_GAT_LO_TNOW R.TMR_GAT_HI_TNOW ≤ b.tnow)

/-- The comparisons of a tick (R377, R381, R382): the timed group starts and the alarm. -/
def Block.compare (b : Block) : Block :=
  let b := if b.pd4 && b.flag R.TMR_GCTRL_PEND && b.startDue then b.startGroup else b
  let b := if b.pd4 && b.flag R.PS_GCTRL_PEND && b.startDue then b.psStart else b
  if b.flag R.TIME_STAT_ALARMED && decide (b.get64 R.TIME_ALARM_LO_TNOW R.TIME_ALARM_HI_TNOW ≤ b.tnow) then
    (b.clear R.TIME_STAT_ALARMED).raise R.TIME_EVT_ALARM
  else b

/-- Crema's slot `i` becomes FREE by age (R403). -/
def Block.cremaAge (b : Block) (i : Nat) : Block :=
  ({ b with crema := b.crema.del i }.inc R.CREMA_AGED_COUNT 1).raise R.CREMA_EVT_AGED

/-- The tick in which a PENDING slot's age reaches AGE, where it ever does (R403). -/
def Block.cremaDue (b : Block) (c : CSlot) : Option Nat :=
  let age := b.get R.CREMA_CTRL_AGE
  if c.held.isNone && age != 0 then some (c.born + age * 2 ^ 16) else none

/-- Crema's last step of a tick (R406): every PENDING slot whose age is over becomes FREE. -/
def Block.cremaAgeing (b : Block) : Block :=
  b.crema.foldl (fun b p => if (b.cremaDue p.2).any fun d => decide (d ≤ b.ticks) then b.cremaAge p.1 else b) b

/-- The present tick ends: what falls due in it and no command has brought (R377, R406). -/
def Block.endTick (b : Block) : Block := b.servoDue.compare.cremaAgeing

/-- A capture pair publishes its triple (R372): NEW, OVR where an unread event is lost, and its event. -/
def Block.publish (b : Block) (c rise fall width : Nat) (pol : Bool) : Block :=
  let b := if b.flag (R.TC_STAT_NEW c) then b.raise (R.TC_STAT_OVR c) else b
  let b := ((b.put (R.TC_CAPR_RISE c) rise).raise (R.TC_STAT_NEW c)).modTim fun t =>
    { t with live := t.live.put c (fall, width, pol) }
  (b.noting fun t => { t with published := c :: t.published }).event (280 + c)

/-- The steps of an entry into Drip as PWR_STAT.PHASE shows them (R449): ACCEPT, FREEZE until every ACTIVE engine is frozen, SAVE until
their state is written, BANKS until every request sent has been served, SHADOW. -/
def Block.dripStep (b : Block) : Block :=
  let act := fun (p : Nat → Bool) => (List.range 72).all fun n => !b.peIs n .active || p n
  match b.get R.PWR_STAT_PHASE with
  | 1 => b.put R.PWR_STAT_PHASE 2
  | 2 => if act fun n => (b.engine n).frozen then b.put R.PWR_STAT_PHASE 3 else b
  | 3 => if (act b.drained) && b.spm.move.isNone then b.put R.PWR_STAT_PHASE 4 else b
  | 4 =>
    if b.dram.waiting.isEmpty && b.dram.presented.isEmpty && (List.range 64).all fun k => (b.bankAt k).waiting.isEmpty then
      b.put R.PWR_STAT_PHASE 5
    else b
  | _ => b

/-- A new tick begins: a new cycle of the Distributor, the publications held over (R374), and the start of a GO of the tick before
(R367, R421). -/
def Block.newTick (b : Block) : Block :=
  let held := b.tick.held
  let b := { b.distCycle with tick := Tick.fresh }
  let b := held.foldl (fun b p => b.publish p.1 p.2.1 p.2.2.1 p.2.2.2.1 p.2.2.2.2) b
  let b := if b.timers.go && b.pd4 then b.startGroup else b
  (if b.timers.psGo && b.pd4 then b.psStart else b).dripStep

/-- The sooner of two moments. -/
def soonest (x y : Option Nat) : Option Nat :=
  match x, y with
  | some m, some n => some (min m n)
  | some m, none => some m
  | none, y => y

/-- The ticks to the next tick in which more than counting falls due: a held publication or a GO, the servo's result, a timed start,
the alarm. -/
def Block.nextStop (b : Block) : Option Nat :=
  let near := if b.timers.go || b.timers.psGo || !b.tick.held.isEmpty then some 1 else none
  let servo := b.timers.servo.map fun p => p.2 - b.ticks
  let group := if b.pd4 && (b.flag R.TMR_GCTRL_PEND || b.flag R.PS_GCTRL_PEND) then
      b.ticksTo (b.get64 R.TMR_GAT_LO_TNOW R.TMR_GAT_HI_TNOW) else none
  let alarm := if b.flag R.TIME_STAT_ALARMED then b.ticksTo (b.get64 R.TIME_ALARM_LO_TNOW R.TIME_ALARM_HI_TNOW) else none
  soonest near (soonest servo (soonest group alarm))

/-- Ticks up to the next stop, at most `dt` and at least one; what is left of `dt`. The present tick is not yet ended. -/
def Block.stretch (b : Block) (dt : Nat) : Block × Nat :=
  if dt = 0 then (b, 0)
  else
    let b := b.endTick
    let k := match b.nextStop with
      | some n => min dt (max 1 n)
      | none => dt
    ((b.pass k).newTick, dt - k)

/-- `dt` PERIPH ticks pass. Each stop between them ends in its own tick, and there are at most six: the one held over, the servo's
result, the two group starts, the alarm, and the end. -/
def Block.elapse (b : Block) (dt : Nat) : Block :=
  ((List.range 7).foldl (fun r _ => r.1.stretch r.2) (b, dt)).1

/-! ## Channel commands (R362 to R370) -/

/-- TIMER_EXPIRY (R363): a channel that counts reaches 0; the ticks to it pass, and the expiry comes with the last of them. -/
def execTimerExpiry (c : Fin 64) (s : State) : Host.Outcome State Fault Refusal :=
  let b := s.blk
  done s (if b.tcRuns c then b.elapse (b.tcDue c) else b)

/-- TIMER_ARM (R364): a write of TCc_CTRL.ARM. -/
def execTimerArm (c : Fin 64) (s : State) : Host.Outcome State Fault Refusal :=
  done s (if s.blk.pd4 then s.blk.tcArm c else s.blk)

/-- TIMER_STOP (R364): a write of TCc_CTRL.STOP. -/
def execTimerStop (c : Fin 64) (s : State) : Host.Outcome State Fault Refusal :=
  done s (if s.blk.pd4 then s.blk.tcStop c else s.blk)

/-- TIMER_CLRCNT (R384): a write of TCc_STAT.CLRCNT. -/
def execTimerClrcnt (c : Fin 64) (s : State) : Host.Outcome State Fault Refusal :=
  done s (s.blk.atReg (R.TC_STAT_EXPCNT c) fun b => b.clear (R.TC_STAT_EXPCNT c))

/-- The channel of a timer strobe (R370): RANGE where A is no channel or the odd channel of a linked pair, WORLD where a
Tenant strobe meets a channel without TENANT. -/
def Block.timerOp (lim : Nat) (q : Strobe) (b : Block) (f : Nat → Block × W64) : Block × Except Nat W64 :=
  let c := q.a.toNat
  if lim ≤ c || (lim == 64 && b.oddLinked c) then (b, .error 0x01)
  else if q.tenant && !b.flag (R.TC_CTRL_TENANT c) then (b, .error 0x08)
  else let r := f c; (r.1, .ok r.2)

/-- ARM (R370): EXT timer ARM. -/
def execArm (n : PE) (s : State) : Host.Outcome State Fault Refusal :=
  done s (s.blk.extServe n 0x20 none fun q b =>
    b.timerOp 64 q fun c => ((b.put (R.TC_LOAD_LOAD c) q.b.toNat).tcArm c, 0))

/-- STOP (R370): EXT timer STOP. -/
def execStop (n : PE) (s : State) : Host.Outcome State Fault Refusal :=
  done s (s.blk.extServe n 0x21 none fun q b => b.timerOp 64 q fun c => (b.tcStop c, 0))

/-- READ (R370): EXT timer READ. -/
def execRead (n : PE) (s : State) : Host.Outcome State Fault Refusal :=
  done s (s.blk.extServe n 0x22 none fun q b => b.timerOp 64 q fun c =>
    (b, BitVec.ofNat 64 (b.get (R.TC_COUNT_COUNT c) + 2 ^ 32 * b.get (R.TC_STAT_ARMED c) +
      2 ^ 33 * b.get (R.TC_STAT_NEW c))))

/-! ## Group start (R367) -/

/-- A write of GO with TIMED as written (R367): the start waits for TMR_GAT, or for the next tick; a GO replaces a pending start. -/
def Block.groupGo (b : Block) (timed : Bool) : Block :=
  ((b.put R.TMR_GCTRL_TIMED (bit timed)).put R.TMR_GCTRL_PEND (bit timed)).modTim fun t => { t with go := !timed }

/-- GROUP_GO (R367); with TIMED = 0 the tick to the start passes. -/
def execGroupGo (timed : Bool) (s : State) : Host.Outcome State Fault Refusal :=
  done s (s.blk.atReg R.TMR_GCTRL_GO fun b => let b := b.groupGo timed; if timed then b else b.elapse 1)

/-- GROUP_CANCEL (R367). -/
def execGroupCancel (s : State) : Host.Outcome State Fault Refusal :=
  done s (s.blk.atReg R.TMR_GCTRL_CANCEL fun b => b.clear R.TMR_GCTRL_PEND)

/-- GROUP_START (R367): the first tick in which TNOW ≥ TMR_GAT; the ticks to it pass. -/
def execGroupStart (s : State) : Host.Outcome State Fault Refusal :=
  let b := s.blk
  done s (match b.flag R.TMR_GCTRL_PEND, b.ticksTo (b.get64 R.TMR_GAT_LO_TNOW R.TMR_GAT_HI_TNOW) with
    | true, some dt => (b.elapse dt).compare
    | _, _ => b)

/-- PHASE_DELAY_END (R367): a channel's phase delay is over and it counts; a held channel's delay does not end (R368). -/
def execPhaseDelayEnd (c : Fin 64) (s : State) : Host.Outcome State Fault Refusal :=
  let b := s.blk
  done s (if b.pd4 && b.flag (R.TC_STAT_WAITPH c) && !b.tcFrozen c then b.elapse (b.timers.phase.get c 0) else b)

/-! ## Capture pairs (R371 to R374) -/

/-- The filter of channel `c` lets an edge through in this tick (R371): the new level has held for FILT + 1 ticks since the edge before,
which went the other way. -/
def Block.filtered (b : Block) (c : Nat) (rising : Bool) : Bool :=
  match b.timers.edge.look c with
  | some (t, level) => rising != level && decide (t + b.get (R.TC_CTRL_FILT c) + 1 ≤ b.ticks)
  | none => true

/-- A filtered edge of channel `c`'s input accepted now (R371, R372). A publication of the tick in which the triple is read waits for the
next tick (R374). -/
def Block.capture (b : Block) (c : Nat) (rising : Bool) : Block :=
  let stamp := ofSigned ((b.get R.TIME_TICKS_LO_TICKS : Int) - b.get (R.TC_CTRL_FILT c) - 2) 32
  if !(b.pd4 && b.flag (R.TC_CTRL_CAPEN c) && b.filtered c rising) then b
  else
    let b := b.modTim fun t => { t with edge := t.edge.put c (b.ticks, rising) }
    let pol := b.flag (R.TC_CTRL_CAPPOL c)
    if b.flag (R.TC_STAT_CAPHALF c) then
      if rising == pol then
        let first := b.timers.first.get c 0
        let rise := if pol then stamp else first
        let fall := if pol then first else stamp
        let width := ofSigned ((stamp : Int) - first) 32
        let b := b.clear (R.TC_STAT_CAPHALF c)
        if b.tick.read.contains c then b.noting fun t => { t with held := t.held.put c (rise, fall, width, pol) }
        else b.publish c rise fall width pol
      else b
    else if rising != pol then
      (b.raise (R.TC_STAT_CAPHALF c)).modTim fun t => { t with first := t.first.put c stamp }
    else b

/-- CAPTURE_EDGE (R372): `dt` ticks pass and an edge of CAP_IN[c] comes through the filter. -/
def execCaptureEdge (c : Fin 16) (rising : Bool) (dt : W32) (s : State) : Host.Outcome State Fault Refusal :=
  done s ((s.blk.elapse dt.toNat).capture c rising)

/-- CAPEN cleared (R372): a half-captured event is discarded, and the filter starts anew. -/
def Block.captureOff (b : Block) (c : Nat) : Block :=
  (b.clear (R.TC_STAT_CAPHALF c)).modTim fun t => { t with edge := t.edge.del c }

/-- The tick of a read of TCc_CAPR or a READCAP (R374): a read of the tick of a publication comes ahead of it, so one that comes after
it is of the next tick. -/
def Block.captureTick (b : Block) (c : Nat) : Block := if b.tick.published.contains c then b.elapse 1 else b

/-- A read of TCc_CAPR (R373): the snapshot of the triple's other two words is taken, NEW cleared. -/
def Block.readCapr (b : Block) (c : Nat) : Block :=
  let l := b.timers.live.get c (0, 0, false)
  (((b.put (R.TC_CAPF_FALL c) l.1).put (R.TC_CAPW_WIDTH c) l.2.1).clear (R.TC_STAT_NEW c)).noting fun t =>
    { t with read := c :: t.read }

/-- CAPR_READ (R373). -/
def execCaprRead (c : Fin 16) (s : State) : Host.Outcome State Fault Refusal :=
  done s (s.blk.atReg (R.TC_CAPR_RISE c) fun b => (b.captureTick c).readCapr c)

/-- READCAP (R370): the earlier of RISE and FALL, and WIDTH; it counts as a read of TCc_CAPR. -/
def execReadcap (n : PE) (s : State) : Host.Outcome State Fault Refusal :=
  done s (s.blk.extServe n 0x23 none fun q b => b.timerOp 16 q fun c =>
    let b := b.captureTick c
    let l := b.timers.live.get c (0, 0, false)
    (b.readCapr c, BitVec.ofNat 64 ((if l.2.2 then l.1 else b.get (R.TC_CAPR_RISE c)) + 2 ^ 32 * l.2.1)))

/-! ## The time counter (R376, R377, R380 to R382) -/

/-- A LOAD (R377, R380): {TNOW, FRAC} := {TIME_SET, 0}. It comes ahead of the servo's result in its tick, so after one it is of the next
tick. -/
def Block.timeLoad (b : Block) : Block :=
  let b := if b.tick.servoed then b.elapse 1 else b
  ((b.setFine (b.get64 R.TIME_SET_LO_SET R.TIME_SET_HI_SET * 2 ^ 28)).loseLock).noting fun t => { t with loaded := true }

/-- A write of TIME_ADJ (R377, R380). -/
def Block.timeAdj (b : Block) (ns : Nat) : Block := (b.moveFine (toSigned ns 32 * 2 ^ 28)).loseLock

/-- TIME_LOAD (R377). -/
def execTimeLoad (s : State) : Host.Outcome State Fault Refusal := done s s.blk.timeLoad

/-- TIME_ADJ (R377). -/
def execTimeAdj (ns : W32) (s : State) : Host.Outcome State Fault Refusal := done s (s.blk.timeAdj ns.toNat)

/-- A write of TIME_ALARM_LO arms the alarm (R382). -/
def Block.armAlarm (b : Block) (lo : Nat) : Block := (b.put R.TIME_ALARM_LO_TNOW lo).raise R.TIME_STAT_ALARMED

/-- ALARM_ARM (R382). -/
def execAlarmArm (lo : W32) (s : State) : Host.Outcome State Fault Refusal := done s (s.blk.armAlarm lo.toNat)

/-- ALARM_CLEAR (R382). -/
def execAlarmClear (s : State) : Host.Outcome State Fault Refusal := done s (s.blk.clear R.TIME_STAT_ALARMED)

/-- ALARM (R382): the first tick in which TNOW ≥ the alarm; the ticks to it pass. -/
def execAlarm (s : State) : Host.Outcome State Fault Refusal :=
  let b := s.blk
  done s (match b.flag R.TIME_STAT_ALARMED, b.ticksTo (b.get64 R.TIME_ALARM_LO_TNOW R.TIME_ALARM_HI_TNOW) with
    | true, some dt => (b.elapse dt).compare
    | _, _ => b)

/-! ## The Time Port and the servo (R378 to R381) -/

/-- An accepted Time Port event (R378, R379): TNOW latched, θ computed, HOLDOVER cleared, a result due where SERVO = 1. -/
def Block.timePort (b : Block) (ns frac : Nat) : Block :=
  let theta := satTheta (((ns * 2 ^ 16 + frac : Nat) : Int) - ((b.tnow * 2 ^ 16 + b.frac / 2 ^ 12 : Nat) : Int))
  let b := (b.put64 R.TIME_TPCAP_LO_TNOW R.TIME_TPCAP_HI_TNOW b.tnow).put64 R.TIME_TPREF_LO_NS R.TIME_TPREF_HI_NS ns
  let b := (b.raise R.TIME_EVT_TPEVT).clear R.TIME_STAT_HOLDOVER
  let b := b.put R.TIME_OFFS_THETA (ofSigned (clampInt theta (-(2 ^ 31)) (2 ^ 31 - 1)) 32)
  let b := b.modTim fun t => { t with tpAt := some b.ticks }
  if b.flag R.TIME_CTRL_SERVO then b.modTim fun t => { t with servo := some (theta, b.ticks + 4) } else b

/-- An edge of TP_STB in this tick comes less than 1 µs, 250 ticks, after the previous accepted event (R378); where it comes exactly 250
ticks after it, the edges' own instants decide, which `close` tells. -/
def Block.tpClose (b : Block) (close : Bool) : Bool :=
  match b.timers.tpAt with
  | some t => decide (b.ticks < t + 250) || (close && decide (b.ticks = t + 250))
  | none => false

/-- TIME_PORT_EVENT (R378): `dt` ticks pass and an edge of TP_STB arrives. -/
def execTimePortEvent (ns : W64) (frac : BitVec 16) (close : Bool) (dt : W32) (s : State) : Host.Outcome State Fault Refusal :=
  let b := s.blk.elapse dt.toNat
  done s (if b.flag R.TIME_CTRL_TPEN && !b.tpClose close then b.timePort ns.toNat frac.toNat else b)

/-- SERVO_RESULT (R379): the fourth tick after the last capture; the ticks to it pass. -/
def execServoResult (s : State) : Host.Outcome State Fault Refusal :=
  let b := s.blk
  done s (match b.timers.servo with
    | some (_, due) => (b.elapse (due - b.ticks)).servoDue
    | none => b)

/-- TPMISS (R380): TPGAP milliseconds have passed without an event; raised once until an event is accepted. -/
def execTpmiss (s : State) : Host.Outcome State Fault Refusal :=
  let b := s.blk
  done s (if b.flag R.TIME_CTRL_TPEN && b.get R.TIME_TPGAP_MS != 0 && !b.flag R.TIME_STAT_HOLDOVER then
      let b := (b.raise R.TIME_EVT_TPMISS).raise R.TIME_STAT_HOLDOVER
      (b.put R.TIME_INC_INC (ofSigned ((b.get R.TIME_NOMINC_NOMINC : Int) + toSigned (b.get R.TIME_INTEG_INTEG) 32) 32)).loseLock
    else b)

end Sys2Proof.Machine
end

