-- ==== Sys2Proof/Machine/Distops.lean ====
section
/-! DEFINITION. The Interrupt Distributor's commands, the watchdogs and the commit of a region entry (12, 13; R330, R342 to
R345, R348 to R359). -/
namespace Sys2Proof.Machine

/-! ## The Distributor (R348, R352, R354, R359) -/

/-- The unit that makes a source's events has its supply (R357, R443): engines, the fabric that carries rings and software's
PENDSET, PERIPH. -/
def Block.srcOn (b : Block) (x : Nat) : Bool :=
  if x < 72 then b.get (R.PWR_ENG_STATE x) == 2
  else if x < 216 || 448 ≤ x then !b.drips
  else if x < 320 then b.pd4 else true

/-- SOURCE_EVENT (R348): an edge source's event, or a sampling of a level source's input; a producer that is off makes none (R357). -/
def execSourceEvent (x : BitVec 10) (s : State) : Host.Outcome State Fault Refusal :=
  let b := s.blk
  done s (if isLevel x.toNat then (b.distAt 1).sample x.toNat else if b.srcOn x.toNat then b.event x.toNat else b)

/-- DIST_CLAIM (R352): a read of DIST_CLAIMt. -/
def execDistClaim (t : Fin 144) (s : State) : Host.Outcome State Fault Refusal := done s (s.blk.claim t).1

/-- DIST_COMPLETE (R354): a write of DIST_COMPLETEt. -/
def execDistComplete (t : Fin 144) (x : BitVec 10) (s : State) : Host.Outcome State Fault Refusal :=
  done s (s.blk.complete t x.toNat).1

/-- DIST_PENDSET (R348): a write of DIST_PENDSETr. -/
def execDistPendset (r : Fin 32) (w : W32) (s : State) : Host.Outcome State Fault Refusal := done s (s.blk.pendSet r w.toNat)

/-- The target of a strobe: 2n + ST.TW (R359). -/
def Strobe.target (q : Strobe) : Nat := 2 * q.pe + bit q.tenant

/-- CLAIM (R359): EXT CLAIM. -/
def execClaim (n : PE) (s : State) : Host.Outcome State Fault Refusal :=
  done s (s.blk.extServe n 0xC0 none fun q b => let r := b.claim q.target; (r.1, .ok (BitVec.ofNat 64 r.2)))

/-- COMPLETE (R359): EXT COMPLETE. -/
def execComplete (n : PE) (s : State) : Host.Outcome State Fault Refusal :=
  done s (s.blk.extServe n 0xC1 none fun q b =>
    let r := b.complete q.target (q.a.toNat % 1024)
    (r.1, if r.2 then .error 0x02 else .ok 0))

/-- RING (R359): EXT RING. -/
def execRing (n : PE) (s : State) : Host.Outcome State Fault Refusal :=
  done s (s.blk.extServe n 0xC2 none fun q b =>
    let x := q.a.toNat % 1024
    if !(isDoorbell x || decide (448 ≤ x)) then (b, .error 0x01)
    else if q.tenant then (b, .error 0x08)
    else ((b.distAt 2).setPend x, .ok 0))

/-! ## Watchdogs (R342 to R345) -/

/-- Engine `n`'s watchdog counts (R342). -/
def Block.wdgRuns (b : Block) (n : Nat) : Bool :=
  let e := b.engine n
  b.flag (R.ENG_WDG_CTRL_EN n) && e.running && !e.frozen && !e.resFault && !b.flag (R.ENG_USTAT_HALTED n) &&
    !b.flag (R.ENG_XSTAT_LOCKUP n) && b.get (R.PWR_ENG_STATE n) == 2 &&
    !(b.flag (R.ENG_WDG_CTRL_FREEZE n) && (b.flag (R.ENG_DBGSTAT_CSTOP n) || b.flag (R.ENG_DBGSTAT_MONITOR n)))

/-- The watchdog's count brought up to date (R342): one that has counted since COUNT was last set is a free value at most COUNT
(log entry 32), and stays what it is while it is held. -/
def Block.wdgSettle (b : Block) (n : Nat) : Block :=
  if b.flag (R.ENG_WDG_CTRL_EN n) && !((b.engine n).wdgExact && !b.wdgRuns n) then
    let run := b.wdgRuns n
    ((b.put (R.ENG_WDG_CNT_COUNT n) (b.freeWord.toNat % (b.get (R.ENG_WDG_CNT_COUNT n) + 1))).modEngine n fun e =>
      { e with wdgExact := !run }).drawn
  else b

/-- The count given a value (R342, R344). -/
def Block.wdgLoad (b : Block) (n v : Nat) : Block :=
  let b := b.put (R.ENG_WDG_CNT_COUNT n) v
  b.modEngine n fun e => { e with wdgExact := !b.wdgRuns n }

/-- A service (R344). -/
def Block.wdgService (b : Block) (n : Nat) : Block :=
  ((b.wdgLoad n (b.get (R.ENG_WDG_PERIOD_PERIOD n))).clear (R.ENG_WDG_CTRL_EXP1 n)).modEngine n
    fun e => { e with wdgDue := false }

/-- The count goes on from where a hold left it (R342). -/
def Block.wdgResume (b : Block) (n : Nat) : Block := (b.wdgSettle n).modEngine n fun e => { e with wdgExact := false }

/-- A halt of engine `n` is to be released: a count below GRACE is raised to it (R345). -/
def Block.wdgGrace (b : Block) (n : Nat) : Block :=
  if b.flag (R.ENG_WDG_CTRL_EN n) then
    let b := b.wdgResume n
    b.put (R.ENG_WDG_CNT_COUNT n) (max (b.get (R.ENG_WDG_CNT_COUNT n)) (b.get (R.ENG_WDG_GRACE_GRACE n)))
  else b

/-- A write of ENGn_WDG_CTRL (R342): EN rising loads the count from PERIOD, EN falling leaves what the count has reached. -/
def Block.writeWdgCtrl (b : Block) (n : Nat) (en freeze : Bool) : Block :=
  let b := if b.flag (R.ENG_WDG_CTRL_EN n) then b.wdgResume n else b
  let b := if en && !b.flag (R.ENG_WDG_CTRL_EN n) then b.wdgLoad n (b.get (R.ENG_WDG_PERIOD_PERIOD n)) else b
  let b := (b.put (R.ENG_WDG_CTRL_EN n) (bit en)).put (R.ENG_WDG_CTRL_FREEZE n) (bit freeze)
  b.modEngine n fun e => { e with wdgExact := !b.wdgRuns n }

/-- The logic of engine `n` reset, the halt it may be in ended (R343, R346, R456): its control store and its configuration
outside the engine stay. -/
def Block.resetEngine (b : Block) (n : Nat) : Block :=
  let b := b.modEngine n Engine.started
  [R.ENG_DBGSTAT_CSTOP n, R.ENG_DBGSTAT_MONITOR n, R.ENG_DBGSTAT_PENDING n, R.ENG_DBGSTAT_STEPPING n,
    R.ENG_LKSTAT_LKACT n].foldl Block.clear (b.modEngine n fun e => { e with halt := none })

/-- WATCHDOG_EXPIRY (R343): the count of a watchdog that counts reaches 0. -/
def execWatchdogExpiry (n : PE) (s : State) : Host.Outcome State Fault Refusal :=
  let b := s.blk
  done s (if b.wdgRuns n then
      if b.flag (R.ENG_WDG_CTRL_EXP1 n) then
        (((b.wdgLoad n 0).resetEngine n).event n).stopWithStrike n
      else ((b.wdgLoad n (b.get (R.ENG_WDG_PERIOD_PERIOD n))).raise (R.ENG_WDG_CTRL_EXP1 n)).modEngine n
        fun e => { e with wdgDue := true }
    else b)

/-- WATCHDOG_SERVICE (R344): a write of ENGn_WDG_SVC. -/
def execWatchdogService (n : PE) (key : Byte) (s : State) : Host.Outcome State Fault Refusal :=
  done s (s.blk.atEng n 0x70 fun b => if key = 0xA5 then b.wdgService n else b)

/-- SERVICE (R344): EXT watchdog SERVICE. -/
def execService (n : PE) (s : State) : Host.Outcome State Fault Refusal :=
  done s (s.blk.extServe n 0xA0 none fun _ b => (b.wdgService n, .ok 0))

/-! ## Region entries (R330) -/

/-- A write of ENGn_RGP: the staged BASE and LIM with the EN and PERM written become entry INDEX. -/
def Block.rgpCommit (b : Block) (n : Nat) (en : Bool) (perm : BitVec 12) : Block :=
  b.modEngine n fun e => { e with rg := e.rg.put (b.get (R.ENG_RGIDX_INDEX n)) ⟨en, e.rgBase, e.rgLim, perm⟩ }

/-- RGP_COMMIT (R330). -/
def execRgpCommit (n : PE) (en : Bool) (perm : BitVec 12) (s : State) : Host.Outcome State Fault Refusal :=
  done s (s.blk.atEng n 0x54 fun b => b.rgpCommit n en perm)

end Sys2Proof.Machine
end

