-- ==== Sys2Proof/Machine/Axis.lean ====
section
/-! DEFINITION. The axis ports and Crema (15, R388 to R411). -/
namespace Sys2Proof.Machine

/-- Axis `a` beside its registers. -/
def Block.ax (b : Block) (a : Nat) : Axis := b.axes.get a Axis.reset

/-- Axis `a` changed. -/
def Block.modAx (b : Block) (a : Nat) (f : Axis → Axis) : Block := { b with axes := b.axes.put a (f (b.ax a)) }

/-- Axis `a` is stamped present and PD4 is ON (R401, R505). -/
def Block.axHere (b : Block) (a : Nat) : Bool := b.pd4 && b.flag (if a = 0 then R.INTEG_OPT_AX0 else R.INTEG_OPT_AX1)

/-- Axis `a` counts (R388). -/
def Block.axOn (b : Block) (a : Nat) : Bool := b.axHere a && b.flag (R.AX_CFG_EN a)

/-- The position, signed (R391). -/
def Block.axPos (b : Block) (a : Nat) : Int := toSigned (b.get64 (R.AX_POSLO_POS a) (R.AX_POSHI_POS a)) 64

/-- The position written (R391). -/
def Block.setPos (b : Block) (a : Nat) (v : Int) : Block := b.put64 (R.AX_POSLO_POS a) (R.AX_POSHI_POS a) (ofSigned v 64)

/-- A fault of axis `a` (R399). -/
def Block.axFault (b : Block) (a : Nat) (f : Nat → Fld) : Block :=
  ((b.raise (f a)).inc (R.AX_FLTCNT_COUNT a) 1).event (315 + 4 * a)

/-- AXa_STAT.FAULT (R399). -/
def Block.axFaulty (b : Block) (a : Nat) : Bool :=
  b.flag (R.AX_EVT_ILLEGAL a) || b.flag (R.AX_EVT_AMP a) || b.flag (R.AX_EVT_OVERSPD a) || b.flag (R.AX_EVT_SAMPLOST a) ||
    b.flag (R.AX_EVT_IDXERR a)

/-! ## Direction and position (R389 to R392) -/

/-- The reversal test at the present position (R392). -/
def Block.axReversal (b : Block) (a : Nat) : Block :=
  if b.flag (R.AX_STAT_DIRVALID a) then
    let dir := b.flag (R.AX_STAT_DIR a)
    let pos := b.axPos a
    let ext := toSigned (b.ax a).ext 64
    let back := if dir then ext - pos else pos - ext
    if (b.get (R.AX_CFG_REVHYST a) : Int) + 1 ≤ back then
      (((b.put (R.AX_STAT_DIR a) (bit !dir)).raise (R.AX_EVT_REV a)).modAx a fun x =>
        { x with ext := ofSigned pos 64, rev := true }).event (313 + 4 * a)
    else if back < 0 then b.modAx a fun x => { x with ext := ofSigned pos 64 } else b
  else b

/-- `d` increments applied (R389 to R393). -/
def Block.axMove (b : Block) (a : Nat) (d : Int) : Block :=
  if d = 0 then b
  else
    let b := b.setPos a (b.axPos a + d)
    let b := if b.flag (R.AX_STAT_DIRVALID a) then b
      else ((b.put (R.AX_STAT_DIR a) (bit (decide (0 < d)))).raise (R.AX_STAT_DIRVALID a)).modAx a fun x =>
        { x with ext := ofSigned (b.axPos a) 64 }
    let b := if b.flag (R.AX_STAT_MOVING a) then b
      else ((b.raise (R.AX_STAT_MOVING a)).raise (R.AX_SPDF_STALE a)).modAx a fun x => { x with young := true }
    (b.modAx a fun x => { x with n := x.n + d.natAbs, net := x.net + d }).axReversal a

/-- The sign that DIRINV gives an increment (R389; log entry 34). -/
def Block.axSign (b : Block) (a : Nat) (d : Int) : Int := if b.flag (R.AX_CFG_DIRINV a) then -d else d

/-- The place of a level pair in the quadrature cycle: A leads B where it rises (R389). -/
def quadrature (la lb : Bool) : Nat :=
  match la, lb with
  | false, false => 0
  | true, false => 1
  | true, true => 2
  | false, true => 3

/-- AXIS_INCREMENT (R389): the accepted levels of A and B become `la` and `lb`. -/
def execAxisIncrement (a : Fin 2) (la lb : Bool) (s : State) : Host.Outcome State Fault Refusal :=
  let b := s.blk
  let old := b.ax a
  let c := (quadrature la lb + 4 - quadrature old.lvlA old.lvlB) % 4
  let b := if b.axHere a then b.modAx a fun x => { x with lvlA := la, lvlB := lb } else b
  done s (if b.axOn a && !b.flag (R.AX_CFG_MODE a) then
      if c = 2 then b.axFault a R.AX_EVT_ILLEGAL
      else if c = 1 then b.axMove a (b.axSign a 1)
      else if c = 3 then b.axMove a (b.axSign a (-1)) else b
    else b)

/-- The first `n` binary places of the angle of (c, s) as a fraction of a turn, by doubling the angle (R390). -/
def phaseBits : Nat → Int → Int → Nat
  | 0, _, _ => 0
  | n + 1, s, c =>
    (if s < 0 ∨ (s = 0 ∧ c < 0) then 2 ^ n else 0) + phaseBits n (2 * s * c) (c * c - s * s)

/-- φ of a sample quantised to the nearest of 2^`i` steps (R390); where two steps are equally near, or there is no angle,
a free value decides (log entry 35). -/
def Block.phaseStep (b : Block) (i : Nat) (s c : Int) : Nat :=
  if s = 0 ∧ c = 0 then b.freeWord.toNat % 2 ^ i
  else if i = 2 ∧ s.natAbs = c.natAbs then (phaseBits i s c + b.freeWord.toNat % 2) % 2 ^ i
  else (phaseBits (i + 1) s c + 1) / 2 % 2 ^ i

/-- A sine/cosine sample of axis `a` (R390). -/
def Block.axSample (b : Block) (a : Nat) (sin cos : Nat) : Block :=
  let b := (b.put (R.AX_SCRAW_SIN a) sin).put (R.AX_SCRAW_COS a) cos
  let s := toSigned sin 16 - toSigned (b.get (R.AX_SCOFF_OFFS a)) 16
  let c := toSigned cos 16 - toSigned (b.get (R.AX_SCOFF_OFFC a)) 16
  let m := s.natAbs * s.natAbs + c.natAbs * c.natAbs
  if m < b.get (R.AX_SCAMP_AMPMIN a) ^ 2 ∨ b.get (R.AX_SCAMP_AMPMAX a) ^ 2 < m then b.axFault a R.AX_EVT_AMP
  else
    let i0 := b.get (R.AX_CFG_INTERP a)
    let i := if 2 ≤ i0 ∧ i0 ≤ 12 then i0 else 12
    let k := b.phaseStep i s c
    let b := b.drawn
    let prev := (b.ax a).phi
    let b := b.modAx a fun x => { x with phi := some k }
    match prev with
    | none => b
    | some p =>
      let u := (k + 2 ^ i - p % 2 ^ i) % 2 ^ i
      let d : Int := if u < 2 ^ (i - 1) then u else (u : Int) - (2 ^ i : Nat)
      let b := b.axMove a (b.axSign a d)
      if 2 ^ (i - 2) ≤ d.natAbs then b.axFault a R.AX_EVT_OVERSPD else b

/-- SINCOS_SAMPLE (R390). -/
def execSincosSample (a : Fin 2) (sin cos : BitVec 16) (s : State) : Host.Outcome State Fault Refusal :=
  let b := s.blk
  done s (if b.axOn a && b.flag (R.AX_CFG_MODE a) then b.axSample a sin.toNat cos.toNat else b)

/-- SAMPLOST (R390): no strobe for 500 ticks; the next sample only sets the last step. -/
def execSamplost (a : Fin 2) (s : State) : Host.Outcome State Fault Refusal :=
  let b := s.blk
  done s (if b.axOn a && b.flag (R.AX_CFG_MODE a) then
      (b.axFault a R.AX_EVT_SAMPLOST).modAx a fun x => { x with phi := none }
    else b)

/-- A LOAD of the position (R391), with the reversal test of its tick (R400). -/
def Block.axLoad (b : Block) (a : Nat) : Block :=
  if b.axHere a then
    (b.put64 (R.AX_POSLO_POS a) (R.AX_POSHI_POS a)
      (b.get64 (R.AX_PRESET_LO_POS a) (R.AX_PRESET_HI_POS a))).axReversal a
  else b

/-- AXIS_LOAD (R391). -/
def execAxisLoad (a : Fin 2) (s : State) : Host.Outcome State Fault Refusal :=
  done s (s.blk.atReg (R.AX_CTRL_LOAD a) fun b => b.axLoad a)

/-- CNTCLR (R410): ADJCNT and FLTCNT are set to 0. -/
def Block.axCntclr (b : Block) (a : Nat) : Block := (b.clear (R.AX_IDXCNT_ADJCNT a)).clear (R.AX_FLTCNT_COUNT a)

/-- CNTCLR (R410). -/
def execCntclr (a : Fin 2) (s : State) : Host.Outcome State Fault Refusal :=
  done s (s.blk.atReg (R.AX_CTRL_CNTCLR a) fun b => b.axCntclr a)

/-! ## Speed (R393) -/

/-- A new window begins without a result: EN rises or SPDWIN is written (R393). -/
def Block.axWindow (b : Block) (a : Nat) : Block :=
  (((b.clear (R.AX_SPD_SPD a)).raise (R.AX_SPDF_STALE a)).clear (R.AX_STAT_MOVING a)).modAx a fun x =>
    { x with n := 0, net := 0, young := true, rev := false }

/-- EN rises (R390, R392, R393). -/
def Block.axEnable (b : Block) (a : Nat) : Block :=
  ((b.axWindow a).clear (R.AX_STAT_DIRVALID a)).modAx a fun x => { x with phi := none }

/-- The end of a window (R393). -/
def Block.axWindowEnd (b : Block) (a : Nat) : Block :=
  let x := b.ax a
  let b :=
    if x.n = 0 then ((b.clear (R.AX_SPD_SPD a)).clear (R.AX_SPDF_STALE a)).clear (R.AX_STAT_MOVING a)
    else if x.young then (b.clear (R.AX_SPD_SPD a)).raise (R.AX_SPDF_STALE a)
    else (b.put (R.AX_SPD_SPD a) (ofSigned (clampInt x.net (-0x7FFFFFFF) 0x7FFFFFFF) 32)).clear (R.AX_SPDF_STALE a)
  let b := (b.put (R.AX_SPDF_REVWIN a) (bit x.rev)).inc (R.AX_SPDF_WSEQ a) 1
  b.modAx a fun x => { x with n := 0, net := 0, young := false, rev := false }

/-- SPEED_WINDOW_END (R393). -/
def execSpeedWindowEnd (a : Fin 2) (s : State) : Host.Outcome State Fault Refusal :=
  done s (if s.blk.axOn a then s.blk.axWindowEnd a else s.blk)

/-- SPDWIN_WRITE (R393). -/
def execSpdwinWrite (a : Fin 2) (win : BitVec 17) (s : State) : Host.Outcome State Fault Refusal :=
  let b := s.blk
  done s (if b.axHere a then (b.put (R.AX_SPDWIN_WIN a) win.toNat).axWindow a else b)

/-! ## Index and probe (R395 to R397) -/

/-- err of an index at the present position (R395). -/
def Block.idxErr (b : Block) (a : Nat) : Int :=
  let per := b.get (R.AX_IDXPER_PER a)
  if per = 0 then 0
  else
    let r := (b.axPos a - toSigned (b.get (R.AX_IDXREF_REF a)) 32) % per
    if (per : Int) ≤ 2 * r then r - per else r

/-- An index (R395, R396). -/
def Block.axIndex (b : Block) (a : Nat) : Block :=
  let err := b.idxErr a
  let b := (b.put (R.AX_IDXPOS_POS a) (b.get (R.AX_POSLO_POS a))).put (R.AX_IDXERR_ERR a) (ofSigned err 32)
  let b := (((b.inc (R.AX_IDXCNT_COUNT a) 1).raise (R.AX_EVT_INDEX a))).event (312 + 4 * a)
  if b.flag (R.AX_CFG_IDXHOME a) then
    ((b.setPos a (toSigned (b.get (R.AX_IDXREF_REF a)) 32)).clear (R.AX_CFG_IDXHOME a)).axReversal a
  else if b.flag (R.AX_CFG_IDXCORR a) && decide (err.natAbs ≤ b.get (R.AX_IDXTOL_TOL a)) then
    if err = 0 then b else ((b.setPos a (b.axPos a - err)).incSat (R.AX_IDXCNT_ADJCNT a) 1).axReversal a
  else if err = 0 then b else b.axFault a R.AX_EVT_IDXERR

/-- INDEX (R395): an accepted rising edge of Z. -/
def execIndex (a : Fin 2) (s : State) : Host.Outcome State Fault Refusal :=
  let b := s.blk
  done s (if b.axHere a && b.flag (R.AX_CFG_IDXEN a) then b.axIndex a else b)

/-- PROBE (R397): `dt` ticks pass and an edge of PROBE is accepted. -/
def execProbe (a : Fin 2) (rising : Bool) (dt : W32) (s : State) : Host.Outcome State Fault Refusal :=
  let b := s.blk.elapse dt.toNat
  done s (if b.axHere a && b.flag (R.AX_CFG_PRBEN a) && rising != b.flag (R.AX_CFG_PRBPOL a) then
      let b := if b.flag (R.AX_STAT_PRBNEW a) then b.raise (R.AX_EVT_PRBOVR a) else b
      let p := b.get64 (R.AX_POSLO_POS a) (R.AX_POSHI_POS a)
      (((b.raise (R.AX_STAT_PRBNEW a)).put (R.AX_PRBLO_POS a) p).modAx a fun x =>
        { x with prb := (p, ofSigned ((b.tnow : Int) - 8) 64) }).event (314 + 4 * a)
    else b)

/-- A read of AXa_PRBLO (R397): the live low word, the snapshot of the rest, PRBNEW cleared. -/
def Block.readPrblo (b : Block) (a : Nat) : Block × Nat :=
  let l := (b.ax a).prb
  (((b.put (R.AX_PRBHI_POS a) (l.1 / 2 ^ 32)).put64 (R.AX_PRBT_LO_TNOW a) (R.AX_PRBT_HI_TNOW a) l.2).clear
    (R.AX_STAT_PRBNEW a), b.get (R.AX_PRBLO_POS a))

/-- PRBLO_READ (R397). -/
def execPrbloRead (a : Fin 2) (s : State) : Host.Outcome State Fault Refusal :=
  done s (if s.blk.axHere a then (s.blk.readPrblo a).1 else s.blk)

/-! ## Encoder emulation (R398) -/

/-- The count the emulator follows; EMUDIV holds the increments per step, less 1 (R410; log entry 36). -/
def Block.emuTarget (b : Block) (a : Nat) : Int := b.axPos a / ((b.get (R.AX_EMUCFG_EMUDIV a) + 1 : Nat) : Int)

/-- E given a value. -/
def Block.setEmu (b : Block) (a : Nat) (e : Int) : Block :=
  (b.put (R.AX_EMUCNT_E a) (ofSigned e 32)).modAx a fun x => { x with emu := e }

/-- EMU_A, EMU_B and EMU_Z (R398). -/
def Block.emuPins (b : Block) (a : Nat) : Bool × Bool × Bool :=
  if b.axHere a && b.flag (R.AX_EMUCFG_EMUEN a) then
    let e := (b.ax a).emu
    let z := b.get (R.AX_EMUZPER_PER a)
    (e % 4 == 1 || e % 4 == 2, e % 4 == 2 || e % 4 == 3, z != 0 && e % (z : Int) == 0)
  else (false, false, false)

/-- EMULAG (R398). -/
def Block.emuLag (b : Block) (a : Nat) : Bool :=
  b.flag (R.AX_EMUCFG_EMUEN a) && decide (2 ≤ (b.emuTarget a - (b.ax a).emu).natAbs)

/-- EMULATOR_STEP (R398): E moves one step toward the target. -/
def execEmulatorStep (a : Fin 2) (s : State) : Host.Outcome State Fault Refusal :=
  let b := s.blk
  let e := (b.ax a).emu
  done s (if b.axHere a && b.flag (R.AX_EMUCFG_EMUEN a) then
      if e < b.emuTarget a then b.setEmu a (e + 1)
      else if b.emuTarget a < e then b.setEmu a (e - 1) else b
    else b)

/-! ## Crema (R402 to R408) -/

/-- The flag bits of an axis in a slot (R407): STALE, REVWIN, FAULT, and EN = 0 or the axis absent. -/
def Block.cremaFlags (b : Block) (a : Nat) : Nat :=
  let here := b.axHere a
  2 ^ (8 + 2 * a) * bit (here && b.flag (R.AX_SPDF_STALE a)) + 2 ^ (9 + 2 * a) * bit (here && b.flag (R.AX_SPDF_REVWIN a)) +
    2 ^ (12 + a) * bit (here && b.axFaulty a) + 2 ^ (14 + a) * bit (!b.axOn a)

/-- The slot a trigger writes (R402, R407). -/
def Block.cremaSlot (b : Block) (frame : Nat) : CSlot where
  held := none
  frame := frame
  tnow := ofSigned ((b.tnow : Int) - 4 * (2 + b.get R.CREMA_CTRL_TLAT : Nat)) 64
  pos0 := if b.axOn 0 then b.get64 (R.AX_POSLO_POS 0) (R.AX_POSHI_POS 0) else 0
  pos1 := if b.axOn 1 then b.get64 (R.AX_POSLO_POS 1) (R.AX_POSHI_POS 1) else 0
  spd0 := if b.axOn 0 then b.get (R.AX_SPD_SPD 0) else 0
  spd1 := if b.axOn 1 then b.get (R.AX_SPD_SPD 1) else 0
  flags := b.cremaFlags 0 + b.cremaFlags 1
  order := b.crema.foldl (fun m p => max m (p.2.order + 1)) 0
  born := b.ticks

/-- The lowest-numbered FREE slot of the 1,024, among those not below `i`. -/
def lowestFree : Tab CSlot → Nat → Option Nat
  | [], i => if i < 1024 then some i else none
  | (k, _) :: t, i => if i < k then some i else lowestFree t (i + 1)

/-- A change of step `k` of R406's order reaches Crema: in the present tick where no later step has been applied in it, else in the
next one. LOOKUPs, step 3, go on in ascending order of the logical engine `le`. -/
def Block.cremaAt (b : Block) (k le : Nat) : Block :=
  let b := if k < b.tick.crema || (k == 3 && b.tick.crema == 3 && decide (le < b.tick.looked)) then b.elapse 1 else b
  b.noting fun t => { t with crema := k, looked := le }

/-- A trigger strobe from Pin Sequencer `ps` (R402): step 2 of its tick. The sequencer's cycle fixes its tick, so LOOKUPs that came
before it were of the tick before (R406). -/
def Block.cremaTrigger (b : Block) (ps : Nat) : Block :=
  if b.flag R.CREMA_CTRL_EN && b.get R.CREMA_CTRL_TRIGPS == ps then
    let b := b.noting fun t => { t with crema := 2, looked := 0 }
    let frame := b.get R.CREMA_FRAME_NEXT
    let b := (b.inc R.CREMA_FRAME_NEXT 1).inc R.CREMA_TRIGCNT_COUNT 1
    match lowestFree b.crema 0 with
    | some i => { b with crema := b.crema.put i (b.cremaSlot frame) }.countGlob 0x0A 1
    | none => (b.inc R.CREMA_LOST_COUNT 1).raise R.CREMA_EVT_SLOTFULL
  else b

/-- SLOT_AGED (R403): the tick in which a PENDING slot's age reaches AGE; the ticks to it pass, and ageing is the last step of it. -/
def execSlotAged (slot : BitVec 10) (s : State) : Host.Outcome State Fault Refusal :=
  let b := s.blk
  done s (match (b.crema.look slot.toNat).bind b.cremaDue with
    | some due =>
      let b := (b.elapse (due - b.ticks)).cremaAt 4 0
      match (b.crema.look slot.toNat).bind b.cremaDue with
      | some _ => b.cremaAge slot.toNat
      | none => b
    | none => b)

/-- The slot that a LOOKUP of a frame by logical engine `k` finds: the one it holds, else the oldest PENDING one (R405). -/
def Block.cremaFind (b : Block) (frame k : Nat) : Option (Nat × CSlot) :=
  match b.crema.find? fun p => p.2.frame == frame && p.2.held == some k with
  | some p => some p
  | none => (b.crema.filter fun p => p.2.frame == frame && p.2.held.isNone).foldl (fun w p =>
      match w with
      | some q => if p.2.order < q.2.order then some p else w
      | none => some p) none

/-- LOOKUP (R405): the slot, where one is found. -/
def Block.cremaLookup (b : Block) (frame k : Nat) : Block × Option (Nat × CSlot) :=
  let b := b.cremaAt 3 k
  match b.cremaFind frame k with
  | some p => ({ b with crema := b.crema.put p.1 { p.2 with held := some k } }, some p)
  | none =>
    let b := if b.crema.any fun p => p.2.frame == frame then b.raise R.CREMA_EVT_DUP else b
    ((b.inc R.CREMA_MISS_COUNT 1).raise R.CREMA_EVT_NOSLOT, none)

/-- A frame for the next census to cover (R433). -/
def Block.cover (b : Block) (frame : Nat) (spilled : Bool) : Block :=
  { b with rport := { b.rport with frames := b.rport.frames ++ [frame], spilled := b.rport.spilled || spilled } }

/-- CONSUME (R405): the slot freed, if this logical engine holds it; the next census covers its frame (R433). -/
def Block.cremaConsume (b : Block) (i k : Nat) : Option Block :=
  let b := b.cremaAt 1 0
  match b.crema.look i with
  | some c => if c.held = some k then some ({ b with crema := b.crema.del i }.cover c.frame false) else none
  | none => none

/-- COUNT (R405) for WARN bits. -/
def Block.cremaCount (b : Block) (w : Nat) : Block :=
  let b := if w.testBit 0 then (b.inc R.CREMA_LSHORT_COUNT 1).raise R.CREMA_EVT_LEN else b
  let b := if w.testBit 1 then (b.inc R.CREMA_LLONG_COUNT 1).raise R.CREMA_EVT_LEN else b
  if w.testBit 2 then (b.inc R.CREMA_HDRBAD_COUNT 1).raise R.CREMA_EVT_HDRBAD else b

/-- LOOKUP (R405): EXT Crema LOOKUP. -/
def execLookup (n : PE) (s : State) : Host.Outcome State Fault Refusal :=
  done s (s.blk.extServe n 0x60 (some 0x08) fun q b =>
    match b.cremaLookup (q.a.toNat % 2 ^ 32) (b.strobeLe q) with
    | (b, some p) => (b, .ok (BitVec.ofNat 64 (p.1 + 2 ^ 16)))
    | (b, none) => (b, .ok 0))

/-- CONSUME (R405): EXT Crema CONSUME. -/
def execConsume (n : PE) (s : State) : Host.Outcome State Fault Refusal :=
  done s (s.blk.extServe n 0x61 (some 0x08) fun q b =>
    match b.cremaConsume (q.a.toNat % 1024) (b.strobeLe q) with
    | some b => (b, .ok 0)
    | none => (b, .error 0x01))

/-- COUNT (R405): EXT Crema COUNT. -/
def execCount (n : PE) (s : State) : Host.Outcome State Fault Refusal :=
  done s (s.blk.extServe n 0x62 (some 0x08) fun q b => (b.cremaCount (q.a.toNat % 8), .ok 0))

/-- A write of CREMA_SLOTCLR (R409). -/
def Block.cremaClear (b : Block) (all : Bool) (i : Nat) : Block :=
  let b := b.cremaAt 1 0
  { b with crema := if all then [] else b.crema.del i }

/-- SLOTCLR (R409). -/
def execSlotclr (all : Bool) (slot : BitVec 10) (s : State) : Host.Outcome State Fault Refusal :=
  done s (s.blk.atReg R.CREMA_SLOTCLR_ALL fun b => b.cremaClear all slot.toNat)

/-- The 64 bytes of the slot view: what Crema owns of a record (R404, R407). -/
def CSlot.bytes (c : CSlot) : List Byte :=
  leBytes 0 4 ++ leBytes c.frame 4 ++ leBytes 0 8 ++ leBytes c.tnow 8 ++ leBytes c.pos0 8 ++ leBytes c.pos1 8 ++
    leBytes c.spd0 4 ++ leBytes c.spd1 4 ++ leBytes 0 8 ++ leBytes c.flags 4 ++ leBytes 0 4

/-- The word at an offset of the slot view (R404). -/
def Block.cremaView (b : Block) (off : Nat) : Nat :=
  match b.crema.look (off / 64) with
  | some c => leNat ((c.bytes.drop (off % 64)).take 4)
  | none => 0

end Sys2Proof.Machine
end

