-- ==== Sys2Proof/Machine/PinSeq.lean ====
section
/-! DEFINITION. The Pin Sequencers (16, R412 to R429). -/
namespace Sys2Proof.Machine

/-- Pin Sequencer `n` beside its registers. -/
def Block.ps (b : Block) (n : Nat) : PinSeq := b.pinseq.get n PinSeq.reset

/-- Pin Sequencer `n` changed. -/
def Block.modPs (b : Block) (n : Nat) (f : PinSeq → PinSeq) : Block := { b with pinseq := b.pinseq.put n (f (b.ps n)) }

/-- The 32 pins' inputs as they stand now. -/
def Block.sees (b : Block) (pins : W32) : Block := { b with psio := pins.toNat }

/-! ## Pins (R412, R413) -/

/-- The pin that relative pin `p` of sequencer `n` is (R412). -/
def Block.psPin (b : Block) (n p : Nat) : Nat := (b.get (R.PS_CTRL_PINBASE n) + p % 8) % 32

/-- The level of relative pin `p` of sequencer `n`. -/
def Block.psLevel (b : Block) (n p : Nat) : Bool := b.psio.testBit (b.psPin n p)

/-- PSn_PINST.IN (R426). -/
def Block.psInputs (b : Block) (n : Nat) : Nat := (List.range 8).foldl (fun v p => putBit v p (b.psLevel n p)) 0

/-- Sequencer `n` has OE at 1 on pin `k`; the relative pin. -/
def Block.psDrives (b : Block) (n k : Nat) : Option Nat :=
  (List.range 8).find? fun p => b.psPin n p == k && (b.get (R.PS_PINST_OE n)).testBit p

/-- The sequencer that drives pin `k`, with its level; none: not driven (R413). -/
def Block.psDriver (b : Block) (k : Nat) : Option (Nat × Bool) :=
  (List.range 16).findSome? fun n => (b.psDrives n k).map fun p => (n, (b.get (R.PS_PINST_OUT n)).testBit p)

/-- PSIO_O and PSIO_OE (R413, R502). -/
def Block.psioOut (b : Block) : Nat × Nat :=
  (List.range 32).foldl (fun v k => match b.psDriver k with
    | some d => (putBit v.1 k d.2, setBit v.2 k)
    | none => v) (0, 0)

/-- CONTEND of every sequencer whose drive of a pin is ignored (R413). -/
def Block.psContend (b : Block) : Block :=
  forEach 16 (fun n b =>
    if (List.range 32).any fun k => (b.psDrives n k).isSome && (b.psDriver k).any fun d => d.1 != n then
      b.raise (R.PS_EVT_CONTEND n)
    else b) b

/-! ## What a step uses -/

/-- An event of sequencer `n` (R424). -/
def Block.psEvent (b : Block) (n : Nat) : Block := b.event (296 + n)

/-- Tally `i` of sequencer `n`; there are four. -/
def R.psTally (n i : Nat) : Fld :=
  match i with
  | 0 => R.PS_TALLY01_T0 n
  | 1 => R.PS_TALLY01_T1 n
  | 2 => R.PS_TALLY23_T2 n
  | _ => R.PS_TALLY23_T3 n

/-- A shared flag (R420). -/
def Block.psFlag (b : Block) (i : Nat) : Bool := (b.get R.PS_FLAGS_FLAGS).testBit i

/-- A shared flag given a value. -/
def Block.setPsFlag (b : Block) (i : Nat) (v : Bool) : Block := b.put R.PS_FLAGS_FLAGS (putBit (b.get R.PS_FLAGS_FLAGS) i v)

/-- A frame length: 0 stands for 32 (R418). -/
def frameLen (v : Nat) : Nat := if v = 0 then 32 else v

/-- The strobe and the event that a step sends (R416). -/
def Block.psSend (b : Block) (n : Nat) (stb ev : Bool) : Block :=
  let b := if stb then b.cremaTrigger n else b
  if ev then b.psEvent n else b

/-- The encodings treated as reserved opcodes (R416). -/
def psReserved (w : Nat) : Bool :=
  match bitsOf w 28 4 with
  | 1 =>
    let src := bitsOf w 18 2
    (w.testBit 14 && src != 1) || (src == 2 && bitsOf w 0 4 != 0) || ((src == 0 || src == 3) && w.testBit 3)
  | 6 => bitsOf w 16 2 == 3
  | 8 => decide (10 ≤ bitsOf w 16 4) || ((bitsOf w 16 4 == 1 || bitsOf w 16 4 == 2) && w.testBit 11)
  | 13 | 14 | 15 => true
  | _ => false

/-- A WAITFOR's condition (R416). A tally index of 4 to 7 names no tally: its value is free (log entry 37). -/
def Block.psWaits (b : Block) (n w : Nat) : Bool :=
  let pol := w.testBit 17
  let i := bitsOf w 0 4
  match bitsOf w 18 2 with
  | 0 => b.psLevel n i == pol
  | 1 => b.psFlag i == pol
  | 2 => (!(b.ps n).sndf.isEmpty || b.get (R.PS_STAT_SCNT n) != 0) == pol
  | _ => ((if i < 4 then b.get (R.psTally n i) else b.freeWord.toNat % 2 ^ 16) != 0) == pol

/-- A BRANCH's condition (R416). -/
def Block.psCond (b : Block) (n w : Nat) : Bool :=
  let i := bitsOf w 8 4
  let m := (b.ps n).des &&& b.get (R.PS_FRMCFG_MMASK n) == b.get (R.PS_FRMCFG_MVAL n)
  match bitsOf w 16 4 with
  | 0 => true
  | 1 => b.psLevel n i
  | 2 => !b.psLevel n i
  | 3 => b.psFlag i
  | 4 => !b.psFlag i
  | 5 => b.get (R.PS_STAT_SCNT n) == 0
  | 6 => (b.ps n).sndf.isEmpty
  | 7 => decide (16 ≤ (b.ps n).rcvf.length)
  | 8 => m
  | _ => !m

/-! ## Shift registers (R418) -/

/-- `k` bits from SER's send end, first bit first. -/
def Block.serBits (b : Block) (n k : Nat) : List Bool :=
  let ser := b.get (R.PS_SER_SER n)
  let c := b.get (R.PS_STAT_SCNT n)
  (List.range k).map fun i => if b.flag (R.PS_FRMCFG_SLSB n) then ser.testBit i else ser.testBit (c - 1 - i)

/-- SER after `k` bits have been taken. -/
def Block.serTake (b : Block) (n k : Nat) : Block :=
  let ser := b.get (R.PS_SER_SER n)
  (b.put (R.PS_SER_SER n) (if b.flag (R.PS_FRMCFG_SLSB n) then ser / 2 ^ k else ser)).put (R.PS_STAT_SCNT n)
    (b.get (R.PS_STAT_SCNT n) - k)

/-- LOADS: SER from the send FIFO's head (R416). -/
def Block.serLoad (b : Block) (n : Nat) : Block :=
  ((b.put (R.PS_SER_SER n) ((b.ps n).sndf.headD 0)).put (R.PS_STAT_SCNT n)
    (frameLen (b.get (R.PS_FRMCFG_SLEN n)))).modPs n fun p => { p with sndf := p.sndf.drop 1 }

/-- The group of a SEND with CONT (R418): bits held, then from SER, then from further words while the send FIFO has them;
`fuel` bounds the loads. -/
def Block.serGather (n want : Nat) : Nat → List Bool → Block → Block × List Bool
  | 0, held, b => (b, held)
  | fuel + 1, held, b =>
    let k := min (want - held.length) (b.get (R.PS_STAT_SCNT n))
    let held' := held ++ b.serBits n k
    let b := b.serTake n k
    if want ≤ held'.length ∨ (b.ps n).sndf.isEmpty then (b, held') else Block.serGather n want fuel held' (b.serLoad n)

/-- A group driven on the pins from relative pin `f` (R416); a pin that several bits of a group of more than 8 reach takes a
free bit (log entry 37). -/
def Block.psDrive (b : Block) (n f : Nat) (od : Bool) (bits : List Bool) : Block :=
  let N := bits.length
  let free := b.freeWord
  let b := if 8 < N then b.drawn else b
  let r := (List.range N).foldl (fun (v : Nat × Nat) i =>
    let x := if 8 ≤ i ∨ i + 8 < N then free.getLsbD (i % 8) else bits.getD i false
    let p := (f + i) % 8
    if od then (putBit v.1 p false, putBit v.2 p (!x)) else (putBit v.1 p x, v.2))
    (b.get (R.PS_PINST_OUT n), b.get (R.PS_PINST_OE n))
  ((b.put (R.PS_PINST_OUT n) r.1).put (R.PS_PINST_OE n) r.2).psContend

/-- Bits shifted into DES, first bit first (R418). -/
def desShift (dlsb : Bool) (des : Nat) (bits : List Bool) : Nat :=
  bits.foldl (fun d x => if dlsb then d % 2 ^ 32 / 2 + 2 ^ 31 * bit x else (2 * d + bit x) % 2 ^ 32) des

/-- DES delivered to the receive FIFO (R416, R418). -/
def Block.desDeliver (b : Block) (n : Nat) : Block :=
  (b.modPs n fun p => { p with rcvf := p.rcvf ++ [p.des], des := 0 }).clear (R.PS_STAT_DCNT n)

/-! ## Steps (R416, R417) -/

/-- How an attempt at a step ends: complete, with the target of a taken jump; stalled, with its partial bits; halted, for a
reserved encoding or not. -/
inductive PsFlow where
  | done (target : Option Nat)
  | stall (bits : List Bool)
  | halt (bad : Bool)
deriving DecidableEq, Repr

/-- A SEND (R418). -/
def Block.psSendStep (b : Block) (n w : Nat) (held : List Bool) : Block × PsFlow :=
  let N := bitsOf w 15 5 + 1
  let f := bitsOf w 12 3
  let od := w.testBit 11
  let scnt := b.get (R.PS_STAT_SCNT n)
  if w.testBit 10 && decide (scnt + held.length < N) then
    if (b.ps n).sndf.isEmpty then (b, .stall held)
    else
      let r := b.serGather n N 40 held
      if N ≤ r.2.length then (r.1.psDrive n f od r.2, .done none) else (r.1, .stall r.2)
  else
    let k := min (N - held.length) scnt
    let bits := held ++ b.serBits n k ++ List.replicate (N - held.length - k) false
    ((b.serTake n k).psDrive n f od bits, .done none)

/-- A TAKE (R418): `bits` are its samples. -/
def Block.psTakeStep (b : Block) (n w : Nat) (bits : List Bool) : Block × PsFlow :=
  let d := min (b.get (R.PS_STAT_DCNT n) + bits.length) 32
  let due := w.testBit 11 && decide (frameLen (b.get (R.PS_FRMCFG_DLEN n)) ≤ d)
  if due && decide (16 ≤ (b.ps n).rcvf.length) then (b, .stall bits)
  else
    let b := (b.modPs n fun p => { p with des := desShift (b.flag (R.PS_FRMCFG_DLSB n)) p.des bits }).put (R.PS_STAT_DCNT n) d
    (if due then b.desDeliver n else b, .done none)

/-- An attempt at a step word (R416): `again` resumes a stalled one with its partial bits. -/
def Block.psAttempt (b : Block) (n w : Nat) (again : Bool) (held : List Bool) : Block × PsFlow :=
  if psReserved w then (b, .halt true)
  else
    match bitsOf w 28 4 with
    | 0 =>
      let f := if w.testBit 19 then R.PS_PINST_OE n else R.PS_PINST_OUT n
      let mask := bitsOf w 8 8
      ((b.put f ((b.get f &&& (255 - mask)) ||| (mask &&& bitsOf w 0 8))).psContend, .done none)
    | 1 =>
      if b.psWaits n w then
        let b := if w.testBit 14 then b.setPsFlag (bitsOf w 0 4) false else b
        (b.psSend n (w.testBit 16) (w.testBit 15), .done none)
      else (b, .stall [])
    | 2 => b.psSendStep n w held
    | 3 =>
      b.psTakeStep n w
        (if again then held else (List.range (bitsOf w 15 5 + 1)).map fun i => b.psLevel n (bitsOf w 12 3 + i))
    | 4 => if (b.ps n).sndf.isEmpty then (b, .stall []) else (b.serLoad n, .done none)
    | 5 => if 16 ≤ (b.ps n).rcvf.length then (b, .stall []) else (b.desDeliver n, .done none)
    | 6 =>
      let t := R.psTally n (bitsOf w 18 2)
      (b.put t (match bitsOf w 16 2 with
        | 0 => bitsOf w 0 16
        | 1 => (b.ps n).des
        | _ => b.get t + bitsOf w 0 16), .done none)
    | 7 =>
      let t := R.psTally n (bitsOf w 18 2)
      if b.get t = 0 then (b, .done none) else (b.put t (b.get t - 1), .done (some (bitsOf w 0 6)))
    | 8 => (b, .done (if b.psCond n w then some (bitsOf w 0 6) else none))
    | 9 => ((b.setPsFlag (bitsOf w 0 4) (w.testBit 19)).psSend n false (w.testBit 18), .done none)
    | 10 => (b.psSend n (w.testBit 1) (w.testBit 0), .done none)
    | 12 => (b, if again then .done none else .stall [])
    | _ => (b, .halt false)

/-- The end of an attempt (R417, R422): PC, stall, dwell and halt. -/
def Block.psEnd (b : Block) (n w : Nat) (inj : Bool) : PsFlow → Block
  | .done t =>
    let pc := b.get (R.PS_STAT_PC n)
    let b := (b.put (R.PS_STAT_PC n) (t.getD (if inj then pc else pc + 1))).clear (R.PS_STAT_STALL n)
    let b := b.modPs n fun p => { p with stall := none, dwell := bitsOf w 20 8 }
    b.put (R.PS_STAT_DWELLING n) (bit (bitsOf w 20 8 != 0))
  | .stall bits => (b.raise (R.PS_STAT_STALL n)).modPs n fun p => { p with stall := some ⟨w, inj, bits⟩ }
  | .halt bad =>
    let pc := b.get (R.PS_STAT_PC n)
    let b := (b.put (R.PS_STAT_PC n) (if inj then pc else pc + 1)).clear (R.PS_STAT_STALL n)
    let b := ((b.raise (R.PS_STAT_HALTED n)).raise (R.PS_EVT_HALT n)).modPs n fun p => { p with stall := none }
    (if bad then b.raise (R.PS_EVT_BADOP n) else b).psEvent n

/-- A step word issued (R417). -/
def Block.psIssue (b : Block) (n w : Nat) (inj : Bool) : Block :=
  let r := b.psAttempt n w false []
  r.1.psEnd n w inj r.2

/-- The word that sequencer `n` fetches next, at a boundary: it runs, is not halted, stalled or dwelling, and no injection
waits (R416, R417, R422). -/
def Block.psNext (b : Block) (n : Nat) : Option Nat :=
  if b.pd4 && b.flag (R.PS_CTRL_EN n) && !b.flag (R.PS_STAT_HALTED n) && (b.ps n).stall.isNone &&
      !b.flag (R.PS_STAT_DWELLING n) && (b.ps n).inj.isNone then
    some ((b.ps n).steps.get (b.get (R.PS_STAT_PC n)) 0)
  else none

/-- A sequencer cycle in which sequencer `n` fetches a step of the kind `ok`: it issues. -/
def Block.psCycle (b : Block) (n : Nat) (ok : Nat → Bool) : Block :=
  match b.psNext n with
  | some w => if ok w then b.psIssue n w false else b
  | none => b

/-- A word is a step of an opcode, not of a reserved encoding. -/
def psIs (op w : Nat) : Bool := bitsOf w 28 4 == op && !psReserved w

/-- PINS (R416). -/
def execPsPins (n : Fin 16) (s : State) : Host.Outcome State Fault Refusal := done s (s.blk.psCycle n (psIs 0))

/-- WAITFOR (R416): `pins` are the inputs in this cycle. -/
def execPsWaitfor (n : Fin 16) (pins : W32) (s : State) : Host.Outcome State Fault Refusal :=
  done s ((s.blk.sees pins).psCycle n (psIs 1))

/-- SEND (R418). -/
def execPsSend (n : Fin 16) (s : State) : Host.Outcome State Fault Refusal := done s (s.blk.psCycle n (psIs 2))

/-- TAKE (R418): `pins` are the inputs in this cycle. -/
def execPsTake (n : Fin 16) (pins : W32) (s : State) : Host.Outcome State Fault Refusal :=
  done s ((s.blk.sees pins).psCycle n (psIs 3))

/-- LOADS (R416). -/
def execPsLoads (n : Fin 16) (s : State) : Host.Outcome State Fault Refusal := done s (s.blk.psCycle n (psIs 4))

/-- STORED (R416). -/
def execPsStored (n : Fin 16) (s : State) : Host.Outcome State Fault Refusal := done s (s.blk.psCycle n (psIs 5))

/-- TALLY (R416). -/
def execPsTally (n : Fin 16) (s : State) : Host.Outcome State Fault Refusal := done s (s.blk.psCycle n (psIs 6))

/-- REPEAT (R416). -/
def execPsRepeat (n : Fin 16) (s : State) : Host.Outcome State Fault Refusal := done s (s.blk.psCycle n (psIs 7))

/-- BRANCH (R416): `pins` are the inputs in this cycle. -/
def execPsBranch (n : Fin 16) (pins : W32) (s : State) : Host.Outcome State Fault Refusal :=
  done s ((s.blk.sees pins).psCycle n (psIs 8))

/-- FLAG (R416). -/
def execPsFlag (n : Fin 16) (s : State) : Host.Outcome State Fault Refusal := done s (s.blk.psCycle n (psIs 9))

/-- STROBE (R416). -/
def execPsStrobe (n : Fin 16) (s : State) : Host.Outcome State Fault Refusal := done s (s.blk.psCycle n (psIs 10))

/-- HALT (R416). -/
def execPsHalt (n : Fin 16) (s : State) : Host.Outcome State Fault Refusal := done s (s.blk.psCycle n (psIs 11))

/-- PAUSE (R416): its T[n] + 1 cycles end with PS_STALL_END. -/
def execPsPause (n : Fin 16) (s : State) : Host.Outcome State Fault Refusal := done s (s.blk.psCycle n (psIs 12))

/-- BADOP (R416): a reserved opcode or encoding. -/
def execPsBadop (n : Fin 16) (s : State) : Host.Outcome State Fault Refusal := done s (s.blk.psCycle n psReserved)

/-- PS_STALL_END (R417): the stalled step is tried again with the inputs of this cycle. -/
def execPsStallEnd (n : Fin 16) (pins : W32) (s : State) : Host.Outcome State Fault Refusal :=
  let b := s.blk.sees pins
  done s (match (b.ps n).stall, b.pd4 && b.flag (R.PS_CTRL_EN n) with
    | some st, true => let r := b.psAttempt n st.word true st.bits; r.1.psEnd n st.word st.inj r.2
    | _, _ => b)

/-- PS_DWELL_END (R417): the DWELL cycles are over. -/
def execPsDwellEnd (n : Fin 16) (s : State) : Host.Outcome State Fault Refusal :=
  let b := s.blk
  done s (if b.pd4 && b.flag (R.PS_CTRL_EN n) && b.flag (R.PS_STAT_DWELLING n) then
      (b.clear (R.PS_STAT_DWELLING n)).modPs n fun p => { p with dwell := 0 }
    else b)

/-! ## Injection (R422, R423) -/

/-- A write of PSn_INJECT (R422). -/
def Block.psInject (b : Block) (n w : Nat) : Block :=
  let b := if b.flag (R.PS_STAT_INJ_PEND n) then b.raise (R.PS_EVT_INJOVR n) else b
  (b.raise (R.PS_STAT_INJ_PEND n)).modPs n fun p => { p with inj := some w }

/-- PS_INJECT (R422). -/
def execPsInject (n : Fin 16) (w : W32) (s : State) : Host.Outcome State Fault Refusal :=
  done s (s.blk.atReg (R.PS_INJECT_WORD n) fun b => b.psInject n w.toNat)

/-- A stalled step abandoned (R423). -/
def Block.psAbandon (b : Block) (n : Nat) (st : PsStall) : Block :=
  let b := if bitsOf st.word 28 4 = 2 then b.clear (R.PS_STAT_SCNT n) else b
  (((b.clear (R.PS_STAT_STALL n)).raise (R.PS_EVT_STALL_ABORT n)).modPs n fun p => { p with stall := none }).psEvent n

/-- The injected word executes (R422). -/
def Block.psInjected (b : Block) (n w : Nat) : Block :=
  let b := ((b.clear (R.PS_STAT_INJ_PEND n)).clear (R.PS_STAT_HALTED n)).modPs n fun p => { p with inj := none }
  b.psIssue n w true

/-- PS_INJECT_EXEC (R423): a boundary, or with INJ_FORCE a cycle of a stall or a dwell; `pins` are the inputs in it. -/
def execPsInjectExec (n : Fin 16) (pins : W32) (s : State) : Host.Outcome State Fault Refusal :=
  let b := s.blk.sees pins
  done s (match (b.ps n).inj, b.pd4 && b.flag (R.PS_CTRL_EN n) with
    | some w, true =>
      let force := b.flag (R.PS_CTRL_INJ_FORCE n)
      match (b.ps n).stall with
      | some st => if force then (b.psAbandon n st).psInjected n w else b
      | none =>
        if b.flag (R.PS_STAT_DWELLING n) then
          if force then ((b.clear (R.PS_STAT_DWELLING n)).modPs n fun p => { p with dwell := 0 }).psInjected n w else b
        else b.psInjected n w
    | _, _ => b)

/-! ## Register writes and reads (R414, R415, R419 to R421, R423) -/

/-- A write of PSn_STEPDATA (R415). -/
def Block.psStepData (b : Block) (n w : Nat) : Block :=
  let a := b.get (R.PS_STEPADDR_ADDR n)
  (b.modPs n fun p => { p with steps := p.steps.put a w }).put (R.PS_STEPADDR_ADDR n) (a + 1)

/-- PS_STEPDATA_WRITE (R415). -/
def execPsStepdataWrite (n : Fin 16) (w : W32) (s : State) : Host.Outcome State Fault Refusal :=
  done s (s.blk.atReg (R.PS_STEPDATA_WORD n) fun b => b.psStepData n w.toNat)

/-- A push into the send FIFO (R419). -/
def Block.psPush (b : Block) (n w : Nat) : Block :=
  if 16 ≤ (b.ps n).sndf.length then b.raise (R.PS_EVT_SQOVR n)
  else b.modPs n fun p => { p with sndf := p.sndf ++ [w] }

/-- PS_SNDF_PUSH (R419). -/
def execPsSndfPush (n : Fin 16) (w : W32) (s : State) : Host.Outcome State Fault Refusal :=
  done s (s.blk.atReg (R.PS_SNDF_DATA n) fun b => b.psPush n w.toNat)

/-- A read of PSn_RCVF (R419). -/
def Block.psPop (b : Block) (n : Nat) : Block × Nat :=
  match (b.ps n).rcvf with
  | [] => (b.raise (R.PS_EVT_RQRDE n), 0)
  | v :: vs => (b.modPs n fun p => { p with rcvf := vs }, v)

/-- PS_RCVF_READ (R419). -/
def execPsRcvfRead (n : Fin 16) (s : State) : Host.Outcome State Fault Refusal :=
  done s (s.blk.atReg (R.PS_RCVF_DATA n) fun b => (b.psPop n).1)

/-- The divider restarts (R414). -/
def Block.psClkrst (b : Block) (n : Nat) : Block := b.modPs n fun p => { p with div := 0 }

/-- PS_CLKRST (R414). -/
def execPsClkrst (n : Fin 16) (s : State) : Host.Outcome State Fault Refusal :=
  done s (s.blk.atReg (R.PS_CTRL_CLKRST n) fun b => b.psClkrst n)

/-- RESTART (R423). -/
def Block.psRestart (b : Block) (n : Nat) : Block :=
  let b := ((b.put (R.PS_STAT_PC n) (b.get (R.PS_CTRL_START n))).clear (R.PS_SER_SER n)).clear (R.PS_STAT_SCNT n)
  (((b.clear (R.PS_STAT_DCNT n)).clear (R.PS_STAT_STALL n)).clear (R.PS_STAT_DWELLING n)).modPs n fun p =>
    { p with des := 0, stall := none, dwell := 0 }

/-- PS_RESTART (R423). -/
def execPsRestart (n : Fin 16) (s : State) : Host.Outcome State Fault Refusal :=
  done s (s.blk.atReg (R.PS_CTRL_RESTART n) fun b => b.psRestart n)

/-- FIFOCLR (R423). -/
def Block.psFifoclr (b : Block) (n : Nat) : Block := b.modPs n fun p => { p with sndf := [], rcvf := [] }

/-- PS_FIFOCLR (R423). -/
def execPsFifoclr (n : Fin 16) (s : State) : Host.Outcome State Fault Refusal :=
  done s (s.blk.atReg (R.PS_CTRL_FIFOCLR n) fun b => b.psFifoclr n)

/-- A write of PS_FLAGS (R420): a flag both set and cleared is set. -/
def Block.psFlagsWrite (b : Block) (w : Nat) : Block :=
  b.put R.PS_FLAGS_FLAGS ((b.get R.PS_FLAGS_FLAGS &&& (0xFFFF - w / 2 ^ 16 % 2 ^ 16)) ||| w % 2 ^ 16)

/-- PS_FLAGS_WRITE (R420). -/
def execPsFlagsWrite (w : W32) (s : State) : Host.Outcome State Fault Refusal :=
  done s (s.blk.atReg R.PS_FLAGS_FLAGS fun b => b.psFlagsWrite w.toNat)

/-- GO with TIMED and MASK as written (R421): the start waits for TMR_GAT, or for the next tick; a GO replaces a pending start. -/
def Block.psGo (b : Block) (timed : Bool) (mask : Nat) : Block :=
  (((b.put R.PS_GCTRL_TIMED (bit timed)).put R.PS_GCTRL_MASK mask).put R.PS_GCTRL_PEND (bit timed)).modTim fun t =>
    { t with psGo := !timed }

/-- PS_GO (R421); with TIMED = 0 the tick to the start passes. -/
def execPsGo (timed : Bool) (mask : BitVec 16) (s : State) : Host.Outcome State Fault Refusal :=
  done s (s.blk.atReg R.PS_GCTRL_GO fun b => let b := b.psGo timed mask.toNat; if timed then b else b.elapse 1)

/-- STOP (R421): EN of every sequencer that MASK names clears. -/
def Block.psStop (b : Block) (mask : Nat) : Block :=
  forEach 16 (fun n b => if mask.testBit n then b.clear (R.PS_CTRL_EN n) else b) (b.put R.PS_GCTRL_MASK mask)

/-- PS_GSTOP (R421). -/
def execPsGstop (mask : BitVec 16) (s : State) : Host.Outcome State Fault Refusal :=
  done s (s.blk.atReg R.PS_GCTRL_STOP fun b => b.psStop mask.toNat)

/-- PS_GROUP_START (R421): the first tick in which TNOW ≥ TMR_GAT; the ticks to it pass. -/
def execPsGroupStart (s : State) : Host.Outcome State Fault Refusal :=
  let b := s.blk
  done s (match b.flag R.PS_GCTRL_PEND, b.ticksTo (b.get64 R.TMR_GAT_LO_TNOW R.TMR_GAT_HI_TNOW) with
    | true, some dt => (b.elapse dt).compare
    | _, _ => b)

end Sys2Proof.Machine
end

