-- ==== Sys2Proof/Machine/RingPort.lean ====
section
/-! DEFINITION. The Ring Port: links, census and spill (17, R430 to R442). -/
namespace Sys2Proof.Machine

/-- The Ring Port's own state changed. -/
def Block.modRing (b : Block) (f : RingPort → RingPort) : Block := { b with rport := f b.rport }

/-- The Ring Port is stamped present and PD5 is ON (R445, R505). -/
def Block.ringOn (b : Block) : Bool := b.pd5 && b.flag R.INTEG_OPT_RING

/-- Link `l` is UP (R430). -/
def Block.linkUp (b : Block) (l : Nat) : Bool := b.ringOn && b.get (R.LINK_STAT_STATE l) == 2

/-- This drive sends messages (R431). -/
def Block.speaks (b : Block) : Bool := b.get R.RING_ME_ID != 0xFFFF

/-- A message sent on a link (R431). -/
def Block.rlSend (b : Block) (l : Nat) (m : RlMsg) : Block :=
  if b.speaks && b.linkUp l then { b with ports := { b.ports with rl := b.ports.rl ++ [(l, m)] } } else b

/-- The output of an earlier command is gone from the links. -/
def Block.rlClear (b : Block) : Block := { b with ports := { b.ports with rl := [] } }

/-- Credits offered to the peer of link `l`, and held from it (R435). -/
def Block.offered (b : Block) (l : Nat) : List (Nat × Nat × Nat) := b.rport.offered.get l []
def Block.creds (b : Block) (l : Nat) : List Nat := b.rport.held.get l []

/-! ## The event queue (R440) -/

/-- Entries written and not consumed (R440). -/
def Block.eqUsed (b : Block) : Nat := (b.get R.RING_EQTAIL_INDEX + 1024 - b.get R.RING_EQHEAD_INDEX) % 1024

/-- An entry of 127 bytes, its phase added, written at the tail (R440). -/
def Block.eqWrite (b : Block) (body : List Byte) : Block :=
  let t := b.get R.RING_EQTAIL_INDEX
  let b := b.dmaWrite rqRing 4 (b.getAddr R.RING_EQ_LO_ADDR R.RING_EQ_HI_ADDR + 128 * t)
    (body ++ leBytes (b.get R.RING_EQTAIL_PHASE) 1)
  let b := b.put R.RING_EQTAIL_INDEX (t + 1)
  if t = 1023 then b.put R.RING_EQTAIL_PHASE (1 - b.get R.RING_EQTAIL_PHASE) else b

/-- An entry of a kind whose fields lie in bytes 0x01 to 0x3F at places that are not stated: those bytes are free (log entry
38). -/
def Block.eqKind (b : Block) (kind : Nat) : Block :=
  (b.eqWrite (leBytes kind 1 ++ b.freeBytes 63 ++ leBytes 0 63)).drawn

/-- The statuses of a spill (R438). -/
inductive SpillStatus where
  | ok
  | noCred
  | linkDown
  | refused
  | timeout
  | srcErr
  | badDesc
deriving DecidableEq, Repr

/-- A spill ends: SPILLDONE (R437, R438). -/
def Block.spillDone (b : Block) (st : SpillStatus) : Block :=
  let b := (b.eqKind 3).raise R.RING_EVT_SPILLDONE
  if st = .ok then b else b.raise R.RING_EVT_SFAIL

/-! ## Links (R430, R431, R439) -/

/-- LINK_UP (R430): a link that is enabled finishes training. -/
def execLinkUp (l : Fin 4) (s : State) : Host.Outcome State Fault Refusal :=
  let b := s.blk
  done s (if b.ringOn && b.flag (R.LINK_CFG_EN l) && !b.linkUp l then
      ((b.put (R.LINK_STAT_STATE l) 2).put R.RING_STAT_UP (setBit (b.get R.RING_STAT_UP) l)).raise R.RING_EVT_LINKCHG
    else b)

/-- Link `l` goes DOWN (R430, R438, R439): the unused credits it was offered come back to firmware, and the spills under way
on it end. -/
def Block.linkDown (b : Block) (l : Nat) : Block :=
  let up := b.linkUp l
  let b := (b.clear (R.LINK_STAT_STATE l)).put R.RING_STAT_UP (clrBit (b.get R.RING_STAT_UP) l)
  let b := if up then b.raise R.RING_EVT_LINKCHG else b
  let back := b.offered l
  let lost := b.rport.flight.filter (·.link == l)
  let b := b.modRing fun r =>
    { r with offered := r.offered.del l, held := r.held.del l, flight := r.flight.filter (·.link != l) }
  let b := back.foldl (fun b _ => b.eqKind 4) b
  lost.foldl (fun b _ => b.spillDone .linkDown) b

/-- LINK_DOWN (R430). -/
def execLinkDown (l : Fin 4) (s : State) : Host.Outcome State Fault Refusal :=
  done s (if s.blk.linkUp l then s.blk.linkDown l else s.blk)

/-- A write of LINKn_CFG (R430, R432, R441): EN rising starts training and the largest round trip anew, EN cleared brings
the link DOWN. -/
def Block.writeLinkCfg (b : Block) (l : Nat) (en noFwd : Bool) : Block :=
  let was := b.flag (R.LINK_CFG_EN l)
  let b := (b.put (R.LINK_CFG_EN l) (bit en)).put (R.LINK_CFG_NOFWD l) (bit noFwd)
  if en && !was then (b.put (R.LINK_STAT_STATE l) 1).clear (R.LINK_RTT_MAX l)
  else if was && !en then b.linkDown l else b

/-- LINK_ECHO (R431): the neighbour's ID and the measured round trip. -/
def execLinkEcho (l : Fin 4) (id rtt : BitVec 16) (s : State) : Host.Outcome State Fault Refusal :=
  let b := s.blk
  done s (if b.linkUp l && b.speaks then
      let b := (b.put (R.LINK_PEER_ID l) id.toNat).raise (R.LINK_PEER_VALID l)
      (b.put (R.LINK_RTT_LAST l) rtt.toNat).put (R.LINK_RTT_MAX l) (max (b.get (R.LINK_RTT_MAX l)) rtt.toNat)
    else b)

/-! ## Census (R433, R434) -/

/-- The smallest of some frame numbers; 0 of none. -/
def firstFrame (fs : List Nat) : Nat :=
  match fs with
  | [] => 0
  | f :: r => r.foldl min f

/-- The census message of this drive as it stands now (R433). -/
def Block.census (b : Block) : List Byte :=
  let r := b.rport
  let first := firstFrame r.frames
  let full := r.frames.any fun f => decide (first + 255 < f)
  let map := r.frames.foldl (fun m f => if first + 255 < f then m else setBit m (f - first)) 0
  leBytes 1 1 ++ leBytes 0 1 ++ leBytes (b.get R.RING_ME_ID) 2 ++ leBytes r.seq 4 ++ leBytes b.tnow 8 ++ leBytes 0 4 ++
    leBytes (b.get R.KET_HEAD_HEAD) 4 ++
    leBytes (b.get R.KET_STAT_THROTTLE + 2 * b.get R.KET_STAT_PFWARN + 4 * bit full + 8 * bit r.spilled) 2 ++
    leBytes (min r.frames.length 0xFFFF) 2 ++ leBytes first 4 ++ leBytes map 32

/-- A census sent on every forwarding link but one (R432, R434). -/
def Block.forward (b : Block) (except : Option Nat) (m : List Byte) : Block :=
  forEach 4 (fun l b =>
    if b.flag (R.LINK_CFG_NOFWD l) || except == some l then b else b.rlSend l (.census m)) b

/-- CENSUS_SEND (R433): a census period ends. -/
def execCensusSend (s : State) : Host.Outcome State Fault Refusal :=
  let b := s.blk
  done s (if b.ringOn && b.flag R.RING_CTRL_CENSEN && b.get R.RING_CENSUS_US != 0 && b.speaks then
      (b.rlClear.forward none b.census).modRing fun r =>
        { r with frames := [], spilled := false, seq := (r.seq + 1) % 2 ^ 32 }
    else b)

/-- A census dropped (R434, R440). -/
def Block.censusDrop (b : Block) : Block := (b.incSat R.RING_DROP_AGED 1).raise R.RING_EVT_DROP

/-- CENSUS_RECEIVE (R434): a census arrives on a link. -/
def execCensusReceive (l : Fin 4) (msg : BitVec 512) (s : State) : Host.Outcome State Fault Refusal :=
  let b := s.blk
  done s (if b.linkUp l then
      let b := b.rlClear
      let m := leBytes msg.toNat 64
      let age := leNat ((m.drop 0x10).take 4) + (b.get (R.LINK_RTT_LAST l) + 1) / 2
      let hops := leNat ((m.drop 1).take 1) + 1
      let b := if (leNat ((m.drop 0x18).take 2)).testBit 0 then b.raise R.RING_EVT_PEERTHR else b
      if b.get R.RING_RTTMAX_NS < 2 * age ∨ 255 ≤ hops then b.censusDrop
      else if 1024 - b.eqUsed ≤ 320 then b.censusDrop
      else
        let m := m.take 1 ++ leBytes hops 1 ++ (m.drop 2).take 14 ++ leBytes age 4 ++ m.drop 0x14
        let b := (b.eqWrite (leBytes 1 1 ++ m.drop 1 ++ leBytes 0 63)).raise R.RING_EVT_CENSUS
        b.forward (some l) m
    else b)

/-! ## Credits (R435) -/

/-- A write of RING_CRPUSH (R435): ignored without EN, on a link that is not UP, beyond 16 credits, or with a SIZE outside
1 to 16. -/
def Block.crPush (b : Block) (l size : Nat) : Block :=
  if b.flag R.RING_CTRL_EN && b.linkUp l && decide ((b.offered l).length < 16) && decide (1 ≤ size) && decide (size ≤ 16) then
    let c := (b.getAddr R.RING_CRBUF_LO_ADDR R.RING_CRBUF_HI_ADDR, b.get R.RING_CRKRES_KRES, size)
    (b.rlClear.rlSend l (.credit size)).modRing fun r => { r with offered := r.offered.put l (r.offered.get l [] ++ [c]) }
  else b

/-- CREDIT_PUSH (R435). -/
def execCreditPush (l : BitVec 2) (size : BitVec 5) (s : State) : Host.Outcome State Fault Refusal :=
  done s (s.blk.crPush l.toNat size.toNat)

/-- CREDIT_RECEIVE (R435): a credit of the neighbour arrives. -/
def execCreditReceive (l : Fin 4) (size : BitVec 5) (s : State) : Host.Outcome State Fault Refusal :=
  let b := s.blk
  done s (if b.linkUp l && decide ((b.creds l).length < 16) then
      b.modRing fun r => { r with held := r.held.put l (r.held.get l [] ++ [size.toNat]) }
    else b)

/-! ## Spill, the sender (R436 to R439) -/

/-- A descriptor from its 64 bytes; `none` where a field breaks R436. -/
def Block.spillDesc (b : Block) (d : List Byte) : Option SpillDesc :=
  let f := fun (o n : Nat) => leNat ((d.drop o).take n)
  let x : SpillDesc := ⟨f 1 1, f 4 4, f 8 8, f 0x10 8, f 0x18 4, f 0x1C 4, f 0x20 4, f 0x24 4, f 0x28 4⟩
  let place := match b.target x.buf with
    | .carafe _ | .dram _ => true
    | _ => false
  if f 0 1 == 1 && decide (x.link < 4) && f 2 2 == 0 && decide (1 ≤ x.blen) && decide (x.blen ≤ 2 ^ 20) &&
      x.buf % 64 == 0 && place && (d.drop 0x2C).all (· == 0) then some x else none

/-- One submitted entry of the ring fetched (R436); one whose line is under repair waits (R212). -/
def Block.ringFetch (b : Block) : Block :=
  if b.rport.due = 0 then b
  else
    let next := fun (b : Block) => b.modRing fun p => { p with head := (p.head + 1) % 256, due := p.due - 1 }
    match b.dmaRead rqRing 4 (b.getAddr R.RING_SQ_LO_ADDR R.RING_SQ_HI_ADDR + 64 * b.rport.head) 64 .clean with
    | (b, .later) => b
    | (b, .lost) => (next b).spillDone .badDesc
    | (b, .data d) => match b.spillDesc d with
      | some x => (next b).modRing fun p => { p with waiting := p.waiting ++ [x] }
      | none => (next b).spillDone .badDesc

/-- Every submitted entry fetched that can be. -/
def Block.ringFetches (b : Block) : Block := forEach b.rport.due (fun _ b => b.ringFetch) b

/-- RING_STAT.SQWAIT (R441). -/
def Block.sqWait (b : Block) : Nat := b.rport.due + b.rport.waiting.length + b.rport.flight.length

/-- A write of RING_SUBMIT (R436): ignored without EN or where the entries would not fit the ring (log entry 39). -/
def Block.ringSubmit (b : Block) (n : Nat) : Block :=
  if b.ringOn && b.flag R.RING_CTRL_EN && decide (b.sqWait + n ≤ 256) then
    (b.modRing fun p => { p with due := p.due + n }).ringFetches
  else b

/-- RING_SUBMIT (R436). -/
def execRingSubmit (n : BitVec 9) (s : State) : Host.Outcome State Fault Refusal := done s (s.blk.ringSubmit n.toNat)

/-- The head descriptor of a link (R436). -/
def Block.spillHead (b : Block) (l : Nat) : Option SpillDesc := b.rport.waiting.find? (·.link == l)

/-- A descriptor leaves the wait. -/
def Block.spillLeave (b : Block) (x : SpillDesc) : Block := b.modRing fun r => { r with waiting := r.waiting.erase x }

/-- SPILL_START (R437): the head descriptor of a link obtains a credit and its unit is streamed; `find` is what its source read finds,
which waits while a line of it is under repair (R212). Under the warning no new spill starts (R439). -/
def execSpillStart (l : Fin 4) (find : BankFind) (s : State) : Host.Outcome State Fault Refusal :=
  let b := s.blk.ringFetches
  done s (match b.spillHead l, b.creds l with
    | some x, size :: rest =>
      if b.linkUp l && b.speaks && !b.rport.warned then
        if size * 2 ^ 16 < x.blen then ((b.rlClear).spillLeave x).spillDone .badDesc
        else
          let start := fun (b : Block) => ((b.rlClear).spillLeave x).modRing fun r => { r with held := r.held.put l rest }
          match b.dmaRead rqRing 4 x.buf x.blen find with
          | (b, .later) => b
          | (b, .lost) => (start b).spillDone .srcErr
          | (b, .data d) => ((start b).rlSend l (.spill x.frame x.cookie d)).modRing fun r => { r with flight := r.flight ++ [x] }
      else b
    | _, _ => b)

/-- NOCRED (R437): no credit came within SPTMO for the head descriptor of a link. -/
def execNocred (l : Fin 4) (s : State) : Host.Outcome State Fault Refusal :=
  let b := s.blk
  done s (match b.spillHead l with
    | some x => if b.creds l = [] then (b.spillLeave x).spillDone .noCred else b
    | none => b)

/-- What answers a spill: SACK, a refusal, or a SACK for a spill that has already ended TIMEOUT (R437 to R439). -/
def Block.spillAnswer (b : Block) (l : Nat) (a : SpillAnswer) : Block :=
  match a, b.rport.flight.find? (·.link == l) with
  | .late, _ => (b.incSat R.RING_DROP_LATESACK 1).raise R.RING_EVT_LATESACK
  | .sack, some x =>
    let b := b.modRing fun r => { r with flight := r.flight.erase x }
    let b := (b.modInt fun i => { i with wbRel := i.wbRel ++ [(x.wbuf, x.wblen)] }).toKettle (.release x.kres)
    b.spillDone .ok
  | .refused, some x => (b.modRing fun r => { r with flight := r.flight.erase x }).spillDone .refused
  | _, none => b

/-- SACK (R437). -/
def execSack (l : Fin 4) (a : SpillAnswer) (s : State) : Host.Outcome State Fault Refusal :=
  done s (if s.blk.linkUp l then s.blk.spillAnswer l a else s.blk)

/-- SPILL_TIMEOUT (R438): no SACK within SPTMO of the last byte of the oldest spill on a link. -/
def execSpillTimeout (l : Fin 4) (s : State) : Host.Outcome State Fault Refusal :=
  let b := s.blk
  done s (match b.rport.flight.find? (·.link == l.val) with
    | some x => (b.modRing fun r => { r with flight := r.flight.erase x }).spillDone .timeout
    | none => b)

/-! ## Spill, the receiver (R437, R439) -/

/-- SPILL_RECEIVE (R437): the last byte of a unit lands in the buffer of the link's oldest credit; under the warning it is
refused and the buffer discarded (R439). -/
def execSpillReceive (l : Fin 4) (frame : W32) (data : List Byte) (s : State) : Host.Outcome State Fault Refusal :=
  let b := s.blk
  done s (match b.offered l with
    | c :: rest =>
      if b.linkUp l then
        let b := b.rlClear.modRing fun r => { r with offered := r.offered.put l rest }
        if b.rport.warned then b.rlSend l .refused
        else
          let b := b.dmaWrite rqRing 4 c.1 (data.take (c.2.2 * 2 ^ 16))
          let b := ((b.eqKind 2).raise R.RING_EVT_SPILLIN).cover frame.toNat true
          b.rlSend l .sack
      else b
    | [] => b)

/-- The warning in the Ring island (R439): waiting descriptors complete NOCRED. -/
def Block.warnRing (b : Block) : Block :=
  let b := b.ringFetches
  let ws := b.rport.waiting
  let b := b.modRing fun r => { r with warned := true, waiting := [] }
  ws.foldl (fun b _ => b.spillDone .noCred) b

end Sys2Proof.Machine
end

