-- ==== Sys2Proof/Machine/PowerCtl.lean ====
section
/-! DEFINITION. Power domains, Drip, resets, and the power-fail warning's arrival in each island (10, 18; R288, R443 to
R458). -/
namespace Sys2Proof.Machine

/-! ## What a domain loses (R444, R451, R456) -/

/-- The row of a window offset in the register map, with the indices of its register. -/
def RegRow.at (r : RegRow) (off : Nat) : Option (Nat × Nat) :=
  if off < r.base then none
  else
    let d := off - r.base
    let i := d / r.stride1
    let j := d % r.stride1 / r.stride2
    if r.count1 = 1 then
      if d % r.stride2 = 0 ∧ d / r.stride2 < r.count2 then some (0, d / r.stride2) else none
    else if i < r.count1 ∧ j < r.count2 ∧ d % r.stride1 % r.stride2 = 0 then some (i, j) else none

/-- The fields of the register at a window offset (R508); none where there is no register. -/
def R.at (off : Nat) : List Fld :=
  (R.rows.findSome? fun r => (r.at off).map fun ij => r.fields ij.1 ij.2).getD []

/-- Registers that lose their values: those of some offsets. -/
def Block.lose (b : Block) (gone : Nat → Bool) : Block := { b with regs := b.regs.filter fun p => !gone (p.1 / 32) }

/-- Fields that lose their values at some offsets, but for those a test keeps. -/
def Block.loseFields (b : Block) (gone : Nat → Bool) (keep : Fld → Bool) : Block :=
  { b with regs := b.regs.filter fun p =>
      !gone (p.1 / 32) || (R.at (p.1 / 32)).any fun f => f.key == p.1 && keep f }

/-- The offsets of the Intake, the Media Port, the Percolator and the ring (R451, R508, R512). -/
def isShadowed (off : Nat) : Bool :=
  decide (0x4000 ≤ off ∧ off < 0x4200) || decide (0x200 ≤ off ∧ off < 0x300) ||
    decide (0x3080 ≤ off ∧ off < 0x3100) || decide (0x6000 ≤ off ∧ off < 0x6100)

/-- The fields that the shadow holds (R451): RW ones, and the Media Port's and the ring's places. -/
def shadowed (f : Fld) : Bool :=
  f.acc == .rw || [R.MP_CPLTAIL_INDEX.off, R.MP_JLAST_LO_GRAN.off, R.MP_JLAST_HI_GRAN.off,
    R.RING_EQTAIL_INDEX.off].contains f.off

/-- PD4 loses its contents (R369, R401, R425). -/
def Block.losePeriph (b : Block) : Block :=
  { b.lose isPeriph with
    timers := { Timers.reset with servo := b.timers.servo, tpAt := b.timers.tpAt }, tick := Tick.fresh, axes := [], crema := [], pinseq := [] }

/-- PD5 loses its contents; a shadow is taken only in Drip (R445, R451). -/
def Block.loseRing (b : Block) : Block :=
  { b.lose fun off => decide (0x6000 ≤ off ∧ off < 0x6100) with rport := RingPort.reset }

/-- PD2, PD3, PD4 and PD5 after a power cycle, the shadow restored (R240, R451). -/
def Block.powerCycle (b : Block) : Block :=
  let b := b.losePeriph.loseFields isShadowed shadowed
  let b := forEach 4 (fun l b => if b.flag (R.LINK_CFG_EN l) then b.put (R.LINK_STAT_STATE l) 1 else b) b
  { b with
    intake := { Intake.reset with rowMap := b.intake.rowMap }
    media := { Media.reset with heads := b.media.heads, unread := b.media.unread, jprog := b.media.jprog }
    rport := RingPort.reset
    dram := ⟨[], [], [], []⟩
    resps := []
    chain := []
    digQ := []
    dg := []
    ports := Ports.none }

/-- The offsets of an engine's block that CS-RETAIN keeps: CLK, CSVER, CSSTAT, CSERR, ID, the watchdog (R302, R444; log
entry 41). -/
def engKeeps (o : Nat) : Bool := [0x10, 0x20, 0x24, 0x28, 0x3C, 0x60, 0x64, 0x68, 0x6C].contains o

/-- The registers of engine `n` that leave with its logic's supply. -/
def Block.loseEngine (b : Block) (n : Nat) : Block :=
  b.lose fun off => off / 0x100 == 0x400 + n && !engKeeps (off % 0x100)

/-- Engine `n` has its logic's supply again (R444, R445): an ACTIVE one goes on from its retention buffer. -/
def Block.engineBack (b : Block) (n : Nat) : Block :=
  let e := b.engine n
  let utpc := b.get (R.ENG_USTAT_UTPC n)
  let utin := b.flag (R.ENG_USTAT_UTIN n)
  let b := (b.loseEngine n).put (R.PWR_ENG_STATE n) 2
  if b.peIs n .active then
    let f := e.frame .trapok (b.get (R.ENG_CSVER_MSFV n)) 0 n utpc utin
    let b := (b.put (R.ENG_USTAT_UTPC n) f.seq.utpc).put (R.ENG_USTAT_UTIN n) (bit f.seq.utin)
    let b := (b.setEngine n { e.receive e f with running := true, frozen := false }).clear (R.ENG_USTAT_HALTED n)
    match b.leOf n with
    | some k => (b.setLe k 0).live [mirLe k]
    | none => b
  else b.setEngine n e.started

/-! ## Domain requests (R445 to R447) -/

/-- What becoming the head of the queue starts: a freeze, the withdrawal of a bank from the requesters, an initialisation. -/
def Block.domBegin (b : Block) : Block :=
  match b.domQ.head? with
  | some (.engine n 1 _) =>
    if b.peIs n .active && b.get (R.PWR_ENG_STATE n) == 2 && !(b.engine n).frozen then
      b.modEngine n fun e => { e with freezeReq := true }
    else b
  | some (.bank k dest) =>
    let st := b.get (R.CB_STAT_PSTATE k)
    if st = 2 ∧ dest < 2 then
      if (List.range 64).any fun i => b.get (R.INT_STG_BANK i) == k && b.stageLocked i then b
      else b.setBank k { b.bankAt k with target := some dest }
    else if st = 0 ∧ dest = 2 then b.raise (R.CB_STAT_INIT k)
    else b
  | _ => b

/-- A request put in the queue; in Drip, its entry and its wake it is refused at once (R447). -/
def Block.domAsk (b : Block) (q : DomReq) : Block :=
  if b.flag R.PWR_STAT_DRIP || b.get R.PWR_STAT_PHASE != 0 then b.raise R.PWR_EVT_DOMREF
  else
    let b := match q with
      | .engine n _ _ => b.raise (R.PWR_ENG_BUSY n)
      | .bank k _ => b.raise (R.PWR_BANK_BUSY k)
      | _ => b
    let first := b.domQ.isEmpty
    let b := { b with domQ := b.domQ ++ [q] }
    if first then b.domBegin else b

/-- A write of PWR_ENGn (R445, R446). -/
def Block.writePwrEng (b : Block) (n dest : Nat) (auto : Bool) : Block :=
  ((b.put (R.PWR_ENG_REQ n) dest).put (R.PWR_ENG_AUTOWAKE n) (bit auto)).domAsk (.engine n dest false) |>.autowake n

/-- ENGINE_DOMAIN_REQUEST (R445). -/
def execEngineDomainRequest (n : PE) (dest : BitVec 2) (auto : Bool) (s : State) : Host.Outcome State Fault Refusal :=
  done s (s.blk.writePwrEng n dest.toNat auto)

/-- A write of PWR_BANKk (R445). -/
def Block.writePwrBank (b : Block) (k dest : Nat) : Block := (b.put (R.PWR_BANK_REQ k) dest).domAsk (.bank k dest)

/-- BANK_DOMAIN_REQUEST (R445). -/
def execBankDomainRequest (k : BankId) (dest : BitVec 2) (s : State) : Host.Outcome State Fault Refusal :=
  done s (s.blk.writePwrBank k dest.toNat)

/-- PERIOFF (R445): PD4 is to be switched off or on. -/
def execPerioff (off : Bool) (s : State) : Host.Outcome State Fault Refusal :=
  done s ((s.blk.put R.PWR_CTRL_PERIOFF (bit off)).domAsk (.periph off))

/-- RINGOFF (R445): PD5 is to be switched off or on. -/
def execRingoff (off : Bool) (s : State) : Host.Outcome State Fault Refusal :=
  done s ((s.blk.put R.PWR_CTRL_RINGOFF (bit off)).domAsk (.ring off))

/-- The head of the queue ends with DOMDONE or DOMREF, and the next one starts (R445). -/
def Block.domEnd (b : Block) (ok : Bool) : Block :=
  let b := b.raise (if ok then R.PWR_EVT_DOMDONE else R.PWR_EVT_DOMREF)
  let rest := b.domQ.drop 1
  let b := match b.domQ.head? with
    | some (.engine n _ _) =>
      if rest.any (fun q => match q with | .engine m _ _ => m == n | _ => false) then b else b.clear (R.PWR_ENG_BUSY n)
    | some (.bank k _) =>
      if rest.any (fun q => match q with | .bank j _ => j == k | _ => false) then b else b.clear (R.PWR_BANK_BUSY k)
    | _ => b
  { b with domQ := rest }.domBegin

/-- An engine's request is dealt with (R444, R445, R447); a freeze not yet taken, or a move that involves it, holds it up. -/
def Block.domEngine (b : Block) (n dest : Nat) : Block :=
  let st := b.get (R.PWR_ENG_STATE n)
  if b.peIs n .moving then b
  else if dest = 1 then
    if st = 1 then b.domEnd true
    else if st = 0 || (b.engine n).resFault then b.domEnd false
    else if b.peIs n .active then
      if (b.engine n).frozen then
        if b.drained n then
          let b := b.put (R.PWR_ENG_STATE n) 1
          (match b.leOf n with
            | some k => (b.setLe k 1).live [mirLe k]
            | none => b).domEnd true
        else b
      else b.modEngine n fun e => { e with freezeReq := true }
    else if b.peIs n .spare then (b.put (R.PWR_ENG_STATE n) 1).domEnd true
    else b.domEnd false
  else if dest = 2 then
    if st = 1 then (b.engineBack n).domEnd true else b.domEnd (st == 2)
  else b.domEnd false

/-- Bank `k` reaches a power state below ON (R205, R206). -/
def Block.bankTo (b : Block) (k dest : Nat) : Block :=
  let b := b.bankLeaveOn k
  let b := (b.put (R.CB_STAT_PSTATE k) dest).put (R.PWR_BANK_STATE k) dest
  let b := b.setBank k { b.bankAt k with target := none }
  (if dest = 0 then b.zeroBank k else b).live [mirBank k]

/-- A bank's request is dealt with (R206, R445): requests already sent are served first. -/
def Block.domBank (b : Block) (k dest : Nat) : Block :=
  let st := b.get (R.CB_STAT_PSTATE k)
  if dest = 3 then b.domEnd false
  else if st = dest then b.domEnd true
  else if st = 2 then
    if (b.bankAt k).target = some dest then
      if (b.bankAt k).waiting.isEmpty then (b.bankTo k dest).domEnd true else b
    else b.domEnd false
  else if dest = 2 then
    if st = 1 then
      (((b.put (R.CB_STAT_PSTATE k) 2).put (R.PWR_BANK_STATE k) 2).live [mirBank k]).domEnd true
    else if b.flag (R.CB_STAT_INIT k) then b
    else b.raise (R.CB_STAT_INIT k)
  else b.domEnd false

/-- DOMAIN_DONE (R445): the request at the head of the queue completes or is refused, once what it waits for has come. -/
def execDomainDone (s : State) : Host.Outcome State Fault Refusal :=
  let b := s.blk
  done s (match b.domQ.head? with
    | some (.engine n dest _) => b.domEngine n dest
    | some (.bank k dest) => b.domBank k dest
    | some (.periph off) => { (if off then b.losePeriph else b) with pd4 := !off }.domEnd true
    | some (.ring off) => { (if off then b.loseRing else b) with pd5 := !off }.domEnd true
    | none => b)

/-! ## Drip (R448 to R454) -/

/-- The Distributor's wake request (R357): the lowest-numbered source that is enabled, pending and routed. -/
def Block.distWake (b : Block) : Option Nat :=
  (List.range 1024).find? fun x => b.enabled x && b.pend x && (b.routeOf x).isSome

/-- A wake source is active, with what WAKESTAT would record (R453). -/
def Block.wakeSource (b : Block) : Option (Nat × Nat) :=
  match b.distWake with
  | some x => some (0, x)
  | none => if b.power.wakeIn then some (1, 0) else if b.power.wakeDbg then some (2, 0) else none

/-- The first condition of R448 that does not hold; 0 where all hold. -/
def Block.dripCause (b : Block) : Nat :=
  if b.get R.INT_STAT_INUSE != 0 || b.intake.recs.any (·.2.taken) then 1
  else if b.percEmpty ≠ 0x3F then 2
  else if b.chain.any fun c => !c.2.moving.isEmpty || !c.2.shown.isEmpty then 3
  else if b.spm.move.isSome || b.spm.act.isSome || !b.spm.hwQ.isEmpty || !b.spm.cmdQ.isEmpty || !b.spm.copies.isEmpty then 4
  else if b.flag R.KET_STAT_PFWARN then 5
  else if b.wakeSource.isSome then 6
  else if b.sqWait ≠ 0 then 7 else 0

/-- A write of PWR_DRIP.ENTER (R448, R449, R450): while an entry or a wake runs it is ignored; domain requests that wait are
refused. -/
def Block.dripEnter (b : Block) : Block :=
  if b.get R.PWR_STAT_PHASE ≠ 0 ∨ b.flag R.PWR_STAT_DRIP then b
  else if b.dripCause ≠ 0 then (b.put R.PWR_DRIP_CAUSE b.dripCause).raise R.PWR_EVT_REFUSED
  else
    let b := b.domQ.foldl (fun b q => (match q with
      | .engine n _ _ => b.clear (R.PWR_ENG_BUSY n)
      | .bank k _ => (b.clear (R.PWR_BANK_BUSY k)).setBank k { b.bankAt k with target := none }
      | _ => b).raise R.PWR_EVT_DOMREF) b
    let b := ({ b with domQ := [] }.put R.PWR_STAT_PHASE 1).clear R.PWR_DRIP_CAUSE
    forEach 72 (fun n b =>
      if b.peIs n .active && b.get (R.PWR_ENG_STATE n) == 2 && !(b.engine n).frozen then
        b.modEngine n fun e => { e with freezeReq := true }
      else b) b

/-- DRIP_ENTER (R448). -/
def execDripEnter (s : State) : Host.Outcome State Fault Refusal := done s s.blk.dripEnter

/-- Every ACTIVE engine is frozen and drained, no move runs, and every request already sent to a bank or to the DRAM has been served
(R206, R449, R450). -/
def Block.allFrozen (b : Block) : Bool :=
  b.spm.move.isNone && b.spm.hwQ.isEmpty && b.dram.waiting.isEmpty && b.dram.presented.isEmpty &&
    ((List.range 64).all fun k => (b.bankAt k).waiting.isEmpty) &&
    (List.range 72).all fun n => !b.peIs n .active || ((b.engine n).frozen && b.drained n)

/-- Every bank that is ON goes where its DRIPPOL says (R205, R449). -/
def Block.dripBanks (b : Block) : Block :=
  forEach 64 (fun k b =>
    if b.get (R.CB_STAT_PSTATE k) = 2 then b.bankTo k (if b.flag (R.CB_CTRL_DRIPPOL k) then 0 else 1) else b) b

/-- Entry into Drip ends (R449, R454): with emulation, no domain loses power. -/
def Block.dripOff (b : Block) : Block :=
  let emul := b.pd1 && b.flag R.DBG_CTRL_ATTACH && b.flag R.DBG_EMU_SLEEP_SLEEP
  let b := forEach 64 (fun k b => if b.leState k = 0 then (b.setLe k 1).live [mirLe k] else b) b
  let b := ((b.put R.PWR_STAT_PHASE 6).raise R.PWR_STAT_DRIP).inc R.PWR_DRIPCNT_COUNT 1
  if emul then b.raise R.PWR_STAT_EMUL
  else
    let b := forEach 72 (fun n b => b.put (R.PWR_ENG_STATE n) (if b.peIs n .retired then 0 else 1)) b.dripBanks
    { b with pd4 := false, pd5 := false }

/-- DRIP_OFF (R449): what is left of the steps before it, once what they wait for has come, and the last one. -/
def execDripOff (s : State) : Host.Outcome State Fault Refusal :=
  let b := s.blk
  let p := b.get R.PWR_STAT_PHASE
  done s (if decide (1 ≤ p) && decide (p ≤ 5) && b.allFrozen then b.dripOff else b)

/-- PWR_WAKE (R453): the level of the PWR_WAKE input. -/
def execPwrWake (level : Bool) (s : State) : Host.Outcome State Fault Refusal :=
  done s { s.blk with power := { s.blk.power with wakeIn := level } }

/-- A write of PWR_CTRL.WAKE from the debug bus (R453): it asks for a wake from Drip or from an entry into it. -/
def Block.debugWake (b : Block) : Block :=
  if b.flag R.PWR_STAT_DRIP || b.get R.PWR_STAT_PHASE != 0 then { b with power := { b.power with wakeDbg := true } } else b

/-- WAKE (R453). -/
def execWake (s : State) : Host.Outcome State Fault Refusal := done s s.blk.debugWake

/-- DRIP_WAKE (R452): a wake request is usable in Drip and the sequence begins. -/
def execDripWake (s : State) : Host.Outcome State Fault Refusal :=
  let b := s.blk
  done s (match b.flag R.PWR_STAT_DRIP && b.get R.PWR_STAT_PHASE == 6, b.wakeSource with
    | true, some c => { b with power := { b.power with wakeDbg := false, cause := some c } }.put R.PWR_STAT_PHASE 7
    | _, _ => b)

/-- Bank `k` is ON after the wake (R452): a RETAIN bank as it was, an OFF bank initialised. -/
def Block.bankWakes (b : Block) (k : Nat) : Block :=
  let b := if b.get (R.CB_STAT_PSTATE k) = 0 then b.zeroBank k else b
  (((b.put (R.CB_STAT_PSTATE k) 2).put (R.PWR_BANK_STATE k) 2).clear (R.CB_STAT_INIT k)).live [mirBank k]

/-- 40 µs after the wake request (R452, R454). -/
def Block.wakeUp (b : Block) : Block :=
  let b := if b.flag R.PWR_STAT_EMUL then b.dripBanks else b
  let b := b.powerCycle
  let b := { b with pd4 := !b.flag R.PWR_CTRL_PERIOFF, pd5 := !b.flag R.PWR_CTRL_RINGOFF }
  let b := forEach 64 (fun k b => b.bankWakes k) b
  let b := forEach 72 (fun n b => if b.peIs n .retired then b else b.engineBack n) b
  let b := ((b.clear R.PWR_STAT_DRIP).clear R.PWR_STAT_EMUL).clear R.PWR_STAT_PHASE
  let c := b.power.cause.getD (0, 0)
  let b := ((b.raise R.PWR_EVT_WAKE).put R.PWR_WAKESTAT_KIND c.1).put R.PWR_WAKESTAT_SRC c.2
  { b with power := { b.power with cause := none } }

/-- WAKE_COMPLETE (R452). -/
def execWakeComplete (s : State) : Host.Outcome State Fault Refusal :=
  done s (if s.blk.get R.PWR_STAT_PHASE = 7 then s.blk.wakeUp else s.blk)

/-! ## Resets (R4, R456, R514) -/

/-- The DRAM window's bytes: no reset of the block reaches them (log entry 43). -/
def Block.dramBytes (b : Block) : Mem := b.mem.filter fun p => decide (dramBase ≤ p.1)

/-- POWER_ON_RESET (R456): everything restarts; only LC_STATE once SEALED stays. -/
def execPowerOnReset (s : State) : Host.Outcome State Fault Refusal :=
  done s { Block.reset with mem := s.blk.dramBytes, fresh := s.blk.fresh }

/-- A register field that a block reset leaves as it is (R456, R514): PD1's, the remap tables' counts, GLB_RSTCAUSE. -/
def keptByBlockReset (key : Nat) : Bool :=
  let off := key / 32
  isDebug off ||
    [R.GLB_RSTCAUSE_POWERON.key, R.GLB_RSTCAUSE_BLOCK.key, R.GLB_RSTCAUSE_AFTERPF.key, R.SPM_TAGSP_USED.key,
      R.SPM_TAGSP_RETIRED.key].contains key ||
    ((List.range 72).any fun n => (R.ENG_CSSTAT_SPUSED n).key == key) ||
    ((List.range 64).any fun k => (R.CB_STAT_SPUSED k).key == key || (R.CB_STAT_SPFULL k).key == key)

/-- A block reset (R456): every domain but PD1 restarts; the remap tables of PD6 stay. -/
def Block.blockReset (b : Block) : Block :=
  let warned := b.flag R.KET_STAT_PFWARN
  let r : Block := { Block.reset with
    regs := b.regs.filter fun p => keptByBlockReset p.1
    mem := b.dramBytes
    eng := b.eng.map fun p => (p.1, { Engine.reset with csMap := p.2.csMap })
    bank := b.bank.map fun p => (p.1, { Bank.reset p.1 with spare := p.2.spare, spUsed := p.2.spUsed })
    intake := { Intake.reset with rowMap := b.intake.rowMap, retiring := b.intake.retiring }
    fresh := b.fresh
    pd1 := b.pd1
    vt := b.vt
    trcBuf := b.trcBuf
    tap := b.tap
    power := { b.power with wakeDbg := false, cause := none } }
  let r := r.raise R.GLB_RSTCAUSE_BLOCK
  if warned then r.raise R.GLB_RSTCAUSE_AFTERPF else r

/-! ## The warning's arrival (R288) -/

/-- WARNING_ARRIVAL (R288): the warning becomes usable in an island. -/
def execWarningArrival (w : Island) (s : State) : Host.Outcome State Fault Refusal :=
  let b := s.blk
  done s (if b.flag R.KET_STAT_PFWARN then
      match w with
      | .engine n => b.modKet fun k => { k with warnEng := setBit k.warnEng n }
      | .intake => (b.modInt fun x => { x with warned := true }).dropRequest.settleKettle
      | .fabric => b.warnFabric
      | .spm => b.actAbort
      | .ring => b.warnRing
    else b)

end Sys2Proof.Machine
end

