-- ==== Sys2Proof/Machine/Debug.lean ====
section
/-! DEFINITION. Run control, a halted engine's registers, comparator commits, counters, virtual terminal and debug reset
(19; R5, R465 to R483). -/
namespace Sys2Proof.Machine

/-! ## Halts (R465 to R469) -/

/-- Every halt request of engine `n` that has not been taken is withdrawn (R465, R480). -/
def Block.cancelHalt (b : Block) (n : Nat) : Block :=
  ((b.modEngine n fun e => { e with halt := none }).clear (R.ENG_DBGSTAT_PENDING n)).clear (R.ENG_DBGSTAT_STEPPING n)

/-- A clock-stop halt of engine `n` ends (R466, R468): the watchdog's grace applies, the release is traced and the first
instruction dispatched meets no instruction-address comparator. -/
def Block.releaseHalt (b : Block) (n : Nat) : Block :=
  if b.flag (R.ENG_DBGSTAT_CSTOP n) then
    let b := ((b.wdgGrace n).clear (R.ENG_DBGSTAT_CSTOP n)).clear (R.ENG_DBGSTAT_INSTR n)
    (b.modEngine n fun e => { e with skipIaddr := true, trapPt := none }).traceResume n
  else b

/-- A write of ENGn_DBGCTL.HALT (R465): a request in the mode HALTMODE names; ignored in SEALED. -/
def Block.haltWrite (b : Block) (n : Nat) : Block :=
  if b.isSealed then b else b.requestHalt n (if b.flag (R.ENG_DBGCTL_HALTMODE n) then .monitor else .clockStop)

/-- HALT (R465). -/
def execHalt (n : PE) (s : State) : Host.Outcome State Fault Refusal :=
  done s (s.blk.atEng n 0 fun b => b.haltWrite n)

/-- A write of ENGn_DBGCTL.RESUME (R466); ignored in SEALED. -/
def Block.resumeWrite (b : Block) (n : Nat) : Block := if b.isSealed then b else b.releaseHalt n

/-- RESUME (R466). -/
def execResume (n : PE) (s : State) : Host.Outcome State Fault Refusal :=
  done s (s.blk.atEng n 0 fun b => b.resumeWrite n)

/-- A write of ENGn_DBGCTL.STEP while CSTOP = 1 (R468): the halt is released and a clock-stop request raised; ignored in
SEALED. -/
def Block.stepWrite (b : Block) (n : Nat) : Block :=
  if !b.isSealed && b.flag (R.ENG_DBGSTAT_CSTOP n) then
    ((b.releaseHalt n).requestHalt n .clockStop).raise (R.ENG_DBGSTAT_STEPPING n)
  else b

/-- STEP (R468). -/
def execStep (n : PE) (s : State) : Host.Outcome State Fault Refusal :=
  done s (s.blk.atEng n 0 fun b => b.stepWrite n)

/-- A write of ENGn_DBGCTL.CANCEL (R465); ignored in SEALED. -/
def Block.cancelWrite (b : Block) (n : Nat) : Block := if b.isSealed then b else b.cancelHalt n

/-- CANCEL (R465). -/
def execCancel (n : PE) (s : State) : Host.Outcome State Fault Refusal :=
  done s (s.blk.atEng n 0 fun b => b.cancelWrite n)

/-- Engine `n` is in the halt group (R469). -/
def Block.inGroup (b : Block) (n : Nat) : Bool := (b.get (R.xhalt n)).testBit (n % 32)

/-- A write of DBG_XRESUME.GO (R469): every member of the group in a clock-stop halt is released. -/
def Block.xresume (b : Block) : Block := forEach 72 (fun n b => if b.inGroup n then b.releaseHalt n else b) b

/-- XRESUME (R469). -/
def execXresume (s : State) : Host.Outcome State Fault Refusal :=
  done s (s.blk.atReg R.DBG_XRESUME_GO Block.xresume)

/-! ## A halted engine's registers (R470) -/

/-- The element of engine `n` that DBGRSEL selects; CYCLE as it stood when the clock stopped (log entry 11). -/
def Block.dbgElem (b : Block) (n sel : Nat) : W64 :=
  let e := b.engine n
  if sel < 0x1F then e.gV.get sel 0
  else if 0x20 ≤ sel ∧ sel < 0x3F then e.gT.get (sel - 0x20) 0
  else if 0x40 ≤ sel ∧ sel < 0x44 then e.sp.get (sel - 0x40) 0
  else if sel = 0x44 then e.st.word
  else if sel = 0x45 then e.pc.setWidth 64
  else if sel = 0x46 then e.ir
  else if 0x48 ≤ sel ∧ sel < 0x58 then (e.v ((sel - 0x48) / 2)).extractLsb' (64 * ((sel - 0x48) % 2)) 64
  else if (0x58 ≤ sel ∧ sel < 0x5D) ∨ (0x60 ≤ sel ∧ sel < 0x65) then
    let w := (sel - 0x58) / 8
    match sel % 8 with
    | 0 => (e.ctxid.get w 0).setWidth 64
    | 1 => (e.vbase.get w 0).setWidth 64
    | 2 => (e.ftpc.get w 0).setWidth 64
    | 3 => (e.faddr.get w 0).setWidth 64
    | _ => (e.fcause.get w 0).setWidth 64
  else if sel = 0x68 then e.cycle
  else if 0x70 ≤ sel then e.ur (sel - 0x70)
  else 0

/-- A special register of world `w` of an engine given a value (R73, R331). -/
def Engine.dbgSr (e : Engine) (w i : Nat) (v : W64) : Engine :=
  match i with
  | 0 => { e with ctxid := e.ctxid.put w (v.setWidth 32) }
  | 1 => { e with vbase := e.vbase.put w (BitVec.ofNat 48 (v.toNat % 2 ^ 48 / 2 ^ 13 * 2 ^ 13)) }
  | 2 => { e with ftpc := e.ftpc.put w (v.setWidth 48) }
  | 3 => { e with faddr := e.faddr.put w (v.setWidth 48) }
  | _ => { e with fcause := e.fcause.put w (v.setWidth 8) }

/-- Half of a lane register replaced. -/
def setHalf (x : W128) (hi : Bool) (v : W64) : W128 :=
  if hi then v ++ x.extractLsb' 0 64 else x.extractLsb' 64 64 ++ v

/-- The elements of R28 with stored codes that DBGRSEL selects (R470). -/
def dbgElems (sel : Nat) : List Nat :=
  if sel < 0x1F then [sel]
  else if 0x20 ≤ sel ∧ sel < 0x3F then [sel - 1]
  else if 0x40 ≤ sel ∧ sel < 0x44 then [sel - 2]
  else if 0x44 ≤ sel ∧ sel ≤ 0x46 then [sel + 60]
  else if 0x48 ≤ sel ∧ sel < 0x58 then [66 + 2 * (sel - 0x48), 67 + 2 * (sel - 0x48)]
  else if 0x70 ≤ sel ∧ sel < 0x80 then [sel - 14]
  else []

/-- A write to the element DBGRSEL selects, with a fresh residue (R470); a new PC is fetched anew (log entry 46). -/
def Engine.dbgPut (e : Engine) (sel : Nat) (v : W64) : Engine :=
  if sel < 0x1F then Engine.recode { e with gV := e.gV.put sel v } (dbgElems sel)
  else if 0x20 ≤ sel ∧ sel < 0x3F then Engine.recode { e with gT := e.gT.put (sel - 0x20) v } (dbgElems sel)
  else if 0x40 ≤ sel ∧ sel < 0x44 then Engine.recode { e with sp := e.sp.put (sel - 0x40) v } (dbgElems sel)
  else if sel = 0x44 then Engine.recode { e with st := St.ofWord v } [128]
  else if sel = 0x45 then
    Engine.recode { e with pc := BitVec.ofNat 48 (v.toNat % 2 ^ 48 / 4 * 4), pcNext := none, ibuf := [], hold := .fetch } [129]
  else if 0x48 ≤ sel ∧ sel < 0x58 then
    let i := (sel - 0x48) / 2
    Engine.recode { e with vr := e.vr.put i (setHalf (e.v i) (decide (sel % 2 = 1)) v) } (dbgElems sel)
  else if 0x58 ≤ sel ∧ sel < 0x5D then e.dbgSr 0 (sel - 0x58) v
  else if 0x60 ≤ sel ∧ sel < 0x65 then e.dbgSr 1 (sel - 0x60) v
  else e

/-- A read of ENGn_DBGRD_LO or _HI (R470). -/
def Block.dbgRead (b : Block) (n : Nat) (hi : Bool) : Nat :=
  if b.flag (R.ENG_DBGSTAT_CSTOP n) then
    (b.dbgElem n (b.get (R.ENG_DBGRSEL_SEL n))).toNat / (if hi then 2 ^ 32 else 1) % 2 ^ 32
  else 0

/-- What a read of ENGn_DBGRD_LO or _HI finds (R470): a mismatch of a stored code sets RESERR, a peek's too, as the register has
no read side effect that a peek would leave out (R13, R482). -/
def Block.dbgMark (b : Block) (n : Nat) : Block :=
  if b.flag (R.ENG_DBGSTAT_CSTOP n) && (dbgElems (b.get (R.ENG_DBGRSEL_SEL n))).any (b.engine n).corrupt then
    b.raise (R.ENG_DBGSTAT_RESERR n)
  else b

/-- A write of ENGn_DBGRD_LO (R470): staged. -/
def Block.dbgStage (b : Block) (n v : Nat) : Block :=
  if b.flag (R.ENG_DBGSTAT_CSTOP n) then
    if b.flag (R.ENG_DBGSTAT_INSTR n) then b.raise (R.ENG_DBGSTAT_WREF n)
    else b.modEngine n fun e => { e with dbgLo := v % 2 ^ 32 }
  else b

/-- A write of ENGn_DBGRD_HI (R470): both halves are committed; inside an instruction it is refused. -/
def Block.dbgCommit (b : Block) (n v : Nat) : Block :=
  if b.flag (R.ENG_DBGSTAT_CSTOP n) then
    if b.flag (R.ENG_DBGSTAT_INSTR n) then b.raise (R.ENG_DBGSTAT_WREF n)
    else b.modEngine n fun e =>
      e.dbgPut (b.get (R.ENG_DBGRSEL_SEL n)) (BitVec.ofNat 64 (v % 2 ^ 32 * 2 ^ 32 + e.dbgLo))
  else b

/-- DBGRD_COMMIT (R470). -/
def execDbgrdCommit (n : PE) (hi : W32) (s : State) : Host.Outcome State Fault Refusal :=
  done s (s.blk.atEng n 0x88 fun b => b.dbgCommit n hi.toNat)

/-! ## Comparators and counters (R471, R473, R477, R478, R482) -/

/-- A write of ENGn_CMPCTL (R471, R473, R474): the staged values and the control become comparator INDEX; its pair is
disarmed. -/
def Block.cmpCommit (b : Block) (n v : Nat) : Block :=
  let i := b.get (R.ENG_CMPIDX_INDEX n)
  b.modEngine n fun e =>
    let c : Cmp :=
      { en := v.testBit 31 && decide (bitsOf v 0 4 ≤ 4) && !b.isSealed
        ctxen := v.testBit 30
        lvl := BitVec.ofNat 4 (bitsOf v 26 4)
        link := bitsOf v 24 2
        action := bitsOf v 16 4
        type := bitsOf v 0 4
        a := e.cmpA
        b := e.cmpB
        ctx := e.cmpCtx
        armed := false }
    let j := i / 2 * 2
    let cs := e.cmp.put i c
    { e with cmp := cs.put j { cs.get j Cmp.off with armed := false } }

/-- CMPCTL_COMMIT (R471). -/
def execCmpctlCommit (n : PE) (v : W32) (s : State) : Host.Outcome State Fault Refusal :=
  done s (s.blk.atEng n 0xA8 fun b => b.cmpCommit n v.toNat)

/-- A write of ENGn_PMCTL.CLR (R482): every counter of the engine is 0. -/
def Block.pmcClr (b : Block) (n : Nat) : Block := forEach 8 (fun i b => b.clear (R.ENG_PMC_COUNT n i)) b

/-- PMC_CLR (R482). -/
def execPmcClr (n : PE) (s : State) : Host.Outcome State Fault Refusal :=
  done s (s.blk.atEng n 0xE8 fun b => b.pmcClr n)

/-- A write of GPCTL.CLR (R478): every global counter is 0. -/
def Block.gpcClr (b : Block) : Block := forEach 64 (fun i b => b.clear (R.GPC_COUNT i)) b

/-- GPC_CLR (R478). -/
def execGpcClr (s : State) : Host.Outcome State Fault Refusal := done s s.blk.gpcClr

/-! ## Virtual terminal (R479) -/

/-- Channel `k`'s two FIFOs. -/
def Block.vtAt (b : Block) (k : Nat) : Vt := b.vt.get k ⟨[], []⟩

/-- Channel `k`'s FIFOs given contents. -/
def Block.setVt (b : Block) (k : Nat) (v : Vt) : Block := { b with vt := b.vt.put k v }

/-- The terminal is usable: PD1 is ON and the block is not SEALED. -/
def Block.vtOn (b : Block) : Bool := b.pd1 && !b.isSealed

/-- A write of VTk_DTX. -/
def Block.dtxPush (b : Block) (k v : Nat) : Block :=
  let t := b.vtAt k
  if b.vtOn then
    if t.dtx.length < 16 then b.setVt k { t with dtx := t.dtx ++ [v % 2 ^ 32] } else b.raise (R.VT_STAT_TXOVR k)
  else b

/-- VT_DTX_PUSH (R479). -/
def execVtDtxPush (k : Fin 8) (v : W32) (s : State) : Host.Outcome State Fault Refusal := done s (s.blk.dtxPush k v.toNat)

/-- A write of VTk_DRX. -/
def Block.drxPush (b : Block) (k v : Nat) : Block :=
  let t := b.vtAt k
  if b.vtOn then
    if t.drx.length < 16 then b.setVt k { t with drx := t.drx ++ [v % 2 ^ 32] } else b.raise (R.VT_STAT_RXOVR k)
  else b

/-- VT_DRX_PUSH (R479). -/
def execVtDrxPush (k : Fin 8) (v : W32) (s : State) : Host.Outcome State Fault Refusal := done s (s.blk.drxPush k v.toNat)

/-- What a read of VTk_DRX returns; a peek returns the same (R13). -/
def Block.drxHead (b : Block) (k : Nat) : Nat := if b.vtOn then (b.vtAt k).drx.headD 0 else 0

/-- A read of VTk_DRX that is no peek. -/
def Block.drxPop (b : Block) (k : Nat) : Block :=
  let t := b.vtAt k
  if b.vtOn then
    if t.drx.isEmpty then b.raise (R.VT_STAT_RXUNF k) else b.setVt k { t with drx := t.drx.drop 1 }
  else b

/-- VT_DRX_READ (R479); a peek by the debugger pops nothing. -/
def execVtDrxRead (k : Fin 8) (peek : Bool) (s : State) : Host.Outcome State Fault Refusal :=
  done s (if peek then s.blk else s.blk.drxPop k)

/-- A write of VTk_CTL.POPTX. -/
def Block.popTx (b : Block) (k : Nat) : Block :=
  let t := b.vtAt k
  if b.pd1 then b.setVt k { t with dtx := t.dtx.drop 1 } else b

/-- POPTX (R479). -/
def execPoptx (k : Fin 8) (s : State) : Host.Outcome State Fault Refusal := done s (s.blk.popTx k)

/-- A write of VTk_CTL.FLUSH (R483). -/
def Block.vtFlush (b : Block) (k : Nat) : Block := if b.pd1 then b.setVt k ⟨[], []⟩ else b

/-- VT_FLUSH (R483). -/
def execVtFlush (k : Fin 8) (s : State) : Host.Outcome State Fault Refusal := done s (s.blk.vtFlush k)

/-! ## The debug domain (R480, R481) -/

/-- The debug reset. -/
def Block.debugReset (b : Block) : Block :=
  let b := (b.clear R.DBG_CTRL_ATTACH).clear R.DBG_EMU_SLEEP_SLEEP
  let b := { b with trcBuf := [], vt := [], tap := { b.tap with acc := none } }
  forEach 72 (fun n b => (b.releaseHalt n).cancelHalt n) b

/-- DRESET (R480). -/
def execDreset (s : State) : Host.Outcome State Fault Refusal :=
  done s (s.blk.atReg R.DBG_CTRL_DRESET Block.debugReset)

/-- The DBG_PWRREQ input at a level (R480): PD1 follows it, and each change is a debug reset; a domain that was OFF starts
with its registers at their reset values (log entry 44). -/
def Block.pwrReq (b : Block) (level : Bool) : Block :=
  if b.pd1 = level then b else { (b.debugReset.lose isDebug) with pd1 := level, trcBuf := [] }

/-- DBG_PWRREQ (R480). -/
def execDbgPwrreq (level : Bool) (s : State) : Host.Outcome State Fault Refusal := done s (s.blk.pwrReq level)

/-! ## Sealing (R4, R5, R465, R481) -/

/-- What sealing ends: comparators are disabled, clock-stop halts released, halt requests discarded, ATTACH and SLEEP
cleared. -/
def Block.sealing (b : Block) : Block :=
  let b := (b.clear R.DBG_CTRL_ATTACH).clear R.DBG_EMU_SLEEP_SLEEP
  forEach 72 (fun n b =>
    let e := b.engine n
    let b := if e.cmp.isEmpty then b
      else b.setEngine n { e with cmp := e.cmp.map fun p => (p.1, { p.2 with en := false }) }
    let b := if e.halt.isSome then b.cancelHalt n else b
    b.releaseHalt n) b

/-- SEAL_INPUT_HIGH (R4, R5): LC_STATE becomes SEALED for good. -/
def execSealInputHigh (s : State) : Host.Outcome State Fault Refusal :=
  let b := if s.blk.isSealed then s.blk else s.blk.sealing
  .next { s with blk := { b with isSealed := true } }

end Sys2Proof.Machine
end

