-- ==== Sys2Proof/Machine/Chain.lean ====
section
/-! DEFINITION. Chain FIFOs (R147 to R152). -/
namespace Sys2Proof.Machine

/-- The FIFO that logical engine `k` feeds (R147). -/
def chainOut (k : Nat) : Option Nat := if k % 8 < 7 then some k else none

/-- The FIFO that feeds logical engine `k`, numbered by the engine that fills it (R147). -/
def chainIn (k : Nat) : Option Nat := if 0 < k % 8 then some (k - 1) else none

/-- Chain FIFO `i`. -/
def Block.chainAt (b : Block) (i : Nat) : Chain := b.chain.get i Chain.empty

/-- Chain FIFO `i` given a state. -/
def Block.setChain (b : Block) (i : Nat) (c : Chain) : Block := { b with chain := b.chain.put i c }

/-- The chain FIFOs of the logical engine that engine `n` runs (R151). -/
def Block.chainsOf (b : Block) (n : Nat) : Option Nat × Option Nat :=
  match b.leOf n with
  | some k => (chainOut k, chainIn k)
  | none => (none, none)

/-- CHONF (R40, R149). -/
def Block.chainRoom (b : Block) (n : Nat) : Bool :=
  match (b.chainsOf n).1 with
  | some i => decide ((b.chainAt i).spent < 32)
  | none => false

/-- The entry that CHINE shows (R40, R149). -/
def Block.chainHead (b : Block) (n : Nat) : Option (List Byte × Nat) :=
  match (b.chainsOf n).2 with
  | some i => (b.chainAt i).shown.head?
  | none => none

/-- A VCHOUT: one entry of 16 bytes and its tag (R148, R149). -/
def Block.chainPush (b : Block) (n : Nat) (d : List Byte) (tag : Nat) : Block :=
  match (b.chainsOf n).1 with
  | some i =>
    let c := b.chainAt i
    b.setChain i { c with moving := c.moving ++ [(d, tag)], spent := c.spent + 1 }
  | none => b

/-- A VCHIN pops the head (R148, R149): its credit is on its way back. -/
def Block.chainPop (b : Block) (n : Nat) : Block :=
  match (b.chainsOf n).2 with
  | some i =>
    let c := b.chainAt i
    b.setChain i { c with shown := c.shown.drop 1, returning := c.returning + 1 }
  | none => b

/-- CHAIN_ENTRY_ARRIVAL (R149): in FIFO `j` of cluster `c` the oldest entry on its way becomes visible, or a credit comes
back to the producer. -/
def execChainEntryArrival (c : Fin 8) (j : Fin 7) (credit : Bool) (s : State) : Host.Outcome State Fault Refusal :=
  let b := s.blk
  let i := 8 * c.val + j.val
  let f := b.chainAt i
  done s (if credit then
      if f.returning = 0 then b else b.setChain i { f with returning := f.returning - 1, spent := f.spent - 1 }
    else match f.moving with
      | [] => b
      | x :: xs => b.setChain i { f with moving := xs, shown := f.shown ++ [x] })

/-- A write of ENGn_CHSTAT.FLUSHOUT (R152): entries on their way are discarded, but for those already handed towards the
consumer, a free number of the oldest (log entry 47). -/
def Block.flushOut (b : Block) (n : Nat) : Block :=
  match (b.chainsOf n).1 with
  | some i =>
    let f := b.chainAt i
    let keep := b.freeWord.toNat % (f.moving.length + 1)
    (b.setChain i { f with
      moving := f.moving.take keep, returning := f.returning + (f.moving.length - keep) }).drawn
  | none => b

/-- FLUSHOUT (R152). -/
def execFlushout (n : PE) (s : State) : Host.Outcome State Fault Refusal :=
  done s (s.blk.atEng n 0x1C fun b => b.flushOut n)

/-- ENGn_CHSTAT (R151): OUTLVL and INLVL. -/
def Block.chstat (b : Block) (n : Nat) : Nat :=
  let lvl := fun (o : Option Nat) => match o with
    | some i => min 32 ((b.chainAt i).moving.length + (b.chainAt i).shown.length)
    | none => 0
  2 ^ 16 * lvl (b.chainsOf n).1 + 2 ^ 8 * lvl (b.chainsOf n).2

end Sys2Proof.Machine
end

