-- ==== Sys2Proof/WellFormed.lean ====
section
/-! DEFINITION. Commands that some agent can send: the operands whose type is wider than what the spec lets an agent send. -/
namespace Sys2Proof

/-- A register write names a word and comes from an engine (requesters 0 to 71) or from the debug bus (requester 75): the
register window takes naturally aligned 4-byte accesses, and only those two reach it (R10, R198, R511). -/
def registerWriteOk (rq : BitVec 7) (off : BitVec 20) : Bool :=
  off.toNat % 4 == 0 && (decide (rq.toNat < 72) || rq.toNat == 75)

/-- The opcodes that the instruction tables give a meaning (R81 to R87, R89, R100). -/
def feisDefined (op : Nat) : Bool :=
  decide (0x01 ≤ op ∧ op ≤ 0x1A) || op == 0x1C || decide (0x20 ≤ op ∧ op ≤ 0x2A) || decide (0x30 ≤ op ∧ op ≤ 0x34) ||
    decide (0x38 ≤ op ∧ op ≤ 0x39) || decide (0x40 ≤ op ∧ op ≤ 0x4C) || decide (0x50 ≤ op ∧ op ≤ 0x54) ||
    decide (0x58 ≤ op ∧ op ≤ 0x5A) || decide (0x60 ≤ op ∧ op ≤ 0x61) || decide (0x70 ≤ op ∧ op ≤ 0x86) ||
    decide (0x90 ≤ op ∧ op ≤ 0x94) || decide (0xA0 ≤ op ∧ op ≤ 0xAB) || decide (0xB0 ≤ op ∧ op ≤ 0xB5) ||
    decide (0xF0 ≤ op ∧ op ≤ 0xF2)

/-- The opcode of an instruction word (R74). -/
def opcodeOf (word : W64) : Nat := word.toNat / 2 ^ 24 % 2 ^ 8

/-- An opcode that belongs to customer microcode (R75). -/
def isCustomer (word : W64) : Bool := decide (0xC0 ≤ opcodeOf word) && decide (opcodeOf word ≤ 0xEF)

/-- The word has an opcode that is a customer's, or that no instruction has (R75); only the forms 0xF0 to 0xFE have a second
half (R74). -/
def customerOk (word : W64) : Bool :=
  !feisDefined (opcodeOf word) && (decide (word.toNat < 2 ^ 32) || decide (0xF0 ≤ opcodeOf word ∧ opcodeOf word ≤ 0xFE))

/-- Some agent can send the command. -/
def Instr.wellFormed : Instr → Bool
  | .registerWrite rq off _ => registerWriteOk rq off
  | .customerOpcode _ word _ => customerOk word
  | _ => true

end Sys2Proof
end

