-- ==== Sys2Proof/Machine/Window.lean ====
section
/-! DEFINITION. The register window: what a read of an offset returns and does, what a write to it does (R10 to R13, R361,
R404, R508 to R519, and the register rules of each chapter). -/
namespace Sys2Proof.Machine

/-! ## Reads -/

/-- A register as the table of fields holds it; WO fields read 0 (R12). -/
def Block.plain (b : Block) (off : Nat) : Nat :=
  (R.at off).foldl (fun v f => if f.acc == .wo then v else v + b.get f * 2 ^ f.lo) 0

/-- A register's word with one field replaced. -/
def withField (v : Nat) (f : Fld) (x : Nat) : Nat := v - bitsOf v f.lo f.w * 2 ^ f.lo + min x (2 ^ f.w - 1) * 2 ^ f.lo

/-- A field's value is not 0 anywhere in a register. -/
def Block.someEvt (b : Block) (off : Nat) : Bool := b.plain off != 0

/-- GLB_EVTSUM (R513, R514). -/
def Block.evtSum (b : Block) : Nat :=
  let ev := fun (off i : Nat) => if b.someEvt off && !b.winOff off then 2 ^ i else 0
  ev 0x3008 0 + ev 0x4008 1 + ev 0x2008 2 + ev 0x250 3 + ev 0x600C 4 + ev 0x5008 5 + ev 0x1008 6 + ev 0x3CC 7 +
    (if b.flag R.ENG_LOCKUP_ANY then 2 ^ 8 else 0) +
    (if (List.range 64).any fun k => b.someEvt (0x20010 + 0x20 * k) && !b.winOff 0x20010 then 2 ^ 9 else 0)

/-- Registers of the global region and the regions below 0x8000 that show more than stored fields. -/
def Block.viewLow (b : Block) (off : Nat) : Nat :=
  let v := b.plain off
  if off = 0x8 then (if b.isSealed then 2 else 1)
  else if off = 0x20 then b.evtSum
  else if off = 0x210 then
    let c := b.get R.MP_CHSEL_SLOT
    (1024 - b.media.used.get c 0) * 2 ^ 16 + b.media.heads.get c 0 % 1024
  else if off = 0x304 then b.readMirror.2
  else if off = 0x3C8 then
    b.crema.foldl (fun v p => v + if p.2.held.isSome then 2 ^ 16 else 1) 0
  else if off = 0x1004 then withField v R.PWR_STAT_DOMQ b.domQ.length
  else if off = 0x3080 then withField v R.PERC_STAT_EMPTY b.percEmpty
  else if off = 0x4014 then b.dhor
  else if 0x4018 ≤ off ∧ off < 0x402C then b.classCount ((off - 0x4018) / 4)
  else if off = 0x4048 then
    withField v R.INT_WBSIZE_FREE ((b.wbLines - b.intake.wb.held) / 16384)
  else if 0x4100 ≤ off ∧ off < 0x4200 then
    let k := (off - 0x4100) / 4
    withField v (R.INT_STG_FREE k) (b.stageSize k - (b.stageRing k).held)
  else if off = 0x6008 then withField v R.RING_STAT_SQWAIT b.sqWait
  else if 0x6080 ≤ off ∧ off < 0x60C0 ∧ off % 16 = 4 then
    let l := (off - 0x6080) / 16
    withField (withField v (R.LINK_STAT_RCRED l) (b.creds l).length) (R.LINK_STAT_LCRED l) (b.offered l).length
  else v

/-- Registers of PD4 that show more than stored fields. -/
def Block.viewPeriph (b : Block) (off : Nat) : Nat :=
  let v := b.plain off
  if 0x8000 ≤ off ∧ off < 0x8800 then
    let c := (off - 0x8000) / 0x20
    if off % 0x20 = 0x1C then withField v (R.TC_STAT_FROZEN c) (bit (b.tcFrozen (if b.oddLinked c then c - 1 else c))) else v
  else if 0xA000 ≤ off ∧ off < 0xA400 then
    let n := (off - 0xA000) / 0x40
    let p := b.ps n
    match off % 0x40 with
    | 0x0C => withField (withField v (R.PS_STAT_RQLVL n) p.rcvf.length) (R.PS_STAT_SQLVL n) p.sndf.length
    | 0x18 => p.steps.get (b.get (R.PS_STEPADDR_ADDR n)) 0
    | 0x24 => p.rcvf.headD 0
    | 0x30 => withField v (R.PS_PINST_IN n) (b.psInputs n)
    | 0x38 => b.plain 0xA038
    | 0x3C => b.plain 0xA03C
    | _ => v
  else if 0xB000 ≤ off ∧ off < 0xB180 then
    let a := (off - 0xB000) / 0xC0
    if (off - 0xB000) % 0xC0 = 8 then
      withField (withField v (R.AX_STAT_FAULT a) (bit (b.axFaulty a))) (R.AX_STAT_EMULAG a) (bit (b.emuLag a))
    else v
  else if 0x60000 ≤ off ∧ off < 0x70000 then b.cremaView (off - 0x60000)
  else v

/-- The four registers of a target (R360). -/
def Block.viewTarget (b : Block) (t r : Nat) : Nat :=
  match r with
  | 0 => b.get (R.DIST_THRESH_THR t)
  | 4 => claimWord (b.best t)
  | 12 =>
    2 ^ 31 * bit (b.irqLine t) + 2 ^ 30 * bit (b.dbLine t) + 2 ^ 29 * b.get (R.DIST_STAT_BADCPL t) +
      2 ^ 16 * (b.best t).getD 0 + b.nact t
  | _ => 0

/-- 32 sources' bits as a word. -/
def wordOf (f : Nat → Bool) (r : Nat) : Nat := (List.range 32).foldl (fun v i => if f (32 * r + i) then v + 2 ^ i else v) 0

/-- The Distributor's registers (R360). -/
def Block.viewDist (b : Block) (off : Nat) : Nat :=
  let o := off - 0x10000
  if o < 0x100 then b.get (R.DIST_ENSET_EN (o % 0x80 / 4))
  else if o < 0x200 then wordOf b.pend (o % 0x80 / 4)
  else if 0x280 ≤ o ∧ o < 0x300 then
    let g := (o - 0x280) / 4 * 4
    b.get (R.routeByte g) + 2 ^ 8 * b.get (R.routeByte (g + 1)) + 2 ^ 16 * b.get (R.routeByte (g + 2)) +
      2 ^ 24 * b.get (R.routeByte (g + 3))
  else if 0x800 ≤ o ∧ o < 0x1100 then b.viewTarget ((o - 0x800) / 16) (o % 16)
  else b.plain off

/-- The control word of a comparator (R482). -/
def Cmp.word (c : Cmp) : Nat :=
  2 ^ 31 * bit c.en + 2 ^ 30 * bit c.ctxen + 2 ^ 26 * c.lvl.toNat + 2 ^ 24 * c.link + 2 ^ 16 * c.action + c.type

/-- Engine events whose occurrences are ticks, microcycles or evaluations, which this model does not time (R477; log entry
49). -/
def timedEvents : List Nat := [0x01, 0x02, 0x04, 0x05, 0x06, 0x07, 0x12, 0x13]

/-- Engine `n`'s registers that show more than stored fields (R151, R188, R330, R342, R470, R482). -/
def Block.viewEngine (b : Block) (n o : Nat) : Nat :=
  let e := b.engine n
  let r := e.rg.get (b.get (R.ENG_RGIDX_INDEX n)) RgEntry.off
  let c := e.cmp.get (b.get (R.ENG_CMPIDX_INDEX n)) Cmp.off
  let off := 0x40000 + 0x100 * n + o
  match o with
  | 0x1C => b.chstat n
  | 0x20 => if b.get (R.ENG_CSSTAT_IMGST n) = 2 then b.plain off else 0
  | 0x44 => r.base % 2 ^ 20 * 2 ^ 12
  | 0x48 => r.base / 2 ^ 20
  | 0x4C => r.lim % 2 ^ 20 * 2 ^ 12
  | 0x50 => r.lim / 2 ^ 20
  | 0x54 => 2 ^ 31 * bit r.en + r.perm.toNat
  | 0x84 => b.dbgRead n false
  | 0x88 => b.dbgRead n true
  | 0x94 => c.a % 2 ^ 32
  | 0x98 => c.a / 2 ^ 32
  | 0x9C => c.b % 2 ^ 32
  | 0xA0 => c.b / 2 ^ 32
  | 0xA4 => c.ctx
  | 0xA8 => c.word
  | _ =>
    if 0xC0 ≤ o ∧ o < 0xE0 ∧ timedEvents.contains (b.get (R.pmEvt n ((o - 0xC0) / 4))) then b.freeWord.toNat % 2 ^ 32
    else b.plain off

/-- The debug and trace view (R483). -/
def Block.viewDebug (b : Block) (off : Nat) : Nat :=
  let o := off - 0x80000
  if o = 4 then withField (b.plain off) R.DBG_STAT_SEALED (bit b.isSealed)
  else if 0x18 ≤ o ∧ o < 0x24 then
    wordOf (fun n => decide (n < 72) && b.flag (R.ENG_DBGSTAT_CSTOP n)) ((o - 0x18) / 4)
  else if o = 0x44 then b.trcBuf.length
  else if 0x100 ≤ o ∧ o < 0x200 ∧ [0x0B, 0x10].contains (b.get (R.gpEvt ((o - 0x100) / 4))) then b.freeWord.toNat % 2 ^ 32
  else if 0x280 ≤ o ∧ o < 0x300 then
    let k := (o - 0x280) / 16
    let t := b.vtAt k
    match o % 16 with
    | 0 => if b.vtOn then t.dtx.headD 0 else 0
    | 4 => b.drxHead k
    | 8 => withField (withField (b.plain off) (R.VT_STAT_TXLVL k) t.dtx.length) (R.VT_STAT_RXLVL k) t.drx.length
    | _ => b.plain off
  else b.plain off

/-- What the register at an offset reads as while its domain answers. -/
def Block.view (b : Block) (off : Nat) : Nat :=
  if off < 0x8000 then b.viewLow off
  else if off < 0x10000 then b.viewPeriph off
  else if off < 0x1F000 then b.viewDist off
  else if 0x20000 ≤ off ∧ off < 0x20800 then
    let v := b.plain off
    let k := (off - 0x20000) / 0x20
    match off % 0x20 with
    | 4 => withField v (R.CB_STAT_LOCKS k) (b.bankAt k).locks.length
    | 0x14 => withField v (R.CB_SCRUB_ACTIVE k) (bit (b.bankOn k))
    | 0x18 => withField v (R.CB_ARB_ENTRIES k) ((b.bankAt k).waiting.filter (·.place != 0)).length
    | _ => v
  else if 0x40000 ≤ off ∧ off < 0x44800 then b.viewEngine ((off - 0x40000) / 0x100) (off % 0x100)
  else if 0x60000 ≤ off ∧ off < 0x70000 then b.viewPeriph off
  else if 0x80000 ≤ off ∧ off < 0x80400 then b.viewDebug off
  else 0

/-- The alias page's target register of engine `n` (R361). -/
def Block.aliasOff (b : Block) (n off : Nat) : Option Nat :=
  if 0x1F000 ≤ off ∧ off < 0x1F010 then some (0x10800 + 16 * b.targetOf n + (off - 0x1F000)) else none

/-- The cycle or the tick in which an ordinary read is served (R353, R374). -/
def Block.readTurn (b : Block) (off : Nat) : Block :=
  if 0x10800 ≤ off ∧ off < 0x11100 ∧ off % 16 = 4 then b.claimCycle ((off - 0x10800) / 16)
  else if 0x8000 ≤ off ∧ off < 0x8200 ∧ off % 0x20 = 0x10 then b.captureTick ((off - 0x8000) / 0x20)
  else b

/-- What an ordinary read does beside returning a value (R352, R373, R397, R419, R479). -/
def Block.readEffect (b : Block) (off : Nat) : Block :=
  if 0x10800 ≤ off ∧ off < 0x11100 ∧ off % 16 = 4 then (b.claim ((off - 0x10800) / 16)).1
  else if 0x8000 ≤ off ∧ off < 0x8200 ∧ off % 0x20 = 0x10 then b.readCapr ((off - 0x8000) / 0x20)
  else if 0xB000 ≤ off ∧ off < 0xB180 ∧ (off - 0xB000) % 0xC0 = 0x44 then (b.readPrblo ((off - 0xB000) / 0xC0)).1
  else if 0xA000 ≤ off ∧ off < 0xA400 ∧ off % 0x40 = 0x24 then (b.psPop ((off - 0xA000) / 0x40)).1
  else if 0x80280 ≤ off ∧ off < 0x80300 ∧ off % 16 = 4 then b.drxPop ((off - 0x80280) / 16)
  else if off = 0x304 then b.readMirror.1
  else b

/-- What any read does to what the state keeps of the register, a peek's too (R342, R470). -/
def Block.readNote (b : Block) (off : Nat) : Block :=
  if 0x40000 ≤ off ∧ off < 0x44800 then
    match off % 0x100 with
    | 0x68 => b.wdgSettle ((off - 0x40000) / 0x100)
    | 0x84 => b.dbgMark ((off - 0x40000) / 0x100)
    | 0x88 => b.dbgMark ((off - 0x40000) / 0x100)
    | _ => b
  else b

/-- Registers whose reads may be free values (log entry 49). -/
def readsFree (off : Nat) : Bool :=
  decide (0x80100 ≤ off ∧ off < 0x80200) ||
    (decide (0x40000 ≤ off ∧ off < 0x44800) &&
      decide (0xC0 ≤ off % 0x100 ∧ off % 0x100 < 0xE0))

/-- A read by requester `rq`: 0 to 71 the engines, 75 the debug bus, whose reads are peeks (R13, R361, R510). -/
def Block.winRead (b : Block) (rq off : Nat) : Block × Nat :=
  if 0x1F000 ≤ off ∧ off < 0x20000 then
    match b.aliasOff rq off with
    | some o =>
      if rq < 72 then
        let b := b.readTurn o
        (b.readEffect o, b.view o % 2 ^ 32)
      else (b, 0)
    | none => (b, 0)
  else if b.winOff off then (b, 0)
  else
    let b := if rq = 75 then b else b.readTurn off
    let b := b.readNote off
    let c := if rq = 75 then b else b.readEffect off
    (if readsFree off then c.drawn else c, b.view off % 2 ^ 32)

/-! ## Writes -/

/-- One field's part of a write (R12). -/
def Block.writeField (v : Nat) (b : Block) (f : Fld) : Block :=
  let x := bitsOf v f.lo f.w
  match f.acc with
  | .rw => b.put f x
  | .w1c => b.put f (b.get f - Nat.land (b.get f) x)
  | .w1s => b.put f (Nat.lor (b.get f) x)
  | .ro | .wo => b

/-- A write to a register that has no behaviour of its own (R11, R12, R511). -/
def Block.plainWrite (b : Block) (off v : Nat) : Block := (R.at off).foldl (Block.writeField v) b

/-- Writes to the global region (R262, R267, R268, R319, R367, R409). -/
def Block.writeGlobal (b : Block) (off v : Nat) : Block :=
  if off = 0x200 then b.writeMpCtrl v
  else if off = 0x208 then b.mpSubmit (bitsOf v 0 5) (bitsOf v 8 11)
  else if (0x214 ≤ off ∧ off < 0x224) ∨ off = 0x22C ∨ off = 0x230 ∨ off = 0x240 ∨ off = 0x244 then
    if b.flag R.MP_CTRL_EN then b else b.plainWrite off v
  else if off = 0x228 then b.writeCplHead (bitsOf v 0 15)
  else if off = 0x234 ∨ off = 0x238 then (if b.get R.MP_JROOM_ROOM = 0 then b.plainWrite off v else b)
  else if 0x280 ≤ off ∧ off < 0x300 then
    let s := (off - 0x280) / 16
    if b.flag (R.MP_NS_CFG_EN s) then
      if off % 16 = 0 then b.put (R.MP_NS_CFG_EN s) (bitsOf v 31 1) else b
    else b.plainWrite off v
  else if off = 0x308 then b.spmCommand (bitsOf v 28 4) (v.testBit 24) (bitsOf v 16 7) (bitsOf v 8 6) true
  else if off = 0x390 then
    let b := b.put R.TMR_GCTRL_TIMED (bitsOf v 1 1)
    let b := if v.testBit 2 then b.clear R.TMR_GCTRL_PEND else b
    if v.testBit 0 then b.groupGo (v.testBit 1) else b
  else if off = 0x3EC then b.cremaClear (v.testBit 31) (bitsOf v 0 10)
  else b.plainWrite off v

/-- Writes to the power region (R445, R448, R453); `rq` is the requester. -/
def Block.writePower (b : Block) (rq off v : Nat) : Block :=
  if off = 0x1000 then
    let p := v.testBit 0
    let r := v.testBit 1
    let b := if p != b.flag R.PWR_CTRL_PERIOFF then (b.put R.PWR_CTRL_PERIOFF (bit p)).domAsk (.periph p) else b
    let b := if r != b.flag R.PWR_CTRL_RINGOFF then (b.put R.PWR_CTRL_RINGOFF (bit r)).domAsk (.ring r) else b
    if v.testBit 2 && rq == 75 then b.debugWake else b
  else if off = 0x100C then (if v.testBit 0 then b.dripEnter else b)
  else if 0x1100 ≤ off ∧ off < 0x1220 then b.writePwrEng ((off - 0x1100) / 4) (bitsOf v 0 2) (v.testBit 2)
  else if 0x1220 ≤ off ∧ off < 0x1320 then b.writePwrBank ((off - 0x1220) / 4) (bitsOf v 0 2)
  else b.plainWrite off v

/-- Writes to the Spare Manager, the Kettle and the Intake (R195, R244, R286, R312, R320). Of START and ABORT in one write of ACT_CTRL
ABORT comes first (DESIGN CHOICE, log entry 85). -/
def Block.writeUnits (b : Block) (off v : Nat) : Block :=
  if off = 0x200C then b.spmCommand (bitsOf v 28 4) (v.testBit 24) (bitsOf v 16 7) (bitsOf v 8 6) false
  else if off = 0x2000 then forEach 72 (fun n b => b.rowWear n) (b.plainWrite off v)
  else if off = 0x2100 then
    let b := b.put R.ACT_CTRL_MODE (bitsOf v 8 1)
    let b := if v.testBit 1 then b.actAbort else b
    if v.testBit 0 then b.actStart (v.testBit 8) else b
  else if off = 0x3000 then
    let b := b.plainWrite off v
    if v.testBit 1 then b.testPf (bitsOf v 8 8) else b
  else if off = 0x4000 then ((b.plainWrite off v).reAge (b.get R.INT_CTRL_AGE)).settleIntake
  else if 0x4038 ≤ off ∧ off < 0x404C then
    if b.get R.INT_STAT_INUSE ≠ 0 then b else b.plainWrite off v
  else if 0x4100 ≤ off ∧ off < 0x4200 then
    let k := (off - 0x4100) / 4
    if b.stageLocked k then b
    else (b.plainWrite off v).modInt fun i => { i with rings := i.rings.del k }
  else b.plainWrite off v

/-- Writes to the time counter and the Ring Port (R377, R379, R382, R386, R435, R436, R441). -/
def Block.writeTimeRing (b : Block) (off v : Nat) : Block :=
  if off = 0x5000 then
    let b := b.plainWrite off v
    let b := if v.testBit 3 then b.timeLoad else b
    if v.testBit 4 then b.clear R.TIME_STAT_ALARMED else b
  else if off = 0x501C then (if b.flag R.TIME_CTRL_SERVO then b else b.plainWrite off v)
  else if off = 0x5050 then b.armAlarm v
  else if off = 0x5060 then b.timeAdj v
  else if off = 0x601C then b.ringSubmit (bitsOf v 0 9)
  else if off = 0x6044 then b.crPush (bitsOf v 16 2) (bitsOf v 0 5)
  else if 0x6080 ≤ off ∧ off < 0x60C0 ∧ off % 16 = 0 then
    b.writeLinkCfg ((off - 0x6080) / 16) (v.testBit 31) (v.testBit 30)
  else b.plainWrite off v

/-- Fields of TCc_CTRL that a channel without capture, or an odd one, does not have (R366, R384). -/
def tcReserved (c : Nat) (f : Fld) : Bool :=
  (decide (16 ≤ c) && decide (f.lo = 14 ∨ f.lo = 15 ∨ f.lo = 16)) || (c % 2 == 1 && decide (f.lo = 11))

/-- A write of TCc_CTRL (R364, R365, R371, R384): a STOP wins over an ARM in the same write. -/
def Block.writeTcCtrl (b : Block) (c v : Nat) : Block :=
  let off := 0x8000 + 0x20 * c
  let b := ((R.at off).filter fun f => !tcReserved c f).foldl (Block.writeField v) b
  let b := if b.flag (R.TC_CTRL_CAPEN c) then b else b.captureOff c
  if v.testBit 1 then b.tcStop c else if v.testBit 0 then b.tcArm c else b

/-- Writes to PD4's regions (R364, R388, R391, R393, R398, R413 to R423). -/
def Block.writePeriph (b : Block) (off v : Nat) : Block :=
  if 0x8000 ≤ off ∧ off < 0x8800 then
    let c := (off - 0x8000) / 0x20
    match off % 0x20 with
    | 0 => b.writeTcCtrl c v
    | 0x1C =>
      let b := if v.testBit 23 then b.clear (R.TC_STAT_EXPCNT c) else b
      if c < 16 then b.plainWrite off v else b
    | _ => b.plainWrite off v
  else if 0xA000 ≤ off ∧ off < 0xA400 then
    let n := (off - 0xA000) / 0x40
    match off % 0x40 with
    | 0 =>
      let b := b.plainWrite off v
      let b := if v.testBit 30 then b.psClkrst n else b
      let b := if v.testBit 29 then b.psRestart n else b
      let b := if v.testBit 28 then b.psFifoclr n else b
      b.psContend
    | 0x10 | 0x30 => (b.plainWrite off v).psContend
    | 0x18 => b.psStepData n v
    | 0x1C => b.psInject n v
    | 0x20 => b.psPush n v
    | 0x38 => b.psFlagsWrite v
    | 0x3C =>
      let b := (b.put R.PS_GCTRL_TIMED (bitsOf v 19 1)).put R.PS_GCTRL_MASK (bitsOf v 0 16)
      let b := if v.testBit 17 then b.psGo (v.testBit 19) (bitsOf v 0 16) else b
      if v.testBit 18 then b.psStop (bitsOf v 0 16) else b
    | _ => b.plainWrite off v
  else if 0xB000 ≤ off ∧ off < 0xB180 then
    let a := (off - 0xB000) / 0xC0
    match (off - 0xB000) % 0xC0 with
    | 0 =>
      let was := b.flag (R.AX_CFG_EN a)
      let b := b.plainWrite off v
      if v.testBit 31 && !was then b.axEnable a else b
    | 4 =>
      let b := if v.testBit 0 then b.axLoad a else b
      if v.testBit 1 then b.axCntclr a else b
    | 0x20 => (b.plainWrite off v).axWindow a
    | 0x60 =>
      let was := b.flag (R.AX_EMUCFG_EMUEN a)
      let b := b.plainWrite off v
      if v.testBit 31 && !was then b.setEmu a (b.emuTarget a) else b
    | _ => b.plainWrite off v
  else b.plainWrite off v

/-- Writes to the four registers of a target (R354, R360). -/
def Block.writeTarget (b : Block) (t r v : Nat) : Block :=
  match r with
  | 0 => (b.distAt 2).put (R.DIST_THRESH_THR t) (v % 256)
  | 8 => (b.complete t (v % 1024)).1
  | 12 => if v.testBit 29 then b.clear (R.DIST_STAT_BADCPL t) else b
  | _ => b

/-- Writes to the Distributor (R348, R349, R360); a line that rises may ask an engine's domain ON (R446). -/
def Block.writeDist (b : Block) (off v : Nat) : Block :=
  let o := off - 0x10000
  let r := o % 0x80 / 4
  let b := if o < 0x800 then b.distAt 2 else b
  let b :=
    if o < 0x80 then b.put (R.DIST_ENSET_EN r) (Nat.lor (b.get (R.DIST_ENSET_EN r)) v)
    else if o < 0x100 then b.put (R.DIST_ENSET_EN r) (b.get (R.DIST_ENSET_EN r) - Nat.land (b.get (R.DIST_ENSET_EN r)) v)
    else if o < 0x180 then b.pendSet r v
    else if o < 0x200 then b.pendClr r v
    else if 0x280 ≤ o ∧ o < 0x300 then
      forEach 4 (fun j b => b.writeRoute ((o - 0x280) / 4 * 4 + j) (bitsOf v (8 * j) 8)) b
    else if 0x800 ≤ o ∧ o < 0x1100 then b.writeTarget ((o - 0x800) / 16) (o % 16) v
    else b.plainWrite off v
  forEach 72 (fun n b => b.autowake n) b

/-- A write of ENGn_CLK (R66): an FSTEP outside 16 to 64 is ignored and sets BADSTEP. -/
def Block.writeClk (b : Block) (n v : Nat) : Block :=
  let b := if v.testBit 10 then b.clear (R.ENG_CLK_BADSTEP n) else b
  let f := bitsOf v 0 7
  if 16 ≤ f ∧ f ≤ 64 then b.relock n f else b.raise (R.ENG_CLK_BADSTEP n)

/-- A write of ENGn_DBGCTL (R465 to R468, R475; log entry 44): fields, CANCEL, RESUME, STEP, HALT. -/
def Block.writeDbgCtl (b : Block) (n v : Nat) : Block :=
  let was := b.tracing n
  let b := (b.put (R.ENG_DBGCTL_TREN n) (bitsOf v 11 1)).put (R.ENG_DBGCTL_STEPU n) (bitsOf v 9 1)
  let b := if b.isSealed then b else b.put (R.ENG_DBGCTL_HALTMODE n) (bitsOf v 8 1)
  let b := if b.tracing n && !was then b.traceSync n else b
  let b := if v.testBit 3 then b.cancelWrite n else b
  let b := if v.testBit 1 then b.resumeWrite n else b
  let b := if v.testBit 2 then b.stepWrite n else b
  if v.testBit 0 then b.haltWrite n else b

/-- Writes to engine `n`'s block (R515). -/
def Block.writeEngine (b : Block) (n o v : Nat) : Block :=
  let mo := fun (f : Engine → Engine) => b.modEngine n f
  match o with
  | 0x00 => b.writeDbgCtl n v
  | 0x10 => b.writeClk n v
  | 0x1C => if v.testBit 26 then b.flushOut n else b
  | 0x24 => if v.testBit 7 then b.clear (R.ENG_CSSTAT_CECNT n) else b
  | 0x44 => mo fun e => { e with rgBase := e.rgBase / 2 ^ 20 * 2 ^ 20 + bitsOf v 12 20 }
  | 0x48 => mo fun e => { e with rgBase := e.rgBase % 2 ^ 20 + bitsOf v 0 16 * 2 ^ 20 }
  | 0x4C => mo fun e => { e with rgLim := e.rgLim / 2 ^ 20 * 2 ^ 20 + bitsOf v 12 20 }
  | 0x50 => mo fun e => { e with rgLim := e.rgLim % 2 ^ 20 + bitsOf v 0 16 * 2 ^ 20 }
  | 0x54 => b.rgpCommit n (v.testBit 31) (BitVec.ofNat 12 v)
  | 0x60 => b.writeWdgCtrl n (v.testBit 31) (v.testBit 30)
  | 0x70 => if v % 256 = 0xA5 then b.wdgService n else b
  | 0x84 => b.dbgStage n v
  | 0x88 => b.dbgCommit n v
  | 0x94 => mo fun e => { e with cmpA := e.cmpA / 2 ^ 32 * 2 ^ 32 + v }
  | 0x98 => mo fun e => { e with cmpA := e.cmpA % 2 ^ 32 + v * 2 ^ 32 }
  | 0x9C => mo fun e => { e with cmpB := e.cmpB / 2 ^ 32 * 2 ^ 32 + v }
  | 0xA0 => mo fun e => { e with cmpB := e.cmpB % 2 ^ 32 + v * 2 ^ 32 }
  | 0xA4 => mo fun e => { e with cmpCtx := v }
  | 0xA8 => b.cmpCommit n v
  | 0xE8 =>
    let b := b.plainWrite (0x40000 + 0x100 * n + o) v
    if v.testBit 2 then b.pmcClr n else b
  | _ => b.plainWrite (0x40000 + 0x100 * n + o) v

/-- Writes to the debug and trace view (R469, R478 to R483). -/
def Block.writeDebug (b : Block) (off v : Nat) : Block :=
  let o := off - 0x80000
  if o = 0 then
    let b := b.plainWrite off v
    if v.testBit 1 then b.debugReset else b
  else if o = 0x24 then (if v.testBit 0 then b.xresume else b)
  else if o = 0x40 then
    let was := fun n => b.tracing n
    let c := b.plainWrite off v
    if v.testBit 0 && !b.flag R.TRC_CTRL_EN then forEach 72 (fun n c => if c.tracing n && !was n then c.traceSync n else c) c
    else c
  else if o = 0x240 then
    let b := b.plainWrite off v
    if v.testBit 1 then b.gpcClr else b
  else if 0x280 ≤ o ∧ o < 0x300 then
    let k := (o - 0x280) / 16
    match o % 16 with
    | 0 => b.dtxPush k v
    | 4 => b.drxPush k v
    | 12 =>
      let b := b.plainWrite off v
      let b := if v.testBit 31 then b.popTx k else b
      if v.testBit 30 then b.vtFlush k else b
    | _ => b.plainWrite off v
  else b.plainWrite off v

/-- A write of a 32-bit word to a register whose domain answers. -/
def Block.writeReg (b : Block) (rq off v : Nat) : Block :=
  if off < 0x1000 then b.writeGlobal off v
  else if off < 0x2000 then b.writePower rq off v
  else if off < 0x5000 then b.writeUnits off v
  else if off < 0x8000 then b.writeTimeRing off v
  else if off < 0x10000 then b.writePeriph off v
  else if off < 0x11100 then b.writeDist off v
  else if 0x20000 ≤ off ∧ off < 0x20800 then
    let b := b.plainWrite off v
    if off % 0x20 = 0 && v.testBit 31 then b.bankClrcnt ((off - 0x20000) / 0x20) else b
  else if 0x40000 ≤ off ∧ off < 0x44800 then
    b.atEng ((off - 0x40000) / 0x100) (off % 0x100) fun b => b.writeEngine ((off - 0x40000) / 0x100) (off % 0x100) v
  else if 0x80000 ≤ off ∧ off < 0x80400 then b.writeDebug off v
  else b

/-- A write by requester `rq` (R12, R361, R510). -/
def Block.winWrite (b : Block) (rq off v : Nat) : Block :=
  if 0x1F000 ≤ off ∧ off < 0x20000 then
    match b.aliasOff rq off with
    | some o => if rq < 72 then b.writeReg rq o v else b
    | none => b
  else if b.winOff off then b
  else b.writeReg rq off v

/-! ## Commands -/

/-- REGISTER_WRITE (R511): a write of a word by an engine, or by the debug bus, at a word-aligned offset; no agent can send
any other (WellFormed). -/
def execRegisterWrite (rq : BitVec 7) (off : BitVec 20) (v : W32) (s : State) : Host.Outcome State Fault Refusal :=
  if registerWriteOk rq off then done s (s.blk.winWrite rq.toNat off.toNat v.toNat) else .fault .illFormed

/-- ENGINE_CLOCK_WRITE (R66). -/
def execEngineClockWrite (n : PE) (fstep : BitVec 7) (s : State) : Host.Outcome State Fault Refusal :=
  done s (s.blk.atEng n 0x10 fun b => b.writeClk n fstep.toNat)

/-- ENGINE_CLOCK_SWITCH (R66): the change that waits is made, after relock, at a TRAPOK point of an engine that issues words, at
any time in one that issues none. -/
def execEngineClockSwitch (n : PE) (s : State) : Host.Outcome State Fault Refusal :=
  let b := s.blk
  done s (if !b.runs n || ((b.engine n).wait.isNone && (b.engine n).point.isSome) then b.clear (R.ENG_CLK_PENDING n) else b)

end Sys2Proof.Machine
end

