-- ==== Sys2Proof/Machine/Bus.lean ====
section
/-! DEFINITION. An engine's whole accesses to the memory map: the checks before anything is sent, loads with the
earlier requests of the same engine ahead of them, posted stores, locked and atomic requests (R10, R17, R51, R52, R84,
R85, R197, R328, R520, R521). -/
namespace Sys2Proof.Machine

/-- The requests an access becomes: one that spans a 1 MiB boundary is split there (R197). -/
def pieces (a n : Nat) : List (Nat × Nat) :=
  let t := a / 2 ^ 20 * 2 ^ 20 + 2 ^ 20
  if a + n ≤ t then [(a, n)] else [(a, t - a), (t, a + n - t)]

/-- The reasons an access fails, as FCAUSE gives them (R85, R521); or that it has no answer yet, because a line of it is being
repaired (R212), which is no failure: the instruction has no effect and is executed again. -/
inductive Cause where
  | region
  | misalign
  | bankOff
  | tgtErr
  | later
deriving DecidableEq, Repr

/-- The FCAUSE code of a reason (R60, R73). -/
def Cause.code : Cause → Nat
  | .region => 0x05
  | .misalign => 0x07
  | .bankOff => 0x09
  | .tgtErr => 0x0D
  | .later => 0

/-- An address lies in the register window (R10). -/
def inWindow (a : Nat) : Bool := decide (0x10000000 ≤ a) && decide (a < 0x10100000)

/-- The checks on one request of `n` bytes before it leaves engine `pe` (R10, R51, R197, R328): the register window
takes naturally aligned 4-byte accesses only, the region table must grant every right, and a bank must be ON. -/
def Block.checkPiece (b : Block) (pe : Nat) (level : Nat) (rs : List Right) (a n : Nat) : Option (Nat × Cause) :=
  if inWindow a && !(n == 4 && a % 4 == 0) then some (a, .misalign)
  else if !(rs.all fun r => (b.engine pe).allows level r a n) then some (a, .region)
  else match b.bankFault a n with
    | some x => some (x, .bankOff)
    | none => none

/-- An access of another size or alignment than the register window's touches that window: it is refused whole (R10, R52). -/
def windowBad (a n : Nat) : Bool := (inWindow a || inWindow (a + n - 1)) && !(n == 4 && a % 4 == 0)

/-- The checks on a whole access at the level ST names: the first failing request's address and reason. -/
def Block.check (b : Block) (pe : Nat) (rs : List Right) (a n : Nat) : Option (Nat × Cause) :=
  if windowBad a n then some (a, .misalign)
  else (pieces a n).findSome? fun p => b.checkPiece pe (b.engine pe).st.level rs p.1 p.2

/-- What an engine makes of its request's outcome; `c` is the cause of an error. -/
def Served.forEngine (c : Cause) : Served → Except Cause (List Byte)
  | .data d => .ok d
  | .lost => .error c
  | .later => .error .later

/-- One request of a load answered by its target (R200, R213, R521); `fab`: it goes through the fabric, where an uncorrectable Carafe
line is TGTERR. `find` is the surroundings' part: what the array read finds, or an error of the DRAM controller. -/
def Block.loadPiece (b : Block) (pe a n : Nat) (fab : Bool) (find : BankFind) : Block × Except Cause (List Byte) :=
  match b.target a with
  | .carafe k =>
    let r := b.bankNow k (b.engReq pe .read a n [] 0 .now 0 fab) find
    (r.1, r.2.forEngine (if fab then .tgtErr else .bankOff))
  | .dram _ =>
    let r := b.dramNow (b.engReq pe .read a n [] 0 .now 0 true) (readFails find)
    (r.1, r.2.forEngine .tgtErr)
  | .window off => let r := b.winRead pe off; (r.1, .ok (leBytes r.2 n))
  | .tags off => (b, .ok (b.tagBytes off n))
  | .nothing => (b, .error .tgtErr)

/-- A load's requests in turn; `find` is what the first one meets. -/
def Block.loadPieces (pe : Nat) (fab : Bool) (find : BankFind) : List (Nat × Nat) → Block → Block × Except Cause (List Byte)
  | [], b => (b, .ok [])
  | (a, n) :: ps, b =>
    match b.loadPiece pe a n fab find with
    | (b, .error c) => (b, .error c)
    | (b, .ok d) =>
      match Block.loadPieces pe fab .clean ps b with
      | (b, .error c) => (b, .error c)
      | (b, .ok d') => (b, .ok (d ++ d'))

/-- A load of `n` bytes that has passed its checks; `fab`: through the fabric, as XFOP reads go. -/
def Block.load (b : Block) (pe a n : Nat) (fab : Bool) (find : BankFind) : Block × Except Cause (List Byte) :=
  Block.loadPieces pe fab find (pieces a n) b

/-- A posted write that its target refuses sets ENGn_USTAT.WRERR of the issuing engine (R521). -/
def Block.wrErr (b : Block) (pe : Nat) : Block := b.raise (R.ENG_USTAT_WRERR pe)

/-- One request of a posted store that has passed its checks (R84, R521). -/
def Block.postPiece (b : Block) (pe a : Nat) (data : List Byte) (fab : Bool) : Block :=
  match b.target a with
  | .carafe _ | .dram _ => b.post (b.engReq pe .write a data.length data 0 .none 0 fab)
  | .window off => if data.length = 4 then b.winWrite pe off (leNat data) else b
  | .tags _ | .nothing => b.wrErr pe

/-- A posted store of bytes that has passed its checks: one request, or two where it spans a 1 MiB boundary. -/
def Block.postStore (b : Block) (pe a : Nat) (data : List Byte) (fab : Bool) : Block :=
  match pieces a data.length with
  | [_, (t, n)] => (b.postPiece pe a (data.take (data.length - n)) fab).postPiece pe t (data.drop (data.length - n)) fab
  | _ => b.postPiece pe a data fab

/-- A locked or atomic request that has passed its checks, whole: only the Carafe and the DRAM window serve it (R520). A line
with no usable second source fails as BANKOFF on the direct path and as TGTERR through the fabric (R213, R521). -/
def Block.atomic (b : Block) (q : Req) (find : BankFind) : Block × Except Cause (List Byte) :=
  let r := b.now q find
  (r.1, r.2.forEngine (match b.target q.addr with
    | .carafe _ => if q.fab then .tgtErr else .bankOff
    | _ => .tgtErr))

/-- An access counted: a Carafe read or write through MEMOP, or an XFOP request (R477, R84). -/
def Block.countAccess (b : Block) (pe a : Nat) (writes viaFabric : Bool) : Block :=
  match b.target a with
  | .carafe _ => b.countEng pe (if viaFabric then 0x11 else if writes then 0x10 else 0x0F)
  | _ => b.countEng pe 0x11

end Sys2Proof.Machine
end

