-- ==== Sys2Proof/Machine/Exceptions.lean ====
section
/-! DEFINITION. Lockup, the exception entry sequence E, the return from exception and the
gates between the worlds (12, R90, R91, R331 to R341). -/
namespace Sys2Proof.Machine

/-! ## Lockup (R341) -/

/-- LKCAUSE (R341). -/
inductive LockupCause where
  | desc
  | descRead
  | spAlign
  | spRegion
  | spBank
  | microFault
deriving DecidableEq, Repr

/-- The code of a lockup cause. -/
def LockupCause.code : LockupCause → Nat
  | .desc => 1
  | .descRead => 2
  | .spAlign => 3
  | .spRegion => 4
  | .spBank => 5
  | .microFault => 6

/-- A lockup (R341): the engine stops, its cause, vector and world are recorded, its bit in LOCKUP_VEC sets, its fault
source fires and the Spare Manager stops it with one strike. -/
def Block.lockup (b : Block) (n : Nat) (c : LockupCause) (vec : Nat) (tenant : Bool) : Block :=
  let b := (((b.raise (R.ENG_XSTAT_LOCKUP n)).put (R.ENG_XSTAT_LKCAUSE n) c.code).put (R.ENG_XSTAT_LKVEC n) vec).put
    (R.ENG_XSTAT_LKWORLD n) (bit tenant)
  let b := b.put (R.lockupVec n) (setBit (b.get (R.lockupVec n)) (n % 32))
  let b := (b.raise R.ENG_LOCKUP_ANY).modEngine n fun e => { e with running := false }
  (b.event n).stopWithStrike n

/-! ## Descriptors (R332) -/

/-- A descriptor of a world's table. -/
structure Desc where
  hpc : Nat
  stt : Nat
  stack : Nat
  flags : Nat
  rest : Nat
deriving DecidableEq, Repr

/-- A descriptor from its 32 bytes (R332). -/
def Desc.ofBytes (d : List Byte) : Desc :=
  ⟨leNat (d.take 8), leNat ((d.drop 8).take 8), leNat ((d.drop 16).take 8), leNat ((d.drop 24).take 4),
    leNat (d.drop 28)⟩

/-- Flags of a descriptor (R332). -/
def Desc.valid (d : Desc) : Bool := d.flags.testBit 0
def Desc.stkload (d : Desc) : Bool := d.flags.testBit 1
def Desc.gate (d : Desc) : Bool := d.flags.testBit 2
def Desc.guser (d : Desc) : Bool := d.flags.testBit 3
def Desc.xarg (d : Desc) : Bool := d.flags.testBit 4

/-- A descriptor passes R332 in a world's table (a table whose VBASE is 0 holds none: the caller checks that). -/
def Desc.ok (d : Desc) (tenant : Bool) : Bool :=
  d.valid && decide (d.hpc < 2 ^ 48) && d.hpc % 4 == 0 && decide (d.stt < 2 ^ 22) &&
    d.stt.testBit 21 == tenant && decide (d.flags < 32) && d.rest == 0

/-- What reading descriptor `v` of a world's table gives (R331, R332, R336). -/
inductive DescRead where
  | good (d : Desc)
  | invalid
  | failed
deriving DecidableEq, Repr

/-- What a read of a descriptor finds beside what the state decides: the DRAM controller answers with ERR where a free bit says so
(R336, R521; log entry 82); a damaged Carafe line is one that the state knows of. -/
def Block.descFind (b : Block) (a : Nat) : BankFind :=
  match b.target a with
  | .dram _ => if b.freeWord.getLsbD 0 then .uncorrectable false 255 else .clean
  | _ => .clean

/-- Every repair of bank `k` ends, for the line's read inside an exception entry: repaired or beyond repair as free bits say (R211; log
entry 82). -/
def Block.endRepairs (b : Block) (k : Nat) : Block :=
  (b.bankAt k).repair.foldl (fun b r =>
    let good := b.freeWord.getLsbD 0
    match (b.bankAt k).src.look r.1 with
    | some wb => (if good then b.repairLine k r.1 wb false else b.bankDead k r.1).drawn
    | none => b.bankDead k r.1) b

/-- A descriptor's 32 bytes, none where the read receives an error (R336): a line under repair is waited for. -/
def Block.descBytes (b : Block) (n a : Nat) : Block × Option (List Byte) :=
  match b.drawn.load n a 32 false (b.descFind a) with
  | (b, .ok d) => (b, some d)
  | (b, .error .later) =>
    match (match b.target a with
      | .carafe k => b.endRepairs k
      | _ => b).load n a 32 false .clean with
    | (b, .ok d) => (b, some d)
    | (b, .error _) => (b, none)
  | (b, .error _) => (b, none)

/-- Entry `v` of world `tenant`'s table read as E reads it, checked for R at that world's supervisor level (R336). -/
def Block.readDesc (b : Block) (n v : Nat) (tenant : Bool) : Block × DescRead :=
  let base := ((b.engine n).vbase.get (bit tenant) 0).toNat
  let a := base + 32 * v
  if base = 0 then (b, .invalid)
  else match b.checkPiece n (2 * bit tenant) [.read] a 32 with
    | some _ => (b, .failed)
    | none =>
      match b.descBytes n a with
      | (b, none) => (b, .failed)
      | (b, some d) =>
        if (Desc.ofBytes d).ok tenant then (b, .good (Desc.ofBytes d)) else (b, .invalid)

/-! ## Entry (R336) -/

/-- The level that a descriptor's ST template names (R332). -/
def Desc.level (d : Desc) (tenant : Bool) : Nat := 2 * bit tenant + bit (!d.stt.testBit 20)

/-- The stack value an entry through a descriptor starts from (R336). -/
def Block.entrySp (b : Block) (n : Nat) (d : Desc) (tenant : Bool) : W64 :=
  if d.stkload then BitVec.ofNat 64 d.stack else (b.engine n).sp.get (d.level tenant) 0

/-- Where an entry pushes its 16 bytes (R336). -/
def pushAddr (sp : W64) : Nat := (sp - 16).toNat % 2 ^ 48

/-- The state of the engine after E installed a descriptor (R336, R70, R77, R102). -/
def Engine.install (e : Engine) (d : Desc) (tenant : Bool) (sp : W64) : Engine :=
  Engine.recode { e with
    sp := e.sp.put (d.level tenant) (sp - 16)
    st := { St.ofWord (BitVec.ofNat 64 d.stt) with rsm := false, ss := false }
    pc := BitVec.ofNat 48 d.hpc
    pcNext := none
    ibuf := []
    hold := .fetch
    trapPt := some true
    long := none
    streamIn := []
    streamPos := 0
    streamOut := [] } [62 + d.level tenant, 128, 129, 140]

/-- E from its stack checks on (R336): the pushed words are `ra` and `sw`. A stack in the register window fails as a stack that
the region table does not grant: that window takes no such access (R10; log entry 14). -/
def Block.enterWith (b : Block) (n v : Nat) (tenant : Bool) (d : Desc) (ra sw : Nat) : Block :=
  let sp := b.entrySp n d tenant
  let a := pushAddr sp
  if sp.toNat % 16 ≠ 0 then b.lockup n .spAlign v tenant
  else if windowBad a 16 || !(b.engine n).allows (d.level tenant) .write a 16 then b.lockup n .spRegion v tenant
  else if (b.bankFault a 16).isSome then b.lockup n .spBank v tenant
  else
    let b := b.postStore n a (leBytes ra 8 ++ leBytes sw 8) false
    let b := b.modEngine n fun e => e.install d tenant sp
    ((b.put (R.ENG_XSTAT_LASTVEC n) v).countEng n 0x0A).emitFlow n 3 (bit tenant) v d.hpc

/-- The entry sequence E for vector `v` into a world, with the words it pushes (R336): an exception entry breaks a
locked sequence (R90). -/
def Block.enterPushing (b : Block) (n v : Nat) (tenant : Bool) (ra sw : Nat) : Block :=
  let b := b.lockBreak n .exception
  match b.readDesc n v tenant with
  | (b, .failed) => b.lockup n .descRead v tenant
  | (b, .invalid) => b.lockup n .desc v tenant
  | (b, .good d) => b.enterWith n v tenant d ra sw

/-- TAKING AN EXCEPTION: E for vector `v` into a world with a return address and ST as it stands (R336). -/
def Block.enter (b : Block) (n v : Nat) (tenant : Bool) (ra : Nat) : Block :=
  b.enterPushing n v tenant ra (b.engine n).st.word.toNat

/-- An exception of the executing world (R333). -/
def Block.except (b : Block) (n v ra : Nat) : Block := b.enter n v (b.engine n).st.tw ra

/-- Vector 5 in the executing world, with FADDR and FCAUSE (R73, R85, R521). -/
def Block.exceptRegion (b : Block) (n addr : Nat) (c : Cause) (ra : Nat) : Block :=
  let e := b.engine n
  let w := e.st.world
  (b.setEngine n { e with
    faddr := e.faddr.put w (BitVec.ofNat 48 addr), fcause := e.fcause.put w (BitVec.ofNat 8 c.code) }).except n 5 ra

/-! ## Return (R339) -/

/-- g1 to g7 of the current bank copied into a world's bank (R339, R340). -/
def Engine.copyArgs (e : Engine) (toTenant : Bool) : Engine :=
  forEach 7 (fun i e =>
    let v := e.g (i + 1)
    if toTenant then Engine.recode { e with gT := e.gT.put (i + 1) v } [32 + i]
    else Engine.recode { e with gV := e.gV.put (i + 1) v } [1 + i]) e

/-- The engine after RTE popped `ra` and `st` (R339). -/
def Engine.popFrame (e : Engine) (ra : Nat) (st : St) : Engine :=
  let e1 := if ra.testBit 0 ∧ st.tw ≠ e.st.tw then e.copyArgs st.tw else e
  Engine.recode { e1 with
    sp := e1.sp.put e.st.level (e.sp.get e.st.level 0 + 16)
    st := st
    pc := BitVec.ofNat 48 (ra / 4 * 4)
    pcNext := none
    ibuf := []
    hold := .fetch
    trapPt := some true } [62 + e.st.level, 128, 129]

/-! ## Gates (R340) -/

/-- A descriptor read for GCALL *g* makes a valid gate for the caller (R340). -/
def Desc.gateOk (d : Desc) (g : Nat) (callerSup : Bool) : Bool := decide (32 ≤ g) && d.gate && (callerSup || d.guser)

/-- A valid gate crossed into the other world (R340): from Tenant the return address carries XARG in bit 0 and the
caller's ST is pushed; from Vendor both pushed words are 0. -/
def Block.crossGate (b : Block) (n g : Nat) (d : Desc) (ra : Nat) : Block :=
  let e := b.engine n
  let dest := !e.st.tw
  let b := b.lockBreak n .exception
  let words := if e.st.tw then (ra + bit d.xarg, e.st.word.toNat) else (0, 0)
  let b := if d.xarg then b.modEngine n fun e => e.copyArgs dest else b
  b.enterWith n g dest d words.1 words.2

end Sys2Proof.Machine
end

