-- ==== Sys2Proof/Machine/Flags.lean ====
section
/-! DEFINITION. The flag computations of the FEIS instructions (R79, R81 to R83) and the condition codes (R88). -/
namespace Sys2Proof.Machine

/-- Z and N of a result; C and V unchanged (R79 ZN). -/
def St.zn (s : St) (r : W64) : St := { s with z := r == 0, n := r.msb }

/-- Z, N, C and V of `a + b + cin` (R79 ZNCV). -/
def St.addFlags (s : St) (a b : W64) (cin : Bool) : St :=
  let r := a + b + BitVec.ofNat 64 (bit cin)
  { s with
    z := r == 0, n := r.msb, c := decide (2 ^ 64 ≤ a.toNat + b.toNat + bit cin), v := a.msb == b.msb && r.msb != a.msb }

/-- Z, N, C and V of `a - b - (1 - cin)`: C is 1 when no borrow occurred (R79 ZNCV). -/
def St.subFlags (s : St) (a b : W64) (cin : Bool) : St :=
  let r := a - b - BitVec.ofNat 64 (bit !cin)
  { s with
    z := r == 0, n := r.msb, c := decide (b.toNat + bit (!cin) ≤ a.toNat), v := a.msb != b.msb && r.msb != a.msb }

/-- Z and N of a shift's result, and C the last bit shifted out, unchanged when the amount is 0 (R79 "ZN, C"). -/
def St.shiftFlags (s : St) (r : W64) (amount : Nat) (out : Bool) : St :=
  { s.zn r with c := if amount = 0 then s.c else out }

/-- A left shift's last bit out (R79). -/
def shlOut (a : W64) (k : Nat) : Bool := a.getLsbD (64 - k)

/-- A right shift's last bit out (R79). -/
def shrOut (a : W64) (k : Nat) : Bool := a.getLsbD (k - 1)

/-- A condition code is defined (R88). -/
def ccDefined (cc : Nat) : Bool := decide (cc < 0x14) && cc != 0x0F

/-- A condition code holds (R88). -/
def St.holds (s : St) (cc : Nat) : Bool :=
  match cc with
  | 0x00 => s.z
  | 0x01 => !s.z
  | 0x02 => s.c
  | 0x03 => !s.c
  | 0x04 => s.n
  | 0x05 => !s.n
  | 0x06 => s.v
  | 0x07 => !s.v
  | 0x08 => s.c && !s.z
  | 0x09 => !s.c || s.z
  | 0x0A => s.n == s.v
  | 0x0B => s.n != s.v
  | 0x0C => !s.z && s.n == s.v
  | 0x0D => s.z || s.n != s.v
  | 0x0E => true
  | 0x10 => s.c
  | 0x11 => s.c || s.z
  | 0x12 => s.n || s.z
  | 0x13 => s.n || s.c
  | _ => false

end Sys2Proof.Machine
end

