-- ==== Sys2Proof/Machine/Operands.lean ====
section
/-! DEFINITION. The operand forms of the FEIS encodings (R74, R82, R88) and the operations on operand values that the
instructions and the microword share (R45, R81, R82). -/
namespace Sys2Proof.Machine

/-! ## Instruction words (R74) -/

/-- Format R. -/
def wordR (op : Nat) (d a b : BitVec 5) (x : BitVec 9) : Nat :=
  op * 2 ^ 24 + d.toNat * 2 ^ 19 + a.toNat * 2 ^ 14 + b.toNat * 2 ^ 9 + x.toNat
/-- Format I. -/
def wordI (op : Nat) (d a : BitVec 5) (imm : BitVec 14) : Nat :=
  op * 2 ^ 24 + d.toNat * 2 ^ 19 + a.toNat * 2 ^ 14 + imm.toNat
/-- Format BC. -/
def wordBC (op : Nat) (cc : BitVec 5) (off : BitVec 19) : Nat := op * 2 ^ 24 + cc.toNat * 2 ^ 19 + off.toNat
/-- Formats J and S. -/
def wordJ (op : Nat) (v : BitVec 24) : Nat := op * 2 ^ 24 + v.toNat
/-- Format L, with IMM32 in IR[63:32]. -/
def wordL (op : Nat) (d a : BitVec 5) (x : BitVec 14) (imm : BitVec 32) : Nat :=
  imm.toNat * 2 ^ 32 + op * 2 ^ 24 + d.toNat * 2 ^ 19 + a.toNat * 2 ^ 14 + x.toNat

/-- The D, A and B fields of an instruction word (R74). -/
def fieldD (ir : W64) : Nat := (ir.extractLsb' 19 5).toNat
def fieldA (ir : W64) : Nat := (ir.extractLsb' 14 5).toNat
def fieldB (ir : W64) : Nat := (ir.extractLsb' 9 5).toNat
/-- The length of the instruction in bytes: opcodes 0xF0 to 0xFE are 64-bit forms (R74). -/
def irLen (ir : W64) : Nat :=
  if 0xF0 ≤ (ir.extractLsb' 24 8).toNat ∧ (ir.extractLsb' 24 8).toNat ≤ 0xFE then 8 else 4

/-- IMM14 sign-extended and zero-extended (R74). -/
def sext14 (i : BitVec 14) : W64 := i.signExtend 64
def zext14 (i : BitVec 14) : W64 := i.setWidth 64

/-- The effective address `A + sext(IMM14)`, 48 bits (R84, R28). -/
def effAddr (a : W64) (i : BitVec 14) : Nat := (a + sext14 i).toNat % 2 ^ 48

/-- A branch target, modulo 2^48 (R74). -/
def branchTarget (pc : Addr) (off : Int) : Nat := ((pc.toNat + off * 4) % (2 ^ 48 : Int)).toNat

/-! ## Operations on values -/

/-- Leading zeros, 0 to 64 (R81). -/
def clz64 (a : W64) : Nat := if a.toNat = 0 then 64 else 63 - Nat.log2 a.toNat

/-- Trailing zeros below bit `i + k`, counted from bit `i`. -/
def ctzFrom (a : W64) : Nat → Nat → Nat
  | 0, _ => 0
  | k + 1, i => if a.getLsbD i then 0 else 1 + ctzFrom a k (i + 1)

/-- Trailing zeros, 0 to 64 (R81). -/
def ctz64 (a : W64) : Nat := ctzFrom a 64 0

/-- Ones in a value's low `k` bits. -/
def onesBelow (v : Nat) : Nat → Nat
  | 0 => 0
  | k + 1 => bit (v.testBit k) + onesBelow v k

/-- Ones in A (R81). -/
def popc64 (a : W64) : Nat := onesBelow a.toNat 64

/-- A with its 8 bytes reversed (R81). -/
def bswap64 (a : W64) : W64 := BitVec.ofNat 64 (leNat (leBytes a.toNat 8).reverse)

/-- A rotated right (R81). -/
def ror64 (a : W64) (k : Nat) : W64 := a.rotateRight k

/-- The signed minimum and maximum (R81). -/
def minS (a b : W64) : W64 := if a.slt b then a else b
def maxS (a b : W64) : W64 := if a.slt b then b else a
/-- The unsigned minimum and maximum (R81). -/
def minU (a b : W64) : W64 := if a.ult b then a else b
def maxU (a b : W64) : W64 := if a.ult b then b else a

/-- The extensions that X[2:0] of EXT selects (R81). -/
def extend (sel : Nat) (a : W64) : W64 :=
  match sel with
  | 0 => (a.setWidth 8).signExtend 64
  | 1 => (a.setWidth 16).signExtend 64
  | 2 => (a.setWidth 32).signExtend 64
  | 3 => (a.setWidth 8).setWidth 64
  | 4 => (a.setWidth 16).setWidth 64
  | _ => (a.setWidth 32).setWidth 64

/-- Bits `[p + w - 1 : p]` zero-extended (R45, R82). -/
def bfx (a : W64) (p w : Nat) : W64 := BitVec.ofNat 64 (bitsOf a.toNat p w)

/-- `d` with bits `[p + w - 1 : p]` replaced by the low `w` bits of `a` (R45, R82). -/
def bfi (d a : W64) (p w : Nat) : W64 :=
  BitVec.ofNat 64 (d.toNat - bitsOf d.toNat p w * 2 ^ p + a.toNat % 2 ^ w * 2 ^ p)

/-- The signed 128-bit product (R83). -/
def mulS (a b : W64) : W128 := BitVec.ofInt 128 (a.toInt * b.toInt)
/-- The unsigned 128-bit product (R83). -/
def mulU (a b : W64) : W128 := BitVec.ofNat 128 (a.toNat * b.toNat)
/-- The low and high halves of a 128-bit value. -/
def lo64 (p : W128) : W64 := p.setWidth 64
def hi64 (p : W128) : W64 := p.extractLsb' 64 64
/-- A 128-bit value from its halves. -/
def join64 (hi lo : W64) : W128 := hi ++ lo

/-- The signed product is not the sign extension of its low half (R83, R105). -/
def mulOverflow (a b : W64) : Bool := mulS a b != (lo64 (mulS a b)).signExtend 128

/-! ## Integer division (R106 to R110) -/

/-- A division's control word (R107). -/
structure DivCtl where
  rneg : Bool
  nega : Bool
  step : Nat
  w32 : Bool
  signed : Bool
deriving DecidableEq, Repr

/-- The control word read (R107). -/
def DivCtl.ofWord (w : W64) : DivCtl :=
  ⟨w.getLsbD 17, w.getLsbD 16, (w.extractLsb' 8 6).toNat, w.getLsbD 1, w.getLsbD 0⟩

/-- The control word as DSTEP writes it: bits that R107 does not name are 0. -/
def DivCtl.word (c : DivCtl) : W64 :=
  BitVec.ofNat 64 (2 ^ 17 * bit c.rneg + 2 ^ 16 * bit c.nega + 2 ^ 8 * (c.step % 64) + 2 * bit c.w32 + bit c.signed)

/-- The full count of steps (R108). -/
def DivCtl.full (c : DivCtl) : Nat := if c.w32 then 16 else 32

/-- A division operand as a number: 32 or 64 bits, signed or unsigned (R108). -/
def DivCtl.operand (c : DivCtl) (v : W64) : Int :=
  if c.signed then toSigned v.toNat (if c.w32 then 32 else 64)
  else ((v.toNat % 2 ^ (if c.w32 then 32 else 64) : Nat) : Int)

/-- The divisor's magnitude *dm* (R108). -/
def DivCtl.dm (c : DivCtl) (v : W64) : Nat := (c.operand v).natAbs

/-- One radix-2 iteration: the remainder and the dividend-quotient word (R108). -/
def divIter (dm : Nat) (p : Int × Nat) : Int × Nat :=
  let top : Int := (p.2 / 2 ^ 63 : Nat)
  let r := if 0 ≤ p.1 then 2 * p.1 + top - dm else 2 * p.1 + top + dm
  let r := toSigned (ofSigned r 65) 65
  (r, p.2 % 2 ^ 63 * 2 + (if 0 ≤ r then 1 else 0))

/-- DSTEP: new gD, control word and gA from gD, control word, gA and gB (R108). -/
def dstep (gd ctl ga gb : W64) : W64 × W64 × W64 :=
  let c := DivCtl.ofWord ctl
  if c.step = c.full then (gd, ctl, ga)
  else
    let x := c.operand ga
    let nega := if c.step = 0 then c.signed && decide (x < 0) else c.nega
    let start : Int × Nat :=
      if c.step = 0 then (0, x.natAbs % 2 ^ 64 * (if c.w32 then 2 ^ 32 else 1) % 2 ^ 64)
      else ((gd.toNat : Int) - (if c.rneg then 2 ^ 64 else 0), ga.toNat)
    let p := divIter (c.dm gb) (divIter (c.dm gb) start)
    (BitVec.ofNat 64 (ofSigned p.1 64), DivCtl.word { c with rneg := decide (p.1 < 0), nega := nega, step := c.step + 1 },
      BitVec.ofNat 64 p.2)

/-- DFIX: new gD and gA, with the flags Z, N, C, V; none where STEP is short of the full count (R109). -/
def dfix (gd ctl ga gb : W64) : Option (W64 × W64) × (Bool × Bool × Bool × Bool) :=
  let c := DivCtl.ofWord ctl
  if c.step ≠ c.full then (none, false, false, false, true)
  else
    let dm := c.dm gb
    let w := if c.w32 then 32 else 64
    let r0 : Int := (gd.toNat : Int) - (if c.rneg then 2 ^ 64 else 0)
    let r1 : Int := if r0 < 0 then r0 + dm else r0
    let dsign := if c.w32 then gb.getLsbD 31 else gb.msb
    let neg := c.signed && (c.nega != dsign)
    let q1 : Int := if dm = 0 then 2 ^ 64 - 1 else if neg then -(ga.toNat : Int) else ga.toNat
    let v := dm == 0 || (c.signed && !(decide (-(2 : Int) ^ (w - 1) ≤ q1) && decide (q1 < (2 : Int) ^ (w - 1))))
    let r2 := ofSigned (if c.signed && c.nega then -r1 else r1) 64
    let narrow := fun (y : Nat) =>
      if c.w32 then (if c.signed then ofSigned (toSigned y 32) 64 else y % 2 ^ 32) else y
    let q := BitVec.ofNat 64 (narrow (ofSigned q1 64))
    let r := BitVec.ofNat 64 (narrow r2)
    (some (r, q), r == 0, q.msb, dm == 0, v)

end Sys2Proof.Machine
end

