-- ==== Sys2Proof/Machine/Feis.lean ====
section
/-! DEFINITION. What every FEIS instruction shares: dispatch with its comparators, the order of its exceptions, and its
completion (R71, R75, R90, R92, R120, R121, R333, R335). -/
namespace Sys2Proof.Machine

/-- The exceptions an instruction can raise before it has any effect (R335, candidates 2 to 5). -/
inductive Trap where
  | illegal
  | priv
  | lockseq
  | access (addr : Nat) (c : Cause)
  | gate
deriving DecidableEq, Repr

/-- A pending FPTRAP taken as vector 7 in the world where it arose (R121). -/
def Block.takeFpTrap (b : Block) (n : Nat) (ra : Nat) : Block :=
  let e := b.engine n
  match e.fpt with
  | some t => (b.setEngine n { e with fpt := none }).enter n 7 t.tenant ra
  | none => b

/-- A synchronous exception at the instruction: the instruction has no effect and the return address is its own (R333);
a pending FPTRAP is taken in its place (R121). An access without an answer yet raises nothing: the instruction is executed
again, its dispatch over (R212). -/
def Block.trap (b : Block) (n : Nat) (t : Trap) : Block :=
  let e := b.engine n
  let ra := e.pc.toNat
  match t with
  | .access _ .later => b.setEngine n { e with skipIaddr := true }
  | t =>
    if e.fpt.isSome then b.takeFpTrap n ra
    else match t with
      | .illegal => b.except n 3 ra
      | .priv => b.except n 4 ra
      | .lockseq => b.except n 6 ra
      | .access a c => b.exceptRegion n a c ra
      | .gate => b.except n 10 ra

/-- The next instruction in sequence (R74). -/
def nextPc (pc : Addr) (len : Nat) : Nat := (pc.toNat + len) % 2 ^ 48

/-- One more instruction of an active locked sequence; the 64th breaks it (R90). -/
def Block.lockCount (b : Block) (n : Nat) : Block :=
  if b.flag (R.ENG_LKSTAT_LKACT n) then
    let b := b.inc (R.ENG_LKSTAT_LKCNT n) 1
    if b.get (R.ENG_LKSTAT_LKCNT n) = 64 then b.lockBreak n .limit else b
  else b

/-- The end of an instruction as a pending FPTRAP sees it (R120): the faulting instruction itself is not counted, an FP
instruction after it is. -/
def Engine.fpCount (e : Engine) (fp : Bool) : Engine :=
  match e.fpt with
  | some t => { e with fpt := some { t with count := if fp && !t.raised then t.count + 1 else t.count, raised := false } }
  | none => e

/-- The 16th FP instruction after the faulting one has completed (R121). -/
def Engine.fpTrapDue (e : Engine) : Bool :=
  match e.fpt with
  | some t => t.count == 16
  | none => false

/-- The 4-byte word of the instruction buffer at an address, where its line is held (R77). -/
def Engine.wordAt (e : Engine) (a : Nat) : Option Nat :=
  (e.ibuf.look (a / 64)).map fun l => leNat ((l.drop (a % 64)).take 4)

/-- The instruction at PC, where the buffer holds all of it (R74). -/
def Engine.instrAt (e : Engine) : Option Nat :=
  match e.wordAt e.pc.toNat with
  | none => none
  | some w =>
    if 0xF0 ≤ w / 2 ^ 24 ∧ w / 2 ^ 24 ≤ 0xFE then
      (e.wordAt ((e.pc.toNat + 4) % 2 ^ 48)).map fun h => w + 2 ^ 32 * h
    else some w

/-- The dispatch that ends ENDI (R33, R38): IR is loaded and the sequencer goes to the instruction's entry, or the
engine waits for the instruction to be fetched. -/
def Engine.dispatchNext (e : Engine) : Engine :=
  match e.instrAt with
  | some w => Engine.recode { e with
      ir := BitVec.ofNat 64 w, upc := BitVec.ofNat 13 (0x1000 + 4 * (w / 2 ^ 24 % 256)), hold := .none } [130, 138]
  | none => { e with hold := .fetch }

/-- PC at an address, and the instruction buffer left with PC's line and the next one (R77); then the dispatch. -/
def Engine.advance (e : Engine) (next : Nat) : Engine :=
  Engine.dispatchNext (Engine.recode { e with
    pc := BitVec.ofNat 48 next, trapPt := some true, ibuf := e.ibuf.filter fun l => l.1 == next / 64 || l.1 == next / 64 + 1 }
    [129])

/-- An instruction completes (R71, R90, R335): PC moves on, RSM clears, the locked sequence and the FP instructions are
counted, and an FPTRAP that is due, or that a single step finds pending (R121), or else the single step is taken. `e0` is the
engine as the instruction found it; `fp` and `flow` say that it is an FP instruction or a taken transfer (R120, R475, R477). -/
def Block.finish (b : Block) (n : Nat) (e0 : Engine) (next : Nat) (fp flow : Bool) : Block :=
  let b := b.modEngine n fun e =>
    { e.fpCount fp with st := { e.st with rsm := false }, long := none, ustack := [] }.advance next
  let b := ((b.countEng n 0x03).traceCount n).lockCount n
  let b := if flow then (b.countEng n 0x0D).emitFlow n 2 0 0 next else b
  if (b.engine n).fpTrapDue || (e0.st.ss && (b.engine n).fpt.isSome) then b.takeFpTrap n next
  else if e0.st.ss then b.except n 1 next
  else b

/-- The first dispatch after a release is over (R468). -/
def Engine.noSkip (e : Engine) : Engine := { e with skipIaddr := false }

/-- Dispatch against the IADDR comparators (R472, R474): the block after them, and whether one of them halts the
instruction before it executes (deferred while a locked sequence is active, R64). -/
def Block.dispatch (b : Block) (n : Nat) : Block × Bool :=
  let e := b.engine n
  if e.cmp.isEmpty || e.skipIaddr then (b.modEngine n Engine.noSkip, false)
  else
    let b := (b.setEngine n { e with halt := none }).cmpFetch n e.pc.toNat
    match (b.engine n).halt with
    | some _ => (b.modEngine n fun e => { e with trapPt := some true }, !b.flag (R.ENG_LKSTAT_LKACT n))
    | none => (b.modEngine n fun e' => { e' with halt := e.halt }, false)

/-! ## Residue checks (R59, R142, R295 to R298) -/

/-- A mismatch recorded in ENGn_RES (R296); `first` counts it. -/
def Block.mismatch (b : Block) (n : Nat) (opnd first : Bool) : Block :=
  let b := (b.put (R.ENG_RES_ADDR n) (b.engine n).upc.toNat).put (R.ENG_RES_OPND n) (bit opnd)
  if first then (b.incSat (R.ENG_RES_RETRY n) 1).countEng n 0x08 else b

/-- A second mismatch in the same word (R59, R297, R298): the engine stops with its state as it stood before the word and
the replay record of what it had presented; in the first word of a resumed fault frame, two operand mismatches are a data
fault. -/
def Block.residueFault (b : Block) (n : Nat) (first second : Bool) (r : Replay) : Block :=
  let data := (b.engine n).replay.isSome && first && second
  (((b.mismatch n second false).modEngine n fun e => { e with
    wait := none, trapPt := none, streamIn := e.streamIn.filter (· != .sld), replay := some r })).hardFault n data

/-- What a FEIS instruction reads of R28, by its opcode and fields (R81 to R89): ST, PC, IR and µPC always. -/
def Engine.feisReads (e : Engine) : List Nat :=
  let op := (e.ir.extractLsb' 24 8).toNat
  let d := e.gElem (fieldD e.ir)
  let a := e.gElem (fieldA e.ir)
  let b := e.gElem (fieldB e.ir)
  let next := e.gElem ((fieldD e.ir + 1) % 32)
  [128, 129, 130, 138] ++
    if op = 0x09 ∨ op = 0x0A ∨ (0x15 ≤ op ∧ op ≤ 0x19) ∨ op = 0x1C then [a]
    else if op ≤ 0x1A then [a, b]
    else if op = 0x2A then [a, d]
    else if 0x20 ≤ op ∧ op < 0x2A then [a]
    else if op = 0x38 ∨ op = 0x39 ∨ (0x83 ≤ op ∧ op ≤ 0x85) then [d, next, a, b]
    else if 0x30 ≤ op ∧ op ≤ 0x34 then [a, b]
    else if 0x47 ≤ op ∧ op ≤ 0x4A then [a, d]
    else if op = 0x4C then a :: vElems (fieldD e.ir)
    else if 0x40 ≤ op ∧ op ≤ 0x4B then [a]
    else if op = 0x52 then [a, b, d]
    else if (0x50 ≤ op ∧ op ≤ 0x54) ∨ op = 0x59 then [a, b]
    else if op = 0x58 then [a]
    else if op = 0x60 then a :: vElems (fieldD e.ir)
    else if op = 0x61 then vElems (fieldA e.ir)
    else if 0x73 ≤ op ∧ op ≤ 0x76 then [a, b, d]
    else if (0x7B ≤ op ∧ op ≤ 0x82) ∧ op ≠ 0x7D then [a]
    else if 0x70 ≤ op ∧ op ≤ 0x7D then [a, b]
    else if op = 0x93 ∨ op = 0x94 ∨ op = 0xA7 ∨ op = 0xA9 ∨ op = 0xB5 then [a]
    else if op = 0xA4 then [e.gElem 31]
    else if 0xB0 ≤ op ∧ op ≤ 0xB4 then [d, a, b]
    else if op = 0xF1 then [d]
    else if op = 0xF2 then [a]
    else []

/-- A register that the instruction at hand reads disagrees with its stored code (R142): the word that reads it fails, and its
repetition too. -/
def Engine.feisCorrupt (e : Engine) : Bool := !e.codes.isEmpty && e.feisReads.any e.corrupt

/-- The hard residue fault of an instruction that reads such a register (R142, R297), as it stood before it. -/
def Block.feisFault (b : Block) (n : Nat) : Block := (b.mismatch n true true).residueFault n true true ⟨0, none, false, []⟩

/-- A register that a long instruction's chunk or block reads disagrees with its stored code (R142). -/
def Engine.longCorrupt (e : Engine) (o : LongOp) : Bool :=
  !e.codes.isEmpty && [128, 129, 130, e.gElem o.d, e.gElem o.a, e.gElem o.b].any e.corrupt

/-- A FEIS instruction: an engine that is not ready at a macro boundary with this instruction in IR, or that has a micro-trap
to take there first (R61), executes nothing (log entry 5); `traps` gives the first exception of candidates 2 to 4 that it
raises, and `body` is its effect from there, given the engine as it found it. -/
def Block.feis (b : Block) (n word : Nat) (traps : Engine → Option Trap) (body : Engine → Block → Block) : Block :=
  if b.ready n && !b.trapFirst n && (b.engine n).ir.toNat == word then
    let d := b.dispatch n
    if d.2 then d.1
    else if (d.1.engine n).feisCorrupt then d.1.feisFault n
    else
      let b := d.1
      let e := b.engine n
      match traps e with
      | some t => b.trap n t
      | none => body e b
  else b

/-- An instruction that only changes the engine that runs it, ST and registers included. -/
def Block.regOp (b : Block) (n word len : Nat) (bad : Bool) (f : Engine → Engine) : Block :=
  b.feis n word (fun _ => if bad then some .illegal else none) fun e b =>
    (b.setEngine n (f e)).finish n e (nextPc e.pc len) false false

/-- The result of a register instruction: D and the flags. -/
def Engine.result (e : Engine) (d : Nat) (r : W64) (s : St) : Engine := { e.setG d r with st := s }

/-- LKACT as the LOCKSEQ check reads it (R92). -/
def Block.lockseqAt (b : Block) (n : Nat) : Option Trap :=
  if b.flag (R.ENG_LKSTAT_LKACT n) then some .lockseq else none

/-- The first of several exceptions (R335). -/
def firstTrap : List (Bool × Trap) → Option Trap
  | [] => none
  | (c, t) :: ts => if c then some t else firstTrap ts

end Sys2Proof.Machine
end

