-- ==== Sys2Proof/Machine/Fp.lean ====
section
/-! DEFINITION. Floating-point arithmetic: formats, values, rounding and the results and flags of every operation (R112
to R119, R122 to R129, R132 to R135). Operations compute exactly on integers and round once. -/
namespace Sys2Proof.Machine

/-! ## Formats and environment (R112, R113, R69) -/

/-- A format by its code: 0 binary16, 1 binary32, 2 binary64 (R112). -/
def fpP (f : Nat) : Nat := if f = 0 then 11 else if f = 1 then 24 else 53
/-- Bits of a format (R112). -/
def fpW (f : Nat) : Nat := if f = 0 then 16 else if f = 1 then 32 else 64
/-- Exponent bias, which is also the largest exponent (R112). -/
def fpBias (f : Nat) : Nat := if f = 0 then 15 else if f = 1 then 127 else 1023
/-- The all-ones exponent field. -/
def fpEmax (f : Nat) : Nat := 2 * fpBias f + 1
/-- The canonical NaN (R112, R114). -/
def fpNaN (f : Nat) : Nat := fpEmax f * 2 ^ (fpP f - 1) + 2 ^ (fpP f - 2)
/-- The infinity of a sign. -/
def fpInf (f : Nat) (s : Bool) : Nat := bit s * 2 ^ (fpW f - 1) + fpEmax f * 2 ^ (fpP f - 1)
/-- The largest finite value of a sign (R118). -/
def fpMax (f : Nat) (s : Bool) : Nat := fpInf f s - 1
/-- The zero of a sign. -/
def fpZero (f : Nat) (s : Bool) : Nat := bit s * 2 ^ (fpW f - 1)

/-- What ST gives an FP operation: RM (0 to nearest even, 1 toward zero, 2 toward −∞, 3 toward +∞) and FZ (R69). -/
structure FpEnv where
  rm : Nat
  fz : Bool
deriving DecidableEq, Repr

/-- The flags of an FP operation, as FFLAGS holds them (R69). -/
abbrev FpFlags := BitVec 5
def fNX : FpFlags := 1
def fUF : FpFlags := 2
def fOF : FpFlags := 4
def fDZ : FpFlags := 8
def fNV : FpFlags := 16

/-- A flag raised where a condition holds. -/
def flagIf (c : Bool) (x : FpFlags) : FpFlags := if c then x else 0

/-! ## Values -/

/-- An operand's value: a NaN, signalling or quiet; an infinity; a finite number `± m × 2^e`. -/
inductive FpVal where
  | nan (sig : Bool)
  | inf (s : Bool)
  | num (s : Bool) (m : Nat) (e : Int)
deriving DecidableEq, Repr

/-- The sign bit of an encoding. -/
def fpSign (f v : Nat) : Bool := v.testBit (fpW f - 1)
/-- The exponent field of an encoding. -/
def fpExp (f v : Nat) : Nat := bitsOf v (fpP f - 1) (fpW f - fpP f)
/-- The fraction field of an encoding. -/
def fpFrac (f v : Nat) : Nat := v % 2 ^ (fpP f - 1)

/-- The value of an encoding (R112). -/
def fpVal (f v : Nat) : FpVal :=
  if fpExp f v = fpEmax f then
    if fpFrac f v = 0 then .inf (fpSign f v) else .nan (!(fpFrac f v).testBit (fpP f - 2))
  else if fpExp f v = 0 then .num (fpSign f v) (fpFrac f v) (1 - (fpBias f : Int) - (fpP f - 1 : Nat))
  else .num (fpSign f v) (fpFrac f v + 2 ^ (fpP f - 1)) ((fpExp f v : Int) - fpBias f - (fpP f - 1 : Nat))

/-- An encoding is a subnormal. -/
def fpSubnormal (f v : Nat) : Bool := fpExp f v == 0 && fpFrac f v != 0

/-- An operand as read with ST.FZ: a subnormal becomes the zero of its sign (R116). -/
def fpFlush (f : Nat) (env : FpEnv) (v : Nat) : Nat :=
  if env.fz && fpSubnormal f v then fpZero f (fpSign f v) else v % 2 ^ fpW f

/-- The value of an operand as read with ST.FZ (R116). -/
def fpRead (f : Nat) (env : FpEnv) (v : Nat) : FpVal := fpVal f (fpFlush f env v)

/-- The value is a NaN. -/
def FpVal.isNaN : FpVal → Bool
  | .nan _ => true
  | _ => false
/-- The value is a signalling NaN. -/
def FpVal.isSig : FpVal → Bool
  | .nan s => s
  | _ => false
/-- The sign of a value; a NaN's is not used. -/
def FpVal.sign : FpVal → Bool
  | .nan _ => false
  | .inf s => s
  | .num s _ _ => s
/-- The value with its sign inverted. -/
def FpVal.neg : FpVal → FpVal
  | .nan s => .nan s
  | .inf s => .inf (!s)
  | .num s m e => .num (!s) m e

/-! ## Rounding (R113, R117, R118) -/

/-- The magnitude `m / 2^k` of a number of sign `s` rounded to an integer, and whether it was inexact (R113). -/
def roundShift (rm : Nat) (s : Bool) (m : Nat) (k : Int) : Nat × Bool :=
  if k ≤ 0 then (m * 2 ^ (-k).toNat, false)
  else
    let d := 2 ^ k.toNat
    let q := m / d
    let r := m % d
    let up := match rm with
      | 0 => decide (d < 2 * r) || (2 * r == d && q % 2 == 1)
      | 1 => false
      | 2 => s && r != 0
      | _ => !s && r != 0
    (if up then q + 1 else q, r != 0)

/-- What an overflow of a sign gives (R118). -/
def fpOverflow (f rm : Nat) (s : Bool) : Nat :=
  match rm with
  | 0 => fpInf f s
  | 1 => fpMax f s
  | 2 => if s then fpInf f s else fpMax f s
  | _ => if s then fpMax f s else fpInf f s

/-- The number `± (m + δ) × 2^e`, `m` positive, rounded to a format with its flags (R113, R116 to R119); `sticky` says
that δ lies strictly between 0 and 1, and is 0 otherwise. -/
def fpRound (f : Nat) (env : FpEnv) (s : Bool) (m : Nat) (e : Int) (sticky : Bool) : Nat × FpFlags :=
  let m := 2 * m + bit sticky
  let e := e - 1
  let p := fpP f
  let emin : Int := 1 - (fpBias f : Int)
  let k : Int := (Nat.log2 m + 1 : Nat) - (p : Int)
  let u := roundShift env.rm s m k
  let u0 := if k ≤ 0 then (m * 2 ^ (-k).toNat, false) else u
  let top := u0.1 == 2 ^ p
  let ex : Int := e + k + p - 1 + (if top then 1 else 0)
  if ex < emin then
    if env.fz then (fpZero f s, fUF ||| fNX)
    else
      let q := roundShift env.rm s m (emin - (p - 1 : Nat) - e)
      (fpZero f s + q.1, flagIf q.2 (fUF ||| fNX))
  else if (fpBias f : Int) < ex then (fpOverflow f env.rm s, fOF ||| fNX)
  else
    let q := if top then 2 ^ (p - 1) else u0.1
    (fpZero f s + (ex + fpBias f).toNat * 2 ^ (p - 1) + (q - 2 ^ (p - 1)), flagIf u0.2 fNX)

/-- The sign of an exact zero sum that is not the sum of two zeros of one sign (R119). -/
def zeroSumSign (env : FpEnv) : Bool := env.rm == 2

/-- A value encoded without rounding error beyond R113: zeros keep their sign. -/
def fpPack (f : Nat) (env : FpEnv) : FpVal → Nat × FpFlags
  | .nan _ => (fpNaN f, 0)
  | .inf s => (fpInf f s, 0)
  | .num s m e => if m = 0 then (fpZero f s, 0) else fpRound f env s m e false

/-! ## Operations (R114, R119, R122 to R129) -/

/-- The exact sum of two finite numbers as an integer at the smaller exponent. -/
def exactSum (s1 : Bool) (m1 : Nat) (e1 : Int) (s2 : Bool) (m2 : Nat) (e2 : Int) : Int × Int :=
  let e := min e1 e2
  let i1 : Int := m1 * 2 ^ (e1 - e).toNat
  let i2 : Int := m2 * 2 ^ (e2 - e).toNat
  ((if s1 then -i1 else i1) + (if s2 then -i2 else i2), e)

/-- Two values summed with one rounding; `nv` is what the operands have raised already (R114, R119). -/
def fpSum (f : Nat) (env : FpEnv) (x y : FpVal) (nv : Bool) : Nat × FpFlags :=
  match x, y with
  | .nan _, _ => (fpNaN f, flagIf nv fNV)
  | _, .nan _ => (fpNaN f, flagIf nv fNV)
  | .inf s, .inf t => if s = t then (fpInf f s, flagIf nv fNV) else (fpNaN f, fNV)
  | .inf s, .num _ _ _ => (fpInf f s, flagIf nv fNV)
  | .num _ _ _, .inf t => (fpInf f t, flagIf nv fNV)
  | .num s m e, .num t k g =>
    if m = 0 ∧ k = 0 ∧ s = t then (fpZero f s, 0)
    else
      let z := exactSum s m e t k g
      if z.1 = 0 then (fpZero f (zeroSumSign env), 0)
      else fpRound f env (decide (z.1 < 0)) z.1.natAbs z.2 false

/-- FADD and FSUB: `neg` inverts the second operand (R86, R119). -/
def fpAdd (f : Nat) (env : FpEnv) (a b : Nat) (neg : Bool) : Nat × FpFlags :=
  let x := fpRead f env a
  let y := fpRead f env b
  fpSum f env x (if neg then y.neg else y) (x.isSig || y.isSig)

/-- The exact product of two values, and whether it is 0 × ∞ (R114). -/
def fpProduct (x y : FpVal) : FpVal × Bool :=
  match x, y with
  | .nan s, _ => (.nan s, false)
  | _, .nan s => (.nan s, false)
  | .inf s, .inf t => (.inf (s != t), false)
  | .inf s, .num t m _ => if m = 0 then (.nan true, true) else (.inf (s != t), false)
  | .num s m _, .inf t => if m = 0 then (.nan true, true) else (.inf (s != t), false)
  | .num s m e, .num t k g => (.num (s != t) (m * k) (e + g), false)

/-- FMUL (R86, R114). -/
def fpMul (f : Nat) (env : FpEnv) (a b : Nat) : Nat × FpFlags :=
  let x := fpRead f env a
  let y := fpRead f env b
  let p := fpProduct x y
  let r := fpPack f env p.1
  (r.1, r.2 ||| flagIf (x.isSig || y.isSig || p.2) fNV)

/-- FMA, FMS, FNMA and FNMS: `np` inverts the product and `nc` the addend (R86, R124). -/
def fpFma (f : Nat) (env : FpEnv) (a b c : Nat) (np nc : Bool) : Nat × FpFlags :=
  let x := fpRead f env a
  let y := fpRead f env b
  let z := fpRead f env c
  let p := fpProduct x y
  fpSum f env (if np then p.1.neg else p.1) (if nc then z.neg else z) (x.isSig || y.isSig || z.isSig || p.2)

/-- The order of two finite or infinite values: −1, 0 or 1, −0 and +0 being equal (R123). -/
def fpOrder : FpVal → FpVal → Int
  | .inf s, .inf t => (if s then -1 else 1) - (if t then -1 else 1)
  | .inf s, _ => if s then -1 else 1
  | _, .inf t => if t then 1 else -1
  | .num s m e, .num t k g => (exactSum s m e (!t) k g).1.sign
  | _, _ => 0

/-- FMIN and FMAX (R122): −0 is below +0. -/
def fpMinMax (f : Nat) (env : FpEnv) (a b : Nat) (max : Bool) : Nat × FpFlags :=
  let a := fpFlush f env a
  let b := fpFlush f env b
  let x := fpVal f a
  let y := fpVal f b
  let nv := flagIf (x.isSig || y.isSig) fNV
  if x.isNaN && y.isNaN then (fpNaN f, nv)
  else if x.isNaN then (b, nv)
  else if y.isNaN then (a, nv)
  else
    let less := decide (fpOrder x y < 0) || (fpOrder x y == 0 && x.sign && !y.sign)
    (if less != max then a else b, nv)

/-- The outcome of a comparison (R123). -/
inductive FpCmp where
  | eq
  | lt
  | gt
  | un
deriving DecidableEq, Repr

/-- FCMP and, signalling, FCMPS (R114, R123). -/
def fpCompare (f : Nat) (env : FpEnv) (a b : Nat) (signalling : Bool) : FpCmp × FpFlags :=
  let x := fpRead f env a
  let y := fpRead f env b
  if x.isNaN || y.isNaN then (.un, flagIf (signalling || x.isSig || y.isSig) fNV)
  else if fpOrder x y = 0 then (.eq, 0) else if fpOrder x y < 0 then (.lt, 0) else (.gt, 0)

/-- FABS, FNEG and FSGN: A with a sign; a NaN gives the canonical NaN (R115). -/
def fpWithSign (f a : Nat) (s : Bool) : Nat :=
  if (fpVal f a).isNaN then fpNaN f else fpZero f s + a % 2 ^ (fpW f - 1)

/-- FCLASS's one-hot code (R129). -/
def fpClass (f a : Nat) : Nat :=
  match fpVal f a with
  | .nan s => if s then 2 ^ 8 else 2 ^ 9
  | .inf s => if s then 2 ^ 0 else 2 ^ 7
  | .num s m _ =>
    if m = 0 then (if s then 2 ^ 3 else 2 ^ 4)
    else if fpSubnormal f a then (if s then 2 ^ 2 else 2 ^ 5)
    else if s then 2 ^ 1 else 2 ^ 6

/-- FCVT from format `f` to format `g` (R114, R125). -/
def fpConvert (f g : Nat) (env : FpEnv) (a : Nat) : Nat × FpFlags :=
  let x := fpRead f env a
  let r := fpPack g env x
  (r.1, r.2 ||| flagIf x.isSig fNV)

/-- FTOI (R126): `uns` an unsigned result, `rz` rounding toward zero. -/
def fpToInt (f : Nat) (env : FpEnv) (a : Nat) (uns rz : Bool) : Nat × FpFlags :=
  let hi := if uns then 2 ^ 64 - 1 else 2 ^ 63 - 1
  let lo := if uns then 0 else 2 ^ 63
  match fpRead f env a with
  | .nan _ => (0, fNV)
  | .inf s => (if s then lo else hi, fNV)
  | .num s m e =>
    let q := roundShift (if rz then 1 else env.rm) s m (-e)
    if s then
      if lo < q.1 then (lo, fNV) else (ofSigned (-(q.1 : Int)) 64, flagIf q.2 fNX)
    else if hi < q.1 then (hi, fNV) else (q.1, flagIf q.2 fNX)

/-- ITOF (R127). -/
def fpOfInt (f : Nat) (env : FpEnv) (a : Nat) (uns : Bool) : Nat × FpFlags :=
  let i : Int := if uns then (a % 2 ^ 64 : Nat) else toSigned a 64
  if i = 0 then (fpZero f false, 0) else fpRound f env (decide (i < 0)) i.natAbs 0 false

/-- FRINT (R128). -/
def fpRint (f : Nat) (env : FpEnv) (a : Nat) : Nat × FpFlags :=
  match fpRead f env a with
  | .nan s => (fpNaN f, flagIf s fNV)
  | .inf s => (fpInf f s, 0)
  | .num s m e =>
    let q := roundShift env.rm s m (-e)
    if q.1 = 0 then (fpZero f s, flagIf q.2 fNX)
    else ((fpRound f env s q.1 0 false).1, flagIf q.2 fNX)

/-! ## Division and square root (R130 to R135) -/

/-- The FP control word (R131). -/
structure FpCtl where
  held : Bool
  root : Bool
  fmt : Nat
  sign : Bool
  exp : Int
  step : Nat
deriving DecidableEq, Repr

/-- The control word read (R131). -/
def FpCtl.ofWord (w : Nat) : FpCtl :=
  ⟨w.testBit 63, w.testBit 62, bitsOf w 60 2, w.testBit 59, toSigned (bitsOf w 40 13) 13, bitsOf w 32 6⟩

/-- The control word written: the bits that R131 does not name are 0. -/
def FpCtl.word (c : FpCtl) : Nat :=
  bit c.held * 2 ^ 63 + bit c.root * 2 ^ 62 + c.fmt % 4 * 2 ^ 60 + bit c.sign * 2 ^ 59 + ofSigned c.exp 13 * 2 ^ 40 +
    c.step % 64 * 2 ^ 32

/-- The full count of steps (R135). -/
def FpCtl.full (c : FpCtl) : Nat :=
  if c.fmt = 0 then (if c.root then 6 else 7) else if c.fmt = 1 then 13 else if c.root then 27 else 28

/-- A finite non-zero number normalised: `m` in [1, 2) as the integer `m × 2^(p - 1)`, and its exponent (R132). -/
def fpNormal (f m : Nat) (e : Int) : Nat × Int :=
  let k := fpP f - 1 - Nat.log2 m
  (m * 2 ^ k, e - k + (fpP f - 1 : Nat))

/-- What FDINIT finds (R132): a special case settled with its flags, or the numbers to set up: SIGN, E and gA. -/
inductive FpInit where
  | special (r : Nat) (fl : FpFlags)
  | setup (sign : Bool) (exp : Int) (m : Nat)
deriving DecidableEq, Repr

/-- FDINIT of a division (R132). -/
def fpDivInit (f : Nat) (env : FpEnv) (a b : Nat) : FpInit :=
  let x := fpRead f env a
  let y := fpRead f env b
  match x, y with
  | .nan _, _ => .special (fpNaN f) (flagIf (x.isSig || y.isSig) fNV)
  | _, .nan _ => .special (fpNaN f) (flagIf (x.isSig || y.isSig) fNV)
  | .inf _, .inf _ => .special (fpNaN f) fNV
  | .inf s, .num t _ _ => .special (fpInf f (s != t)) 0
  | .num s _ _, .inf t => .special (fpZero f (s != t)) 0
  | .num s m e, .num t k g =>
    if k = 0 then (if m = 0 then .special (fpNaN f) fNV else .special (fpInf f (s != t)) fDZ)
    else if m = 0 then .special (fpZero f (s != t)) 0
    else
      let na := fpNormal f m e
      .setup (s != t) (na.2 - (fpNormal f k g).2) na.1

/-- FDINIT of a square root (R132). -/
def fpRootInit (f : Nat) (env : FpEnv) (a : Nat) : FpInit :=
  match fpRead f env a with
  | .nan s => .special (fpNaN f) (flagIf s fNV)
  | .inf s => if s then .special (fpNaN f) fNV else .special (fpInf f false) 0
  | .num s m e =>
    if m = 0 then .special (fpZero f s) 0
    else if s then .special (fpNaN f) fNV
    else
      let n := fpNormal f m e
      if n.2 % 2 = 0 then .setup false (n.2 / 2) n.1 else .setup false ((n.2 - 1) / 2) (2 * n.1)

/-- The divisor significand that each step forms from gB (R132, R133); none where gB is no finite non-zero number. -/
def fpDivisor (f b : Nat) : Option Nat :=
  match fpVal f (b % 2 ^ fpW f) with
  | .num _ m e => if m = 0 then none else some (fpNormal f m e).1
  | _ => none

/-- One division step from Q and R with divisor significand `mb` (R133): the first forms one bit, the others two. A remainder of `mb`
or more is no state of R133; the digit then stays at 3 (DESIGN CHOICE, log entry 15). -/
def fpDivStep (first : Bool) (q r mb : Nat) : Nat × Nat :=
  if first then (2 * r / mb, 2 * r - 2 * r / mb * mb)
  else
    let d := min 3 (4 * r / mb)
    (4 * q + d, 4 * r - d * mb)

/-- What a root step with digit `d` leaves of W (R133). -/
def rootRest (p k q w d : Nat) : Int := 4 * (w : Int) - (8 * q * d + d * d : Nat) * 2 ^ (p + 2 - 2 * k)

/-- Root step `k` from Q and W, or from M in step 1 (R133). -/
def fpRootStep (p k q w : Nat) : Nat × Nat :=
  if k = 1 then
    let q1 := if 9 * 2 ^ p ≤ 8 * w then 3 else 2
    (q1, 8 * w - q1 * q1 * 2 ^ p)
  else
    let d := if 0 ≤ rootRest p k q w 3 then 3 else if 0 ≤ rootRest p k q w 2 then 2
      else if 0 ≤ rootRest p k q w 1 then 1 else 0
    (4 * q + d, (rootRest p k q w d).toNat)

/-- FDFIN's result (R134) from the control word, Q and the remainder. At the full count a Q of too few bits is no Q of R133; a remainder
then counts as the δ of one half of the unit that Q leaves, as with any other Q (DESIGN CHOICE, log entry 15). -/
def fpFinish (c : FpCtl) (env : FpEnv) (q r : Nat) : Nat × FpFlags :=
  if c.held then (q, 0)
  else if c.step < c.full then (fpNaN c.fmt, fNV)
  else if q = 0 ∧ r = 0 then (fpZero c.fmt c.sign, 0)
  else fpRound c.fmt env c.sign q (c.exp - 2 * c.full + 1) (r != 0)

end Sys2Proof.Machine
end

