-- ==== Sys2Proof/Machine/FeisFp.lean ====
section
/-! DEFINITION. The floating-point instructions (R80, R86, R112 to R136): opcodes 0x70 to 0x86. -/
namespace Sys2Proof.Machine

/-! ## Shared -/

/-- The FP environment that ST gives (R69). -/
def St.fpEnv (s : St) : FpEnv := ⟨s.rm.toNat, s.fz⟩

/-- Flags ORed into FFLAGS; where one has its FEN bit set and none is pending, an FPTRAP becomes pending and FTPC of the
executing world records the instruction (R120). -/
def Engine.raiseFp (e : Engine) (pc : Addr) (fl : FpFlags) : Engine :=
  let e1 := { e with st := { e.st with fflags := e.st.fflags ||| fl } }
  if fl &&& e.st.fen ≠ 0 ∧ e.fpt.isNone then
    { e1 with fpt := some ⟨e.st.tw, 0, true⟩, ftpc := e.ftpc.put e.st.world pc }
  else e1

/-- The format code of an FP instruction (R86). -/
def xFmt (x : BitVec 9) : Nat := x.toNat % 4

/-- Every FP instruction: ILLEGAL where `bad` holds or the format is 0b11; otherwise `f` gives the engine with its result
and the flags it raises (R86, R120). -/
def Block.fpOp (b : Block) (n op : Nat) (d a rb : BitVec 5) (x : BitVec 9) (bad : Engine → Bool)
    (f : Engine → Engine × FpFlags) : Block :=
  b.feis n (wordR op d a rb x) (fun e => if bad e || xFmt x == 3 then some .illegal else none) fun e b =>
    let r := f e
    (b.setEngine n (r.1.raiseFp e.pc r.2)).finish n e (nextPc e.pc 4) true false

/-- The values of the registers that A, B and D name. -/
def Engine.gn (e : Engine) (r : BitVec 5) : Nat := (e.g r.toNat).toNat

/-- An FP result in D, zero-extended (R86). -/
def Engine.fpResult (e : Engine) (d : BitVec 5) (r : Nat × FpFlags) : Engine × FpFlags :=
  (e.setG d.toNat (BitVec.ofNat 64 r.1), r.2)

/-- X has a bit set above its format (R86). -/
def xOver (x : BitVec 9) (k : Nat) : Bool := decide (2 ^ k ≤ x.toNat)

/-! ## Arithmetic (R86, R113 to R119, R124) -/

/-- FADD. -/
def execFadd (n : PE) (d a b : BitVec 5) (x : BitVec 9) (s : State) : Host.Outcome State Fault Refusal :=
  done s <| s.blk.fpOp n 0x70 d a b x (fun _ => xOver x 2) fun e =>
    e.fpResult d (fpAdd (xFmt x) e.st.fpEnv (e.gn a) (e.gn b) false)

/-- FSUB. -/
def execFsub (n : PE) (d a b : BitVec 5) (x : BitVec 9) (s : State) : Host.Outcome State Fault Refusal :=
  done s <| s.blk.fpOp n 0x71 d a b x (fun _ => xOver x 2) fun e =>
    e.fpResult d (fpAdd (xFmt x) e.st.fpEnv (e.gn a) (e.gn b) true)

/-- FMUL. -/
def execFmul (n : PE) (d a b : BitVec 5) (x : BitVec 9) (s : State) : Host.Outcome State Fault Refusal :=
  done s <| s.blk.fpOp n 0x72 d a b x (fun _ => xOver x 2) fun e =>
    e.fpResult d (fpMul (xFmt x) e.st.fpEnv (e.gn a) (e.gn b))

/-- FMA: A × B + D (R124). -/
def execFma (n : PE) (d a b : BitVec 5) (x : BitVec 9) (s : State) : Host.Outcome State Fault Refusal :=
  done s <| s.blk.fpOp n 0x73 d a b x (fun _ => xOver x 2) fun e =>
    e.fpResult d (fpFma (xFmt x) e.st.fpEnv (e.gn a) (e.gn b) (e.gn d) false false)

/-- FMS: A × B − D (R124). -/
def execFms (n : PE) (d a b : BitVec 5) (x : BitVec 9) (s : State) : Host.Outcome State Fault Refusal :=
  done s <| s.blk.fpOp n 0x74 d a b x (fun _ => xOver x 2) fun e =>
    e.fpResult d (fpFma (xFmt x) e.st.fpEnv (e.gn a) (e.gn b) (e.gn d) false true)

/-- FNMA: −(A × B) + D (R124). -/
def execFnma (n : PE) (d a b : BitVec 5) (x : BitVec 9) (s : State) : Host.Outcome State Fault Refusal :=
  done s <| s.blk.fpOp n 0x75 d a b x (fun _ => xOver x 2) fun e =>
    e.fpResult d (fpFma (xFmt x) e.st.fpEnv (e.gn a) (e.gn b) (e.gn d) true false)

/-- FNMS: −(A × B) − D (R124). -/
def execFnms (n : PE) (d a b : BitVec 5) (x : BitVec 9) (s : State) : Host.Outcome State Fault Refusal :=
  done s <| s.blk.fpOp n 0x76 d a b x (fun _ => xOver x 2) fun e =>
    e.fpResult d (fpFma (xFmt x) e.st.fpEnv (e.gn a) (e.gn b) (e.gn d) true true)

/-- FMIN (R122). -/
def execFmin (n : PE) (d a b : BitVec 5) (x : BitVec 9) (s : State) : Host.Outcome State Fault Refusal :=
  done s <| s.blk.fpOp n 0x77 d a b x (fun _ => xOver x 2) fun e =>
    e.fpResult d (fpMinMax (xFmt x) e.st.fpEnv (e.gn a) (e.gn b) false)

/-- FMAX (R122). -/
def execFmax (n : PE) (d a b : BitVec 5) (x : BitVec 9) (s : State) : Host.Outcome State Fault Refusal :=
  done s <| s.blk.fpOp n 0x78 d a b x (fun _ => xOver x 2) fun e =>
    e.fpResult d (fpMinMax (xFmt x) e.st.fpEnv (e.gn a) (e.gn b) true)

/-! ## Comparison (R123) -/

/-- ST after a comparison: exactly one of Z, N, C and V (R123). -/
def St.fpCmp (s : St) (c : FpCmp) : St := { s with z := c == .eq, n := c == .lt, c := c == .gt, v := c == .un }

/-- FCMP. -/
def execFcmp (n : PE) (d a b : BitVec 5) (x : BitVec 9) (s : State) : Host.Outcome State Fault Refusal :=
  done s <| s.blk.fpOp n 0x79 d a b x (fun _ => xOver x 2 || d != 0) fun e =>
    let r := fpCompare (xFmt x) e.st.fpEnv (e.gn a) (e.gn b) false
    ({ e with st := e.st.fpCmp r.1 }, r.2)

/-- FCMPS. -/
def execFcmps (n : PE) (d a b : BitVec 5) (x : BitVec 9) (s : State) : Host.Outcome State Fault Refusal :=
  done s <| s.blk.fpOp n 0x7A d a b x (fun _ => xOver x 2 || d != 0) fun e =>
    let r := fpCompare (xFmt x) e.st.fpEnv (e.gn a) (e.gn b) true
    ({ e with st := e.st.fpCmp r.1 }, r.2)

/-! ## Sign and class (R115, R129) -/

/-- FABS. -/
def execFabs (n : PE) (d a b : BitVec 5) (x : BitVec 9) (s : State) : Host.Outcome State Fault Refusal :=
  done s <| s.blk.fpOp n 0x7B d a b x (fun _ => xOver x 2 || b != 0) fun e =>
    e.fpResult d (fpWithSign (xFmt x) (e.gn a) false, 0)

/-- FNEG. -/
def execFneg (n : PE) (d a b : BitVec 5) (x : BitVec 9) (s : State) : Host.Outcome State Fault Refusal :=
  done s <| s.blk.fpOp n 0x7C d a b x (fun _ => xOver x 2 || b != 0) fun e =>
    e.fpResult d (fpWithSign (xFmt x) (e.gn a) (!fpSign (xFmt x) (e.gn a)), 0)

/-- FSGN: the magnitude of A with the sign bit of B. -/
def execFsgn (n : PE) (d a b : BitVec 5) (x : BitVec 9) (s : State) : Host.Outcome State Fault Refusal :=
  done s <| s.blk.fpOp n 0x7D d a b x (fun _ => xOver x 2) fun e =>
    e.fpResult d (fpWithSign (xFmt x) (e.gn a) (fpSign (xFmt x) (e.gn b)), 0)

/-- FCLASS (R129). -/
def execFclass (n : PE) (d a b : BitVec 5) (x : BitVec 9) (s : State) : Host.Outcome State Fault Refusal :=
  done s <| s.blk.fpOp n 0x7E d a b x (fun _ => xOver x 2 || b != 0) fun e =>
    e.fpResult d (fpClass (xFmt x) (e.gn a), 0)

/-! ## Conversion (R125 to R128) -/

/-- FCVT: from format X[1:0] to format X[3:2]. -/
def execFcvt (n : PE) (d a b : BitVec 5) (x : BitVec 9) (s : State) : Host.Outcome State Fault Refusal :=
  let g := x.toNat / 4 % 4
  done s <| s.blk.fpOp n 0x7F d a b x (fun _ => xOver x 4 || b != 0 || g == 3 || g == xFmt x) fun e =>
    e.fpResult d (fpConvert (xFmt x) g e.st.fpEnv (e.gn a))

/-- FTOI: X[2] unsigned, X[3] toward zero. -/
def execFtoi (n : PE) (d a b : BitVec 5) (x : BitVec 9) (s : State) : Host.Outcome State Fault Refusal :=
  done s <| s.blk.fpOp n 0x80 d a b x (fun _ => xOver x 4 || b != 0) fun e =>
    e.fpResult d (fpToInt (xFmt x) e.st.fpEnv (e.gn a) (x.getLsbD 2) (x.getLsbD 3))

/-- ITOF: X[2] unsigned. -/
def execItof (n : PE) (d a b : BitVec 5) (x : BitVec 9) (s : State) : Host.Outcome State Fault Refusal :=
  done s <| s.blk.fpOp n 0x81 d a b x (fun _ => xOver x 3 || b != 0) fun e =>
    e.fpResult d (fpOfInt (xFmt x) e.st.fpEnv (e.gn a) (x.getLsbD 2))

/-- FRINT. -/
def execFrint (n : PE) (d a b : BitVec 5) (x : BitVec 9) (s : State) : Host.Outcome State Fault Refusal :=
  done s <| s.blk.fpOp n 0x82 d a b x (fun _ => xOver x 2 || b != 0) fun e =>
    e.fpResult d (fpRint (xFmt x) e.st.fpEnv (e.gn a))

/-! ## Division and square root (R130 to R135) -/

/-- The register rule of R130, with ROOT as the control word holds it. -/
def fpPairBad (d a b : BitVec 5) (x : BitVec 9) (e : Engine) : Bool :=
  let root := (FpCtl.ofWord (e.g (d.toNat + 1)).toNat).root
  xOver x 2 || decide (30 ≤ d.toNat) || a == 31 || b == 31 || a == d || a.toNat == d.toNat + 1 ||
    (if root then b != 0 else b == d || b.toNat == d.toNat + 1 || b == a)

/-- FDINIT on register values (R132): new gD, control word and gA, and the flags; where a special case is settled, SIGN and
EXP, which the spec does not state then, are bits of a free value. -/
def fpInit (f : Nat) (env : FpEnv) (ctl a b free : Nat) : Nat × Nat × Nat × FpFlags :=
  let root := ctl.testBit 62
  match if root then fpRootInit f env a else fpDivInit f env a b with
  | .special r fl =>
    let z := FpCtl.ofWord free
    (r, FpCtl.word ⟨true, root, f, z.sign, z.exp, 0⟩, a, fl)
  | .setup sg ex m => (0, FpCtl.word ⟨false, root, f, sg, ex, 0⟩, m, 0)

/-- FDSTEP on register values (R133): new gD, control word and gA. Where the control word names no format, or gB holds no
finite non-zero divisor, gD and gA are free values (log entry 15). -/
def fpStep (ctl q r b free free2 : Nat) : Nat × Nat × Nat :=
  let c := FpCtl.ofWord ctl
  if c.held || c.step == c.full then (q, ctl, r)
  else
    let k := c.step + 1
    let w := FpCtl.word { c with step := k }
    if c.fmt = 3 then (free, w, free2)
    else if c.root then
      let z := fpRootStep (fpP c.fmt) k q r
      (z.1, w, z.2)
    else match fpDivisor c.fmt b with
      | none => (free, w, free2)
      | some mb =>
        let z := fpDivStep (k == 1) q r mb
        (z.1, w, z.2)

/-- FDFIN on register values (R134): new gD and the flags. -/
def fpFin (env : FpEnv) (ctl q r free : Nat) : Nat × FpFlags :=
  let c := FpCtl.ofWord ctl
  if c.fmt = 3 ∧ !c.held then (free, 0) else fpFinish c env q r

/-- The three registers that a division instruction writes. -/
def Engine.setDiv (e : Engine) (d a : BitVec 5) (q w r : Nat) : Engine :=
  ((e.setG d.toNat (BitVec.ofNat 64 q)).setG (d.toNat + 1) (BitVec.ofNat 64 w)).setG a.toNat (BitVec.ofNat 64 r)

/-- A division instruction (R130): `f` also gets two free values, which it uses where the spec states no value. -/
def Block.fpDivOp (b : Block) (n op : Nat) (d a rb : BitVec 5) (x : BitVec 9)
    (f : Nat → Nat → Engine → Engine × FpFlags) : Block :=
  b.feis n (wordR op d a rb x) (fun e => if fpPairBad d a rb x e || xFmt x == 3 then some .illegal else none) fun e b =>
    let r := f b.freeWord.toNat b.drawn.freeWord.toNat e
    (b.drawn.drawn.setEngine n (r.1.raiseFp e.pc r.2)).finish n e (nextPc e.pc 4) true false

/-- FDINIT (R132). -/
def execFdinit (n : PE) (d a b : BitVec 5) (x : BitVec 9) (s : State) : Host.Outcome State Fault Refusal :=
  done s <| s.blk.fpDivOp n 0x83 d a b x fun free _ e =>
    let r := fpInit (xFmt x) e.st.fpEnv (e.g (d.toNat + 1)).toNat (e.gn a) (e.gn b) free
    (e.setDiv d a r.1 r.2.1 r.2.2.1, r.2.2.2)

/-- FDSTEP (R133). -/
def execFdstep (n : PE) (d a b : BitVec 5) (x : BitVec 9) (s : State) : Host.Outcome State Fault Refusal :=
  done s <| s.blk.fpDivOp n 0x84 d a b x fun free free2 e =>
    let r := fpStep (e.g (d.toNat + 1)).toNat (e.gn d) (e.gn a) (e.gn b) free free2
    (e.setDiv d a r.1 r.2.1 r.2.2, 0)

/-- FDFIN (R134). -/
def execFdfin (n : PE) (d a b : BitVec 5) (x : BitVec 9) (s : State) : Host.Outcome State Fault Refusal :=
  done s <| s.blk.fpDivOp n 0x85 d a b x fun free _ e =>
    let r := fpFin e.st.fpEnv (e.g (d.toNat + 1)).toNat (e.gn d) (e.gn a) free
    (e.setG d.toNat (BitVec.ofNat 64 r.1), r.2)

/-! ## FBAR (R121) -/

/-- FBAR: takes a pending FPTRAP at its own address and has no effect; with none pending it completes. -/
def execFbar (n : PE) (d a b : BitVec 5) (x : BitVec 9) (s : State) : Host.Outcome State Fault Refusal :=
  done s <| s.blk.feis n (wordR 0x86 d a b x)
    (fun _ => if d != 0 || a != 0 || b != 0 || x != 0 then some .illegal else none) fun e b =>
      if e.fpt.isSome then b.takeFpTrap n e.pc.toNat else b.finish n e (nextPc e.pc 4) true false

end Sys2Proof.Machine
end

