-- ==== Sys2Proof/Machine/FeisInt.lean ====
section
/-! DEFINITION. The integer instructions: register, immediate and 64-bit forms, multiply and division steps (R81, R82,
R83, R104 to R111). -/
namespace Sys2Proof.Machine

/-- ADD (R81). -/
def execAdd (n : PE) (d a b : BitVec 5) (x : BitVec 9) (s : State) : Host.Outcome State Fault Refusal :=
  done s <| s.blk.regOp n (wordR 0x01 d a b x) 4 (x != 0) fun e =>
    e.result d.toNat (e.g a.toNat + e.g b.toNat) (e.st.addFlags (e.g a.toNat) (e.g b.toNat) false)

/-- SUB (R81). -/
def execSub (n : PE) (d a b : BitVec 5) (x : BitVec 9) (s : State) : Host.Outcome State Fault Refusal :=
  done s <| s.blk.regOp n (wordR 0x02 d a b x) 4 (x != 0) fun e =>
    e.result d.toNat (e.g a.toNat - e.g b.toNat) (e.st.subFlags (e.g a.toNat) (e.g b.toNat) true)

/-- ADC (R81, R104). -/
def execAdc (n : PE) (d a b : BitVec 5) (x : BitVec 9) (s : State) : Host.Outcome State Fault Refusal :=
  done s <| s.blk.regOp n (wordR 0x03 d a b x) 4 (x != 0) fun e =>
    e.result d.toNat (e.g a.toNat + e.g b.toNat + BitVec.ofNat 64 (bit e.st.c))
      (e.st.addFlags (e.g a.toNat) (e.g b.toNat) e.st.c)

/-- SBC (R81, R104). -/
def execSbc (n : PE) (d a b : BitVec 5) (x : BitVec 9) (s : State) : Host.Outcome State Fault Refusal :=
  done s <| s.blk.regOp n (wordR 0x04 d a b x) 4 (x != 0) fun e =>
    e.result d.toNat (e.g a.toNat - e.g b.toNat - BitVec.ofNat 64 (bit !e.st.c))
      (e.st.subFlags (e.g a.toNat) (e.g b.toNat) e.st.c)

/-- AND (R81). -/
def execAnd (n : PE) (d a b : BitVec 5) (x : BitVec 9) (s : State) : Host.Outcome State Fault Refusal :=
  done s <| s.blk.regOp n (wordR 0x05 d a b x) 4 (x != 0) fun e =>
    let r := e.g a.toNat &&& e.g b.toNat
    e.result d.toNat r (e.st.zn r)

/-- OR (R81). -/
def execOr (n : PE) (d a b : BitVec 5) (x : BitVec 9) (s : State) : Host.Outcome State Fault Refusal :=
  done s <| s.blk.regOp n (wordR 0x06 d a b x) 4 (x != 0) fun e =>
    let r := e.g a.toNat ||| e.g b.toNat
    e.result d.toNat r (e.st.zn r)

/-- XOR (R81). -/
def execXor (n : PE) (d a b : BitVec 5) (x : BitVec 9) (s : State) : Host.Outcome State Fault Refusal :=
  done s <| s.blk.regOp n (wordR 0x07 d a b x) 4 (x != 0) fun e =>
    let r := e.g a.toNat ^^^ e.g b.toNat
    e.result d.toNat r (e.st.zn r)

/-- ANDN (R81). -/
def execAndn (n : PE) (d a b : BitVec 5) (x : BitVec 9) (s : State) : Host.Outcome State Fault Refusal :=
  done s <| s.blk.regOp n (wordR 0x08 d a b x) 4 (x != 0) fun e =>
    let r := e.g a.toNat &&& ~~~(e.g b.toNat)
    e.result d.toNat r (e.st.zn r)

/-- NEG (R81). -/
def execNeg (n : PE) (d a b : BitVec 5) (x : BitVec 9) (s : State) : Host.Outcome State Fault Refusal :=
  done s <| s.blk.regOp n (wordR 0x09 d a b x) 4 (x != 0 || b != 0) fun e =>
    e.result d.toNat (0 - e.g a.toNat) (e.st.subFlags 0 (e.g a.toNat) true)

/-- NOT (R81). -/
def execNot (n : PE) (d a b : BitVec 5) (x : BitVec 9) (s : State) : Host.Outcome State Fault Refusal :=
  done s <| s.blk.regOp n (wordR 0x0A d a b x) 4 (x != 0 || b != 0) fun e =>
    let r := ~~~(e.g a.toNat)
    e.result d.toNat r (e.st.zn r)

/-- CMP (R81). -/
def execCmp (n : PE) (d a b : BitVec 5) (x : BitVec 9) (s : State) : Host.Outcome State Fault Refusal :=
  done s <| s.blk.regOp n (wordR 0x0B d a b x) 4 (x != 0 || d != 0) fun e =>
    { e with st := e.st.subFlags (e.g a.toNat) (e.g b.toNat) true }

/-- TST (R81). -/
def execTst (n : PE) (d a b : BitVec 5) (x : BitVec 9) (s : State) : Host.Outcome State Fault Refusal :=
  done s <| s.blk.regOp n (wordR 0x0C d a b x) 4 (x != 0 || d != 0) fun e =>
    { e with st := e.st.zn (e.g a.toNat &&& e.g b.toNat) }

/-- SHL (R81). -/
def execShl (n : PE) (d a b : BitVec 5) (x : BitVec 9) (s : State) : Host.Outcome State Fault Refusal :=
  done s <| s.blk.regOp n (wordR 0x0D d a b x) 4 (x != 0) fun e =>
    let k := (e.g b.toNat).toNat % 64
    let r := e.g a.toNat <<< k
    e.result d.toNat r (e.st.shiftFlags r k (shlOut (e.g a.toNat) k))

/-- SHR (R81). -/
def execShr (n : PE) (d a b : BitVec 5) (x : BitVec 9) (s : State) : Host.Outcome State Fault Refusal :=
  done s <| s.blk.regOp n (wordR 0x0E d a b x) 4 (x != 0) fun e =>
    let k := (e.g b.toNat).toNat % 64
    let r := e.g a.toNat >>> k
    e.result d.toNat r (e.st.shiftFlags r k (shrOut (e.g a.toNat) k))

/-- SAR (R81). -/
def execSar (n : PE) (d a b : BitVec 5) (x : BitVec 9) (s : State) : Host.Outcome State Fault Refusal :=
  done s <| s.blk.regOp n (wordR 0x0F d a b x) 4 (x != 0) fun e =>
    let k := (e.g b.toNat).toNat % 64
    let r := (e.g a.toNat).sshiftRight k
    e.result d.toNat r (e.st.shiftFlags r k (shrOut (e.g a.toNat) k))

/-- ROR (R81): C is result bit 63 when the amount is not 0. -/
def execRor (n : PE) (d a b : BitVec 5) (x : BitVec 9) (s : State) : Host.Outcome State Fault Refusal :=
  done s <| s.blk.regOp n (wordR 0x10 d a b x) 4 (x != 0) fun e =>
    let k := (e.g b.toNat).toNat % 64
    let r := ror64 (e.g a.toNat) k
    e.result d.toNat r (e.st.shiftFlags r k (r.msb))

/-- MINS (R81). -/
def execMins (n : PE) (d a b : BitVec 5) (x : BitVec 9) (s : State) : Host.Outcome State Fault Refusal :=
  done s <| s.blk.regOp n (wordR 0x11 d a b x) 4 (x != 0) fun e =>
    e.result d.toNat (minS (e.g a.toNat) (e.g b.toNat)) e.st

/-- MAXS (R81). -/
def execMaxs (n : PE) (d a b : BitVec 5) (x : BitVec 9) (s : State) : Host.Outcome State Fault Refusal :=
  done s <| s.blk.regOp n (wordR 0x12 d a b x) 4 (x != 0) fun e =>
    e.result d.toNat (maxS (e.g a.toNat) (e.g b.toNat)) e.st

/-- MINU (R81). -/
def execMinu (n : PE) (d a b : BitVec 5) (x : BitVec 9) (s : State) : Host.Outcome State Fault Refusal :=
  done s <| s.blk.regOp n (wordR 0x13 d a b x) 4 (x != 0) fun e =>
    e.result d.toNat (minU (e.g a.toNat) (e.g b.toNat)) e.st

/-- MAXU (R81). -/
def execMaxu (n : PE) (d a b : BitVec 5) (x : BitVec 9) (s : State) : Host.Outcome State Fault Refusal :=
  done s <| s.blk.regOp n (wordR 0x14 d a b x) 4 (x != 0) fun e =>
    e.result d.toNat (maxU (e.g a.toNat) (e.g b.toNat)) e.st

/-- CLZ (R81). -/
def execClz (n : PE) (d a b : BitVec 5) (x : BitVec 9) (s : State) : Host.Outcome State Fault Refusal :=
  done s <| s.blk.regOp n (wordR 0x15 d a b x) 4 (x != 0 || b != 0) fun e =>
    e.result d.toNat (BitVec.ofNat 64 (clz64 (e.g a.toNat))) e.st

/-- CTZ (R81). -/
def execCtz (n : PE) (d a b : BitVec 5) (x : BitVec 9) (s : State) : Host.Outcome State Fault Refusal :=
  done s <| s.blk.regOp n (wordR 0x16 d a b x) 4 (x != 0 || b != 0) fun e =>
    e.result d.toNat (BitVec.ofNat 64 (ctz64 (e.g a.toNat))) e.st

/-- POPC (R81). -/
def execPopc (n : PE) (d a b : BitVec 5) (x : BitVec 9) (s : State) : Host.Outcome State Fault Refusal :=
  done s <| s.blk.regOp n (wordR 0x17 d a b x) 4 (x != 0 || b != 0) fun e =>
    e.result d.toNat (BitVec.ofNat 64 (popc64 (e.g a.toNat))) e.st

/-- EXT (R81): X[2:0] of 6 and 7 and any other X bit are ILLEGAL. -/
def execExt (n : PE) (d a b : BitVec 5) (x : BitVec 9) (s : State) : Host.Outcome State Fault Refusal :=
  done s <| s.blk.regOp n (wordR 0x18 d a b x) 4 (decide (6 ≤ x.toNat) || b != 0) fun e =>
    e.result d.toNat (extend x.toNat (e.g a.toNat)) e.st

/-- BSWAP (R81). -/
def execBswap (n : PE) (d a b : BitVec 5) (x : BitVec 9) (s : State) : Host.Outcome State Fault Refusal :=
  done s <| s.blk.regOp n (wordR 0x19 d a b x) 4 (x != 0 || b != 0) fun e =>
    e.result d.toNat (bswap64 (e.g a.toNat)) e.st

/-- SEL (R81, R88): an X bit above [4:0] and an undefined condition are ILLEGAL. -/
def execSel (n : PE) (d a b : BitVec 5) (x : BitVec 9) (s : State) : Host.Outcome State Fault Refusal :=
  done s <| s.blk.regOp n (wordR 0x1A d a b x) 4 (!ccDefined x.toNat) fun e =>
    e.result d.toNat (if e.st.holds x.toNat then e.g a.toNat else e.g b.toNat) e.st

/-- MOV (R81). -/
def execMov (n : PE) (d a b : BitVec 5) (x : BitVec 9) (s : State) : Host.Outcome State Fault Refusal :=
  done s <| s.blk.regOp n (wordR 0x1C d a b x) 4 (x != 0 || b != 0) fun e =>
    e.result d.toNat (e.g a.toNat) e.st

/-- ADDI (R82). -/
def execAddi (n : PE) (d a : BitVec 5) (imm : BitVec 14) (s : State) : Host.Outcome State Fault Refusal :=
  done s <| s.blk.regOp n (wordI 0x20 d a imm) 4 (false) fun e =>
    e.result d.toNat (e.g a.toNat + sext14 imm) (e.st.addFlags (e.g a.toNat) (sext14 imm) false)

/-- ANDI (R82). -/
def execAndi (n : PE) (d a : BitVec 5) (imm : BitVec 14) (s : State) : Host.Outcome State Fault Refusal :=
  done s <| s.blk.regOp n (wordI 0x21 d a imm) 4 (false) fun e =>
    let r := e.g a.toNat &&& zext14 imm
    e.result d.toNat r (e.st.zn r)

/-- ORI (R82). -/
def execOri (n : PE) (d a : BitVec 5) (imm : BitVec 14) (s : State) : Host.Outcome State Fault Refusal :=
  done s <| s.blk.regOp n (wordI 0x22 d a imm) 4 (false) fun e =>
    let r := e.g a.toNat ||| zext14 imm
    e.result d.toNat r (e.st.zn r)

/-- XORI (R82). -/
def execXori (n : PE) (d a : BitVec 5) (imm : BitVec 14) (s : State) : Host.Outcome State Fault Refusal :=
  done s <| s.blk.regOp n (wordI 0x23 d a imm) 4 (false) fun e =>
    let r := e.g a.toNat ^^^ zext14 imm
    e.result d.toNat r (e.st.zn r)

/-- CMPI (R82). -/
def execCmpi (n : PE) (d a : BitVec 5) (imm : BitVec 14) (s : State) : Host.Outcome State Fault Refusal :=
  done s <| s.blk.regOp n (wordI 0x24 d a imm) 4 (d != 0) fun e =>
    { e with st := e.st.subFlags (e.g a.toNat) (sext14 imm) true }

/-- SHLI (R82). -/
def execShli (n : PE) (d a : BitVec 5) (imm : BitVec 14) (s : State) : Host.Outcome State Fault Refusal :=
  done s <| s.blk.regOp n (wordI 0x25 d a imm) 4 (decide (64 ≤ imm.toNat)) fun e =>
    let k := imm.toNat
    let r := e.g a.toNat <<< k
    e.result d.toNat r (e.st.shiftFlags r k (shlOut (e.g a.toNat) k))

/-- SHRI (R82). -/
def execShri (n : PE) (d a : BitVec 5) (imm : BitVec 14) (s : State) : Host.Outcome State Fault Refusal :=
  done s <| s.blk.regOp n (wordI 0x26 d a imm) 4 (decide (64 ≤ imm.toNat)) fun e =>
    let k := imm.toNat
    let r := e.g a.toNat >>> k
    e.result d.toNat r (e.st.shiftFlags r k (shrOut (e.g a.toNat) k))

/-- SARI (R82). -/
def execSari (n : PE) (d a : BitVec 5) (imm : BitVec 14) (s : State) : Host.Outcome State Fault Refusal :=
  done s <| s.blk.regOp n (wordI 0x27 d a imm) 4 (decide (64 ≤ imm.toNat)) fun e =>
    let k := imm.toNat
    let r := (e.g a.toNat).sshiftRight k
    e.result d.toNat r (e.st.shiftFlags r k (shrOut (e.g a.toNat) k))

/-- RORI (R82). -/
def execRori (n : PE) (d a : BitVec 5) (imm : BitVec 14) (s : State) : Host.Outcome State Fault Refusal :=
  done s <| s.blk.regOp n (wordI 0x28 d a imm) 4 (decide (64 ≤ imm.toNat)) fun e =>
    let k := imm.toNat
    let r := ror64 (e.g a.toNat) k
    e.result d.toNat r (e.st.shiftFlags r k (r.msb))

/-- BFX and BFI: IMM14[13] is 0, w is not 0 and p + w does not pass 64 (R82). -/
def badField (imm : BitVec 14) : Bool :=
  imm.getLsbD 13 || imm.toNat / 64 % 128 == 0 || decide (64 < imm.toNat % 64 + imm.toNat / 64 % 128)

/-- BFX (R82). -/
def execBfx (n : PE) (d a : BitVec 5) (imm : BitVec 14) (s : State) : Host.Outcome State Fault Refusal :=
  done s <| s.blk.regOp n (wordI 0x29 d a imm) 4 (badField imm) fun e =>
    e.result d.toNat (bfx (e.g a.toNat) (imm.toNat % 64) (imm.toNat / 64 % 128)) e.st

/-- BFI (R82). -/
def execBfi (n : PE) (d a : BitVec 5) (imm : BitVec 14) (s : State) : Host.Outcome State Fault Refusal :=
  done s <| s.blk.regOp n (wordI 0x2A d a imm) 4 (badField imm) fun e =>
    e.result d.toNat (bfi (e.g d.toNat) (e.g a.toNat) (imm.toNat % 64) (imm.toNat / 64 % 128)) e.st

/-- LI (R82). -/
def execLi (n : PE) (d a : BitVec 5) (x : BitVec 14) (imm : BitVec 32) (s : State) :
    Host.Outcome State Fault Refusal :=
  done s <| s.blk.regOp n (wordL 0xF0 d a x imm) 8 (x != 0 || a != 0) fun e =>
    e.result d.toNat (imm.signExtend 64) e.st

/-- LIH (R82). -/
def execLih (n : PE) (d a : BitVec 5) (x : BitVec 14) (imm : BitVec 32) (s : State) :
    Host.Outcome State Fault Refusal :=
  done s <| s.blk.regOp n (wordL 0xF1 d a x imm) 8 (x != 0 || a != 0) fun e =>
    e.result d.toNat (imm ++ (e.g d.toNat).setWidth 32) e.st

/-- ADDIW (R82). -/
def execAddiw (n : PE) (d a : BitVec 5) (x : BitVec 14) (imm : BitVec 32) (s : State) :
    Host.Outcome State Fault Refusal :=
  done s <| s.blk.regOp n (wordL 0xF2 d a x imm) 8 (x != 0) fun e =>
    e.result d.toNat (e.g a.toNat + imm.signExtend 64)
      (e.st.addFlags (e.g a.toNat) (imm.signExtend 64) false)

/-- MUL (R83, R105): C does not change. -/
def execMul (n : PE) (d a b : BitVec 5) (x : BitVec 9) (s : State) : Host.Outcome State Fault Refusal :=
  done s <| s.blk.regOp n (wordR 0x30 d a b x) 4 (x != 0) fun e =>
    let r := e.g a.toNat * e.g b.toNat
    e.result d.toNat r { e.st.zn r with v := mulOverflow (e.g a.toNat) (e.g b.toNat) }

/-- MULH.S (R83). -/
def execMulhS (n : PE) (d a b : BitVec 5) (x : BitVec 9) (s : State) : Host.Outcome State Fault Refusal :=
  done s <| s.blk.regOp n (wordR 0x31 d a b x) 4 (x != 0) fun e =>
    e.result d.toNat (hi64 (mulS (e.g a.toNat) (e.g b.toNat))) e.st

/-- MULH.U (R83). -/
def execMulhU (n : PE) (d a b : BitVec 5) (x : BitVec 9) (s : State) : Host.Outcome State Fault Refusal :=
  done s <| s.blk.regOp n (wordR 0x32 d a b x) 4 (x != 0) fun e =>
    e.result d.toNat (hi64 (mulU (e.g a.toNat) (e.g b.toNat))) e.st

/-- A 128-bit product written to gD and g(D+1) (R83, R105). -/
def Engine.pair (e : Engine) (d : Nat) (p : W128) : Engine := (e.setG d (lo64 p)).setG (d + 1) (hi64 p)

/-- MULW.S (R83): D = 30 or 31 is ILLEGAL. -/
def execMulwS (n : PE) (d a b : BitVec 5) (x : BitVec 9) (s : State) : Host.Outcome State Fault Refusal :=
  done s <| s.blk.regOp n (wordR 0x33 d a b x) 4 (x != 0 || decide (30 ≤ d.toNat)) fun e =>
    e.pair d.toNat (mulS (e.g a.toNat) (e.g b.toNat))

/-- MULW.U (R83): D = 30 or 31 is ILLEGAL. -/
def execMulwU (n : PE) (d a b : BitVec 5) (x : BitVec 9) (s : State) : Host.Outcome State Fault Refusal :=
  done s <| s.blk.regOp n (wordR 0x34 d a b x) 4 (x != 0 || decide (30 ≤ d.toNat)) fun e =>
    e.pair d.toNat (mulU (e.g a.toNat) (e.g b.toNat))

/-- The register rule of DSTEP and DFIX (R106): D is 29 or less, and gD, g(D+1), gA and gB are four different registers,
none of them g31. -/
def badDiv (d a b : BitVec 5) : Bool :=
  let d := d.toNat
  let a := a.toNat
  let b := b.toNat
  decide (29 < d) || a == d || a == d + 1 || b == d || b == d + 1 || a == b || a == 31 || b == 31

/-- DSTEP (R83, R106 to R108); no flag changes. -/
def execDstep (n : PE) (d a b : BitVec 5) (x : BitVec 9) (s : State) : Host.Outcome State Fault Refusal :=
  done s <| s.blk.regOp n (wordR 0x38 d a b x) 4 (x != 0 || badDiv d a b) fun e =>
    let r := dstep (e.g d.toNat) (e.g (d.toNat + 1)) (e.g a.toNat) (e.g b.toNat)
    ((e.setG d.toNat r.1).setG (d.toNat + 1) r.2.1).setG a.toNat r.2.2

/-- DFIX (R83, R109, R110). -/
def execDfix (n : PE) (d a b : BitVec 5) (x : BitVec 9) (s : State) : Host.Outcome State Fault Refusal :=
  done s <| s.blk.regOp n (wordR 0x39 d a b x) 4 (x != 0 || badDiv d a b) fun e =>
    let r := dfix (e.g d.toNat) (e.g (d.toNat + 1)) (e.g a.toNat) (e.g b.toNat)
    let e1 := match r.1 with
      | some p => (e.setG d.toNat p.1).setG a.toNat p.2
      | none => e
    { e1 with st := { e.st with z := r.2.1, n := r.2.2.1, c := r.2.2.2.1, v := r.2.2.2.2 } }

end Sys2Proof.Machine
end

