-- ==== Sys2Proof/Machine/FeisMem.lean ====
section
/-! DEFINITION. The memory instructions: loads, stores, atomics, locked sequences, FENCE, VINS and VEXT (R84, R85, R90 to
R92, R521). -/
namespace Sys2Proof.Machine

/-- A value loaded from `len` bytes, zero- or sign-extended (R84). -/
def loadValue (d : List Byte) (sgn : Bool) : W64 :=
  if sgn then BitVec.ofNat 64 (ofSigned (toSigned (leNat d) (8 * d.length)) 64) else BitVec.ofNat 64 (leNat d)

/-- A load of `len` bytes at an address: its checks, its target's answer, then `put` of the bytes into the engine. -/
def Block.loadOp (b : Block) (n word a len : Nat) (find : BankFind) (bad : Bool) (put : List Byte → Engine → Engine) : Block :=
  b.feis n word (fun _ => if bad then some .illegal else none) fun e b =>
    match b.check n [.read] a len with
    | some (x, c) => b.trap n (.access x c)
    | none =>
      match (b.countAccess n a false false).load n a len false find with
      | (b, .error c) => b.trap n (.access a c)
      | (b, .ok d) =>
        ((b.cmpData n true false a len (leNat d)).modEngine n (put d)).finish n e (nextPc e.pc 4) false false

/-- A posted store of bytes at an address (R84); inside a locked sequence it raises LOCKSEQ (R92). -/
def Block.storeOp (b : Block) (n word a : Nat) (data : List Byte) (bad : Bool) : Block :=
  b.feis n word (fun _ => firstTrap [(bad, .illegal), (b.flag (R.ENG_LKSTAT_LKACT n), .lockseq)]) fun e b =>
    match b.check n [.write] a data.length with
    | some (x, c) => b.trap n (.access x c)
    | none =>
      (((b.countAccess n a true false).postStore n a data false).cmpData n false true a data.length
        (leNat data)).finish n e (nextPc e.pc 4) false false

/-- The effective address of an I-format access of engine `n` (R84). -/
def Block.ea (b : Block) (n : Nat) (a : BitVec 5) (imm : BitVec 14) : Nat := effAddr ((b.engine n).g a.toNat) imm

/-- LDB and LDBS (R84). `find`: what the target's read finds, which the state does not decide (R208, R211, R213, R521). -/
def execLdb (n : PE) (sgn : Bool) (d a : BitVec 5) (imm : BitVec 14) (find : BankFind) (s : State) :
    Host.Outcome State Fault Refusal :=
  done s <| s.blk.loadOp n (wordI (if sgn then 0x41 else 0x40) d a imm) (s.blk.ea n a imm) 1 find false
    fun v e => e.setG d.toNat (loadValue v sgn)

/-- LDH and LDHS (R84). -/
def execLdh (n : PE) (sgn : Bool) (d a : BitVec 5) (imm : BitVec 14) (find : BankFind) (s : State) :
    Host.Outcome State Fault Refusal :=
  done s <| s.blk.loadOp n (wordI (if sgn then 0x43 else 0x42) d a imm) (s.blk.ea n a imm) 2 find false
    fun v e => e.setG d.toNat (loadValue v sgn)

/-- LDW and LDWS (R84). -/
def execLdw (n : PE) (sgn : Bool) (d a : BitVec 5) (imm : BitVec 14) (find : BankFind) (s : State) :
    Host.Outcome State Fault Refusal :=
  done s <| s.blk.loadOp n (wordI (if sgn then 0x45 else 0x44) d a imm) (s.blk.ea n a imm) 4 find false
    fun v e => e.setG d.toNat (loadValue v sgn)

/-- LDD (R84). -/
def execLdd (n : PE) (d a : BitVec 5) (imm : BitVec 14) (find : BankFind) (s : State) : Host.Outcome State Fault Refusal :=
  done s <| s.blk.loadOp n (wordI 0x46 d a imm) (s.blk.ea n a imm) 8 find false
    fun v e => e.setG d.toNat (loadValue v false)

/-- STB, STH, STW and STD by their size 0 to 3 (R84). -/
def execStb (n : PE) (size : Fin 4) (d a : BitVec 5) (imm : BitVec 14) (s : State) : Host.Outcome State Fault Refusal :=
  done s <| s.blk.storeOp n (wordI (0x47 + size) d a imm) (s.blk.ea n a imm)
    (leBytes ((s.blk.engine n).g d.toNat).toNat (2 ^ size.val)) false

/-- LDV (R84): D names v[D[2:0]] and D[4:3] must be 0 (R74). -/
def execLdv (n : PE) (d a : BitVec 5) (imm : BitVec 14) (find : BankFind) (s : State) : Host.Outcome State Fault Refusal :=
  done s <| s.blk.loadOp n (wordI 0x4B d a imm) (s.blk.ea n a imm) 16 find (decide (8 ≤ d.toNat))
    fun v e => e.setV d.toNat (BitVec.ofNat 128 (leNat v))

/-- STV (R84). -/
def execStv (n : PE) (d a : BitVec 5) (imm : BitVec 14) (s : State) : Host.Outcome State Fault Refusal :=
  done s <| s.blk.storeOp n (wordI 0x4C d a imm) (s.blk.ea n a imm) (leBytes ((s.blk.engine n).v d.toNat).toNat 16)
    (decide (8 ≤ d.toNat))

/-! ## Atomics (R84, R203, R520) -/

/-- The access size that X[0] selects (R84). -/
def xSize (x : BitVec 9) : Nat := if x.getLsbD 0 then 8 else 4

/-- An AMO (R84): the old value, zero-extended, goes to D; `z` says whether Z records the comparison. -/
def Block.amoOp (b : Block) (n op kind : Nat) (d a rb : BitVec 5) (x : BitVec 9) (find : BankFind) (viaFabric z : Bool) : Block :=
  let len := xSize x
  b.feis n (wordR op d a rb x)
    (fun _ => firstTrap [(decide (2 ≤ x.toNat), .illegal), (b.flag (R.ENG_LKSTAT_LKACT n), .lockseq)]) fun e b =>
    let addr := (e.g a.toNat).toNat % 2 ^ 48
    let cmp := (e.g d.toNat).toNat % 2 ^ (8 * len)
    if addr % len ≠ 0 then b.trap n (.access addr .misalign)
    else match b.check n [.read, .write] addr len with
      | some (y, c) => b.trap n (.access y c)
      | none =>
        match (b.countAccess n addr true viaFabric).atomic
            (b.engReq n (.amo kind) addr len (leBytes (e.g rb.toNat).toNat len) cmp .now 0 viaFabric) find with
        | (b, .error c) => b.trap n (.access addr c)
        | (b, .ok old) =>
          let b := (b.cmpData n true true addr len (leNat old)).modEngine n fun e =>
            e.result d.toNat (loadValue old false) (if z then { e.st with z := leNat old == cmp } else e.st)
          b.finish n e (nextPc e.pc 4) false false

/-- AMOADD (R84). -/
def execAmoadd (n : PE) (d a b : BitVec 5) (x : BitVec 9) (find : BankFind) (s : State) : Host.Outcome State Fault Refusal :=
  done s <| s.blk.amoOp n 0x50 0 d a b x find false false
/-- AMOSWP (R84). -/
def execAmoswp (n : PE) (d a b : BitVec 5) (x : BitVec 9) (find : BankFind) (s : State) : Host.Outcome State Fault Refusal :=
  done s <| s.blk.amoOp n 0x51 1 d a b x find false false
/-- AMOCAS (R84): the compare value is D as it stood. -/
def execAmocas (n : PE) (d a b : BitVec 5) (x : BitVec 9) (find : BankFind) (s : State) : Host.Outcome State Fault Refusal :=
  done s <| s.blk.amoOp n 0x52 2 d a b x find false true
/-- AMOAND (R84): through the fabric everywhere. -/
def execAmoand (n : PE) (d a b : BitVec 5) (x : BitVec 9) (find : BankFind) (s : State) : Host.Outcome State Fault Refusal :=
  done s <| s.blk.amoOp n 0x53 3 d a b x find true false
/-- AMOOR (R84): through the fabric everywhere. -/
def execAmoor (n : PE) (d a b : BitVec 5) (x : BitVec 9) (find : BankFind) (s : State) : Host.Outcome State Fault Refusal :=
  done s <| s.blk.amoOp n 0x54 4 d a b x find true false

/-! ## Locked sequences (R84, R90 to R92) -/

/-- LKB (R84, R90): D is loaded, the line lock is taken and the sequence starts. -/
def execLkb (n : PE) (d a b : BitVec 5) (x : BitVec 9) (find : BankFind) (s : State) : Host.Outcome State Fault Refusal :=
  let len := xSize x
  done s <| s.blk.feis n (wordR 0x58 d a b x)
    (fun _ => firstTrap [(decide (2 ≤ x.toNat) || b != 0, .illegal),
      (s.blk.flag (R.ENG_LKSTAT_LKACT n), .lockseq)]) fun e k =>
    let addr := (e.g a.toNat).toNat % 2 ^ 48
    if addr % len ≠ 0 then k.trap n (.access addr .misalign)
    else match k.check n [.read] addr len with
      | some (y, c) => k.trap n (.access y c)
      | none =>
        match (k.countAccess n addr false false).atomic
            (k.engReq n .lockRead addr len [] 0 .now (e.lkSeq + 1) false) find with
        | (k, .error c) => k.trap n (.access addr c)
        | (k, .ok v) =>
          let k := (k.cmpData n true false addr len (leNat v)).modEngine n fun e =>
            { e.setG d.toNat (loadValue v false) with lkLine := some (addr / 64 * 64), lkSeq := e.lkSeq + 1 }
          let k := (k.raise (R.ENG_LKSTAT_LKACT n)).clear (R.ENG_LKSTAT_LKCNT n)
          k.finish n e (nextPc e.pc 4) false false

/-- The end of the active sequence at LKE (R90, R91): a conditional store that failed while LKACT = 1 is a break with
cause remote write; one that stored ends the sequence. -/
def Block.endSequence (b : Block) (n : Nat) (stored : Bool) : Block :=
  if b.flag (R.ENG_LKSTAT_LKACT n) then
    if stored then
      ((b.clear (R.ENG_LKSTAT_LKACT n)).clear (R.ENG_LKSTAT_LKCNT n)).modEngine n fun e => { e with lkLine := none }
    else b.lockBreak n .remote
  else b

/-- LKE (R84, R91, R203): B is stored only if the lock was never lost; C says whether it was. With LKACT = 0 nothing is
stored. -/
def execLke (n : PE) (d a b : BitVec 5) (x : BitVec 9) (find : BankFind) (s : State) : Host.Outcome State Fault Refusal :=
  let len := xSize x
  done s <| s.blk.feis n (wordR 0x59 d a b x)
    (fun _ => if decide (2 ≤ x.toNat) || d != 0 then some .illegal else none) fun e k =>
    let addr := (e.g a.toNat).toNat % 2 ^ 48
    let setC := fun (c : Bool) (k : Block) => k.modEngine n fun e => { e with st := { e.st with c := c } }
    if addr % len ≠ 0 then k.trap n (.access addr .misalign)
    else match k.check n [.read, .write] addr len with
      | some (y, c) => k.trap n (.access y c)
      | none =>
        if !k.flag (R.ENG_LKSTAT_LKACT n) then (setC false k).finish n e (nextPc e.pc 4) false false
        else
          let v := leBytes (e.g b.toNat).toNat len
          match (k.countAccess n addr true false).atomic
              (k.engReq n .condStore addr len v 0 .now e.lkSeq false) find with
          | (k, .error c) => k.trap n (.access addr c)
          | (k, .ok r) =>
            let stored := leNat r == 1
            let k := setC stored ((k.cmpData n true true addr len (leNat v)).endSequence n stored)
            k.finish n e (nextPc e.pc 4) false false

/-- FENCE (R84, R92): completes when every earlier memory request of this engine has taken effect at its target; while one waits
for a repair it does not complete yet (R212). -/
def execFence (n : PE) (d a b : BitVec 5) (x : BitVec 9) (s : State) : Host.Outcome State Fault Refusal :=
  done s <| s.blk.feis n (wordR 0x5A d a b x)
    (fun _ => firstTrap [(d != 0 || a != 0 || b != 0 || x != 0, .illegal),
      (s.blk.flag (R.ENG_LKSTAT_LKACT n), .lockseq)]) fun e k =>
    let k := k.drainAll n
    if k.hasWaiting n then k.trap n (.access 0 .later) else k.finish n e (nextPc e.pc 4) false false

/-! ## Lane halves (R84) -/

/-- VINS (R84): half X[0] of v[D] is A. -/
def execVins (n : PE) (d a b : BitVec 5) (x : BitVec 9) (s : State) : Host.Outcome State Fault Refusal :=
  done s <| s.blk.regOp n (wordR 0x60 d a b x) 4 (decide (2 ≤ x.toNat) || b != 0 || decide (8 ≤ d.toNat)) fun e =>
    let v := e.v d.toNat
    let g := e.g a.toNat
    e.setV d.toNat (if x.getLsbD 0 then join64 g (lo64 v) else join64 (hi64 v) g)

/-- VEXT (R84): D is half X[0] of v[A]. -/
def execVext (n : PE) (d a b : BitVec 5) (x : BitVec 9) (s : State) : Host.Outcome State Fault Refusal :=
  done s <| s.blk.regOp n (wordR 0x61 d a b x) 4 (decide (2 ≤ x.toNat) || b != 0 || decide (8 ≤ a.toNat)) fun e =>
    let v := e.v a.toNat
    e.setG d.toNat (if x.getLsbD 0 then hi64 v else lo64 v)

end Sys2Proof.Machine
end

