-- ==== Sys2Proof/Machine/FeisLong.lean ====
section
/-! DEFINITION. The long resumable instructions BMOV, BFIL, BSCN, BCMP and BSUM and their chunks (R95 to R100). -/
namespace Sys2Proof.Machine

/-! ## Starting and recording (R95, R97, R98) -/

/-- A field rule of every long instruction (R95): three different registers, none of them g31. -/
def longBad (d a rb : BitVec 5) : Bool := d == a || d == rb || a == rb || d == 31 || a == 31 || rb == 31

/-- BMOV's direction, decided at every start (R100): descending where gA < gD < gA + gB. -/
def bmovDown (dst src cnt : Nat) : Bool := decide (src < dst) && decide (dst < src + cnt)

/-- A long instruction starts (R95, R97): its encoding is checked; with a count of 0 it completes in its set-up (`zero`
gives its flags), otherwise its chunks follow. -/
def Block.longOp (b : Block) (n op : Nat) (d a rb : BitVec 5) (x : BitVec 9) (xbits : Nat) (zero : St → St) : Block :=
  b.feis n (wordR op d a rb x)
    (fun _ => firstTrap [(longBad d a rb || decide (2 ^ xbits ≤ x.toNat), .illegal),
      (b.flag (R.ENG_LKSTAT_LKACT n), .lockseq)]) fun e b =>
    if (e.g rb.toNat).toNat = 0 then
      (b.setEngine n { e with st := zero e.st }).finish n e (nextPc e.pc 4) false false
    else b.modEngine n fun e => { e with long := some ⟨op, d.toNat, a.toNat, rb.toNat, x.toNat, true,
      op == 0xB0 && bmovDown ((e.g d.toNat).toNat % 2 ^ 48) ((e.g a.toNat).toNat % 2 ^ 48) (e.g rb.toNat).toNat⟩ }

/-- A long instruction's exception inside a chunk (R98): precise, with RSM = 1 in the saved ST; a chunk whose read waits for a repair
is done later (R212). -/
def Block.longTrap (b : Block) (n addr : Nat) (c : Cause) : Block :=
  if c == .later then b
  else (b.modEngine n fun e => { e with st := { e.st with rsm := true }, long := none }).trap n (.access addr c)

/-- The end of a chunk (R96, R97): the registers record it, and the instruction completes where `last` holds. -/
def Block.longNext (b : Block) (n : Nat) (f : Engine → Engine) (last : Bool) : Block :=
  let b := b.modEngine n fun e => { f e with long := e.long.map fun o => { o with first := false } }
  let e := b.engine n
  if last then b.finish n e (nextPc e.pc 4) false false else b

/-- The bytes of a range that a chunk reads (R96): checked, and then answered by their target. -/
def Block.longRead (b : Block) (n a len : Nat) (find : BankFind) : Block × Except (Nat × Cause) (List Byte) :=
  match (b.countAccess n a false false).load n a len false find with
  | (b, .error c) => (b, .error (a, c))
  | (b, .ok d) => (b.cmpData n true false a len (leNat d), .ok d)

/-- The bytes of a range that a chunk writes (R96). -/
def Block.longWrite (b : Block) (n a : Nat) (d : List Byte) : Block :=
  ((b.countAccess n a true false).postStore n a d false).cmpData n false true a d.length (leNat d)

/-- The check of a range before its first byte (R95, R96): no range ends above the address space. -/
def Block.longCheck (b : Block) (n : Nat) (r : Right) (base total a len : Nat) : Option (Nat × Cause) :=
  if 2 ^ 48 < base + total then some (a, .region) else b.check n [r] a len

/-- The bytes from a pacing pointer to its next 64-byte boundary, or to the end (R96). -/
def chunkLen (p cnt : Nat) : Nat := min cnt (64 - p % 64)

/-- Registers moved on by a recorded chunk. -/
def Engine.addG (e : Engine) (i : Nat) (k : Nat) : Engine := e.setG i (e.g i + BitVec.ofNat 64 k)
/-- The count less a recorded chunk. -/
def Engine.subG (e : Engine) (i : Nat) (k : Nat) : Engine := e.setG i (e.g i - BitVec.ofNat 64 k)

/-! ## The chunks (R96, R100) -/

/-- A chunk of BMOV in the direction that its start decided (R100). -/
def Block.chunkBmov (b : Block) (n : Nat) (o : LongOp) (find : BankFind) : Block :=
  let e := b.engine n
  let dst := (e.g o.d).toNat % 2 ^ 48
  let src := (e.g o.a).toNat % 2 ^ 48
  let cnt := (e.g o.b).toNat
  let down := o.down
  let lo := if down then max dst ((dst + cnt - 1) / 64 * 64) else dst
  let c := if down then dst + cnt - lo else chunkLen dst cnt
  let from' := src + (lo - dst)
  match b.longCheck n .read src cnt from' c with
  | some (x, r) => b.longTrap n x r
  | none =>
    match b.longCheck n .write dst cnt lo c with
    | some (x, r) => b.longTrap n x r
    | none =>
      match b.longRead n from' c find with
      | (b, .error (x, r)) => b.longTrap n x r
      | (b, .ok d) =>
        (b.longWrite n lo d).longNext n
          (fun e => if down then e.subG o.b c else ((e.addG o.d c).addG o.a c).subG o.b c) (c == cnt)

/-- A chunk of BFIL: the byte at address x is byte x mod 8 of gA (R100). -/
def Block.chunkBfil (b : Block) (n : Nat) (o : LongOp) : Block :=
  let e := b.engine n
  let dst := (e.g o.d).toNat % 2 ^ 48
  let cnt := (e.g o.b).toNat
  let c := chunkLen dst cnt
  match b.longCheck n .write dst cnt dst c with
  | some (x, r) => b.longTrap n x r
  | none =>
    let d := (List.range c).map fun i => (e.g o.a).extractLsb' (8 * ((dst + i) % 8)) 8
    (b.longWrite n dst d).longNext n (fun e => (e.addG o.d c).subG o.b c) (c == cnt)

/-- A chunk of BSCN (R100). -/
def Block.chunkBscn (b : Block) (n : Nat) (o : LongOp) (find : BankFind) : Block :=
  let e := b.engine n
  let src := (e.g o.a).toNat % 2 ^ 48
  let cnt := (e.g o.b).toNat
  let c := chunkLen src cnt
  match b.longCheck n .read src cnt src c with
  | some (x, r) => b.longTrap n x r
  | none =>
    match b.longRead n src c find with
    | (b, .error (x, r)) => b.longTrap n x r
    | (b, .ok d) =>
      let sought := (e.g o.d).setWidth 8
      let k := (d.takeWhile (· != sought)).length
      b.longNext n (fun e => { (e.addG o.a k).subG o.b k with st := { e.st with z := if k < c then false
        else if c = cnt then true else e.st.z } }) (decide (k < c) || c == cnt)

/-- A chunk of BCMP (R100). -/
def Block.chunkBcmp (b : Block) (n : Nat) (o : LongOp) (find : BankFind) : Block :=
  let e := b.engine n
  let p := (e.g o.d).toNat % 2 ^ 48
  let q := (e.g o.a).toNat % 2 ^ 48
  let cnt := (e.g o.b).toNat
  let c := chunkLen p cnt
  match b.longCheck n .read p cnt p c with
  | some (x, r) => b.longTrap n x r
  | none =>
    match b.longCheck n .read q cnt q c with
    | some (x, r) => b.longTrap n x r
    | none =>
      match b.longRead n p c find with
      | (b, .error (x, r)) => b.longTrap n x r
      | (b, .ok d) =>
        match b.longRead n q c .clean with
        | (b, .error (x, r)) => b.longTrap n x r
        | (b, .ok f) =>
          let same := (d.zip f).takeWhile fun z => z.1 == z.2
          let k := same.length
          let ge := (f.getD k 0).toNat ≤ (d.getD k 0).toNat
          b.longNext n (fun e => { ((e.addG o.d k).addG o.a k).subG o.b k with st := if k < c then
            { e.st with z := false, c := decide ge } else if c = cnt then { e.st with z := true, c := true } else e.st })
            (decide (k < c) || c == cnt)

/-- A chunk of BSUM: CRC-32C, or with X[0] the sum of the bytes (R100). -/
def Block.chunkBsum (b : Block) (n : Nat) (o : LongOp) (find : BankFind) : Block :=
  let e := b.engine n
  let src := (e.g o.a).toNat % 2 ^ 48
  let cnt := (e.g o.b).toNat
  let c := chunkLen src cnt
  match b.longCheck n .read src cnt src c with
  | some (x, r) => b.longTrap n x r
  | none =>
    match b.longRead n src c find with
    | (b, .error (x, r)) => b.longTrap n x r
    | (b, .ok d) =>
      let v := e.g o.d
      let r : W64 := if o.x % 2 = 1 then d.foldl (fun z y => z + y.setWidth 64) v
        else (crc32c (v.setWidth 32) d).setWidth 64
      b.longNext n (fun e => ((e.setG o.d r).addG o.a c).subG o.b c) (c == cnt)

/-! ## The commands -/

/-- BMOV (R100). -/
def execBmov (n : PE) (d a b : BitVec 5) (x : BitVec 9) (s : State) : Host.Outcome State Fault Refusal :=
  done s <| s.blk.longOp n 0xB0 d a b x 0 id

/-- BFIL (R100). -/
def execBfil (n : PE) (d a b : BitVec 5) (x : BitVec 9) (s : State) : Host.Outcome State Fault Refusal :=
  done s <| s.blk.longOp n 0xB1 d a b x 0 id

/-- BSCN (R100): with a count of 0, Z := 1. -/
def execBscn (n : PE) (d a b : BitVec 5) (x : BitVec 9) (s : State) : Host.Outcome State Fault Refusal :=
  done s <| s.blk.longOp n 0xB2 d a b x 0 fun t => { t with z := true }

/-- BCMP (R100): with a count of 0, Z := 1 and C := 1. -/
def execBcmp (n : PE) (d a b : BitVec 5) (x : BitVec 9) (s : State) : Host.Outcome State Fault Refusal :=
  done s <| s.blk.longOp n 0xB3 d a b x 0 fun t => { t with z := true, c := true }

/-- BSUM (R100): X[0] selects the sum. -/
def execBsum (n : PE) (d a b : BitVec 5) (x : BitVec 9) (s : State) : Host.Outcome State Fault Refusal :=
  done s <| s.blk.longOp n 0xB4 d a b x 1 id

/-- LONG_CHUNK (R96): the next chunk of engine `n`'s long instruction; nothing where none is in progress. `find`: what the
first read of the chunk finds, which the state does not decide (R208, R211, R213, R521). -/
def execLongChunk (n : PE) (find : BankFind) (s : State) : Host.Outcome State Fault Refusal :=
  let b := s.blk
  let e := b.engine n
  done s <|
    if b.runs n && e.wait.isNone && e.hold == .none && !b.trapFirst n then
      match e.long with
      | some o => if e.longCorrupt o then b.feisFault n else match o.op with
        | 0xB0 => b.chunkBmov n o find
        | 0xB1 => b.chunkBfil n o
        | 0xB2 => b.chunkBscn n o find
        | 0xB3 => b.chunkBcmp n o find
        | 0xB4 => b.chunkBsum n o find
        | _ => b
      | none => b
    else b

end Sys2Proof.Machine
end

