-- ==== Sys2Proof/Machine/FeisSys.lean ====
section
/-! DEFINITION. The control-transfer and system instructions (R69 to R73, R76, R77, R87 to R89, R339, R340, R358). -/
namespace Sys2Proof.Machine

/-! ## Control transfer (R87, R88) -/

/-- A transfer to `target` when it is taken, else on in sequence (R87). -/
def Block.branchOp (b : Block) (n word : Nat) (bad : Engine → Bool) (take : Engine → Bool) (target : Engine → Nat)
    (f : Engine → Engine) : Block :=
  b.feis n word (fun e => if bad e then some .illegal else none) fun e b =>
    (b.setEngine n (f e)).finish n e (if take e then target e else nextPc e.pc 4) false (take e)

/-- B (R87). -/
def execB (n : PE) (off : BitVec 24) (s : State) : Host.Outcome State Fault Refusal :=
  done s <| s.blk.branchOp n (wordJ 0x90 off) (fun _ => false) (fun _ => true) (fun e => branchTarget e.pc off.toInt) id

/-- BL (R87): g30 is the link register. -/
def execBl (n : PE) (off : BitVec 24) (s : State) : Host.Outcome State Fault Refusal :=
  done s <| s.blk.branchOp n (wordJ 0x91 off) (fun _ => false) (fun _ => true) (fun e => branchTarget e.pc off.toInt)
    fun e => e.setG 30 (BitVec.ofNat 64 (nextPc e.pc 4))

/-- Bcc (R87, R88): an undefined condition code is ILLEGAL. -/
def execBcc (n : PE) (cc : BitVec 5) (off : BitVec 19) (s : State) : Host.Outcome State Fault Refusal :=
  done s <| s.blk.branchOp n (wordBC 0x92 cc off) (fun _ => !ccDefined cc.toNat) (fun e => e.st.holds cc.toNat)
    (fun e => branchTarget e.pc off.toInt) id

/-- JR (R87): a target with bits [1:0] not 0 is ILLEGAL (R76). -/
def execJr (n : PE) (d a b : BitVec 5) (x : BitVec 9) (s : State) : Host.Outcome State Fault Refusal :=
  done s <| s.blk.branchOp n (wordR 0x93 d a b x)
    (fun e => d != 0 || b != 0 || x != 0 || (e.g a.toNat).toNat % 4 != 0) (fun _ => true)
    (fun e => (e.g a.toNat).toNat % 2 ^ 48) id

/-- JALR (R87): the target is A as it stood. -/
def execJalr (n : PE) (d a b : BitVec 5) (x : BitVec 9) (s : State) : Host.Outcome State Fault Refusal :=
  done s <| s.blk.branchOp n (wordR 0x94 d a b x) (fun e => b != 0 || x != 0 || (e.g a.toNat).toNat % 4 != 0)
    (fun _ => true) (fun e => (e.g a.toNat).toNat % 2 ^ 48)
    fun e => e.setG d.toNat (BitVec.ofNat 64 (nextPc e.pc 4))

/-! ## Software exceptions (R89, R333) -/

/-- An instruction whose own effect is an exception entry with the return address PC + 4 (R89); a pending FPTRAP is taken
in its place (R121). -/
def Block.softTrap (b : Block) (n word vec : Nat) (bad : Bool) : Block :=
  b.feis n word (fun _ => firstTrap [(bad, .illegal), (b.flag (R.ENG_LKSTAT_LKACT n), .lockseq)]) fun e b =>
    if e.fpt.isSome then b.takeFpTrap n e.pc.toNat else b.except n vec (nextPc e.pc 4)

/-- SYSCALL (R89): vector 9. -/
def execSyscall (n : PE) (code : BitVec 24) (s : State) : Host.Outcome State Fault Refusal :=
  done s <| s.blk.softTrap n (wordJ 0xA0 code) 9 (decide (2 ^ 16 ≤ code.toNat))

/-- BREAK (R89): vector 8. -/
def execBreak (n : PE) (code : BitVec 24) (s : State) : Host.Outcome State Fault Refusal :=
  done s <| s.blk.softTrap n (wordJ 0xA1 code) 8 (decide (2 ^ 16 ≤ code.toNat))

/-- TRAP (R89): vector n of 32 or above; a lower one is ILLEGAL. -/
def execTrap (n : PE) (code : BitVec 24) (s : State) : Host.Outcome State Fault Refusal :=
  done s <| s.blk.softTrap n (wordJ 0xA2 code) code.toNat (decide (2 ^ 8 ≤ code.toNat) || decide (code.toNat < 32))

/-- GCALL (R89, R340): through gate CODE24[7:0] into the other world. -/
def execGcall (n : PE) (code : BitVec 24) (s : State) : Host.Outcome State Fault Refusal :=
  done s <| s.blk.feis n (wordJ 0xA3 code)
    (fun _ => firstTrap [(decide (2 ^ 8 ≤ code.toNat), .illegal), (s.blk.flag (R.ENG_LKSTAT_LKACT n), .lockseq)])
    fun e b =>
      if e.fpt.isSome then b.takeFpTrap n e.pc.toNat
      else match b.readDesc n code.toNat (!e.st.tw) with
        | (b, .good d) =>
          if d.gateOk code.toNat e.st.sup then b.crossGate n code.toNat d (nextPc e.pc 4) else b.trap n .gate
        | (b, _) => b.trap n .gate

/-! ## Return from exception (R339) -/

/-- The end of monitor mode at its RTE (R345, R467, R468): the mode clears, the watchdog's count is at least GRACE, and the
first instruction dispatched meets no instruction-address comparator. -/
def Block.leaveMonitor (b : Block) (n : Nat) : Block :=
  let b := ((b.wdgGrace n).clear (R.ENG_DBGSTAT_MONITOR n)).modEngine n fun e => { e with monFrame := none, skipIaddr := true }
  b.traceResume n

/-- RTE (R89, R339): the frame at the current level's g31 is popped. At VU or TU it raises PRIV. An RTE that pops the
frame the monitor's entry pushed ends monitor mode (R467). -/
def execRte (n : PE) (code : BitVec 24) (find : BankFind) (s : State) : Host.Outcome State Fault Refusal :=
  done s <| s.blk.feis n (wordJ 0xA4 code)
    (fun e => firstTrap [(code != 0, .illegal), (!e.st.sup, .priv), (s.blk.flag (R.ENG_LKSTAT_LKACT n), .lockseq)])
    fun e b =>
      if e.fpt.isSome then b.takeFpTrap n e.pc.toNat
      else
        let sp := e.g 31
        let a := sp.toNat % 2 ^ 48
        match b.check n [.read] a 16 with
        | some (x, c) => b.trap n (.access x c)
        | none =>
          match b.load n a 16 false find with
          | (b, .error c) => b.trap n (.access a c)
          | (b, .ok v) =>
            let ra := leNat (v.take 8)
            let st := St.ofWord (BitVec.ofNat 64 (leNat (v.drop 8)))
            if ra.testBit 1 then b.trap n .illegal
            else if e.st.tw && !st.tw then b.trap n .priv
            else
              let b := b.modEngine n fun e => e.popFrame (ra % 2 ^ 48) st
              let b := ((b.countEng n 0x03).countEng n 0x0D).traceCount n
              let b := b.emitFlow n 2 0 0 (ra % 2 ^ 48 / 4 * 4)
              let b := if b.flag (R.ENG_DBGSTAT_MONITOR n) && e.monFrame == some sp && !e.st.tw then
                  b.leaveMonitor n else b
              if e.st.ss then b.except n 1 (ra % 2 ^ 48 / 4 * 4) else b

/-! ## WFI, ST and the special registers (R69, R73, R89, R358) -/

/-- The executing world's target has its interrupt line or its doorbell line high (R358). -/
def Block.wfiDone (b : Block) (n : Nat) : Bool := b.irqLine (b.targetOf n) || b.dbLine (b.targetOf n)

/-- WFI (R89, R358): completes when a line of the executing world's target is high, whatever IE holds; otherwise the
engine waits at it, its clock running. Executed again while it waits, it is evaluated again (R37). -/
def execWfi (n : PE) (code : BitVec 24) (s : State) : Host.Outcome State Fault Refusal :=
  let b := if (s.blk.engine n).hold == .wfi && !s.blk.trapFirst n then s.blk.modEngine n fun e => { e with hold := .none }
    else s.blk
  done s <| b.feis n (wordJ 0xA5 code)
    (fun e => firstTrap [(code != 0, .illegal), (!e.st.sup, .priv), (b.flag (R.ENG_LKSTAT_LKACT n), .lockseq)])
    fun e b =>
      if b.wfiDone n then b.finish n e (nextPc e.pc 4) false false
      else b.modEngine n fun e => { e with hold := .wfi }

/-- MFST (R89). -/
def execMfst (n : PE) (d a b : BitVec 5) (x : BitVec 9) (s : State) : Host.Outcome State Fault Refusal :=
  done s <| s.blk.regOp n (wordR 0xA6 d a b x) 4 (a != 0 || b != 0 || x != 0) fun e => e.setG d.toNat e.st.word

/-- ST as MTST leaves it (R69): TW and SUP never change, and SS, IE and RSM only at a supervisor level. -/
def St.moved (s w : St) : St :=
  { w with
    tw := s.tw, sup := s.sup, ss := if s.sup then w.ss else s.ss, ie := if s.sup then w.ie else s.ie,
    rsm := if s.sup then w.rsm else s.rsm }

/-- MTST (R69, R89); inside a locked sequence it is allowed (R92). -/
def execMtst (n : PE) (d a b : BitVec 5) (x : BitVec 9) (s : State) : Host.Outcome State Fault Refusal :=
  done s <| s.blk.regOp n (wordR 0xA7 d a b x) 4 (d != 0 || b != 0 || x != 0) fun e =>
    Engine.recode { e with st := e.st.moved (St.ofWord (e.g a.toNat)) } [128]

/-- The levels that may read a special register, and whether the number is in the table (R73). -/
def srReadable (s : St) (r : Nat) : Bool :=
  if r < 6 then s.sup else if r = 6 then !s.tw else true

/-- ENGID of engine `n` (R73). -/
def Block.engId (b : Block) (n : Nat) : W64 := BitVec.ofNat 64 ((b.leOf n).getD 0 + 2 ^ 8 * n)

/-- A special register as the executing world reads it (R73); the ticks that CYCLE has counted since it was last read are free
(log entries 3 and 11). -/
def Block.readSr (b : Block) (n r : Nat) : W64 :=
  let e := b.engine n
  let w := e.st.world
  match r with
  | 0 => (e.ctxid.get w 0).setWidth 64
  | 1 => (e.vbase.get w 0).setWidth 64
  | 2 => (e.ftpc.get w 0).setWidth 64
  | 3 => (e.faddr.get w 0).setWidth 64
  | 4 => (e.fcause.get w 0).setWidth 64
  | 5 => e.sp.get (2 * w + 1) 0
  | 6 => b.engId n
  | _ => e.cycle + b.freeWord

/-- A special register written (R73, R331: VBASE[12:0] ignore writes). -/
def Engine.writeSr (e : Engine) (r : Nat) (v : W64) : Engine :=
  let w := e.st.world
  match r with
  | 0 => { e with ctxid := e.ctxid.put w (v.setWidth 32) }
  | 1 => { e with vbase := e.vbase.put w (BitVec.ofNat 48 (v.toNat % 2 ^ 48 / 2 ^ 13 * 2 ^ 13)) }
  | 2 => { e with ftpc := e.ftpc.put w (v.setWidth 48) }
  | 3 => { e with faddr := e.faddr.put w (v.setWidth 48) }
  | 4 => { e with fcause := e.fcause.put w (v.setWidth 8) }
  | 5 => Engine.recode { e with sp := e.sp.put (2 * w + 1) v } [62 + (2 * w + 1)]
  | _ => e

/-- MFSR (R73, R89): a number outside the table is ILLEGAL, a level the table does not allow raises PRIV. -/
def execMfsr (n : PE) (d a : BitVec 5) (imm : BitVec 14) (s : State) : Host.Outcome State Fault Refusal :=
  done s <| s.blk.feis n (wordI 0xA8 d a imm)
    (fun e => firstTrap [(a != 0 || decide (8 ≤ imm.toNat), .illegal), (!srReadable e.st imm.toNat, .priv)])
    fun e b =>
      let v := b.readSr n imm.toNat
      let b := if imm.toNat = 7 then b.drawn else b
      let e1 := if imm.toNat = 7 then { e with cycle := v } else e
      (b.setEngine n (e1.setG d.toNat v)).finish n e (nextPc e.pc 4) false false

/-- MTSR (R73, R89): no level may write ENGID or CYCLE. -/
def execMtsr (n : PE) (d a : BitVec 5) (imm : BitVec 14) (s : State) : Host.Outcome State Fault Refusal :=
  done s <| s.blk.feis n (wordI 0xA9 d a imm)
    (fun e => firstTrap [(d != 0 || decide (8 ≤ imm.toNat), .illegal),
      (!e.st.sup || decide (6 ≤ imm.toNat), .priv), (s.blk.flag (R.ENG_LKSTAT_LKACT n), .lockseq)])
    fun e b => (b.setEngine n (e.writeSr imm.toNat (e.g a.toNat))).finish n e (nextPc e.pc 4) false false

/-- ISYNC (R77, R89): the instruction buffer is discarded. -/
def execIsync (n : PE) (code : BitVec 24) (s : State) : Host.Outcome State Fault Refusal :=
  done s <| s.blk.feis n (wordJ 0xAA code)
    (fun _ => firstTrap [(code != 0, .illegal), (s.blk.flag (R.ENG_LKSTAT_LKACT n), .lockseq)])
    fun e b => (b.setEngine n { e with ibuf := [] }).finish n e (nextPc e.pc 4) false false

/-- NOP (R89). -/
def execNop (n : PE) (code : BitVec 24) (s : State) : Host.Outcome State Fault Refusal :=
  done s <| s.blk.feis n (wordJ 0xAB code) (fun _ => if code != 0 then some .illegal else none)
    fun e b => b.finish n e (nextPc e.pc 4) false false

/-- CUSTOMER_OPCODE (R75, R178): an opcode that is not defined raises ILLEGAL: one in 0xC0 to 0xEF that the image does not
define, and every other one that no instruction of the tables has. One that the image defines runs its microcode, which MICROWORD
executes from the dispatch word on, so nothing else happens here. The opcode of an instruction of the tables is no customer's
(WellFormed). -/
def execCustomerOpcode (n : PE) (word : W64) (defined : Bool) (s : State) : Host.Outcome State Fault Refusal :=
  if customerOk word then
    done s <| s.blk.feis n word.toNat (fun _ => if defined && isCustomer word then none else some .illegal)
      fun _ b => b.modEngine n fun e => { e with trapPt := none }
  else .fault .illFormed

end Sys2Proof.Machine
end

