-- ==== Sys2Proof/Machine/Codec.lean ====
section
/-! DEFINITION. The formats that the decoders and compressors of the kernel library name (05, R164, R165): the LZ4 block and frame
formats, and Zstandard frames. Their layouts stand in the LZ4 format descriptions and in RFC 8878, which the spec cites and does not
repeat (log entry 56). -/
namespace Sys2Proof.Machine

/-! ## What a decoder makes -/

/-- How a decoder stops: its input ends where its format lets it end, its input ends too soon or is not all there yet, its format is
broken, or it asks for a feature that R165 leaves out. -/
inductive DecEnd where
  | done
  | more
  | corrupt
  | unsupp
deriving DecidableEq, Repr

/-- A decoder under way: the input not yet taken and the count of what is, the output made, newest byte first, each with the input
that was taken for it, the output made at each skipped checksum (R165), and for a compressor's own check where the last match began
and ended and where the last whole sequence or block ended. -/
structure Dec where
  inp : List Byte
  pos : Nat
  out : List (Byte × Nat)
  skips : List Nat
  matchAt : Nat
  matchEnd : Nat
  edge : Nat
deriving DecidableEq, Repr

/-- A decoder at the start of its input. -/
def Dec.start (inp : List Byte) : Dec := ⟨inp, 0, [], [], 0, 0, 0⟩

/-- `k` input bytes taken. -/
def Dec.skip (d : Dec) (k : Nat) : Dec := { d with inp := d.inp.drop k, pos := d.pos + k }

/-- The number in the next `k` input bytes, little-endian, where they are there. -/
def Dec.num (d : Dec) (k : Nat) : Option Nat := if k ≤ d.inp.length then some (leNat (d.inp.take k)) else none

/-- One byte made of the input taken so far. -/
def Dec.push (d : Dec) (x : Byte) : Dec := { d with out := (x, d.pos) :: d.out }

/-- Input bytes copied to the output, as many of `n` as are there. -/
def Dec.copy : Nat → Dec → Dec
  | 0, d => d
  | n + 1, d =>
    match d.inp with
    | [] => d
    | x :: _ => Dec.copy n ((d.skip 1).push x)

/-- A byte made `n` times. -/
def Dec.rep (x : Byte) : Nat → Dec → Dec
  | 0, d => d
  | n + 1, d => Dec.rep x n (d.push x)

/-- A match: `n` bytes from `off` bytes back. -/
def Dec.back (off : Nat) : Nat → Dec → Dec
  | 0, d => d
  | n + 1, d => Dec.back off n (d.push ((d.out.getD (off - 1) (0, 0)).1))

/-- A checksum of four bytes skipped (R165), where it is there. -/
def Dec.skipSum (d : Dec) : Option Dec := if 4 ≤ d.inp.length then some { d.skip 4 with skips := d.out.length :: d.skips } else none

/-- What the input's end means: a broken format where it is all there, else more is to come. -/
def short (whole : Bool) : DecEnd := if whole then .corrupt else .more

/-- The output in order. -/
def Dec.bytes (d : Dec) : List Byte := (d.out.map (·.1)).reverse

/-! ## LZ4 blocks -/

/-- An LZ4 length beyond its four bits: bytes of 255 and one that is not; the sum and the bytes it takes. -/
def lz4More : List Byte → Nat → Nat → Option (Nat × Nat)
  | [], _, _ => none
  | x :: t, s, k => if x = 255 then lz4More t (s + 255) (k + 1) else some (s + x.toNat, k + 1)

/-- An LZ4 length whose four bits are `v`. -/
def lz4Len (v : Nat) (inp : List Byte) : Option (Nat × Nat) := if v < 15 then some (v, 0) else lz4More inp 15 0

/-- The match of a sequence whose token's low bits are `m` (offset, then length); offsets reach back to output byte `base`. -/
def lz4Match (whole : Bool) (base m : Nat) (d : Dec) : Dec × DecEnd :=
  match d.num 2 with
  | none => (d, short whole)
  | some off =>
    match lz4Len m (d.inp.drop 2) with
    | none => (d, short whole)
    | some (n, k) =>
      if off = 0 ∨ d.out.length - base < off then (d, .corrupt)
      else
        let d' := (d.skip (2 + k)).back off (n + 4)
        ({ d' with matchAt := d.out.length, matchEnd := d'.out.length, edge := d'.pos }, .done)

/-- Sequences of an LZ4 block up to its end, which comes after literals; `whole`: its input is all there. -/
def lz4Seqs (whole : Bool) (base : Nat) : Nat → Dec → Dec × DecEnd
  | 0, d => (d, .corrupt)
  | f + 1, d =>
    match d.num 1 with
    | none => (d, short whole)
    | some t =>
      match lz4Len (t / 16) (d.inp.drop 1) with
      | none => (d, short whole)
      | some (n, k) =>
        let d := d.skip (1 + k)
        let have' := d.inp.length
        let d := d.copy n
        if have' < n then (d, short whole)
        else if d.inp.isEmpty then (d, if whole then .done else .more)
        else match lz4Match whole base (t % 16) d with
          | (d, .done) => lz4Seqs whole base f d
          | r => r

/-- LZ4D: one LZ4 block is the whole input (R165). -/
def lz4Block (whole : Bool) (inp : List Byte) : Dec × DecEnd := lz4Seqs whole 0 (inp.length + 1) (Dec.start inp)

/-! ## LZ4 frames -/

/-- A 32-bit number rotated left. -/
def rotl32 (v k : Nat) : Nat := (v * 2 ^ k + v / 2 ^ (32 - k)) % 2 ^ 32

/-- The words of xxHash-32's short path. -/
def xxWords : Nat → List Byte → Nat → Nat
  | 0, _, h => h
  | f + 1, d, h =>
    if 4 ≤ d.length then xxWords f (d.drop 4) (rotl32 ((h + leNat (d.take 4) * 3266489917) % 2 ^ 32) 17 * 668265263 % 2 ^ 32)
    else d.foldl (fun h x => rotl32 ((h + x.toNat * 374761393) % 2 ^ 32) 11 * 2654435761 % 2 ^ 32) h

/-- xxHash-32 with seed 0 of fewer than 16 bytes. -/
def xxh32 (d : List Byte) : Nat :=
  let h := xxWords (d.length + 1) d ((374761393 + d.length) % 2 ^ 32)
  let h := Nat.xor h (h / 2 ^ 15) * 2246822519 % 2 ^ 32
  let h := Nat.xor h (h / 2 ^ 13) * 3266489917 % 2 ^ 32
  Nat.xor h (h / 2 ^ 16)

/-- What a frame's header says of its blocks: their offsets stay inside a block, a block's and the content's checksum, the largest
block, the content's size. -/
structure Lz4Frame where
  indep : Bool
  blockSum : Bool
  sum : Bool
  max : Nat
  size : Option Nat
deriving DecidableEq, Repr

/-- One data block of a frame, of `n` input bytes; `first` is the output at the frame's start. -/
def lz4FrameBlock (whole : Bool) (fr : Lz4Frame) (first n : Nat) (raw : Bool) (d : Dec) : Dec × DecEnd :=
  let start := d.out.length
  let there := n ≤ d.inp.length
  let r : Dec × DecEnd :=
    if raw then (d.copy n, if there then .done else short whole)
    else
      let rest := d.inp.drop n
      let x := lz4Seqs there (if fr.indep then start else first) (n + 1) { d with inp := d.inp.take n }
      ({ x.1 with inp := rest }, if !there && whole && x.2 == .more then .corrupt else x.2)
  match r with
  | (d, .done) =>
    if fr.max < d.out.length - start then (d, .corrupt)
    else if fr.blockSum then
      match d.skipSum with
      | some d => (d, .done)
      | none => (d, short whole)
    else (d, .done)
  | r => r

/-- The blocks of a frame up to its end mark. -/
def lz4FrameBlocks (whole : Bool) (fr : Lz4Frame) (first : Nat) : Nat → Dec → Dec × DecEnd
  | 0, d => (d, .corrupt)
  | f + 1, d =>
    match d.num 4 with
    | none => (d, short whole)
    | some w =>
      let d := d.skip 4
      if w = 0 then
        let sized := fr.size.all (· == d.out.length - first)
        if !sized then (d, .corrupt)
        else if fr.sum then
          match d.skipSum with
          | some d => (d, .done)
          | none => (d, short whole)
        else (d, .done)
      else if fr.max < w % 2 ^ 31 then (d, .corrupt)
      else match lz4FrameBlock whole fr first (w % 2 ^ 31) (decide (2 ^ 31 ≤ w)) d with
        | (d, .done) => lz4FrameBlocks whole fr first f { d with edge := d.pos }
        | r => r

/-- The rest of a frame's header behind its magic number, and its blocks; a dictionary ID is not supported (R165). -/
def lz4FrameBody (whole : Bool) (d : Dec) : Dec × DecEnd :=
  match d.num 2 with
  | none => (d, short whole)
  | some v =>
    let flg := v % 256
    let bd := v / 256
    let n := 2 + (if flg.testBit 3 then 8 else 0) + (if flg.testBit 0 then 4 else 0)
    if flg / 64 != 1 || flg.testBit 1 || bd.testBit 7 || bd % 16 != 0 || decide (bd / 16 < 4) then (d, .corrupt)
    else if flg.testBit 0 then (d, .unsupp)
    else if d.inp.length < n + 1 then (d, short whole)
    else if xxh32 (d.inp.take n) / 256 % 256 != leNat ((d.inp.drop n).take 1) then (d, .corrupt)
    else
      let size := if flg.testBit 3 then some (leNat ((d.inp.drop 2).take 8)) else none
      let d := d.skip (n + 1)
      lz4FrameBlocks whole ⟨flg.testBit 5, flg.testBit 4, flg.testBit 2, 2 ^ (8 + 2 * (bd / 16)), size⟩ d.out.length
        (d.inp.length + 1) { d with edge := d.pos }

/-- A frame that both formats skip whole. -/
def skipFrame (whole : Bool) (d : Dec) : Dec × DecEnd :=
  match (d.skip 4).num 4 with
  | none => (d, short whole)
  | some n => if d.inp.length < 8 + n then (d, short whole) else (d.skip (8 + n), .done)

/-- Frames one after another up to the end of the input, each behind its magic number. -/
def framesOf (whole : Bool) (body : Nat → Dec → Dec × DecEnd) : Nat → Dec → Dec × DecEnd
  | 0, d => (d, .corrupt)
  | f + 1, d =>
    if d.inp.isEmpty then (d, if whole then .done else .more)
    else match d.num 4 with
      | none => (d, short whole)
      | some m =>
        match if m / 16 = 0x184D2A5 then skipFrame whole d else body m d with
        | (d, .done) => framesOf whole body f d
        | r => r

/-- LZ4FD: LZ4 frames (R165). -/
def lz4Frames (whole : Bool) (inp : List Byte) : Dec × DecEnd :=
  framesOf whole (fun m d => if m = 0x184D2204 then lz4FrameBody whole (d.skip 4) else (d, .corrupt)) (inp.length + 1) (Dec.start inp)

/-! ## Zstandard: bits and tables (RFC 8878, 4) -/

/-- The number of bits below the highest set bit. -/
def log2 (v : Nat) : Nat := Nat.log2 v

/-- Bits read from the end of a number towards its start: what is left, and how many bits lie below; fewer than 0 where too many have
been read. -/
structure BackBits where
  v : Nat
  left : Int
deriving DecidableEq, Repr

/-- A bit stream that is read backwards begins below the highest set bit of its last byte, which is not 0. -/
def BackBits.ofBytes (d : List Byte) : Option BackBits :=
  if d.getLast?.all (· == 0) then none else some ⟨leNat d, log2 (leNat d)⟩

/-- The next `n` bits, those past the start 0. -/
def BackBits.peek (s : BackBits) (n : Nat) : Nat :=
  if (n : Int) ≤ s.left then bitsOf s.v (s.left - n).toNat n
  else if s.left < 0 then 0
  else s.v % 2 ^ s.left.toNat * 2 ^ (n - s.left.toNat)

/-- `n` bits read. -/
def BackBits.take (s : BackBits) (n : Nat) : BackBits := { s with left := s.left - n }

/-- The zeros that follow a probability of 0, two bits at a time; the bits they take. -/
def fseZeros (v : Nat) : Nat → Nat → Nat → Nat × Nat
  | 0, z, p => (z, p)
  | f + 1, z, p =>
    let r := bitsOf v p 2
    if r = 3 then fseZeros v f (z + 3) (p + 2) else (z + r, p + 2)

/-- Normalised counts (RFC 8878, 4.1.1), newest first: what is left to give out, the bit position. -/
def fseCounts (v syms : Nat) : Nat → Nat → Nat → List Int → Option (List Int × Nat)
  | 0, _, _, _ => none
  | f + 1, left, p, acc =>
    if left = 0 then some (acc, p)
    else if syms ≤ acc.length then none
    else
      let n := log2 (left + 1) + 1
      let x := bitsOf v p n
      let low := x % 2 ^ (n - 1)
      let cut := 2 ^ n - 1 - (left + 1)
      let r : Nat × Nat := if low < cut then (low, n - 1) else if 2 ^ (n - 1) ≤ x then (x - cut, n) else (x, n)
      let c := (r.1 : Int) - 1
      if left < c.natAbs then none
      else if c = 0 then
        let z := fseZeros v (syms + 1) 0 (p + r.2)
        fseCounts v syms f left z.2 (List.replicate z.1 0 ++ 0 :: acc)
      else fseCounts v syms f (left - c.natAbs) (p + r.2) (c :: acc)

/-- A decoding table: its accuracy, and for each state the symbol, the bits to read and the base of the next state. -/
structure FseTable where
  al : Nat
  rows : List (Nat × Nat × Nat)
deriving DecidableEq, Repr

/-- The symbol of each state (RFC 8878, 4.1.1): symbols below 1 lie at the end, the others are spread in steps. -/
def fseSpread (al : Nat) (counts : List Int) : List (Nat × Nat) :=
  let size := 2 ^ al
  let tagged := counts.zipIdx
  let few := (tagged.filter fun p => p.1 == -1).map (·.2)
  let many := tagged.flatMap fun p => List.replicate p.1.toNat p.2
  let step := size / 2 + size / 8 + 3
  let places := ((List.range size).map fun i => i * step % size).filter fun i => decide (i < size - few.length)
  (few.zipIdx.map fun p => (size - 1 - p.2, p.1)) ++ places.zip many

/-- The table of normalised counts. -/
def FseTable.ofCounts (al : Nat) (counts : List Int) : FseTable :=
  let spread := fseSpread al counts
  let row := fun (r : List (Nat × Nat × Nat) × List Nat) (s : Nat) =>
    let x := (spread.lookup s).getD 0
    let k := r.2.getD x 1
    let nb := al - log2 k
    ((x, nb, k * 2 ^ nb - 2 ^ al) :: r.1, r.2.set x (k + 1))
  ⟨al, ((List.range (2 ^ al)).foldl row ([], counts.map fun c => max 1 c.natAbs)).1.reverse⟩

/-- A table of one symbol. -/
def FseTable.single (x : Nat) : FseTable := ⟨0, [(x, 0, 0)]⟩

/-- The symbol of a state. -/
def FseTable.sym (t : FseTable) (s : Nat) : Nat := (t.rows.getD s (0, 0, 0)).1

/-- The next state. -/
def FseTable.next (t : FseTable) (s : Nat) (bits : BackBits) : Nat × BackBits :=
  let r := t.rows.getD s (0, 0, 0)
  (r.2.2 + bits.peek r.2.1, bits.take r.2.1)

/-- A table description at the start of some bytes: the table and the bytes it takes. -/
def FseTable.read (most syms : Nat) (d : List Byte) : Option (FseTable × Nat) :=
  let v := leNat d
  let al := v % 16 + 5
  if d.isEmpty || decide (most < al) then none
  else match fseCounts v syms (2 * syms + 2 ^ al + 1) (2 ^ al) 4 [] with
    | some (acc, p) =>
      if 8 * d.length < p ∨ syms < acc.length then none else some (FseTable.ofCounts al acc.reverse, (p + 7) / 8)
    | none => none

/-! ## Zstandard: literals (RFC 8878, 3.1.1.3.1, 4.2) -/

/-- Huffman weights from two states that take turns, newest first. -/
def hufWeights (t : FseTable) : Nat → Nat → Nat → BackBits → List Nat → List Nat
  | 0, _, _, _, acc => acc
  | f + 1, a, b, s, acc =>
    let acc := t.sym a :: acc
    let r := t.next a s
    if r.2.left < 0 then t.sym b :: acc else hufWeights t f b r.1 r.2 acc

/-- A Huffman table: its depth, and for each value of that many bits the symbol and the length of its code. -/
structure HufTable where
  depth : Nat
  rows : List (Nat × Nat)
deriving DecidableEq, Repr

/-- The table of some weights, the last of which is not written. -/
def HufTable.ofWeights (ws : List Nat) : Option HufTable :=
  let sum := (ws.map fun w => if w = 0 then 0 else 2 ^ (w - 1)).sum
  if sum = 0 then none
  else
    let depth := log2 sum + 1
    let left := 2 ^ depth - sum
    if 11 < depth ∨ 2 ^ log2 left ≠ left ∨ 255 < ws.length then none
    else
      let tagged := (ws ++ [log2 left + 1]).zipIdx
      some ⟨depth, (List.range depth).flatMap fun i =>
        (tagged.filter (·.1 == i + 1)).flatMap fun p => List.replicate (2 ^ i) (p.2, depth - i)⟩

/-- A tree description at the start of some bytes: the table and the bytes it takes. -/
def HufTable.read (d : List Byte) : Option (HufTable × Nat) :=
  match d with
  | [] => none
  | h :: t =>
    let n := h.toNat
    if 128 ≤ n then
      let m := (n - 127 + 1) / 2
      if t.length < m then none
      else (HufTable.ofWeights (((t.take m).flatMap fun x => [x.toNat / 16, x.toNat % 16]).take (n - 127))).map (·, 1 + m)
    else if t.length < n then none
    else match FseTable.read 6 13 (t.take n) with
      | none => none
      | some (f, k) => match BackBits.ofBytes ((t.take n).drop k) with
        | none => none
        | some s =>
          let a := s.peek f.al
          let s := s.take f.al
          let b := s.peek f.al
          let s := s.take f.al
          if s.left < 0 then none
          else (HufTable.ofWeights (hufWeights f 256 a b s []).reverse).map (·, 1 + n)

/-- `n` literals of one stream, which they take whole. -/
def hufStream (t : HufTable) : Nat → BackBits → List Byte → Option (List Byte)
  | 0, s, acc => if s.left = 0 then some acc.reverse else none
  | n + 1, s, acc =>
    let r := t.rows.getD (s.peek t.depth) (0, 0)
    if s.left < r.2 then none else hufStream t n (s.take r.2) (BitVec.ofNat 8 r.1 :: acc)

/-- `n` literals of a stream's bytes. -/
def hufBytes (t : HufTable) (n : Nat) (d : List Byte) : Option (List Byte) := (BackBits.ofBytes d).bind fun s => hufStream t n s []

/-- `n` literals of one stream, or of four behind their jump table. -/
def hufLiterals (t : HufTable) (four : Bool) (n : Nat) (d : List Byte) : Option (List Byte) :=
  if !four then hufBytes t n d
  else if d.length < 6 ∨ n < 6 then none
  else
    let s := fun i => leNat ((d.drop (2 * i)).take 2)
    let q := (n + 3) / 4
    let d := d.drop 6
    if d.length < s 0 + s 1 + s 2 ∨ n < 3 * q then none
    else do
      let a ← hufBytes t q (d.take (s 0))
      let b ← hufBytes t q ((d.drop (s 0)).take (s 1))
      let c ← hufBytes t q ((d.drop (s 0 + s 1)).take (s 2))
      let e ← hufBytes t (n - 3 * q) (d.drop (s 0 + s 1 + s 2))
      return a ++ b ++ c ++ e

/-- What the blocks of a frame hand on: the literals' table, the three sequence tables, the three offsets. -/
structure ZCarry where
  huf : Option HufTable
  ll : Option FseTable
  off : Option FseTable
  ml : Option FseTable
  rep : Nat × Nat × Nat
deriving DecidableEq, Repr

/-- What a frame's first block finds. -/
def ZCarry.start : ZCarry := ⟨none, none, none, none, (1, 4, 8)⟩

/-- The literals section at the start of a block: the literals, the bytes it takes, the table. -/
def zLiterals (z : ZCarry) (d : List Byte) : Option (List Byte × Nat × Option HufTable) :=
  match d with
  | [] => none
  | h :: _ =>
    let kind := h.toNat % 4
    let sf := h.toNat / 4 % 4
    if kind < 2 then
      let k := if sf % 2 = 0 then 1 else if sf = 1 then 2 else 3
      let n := leNat (d.take k) / (if sf % 2 = 0 then 8 else 16)
      if d.length < k + (if kind = 0 then n else 1) then none
      else if kind = 0 then some ((d.drop k).take n, k + n, z.huf)
      else some (List.replicate n (d.getD k 0), k + 1, z.huf)
    else
      let k := if sf < 2 then 3 else sf + 2
      let w := if sf < 2 then 10 else if sf = 2 then 14 else 18
      let v := leNat (d.take k) / 16
      let n := v % 2 ^ w
      let c := v / 2 ^ w % 2 ^ w
      if d.length < k + c then none
      else
        let body := (d.drop k).take c
        match if kind = 3 then z.huf.map (·, 0) else HufTable.read body with
        | none => none
        | some (t, u) => (hufLiterals t (sf != 0) n (body.drop u)).map (·, k + c, some t)

/-! ## Zstandard: sequences (RFC 8878, 3.1.1.3.2) -/

/-- Base and extra bits of a literals length code. -/
def zLL (c : Nat) : Nat × Nat :=
  if c < 16 then (c, 0)
  else [(16, 1), (18, 1), (20, 1), (22, 1), (24, 2), (28, 2), (32, 3), (40, 3), (48, 4), (64, 6), (128, 7), (256, 8), (512, 9),
    (1024, 10), (2048, 11), (4096, 12), (8192, 13), (16384, 14), (32768, 15), (65536, 16)].getD (c - 16) (0, 0)

/-- Base and extra bits of a match length code. -/
def zML (c : Nat) : Nat × Nat :=
  if c < 32 then (c + 3, 0)
  else [(35, 1), (37, 1), (39, 1), (41, 1), (43, 2), (47, 2), (51, 3), (59, 3), (67, 4), (83, 4), (99, 5), (131, 7), (259, 8),
    (515, 9), (1027, 10), (2051, 11), (4099, 12), (8195, 13), (16387, 14), (32771, 15), (65539, 16)].getD (c - 32) (0, 0)

/-- The predefined counts of literals lengths, match lengths and offsets. -/
def zDefLL : List Int := [4, 3] ++ List.replicate 11 2 ++ [1, 1, 1] ++ List.replicate 9 2 ++ [3, 2] ++ List.replicate 5 1 ++
  List.replicate 4 (-1)
def zDefML : List Int := [1, 4, 3] ++ List.replicate 6 2 ++ List.replicate 37 1 ++ List.replicate 7 (-1)
def zDefOff : List Int := List.replicate 6 1 ++ List.replicate 3 2 ++ List.replicate 15 1 ++ List.replicate 5 (-1)

/-- One of the three tables by its mode: predefined, of one symbol, described, or the block's before; and the bytes it takes. -/
def zTable (mode most syms al : Nat) (dflt : List Int) (was : Option FseTable) (d : List Byte) : Option (FseTable × Nat) :=
  match mode with
  | 0 => some (FseTable.ofCounts al dflt, 0)
  | 1 => match d with
    | [] => none
    | x :: _ => if syms ≤ x.toNat then none else some (FseTable.single x.toNat, 1)
  | 2 => FseTable.read most syms d
  | _ => was.map (·, 0)

/-- The offset of a sequence and the three kept offsets after it. -/
def zOffset (v ll : Nat) (r : Nat × Nat × Nat) : Nat × Nat × Nat × Nat :=
  if 3 < v then (v - 3, v - 3, r.1, r.2.1)
  else
    let i := if ll = 0 then v else v - 1
    match i with
    | 0 => (r.1, r)
    | 1 => (r.2.1, r.2.1, r.1, r.2.2)
    | 2 => (r.2.2, r.2.2, r.1, r.2.1)
    | _ => (r.1 - 1, r.1 - 1, r.1, r.2.1)

/-- Literals of a sequence put out. -/
def Dec.pushes (xs : List Byte) (d : Dec) : Dec := xs.foldl Dec.push d

/-- The sequences of a block, and its last literals; an offset reaches back to output byte `first` and `win` bytes at most. -/
def zSeqs (first win : Nat) (tl to' tm : FseTable) : Nat → Nat → Nat → Nat → BackBits → List Byte → Nat × Nat × Nat → Dec →
    Option (Dec × (Nat × Nat × Nat))
  | 0, _, _, _, s, lits, r, d => if s.left = 0 then some (d.pushes lits, r) else none
  | n + 1, a, o, m, s, lits, r, d =>
    let oc := to'.sym o
    let ml := zML (tm.sym m)
    let ll := zLL (tl.sym a)
    if 31 < oc ∨ 35 < tl.sym a ∨ 52 < tm.sym m then none
    else
      let v := 2 ^ oc + s.peek oc
      let s := s.take oc
      let mlen := ml.1 + s.peek ml.2
      let s := s.take ml.2
      let llen := ll.1 + s.peek ll.2
      let s := s.take ll.2
      let x := zOffset v llen r
      let d := d.pushes (lits.take llen)
      if lits.length < llen ∨ x.1 = 0 ∨ win < x.1 ∨ d.out.length - first < x.1 ∨ s.left < 0 ∨ 2 ^ 17 < mlen then none
      else
        let d := d.back x.1 mlen
        if n = 0 then zSeqs first win tl to' tm 0 a o m s (lits.drop llen) x.2 d
        else
          let na := tl.next a s
          let nm := tm.next m na.2
          let no := to'.next o nm.2
          zSeqs first win tl to' tm n na.1 no.1 nm.1 no.2 (lits.drop llen) x.2 d

/-- A compressed block, whose bytes are all taken: what it makes and hands on. -/
def zBlock (first win : Nat) (z : ZCarry) (body : List Byte) (d : Dec) : Option (Dec × ZCarry) := do
  let (lits, k, huf) ← zLiterals z body
  let body := body.drop k
  let n0 := leNat (body.take 1)
  let (n, k) ←
    if body.isEmpty then none
    else if n0 < 128 then some (n0, 1)
    else if n0 < 255 then (if body.length < 2 then none else some ((n0 - 128) * 256 + leNat ((body.drop 1).take 1), 2))
    else if body.length < 3 then none else some (leNat ((body.drop 1).take 2) + 0x7F00, 3)
  let body := body.drop k
  if n = 0 then (if body.isEmpty then some (d.pushes lits, { z with huf := huf }) else none)
  else
    match body with
    | [] => none
    | modes :: body =>
      let md := modes.toNat
      if md % 4 ≠ 0 then none
      else
        let (tl, k) ← zTable (md / 64) 9 36 6 zDefLL z.ll body
        let body := body.drop k
        let (to', k) ← zTable (md / 16 % 4) 8 32 5 zDefOff z.off body
        let body := body.drop k
        let (tm, k) ← zTable (md / 4 % 4) 9 53 6 zDefML z.ml body
        let s ← BackBits.ofBytes (body.drop k)
        let a := s.peek tl.al
        let s := s.take tl.al
        let o := s.peek to'.al
        let s := s.take to'.al
        let m := s.peek tm.al
        let s := s.take tm.al
        let (d, r) ← zSeqs first win tl to' tm n a o m s lits z.rep d
        return (d, ⟨huf, some tl, some to', some tm, r⟩)

/-! ## Zstandard: frames (RFC 8878, 3.1.1) -/

/-- What a frame's header says: the window, the content's size, its checksum. -/
structure ZFrame where
  win : Nat
  size : Option Nat
  sum : Bool
deriving DecidableEq, Repr

/-- The blocks of a frame up to its last one, its size and its checksum, which is skipped (R165). -/
def zBlocks (whole : Bool) (fr : ZFrame) (first : Nat) : Nat → ZCarry → Dec → Dec × DecEnd
  | 0, _, d => (d, .corrupt)
  | f + 1, z, d =>
    match d.num 3 with
    | none => (d, short whole)
    | some h =>
      let n := h / 8
      let kind := h / 2 % 4
      let most := min fr.win (2 ^ 17)
      let start := d.out.length
      let take := if kind = 1 then 1 else n
      if most < n ∨ kind = 3 then (d, .corrupt)
      else if kind ≠ 0 ∧ d.inp.length < 3 + take then (d, short whole)
      else
        let e := d.skip 3
        let r : Option (Dec × ZCarry) :=
          if kind = 0 then some (e.copy n, z)
          else if kind = 1 then some ((e.skip 1).rep (e.inp.getD 0 0) n, z)
          else zBlock first fr.win z (e.inp.take n) (e.skip n)
        match r with
        | none => (d, .corrupt)
        | some (d', z) =>
          if most < d'.out.length - start then (d, .corrupt)
          else if kind = 0 ∧ e.inp.length < n then (d', short whole)
          else if h % 2 = 0 then zBlocks whole fr first f z d'
          else if !(fr.size.all (· == d'.out.length - first)) then (d', .corrupt)
          else if fr.sum then
            match d'.skipSum with
            | some d => (d, .done)
            | none => (d', short whole)
          else (d', .done)

/-- The rest of a frame's header behind its magic number, and its blocks: Window_Size up to 8 MiB and no dictionary (R165). -/
def zFrame (whole : Bool) (d : Dec) : Dec × DecEnd :=
  match d.num 1 with
  | none => (d, short whole)
  | some fhd =>
    let single := fhd.testBit 5
    let w := bit (!single)
    let dict := [0, 1, 2, 4].getD (fhd % 4) 0
    let fcs := [bit single, 2, 4, 8].getD (fhd / 64) 0
    if fhd.testBit 3 then (d, .corrupt)
    else if d.inp.length < 1 + w + dict + fcs then (d, short whole)
    else
      let at' := fun (o n : Nat) => leNat ((d.inp.drop o).take n)
      let size := if fcs = 0 then none else some (at' (1 + w + dict) fcs + (if fcs = 2 then 256 else 0))
      let base := 2 ^ (10 + at' 1 1 / 8)
      let win := if single then size.getD 0 else base + base / 8 * (at' 1 1 % 8)
      if at' (1 + w) dict ≠ 0 ∨ 2 ^ 23 < win then (d, .unsupp)
      else
        let d := d.skip (1 + w + dict + fcs)
        zBlocks whole ⟨win, size, fhd.testBit 2⟩ d.out.length (d.inp.length + 1) ZCarry.start d

/-- ZSTDD: Zstandard frames (R165). -/
def zstdFrames (whole : Bool) (inp : List Byte) : Dec × DecEnd :=
  framesOf whole (fun m d => if m = 0xFD2FB528 then zFrame whole (d.skip 4) else (d, .corrupt)) (inp.length + 1) (Dec.start inp)

/-! ## What a compressor may emit (R164) -/

/-- Bytes that are whole sequences of an LZ4 block, each with its match, decode to the start of the input and leave the block's last 12
bytes to literals. -/
def lz4Part (sent inp : List Byte) : Bool :=
  let r := lz4Seqs false 0 (sent.length + 1) (Dec.start sent)
  r.2 == .more && r.1.edge == sent.length && r.1.bytes.isPrefixOf inp && decide (r.1.out.length + 12 ≤ inp.length)

/-- Bytes that are one LZ4 block of the whole input: its last match begins 12 bytes and ends 5 bytes before the end, or sooner. -/
def lz4Whole (sent inp : List Byte) : Bool :=
  let r := lz4Block true sent
  r.2 == .done && r.1.bytes == inp &&
    (r.1.matchEnd == 0 || (decide (r.1.matchAt + 12 ≤ inp.length) && decide (r.1.matchEnd + 5 ≤ inp.length)))

/-- The literals that end a block of `inp` behind the sequences in `sent`. -/
def lz4Rest (sent inp : List Byte) : List Byte :=
  let d := (lz4Seqs false 0 (sent.length + 1) (Dec.start sent)).1
  let lits := inp.drop d.out.length
  let n := lits.length
  if n < 15 then BitVec.ofNat 8 (16 * n) :: lits
  else 240 :: (List.replicate ((n - 15) / 255) 255 ++ BitVec.ofNat 8 ((n - 15) % 255) :: lits)

/-- The header of LZ4FC's frame (R164): independent blocks of at most 64 KiB, no checksums, no size, no dictionary. -/
def lz4FrameHead : List Byte := [0x04, 0x22, 0x4D, 0x18, 0x60, 0x40, 0x82]

/-- Bytes that are LZ4FC's header and whole blocks, and decode to the start of the input; or nothing yet. -/
def lz4FramePart (sent inp : List Byte) : Bool :=
  let r := lz4Frames false sent
  sent.isEmpty || (lz4FrameHead.isPrefixOf sent && r.2 == .more && r.1.edge == sent.length && r.1.bytes.isPrefixOf inp)

/-- Bytes that are LZ4FC's one frame of the whole input. -/
def lz4FrameWhole (sent inp : List Byte) : Bool :=
  let r := framesOf true (fun m d => if m = 0x184D2204 then lz4FrameBody true (d.skip 4) else (d, .corrupt)) 2 (Dec.start sent)
  lz4FrameHead.isPrefixOf sent && r.2 == .done && r.1.bytes == inp

/-- Uncompressed blocks of at most 64 KiB and the end mark. -/
def lz4Stored : Nat → List Byte → List Byte
  | 0, _ => leBytes 0 4
  | f + 1, d =>
    if d.isEmpty then leBytes 0 4
    else leBytes (2 ^ 31 + min 65536 d.length) 4 ++ d.take 65536 ++ lz4Stored f (d.drop 65536)

/-- What ends LZ4FC's frame of `inp` behind the blocks in `sent`. -/
def lz4FrameRest (sent inp : List Byte) : List Byte :=
  let n := (lz4Frames false sent).1.out.length
  (if sent.isEmpty then lz4FrameHead else []) ++ lz4Stored (inp.length / 65536 + 1) (inp.drop n)

end Sys2Proof.Machine
end

