-- ==== Sys2Proof/Machine/Kernel.lean ====
section
/-! DEFINITION. KCALL, its descriptor and its blocks, and the kernel library (05, R153 to R171; 15, R407, R408). What a compressor
emits is free, but decodes to its input (R164); a decoder's formats are those of Codec (log entry 56). -/
namespace Sys2Proof.Machine

/-! ## The descriptor (R153 to R156, R161 to R163) -/

/-- A KCALL descriptor by its fields (R153). -/
structure KDesc where
  stages : Nat
  flags : Nat
  tag : Nat
  inAddr : Nat
  inLen : Nat
  tseq : Nat
  res0 : Nat
  outAddr : Nat
  outLim : Nat
  res1 : Nat
  state : Nat
  paramp : Nat
deriving DecidableEq, Repr

/-- A descriptor from its first 56 bytes (R153). -/
def KDesc.ofBytes (d : List Byte) : KDesc :=
  let at' := fun (o n : Nat) => leNat ((d.drop o).take n)
  ⟨at' 0 4, at' 4 2, at' 6 2, at' 8 8, at' 0x10 4, at' 0x14 2, at' 0x16 2, at' 0x18 8, at' 0x20 4, at' 0x24 4, at' 0x28 8,
    at' 0x30 8⟩

/-- FLAGS (R154). -/
def KDesc.chin (d : KDesc) : Bool := d.flags.testBit 0
def KDesc.chout (d : KDesc) : Bool := d.flags.testBit 1
def KDesc.crema (d : KDesc) : Bool := d.flags.testBit 2
def KDesc.landwait (d : KDesc) : Bool := d.flags.testBit 3

/-- The four stage bytes. -/
def KDesc.raw (d : KDesc) : List Nat := (List.range 4).map fun i => bitsOf d.stages (8 * i) 8

/-- The kernel IDs of the stages. -/
def KDesc.ids (d : KDesc) : List Nat := d.raw.takeWhile (· != 0)

/-- LZ4D, LZ4FD and ZSTDD (R161, R162). -/
def isDecoder (k : Nat) : Bool := k == 0x09 || k == 0x0B || k == 0x0C
/-- LZ4C and LZ4FC (R161, R162). -/
def isCompressor (k : Nat) : Bool := k == 0x08 || k == 0x0A
/-- A kernel takes a parameter word (R163). -/
def takesParam (k : Nat) : Bool := k == 0x02 || k == 0x03 || k == 0x04 || k == 0x05 || k == 0x0D

/-- The state bytes of a kernel at stage `i` (R161). -/
def stateBytes (i k : Nat) : Nat :=
  match k with
  | 0x04 => 64
  | 0x05 => 16448
  | 0x08 => if i = 0 then 16448 else 81984
  | 0x0A => if i = 0 then 16512 else 82048
  | 0x0B => 64
  | 0x0C => 12352
  | 0x0D => 64
  | _ => 0

/-- The ordering rules of a stage list (R153, R162); a list of no stage at all breaks them (log entry 57). -/
def KDesc.listOk (d : KDesc) : Bool :=
  let ids := d.ids
  (d.raw.drop ids.length).all (· == 0) && !ids.isEmpty && ids.all (· ≤ 0x0D) && (!ids.contains 1 || ids.length == 1) &&
    (ids.drop 1).all (fun k => !isDecoder k) && ids.dropLast.all fun k => !isCompressor k && k != 0x0D

/-- The state parts of a descriptor's stages: stage, kernel, address, bytes (R155). -/
def statesFrom : Nat → Nat → List Nat → List (Nat × Nat × Nat × Nat)
  | _, _, [] => []
  | i, a, k :: ks =>
    if stateBytes i k = 0 then statesFrom (i + 1) a ks else (i, k, a, stateBytes i k) :: statesFrom (i + 1) (a + stateBytes i k) ks

/-- The state parts of a descriptor. -/
def KDesc.states (d : KDesc) : List (Nat × Nat × Nat × Nat) := statesFrom 0 d.state d.ids

/-- The descriptor passes R156 but for its parameter words. -/
def KDesc.ok (d : KDesc) : Bool :=
  let ids := d.ids
  let dec := (ids.head?.map isDecoder).getD false
  d.listOk && d.res0 == 0 && d.res1 == 0 && decide (d.flags < 16) && decide (d.inAddr < 2 ^ 48) &&
    decide (d.outAddr < 2 ^ 48) && (!d.chin || (d.inAddr == 0 && d.inLen == 0 && !dec)) &&
    (!d.chout || (d.outAddr == 0 && d.outLim == 0)) &&
    (!d.crema || (!d.chin && !d.chout && !ids.any fun k => isDecoder k || k == 0x0D)) &&
    (if d.landwait then !d.chin else d.tag == 0 && d.tseq == 0) &&
    (if d.states.isEmpty then d.state == 0 else d.state % 64 == 0) &&
    (if ids.any takesParam then d.paramp % 32 == 0 else d.paramp == 0) &&
    !((ids.contains 6 || ids.contains 7) && (d.inAddr % 64 != 0 || d.inLen % 64 != 0))

/-- A parameter word is in range (R163). -/
def paramOk (k w : Nat) : Bool :=
  match k with
  | 0x02 => decide (w < 2 ^ 33)
  | 0x03 => decide (w < 2 ^ 32)
  | 0x04 => decide (w < 2 ^ 60) && bitsOf w 0 20 != 0 && bitsOf w 40 20 != 0 &&
      decide (bitsOf w 20 20 + bitsOf w 40 20 ≤ bitsOf w 0 20)
  | 0x05 => decide (w ≤ 4)
  | 0x0D => decide (w < 2 ^ 32) && decide (64 ≤ bitsOf w 0 16) && decide (bitsOf w 0 16 ≤ 4096) && bitsOf w 0 16 % 64 == 0 &&
      decide (1 ≤ bitsOf w 28 4) && decide (bitsOf w 28 4 ≤ 8) && decide (bitsOf w 16 12 + bitsOf w 28 4 ≤ bitsOf w 0 16)
  | _ => true

/-- The parameter word of stage `i`. -/
def KernRun.param (r : KernRun) (i : Nat) : Nat := leNat ((r.params.drop (8 * i)).take 8)

/-- The descriptor as read. -/
def KernRun.d (r : KernRun) : KDesc := KDesc.ofBytes r.desc

/-- A KCALL whose set-up has not read anything yet. -/
def KernRun.begun : KernRun := ⟨[], [], [], 0, [], 0, [], false, []⟩

/-! ## What the stages do (R161 to R165) -/

/-- The 16-bit elements of a list of bytes (R163). -/
def halves : List Byte → List Nat
  | x :: y :: t => (x.toNat + 256 * y.toNat) :: halves t
  | _ => []

/-- Bytes from elements of 16 bits. -/
def ofHalves (l : List Nat) : List Byte := l.flatMap fun v => leBytes v 2

/-- One element through FTHR16 (R163). -/
def fthr (w x : Nat) : Nat := if x < bitsOf w 0 16 then 0 else x - bitsOf w 16 16

/-- FROI's window of the bytes that follow byte `pos` of the input (R163). -/
def froi (w : Nat) : Nat → List Byte → List Byte
  | _, [] => []
  | pos, x :: t =>
    let c := pos % bitsOf w 0 20
    let rest := froi w (pos + 1) t
    if bitsOf w 20 20 ≤ c ∧ c < bitsOf w 20 20 + bitsOf w 40 20 then x :: rest else rest

/-- Bit `i` of a list of bytes. -/
def bitAt (d : List Byte) (i : Nat) : Bool := (d.getD (i / 8) 0).getLsbD (i % 8)

/-- A byte from its bits. -/
def byteOf (f : Nat → Bool) : Byte := BitVec.ofNat 8 ((List.range 8).foldl (fun s t => s + 2 ^ t * bit (f t)) 0)

/-- BTRN16 of a 64-byte block (R163): byte `j` of plane `p` holds bit `p` of elements 8`j` to 8`j` + 7. -/
def btrn (d : List Byte) : List Byte :=
  (List.range 64).map fun q => byteOf fun t => bitAt d (16 * (8 * (q % 4) + t) + q / 4)

/-- BTRN16I of a 64-byte block (R163). -/
def btrnInv (d : List Byte) : List Byte :=
  (List.range 64).map fun q => byteOf fun t => bitAt d (32 * (8 * (q % 2) + t) + q / 2)

/-- The whole 64-byte blocks of a list through a function. -/
def blocks64 (f : List Byte → List Byte) (d : List Byte) : List Byte :=
  (List.range (d.length / 64)).flatMap fun i => f ((d.drop (64 * i)).take 64)

/-- IDXB's entry of a record and its ordinal (R163). -/
def idxEntry (w : Nat) (rec' : List Byte) (ord : Nat) : List Byte :=
  leBytes (leNat ((rec'.drop (bitsOf w 16 12)).take (bitsOf w 28 4))) 8 ++ leBytes ord 8

/-- What a stage passes on and keeps. -/
structure StageOut where
  run : StageRun
  out : List Byte
deriving DecidableEq, Repr

/-- Free bytes that a stage draws (log entry 56). -/
def kernFree (seed n : Nat) : List Byte := (List.range n).map (Config.freeByte seed)

/-- A stage that works on whole units of `u` bytes: the rest waits for the next block; at the end of the input the value of an
unfinished unit's bytes is not stated (log entry 56). -/
def unitStage (u seed : Nat) (last : Bool) (r : StageRun) (d : List Byte) (f : List Byte → List Byte) : StageOut :=
  let x := r.part ++ d
  let m := x.length / u * u
  let rest := x.drop m
  if last then ⟨{ r with part := [] }, f (x.take m) ++ kernFree seed rest.length⟩
  else ⟨{ r with part := rest }, f (x.take m)⟩

/-- The most bytes an LZ4 block holds for `n` input bytes (R164). -/
def lz4Bound (n : Nat) : Nat := n + (n + 254) / 255 + 16

/-- What a compressor's format allows: bytes emitted before the end of the input, bytes that are its whole output, and literals that
end it. -/
structure Squeezer where
  part : List Byte → List Byte → Bool
  whole : List Byte → List Byte → Bool
  rest : List Byte → List Byte → List Byte

/-- LZ4C's block (R164). -/
def squeezeBlock : Squeezer := ⟨lz4Part, lz4Whole, lz4Rest⟩

/-- LZ4FC's frame (R164). -/
def squeezeFrame : Squeezer := ⟨lz4FramePart, lz4FrameWhole, lz4FrameRest⟩

/-- A compressor's block (R164): free bytes that its format allows and that decode to what it has received, at the end exactly to its
input; where the bytes drawn are none such, it emits nothing before the end and ends with literals (log entry 56). -/
def squeeze (z : Squeezer) (seed : Nat) (last : Bool) (r : StageRun) (d : List Byte) : StageOut :=
  let past := r.past ++ d
  let most := lz4Bound past.length + past.length / 2 ^ 14 + 15
  let out := kernFree seed ((Config.freeWord seed).toNat % (most + 1 - r.sent.length))
  let all := r.sent ++ out
  let r := { r with past := past }
  if last then
    let out := if z.whole all past && decide (all.length ≤ most) then out else z.rest r.sent past
    ⟨{ r with sent := r.sent ++ out }, out⟩
  else if z.part all past then ⟨{ r with sent := all }, out⟩
  else ⟨r, []⟩

/-- One stage of a block (R163, R164): its kernel, its parameter word, the seed of its free values. IDXB emits nothing for a final
record that is not whole: the spec states no entry for it (DESIGN CHOICE, log entry 56). -/
def stageStep (k w seed : Nat) (last : Bool) (r : StageRun) (d : List Byte) : StageOut :=
  let r' := { r with count := r.count + d.length }
  match k with
  | 0x02 => ⟨{ r' with crc := crc32c r.crc d }, d⟩
  | 0x03 => unitStage 2 seed last r' d fun x => ofHalves ((halves x).map (fthr w))
  | 0x04 => ⟨r', froi w r.count d⟩
  | 0x05 => unitStage 2 seed last r' d id
  | 0x06 => unitStage 64 seed last r' d (blocks64 btrn)
  | 0x07 => unitStage 64 seed last r' d (blocks64 btrnInv)
  | 0x08 => squeeze squeezeBlock seed last r' d
  | 0x0A => squeeze squeezeFrame seed last r' d
  | 0x0D =>
    let x := r.part ++ d
    let n := bitsOf w 0 16
    let m := x.length / n
    ⟨{ r' with part := x.drop (m * n) },
      (List.range m).flatMap fun i => idxEntry w ((x.drop (i * n)).take n) ((r.count - r.part.length) / n + i)⟩
  | _ => ⟨r', d⟩

/-- What the stages of a block do: what they carry on, the output, and the counters that HIST16 stages increment, each with
its stage (R163). -/
structure ChainOut where
  runs : List StageRun
  out : List Byte
  hits : List (Nat × Nat)
deriving DecidableEq, Repr

/-- The stages from stage `i` on. -/
def stagesFrom (r : KernRun) (seed : Nat) (last : Bool) : Nat → List Nat → List StageRun → List Byte → ChainOut
  | i, k :: ks, s :: ss, d =>
    let o := stageStep k (r.param i) (seed + i) last s d
    let hits := if k = 5 then (halves (s.part ++ d)).map fun x => (i, x / 2 ^ (r.param i) % 4096) else []
    let t := stagesFrom r seed last (i + 1) ks ss o.out
    ⟨o.run :: t.runs, t.out, hits ++ t.hits⟩
  | _, _, _, d => ⟨[], d, []⟩

/-- The stages at the start of a call (R163). -/
def stagesBegin (r : KernRun) : Nat → List Nat → List StageRun
  | _, [] => []
  | i, k :: ks => ⟨0, if k = 2 then BitVec.ofNat 32 (r.param i) else 0, [], [], []⟩ :: stagesBegin r (i + 1) ks

/-- The stages of a call that resumes with nothing of it held: what they carry is free (log entry 16). -/
def stagesLost (seed : Nat) : Nat → List Nat → List StageRun
  | _, [] => []
  | i, _ :: ks =>
    let w := Config.freeWord (seed + i)
    ⟨w.toNat, w.setWidth 32, [], kernFree (seed + i) (w.toNat % 2 ^ 16), []⟩ :: stagesLost seed (i + 1) ks

/-- The value of the last CRC32C stage from stage `i` on, if there is one (R153, R163). -/
def crcFrom (r : KernRun) : Nat → List Nat → List StageRun → Option Nat
  | i, k :: ks, s :: ss =>
    match crcFrom r (i + 1) ks ss with
    | some v => some v
    | none => if k = 2 then some (if (r.param i).testBit 32 then (~~~s.crc).toNat else s.crc.toNat) else none
  | _, _, _ => none

/-- RESULT of a call (R153). -/
def KernRun.result (r : KernRun) : Nat := (crcFrom r 0 r.d.ids r.stages).getD 0

/-! ## Completion and set-up (R153, R156, R157) -/

/-- The completion statuses (R157). -/
inductive KStatus where
  | ok
  | outFull
  | badDesc
  | chainOff
  | tagFail
  | stateErr
  | corrupt
  | unsupp
deriving DecidableEq, Repr

/-- The code of a completion status. -/
def KStatus.code : KStatus → Nat
  | .ok => 0
  | .outFull => 1
  | .badDesc => 2
  | .chainOff => 3
  | .tagFail => 4
  | .stateErr => 5
  | .corrupt => 6
  | .unsupp => 7

/-- The descriptor's address. -/
def Engine.kaddr (e : Engine) (o : LongOp) : Nat := (e.g o.a).toNat % 2 ^ 48

/-- The call in progress. -/
def Engine.kern' (e : Engine) (o : LongOp) : KernRun := e.kern.get (e.kaddr o) KernRun.begun

/-- A call completes (R153, R156, R157): bytes 0x38 to 0x3F of the descriptor are checked and written, and Z says whether the
status is OK. A failed descriptor leaves gB and gD 0. -/
def Block.kernEnd (b : Block) (n : Nat) (o : LongOp) (st : KStatus) (warn result : Nat) : Block :=
  let e := b.engine n
  let ka := e.kaddr o
  match b.longCheck n .write ka 64 (ka + 0x38) 8 with
  | some (x, c) => b.longTrap n x c
  | none =>
    let b := b.longWrite n (ka + 0x38) ([BitVec.ofNat 8 st.code, BitVec.ofNat 8 warn, 0, 0] ++ leBytes result 4)
    let b := b.modEngine n fun e =>
      let e := if st = .badDesc then (e.setG o.b 0).setG o.d 0 else e
      { e with st := { e.st with z := decide (st = .ok) }, kern := e.kern.del ka }
    b.finish n e (nextPc e.pc 4) false false

/-- MAGIC of a header (R166). -/
def cremaMagic : Nat := 0x4D455243

/-- The header does not match, or the unit has none (R167, R168). -/
def KernRun.hdrBad (r : KernRun) : Bool := decide (r.d.inLen < 16) || leNat (r.hdr.take 4) != cremaMagic

/-- The declared payload length (R166, R168). -/
def KernRun.declen (r : KernRun) : Nat := if r.hdrBad then r.d.inLen else leNat ((r.hdr.drop 8).take 4)

/-- The WARN bits of a unit's header and length once `pos` input bytes have been taken (R157, R167): HDRBAD with the header, LEN_SHORT
at the end of the data, LEN_LONG with the first byte in excess. -/
def KernRun.unitWarn (r : KernRun) (pos : Nat) : Nat :=
  if !r.d.crema then 0
  else if r.d.inLen < 16 then 4
  else if r.hdr.length < 16 then 0
  else if r.hdrBad then 4
  else if r.d.inLen - 16 < r.declen ∧ r.d.inLen ≤ pos then 1
  else if 16 + r.declen < pos then 2
  else 0

/-- A call ends before its end (R157): RESULT is what its last recorded block left, WARN what the call has met. -/
def Block.kernStop (b : Block) (n : Nat) (o : LongOp) (st : KStatus) (warn : Nat) : Block :=
  let e := b.engine n
  let r := e.kern' o
  b.kernEnd n o st (Nat.lor (Nat.lor r.warn warn) (r.unitWarn (e.g o.b).toNat)) r.result

/-- A FIFO that the call needs does not exist, or its logical engine runs outside its cluster (R150). -/
def Block.chainOff (b : Block) (n : Nat) (d : KDesc) : Bool :=
  let c := b.chainsOf n
  let away := match b.leOf n with
    | some k => n / 9 != k / 8
    | none => true
  (d.chin && (c.2.isNone || away)) || (d.chout && (c.1.isNone || away))

/-- What opening a call finds: it goes on, or it has ended. -/
inductive Opened where
  | go (b : Block)
  | ended (b : Block)
deriving DecidableEq, Repr

/-- The input bytes that FROI keeps of `n` (R163). -/
def froiLen (w n : Nat) : Nat :=
  n / bitsOf w 0 20 * bitsOf w 40 20 + (min (n % bitsOf w 0 20) (bitsOf w 20 20 + bitsOf w 40 20) - bitsOf w 20 20)

/-- Every FTHR16 and HIST16 stage from stage `i` on has an even input length, where `n` bytes reach stage `i` (R163). -/
def KernRun.evenFrom (r : KernRun) : Nat → List Nat → Nat → Bool
  | _, [], _ => true
  | i, k :: ks, n =>
    match k with
    | 0x03 | 0x05 => n % 2 == 0 && r.evenFrom (i + 1) ks n
    | 0x04 => r.evenFrom (i + 1) ks (froiLen (r.param i) n)
    | 0x02 | 0x06 | 0x07 => r.evenFrom (i + 1) ks n
    | _ => true

/-- RESULT of a call whose parameters cannot be read (R153): what recorded blocks left, else a CRC32C stage's seed is not known and its
value is free. -/
def Block.blindResult (b : Block) (d : KDesc) (r : KernRun) : Nat :=
  if r.stages.isEmpty then (if d.ids.contains 2 then b.freeWord.toNat % 2 ^ 32 else 0) else r.result

/-- The descriptor and the parameter block read and checked (R153, R155, R156, R171); `finds 0` and `finds 1` are what the two reads
find. A trailing odd byte of a stage that takes elements fails the descriptor (R163); a capture unit's length is known with its
header. -/
def Block.kernOpen (b : Block) (n : Nat) (o : LongOp) (finds : Nat → BankFind) : Opened :=
  let e := b.engine n
  let ka := e.kaddr o
  let held := e.kern.look ka
  let r0 := held.getD KernRun.begun
  match b.longCheck n .read ka 64 ka 0x38 with
  | some (x, c) => .ended (b.longTrap n x c)
  | none => match b.longRead n ka 0x38 (finds 0) with
    | (b, .error (x, c)) => .ended (b.longTrap n x c)
    | (b, .ok bytes) =>
      let d := KDesc.ofBytes bytes
      let install := fun (b : Block) (ps : List Byte) =>
        let r := { r0 with desc := bytes, params := ps }
        if !((List.range d.ids.length).all fun i => paramOk (d.ids.getD i 0) (r.param i)) ||
            (!d.chin && !d.crema && !r.evenFrom 0 d.ids d.inLen) then
          Opened.ended (b.kernEnd n o .badDesc 0 0)
        else
          let r := { r with
            stages := match held with
              | none => stagesLost b.fresh 0 d.ids
              | some k => if k.stages.isEmpty then stagesBegin r 0 d.ids else k.stages
            got := match held with
              | none => b.fetch d.inAddr (e.g o.b).toNat
              | some k => k.got }
          let b := { b with fresh := b.fresh + 4 }.modEngine n fun e => { e with kern := e.kern.put ka r }
          if b.chainOff n d then .ended (b.kernStop n o .chainOff 0)
          else .go (b.modEngine n fun e => { e with long := e.long.map fun o => { o with first := false } })
      if !d.ok then .ended (b.kernEnd n o .badDesc 0 0)
      else if d.ids.any takesParam then
        match b.longCheck n .read d.paramp 32 d.paramp 32 with
        | some (x, c) => .ended (b.longTrap n x c)
        | none => match b.longRead n d.paramp 32 (finds 1) with
          | (b, .error (_, c)) => .ended (if c == .later then b else b.drawn.kernEnd n o .stateErr r0.warn (b.blindResult d r0))
          | (b, .ok ps) => install b ps
      else install b []

/-- The read that a find is about among those of a set-up or a block, 0 the descriptor, 1 the parameters, 2 the input, 3 the state: a
free one of the `m` that are made from number `lo` on (log entry 82). -/
def Block.kernFinds (b : Block) (find : BankFind) (lo m : Nat) : Block × (Nat → BankFind) :=
  if find = .clean then (b, fun _ => .clean)
  else
    let k := lo + b.freeWord.toNat % m
    (b.drawn, fun i => if i = k then find else .clean)

/-- The set-up of a KCALL (R100, R153, R156): with RSM = 0 gB and gD become 0 and the descriptor is read now; with RSM = 1 the
first block reads it. -/
def Block.kernStart (b : Block) (n : Nat) (o : LongOp) (rsm : Bool) (find : BankFind) : Block :=
  let ka := (b.engine n).kaddr o
  if rsm then b.modEngine n fun e => { e with long := some o }
  else
    let b := b.modEngine n fun e => { ((e.setG o.b 0).setG o.d 0) with
      long := some o, kern := e.kern.put ka KernRun.begun }
    let fs := b.kernFinds find 0 2
    match fs.1.kernOpen n o fs.2 with
    | .go b => b
    | .ended b => b

/-- KCALL (R95, R100, R156): `find` is what one of the set-up's reads finds, which the state does not decide. -/
def execKcall (n : PE) (d a b : BitVec 5) (x : BitVec 9) (find : BankFind) (s : State) : Host.Outcome State Fault Refusal :=
  done s <| s.blk.feis n (wordR 0xB5 d a b x)
    (fun e => firstTrap [(longBad d a b || x != 0, .illegal), (s.blk.flag (R.ENG_LKSTAT_LKACT n), .lockseq),
      (decide ((e.g a.toNat).toNat % 64 ≠ 0), .access ((e.g a.toNat).toNat % 2 ^ 48) .misalign)]) fun e blk =>
    blk.kernStart n ⟨0xB5, d.toNat, a.toNat, b.toNat, 0, true, false⟩ e.st.rsm find

/-! ## Capture units (R166 to R169, R407, R408) -/

/-- Input bytes of a capture unit taken apart (R167, R168): the header as far as it has come, and the payload that goes to the
stages. -/
def KernRun.split (r : KernRun) (d : List Byte) : KernRun × List Byte :=
  if r.d.inLen < 16 then (r, [])
  else
    let h := 16 - r.hdr.length
    let r' := { r with hdr := r.hdr ++ d.take h }
    if r'.hdr.length < 16 then (r', [])
    else
      let p := if r.hdr.length = 16 ∨ !r'.hdrBad then d.drop h else r'.hdr ++ d.drop h
      let p := p.take (r'.declen - r.taken)
      ({ r' with taken := r.taken + p.length }, p)

/-- The Crema record (R407, R408). -/
def KernRun.record (r : KernRun) (slot : Option CSlot) (warn : Nat) : List Byte :=
  let bad := r.hdrBad
  let s := slot.getD ⟨none, if bad then 0 else leNat ((r.hdr.drop 4).take 4), 0, 0, 0, 0, 0, 0, 0, 0⟩
  leBytes 0x52444352 4 ++ leBytes s.frame 4 ++ leBytes r.declen 4 ++ leBytes r.taken 4 ++ leBytes s.tnow 8 ++
    leBytes s.pos0 8 ++ leBytes s.pos1 8 ++ leBytes s.spd0 4 ++ leBytes s.spd1 4 ++ leBytes r.d.stages 4 ++
    leBytes (if bad then 0 else leNat (r.hdr.drop 12)) 4 ++ leBytes (s.flags + warn) 4 ++ leBytes r.result 4

/-- The Crema close (R169, R405): the slot, where the unit's frame has one, is held and then consumed; a missing one sets
NOSLOT; the counted cases are reported. Crema refuses a call of the Tenant world (log entry 58). -/
def Block.cremaClose (b : Block) (n : Nat) (r : KernRun) : Block × KernRun × List Byte :=
  let k := (b.leOf n).getD 0
  let w := Nat.lor r.warn (r.unitWarn r.d.inLen)
  let tenant := (b.engine n).st.tw
  let found : Block × Option (Nat × CSlot) :=
    if r.hdrBad || tenant then (b, none) else b.cremaLookup (leNat ((r.hdr.drop 4).take 4)) k
  let b := found.1
  let w := if !r.hdrBad && found.2.isNone then Nat.lor w 8 else w
  let b := if tenant then b else b.cremaCount (w % 8)
  let r := { r with warn := w }
  let d := r.record (found.2.map (·.2)) w
  match found.2 with
  | some p => ((b.cremaConsume p.1 k).getD b, r, d)
  | none => (b, r, d)

/-! ## Blocks (R158 to R160, R170, R171) -/

/-- The input of a block: what it gives to the stages, the input bytes and chain entries it takes, whether it is the last one, the
WARN bits it sets. -/
structure KInput where
  bytes : List Byte
  used : Nat
  entries : Nat
  last : Bool
  warn : Nat
deriving DecidableEq, Repr

/-- What a block's input phase answers: it waits, it ends the call, or it has its input. -/
inductive KTaken where
  | wait (b : Block)
  | ended (b : Block)
  | input (b : Block) (i : KInput)
deriving DecidableEq, Repr

/-- The input bytes that have landed, as the Intake answers (R170); none: the tag has failed. -/
def Block.kernLanded (b : Block) (n : Nat) (o : LongOp) : Block × Option Nat :=
  let e := b.engine n
  let r := e.kern' o
  if !r.d.landwait || r.landed then (b, some r.d.inLen)
  else if e.st.tw then (b, none)
  else match b.opLanded ⟨n, 0x41, BitVec.ofNat 64 r.d.tag, BitVec.ofNat 64 r.d.tseq, false⟩ with
    | (b, .error _) => (b, none)
    | (b, .ok v) =>
      if r.d.inLen ≤ v.toNat then
        (b.modEngine n fun e => { e with kern := e.kern.put (e.kaddr o) { r with landed := true } }, some r.d.inLen)
      else (b, some v.toNat)

/-- `c` input bytes at `pos` read from memory (R158, R159). -/
def Block.kernTake (b : Block) (n : Nat) (r : KernRun) (pos c : Nat) (find : BankFind) (i : KInput) (f : List Byte → KInput) : KTaken :=
  if c = 0 then .input b i
  else match b.longCheck n .read r.d.inAddr r.d.inLen (r.d.inAddr + pos) c with
    | some (x, f) => .ended (b.longTrap n x f)
    | none => match b.longRead n (r.d.inAddr + pos) c find with
      | (b, .error (x, f)) => .ended (b.longTrap n x f)
      | (b, .ok d) => .input b (f d)

/-- Input bytes of an input-paced block (R158, R170): it waits until they have landed. -/
def Block.kernRead (b : Block) (n : Nat) (o : LongOp) (r : KernRun) (pos c : Nat) (last : Bool) (find : BankFind) : KTaken :=
  match b.kernLanded n o with
  | (b, none) => .ended (b.kernStop n o .tagFail 0)
  | (b, some v) =>
    if v < pos + c then .wait b
    else b.kernTake n r pos c find ⟨[], 0, 0, last, 0⟩ fun d => ⟨d, c, 0, last, 0⟩

/-- Input entries from the chain (R158): four, or those up to the tagged one. -/
def Block.kernPop (b : Block) (n : Nat) : KTaken :=
  let shown : List (List Byte × Nat) := match (b.chainsOf n).2 with
    | some i => (b.chainAt i).shown
    | none => []
  let plain := (shown.take 4).takeWhile (·.2 == 0)
  let es : List (List Byte × Nat) := match (shown.take 4)[plain.length]? with
    | some x => plain ++ [x]
    | none => plain
  let last := es.any (·.2 != 0)
  if !last && decide (es.length < 4) then .wait b
  else
    let d := es.flatMap fun x => if x.2 = 0 then x.1 else x.1.take x.2
    .input b ⟨d, d.length, es.length, last, 0⟩

/-- What the decoder of a call makes of its input, the part that has landed (R165). -/
def Block.kernDecoded (b : Block) (r : KernRun) (landed : Nat) : Dec × DecEnd :=
  let whole := decide (r.d.inLen ≤ landed)
  let inp := (r.got ++ b.fetch (r.d.inAddr + r.got.length) (r.d.inLen - r.got.length)).take landed
  match r.d.ids.headD 0 with
  | 0x09 => lz4Block whole inp
  | 0x0B => lz4Frames whole inp
  | _ => zstdFrames whole inp

/-- A decoder's block (R158, R165, R170): the output up to the next 64-byte boundary or the end. It takes the input that its bytes need
and a free number of bytes beyond it that have landed, at the end all of it (log entry 56). -/
def Block.kernDecode (b : Block) (n : Nat) (o : LongOp) (r : KernRun) (pos made : Nat) (find : BankFind) : KTaken :=
  match b.kernLanded n o with
  | (b, none) => .ended (b.kernStop n o .tagFail 0)
  | (b, some v) =>
    let x := b.kernDecoded r v
    let dec := (r.stages.headD ⟨0, 0, [], [], []⟩).count
    let left := x.1.out.reverse.drop dec
    let room := 64 - (r.d.outAddr + made) % 64
    let last := x.2 == .done && decide (left.length ≤ room)
    let skipped := fun (m : Nat) => if x.1.skips.any fun k => decide (k < m) then 16 else 0
    if left.length < room && x.2 == .more then .wait b
    else if left.length < room && x.2 == .corrupt then .ended (b.kernStop n o .corrupt (skipped (x.1.out.length + 1)))
    else if left.length < room && x.2 == .unsupp then .ended (b.kernStop n o .unsupp (skipped (x.1.out.length + 1)))
    else
      let mine := left.take room
      let need := max pos (((mine.getLast?.map (·.2)).getD 0))
      let c := if last then r.d.inLen - pos else need - pos + b.freeWord.toNat % (min v r.d.inLen - need + 1)
      let i : KInput := ⟨mine.map (·.1), c, 0, last, skipped (dec + mine.length + bit last)⟩
      let b := b.drawn
      match b.kernTake n r pos c find i fun _ => i with
      | .input b i =>
        .input (b.modEngine n fun e => { e with kern := e.kern.put (e.kaddr o) { e.kern' o with
          got := r.got ++ b.fetch (r.d.inAddr + r.got.length) (pos + c - r.got.length) } }) i
      | t => t

/-- The state parts checked for reading and writing (R159). -/
def Block.stateFault (b : Block) (n : Nat) (r : KernRun) : Option (Nat × Cause) :=
  r.d.states.findSome? fun p =>
    match b.longCheck n .read p.2.2.1 p.2.2.2 p.2.2.1 p.2.2.2 with
    | some f => some f
    | none => b.longCheck n .write p.2.2.1 p.2.2.2 p.2.2.1 p.2.2.2

/-- The state parts read (R171): whether one of them returned uncorrectable data; none: a part is under repair. -/
def Block.stateRead (b : Block) (n : Nat) (find : BankFind) : List (Nat × Nat × Nat × Nat) → Block × Option Bool
  | [] => (b, some false)
  | p :: ps => match b.longRead n p.2.2.1 p.2.2.2 find with
    | (b, .error (_, c)) => (b, if c == .later then none else some true)
    | (b, .ok _) => b.stateRead n .clean ps

/-- One counter of HIST16 incremented (R163). -/
def Block.histInc (n : Nat) (states : List (Nat × Nat × Nat × Nat)) (b : Block) (h : Nat × Nat) : Block :=
  match states.find? (·.1 == h.1) with
  | some p =>
    let a := p.2.2.1 + 64 + 4 * h.2
    match b.load n a 4 false .clean with
    | (b, .ok v) => b.postStore n a (leBytes (leNat v + 1) 4) false
    | (b, .error _) => b
  | none => b

/-- The states written (R159): HIST16's counters as R163 says; what any other part then holds is not stated. -/
def Block.stateWrite (b : Block) (n : Nat) (r : KernRun) (hits : List (Nat × Nat)) : Block :=
  let b := hits.foldl (Block.histInc n r.d.states) b
  (r.d.states.filter fun p => p.2.1 != 5).foldl
    (fun b p => (b.longWrite n p.2.2.1 (kernFree b.fresh p.2.2.2)).drawn) b

/-- Output cut into chain beats (R148, R154): while more follows, the last 16 bytes or fewer wait; the last beat is tagged. -/
def beats : Nat → List Byte → Bool → List (List Byte × Nat)
  | 0, _, _ => []
  | f + 1, d, last =>
    if 16 < d.length then (d.take 16, 0) :: beats f (d.drop 16) last
    else if last && !d.isEmpty then [(d ++ List.replicate (16 - d.length) 0, d.length)]
    else []

/-- Output that waits for a later beat. -/
def heldBack (d : List Byte) : List Byte := if d.isEmpty then [] else d.drop ((d.length - 1) / 16 * 16)

/-- Stage 0 is a decoder. -/
def KDesc.decodes (d : KDesc) : Bool := (d.ids.head?.map isDecoder).getD false

/-- The first failing check of a block's output and of what it completes (R159): the worst case, two lines from the current position
for input-paced calls and the block itself for decoders, the record, and at the end the descriptor. -/
def Block.outFault (b : Block) (n : Nat) (o : LongOp) (r : KernRun) (made len : Nat) (last : Bool) : Option (Nat × Cause) :=
  let d := r.d
  let w := if d.decodes then len else max len 128
  let ka := (b.engine n).kaddr o
  let spans := (if d.chout || w = 0 then [] else [(d.outAddr, max d.outLim (made + w), d.outAddr + made, w)]) ++
    (if last && d.crema then [(d.outAddr, d.outLim, d.outAddr, 64)] else []) ++
    (if last then [(ka, 64, ka + 0x38, 8)] else [])
  spans.findSome? fun (base, total, a, l) => b.longCheck n .write base total a l

/-- The rest of the line in which a block's output ends is undefined until a later block writes it (R159), as far as OUTLIM. -/
def Block.restOfLine (b : Block) (n : Nat) (d : KDesc) (made : Nat) : Block :=
  let l := min ((64 - (d.outAddr + made) % 64) % 64) (d.outLim - made)
  if l = 0 then b else (b.postStore n (d.outAddr + made) (kernFree b.fresh l) false).drawn

/-- The write phase of a block (R159, R169): output, states, the record, then gB and gD; and the completion. -/
def Block.kernRecord (b : Block) (n : Nat) (o : LongOp) (r : KernRun) (i : KInput) (made : Nat) (c : ChainOut) : Block :=
  let d := r.d
  let r := { r with stages := c.runs }
  let b := forEach i.entries (fun _ b => b.chainPop n) b
  let r := { r with warn := Nat.lor r.warn i.warn }
  let all := r.out ++ c.out
  let b := if d.chout then (beats (all.length + 1) all i.last).foldl (fun b x => b.chainPush n x.1 x.2) b
    else if c.out.isEmpty then b else (b.longWrite n (d.outAddr + made) c.out).restOfLine n d (made + c.out.length)
  let r := if d.chout then { r with out := if i.last then [] else heldBack all } else r
  let b := b.stateWrite n r c.hits
  let x := if i.last && d.crema then
      let y := b.cremaClose n r
      (y.1.longWrite n d.outAddr y.2.2, y.2.1)
    else (b, r)
  let b := (x.1.longNext n (fun e =>
    let e := (e.addG o.b i.used).setG o.d (BitVec.ofNat 64 (made + c.out.length))
    { e with kern := e.kern.put (e.kaddr o) x.2 }) false).countEng n 0x0E
  if i.last then b.kernEnd n o .ok x.2.warn x.2.result else b

/-- The payload bytes of a capture unit whose header has come (R167, R168). -/
def KernRun.payload (r : KernRun) : Nat :=
  if r.d.inLen < 16 then 0 else if r.hdrBad then r.d.inLen else min (r.d.inLen - 16) r.declen

/-- The header of a capture unit has just come, and its payload ends in an odd byte of a stage that takes elements (R163). -/
def KernRun.oddUnit (r : KernRun) : Bool :=
  r.d.crema && r.hdr.length == 16 && !r.evenFrom 0 r.d.ids r.payload

/-- A block with its input at hand (R159, R171). Chain entries that a block has read and that the call ends without recording stay in
the FIFO: the spec does not say (DESIGN CHOICE, log entry 56). -/
def Block.kernWork (b : Block) (n : Nat) (o : LongOp) (r : KernRun) (i : KInput) (made : Nat) (find : BankFind) : Block :=
  let d := r.d
  let sp := if d.crema then r.split i.bytes else (r, i.bytes)
  let odd := r.hdr.length < 16 && sp.1.oddUnit
  let r := sp.1
  let c := stagesFrom r b.fresh i.last 0 d.ids r.stages sp.2
  let b := { b with fresh := b.fresh + 8 }
  let warn := Nat.lor i.warn (r.unitWarn (((b.engine n).g o.b).toNat + i.used))
  if odd then b.kernEnd n o .badDesc 0 0
  else match b.stateFault n r with
  | some (x, f) => b.longTrap n x f
  | none =>
    if !d.chout && decide (d.outLim < made + c.out.length) then b.kernStop n o .outFull warn
    else match b.outFault n o r made c.out.length i.last with
      | some (x, f) => b.longTrap n x f
      | none =>
        let room := match (b.chainsOf n).1 with
          | some j => 32 - (b.chainAt j).spent
          | none => 0
        let all := r.out ++ c.out
        if d.chout ∧ room < (beats (all.length + 1) all i.last).length then b
        else match b.stateRead n find d.states with
          | (b, none) => b
          | (b, some true) => b.kernStop n o .stateErr warn
          | (b, some false) => b.kernRecord n o r i made c

/-- One kernel block (R158 to R160); `find` is what one of its reads finds. A call that no longer reaches a FIFO it needs ends
CHAINOFF (R150, R307). -/
def Block.kernBlock (b : Block) (n : Nat) (o : LongOp) (find : BankFind) : Block :=
  let fs := if o.first then b.kernFinds find 0 4 else b.kernFinds find 2 2
  let opened := if o.first then fs.1.kernOpen n o fs.2 else Opened.go fs.1
  match opened with
  | .ended b => b
  | .go b =>
    let e := b.engine n
    let r := e.kern' o
    let d := r.d
    let pos := (e.g o.b).toNat
    let made := if d.crema ∧ (e.g o.d).toNat = 0 then 64 else (e.g o.d).toNat
    let c := min (d.inLen - pos) (64 - (d.inAddr + pos) % 64)
    if b.chainOff n d then b.kernStop n o .chainOff 0
    else
      let t := if d.chin then b.kernPop n
        else if d.decodes then b.kernDecode n o r pos made (fs.2 2)
        else b.kernRead n o r pos c (decide (d.inLen ≤ pos + c)) (fs.2 2)
      match t with
      | .wait b => b
      | .ended b => b
      | .input b i => b.kernWork n o ((b.engine n).kern' o) i made (fs.2 3)

/-- KERNEL_BLOCK (R158, R159): the next block of engine `n`'s KCALL; nothing where none is in progress. `find`: what one of the
block's reads finds, which the state does not decide (R208, R211, R213, R521). -/
def execKernelBlock (n : PE) (find : BankFind) (s : State) : Host.Outcome State Fault Refusal :=
  let b := s.blk
  let e := b.engine n
  done s <|
    if b.runs n && e.wait.isNone && e.hold == .none && !b.trapFirst n then
      match e.long with
      | some o => if o.op = 0xB5 then (if e.longCorrupt o then b.feisFault n else b.kernBlock n o find) else b
      | none => b
    else b

end Sys2Proof.Machine
end

