-- ==== Sys2Proof/Machine/Uword.lean ====
section
/-! DEFINITION. The microword: its fields, its reserved encodings and minimum lengths, and what its datapath units compute
from operand values (02: R29, R31, R36, R41 to R51, R56; 05: R145, R146). -/
namespace Sys2Proof.Machine

/-! ## Fields (R29) -/

/-- A microword by its fields; RSV is ignored (R31). -/
structure Uword where
  cyc : Nat
  trapok : Bool
  seq : Nat
  tgt : Nat
  ca : Nat
  cb : Nat
  ccomb : Nat
  alu : Nat
  asel : Nat
  bsel : Nat
  dsel : Nat
  shop : Nat
  shamt : Nat
  mul : Nat
  fp : Nat
  fmt : Nat
  ln : Nat
  lna : Nat
  lnb : Nat
  lnd : Nat
  rot : Nat
  mem : Nat
  madr : Nat
  msz : Nat
  xf : Nat
  xch : Nat
  lctl : Nat
  imm : Nat
  flags : Nat
  strd : Nat
  ext : Nat
deriving DecidableEq, Repr

/-- The fields of 192 bits (R29). -/
def Uword.ofBits (v : Nat) : Uword where
  cyc := bitsOf v 189 3
  trapok := v.testBit 188
  seq := bitsOf v 184 4
  tgt := bitsOf v 171 13
  ca := bitsOf v 165 6
  cb := bitsOf v 159 6
  ccomb := bitsOf v 156 3
  alu := bitsOf v 150 6
  asel := bitsOf v 144 6
  bsel := bitsOf v 138 6
  dsel := bitsOf v 132 6
  shop := bitsOf v 129 3
  shamt := bitsOf v 123 6
  mul := bitsOf v 120 3
  fp := bitsOf v 114 6
  fmt := bitsOf v 112 2
  ln := bitsOf v 107 5
  lna := bitsOf v 104 3
  lnb := bitsOf v 101 3
  lnd := bitsOf v 98 3
  rot := bitsOf v 92 6
  mem := bitsOf v 88 4
  madr := bitsOf v 84 4
  msz := bitsOf v 81 3
  xf := bitsOf v 77 4
  xch := bitsOf v 72 5
  lctl := bitsOf v 68 4
  imm := bitsOf v 36 32
  flags := bitsOf v 28 8
  strd := bitsOf v 24 4
  ext := bitsOf v 16 8

/-- FLAGS' bits (R41). -/
def Uword.flag (w : Uword) (i : Nat) : Bool := w.flags.testBit i

/-- The access size that MSZ names, in bytes (R51). -/
def Uword.size (w : Uword) : Nat :=
  match w.msz with
  | 0 => 1
  | 1 => 2
  | 2 => 4
  | 3 => 8
  | 4 => 16
  | _ => 64

/-- The immediate's position and width of BFX and BFI (R45). -/
def Uword.pos (w : Uword) : Nat := w.imm % 64
def Uword.width (w : Uword) : Nat := w.imm / 2 ^ 8 % 64

/-! ## Reserved encodings and combinations (R31, R33, R36, R41, R42, R44 to R54, R146, R148) -/

/-- ALU operations with which FLAGS[1] is allowed (R41). -/
def carries (op : Nat) : Bool := decide (3 ≤ op ∧ op ≤ 9) || [0x11, 0x12, 0x13, 0x22, 0x23, 0x24, 0x29].contains op

/-- EXT operation codes that a unit defines (R54, R228, R276, R344, R359, R372, R405). -/
def extDefined (x : Nat) : Bool :=
  x == 0 || decide (0x20 ≤ x ∧ x ≤ 0x23) || decide (0x40 ≤ x ∧ x ≤ 0x44) || decide (0x60 ≤ x ∧ x ≤ 0x62) ||
    decide (0x80 ≤ x ∧ x ≤ 0x82) || x == 0xA0 || decide (0xC0 ≤ x ∧ x ≤ 0xC2)

/-- MEMOPs that are locked or atomic (R51). -/
def memLocked (m : Nat) : Bool := m == 8 || m == 9 || decide (0xB ≤ m ∧ m ≤ 0xD)

/-- MEMOPs whose data or result the word waits for (R51, R57). -/
def memWaits (m : Nat) : Bool := [1, 2, 4, 6, 8, 9, 0xB, 0xC, 0xD].contains m

/-- MEMOPs that write MDR (R51). -/
def memToMdr (m : Nat) : Bool := [1, 2, 8, 0xB, 0xC, 0xD].contains m

/-- The word is reserved by its fields alone. -/
def Uword.reserved (w : Uword) : Bool :=
  w.seq == 0xF || (w.seq == 7 && w.ccomb != 0) ||
    (w.seq == 9 && w.lctl / 4 != 0) ||
    (w.flag 1 && (!carries w.alu || w.flag 3)) || (w.flag 7 && w.shop != 0) || decide (0xA ≤ w.strd) ||
    decide (0x3B ≤ w.dsel) || ([0, 0x24, 0x25].contains w.alu && w.dsel != 0x30) || decide (0x2C ≤ w.alu) ||
    ((w.alu == 0x27 || w.alu == 0x28) && (w.width == 0 || decide (64 < w.pos + w.width))) ||
    decide (0x1D ≤ w.fp) || w.fmt == 3 || decide (0x1E ≤ w.ln) || (w.ln == 0x15 && decide (4 ≤ w.shamt)) ||
    (w.ln == 0x12 && decide (16 < w.imm % 32)) || (w.ln == 0x11 && (memToMdr w.mem || w.dsel == 0x36)) ||
    w.msz == 5 || w.msz == 7 || w.mem == 0xF || ((w.mem == 4 || w.mem == 5) && w.msz != 4) ||
    ((w.mem == 6 || w.mem == 7) && w.msz != 6) || decide (0xD ≤ w.xf) || (w.xf == 9 && decide (5 ≤ w.imm % 8)) ||
    !extDefined w.ext

/-- NEXT, BR, CALL or CCALL at 0x1FFF (R33). -/
def Uword.offEnd (w : Uword) (at' : Nat) : Bool := [0, 2, 3, 4].contains w.seq && at' == 0x1FFF

/-! ## The shortest microcycle (R56) -/

/-- The smallest CYC of the ALU and the shifter. -/
def Uword.minAlu (w : Uword) : Nat :=
  if [0x18, 0x19, 0x1A, 0x21, 0x27, 0x28, 0x2A, 0x2B].contains w.alu || (w.shop != 0 && w.alu != 2) then 1 else 0

/-- The smallest CYC of the lane. -/
def Uword.minLane (w : Uword) : Nat :=
  if w.ln = 0x14 then 2
  else if decide (6 ≤ w.ln ∧ w.ln ≤ 0xD) || w.ln == 0x13 || w.ln == 0x15 || w.ln == 0x16 || decide (0x1A ≤ w.ln) then 1
  else 0

/-- The smallest CYC of the FPU. -/
def Uword.minFp (w : Uword) : Nat :=
  if w.fp = 0 ∨ (0xC ≤ w.fp ∧ w.fp ≤ 0xE) then 0 else if w.fp = 0x1B then 1 else 2

/-- The smallest CYC of the word. -/
def Uword.minCyc (w : Uword) : Nat :=
  max (max w.minAlu w.minLane) (max w.minFp (if w.mul = 0 then 0 else 2))

/-! ## Shifter (R46) -/

/-- The shift amount: SHAMT, or A[5:0] where SHAMT is 0; five bits of it for the 32-bit shifts. -/
def Uword.amount (w : Uword) (a : W64) : Nat :=
  let k := if w.shamt = 0 then a.toNat % 64 else w.shamt
  if 6 ≤ w.shop then k % 32 else k

/-- The B operand after the shifter. -/
def shifted (op k : Nat) (b : W64) : W64 :=
  match op with
  | 1 => b <<< k
  | 2 => b >>> k
  | 3 => b.sshiftRight k
  | 4 => b.rotateRight k
  | 5 => b.rotateLeft k
  | 6 => ((b.setWidth 32) <<< k).setWidth 64
  | 7 => ((b.setWidth 32) >>> k).setWidth 64
  | _ => b

/-- The last bit a shift by `k` ≠ 0 moved out (R41, R46); a rotate's is the bit that wrapped last. -/
def shiftedOut (op k : Nat) (b : W64) : Bool :=
  match op with
  | 1 => b.getLsbD (64 - k)
  | 5 => b.getLsbD (64 - k)
  | 6 => (b.setWidth 32).getLsbD (32 - k)
  | _ => b.getLsbD (k - 1)

/-! ## ALU (R45) -/

/-- What the ALU gives: the result, and its carry, overflow and carry out of bit 31. -/
structure AluOut where
  r : W64
  c : Bool
  v : Bool
  c32 : Bool
deriving DecidableEq, Repr

/-- `x + y + cin` with its carries. -/
def aluSum (x y : W64) (cin : Bool) : AluOut :=
  let r := x + y + BitVec.ofNat 64 (bit cin)
  ⟨r, decide (2 ^ 64 ≤ x.toNat + y.toNat + bit cin), x.msb == y.msb && r.msb != x.msb,
    decide (2 ^ 32 ≤ x.toNat % 2 ^ 32 + y.toNat % 2 ^ 32 + bit cin)⟩

/-- A result whose carries the spec does not state: they are bits of a free value (log entry 54). -/
def aluPlain (free r : W64) : AluOut := ⟨r, free.getLsbD 0, free.getLsbD 1, free.getLsbD 2⟩

/-- An ALU operation on A and the shifted B; `c` is latch C, `stc` ST.C. DSTEP and DFIX work on registers of their own, so
their result proper is a free value. -/
def aluOp (w : Uword) (a b : W64) (c stc : Bool) (free : W64) : AluOut :=
  let plain := aluPlain free
  match w.alu with
  | 0x01 => plain a
  | 0x02 => plain b
  | 0x03 => aluSum a b false
  | 0x04 => aluSum a b c
  | 0x05 => aluSum a b stc
  | 0x06 => aluSum a (~~~b) true
  | 0x07 => aluSum a (~~~b) c
  | 0x08 => aluSum a (~~~b) stc
  | 0x09 => aluSum b (~~~a) true
  | 0x0A => plain (a &&& b)
  | 0x0B => plain (a ||| b)
  | 0x0C => plain (a ^^^ b)
  | 0x0D => plain (a &&& ~~~b)
  | 0x0E => plain (a ||| ~~~b)
  | 0x0F => plain (~~~(a ^^^ b))
  | 0x10 => plain (~~~a)
  | 0x11 => aluSum 0 (~~~a) true
  | 0x12 => aluSum a 0 true
  | 0x13 => aluSum a (~~~(1 : W64)) true
  | 0x14 => plain (minS a b)
  | 0x15 => plain (maxS a b)
  | 0x16 => plain (minU a b)
  | 0x17 => plain (maxU a b)
  | 0x18 => plain (BitVec.ofNat 64 (clz64 a))
  | 0x19 => plain (BitVec.ofNat 64 (ctz64 a))
  | 0x1A => plain (BitVec.ofNat 64 (popc64 a))
  | 0x1B => plain (extend 0 a)
  | 0x1C => plain (extend 1 a)
  | 0x1D => plain (extend 2 a)
  | 0x1E => plain (extend 3 a)
  | 0x1F => plain (extend 4 a)
  | 0x20 => plain (extend 5 a)
  | 0x21 => plain (bswap64 a)
  | 0x22 => { plain (extend 5 (a + b)) with c32 := (aluSum a b false).c32 }
  | 0x23 => { plain (extend 5 (a - b)) with c := (aluSum a (~~~b) true).c32, c32 := (aluSum a (~~~b) true).c32 }
  | 0x24 => aluSum a (~~~b) true
  | 0x25 => plain (a &&& b)
  | 0x26 => plain (if c then a else b)
  | 0x27 => plain (bfx a w.pos w.width)
  | 0x28 => plain (bfi a b w.pos w.width)
  | 0x29 => { plain (BitVec.ofNat 64 ((a + b).toNat % 2 ^ 48)) with c32 := (aluSum a b false).c32 }
  | _ => plain free

/-! ## Multiplier (R47) -/

/-- The 128-bit value a MULOP gives; `acc` is {MHI, MLO}. -/
def mulOp (op : Nat) (a b : W64) (acc : W128) : W128 :=
  match op with
  | 1 => (lo64 (mulU a b)).setWidth 128
  | 2 => mulS a b
  | 5 => mulS a b
  | 4 => BitVec.ofInt 128 (a.toInt * b.toNat)
  | 7 => acc + mulU a b
  | _ => mulU a b

/-- MULV (R41): the product is not the extension of its low half; for MULSU, which is neither form, and without a MULOP the
bit is free (log entry 54). -/
def mulV (op : Nat) (a b : W64) (free : Bool) : Bool :=
  match op with
  | 0 => free
  | 4 => free
  | 2 => mulOverflow a b
  | 5 => mulOverflow a b
  | _ => hi64 (mulU a b) != 0

/-! ## FPU (R48) -/

/-- What an FPOP other than the division steps gives for FPR, its flags, and a comparison's outcome. -/
def fpuOp (w : Uword) (env : FpEnv) (a b acc : Nat) : Option Nat × FpFlags × Option FpCmp :=
  let f := w.fmt
  let val := fun (r : Nat × FpFlags) => (some r.1, r.2, (none : Option FpCmp))
  match w.fp with
  | 0x01 => val (fpAdd f env a b false)
  | 0x02 => val (fpAdd f env a b true)
  | 0x03 => val (fpMul f env a b)
  | 0x04 => val (fpFma f env a b acc false false)
  | 0x05 => val (fpFma f env a b acc false true)
  | 0x06 => val (fpFma f env a b acc true false)
  | 0x07 => val (fpFma f env a b acc true true)
  | 0x08 => val (fpMinMax f env a b false)
  | 0x09 => val (fpMinMax f env a b true)
  | 0x0A => let r := fpCompare f env a b false; (none, r.2, some r.1)
  | 0x0B => let r := fpCompare f env a b true; (none, r.2, some r.1)
  | 0x0C => val (fpWithSign f a false, 0)
  | 0x0D => val (fpWithSign f a (!fpSign f a), 0)
  | 0x0E => val (fpWithSign f a (fpSign f b), 0)
  | 0x0F => val (fpClass f a, 0)
  | 0x10 => val (fpConvert f 0 env a)
  | 0x11 => val (fpConvert f 1 env a)
  | 0x12 => val (fpConvert f 2 env a)
  | 0x13 => val (fpToInt f env a false false)
  | 0x14 => val (fpToInt f env a true false)
  | 0x15 => val (fpToInt f env a false true)
  | 0x16 => val (fpToInt f env a true true)
  | 0x17 => val (fpOfInt f env a false)
  | 0x18 => val (fpOfInt f env a true)
  | 0x19 => val (fpRint f env a)
  | _ => (none, 0, none)

/-- A fused operation (R48): its result is readable one word later. -/
def fpFused (op : Nat) : Bool := decide (4 ≤ op ∧ op ≤ 7)

/-! ## Lane (R49, R50, R146) -/

/-- Byte `i` of a lane value. -/
def laneByte (v : W128) (i : Nat) : Byte := v.extractLsb' (8 * i) 8

/-- A lane value from its bytes. -/
def laneOf (f : Nat → Byte) : W128 := BitVec.ofNat 128 (leNat ((List.range 16).map f))

/-- The 16 bytes of a lane value. -/
def laneBytes (v : W128) : List Byte := leBytes v.toNat 16

/-- A lane value from 16 bytes. -/
def laneNat (d : List Byte) : W128 := BitVec.ofNat 128 (leNat d)

/-- Word `i` of a lane value. -/
def laneWord (v : W128) (i : Nat) : W32 := v.extractLsb' (32 * i) 32

/-- A lane value from its four words. -/
def laneWords (f : Nat → W32) : W128 :=
  BitVec.ofNat 128 ((f 0).toNat + 2 ^ 32 * (f 1).toNat + 2 ^ 64 * (f 2).toNat + 2 ^ 96 * (f 3).toNat)

/-- A lane value from a function that gives each bit. -/
def laneBits (f : Nat → Bool) : W128 := BitVec.ofNat 128 ((List.range 128).foldr (fun i r => bit (f i) + 2 * r) 0)

/-- VTRN's arrangement (R146): the input bit that output bit `j` takes. -/
def trnFrom (sel j : Nat) : Nat :=
  match sel with
  | 0 => 16 * (j % 8) + j / 8
  | 1 => 8 * (j % 16) + j / 16
  | 2 => 8 * (j % 16) + j / 16
  | _ => 16 * (j % 8) + j / 8

/-- The carry-less product of two 64-bit values. -/
def clmul (a b : W64) : W128 :=
  (List.range 64).foldl (fun r i => if b.getLsbD i then r ^^^ (a.setWidth 128 <<< i) else r) 0

/-- The rotate amount (R50); `adr` is u[MADR]. -/
def Uword.rotate (w : Uword) (adr : W64) : Nat := if w.rot.testBit 5 then adr.toNat % 16 else w.rot % 16

/-- What VLD and VPASS take from 32 bytes of stream input (R50, R145): the first beat, or the window of two. -/
def Uword.window (w : Uword) (adr : W64) : Nat := if w.rot.testBit 4 then w.rotate adr else 0

/-- The value a lane operation writes to v[LND]; `x` and `y` are v[LNA] and v[LNB], `z` v[LND] as it stands, `src` what a
VLD, VPASS or VCHIN takes. VROT with the two-beat window has no second beat: its result is free (log entry 54). -/
def laneOp (w : Uword) (x y z src : W128) (a adr : W64) (free : W128) : Option W128 :=
  let bytes := fun (f : Byte → Byte → Byte) => some (laneOf fun i => f (laneByte x i) (laneByte y i))
  match w.ln with
  | 0x01 => some x
  | 0x02 => some (x &&& y)
  | 0x03 => some (x ||| y)
  | 0x04 => some (x ^^^ y)
  | 0x05 => some (x &&& ~~~y)
  | 0x06 => bytes (· + ·)
  | 0x07 => some (laneWords fun i => laneWord x i + laneWord y i)
  | 0x08 => some (laneWords fun i => laneWord x i - laneWord y i)
  | 0x09 => bytes fun p q => if p = q then 0xFF else 0
  | 0x0A => bytes fun p q => if p.ult q then p else q
  | 0x0B => bytes fun p q => if p.ult q then q else p
  | 0x0C => bytes fun _ q => laneByte x (q.toNat % 16)
  | 0x0D => some (if w.rot.testBit 4 then free else laneOf fun i => laneByte x ((i + w.rotate adr) % 16))
  | 0x0E => some src
  | 0x0F => some src
  | 0x11 => some src
  | 0x13 => some (BitVec.ofNat 128 (z.toNat / 2 ^ 32 * 2 ^ 32 + (crc32c (laneWord y 0) (laneBytes x)).toNat))
  | 0x14 => some (clmul (lo64 x) (lo64 y))
  | 0x15 => some (laneBits fun j => x.getLsbD (trnFrom (w.shamt % 4) j))
  | 0x16 => some (BitVec.ofNat 128 (((laneBytes x).zip (laneBytes y)).takeWhile fun p => p.1 == p.2).length)
  | 0x17 => some (laneOf fun _ => a.setWidth 8)
  | 0x18 => some (join64 (hi64 z) a)
  | 0x19 => some (join64 a (lo64 z))
  | 0x1A => some (x <<< w.shamt)
  | 0x1B => some (x >>> w.shamt)
  | 0x1C => some (laneOf fun i => BitVec.ofNat 8 (onesBelow (laneByte x i).toNat 8))
  | 0x1D => some (BitVec.ofNat 128 (z.toNat / 2 ^ 12 * 2 ^ 12 + ((laneBytes x).foldl (fun s p => s + p.toNat) 0)))
  | _ => none

/-- LNC (R41): a carry out of any element of a lane add; for any other operation the bit is free. -/
def laneCarry (ln : Nat) (x y : W128) (free : Bool) : Bool :=
  match ln with
  | 0x06 => (List.range 16).any fun i => decide (2 ^ 8 ≤ (laneByte x i).toNat + (laneByte y i).toNat)
  | 0x07 => (List.range 4).any fun i => decide (2 ^ 32 ≤ (laneWord x i).toNat + (laneWord y i).toNat)
  | _ => free

/-- LMATCH (R40): a lane compare matched in some byte; for any other operation the bit is free. -/
def laneMatch (ln : Nat) (x y : W128) (free : Bool) : Bool :=
  if ln = 0x09 then (List.range 16).any fun i => laneByte x i == laneByte y i else free

end Sys2Proof.Machine
end

