-- ==== Sys2Proof/Machine/Micro.lean ====
section
/-! DEFINITION. The execution of one microword: operands, conditions, micro-faults, requests, commits and the next address,
and the answers that reach the engine (02, R28 to R60; 05, R143 to R149; 11, R296, R306). -/
namespace Sys2Proof.Machine

/-! ## Operands and streams (R43, R143 to R145) -/

/-- An operand source (R43). -/
def Engine.operand (e : Engine) (w : Uword) (code : Nat) : W64 :=
  if code < 0x20 then e.g code
  else if code < 0x30 then e.ur (code - 0x20)
  else match code with
    | 0x30 => BitVec.ofNat 64 w.imm
    | 0x31 => (BitVec.ofNat 32 w.imm).signExtend 64
    | 0x33 => e.st.word
    | 0x34 => e.pc.setWidth 64
    | 0x35 => BitVec.ofNat 64 (nextPc e.pc (irLen e.ir))
    | 0x36 => e.ir
    | 0x37 => e.g (fieldD e.ir)
    | 0x38 => e.g (fieldA e.ir)
    | 0x39 => e.g (fieldB e.ir)
    | 0x3A => e.mdr
    | 0x3B => e.mlo
    | 0x3C => e.mhi
    | 0x3D => e.fpr
    | 0x3E => lo64 (e.v w.lna)
    | 0x3F => hi64 (e.v w.lna)
    | _ => 0

/-- A, B and u[MADR] of a word. -/
def Engine.opA (e : Engine) (w : Uword) : W64 := e.operand w w.asel
def Engine.opB (e : Engine) (w : Uword) : W64 := e.operand w w.bsel
def Engine.madr (e : Engine) (w : Uword) : W64 := e.ur w.madr

/-- The bytes that stream input entries hold before the first one still awaited. -/
def heldBytes : List StreamIn → List Byte
  | .data d :: t => d ++ heldBytes t
  | _ => []

/-- The unconsumed bytes of the stream input buffer (R143). -/
def Engine.streamHeld (e : Engine) : List Byte := (heldBytes e.streamIn).drop e.streamPos

/-- SRDY (R143, R145): 16 bytes are held, counted from the window's offset. -/
def Engine.streamReady (e : Engine) (w : Uword) : Bool :=
  decide (16 + w.window (e.madr w) ≤ e.streamHeld.length)

/-- 16 bytes of stream input consumed (R143). -/
def Engine.streamStep (e : Engine) : Engine :=
  if e.streamPos + 16 < 64 then { e with streamPos := e.streamPos + 16 }
  else { e with streamPos := 0, streamIn := e.streamIn.drop 1 }

/-- SOSP (R144). -/
def Engine.streamRoom (e : Engine) : Bool := decide (e.streamOut.length + 16 ≤ 256)

/-- Stream input entries as `f` says, first match only. -/
def fillFirst (p : StreamIn → Bool) (d : List Byte) : List StreamIn → List StreamIn
  | [] => [.data d]
  | x :: t => if p x then .data d :: t else x :: fillFirst p d t

/-! ## Conditions (R39, R40) -/

/-- The slot of a channel. -/
def Engine.slot (e : Engine) (c : Nat) : Slot := e.slots.get c .free

/-- The response held in a channel's slot. -/
def Slot.got : Slot → Option (List Byte × Bool)
  | .held d err => some (d, err)
  | _ => none

/-- The rights that a word's MEMOP or XFOP needs; none where it names no access (R51, R52). -/
def Uword.rights (w : Uword) : Option (List Right) :=
  match w.mem with
  | 0 => match w.xf with
    | 1 => some [.read]
    | 4 => some [.read]
    | 7 => some [.read]
    | 2 => some [.write]
    | 3 => some [.write]
    | 5 => some [.write]
    | 8 => some [.read, .write]
    | 9 => some [.read, .write]
    | _ => none
  | 0xE => none
  | 3 => some [.write]
  | 5 => some [.write]
  | 7 => some [.write]
  | 9 => some [.read, .write]
  | 0xB => some [.read, .write]
  | 0xC => some [.read, .write]
  | 0xD => some [.read, .write]
  | _ => some [.read]

/-- The address of a word's access (R51). -/
def Engine.uaddr (e : Engine) (w : Uword) : Nat := (e.madr w).toNat % 2 ^ 48

/-- The region table and bank checks of an access that names no right, PROBE's and RGNOK's: where the table grants one of R
and W, a free bit says which counts (log entry 54). -/
def Block.probeCheck (b : Block) (n a len : Nat) : Option (Nat × Cause) :=
  let r := b.check n [.read] a len
  let x := b.check n [.write] a len
  if r == x then r else if b.freeWord.getLsbD 63 then r else x

/-- RGNOK (R40). -/
def Block.regionOk (b : Block) (n : Nat) (w : Uword) : Bool :=
  let e := b.engine n
  let a := e.uaddr w
  let ok := fun (r : Right) => e.allows e.st.level r a w.size
  match w.rights with
  | some rs => rs.all ok
  | none => if ok .read == ok .write then ok .read else b.freeWord.getLsbD 63

/-- A condition (R40). -/
def Block.condition (b : Block) (n : Nat) (w : Uword) (code : Nat) : Bool :=
  let e := b.engine n
  let le := fun (f : Nat → Bool) => match b.leOf n with
    | some k => f k
    | none => false
  match code with
  | 0x00 => true
  | 0x01 => e.lat.z
  | 0x02 => e.lat.n
  | 0x03 => e.lat.c
  | 0x04 => e.lat.v
  | 0x05 => e.lat.z32
  | 0x06 => e.lat.n32
  | 0x07 => e.lat.c32
  | 0x08 => e.lat.uf.getLsbD 0
  | 0x09 => e.lat.uf.getLsbD 1
  | 0x0A => e.lat.uf.getLsbD 2
  | 0x0B => e.lat.uf.getLsbD 3
  | 0x0C => e.lat.flt
  | 0x0D => e.lat.feq
  | 0x0E => e.lat.fun'
  | 0x0F => e.fpt.isSome
  | 0x10 => e.lat.lz
  | 0x11 => e.lat.lmatch
  | 0x12 => e.l.get 0 0 == 0
  | 0x13 => e.l.get 1 0 == 0
  | 0x14 => e.l.get 2 0 == 0
  | 0x15 => e.l.get 3 0 == 0
  | 0x16 => e.ustack.isEmpty
  | 0x17 => decide (16 ≤ e.ustack.length)
  | 0x18 => e.st.c
  | 0x19 => e.st.z
  | 0x1A => e.st.n
  | 0x1B => e.st.v
  | 0x1C => e.st.rsm
  | 0x1D => e.st.sup
  | 0x1E => e.st.tw
  | 0x1F => b.irqDue n
  | 0x20 => (b.trapDue n).isSome
  | 0x21 => e.halt.isSome
  | 0x22 => e.st.ss
  | 0x23 => b.flag (R.ENG_WDG_CTRL_EXP1 n)
  | 0x24 => b.flag (R.ENG_LKSTAT_LKACT n)
  | 0x25 => b.flag (R.ENG_LKSTAT_LOCKBREAK n) && b.get (R.ENG_LKSTAT_BRKCAUSE n) == 1
  | 0x26 => b.flag (R.ENG_LKSTAT_LOCKBREAK n)
  | 0x27 => (e.slot w.xch).got.isSome
  | 0x28 => e.slot w.xch == .free
  | 0x29 => ((e.slot w.xch).got.map (·.2)).getD false
  | 0x2A => (b.chainHead n).isSome
  | 0x2B => b.chainRoom n
  | 0x2C => ((b.chainHead n).map (·.2 != 0)).getD false
  | 0x2D => e.streamReady w
  | 0x2E => e.streamRoom
  | 0x2F => e.scnt == 0
  | 0x30 => le b.inq
  | 0x31 => !e.extBusy
  | 0x32 => e.extErr
  | 0x33 => (e.opA w).getLsbD w.shamt
  | 0x34 => decide (16 < e.uaddr w % 16 + w.size)
  | 0x35 => e.uaddr w % w.size != 0
  | 0x36 => b.regionOk n w
  | 0x37 => irLen e.ir == 8
  | 0x38 => b.dbDue n
  | 0x39 => e.freezeReq
  | 0x3A => e.st.fz
  | 0x3B => decide (1 ≤ b.get R.PWR_STAT_PHASE) && decide (b.get R.PWR_STAT_PHASE ≤ 5)
  | 0x3C => b.kettle.warnEng.testBit n
  | 0x3D => e.lat.lnc
  | 0x3E => b.flag (R.ENG_USTAT_UTIN n)
  | _ => false

/-- CCOMB (R39). -/
def combine (k : Nat) (a b : Bool) : Bool :=
  match k with
  | 0 => a
  | 1 => !a
  | 2 => a && b
  | 3 => a || b
  | 4 => a != b
  | 5 => !(a && b)
  | 6 => a && !b
  | _ => !(a || b)

/-- The conditions a word reads at its start. -/
def Block.conds (b : Block) (n : Nat) (w : Uword) : MemWait :=
  let x := b.condition n w w.ca
  let y := b.condition n w w.cb
  ⟨x, y, combine w.ccomb x y, none⟩

/-! ## What a word reads and writes, for its stored codes (R59, R142, R295, R296) -/

/-- The elements of an operand source (R43). -/
def Engine.operandElems (e : Engine) (w : Uword) (code : Nat) : List Nat :=
  if code < 0x20 then [e.gElem code, 128]
  else if code < 0x30 then [98 + (code - 0x20)]
  else match code with
    | 0x33 => [128]
    | 0x34 => [129]
    | 0x35 => [129, 130]
    | 0x36 => [130]
    | 0x37 => [e.gElem (fieldD e.ir), 128, 130]
    | 0x38 => [e.gElem (fieldA e.ir), 128, 130]
    | 0x39 => [e.gElem (fieldB e.ir), 128, 130]
    | 0x3A => [114]
    | 0x3B => [115]
    | 0x3C => [116]
    | 0x3D => [117]
    | 0x3E => (vElems w.lna).take 2
    | 0x3F => (vElems w.lna).drop 2
    | _ => []

/-- The elements of a condition (R40). -/
def Engine.condElems (e : Engine) (w : Uword) (code : Nat) : List Nat :=
  if (1 ≤ code ∧ code ≤ 0x0E) ∨ code = 0x10 ∨ code = 0x11 ∨ code = 0x3D then [132]
  else if 0x12 ≤ code ∧ code ≤ 0x15 then [133 + (code - 0x12)]
  else if code = 0x16 ∨ code = 0x17 then [137]
  else if (0x18 ≤ code ∧ code ≤ 0x20) ∨ code = 0x22 ∨ code = 0x38 ∨ code = 0x3A then [128]
  else if 0x27 ≤ code ∧ code ≤ 0x29 then [141 + w.xch]
  else if code = 0x2D ∨ code = 0x2E then [140]
  else if code = 0x2F then [131]
  else if code = 0x33 then e.operandElems w w.asel
  else if 0x34 ≤ code ∧ code ≤ 0x36 then [98 + w.madr]
  else if code = 0x37 then [130]
  else []

/-- The word's SEQ, or FLAGS[7], uses C (R33, R41). -/
def Uword.usesC (w : Uword) : Bool := [2, 4, 6, 7, 0xA].contains w.seq || w.flag 7

/-- The elements that the word's conditions read. -/
def Engine.condReads (e : Engine) (w : Uword) : List Nat :=
  if w.usesC then
    e.condElems w w.ca ++ (if w.seq = 7 ∨ 2 ≤ w.ccomb then e.condElems w w.cb else [])
  else []

/-- The word uses operand A, operand B. -/
def Uword.usesA (w : Uword) : Bool :=
  (w.alu != 0 && w.alu != 2 && decide (w.alu < 0x2A)) || w.mul != 0 || (w.fp != 0 && decide (w.fp < 0x1A)) ||
    (w.shop != 0 && w.shamt == 0) || w.lctl / 4 == 2 || [0x17, 0x18, 0x19].contains w.ln || w.ext != 0 || w.mem == 0xD ||
    w.xf == 9
def Uword.usesB (w : Uword) : Bool :=
  (w.alu != 0 && decide (w.alu < 0x2A) && !([1, 0x10, 0x11, 0x12, 0x13, 0x27].contains w.alu) &&
      !decide (0x18 ≤ w.alu ∧ w.alu ≤ 0x21)) || w.shop != 0 || w.mul != 0 ||
    (w.fp != 0 && (decide (w.fp < 0x0C) || w.fp == 0x0E)) || w.ext != 0 || [3, 9, 0xB, 0xC, 0xD].contains w.mem ||
    [2, 8, 9].contains w.xf

/-- The word's address comes from u[MADR] (R50, R51, R52). -/
def Uword.usesMadr (w : Uword) : Bool :=
  w.mem != 0 || (w.xf != 0 && !([6, 0xA, 0xB, 0xC].contains w.xf)) || ([0x0D, 0x0E, 0x0F].contains w.ln && w.rot.testBit 5)

/-- What the word's requests carry: they are checked before they are sent (R142). -/
def Engine.sends (e : Engine) (w : Uword) : List Nat :=
  (if w.mem ≠ 0 ∨ (w.xf ≠ 0 ∧ w.xf ≠ 6 ∧ w.xf ≠ 0xA ∧ w.xf ≠ 0xB ∧ w.xf ≠ 0xC) then [98 + w.madr, 128] else []) ++
    (if [3, 9, 0xB, 0xC, 0xD].contains w.mem ∨ [2, 8, 9].contains w.xf ∨ w.ext ≠ 0 then e.operandElems w w.bsel else []) ++
    (if w.mem = 0xD ∨ w.xf = 9 ∨ w.ext ≠ 0 then e.operandElems w w.asel else []) ++
    (if w.mem = 5 ∨ w.xf = 3 ∨ w.xf = 0xA then vElems w.lna else []) ++ (if w.mem = 7 ∨ w.xf = 5 then [140] else [])

/-- What the lane reads (R49). -/
def Uword.laneReads (w : Uword) : List Nat :=
  (if (1 ≤ w.ln ∧ w.ln ≤ 0x0D ∧ w.ln ≠ 0) ∨ w.ln = 0x10 ∨ (0x12 ≤ w.ln ∧ w.ln ≤ 0x16) ∨ 0x1A ≤ w.ln then vElems w.lna else []) ++
    (if (2 ≤ w.ln ∧ w.ln ≤ 0x0C) ∨ w.ln = 0x13 ∨ w.ln = 0x14 ∨ w.ln = 0x16 then vElems w.lnb else []) ++
    (if w.ln = 0x13 ∨ w.ln = 0x18 ∨ w.ln = 0x19 ∨ w.ln = 0x1D then vElems w.lnd else []) ++
    (if w.ln = 0x0E ∨ w.ln = 0x0F then [131, 140] else if w.ln = 0x10 then [131] else [])

/-- What a word reads of R28: the operands and conditions of the fields that it uses; a field that is written in part only
(ST by STRD, a loop counter that steps) is read too. µPC names the word, so every word reads it. -/
def Engine.reads (e : Engine) (w : Uword) : List Nat :=
  [138] ++ e.condReads w ++ e.sends w ++ w.laneReads ++
    (if w.usesA then e.operandElems w w.asel else []) ++ (if w.usesB then e.operandElems w w.bsel else []) ++
    (if w.usesMadr then [98 + w.madr] else []) ++
    (if w.alu = 4 ∨ w.alu = 7 ∨ w.alu = 0x26 then [132] else []) ++
    (if w.alu = 5 ∨ w.alu = 8 ∨ w.fp ≠ 0 ∨ w.strd ≠ 0 then [128] else []) ++
    (if 1 ≤ w.strd ∧ w.strd ≤ 4 then [132] else []) ++
    (if 4 ≤ w.fp ∧ w.fp ≤ 7 then [117] else []) ++ (if w.mul = 7 then [115, 116] else []) ++
    (if w.alu = 0x2A ∨ w.alu = 0x2B ∨ 0x1A ≤ w.fp then
      [130, e.gElem (fieldD e.ir), e.gElem ((fieldD e.ir + 1) % 32), e.gElem (fieldA e.ir), e.gElem (fieldB e.ir)] else []) ++
    (if w.mul = 5 ∨ w.mul = 6 ∨ (0x31 ≤ w.dsel ∧ w.dsel ≤ 0x33) then [130] else []) ++
    (if w.lctl / 4 = 3 ∨ w.seq = 9 then [133 + w.lctl % 4] else []) ++ (if w.xf = 6 then [141 + w.xch] else []) ++
    (match w.seq with
      | 5 => [137]
      | 6 => [137]
      | 8 => [130]
      | 0xB => [129, 130]
      | 0xC => [139]
      | 0xD => [98 + 15]
      | _ => [])

/-- Some element of a list disagrees with its stored code. -/
def Engine.anyCorrupt (e : Engine) (l : List Nat) : Bool := !e.codes.isEmpty && l.any e.corrupt

/-- The mismatches that a word's execution and its repetition find (R59, R296): a corrupt element fails both as an operand; else
what the command says of its results and of its operands on the way to the units. -/
def mismatches (res : Residue) (corrupt : Bool) : List Bool :=
  if corrupt then [true, true]
  else match res with
    | .once o => [o]
    | .twice f s _ => [f, s]
    | _ => []

/-- An upset in a stored element: its code is another one from here on (R28, R295). -/
def Block.upset (b : Block) (n : Nat) (res : Residue) : Block :=
  match res with
  | .stored x c => if x < 118 ∨ (128 ≤ x ∧ x < 173) then b.modEngine n fun e => { e with codes := e.codes.put x c } else b
  | _ => b

/-- The mismatches that an execution finds, after one that the word has had before (R59, R296): the word goes on with at most
one, which counts in RETRY when it is the first, and stops at the second. -/
def Block.judge (b : Block) (n : Nat) (seen : Option Bool) (found : List Bool) (go : Option Bool → Block → Block)
    (stop : Bool → Bool → Block → Block) : Block :=
  match seen, found with
  | seen, [] => go seen b
  | none, [k] => go (some k) (b.mismatch n k true)
  | none, k :: l :: _ => stop k l (b.mismatch n k true)
  | some k, l :: _ => stop k l b

/-! ## Micro-faults (R31, R35, R51, R52, R54, R60, R143, R144) -/

/-- A micro-fault: UTPC, LASTCAUSE and MDR record it and the engine enters 0x0028; inside that routine the engine locks up,
with a vector and a world that the spec does not state (R341; log entry 54). -/
def Block.microFault (b : Block) (n cause addr : Nat) : Block :=
  let e := b.engine n
  if e.inFault then
    (b.lockup n .microFault (b.freeWord.toNat % 256) (b.freeWord.getLsbD 8)).drawn
  else
    ((b.setEngine n (Engine.recode { e with
        mdr := BitVec.ofNat 64 (cause + addr * 2 ^ 16), upc := 0x28, inFault := true, wait := none, trapPt := none,
        mdrWritten := true, replay := none } [114, 138, 139])).put (R.ENG_USTAT_UTPC n) e.upc.toNat).put
      (R.ENG_USTAT_LASTCAUSE n) cause

/-- The XFOPs that produce a response (R52). -/
def xfResponds (x : Nat) : Bool := [1, 4, 7, 8, 9, 0xB].contains x

/-- A word's XFOP reads a line for the stream input buffer (R52). -/
def Uword.xfLine (w : Uword) : Bool := w.xf == 4 || (w.xf == 1 && w.msz == 6)

/-- The bytes and the first address of an XFOP's access: RDL and WRL take the line that holds the address. -/
def Uword.xfLen (w : Uword) : Nat := if w.xf = 3 then 16 else if w.xf = 4 ∨ w.xf = 5 then 64 else w.size
def Engine.xfAddr (e : Engine) (w : Uword) : Nat :=
  if w.xf = 4 ∨ w.xf = 5 then e.uaddr w / 64 * 64 else e.uaddr w

/-- A locked or atomic access has the wrong size or alignment (R51). -/
def badAtomic (a len : Nat) : Bool := !(len == 4 || len == 8) || a % len != 0

/-- A failed check as a micro-fault: cause and address. -/
def asFault (x : Option (Nat × Cause)) : Option (Nat × Nat) := x.map fun p => (p.2.code, p.1)

/-- The MEMOP's checks before anything is sent (R51, R197). -/
def Block.memFault (b : Block) (n : Nat) (w : Uword) : Option (Nat × Nat) :=
  let a := (b.engine n).uaddr w
  if w.mem = 0 then none
  else if 0x4000000 < a + w.size then some (6, a)
  else if memLocked w.mem && badAtomic a w.size then some (7, a)
  else match w.rights with
    | some rs => asFault (b.check n rs a w.size)
    | none => asFault (b.probeCheck n a w.size)

/-- The XFOP's checks (R10, R52). -/
def Block.xfFault (b : Block) (n : Nat) (w : Uword) : Option (Nat × Nat) :=
  let e := b.engine n
  let a := e.xfAddr w
  match ({ w with mem := 0 } : Uword).rights with
  | none => none
  | some rs =>
    if decide (7 ≤ w.xf) && badAtomic a w.size then some (7, a) else asFault (b.check n rs a w.xfLen)

/-- The reserved combinations that depend on the engine's state (R33, R47, R51, R148). -/
def Engine.reservedNow (e : Engine) (w : Uword) : Bool :=
  w.offEnd e.upc.toNat || ((w.mul == 5 || w.mul == 6) && fieldD e.ir == 31) ||
    ((w.mem == 6 || w.mem == 7) && e.uaddr w % 64 != 0) ||
    (w.ln == 0x11 && w.xf == 6 && ((e.slot w.xch).got.map fun p => decide (p.1.length ≤ 8)).getD false)

/-- The micro-faults found at decode (R31, R56). -/
def Engine.decodeFault (e : Engine) (w : Uword) : Option (Nat × Nat) :=
  if w.reserved || e.reservedNow w then some (1, 0) else if w.cyc < w.minCyc then some (2, 0) else none

/-- The word pushes, or pops, the micro-stack (R33). -/
def Uword.pushes (w : Uword) (c : Bool) : Bool := w.seq == 3 || (w.seq == 4 && c)
def Uword.pops (w : Uword) (c : Bool) : Bool := w.seq == 5 || (w.seq == 6 && c)

/-- The faults of the stream buffers (R60, R143, R144); a request of kind `sent` has been presented before (R306) and has
its entry already. -/
def Engine.streamFault (e : Engine) (w : Uword) (sent : Nat) : Bool :=
  let fills := bit (w.mem == 6 && sent != 1) + bit (w.xfLine && sent != 2)
  let drains := bit (w.mem == 7) + bit (w.xf == 5)
  ((w.ln == 0x0E || w.ln == 0x0F) && !e.streamReady w) || ((w.ln == 0x0E || w.ln == 0x10) && !e.streamRoom) ||
    (fills != 0 && decide (4 < e.streamIn.length + fills)) || decide (e.streamOut.length < 64 * drains)

/-- The micro-fault of a word that executes, lowest cause first except that an access's checks come in their own order
(log entry 53). A request of kind `sent` (R306: 1 MEMOP, 2 XFOP, 3 EXT) passed its checks when it was presented, and is not
presented again. -/
def Block.wordFault (b : Block) (n : Nat) (w : Uword) (c : Bool) (sent : Nat) : Option (Nat × Nat) :=
  let e := b.engine n
  let slot := e.slot w.xch
  if w.pushes c && decide (16 ≤ e.ustack.length) then some (3, 0)
  else if w.pops c && e.ustack.isEmpty then some (4, 0)
  else match if sent = 1 then none else b.memFault n w with
    | some f => some f
    | none => match if sent = 2 then none else b.xfFault n w with
      | some f => some f
      | none =>
        if (xfResponds w.xf && slot != .free && sent != 2) || (w.xf == 6 && slot.got.isNone) then some (8, 0)
        else if (w.ln == 0x11 && (b.chainHead n).isNone) || (w.ln == 0x12 && !b.chainRoom n) then some (0xA, 0)
        else if w.ext != 0 && e.extBusy && sent != 3 then some (0xB, 0)
        else if e.streamFault w sent then some (0xC, 0)
        else none

/-! ## Requests (R51 to R55) -/

/-- The repairs at an address's bank end (log entry 82). -/
def Block.endRepairsAt (b : Block) (a : Nat) : Block :=
  match b.target a with
  | .carafe k => b.endRepairs k
  | _ => b

/-- A request that answers, on its way (R51, R52, R520): a bank or the DRAM Port takes it in turn; a read that spans a 1 MiB
boundary, or goes to another target, is answered at once, a repair that one of its halves waits for ended first (log entry
82); no other target serves a locked or atomic request. -/
def Block.issue (b : Block) (q : Req) : Block :=
  let served := match b.target q.addr with
    | .carafe _ => true
    | .dram _ => true
    | _ => false
  if served && (pieces q.addr q.len).length == 1 then b.post q
  else match q.kind with
    | .read => match b.load q.rq q.addr q.len q.fab .clean with
      | (b, .ok d) => b.answer q d false
      | (b, .error .later) =>
        match ((b.endRepairsAt q.addr).endRepairsAt (q.addr + q.len - 1)).load q.rq q.addr q.len q.fab .clean with
        | (b, .ok d) => b.answer q d false
        | (b, .error _) => b.answer q [] true
      | (b, .error _) => b.answer q [] true
    | _ => b.answer q [] true

/-- The low `len` bytes of a stored operand; beyond 8 they are free (log entry 54). -/
def Block.operandBytes (b : Block) (v : W64) (len : Nat) : List Byte := (leBytes v.toNat 8 ++ b.freeBytes (len - 8)).take len

/-- A posted store counted and shown to the comparators (R472, R477). -/
def Block.microStore (b : Block) (n a : Nat) (d : List Byte) (fabric : Bool) : Block :=
  ((b.countAccess n a true fabric).postStore n a d fabric).cmpData n false true a d.length (leNat d)

/-- The MEMOP's request presented (R51). -/
def Block.presentMem (b : Block) (n : Nat) (w : Uword) : Block :=
  let e := b.engine n
  let a := e.uaddr w
  let req := fun (k : ReqKind) (d : List Byte) (cmp lock : Nat) => b.engReq n k a w.size d cmp .word lock false
  let ask := fun (b : Block) (q : Req) => (b.countAccess n a q.kind.writes false).issue q
  let data := b.operandBytes (e.opB w) w.size
  match w.mem with
  | 0 => b
  | 0xE => b
  | 3 => b.microStore n a data false
  | 5 => b.microStore n a (laneBytes (e.v w.lna)) false
  | 6 => ask (b.setEngine n { e with streamIn := e.streamIn ++ [.sld] }) (req .read [] 0 0)
  | 7 => b.microStore n a (e.streamOut.take 64) false
  | 8 => ask b (req .lockRead [] 0 (e.lkSeq + 1))
  | 9 => ask b (req .condStore data 0 e.lkSeq)
  | 0xA => b.post { req .lockRelease [] 0 e.lkSeq with reply := .none }
  | 0xB => ask b (req (.amo 0) data 0 0)
  | 0xC => ask b (req (.amo 1) data 0 0)
  | 0xD => ask b (req (.amo 2) data (e.opA w).toNat 0)
  | _ => ask b (req .read [] 0 0)

/-- Requests of engine `n` that have not taken effect, their ages left out. -/
def Block.requestsOf (b : Block) (n : Nat) : List Req :=
  let mine := fun (l : List Req) => (l.filter (·.rq == n)).map fun q => { q with age := 0, place := 0 }
  mine b.dram.waiting ++ (List.range 64).flatMap fun k => mine (b.bankAt k).waiting

/-- A 16-byte MSG (R53, R501): a digest request of the Vendor world with no other byte set; any other unit discards it. -/
def Block.sendMsg (b : Block) (n unit : Nat) (v : W128) : Block :=
  if unit ≠ 0x0D01 then b.raise (R.ENG_USTAT_MSGDROP n)
  else if (b.engine n).st.tw ∨ 2 ^ 48 ≤ v.toNat then b
  else { b with digQ := b.digQ ++ [((b.leOf n).getD 0, v.toNat)] }

/-- The XFOP's request presented (R52). -/
def Block.presentXf (b : Block) (n : Nat) (w : Uword) : Block :=
  let e := b.engine n
  let a := e.xfAddr w
  let c := w.xch
  let data := b.operandBytes (e.opB w) w.size
  let await := fun (b : Block) (len : Nat) => b.modEngine n fun e =>
    { e with
      slots := e.slots.put c (.expecting false len)
      streamIn := if w.xfLine then e.streamIn ++ [.rdl c] else e.streamIn }
  let ask := fun (k : ReqKind) (d : List Byte) (cmp lock : Nat) =>
    ((await b w.xfLen).countEng n 0x11).issue (b.engReq n k a w.xfLen d cmp (.channel c) lock true)
  match w.xf with
  | 1 => ask .read [] 0 0
  | 2 => b.microStore n a data true
  | 3 => b.microStore n a (laneBytes (e.v w.lna)) true
  | 4 => ask .read [] 0 0
  | 5 => b.microStore n a ((e.streamOut.drop (if w.mem = 7 then 64 else 0)).take 64) true
  | 7 => ask .lockRead [] 0 (e.lkSeq + 1)
  | 8 => ask .condStore data 0 e.lkSeq
  | 9 => ask (.amo (w.imm % 8)) data (e.opA w).toNat 0
  | 0xA => (b.countEng n 0x11).sendMsg n (w.imm % 2 ^ 16) (e.v w.lna)
  | 0xB =>
    let b := (await b 0).countEng n 0x11
    { b with resps := b.resps ++ [⟨n, .fence c, 0, [], false, b.requestsOf n, 4⟩] }
  | _ => b

/-- The EXT strobe presented (R54): EXTACK and EXTERR clear. -/
def Block.presentExt (b : Block) (n : Nat) (w : Uword) : Block :=
  if w.ext = 0 then b
  else
    let e := b.engine n
    { b.setEngine n { e with extBusy := true, extErr := false } with
      strobes := b.strobes ++ [⟨n, w.ext, e.opA w, e.opB w, e.st.tw⟩] }

/-- A word's requests, presented at the end of its first tick (R55). -/
def Block.presentWord (b : Block) (n : Nat) (w : Uword) : Block :=
  ((b.presentMem n w).presentXf n w).presentExt n w

/-- The kind of a word's request as a replay record names it (R306). -/
def Uword.requestKind (w : Uword) : Nat :=
  if w.mem ≠ 0 ∧ w.mem ≠ 0xE then 1 else if w.xf ≠ 0 ∧ w.xf ≠ 6 ∧ w.xf ≠ 0xC then 2 else if w.ext ≠ 0 then 3 else 0

/-! ## Commits (R32, R36, R41, R42, R44) -/

/-- What a word's units computed from the state at its start: operands, ALU, FPU (value, flags, comparison, registers of a
division step), the conditions, and where its free values start. -/
structure Computed where
  a : W64
  b : W64
  adr : W64
  alu : AluOut
  fpr : Option Nat
  fl : FpFlags
  cmp : Option FpCmp
  regs : List (Nat × Nat)
  cond : Bool
  fresh : Nat
deriving DecidableEq, Repr

/-- Free value `i` of a word (log entry 3). -/
def Computed.free (c : Computed) (i : Nat) : W64 := Config.freeWord (c.fresh + i)

/-- Free values a word may draw. -/
def freePerWord : Nat := 8

/-- FDINIT, FDSTEP and FDFIN on the registers that IR names (R48, R130 to R134): FPR takes what gD takes. -/
def Engine.divStep (e : Engine) (w : Uword) (fresh : Nat) : Option Nat × FpFlags × Option FpCmp × List (Nat × Nat) :=
  let d := fieldD e.ir
  let c := (d + 1) % 32
  let a := fieldA e.ir
  let g := fun i => (e.g i).toNat
  let f := fun i => (Config.freeWord (fresh + i)).toNat
  match w.fp with
  | 0x1A =>
    let r := fpInit w.fmt e.st.fpEnv (g c) (g a) (g (fieldB e.ir)) (f 0)
    (some r.1, r.2.2.2, none, [(d, r.1), (c, r.2.1), (a, r.2.2.1)])
  | 0x1B =>
    let r := fpStep (g c) (g d) (g a) (g (fieldB e.ir)) (f 0) (f 1)
    (some r.1, 0, none, [(d, r.1), (c, r.2.1), (a, r.2.2)])
  | _ =>
    let r := fpFin e.st.fpEnv (g c) (g d) (g a) (f 0)
    (some r.1, r.2, none, [(d, r.1)])

/-- What a word's units compute. -/
def Engine.compute (e : Engine) (w : Uword) (cond : Bool) (fresh : Nat) : Computed :=
  let a := e.opA w
  let b := e.opB w
  let alu := aluOp w a (shifted w.shop (w.amount a) b) e.lat.c e.st.c (Config.freeWord (fresh + 2))
  let fp := if 0x1A ≤ w.fp then e.divStep w fresh
    else let r := fpuOp w e.st.fpEnv a.toNat b.toNat e.fpr.toNat; (r.1, r.2.1, r.2.2, [])
  ⟨a, b, e.madr w, alu, fp.1, fp.2.1, fp.2.2.1, fp.2.2.2, cond, fresh⟩

/-- What a VLD, VPASS or VCHIN takes (R49, R148). -/
def Engine.laneSource (e : Engine) (w : Uword) (head : Option (List Byte × Nat)) : W128 :=
  if w.ln = 0x11 then laneNat ((head.map (·.1)).getD []) else laneNat ((e.streamHeld.drop (w.window (e.madr w))).take 16)

/-- Half of lane register *i* written over its value at the start of the word, `e0`: a write to the whole of it by another
field of the word is dropped (R32). -/
def Engine.setHalf (e e0 : Engine) (i : Nat) (high : Bool) (r : W64) : Engine :=
  let x := e0.v i
  let e := e.setV i (if high then join64 r (lo64 x) else join64 (hi64 x) r)
  let kept := if high then (vElems i).take 2 else (vElems i).drop 2
  { e with codes := (e0.codes.filter fun p => kept.contains p.1).foldl (fun t p => t.put p.1 p.2) e.codes }

/-- The lane's commit: v[LND], MDR for VCHIN, the stream buffers and SCNT (R49, R148). -/
def Engine.commitLane (e : Engine) (w : Uword) (c : Computed) (head : Option (List Byte × Nat)) : Engine :=
  let src := e.laneSource w head
  let x := e.v w.lna
  let moved := w.ln == 0x0E || w.ln == 0x0F || w.ln == 0x10
  let e1 := match laneOp w x (e.v w.lnb) (e.v w.lnd) src c.a c.adr (join64 (c.free 3) (c.free 4)) with
    | some r => e.setV w.lnd r
    | none => e
  let e1 := if w.ln = 0x11 then Engine.recode { e1 with mdr := BitVec.ofNat 64 ((head.map (·.2)).getD 0) } [114] else e1
  let e1 := if w.ln = 0x0E ∨ w.ln = 0x0F then e1.streamStep else e1
  let e1 := if w.ln = 0x0E then { e1 with streamOut := e1.streamOut ++ laneBytes src }
    else if w.ln = 0x10 then { e1 with streamOut := e1.streamOut ++ laneBytes x } else e1
  if moved then { e1 with scnt := BitVec.ofNat 32 (e1.scnt.toNat - 16) } else e1

/-- The multiplier's commit (R47). -/
def Engine.commitMul (e : Engine) (w : Uword) (c : Computed) : Engine :=
  if w.mul = 0 then e
  else
    let p := mulOp w.mul c.a c.b (join64 e.mhi e.mlo)
    let d := fieldD e.ir
    let e := Engine.recode { e with mlo := lo64 p, mhi := hi64 p } [115, 116]
    if w.mul = 5 ∨ w.mul = 6 then (e.setG d (lo64 p)).setG (d + 1) (hi64 p) else e

/-- FPR (R48): an earlier fused result lands, this word's own result after it, or waits one word if it is fused. -/
def Engine.commitFp (e : Engine) (w : Uword) (c : Computed) : Engine :=
  let e := c.regs.foldl (fun e p => e.setG p.1 (BitVec.ofNat 64 p.2)) e
  let e := match e.fprLate with
    | some l => Engine.recode { e with fpr := l.1, fprLate := none } [117]
    | none => e
  match c.fpr with
  | some r =>
    if fpFused w.fp then { e with fprLate := some (BitVec.ofNat 64 r, c.fl) }
    else Engine.recode { e with fpr := BitVec.ofNat 64 r } [117]
  | none => e

/-- DSTEP and DFIX on the registers that IR names, as `e0`, the engine at the start of the word, holds them (R32, R45, R106 to
R109); DFIX also writes ST's Z, N, C and V. A MULOP pair or an FP division step that names the same registers in the same word
is overwritten, which the spec does not rule (log entry 54). -/
def Engine.commitDiv (e e0 : Engine) (w : Uword) : Engine :=
  let d := fieldD e0.ir
  let c := (d + 1) % 32
  let a := fieldA e0.ir
  let b := e0.g (fieldB e0.ir)
  if w.alu = 0x2A then
    let r := dstep (e0.g d) (e0.g c) (e0.g a) b
    ((e.setG d r.1).setG c r.2.1).setG a r.2.2
  else if w.alu = 0x2B then
    let r := dfix (e0.g d) (e0.g c) (e0.g a) b
    let e := match r.1 with
      | some (x, q) => (e.setG d x).setG a q
      | none => e
    { e with st := { e.st with z := r.2.1, n := r.2.2.1, c := r.2.2.2.1, v := r.2.2.2.2 } }
  else e

/-- The ALU's result at its destination (R44), `e0` the engine at the start of the word; where an FPOP's result reaches FPR in
the same word, its own or an earlier fused operation's, a free bit says which one lands (log entry 54). -/
def Engine.commitAlu (e e0 : Engine) (w : Uword) (c : Computed) : Engine :=
  let r := c.alu.r
  let fpLands := (c.fpr.isSome && !fpFused w.fp) || e0.fprLate.isSome
  if w.alu = 0 then e
  else if w.dsel < 0x20 then e.setG w.dsel r
  else if w.dsel < 0x30 then Engine.recode { e with u := e.u.put (w.dsel - 0x20) r } [98 + (w.dsel - 0x20)]
  else match w.dsel with
    | 0x31 => e.setG (fieldD e.ir) r
    | 0x32 => e.setG (fieldA e.ir) r
    | 0x33 => e.setG (fieldB e.ir) r
    | 0x34 => Engine.recode { e with st := St.ofWord r } [128]
    | 0x35 => { e with pcNext := some (r.setWidth 48) }
    | 0x36 => Engine.recode { e with mdr := r } [114]
    | 0x37 => e.setHalf e0 w.lnd false r
    | 0x38 => e.setHalf e0 w.lnd true r
    | 0x39 => Engine.recode { e with scnt := r.setWidth 32 } [131]
    | 0x3A => if fpLands && (c.free 5).getLsbD 0 then e else Engine.recode { e with fpr := r } [117]
    | _ => e

/-- A value received for MDR (R51): 16 or 64 bytes do not fit, and what MDR then holds is not stated. -/
def mdrValue (d : List Byte) (sgn : Bool) (free : W64) : W64 :=
  if d.isEmpty || decide (8 < d.length) then free else loadValue d sgn

/-- The MEMOP's commit with its data (R51). -/
def Engine.commitMem (e : Engine) (w : Uword) (c : Computed) (d : List Byte) : Engine :=
  match w.mem with
  | 4 => e.setV w.lnd (laneNat d)
  | 6 => { e with streamIn := fillFirst (· == .sld) d e.streamIn }
  | 7 => { e with streamOut := e.streamOut.drop 64 }
  | 8 => Engine.recode { e with
      mdr := mdrValue d false (c.free 6), lkSeq := e.lkSeq + 1, lkLine := some (c.adr.toNat % 2 ^ 48 / 64 * 64) } [114]
  | 9 => { e with lat := { e.lat with c := leNat d == 1 } }
  | m => if memToMdr m then Engine.recode { e with mdr := mdrValue d (m == 2) (c.free 6) } [114] else e

/-- The XFOP's commit (R52): TAKE moves the held response by its size, DROP discards. Beside a MEMOP that writes the same
element a free bit says which one lands: R32 names both in one place (log entry 54). -/
def Engine.commitXf (e : Engine) (w : Uword) (c : Computed) : Engine :=
  let ch := w.xch
  let forget := fun (e : Engine) => { e with streamIn := e.streamIn.filter (· != .rdl ch) }
  match w.xf with
  | 5 => { e with streamOut := e.streamOut.drop 64 }
  | 6 => match (e.slot ch).got with
    | some (d, _) =>
      let e := { e with slots := e.slots.del ch }
      if d.length = 64 then { e with streamIn := fillFirst (· == .rdl ch) d e.streamIn }
      else if d.length = 16 then (if w.mem == 4 && (c.free 7).getLsbD 0 then e else e.setV w.lnd (laneNat d))
      else if (memToMdr w.mem && (c.free 7).getLsbD 0) then e
      else Engine.recode { e with mdr := mdrValue d false (c.free 7) } [114]
    | none => e
  | 7 => { e with lkSeq := e.lkSeq + 1, lkLine := some (e.xfAddr w / 64 * 64) }
  | 0xC => match e.slot ch with
    | .held _ _ => forget { e with slots := e.slots.del ch }
    | .expecting _ len => { e with slots := e.slots.put ch (.expecting true len) }
    | .free => e
  | _ => e

/-- The word writes MDR (R32, R54). -/
def Engine.writesMdr (e : Engine) (w : Uword) : Bool :=
  memToMdr w.mem || w.ln == 0x11 || (w.alu != 0 && w.dsel == 0x36) ||
    (w.xf == 6 && ((e.slot w.xch).got.map fun p => p.1.length != 64 && p.1.length != 16).getD false)

/-- What FLAGS[3] gives latch C (R41, R46); without a shift the bit is free. -/
def Uword.shiftC (w : Uword) (c : Computed) (old : Bool) : Bool :=
  let k := w.amount c.a
  if w.shop = 0 then (c.free 2).getLsbD 3
  else if k = 0 then (if w.shamt = 0 then old else (c.free 2).getLsbD 3)
  else shiftedOut w.shop k c.b

/-- V after the word (R41): where FLAGS[1] and FLAGS[4] both name it, a free bit says which one lands. -/
def Uword.latchV (w : Uword) (c : Computed) (old : Bool) : Bool :=
  let m := mulV w.mul c.a c.b ((c.free 2).getLsbD 4)
  if w.flag 1 && w.flag 4 then (if (c.free 2).getLsbD 5 then m else c.alu.v)
  else if w.flag 1 then c.alu.v else if w.flag 4 then m else old

/-- The latches after the word's FLAGS (R41), from the state at its start; `lane` is v[LND] after the lane's write, all of it
also where the operation writes a part (log entry 54: the spec does not say what a lane result is there). -/
def Engine.latched (e : Engine) (w : Uword) (c : Computed) (lane : W128) : Latches :=
  let l := e.lat
  let free := c.free 2
  let x := e.v w.lna
  let y := e.v w.lnb
  let made := w.ln != 0 && w.ln != 0x10 && w.ln != 0x12
  let r32 : W32 := c.alu.r.setWidth 32
  { z := if w.flag 0 then c.alu.r == 0 else l.z
    n := if w.flag 0 then c.alu.r.msb else l.n
    c := if w.flag 1 then c.alu.c else if w.flag 3 then w.shiftC c l.c else l.c
    v := w.latchV c l.v
    z32 := if w.flag 2 then r32 == 0 else l.z32
    n32 := if w.flag 2 then r32.msb else l.n32
    c32 := if w.flag 2 then c.alu.c32 else l.c32
    uf := if w.flag 7 then
        BitVec.ofNat 4 (putBit l.uf.toNat (w.shamt % 4) c.cond) else l.uf
    flt := if w.flag 5 then (c.cmp.map (· == .lt)).getD (free.getLsbD 6) else l.flt
    feq := if w.flag 5 then (c.cmp.map (· == .eq)).getD (free.getLsbD 7) else l.feq
    fun' := if w.flag 5 then (c.cmp.map (· == .un)).getD (free.getLsbD 8) else l.fun'
    lz := if w.flag 6 then (if made then lane == 0 else free.getLsbD 9) else l.lz
    lmatch := if w.flag 6 then laneMatch w.ln x y (free.getLsbD 10) else l.lmatch
    lnc := if w.flag 6 then laneCarry w.ln x y (free.getLsbD 11) else l.lnc }

/-- STRD (R42): it reads the latches after FLAGS; `fl` are the flags of the FP results this microcycle produces. In an FP
instruction, flags ORed into FFLAGS may raise an FP exception (R120). -/
def Engine.strd (e : Engine) (w : Uword) (fl : FpFlags) : Engine :=
  let s := e.st
  let l := e.lat
  let op := (e.ir.extractLsb' 24 8).toNat
  match w.strd with
  | 1 => { e with st := { s with c := l.c } }
  | 2 => { e with st := { s with z := l.z, n := l.n } }
  | 3 => { e with st := { s with z := l.z, n := l.n, c := l.c, v := l.v } }
  | 4 => { e with st := { s with z := l.z, n := l.n, c := l.c } }
  | 5 => { e with st := { s with rsm := true } }
  | 6 => { e with st := { s with rsm := false } }
  | 7 => if 0x70 ≤ op ∧ op ≤ 0x86 then e.raiseFp e.pc fl else { e with st := { s with fflags := s.fflags ||| fl } }
  | 8 => { e with st := { s with ie := false } }
  | 9 => { e with st := { s with ie := true } }
  | _ => e

/-- Loop counter `i` (R36). -/
def Engine.loop (e : Engine) (i : Nat) : BitVec 16 := e.l.get i 0

/-- LCTL (R36), and LOOP's decrement (R33). -/
def Engine.loops (e : Engine) (w : Uword) (a : W64) : Engine :=
  let i := w.lctl % 4
  let dec := { e with l := e.l.put i (BitVec.ofNat 16 ((e.loop i).toNat - 1)) }
  match w.lctl / 4 with
  | 1 => Engine.recode { e with l := e.l.put i (BitVec.ofNat 16 (w.imm / 2 ^ 16)) } [133 + i]
  | 2 => Engine.recode { e with l := e.l.put i (a.setWidth 16) } [133 + i]
  | 3 => dec
  | _ => if w.seq = 9 then dec else e

/-- The next microaddress (R33), for every SEQ but ENDI and HALTU; µPC + 1 wraps at 13 bits. -/
def Block.nextWord (b : Block) (n : Nat) (e : Engine) (w : Uword) (t : MemWait) : BitVec 13 :=
  let tgt := BitVec.ofNat 13 w.tgt
  let on := e.upc + 1
  match w.seq with
  | 0x1 => tgt
  | 0x2 => if t.condC then tgt else on
  | 0x3 => tgt
  | 0x4 => if t.condC then tgt else on
  | 0x5 => e.ustack.headD 0
  | 0x6 => if t.condC then e.ustack.headD 0 else on
  | 0x7 => BitVec.ofNat 13 (w.tgt / 4 * 4 + 2 * bit t.condA + bit t.condB)
  | 0x8 => BitVec.ofNat 13 (0x1000 + 4 * (e.ir.extractLsb' 24 8).toNat)
  | 0x9 => if e.loop (w.lctl % 4) = 0 then on else tgt
  | 0xC => BitVec.ofNat 13 (b.get (R.ENG_USTAT_UTPC n))
  | 0xD => (e.ur 15).setWidth 13
  | _ => on

/-- The micro-stack after the word (R35). -/
def Engine.stacked (e : Engine) (w : Uword) (c : Bool) : List (BitVec 13) :=
  if w.pushes c then (e.upc + 1) :: e.ustack else if w.pops c then e.ustack.drop 1 else e.ustack

/-- Everything a word commits to its engine but the next address, from the state `e` at its start (R32): in ascending
precedence the lane, the multiplier, the FPU, the ALU's destination, then MEMOP and XFOP; the latches; STRD; the loop
counters; then the data of an EXT answer that waits for a word that does not write MDR (R54). -/
def Engine.commit (e : Engine) (w : Uword) (c : Computed) (head : Option (List Byte × Nat)) (data : List Byte) : Engine :=
  let late := (e.fprLate.map (·.2)).getD 0
  let fl := late ||| (if fpFused w.fp then 0 else c.fl)
  let e1 := e.commitLane w c head
  let lane := e1.v w.lnd
  let e1 := (((e1.commitMul w c).commitFp w c).commitDiv e w).commitAlu e w c
  let e1 := ({ e1 with lat := e.latched w c lane }.commitMem w c data).commitXf w c
  let e1 := (e1.strd w fl).loops w c.a
  if e.writesMdr w then { e1 with mdrWritten := true }
  else if e1.extData.isNone then { e1 with mdrWritten := false }
  else Engine.recode { e1 with mdr := e1.extData.getD e1.mdr, extData := none, mdrWritten := false } [114]

/-- The end of a macro instruction by microcode (R38, R71, R90): LKB's starts the locked sequence it took the line for, and
LKE's ends the one that its store-conditional has not ended, which is one by XFOP STCX (R64, R84): ST.C says whether it
stored. -/
def Block.endInstr (b : Block) (n : Nat) (e0 : Engine) : Block :=
  let e := b.engine n
  let op := (e.ir.extractLsb' 24 8).toNat
  let next := match e.pcNext with
    | some p => p.toNat
    | none => nextPc e.pc (irLen e.ir)
  let b := if op = 0x58 ∧ e.lkLine.isSome then (b.raise (R.ENG_LKSTAT_LKACT n)).clear (R.ENG_LKSTAT_LKCNT n) else b
  let b := if op = 0x59 then b.endSequence n e.st.c else b
  (b.modEngine n fun e => { e with pcNext := none, inFault := false }).finish n e0 next (decide (0x70 ≤ op ∧ op ≤ 0x86))
    (e.pcNext.isSome && decide (0x90 ≤ op ∧ op ≤ 0x94))

/-- The word goes on to its successor (R33, R61). HALTU stops the engine; in the routine of a micro-fault that is the engine
fault of R85, and the engine's fault source fires (R347). -/
def Block.leaveWord (b : Block) (n : Nat) (e0 : Engine) (w : Uword) (t : MemWait) : Block :=
  if w.seq = 0xB then b.endInstr n e0
  else if w.seq = 0xE then
    let b := if (b.engine n).inFault then b.event n else b
    (b.modEngine n fun e => { e with inFault := false, trapPt := none }).raise (R.ENG_USTAT_HALTED n)
  else b.modEngine n fun e => Engine.recode { e with
    upc := b.nextWord n e0 w t, ustack := e0.stacked w t.condC, inFault := e.inFault && w.seq != 0xC,
    trapPt := if w.trapok then some false else none } [138]

/-- A word commits (R32) with the data its MEMOP received, and the sequencer goes on. -/
def Block.commitWord (b : Block) (n : Nat) (w : Uword) (t : MemWait) (data : List Byte) : Block :=
  let e := b.engine n
  let head := b.chainHead n
  let b1 := b.setEngine n { e.commit w (e.compute w t.condC b.fresh) head data with wait := none, replay := none }
  let b1 := { b1 with fresh := b.fresh + freePerWord }
  let b1 := if w.ln = 0x11 then b1.chainPop n else if w.ln = 0x12 then b1.chainPush n (laneBytes (e.v w.lna)) (w.imm % 32) else b1
  let b1 := if w.mem = 9 then b1.endSequence n (leNat data == 1) else b1
  let b1 := if memWaits w.mem then
      b1.cmpData n (w.mem != 9) (w.mem == 9 || decide (0xB ≤ w.mem)) (e.uaddr w) w.size (leNat data)
    else b1
  b1.leaveWord n e w t

/-! ## MICROWORD -/

/-- A second mismatch of a word at its first execution, before its MEMOP's data (R59, R306): what it has presented by then is in
the replay record; a request whose own operands are corrupt, or that would fail its checks, has not been sent (R55, R142). -/
def Block.wordStop (b : Block) (n : Nat) (w : Uword) (old : Replay) (sent first second : Bool) : Block :=
  if old.kind ≠ 0 then b.residueFault n first second old
  else if sent && w.requestKind != 0 then (b.presentWord n w).residueFault n first second ⟨w.requestKind, none, false, []⟩
  else b.residueFault n first second ⟨0, none, false, []⟩

/-- A word presents its requests and commits, or waits for its MEMOP's data; a replay record stands for what it presented
before (R55, R57, R306). -/
def Block.wordGo (b : Block) (n : Nat) (w : Uword) (t : MemWait) (old : Replay) (seen : Option Bool) : Block :=
  if old.kind ≠ 0 then
    let b := if old.kind = 3 then
        b.modEngine n fun e => { e with extBusy := false, extErr := old.extErr, extData := old.ext }
      else b
    b.commitWord n w t old.data
  else
    let b := b.presentWord n w
    if memWaits w.mem then b.modEngine n fun e => { e with wait := some { t with seen := seen } } else b.commitWord n w t []

/-- A word of engine `n` past its decode checks (R37, R51, R55, R57, R59, R142). A corrupt element that it reads fails it before
its other checks are made; of a word that waits for its MEMOP's data that is judged when the data has come. -/
def Block.runWord (b : Block) (n : Nat) (w : Uword) (res : Residue) : Block :=
  let b := b.upset n res
  let e := b.engine n
  let t := b.conds n w
  let old := e.replay.getD ⟨0, none, false, []⟩
  let bad := e.anyCorrupt (e.reads w)
  if w.seq = 0xA && !t.condC && !e.anyCorrupt (e.condReads w) then
    (b.countEng n 0x06).modEngine n fun e => { e with trapPt := some false }
  else
    let fault := b.wordFault n w t.condC old.kind
    let sound := !e.anyCorrupt (e.sends w) && fault.isNone
    if bad then
      if memWaits w.mem && sound && old.kind == 0 then (b.mismatch n true true).wordGo n w t old (some true)
      else b.judge n none [true, true] (fun _ b => b) fun f s b => b.wordStop n w old sound f s
    else match fault with
      | some f => b.microFault n f.1 f.2
      | none =>
        let sent := match res with
          | .twice _ _ sent => sent && !memWaits w.mem
          | _ => false
        b.judge n none (mismatches res false) (fun seen b => b.wordGo n w t old seen) fun f s b => b.wordStop n w old sent f s

/-- A word fetched from the control store and decoded (R30, R31, R56, R175): at an instruction's dispatch the comparators see
it first (R472). -/
def Block.microword (b : Block) (n : Nat) (find : EccFind) (res : Residue) : Block :=
  let e := b.engine n
  let row := e.upc.toNat
  if find == .uncorrectable || e.csErr.look row == some true then
    ((b.csFound n row true).modEngine n fun e => { e with
      trapPt := none, replay := some (e.replay.getD ⟨0, none, false, []⟩) }).hardFault n false
  else
    let b := match find with
      | .correctable _ => b.csFound n row false
      | _ => b
    let d := if b.ready n && (e.trapPt == some true || e.skipIaddr) then b.dispatch n else (b, false)
    if d.2 then d.1
    else
      let w := Uword.ofBits (e.row row).toNat
      match (d.1.engine n).decodeFault w with
      | some f => d.1.microFault n f.1 f.2
      | none => d.1.runWord n w res

/-- Engine `n` is to execute a microword: it runs, nothing holds it (R38, R57), and no micro-trap is to be taken first (R61). -/
def Block.atWord (b : Block) (n : Nat) : Bool :=
  b.runs n && !b.trapFirst n && (b.engine n).wait.isNone && (b.engine n).long.isNone && (b.engine n).hold == .none

/-- MICROWORD (R57): `find` is what the fetch finds in the control store, `res` a mismatch that the word's checks meet on the way
through its units, or an upset of a stored element just before it; for a word that waits for its MEMOP's data, checks after
that come with CARAFE_LOAD_DATA. -/
def execMicroword (n : PE) (find : EccFind) (res : Residue) (s : State) : Host.Outcome State Fault Refusal :=
  done s (if s.blk.atWord n then s.blk.microword n find res else s.blk)

/-! ## Answers -/

/-- The first answer for engine `n` with a reply, and the others. -/
def takeResp (n : Nat) (p : Reply → Bool) : List Resp → Option (Resp × List Resp)
  | [] => none
  | r :: rs => if r.pe == n && p r.reply then some (r, rs) else (takeResp n p rs).map fun x => (x.1, r :: x.2)

/-- CARAFE_LOAD_DATA (R51, R57): the MEMOP's data is usable and the word completes; a line with no usable second source gives
micro-fault BANKOFF (R213). -/
def execCarafeLoadData (n : PE) (res : Residue) (s : State) : Host.Outcome State Fault Refusal :=
  let b := s.blk
  let e := b.engine n
  done s (match e.wait, takeResp n (· == .word) b.resps with
    | some t, some (r, rest) =>
      if !b.runs n then b
      else
        let b := { b with resps := rest }
        if r.err then
          (b.setEngine n { e with streamIn := e.streamIn.filter (· != .sld) }).microFault n 9 r.addr
        else
          let b := b.upset n res
          let e := b.engine n
          let w := Uword.ofBits (e.row e.upc.toNat).toNat
          b.judge n t.seen (mismatches res (e.anyCorrupt (e.reads w))) (fun _ b => b.commitWord n w t r.data) fun f s b =>
            b.residueFault n f s ⟨1, none, false, r.data⟩
    | _, _ => b)

/-- Engine `n`'s clock runs, so that an answer can reach it (R466). -/
def Block.clocked (b : Block) (n : Nat) : Bool :=
  !b.flag (R.ENG_DBGSTAT_CSTOP n) && b.get (R.PWR_ENG_STATE n) == 2

/-- FABRIC_RESPONSE (R52): the response to channel `c` reaches its slot, or is discarded where a DROP waits for it; an
errored one carries no stated data. A FENCE's comes once the requests ahead of it have taken effect. -/
def execFabricResponse (n : PE) (c : BitVec 5) (s : State) : Host.Outcome State Fault Refusal :=
  let b := s.blk
  let e := b.engine n
  done s (match takeResp n (fun r => r == .channel c.toNat || r == .fence c.toNat) b.resps with
    | some (r, rest) =>
      if !b.clocked n || (r.before.any fun q => (b.requestsOf n).contains q) then b
      else
        let b := { b with resps := rest }
        match e.slot c.toNat with
        | .expecting dropped len =>
          let b := if r.data.isEmpty then b else b.cmpData n true false r.addr r.data.length (leNat r.data)
          if dropped then b.modEngine n fun e => { e with
            slots := e.slots.del c.toNat, streamIn := e.streamIn.filter (· != .rdl c.toNat) }
          else (b.modEngine n fun e => Engine.recode { e with
            slots := e.slots.put c.toNat (.held (if r.err then b.freeBytes len else r.data) r.err) } [141 + c.toNat]).drawn
        | _ => b
    | none => b)

/-- EXT_ANSWER (R54, R306): the answer sets EXTACK and EXTERR; its data is in MDR at once, or waits where the word at this
boundary, or one still under way, writes MDR; at a hard residue fault the replay record takes it. -/
def execExtAnswer (n : PE) (s : State) : Host.Outcome State Fault Refusal :=
  let b := s.blk
  done s (match b.extAns.find? (·.pe == n.val) with
    | some a =>
      if !b.clocked n then b
      else { b with extAns := b.extAns.erase a }.modEngine n fun e =>
        let e := { e with extBusy := false, extErr := a.err }
        match e.resFault, e.replay with
        | true, some r => if r.kind = 3 then { e with replay := some { r with ext := a.data, extErr := a.err } }
          else { e with extData := a.data }
        | _, _ =>
          if e.wait.isSome || e.mdrWritten then { e with extData := a.data }
          else if a.data.isNone then e
          else Engine.recode { e with mdr := a.data.getD e.mdr } [114]
    | none => b)

end Sys2Proof.Machine
end

