-- ==== Sys2Proof/Machine/Ports.lean ====
section
/-! DEFINITION. The DRAM Port, outbound reads of the Host Shim, the scan port with the debug bus master, and the block
reset, which ends that master's access (18, 19, 20; R456, R459 to R464, R476, R494, R495, R520, R521). -/
namespace Sys2Proof.Machine

/-! ## The DRAM Port (R495, R520, R521) -/

/-- DRAM_PORT_REQUEST (R20, R495, R520): with RQ_READY the next request of channel `c` is presented and takes effect. -/
def execDramPortRequest (c : Fin 4) (s : State) : Host.Outcome State Fault Refusal :=
  let b := s.blk
  done s (match b.dramPick c.val with
    | some q => (b.dramLeave q).present q
    | none => b)

/-- The lines of a write that the controller could not confirm: their contents are free (R495). -/
def Block.scramble (b : Block) (a n : Nat) : Block :=
  let k := (a + n - 1) / 64 - a / 64 + 1
  { b with mem := b.mem.writes (a / 64 * 64) (b.freeBytes (64 * k)) }.drawn

/-- DRAM_RESPONSE (R495, R521): the response to request `k` of those presented arrives. -/
def execDramResponse (k : BitVec 10) (err : Bool) (s : State) : Host.Outcome State Fault Refusal :=
  let b := s.blk
  done s (match b.dram.presented[k.toNat]? with
    | some q =>
      let b := { b with dram := { b.dram with presented := b.dram.presented.eraseIdx k.toNat } }
      if !err then b.answer q q.data false
      else
        let b := if q.kind.writes then b.scramble q.addr q.len else b
        match q.reply with
        | .none => if q.kind.writes && decide (q.rq < 72) then b.wrErr q.rq else b
        | _ => b.answer q [] true
    | none => b)

/-! ## Outbound reads (R494) -/

/-- Sixteen words of the register window read in ascending order (log entry 48). -/
def Block.hostWords (off : Nat) : Nat → Block → Block × List Byte
  | 0, b => (b, [])
  | n + 1, b =>
    let r := b.winRead rqHost off
    let t := Block.hostWords (off + 4) n r.1
    (t.1, leBytes r.2 4 ++ t.2)

/-- One line of an outbound read, in class P4; its ERR. Nothing where the line is under repair (R212). -/
def Block.hostLine (b : Block) (a : Nat) (err : Bool) : Option (Block × List Byte × Bool) :=
  match b.target a with
  | .window off => let r := Block.hostWords off 16 b; some (r.1, r.2, false)
  | .tags off => some (b, if b.drips then leBytes 0 64 else b.tagBytes off 64, false)
  | _ =>
    match b.dmaRead rqHost 4 a 64 (if err then .uncorrectable false 0xFF else .clean) with
    | (b, .data d) => some (b, d, false)
    | (b, .lost) => some (b.drawn, b.freeBytes 64, true)
    | (_, .later) => none

/-- The lines of an outbound read in order; `errs` says which of them meets an error in the surroundings or an uncorrectable
line. -/
def Block.hostLines (errs : Nat → Bool) : Nat → Nat → Nat → Block → Option (Block × List (List Byte × Bool))
  | 0, _, _, b => some (b, [])
  | n + 1, i, a, b =>
    (b.hostLine a (errs i)).bind fun r => (Block.hostLines errs n (i + 1) (a + 64) r.1).map fun t => (t.1, r.2 :: t.2)

/-- The lines of an outbound read that the repair of one of them holds up: that repair begins. -/
def Block.hostWaits (errs : Nat → Bool) : Nat → Nat → Nat → Block → Block
  | 0, _, _, b => b
  | n + 1, i, a, b =>
    match b.target a with
    | .window _ | .tags _ => Block.hostWaits errs n (i + 1) (a + 64) b
    | _ => Block.hostWaits errs n (i + 1) (a + 64)
        (b.dmaRead rqHost 4 a 64 (if errs i then .uncorrectable false 0xFF else .clean)).1

/-- OUTBOUND_READ (R494): the block answers LINES beats from a 64-byte aligned address; while a line is under repair the read waits
as a whole, and the command comes again (R212). -/
def execOutboundRead (id : Byte) (addr : Addr) (lines : Byte) (errs : BitVec 255) (s : State) :
    Host.Outcome State Fault Refusal :=
  let b := s.blk
  done s (if b.drips then b
    else match Block.hostLines errs.getLsbD lines.toNat 0 (addr.toNat / 64 * 64) b with
      | some r => { r.1 with ports := { r.1.ports with tx := some (id.toNat, r.2) } }.countGlob 0x0F lines.toNat
      | none => Block.hostWaits errs.getLsbD lines.toNat 0 (addr.toNat / 64 * 64) b)

/-! ## The scan port (R459, R460) -/

/-- The scan port changed. -/
def Block.modTap (b : Block) (f : Tap → Tap) : Block := { b with tap := f b.tap }

/-- IDCODE (R460). -/
def Block.idcode (b : Block) : Nat := 3 * 2 ^ 28 + 0xF172 * 2 ^ 12 + b.get R.INTEG_MFR_MFR * 2 + 1

/-- TAP_RESET (R459): IDCODE is selected; nothing else of PD1 changes. While PD1 is OFF the port is dead (R480). -/
def execTapReset (s : State) : Host.Outcome State Fault Refusal :=
  let b := s.blk
  done s (if b.pd1 then b.modTap fun t => { t with ir := 1, dr := b.idcode } else b)

/-- Instructions that the table of R460 lists; any other code selects BYPASS. -/
def tapKnown (ir : Nat) : Bool := decide (1 ≤ ir) && decide (ir ≤ 7)

/-- UPDATE_IR (R460): a whole IR scan, Capture-IR and Update-IR of `code`. -/
def execUpdateIr (code : BitVec 4) (s : State) : Host.Outcome State Fault Refusal :=
  let b := s.blk
  let c := code.toNat
  done s (if !b.pd1 then b
    else
      let cap := 8 * bit b.isSealed + 4 * b.get R.DBG_STAT_DENIED + 1
      if b.isSealed && (c == 2 || c == 3) then
        (b.modTap fun t => { t with irCap := cap, ir := 15 }).raise R.DBG_STAT_DENIED
      else b.modTap fun t =>
        { t with irCap := cap, ir := if tapKnown c then c else 15, dr := if c = 1 then b.idcode else t.dr })

/-- A data-register scan acts where PD1 is ON and its instruction is selected; otherwise another register, or none, is
scanned. -/
def Block.atIr (b : Block) (ir : Nat) (f : Block → Block) : Block := if b.pd1 && b.tap.ir == ir then f b else b

/-- PORTSTAT (R460). -/
def Block.portStat (b : Block) : Nat :=
  bit b.isSealed + 2 * b.get R.DBG_STAT_DENIED + 4 * b.get R.DBG_STAT_OVR + 8 * b.get R.DBG_CTRL_ATTACH

/-- PORTSTAT (R460): Capture-DR loads its bits; Update-DR clears sticky bits or performs the debug reset. -/
def execPortstat (x : DrScan 16) (s : State) : Host.Outcome State Fault Refusal :=
  done s (s.blk.atIr 7 fun b =>
    match x with
    | .capture => b.modTap fun t => { t with dr := b.portStat }
    | .update v =>
      let b := if v.getLsbD 1 then b.clear R.DBG_STAT_DENIED else b
      let b := if v.getLsbD 2 then b.clear R.DBG_STAT_OVR else b
      if v.getLsbD 4 then b.debugReset else b)

/-! ## Accesses (R461 to R463) -/

/-- An access issued, or discarded with OVR while another is outstanding (R461). -/
def Block.dbgIssue (b : Block) (a : DbgAcc) (f : Tap → Tap) : Block :=
  if b.tap.acc.isSome then b.raise R.DBG_STAT_OVR
  else (b.modTap f).modTap fun t => { t with acc := some a }

/-- MEMADDR (R461): Update-DR of MEMADDR; ADDR[1:0] count as 0 and the sealed block issues nothing (log entry 45). -/
def execMemaddr (v : BitVec 50) (s : State) : Host.Outcome State Fault Refusal :=
  done s (s.blk.atIr 2 fun b =>
    let a := v.toNat % 2 ^ 48 / 4 * 4
    let f := fun (t : Tap) => { t with addr := a, wr := v.getLsbD 48, inc := v.getLsbD 49 }
    if b.isSealed then b
    else if v.getLsbD 48 then b.modTap f
    else b.dbgIssue ⟨a, none⟩ f)

/-- A capture of the data register of an access (R461, R462): data, status, and after OK the automatic next read; `next`
advances the address. -/
def Block.dbgCapture (b : Block) (again : Bool) (next : Tap → Tap × Nat) : Block :=
  let t := b.tap
  if t.acc.isSome then (b.modTap fun t => { t with dr := 2 ^ 32 + b.freeWord.toNat % 2 ^ 32 }).drawn
  else
    let b := b.modTap fun t => { t with dr := t.status * 2 ^ 32 + t.data }
    if t.status = 0 && again then
      let n := next b.tap
      { b with tap := { n.1 with acc := some ⟨n.2, none⟩ } }
    else b

/-- ADDR advanced by 4 (R461). -/
def Tap.nextAddr (t : Tap) : Tap × Nat :=
  let a := (t.addr + 4) % 2 ^ 48
  ({ t with addr := a }, a)

/-- MEMDATA (R461): Capture-DR returns status and data; Update-DR issues a write. In SEALED a capture reads DENIED (log entry
45). -/
def execMemdata (x : DrScan 34) (s : State) : Host.Outcome State Fault Refusal :=
  done s (s.blk.atIr 3 fun b =>
    let t := b.tap
    match x with
    | .capture =>
      if b.isSealed then (b.modTap fun t => { t with dr := 3 * 2 ^ 32 + b.freeWord.toNat % 2 ^ 32 }).drawn
      else b.dbgCapture (t.inc && !t.wr) Tap.nextAddr
    | .update v =>
      if b.isSealed || !t.wr then b
      else b.dbgIssue ⟨t.addr, some (v.toNat % 2 ^ 32)⟩ fun t => if t.inc then t.nextAddr.1 else t)

/-- The address of a register-window word (R462). -/
def obsAddr (off : Nat) : Nat := 0x10000000 + 4 * off

/-- OBSADDR (R462): Update-DR of OBSADDR issues a read of a register. -/
def execObsaddr (v : BitVec 19) (s : State) : Host.Outcome State Fault Refusal :=
  done s (s.blk.atIr 4 fun b =>
    let o := v.toNat % 2 ^ 18
    b.dbgIssue ⟨obsAddr o, none⟩ fun t => { t with off := o, offInc := v.getLsbD 18 })

/-- OFFSET advanced by one word (R462). -/
def Tap.nextOff (t : Tap) : Tap × Nat :=
  let o := (t.off + 1) % 2 ^ 18
  ({ t with off := o }, obsAddr o)

/-- OBSDATA (R462): Capture-DR returns the register; Update-DR has no effect. -/
def execObsdata (x : DrScan 34) (s : State) : Host.Outcome State Fault Refusal :=
  done s (s.blk.atIr 5 fun b =>
    match x with
    | .capture => b.dbgCapture b.tap.offInc Tap.nextOff
    | .update _ => b)

/-- TRACE (R476): Capture-DR moves the oldest record out of the buffer; with SINK = 1 it returns VALID = 0. -/
def execTrace (s : State) : Host.Outcome State Fault Refusal :=
  done s (s.blk.atIr 6 fun b =>
    match b.flag R.TRC_CTRL_SINK, b.trcBuf with
    | false, r :: rs =>
      { b with
        trcBuf := rs
        tap := { b.tap with dr := leNat r + 2 ^ 128 + 2 ^ 129 * bit (!rs.isEmpty) } }
    | _, _ => { b with tap := { b.tap with dr := 0 } })

/-- The debug bus master's access, requester 75 of class P4, as its target answers (R463): ERR where nothing happened; `find` is what
the target's array read finds. -/
def Block.dbgAccess (b : Block) (a : DbgAcc) (find : BankFind) : Block × Served :=
  match b.target a.addr, a.data with
  | .window off, none => if b.winOff off then (b, .lost) else let r := b.winRead 75 off; (r.1, .data (leBytes r.2 4))
  | .window off, some v => if b.winOff off then (b, .lost) else (b.winWrite 75 off v, .data [])
  | .tags off, none => if b.drips then (b, .lost) else (b, .data (b.tagBytes off 4))
  | .tags _, some _ => (b, .lost)
  | .nothing, _ => (b, .lost)
  | _, d =>
    if b.drips || !b.reachable a.addr 4 then (b, .lost)
    else match d with
      | none => b.now (dmaReq 75 .read a.addr 4 [] 4) find
      | some v => b.now (dmaReq 75 .write a.addr 4 (leBytes v 4) 4) find

/-- DEBUG_ACCESS_DONE (R461, R463): the outstanding access completes; it stays outstanding while its line is under repair (R212). -/
def execDebugAccessDone (find : BankFind) (s : State) : Host.Outcome State Fault Refusal :=
  let b := s.blk
  done s (match b.tap.acc with
    | some a =>
      match b.dbgAccess a find with
      | (b, .data d) => b.modTap fun t => { t with acc := none, data := leNat d, status := 0 }
      | (b, .lost) => (b.modTap fun t => { t with acc := none, data := b.freeWord.toNat % 2 ^ 32, status := 2 }).drawn
      | (b, .later) => b
    | none => b)

/-! ## Block reset (R456, R461) -/

/-- The outstanding access as a block reset begins (R461): it completes with ERR and DATA 0; a write's effect at its target
is undefined: it takes effect or not (log entry 50). -/
def Block.dbgCut (b : Block) : Block :=
  match b.tap.acc with
  | some a =>
    let free := b.freeWord.getLsbD 0
    let b := b.drawn
    let b := if a.data.isSome && free then (b.dbgAccess a .clean).1 else b
    b.modTap fun t => { t with acc := none, data := 0, status := 2 }
  | none => b

/-- BLOCK_RESET (R456). -/
def execBlockReset (s : State) : Host.Outcome State Fault Refusal := done s s.blk.dbgCut.blockReset

end Sys2Proof.Machine
end

