-- ==== Sys2Proof/Machine/Traps.lean ====
section
/-! DEFINITION. The micro-traps of an engine, its start, the arrival of instruction lines and of break notices (02, R61 to
R65; 03, R76, R77, R91, R98; 11, R301; 12, R325, R333; 19, R465 to R469). -/
namespace Sys2Proof.Machine

/-! ## Micro-traps (R61 to R65) -/

/-- What micro-trap entry does (R62): UTPC is the microaddress that would have run next, which nothing states inside an
instruction's wait (log entry 54), UTIN says whether the point was no ENDI, and the engine is at the entry point. -/
def Block.recordTrap (b : Block) (n : Nat) (inside : Bool) (t : MicroTrap) : Block :=
  let e := b.engine n
  let known := e.hold == .none && e.long.isNone
  let b := ((b.setEngine n (Engine.recode { e with upc := t.entry } [138, 139])).countEng n 0x09).put
    (R.ENG_USTAT_UTIN n) (bit inside)
  if known then b.put (R.ENG_USTAT_UTPC n) e.upc.toNat else (b.put (R.ENG_USTAT_UTPC n) b.freeWord.toNat).drawn

/-- A clock-stop halt (R61, R466, R469, R475): the engine's clock stops, CYCLE at the tick it has reached (R73; log entry 11), a
HALT record goes out, and every other member of the halt group that is not in a clock-stop halt is asked to halt too. -/
def Block.clockStop (b : Block) (n : Nat) (inside : Bool) : Block :=
  let b := ((b.countEng n 0x09).modEngine n fun e => { e with halt := none, cycle := e.cycle + b.freeWord }).drawn
  let b := ((b.clear (R.ENG_DBGSTAT_PENDING n)).clear (R.ENG_DBGSTAT_STEPPING n)).emit n 5 0 0 (b.engine n).pc.toNat
  let b := (b.raise (R.ENG_DBGSTAT_CSTOP n)).put (R.ENG_DBGSTAT_INSTR n) (bit inside)
  if b.inGroup n then
    forEach 72 (fun m b =>
      if m ≠ n ∧ b.inGroup m ∧ !b.flag (R.ENG_DBGSTAT_CSTOP m) then b.requestHalt m .clockStop else b) b
  else b

/-- The responses still outstanding are dropped (R62, R98). -/
def Engine.dropResponses (e : Engine) : Engine :=
  { e with
    slots := e.slots.filterMap fun p => match p.2 with
      | .expecting _ len => some (p.1, .expecting true len)
      | _ => none
    streamIn := e.streamIn.filter fun x => match x with
      | .rdl _ => false
      | _ => true }

/-- The freeze asked of engine `n` waits for a macro boundary (R191, R193, R301): a MACRO move, a RELOAD, or an engine that is
frozen on its own store. -/
def Block.freezeMacro (b : Block) (n : Nat) : Bool :=
  match b.spm.move with
  | some m => if m.src = n then m.kind == .atMacro else false
  | none => match b.spm.act with
    | some a => a.reload || a.inPlace == some (b.mapped n)
    | none => false

/-- The routine at 0x0008 (R301): the engine stops at once, or for a macro boundary at an instruction's start; a long
instruction is first put in the state of R98, and inside any other UTRET goes on and the freeze stays due. -/
def Block.takeFreeze (b : Block) (n : Nat) (inside : Bool) : Block :=
  let b := b.lockBreak n .exception
  if !b.freezeMacro n then (b.modEngine n fun e => { e with trapPt := none }).froze n
  else if !inside then (b.modEngine n fun e => { e with trapPt := some true }).froze n
  else if (b.engine n).long.isSome then
    (b.modEngine n fun e => { e.dropResponses with
      st := { e.st with rsm := true }, long := none, trapPt := some true }).froze n
  else b.modEngine n fun e => Engine.recode { e with
    trapPt := none, upc := e.resumeAt (BitVec.ofNat 13 (b.get (R.ENG_USTAT_UTPC n))) } [138]

/-- A monitor-mode halt (R467): vector 1 in the Vendor world, whose frame's place is recorded. -/
def Block.takeMonitor (b : Block) (n ra : Nat) : Block :=
  let b := (b.modEngine n fun e => { e with halt := none }).clear (R.ENG_DBGSTAT_PENDING n)
  let b := (b.emit n 5 1 0 (b.engine n).pc.toNat).enter n 1 false ra
  if b.flag (R.ENG_XSTAT_LOCKUP n) then b
  else (b.raise (R.ENG_DBGSTAT_MONITOR n)).modEngine n fun e => { e with monFrame := some (e.sp.get 0 0) }

/-- An interrupt or a doorbell (R333, R334): the Vendor target's events come first, and at one target the interrupt. -/
def Block.takeEvent (b : Block) (n ra : Nat) : Block :=
  let b := b.countEng n 0x0B
  let tenant := !(b.admits n false && (b.irqLine (2 * n) || b.dbLine (2 * n)))
  let irq := b.irqLine (2 * n + bit tenant)
  b.enter n (if irq then 16 else 17) tenant ra

/-- The routines at 0x0010, 0x0018 and 0x0020, which are base microcode (R178) and are done whole (R62, R98, R333, R343, R467; log
entry 79): inside an instruction they record its own address with RSM = 1 and drop its responses; a pending FPTRAP is taken in
their place and they stay due (R121). -/
def Block.takeTrap (b : Block) (n : Nat) (inside : Bool) (t : MicroTrap) : Block :=
  let b := b.modEngine n fun e =>
    if inside then { e.dropResponses with
      st := { e.st with rsm := true }, long := none, hold := .none, pcNext := none,
      fpt := e.fpt.map fun t => { t with raised := false } }
    else e
  let ra := (b.engine n).pc.toNat
  if (b.engine n).fpt.isSome then b.takeFpTrap n ra
  else match t with
    | .monitor => b.takeMonitor n ra
    | .watchdog => (b.modEngine n fun e => { e with wdgDue := false }).enter n 2 false ra
    | _ => b.takeEvent n ra

/-- The word that waits for data from a line under repair is not committed and is presented again later: its request is
withdrawn, and a micro-trap may be taken there (R212). -/
def Block.withdrawWord (b : Block) (n : Nat) : Block :=
  match b.deferred n with
  | none => b
  | some k =>
    let c := b.bankAt k
    (b.setBank k { c with waiting := c.waiting.filter fun q => !(q.rq == n && q.reply == .word) }).modEngine n fun e => { e with
      wait := none, trapPt := some false, streamIn := e.streamIn.filter (· != .sld) }

/-- MICRO_TRAP (R61, R212): at a TRAPOK point, or while its word waits for a repair, engine `n` takes the first micro-trap that is
due there; where none is due, or the engine is at no such point, nothing happens. -/
def execMicroTrap (n : PE) (s : State) : Host.Outcome State Fault Refusal :=
  done s <|
    let b := if s.blk.runs n && (s.blk.trapDue n).isSome && (s.blk.engine n).wait.isSome then s.blk.withdrawWord n else s.blk
    if !b.runs n || (b.engine n).wait.isSome then b
    else match (b.engine n).point, b.trapDue n with
      | some p, some .clockStop => b.clockStop n (!p)
      | some p, some .freeze => (b.recordTrap n (!p) .freeze).takeFreeze n (!p)
      | some p, some t => (b.recordTrap n (!p) t).takeTrap n (!p) t
      | _, _ => b

/-! ## Instruction fetch (R76, R77) -/

/-- The address from which a waiting dispatch misses bytes: the instruction's own, or that of a 64-bit form's second word. -/
def Engine.missing (e : Engine) : Nat :=
  if (e.wordAt e.pc.toNat).isNone then e.pc.toNat else (e.pc.toNat + 4) % 2 ^ 48

/-- A line put into the buffer. -/
def Engine.fill (e : Engine) (line : Nat) (d : List Byte) : Engine := { e with ibuf := e.ibuf.put line d }

/-- A fetch that a waiting dispatch needs has failed (R76, R121, R521): vector 5 with the address that failed. -/
def Block.fetchFault (b : Block) (n a : Nat) (c : Cause) : Block :=
  if (b.engine n).fpt.isSome then b.takeFpTrap n (b.engine n).pc.toNat
  else b.exceptRegion n a c a

/-- The line that a waiting dispatch needs (R38, R76): whatever check it fails, FCAUSE is 0x05, and 0x0D where its target answers
with an error. -/
def Block.fetchLine (b : Block) (n : Nat) (find : BankFind) : Block :=
  let a := (b.engine n).missing
  match b.check n [.exec] (a / 64 * 64) 64 with
  | some _ => b.fetchFault n a .region
  | none => match b.load n (a / 64 * 64) 64 true find with
    | (b, .error .later) => b
    | (b, .error _) => b.fetchFault n a .tgtErr
    | (b, .ok d) => b.modEngine n fun e => (e.fill (a / 64) d).dispatchNext

/-- The prefetch of the line after PC's (R77): one that fails raises nothing. -/
def Block.prefetch (b : Block) (n : Nat) (find : BankFind) : Block :=
  let l := ((b.engine n).pc.toNat / 64 + 1) % 2 ^ 42
  if ((b.engine n).ibuf.look l).isSome || (b.check n [.exec] (64 * l) 64).isSome then b
  else match b.load n (64 * l) 64 true find with
    | (b, .error _) => b
    | (b, .ok d) => b.modEngine n fun e => e.fill l d

/-- INSTRUCTION_FETCH (R38, R76, R77): the line that the waiting dispatch needs arrives, or fails; where no dispatch waits, the
next sequential line is prefetched. A micro-trap that is due during the wait is taken first. `find`: what the read at the target
finds, which the state does not decide (R208, R211, R213, R521). -/
def execInstructionFetch (n : PE) (find : BankFind) (s : State) : Host.Outcome State Fault Refusal :=
  let b := s.blk
  done s <|
    if !b.runs n then b
    else if (b.engine n).hold == .fetch then if b.trapFirst n then b else b.fetchLine n find
    else b.prefetch n find

/-! ## Engine start (R34, R325) -/

/-- ENGINE_START (R34, R60, R94, R325): engine `n` takes the start that has been sent to it at microaddress 0x0000, whose base
routine (R178; log entry 79) gives its registers, its region table and its watchdog their values, and fetches its first
instruction at ENGn_BOOT. -/
def execEngineStart (n : PE) (s : State) : Host.Outcome State Fault Refusal :=
  let b := s.blk
  done s <|
    if (b.engine n).startDue && b.get (R.PWR_ENG_STATE n) == 2 then
      let pc := b.getAddr (R.ENG_BOOT_LO_PC n) (R.ENG_BOOT_HI_PC n)
      let b := (b.modEngine n fun e => { e.started with
        running := true, pc := BitVec.ofNat 48 pc, hold := .fetch, trapPt := some true }).resetWdg n
      let b := (b.clear (R.ENG_USTAT_HALTED n)).unlock n
      ((((b.clear (R.ENG_USTAT_LASTCAUSE n)).clear (R.ENG_LKSTAT_BRKCAUSE n)).clear (R.ENG_LKSTAT_LKACT n)).clear
        (R.ENG_LKSTAT_LKCNT n))
    else b

/-! ## Break notices (R91, R204) -/

/-- BREAK_NOTICE (R91): the oldest notice on its way to engine `n` arrives; it breaks the active sequence where it belongs to
that sequence's lock, and has no effect otherwise. -/
def execBreakNotice (n : PE) (s : State) : Host.Outcome State Fault Refusal :=
  let b := s.blk
  let e := b.engine n
  done s <| match e.notices with
    | [] => b
    | k :: ks =>
      let b := b.setEngine n { e with notices := ks }
      if b.flag (R.ENG_LKSTAT_LKACT n) && k == e.lkSeq then b.lockBreak n .remote else b

end Sys2Proof.Machine
end

