-- ==== Sys2Proof/Machine/Dispatch.lean ====
section
/-! DEFINITION. The one arm of each command: a direct call of its meaning. -/
namespace Sys2Proof.Machine

/-- The effect of a command on everything but the queue. -/
def exec (i : Instr) (s : State) : Host.Outcome State Fault Refusal :=
  match i with
  | .sealInputHigh => Sys2Proof.Machine.execSealInputHigh s
  | .powerOnReset => Sys2Proof.Machine.execPowerOnReset s
  | .blockReset => Sys2Proof.Machine.execBlockReset s
  | .pllLock => Sys2Proof.Machine.execPllLock s
  | .registerWrite rq off v => Sys2Proof.Machine.execRegisterWrite rq off v s
  | .microword n find res => Sys2Proof.Machine.execMicroword n find res s
  | .fabricResponse n c => Sys2Proof.Machine.execFabricResponse n c s
  | .extAnswer n => Sys2Proof.Machine.execExtAnswer n s
  | .carafeLoadData n res => Sys2Proof.Machine.execCarafeLoadData n res s
  | .microTrap n => Sys2Proof.Machine.execMicroTrap n s
  | .instructionFetch n err => Sys2Proof.Machine.execInstructionFetch n err s
  | .engineStart n => Sys2Proof.Machine.execEngineStart n s
  | .engineClockWrite n fstep => Sys2Proof.Machine.execEngineClockWrite n fstep s
  | .engineClockSwitch n => Sys2Proof.Machine.execEngineClockSwitch n s
  | .breakNotice n => Sys2Proof.Machine.execBreakNotice n s
  | .add n d a b x => Sys2Proof.Machine.execAdd n d a b x s
  | .sub n d a b x => Sys2Proof.Machine.execSub n d a b x s
  | .adc n d a b x => Sys2Proof.Machine.execAdc n d a b x s
  | .sbc n d a b x => Sys2Proof.Machine.execSbc n d a b x s
  | .and n d a b x => Sys2Proof.Machine.execAnd n d a b x s
  | .or n d a b x => Sys2Proof.Machine.execOr n d a b x s
  | .xor n d a b x => Sys2Proof.Machine.execXor n d a b x s
  | .andn n d a b x => Sys2Proof.Machine.execAndn n d a b x s
  | .neg n d a b x => Sys2Proof.Machine.execNeg n d a b x s
  | .not n d a b x => Sys2Proof.Machine.execNot n d a b x s
  | .cmp n d a b x => Sys2Proof.Machine.execCmp n d a b x s
  | .tst n d a b x => Sys2Proof.Machine.execTst n d a b x s
  | .shl n d a b x => Sys2Proof.Machine.execShl n d a b x s
  | .shr n d a b x => Sys2Proof.Machine.execShr n d a b x s
  | .sar n d a b x => Sys2Proof.Machine.execSar n d a b x s
  | .ror n d a b x => Sys2Proof.Machine.execRor n d a b x s
  | .mins n d a b x => Sys2Proof.Machine.execMins n d a b x s
  | .maxs n d a b x => Sys2Proof.Machine.execMaxs n d a b x s
  | .minu n d a b x => Sys2Proof.Machine.execMinu n d a b x s
  | .maxu n d a b x => Sys2Proof.Machine.execMaxu n d a b x s
  | .clz n d a b x => Sys2Proof.Machine.execClz n d a b x s
  | .ctz n d a b x => Sys2Proof.Machine.execCtz n d a b x s
  | .popc n d a b x => Sys2Proof.Machine.execPopc n d a b x s
  | .ext n d a b x => Sys2Proof.Machine.execExt n d a b x s
  | .bswap n d a b x => Sys2Proof.Machine.execBswap n d a b x s
  | .sel n d a b x => Sys2Proof.Machine.execSel n d a b x s
  | .mov n d a b x => Sys2Proof.Machine.execMov n d a b x s
  | .addi n d a imm => Sys2Proof.Machine.execAddi n d a imm s
  | .andi n d a imm => Sys2Proof.Machine.execAndi n d a imm s
  | .ori n d a imm => Sys2Proof.Machine.execOri n d a imm s
  | .xori n d a imm => Sys2Proof.Machine.execXori n d a imm s
  | .cmpi n d a imm => Sys2Proof.Machine.execCmpi n d a imm s
  | .shli n d a imm => Sys2Proof.Machine.execShli n d a imm s
  | .shri n d a imm => Sys2Proof.Machine.execShri n d a imm s
  | .sari n d a imm => Sys2Proof.Machine.execSari n d a imm s
  | .rori n d a imm => Sys2Proof.Machine.execRori n d a imm s
  | .bfx n d a imm => Sys2Proof.Machine.execBfx n d a imm s
  | .bfi n d a imm => Sys2Proof.Machine.execBfi n d a imm s
  | .li n d a x imm => Sys2Proof.Machine.execLi n d a x imm s
  | .lih n d a x imm => Sys2Proof.Machine.execLih n d a x imm s
  | .addiw n d a x imm => Sys2Proof.Machine.execAddiw n d a x imm s
  | .mul n d a b x => Sys2Proof.Machine.execMul n d a b x s
  | .mulhS n d a b x => Sys2Proof.Machine.execMulhS n d a b x s
  | .mulhU n d a b x => Sys2Proof.Machine.execMulhU n d a b x s
  | .mulwS n d a b x => Sys2Proof.Machine.execMulwS n d a b x s
  | .mulwU n d a b x => Sys2Proof.Machine.execMulwU n d a b x s
  | .dstep n d a b x => Sys2Proof.Machine.execDstep n d a b x s
  | .dfix n d a b x => Sys2Proof.Machine.execDfix n d a b x s
  | .ldb n sgn d a imm err => Sys2Proof.Machine.execLdb n sgn d a imm err s
  | .ldh n sgn d a imm err => Sys2Proof.Machine.execLdh n sgn d a imm err s
  | .ldw n sgn d a imm err => Sys2Proof.Machine.execLdw n sgn d a imm err s
  | .ldd n d a imm err => Sys2Proof.Machine.execLdd n d a imm err s
  | .stb n size d a imm => Sys2Proof.Machine.execStb n size d a imm s
  | .ldv n d a imm err => Sys2Proof.Machine.execLdv n d a imm err s
  | .stv n d a imm => Sys2Proof.Machine.execStv n d a imm s
  | .amoadd n d a b x err => Sys2Proof.Machine.execAmoadd n d a b x err s
  | .amoswp n d a b x err => Sys2Proof.Machine.execAmoswp n d a b x err s
  | .amocas n d a b x err => Sys2Proof.Machine.execAmocas n d a b x err s
  | .amoand n d a b x err => Sys2Proof.Machine.execAmoand n d a b x err s
  | .amoor n d a b x err => Sys2Proof.Machine.execAmoor n d a b x err s
  | .lkb n d a b x err => Sys2Proof.Machine.execLkb n d a b x err s
  | .lke n d a b x err => Sys2Proof.Machine.execLke n d a b x err s
  | .fence n d a b x => Sys2Proof.Machine.execFence n d a b x s
  | .vins n d a b x => Sys2Proof.Machine.execVins n d a b x s
  | .vext n d a b x => Sys2Proof.Machine.execVext n d a b x s
  | .fadd n d a b x => Sys2Proof.Machine.execFadd n d a b x s
  | .fsub n d a b x => Sys2Proof.Machine.execFsub n d a b x s
  | .fmul n d a b x => Sys2Proof.Machine.execFmul n d a b x s
  | .fma n d a b x => Sys2Proof.Machine.execFma n d a b x s
  | .fms n d a b x => Sys2Proof.Machine.execFms n d a b x s
  | .fnma n d a b x => Sys2Proof.Machine.execFnma n d a b x s
  | .fnms n d a b x => Sys2Proof.Machine.execFnms n d a b x s
  | .fmin n d a b x => Sys2Proof.Machine.execFmin n d a b x s
  | .fmax n d a b x => Sys2Proof.Machine.execFmax n d a b x s
  | .fcmp n d a b x => Sys2Proof.Machine.execFcmp n d a b x s
  | .fcmps n d a b x => Sys2Proof.Machine.execFcmps n d a b x s
  | .fabs n d a b x => Sys2Proof.Machine.execFabs n d a b x s
  | .fneg n d a b x => Sys2Proof.Machine.execFneg n d a b x s
  | .fsgn n d a b x => Sys2Proof.Machine.execFsgn n d a b x s
  | .fclass n d a b x => Sys2Proof.Machine.execFclass n d a b x s
  | .fcvt n d a b x => Sys2Proof.Machine.execFcvt n d a b x s
  | .ftoi n d a b x => Sys2Proof.Machine.execFtoi n d a b x s
  | .itof n d a b x => Sys2Proof.Machine.execItof n d a b x s
  | .frint n d a b x => Sys2Proof.Machine.execFrint n d a b x s
  | .fdinit n d a b x => Sys2Proof.Machine.execFdinit n d a b x s
  | .fdstep n d a b x => Sys2Proof.Machine.execFdstep n d a b x s
  | .fdfin n d a b x => Sys2Proof.Machine.execFdfin n d a b x s
  | .fbar n d a b x => Sys2Proof.Machine.execFbar n d a b x s
  | .b n off => Sys2Proof.Machine.execB n off s
  | .bl n off => Sys2Proof.Machine.execBl n off s
  | .bcc n cc off => Sys2Proof.Machine.execBcc n cc off s
  | .jr n d a b x => Sys2Proof.Machine.execJr n d a b x s
  | .jalr n d a b x => Sys2Proof.Machine.execJalr n d a b x s
  | .syscall n code => Sys2Proof.Machine.execSyscall n code s
  | .breakpoint n code => Sys2Proof.Machine.execBreak n code s
  | .trap n code => Sys2Proof.Machine.execTrap n code s
  | .gcall n code => Sys2Proof.Machine.execGcall n code s
  | .rte n code err => Sys2Proof.Machine.execRte n code err s
  | .wfi n code => Sys2Proof.Machine.execWfi n code s
  | .mfst n d a b x => Sys2Proof.Machine.execMfst n d a b x s
  | .mtst n d a b x => Sys2Proof.Machine.execMtst n d a b x s
  | .mfsr n d a imm => Sys2Proof.Machine.execMfsr n d a imm s
  | .mtsr n d a imm => Sys2Proof.Machine.execMtsr n d a imm s
  | .isync n code => Sys2Proof.Machine.execIsync n code s
  | .nop n code => Sys2Proof.Machine.execNop n code s
  | .customerOpcode n word defined => Sys2Proof.Machine.execCustomerOpcode n word defined s
  | .bmov n d a b x => Sys2Proof.Machine.execBmov n d a b x s
  | .bfil n d a b x => Sys2Proof.Machine.execBfil n d a b x s
  | .bscn n d a b x => Sys2Proof.Machine.execBscn n d a b x s
  | .bcmp n d a b x => Sys2Proof.Machine.execBcmp n d a b x s
  | .bsum n d a b x => Sys2Proof.Machine.execBsum n d a b x s
  | .kcall n d a b x err => Sys2Proof.Machine.execKcall n d a b x err s
  | .longChunk n err => Sys2Proof.Machine.execLongChunk n err s
  | .kernelBlock n err => Sys2Proof.Machine.execKernelBlock n err s
  | .flushout n => Sys2Proof.Machine.execFlushout n s
  | .chainEntryArrival c j credit => Sys2Proof.Machine.execChainEntryArrival c j credit s
  | .csErrorRepair n row again own => Sys2Proof.Machine.execCsErrorRepair n row again own s
  | .csScrub n find => Sys2Proof.Machine.execCsScrub n find s
  | .csClrcnt n => Sys2Proof.Machine.execCsClrcnt n s
  | .rootOfTrustWrite idx data => Sys2Proof.Machine.execRootOfTrustWrite idx data s
  | .loaderStart => Sys2Proof.Machine.execLoaderStart s
  | .loaderReadData err => Sys2Proof.Machine.execLoaderReadData err s
  | .digestResult ctx digest ok => Sys2Proof.Machine.execDigestResult ctx digest ok s
  | .digestRequest err => Sys2Proof.Machine.execDigestRequest err s
  | .activationStart reload => Sys2Proof.Machine.execActivationStart reload s
  | .activationAbort => Sys2Proof.Machine.execActivationAbort s
  | .storeCopyDone dst => Sys2Proof.Machine.execStoreCopyDone dst s
  | .activationStep => Sys2Proof.Machine.execActivationStep s
  | .bankServe k find => Sys2Proof.Machine.execBankServe k find s
  | .carafeScrub k find => Sys2Proof.Machine.execCarafeScrub k find s
  | .secondSourceRefetch k err same stays => Sys2Proof.Machine.execSecondSourceRefetch k err same stays s
  | .bankInitDone k => Sys2Proof.Machine.execBankInitDone k s
  | .bankClrcnt k => Sys2Proof.Machine.execBankClrcnt k s
  | .ownerRemapApply k => Sys2Proof.Machine.execOwnerRemapApply k s
  | .commandArrival sqe cls sqid capns dir clen xlen row => Sys2Proof.Machine.execCommandArrival sqe cls sqid capns dir clen xlen row s
  | .admissionAgeing cls => Sys2Proof.Machine.execAdmissionAgeing cls s
  | .admissionGrant => Sys2Proof.Machine.execAdmissionGrant s
  | .dispatch row => Sys2Proof.Machine.execDispatch row s
  | .dispatchRecordWritten le slot => Sys2Proof.Machine.execDispatchRecordWritten le slot s
  | .landingBeat tag off data ben fin err row => Sys2Proof.Machine.execLandingBeat tag off data ben fin err row s
  | .lastBeatHeld tag => Sys2Proof.Machine.execLastBeatHeld tag s
  | .intakeTake n => Sys2Proof.Machine.execIntakeTake n s
  | .intakeLanded n => Sys2Proof.Machine.execIntakeLanded n s
  | .intakeComplete n row => Sys2Proof.Machine.execIntakeComplete n row s
  | .intakeAbort n => Sys2Proof.Machine.execIntakeAbort n s
  | .intakeRelease n => Sys2Proof.Machine.execIntakeRelease n s
  | .completionPosted => Sys2Proof.Machine.execCompletionPosted s
  | .flushComplete => Sys2Proof.Machine.execFlushComplete s
  | .controllerReset => Sys2Proof.Machine.execControllerReset s
  | .controllerResetDone => Sys2Proof.Machine.execControllerResetDone s
  | .secondSourceLookup k => Sys2Proof.Machine.execSecondSourceLookup k s
  | .writeBufferRelease => Sys2Proof.Machine.execWriteBufferRelease s
  | .mpSubmit slot count => Sys2Proof.Machine.execMpSubmit slot count s
  | .descriptorFetch err => Sys2Proof.Machine.execDescriptorFetch err s
  | .mpProg => Sys2Proof.Machine.execMpProg s
  | .mpRead => Sys2Proof.Machine.execMpRead s
  | .mpMread => Sys2Proof.Machine.execMpMread s
  | .mpErase => Sys2Proof.Machine.execMpErase s
  | .mpUnmap => Sys2Proof.Machine.execMpUnmap s
  | .eraseRelease => Sys2Proof.Machine.execEraseRelease s
  | .programDataRequest slot idx gidx err => Sys2Proof.Machine.execProgramDataRequest slot idx gidx err s
  | .readData slot idx gidx beat data oob => Sys2Proof.Machine.execReadData slot idx gidx beat data oob s
  | .mediaCompletion slot idx fail => Sys2Proof.Machine.execMediaCompletion slot idx fail s
  | .jflush => Sys2Proof.Machine.execJflush s
  | .journalHandoff => Sys2Proof.Machine.execJournalHandoff s
  | .adcSample bank code => Sys2Proof.Machine.execAdcSample bank code s
  | .adcLost => Sys2Proof.Machine.execAdcLost s
  | .kettleCycle => Sys2Proof.Machine.execKettleCycle s
  | .reservationRelease => Sys2Proof.Machine.execReservationRelease s
  | .kettleReserve n => Sys2Proof.Machine.execKettleReserve n s
  | .kettleRelease n => Sys2Proof.Machine.execKettleRelease n s
  | .kettleQuery n => Sys2Proof.Machine.execKettleQuery n s
  | .throttle => Sys2Proof.Machine.execThrottle s
  | .testpf key => Sys2Proof.Machine.execTestpf key s
  | .warningArrival w => Sys2Proof.Machine.execWarningArrival w s
  | .moveDrainDone => Sys2Proof.Machine.execMoveDrainDone s
  | .moveTransferDone crcOk => Sys2Proof.Machine.execMoveTransferDone crcOk s
  | .moveRemap => Sys2Proof.Machine.execMoveRemap s
  | .remapAcknowledged ns => Sys2Proof.Machine.execRemapAcknowledged ns s
  | .spmMove mode pe le mgmt => Sys2Proof.Machine.execSpmMove mode pe le mgmt s
  | .spmRetire mode pe le mgmt => Sys2Proof.Machine.execSpmRetire mode pe le mgmt s
  | .spmRestore mode pe le mgmt => Sys2Proof.Machine.execSpmRestore mode pe le mgmt s
  | .spmTest mode pe le mgmt => Sys2Proof.Machine.execSpmTest mode pe le mgmt s
  | .spmRestart mode pe le mgmt => Sys2Proof.Machine.execSpmRestart mode pe le mgmt s
  | .transitionApply => Sys2Proof.Machine.execTransitionApply s
  | .engineTestDone n pass => Sys2Proof.Machine.execEngineTestDone n pass s
  | .wearSample => Sys2Proof.Machine.execWearSample s
  | .mirrorUpdate => Sys2Proof.Machine.execMirrorUpdate s
  | .rgpCommit n en perm => Sys2Proof.Machine.execRgpCommit n en perm s
  | .watchdogExpiry n => Sys2Proof.Machine.execWatchdogExpiry n s
  | .watchdogService n key => Sys2Proof.Machine.execWatchdogService n key s
  | .service n => Sys2Proof.Machine.execService n s
  | .sourceEvent x => Sys2Proof.Machine.execSourceEvent x s
  | .distClaim t => Sys2Proof.Machine.execDistClaim t s
  | .distComplete t x => Sys2Proof.Machine.execDistComplete t x s
  | .distPendset r w => Sys2Proof.Machine.execDistPendset r w s
  | .claim n => Sys2Proof.Machine.execClaim n s
  | .complete n => Sys2Proof.Machine.execComplete n s
  | .ring n => Sys2Proof.Machine.execRing n s
  | .timerExpiry c => Sys2Proof.Machine.execTimerExpiry c s
  | .timerArm c => Sys2Proof.Machine.execTimerArm c s
  | .timerStop c => Sys2Proof.Machine.execTimerStop c s
  | .timerClrcnt c => Sys2Proof.Machine.execTimerClrcnt c s
  | .arm n => Sys2Proof.Machine.execArm n s
  | .stop n => Sys2Proof.Machine.execStop n s
  | .read n => Sys2Proof.Machine.execRead n s
  | .readcap n => Sys2Proof.Machine.execReadcap n s
  | .groupGo timed => Sys2Proof.Machine.execGroupGo timed s
  | .groupCancel => Sys2Proof.Machine.execGroupCancel s
  | .groupStart => Sys2Proof.Machine.execGroupStart s
  | .phaseDelayEnd c => Sys2Proof.Machine.execPhaseDelayEnd c s
  | .captureEdge c rising dt => Sys2Proof.Machine.execCaptureEdge c rising dt s
  | .caprRead c => Sys2Proof.Machine.execCaprRead c s
  | .timeLoad => Sys2Proof.Machine.execTimeLoad s
  | .alarmClear => Sys2Proof.Machine.execAlarmClear s
  | .timeAdj ns => Sys2Proof.Machine.execTimeAdj ns s
  | .alarmArm lo => Sys2Proof.Machine.execAlarmArm lo s
  | .alarm => Sys2Proof.Machine.execAlarm s
  | .timePortEvent ns frac close dt => Sys2Proof.Machine.execTimePortEvent ns frac close dt s
  | .servoResult => Sys2Proof.Machine.execServoResult s
  | .tpmiss => Sys2Proof.Machine.execTpmiss s
  | .axisIncrement a la lb => Sys2Proof.Machine.execAxisIncrement a la lb s
  | .sincosSample a sin cos => Sys2Proof.Machine.execSincosSample a sin cos s
  | .samplost a => Sys2Proof.Machine.execSamplost a s
  | .speedWindowEnd a => Sys2Proof.Machine.execSpeedWindowEnd a s
  | .spdwinWrite a win => Sys2Proof.Machine.execSpdwinWrite a win s
  | .index a => Sys2Proof.Machine.execIndex a s
  | .probe a rising dt => Sys2Proof.Machine.execProbe a rising dt s
  | .prbloRead a => Sys2Proof.Machine.execPrbloRead a s
  | .axisLoad a => Sys2Proof.Machine.execAxisLoad a s
  | .cntclr a => Sys2Proof.Machine.execCntclr a s
  | .emulatorStep a => Sys2Proof.Machine.execEmulatorStep a s
  | .slotAged slot => Sys2Proof.Machine.execSlotAged slot s
  | .lookup n => Sys2Proof.Machine.execLookup n s
  | .consume n => Sys2Proof.Machine.execConsume n s
  | .count n => Sys2Proof.Machine.execCount n s
  | .slotclr all slot => Sys2Proof.Machine.execSlotclr all slot s
  | .psPins n => Sys2Proof.Machine.execPsPins n s
  | .psWaitfor n pins => Sys2Proof.Machine.execPsWaitfor n pins s
  | .psSend n => Sys2Proof.Machine.execPsSend n s
  | .psTake n pins => Sys2Proof.Machine.execPsTake n pins s
  | .psLoads n => Sys2Proof.Machine.execPsLoads n s
  | .psStored n => Sys2Proof.Machine.execPsStored n s
  | .psTally n => Sys2Proof.Machine.execPsTally n s
  | .psRepeat n => Sys2Proof.Machine.execPsRepeat n s
  | .psBranch n pins => Sys2Proof.Machine.execPsBranch n pins s
  | .psFlag n => Sys2Proof.Machine.execPsFlag n s
  | .psStrobe n => Sys2Proof.Machine.execPsStrobe n s
  | .psHalt n => Sys2Proof.Machine.execPsHalt n s
  | .psPause n => Sys2Proof.Machine.execPsPause n s
  | .psBadop n => Sys2Proof.Machine.execPsBadop n s
  | .psStallEnd n pins => Sys2Proof.Machine.execPsStallEnd n pins s
  | .psDwellEnd n => Sys2Proof.Machine.execPsDwellEnd n s
  | .psStepdataWrite n w => Sys2Proof.Machine.execPsStepdataWrite n w s
  | .psInject n w => Sys2Proof.Machine.execPsInject n w s
  | .psInjectExec n pins => Sys2Proof.Machine.execPsInjectExec n pins s
  | .psSndfPush n w => Sys2Proof.Machine.execPsSndfPush n w s
  | .psRcvfRead n => Sys2Proof.Machine.execPsRcvfRead n s
  | .psClkrst n => Sys2Proof.Machine.execPsClkrst n s
  | .psRestart n => Sys2Proof.Machine.execPsRestart n s
  | .psFifoclr n => Sys2Proof.Machine.execPsFifoclr n s
  | .psFlagsWrite w => Sys2Proof.Machine.execPsFlagsWrite w s
  | .psGo timed mask => Sys2Proof.Machine.execPsGo timed mask s
  | .psGstop mask => Sys2Proof.Machine.execPsGstop mask s
  | .psGroupStart => Sys2Proof.Machine.execPsGroupStart s
  | .linkUp l => Sys2Proof.Machine.execLinkUp l s
  | .linkDown l => Sys2Proof.Machine.execLinkDown l s
  | .linkEcho l id rtt => Sys2Proof.Machine.execLinkEcho l id rtt s
  | .censusSend => Sys2Proof.Machine.execCensusSend s
  | .censusReceive l msg => Sys2Proof.Machine.execCensusReceive l msg s
  | .creditPush l size => Sys2Proof.Machine.execCreditPush l size s
  | .creditReceive l size => Sys2Proof.Machine.execCreditReceive l size s
  | .ringSubmit n => Sys2Proof.Machine.execRingSubmit n s
  | .spillStart l err => Sys2Proof.Machine.execSpillStart l err s
  | .nocred l => Sys2Proof.Machine.execNocred l s
  | .spillReceive l frame data => Sys2Proof.Machine.execSpillReceive l frame data s
  | .sack l a => Sys2Proof.Machine.execSack l a s
  | .spillTimeout l => Sys2Proof.Machine.execSpillTimeout l s
  | .engineDomainRequest n dest auto => Sys2Proof.Machine.execEngineDomainRequest n dest auto s
  | .bankDomainRequest k dest => Sys2Proof.Machine.execBankDomainRequest k dest s
  | .perioff off => Sys2Proof.Machine.execPerioff off s
  | .ringoff off => Sys2Proof.Machine.execRingoff off s
  | .domainDone => Sys2Proof.Machine.execDomainDone s
  | .dripEnter => Sys2Proof.Machine.execDripEnter s
  | .dripOff => Sys2Proof.Machine.execDripOff s
  | .pwrWake level => Sys2Proof.Machine.execPwrWake level s
  | .wake => Sys2Proof.Machine.execWake s
  | .dripWake => Sys2Proof.Machine.execDripWake s
  | .wakeComplete => Sys2Proof.Machine.execWakeComplete s
  | .tapReset => Sys2Proof.Machine.execTapReset s
  | .updateIr code => Sys2Proof.Machine.execUpdateIr code s
  | .memaddr v => Sys2Proof.Machine.execMemaddr v s
  | .memdata x => Sys2Proof.Machine.execMemdata x s
  | .obsaddr v => Sys2Proof.Machine.execObsaddr v s
  | .obsdata x => Sys2Proof.Machine.execObsdata x s
  | .trace => Sys2Proof.Machine.execTrace s
  | .portstat x => Sys2Proof.Machine.execPortstat x s
  | .debugAccessDone err => Sys2Proof.Machine.execDebugAccessDone err s
  | .halt n => Sys2Proof.Machine.execHalt n s
  | .resume n => Sys2Proof.Machine.execResume n s
  | .step n => Sys2Proof.Machine.execStep n s
  | .cancel n => Sys2Proof.Machine.execCancel n s
  | .dbgrdCommit n hi => Sys2Proof.Machine.execDbgrdCommit n hi s
  | .cmpctlCommit n v => Sys2Proof.Machine.execCmpctlCommit n v s
  | .xresume => Sys2Proof.Machine.execXresume s
  | .dreset => Sys2Proof.Machine.execDreset s
  | .dbgPwrreq level => Sys2Proof.Machine.execDbgPwrreq level s
  | .pmcClr n => Sys2Proof.Machine.execPmcClr n s
  | .gpcClr => Sys2Proof.Machine.execGpcClr s
  | .vtDtxPush k v => Sys2Proof.Machine.execVtDtxPush k v s
  | .vtDrxPush k v => Sys2Proof.Machine.execVtDrxPush k v s
  | .vtDrxRead k peek => Sys2Proof.Machine.execVtDrxRead k peek s
  | .poptx k => Sys2Proof.Machine.execPoptx k s
  | .vtFlush k => Sys2Proof.Machine.execVtFlush k s
  | .dramResponse k err => Sys2Proof.Machine.execDramResponse k err s
  | .outboundRead id addr lines errs => Sys2Proof.Machine.execOutboundRead id addr lines errs s
  | .dramPortRequest c => Sys2Proof.Machine.execDramPortRequest c s
  | .mediaDescriptorHandoff slot => Sys2Proof.Machine.execMediaDescriptorHandoff slot s
  | .dataRequestSent => Sys2Proof.Machine.execDataRequestSent s

end Sys2Proof.Machine
end

