-- ==== Sys2Proof/Machine/Step.lean ====
section
/-! DEFINITION. One step: the command at the front of the queue, or with an empty queue one PERIPH tick. -/
namespace Sys2Proof.Machine

/-- The block with no command waiting: one PERIPH tick passes (log entry 31). -/
def idle (s : State) : Host.Outcome State Fault Refusal := done s (s.blk.elapse 1)

/-- One step (log entry 31). -/
def step (s : State) : Host.Outcome State Fault Refusal :=
  match s.pending with
  | [] => idle s
  | c :: rest => exec c { s with pending := rest }

/-- The command that a table word spells, put at the front of the queue. -/
def State.withFetchWord (s : State) (nbits w : Nat) : State :=
  match decodeTableWord nbits w with
  | some c => { s with pending := c :: s.pending }
  | none => s

end Sys2Proof.Machine
end

