-- ==== Sys2Proof/Safety.lean ====
section
/-! DEFINITION. What counts as a safe run, and the terms in which statements speak of a command's end: a completed command,
an engine at an instruction, an instruction retired, an exception entered. -/
namespace Sys2Proof.Machine

/-! ## Runs -/

/-- A step that is neither a fault nor a refusal. -/
def Goes (s : State) : Prop := ∃ t, step s = .next t

/-- A command completes with a next state of which `P` holds. -/
def Gives (c : Instr) (s : State) (P : State → Prop) : Prop := ∃ t, exec c s = .next t ∧ P t

/-- Every command that waits is one that some agent can send. -/
def Sendable (s : State) : Prop := ∀ c ∈ s.pending, c.wellFormed = true

/-- The memory of a state has its canonical form. -/
def MemOk (s : State) : Prop := s.blk.mem.wf = true

/-- The forms that every state keeps: the memory's canonical form, the Crema slots in order of their numbers, and an open journal
block of one of 16 places with room for one more of its 127 records (R262, R403). -/
def WellKept (s : State) : Prop :=
  MemOk s ∧ s.blk.crema.Pairwise (fun x y => x.1 < y.1) ∧ ∀ j, s.blk.media.jopen = some j → j.at' < 16 ∧ j.count < 127

/-- The state after a command that changed nothing of the block. -/
def Same (s t : State) : Prop := t = s

/-- Between two blocks nothing differs but register fields, and of these only the listed ones; the model's own account of the present
Distributor cycle and PERIPH tick aside. -/
def OnlyFields (fs : List Fld) (b b' : Block) : Prop :=
  { b' with regs := b.regs, dcycle := b.dcycle, tick := b.tick } = b ∧ ∀ x : Fld, (∀ f ∈ fs, x.key ≠ f.key) → b'.get x = b.get x

/-- Between two blocks no register field differs but the listed ones. -/
def KeepsFields (fs : List Fld) (b b' : Block) : Prop := ∀ x : Fld, (∀ f ∈ fs, x.key ≠ f.key) → b'.get x = b.get x

/-- Between two blocks no register field differs but the listed ones, and beside the registers nothing but the timers' own
state. -/
def OnlyTimers (fs : List Fld) (b b' : Block) : Prop :=
  { b' with regs := b.regs, timers := b.timers, dcycle := b.dcycle, tick := b.tick } = b ∧ KeepsFields fs b b'

/-- From `b` to `b'` source `x` has become pending, the listed fields may have changed, and nothing else has but for the wake
that the source may ask of its target's engine and for the level sources that a PENDSET held in a Distributor cycle that is over
(R348, R353, R446). -/
def Signals (fs : List Fld) (x : Nat) (b b' : Block) : Prop :=
  { b' with regs := b.regs, domQ := b.domQ, dcycle := b.dcycle, tick := b.tick } = b ∧
    (b'.domQ = b.domQ ∨ ∃ n : Nat, b'.domQ = b.domQ ++ [.engine n 2 true]) ∧
    b'.srcBit R.DIST_PENDSET_PEND x = true ∧
    (∀ y < 1024, y ≠ x → y ∉ b.dcycle.forced → b'.srcBit R.DIST_PENDSET_PEND y = b.srcBit R.DIST_PENDSET_PEND y) ∧
    ∀ g : Fld, (∀ f ∈ fs, g.key ≠ f.key) → (∀ r < 32, g.key ≠ (R.DIST_PENDSET_PEND r).key) →
      (∀ n < 72, g.key ≠ (R.PWR_ENG_BUSY n).key) → b'.get g = b.get g

/-- Between two blocks no register field differs but the listed ones, and beside the registers nothing but the axes' own
state. -/
def OnlyAxes (fs : List Fld) (b b' : Block) : Prop :=
  { b' with regs := b.regs, axes := b.axes, tick := b.tick } = b ∧ KeepsFields fs b b'

/-- Between two blocks no register field differs but the listed ones, and beside the registers nothing but Pin Sequencer
`n`'s own state. -/
def OnlyPs (n : Nat) (fs : List Fld) (b b' : Block) : Prop :=
  { b' with regs := b.regs, pinseq := b.pinseq } = b ∧ (∀ m, m ≠ n → b'.ps m = b.ps m) ∧ KeepsFields fs b b'

/-- Sequencer `n` has OE at 1 on a pin that a sequencer with a lower number drives too (R413). -/
def Block.psIgnored (b : Block) (n : Nat) : Prop :=
  ∃ p < 8, (b.get (R.PS_PINST_OE n)).testBit p = true ∧ ∃ m < n, ∃ q < 8, (b.get (R.PS_PINST_OE m)).testBit q = true ∧
    (b.get (R.PS_CTRL_PINBASE n) + p) % 32 = (b.get (R.PS_CTRL_PINBASE m) + q) % 32

/-- Sequencer `n` has completed the step `w`, whose effect made it `p` (R417): the next PC, no stall, and its DWELL cycles to
come. -/
def Block.psDone (b : Block) (n w pc : Nat) (p : PinSeq) : Prop :=
  b.get (R.PS_STAT_PC n) = pc ∧ b.get (R.PS_STAT_STALL n) = 0 ∧ b.ps n = { p with stall := none, dwell := bitsOf w 20 8 } ∧
    b.get (R.PS_STAT_DWELLING n) = bit (bitsOf w 20 8 != 0)

/-- The fields that the end of a step of sequencer `n` may write (R417). -/
def psStat (n : Nat) : List Fld := [R.PS_STAT_PC n, R.PS_STAT_STALL n, R.PS_STAT_DWELLING n]

/-- From `b` to `b'` the bytes `d` have been written at `a`, and every other byte of memory reads as before. -/
def Wrote (a : Nat) (d : List Byte) (b b' : Block) : Prop :=
  b'.mem.bytes a d.length = d ∧ ∀ x, x < a ∨ a + d.length ≤ x → b'.mem.read x = b.mem.read x

/-- Every request that waits at a bank can be served: it has its place at the arbiter, and no line of the bank is damaged or under
repair (R199, R212, R213). -/
def Serves (b : Block) : Prop :=
  ∀ k < 64, (b.bankAt k).repair = [] ∧ (b.bankAt k).bad = [] ∧ ∀ q ∈ (b.bankAt k).waiting, q.place ≠ 0

/-- No request waits at a bank or at the DRAM Port, and no line of a bank is damaged or under repair. -/
def Block.still (b : Block) : Prop :=
  (∀ k < 64, (b.bankAt k).waiting = [] ∧ (b.bankAt k).repair = [] ∧ (b.bankAt k).bad = []) ∧ b.dram.waiting = []

/-- A read of `n` bytes at `a` by a requester without a region table, of which `find` is found, answers with an error: nothing serves
it, or its first line has an uncorrectable error and no second source (R197, R198, R211, R213, R495). -/
def Block.readLost (b : Block) (a n : Nat) (find : BankFind) : Prop :=
  b.reachable a n = false ∨ ∃ second words, find = .uncorrectable second words ∧ words ≠ 0 ∧
    ∀ k, b.target a = .carafe k → (b.bankAt k).src.look (a / 64 % 2 ^ 14) = none

/-- From `b` to `b'` the Media Port has posted a completion entry (R261): at the tail, where memory is there, and the tail moved
on, the phase turning over at the ring's end. -/
def Completed (cookie op data code : Nat) (b b' : Block) : Prop :=
  let tail := b.get R.MP_CPLTAIL_INDEX
  let phase := b.get R.MP_CPLTAIL_PHASE
  let a := b.getAddr R.MP_CPL_LO_ADDR R.MP_CPL_HI_ADDR + 16 * tail
  b'.get R.MP_CPLTAIL_INDEX = (tail + 1) % 2 ^ 15 ∧
    b'.get R.MP_CPLTAIL_PHASE = (if tail + 1 = 2 ^ 15 then (1 - phase) % 2 else phase) ∧ b'.media.unread = b.media.unread + 1 ∧
    (b.reachable a 16 = true → Wrote a (leBytes cookie 4 ++ leBytes code 2 ++ leBytes op 1 ++ leBytes phase 1 ++ leBytes data 8) b b')

/-- The block `b` with engine `n`'s strobe answered (R54): the answer is on its way and the strobe is over. -/
def Replied (b : Block) (n : PE) (err : Bool) (data : W64) : Block :=
  { b with extAns := b.extAns ++ [⟨n, err, some data⟩], strobes := b.strobes.filter (·.pe != n.val) }

/-! ## Instructions of an engine -/

/-- Engine `n` is at a macro boundary with an instruction word in IR; no micro-trap is due there, no comparator watches it, and every
stored code is that of its value (R38, R61, R295, R472). -/
def AtInstr (s : State) (n : PE) (word : Nat) : Prop :=
  s.blk.ready n = true ∧ s.blk.trapFirst n = false ∧ (s.blk.engine n).ir.toNat = word ∧ (s.blk.engine n).cmp = [] ∧
    (s.blk.engine n).codes = []

/-- Engine `n` is about to execute the microword `w`, which is no reserved encoding and not too short: no comparator watches the
engine, its row is not marked uncorrectable, every stored code is that of its value, and nothing of the word has been done before
(R30, R31, R56, R175, R295, R306, R472). -/
def AtWord (s : State) (n : PE) (w : Uword) : Prop :=
  let e := s.blk.engine n
  s.blk.atWord n = true ∧ e.cmp = [] ∧ Uword.ofBits (e.row e.upc.toNat).toNat = w ∧ e.csErr.look e.upc.toNat ≠ some true ∧
    e.replay = none ∧ e.codes = [] ∧ e.decodeFault w = none

/-- A microword that names no memory access, fabric operation, EXT unit, lane, multiplier or FPU operation, and writes neither ST
nor a loop counter (R29). -/
def Uword.plain (w : Uword) : Prop :=
  w.mem = 0 ∧ w.xf = 0 ∧ w.ext = 0 ∧ w.ln = 0 ∧ w.mul = 0 ∧ w.fp = 0 ∧ w.strd = 0 ∧ w.lctl < 4

/-- Nothing is due at engine `n`'s next boundary and nothing watches it: no pending FPTRAP, no single step, no active locked
sequence, no trace (R90, R120, R335, R475). -/
def Quiet (s : State) (n : PE) : Prop :=
  (s.blk.engine n).fpt = none ∧ (s.blk.engine n).st.ss = false ∧ s.blk.flag (R.ENG_LKSTAT_LKACT n) = false ∧
    s.blk.tracing n = false

/-- What of an engine an instruction's own effect can name: everything but PC, the instruction buffer, the sequencer's place,
and RSM, which every instruction's end clears (R38, R68, R71). -/
def Engine.core (e : Engine) : Engine :=
  { e with
    pc := 0, ibuf := [], ir := 0, upc := 0, hold := .none, trapPt := none, skipIaddr := false, long := none, ustack := [],
    st := { e.st with rsm := false } }

/-- A field is a performance counter of engine `n` or its OVF (R477). -/
def isPmc (n : Nat) (x : Fld) : Bool :=
  x.key == (R.ENG_PMCTL_OVF n).key || (List.range 8).any fun i => x.key == (R.ENG_PMC_COUNT n i).key

/-- `b'` is `b` but for the performance counters of engine `n` (R477). -/
def OnlyPmc (n : Nat) (b b' : Block) : Prop :=
  { b' with regs := b.regs } = b ∧ ∀ x, isPmc n x = false → b'.get x = b.get x

/-- An instruction of engine `n` has completed after its effect had made the block `b`: PC is `next`, and beside the engine's
sequencing and its performance counters nothing else has changed (R38, R71, R477). -/
def Ended (b : Block) (n : PE) (next : Nat) (t : State) : Prop :=
  (t.blk.engine n).pc = BitVec.ofNat 48 next ∧ (t.blk.engine n).core = (b.engine n).core ∧
    (∀ m : Nat, m ≠ n.val → t.blk.engine m = b.engine m) ∧ OnlyPmc n { b with eng := t.blk.eng } t.blk

/-- An instruction that changes only its engine has completed: the engine is `f` of what it was. -/
def Retired (s : State) (n : PE) (next : Nat) (f : Engine → Engine) (t : State) : Prop :=
  Ended (s.blk.setEngine n (f (s.blk.engine n))) n next t ∧ t.pending = s.pending

/-- An access of `len` bytes at `a` by engine `n` stays in bank `k`, passes its checks for some rights, finds no request waiting
there, and none of the lines it touches is damaged or under repair (R51, R197, R212, R213, R328). -/
def AtBank (s : State) (n : PE) (rs : List Right) (a len k : Nat) : Prop :=
  s.blk.target a = .carafe k ∧ a % 2 ^ 20 + len ≤ 2 ^ 20 ∧ s.blk.check n rs a len = none ∧ (s.blk.bankAt k).waiting = [] ∧
    ∀ i < len / 64 + 2, (a % 2 ^ 20 / 64 + i) * 64 < a % 2 ^ 20 + len →
      (s.blk.bankAt k).bad.get (a % 2 ^ 20 / 64 + i) 0 = 0 ∧ ∀ r ∈ (s.blk.bankAt k).repair, r.1 ≠ a % 2 ^ 20 / 64 + i

/-- The block `b` after bank `k` has served one request of engine `n` that found none other waiting (R200): round robin has moved on,
unless the bank's owner was served, and a scrub read that waits has waited one bank cycle more. -/
def Turned (b : Block) (n : PE) (k : Nat) : Block :=
  let c := b.bankAt k
  let b := b.setBank k { c with scrubAge := c.scrubAge.map (· + 1) }
  if c.ownerPE = n.val then b else b.put (R.CB_ARB_LASTRQ k) n

/-- A load of engine `n` at bank `k` has completed: the engine is `f` of what it was. -/
def Loaded (s : State) (n : PE) (k next : Nat) (f : Engine → Engine) (t : State) : Prop :=
  Ended ((Turned s.blk n k).setEngine n (f (s.blk.engine n))) n next t ∧ t.pending = s.pending

/-- A posted write of engine `n` has joined the requests that wait at bank `k` (R84, R199, R282). -/
def Posted (b : Block) (n : PE) (a : Nat) (data : List Byte) (k : Nat) : Block :=
  b.setBank k { b.bankAt k with
    waiting := seat k ((b.bankAt k).waiting ++ [b.engReq n .write a data.length data 0 .none 0 false]) }

/-- A store of `len` bytes at `a` by engine `n` stays in bank `k` and passes its checks (R84, R197). -/
def StoresAt (s : State) (n : PE) (a len k : Nat) : Prop :=
  s.blk.target a = .carafe k ∧ a % 2 ^ 20 + len ≤ 2 ^ 20 ∧ s.blk.check n [.write] a len = none

/-- A chunk of long instruction `o` has been recorded on the block `b` (R96, R97): the engine's registers are `f` of what they
were; the instruction completes with its last chunk and is otherwise still in progress. -/
def Chunked (b : Block) (n : PE) (o : LongOp) (last : Bool) (f : Engine → Engine) (t : State) : Prop :=
  if last then Ended (b.setEngine n (f (b.engine n))) n (nextPc (b.engine n).pc 4) t
  else t.blk.engine n = { f (b.engine n) with long := some { o with first := false } } ∧
    (∀ m : Nat, m ≠ n.val → t.blk.engine m = b.engine m) ∧ OnlyPmc n { b with eng := t.blk.eng } t.blk

/-- A floating-point instruction's end on its engine (R120): its result through `f`, its flags ORed into FFLAGS, and where one of
them has its FEN bit set and no FPTRAP is pending, one pending with FTPC of the executing world at the instruction. -/
def fpEnds (f : Engine → Engine) (fl : FpFlags) (e : Engine) : Engine :=
  let q := f e
  let q := { q with st := { q.st with fflags := q.st.fflags ||| fl } }
  if fl &&& e.st.fen ≠ 0 ∧ e.fpt = none then
    { q with fpt := some ⟨e.st.tw, 0, false⟩, ftpc := e.ftpc.put (if e.st.tw then 1 else 0) e.pc }
  else q

/-- Entering vector `v` of a world through descriptor `d` succeeds once the table has been read and the block is `b` (R336); the
stack is not in the register window, which takes no such access (R10). -/
def CanEnter (b : Block) (n : PE) (d : Desc) (tenant : Bool) : Prop :=
  (b.entrySp n d tenant).toNat % 16 = 0 ∧ windowBad (pushAddr (b.entrySp n d tenant)) 16 = false ∧
    (b.engine n).allows (d.level tenant) .write (pushAddr (b.entrySp n d tenant)) 16 = true ∧
    b.bankFault (pushAddr (b.entrySp n d tenant)) 16 = none

/-- Engine `n` has entered vector `v` of a world through descriptor `d`, from the block `b` as the table's read left it: the new
PC, ST and stack pointer, an empty instruction buffer, the words `ra` and `sw` on their way to the stack, the registers and the
memory as they were (R70, R102, R336). -/
def Entered (b : Block) (n : PE) (v : Nat) (d : Desc) (tenant : Bool) (ra sw : Nat) (t : State) : Prop :=
  let e := b.engine n
  let e' := t.blk.engine n
  let sp := b.entrySp n d tenant
  (∀ k, b.target (pushAddr sp) = .carafe k → ∃ l p, (t.blk.bankAt k).waiting =
    l ++ [{ b.engReq n .write (pushAddr sp) 16 (leBytes ra 8 ++ leBytes sw 8) 0 .none 0 false with place := p }]) ∧
  e'.pc = BitVec.ofNat 48 d.hpc ∧
    e'.st = { St.ofWord (BitVec.ofNat 64 d.stt) with rsm := false, ss := false } ∧
    e'.sp = e.sp.put (d.level tenant) (sp - 16) ∧
    e'.gV = e.gV ∧ e'.gT = e.gT ∧ e'.vr = e.vr ∧ e'.vbase = e.vbase ∧ e'.ctxid = e.ctxid ∧ e'.ftpc = e.ftpc ∧
    e'.ibuf = [] ∧ e'.hold = .fetch ∧ e'.long = none ∧ t.blk.get (R.ENG_XSTAT_LASTVEC n) = v % 2 ^ 8 ∧
    t.blk.mem = b.mem ∧ ∀ m : Nat, m ≠ n.val → t.blk.engine m = b.engine m

end Sys2Proof.Machine
end

