-- ==== Sys2Proof/Certificates/Slice0/Obligations.lean ====
section
/-! DEFINITION. The statements about the block, file by file of the spec. -/
open Sys2Proof Sys2Proof.Machine



/-- A step runs the command at the front of the queue on the state with the queue's rest. With no command waiting it lets one PERIPH
tick pass and leaves the queue empty (the model's choice, log entry 31). The table gives its rows no bits, so no word spells a
command. -/
def Obligations.StepRunsFront : Prop :=
  (∀ (c : Instr) (q : List Instr) (s : State), s.pending = c :: q → step s = exec c { s with pending := q }) ∧
  (∀ s : State, s.pending = [] → ∃ t, step s = .next t ∧ t.pending = []) ∧
  ∀ (nbits w : Nat) (s : State), decodeTableWord nbits w = none ∧ s.withFetchWord nbits w = s

/-- Every command that an agent can send completes, whatever the state: a step takes exactly the front command off the queue and answers
a next state. Only the two commands that no agent can send fault, a register write that is no aligned word of an engine or the debug
bus, and an instruction of the tables given as a customer's or an undefined one. Which commands no agent can send is the model's
choice, log entry 60.
-/
def Obligations.NeverStops : Prop :=
  (∀ s : State, Sendable s → ∃ t, step s = .next t ∧ t.pending = s.pending.drop 1 ∧ Sendable t) ∧
  ∀ (c : Instr) (s : State), (c.wellFormed = true → ∃ t, exec c s = .next t ∧ t.pending = s.pending) ∧
    (c.wellFormed = false → exec c s = .fault .illFormed)

/-- Every step keeps the form of the state: the memory's canonical form, the order of the Crema slots, and the bounds of the open
journal block. -/
def Obligations.StepKeepsForm : Prop := ∀ s t : State, WellKept s → step s = .next t → WellKept t

/-- R4: LC_STATE changes from DEVELOPMENT to SEALED when the seal input is high, and by nothing else; no step undoes it. -/
def Obligations.SealedStays : Prop :=
  ∀ s t : State, step s = .next t → (s.blk.isSealed = true → t.blk.isSealed = true) ∧
    (∀ q, s.pending = .sealInputHigh :: q → t.blk.isSealed = true) ∧
    (s.blk.isSealed = false → t.blk.isSealed = true → ∃ q, s.pending = .sealInputHigh :: q)

/-- The state after reset: it has the form that every step keeps, no command waits, and the registers hold what the spec states: the
Loader waits for a manifest and no store holds an image, logical engine k is mapped to engine 9 * (k / 8) + k % 8 and none runs, no
source is routed, the Spare Manager's and the timers' defaults. No register whose reset value the model chose (log entry 1) is named,
but for the empty memory list (log entry 2). -/
def Obligations.AtReset : Prop :=
  let s := State.reset
  let get := s.blk.get
  WellKept s ∧ s.pending = [] ∧ s.blk.mem = [] ∧ s.blk.isSealed = false ∧ get R.LDR_STAT_PHASE = 0 ∧ get R.LDR_STAT_MVALID = 0 ∧
  get R.SPM_POLICY_CSWORN = 0x38 ∧ get R.SPM_POLICY_STRIKEMAX = 3 ∧ get R.GLB_RSTCAUSE_POWERON = 1 ∧ get R.GLB_RSTCAUSE_BLOCK = 0 ∧
  (∀ n < 72, get (R.ENG_CSSTAT_IMGST n) = 0 ∧ get (R.ENG_ID_RUN n) = 0 ∧ get (R.peState n) = 0 ∧ (s.blk.engine n).running = false ∧
    get (R.ENG_PMCTL_FRZHALT n) = 1 ∧ get (R.ENG_DBGSTAT_CSTOP n) = 0) ∧
  (∀ k < 64, get (R.mapPE k) = 9 * (k / 8) + k % 8 ∧ get (R.mapRun k) = 0) ∧
  (∀ g < 128, g < 9 ∨ 26 < g → get (R.routeByte g) = 0xFF) ∧ (∀ c < 64, get (R.TC_CTRL_OWNER c) = 0x7F ∧
    get (R.TC_CTRL_FREEZE c) = 1) ∧
  ∀ i < 8, get (R.SPM_LOG_A_PE i) = 0x7F

/-- R79, R81, R82, R104: ADD, SUB, ADC, SBC, NEG, CMP and their immediate forms ADDI, ADDIW and CMPI complete at an engine with
nothing due: D (but for the comparisons) receives the sum or difference modulo 2^64, Z and N describe it, C is the carry out of an
addition and 1 where a subtraction borrows nothing, V says that the signed result does not fit; nothing else of the block
changes.
R79, R81, R82: AND, OR, XOR, ANDN, NOT, TST and the immediate forms ANDI, ORI and XORI complete at an engine with nothing due:
every bit of the result follows the operation, D (but for TST) receives it, Z and N describe it, C and V keep their values. -/
def Obligations.ArithmeticAndLogic : Prop :=
  (∀ (n : PE) (d a b : BitVec 5) (imm : BitVec 14) (wide : BitVec 32) (s : State), Quiet s n →
      let e := s.blk.engine n
      let x := e.g a.toNat
      let y := e.g b.toNat
      let i := imm.signExtend 64
      let w := wide.signExtend 64
      let k := bit e.st.c
      let flags := fun (r : W64) (c : Bool) (exact : Int) (q : St) =>
        { q with z := decide (r.toNat = 0), n := decide (2 ^ 63 ≤ r.toNat), c := c, v := decide (r.toInt ≠ exact) }
      let set := fun (r : W64) (c : Bool) (exact : Int) (q : Engine) =>
        { q.setG d.toNat r with st := flags r c exact q.st }
      let ends := fun (len : Nat) (f : Engine → Engine) => Retired s n (nextPc e.pc len) f
      (AtInstr s n (wordR 0x01 d a b 0) → Gives (.add n d a b 0) s (ends 4
        (set (x + y) (decide (2 ^ 64 ≤ x.toNat + y.toNat)) (x.toInt + y.toInt)))) ∧
      (AtInstr s n (wordR 0x02 d a b 0) → Gives (.sub n d a b 0) s (ends 4
        (set (x - y) (decide (y.toNat ≤ x.toNat)) (x.toInt - y.toInt)))) ∧
      (AtInstr s n (wordR 0x03 d a b 0) → Gives (.adc n d a b 0) s (ends 4
        (set (x + y + BitVec.ofNat 64 k) (decide (2 ^ 64 ≤ x.toNat + y.toNat + k)) (x.toInt + y.toInt + k)))) ∧
      (AtInstr s n (wordR 0x04 d a b 0) → Gives (.sbc n d a b 0) s (ends 4
        (set (x - y - BitVec.ofNat 64 (1 - k)) (decide (y.toNat + (1 - k) ≤ x.toNat)) (x.toInt - y.toInt - (1 - k))))) ∧
      (AtInstr s n (wordR 0x09 d a 0 0) → Gives (.neg n d a 0 0) s (ends 4
        (set (0 - x) (decide (x = 0)) (-x.toInt)))) ∧
      (AtInstr s n (wordR 0x0B 0 a b 0) → Gives (.cmp n 0 a b 0) s (ends 4 fun q =>
        { q with st := flags (x - y) (decide (y.toNat ≤ x.toNat)) (x.toInt - y.toInt) q.st })) ∧
      (AtInstr s n (wordI 0x20 d a imm) → Gives (.addi n d a imm) s (ends 4
        (set (x + i) (decide (2 ^ 64 ≤ x.toNat + i.toNat)) (x.toInt + i.toInt)))) ∧
      (AtInstr s n (wordI 0x24 0 a imm) → Gives (.cmpi n 0 a imm) s (ends 4 fun q =>
        { q with st := flags (x - i) (decide (i.toNat ≤ x.toNat)) (x.toInt - i.toInt) q.st })) ∧
      (AtInstr s n (wordL 0xF2 d a 0 wide) → Gives (.addiw n d a 0 wide) s (ends 8
        (set (x + w) (decide (2 ^ 64 ≤ x.toNat + w.toNat)) (x.toInt + w.toInt))))) ∧
  (∀ (n : PE) (d a b : BitVec 5) (imm : BitVec 14) (s : State), Quiet s n →
      let e := s.blk.engine n
      let x := e.g a.toNat
      let y := e.g b.toNat
      let i : W64 := imm.setWidth 64
      let flags := fun (r : W64) (q : St) => { q with z := decide (r.toNat = 0), n := decide (2 ^ 63 ≤ r.toNat) }
      let ends := Retired s n (nextPc e.pc 4)
      ∀ r : W64,
        let set := fun (q : Engine) => { q.setG d.toNat r with st := flags r q.st }
        (AtInstr s n (wordR 0x05 d a b 0) → (∀ j < 64, r.getLsbD j = (x.getLsbD j && y.getLsbD j)) →
          Gives (.and n d a b 0) s (ends set)) ∧
        (AtInstr s n (wordR 0x06 d a b 0) → (∀ j < 64, r.getLsbD j = (x.getLsbD j || y.getLsbD j)) →
          Gives (.or n d a b 0) s (ends set)) ∧
        (AtInstr s n (wordR 0x07 d a b 0) → (∀ j < 64, r.getLsbD j = (x.getLsbD j != y.getLsbD j)) →
          Gives (.xor n d a b 0) s (ends set)) ∧
        (AtInstr s n (wordR 0x08 d a b 0) → (∀ j < 64, r.getLsbD j = (x.getLsbD j && !y.getLsbD j)) →
          Gives (.andn n d a b 0) s (ends set)) ∧
        (AtInstr s n (wordR 0x0A d a 0 0) → (∀ j < 64, r.getLsbD j = !x.getLsbD j) →
          Gives (.not n d a 0 0) s (ends set)) ∧
        (AtInstr s n (wordR 0x0C 0 a b 0) → (∀ j < 64, r.getLsbD j = (x.getLsbD j && y.getLsbD j)) →
          Gives (.tst n 0 a b 0) s (ends fun q => { q with st := flags r q.st })) ∧
        (AtInstr s n (wordI 0x21 d a imm) → (∀ j < 64, r.getLsbD j = (x.getLsbD j && i.getLsbD j)) →
          Gives (.andi n d a imm) s (ends set)) ∧
        (AtInstr s n (wordI 0x22 d a imm) → (∀ j < 64, r.getLsbD j = (x.getLsbD j || i.getLsbD j)) →
          Gives (.ori n d a imm) s (ends set)) ∧
        (AtInstr s n (wordI 0x23 d a imm) → (∀ j < 64, r.getLsbD j = (x.getLsbD j != i.getLsbD j)) →
          Gives (.xori n d a imm) s (ends set)))

/-- R79, R81, R82: SHL, SHR, SAR, ROR by B mod 64 and SHLI, SHRI, SARI, RORI by an immediate below 64 complete at an engine with
nothing due: D receives the shifted value, Z and N describe it, C is the last bit shifted out (for a rotate bit 63 of the
result) and keeps its value where the amount is 0, V keeps its value. -/
def Obligations.Shift : Prop :=
  ∀ (n : PE) (d a b : BitVec 5) (s : State), Quiet s n →
    let e := s.blk.engine n
    let x := e.g a.toNat
    let ends := Retired s n (nextPc e.pc 4)
    let set := fun (r : W64) (k : Nat) (out : Bool) (q : Engine) => { q.setG d.toNat r with
      st := { q.st with
        z := decide (r.toNat = 0), n := decide (2 ^ 63 ≤ r.toNat), c := if k = 0 then q.st.c else out } }
    let left := fun (k : Nat) => set (x <<< k) k (x.toNat.testBit (64 - k))
    let right := fun (k : Nat) => set (x >>> k) k (x.toNat.testBit (k - 1))
    let arith := fun (k : Nat) => set (x.sshiftRight k) k (x.toNat.testBit (k - 1))
    let rot := fun (k : Nat) =>
      let r : W64 := (x >>> k) ||| (x <<< (64 - k))
      set r k (decide (2 ^ 63 ≤ r.toNat))
    let k := (e.g b.toNat).toNat % 64
    (AtInstr s n (wordR 0x0D d a b 0) → Gives (.shl n d a b 0) s (ends (left k))) ∧
    (AtInstr s n (wordR 0x0E d a b 0) → Gives (.shr n d a b 0) s (ends (right k))) ∧
    (AtInstr s n (wordR 0x0F d a b 0) → Gives (.sar n d a b 0) s (ends (arith k))) ∧
    (AtInstr s n (wordR 0x10 d a b 0) → Gives (.ror n d a b 0) s (ends (rot k))) ∧
    ∀ imm : BitVec 14, imm.toNat < 64 →
      (AtInstr s n (wordI 0x25 d a imm) → Gives (.shli n d a imm) s (ends (left imm.toNat))) ∧
      (AtInstr s n (wordI 0x26 d a imm) → Gives (.shri n d a imm) s (ends (right imm.toNat))) ∧
      (AtInstr s n (wordI 0x27 d a imm) → Gives (.sari n d a imm) s (ends (arith imm.toNat))) ∧
      (AtInstr s n (wordI 0x28 d a imm) → Gives (.rori n d a imm) s (ends (rot imm.toNat)))

/-- R81, R88: MINS, MAXS, MINU, MAXU, CLZ, CTZ, POPC, EXT, BSWAP, SEL and MOV complete at an engine with nothing due: D receives the
result and no flag changes.
R82: BFX, BFI, LI and LIH complete at an engine with nothing due and change no flag: for a field of w bits at p, BFX gives the
field of A at bit 0 and zeros above, BFI gives D with the field replaced by the low bits of A; LI gives the sign-extended
immediate, LIH replaces the upper half of D. -/
def Obligations.SelectAndFields : Prop :=
  (∀ (n : PE) (d a b : BitVec 5) (s : State), Quiet s n →
      let e := s.blk.engine n
      let x := e.g a.toNat
      let y := e.g b.toNat
      let gives := fun (r : W64) => Retired s n (nextPc e.pc 4) fun q => q.setG d.toNat r
      (AtInstr s n (wordR 0x11 d a b 0) → Gives (.mins n d a b 0) s (gives (if x.toInt < y.toInt then x else y))) ∧
      (AtInstr s n (wordR 0x12 d a b 0) → Gives (.maxs n d a b 0) s (gives (if x.toInt < y.toInt then y else x))) ∧
      (AtInstr s n (wordR 0x13 d a b 0) → Gives (.minu n d a b 0) s (gives (if x.toNat < y.toNat then x else y))) ∧
      (AtInstr s n (wordR 0x14 d a b 0) → Gives (.maxu n d a b 0) s (gives (if x.toNat < y.toNat then y else x))) ∧
      (AtInstr s n (wordR 0x15 d a 0 0) → ∀ k ≤ 64, x.toNat < 2 ^ (64 - k) → (k < 64 → 2 ^ (63 - k) ≤ x.toNat) →
        Gives (.clz n d a 0 0) s (gives (BitVec.ofNat 64 k))) ∧
      (AtInstr s n (wordR 0x16 d a 0 0) → ∀ k ≤ 64, (∀ j < k, x.toNat.testBit j = false) →
        (k < 64 → x.toNat.testBit k = true) → Gives (.ctz n d a 0 0) s (gives (BitVec.ofNat 64 k))) ∧
      (AtInstr s n (wordR 0x17 d a 0 0) → Gives (.popc n d a 0 0) s
        (gives (BitVec.ofNat 64 ((List.range 64).countP fun j => x.toNat.testBit j)))) ∧
      (∀ t : BitVec 9, t.toNat < 6 → AtInstr s n (wordR 0x18 d a 0 t) → Gives (.ext n d a 0 t) s
        (gives (if t.toNat < 3 then (x.setWidth (8 * 2 ^ t.toNat)).signExtend 64
          else (x.setWidth (8 * 2 ^ (t.toNat - 3))).setWidth 64))) ∧
      (AtInstr s n (wordR 0x19 d a 0 0) → ∀ r : W64,
        (∀ j < 8, r.extractLsb' (8 * j) 8 = x.extractLsb' (8 * (7 - j)) 8) → Gives (.bswap n d a 0 0) s (gives r)) ∧
      (∀ t : BitVec 9, ccDefined t.toNat = true → AtInstr s n (wordR 0x1A d a b t) →
        Gives (.sel n d a b t) s (gives (if e.st.holds t.toNat then x else y))) ∧
      (AtInstr s n (wordR 0x1C d a 0 0) → Gives (.mov n d a 0 0) s (gives x))) ∧
  (∀ (n : PE) (d a : BitVec 5) (s : State), Quiet s n →
      let e := s.blk.engine n
      let x := e.g a.toNat
      let z := e.g d.toNat
      let gives := fun (len : Nat) (r : W64) => Retired s n (nextPc e.pc len) fun q => q.setG d.toNat r
      (∀ (imm : BitVec 14) (p w : Nat) (r : W64), p < 64 → 1 ≤ w → p + w ≤ 64 → imm.toNat = p + 64 * w →
        (AtInstr s n (wordI 0x29 d a imm) → (∀ j < 64, r.getLsbD j = (decide (j < w) && x.getLsbD (p + j))) →
          Gives (.bfx n d a imm) s (gives 4 r)) ∧
        (AtInstr s n (wordI 0x2A d a imm) →
          (∀ j < 64, r.getLsbD j = if p ≤ j ∧ j < p + w then x.getLsbD (j - p) else z.getLsbD j) →
          Gives (.bfi n d a imm) s (gives 4 r))) ∧
      ∀ imm : BitVec 32,
        (AtInstr s n (wordL 0xF0 d 0 0 imm) → Gives (.li n d 0 0 imm) s (gives 8 (imm.signExtend 64))) ∧
        (AtInstr s n (wordL 0xF1 d 0 0 imm) → Gives (.lih n d 0 0 imm) s (gives 8
          (BitVec.ofNat 64 (imm.toNat * 2 ^ 32 + z.toNat % 2 ^ 32)))))

/-- R83, R105: MUL, MULH.S, MULH.U, MULW.S and MULW.U complete at an engine with nothing due: the exact product modulo 2^64 or its
upper half in D, or both halves in D and the next register; only MUL changes flags: Z and N of the result, V where the signed
product does not fit, C unchanged.
R83, R106 to R108: DSTEP and DFIX complete at an engine with nothing due, on four different registers none of which is g31: gD,
g(D+1) and gA receive what the step of R108 makes of them and of gB, or what the fix-up of R109 makes, and only DFIX changes flags.
R107 to R110: a whole division. From a control word that holds only SIGNED and W32, the full count of DSTEPs and then DFIX leave,
for a divisor that is not 0 and a quotient that fits, the quotient rounded toward zero and the remainder with the dividend's sign,
with C = 0 and V = 0; for a divisor of 0 a quotient of all ones in the operand width (zero-extended only for 32-bit unsigned), the
dividend as remainder, and C = V = 1. gD's value before the first step does not matter. With fewer steps DFIX writes no register and
leaves Z = N = C = 0 and V = 1. -/
def Obligations.MultiplyAndDivide : Prop :=
  (∀ (n : PE) (d a b : BitVec 5) (s : State), Quiet s n →
      let e := s.blk.engine n
      let x := e.g a.toNat
      let y := e.g b.toNat
      let ends := Retired s n (nextPc e.pc 4)
      let high := fun (v : Int) => BitVec.ofInt 64 (v / 2 ^ 64)
      let low := fun (v : Int) => BitVec.ofInt 64 v
      let ps := x.toInt * y.toInt
      let pu : Int := (x.toNat * y.toNat : Nat)
      (AtInstr s n (wordR 0x30 d a b 0) → Gives (.mul n d a b 0) s (ends fun q => { q.setG d.toNat (low ps) with
        st := { q.st with
          z := decide ((low ps).toNat = 0), n := decide ((low ps).toInt < 0), v := decide ((low ps).toInt ≠ ps) } })) ∧
      (AtInstr s n (wordR 0x31 d a b 0) → Gives (.mulhS n d a b 0) s (ends fun q => q.setG d.toNat (high ps))) ∧
      (AtInstr s n (wordR 0x32 d a b 0) → Gives (.mulhU n d a b 0) s (ends fun q => q.setG d.toNat (high pu))) ∧
      (d.toNat < 30 →
        (AtInstr s n (wordR 0x33 d a b 0) → Gives (.mulwS n d a b 0) s (ends fun q =>
          (q.setG d.toNat (low ps)).setG (d.toNat + 1) (high ps))) ∧
        (AtInstr s n (wordR 0x34 d a b 0) → Gives (.mulwU n d a b 0) s (ends fun q =>
          (q.setG d.toNat (low pu)).setG (d.toNat + 1) (high pu))))) ∧
  (∀ (n : PE) (d a b : BitVec 5) (s : State), Quiet s n → d.toNat ≤ 29 →
      ([d.toNat, d.toNat + 1, a.toNat, b.toNat, 31] : List Nat).Nodup →
      let e := s.blk.engine n
      let ctl := e.g (d.toNat + 1)
      let ends := Retired s n (nextPc e.pc 4)
      (AtInstr s n (wordR 0x38 d a b 0) →
        let r := dstep (e.g d.toNat) ctl (e.g a.toNat) (e.g b.toNat)
        Gives (.dstep n d a b 0) s (ends fun q => ((q.setG d.toNat r.1).setG (d.toNat + 1) r.2.1).setG a.toNat r.2.2)) ∧
      (AtInstr s n (wordR 0x39 d a b 0) →
        let r := dfix (e.g d.toNat) ctl (e.g a.toNat) (e.g b.toNat)
        let flags := fun (q : St) => { q with z := r.2.1, n := r.2.2.1, c := r.2.2.2.1, v := r.2.2.2.2 }
        (∀ p, r.1 = some p → Gives (.dfix n d a b 0) s (ends fun q =>
          { (q.setG d.toNat p.1).setG a.toNat p.2 with st := flags q.st })) ∧
        (r.1 = none → Gives (.dfix n d a b 0) s (ends fun q => { q with st := flags q.st })))) ∧
  (∀ (gd ga gb : W64) (signed narrow : Bool),
      let ctl := BitVec.ofNat 64 (2 * bit narrow + bit signed)
      let w := if narrow then 32 else 64
      let operand := fun (v : W64) =>
        let low : Nat := v.toNat % 2 ^ w
        if signed ∧ 2 ^ (w - 1) ≤ low then (low : Int) - 2 ^ w else (low : Int)
      let x := operand ga
      let y := operand gb
      let one := fun (p : W64 × W64 × W64) => dstep p.1 p.2.1 p.2.2 gb
      let p := one^[if narrow then 16 else 32] (gd, ctl, ga)
      let fixed := dfix p.1 p.2.1 p.2.2 gb
      let out := fun (v : Int) => BitVec.ofInt 64 v
      (y ≠ 0 → ¬(signed = true ∧ x = -2 ^ (w - 1) ∧ y = -1) →
        fixed = (some (out (x.tmod y), out (x.tdiv y)),
          decide (x.tmod y = 0), (out (x.tdiv y)).msb, false, false)) ∧
      (y = 0 → fixed = (some (out x, out (if narrow && !signed then 2 ^ 32 - 1 else -1)),
          decide (x = 0), !(narrow && !signed), true, true)) ∧
      (signed = true → x = -2 ^ (w - 1) → y = -1 → fixed = (some (0, out x), true, true, false, true)) ∧
      ∀ k < if narrow then 16 else 32, let p := one^[k] (gd, ctl, ga)
        dfix p.1 p.2.1 p.2.2 gb = (none, false, false, false, true))

/-- R51, R84, R200: LDB, LDBS, LDH, LDHS, LDW, LDWS, LDD and LDV complete on an access that stays in one Carafe bank where no request
waits and whose lines it finds whole: D, or lane register D, receives the bytes at A + sext(IMM14), extended as the mnemonic says, the
bank's round robin moves on, and nothing else of the block changes. R84, R199: STB, STH, STW
and STD (by size) and STV complete on an access that stays in one Carafe bank: the low bytes of D, or the 16 bytes of lane register D,
join that bank's waiting requests as a write at A + sext(IMM14); no memory byte has changed yet, and nothing else of the block changes.
R84: VINS and VEXT complete at an engine with nothing due: half X[0] of lane register D becomes A and the other half stays, or D becomes
half X[0] of lane register A. That a store waits in a list until it is served is the model's choice, log entry 10; the order of the
checks is log entry 7. -/
def Obligations.LoadsAndStores : Prop :=
  (∀ (n : PE) (d a : BitVec 5) (imm : BitVec 14) (k : Nat) (s : State), Quiet s n →
      let e := s.blk.engine n
      let addr := (e.g a.toNat + imm.signExtend 64).toNat % 2 ^ 48
      let value := fun (len : Nat) => leNat (s.blk.mem.bytes addr len)
      let unsigned := fun (len : Nat) => Loaded s n k (nextPc e.pc 4) fun q => q.setG d.toNat (BitVec.ofNat 64 (value len))
      let signed := fun (len : Nat) => Loaded s n k (nextPc e.pc 4) fun q =>
        q.setG d.toNat ((BitVec.ofNat (8 * len) (value len)).signExtend 64)
      (AtBank s n [.read] addr 1 k →
        (AtInstr s n (wordI 0x40 d a imm) → Gives (.ldb n false d a imm .clean) s (unsigned 1)) ∧
        (AtInstr s n (wordI 0x41 d a imm) → Gives (.ldb n true d a imm .clean) s (signed 1))) ∧
      (AtBank s n [.read] addr 2 k →
        (AtInstr s n (wordI 0x42 d a imm) → Gives (.ldh n false d a imm .clean) s (unsigned 2)) ∧
        (AtInstr s n (wordI 0x43 d a imm) → Gives (.ldh n true d a imm .clean) s (signed 2))) ∧
      (AtBank s n [.read] addr 4 k →
        (AtInstr s n (wordI 0x44 d a imm) → Gives (.ldw n false d a imm .clean) s (unsigned 4)) ∧
        (AtInstr s n (wordI 0x45 d a imm) → Gives (.ldw n true d a imm .clean) s (signed 4))) ∧
      (AtBank s n [.read] addr 8 k →
        (AtInstr s n (wordI 0x46 d a imm) → Gives (.ldd n d a imm .clean) s (unsigned 8))) ∧
      (AtBank s n [.read] addr 16 k → d.toNat < 8 →
        (AtInstr s n (wordI 0x4B d a imm) → Gives (.ldv n d a imm .clean) s
          (Loaded s n k (nextPc e.pc 4) fun q => q.setV d.toNat (BitVec.ofNat 128 (value 16)))))) ∧
  (∀ (n : PE) (size : Fin 4) (d a : BitVec 5) (imm : BitVec 14) (k : Nat) (s : State), Quiet s n →
      let e := s.blk.engine n
      let addr := (e.g a.toNat + imm.signExtend 64).toNat % 2 ^ 48
      (StoresAt s n addr (2 ^ size.val) k → AtInstr s n (wordI (0x47 + size.val) d a imm) →
        Gives (.stb n size d a imm) s
          (Ended (Posted s.blk n addr (leBytes (e.g d.toNat).toNat (2 ^ size.val)) k) n (nextPc e.pc 4))) ∧
      (StoresAt s n addr 16 k → d.toNat < 8 → AtInstr s n (wordI 0x4C d a imm) →
        Gives (.stv n d a imm) s (Ended (Posted s.blk n addr (leBytes (e.v d.toNat).toNat 16) k) n (nextPc e.pc 4)))) ∧
  (∀ (n : PE) (d a : BitVec 5) (high : Bool) (s : State), Quiet s n →
      let x : BitVec 9 := if high then 1 else 0
      let e := s.blk.engine n
      let low := fun (v : W128) => v.toNat % 2 ^ 64
      let up := fun (v : W128) => v.toNat / 2 ^ 64
      (d.toNat < 8 → AtInstr s n (wordR 0x60 d a 0 x) → Gives (.vins n d a 0 x) s (Retired s n (nextPc e.pc 4) fun q =>
        let v := e.v d.toNat
        let g := (e.g a.toNat).toNat
        q.setV d.toNat (BitVec.ofNat 128 (if high then g * 2 ^ 64 + low v else up v * 2 ^ 64 + g)))) ∧
      (a.toNat < 8 → AtInstr s n (wordR 0x61 d a 0 x) → Gives (.vext n d a 0 x) s (Retired s n (nextPc e.pc 4) fun q =>
        let v := e.v a.toNat
        q.setG d.toNat (BitVec.ofNat 64 (if high then up v else low v)))))

/-- R84, R92, R203: AMOADD, AMOSWP, AMOCAS, AMOAND and AMOOR complete on an aligned word of one Carafe bank outside a locked
sequence: D receives the old value, zero-extended, the word becomes the operation's result, the line's other locks break, and only
AMOCAS changes a flag: Z says whether the old value was D's. The bank has no other request waiting and its line is whole; its round
robin moves on (R200). The order of the checks is log entry 7. -/
def Obligations.Atomics : Prop :=
  ∀ (n : PE) (d a b : BitVec 5) (wide : Bool) (k : Nat) (s : State), Quiet s n →
    let x : BitVec 9 := if wide then 1 else 0
    let len := if wide then 8 else 4
    let e := s.blk.engine n
    let addr := (e.g a.toNat).toNat % 2 ^ 48
    let old := leNat (s.blk.mem.bytes addr len)
    let m := 2 ^ (8 * len)
    let y := (e.g b.toNat).toNat % m
    let swap := decide (old = (e.g d.toNat).toNat % m)
    let ends := fun (v : Nat) (f : Engine → Engine) (t : State) =>
      let stored := (Turned s.blk n k).store n addr (leBytes v len) none
      Ended (stored.setEngine n (f (stored.engine n))) n (nextPc e.pc 4) t ∧ t.blk.mem.bytes addr len = leBytes v len
    let set := fun (q : Engine) => q.setG d.toNat (BitVec.ofNat 64 old)
    AtBank s n [.read, .write] addr len k → addr % len = 0 → MemOk s →
      (AtInstr s n (wordR 0x50 d a b x) → Gives (.amoadd n d a b x .clean) s (ends ((old + y) % m) set)) ∧
      (AtInstr s n (wordR 0x51 d a b x) → Gives (.amoswp n d a b x .clean) s (ends y set)) ∧
      (AtInstr s n (wordR 0x52 d a b x) → Gives (.amocas n d a b x .clean) s (ends (if swap then y else old) fun q =>
        { set q with st := { q.st with z := swap } })) ∧
      (AtInstr s n (wordR 0x53 d a b x) → Gives (.amoand n d a b x .clean) s (ends (old &&& y) set)) ∧
      (AtInstr s n (wordR 0x54 d a b x) → Gives (.amoor n d a b x .clean) s (ends (old ||| y) set))

/-- R84, R90, R91, R202, R203: LKB outside a sequence loads D, puts the engine's line lock on the line at A and starts the sequence with
LKB as its first instruction (R90: the sequence counts LKB itself). LKE inside one stores B and sets C where the bank still holds the
engine's lock on that line, and both end the sequence; LKE outside one stores nothing and clears C. R84: FENCE completes only with every
earlier request of its engine done: none of them waits at a bank or at the DRAM Port afterwards; the engine's registers are as they
were. It completes where every request that waits at a bank can be served. Which requests a bank serves meanwhile is the model's
choice, log entry 10. -/
def Obligations.LockedSequenceAndFence : Prop :=
  (∀ (n : PE) (d a b : BitVec 5) (wide : Bool) (k : Nat) (s : State),
      let x : BitVec 9 := if wide then 1 else 0
      let len := if wide then 8 else 4
      let e := s.blk.engine n
      let addr := (e.g a.toNat).toNat % 2 ^ 48
      let line := addr / 64 % 2 ^ 14
      let regsAs := fun (t : State) => (t.blk.engine n).gV = e.gV ∧ (t.blk.engine n).gT = e.gT ∧
        (t.blk.engine n).pc = BitVec.ofNat 48 (nextPc e.pc 4)
      let act := fun (t : State) => t.blk.get (R.ENG_LKSTAT_LKACT n)
      addr % len = 0 → MemOk s → e.fpt = none → e.st.ss = false → s.blk.tracing n = false →
        (Quiet s n → AtBank s n [.read] addr len k → AtInstr s n (wordR 0x58 d a 0 x) →
          Gives (.lkb n d a 0 x .clean) s fun t => act t = 1 ∧ t.blk.get (R.ENG_LKSTAT_LKCNT n) = 1 ∧
            (t.blk.engine n).g d.toNat = BitVec.ofNat 64 (leNat (s.blk.mem.bytes addr len)) ∧
            ((t.blk.bankAt k).locks.look n).map (·.1) = some line ∧
            (t.blk.engine n).pc = BitVec.ofNat 48 (nextPc e.pc 4) ∧ t.blk.mem = s.blk.mem) ∧
        (s.blk.flag (R.ENG_LKSTAT_LKACT n) = true → AtBank s n [.read, .write] addr len k →
          ((s.blk.bankAt k).locks.look n).map (·.1) = some line → AtInstr s n (wordR 0x59 0 a b x) →
          Gives (.lke n 0 a b x .clean) s fun t => act t = 0 ∧ (t.blk.engine n).st.c = true ∧ regsAs t ∧
            (t.blk.bankAt k).locks.look n = none ∧ t.blk.mem.bytes addr len = leBytes (e.g b.toNat).toNat len ∧
            ∀ i, i < addr ∨ addr + len ≤ i → t.blk.mem.read i = s.blk.mem.read i) ∧
        (Quiet s n → s.blk.check n [.read, .write] addr len = none → AtInstr s n (wordR 0x59 0 a b x) →
          Gives (.lke n 0 a b x .clean) s
            (Retired s n (nextPc e.pc 4) fun q => { q with st := { q.st with c := false } }))) ∧
  (∀ (n : PE) (s : State), Quiet s n → AtInstr s n (wordR 0x5A 0 0 0 0) → Serves s.blk →
      let e := s.blk.engine n
      Gives (.fence n 0 0 0 0) s fun t =>
        (∀ k < 64, ∀ q ∈ (t.blk.bankAt k).waiting, q.rq ≠ n.val) ∧ (∀ q ∈ t.blk.dram.waiting, q.rq ≠ n.val) ∧
          (t.blk.engine n).pc = BitVec.ofNat 48 (nextPc e.pc 4) ∧ (t.blk.engine n).gV = e.gV ∧
          (t.blk.engine n).gT = e.gT ∧ (t.blk.engine n).vr = e.vr ∧ (t.blk.engine n).st = { e.st with rsm := false })

/-- R86, R113 to R124: FADD, FSUB, FMUL, FMA, FMS, FNMA, FNMS, FMIN and FMAX complete at an engine with nothing due, in every
format: D receives the model's sum, product, fused result or selected number, zero-extended, and the flags it raises go to FFLAGS
and, where FEN selects one, make an FPTRAP pending.
R114, R116 to R119, R122, R124: the values of the operations that FpArithmetic names. In every format, rounding mode and FZ:
a sum with a NaN operand is the canonical NaN, with NV exactly for a signalling one; ∞ − ∞ is the canonical NaN with NV; a sum and
a product do not depend on the operands' order; x − x is +0, or −0 when rounding toward −∞, for every finite x; a finite value
times 1 is itself, exactly, where it is no subnormal that FZ flushes; FMIN and FMAX of a NaN and a number that is no flushed
subnormal give the number. -/
def Obligations.FpArithmeticAndValues : Prop :=
  (∀ (n : PE) (d a b : BitVec 5) (fmt : Fin 3) (s : State), Quiet s n →
      let x := BitVec.ofNat 9 fmt.val
      let e := s.blk.engine n
      let env : FpEnv := ⟨e.st.rm.toNat, e.st.fz⟩
      let u := (e.g a.toNat).toNat
      let v := (e.g b.toNat).toNat
      let w := (e.g d.toNat).toNat
      let gives := fun (c : Instr) (r : Nat × FpFlags) => Gives c s (Retired s n (nextPc e.pc 4)
        (fpEnds (fun q => q.setG d.toNat (BitVec.ofNat 64 r.1)) r.2))
      (AtInstr s n (wordR 0x70 d a b x) → gives (.fadd n d a b x) (fpAdd fmt env u v false)) ∧
      (AtInstr s n (wordR 0x71 d a b x) → gives (.fsub n d a b x) (fpAdd fmt env u v true)) ∧
      (AtInstr s n (wordR 0x72 d a b x) → gives (.fmul n d a b x) (fpMul fmt env u v)) ∧
      (AtInstr s n (wordR 0x73 d a b x) → gives (.fma n d a b x) (fpFma fmt env u v w false false)) ∧
      (AtInstr s n (wordR 0x74 d a b x) → gives (.fms n d a b x) (fpFma fmt env u v w false true)) ∧
      (AtInstr s n (wordR 0x75 d a b x) → gives (.fnma n d a b x) (fpFma fmt env u v w true false)) ∧
      (AtInstr s n (wordR 0x76 d a b x) → gives (.fnms n d a b x) (fpFma fmt env u v w true true)) ∧
      (AtInstr s n (wordR 0x77 d a b x) → gives (.fmin n d a b x) (fpMinMax fmt env u v false)) ∧
      (AtInstr s n (wordR 0x78 d a b x) → gives (.fmax n d a b x) (fpMinMax fmt env u v true))) ∧
  (∀ (f : Fin 3) (env : FpEnv) (u v : Nat), u < 2 ^ fpW f → v < 2 ^ fpW f → env.rm < 4 →
      let nan := fun (x : Nat) => decide (fpExp f x = fpEmax f) && decide (fpFrac f x ≠ 0)
      let signalling := fun (x : Nat) => nan x && !x.testBit (fpP f - 2)
      let one := fpBias f * 2 ^ (fpP f - 1)
      (nan u = true ∨ nan v = true → fpAdd f env u v false =
        (fpNaN f, if signalling u || signalling v then fNV else 0)) ∧
      (fpAdd f env (fpInf f false) (fpInf f true) false = (fpNaN f, fNV)) ∧
      (nan u = false → nan v = false → fpAdd f env u v false = fpAdd f env v u false ∧ fpMul f env u v = fpMul f env v u) ∧
      (fpExp f u < fpEmax f → fpAdd f env u u true = (fpZero f (env.rm == 2), 0)) ∧
      (fpExp f u < fpEmax f → (env.fz = false ∨ fpSubnormal f u = false) → fpMul f env u one = (u, 0)) ∧
      (nan u = true → nan v = false → (env.fz = false ∨ fpSubnormal f v = false) →
        (fpMinMax f env u v false).1 = v ∧ (fpMinMax f env u v true).1 = v))

/-- R86, R123: FCMP and FCMPS complete at an engine with nothing due: exactly one of Z, N, C and V is 1, for equal, less, greater and
unordered; they change no register; the flags are NV for a signalling NaN, or for FCMPS any NaN.
R86, R115, R129: FABS, FNEG, FSGN and FCLASS complete at an engine with nothing due and raise no flag: for an A that is no NaN
the result is A's magnitude with the sign cleared, inverted or B's, for a NaN the canonical NaN; FCLASS gives A's class. -/
def Obligations.FpCompareAndSign : Prop :=
  (∀ (n : PE) (a b : BitVec 5) (fmt : Fin 3) (s : State), Quiet s n →
      let x := BitVec.ofNat 9 fmt.val
      let e := s.blk.engine n
      let env : FpEnv := ⟨e.st.rm.toNat, e.st.fz⟩
      let u := (e.g a.toNat).toNat
      let v := (e.g b.toNat).toNat
      let gives := fun (c : Instr) (r : FpCmp × FpFlags) =>
        Gives c s fun t => Retired s n (nextPc e.pc 4) (fpEnds (fun q => { q with st := { q.st with
          z := r.1 == .eq, n := r.1 == .lt, c := r.1 == .gt, v := r.1 == .un } }) r.2) t
      (AtInstr s n (wordR 0x79 0 a b x) → gives (.fcmp n 0 a b x) (fpCompare fmt env u v false)) ∧
      (AtInstr s n (wordR 0x7A 0 a b x) → gives (.fcmps n 0 a b x) (fpCompare fmt env u v true))) ∧
  (∀ (n : PE) (d a b : BitVec 5) (fmt : Fin 3) (s : State), Quiet s n →
      let x := BitVec.ofNat 9 fmt.val
      let e := s.blk.engine n
      let w := fpW fmt
      let u := (e.g a.toNat).toNat % 2 ^ w
      let v := (e.g b.toNat).toNat % 2 ^ w
      let nan := fpExp fmt u = fpEmax fmt ∧ fpFrac fmt u ≠ 0
      let mag := u % 2 ^ (w - 1)
      let signOf := fun (y : Nat) => y / 2 ^ (w - 1)
      let gives := fun (c : Instr) (sign : Nat) => Gives c s (Retired s n (nextPc e.pc 4)
        fun q => q.setG d.toNat (BitVec.ofNat 64 (if nan then fpNaN fmt else mag + sign * 2 ^ (w - 1))))
      (AtInstr s n (wordR 0x7B d a 0 x) → gives (.fabs n d a 0 x) 0) ∧
      (AtInstr s n (wordR 0x7C d a 0 x) → gives (.fneg n d a 0 x) (1 - signOf u)) ∧
      (AtInstr s n (wordR 0x7D d a b x) → gives (.fsgn n d a b x) (signOf v)) ∧
      (AtInstr s n (wordR 0x7E d a 0 x) → Gives (.fclass n d a 0 x) s (Retired s n (nextPc e.pc 4)
        fun q => q.setG d.toNat (BitVec.ofNat 64 (fpClass fmt u)))))

/-- R86, R125 to R128: FCVT between two different formats, FTOI, ITOF and FRINT complete at an engine with nothing due: D receives
the model's conversion, zero-extended, and the flags it raises go to FFLAGS.
R130 to R135: FDINIT, FDSTEP and FDFIN complete on registers that R130 allows: the set-up of a quotient or of a root, one step and
the finish, in the registers that R130 assigns; where the spec states no value the result is a free value of the model (log entry 15),
which two draws supply. -/
def Obligations.FpConvertAndDivide : Prop :=
  (∀ (n : PE) (d a : BitVec 5) (fmt to' : Fin 3) (uns rz : Bool) (s : State), Quiet s n →
      let e := s.blk.engine n
      let env : FpEnv := ⟨e.st.rm.toNat, e.st.fz⟩
      let u := (e.g a.toNat).toNat
      let x := fun (m : Nat) => BitVec.ofNat 9 (fmt.val + m)
      let m := 4 * bit uns + 8 * bit rz
      let gives := fun (c : Instr) (r : Nat × FpFlags) => Gives c s (Retired s n (nextPc e.pc 4)
        (fpEnds (fun q => q.setG d.toNat (BitVec.ofNat 64 r.1)) r.2))
      (to' ≠ fmt → AtInstr s n (wordR 0x7F d a 0 (x (4 * to'.val))) →
        gives (.fcvt n d a 0 (x (4 * to'.val))) (fpConvert fmt to' env u)) ∧
      (AtInstr s n (wordR 0x80 d a 0 (x m)) → gives (.ftoi n d a 0 (x m)) (fpToInt fmt env u uns rz)) ∧
      (AtInstr s n (wordR 0x81 d a 0 (x (4 * bit uns))) →
        gives (.itof n d a 0 (x (4 * bit uns))) (fpOfInt fmt env u uns)) ∧
      (AtInstr s n (wordR 0x82 d a 0 (x 0)) → gives (.frint n d a 0 (x 0)) (fpRint fmt env u))) ∧
  (∀ (n : PE) (d a b : BitVec 5) (fmt : Fin 3) (s : State), Quiet s n → d.toNat ≤ 29 →
      let x := BitVec.ofNat 9 fmt.val
      let e := s.blk.engine n
      let ctl := (e.g (d.toNat + 1)).toNat
      let root := ctl.testBit 62
      let free := Config.freeWord s.blk.fresh
      let free2 := Config.freeWord (s.blk.fresh + 1)
      let u := (e.g a.toNat).toNat
      let v := (e.g b.toNat).toNat
      let w := (e.g d.toNat).toNat
      let drawn : Block := { s.blk with fresh := s.blk.fresh + 2 }
      let ends := fun (f : Engine → Engine) (fl : FpFlags) => Ended (drawn.setEngine n (fpEnds f fl e)) n (nextPc e.pc 4)
      let three := fun (q c r : Nat) (g : Engine) => ((g.setG d.toNat (BitVec.ofNat 64 q)).setG (d.toNat + 1)
        (BitVec.ofNat 64 c)).setG a.toNat (BitVec.ofNat 64 r)
      ([d.toNat, d.toNat + 1, a.toNat, 31] : List Nat).Nodup →
      (if root then b = 0 else b.toNat ∉ ([d.toNat, d.toNat + 1, a.toNat, 31] : List Nat)) →
        b ≠ 31 →
        (AtInstr s n (wordR 0x83 d a b x) →
          let r := fpInit fmt ⟨e.st.rm.toNat, e.st.fz⟩ ctl u v free.toNat
          Gives (.fdinit n d a b x) s (ends (three r.1 r.2.1 r.2.2.1) r.2.2.2)) ∧
        (AtInstr s n (wordR 0x84 d a b x) →
          let r := fpStep ctl w u v free.toNat free2.toNat
          Gives (.fdstep n d a b x) s (ends (three r.1 r.2.1 r.2.2) 0)) ∧
        (AtInstr s n (wordR 0x85 d a b x) →
          let r := fpFin ⟨e.st.rm.toNat, e.st.fz⟩ ctl w u free.toNat
          Gives (.fdfin n d a b x) s (ends (fun g => g.setG d.toNat (BitVec.ofNat 64 r.1)) r.2)))

/-- R74, R87, R88: B, BL, Bcc, JR and JALR complete at an engine with nothing due and change no flag: PC moves to the target (for
Bcc where the condition holds, else on), BL writes the return address to g30 and JALR to D, JALR's target being A as it stood.
R88: exactly the codes below 0x14 other than 0x0F are defined, and each holds as the table says, as a function of Z, N, C and V; SEL
selects by them as Bcc branches by them, and with any other code both enter vector 3 (ILLEGAL), their own address pushed. -/
def Obligations.BranchesAndConditions : Prop :=
  (∀ (n : PE) (d a : BitVec 5) (cc : BitVec 5) (off : BitVec 24) (near : BitVec 19) (s : State), Quiet s n →
      let e := s.blk.engine n
      let link := BitVec.ofNat 64 ((e.pc.toNat + 4) % 2 ^ 48)
      let jump := (e.g a.toNat).toNat % 2 ^ 48
      let away := fun (o : Int) => ((e.pc.toNat + 4 * o) % 2 ^ 48 : Int).toNat
      (AtInstr s n (wordJ 0x90 off) → Gives (.b n off) s (Retired s n (away off.toInt) id)) ∧
      (AtInstr s n (wordJ 0x91 off) → Gives (.bl n off) s (Retired s n (away off.toInt) fun q => q.setG 30 link)) ∧
      (ccDefined cc.toNat = true → AtInstr s n (wordBC 0x92 cc near) → Gives (.bcc n cc near) s
        (Retired s n (if e.st.holds cc.toNat then away near.toInt else (e.pc.toNat + 4) % 2 ^ 48) id)) ∧
      ((e.g a.toNat).toNat % 4 = 0 →
        (AtInstr s n (wordR 0x93 0 a 0 0) → Gives (.jr n 0 a 0 0) s (Retired s n jump id)) ∧
        (AtInstr s n (wordR 0x94 d a 0 0) → Gives (.jalr n d a 0 0) s (Retired s n jump fun q => q.setG d.toNat link)))) ∧
  (∀ (q : St) (cc : Nat), ccDefined cc = true →
      let values : List Bool := [q.z, !q.z, q.c, !q.c, q.n, !q.n, q.v, !q.v, q.c && !q.z, !q.c || q.z, q.n == q.v, q.n != q.v,
        !q.z && q.n == q.v, q.z || q.n != q.v, true, false, q.c, q.c || q.z, q.n || q.z, q.n || q.c]
      cc < 20 ∧ cc ≠ 15 ∧ values[cc]? = some (q.holds cc)) ∧
  (∀ (n : PE) (d a rb cc : BitVec 5) (near : BitVec 19) (desc : Desc) (b : Block) (s : State), Quiet s n →
      let e := s.blk.engine n
      let x : BitVec 9 := cc.setWidth 9
      (ccDefined cc.toNat = true → AtInstr s n (wordR 0x1A d a rb x) → Gives (.sel n d a rb x) s
        (Retired s n (nextPc e.pc 4) fun q => q.setG d.toNat (if e.st.holds cc.toNat then e.g a.toNat else e.g rb.toNat))) ∧
      (ccDefined cc.toNat = false → (s.blk.modEngine n Engine.noSkip).readDesc n 3 e.st.tw = (b, .good desc) →
        CanEnter b n desc e.st.tw →
        (AtInstr s n (wordBC 0x92 cc near) → Gives (.bcc n cc near) s (Entered b n 3 desc e.st.tw e.pc.toNat e.st.word.toNat)) ∧
        (AtInstr s n (wordR 0x1A d a rb x) → Gives (.sel n d a rb x) s
          (Entered b n 3 desc e.st.tw e.pc.toNat e.st.word.toNat)))) ∧
  ∀ cc : Nat, ccDefined cc = false ↔ cc = 15 ∨ 20 ≤ cc

/-- R89, R333, R336: SYSCALL, BREAK and TRAP of a vector of 32 or more enter vector 9, 8 or the one named in the executing world, with
PC + 4 and ST as the pushed words, wherever the world's table holds a good descriptor for it and its stack takes the push. A frame in
the register window is log entry 14. -/
def Obligations.SoftwareExceptions : Prop :=
  ∀ (n : PE) (code : BitVec 24) (d : Desc) (b : Block) (s : State), Quiet s n →
    let e := s.blk.engine n
    let tw := e.st.tw
    let into := fun (v : Nat) => (s.blk.modEngine n Engine.noSkip).readDesc n v tw = (b, .good d) ∧ CanEnter b n d tw
    let enters := fun (v : Nat) => Entered b n v d tw ((e.pc.toNat + 4) % 2 ^ 48) e.st.word.toNat
    (code.toNat < 2 ^ 16 →
      (into 9 → AtInstr s n (wordJ 0xA0 code) → Gives (.syscall n code) s (enters 9)) ∧
      (into 8 → AtInstr s n (wordJ 0xA1 code) → Gives (.breakpoint n code) s (enters 8))) ∧
    (32 ≤ code.toNat → code.toNat < 2 ^ 8 → into code.toNat → AtInstr s n (wordJ 0xA2 code) →
      Gives (.trap n code) s (enters code.toNat))

/-- R89, R340: GCALL through a valid gate, one of 32 or more whose descriptor in the other world's table has GATE set and admits the
caller's level, enters that world at the descriptor's stack: from Tenant with the return address (bit 0 marks XARG) and the caller's ST
pushed, from Vendor with 0 and 0; with XARG g1 to g7 are copied into the other bank. R89, R339: RTE at a supervisor level, its frame in
one Carafe bank, with bit 1 of the saved address 0 and no way from Tenant to Vendor, pops the frame: PC is the saved address without its
low two bits, ST the saved word, g31 of the level moves up by 16, g1 to g7 cross where bit 0 is set and the world changes, and the
instruction buffer is empty; RTE keeps RSM as popped. VBASE = 0 is log entry 8, and a frame in the register window is log entry 14. -/
def Obligations.GatesAndReturn : Prop :=
  (∀ (n : PE) (code : BitVec 24) (d : Desc) (b : Block) (s : State), Quiet s n → code.toNat < 2 ^ 8 → 32 ≤ code.toNat →
      AtInstr s n (wordJ 0xA3 code) →
      let e := s.blk.engine n
      let dest := !e.st.tw
      (s.blk.modEngine n Engine.noSkip).readDesc n code.toNat dest = (b, .good d) → CanEnter b n d dest →
        d.flags.testBit 2 = true → (e.st.sup = true ∨ d.flags.testBit 3 = true) →
        s.blk.flag (R.ENG_LKSTAT_LKACT n) = false → b.flag (R.ENG_LKSTAT_LKACT n) = false →
        let xarg := d.flags.testBit 4
        let words := if e.st.tw then ((e.pc.toNat + 4) % 2 ^ 48 + bit xarg, e.st.word.toNat) else (0, 0)
        (b.engine n).st = e.st →
        Gives (.gcall n code) s fun t =>
          let other := fun (q : Engine) => if dest then q.gT else q.gV
          let own := fun (q : Engine) => if dest then q.gV else q.gT
          (t.blk.engine n).pc = BitVec.ofNat 48 d.hpc ∧
            (t.blk.engine n).st = { St.ofWord (BitVec.ofNat 64 d.stt) with rsm := false, ss := false } ∧
            own (t.blk.engine n) = own (b.engine n) ∧
            (∀ i < 31, (other (t.blk.engine n)).get i 0 =
              if xarg ∧ 1 ≤ i ∧ i ≤ 7 then (own (b.engine n)).get i 0 else (other (b.engine n)).get i 0) ∧
            t.blk.mem = b.mem ∧
            ∀ k, b.target (pushAddr (b.entrySp n d dest)) = .carafe k → ∃ l p, (t.blk.bankAt k).waiting =
              l ++ [{ b.engReq n .write (pushAddr (b.entrySp n d dest)) 16 (leBytes words.1 8 ++ leBytes words.2 8) 0 .none 0 false
                with place := p }]) ∧
  (∀ (n : PE) (k : Nat) (s : State), Quiet s n → AtInstr s n (wordJ 0xA4 0) →
      let e := s.blk.engine n
      let sp := e.g 31
      let a := sp.toNat % 2 ^ 48
      let ra := leNat (s.blk.mem.bytes a 8)
      let st := St.ofWord (BitVec.ofNat 64 (leNat (s.blk.mem.bytes (a + 8) 8)))
      AtBank s n [.read] a 16 k → e.st.sup = true → ra.testBit 1 = false → (e.st.tw = true → st.tw = true) →
        s.blk.flag (R.ENG_DBGSTAT_MONITOR n) = false →
        Gives (.rte n 0 .clean) s fun t =>
          let e' := t.blk.engine n
          let crosses := ra.testBit 0 = true ∧ st.tw ≠ e.st.tw
          let other := fun (q : Engine) => if st.tw then q.gT else q.gV
          let own := fun (q : Engine) => if e.st.tw then q.gT else q.gV
          e'.pc = BitVec.ofNat 48 (ra % 2 ^ 48 / 4 * 4) ∧ e'.st = st ∧ e'.sp = e.sp.put e.st.level (sp + 16) ∧
            e'.ibuf = [] ∧ e'.hold = .fetch ∧ own e' = own e ∧
            (∀ i < 31, (other e').get i 0 = if crosses ∧ 1 ≤ i ∧ i ≤ 7 then (own e).get i 0 else (other e).get i 0) ∧
            e'.vr = e.vr ∧ t.blk.mem = s.blk.mem ∧ ∀ m : Nat, m ≠ n.val → t.blk.engine m = s.blk.engine m)

/-- R89, R358: WFI at a supervisor level completes exactly when the interrupt or the doorbell line of its engine's current target is
high, whatever IE holds; otherwise it waits at itself, and one that waits, with no micro-trap due, is evaluated again the same way.
R75, R77, R89, R121: NOP and FBAR with no FPTRAP pending complete with no effect, ISYNC completes with the instruction buffer empty
before the next dispatch, and a customer opcode that the image defines is left to its microcode: nothing changes but the engine's
place before its dispatch word, where no micro-trap can be taken. Where WFI waits and what may come first is log entry 73. -/
def Obligations.WaitAndNoEffect : Prop :=
  (∀ (n : PE) (s : State), Quiet s n → AtInstr s n (wordJ 0xA5 0) → (s.blk.engine n).st.sup = true →
      let e := s.blk.engine n
      let waiting : State := { s with blk := s.blk.setEngine n { e with hold := .wfi } }
      let t := 2 * n.val + bit e.st.tw
      if s.blk.irqLine t = true ∨ s.blk.dbLine t = true then
        Gives (.wfi n 0) s (Retired s n (nextPc e.pc 4) id) ∧
          (waiting.blk.trapFirst n = false → Gives (.wfi n 0) waiting (Retired s n (nextPc e.pc 4) id))
      else
        let still := fun (u : State) => u.blk = s.blk.setEngine n { e with hold := .wfi, skipIaddr := false }
        Gives (.wfi n 0) s still ∧ (waiting.blk.trapFirst n = false → Gives (.wfi n 0) waiting still)) ∧
  (∀ (n : PE) (word : BitVec 32) (s : State), Quiet s n →
      let e := s.blk.engine n
      let ends := Retired s n (nextPc e.pc 4) id
      (AtInstr s n (wordJ 0xAB 0) → Gives (.nop n 0) s ends) ∧
      (AtInstr s n (wordR 0x86 0 0 0 0) → Gives (.fbar n 0 0 0 0) s ends) ∧
      (AtInstr s n (wordJ 0xAA 0) → Gives (.isync n 0) s fun t =>
        ends t ∧ (t.blk.engine n).ibuf = [] ∧ (t.blk.engine n).hold = .fetch) ∧
      (0xC0 ≤ word.toNat / 2 ^ 24 → word.toNat / 2 ^ 24 ≤ 0xEF → AtInstr s n word.toNat →
        Gives (.customerOpcode n (word.setWidth 64) true) s fun t =>
          t.blk = s.blk.setEngine n { e with trapPt := none, skipIaddr := false } ∧ t.pending = s.pending))

/-- R69, R73, R89, R331: MFST and MTST, MFSR and MTSR complete at an engine with nothing due, at a level that may use the register:
the whole ST word is read; a write of ST keeps TW and SUP, and at a user level also SS, IE and RSM; the numbers 0 to 5 are the
executing world's CTXID, VBASE (whose low 13 bits ignore writes), FTPC, FADDR, FCAUSE and user stack pointer, 6 is ENGID, 7 is
CYCLE, which a free number of ticks has moved on (log entry 11). -/
def Obligations.SpecialRegisters : Prop :=
  ∀ (n : PE) (d a : BitVec 5) (s : State), Quiet s n →
    let e := s.blk.engine n
    let w := bit e.st.tw
    let v := e.g a.toNat
    let ends := Retired s n (nextPc e.pc 4)
    let readable : List W64 := [(e.ctxid.get w 0).setWidth 64, (e.vbase.get w 0).setWidth 64, (e.ftpc.get w 0).setWidth 64,
      (e.faddr.get w 0).setWidth 64, (e.fcause.get w 0).setWidth 64, e.sp.get (2 * w + 1) 0]
    let sr := fun (i : Nat) => BitVec.ofNat 14 i
    (AtInstr s n (wordR 0xA6 d 0 0 0) → Gives (.mfst n d 0 0 0) s (ends fun q => q.setG d.toNat e.st.word)) ∧
    (AtInstr s n (wordR 0xA7 0 a 0 0) → Gives (.mtst n 0 a 0 0) s (ends fun q =>
      let new := St.ofWord v
      let keep := fun (f : St → Bool) => if e.st.sup then f new else f e.st
      { q with st := { new with tw := e.st.tw, sup := e.st.sup, ss := keep (·.ss), ie := keep (·.ie) } })) ∧
    (e.st.sup = true →
      (∀ i < 6, ∀ r, readable[i]? = some r → AtInstr s n (wordI 0xA8 d 0 (sr i)) →
        Gives (.mfsr n d 0 (sr i)) s (ends fun q => q.setG d.toNat r)) ∧
      (AtInstr s n (wordI 0xA9 0 a (sr 0)) → Gives (.mtsr n 0 a (sr 0)) s
        (ends fun q => { q with ctxid := q.ctxid.put w (v.setWidth 32) })) ∧
      (AtInstr s n (wordI 0xA9 0 a (sr 1)) → Gives (.mtsr n 0 a (sr 1)) s
        (ends fun q => { q with vbase := q.vbase.put w (BitVec.ofNat 48 (v.toNat % 2 ^ 48 - v.toNat % 2 ^ 13)) })) ∧
      (AtInstr s n (wordI 0xA9 0 a (sr 2)) → Gives (.mtsr n 0 a (sr 2)) s
        (ends fun q => { q with ftpc := q.ftpc.put w (v.setWidth 48) })) ∧
      (AtInstr s n (wordI 0xA9 0 a (sr 3)) → Gives (.mtsr n 0 a (sr 3)) s
        (ends fun q => { q with faddr := q.faddr.put w (v.setWidth 48) })) ∧
      (AtInstr s n (wordI 0xA9 0 a (sr 4)) → Gives (.mtsr n 0 a (sr 4)) s
        (ends fun q => { q with fcause := q.fcause.put w (v.setWidth 8) })) ∧
      (AtInstr s n (wordI 0xA9 0 a (sr 5)) → Gives (.mtsr n 0 a (sr 5)) s
        (ends fun q => { q with sp := q.sp.put (2 * w + 1) v }))) ∧
    (e.st.tw = false → AtInstr s n (wordI 0xA8 d 0 (sr 6)) → Gives (.mfsr n d 0 (sr 6)) s (ends fun q =>
      q.setG d.toNat (BitVec.ofNat 64 ((s.blk.leOf n).getD 0 + 2 ^ 8 * n.val)))) ∧
    (AtInstr s n (wordI 0xA8 d 0 (sr 7)) → Gives (.mfsr n d 0 (sr 7)) s
      (Ended (let c := e.cycle + Config.freeWord s.blk.fresh
        { s.blk.setEngine n ({ e with cycle := c }.setG d.toNat c) with fresh := s.blk.fresh + 1 }) n (nextPc e.pc 4)))

/-- R71, R75, R76, R88 to R92, R333, R335: instructions that raise an exception have no effect of their own and enter its vector in the
executing world with their own address as the return address: vector 3 for a reserved field or code and for every opcode that is not
defined, vector 4 for a user level, vector 5
with FADDR and FCAUSE for a failed check of a load, vector 6 inside a locked sequence. The order of the checks of one access is log
entry 7, and VBASE = 0 is log entry 8. -/
def Obligations.SynchronousExceptions : Prop :=
  ∀ (n : PE) (d a rb : BitVec 5) (x : BitVec 9) (imm : BitVec 14) (desc : Desc) (b : Block) (s : State),
    let e := s.blk.engine n
    let tw := e.st.tw
    let into := fun (f : Engine → Engine) (v : Nat) =>
      (s.blk.modEngine n fun q => f q.noSkip).readDesc n v tw = (b, .good desc) ∧ CanEnter b n desc tw
    let enters := fun (v : Nat) => Entered b n v desc tw e.pc.toNat e.st.word.toNat
    (Quiet s n → into id 3 →
      (x ≠ 0 → AtInstr s n (wordR 0x01 d a rb x) → Gives (.add n d a rb x) s (enters 3)) ∧
      (30 ≤ d.toNat → AtInstr s n (wordR 0x33 d a rb x) → Gives (.mulwS n d a rb x) s (enters 3)) ∧
      (64 ≤ imm.toNat → AtInstr s n (wordI 0x25 d a imm) → Gives (.shli n d a imm) s (enters 3)) ∧
      ((e.g a.toNat).toNat % 4 ≠ 0 → AtInstr s n (wordR 0x93 0 a 0 0) → Gives (.jr n 0 a 0 0) s (enters 3)) ∧
      (∀ code : BitVec 24, code.toNat < 32 → AtInstr s n (wordJ 0xA2 code) → Gives (.trap n code) s (enters 3)) ∧
      (∀ (word : W64) (defined : Bool), customerOk word = true → (defined = false ∨ isCustomer word = false) →
        AtInstr s n word.toNat → Gives (.customerOpcode n word defined) s (enters 3))) ∧
    (Quiet s n → into id 4 → e.st.sup = false →
      (AtInstr s n (wordJ 0xA4 0) → Gives (.rte n 0 .clean) s (enters 4)) ∧
      (AtInstr s n (wordJ 0xA5 0) → Gives (.wfi n 0) s (enters 4)) ∧
      (imm.toNat < 8 → AtInstr s n (wordI 0xA9 0 a imm) → Gives (.mtsr n 0 a imm) s (enters 4))) ∧
    (∀ (addr : Nat) (c : Cause), Quiet s n →
      s.blk.check n [.read] ((e.g a.toNat + imm.signExtend 64).toNat % 2 ^ 48) 8 = some (addr, c) →
      into (fun q => { q with
        faddr := q.faddr.put (bit tw) (BitVec.ofNat 48 addr), fcause := q.fcause.put (bit tw) (BitVec.ofNat 8 c.code) }) 5 →
      AtInstr s n (wordI 0x46 d a imm) → Gives (.ldd n d a imm .clean) s fun t => enters 5 t ∧
        (t.blk.engine n).faddr = e.faddr.put (bit tw) (BitVec.ofNat 48 addr) ∧
        (t.blk.engine n).fcause = e.fcause.put (bit tw) (BitVec.ofNat 8 c.code)) ∧
    (s.blk.flag (R.ENG_LKSTAT_LKACT n) = true → e.fpt = none → e.lkLine = none → s.blk.tracing n = false →
      ((s.blk.modEngine n Engine.noSkip).lockBreak n .exception).readDesc n 6 tw = (b, .good desc) → CanEnter b n desc tw →
      (AtInstr s n (wordR 0x5A 0 0 0 0) → Gives (.fence n 0 0 0 0) s (enters 6)) ∧
      (AtInstr s n (wordJ 0xAA 0) → Gives (.isync n 0) s (enters 6)) ∧
      (AtInstr s n (wordR 0xB1 1 2 3 0) → Gives (.bfil n 1 2 3 0) s (enters 6)))

/-- R95, R97, R100: BMOV, BFIL, BSCN, BCMP and BSUM on three different registers, none of them g31, outside a locked sequence: with
a count of 0 they complete at once (BSCN then sets Z, BCMP Z and C); with any other count they are in progress at their own address,
with nothing else changed, until their chunks have run. R96, R97, R100: a chunk of a long instruction moves up to the pacing
pointer's next 64-byte boundary: BMOV (ascending) and BFIL post a write of the chunk's bytes, BSCN looks for the low byte of gD,
BCMP for the first difference, BSUM adds to the sum or the CRC-32C; the registers record exactly what was done, and the chunk that
ends the count, or finds, completes the instruction. A descending BMOV, as its start decided, takes the last part of the count down
to a 64-byte boundary of the destination and leaves gD and gA as they are. R97, R98: a chunk whose check fails takes vector 5 at the
long instruction's own address with RSM set in the saved ST, and the instruction is no longer in progress. Ranges at the top of the
address space are the model's choice, log entry 63. -/
def Obligations.LongInstructions : Prop :=
  (∀ (n : PE) (d a b : BitVec 5) (sum : Bool) (s : State), Quiet s n →
      ([d.toNat, a.toNat, b.toNat, 31] : List Nat).Nodup →
      let e := s.blk.engine n
      let x : BitVec 9 := if sum then 1 else 0
      let starts := fun (op : Nat) (x : BitVec 9) (c : Instr) (zero : St → St) =>
        AtInstr s n (wordR op d a b x) →
          ((e.g b.toNat).toNat = 0 → Gives c s (Retired s n (nextPc e.pc 4) fun q => { q with st := zero q.st })) ∧
          ((e.g b.toNat).toNat ≠ 0 → Gives c s fun t => t.pending = s.pending ∧ t.blk = s.blk.setEngine n { e with
            skipIaddr := false, long := some ⟨op, d.toNat, a.toNat, b.toNat, x.toNat, true, decide (op = 0xB0 ∧
              (e.g a.toNat).toNat % 2 ^ 48 < (e.g d.toNat).toNat % 2 ^ 48 ∧
              (e.g d.toNat).toNat % 2 ^ 48 < (e.g a.toNat).toNat % 2 ^ 48 + (e.g b.toNat).toNat)⟩ })
      starts 0xB0 0 (.bmov n d a b 0) id ∧ starts 0xB1 0 (.bfil n d a b 0) id ∧
        starts 0xB2 0 (.bscn n d a b 0) (fun q => { q with z := true }) ∧
        starts 0xB3 0 (.bcmp n d a b 0) (fun q => { q with z := true, c := true }) ∧ starts 0xB4 x (.bsum n d a b x) id) ∧
  (∀ (n : PE) (o : LongOp) (j k : Nat) (s : State), Quiet s n → (s.blk.engine n).cmp = [] → s.blk.runs n = true →
      let e := s.blk.engine n
      s.blk.trapFirst n = false → e.codes = [] → e.wait = none → e.hold = .none → e.long = some o →
        ([o.d, o.a, o.b, 31] : List Nat).Nodup →
      let p := (e.g o.d).toNat % 2 ^ 48
      let q := (e.g o.a).toNat % 2 ^ 48
      let cnt := (e.g o.b).toNat
      let mem := s.blk.mem
      let up := fun (i m : Nat) (g : Engine) => g.setG i (g.g i + BitVec.ofNat 64 m)
      let less := fun (m : Nat) (g : Engine) => g.setG o.b (g.g o.b - BitVec.ofNat 64 m)
      let chunk := fun (x : Nat) => min cnt (64 - x % 64)
      let flags := fun (f : St → St) (g : Engine) => { g with st := f g.st }
      let gives := fun (b : Block) (last : Bool) (f : Engine → Engine) =>
        Gives (.longChunk n .clean) s (Chunked b n o last f)
      0 < cnt →
        (o.op = 0xB0 → o.down = false → p + cnt ≤ 2 ^ 48 → q + cnt ≤ 2 ^ 48 →
          AtBank s n [.read] q (chunk p) j → StoresAt s n p (chunk p) k →
          gives (Posted (Turned s.blk n j) n p (mem.bytes q (chunk p)) k) (chunk p == cnt)
            fun g => less (chunk p) (up o.a (chunk p) (up o.d (chunk p) g))) ∧
        (o.op = 0xB0 → o.down = true → p + cnt ≤ 2 ^ 48 → q + cnt ≤ 2 ^ 48 →
          let lo := max p ((p + cnt - 1) / 64 * 64)
          let m := p + cnt - lo
          AtBank s n [.read] (q + (lo - p)) m j → StoresAt s n lo m k →
          gives (Posted (Turned s.blk n j) n lo (mem.bytes (q + (lo - p)) m) k) (m == cnt) fun g => less m g) ∧
        (o.op = 0xB1 → p + cnt ≤ 2 ^ 48 → StoresAt s n p (chunk p) k →
          gives (Posted s.blk n p ((List.range (chunk p)).map fun i => (e.g o.a).extractLsb' (8 * ((p + i) % 8)) 8) k)
            (chunk p == cnt) fun g => less (chunk p) (up o.d (chunk p) g)) ∧
        (o.op = 0xB2 → q + cnt ≤ 2 ^ 48 → AtBank s n [.read] q (chunk q) j → ∀ m ≤ chunk q,
          (∀ i < m, mem.read (q + i) ≠ (e.g o.d).setWidth 8) → (m < chunk q → mem.read (q + m) = (e.g o.d).setWidth 8) →
          gives (Turned s.blk n j) (decide (m < chunk q) || chunk q == cnt) fun g => flags (fun t => { t with
            z := if m < chunk q then false else if chunk q = cnt then true else t.z }) (less m (up o.a m g))) ∧
        (o.op = 0xB3 → p + cnt ≤ 2 ^ 48 → q + cnt ≤ 2 ^ 48 → AtBank s n [.read] p (chunk p) j →
          AtBank s n [.read] q (chunk p) k → ∀ m ≤ chunk p,
          (∀ i < m, mem.read (p + i) = mem.read (q + i)) → (m < chunk p → mem.read (p + m) ≠ mem.read (q + m)) →
          gives (Turned (Turned s.blk n j) n k) (decide (m < chunk p) || chunk p == cnt) fun g => flags (fun t =>
            if m < chunk p then { t with z := false, c := decide ((mem.read (q + m)).toNat ≤ (mem.read (p + m)).toNat) }
            else if chunk p = cnt then { t with z := true, c := true } else t) (less m (up o.a m (up o.d m g)))) ∧
        (o.op = 0xB4 → q + cnt ≤ 2 ^ 48 → AtBank s n [.read] q (chunk q) j →
          (o.x % 2 = 1 → gives (Turned s.blk n j) (chunk q == cnt) fun g => less (chunk q) (up o.a (chunk q) (g.setG o.d
            (e.g o.d + BitVec.ofNat 64 ((mem.bytes q (chunk q)).foldl (fun z v => z + v.toNat) 0))))) ∧
          (o.x % 2 = 0 → gives (Turned s.blk n j) (chunk q == cnt) fun g => less (chunk q) (up o.a (chunk q) (g.setG o.d
            (BitVec.ofNat 64 (crc32c ((e.g o.d).setWidth 32) (mem.bytes q (chunk q))).toNat)))))) ∧
  (∀ (n : PE) (o : LongOp) (addr : Nat) (c : Cause) (desc : Desc) (b : Block) (s : State), Quiet s n →
      s.blk.runs n = true →
      let e := s.blk.engine n
      let tw := e.st.tw
      s.blk.trapFirst n = false → e.codes = [] → e.wait = none → e.hold = .none → e.long = some o → o.op = 0xB2 →
      let q := (e.g o.a).toNat % 2 ^ 48
      let cnt := (e.g o.b).toNat
      q + cnt ≤ 2 ^ 48 → s.blk.check n [.read] q (min cnt (64 - q % 64)) = some (addr, c) →
      (s.blk.modEngine n fun g => { g with
        st := { g.st with rsm := true }, long := none, faddr := g.faddr.put (bit tw) (BitVec.ofNat 48 addr),
        fcause := g.fcause.put (bit tw) (BitVec.ofNat 8 c.code) }).readDesc n 5 tw = (b, .good desc) →
      CanEnter b n desc tw → Gives (.longChunk n .clean) s
        (Entered b n 5 desc tw e.pc.toNat { e.st with rsm := true }.word.toNat))

/-- R95, R100, R153, R156: KCALL on three different registers, none of them g31, at a 64-byte-aligned descriptor outside a locked
sequence: resumed (RSM = 1) it is in progress with its registers as they stand; started, with a good descriptor in one Carafe bank whose
stages take no parameters and whose chain FIFOs exist, it is in progress with gB = 0 and gD = 0. R158, R159, R163: a block of a
memory-to-memory KCALL whose one stage passes its input on (kernel ID 1), which is not the last: input up to the next 64-byte boundary
is read at the current position, a write of the same bytes to the output is posted, after it at most one of undefined bytes to the rest
of the last line, and gB and gD record the block; the call stays in progress. The readings of KCALL are log entries 55, 57 and 58, what
a call carries is log entry 16, and free output is log entry 56. -/
def Obligations.KernelCalls : Prop :=
  (∀ (n : PE) (d a b : BitVec 5) (k : Nat) (s : State), Quiet s n → AtInstr s n (wordR 0xB5 d a b 0) →
      ([d.toNat, a.toNat, b.toNat, 31] : List Nat).Nodup →
      let e := s.blk.engine n
      let ka := (e.g a.toNat).toNat % 2 ^ 48
      let call : LongOp := ⟨0xB5, d.toNat, a.toNat, b.toNat, 0, true, false⟩
      (e.g a.toNat).toNat % 64 = 0 →
        (e.st.rsm = true → Gives (.kcall n d a b 0 .clean) s fun t =>
          t.blk = s.blk.setEngine n { e with skipIaddr := false, long := some call }) ∧
        (e.st.rsm = false → ka + 64 ≤ 2 ^ 48 → AtBank s n [.read] ka 0x38 k →
          let desc := KDesc.ofBytes (s.blk.mem.bytes ka 0x38)
          desc.ok = true → desc.ids.any takesParam = false → s.blk.chainOff n desc = false →
          Gives (.kcall n d a b 0 .clean) s fun t =>
            let e' := t.blk.engine n
            e'.long = some { call with first := false } ∧ e'.g b.toNat = 0 ∧ e'.g d.toNat = 0 ∧ e'.pc = e.pc ∧
              (e'.kern.get ka KernRun.begun).desc = s.blk.mem.bytes ka 0x38 ∧ t.blk.mem = s.blk.mem)) ∧
  (∀ (n : PE) (o : LongOp) (j k : Nat) (s : State), Quiet s n → (s.blk.engine n).cmp = [] → s.blk.runs n = true →
      let e := s.blk.engine n
      s.blk.trapFirst n = false → e.codes = [] → e.wait = none → e.hold = .none → e.long = some o → o.op = 0xB5 → o.first = false →
      ([o.d, o.a, o.b, 31] : List Nat).Nodup →
      let r := e.kern.get ((e.g o.a).toNat % 2 ^ 48) KernRun.begun
      let desc := KDesc.ofBytes r.desc
      let pos := (e.g o.b).toNat
      let made := (e.g o.d).toNat
      let src := desc.inAddr + pos
      let dst := desc.outAddr + made
      let c := 64 - src % 64
      desc.flags = 0 → desc.stages = 1 → r.stages.length = 1 → r.out = [] → pos + c < desc.inLen →
        desc.inAddr + desc.inLen ≤ 2 ^ 48 → made + c ≤ desc.outLim → made + c < 2 ^ 64 →
        s.blk.outFault n o r made c false = none → AtBank s n [.read] src c j → StoresAt s n dst c k →
        Gives (.kernelBlock n .clean) s fun t =>
          (t.blk.engine n).g o.b = e.g o.b + BitVec.ofNat 64 c ∧ (t.blk.engine n).g o.d = e.g o.d + BitVec.ofNat 64 c ∧
            (t.blk.engine n).long = some { o with first := false } ∧ (t.blk.engine n).pc = e.pc ∧
            t.blk.mem = s.blk.mem ∧ ∃ l p rest, (t.blk.bankAt k).waiting =
              l ++ { s.blk.engReq n .write dst c (s.blk.mem.bytes src c) 0 .none 0 false with place := p } :: rest ∧
              ∀ q ∈ rest, q.rq = n.val ∧ q.kind = .write ∧ q.addr = dst + c ∧ q.addr + q.len ≤ (dst + c + 63) / 64 * 64)

/-- R29 to R36, R39 to R45, R60: MICROWORD executes the word at the microaddress. A word with only an ALU operation that goes on to the
next microaddress writes the result to the micro-register that DSEL names and, with FLAGS[0], latches Z and N of it; a word with no unit
at all goes where SEQ says under its conditions, with the micro-stack and the loop counter as SEQ says; both leave the general and lane
registers, ST, PC and memory as they were. A reserved word, or one with too small a CYC, raises micro-fault 1 or 2. The order of faults
is log entry 53, and the readings and free values are log entries 13 and 54. -/
def Obligations.Microwords : Prop :=
  ∀ (n : PE) (w : Uword) (s : State),
    let e := s.blk.engine n
    let command : Instr := .microword n .clean .clean
    let same := fun (t : State) =>
      let q := t.blk.engine n
      q.gV = e.gV ∧ q.gT = e.gT ∧ q.sp = e.sp ∧ q.vr = e.vr ∧ q.st = e.st ∧ q.pc = e.pc ∧ t.blk.mem = s.blk.mem ∧
        ∀ m : Nat, m ≠ n.val → t.blk.engine m = s.blk.engine m
    (AtWord s n w → w.plain →
      (w.seq = 0 → w.shop = 0 → w.flags = 1 → 0x20 ≤ w.dsel → w.dsel < 0x30 → w.lctl = 0 →
        let a := e.opA w
        let b := e.opB w
        ∀ r : W64, (w.alu, r) ∈ ([(0x01, a), (0x02, b), (0x03, a + b), (0x06, a - b), (0x09, b - a), (0x0A, a &&& b),
            (0x0B, a ||| b), (0x0C, a ^^^ b), (0x10, ~~~a), (0x11, 0 - a), (0x12, a + 1), (0x13, a - 1),
            (0x29, BitVec.ofNat 64 ((a.toNat + b.toNat) % 2 ^ 48))] : List (Nat × W64)) →
          Gives command s fun t => same t ∧ (t.blk.engine n).u = e.u.put (w.dsel - 0x20) r ∧
            (t.blk.engine n).lat.z = decide (r.toNat = 0) ∧ (t.blk.engine n).lat.n = decide (2 ^ 63 ≤ r.toNat) ∧
            (t.blk.engine n).lat.c = e.lat.c ∧ (t.blk.engine n).lat.v = e.lat.v ∧ (t.blk.engine n).upc = e.upc + 1 ∧
            (t.blk.engine n).ustack = e.ustack) ∧
      (w.alu = 0 → w.flags = 0 → w.lctl = 0 →
        let x := s.blk.condition n w w.ca
        let y := s.blk.condition n w w.cb
        let t := combine w.ccomb x y
        let to' := BitVec.ofNat 13 w.tgt
        let on := e.upc + 1
        let goes := fun (up : BitVec 13) (stack : List (BitVec 13)) (l : Tab (BitVec 16)) => Gives command s fun t =>
          same t ∧ (t.blk.engine n).upc = up ∧ (t.blk.engine n).ustack = stack ∧ (t.blk.engine n).l = l ∧
            (t.blk.engine n).u = e.u
        let room := e.ustack.length < 16
        (w.seq = 0 → goes on e.ustack e.l) ∧ (w.seq = 1 → goes to' e.ustack e.l) ∧
          (w.seq = 2 → goes (if t then to' else on) e.ustack e.l) ∧
          (w.seq = 3 → room → goes to' (on :: e.ustack) e.l) ∧
          (w.seq = 4 → room → if t then goes to' (on :: e.ustack) e.l else goes on e.ustack e.l) ∧
          (∀ p l, e.ustack = p :: l → (w.seq = 5 → goes p l e.l) ∧
            (w.seq = 6 → if t then goes p l e.l else goes on e.ustack e.l)) ∧
          (w.seq = 7 → goes (BitVec.ofNat 13 (w.tgt - w.tgt % 4 + 2 * bit x + bit y)) e.ustack e.l) ∧
          (w.seq = 8 → goes (BitVec.ofNat 13 (0x1000 + 4 * (e.ir.extractLsb' 24 8).toNat)) e.ustack e.l) ∧
          (w.seq = 9 → if e.l.get 0 0 = 0 then goes on e.ustack (e.l.put 0 0)
            else goes to' e.ustack (e.l.put 0 (e.l.get 0 0 - 1))) ∧
          (w.seq = 0xC → goes (BitVec.ofNat 13 (s.blk.get (R.ENG_USTAT_UTPC n))) e.ustack e.l) ∧
          (w.seq = 0xD → goes ((e.u.get 15 0).setWidth 13) e.ustack e.l) ∧
          (w.seq = 0xE → Gives command s fun t => same t ∧ t.blk.get (R.ENG_USTAT_HALTED n) = 1))) ∧
    (s.blk.atWord n = true → e.cmp = [] → Uword.ofBits (e.row e.upc.toNat).toNat = w → e.csErr.look e.upc.toNat ≠ some true →
      e.inFault = false → ∀ cause addr, e.decodeFault w = some (cause, addr) →
        Gives command s fun t => same t ∧ (t.blk.engine n).upc = 0x28 ∧ t.blk.get (R.ENG_USTAT_UTPC n) = e.upc.toNat ∧
          t.blk.get (R.ENG_USTAT_LASTCAUSE n) = cause % 2 ^ 8 ∧ (cause = 1 ∨ cause = 2) ∧
          (t.blk.engine n).mdr = BitVec.ofNat 64 (cause + addr * 2 ^ 16) ∧ (t.blk.engine n).inFault = true)

/-- R51, R52, R54, R55, R57: a MICROWORD whose MEMOP is a load presents its read at the bank and waits; CARAFE_LOAD_DATA brings the
data, which goes to MDR zero- or sign-extended, and the word completes; FABRIC_RESPONSE brings the data of an outstanding channel
into its slot, or frees a dropped one; EXT_ANSWER ends the strobe, with its data in MDR where no word writes it. R61 to R65, R333,
R334, R343, R466, R467: MICRO_TRAP at a point where nothing is due changes nothing; a clock-stop halt stops the engine's clock with
INSTR saying whether it is inside an instruction, with CYCLE moved on by a free number of ticks (log entry 11); at an instruction
boundary a watchdog's first expiry enters vector 2 of the Vendor world, an interrupt or doorbell vector 16 or 17 of the world whose
target admits it, Vendor first, each with the next instruction as the return address. The point at which a trap is taken is the
model's reading, log entries 52 and 54. -/
def Obligations.MicroAnswersAndTraps : Prop :=
  (∀ (n : PE) (w : Uword) (k : Nat) (r : Resp) (rest : List Resp) (c : BitVec 5) (s : State),
      let e := s.blk.engine n
      let a := e.uaddr w
      (AtWord s n w → { w with mem := 0 }.plain → (w.mem = 1 ∨ w.mem = 2) → w.seq ≠ 0xA → s.blk.target a = .carafe k →
        a % 2 ^ 20 + w.size ≤ 2 ^ 20 → s.blk.check n [.read] a w.size = none →
          s.blk.wordFault n w (s.blk.conds n w).condC 0 = none →
        Gives (.microword n .clean .clean) s fun t =>
          (t.blk.bankAt k).waiting =
              seat k ((s.blk.bankAt k).waiting ++ [s.blk.engReq n .read a w.size [] 0 .word 0 false]) ∧
            (t.blk.engine n).wait = some (s.blk.conds n w) ∧ (t.blk.engine n).upc = e.upc ∧ (t.blk.engine n).gV = e.gV ∧
            t.blk.mem = s.blk.mem) ∧
      (∀ q, e.wait = some q → s.blk.runs n = true → s.blk.resps = r :: rest → r.pe = n.val → r.reply = .word → r.err = false →
        1 ≤ r.data.length → r.data.length ≤ 8 → Uword.ofBits (e.row e.upc.toNat).toNat = w → { w with mem := 0 }.plain →
        w.alu = 0 → w.flags = 0 → w.seq = 0 → w.lctl = 0 → (w.mem = 1 ∨ w.mem = 2) → e.cmp = [] →
        e.codes = [] →
        Gives (.carafeLoadData n .clean) s fun t => t.blk.resps = rest ∧ (t.blk.engine n).wait = none ∧
          (t.blk.engine n).mdr = (if w.mem = 1 then BitVec.ofNat 64 (leNat r.data)
            else (BitVec.ofNat (8 * r.data.length) (leNat r.data)).signExtend 64) ∧
          (t.blk.engine n).upc = e.upc + 1 ∧ (t.blk.engine n).gV = e.gV ∧ t.blk.mem = s.blk.mem) ∧
      (s.blk.clocked n = true → s.blk.resps = r :: rest → r.pe = n.val → r.reply = .channel c.toNat → r.before = [] → e.cmp = [] →
        ∀ dropped len, e.slot c.toNat = .expecting dropped len → r.err = false →
          Gives (.fabricResponse n c) s fun t => t.blk.resps = rest ∧
            (t.blk.engine n).slot c.toNat = (if dropped then .free else .held r.data false) ∧
            (t.blk.engine n).gV = e.gV ∧ (t.blk.engine n).upc = e.upc ∧ t.blk.mem = s.blk.mem) ∧
      (∀ x, s.blk.extAns.find? (·.pe == n.val) = some x → s.blk.clocked n = true → e.resFault = false → e.wait = none →
        e.mdrWritten = false → e.codes = [] → Gives (.extAnswer n) s fun t =>
          t.blk = { s.blk.setEngine n { e with extBusy := false, extErr := x.err, mdr := x.data.getD e.mdr } with
            extAns := s.blk.extAns.erase x })) ∧
  (∀ (n : PE) (d : Desc) (b : Block) (s : State),
      let e := s.blk.engine n
      s.blk.runs n = true → e.wait = none →
        (s.blk.trapDue n = none → Gives (.microTrap n) s (Same s)) ∧
        (∀ p, e.point = some p → s.blk.trapDue n = some .clockStop → s.blk.inGroup n = false → s.blk.tracing n = false →
          Gives (.microTrap n) s fun t => t.blk.get (R.ENG_DBGSTAT_CSTOP n) = 1 ∧ t.blk.get (R.ENG_DBGSTAT_PENDING n) = 0 ∧
            t.blk.get (R.ENG_DBGSTAT_INSTR n) = bit (!p) ∧ (t.blk.engine n) =
              { e with halt := none, cycle := e.cycle + Config.freeWord s.blk.fresh } ∧
            t.blk.mem = s.blk.mem ∧ ∀ m : Nat, m ≠ n.val → t.blk.engine m = s.blk.engine m) ∧
        (e.point = some true → e.fpt = none → s.blk.flag (R.ENG_LKSTAT_LKACT n) = false → s.blk.tracing n = false →
          let recorded := fun (m : MicroTrap) => (s.blk.recordTrap n false m).modEngine n id
          (s.blk.trapDue n = some .watchdog →
            let b0 := recorded .watchdog
            (b0.modEngine n fun q => { q with wdgDue := false }).readDesc n 2 false = (b, .good d) → CanEnter b n d false →
            Gives (.microTrap n) s (Entered b n 2 d false e.pc.toNat e.st.word.toNat)) ∧
          (s.blk.trapDue n = some .event →
            let b1 := (recorded .event).countEng n 0x0B
            let vendor := b1.admits n false && (b1.irqLine (2 * n.val) || b1.dbLine (2 * n.val))
            let v := if b1.irqLine (2 * n.val + bit (!vendor)) then 16 else 17
            b1.readDesc n v (!vendor) = (b, .good d) → CanEnter b n d (!vendor) →
            Gives (.microTrap n) s (Entered b n v d (!vendor) e.pc.toNat e.st.word.toNat))))

/-- R38, R69, R76, R77, R91, R204, R325, R327: ENGINE_START sets an engine whose start has been sent, its domain ON, running at
ENGn_BOOT with ST, its registers, its region table and its watchdog at their start values; INSTRUCTION_FETCH brings the line that a
waiting dispatch needs, from a bank where no request waits and that finds it whole, into the buffer and dispatches; BREAK_NOTICE
takes the oldest notice, and breaks the active sequence exactly where the notice is of its own lock. That the start's base routine
is done at once is log entry 79, register values that the spec does not give are log entry 1, and the checks of a fetch are log
entry 73. -/
def Obligations.EngineEvents : Prop :=
  ∀ (n : PE) (k : Nat) (s : State),
    let e := s.blk.engine n
    (e.startDue = true → s.blk.get (R.PWR_ENG_STATE n) = 2 →
      Gives (.engineStart n) s fun t =>
        let watchdog := [R.ENG_WDG_CTRL_EN n, R.ENG_WDG_CTRL_FREEZE n, R.ENG_WDG_CTRL_EXP1 n, R.ENG_WDG_PERIOD_PERIOD n,
          R.ENG_WDG_CNT_COUNT n, R.ENG_WDG_GRACE_GRACE n]
        let e' := t.blk.engine n
        OnlyFields (watchdog ++ [R.ENG_USTAT_LASTCAUSE n, R.ENG_USTAT_HALTED n, R.ENG_LKSTAT_BRKCAUSE n, R.ENG_LKSTAT_LKACT n,
              R.ENG_LKSTAT_LKCNT n, R.ENG_XSTAT_LOCKUP n, R.lockupVec n, R.ENG_LOCKUP_ANY])
            (s.blk.setEngine n { e.started with
              running := true, hold := .fetch, trapPt := some true, pc := BitVec.ofNat 48
                (s.blk.get (R.ENG_BOOT_HI_PC n) * 2 ^ 32 + s.blk.get (R.ENG_BOOT_LO_PC n) * 2 ^ 2) }) t.blk ∧
          (∀ f ∈ watchdog, t.blk.get f = f.rst) ∧ t.blk.get (R.ENG_USTAT_HALTED n) = 0 ∧ t.blk.get (R.ENG_XSTAT_LOCKUP n) = 0 ∧
          t.blk.get (R.ENG_USTAT_LASTCAUSE n) = 0 ∧ t.blk.get (R.ENG_LKSTAT_LKACT n) = 0 ∧ e'.startDue = false ∧
          e'.st.word = 2 ^ 20 ∧ e'.rg = [(0, RgEntry.whole)] ∧ e'.cs = e.cs ∧ (∀ m : Nat, m ≠ n.val →
            t.blk.engine m = s.blk.engine m)) ∧
    (s.blk.runs n = true → s.blk.trapFirst n = false → e.codes = [] → e.hold = .fetch → e.ibuf = [] → e.pc.toNat % 64 ≤ 56 →
      let line := e.pc.toNat / 64
      let word := leNat (s.blk.mem.bytes e.pc.toNat 4)
      AtBank s n [.exec] (line * 64) 64 k → (word / 2 ^ 24 < 0xF0 ∨ word / 2 ^ 24 = 0xFF) →
      Gives (.instructionFetch n .clean) s fun t =>
        t.blk = (Turned s.blk n k).setEngine n { e with
          ibuf := [(line, s.blk.mem.bytes (line * 64) 64)], ir := BitVec.ofNat 64 word, hold := .none,
          upc := BitVec.ofNat 13 (0x1000 + 4 * (word / 2 ^ 24)) }) ∧
    (∀ x xs, e.notices = x :: xs →
      (s.blk.flag (R.ENG_LKSTAT_LKACT n) = false ∨ x ≠ e.lkSeq → Gives (.breakNotice n) s fun t =>
        t.blk = s.blk.setEngine n { e with notices := xs }) ∧
      (s.blk.flag (R.ENG_LKSTAT_LKACT n) = true → x = e.lkSeq → Gives (.breakNotice n) s fun t =>
        t.blk.get (R.ENG_LKSTAT_LKACT n) = 0 ∧ t.blk.get (R.ENG_LKSTAT_LOCKBREAK n) = 1 ∧
          t.blk.get (R.ENG_LKSTAT_BRKCAUSE n) = 3 ∧ (t.blk.engine n).notices = xs ∧ (t.blk.engine n).lkLine = none ∧
          t.blk.mem = s.blk.mem))

/-- R363, R364, R365, R366, R367, R384: timer channels while PERIPH is powered. TIMER_ARM loads COUNT from LOAD, both halves of a
linked pair, and sets ARMED, where no group start has armed the channel in this tick; TIMER_STOP clears it and holds COUNT; both do
nothing at the odd channel of a linked pair. TIMER_EXPIRY lets the ticks to the channel's expiry pass, counts EXPCNT up to 0xFF,
makes the channel's source pending, and reloads COUNT or leaves it 0 with ARMED clear. A group start arms every named channel, in
the next tick or when TNOW reaches TMR_GAT, CANCEL withdraws a pending one, and after its ticks a phase delay ends with WAITPH
clear. That commands other than timed ones take no time is the model's choice, log entry 31, and GO with CANCEL is log entry 33. -/
def Obligations.TimerChannels : Prop :=
  ∀ (c : Fin 64) (timed : Bool) (s : State), s.blk.pd4 = true →
    let get := fun (f : Nat → Fld) => s.blk.get (f c)
    let pair := [R.TC_COUNT_COUNT c, R.TC_COUNT_COUNT (c + 1), R.TC_STAT_ARMED c, R.TC_STAT_WAITPH c]
    let odd := s.blk.oddLinked c
    let mask := fun (i : Nat) => (s.blk.get R.TMR_GMASK_LO_MASK + 2 ^ 32 * s.blk.get R.TMR_GMASK_HI_MASK).testBit i
    let started := fun (t : State) => t.blk.get R.TMR_GCTRL_PEND = 0 ∧ ∀ i < 64, mask i = true →
      s.blk.oddLinked i = false → t.blk.get (R.TC_STAT_ARMED i) = 1 ∧
        (s.blk.get (R.TC_PHASE_PHASE i) ≠ 0 → t.blk.get (R.TC_STAT_WAITPH i) = 1)
    (odd = true → Gives (.timerArm c) s (Same s) ∧ Gives (.timerStop c) s (Same s)) ∧
    (odd = false →
      (c.val ∉ s.blk.tick.started → Gives (.timerArm c) s fun t => OnlyTimers pair s.blk t.blk ∧ t.blk.get (R.TC_STAT_ARMED c) = 1 ∧
        t.blk.get (R.TC_STAT_WAITPH c) = 0 ∧ (if s.blk.linked c then
          t.blk.get (R.TC_COUNT_COUNT c) + 2 ^ 32 * t.blk.get (R.TC_COUNT_COUNT (c + 1)) =
            (get R.TC_LOAD_LOAD + 2 ^ 32 * s.blk.get (R.TC_LOAD_LOAD (c + 1))) % 2 ^ 64
          else t.blk.get (R.TC_COUNT_COUNT c) = get R.TC_LOAD_LOAD % 2 ^ 32 ∧
            t.blk.get (R.TC_COUNT_COUNT (c + 1)) = s.blk.get (R.TC_COUNT_COUNT (c + 1))) ∧ t.blk.timers.presc.get c 0 = 0) ∧
      Gives (.timerStop c) s (fun t => OnlyTimers (pair.drop 2) s.blk t.blk ∧
        t.blk.get (R.TC_STAT_ARMED c) = 0 ∧ t.blk.get (R.TC_STAT_WAITPH c) = 0)) ∧
    Gives (.timerClrcnt c) s (fun t => OnlyFields [R.TC_STAT_EXPCNT c] s.blk t.blk ∧ t.blk.get (R.TC_STAT_EXPCNT c) = 0) ∧
    (s.blk.tcRuns c = true → s.blk.linked c = false → 0 < s.blk.tcDue c → s.blk.flag R.TMR_GCTRL_PEND = false →
      s.blk.timers.go = false → 216 + c.val ∉ s.blk.dcycle.forced → Gives (.timerExpiry c) s fun t =>
      t.blk.get (R.TC_STAT_EXPCNT c) = min (get R.TC_STAT_EXPCNT + 1) 0xFF ∧
        t.blk.srcBit R.DIST_PENDSET_PEND (216 + c) = true ∧
        t.blk.get (R.TC_COUNT_COUNT c) = (if s.blk.flag (R.TC_CTRL_RELOAD c) then get R.TC_LOAD_LOAD % 2 ^ 32 else 0) ∧
        t.blk.get (R.TC_STAT_ARMED c) = if s.blk.flag (R.TC_CTRL_RELOAD c) then get R.TC_STAT_ARMED else 0) ∧
    (s.blk.flag (R.TC_STAT_WAITPH c) = true → s.blk.tcFrozen c = false → 0 < s.blk.timers.phase.get c 0 →
      s.blk.flag R.TMR_GCTRL_PEND = false → s.blk.timers.go = false → Gives (.phaseDelayEnd c) s fun t =>
      t.blk.get (R.TC_STAT_WAITPH c) = 0 ∧ t.blk.get (R.TC_STAT_ARMED c) = get R.TC_STAT_ARMED) ∧
    (timed = true → Gives (.groupGo timed) s fun t => OnlyTimers [R.TMR_GCTRL_TIMED, R.TMR_GCTRL_PEND] s.blk t.blk ∧
      t.blk.get R.TMR_GCTRL_PEND = 1 ∧ t.blk.get R.TMR_GCTRL_TIMED = 1) ∧
    (timed = false → Gives (.groupGo timed) s started) ∧
    Gives .groupCancel s (fun t => OnlyFields [R.TMR_GCTRL_PEND] s.blk t.blk ∧ t.blk.get R.TMR_GCTRL_PEND = 0) ∧
    (s.blk.flag R.TMR_GCTRL_PEND = true → s.blk.tick.started = [] →
      s.blk.tnow ≥ s.blk.get R.TMR_GAT_HI_TNOW * 2 ^ 32 + s.blk.get R.TMR_GAT_LO_TNOW → Gives .groupStart s started)

/-- R370 to R374: capture pairs and the engines' timer strobes. An edge that does not come FILT + 1 ticks after the one before it,
or goes the same way, is not accepted. The first accepted edge of an event sets CAPHALF, the second one clears it and publishes
RISE, sets NEW (and OVR where it was already set) and makes source 280 + c pending, in the next tick where the pair has been read in
this one; a read of CAPR, or READCAP, in a tick without a publication snapshots the other two words and clears NEW. ARM loads and
arms, STOP disarms, READ answers COUNT, ARMED and NEW; a channel out of range is answered 1, a Tenant strobe at a channel without
TENANT 8, and neither changes anything else. The ticks that pass before an edge are an operand (log entry 31), and READ of an odd
channel is log entry 33. -/
def Obligations.CaptureAndStrobes : Prop :=
  ∀ (n : PE) (c : Fin 16) (rising : Bool) (dt : W32) (q : Strobe) (s : State),
    let b := s.blk
    let e := b.elapse dt.toNat
    let stamp := ((e.get R.TIME_TICKS_LO_TICKS : Int) - e.get (R.TC_CTRL_FILT c) - 2) % 2 ^ 32
    let pol := e.flag (R.TC_CTRL_CAPPOL c)
    let chan := q.a.toNat
    let accepted := ∀ t level, e.timers.edge.look c = some (t, level) →
      rising ≠ level ∧ t + e.get (R.TC_CTRL_FILT c) + 1 ≤ e.ticks
    let live := fun (i : Nat) => b.timers.live.get i (0, 0, false)
    let snap := fun (i : Nat) (b t : Block) => t.get (R.TC_CAPF_FALL i) = (live i).1 % 2 ^ 32 ∧
      t.get (R.TC_CAPW_WIDTH i) = (live i).2.1 % 2 ^ 32 ∧ t.get (R.TC_STAT_NEW i) = 0 ∧
      OnlyFields [R.TC_CAPF_FALL i, R.TC_CAPW_WIDTH i, R.TC_STAT_NEW i] b t
    let answer := fun (i : Nat) =>
      BitVec.ofNat 64 ((if (live i).2.2 then (live i).1 else b.get (R.TC_CAPR_RISE i)) + 2 ^ 32 * (live i).2.1)
    (¬accepted → Gives (.captureEdge c rising dt) s fun t => t.blk = e) ∧
    (e.pd4 = true → e.flag (R.TC_CTRL_CAPEN c) = true → accepted →
      (e.flag (R.TC_STAT_CAPHALF c) = false → rising ≠ pol → Gives (.captureEdge c rising dt) s fun t =>
        OnlyTimers [R.TC_STAT_CAPHALF c] e t.blk ∧ t.blk.get (R.TC_STAT_CAPHALF c) = 1 ∧
          (t.blk.timers.first.get c 0 : Int) = stamp) ∧
      (e.flag (R.TC_STAT_CAPHALF c) = true → rising = pol → c.val ∈ e.tick.read → Gives (.captureEdge c rising dt) s fun t =>
        OnlyTimers [R.TC_STAT_CAPHALF c] e t.blk ∧ t.blk.get (R.TC_STAT_CAPHALF c) = 0 ∧
          (t.blk.tick.held.look c).isSome = true) ∧
      (e.flag (R.TC_STAT_CAPHALF c) = true → rising = pol → c.val ∉ e.tick.read → Gives (.captureEdge c rising dt) s fun t =>
        t.blk.get (R.TC_STAT_CAPHALF c) = 0 ∧ t.blk.get (R.TC_STAT_NEW c) = 1 ∧
          t.blk.get (R.TC_STAT_OVR c) = (if e.flag (R.TC_STAT_NEW c) then 1 else e.get (R.TC_STAT_OVR c)) ∧
          (t.blk.get (R.TC_CAPR_RISE c) : Int) = (if pol then stamp else ((e.timers.first.get c 0 % 2 ^ 32 : Nat) : Int)) ∧
          t.blk.srcBit R.DIST_PENDSET_PEND (280 + c) = true)) ∧
    (b.pd4 = true → c.val ∉ b.tick.published → Gives (.caprRead c) s fun t => snap c b t.blk) ∧
    (b.strobeOf n 0x20 = some q → chan < 64 → b.oddLinked chan = false → b.linked chan = false → chan ∉ b.tick.started →
      (q.tenant = true → b.flag (R.TC_CTRL_TENANT chan) = true) → Gives (.arm n) s fun t =>
        OnlyTimers [R.TC_LOAD_LOAD chan, R.TC_COUNT_COUNT chan, R.TC_STAT_ARMED chan, R.TC_STAT_WAITPH chan]
            (Replied b n false 0) t.blk ∧ t.blk.get (R.TC_LOAD_LOAD chan) = q.b.toNat % 2 ^ 32 ∧
          t.blk.get (R.TC_COUNT_COUNT chan) = q.b.toNat % 2 ^ 32 ∧ t.blk.get (R.TC_STAT_ARMED chan) = 1) ∧
    (b.strobeOf n 0x21 = some q → chan < 64 → b.oddLinked chan = false →
      (q.tenant = true → b.flag (R.TC_CTRL_TENANT chan) = true) → Gives (.stop n) s fun t =>
        t.blk.get (R.TC_STAT_ARMED chan) = 0 ∧
          OnlyTimers [R.TC_STAT_ARMED chan, R.TC_STAT_WAITPH chan] (Replied b n false 0) t.blk) ∧
    (b.strobeOf n 0x22 = some q → chan < 64 → b.oddLinked chan = false →
      (q.tenant = true → b.flag (R.TC_CTRL_TENANT chan) = true) →
      Gives (.read n) s fun t => t.blk = Replied b n false (BitVec.ofNat 64 (b.get (R.TC_COUNT_COUNT chan) +
        2 ^ 32 * b.get (R.TC_STAT_ARMED chan) + 2 ^ 33 * b.get (R.TC_STAT_NEW chan)))) ∧
    (b.strobeOf n 0x22 = some q → 64 ≤ chan → Gives (.read n) s fun t => t.blk = Replied b n true 1) ∧
    (b.strobeOf n 0x22 = some q → chan < 64 → b.oddLinked chan = false → q.tenant = true →
      b.flag (R.TC_CTRL_TENANT chan) = false → Gives (.read n) s fun t => t.blk = Replied b n true 8) ∧
    (b.strobeOf n 0x23 = some q → chan < 16 → chan ∉ b.tick.published → (q.tenant = true → b.flag (R.TC_CTRL_TENANT chan) = true) →
      Gives (.readcap n) s fun t => snap chan (Replied b n false (answer chan)) t.blk)

/-- R377, R380, R382: the time counter. A LOAD, in a tick without a servo result, sets TNOW to TIME_SET and its fraction to 0,
TIME_ADJ moves TNOW by a signed number of nanoseconds modulo 2^64, and both end LOCKED, with LOCKLOST where it was set, and clear
LOCKCNT; a write of ALARM_LO arms the alarm, CLEAR disarms it, and the alarm goes off, once, where TNOW has reached it. R378 to
R380: the Time Port and the servo. An accepted event latches TNOW and the reference, records the offset saturated to 32 bits, clears
HOLDOVER and makes a result due where SERVO = 1; one too close to the last, less than 250 ticks after it, or with TPEN = 0, is not
accepted. A result that is due has no effect in a tick that a LOAD loaded; else it steps the time where the step is enabled and the
offset reaches STEPTHR, and otherwise sets TIME_INC to NOMINC plus the clamped correction, with CLAMPED and the CLAMP event saying
whether a bound was met. A missed event falls back to NOMINC plus the integral. The ticks that pass before an event are an operand
(log entry 31), and the readings of the servo are log entry 33. -/
def Obligations.TimeCounterAndServo : Prop :=
  (∀ (ns lo : W32) (s : State),
      let b := s.blk
      let clock := [R.TNOW_LO_TNOW, R.TNOW_HI_TNOW, R.TIME_STAT_LOCKED, R.TIME_STAT_LOCKCNT, R.TIME_EVT_LOCKLOST]
      let unlocked := fun (t : State) => t.blk.get R.TIME_STAT_LOCKED = 0 ∧ t.blk.get R.TIME_STAT_LOCKCNT = 0 ∧
        t.blk.get R.TIME_EVT_LOCKLOST = (if b.flag R.TIME_STAT_LOCKED then 1 else b.get R.TIME_EVT_LOCKLOST) ∧
        KeepsFields clock b t.blk ∧ ({ t.blk with regs := b.regs, frac := b.frac, tick := b.tick } : Block) = b
      (b.tick.servoed = false → Gives .timeLoad s fun t => unlocked t ∧ t.blk.frac = 0 ∧
        t.blk.tnow = (b.get R.TIME_SET_HI_SET * 2 ^ 32 + b.get R.TIME_SET_LO_SET) % 2 ^ 64) ∧
      Gives (.timeAdj ns) s (fun t => unlocked t ∧
        ((t.blk.tnow * 2 ^ 28 + t.blk.frac : Nat) : Int) =
          (((b.tnow * 2 ^ 28 + b.frac : Nat) : Int) + ns.toInt * 2 ^ 28) % 2 ^ 92) ∧
      Gives (.alarmArm lo) s (fun t => OnlyFields [R.TIME_ALARM_LO_TNOW, R.TIME_STAT_ALARMED] b t.blk ∧
        t.blk.get R.TIME_ALARM_LO_TNOW = lo.toNat ∧ t.blk.get R.TIME_STAT_ALARMED = 1) ∧
      Gives .alarmClear s (fun t => OnlyFields [R.TIME_STAT_ALARMED] b t.blk ∧ t.blk.get R.TIME_STAT_ALARMED = 0) ∧
      (b.flag R.TIME_STAT_ALARMED = true → b.get R.TIME_ALARM_HI_TNOW * 2 ^ 32 + b.get R.TIME_ALARM_LO_TNOW ≤ b.tnow →
        Gives .alarm s fun t => t.blk.get R.TIME_STAT_ALARMED = 0 ∧ t.blk.get R.TIME_EVT_ALARM = 1) ∧
      (b.flag R.TIME_STAT_ALARMED = false → Gives .alarm s (Same s))) ∧
  (∀ (ns : W64) (frac : BitVec 16) (close : Bool) (dt : W32) (theta : Int) (due : Nat) (s : State),
      let b := s.blk
      let e := b.elapse dt.toNat
      let now : Nat := e.tnow * 2 ^ 16 + e.frac / 2 ^ 12
      let off := ((ns.toNat * 2 ^ 16 + frac.toNat : Nat) : Int) - now
      let sat := fun (v : Int) (w : Nat) => max (-2 ^ (w - 1)) (min (2 ^ (w - 1) - 1) v)
      let limit := (b.get R.TIME_ADJMAX_ADJMAX : Int)
      let bound := fun (v : Int) => if v < -limit then -limit else if limit < v then limit else v
      let i0 := (BitVec.ofNat 32 (b.get R.TIME_INTEG_INTEG)).toInt + theta / 2 ^ b.get R.TIME_SERVO_KISH
      let a0 := theta / 2 ^ b.get R.TIME_SERVO_KPSH + bound i0
      let big := b.flag R.TIME_CTRL_STEPEN = true ∧ b.get R.TIME_STEPTHR_THR * 2 ^ 16 ≤ theta.natAbs
      let near := ∃ t, e.timers.tpAt = some t ∧ (e.ticks < t + 250 ∨ (close = true ∧ e.ticks = t + 250))
      (e.flag R.TIME_CTRL_TPEN = true → ¬near → Gives (.timePortEvent ns frac close dt) s fun t =>
        t.blk.get R.TIME_TPCAP_LO_TNOW = e.tnow % 2 ^ 32 ∧ t.blk.get R.TIME_TPCAP_HI_TNOW = e.tnow / 2 ^ 32 % 2 ^ 32 ∧
          t.blk.get R.TIME_TPREF_LO_NS = ns.toNat % 2 ^ 32 ∧ t.blk.get R.TIME_TPREF_HI_NS = ns.toNat / 2 ^ 32 ∧
          t.blk.get R.TIME_EVT_TPEVT = 1 ∧ t.blk.get R.TIME_STAT_HOLDOVER = 0 ∧
          (t.blk.get R.TIME_OFFS_THETA : Int) = sat off 32 % 2 ^ 32 ∧
          t.blk.timers.tpAt = some e.ticks ∧
          (t.blk.timers.servo = if e.flag R.TIME_CTRL_SERVO then some (sat off 64, e.ticks + 4) else e.timers.servo)) ∧
      (e.flag R.TIME_CTRL_TPEN = false ∨ near → Gives (.timePortEvent ns frac close dt) s fun t => t.blk = e) ∧
      (b.timers.servo = some (theta, due) → due ≤ b.ticks → b.tick.loaded = true → Gives .servoResult s fun t =>
        OnlyTimers [] b t.blk ∧ t.blk.timers.servo = none ∧ t.blk.frac = b.frac) ∧
      (b.timers.servo = some (theta, due) → due ≤ b.ticks → b.tick.loaded = false → b.flag R.TIME_CTRL_SERVO = true →
        (¬big → Gives .servoResult s fun t => t.blk.timers.servo = none ∧
          (t.blk.get R.TIME_INC_INC : Int) = (b.get R.TIME_NOMINC_NOMINC + bound a0) % 2 ^ 32 ∧
          (t.blk.get R.TIME_INTEG_INTEG : Int) = bound i0 % 2 ^ 32 ∧
          t.blk.get R.TIME_STAT_CLAMPED = (if bound i0 = i0 ∧ bound a0 = a0 then 0 else 1) ∧
          (bound i0 ≠ i0 ∨ bound a0 ≠ a0 → t.blk.get R.TIME_EVT_CLAMP = 1)) ∧
        (big → Gives .servoResult s fun t => t.blk.get R.TIME_EVT_STEP = 1 ∧ t.blk.get R.TIME_STAT_LOCKED = 0 ∧
          t.blk.get R.TIME_INC_INC = b.get R.TIME_INC_INC)) ∧
      (b.flag R.TIME_CTRL_TPEN = true → b.get R.TIME_TPGAP_MS ≠ 0 → b.flag R.TIME_STAT_HOLDOVER = false →
        Gives .tpmiss s fun t => t.blk.get R.TIME_EVT_TPMISS = 1 ∧ t.blk.get R.TIME_STAT_HOLDOVER = 1 ∧
          t.blk.get R.TIME_STAT_LOCKED = 0 ∧ (t.blk.get R.TIME_INC_INC : Int) =
            (b.get R.TIME_NOMINC_NOMINC + (BitVec.ofNat 32 (b.get R.TIME_INTEG_INTEG)).toInt) % 2 ^ 32))

/-- R348, R351, R352: the source a claim for a target takes is claimable for it, and of the claimable sources the one with the highest
PRIO, at equal PRIO the lowest number; there is none exactly where no source is claimable. R348, R353: a change of step k belongs to
the present cycle, or to the next one where a later step has been applied or a claim for the same target served; a PENDSET of a level
source is over with its cycle. R348, R352, R354, R356, R359: events, claims and completions at the Distributor, by register and by
strobe. An edge event and a set bit written to PENDSET make a source pending; a level source's sampling ends a PENDSET unless it is
active; a claim clears the winner's PENDING, sets its ACTIVE with the claiming target and answers its claim word; a completion of the
target's own doorbell clears its PENDING, one of a source that it claimed clears ACTIVE, and any other sets BADCPL and nothing else.
RING makes a doorbell or a spare source pending for the Vendor world, and refuses others with 1 and the Tenant world with 8. R357: a
producer whose supply is off makes no event. That commands come in one cycle as long as R353's order allows it, and when a level source
is sampled, is the model's reading (log entries 9 and 12). -/
def Obligations.ClaimsAndDistributor : Prop :=
  (∀ (b : Block) (t : Nat),
      (b.best t = none ↔ ∀ x < 1024, b.claimable t x = false) ∧
        ∀ x, b.best t = some x ↔ x < 1024 ∧ b.claimable t x = true ∧ ∀ y < 1024, b.claimable t y = true →
          b.get (R.prioByte y) < b.get (R.prioByte x) ∨ (b.get (R.prioByte y) = b.get (R.prioByte x) ∧ x ≤ y)) ∧
  (∀ (b : Block) (t k : Nat),
      let fresh' := fun (u : Block) (new : Bool) => { u with regs := b.regs, dcycle := b.dcycle } = b ∧ ∀ y < 1024,
        u.srcBit R.DIST_ACTIVE_ACT y = b.srcBit R.DIST_ACTIVE_ACT y ∧ u.srcBit R.DIST_PENDSET_PEND y =
          (b.srcBit R.DIST_PENDSET_PEND y && !(new && isLevel y && b.dcycle.forced.contains y))
      (b.distAt k).dcycle.step = k ∧ fresh' (b.distAt k) (k < b.dcycle.step) ∧ (b.claimCycle t).dcycle.step = 4 ∧
        (b.claimCycle t).dcycle.served.contains t = false ∧
        fresh' (b.claimCycle t) (4 < b.dcycle.step || b.dcycle.served.contains t)) ∧
  (∀ (n : PE) (t : Fin 144) (x : BitVec 10) (r : Fin 32) (w : W32) (q : Strobe) (s : State),
      let b := s.blk
      let pending := fun (k : Block) (x : Nat) => k.srcBit R.DIST_PENDSET_PEND x
      let active := fun (k : Block) (x : Nat) => k.srcBit R.DIST_ACTIVE_ACT x
      let others := fun (b k : Block) => (∀ y < 1024, y ≠ x.toNat → pending k y = pending b y ∧ active k y = active b y) ∧
        k.mem = b.mem
      let claimed := fun (b : Block) (to' y : Nat) (k : Block) => pending k y = false ∧ active k y = true ∧
        k.claimer.look y = some to' ∧ (∀ z < 1024, z ≠ y → pending k z = pending b z ∧ active k z = active b z) ∧ k.mem = b.mem
      let to' := 2 * n.val + bit q.tenant
      let answer := fun (err : Bool) (v : W64) (u : State) =>
        u.blk.extAns = b.extAns ++ [⟨n, err, some v⟩] ∧ u.blk.strobes = b.strobes.filter (·.pe != n.val)
      (isLevel x.toNat = false → b.srcOn x.toNat = true → Gives (.sourceEvent x) s fun u => pending u.blk x.toNat = true ∧
        active u.blk x.toNat = active b x.toNat ∧ others (b.distAt 1) u.blk) ∧
      (isLevel x.toNat = false → b.srcOn x.toNat = false → Gives (.sourceEvent x) s (Same s)) ∧
      (isLevel x.toNat = true → active b x.toNat = false → Gives (.sourceEvent x) s fun u =>
        pending u.blk x.toNat = false ∧ active u.blk x.toNat = false ∧ others (b.distAt 1) u.blk) ∧
      (isLevel x.toNat = true → active b x.toNat = true → Gives (.sourceEvent x) s fun u => u.blk = b.distAt 1) ∧
      Gives (.distPendset r w) s (fun u =>
        (∀ i < 32, pending u.blk (32 * r + i) = (w.getLsbD i || pending (b.distAt 2) (32 * r + i))) ∧
        (∀ y < 1024, y / 32 ≠ r.val → pending u.blk y = pending (b.distAt 2) y) ∧ (∀ y < 1024, active u.blk y = active b y) ∧
        u.blk.mem = b.mem) ∧
      (∀ y, (b.claimCycle t).best t = some y → Gives (.distClaim t) s fun u => claimed (b.claimCycle t) t y u.blk) ∧
      ((b.claimCycle t).best t = none → Gives (.distClaim t) s fun u => OnlyFields [] (b.claimCycle t) u.blk) ∧
      (x.toNat = 72 + t.val → Gives (.distComplete t x) s fun u => pending u.blk x.toNat = false ∧
        active u.blk x.toNat = active b x.toNat ∧ others (b.distAt 0) u.blk ∧
        u.blk.get (R.DIST_STAT_BADCPL t) = b.get (R.DIST_STAT_BADCPL t)) ∧
      (x.toNat ≠ 72 + t.val → active b x.toNat = true → b.claimer.look x.toNat = some t.val →
        Gives (.distComplete t x) s fun u => active u.blk x.toNat = false ∧ others (b.distAt 3) u.blk ∧
          u.blk.get (R.DIST_STAT_BADCPL t) = b.get (R.DIST_STAT_BADCPL t)) ∧
      (x.toNat ≠ 72 + t.val → (active b x.toNat = false ∨ b.claimer.look x.toNat ≠ some t.val) →
        Gives (.distComplete t x) s fun u => OnlyFields [R.DIST_STAT_BADCPL t] (b.distAt 3) u.blk ∧
          u.blk.get (R.DIST_STAT_BADCPL t) = 1) ∧
      (∀ y, b.strobeOf n 0xC0 = some q → (b.claimCycle to').best to' = some y →
        Gives (.claim n) s fun u => claimed (b.claimCycle to') to' y u.blk ∧ answer false (BitVec.ofNat 64 (2 ^ 31 + y)) u) ∧
      (b.strobeOf n 0xC0 = some q → (b.claimCycle to').best to' = none →
        Gives (.claim n) s fun u => OnlyFields [] (Replied (b.claimCycle to') n false 0) u.blk) ∧
      (b.strobeOf n 0xC1 = some q → q.a.toNat % 1024 = x.toNat →
        (x.toNat = 72 + to' → Gives (.complete n) s fun u => pending u.blk x.toNat = false ∧ others (b.distAt 0) u.blk ∧
          answer false 0 u) ∧
        (x.toNat ≠ 72 + to' → active b x.toNat = true → b.claimer.look x.toNat = some to' →
          Gives (.complete n) s fun u => active u.blk x.toNat = false ∧ others (b.distAt 3) u.blk ∧ answer false 0 u) ∧
        (x.toNat ≠ 72 + to' → (active b x.toNat = false ∨ b.claimer.look x.toNat ≠ some to') →
          Gives (.complete n) s fun u => u.blk.get (R.DIST_STAT_BADCPL to') = 1 ∧ answer true 2 u ∧
            OnlyFields [R.DIST_STAT_BADCPL to'] (Replied (b.distAt 3) n true 2) u.blk)) ∧
      (b.strobeOf n 0xC2 = some q → q.a.toNat % 1024 = x.toNat →
        (isDoorbell x.toNat = true ∨ 448 ≤ x.toNat →
          (q.tenant = false → Gives (.ring n) s fun u => pending u.blk x.toNat = true ∧ others (b.distAt 2) u.blk ∧
            answer false 0 u) ∧
          (q.tenant = true → Gives (.ring n) s fun u => u.blk = Replied b n true 8)) ∧
        (isDoorbell x.toNat = false → x.toNat < 448 → Gives (.ring n) s fun u => u.blk = Replied b n true 1)))

/-- R149, R152, R330, R342 to R345, R517: the engine-side units. A watchdog's first expiry reloads it and makes vector 2 due, the second
one stops and resets the engine and makes its fault source pending; a service with the key 0xA5, by register or strobe, reloads it and
clears EXP1; RGP_COMMIT makes the staged bounds with the written EN and PERM the entry INDEX; a chain entry or a credit arrives;
FLUSHOUT keeps of the entries on their way only a first part, how long is a free value (log entry 47). The watchdog count is free while
it runs (log entry 32), and how many entries FLUSHOUT drops is free (log entry 47). -/
def Obligations.EngineUnits : Prop :=
  ∀ (n : PE) (key : Byte) (en : Bool) (perm : BitVec 12) (c : Fin 8) (j : Fin 7) (q : Strobe) (s : State),
    let b := s.blk
    let e := b.engine n
    let on := b.get (R.PWR_ENG_STATE n) = 2 ∧ b.get (R.peState n) ≠ 3
    let period := b.get (R.ENG_WDG_PERIOD_PERIOD n) % 2 ^ 32
    let served := fun (k : Block) (u : State) => u.blk.get (R.ENG_WDG_CNT_COUNT n) = period ∧
      u.blk.get (R.ENG_WDG_CTRL_EXP1 n) = 0 ∧
      OnlyFields [R.ENG_WDG_CNT_COUNT n, R.ENG_WDG_CTRL_EXP1 n]
        (k.setEngine n { e with wdgDue := false, wdgExact := !b.wdgRuns n }) u.blk
    let i := 8 * c.val + j.val
    let f := b.chainAt i
    (b.wdgRuns n = true → b.flag (R.ENG_WDG_CTRL_EXP1 n) = false → Gives (.watchdogExpiry n) s fun u =>
      u.blk.get (R.ENG_WDG_CNT_COUNT n) = period ∧ u.blk.get (R.ENG_WDG_CTRL_EXP1 n) = 1 ∧
        OnlyFields [R.ENG_WDG_CNT_COUNT n, R.ENG_WDG_CTRL_EXP1 n] (b.setEngine n { e with wdgDue := true, wdgExact := false }) u.blk) ∧
    (b.wdgRuns n = true → b.flag (R.ENG_WDG_CTRL_EXP1 n) = true → Gives (.watchdogExpiry n) s fun u =>
      (u.blk.engine n).running = false ∧ (u.blk.engine n).gV = [] ∧ (u.blk.engine n).cs = e.cs ∧
        u.blk.get (R.ENG_WDG_CNT_COUNT n) = 0 ∧ u.blk.srcBit R.DIST_PENDSET_PEND n = true ∧
        (u.blk.spm.hwQ.any fun r => r.pe == some n.val) = true ∧ u.blk.mem = b.mem) ∧
    (b.wdgRuns n = false → Gives (.watchdogExpiry n) s (Same s)) ∧
    (on → (key = 0xA5 → Gives (.watchdogService n key) s (served b)) ∧
      (key ≠ 0xA5 → Gives (.watchdogService n key) s (Same s)) ∧
      Gives (.rgpCommit n en perm) s (fun u => u.blk = b.setEngine n { e with
        rg := e.rg.put (b.get (R.ENG_RGIDX_INDEX n)) ⟨en, e.rgBase, e.rgLim, perm⟩ }) ∧
      (∀ k, b.leOf n = some k → k % 8 < 7 → Gives (.flushout n) s fun u => ∃ keep ≤ (b.chainAt k).moving.length,
        (u.blk.chainAt k).moving = (b.chainAt k).moving.take keep ∧ (u.blk.chainAt k).shown = (b.chainAt k).shown ∧
          (u.blk.chainAt k).returning + keep = (b.chainAt k).returning + (b.chainAt k).moving.length ∧
          ∀ m, m ≠ k → u.blk.chainAt m = b.chainAt m)) ∧
    (b.strobeOf n 0xA0 = some q → Gives (.service n) s (served (Replied b n false 0))) ∧
    (∀ x xs, f.moving = x :: xs → Gives (.chainEntryArrival c j false) s fun u =>
      u.blk = b.setChain i { f with moving := xs, shown := f.shown ++ [x] }) ∧
    (f.returning ≠ 0 → Gives (.chainEntryArrival c j true) s fun u =>
      u.blk = b.setChain i { f with returning := f.returning - 1, spent := f.spent - 1 }) ∧
    (f.returning = 0 → Gives (.chainEntryArrival c j true) s (Same s))

/-- R388 to R392, R399: an axis's position. In MODE 0 a change of one input moves the position by one, up where A leads B, down where B
leads, DIRINV inverting; both inputs changing at once is the ILLEGAL fault and moves nothing. In MODE 1 a sample whose amplitude is out
of bounds is the AMP fault; a sample in bounds moves the position by the signed difference of its step and the last one's, with OVERSPD
where that is a quarter of a line or more, and the first sample and the one after a lost strobe move nothing. The first increment sets
DIR and DIRVALID; a reversal is recognised REVHYST + 1 past the extreme. LOAD takes PRESET. A port that is not there or off ignores all
of it. DIRINV in MODE 1 and what a rising EN clears are log entry 34, and the phase at a tie is free (log entry 35). -/
def Obligations.AxisPosition : Prop :=
  ∀ (a : Fin 2) (la lb : Bool) (sin cos : BitVec 16) (s : State),
    let b := s.blk
    let x := b.ax a
    let signed := fun (d : Int) => if b.flag (R.AX_CFG_DIRINV a) then -d else d
    let pos := fun (k : Block) => k.get64 (R.AX_POSLO_POS a) (R.AX_POSHI_POS a)
    let moved := fun (d : Int) (k : Block) => (pos k : Int) = (pos b + d) % 2 ^ 64
    let counting := [R.AX_POSLO_POS a, R.AX_POSHI_POS a, R.AX_STAT_DIR a, R.AX_STAT_DIRVALID a, R.AX_STAT_MOVING a,
      R.AX_SPDF_STALE a, R.AX_EVT_REV a]
    let fault := fun (f : Nat → Fld) (fs : List Fld) (k : Block) => k.get (f a) = 1 ∧
      k.get (R.AX_FLTCNT_COUNT a) = (b.get (R.AX_FLTCNT_COUNT a) + 1) % 2 ^ 32 ∧
      Signals ([f a, R.AX_FLTCNT_COUNT a] ++ fs) (315 + 4 * a) { b with axes := k.axes } k
    let stepped := fun (d : Int) (k : Block) => moved d k ∧ (k.ax a).n = x.n + d.natAbs ∧ (k.ax a).net = x.net + d ∧
      k.get (R.AX_STAT_DIRVALID a) ≠ 0 ∧ k.get (R.AX_STAT_MOVING a) ≠ 0 ∧
      (b.flag (R.AX_STAT_DIRVALID a) = false → k.get (R.AX_STAT_DIR a) = (if 0 < d then 1 else 0) ∧
        OnlyAxes counting b k) ∧
      (b.flag (R.AX_STAT_DIRVALID a) = true →
        let up := b.flag (R.AX_STAT_DIR a)
        let back := if up then toSigned x.ext 64 - k.axPos a else k.axPos a - toSigned x.ext 64
        if (b.get (R.AX_CFG_REVHYST a) : Int) + 1 ≤ back then k.get (R.AX_STAT_DIR a) = bit !up ∧ k.get (R.AX_EVT_REV a) = 1 ∧
          Signals counting (313 + 4 * a) { b with axes := k.axes } k
        else k.get (R.AX_STAT_DIR a) = b.get (R.AX_STAT_DIR a) ∧ k.get (R.AX_EVT_REV a) = b.get (R.AX_EVT_REV a) ∧
          OnlyAxes counting b k)
    let vs := sin.toInt - (BitVec.ofNat 16 (b.get (R.AX_SCOFF_OFFS a))).toInt
    let vc := cos.toInt - (BitVec.ofNat 16 (b.get (R.AX_SCOFF_OFFC a))).toInt
    let power := vs * vs + vc * vc
    let inside := (b.get (R.AX_SCAMP_AMPMIN a) : Int) ^ 2 ≤ power ∧ power ≤ (b.get (R.AX_SCAMP_AMPMAX a) : Int) ^ 2
    let i := if 2 ≤ b.get (R.AX_CFG_INTERP a) ∧ b.get (R.AX_CFG_INTERP a) ≤ 12 then b.get (R.AX_CFG_INTERP a) else 12
    let raw := [R.AX_SCRAW_SIN a, R.AX_SCRAW_COS a]
    let quarter := fun (k : Nat) => (vs = 0 → 0 < vc → k = 0) ∧ (0 < vs → vc = 0 → k = 2 ^ (i - 2)) ∧
      (vs = 0 → vc < 0 → k = 2 ^ (i - 1)) ∧ (vs < 0 → vc = 0 → k = 3 * 2 ^ (i - 2))
    (b.axOn a = true → b.flag (R.AX_CFG_MODE a) = false →
      (la ≠ x.lvlA → lb = x.lvlB → Gives (.axisIncrement a la lb) s fun t => stepped (signed (if la = lb then -1 else 1)) t.blk ∧
        (t.blk.ax a).lvlA = la ∧ (t.blk.ax a).lvlB = lb) ∧
      (la = x.lvlA → lb ≠ x.lvlB → Gives (.axisIncrement a la lb) s fun t =>
        stepped (signed (if la = lb then 1 else -1)) t.blk ∧ (t.blk.ax a).lvlA = la ∧ (t.blk.ax a).lvlB = lb) ∧
      (la ≠ x.lvlA → lb ≠ x.lvlB → Gives (.axisIncrement a la lb) s fun t => fault R.AX_EVT_ILLEGAL [] t.blk ∧
        (t.blk.ax a).lvlA = la ∧ (t.blk.ax a).lvlB = lb) ∧
      Gives (.sincosSample a sin cos) s (Same s) ∧ Gives (.samplost a) s (Same s)) ∧
    (b.axOn a = true → b.flag (R.AX_CFG_MODE a) = true →
      (¬inside → Gives (.sincosSample a sin cos) s fun t => fault R.AX_EVT_AMP raw t.blk ∧ t.blk.axes = b.axes) ∧
      (inside → Gives (.sincosSample a sin cos) s fun t => t.blk.get (R.AX_SCRAW_SIN a) = sin.toNat ∧
        t.blk.get (R.AX_SCRAW_COS a) = cos.toNat ∧ ∃ k < 2 ^ i, (t.blk.ax a).phi = some k ∧ quarter k ∧
          (x.phi = none → OnlyAxes raw { b with fresh := t.blk.fresh } t.blk) ∧
          ∀ p, x.phi = some p →
            let d := Int.bmod ((k : Int) - (p : Int)) (2 ^ i)
            moved (signed d) t.blk ∧ (t.blk.get (R.AX_EVT_OVERSPD a) =
              if ((2 ^ (i - 2) : Nat) : Int) ≤ |d| then 1 else b.get (R.AX_EVT_OVERSPD a)) ∧ t.blk.mem = b.mem) ∧
      Gives (.samplost a) s (fun t => fault R.AX_EVT_SAMPLOST [] t.blk ∧ (t.blk.ax a).phi = none) ∧
      Gives (.axisIncrement a la lb) s (fun t => OnlyAxes [] b t.blk)) ∧
    (b.axHere a = false → Gives (.axisIncrement a la lb) s (Same s) ∧ Gives (.sincosSample a sin cos) s (Same s) ∧
      Gives (.samplost a) s (Same s) ∧ Gives (.axisLoad a) s (Same s)) ∧
    (b.axHere a = true → Gives (.axisLoad a) s fun t => (t.blk.ax a).n = x.n ∧ (t.blk.ax a).net = x.net ∧
      pos t.blk = b.get64 (R.AX_PRESET_LO_POS a) (R.AX_PRESET_HI_POS a) % 2 ^ 64)

/-- R393 to R399: speed windows, index, probe and encoder emulation. A window's end answers standstill, nothing for the first window or
the one in which motion began, and otherwise the signed sum, saturated; REVWIN tells of a reversal and WSEQ counts. An index latches
position and error and then homes, corrects within IDXTOL, or faults. A probe latches position and TNOW less 8 ns and a read of PRBLO
snapshots them. The emulated count follows by single steps. CNTCLR clears the two counters. EMUDIV + 1 is the model's reading, log entry
36. -/
def Obligations.AxisMeasures : Prop :=
  ∀ (a : Fin 2) (win : BitVec 17) (rising : Bool) (dt : W32) (s : State),
    let b := s.blk
    let x := b.ax a
    let raw := fun (k : Block) => k.get64 (R.AX_POSLO_POS a) (R.AX_POSHI_POS a)
    let fresh := fun (k : Block) => k.get (R.AX_SPD_SPD a) = 0 ∧ k.get (R.AX_SPDF_STALE a) = 1 ∧ k.get (R.AX_STAT_MOVING a) = 0
    let window := [R.AX_SPD_SPD a, R.AX_SPDF_STALE a, R.AX_STAT_MOVING a]
    let per := b.get (R.AX_IDXPER_PER a)
    let home := toSigned (b.get (R.AX_IDXREF_REF a)) 32
    let indexed := fun (err : Int) (k : Block) => (per = 0 → err = 0) ∧
      (per ≠ 0 → (per : Int) ∣ b.axPos a - home - err ∧ -(per : Int) ≤ 2 * err ∧ 2 * err < per) ∧
      k.get (R.AX_IDXPOS_POS a) = b.get (R.AX_POSLO_POS a) % 2 ^ 32 ∧ (k.get (R.AX_IDXERR_ERR a) : Int) = err % 2 ^ 32 ∧
      k.get (R.AX_IDXCNT_COUNT a) = (b.get (R.AX_IDXCNT_COUNT a) + 1) % 2 ^ 16 ∧ k.get (R.AX_EVT_INDEX a) = 1 ∧
      k.srcBit R.DIST_PENDSET_PEND (312 + 4 * a) = true ∧ k.mem = b.mem
    let e := b.elapse dt.toNat
    let steps := b.axPos a / (b.get (R.AX_EMUCFG_EMUDIV a) + 1)
    (b.axOn a = true → Gives (.speedWindowEnd a) s fun t =>
      OnlyAxes ([R.AX_SPDF_REVWIN a, R.AX_SPDF_WSEQ a] ++ window) b t.blk ∧
        t.blk.get (R.AX_SPDF_WSEQ a) = (b.get (R.AX_SPDF_WSEQ a) + 1) % 2 ^ 16 ∧
        t.blk.get (R.AX_SPDF_REVWIN a) = bit x.rev ∧ (t.blk.ax a).n = 0 ∧ (t.blk.ax a).net = 0 ∧ (t.blk.ax a).rev = false ∧
        (x.n = 0 → t.blk.get (R.AX_SPD_SPD a) = 0 ∧ t.blk.get (R.AX_SPDF_STALE a) = 0 ∧ t.blk.get (R.AX_STAT_MOVING a) = 0) ∧
        (x.n ≠ 0 → t.blk.get (R.AX_STAT_MOVING a) = b.get (R.AX_STAT_MOVING a) ∧
          (x.young = true → t.blk.get (R.AX_SPD_SPD a) = 0 ∧ t.blk.get (R.AX_SPDF_STALE a) = 1) ∧
          (x.young = false → t.blk.get (R.AX_SPDF_STALE a) = 0 ∧
            (t.blk.get (R.AX_SPD_SPD a) : Int) = max (-0x7FFFFFFF) (min 0x7FFFFFFF x.net) % 2 ^ 32))) ∧
    (b.axOn a = false → Gives (.speedWindowEnd a) s (Same s)) ∧
    (b.axHere a = true →
      Gives (.spdwinWrite a win) s (fun t => fresh t.blk ∧ t.blk.get (R.AX_SPDWIN_WIN a) = win.toNat ∧
        OnlyAxes (R.AX_SPDWIN_WIN a :: window) b t.blk ∧ (t.blk.ax a).n = 0 ∧ (t.blk.ax a).net = 0) ∧
      (b.flag (R.AX_CFG_IDXEN a) = true → Gives (.index a) s fun t => ∃ err : Int, indexed err t.blk ∧
        (if b.flag (R.AX_CFG_IDXHOME a) then (raw t.blk : Int) = home % 2 ^ 64 ∧ t.blk.get (R.AX_CFG_IDXHOME a) = 0 ∧
          t.blk.get (R.AX_FLTCNT_COUNT a) = b.get (R.AX_FLTCNT_COUNT a)
        else if b.flag (R.AX_CFG_IDXCORR a) = true ∧ err.natAbs ≤ b.get (R.AX_IDXTOL_TOL a) then
          (err ≠ 0 → (raw t.blk : Int) = (raw b - err) % 2 ^ 64 ∧ t.blk.get (R.AX_IDXCNT_ADJCNT a) =
            min (b.get (R.AX_IDXCNT_ADJCNT a) + 1) 0xFFFF) ∧
          (err = 0 → raw t.blk = raw b ∧ t.blk.get (R.AX_IDXCNT_ADJCNT a) = b.get (R.AX_IDXCNT_ADJCNT a)) ∧
          t.blk.get (R.AX_FLTCNT_COUNT a) = b.get (R.AX_FLTCNT_COUNT a)
        else raw t.blk = raw b ∧ (err ≠ 0 → t.blk.get (R.AX_EVT_IDXERR a) = 1 ∧
          t.blk.srcBit R.DIST_PENDSET_PEND (315 + 4 * a) = true ∧
          t.blk.get (R.AX_FLTCNT_COUNT a) = (b.get (R.AX_FLTCNT_COUNT a) + 1) % 2 ^ 32))) ∧
      (b.flag (R.AX_CFG_IDXEN a) = false → Gives (.index a) s (Same s)) ∧
      Gives (.prbloRead a) s (fun t => t.blk.get (R.AX_PRBHI_POS a) = x.prb.1 / 2 ^ 32 % 2 ^ 32 ∧
        t.blk.get (R.AX_PRBT_LO_TNOW a) = x.prb.2 % 2 ^ 32 ∧ t.blk.get (R.AX_PRBT_HI_TNOW a) = x.prb.2 / 2 ^ 32 % 2 ^ 32 ∧
        t.blk.get (R.AX_STAT_PRBNEW a) = 0 ∧
        OnlyFields [R.AX_PRBHI_POS a, R.AX_PRBT_LO_TNOW a, R.AX_PRBT_HI_TNOW a, R.AX_STAT_PRBNEW a] b t.blk) ∧
      (b.flag (R.AX_EMUCFG_EMUEN a) = true → Gives (.emulatorStep a) s fun t =>
        (t.blk.ax a).emu = x.emu + (if x.emu < steps then 1 else if steps < x.emu then -1 else 0) ∧
          (x.emu ≠ steps → (t.blk.get (R.AX_EMUCNT_E a) : Int) = (t.blk.ax a).emu % 2 ^ 32) ∧
          OnlyAxes [R.AX_EMUCNT_E a] b t.blk) ∧
      (b.flag (R.AX_EMUCFG_EMUEN a) = false → Gives (.emulatorStep a) s (Same s)) ∧
      Gives (.cntclr a) s (fun t => OnlyFields [R.AX_IDXCNT_ADJCNT a, R.AX_FLTCNT_COUNT a] b t.blk ∧
        t.blk.get (R.AX_IDXCNT_ADJCNT a) = 0 ∧ t.blk.get (R.AX_FLTCNT_COUNT a) = 0)) ∧
    (e.axHere a = true → e.flag (R.AX_CFG_PRBEN a) = true → rising ≠ e.flag (R.AX_CFG_PRBPOL a) →
      Gives (.probe a rising dt) s fun t => t.blk.get (R.AX_STAT_PRBNEW a) = 1 ∧
        t.blk.get (R.AX_EVT_PRBOVR a) = (if e.flag (R.AX_STAT_PRBNEW a) then 1 else e.get (R.AX_EVT_PRBOVR a)) ∧
        t.blk.get (R.AX_PRBLO_POS a) = e.get (R.AX_POSLO_POS a) % 2 ^ 32 ∧ (t.blk.ax a).prb.1 = raw e ∧
        ((t.blk.ax a).prb.2 : Int) = ((e.tnow : Int) - 8) % 2 ^ 64 ∧
        Signals [R.AX_STAT_PRBNEW a, R.AX_EVT_PRBOVR a, R.AX_PRBLO_POS a] (314 + 4 * a) { e with axes := t.blk.axes } t.blk) ∧
    (e.axHere a = false ∨ rising = e.flag (R.AX_CFG_PRBPOL a) ∨ e.flag (R.AX_CFG_PRBEN a) = false →
      Gives (.probe a rising dt) s fun t => t.blk = e)

/-- R402, R403, R405 to R407, R409: Crema. A pending slot that has aged is freed and counted; LOOKUP answers a slot that this logical
engine holds for the frame or the oldest pending one and holds it, and a miss is counted; CONSUME frees a slot this logical engine holds
and has the next census cover its frame, and any other is refused with 1; COUNT counts the warnings; a Tenant strobe is refused with 8;
SLOTCLR frees one slot or all. Each is taken in its place in R406's order: in the present tick, or in the next where a later step has
been taken in it (log entry 12). -/
def Obligations.Crema : Prop :=
  ∀ (n : PE) (slot : BitVec 10) (all : Bool) (q : Strobe) (s : State),
    let b := s.blk
    let i := slot.toNat
    let at' := fun (k : Block) (j : Nat) => k.crema.look j
    let le := b.strobeLe q
    let frame := q.a.toNat % 2 ^ 32
    let mine := fun (c : CSlot) => c.frame = frame ∧ c.held = some le
    let free := fun (c : CSlot) => c.frame = frame ∧ c.held = none
    let up := fun (w : Nat) (f : Fld) (k : Block) => k.get f = (b.get f + bit (q.a.toNat.testBit w)) % 2 ^ 32 ∨ b.get f = k.get f ∧
      q.a.toNat.testBit w = false
    let seen := b.cremaAt 3 le
    let clr := b.cremaAt 1 0
    (b.crema.Pairwise fun x y => x.1 < y.1) →
    (∀ c, at' b i = some c → c.held = none → b.get R.CREMA_CTRL_AGE ≠ 0 → Gives (.slotAged slot) s fun t =>
      let due := c.born + b.get R.CREMA_CTRL_AGE * 2 ^ 16
      let k := (b.elapse (due - b.ticks)).cremaAt 4 0
      at' t.blk i = none ∧ (∀ j, j ≠ i → at' t.blk j = at' k j) ∧
        (at' k i = some c → t.blk.get R.CREMA_AGED_COUNT = (k.get R.CREMA_AGED_COUNT + 1) % 2 ^ 32 ∧
          t.blk.get R.CREMA_EVT_AGED = 1 ∧
          OnlyFields [R.CREMA_AGED_COUNT, R.CREMA_EVT_AGED] { k with crema := t.blk.crema } t.blk) ∧
        (at' k i ≠ some c → t.blk = k)) ∧
    ((∀ c, at' b i = some c → c.held ≠ none) ∨ b.get R.CREMA_CTRL_AGE = 0 → Gives (.slotAged slot) s (Same s)) ∧
    (b.strobeOf n 0x60 = some q → q.tenant = false →
      (Gives (.lookup n) s fun t => (∃ j c, at' seen j = some c ∧ (mine c ∨ free c ∧ (∀ k d, at' seen k = some d → ¬mine d ∧
          (free d → c.order ≤ d.order))) ∧ at' t.blk j = some { c with held := some le } ∧
          (∀ k, k ≠ j → at' t.blk k = at' seen k) ∧
          t.blk = { Replied seen n false (BitVec.ofNat 64 (j + 2 ^ 16)) with crema := t.blk.crema }) ∨
        (∀ k d, at' seen k = some d → ¬mine d ∧ ¬free d) ∧ t.blk.crema = seen.crema ∧
          t.blk.get R.CREMA_MISS_COUNT = (seen.get R.CREMA_MISS_COUNT + 1) % 2 ^ 32 ∧ t.blk.get R.CREMA_EVT_NOSLOT = 1 ∧
          ((∃ k d, at' seen k = some d ∧ d.frame = frame) → t.blk.get R.CREMA_EVT_DUP = 1) ∧
          OnlyFields [R.CREMA_MISS_COUNT, R.CREMA_EVT_NOSLOT, R.CREMA_EVT_DUP] (Replied seen n false 0) t.blk)) ∧
    (b.strobeOf n 0x61 = some q → q.tenant = false →
      (∀ c, at' clr (q.a.toNat % 1024) = some c → c.held = some le → Gives (.consume n) s fun t =>
        at' t.blk (q.a.toNat % 1024) = none ∧ (∀ j, j ≠ q.a.toNat % 1024 → at' t.blk j = at' clr j) ∧
          t.blk.rport.frames = clr.rport.frames ++ [c.frame] ∧
          { t.blk with rport := clr.rport } = { Replied clr n false 0 with crema := t.blk.crema }) ∧
      ((∀ c, at' clr (q.a.toNat % 1024) = some c → c.held ≠ some le) → Gives (.consume n) s fun t =>
        t.blk = Replied b n true 1)) ∧
    (b.strobeOf n 0x62 = some q → q.tenant = false → Gives (.count n) s fun t =>
      up 0 R.CREMA_LSHORT_COUNT t.blk ∧ up 1 R.CREMA_LLONG_COUNT t.blk ∧ up 2 R.CREMA_HDRBAD_COUNT t.blk ∧
        (q.a.toNat.testBit 0 = true ∨ q.a.toNat.testBit 1 = true → t.blk.get R.CREMA_EVT_LEN = 1) ∧
        (q.a.toNat.testBit 2 = true → t.blk.get R.CREMA_EVT_HDRBAD = 1) ∧
        OnlyFields [R.CREMA_LSHORT_COUNT, R.CREMA_LLONG_COUNT, R.CREMA_HDRBAD_COUNT, R.CREMA_EVT_LEN, R.CREMA_EVT_HDRBAD]
          (Replied b n false 0) t.blk) ∧
    (q.tenant = true → (b.strobeOf n 0x60 = some q → Gives (.lookup n) s fun t => t.blk = Replied b n true 8) ∧
      (b.strobeOf n 0x61 = some q → Gives (.consume n) s fun t => t.blk = Replied b n true 8) ∧
      (b.strobeOf n 0x62 = some q → Gives (.count n) s fun t => t.blk = Replied b n true 8)) ∧
    (b.winOff R.CREMA_SLOTCLR_ALL.off = false → Gives (.slotclr all slot) s fun t => t.blk = { clr with crema := t.blk.crema } ∧
      (all = true → t.blk.crema = []) ∧ (all = false → at' t.blk i = none ∧ ∀ j, j ≠ i → at' t.blk j = at' clr j))

/-- R413, R416 to R418: the steps that move data, each in a sequencer cycle that fetches it. PINS writes OUT or OE through its mask, and
CONTEND is set where a drive is ignored; WAITFOR completes with its strobe, event and CLR where its condition holds and stalls
otherwise; SEND drives its group from SER, with zeros for bits that are missing, or stalls for a word; TAKE shifts the samples into DES
and delivers it at DLEN, or stalls at a full FIFO; LOADS and STORED move a word or stall. Other words do nothing here. Bits beyond eight
pins are free (log entry 37), and a SEND that stalls with CONT is log entry 70. -/
def Obligations.PinSteps : Prop :=
  ∀ (n : Fin 16) (pins : W32) (w : Nat) (s : State), s.blk.psNext n = some w → psReserved w = false →
    let b := s.blk
    let v := { b with psio := pins.toNat }
    let op := w / 2 ^ 28 % 16
    let next := (b.get (R.PS_STAT_PC n) + 1) % 64
    let level := fun (i : Nat) => pins.toNat.testBit ((b.get (R.PS_CTRL_PINBASE n) + i % 8) % 32)
    let p := b.ps n
    let ended := fun (k : Block) (q : PinSeq) => k.psDone n w next q
    let stalled := fun (bits : List Bool) (c k : Block) => k.get (R.PS_STAT_STALL n) = 1 ∧ OnlyPs n [R.PS_STAT_STALL n] c k ∧
      k.ps n = { p with stall := some ⟨w, false, bits⟩ }
    let contended := fun (k : Block) => ∀ m < 16, (k.psIgnored m → k.get (R.PS_EVT_CONTEND m) = 1) ∧
      (¬k.psIgnored m → k.get (R.PS_EVT_CONTEND m) = b.get (R.PS_EVT_CONTEND m))
    let contends := (List.range 16).map R.PS_EVT_CONTEND
    let out := fun (k : Block) (j : Nat) => (k.get (R.PS_PINST_OUT n)).testBit j
    let oe := fun (k : Block) (j : Nat) => (k.get (R.PS_PINST_OE n)).testBit j
    let N := bitsOf w 15 5 + 1
    let f := bitsOf w 12 3
    let scnt := b.get (R.PS_STAT_SCNT n)
    let ser := b.get (R.PS_SER_SER n)
    let lsb := b.flag (R.PS_FRMCFG_SLSB n)
    let fromSer := fun (i : Nat) => decide (i < scnt) && (if lsb then ser.testBit i else ser.testBit (scnt - 1 - i))
    let dcnt := min (b.get (R.PS_STAT_DCNT n) + N) 32
    let due := w.testBit 11 && decide (frameLen (b.get (R.PS_FRMCFG_DLEN n)) ≤ dcnt)
    let samples := (List.range N).map fun i => level (f + i)
    let des := desShift (b.flag (R.PS_FRMCFG_DLSB n)) p.des samples
    let holds := match bitsOf w 18 2 with
      | 0 => level (bitsOf w 0 4)
      | 1 => b.psFlag (bitsOf w 0 4)
      | 2 => !p.sndf.isEmpty || scnt != 0
      | _ => b.get (R.psTally n (bitsOf w 0 4)) != 0
    (op = 0 → Gives (.psPins n) s fun t => ended t.blk p ∧ contended t.blk ∧ (∀ j < 8,
      out t.blk j = (if w.testBit 19 = false ∧ w.testBit (8 + j) = true then w.testBit j else out b j) ∧
      oe t.blk j = (if w.testBit 19 = true ∧ w.testBit (8 + j) = true then w.testBit j else oe b j)) ∧
      OnlyPs n ([R.PS_PINST_OUT n, R.PS_PINST_OE n] ++ contends ++ psStat n) b t.blk) ∧
    (op ≠ 0 → Gives (.psPins n) s (Same s)) ∧
    (op = 1 → (bitsOf w 18 2 = 3 → bitsOf w 0 4 < 4) →
      (holds = w.testBit 17 → Gives (.psWaitfor n pins) s fun t => ended t.blk p ∧ t.blk.mem = b.mem ∧
        (∀ i < 16, t.blk.psFlag i = (b.psFlag i && !(w.testBit 14 && i == bitsOf w 0 4))) ∧
        (w.testBit 15 = true → t.blk.srcBit R.DIST_PENDSET_PEND (296 + n) = true) ∧
        (w.testBit 15 = false → w.testBit 16 = false → OnlyPs n (R.PS_FLAGS_FLAGS :: psStat n) v t.blk)) ∧
      (holds ≠ w.testBit 17 → Gives (.psWaitfor n pins) s fun t => stalled [] v t.blk)) ∧
    (op = 2 →
      (N ≤ scnt ∨ w.testBit 10 = false → Gives (.psSend n) s fun t => ended t.blk p ∧ contended t.blk ∧
        t.blk.get (R.PS_STAT_SCNT n) = (scnt - N) % 2 ^ 6 ∧ (lsb = false → t.blk.get (R.PS_SER_SER n) = ser % 2 ^ 32) ∧
        (lsb = true → t.blk.get (R.PS_SER_SER n) = ser / 2 ^ min N scnt % 2 ^ 32) ∧
        OnlyPs n ([R.PS_PINST_OUT n, R.PS_PINST_OE n, R.PS_STAT_SCNT n, R.PS_SER_SER n] ++ contends ++ psStat n)
          { b with fresh := t.blk.fresh } t.blk ∧
        (N ≤ 8 → t.blk.fresh = b.fresh ∧ (∀ i < N, (w.testBit 11 = false → out t.blk ((f + i) % 8) = fromSer i ∧
            oe t.blk ((f + i) % 8) = oe b ((f + i) % 8)) ∧
            (w.testBit 11 = true → out t.blk ((f + i) % 8) = false ∧ oe t.blk ((f + i) % 8) = !fromSer i)) ∧
          ∀ j < 8, (∀ i < N, j ≠ (f + i) % 8) → out t.blk j = out b j ∧ oe t.blk j = oe b j)) ∧
      (scnt < N → w.testBit 10 = true → p.sndf = [] → Gives (.psSend n) s fun t => stalled [] b t.blk) ∧
      (∀ x xs, scnt < N → w.testBit 10 = true → p.sndf = x :: xs → N - scnt ≤ frameLen (b.get (R.PS_FRMCFG_SLEN n)) →
        frameLen (b.get (R.PS_FRMCFG_SLEN n)) < 64 → Gives (.psSend n) s fun t => ended t.blk { p with sndf := xs } ∧
          t.blk.get (R.PS_STAT_SCNT n) = frameLen (b.get (R.PS_FRMCFG_SLEN n)) - (N - scnt) ∧ t.blk.mem = b.mem)) ∧
    (op = 3 →
      (due = false → Gives (.psTake n pins) s fun t => ended t.blk { p with des := des } ∧
        t.blk.get (R.PS_STAT_DCNT n) = dcnt ∧ OnlyPs n (R.PS_STAT_DCNT n :: psStat n) v t.blk) ∧
      (due = true → p.rcvf.length < 16 → Gives (.psTake n pins) s fun t =>
        ended t.blk { p with des := 0, rcvf := p.rcvf ++ [des] } ∧ t.blk.get (R.PS_STAT_DCNT n) = 0 ∧
        OnlyPs n (R.PS_STAT_DCNT n :: psStat n) v t.blk) ∧
      (due = true → 16 ≤ p.rcvf.length → Gives (.psTake n pins) s fun t => stalled samples v t.blk) ∧
      (∀ j < 32, des.testBit j = if b.flag (R.PS_FRMCFG_DLSB n) = false then
          (if j < N then level (f + (N - 1 - j)) else p.des.testBit (j - N))
        else if 32 ≤ j + N then level (f + (j + N - 32)) else p.des.testBit (j + N))) ∧
    (op = 4 → (∀ x xs, p.sndf = x :: xs → Gives (.psLoads n) s fun t => ended t.blk { p with sndf := xs } ∧
        t.blk.get (R.PS_SER_SER n) = x % 2 ^ 32 ∧ t.blk.get (R.PS_STAT_SCNT n) = frameLen (b.get (R.PS_FRMCFG_SLEN n)) % 2 ^ 6 ∧
        OnlyPs n ([R.PS_SER_SER n, R.PS_STAT_SCNT n] ++ psStat n) b t.blk) ∧
      (p.sndf = [] → Gives (.psLoads n) s fun t => stalled [] b t.blk)) ∧
    (op = 5 → (p.rcvf.length < 16 → Gives (.psStored n) s fun t =>
        ended t.blk { p with rcvf := p.rcvf ++ [p.des], des := 0 } ∧ t.blk.get (R.PS_STAT_DCNT n) = 0 ∧
        OnlyPs n (R.PS_STAT_DCNT n :: psStat n) b t.blk) ∧
      (16 ≤ p.rcvf.length → Gives (.psStored n) s fun t => stalled [] b t.blk))

/-- R402, R416, R417: the steps that compute and branch. TALLY sets or adds; REPEAT counts down and jumps while its tally is not 0;
BRANCH jumps where its condition holds; FLAG changes one shared flag; FLAG and STROBE send their event, and STROBE its strobe to Crema,
which counts a frame and fills the lowest free slot or counts a lost one; HALT and a reserved word stop the sequencer, with an event;
PAUSE stalls, and its stall's end completes it. A dwell's end clears DWELLING. Unnamed bits of ARG, HALT and RESTART are read as log
entry 37 says. -/
def Obligations.PinControl : Prop :=
  ∀ (n : Fin 16) (pins : W32) (w : Nat) (s : State), (s.blk.crema.Pairwise fun x y => x.1 < y.1) →
    let b := s.blk
    let v := { b with psio := pins.toNat }
    let pc := b.get (R.PS_STAT_PC n)
    let p := b.ps n
    let next := (pc + 1) % 64
    let op := w / 2 ^ 28 % 16
    let tally := R.psTally n (bitsOf w 18 2)
    let target := bitsOf w 0 6
    let level := fun (i : Nat) => pins.toNat.testBit ((b.get (R.PS_CTRL_PINBASE n) + i % 8) % 32)
    let matched := (b.ps n).des &&& b.get (R.PS_FRMCFG_MMASK n) == b.get (R.PS_FRMCFG_MVAL n)
    let holds := [true, level (bitsOf w 8 4), !level (bitsOf w 8 4), b.psFlag (bitsOf w 8 4), !b.psFlag (bitsOf w 8 4),
      b.get (R.PS_STAT_SCNT n) == 0, (b.ps n).sndf.isEmpty, decide (16 ≤ (b.ps n).rcvf.length), matched, !matched]
    let stopped := fun (bad : Bool) (k : Block) => k.get (R.PS_STAT_PC n) = next ∧ k.get (R.PS_STAT_HALTED n) = 1 ∧
      k.get (R.PS_EVT_HALT n) = 1 ∧ k.get (R.PS_EVT_BADOP n) = (if bad then 1 else b.get (R.PS_EVT_BADOP n)) ∧
      k.ps n = { p with stall := none } ∧
        Signals [R.PS_STAT_PC n, R.PS_STAT_STALL n, R.PS_STAT_HALTED n, R.PS_EVT_HALT n, R.PS_EVT_BADOP n]
        (296 + n) { b with pinseq := k.pinseq } k
    let heard := b.get R.CREMA_CTRL_EN ≠ 0 ∧ b.get R.CREMA_CTRL_TRIGPS = n
    let triggered := fun (k : Block) => k.get R.CREMA_FRAME_NEXT = (b.get R.CREMA_FRAME_NEXT + 1) % 2 ^ 32 ∧
      k.get R.CREMA_TRIGCNT_COUNT = (b.get R.CREMA_TRIGCNT_COUNT + 1) % 2 ^ 32 ∧
      (∀ i < 1024, b.crema.look i = none → (∀ j < i, b.crema.look j ≠ none) →
        (∃ c, k.crema.look i = some c ∧ c.held = none ∧ c.frame = b.get R.CREMA_FRAME_NEXT) ∧
          (∀ j, j ≠ i → k.crema.look j = b.crema.look j) ∧ k.get R.CREMA_LOST_COUNT = b.get R.CREMA_LOST_COUNT) ∧
      ((∀ i < 1024, b.crema.look i ≠ none) → k.crema = b.crema ∧ k.get R.CREMA_EVT_SLOTFULL = 1 ∧
        k.get R.CREMA_LOST_COUNT = (b.get R.CREMA_LOST_COUNT + 1) % 2 ^ 32)
    (b.psNext n = some w → psReserved w = false →
      (op = 6 → Gives (.psTally n) s fun t => t.blk.psDone n w next p ∧ OnlyPs n (tally :: psStat n) b t.blk ∧
        t.blk.get tally = (if bitsOf w 16 2 = 0 then w else if bitsOf w 16 2 = 1 then (b.ps n).des else b.get tally + w) % 2 ^ 16) ∧
      (op = 7 → (b.get tally ≠ 0 → Gives (.psRepeat n) s fun t => t.blk.psDone n w target p ∧
          t.blk.get tally = (b.get tally - 1) % 2 ^ 16 ∧ OnlyPs n (tally :: psStat n) b t.blk) ∧
        (b.get tally = 0 → Gives (.psRepeat n) s fun t => t.blk.psDone n w next p ∧ OnlyPs n (psStat n) b t.blk)) ∧
      (op = 8 → Gives (.psBranch n pins) s fun t => OnlyPs n (psStat n) v t.blk ∧
        t.blk.psDone n w (if holds.getD (bitsOf w 16 4) false then target else next) p) ∧
      (op = 9 → Gives (.psFlag n) s fun t => t.blk.psDone n w next p ∧ t.blk.mem = b.mem ∧
        (∀ i < 16, t.blk.psFlag i = if i = bitsOf w 0 4 then w.testBit 19 else b.psFlag i) ∧
        (w.testBit 18 = false → OnlyPs n (R.PS_FLAGS_FLAGS :: psStat n) b t.blk) ∧
        (w.testBit 18 = true → t.blk.srcBit R.DIST_PENDSET_PEND (296 + n) = true)) ∧
      (op = 10 → Gives (.psStrobe n) s fun t => t.blk.psDone n w next p ∧ t.blk.mem = b.mem ∧
        (w.testBit 0 = true → t.blk.srcBit R.DIST_PENDSET_PEND (296 + n) = true) ∧
        (w.testBit 1 = true → heard → triggered t.blk) ∧
        (w.testBit 0 = false → (w.testBit 1 = false ∨ ¬heard) → OnlyPs n (psStat n) b t.blk)) ∧
      (op = 11 → Gives (.psHalt n) s fun t => stopped false t.blk) ∧
      (op = 12 → Gives (.psPause n) s fun t => t.blk.get (R.PS_STAT_STALL n) = 1 ∧
        t.blk.ps n = { p with stall := some ⟨w, false, []⟩ } ∧ OnlyPs n [R.PS_STAT_STALL n] b t.blk)) ∧
    (b.psNext n = some w → psReserved w = true → Gives (.psBadop n) s fun t => stopped true t.blk) ∧
    (b.psNext n = none → Gives (.psHalt n) s (Same s)) ∧
    (b.pd4 = true → b.flag (R.PS_CTRL_EN n) = true →
      (∀ st, (b.ps n).stall = some st → st.word / 2 ^ 28 % 16 = 12 → Gives (.psStallEnd n pins) s fun t =>
        t.blk.psDone n st.word ((if st.inj then pc else pc + 1) % 64) p ∧ OnlyPs n (psStat n) v t.blk) ∧
      (b.get (R.PS_STAT_DWELLING n) ≠ 0 → Gives (.psDwellEnd n) s fun t =>
        t.blk.get (R.PS_STAT_DWELLING n) = 0 ∧ OnlyPs n [R.PS_STAT_DWELLING n] b t.blk ∧ t.blk.ps n = { p with dwell := 0 }))

/-- R402 to R423: the sequencers' registers. STEPDATA writes one step and advances; a push to a full send FIFO sets SQOVR, a read of
an empty receive FIFO RQRDE; RESTART and FIFOCLR clear what they name; PS_FLAGS sets what it sets and clears the rest that it
clears; GO starts the sequencers of MASK, in the next tick or when TNOW reaches TMR_GAT, STOP stops them. INJECT leaves a word that
executes at a boundary, or at once with INJ_FORCE, when a stalled step is abandoned; a second INJECT replaces the first. GO with
STOP is the model's choice, log entry 37. -/
def Obligations.PinRegisters : Prop :=
  ∀ (n : Fin 16) (pins w : W32) (timed : Bool) (mask : BitVec 16) (s : State),
    let b := s.blk
    let v := { b with psio := pins.toNat }
    let p := b.ps n
    let on := fun (f : Fld) => b.winOff f.off = false
    let addr := b.get (R.PS_STEPADDR_ADDR n)
    let running := fun (m : BitVec 16) (k : Block) => ∀ i < 16, (m.getLsbD i = true → k.get (R.PS_CTRL_EN i) = 1 ∧
      (k.ps i).div = 0) ∧ (m.getLsbD i = false → k.get (R.PS_CTRL_EN i) = b.get (R.PS_CTRL_EN i) ∧
        k.ps i = { b.ps i with div := (k.ps i).div })
    let ens := (List.range 16).map R.PS_CTRL_EN
    let group := [R.PS_GCTRL_TIMED, R.PS_GCTRL_MASK, R.PS_GCTRL_PEND]
    let held := fun (k : Block) => k.get (R.PS_STAT_INJ_PEND n) = 0 ∧ k.get (R.PS_STAT_HALTED n) = 0 ∧ k.mem = b.mem
    (on (R.PS_STEPDATA_WORD n) → Gives (.psStepdataWrite n w) s fun t =>
      t.blk.get (R.PS_STEPADDR_ADDR n) = (addr + 1) % 64 ∧ t.blk.ps n = { p with steps := p.steps.put addr w.toNat } ∧
        OnlyPs n [R.PS_STEPADDR_ADDR n] b t.blk) ∧
    (on (R.PS_SNDF_DATA n) →
      (p.sndf.length < 16 → Gives (.psSndfPush n w) s fun t => t.blk.ps n = { p with sndf := p.sndf ++ [w.toNat] } ∧
        OnlyPs n [] b t.blk) ∧
      (16 ≤ p.sndf.length → Gives (.psSndfPush n w) s fun t => t.blk.get (R.PS_EVT_SQOVR n) = 1 ∧
        OnlyFields [R.PS_EVT_SQOVR n] b t.blk)) ∧
    (on (R.PS_RCVF_DATA n) →
      (∀ x xs, p.rcvf = x :: xs → Gives (.psRcvfRead n) s fun t => t.blk.ps n = { p with rcvf := xs } ∧ OnlyPs n [] b t.blk) ∧
      (p.rcvf = [] → Gives (.psRcvfRead n) s fun t => t.blk.get (R.PS_EVT_RQRDE n) = 1 ∧ OnlyFields [R.PS_EVT_RQRDE n] b t.blk)) ∧
    (on (R.PS_CTRL_CLKRST n) →
      Gives (.psClkrst n) s (fun t => t.blk.ps n = { p with div := 0 } ∧ OnlyPs n [] b t.blk) ∧
      Gives (.psFifoclr n) s (fun t => t.blk.ps n = { p with sndf := [], rcvf := [] } ∧ OnlyPs n [] b t.blk) ∧
      Gives (.psRestart n) s (fun t => t.blk.ps n = { p with des := 0, stall := none, dwell := 0 } ∧
        t.blk.get (R.PS_STAT_PC n) = b.get (R.PS_CTRL_START n) % 64 ∧
        (∀ f ∈ [R.PS_SER_SER n, R.PS_STAT_SCNT n, R.PS_STAT_DCNT n, R.PS_STAT_STALL n, R.PS_STAT_DWELLING n], t.blk.get f = 0) ∧
        OnlyPs n ([R.PS_SER_SER n, R.PS_STAT_SCNT n, R.PS_STAT_DCNT n] ++ psStat n) b t.blk)) ∧
    (on R.PS_FLAGS_FLAGS → Gives (.psFlagsWrite w) s fun t => OnlyFields [R.PS_FLAGS_FLAGS] b t.blk ∧
      ∀ i < 16, t.blk.psFlag i = (w.getLsbD i || (b.psFlag i && !w.getLsbD (16 + i)))) ∧
    (on R.PS_GCTRL_GO →
      (timed = true → Gives (.psGo timed mask) s fun t => OnlyTimers group b t.blk ∧
        t.blk.timers = { b.timers with psGo := false } ∧ t.blk.get R.PS_GCTRL_PEND = 1 ∧
        t.blk.get R.PS_GCTRL_MASK = mask.toNat) ∧
      (timed = false → Gives (.psGo timed mask) s fun t => running mask t.blk ∧ t.blk.get R.PS_GCTRL_PEND = 0 ∧
        ∃ m, OnlyTimers group b m ∧ m.timers = { b.timers with psGo := true } ∧ m.get R.PS_GCTRL_PEND = 0 ∧
          m.get R.PS_GCTRL_MASK = mask.toNat ∧ t.blk = m.elapse 1) ∧
      Gives (.psGstop mask) s (fun t => OnlyFields (R.PS_GCTRL_MASK :: ens) b t.blk ∧
        ∀ i < 16, t.blk.get (R.PS_CTRL_EN i) = if mask.getLsbD i then 0 else b.get (R.PS_CTRL_EN i))) ∧
    (b.pd4 = true → b.flag R.PS_GCTRL_PEND = true →
      b.get R.TMR_GAT_HI_TNOW * 2 ^ 32 + b.get R.TMR_GAT_LO_TNOW ≤ b.tnow → Gives .psGroupStart s fun t =>
        running (BitVec.ofNat 16 (b.get R.PS_GCTRL_MASK)) t.blk ∧ t.blk.get R.PS_GCTRL_PEND = 0 ∧
          ∀ i < 16, (b.get R.PS_GCTRL_MASK).testBit i = false → t.blk.ps i = b.ps i) ∧
    (b.flag R.PS_GCTRL_PEND = false → Gives .psGroupStart s (Same s)) ∧
    (on (R.PS_INJECT_WORD n) → Gives (.psInject n w) s fun t => t.blk.get (R.PS_STAT_INJ_PEND n) = 1 ∧
      t.blk.ps n = { p with inj := some w.toNat } ∧
      t.blk.get (R.PS_EVT_INJOVR n) = (if b.flag (R.PS_STAT_INJ_PEND n) then 1 else b.get (R.PS_EVT_INJOVR n)) ∧
      OnlyPs n [R.PS_STAT_INJ_PEND n, R.PS_EVT_INJOVR n] b t.blk) ∧
    (∀ x, p.inj = some x → b.pd4 = true → b.flag (R.PS_CTRL_EN n) = true → x / 2 ^ 28 % 16 = 6 → psReserved x = false →
      (p.stall = none → b.flag (R.PS_STAT_DWELLING n) = false ∨ b.flag (R.PS_CTRL_INJ_FORCE n) = true →
        Gives (.psInjectExec n pins) s fun t => held t.blk ∧
          t.blk.psDone n x (b.get (R.PS_STAT_PC n) % 64) { p with inj := none }) ∧
      (∀ st, p.stall = some st → b.flag (R.PS_CTRL_INJ_FORCE n) = true → Gives (.psInjectExec n pins) s fun t =>
        held t.blk ∧ t.blk.psDone n x (b.get (R.PS_STAT_PC n) % 64) { p with inj := none } ∧
          t.blk.get (R.PS_EVT_STALL_ABORT n) = 1 ∧
          t.blk.srcBit R.DIST_PENDSET_PEND (296 + n) = true ∧
          t.blk.get (R.PS_STAT_SCNT n) = (if bitsOf st.word 28 4 = 2 then 0 else b.get (R.PS_STAT_SCNT n))) ∧
      (∀ st, p.stall = some st → b.flag (R.PS_CTRL_INJ_FORCE n) = false →
        Gives (.psInjectExec n pins) s fun t => t.blk = v))

/-- R252 to R254, R256, R257, R259, R260: submission and acceptance. MP_SUBMIT queues entries or sets SUBOVF; a fetch brings the next
one, is tried once more after an error and then completes BADDESC; a descriptor that is sound goes to its channel in acceptance order
(an MREAD to the extent its map slot names, an ERASE held behind earlier reads), one that is not completes BADDESC or BADADDR, and all
of them wait while the Media Port holds 32,768; an
install writes the slots of its set and takes journal sequence numbers, or waits for the journal; an MREAD that finds no extent and an
UNMAP complete at once. The index of a descriptor (log entry 65) and whole transfers (log entry 22) are the model's choices. -/
def Obligations.MediaRings : Prop :=
  ∀ (slot : BitVec 5) (count : BitVec 11) (find : BankFind) (c n : Nat) (rest : List (Nat × Nat)) (d : Desc64) (s : State),
    MemOk s → s.blk.still →
    let b := s.blk
    let m := b.media
    let used := m.used.get slot.toNat 0
    let head := m.heads.get c 0
    let entry := b.getAddr R.MP_RING_LO_ADDR R.MP_RING_HI_ADDR + c * 0x10000 + 64 * head
    let fetching := m.subs = (c, n) :: rest ∧ b.get R.MP_CTRL_EN ≠ 0 ∧ b.mpHeld + m.fetched.length < 32768
    let turned := fun (k : Media) => k.subs = (if n ≤ 1 then rest else (c, n - 1) :: rest) ∧ k.heads.get c 0 = (head + 1) % 1024 ∧
      k.used.get c 0 = m.used.get c 0 - 1 ∧ k.retried = false
    let next := fun (op : Nat) => b.mpFull = false ∧ b.mpHead = some (c, d) ∧ d.op = op ∧ (op = 2 ∨ op = 3 →
      b.get R.MP_STAT_PFAIL = 0)
    let sound := b.badDesc d = false ∧ b.badAddr c d = false
    let accepts := fun (e : Desc64) (slot data : Nat) (held : Bool) (k : Block) =>
      k.media.accepted = m.accepted ++ [⟨b.freeIdx, c, slot, m.order, e, none, false, held, false, data⟩] ∧
        k.media.fetched = m.fetched.drop 1 ∧ k.media.order = m.order + 1
    let finishes := fun (data code : Nat) (k : Block) => Completed d.cookie (if 1 ≤ d.op ∧
      d.op ≤ 5 then d.op else 0) data code b k ∧
      k.media.accepted = m.accepted ∧ k.media.fetched = m.fetched.drop 1
    let runs := runsOf (b.installSet d)
    let mapAt := fun (i : Nat) => b.getAddr (R.MP_NS_MAP_LO_ADDR d.nss) (R.MP_NS_MAP_HI_ADDR d.nss) + 8 * (d.iu + i)
    let clear := (∀ j, m.jopen = some j → j.at' < 16 ∧ j.count < 127) ∧
      ∀ i < d.iucnt, b.reachable (mapAt i) 8 = true ∧ (mapAt i + 8 ≤ b.jAddr 0 ∨ b.jAddr 16 ≤ mapAt i)
    let installs := fun (kind gran grans : Nat) (k : Block) =>
      (k.jseq = (b.jseq + runs.length) % 2 ^ 64 ∨ b.jseq = k.jseq ∧ runs = []) ∧
      (clear → ∀ i < d.iucnt, leNat (k.mem.bytes (mapAt i) 8) = if i ∈ b.installSet d then
          (gran + 2 ^ 40 * grans + 2 ^ 52 * (if kind = 2 then i else 0) + 2 ^ 58 * kind) % 2 ^ 64
        else leNat (b.mem.bytes (mapAt i) 8))
    let w := leNat (b.mem.bytes (mapAt 0) 8)
    let unset := w / 2 ^ 58 % 4 = 0 ∨ w / 2 ^ 58 % 4 = 3
    let programming := fun (x : Accepted) => x.desc.op == 1 && x.block.isNone && x.desc.gran == w % 2 ^ 40
    (b.winOff R.MP_SUBMIT_SLOT.off = false →
      (count.toNat ≠ 0 → count.toNat ≤ 1024 - used → Gives (.mpSubmit slot count) s fun t => t.blk = { b with media := { m with
        subs := m.subs ++ [(slot.toNat, count.toNat)], used := m.used.put slot.toNat (used + count.toNat) } }) ∧
      (count.toNat = 0 ∨ 1024 - used < count.toNat → Gives (.mpSubmit slot count) s fun t => t.blk.get R.MP_EVT_SUBOVF = 1 ∧
        OnlyFields [R.MP_EVT_SUBOVF] b t.blk)) ∧
    (fetching →
      (b.reachable entry 64 = true → Gives (.descriptorFetch .clean) s fun t =>
        turned t.blk.media ∧ t.blk.media.fetched = m.fetched ++ [(c, b.mem.bytes entry 64)] ∧
          t.blk.media.accepted = m.accepted ∧ t.blk.mem = b.mem) ∧
      (b.readLost entry 64 find → (m.retried = false → Gives (.descriptorFetch find) s fun t =>
          t.blk.media = { m with retried := true } ∧ t.blk.mem = b.mem) ∧
        (m.retried = true → Gives (.descriptorFetch find) s fun t => turned t.blk.media ∧ t.blk.get R.MP_EVT_BADDESC = 1 ∧
          ((∀ k, b.target entry ≠ .carafe k) → Completed 0 0 (head + 2 ^ 16 * c) 3 b t.blk)))) ∧
    (m.subs = [] → Gives (.descriptorFetch find) s (Same s)) ∧
    (b.mpFull = true → Gives .mpProg s (Same s) ∧ Gives .mpRead s (Same s) ∧ Gives .mpMread s (Same s) ∧
      Gives .mpErase s (Same s) ∧ Gives .mpUnmap s (Same s)) ∧
    (next 1 → sound → d.map = false → Gives .mpProg s fun t => accepts d c 0 false t.blk ∧ t.blk.mem = b.mem) ∧
    (next 1 → sound → d.map = true →
      (runs.length ≤ b.jRoomFor → Gives .mpProg s fun t =>
        accepts d c (if runs.isEmpty then 0 else b.jseq) false t.blk ∧ installs d.kind d.gran d.gcnt t.blk) ∧
      (b.jRoomFor < runs.length → Gives .mpProg s fun t => t.blk.get R.MP_STAT_JSTALL = 1 ∧ t.blk.media = m ∧ t.blk.mem = b.mem)) ∧
    (next 2 → sound → Gives .mpRead s fun t => accepts d c 0 false t.blk ∧ t.blk.mem = b.mem) ∧
    (next 4 → sound → Gives .mpErase s fun t => t.blk.mem = b.mem ∧
      accepts d c 0 (m.accepted.any fun x => (x.desc.op == 2 || x.desc.op == 3) && decide (x.order < m.order)) t.blk) ∧
    (next 5 → sound → runs.length ≤ b.jRoomFor → d.nss < 8 → Gives .mpUnmap s fun t =>
      t.blk.media.fetched = m.fetched.drop 1 ∧ t.blk.media.accepted = m.accepted ∧ t.blk.media.unread = m.unread + 1 ∧
        (t.blk.jseq = (b.jseq + runs.length) % 2 ^ 64 ∨ b.jseq = t.blk.jseq ∧ runs = [])) ∧
    (next 3 → sound →
      (b.iuCount d.nss ≤ d.iu → Gives .mpMread s fun t => finishes 0 8 t.blk) ∧
      (d.iu < b.iuCount d.nss →
        (unset → Gives .mpMread s fun t => finishes w 6 t.blk) ∧
        (¬unset → (∀ x, (m.accepted.filter programming).getLast? = some x → Gives .mpMread s fun t => finishes x.desc.buf 7 t.blk) ∧
          (m.accepted.filter programming = [] →
            (b.extentOk (w % 2 ^ 40) (w / 2 ^ 40 % 2 ^ 12) = true → Gives .mpMread s fun t => t.blk.mem = b.mem ∧
              accepts (d.resolved (w % 2 ^ 40) (w / 2 ^ 40 % 2 ^ 12)) (w / 2 ^ 35 % 32) w false t.blk) ∧
            (b.extentOk (w % 2 ^ 40) (w / 2 ^ 40 % 2 ^ 12) = false → Gives .mpMread s fun t => finishes w 4 t.blk))))) ∧
    (next 2 → b.badDesc d = true → Gives .mpRead s fun t => finishes 0 3 t.blk ∧ t.blk.get R.MP_EVT_BADDESC = 1) ∧
    (next 4 → b.badDesc d = false → b.badAddr c d = true → Gives .mpErase s fun t => finishes 0 4 t.blk) ∧
    (next 5 → b.badDesc d = false → b.badAddr c d = true → Gives .mpUnmap s fun t => finishes 0 4 t.blk) ∧
    Gives .eraseRelease s (fun t => t.blk.mem = b.mem ∧ t.blk.media = { m with accepted := m.accepted.map fun x =>
      if (m.accepted.any fun y => (y.desc.op == 2 || y.desc.op == 3) && decide (y.order < x.order)) then x
      else { x with held := false } })

/-- R250, R254, R255, R258, R261 to R263, R497: channel traffic and the journal. A hand-off puts the next descriptor of its slot on MPD;
a program's data request answers 512 bytes of its source, zeros beyond BLEN or after a failed read; a read's beat is written to its
buffer, with its out-of-band bytes where asked; a completion posts its entry and with REL releases extent and reservation only where all
went well. JFLUSH closes a journal block that holds a record; its hand-off takes the next journal granules; a failed one is tried again.
Whole transfers are the model's choice, log entry 22. -/
def Obligations.MediaTraffic : Prop :=
  ∀ (slot : BitVec 5) (idx : BitVec 15) (gidx : BitVec 12) (beat : BitVec 3) (data : BitVec 512) (oob : W128) (fail : Bool) (find : BankFind)
      (x : Accepted) (s : State), MemOk s → s.blk.still →
    let b := s.blk
    let m := b.media
    let at' := b.handedAt slot.toNat idx.toNat = some x
    let g := gidx.toNat
    let n := min 512 (x.desc.blen - 512 * g)
    let from' := x.desc.buf + 512 * g
    let beats := fun (d : List Byte) (k : Block) => k.ports.mpwd = some ⟨slot.toNat, idx.toNat, g, d ++
      List.replicate (512 - d.length) 0,
      x.oobBytes g⟩ ∧ k.mem = b.mem
    let to' := from' + 64 * beat.toNat
    let after := x.desc.buf + 512 * x.desc.gcnt + 16 * g
    let code := if x.srcErr then 2 else if fail then 1 else 0
    let left := m.accepted.filter (·.idx != x.idx)
    let journal := b.jAddr 0
    (b.mpNext slot.toNat = some x → Gives (.mediaDescriptorHandoff slot) s fun t =>
      t.blk.ports.mpd = some (slot.toNat, x.idx, x.desc.raw) ∧
        t.blk.media = { m with accepted := m.accepted.map fun y => if y.idx = x.idx then { y with handed := true } else y } ∧
        ({ t.blk with media := b.media, ports := b.ports } : Block) = b) ∧
    (b.mpNext slot.toNat = none → Gives (.mediaDescriptorHandoff slot) s (Same s)) ∧
    (at' → x.desc.op = 1 →
      (x.srcErr = true ∨ n = 0 → Gives (.programDataRequest slot idx gidx find) s (fun t => beats [] t.blk ∧ t.blk.media = m)) ∧
      (x.srcErr = false → n ≠ 0 → b.readLost from' n find → Gives (.programDataRequest slot idx gidx find) s fun t =>
        beats [] t.blk ∧
        t.blk.media.accepted = m.accepted.map fun y => if y.idx = x.idx then { y with srcErr := true } else y) ∧
      (x.srcErr = false → n ≠ 0 → b.reachable from' n = true → Gives (.programDataRequest slot idx gidx .clean) s fun t =>
        beats (b.mem.bytes from' n) t.blk ∧ t.blk.media = m)) ∧
    (at' → x.desc.op = 2 ∨ x.desc.op = 3 → b.reachable to' 64 = true →
      (x.desc.oob = false ∨ beat ≠ 0 → Gives (.readData slot idx gidx beat data oob) s fun t =>
        Wrote to' (leBytes data.toNat 64) b t.blk ∧ t.blk.media = m) ∧
      (x.desc.oob = true → beat = 0 → b.reachable after 16 = true → to' + 64 ≤ after →
        Gives (.readData slot idx gidx beat data oob) s fun t => t.blk.mem.bytes to' 64 = leBytes data.toNat 64 ∧
          t.blk.mem.bytes after 16 = leBytes oob.toNat 16 ∧ t.blk.media = m)) ∧
    (at' → x.block = none → Gives (.mediaCompletion slot idx fail) s fun t =>
      Completed x.desc.cookie (if 1 ≤ x.desc.op ∧ x.desc.op ≤ 5 then x.desc.op else 0) x.data code b t.blk ∧
        t.blk.media.accepted = left ∧ (t.blk.intake.wbRel, t.blk.kettle.moving) =
          (if x.desc.rel = true ∧ code = 0 then (b.intake.wbRel ++ [(x.desc.wbuf, x.desc.wblen)], b.kettle.moving ++
            [.release x.desc.kres])
          else (b.intake.wbRel, b.kettle.moving)) ∧
        t.blk.get R.MP_EVT_SRCERR = (if x.srcErr then 1 else b.get R.MP_EVT_SRCERR) ∧
        t.blk.get R.MP_EVT_MEDIAERR = (if x.srcErr = false ∧ fail = true then 1 else b.get R.MP_EVT_MEDIAERR) ∧
        (x.desc.db = true → t.blk.srcBit R.DIST_PENDSET_PEND (72 + 2 * b.peOf (x.desc.le % 64)) = true)) ∧
    (at' → x.block ≠ none → Gives (.mediaCompletion slot idx fail) s fun t => t.blk.media.accepted = left ∧
      t.blk.media.jbusy = false ∧ t.blk.mem = b.mem ∧ t.blk.get R.MP_CPLTAIL_INDEX = b.get R.MP_CPLTAIL_INDEX ∧
      (fail = true ∨ x.srcErr = true → t.blk.media.jclosed = m.jclosed ∧ t.blk.get R.MP_EVT_MEDIAERR = 1) ∧
      (fail = false → x.srcErr = false → t.blk.media.jclosed = m.jclosed.drop 1 ∧ t.blk.media.jprog = true ∧
        t.blk.get R.MP_JLAST_LO_GRAN = x.desc.gran % 2 ^ 32 ∧ t.blk.get R.MP_JLAST_HI_GRAN = x.desc.gran / 2 ^ 32 % 2 ^ 8)) ∧
    (b.handedAt slot.toNat idx.toNat = none → Gives (.mediaCompletion slot idx fail) s (Same s)) ∧
    (b.winOff R.MP_CTRL_JFLUSH.off = false →
      (∀ j, m.jopen = some j → 0 < j.count → j.count ≤ 127 → b.reachable (journal + 4096 * j.at') 32 = true →
        Gives .jflush s fun t => t.blk.media.jclosed = m.jclosed ++ [j] ∧
          t.blk.mem.bytes (journal + 4096 * j.at') 32 = leBytes 0x4C4E524A 4 ++ leBytes j.count 2 ++ [0, 0] ++ leBytes j.first 8 ++
            List.replicate 16 0) ∧
      (∀ j, m.jopen = some j → j.count = 0 → Gives .jflush s (Same s)) ∧ (m.jopen = none → Gives .jflush s (Same s))) ∧
    (∀ j js, m.jclosed = j :: js → m.jbusy = false → b.get R.MP_JROOM_ROOM ≠ 0 → b.mpFull = false → Gives .journalHandoff s fun t =>
      let gran := b.getAddr R.MP_JNEXT_LO_GRAN R.MP_JNEXT_HI_GRAN
      t.blk.media.jbusy = true ∧ t.blk.get R.MP_JROOM_ROOM = (b.get R.MP_JROOM_ROOM - 1) % 2 ^ 16 ∧
        t.blk.getAddr R.MP_JNEXT_LO_GRAN R.MP_JNEXT_HI_GRAN = (gran + 8) % 2 ^ 40 / 8 * 8 ∧
        t.blk.media.accepted = m.accepted ++ [⟨b.freeIdx, 32, gran / 2 ^ 35 % 32, m.order,
          Desc64.ofBytes (journalDesc gran (b.jAddr j.at')), some j.at', false, false, false, 0⟩]) ∧
    (m.jclosed = [] ∨ m.jbusy = true ∨ b.get R.MP_JROOM_ROOM = 0 ∨ b.mpFull = true → Gives .journalHandoff s (Same s))

/-- R217 to R227, R230, R235, R493: from arrival to the data request. An accepted command takes the first free tag with the next TSEQ
and the first rule that matches; a duplicate identifier and a length mismatch are decided at once, ENERGY waits for admission, the rest
for dispatch. A grant moves its tag to dispatch or goes back to the Kettle. Dispatch sends one head to the first member that can take
it, with a free record slot and, for LAND, extents in its staging ring and the write buffer; a head that nobody can ever take is
refused. A written record becomes visible and asks for the data of a LAND tag still in LANDING; the request goes to the less loaded
port. The allocation point of a ring is log entry 25, refused heads are log entry 30, and the load of a port is log entry 65. -/
def Obligations.IntakeAdmission : Prop :=
  ∀ (sqe : BitVec 512) (cls : BitVec 3) (sqid : BitVec 16) (capns : Bool) (dir : BitVec 2) (clen xlen : W32) (row : EccFind)
      (T r g le : Nat) (i : Intake) (member : LE) (slot : BitVec 6) (rec' : Rec) (s : State),
    let b := s.blk
    let old := b.tag T
    let bytes := leBytes sqe.toNat 64
    let hits := fun (j : Nat) => b.ruleMatches j (leNat (bytes.take 1)) cls.toNat dir.toNat capns
    let others := fun (k : Block) => (∀ y, y ≠ T → k.tag y = b.tag y) ∧ k.mem = b.mem
    let arrives := fun (k : Block) =>
      let x := k.tag T
      x.cls = cls.toNat ∧ x.sqid = sqid.toNat ∧ x.cid = leNat ((bytes.drop 2).take 2) ∧ x.nsid = leNat ((bytes.drop 4).take 4) ∧
        x.len = clen.toNat ∧ x.sqe = bytes ∧ x.tseq = (if old.tseq = 0xFFFF then 1 else old.tseq + 1) ∧
        (∀ j < 8, hits j = true → (∀ l < j, hits l = false) → x.rule = some j ∧ x.group = b.get (R.INT_RULE_A_GROUP j)) ∧
        ((∀ j < 8, hits j = false) → x.rule = none ∧ x.group = 0 ∧ x.attr = 0) ∧
        k.get R.INT_STAT_INUSE = (b.get R.INT_STAT_INUSE + 1) % 2 ^ 17 ∧ others k
    let new := b.newTag old bytes cls.toNat sqid.toNat capns dir.toNat clen.toNat
    let taken := (b.findPair sqid.toNat (leNat ((bytes.drop 2).take 2))).isSome
    let open' := b.get R.INT_CTRL_HOLD = 0 ∧ b.intake.warned = false
    let lines := (old.len + 63) / 64
    let fits := fun (size next at' : Nat) => at' + lines ≤ size ∧ at' = if next + lines ≤ size then next else 0
    let port := if b.portLoad 1 < b.portLoad 0 then 1 else 0
    (b.cmdReady = true → b.intake.firstFree = some (T, i) →
      (taken = true → Gives (.commandArrival sqe cls sqid capns dir clen xlen .clean) s fun t => arrives t.blk ∧
        (t.blk.tag T).st = 7 ∧ (t.blk.tag T).status = 3 ∧ t.blk.get R.INT_EVT_DUPCID = 1) ∧
      (taken = false → new.land = true → clen ≠ xlen → Gives (.commandArrival sqe cls sqid capns dir clen xlen .clean) s fun t =>
        arrives t.blk ∧ (t.blk.tag T).st = 7 ∧ (t.blk.tag T).status = 0x0F ∧ t.blk.get R.INT_EVT_LENERR = 1 ∧
          t.blk.get R.INT_LENCNT_COUNT = (b.get R.INT_LENCNT_COUNT + 1) % 2 ^ 32) ∧
      (taken = false → (new.land = true → clen = xlen) → Gives (.commandArrival sqe cls sqid capns dir clen xlen .clean) s fun t =>
        arrives t.blk ∧ if new.energy then (t.blk.tag T).st = 1 ∧ t.blk.intake.admQ = b.intake.admQ ++ [T] ∧
            t.blk.intake.dispQ = b.intake.dispQ ∧
            (open' → cls.toNat ≤ 4 → b.get R.KET_STAT_PFWARN = 0 → t.blk.reqOut = true)
          else (t.blk.tag T).st = 2 ∧ t.blk.intake.dispQ = b.intake.dispQ ++ [T] ∧ t.blk.intake.admQ = b.intake.admQ)) ∧
    (b.cmdReady = false → Gives (.commandArrival sqe cls sqid capns dir clen xlen row) s (Same s)) ∧
    (b.get R.INT_CTRL_AGE ≠ 0 → b.admHead cls.toNat = some T → Gives (.admissionAgeing cls) s fun t =>
      t.blk.tag T = { old with aged := true } ∧ others t.blk) ∧
    (b.get R.INT_CTRL_AGE = 0 ∨ b.admHead cls.toNat = none → Gives (.admissionAgeing cls) s (Same s)) ∧
    (∀ tseq amount, b.kettle.grant = some (T, tseq, amount) → b.intake.warned = false →
      (old.st = 1 → old.tseq = tseq → Gives .admissionGrant s fun t =>
        t.blk.tag T = { old with st := 2, kres := amount, resv := .held } ∧
        others t.blk ∧ t.blk.intake.dispQ = b.intake.dispQ ++ [T] ∧ T ∉ t.blk.intake.admQ ∧ t.blk.kettle.grant = none) ∧
      (old.st ≠ 1 ∨ old.tseq ≠ tseq → Gives .admissionGrant s fun t => t.blk.tag T = old ∧ others t.blk ∧
        t.blk.kettle.moving = b.kettle.moving ++ [.release amount] ∧ t.blk.kettle.grant = none)) ∧
    (b.kettle.grant = none → Gives .admissionGrant s (Same s)) ∧
    (open' → (∀ j < 8, ∀ h, b.groupHead j = some h → b.refusal j (b.tag h) = none) → g < 8 → b.groupHead g = some T →
      b.chooseMember g old = some le → old.st = 2 →
      (∀ j < 8, ∀ h, (j + 7 - b.intake.lastGroup % 8) % 8 < (g + 7 - b.intake.lastGroup % 8) % 8 → b.groupHead j = some h →
        b.chooseMember j (b.tag h) = none) → Gives (.dispatch .clean) s fun t =>
          let x := t.blk.tag T
          x.le = le ∧ others t.blk ∧ T ∉ t.blk.intake.dispQ ∧ t.blk.intake.lastGroup = g ∧ b.freeSlot le = some x.slot ∧
            (∃ rec, t.blk.intake.recs.look (recKey le x.slot) = some rec ∧ rec.tag = T ∧ rec.tseq = x.tseq ∧ rec.visible = false ∧
              rec.taken = false ∧ rec.outcome = none) ∧ x.st = (if old.land then 3 else 5) ∧
            (old.land = true → ∃ l m, x.stage = b.stageBase le + 64 * l ∧ fits (b.stageSize le) (b.stageRing le).next l ∧
              x.wbuf = b.wbBase + 64 * m ∧ fits b.wbLines b.intake.wb.next m)) ∧
    (open' → ∀ status, g < 8 → b.groupHead g = some T → b.refusal g old = some status → Gives (.dispatch row) s fun t =>
      (t.blk.tag T).st = 7 ∧ (t.blk.tag T).status = status ∧ t.blk.get R.INT_EVT_NOFIT = 1) ∧
    (¬open' → Gives (.dispatch row) s (Same s)) ∧
    (b.intake.recs.look (recKey member slot.toNat) = some rec' → rec'.visible = true ∨ rec'.sent = false →
      Gives (.dispatchRecordWritten member slot) s (Same s)) ∧
    (Serves b → b.intake.recs.look (recKey member slot.toNat) = some rec' → rec'.visible = false → rec'.sent = true → rec'.tag = T →
      Gives (.dispatchRecordWritten member slot) s fun t => t.blk.tag T = old ∧
        t.blk.intake.recs.look (recKey member slot.toNat) = some { rec' with visible := true } ∧
        (rec'.taken = false → t.blk.inq member = true) ∧ t.blk.intake.drqQ =
          if old.land = true ∧ old.st = 3 ∧ old.tseq = rec'.tseq ∧ b.intake.warned = false
          then b.intake.drqQ ++ [.transfer T rec'.tseq] else b.intake.drqQ) ∧
    (∀ q qs, b.intake.drqQ = q :: qs → (∀ k l, q = .refetch T g k l → Gives .dataRequestSent s fun t =>
        t.blk.ports.drq = some (port, T, g, 64, true) ∧ t.blk.intake = { b.intake with
          drqQ := qs, refetch := b.intake.refetch ++ [(T, g, k, l)] }) ∧
      (q = .transfer T r → old.st = 3 → old.tseq = r → b.intake.warned = false → Gives .dataRequestSent s fun t =>
        t.blk.ports.drq = some (port, T, 0, old.len, false) ∧ t.blk.tag T = { old with dreq := true, port := port } ∧
          others t.blk ∧ t.blk.intake.drqQ = qs) ∧
      (q = .transfer T r → old.st ≠ 3 ∨ old.tseq ≠ r ∨ b.intake.warned = true → Gives .dataRequestSent s fun t =>
        t.blk = { b with intake := { b.intake with drqQ := qs } }))

/-- R223, R228, R230 to R232, R234 to R236, R288, R491, R493: the life of a tag after dispatch. A whole landing beat is on its way to
the staging bank and the write buffer; the transfer's end ends an abort or reports its error; the last beat held decides an AUTOCPL
write with the next CSEQ or lands the tag; the engines' operations answer and refuse as their table says; decided completions post in
order and free their tags; a flush whose target INT_DHOR has passed completes; a controller reset ends every tag it catches. The
readings of the tag table are log entry 23, FLUSH_COMPLETE is log entry 30, and ABORT's tag number after the warning is log entry 29. -/
def Obligations.IntakeTags : Prop :=
  ∀ (n : PE) (tag : BitVec 16) (off : W32) (data : BitVec 512) (ben : BitVec 64) (fin : Bool) (err : BitVec 2) (row : EccFind)
      (k : BankId) (key line : Nat) (rec' : Rec) (q : Strobe) (s : State),
    let b := s.blk
    let T := tag.toNat
    let x := b.tag T
    let o := off.toNat / 64 * 64
    let others := fun (u : Block) => (∀ y, y ≠ T → u.tag y = b.tag y)
    let up := b.intake.warned = false
    let plain := up ∧ ∀ p ∈ b.intake.refetch, ¬(p.1 = T ∧ p.2.1 = o)
    let decided := fun (status : Nat) (u : Block) => (u.tag T).st = 7 ∧ (u.tag T).status = status ∧ (u.tag T).decided = true ∧
      u.intake.postQ = b.intake.postQ ++ [T] ∧ others u
    let j := b.strobeLe q
    let a := q.a.toNat % 2 ^ 16
    let serves := fun (op : Nat) => b.strobeOf n op = some q ∧ q.tenant = false
    let answers := fun (e : Bool) (v : Nat) (u : Block) => u = { Replied b n e (BitVec.ofNat 64 v) with intake := u.intake }
    let waiting := fun (p : Nat × Rec) => p.1 / 64 = j ∧ p.2.visible = true ∧ p.2.taken = false
    let alloc := fun (tseq : Nat) => x.tseq = tseq ∧ x.tseq ≠ 0
    let gone := x.st = 6 ∨ x.decided = true ∧ x.lost = true
    let bad := x.decided = true ∧ x.status % 2 ^ 11 ≠ 0
    let due := fun (p : Nat × Tag) => p.2.st = 5 ∧ p.2.flush = true ∧ 0 < toSigned (b.dhor + 2 ^ 32 - p.2.ftarget) 32
    (b.intake.warned = true → Gives (.landingBeat tag off data ben fin err row) s (Same s)) ∧
    (plain → x.st = 3 → o + 64 ≤ 64 * linesOf x.len → b.target (x.stage + o) = .carafe k → b.bankOn k = true →
      b.target (x.wbuf + o) = .dram (x.wbuf + o - dramBase) → o % 64 = 0 → (x.stage + o) % 2 ^ 20 + 64 ≤ 2 ^ 20 →
      Gives (.landingBeat tag off data (BitVec.allOnes 64) false err .clean) s fun t =>
        t.blk.tag T = { x with rx := min x.len (max x.rx (o + 64)) } ∧ others t.blk ∧ t.blk.mem = b.mem ∧
          (t.blk.bankAt k).waiting = seat k ((b.bankAt k).waiting ++
            [dmaReq rqHost (.landing (some ((x.wbuf + o - dramBase) / 64))) (x.stage + o) 64 (leBytes data.toNat 64) 4]) ∧
          t.blk.dram.waiting = b.dram.waiting ++ [dmaReq rqHost .write (x.wbuf + o) 64 (leBytes data.toNat 64) 4]) ∧
    (plain → x.st ≠ 3 → x.st ≠ 6 → Gives (.landingBeat tag off data ben fin err .clean) s fun t => t.blk.mem = b.mem ∧
      t.blk.dram = b.dram ∧ t.blk.bank = b.bank ∧ others t.blk ∧ t.blk.tag T = if fin then { x with tend := true } else x) ∧
    (plain → x.st = 6 → Gives (.landingBeat tag off data ben true err .clean) s fun t => decided x.abst t.blk) ∧
    (plain → x.st = 3 → (err = 1 → Gives (.landingBeat tag off data ben true err .clean) s fun t => decided 0x0F t.blk ∧
        t.blk.get R.INT_EVT_LENERR = 1) ∧
      (err = 2 → Gives (.landingBeat tag off data ben true err .clean) s fun t => decided 0x04 t.blk) ∧
      (err = 0 → Gives (.landingBeat tag off data ben true err .clean) s fun t => (t.blk.tag T).st = 3 ∧
        (t.blk.tag T).tend = true ∧ others t.blk)) ∧
    (MemOk s → up → x.st = 3 ∨ x.st = 4 → (b.intake.refetch.filter fun r => r.1 == T && r.2.1 == o) = [(T, o, k.val, line)] →
      Gives (.landingBeat tag off data ben fin 0 row) s fun t => others t.blk ∧ t.blk.tag T = x ∧
        (T, o, k.val, line) ∉ t.blk.intake.refetch ∧ t.blk.get (R.CB_EVT_HOSTRF k) = 1 ∧
        (∀ r ∈ (t.blk.bankAt k).repair, r.1 = line → r.2 = false) ∧
        ((line, true) ∈ (b.bankAt k).repair → (line, false) ∈ (t.blk.bankAt k).repair) ∧
        t.blk.mem.bytes (k.val * 2 ^ 20 + line * 64) 64 = leBytes data.toNat 64) ∧
    (up → x.st = 3 → x.len ≤ x.rx → x.dreq = true →
      (x.autocpl = false → Gives (.lastBeatHeld tag) s fun t => others t.blk ∧
        t.blk.tag T = { x with st := 4, resv := if x.resv = .held then .backed else x.resv }) ∧
      (x.autocpl = true → Gives (.lastBeatHeld tag) s fun t => decided 0 t.blk ∧
        t.blk.get R.INT_CSEQ_CSEQ = (b.get R.INT_CSEQ_CSEQ + 1) % 2 ^ 32 ∧ (t.blk.tag T).cseq = t.blk.get R.INT_CSEQ_CSEQ)) ∧
    (¬up ∨ x.st ≠ 3 ∨ x.rx < x.len ∨ x.dreq = false → Gives (.lastBeatHeld tag) s (Same s)) ∧
    (serves 0x40 → q.b.getLsbD 0 = false →
      ((key, rec') ∈ b.intake.recs → waiting (key, rec') → (∀ p ∈ b.intake.recs, waiting p → p = (key, rec') ∨
        rec'.order < p.2.order) →
        Gives (.intakeTake n) s fun t => answers false (rec'.tag + 2 ^ 16 * rec'.tseq + 2 ^ 32 * (key % 64)) t.blk ∧
          t.blk.intake.recs = b.intake.recs.put key { rec' with taken := true }) ∧
      ((∀ p ∈ b.intake.recs, ¬waiting p) → Gives (.intakeTake n) s fun t => t.blk = Replied b n true 1)) ∧
    (serves 0x40 → q.b.getLsbD 0 = true →
      let from' := b.intake.retake.get j 0
      let again := fun (i : Nat) (c : Rec) => b.intake.recs.look (recKey j i) = some c ∧ c.taken = true
      (∀ i < 64, from' ≤ i → again i rec' → (∀ l < i, from' ≤ l → ∀ c, ¬again l c) → Gives (.intakeTake n) s fun t =>
        answers false (rec'.tag + 2 ^ 16 * rec'.tseq + 2 ^ 32 * i) t.blk ∧
          t.blk.intake = { b.intake with retake := b.intake.retake.put j (i + 1) }) ∧
      ((∀ i < 64, from' ≤ i → ∀ c, ¬again i c) → Gives (.intakeTake n) s fun t =>
        answers true 1 t.blk ∧ t.blk.intake = { b.intake with retake := b.intake.retake.put j 0 })) ∧
    (serves 0x41 → a = T →
      (¬alloc (q.b.toNat % 2 ^ 16) → Gives (.intakeLanded n) s fun t => t.blk = Replied b n false (2 ^ 32)) ∧
      (alloc (q.b.toNat % 2 ^ 16) → x.st = 6 ∨ bad ∨ b.intake.warned = true ∧ ¬(x.decided = true ∧ ¬bad) →
        Gives (.intakeLanded n) s fun t => t.blk = Replied b n true 2) ∧
      (alloc (q.b.toNat % 2 ^ 16) → x.st ≠ 6 → ¬bad → up → Gives (.intakeLanded n) s fun t =>
        t.blk = Replied b n false (BitVec.ofNat 64 (b.landed x)))) ∧
    (serves 0x42 → a = T →
      (b.intake.warned = true → Gives (.intakeComplete n row) s fun t => t.blk = Replied b n true 4) ∧
      (up → ¬alloc (q.a.toNat / 2 ^ 16 % 2 ^ 16) → Gives (.intakeComplete n row) s fun t => t.blk = Replied b n true 3) ∧
      (up → alloc (q.a.toNat / 2 ^ 16 % 2 ^ 16) →
        (gone → Gives (.intakeComplete n .clean) s fun t => t.blk = Replied b n true 4) ∧
        (¬gone → x.decided = true → Gives (.intakeComplete n .clean) s fun t => t.blk = Replied b n true 5) ∧
        (¬gone → x.decided = false → x.st = 4 ∨ x.st = 5 → Gives (.intakeComplete n .clean) s fun t =>
          decided (q.b.toNat % 2 ^ 15) t.blk ∧ (t.blk.tag T).dw0 = q.b.toNat / 2 ^ 32 ∧
            t.blk.extAns = b.extAns ++ [⟨n, false, some 0⟩]) ∧
        (¬gone → x.decided = false → x.st ≠ 4 → x.st ≠ 5 → Gives (.intakeComplete n .clean) s fun t =>
          t.blk = Replied b n true 9))) ∧
    (serves 0x43 → let found := b.findPair (q.a.toNat / 2 ^ 16 % 2 ^ 16) (q.a.toNat % 2 ^ 16)
      (found = none → up → Gives (.intakeAbort n) s fun t => t.blk = Replied b n false 2) ∧
      (found = none → b.intake.warned = true → Gives (.intakeAbort n) s fun t => ∃ m < 2 ^ 16,
        t.blk.get R.INT_ABCNT_NOTCAUGHT = min (b.get R.INT_ABCNT_NOTCAUGHT + 1) 0xFFFF ∧ OnlyFields [R.INT_ABCNT_NOTCAUGHT]
          (Replied { b with fresh := t.blk.fresh } n false (BitVec.ofNat 64 (1 + 2 ^ 16 * m))) t.blk) ∧
      (found = some T → up → x.catchable = true → Gives (.intakeAbort n) s fun t =>
        t.blk.extAns = b.extAns ++ [⟨n, false, some (BitVec.ofNat 64 (2 ^ 16 * T))⟩] ∧ t.blk.get R.INT_EVT_ABORTC = 1 ∧
          t.blk.get R.INT_ABCNT_CAUGHT = min (b.get R.INT_ABCNT_CAUGHT + 1) 0xFFFF ∧
          if x.st = 3 ∧ x.dreq = true ∧ x.tend = false then (t.blk.tag T).st = 6 ∧ (t.blk.tag T).abst = 7 else decided 7 t.blk) ∧
      (found = some T → x.catchable = false ∨ b.intake.warned = true → Gives (.intakeAbort n) s fun t =>
        t.blk.get R.INT_ABCNT_NOTCAUGHT = min (b.get R.INT_ABCNT_NOTCAUGHT + 1) 0xFFFF ∧
          OnlyFields [R.INT_ABCNT_NOTCAUGHT] (Replied b n false (BitVec.ofNat 64 (1 + 2 ^ 16 * T))) t.blk)) ∧
    (serves 0x44 → let slot := q.a.toNat % 64
      let held := b.intake.recs.look (recKey j slot)
      (held = none → Gives (.intakeRelease n) s fun t => t.blk = Replied b n true 7) ∧
      (held = some rec' → rec'.taken = false → Gives (.intakeRelease n) s fun t => t.blk = Replied b n true 7) ∧
      (held = some rec' → rec'.taken = true → rec'.outcome = none → Gives (.intakeRelease n) s fun t =>
        t.blk = Replied b n true 6) ∧
      (∀ status dw0, held = some rec' → rec'.taken = true → rec'.outcome = some (status, dw0) → Gives (.intakeRelease n) s fun t =>
        answers false (status + 2 ^ 32 * dw0) t.blk ∧ t.blk.intake.recs = b.intake.recs.del (recKey j slot) ∧
          t.blk.intake.rings = b.intake.rings.put j ((b.stageRing j).release slot))) ∧
    (q.tenant = true → (b.strobeOf n 0x40 = some q → Gives (.intakeTake n) s fun t => t.blk = Replied b n true 8) ∧
      (b.strobeOf n 0x41 = some q → Gives (.intakeLanded n) s fun t => t.blk = Replied b n true 8) ∧
      (b.strobeOf n 0x42 = some q → Gives (.intakeComplete n row) s fun t => t.blk = Replied b n true 8) ∧
      (b.strobeOf n 0x43 = some q → Gives (.intakeAbort n) s fun t => t.blk = Replied b n true 8) ∧
      (b.strobeOf n 0x44 = some q → Gives (.intakeRelease n) s fun t => t.blk = Replied b n true 8)) ∧
    (∀ ts, b.intake.postQ = T :: ts → up → b.kettle.warnFabric = false → T ∉ b.intake.retiring → Gives .completionPosted s fun t =>
      t.blk.ports.cpl = some (x.sqid, x.cid, x.status, x.dw0) ∧ t.blk.tag T = { x with st := 0 } ∧ others t.blk ∧
        t.blk.intake.postQ = ts ∧ t.blk.intake.freed = b.intake.freed ++ [T] ∧
        t.blk.get R.INT_STAT_INUSE = (b.get R.INT_STAT_INUSE - 1) % 2 ^ 17 ∧ t.blk.mem = b.mem) ∧
    (b.intake.postQ = [] ∨ b.intake.warned = true ∨ b.kettle.warnFabric = true → Gives .completionPosted s (Same s)) ∧
    (up → Gives .flushComplete s fun t => (∀ p ∈ b.intake.tags, due p → (t.blk.tag p.1).st = 7 ∧ (t.blk.tag p.1).status = 0) ∧
      ∀ y, (∀ p ∈ b.intake.tags, p.1 = y → ¬due p) → t.blk.tag y = b.tag y) ∧
    (b.get R.INT_STAT_RSTACT = 0 → up → Gives .controllerReset s fun t => t.blk.get R.INT_STAT_RSTACT = 1 ∧
      (∀ p ∈ b.intake.tags, p.2.catchable = true → (t.blk.tag p.1).st = 6 ∨ (t.blk.tag p.1).st = 7) ∧
      ∀ y, (∀ p ∈ b.intake.tags, p.1 = y → p.2.catchable = false) → t.blk.tag y = b.tag y) ∧
    (b.get R.INT_STAT_RSTACT ≠ 0 → Gives .controllerReset s (Same s) ∧
      ((∀ p ∈ b.intake.tags, p.2.st = 0) → b.intake.refetch = [] → Gives .controllerResetDone s fun t =>
        t.blk.get R.INT_STAT_RSTACT = 0 ∧ t.blk.get R.INT_EVT_RSTDONE = 1 ∧
          OnlyFields [R.INT_STAT_RSTACT, R.INT_EVT_RSTDONE] b t.blk) ∧
      ((∃ p ∈ b.intake.tags, p.2.st ≠ 0) → Gives .controllerResetDone s (Same s))) ∧
    (((b.bankAt k).repair.find? (·.2)).map (·.1) = some line → (b.bankAt k).src.look line = none → Gives (.secondSourceLookup k) s
      fun t => (∀ r ∈ (t.blk.bankAt k).repair, r.1 ≠ line) ∧ t.blk.mem = b.mem ∧ t.blk.intake = b.intake) ∧
    (∀ w, ((b.bankAt k).repair.find? (·.2)).map (·.1) = some line → (b.bankAt k).src.look line = some w →
      let at' := dramBase + 64 * w
      let holds := fun (p : Nat × Tag) => (p.2.st == 3 || p.2.st == 4) && p.2.land && decide (p.2.wbuf ≤ at') &&
        decide (at' < p.2.wbuf + p.2.len)
      ((b.intake.tags.filter holds).head? = some (T, x) → b.intake.drqQ = [] → b.intake.refetch = [] →
        Gives (.secondSourceLookup k) s fun t =>
          t.blk = { b with intake := { b.intake with drqQ := [.refetch T (at' - x.wbuf) k line] } }) ∧
      ((∀ p ∈ b.intake.tags, holds p = false) → Gives (.secondSourceLookup k) s fun t =>
        (t.blk.bankAt k).src.look line = none ∧ (∀ r ∈ (t.blk.bankAt k).repair, r.1 ≠ line) ∧ t.blk.mem = b.mem ∧
          t.blk.intake = b.intake)) ∧
    (∀ at' ls rest, b.intake.wbRel = (at', ls) :: rest → Gives .writeBufferRelease s fun t =>
      t.blk = { b with intake := { b.intake with
      wbRel := rest, wb := { b.intake.wb with exts := (b.intake.wb.exts.map fun e =>
        if e.name = at' then { e with released := true } else e).dropWhile (·.released) } } })

/-- R269 to R276, R278, R279, R286: the Kettle. A sample enters the last 16 codes of its channel; a BANK sample gives the stored
energy and the budget; RAIL samples below PFV, PFN + 1 in a row, and TESTPF with the key 0xA5 raise the warning, which latches TNOW
and withdraws the Intake's request; lost samples leave no energy. A cycle applies what is returned and grants the request if it
fits, else leaves it pending with its amount fixed. RESERVE, in its place in a cycle, RELEASE and QUERY answer or refuse as their
table says. Which channel a sample was lost on is log entry 77. -/
def Obligations.KettleEnergy : Prop :=
  ∀ (n : PE) (code : BitVec 14) (key : Byte) (q : Strobe) (r : Nat) (s : State),
    let b := s.blk
    let c := b.kettle
    let get := b.get
    let resv := get R.KET_RESV_RESV
    let v := code.toNat
    let low := fun (l : List Nat) (m : Nat) => m ∈ l ∧ ∀ x ∈ l, m ≤ x
    let rails := (v :: c.rail).take 16
    let banks := (v :: c.bank).take 16
    let status := [R.KET_HEAD_HEAD, R.KET_STAT_WAITING, R.KET_STAT_DEFICIT, R.KET_EVT_DEFICIT, R.KET_STAT_LOWBANK, R.KET_EVT_LOWBANK,
      R.KET_STAT_DRAINED, R.KET_EVT_DRAINED, R.KET_STAT_RAILOK, R.KET_EVT_RAILOK]
    let settled := fun (k : Block) => k.get R.KET_HEAD_HEAD = (k.kettle.budget - k.get R.KET_RESV_RESV) % 2 ^ 32 ∧
      k.get R.KET_STAT_DEFICIT = bit (decide (k.kettle.budget < k.get R.KET_RESV_RESV)) ∧
      k.get R.KET_STAT_LOWBANK = bit (decide (k.get R.KET_E_E < get R.KET_LOWE_LOWE)) ∧
      k.get R.KET_STAT_WAITING = bit k.kettle.req.isSome
    let risen := fun (k : Block) => k.get R.KET_STAT_PFWARN = 1 ∧ k.get R.KET_EVT_PFWARN = 1 ∧
      k.get R.KET_PFT_LO_TNOW = b.tnow % 2 ^ 32 ∧ k.get R.KET_PFT_HI_TNOW = b.tnow / 2 ^ 32 % 2 ^ 32 ∧ k.kettle.req = none ∧
      k.get R.KET_STAT_THROTTLE = 0 ∧ k.mem = b.mem
    let lost := fun (rails banks : Nat) => if 16 ≤ rails ∧ 16 ≤ banks then 0 else get R.KET_STAT_ADCLOST
    let energy := fun (k : Block) =>
      let vc := k.get R.KET_VBANK_MIN16
      let vm := max (get R.KET_VMIN_VMIN) 1667
      if vm < vc ∧ k.get R.KET_STAT_ADCLOST = 0
      then get R.KET_CAP_CAP * (vc * vc - vm * vm) * 9 * min (get R.KET_EFF_EFF) 1024 / 2048000000 % 2 ^ 32 else 0
    let amount := fun (p : KetReq) =>
      p.amount.getD (min ((p.clen * get R.KET_COEF_BCOEF + 65535) / 65536 + get R.KET_COEF_UCOEF) (2 ^ 32 - 1))
    let open' := get R.KET_CTRL_EN ≠ 0 ∧ get R.KET_STAT_PFWARN = 0
    let y := b.ketCycle n
    let opens := y.get R.KET_CTRL_EN ≠ 0 ∧ y.get R.KET_STAT_PFWARN = 0 ∧ y.get R.KET_RESV_RESV ≤ y.kettle.budget
    let refused := fun (v : Nat) (k : Block) => k.extAns = y.extAns ++ [⟨n, true, some (BitVec.ofNat 64 v)⟩] ∧
      k.strobes = y.strobes.filter (·.pe != n.val) ∧ k.get R.KET_RESV_RESV = y.get R.KET_RESV_RESV ∧ k.mem = y.mem ∧ settled k
    let asked := q.a.toNat % 2 ^ 32
    let serves := fun (op : Nat) => b.strobeOf n op = some q ∧ q.tenant = false
    let answered := fun (v : Nat) (k : Block) => k.extAns = b.extAns ++ [⟨n, false, some (BitVec.ofNat 64 v)⟩] ∧ settled k ∧
      ({ k with regs := b.regs } : Block) = Replied b n false (BitVec.ofNat 64 v)
    Gives (.adcSample true code) s (fun t => settled t.blk ∧ t.blk.kettle = { c with
        bank := banks, bankN := min (c.bankN + 1) 16, budget := t.blk.get R.KET_E_E - get R.KET_MARGIN_MARGIN } ∧
      t.blk.get R.KET_VBANK_LAST = v ∧ (∀ m, low banks m → t.blk.get R.KET_VBANK_MIN16 = m % 2 ^ 14) ∧
      t.blk.get R.KET_E_E = energy t.blk ∧ t.blk.get R.KET_STAT_ADCLOST = lost c.railN (min (c.bankN + 1) 16) ∧
      KeepsFields ([R.KET_VBANK_LAST, R.KET_VBANK_MIN16, R.KET_E_E, R.KET_STAT_ADCLOST] ++ status) b t.blk) ∧
    Gives (.adcSample false code) s (fun t => settled t.blk ∧ t.blk.kettle.rail = rails ∧ t.blk.get R.KET_VRAIL_LAST = v ∧
      (∀ m, low rails m → t.blk.get R.KET_VRAIL_MIN16 = m % 2 ^ 14) ∧ t.blk.kettle.bank = c.bank ∧
      t.blk.get R.KET_STAT_ADCLOST = lost (min (c.railN + 1) 16) c.bankN ∧
      if get R.KET_STAT_PFWARN = 0 ∧ v < get R.KET_PF_PFV ∧ get R.KET_PF_PFN ≤ c.low then risen t.blk
      else t.blk.get R.KET_STAT_PFWARN = get R.KET_STAT_PFWARN) ∧
    Gives .adcLost s (fun t => t.blk.get R.KET_STAT_ADCLOST = 1 ∧ t.blk.get R.KET_E_E = 0 ∧ settled t.blk ∧
      (get R.KET_STAT_ADCLOST = 0 → t.blk.get R.KET_EVT_ADCLOST = 1) ∧ t.blk.kettle = { c with
        railN := 0, bankN := 0, budget := 0 }) ∧
    (b.strobes = [] → c.usable = [] →
      (∀ p, c.req = some p → open' → resv + amount p ≤ c.budget → Gives .kettleCycle s fun t => t.blk.kettle = { c with
          req := none, grant := some (p.tag, p.tseq, amount p) } ∧ t.blk.get R.KET_RESV_RESV = (resv + amount p) % 2 ^ 32 ∧
        t.blk.get R.KET_GRANT_COUNT = (get R.KET_GRANT_COUNT + 1) % 2 ^ 32 ∧ t.blk.get R.KET_STAT_THROTTLE = 0 ∧ settled t.blk ∧
        t.blk.get R.KET_STALL_COUNT = (get R.KET_STALL_COUNT + 1) % 2 ^ 32 ∧ t.blk.mem = b.mem) ∧
      (∀ p, c.req = some p → ¬(open' ∧ resv + amount p ≤ c.budget) → Gives .kettleCycle s fun t => t.blk.kettle = { c with
          req := some { p with amount := some (amount p) } } ∧ t.blk.get R.KET_RESV_RESV = resv ∧ settled t.blk ∧
        t.blk.get R.KET_STALL_COUNT = (get R.KET_STALL_COUNT + 1) % 2 ^ 32)) ∧
    (b.strobes = [] → c.usable = [.release r] → c.req = none → Gives .kettleCycle s fun t =>
      t.blk.get R.KET_RESV_RESV = (resv - r) % 2 ^ 32 ∧ settled t.blk ∧ t.blk.kettle.usable = []) ∧
    (∀ p, b.strobes = [] → c.usable = [.withdraw p.tag p.tseq] → c.req = some p → get R.INT_CTRL_HOLD ≠ 0 →
      Gives .kettleCycle s fun t =>
      t.blk.get R.KET_RESV_RESV = resv ∧ t.blk.kettle.req = none ∧ t.blk.get R.KET_STAT_THROTTLE = 0) ∧
    (∀ x xs, c.moving = x :: xs → Gives .reservationRelease s fun t =>
      t.blk = { b with kettle := { c with moving := xs, usable := c.usable ++ [x] } }) ∧
    (c.moving = [] → Gives .reservationRelease s (Same s)) ∧
    (c.usable = [] → c.req = none → (∀ p ∈ b.strobes, p.pe = n.val ∧ p.op ≠ 0x81) → y = b) ∧
    (b.strobeOf n 0x80 ≠ none → y.strobeOf n 0x80 = some q → q.tenant = false →
      (y.get R.KET_STAT_PFWARN ≠ 0 → Gives (.kettleReserve n) s fun t => refused 2 t.blk) ∧
      (y.get R.KET_STAT_PFWARN = 0 → ¬opens → Gives (.kettleReserve n) s fun t => refused 3 t.blk) ∧
      (opens → y.kettle.budget < y.get R.KET_RESV_RESV + asked → Gives (.kettleReserve n) s fun t => refused 1 t.blk) ∧
      (opens → y.get R.KET_RESV_RESV + asked ≤ y.kettle.budget → Gives (.kettleReserve n) s fun t => settled t.blk ∧
        t.blk.get R.KET_RESV_RESV = (y.get R.KET_RESV_RESV + asked) % 2 ^ 32 ∧
        t.blk.get R.KET_GRANT_COUNT = (y.get R.KET_GRANT_COUNT + 1) % 2 ^ 32 ∧
        t.blk.kettle = { y.kettle with req := t.blk.kettle.req } ∧ ({ t.blk with regs := y.regs, kettle := y.kettle } : Block) =
          Replied y n false (BitVec.ofNat 64 (t.blk.get R.KET_HEAD_HEAD)) ∧
        KeepsFields ([R.KET_RESV_RESV, R.KET_GRANT_COUNT, R.INT_STAT_HELD, R.INT_EVT_HELD] ++ status) y t.blk)) ∧
    (b.strobeOf n 0x80 = none → Gives (.kettleReserve n) s (Same s)) ∧
    (serves 0x81 → (resv < asked → Gives (.kettleRelease n) s fun t => t.blk = Replied b n true 4) ∧
      (asked ≤ resv → Gives (.kettleRelease n) s fun t => answered (t.blk.get R.KET_RESV_RESV) t.blk ∧
        t.blk.get R.KET_RESV_RESV = (resv - asked) % 2 ^ 32 ∧ KeepsFields (R.KET_RESV_RESV :: status) b t.blk)) ∧
    (serves 0x82 → Gives (.kettleQuery n) s fun t =>
      t.blk = Replied b n false (BitVec.ofNat 64 (get R.KET_HEAD_HEAD + 2 ^ 32 * get R.KET_E_E))) ∧
    (q.tenant = true →
      (b.strobeOf n 0x80 ≠ none → y.strobeOf n 0x80 = some q → Gives (.kettleReserve n) s fun t => refused 8 t.blk) ∧
      (b.strobeOf n 0x81 = some q → Gives (.kettleRelease n) s fun t => t.blk = Replied b n true 8) ∧
      (b.strobeOf n 0x82 = some q → Gives (.kettleQuery n) s fun t => t.blk = Replied b n true 8)) ∧
    (c.req ≠ none → get R.KET_THRT_US ≠ 0 → Gives .throttle s fun t => t.blk.get R.KET_STAT_THROTTLE = 1 ∧
      t.blk.get R.KET_EVT_THROTTLE = (if get R.KET_STAT_THROTTLE = 0 then 1 else get R.KET_EVT_THROTTLE) ∧
      OnlyFields [R.KET_STAT_THROTTLE, R.KET_EVT_THROTTLE] b t.blk) ∧
    (c.req = none ∨ get R.KET_THRT_US = 0 → Gives .throttle s (Same s)) ∧
    (key = 0xA5 → get R.KET_STAT_PFWARN = 0 → Gives (.testpf key) s fun t => risen t.blk ∧ t.blk.kettle.good = 0) ∧
    (key ≠ 0xA5 ∨ get R.KET_STAT_PFWARN ≠ 0 → Gives (.testpf key) s (Same s))

/-- R17, R196, R199 to R204, R206 to R209, R211 to R214, R283: the Carafe banks. Of the requests at the arbiter a bank serves, each
requester's in the order it issued them and none whose line is under repair, the one that has waited 16 cycles longest, else its
owner's, else the next in ascending order after LASTRQ; a read answers the bytes as they stand and a write changes exactly its
bytes, a partial word taking a second cycle; a correctable error is corrected and counted, an uncorrectable one starts the repair from
the write buffer where the line has a source and is otherwise an error. Scrub waits for the requests, at most 16 cycles, and advances
by one row; a refetched line is written and counted; a bank that finishes its initialisation is ON with zeros; CLRCNT clears the
counters; a new owner takes effect at the bank. That requests wait in lists without times is log entry 10, a refetched line is log entry
69, arbitration numbers beyond those of R200 are log entry 80, and rows without a line are log entry 81. -/
def Obligations.CarafeBanks : Prop :=
  ∀ (k : BankId) (find : BankFind) (err same stays rr second : Bool) (words : BitVec 8) (q : Req) (line wb : Nat) (s : State),
    MemOk s →
    let b := s.blk
    let c := b.bankAt k
    let last := b.get (R.CB_ARB_LASTRQ k)
    let can := (firstsOf [] c.waiting).filter fun p => p.place != 0 && !c.holdsUp p
    let picked := b.bankPick k = some (q, rr)
    let sound := q.addr / 2 ^ 20 = k ∧ ∀ x ∈ q.spans, c.bad.get x.1 0 = 0
    let cycles := if q.kind.stores = true ∧ ¬(q.addr % 8 = 0 ∧ q.len % 8 = 0) then 2 else 1
    let older := fun (p : Req) => if p.place = 0 then p else { p with age := p.age + cycles }
    let turn := fun (u : Block) => u.get (R.CB_ARB_LASTRQ k) = if rr then arbNumber q.rq % 2 ^ 7 else last
    let served := fun (u : Block) => (u.bankAt k).waiting = seat k ((removeReq q c.waiting).map older) ∧ turn u
    let answers := fun (data : List Byte) (bad : Bool) (u : Block) => u.resps = b.resps ++
      (if q.reply = .none ∨ q.reply = .now then [] else [⟨q.rq, q.reply, q.addr, data, bad, [], q.cls⟩])
    let base := k.val * 2 ^ 20
    let scrub := b.get (R.CB_SCRUB_NEXT k)
    let scrubs := b.get (R.CB_STAT_PSTATE k) = 2 ∧ ((∀ p ∈ c.waiting, p.place = 0) ∨ 16 ≤ c.scrubAge.getD 0)
    let uncounted := fun (u : Block) => u.get (R.CB_ECCCNT_UECNT k) = min (b.get (R.CB_ECCCNT_UECNT k) + 1) 0xFF
    let corrected := fun (u : Block) => u.get (R.CB_ECCCNT_CECNT k) = min (b.get (R.CB_ECCCNT_CECNT k) + 1) 0xFFFF
    let counters := [R.CB_ECCCNT_CECNT k, R.CB_ECCCNT_RFCNT k, R.CB_ECCCNT_UECNT k]
    let given := fun (u : Block) => (u.bankAt k).src.look line = none ∧ (∀ r ∈ (u.bankAt k).repair, r.1 ≠ line) ∧ u.mem = b.mem
    (picked → q ∈ can ∧ (rr = true → (∀ p ∈ can, p.age < 16 ∧ p.rq ≠ c.ownerPE ∧ rrAfter last q.rq ≤ rrAfter last p.rq)) ∧
      (rr = false → (∃ p ∈ can, 16 ≤ p.age) → ∀ p ∈ can, p.age ≤ q.age) ∧
      (rr = false → (∀ p ∈ can, p.age < 16) → q.rq = c.ownerPE)) ∧
    (b.bankPick k = none ↔ can = []) ∧
    (can = [] → Gives (.bankServe k find) s (Same s)) ∧
    (picked → sound → q.kind = .read → Gives (.bankServe k .clean) s fun t => served t.blk ∧ t.blk.mem = b.mem ∧
      answers (b.mem.bytes q.addr q.len) false t.blk) ∧
    (picked → sound → q.kind = .read → Gives (.bankServe k (.correctable false stays)) s fun t => served t.blk ∧
      t.blk.mem = b.mem ∧ answers (b.mem.bytes q.addr q.len) false t.blk ∧
      t.blk.get (R.CB_ERRADDR_LINE k) = q.line % 2 ^ 14 ∧ corrected t.blk) ∧
    (picked → sound → q.kind = .write → Gives (.bankServe k .clean) s fun t => served t.blk ∧ Wrote q.addr q.data b t.blk ∧
      answers [] false t.blk) ∧
    (picked → sound → q.kind = .read → words ≠ 0 → c.src.look q.line = none →
      Gives (.bankServe k (.uncorrectable false words)) s fun t => served t.blk ∧ t.blk.mem = b.mem ∧
        answers [] true t.blk ∧ t.blk.get (R.CB_EVT_UNREP k) = 1 ∧ (t.blk.bankAt k).bad.get q.line 0 ≠ 0 ∧ uncounted t.blk) ∧
    (picked → sound → q.kind = .read → words ≠ 0 → c.src.look q.line = some wb →
      Gives (.bankServe k (.uncorrectable false words)) s fun t => turn t.blk ∧ t.blk.mem = b.mem ∧ t.blk.resps = b.resps ∧
        (t.blk.bankAt k).repair = c.repair ++ [(q.line, false)] ∧ q ∈ (t.blk.bankAt k).waiting) ∧
    (scrubs → Gives (.carafeScrub k find) s fun t => t.blk.mem = b.mem ∧
      t.blk.get (R.CB_SCRUB_NEXT k) = (scrub + 1) % 0x4040 ∧ (find = .correctable second stays → corrected t.blk) ∧
      (find = .clean → OnlyFields [R.CB_SCRUB_NEXT k] (b.setBank k { c with scrubAge := none }) t.blk) ∧
      (find = .uncorrectable second words → words ≠ 0 → b.rowLine k scrub = some line → (t.blk.bankAt k).bad.get line 0 ≠ 0 ∧
        (c.src.look line = none → uncounted t.blk ∧ line ∈ (t.blk.bankAt k).seen ∧
          t.blk.get (R.CB_EVT_UNREP k) = if c.seen.contains line then b.get (R.CB_EVT_UNREP k) else 1) ∧
        (c.src.look line = some wb → ∃ r ∈ (t.blk.bankAt k).repair, r.1 = line))) ∧
    (b.get (R.CB_STAT_PSTATE k) = 2 → ¬scrubs → Gives (.carafeScrub k find) s fun t =>
      t.blk = b.setBank k { c with scrubAge := some (c.scrubAge.getD 0) }) ∧
    (b.get (R.CB_STAT_PSTATE k) ≠ 2 → Gives (.carafeScrub k find) s (Same s)) ∧
    ((c.repair.find? fun r => r.2 == false).map (·.1) = some line →
      (c.src.look line = some wb →
        (err = true → Gives (.secondSourceRefetch k err same stays) s fun t => t.blk = b.setBank k { c with
          repair := c.repair.map fun r => if r.1 = line then (line, true) else r }) ∧
        (err = false → same = true → c.bad.get line 0 < 255 → Gives (.secondSourceRefetch k err same stays) s fun t =>
          Wrote (base + line * 64) (b.mem.bytes (dramBase + 64 * wb) 64) b t.blk ∧ (∀ r ∈ (t.blk.bankAt k).repair, r.1 ≠ line) ∧
            (t.blk.bankAt k).bad.get line 0 = 0 ∧
            t.blk.get (R.CB_ECCCNT_RFCNT k) = min (b.get (R.CB_ECCCNT_RFCNT k) + 1) 0xFF) ∧
        (err = false → same = false ∨ c.bad.get line 0 = 255 → Gives (.secondSourceRefetch k err same stays) s fun t =>
          given t.blk)) ∧
      (c.src.look line = none → Gives (.secondSourceRefetch k err same stays) s fun t => given t.blk)) ∧
    ((∀ r ∈ c.repair, r.2 = true) → Gives (.secondSourceRefetch k err same stays) s (Same s)) ∧
    (b.get (R.CB_STAT_INIT k) ≠ 0 → Gives (.bankInitDone k) s fun t => t.blk.get (R.CB_STAT_INIT k) = 0 ∧
      t.blk.get (R.CB_STAT_PSTATE k) = 2 ∧ (t.blk.bankAt k).src = [] ∧ (t.blk.bankAt k).bad = [] ∧
      (∀ a, a / 2 ^ 20 = k.val → t.blk.mem.read a = 0) ∧ ∀ a, a / 2 ^ 20 ≠ k.val → t.blk.mem.read a = b.mem.read a) ∧
    (b.winOff (R.CB_CTRL_CLRCNT k).off = false → Gives (.bankClrcnt k) s fun t => OnlyFields counters b t.blk ∧
      ∀ f ∈ counters, t.blk.get f = 0) ∧
    Gives (.ownerRemapApply k) s (fun t => t.blk = b.setBank k { c with ownerPE := b.peOf (b.get (R.CB_CTRL_OWNER k)) })

/-- R430 to R439: the Ring Port. A link comes up and goes down, its echo gives the peer and the round trip; a census goes out on every
forwarding link and starts anew; an old or full one is dropped and counted, another enters the event queue and is sent on with one more
hop and its age; credits are offered and held; a spill takes the oldest credit and streams its unit, and ends with SACK, a refusal, no
credit or a timeout, releasing its extent and reservation only with SACK; a received unit lands in the oldest credit's buffer. The free
bytes of event entries are log entry 38, and the limits of submissions and credits are log entry 39. -/
def Obligations.RingPort : Prop :=
  ∀ (l : Fin 4) (id rtt : BitVec 16) (msg : BitVec 512) (size : BitVec 5) (n : BitVec 9) (frame : W32) (data : List Byte) (a : SpillAnswer)
      (find : BankFind) (x : SpillDesc) (s : State), MemOk s → s.blk.still →
    let b := s.blk
    let r := b.rport
    let up := b.linkUp l = true
    let bytes := leBytes msg.toNat 64
    let age := leNat ((bytes.drop 0x10).take 4) + (b.get (R.LINK_RTT_LAST l) + 1) / 2
    let hops := leNat ((bytes.drop 1).take 1) + 1
    let speaks := b.get R.RING_ME_ID != 0xFFFF
    let tail := b.get R.RING_EQTAIL_INDEX
    let entry := b.getAddr R.RING_EQ_LO_ADDR R.RING_EQ_HI_ADDR + 128 * tail
    let room := 320 < 1024 - b.eqUsed
    let posted := fun (kind : Nat) (u : Block) => u.get R.RING_EQTAIL_INDEX = (tail + 1) % 1024 ∧
      (b.reachable entry 128 = true → u.mem.read entry = BitVec.ofNat 8 kind ∧
        ∀ j, j < entry ∨ entry + 128 ≤ j → u.mem.read j = b.mem.read j)
    let sends := fun (ms : List (Nat × RlMsg)) (u : Block) => u.ports.rl = ms
    let bit' := fun (u : Block) => (u.get R.RING_STAT_UP).testBit l
    let first := r.flight.find? (·.link == l.val) = some x
    let ended := fun (ok : Bool) (u : Block) => posted 3 u ∧ u.get R.RING_EVT_SPILLDONE = 1 ∧
      u.get R.RING_EVT_SFAIL = (if ok then b.get R.RING_EVT_SFAIL else 1) ∧ u.rport.flight = r.flight.erase x ∧
      (u.intake.wbRel, u.kettle.moving) = (if ok then (b.intake.wbRel ++ [(x.wbuf, x.wblen)], b.kettle.moving ++ [.release x.kres])
        else (b.intake.wbRel, b.kettle.moving))
    (b.ringOn = true → b.get (R.LINK_CFG_EN l) ≠ 0 → ¬up → Gives (.linkUp l) s fun t => t.blk.linkUp l = true ∧ bit' t.blk = true ∧
      t.blk.get R.RING_EVT_LINKCHG = 1 ∧ OnlyFields [R.LINK_STAT_STATE l, R.RING_STAT_UP, R.RING_EVT_LINKCHG] b t.blk) ∧
    (up → Gives (.linkDown l) s fun t => t.blk.get (R.LINK_STAT_STATE l) = 0 ∧ bit' t.blk = false ∧
      t.blk.get R.RING_EVT_LINKCHG = 1 ∧
      t.blk.offered l = [] ∧ t.blk.creds l = [] ∧ (∀ y ∈ t.blk.rport.flight, y.link ≠ l.val) ∧ t.blk.rport.waiting = r.waiting ∧
      t.blk.get R.RING_EQTAIL_INDEX = (tail + (b.offered l).length + (r.flight.filter (·.link == l.val)).length) % 1024) ∧
    (¬up → Gives (.linkDown l) s (Same s) ∧ Gives (.linkEcho l id rtt) s (Same s) ∧ Gives (.creditReceive l size) s (Same s) ∧
      Gives (.censusReceive l msg) s (Same s) ∧ Gives (.sack l a) s (Same s) ∧ Gives (.spillReceive l frame data) s (Same s)) ∧
    (up → speaks → Gives (.linkEcho l id rtt) s fun t => t.blk.get (R.LINK_PEER_ID l) = id.toNat ∧
      t.blk.get (R.LINK_PEER_VALID l) = 1 ∧ t.blk.get (R.LINK_RTT_LAST l) = rtt.toNat ∧
      t.blk.get (R.LINK_RTT_MAX l) = max (b.get (R.LINK_RTT_MAX l)) rtt.toNat % 2 ^ 16 ∧
      OnlyFields [R.LINK_PEER_ID l, R.LINK_PEER_VALID l, R.LINK_RTT_LAST l, R.LINK_RTT_MAX l] b t.blk) ∧
    (b.ringOn = true → b.get R.RING_CTRL_CENSEN ≠ 0 → b.get R.RING_CENSUS_US ≠ 0 → speaks → Gives .censusSend s fun t =>
      sends (((List.range 4).filter fun j => !b.flag (R.LINK_CFG_NOFWD j) && b.linkUp j).map fun j => (j, .census b.census)) t.blk ∧
        t.blk.rport = { r with frames := [], spilled := false, seq := (r.seq + 1) % 2 ^ 32 } ∧ t.blk.mem = b.mem) ∧
    (up →
      (b.get R.RING_RTTMAX_NS < 2 * age ∨ 255 ≤ hops ∨ ¬room → Gives (.censusReceive l msg) s fun t => t.blk.mem = b.mem ∧
        t.blk.get R.RING_DROP_AGED = min (b.get R.RING_DROP_AGED + 1) 0xFFFF ∧ t.blk.get R.RING_EVT_DROP = 1 ∧ sends [] t.blk) ∧
      (2 * age ≤ b.get R.RING_RTTMAX_NS → hops < 255 → room → Gives (.censusReceive l msg) s fun t => posted 1 t.blk ∧
        t.blk.get R.RING_EVT_CENSUS = 1 ∧ sends (if speaks then ((List.range 4).filter fun j => !b.flag (R.LINK_CFG_NOFWD j) &&
          j != l.val && b.linkUp j).map fun j => (j, .census (bytes.take 1 ++ leBytes hops 1 ++ (bytes.drop 2).take 14 ++
            leBytes age 4 ++ bytes.drop 0x14)) else []) t.blk)) ∧
    (b.get R.RING_CTRL_EN ≠ 0 → up → (b.offered l).length < 16 → 1 ≤ size.toNat → size.toNat ≤ 16 →
      Gives (.creditPush (BitVec.ofNat 2 l) size) s fun t => t.blk.offered l = b.offered l ++
          [(b.getAddr R.RING_CRBUF_LO_ADDR R.RING_CRBUF_HI_ADDR, b.get R.RING_CRKRES_KRES, size.toNat)] ∧
        sends (if speaks then [(l, .credit size.toNat)] else []) t.blk ∧ t.blk.regs = b.regs ∧ t.blk.mem = b.mem) ∧
    (b.get R.RING_CTRL_EN = 0 ∨ ¬up ∨ 16 ≤ (b.offered l).length ∨ size.toNat = 0 ∨ 16 < size.toNat →
      Gives (.creditPush (BitVec.ofNat 2 l) size) s (Same s)) ∧
    (up → (b.creds l).length < 16 → Gives (.creditReceive l size) s fun t => t.blk.creds l = b.creds l ++ [size.toNat] ∧
      (∀ j, j ≠ l.val → t.blk.creds j = b.creds j) ∧ ({ t.blk with rport := b.rport } : Block) = b) ∧
    (b.ringOn = true → b.get R.RING_CTRL_EN ≠ 0 → b.sqWait + n.toNat ≤ 256 → Gives (.ringSubmit n) s fun t =>
      t.blk.rport.due = 0 ∧ t.blk.rport.head = if r.due + n.toNat = 0 then r.head else (r.head + r.due + n.toNat) % 256) ∧
    (b.ringOn = false ∨ b.get R.RING_CTRL_EN = 0 ∨ 256 < b.sqWait + n.toNat → Gives (.ringSubmit n) s (Same s)) ∧
    (∀ c cs, r.due = 0 → b.spillHead l = some x → b.creds l = c :: cs → up → speaks → r.warned = false →
      0 < x.blen → x.blen ≤ 2 ^ 20 →
      (c * 2 ^ 16 < x.blen → Gives (.spillStart l find) s fun t => posted 3 t.blk ∧ t.blk.creds l = c :: cs ∧
        t.blk.rport.waiting = r.waiting.erase x ∧ t.blk.rport.flight = r.flight) ∧
      (x.blen ≤ c * 2 ^ 16 → b.reachable x.buf x.blen = true →
        Gives (.spillStart l .clean) s fun t => sends [(l, .spill x.frame x.cookie (b.mem.bytes x.buf x.blen))] t.blk ∧
          t.blk.creds l = cs ∧ t.blk.rport.waiting = r.waiting.erase x ∧ t.blk.rport.flight = r.flight ++ [x] ∧ t.blk.mem = b.mem) ∧
      (x.blen ≤ c * 2 ^ 16 → b.readLost x.buf x.blen find → Gives (.spillStart l find) s fun t => t.blk.creds l = cs ∧
        t.blk.rport.flight = r.flight ∧
        t.blk.get R.RING_EVT_SFAIL = 1 ∧ t.blk.get R.RING_EVT_SPILLDONE = 1)) ∧
    (b.spillHead l = some x → b.creds l = [] → Gives (.nocred l) s fun t => posted 3 t.blk ∧ t.blk.get R.RING_EVT_SFAIL = 1 ∧
      t.blk.rport.waiting = r.waiting.erase x) ∧
    (b.spillHead l = none ∨ b.creds l ≠ [] → Gives (.nocred l) s (Same s)) ∧
    (r.due = 0 → b.spillHead l = none ∨ b.creds l = [] → Gives (.spillStart l find) s (Same s)) ∧
    (up → first → (a = .sack → Gives (.sack l a) s fun t => ended true t.blk) ∧
      (a = .refused → Gives (.sack l a) s fun t => ended false t.blk)) ∧
    (up → a = .late → Gives (.sack l a) s fun t => t.blk.get R.RING_EVT_LATESACK = 1 ∧
      t.blk.get R.RING_DROP_LATESACK = min (b.get R.RING_DROP_LATESACK + 1) 0xFFFF ∧
      OnlyFields [R.RING_EVT_LATESACK, R.RING_DROP_LATESACK] b t.blk) ∧
    (first → Gives (.spillTimeout l) s fun t => ended false t.blk) ∧
    (r.flight = [] → Gives (.spillTimeout l) s (Same s)) ∧
    (∀ buf kres c cs, b.offered l = (buf, kres, c) :: cs → up →
      (r.warned = true → Gives (.spillReceive l frame data) s fun t => t.blk.offered l = cs ∧ t.blk.mem = b.mem ∧
        sends (if speaks then [(l, .refused)] else []) t.blk) ∧
      (r.warned = false → data ≠ [] → data.length ≤ c * 2 ^ 16 → data.length ≤ 2 ^ 20 → b.reachable buf data.length = true →
        entry + 128 ≤ buf →
        Gives (.spillReceive l frame data) s fun t => t.blk.mem.bytes buf data.length = data ∧ t.blk.offered l = cs ∧
          t.blk.get R.RING_EVT_SPILLIN = 1 ∧ t.blk.rport.frames = r.frames ++ [frame.toNat] ∧ t.blk.rport.spilled = true ∧
          sends (if speaks then [(l, .sack)] else []) t.blk))

/-- R175, R181 to R183, R186 to R188, R488, R503: loading at reset. The root of trust's writes set the manifest and MVALID unless a
check runs; with MVALID and every clock locked the Loader clears all stores and streams (PHASE 1, and 2 from its first read on). The
header is checked before any word is broadcast; each word goes to its microaddress in all 72 stores and to no other; a read that
fails twice, a bad header and a digest that does not match fail the load with their causes and start no engine; a match marks every
store LOADED with the image's version and starts every logical engine on the engine of its reset map. Whole reads (log entry 22),
the byte order of the digest port (log entry 28) and unwritten rows (log entry 19) are the model's choices. -/
def Obligations.ImageLoading : Prop :=
  ∀ (idx : BitVec 4) (data : W32) (find : BankFind) (ok : Bool) (digest : BitVec 384) (x : ImgRead) (w : Nat) (s : State),
    MemOk s → s.blk.still →
    let b := s.blk
    let get := b.get
    let phase := get R.LDR_STAT_PHASE
    let busy := phase = 1 ∨ phase = 2 ∨ phase = 3 ∨ get R.ACT_STAT_PHASE = 1
    let start := get R.LDR_IMGADDR_LO_ADDR + 2 ^ 32 * get R.LDR_IMGADDR_HI_ADDR + x.got
    let k := if x.got < 256 then 128 else min 128 (imgLen x.hdr - x.got)
    let d := b.mem.bytes start k
    let reading := b.spm.img = some x ∧ x.dst = none ∧ k ≠ 0
    let served := find = .clean ∧ b.reachable start k = true
    let failed := fun (cause : Nat) (u : Block) => u.get R.LDR_STAT_PHASE = 5 ∧ u.get R.LDR_STAT_CAUSE = cause ∧ u.spm.img = none ∧
      u.eng = b.eng ∧ ∀ n < 72, u.get (R.ENG_CSSTAT_IMGST n) = 3 ∧ u.get (R.ENG_ID_RUN n) = get (R.ENG_ID_RUN n)
    let whole := x.part ++ d
    let secs := sections x.hdr
    let stored := fun (u : Block) => ∀ n < 72,
      (∀ j, 24 * (j + 1) ≤ whole.length → ∀ a, wordAddr secs (w + j) = some a →
        (u.engine n).row a = BitVec.ofNat 192 (leNat ((whole.drop (24 * j)).take 24))) ∧
      ∀ a < 8192, (∀ j < 7, 24 * (j + 1) ≤ whole.length → wordAddr secs (w + j) ≠ some a) → (u.engine n).row a = (b.engine n).row a
    let sent := fun (first last : Bool) (u : Block) =>
      u.ports.dgq = some ⟨0, first, last, d, if last then some b.manifest else none⟩
    let v := imgVersion x.hdr
    (busy ∨ 12 ≤ idx.toNat → Gives (.rootOfTrustWrite idx data) s (Same s)) ∧
    (¬busy → idx.toNat < 12 → Gives (.rootOfTrustWrite idx data) s fun t =>
      t.blk.get (R.LDR_MANIFEST_DIG idx.toNat) = data.toNat ∧ t.blk.get R.LDR_STAT_MVALID = (if idx.toNat = 11 then 1 else 0) ∧
        OnlyFields [R.LDR_MANIFEST_DIG idx.toNat, R.LDR_STAT_MVALID] b t.blk) ∧
    Gives .pllLock s (fun t => t.blk = { b with spm := { b.spm with locked := true } }) ∧
    (phase = 0 → get R.LDR_STAT_MVALID ≠ 0 → b.spm.locked = true → Gives .loaderStart s fun t => t.blk.get R.LDR_STAT_PHASE = 1 ∧
      t.blk.spm.img = some ⟨none, 0, [], [], false⟩ ∧ t.blk.mem = b.mem ∧ ∀ n < 72, t.blk.get (R.ENG_CSSTAT_IMGST n) = 1 ∧
        t.blk.get (R.ENG_CSSTAT_UEPEND n) = 0 ∧ ∀ a, (t.blk.engine n).row a = fillWord) ∧
    (phase ≠ 0 ∨ get R.LDR_STAT_MVALID = 0 ∨ b.spm.locked = false → Gives .loaderStart s (Same s)) ∧
    (reading → b.readLost start k find →
      (x.retried = false → Gives (.loaderReadData find) s fun t =>
        t.blk.spm = { b.spm with img := some { x with retried := true } } ∧
        t.blk.mem = b.mem ∧ t.blk.get R.LDR_STAT_PHASE = 2) ∧
      (x.retried = true → Gives (.loaderReadData find) s fun t => failed 3 t.blk)) ∧
    (reading → served → x.got = 0 → Gives (.loaderReadData find) s fun t => sent true false t.blk ∧ t.blk.get R.LDR_STAT_PHASE = 2 ∧
      t.blk.spm.img = some ⟨none, 128, x.hdr ++ d, [], false⟩ ∧ t.blk.eng = b.eng ∧ t.blk.mem = b.mem) ∧
    (reading → served → x.got = 128 →
      (headerOk (x.hdr ++ d) = false → Gives (.loaderReadData find) s fun t => failed 1 t.blk) ∧
      (headerOk (x.hdr ++ d) = true → Gives (.loaderReadData find) s fun t => sent false false t.blk ∧
        t.blk.spm.img = some ⟨none, 256, x.hdr ++ d, [], false⟩ ∧ t.blk.eng = b.eng ∧ t.blk.mem = b.mem)) ∧
    (reading → served → headerOk x.hdr = true → x.got = 256 + 24 * w + x.part.length → x.part.length < 24 →
      Gives (.loaderReadData find) s fun t => sent false (decide (x.got + k = imgLen x.hdr)) t.blk ∧ stored t.blk ∧
        t.blk.get R.LDR_STAT_PHASE = (if x.got + k = imgLen x.hdr then 3 else 2) ∧ t.blk.mem = b.mem ∧
        t.blk.spm.img = some ⟨none, x.got + k, x.hdr, whole.drop (whole.length / 24 * 24), false⟩) ∧
    (b.spm.img = some x → x.dst = none → phase = 3 → ok = false → Gives (.digestResult 0 digest ok) s fun t => failed 2 t.blk) ∧
    (b.spm.img = some x → x.dst = none → phase = 3 → ok = true → Gives (.digestResult 0 digest ok) s fun t =>
      t.blk.get R.LDR_STAT_PHASE = 4 ∧ t.blk.get R.LDR_STAT_MVALID = 0 ∧ t.blk.spm.img = none ∧ t.blk.mem = b.mem ∧
      (∀ n < 72, t.blk.get (R.ENG_CSSTAT_IMGST n) = 2 ∧ t.blk.get (R.ENG_CSVER_MAJOR n) = v / 4096 % 16 ∧
        t.blk.get (R.ENG_CSVER_MINOR n) = v / 256 % 16 ∧ t.blk.get (R.ENG_CSVER_PATCH n) = v / 16 % 16 ∧
        t.blk.get (R.ENG_CSVER_MSFV n) = v % 16 ∧ (t.blk.engine n).csDigest = some b.manifest ∧
        (∀ a, (t.blk.engine n).row a = (b.engine n).row a) ∧ t.blk.get (R.peState n) = (if n % 9 = 8 then 2 else 1)) ∧
      ∀ le < 64, t.blk.get (R.mapPE le) = 9 * (le / 8) + le % 8 ∧ t.blk.get (R.mapRun le) = 1 ∧
        t.blk.get (R.ENG_ID_LE (9 * (le / 8) + le % 8)) = le ∧ t.blk.get (R.ENG_ID_RUN (9 * (le / 8) + le % 8)) = 1 ∧
        (t.blk.engine (9 * (le / 8) + le % 8)).startDue = true) ∧
    (b.spm.img = none → Gives (.loaderReadData find) s (Same s))

/-- R499 to R501: digest requests of logical engines. A request block that breaks its rules ends with BADDESC, one that names a context
its engine does not hold with BADCTX, one whose source cannot be read with SRCERR and its context freed; a first part takes the lowest
free context of 1 to 7 and writes its number back; one without LAST ends with OK and keeps the context; with LAST the answer waits for
the digest engine, whose digest or verdict is then written, the status last, and the context is free again. A FIRST request that finds
no free context waits. Whole reads and the byte order of digests are log entries 22 and 28. -/
def Obligations.DigestRequests : Prop :=
  ∀ (find : BankFind) (ok : Bool) (ctx : BitVec 3) (digest : BitVec 384) (le a c res lek : Nat) (cmp db : Bool) (q : List (Nat × Nat)) (s : State),
    MemOk s → s.blk.still →
    let b := s.blk
    let d := b.mem.bytes a 64
    let f := fun (o n : Nat) => leNat ((d.drop o).take n)
    let flag := fun (i : Nat) => (f 1 1).testBit i
    let fine := fun (x n : Nat) => b.reachable x n = true
    let front := b.digQ = (le, a) :: q ∧ fine a 64 ∧ fine (a + 0x18) 1 ∧ fine (a + 3) 1 ∧ b.spm.act = none
    let free := (1 ≤ c ∧ c < 8 ∧ b.dg.look c = none) ∧ ∀ j, 1 ≤ j → j < c → b.dg.look j ≠ none
    let full := ∀ j, 1 ≤ j → j < 8 → b.dg.look j ≠ none
    let holds := b.dg.look c = some ⟨some le, none⟩ ∧ f 3 1 = c ∧ 1 ≤ c
    let src := f 8 8
    let n := f 4 4
    let read := n = 0 ∨ (find = .clean ∧ n ≤ 2 ^ 20 ∧ fine src n)
    let apart := fine src n → src / 64 ≠ (a + 3) / 64 ∧ src / 64 ≠ (a + 0x18) / 64
    let status := fun (v : Nat) (u : Block) => u.mem.read (a + 0x18) = BitVec.ofNat 8 v ∧ u.digQ = q ∧
      (∀ x, x ≠ a + 0x18 → x ≠ a + 3 → u.mem.read x = b.mem.read x) ∧
      (flag 3 = true → u.srcBit R.DIST_PENDSET_PEND (72 + 2 * b.peOf (f 2 1 % 64)) = true)
    let held := fun (u : Block) => u.dg = b.dg.put c ⟨some le, none⟩
    let waits := fun (u : Block) => u.dg = b.dg.put c ⟨some le, some (a, f 0x10 8, flag 2, flag 3, f 2 1 % 64)⟩ ∧ u.digQ = q ∧
      u.mem.read (a + 0x18) = b.mem.read (a + 0x18)
    let sent := fun (u : Block) => u.ports.dgq = some ⟨c, flag 0, flag 1, b.mem.bytes src n,
      if flag 2 then some (b.mem.bytes (f 0x10 8) 48) else none⟩
    (front → digestOk d = false → flag 0 = false → b.dg.look (f 3 1) = none → Gives (.digestRequest find) s fun t =>
      status 4 t.blk ∧ t.blk.dg = b.dg) ∧
    (front → digestOk d = false → flag 0 = true → free → Gives (.digestRequest find) s fun t => status 4 t.blk) ∧
    (front → digestOk d = true → flag 0 = false → (∀ x, b.dg.look (f 3 1) = some x → x.owner ≠ some le ∨ x.job ≠ none) →
      Gives (.digestRequest find) s fun t => status 3 t.blk ∧ t.blk.dg = b.dg) ∧
    (front → digestOk d = true → (flag 0 = true ∧ free) ∨ (flag 0 = false ∧ holds) →
      (n ≠ 0 → b.readLost src n find → apart → Gives (.digestRequest find) s fun t => status 5 t.blk ∧
        t.blk.dg = b.dg.del c ∧ (flag 0 = true → t.blk.mem.read (a + 3) = BitVec.ofNat 8 c)) ∧
      (read → flag 1 = false → Gives (.digestRequest find) s fun t => status 1 t.blk ∧ held t.blk ∧ sent t.blk ∧
        (flag 0 = true → t.blk.mem.read (a + 3) = BitVec.ofNat 8 c)) ∧
      (read → flag 1 = true → flag 2 = true → fine (f 0x10 8) 48 → Gives (.digestRequest find) s fun t => waits t.blk ∧
        sent t.blk) ∧
      (read → flag 1 = true → flag 2 = false → Gives (.digestRequest find) s fun t => waits t.blk ∧ sent t.blk)) ∧
    (b.digQ = [(le, a)] → full → (b.mem.read (a + 1)).getLsbD 0 = true → Gives (.digestRequest find) s (Same s)) ∧
    (b.digQ = [] → Gives (.digestRequest find) s (Same s)) ∧
    (ctx ≠ 0 → b.spm.act = none → fine (a + 0x18) 1 → b.dg.look ctx.toNat = some ⟨some le, some (a, res, cmp, db, lek)⟩ →
      (cmp = true → Gives (.digestResult ctx digest ok) s fun t => Wrote (a + 0x18) [if ok then 1 else 2] b t.blk ∧
        t.blk.dg = b.dg.del ctx.toNat ∧ (db = true → t.blk.srcBit R.DIST_PENDSET_PEND (72 + 2 * b.peOf lek) = true)) ∧
      (cmp = false → fine res 48 → res + 48 ≤ a + 0x18 ∨ a + 0x19 ≤ res → Gives (.digestResult ctx digest ok) s fun t =>
        t.blk.mem.bytes res 48 = leBytes digest.toNat 48 ∧ t.blk.mem.read (a + 0x18) = 1 ∧ t.blk.dg = b.dg.del ctx.toNat ∧
        ∀ x, (x < res ∨ res + 48 ≤ x) → x ≠ a + 0x18 → t.blk.mem.read x = b.mem.read x)) ∧
    (ctx ≠ 0 → b.dg.look ctx.toNat = none → Gives (.digestResult ctx digest ok) s (Same s))

/-- R189 to R195, R314: activation. START is refused with its cause while one runs, with P0 to P3 not empty for RELOAD, without a
manifest, or without an engine to verify on; otherwise the lowest engine without a logical engine is cleared and loaded. A ROLL takes
the clusters in order: it copies the new image into a free engine, moves the lowest logical engine not yet on it, at TRAPOK points
where the MSFV is equal, else at an instruction boundary (R34's 0x0030), or freezes it on its own engine where there is no free one,
and goes on to the next cluster. A RELOAD asks every logical engine to freeze, waits until all are frozen, and then copies everywhere
at once. A fault or ABORT ends either, and ABORT gives up a step that waits for a clock-stop halt. The engine that verifies, the state
after a failed verification and the moment of MAJOR, ABORT and FAULT are log entries 29, 18, 66 and 27, LSEQ is log entry 17, and what
a refused START leaves is log entry 85. -/
def Obligations.Activation : Prop :=
  ∀ (reload : Bool) (n k f src c : Nat) (a : Act) (s : State),
    let b := s.blk
    let get := b.get
    let p := b.spm
    let cl := get R.ACT_STAT_CLUSTER
    let fields := [R.ACT_CTRL_MODE, R.ACT_STAT_STEPS, R.ACT_STAT_CLUSTER, R.ACT_STAT_MSFVCHG, R.ACT_STAT_PHASE, R.ACT_STAT_CAUSE,
      R.SPM_EVT_ACT]
    let over' := fun (cause : Nat) (u : Block) => u.get R.ACT_STAT_PHASE = (if cause = 0 then 5 else 6) ∧
      u.get R.ACT_STAT_CAUSE = cause ∧ u.get R.SPM_EVT_ACT = 1 ∧ u.spm.act = none ∧ u.mem = b.mem
    let refused := fun (cause : Nat) (u : Block) => over' cause u ∧ u.get R.ACT_STAT_STEPS = 0 ∧ u.get R.ACT_STAT_CLUSTER = 0 ∧
      OnlyFields fields b u
    let on := b.drips = false
    let able := p.act = none ∧ get R.LDR_STAT_MVALID ≠ 0 ∧ (reload = true → b.percEmpty % 16 = 15)
    let idleEngine := fun (m : Nat) => get (R.peState m) = 2 ∨ get (R.peState m) = 0
    let open' := p.act = some a ∧ get R.ACT_STAT_PHASE ≠ 1 ∧ p.move = none ∧ p.copies = [] ∧ a.step = none
    let rolling := open' ∧ a.reload = false ∧ a.inPlace = none ∧ a.faulted = false ∧ a.abort = false
    let fresh := fun (m : Nat) => get (R.ENG_CSSTAT_IMGST m) = 2 ∧ (b.engine m).csDigest = some a.digest
    let free := fun (m : Nat) => m < 72 ∧ m / 9 = cl ∧ get (R.peState m) = 2
    let due := fun (l : Nat) => l < 64 ∧ b.peOf l / 9 = cl ∧ get (R.peState (b.peOf l)) = 1 ∧ get (R.ENG_ID_RUN (b.peOf l)) ≠ 0 ∧
      ¬fresh (b.peOf l)
    let next := due k ∧ ∀ l < k, ¬due l
    let source := (src < 72 ∧ fresh src ∧ get (R.ENG_CSSTAT_UEPEND src) = 0) ∧
      ∀ m < src, ¬(fresh m ∧ get (R.ENG_CSSTAT_UEPEND m) = 0)
    let copies := fun (d : Nat) (use : CopyFor) (u : Block) => u.spm = { p with copies := [⟨src, d, use⟩] } ∧
      u.get (R.ENG_CSSTAT_IMGST d) = 1 ∧ OnlyFields [R.ENG_CSSTAT_IMGST d] { b with spm := u.spm } u
    let steps := fun (u : Block) => u = { b with spm := { p with act := some { a with step := some k } } }
    let unasked := fun (l : Nat) => l < 64 ∧ (b.leState l = 0 ∨
      (b.leState l = 1 ∧ (b.engine (b.peOf l)).frozen = false ∧ (b.engine (b.peOf l)).freezeReq = false))
    let quiet := p.move = none ∧ p.hwQ = [] ∧ p.act = some { a with step := some k } ∧
      ∀ m < 72, get (R.peWorn m) ≠ 0 → get (R.peState m) = 1 → b.chooseTarget .trapok m = none
    let home := b.peOf k
    let runs := b.leState k = 0 ∧ get (R.peState home) = 1
    let spare := fun (m : Nat) => m / 9 = home / 9 ∧ m < 72 ∧ get (R.peState m) = 2 ∧ fresh m
    (on → p.act ≠ none → Gives (.activationStart reload) s fun t => t.blk.get R.ACT_STAT_CAUSE = 6 ∧
      OnlyFields [R.ACT_CTRL_MODE, R.ACT_STAT_CAUSE] b t.blk) ∧
    (on → p.act = none → (reload = true → b.percEmpty % 16 = 15) → get R.LDR_STAT_MVALID = 0 →
      Gives (.activationStart reload) s fun t => refused 4 t.blk) ∧
    (on → p.act = none → reload = true → b.percEmpty % 16 ≠ 15 →
      Gives (.activationStart reload) s fun t => refused 9 t.blk) ∧
    (on → able → (∀ m < 72, ¬idleEngine m) → Gives (.activationStart reload) s fun t => refused 7 t.blk) ∧
    (on → able → n < 72 → idleEngine n → (∀ m < n, ¬idleEngine m) → Gives (.activationStart reload) s fun t =>
      t.blk.get R.ACT_STAT_PHASE = 1 ∧ t.blk.get R.ACT_STAT_CAUSE = 0 ∧ t.blk.get (R.ENG_CSSTAT_IMGST n) = 1 ∧
      t.blk.spm.img = some ⟨some n, 0, [], [], false⟩ ∧ (∀ r, (t.blk.engine n).row r = fillWord) ∧
      (∀ m : Nat, m ≠ n → t.blk.engine m = b.engine m) ∧ t.blk.mem = b.mem ∧
      (1 ≤ c → c < 8 → b.dg.look c = none → (∀ j, 1 ≤ j → j < c → b.dg.look j ≠ none) →
        t.blk.spm.act = some ⟨reload, n, some c, [], none, none, false, false⟩ ∧ t.blk.dg.look c = some ⟨none, none⟩) ∧
      ((∀ j, 1 ≤ j → j < 8 → b.dg.look j ≠ none) → t.blk.spm.act = some ⟨reload, n, none, [], none, none, false, false⟩)) ∧
    (b.drips = true → Gives (.activationStart reload) s (Same s) ∧ Gives .activationAbort s (Same s)) ∧
    (on → p.act = some a → (∀ l, a.inPlace = some l → get (R.ENG_DBGSTAT_CSTOP (b.peOf l)) = 0 ∨
      (b.engine (b.peOf l)).frozen = true) →
      (∀ m, p.move = some m → m.origin = 3 → get (R.ENG_DBGSTAT_CSTOP m.src) = 0 ∨ (m.phase ≠ .freeze ∧ m.phase ≠ .copy)) →
      Gives .activationAbort s fun t => t.blk = { b with spm := { p with act := some { a with abort := true } } }) ∧
    (on → p.act = some a → a.inPlace = some k → p.move = none → get (R.ENG_DBGSTAT_CSTOP home) ≠ 0 →
      (b.engine home).frozen = false →
      Gives .activationAbort s fun t => t.blk.spm.act = some { a with inPlace := none, abort := true } ∧ t.blk.leState k = 0 ∧
        (t.blk.engine home).freezeReq = false ∧ t.blk.mem = b.mem) ∧
    (p.act = none ∨ get R.ACT_STAT_PHASE = 1 ∨ p.move ≠ none ∨ p.copies ≠ [] → Gives .activationStep s (Same s)) ∧
    (open' → a.reload = true → get R.ACT_STAT_PHASE = 3 →
      (a.abort = true ∨ a.faulted = true → Gives .activationStep s fun t => over' (if a.faulted then 8 else 10) t.blk ∧
        ∀ l < 64, b.leState l = 1 → t.blk.leState l = 0 ∧ (t.blk.engine (b.peOf l)).frozen = false ∧
          (t.blk.engine (b.peOf l)).freezeReq = false ∧ (t.blk.engine (b.peOf l)).pc = (b.engine (b.peOf l)).pc) ∧
      (a.abort = false → a.faulted = false →
        ((∃ l, unasked l) → Gives .activationStep s fun t => (∀ l < 64, (unasked l → t.blk.leState l = 1 ∧
            (t.blk.engine (b.peOf l)).freezeReq = true) ∧ (¬unasked l → t.blk.leState l = b.leState l)) ∧
          t.blk.get R.ACT_STAT_PHASE = 3 ∧ t.blk.spm.act = some a ∧ t.blk.mem = b.mem) ∧
        ((∀ l, ¬unasked l) → (∃ l < 64, b.leState l = 1 ∧ (b.engine (b.peOf l)).frozen = false) →
          Gives .activationStep s (Same s)) ∧
        ((∀ l, ¬unasked l) → (∀ l < 64, b.leState l = 1 → (b.engine (b.peOf l)).frozen = true) →
          (source → Gives .activationStep s fun t => t.blk.get R.ACT_STAT_PHASE = 4 ∧
            ∀ m < 72, (m ≠ src → get (R.peState m) ≠ 6 → ⟨src, m, .reload⟩ ∈ t.blk.spm.copies ∧
              t.blk.get (R.ENG_CSSTAT_IMGST m) = 1) ∧
              (m = src ∨ get (R.peState m) = 6 → t.blk.get (R.ENG_CSSTAT_IMGST m) = get (R.ENG_CSSTAT_IMGST m))) ∧
          ((∀ m < 72, ¬(fresh m ∧ get (R.ENG_CSSTAT_UEPEND m) = 0)) → Gives .activationStep s (Same s))))) ∧
    (open' → a.reload = false → a.inPlace = none → a.faulted = true → Gives .activationStep s fun t => over' 8 t.blk) ∧
    (open' → a.reload = false → a.inPlace = none → a.faulted = false → a.abort = true → Gives .activationStep s fun t =>
      over' 10 t.blk) ∧
    (open' → a.reload = false → a.inPlace = some k → source → (b.engine home).frozen = true → Gives .activationStep s fun t =>
      copies home (.inPlace k) t.blk) ∧
    (open' → a.reload = false → a.inPlace = some k → (b.engine home).frozen = false → Gives .activationStep s (Same s)) ∧
    (rolling → next → (∃ m, free m ∧ fresh m) → Gives .activationStep s fun t => steps t.blk) ∧
    (rolling → next → source → (∀ m, ¬free m) → Gives .activationStep s fun t => steps t.blk) ∧
    (rolling → next → source → free f → get (R.ENG_CSSTAT_IMGST f) ≠ 1 → (∀ m, free m → ¬fresh m) →
      (∀ m < f, free m → get (R.ENG_CSSTAT_IMGST m) = 1) → Gives .activationStep s fun t => copies f .roll t.blk) ∧
    (rolling → (∀ l, ¬due l) → source → free f → ¬fresh f → (∀ m < f, free m → fresh m) → Gives .activationStep s fun t =>
      copies f .roll t.blk) ∧
    (rolling → (∀ l, ¬due l) → (∀ m, free m → fresh m) →
      (cl = 7 → Gives .activationStep s fun t => over' 0 t.blk) ∧
      (cl < 7 → Gives .activationStep s fun t => t.blk.get R.ACT_STAT_CLUSTER = cl + 1 ∧ t.blk.get R.ACT_STAT_STEPS = 0 ∧
        OnlyFields [R.ACT_STAT_CLUSTER, R.ACT_STAT_STEPS] b t.blk)) ∧
    (quiet → runs → home < 72 → (∀ m, ¬spare m) → Gives .transitionApply s fun t => (t.blk.engine home).freezeReq = true ∧
      t.blk.leState k = 1 ∧ t.blk.spm.act = some { a with step := none, inPlace := some k } ∧ t.blk.mem = b.mem) ∧
    (quiet → runs → home < 72 → f ≠ home → spare f → (∀ m < f, ¬spare m) → Gives .transitionApply s fun t =>
      (∃ m, t.blk.spm.move = some m ∧ m.le = k ∧ m.src = home ∧ m.dst = f ∧ m.phase = .freeze ∧
        m.kind = (if get (R.ENG_CSVER_MSFV home) = get (R.ENG_CSVER_MSFV f) then .trapok else .atMacro)) ∧
      (t.blk.engine home).freezeReq = true ∧ t.blk.leState k = 1 ∧ t.blk.get (R.peState home) = 3 ∧ t.blk.get (R.peState f) = 3 ∧
      t.blk.spm.act = some { a with step := none } ∧ t.blk.mem = b.mem)

/-- R173 to R177, R188, R190, R191, R312, R315: control-store rows and copies. A copy gives the target the source's rows, digest and
version, LOADED and without errors, and leaves the source alone; what it was for goes on. A copy whose source no longer qualifies takes
another one with the same image, or waits. A corrected row is written back, and moved to a new spare row where it reads wrong again; an
uncorrectable one is moved and written from a store with the same image, or from its own; where no spare row or no copy is left the
engine is retired, once a move or a test has ended. Scrub reads one row at a time, and an uncorrectable row that it finds is a strike;
CLRCNT clears CECNT. Unwritten rows are log entry 19. -/
def Obligations.StoreRows : Prop :=
  ∀ (n : PE) (row : BitVec 13) (again own : Bool) (find : EccFind) (c : Copy) (m : Nat) (s : State),
    let b := s.blk
    let get := b.get
    let p := b.spm
    let e := b.engine n
    let r := row.toNat
    let used := get (R.ENG_CSSTAT_SPUSED n)
    let room := used < 64
    let found := fun (ue : Bool) => e.csErr.look r = some ue
    let open' := p.copies.find? (fun x => x.dst == n.val) = some c
    let stands := fun (x : Nat) => get (R.ENG_CSSTAT_IMGST x) = 2 ∧ get (R.ENG_CSSTAT_UEPEND x) = 0
    let copied := open' ∧ stands c.src
    let other := fun (x : Nat) => x < 72 ∧ x ≠ n.val ∧ stands x ∧ (b.engine c.src).csDigest ≠ none ∧
      (b.engine x).csDigest = (b.engine c.src).csDigest
    let version := [(R.ENG_CSVER_DIGPFX c.src, R.ENG_CSVER_DIGPFX n), (R.ENG_CSVER_MAJOR c.src, R.ENG_CSVER_MAJOR n),
      (R.ENG_CSVER_MINOR c.src, R.ENG_CSVER_MINOR n), (R.ENG_CSVER_PATCH c.src, R.ENG_CSVER_PATCH n),
      (R.ENG_CSVER_MSFV c.src, R.ENG_CSVER_MSFV n)]
    let whole := fun (u : Block) => (u.engine n).cs = (b.engine c.src).cs ∧ (u.engine n).csDigest = (b.engine c.src).csDigest ∧
      (u.engine n).csErr = [] ∧ u.get (R.ENG_CSSTAT_IMGST n) = 2 ∧ u.get (R.ENG_CSSTAT_UEPEND n) = 0 ∧
      (∀ x ∈ version, u.get x.2 = get x.1) ∧ u.mem = b.mem ∧ (c.src ≠ n.val → (u.engine c.src).cs = (b.engine c.src).cs)
    let left := p.copies.filter fun x => x.dst != n.val
    let remapped := fun (u : Block) => (u.engine n).csMap.look r = some used ∧ u.get (R.ENG_CSSTAT_SPUSED n) = (used + 1) % 2 ^ 7
    let asked := p.cmdQ.any fun x => x.op == 2 && x.pe == n.val && x.origin == 0
    let retires := fun (u : Block) =>
      (get (R.peState n) = 1 ∨ get (R.peState n) = 3 → (asked = true → u = b) ∧
        (asked = false → p.cmdQ.length < 16 → u.spm.cmdQ = p.cmdQ ++ [⟨2, false, n, 0, 0⟩] ∧ u.eng = b.eng)) ∧
      (get (R.peState n) = 4 → u = { b with spm := { p with retireAfter := p.retireAfter ++ [n.val] } }) ∧
      (get (R.peState n) ≠ 1 → get (R.peState n) ≠ 3 → get (R.peState n) ≠ 4 → u.get (R.peState n) = 6 ∧
        u.get (R.PWR_ENG_STATE n) = 0 ∧ (u.engine n).cs = [])
    let holds := fun (x : Nat) => x < 72 ∧ x ≠ n.val ∧ get (R.ENG_CSSTAT_IMGST x) = 2 ∧ get (R.ENG_CSSTAT_UEPEND x) = 0 ∧
      e.csDigest ≠ none ∧ (b.engine x).csDigest = e.csDigest ∧ (b.engine x).csErr.look r ≠ some true
    let repaired := fun (w : BitVec 192) (u : Block) => (u.engine n).row r = w ∧ remapped u ∧ u.get R.SPM_EVT_CSREPAIR = 1 ∧
      (u.engine n).csErr = e.csErr.del r ∧ u.mem = b.mem ∧ (∀ x : Nat, x ≠ n.val → u.engine x = b.engine x) ∧
      u.get (R.ENG_CSSTAT_UEPEND n) = (if (e.csErr.del r).any (·.2) then get (R.ENG_CSSTAT_UEPEND n) else 0)
    let k := e.csScrub
    let at' := if k < 8192 then some k else (e.csMap.find? fun x => x.2 == k - 8192).map (·.1)
    let reads := get (R.ENG_CSSTAT_IMGST n) = 2 ∧ ∀ x ∈ p.copies, x.src ≠ n.val ∧ x.dst ≠ n.val
    let goes := { e with csScrub := (k + 1) % 8256 }
    let errs := fun (x : Nat) (ue : Bool) (u : Block) => u.engine n = { goes with csErr := goes.csErr.put x ue } ∧
      u.get (R.ENG_CSERR_ROW n) = x % 2 ^ 13 ∧ u.get (R.ENG_CSERR_UE n) = bit ue ∧
      u.get (R.ENG_CSERR_REMAPPED n) = bit (e.csMap.look x).isSome ∧
      (if ue then u.get (R.ENG_CSSTAT_UEPEND n) = 1 else u.get (R.ENG_CSSTAT_CECNT n) = min (get (R.ENG_CSSTAT_CECNT n) + 1) 0xFF) ∧
      OnlyFields ([R.ENG_CSERR_ROW n, R.ENG_CSERR_UE n, R.ENG_CSERR_REMAPPED n, R.ENG_CSSTAT_UEPEND n, R.ENG_CSSTAT_CECNT n] ++
        if ue then [R.peStrikes n, R.SPM_LSEQ_LSEQ] else []) { b with eng := u.eng, spm := u.spm } u ∧
      (ue = true → u.get (R.peStrikes n) =
        (if e.csErr.look x = some true then get (R.peStrikes n) else min (get (R.peStrikes n) + 1) 7))
    (copied → c.use = .roll → Gives (.storeCopyDone n) s fun t => whole t.blk ∧ t.blk.spm = { p with copies := left } ∧
      t.blk.get R.ACT_STAT_STEPS = (get R.ACT_STAT_STEPS + 1) % 16) ∧
    (copied → c.use = .move → Gives (.storeCopyDone n) s fun t => whole t.blk ∧ t.blk.spm.copies = left ∧
      (t.blk.spm.move = p.move.map fun x => if x.phase = .copy then { x with phase := x.kind.first } else x) ∧
      ∀ x, p.move = some x → x.phase = .copy → x.kind ≠ .fault → (t.blk.engine x.src).freezeReq = true) ∧
    (copied → c.use = .restore → Gives (.storeCopyDone n) s fun t => whole t.blk ∧ t.blk.get (R.peState n) = 4 ∧
      t.blk.spm.copies = left) ∧
    (copied → c.use = .reload → (∃ x ∈ left, x.use = .reload) → Gives (.storeCopyDone n) s fun t => whole t.blk ∧
      t.blk.spm = { p with copies := left }) ∧
    (copied → c.use = .reload → (∀ x ∈ left, x.use ≠ .reload) → Gives (.storeCopyDone n) s fun t =>
      t.blk.get R.ACT_STAT_PHASE = 5 ∧ t.blk.get R.ACT_STAT_CAUSE = 0 ∧ t.blk.spm.act = none ∧ t.blk.spm.copies = left ∧
      ∀ l < 64, b.leState l = 1 → t.blk.leState l = 0 ∧ (t.blk.engine (b.peOf l)).startDue = true) ∧
    (copied → c.use = .inPlace m → b.peOf m = n.val → e.frozen = true → Gives (.storeCopyDone n) s fun t => t.blk.leState m = 0 ∧
      (t.blk.engine n).cs = (b.engine c.src).cs ∧ (t.blk.engine n).frozen = false ∧ (t.blk.engine n).hold = .fetch ∧
      (t.blk.engine n).pc = e.pc ∧ t.blk.get R.ACT_STAT_STEPS = (get R.ACT_STAT_STEPS + 1) % 16 ∧
      t.blk.spm.act = p.act.map fun x => { x with inPlace := none }) ∧
    (open' → ¬stands c.src → other m → (∀ x < m, ¬other x) → Gives (.storeCopyDone n) s fun t =>
      t.blk = { b with spm := { p with copies := p.copies.map fun x => if x.dst = n.val then { x with src := m } else x } }) ∧
    (open' → ¬stands c.src → (∀ x, ¬other x) → Gives (.storeCopyDone n) s (Same s)) ∧
    (p.copies.find? (fun x => x.dst == n.val) = none → Gives (.storeCopyDone n) s (Same s)) ∧
    (e.csErr.look r = none → Gives (.csErrorRepair n row again own) s (Same s)) ∧
    (found false → again = false → Gives (.csErrorRepair n row again own) s fun t =>
      t.blk = b.setEngine n { e with csErr := e.csErr.del r }) ∧
    (found false → again = true → room → Gives (.csErrorRepair n row again own) s fun t => remapped t.blk ∧
      (t.blk.engine n).csErr = e.csErr.del r ∧ (t.blk.engine n).cs = e.cs ∧ t.blk.mem = b.mem) ∧
    (found false → again = true → ¬room → Gives (.csErrorRepair n row again own) s fun t => retires t.blk) ∧
    (found true → ¬room → Gives (.csErrorRepair n row again own) s fun t => retires t.blk) ∧
    (found true → room → holds m → (∀ x < m, ¬holds x) → Gives (.csErrorRepair n row again own) s fun t =>
      repaired ((b.engine m).row r) t.blk) ∧
    (found true → room → (∀ x, ¬holds x) → own = true → Gives (.csErrorRepair n row again own) s fun t =>
      repaired (e.row r) t.blk) ∧
    (found true → room → (∀ x, ¬holds x) → own = false → Gives (.csErrorRepair n row again own) s fun t => retires t.blk) ∧
    (¬reads → Gives (.csScrub n find) s (Same s)) ∧
    (reads → find = .clean → Gives (.csScrub n find) s fun t => t.blk = b.setEngine n goes) ∧
    (∀ x, at' = some x → reads →
      (find = .uncorrectable → Gives (.csScrub n find) s fun t => errs x true t.blk) ∧
      (find = .correctable again → Gives (.csScrub n find) s fun t => errs x false t.blk)) ∧
    (reads → at' = none → Gives (.csScrub n find) s fun t => t.blk = b.setEngine n goes) ∧
    (get (R.PWR_ENG_STATE n) = 2 → Gives (.csClrcnt n) s fun t => t.blk.get (R.ENG_CSSTAT_CECNT n) = 0 ∧
      OnlyFields [R.ENG_CSSTAT_CECNT n] b t.blk) ∧
    (get (R.PWR_ENG_STATE n) ≠ 2 → Gives (.csClrcnt n) s (Same s))

/-- R303, R307, R310, R313, R314, R319, R320: the Spare Manager's commands. One that arrives waits in the queue of 16, or is logged at
once with FULL; in Drip a management command is discarded and a register one has no effect. Each is applied alone, in order: MOVE,
RETIRE, RESTORE, TEST and RESTART do what their table says for each state of the engine they name, the target is the SPARE engine with
the fewest strikes, and every refused or ended command writes one log entry with its result. LE and the moment of a log entry are log
entries 71 and 26, RESTORE of an EMPTY engine is log entry 84, and what a command waits for is log entry 85. -/
def Obligations.SpareCommands : Prop :=
  ∀ (mode mgmt : Bool) (pe : BitVec 7) (le : LE) (c : SpmCmd) (q : List SpmCmd) (d f : Nat) (s : State), c.le < 64 →
    let b := s.blk
    let get := b.get
    let p := b.spm
    let i := get R.SPM_STAT_LOGNEXT
    let logged := fun (op r origin pe le : Nat) (u : Block) => u.get (R.SPM_LOG_A_OP i) = op % 16 ∧
      u.get (R.SPM_LOG_A_RESULT i) = r ∧
      u.get (R.SPM_LOG_A_ORIGIN i) = origin % 4 ∧ u.get (R.SPM_LOG_A_PE i) = pe % 128 ∧ u.get (R.SPM_LOG_A_LE i) = le % 64 ∧
      u.get (R.SPM_LOG_B_LSEQ i) = u.get R.SPM_LSEQ_LSEQ ∧ u.get R.SPM_STAT_LOGNEXT = (i + 1) % 8 ∧
      u.get R.SPM_EVT_CMDDONE = 1 ∧ (origin = 2 → u.spm.mgmt = r)
    let origin := if mgmt then 2 else 1
    let asks := fun (x : Instr) (op : Nat) =>
      (b.drips = true → mgmt = true → Gives x s fun t => t.blk = { b with spm := { p with mgmt := 0xF } }) ∧
      (b.drips = true → mgmt = false → Gives x s (Same s)) ∧
      (b.drips = false → p.cmdQ.length < 16 → Gives x s fun t =>
        t.blk.spm = { p with cmdQ := p.cmdQ ++ [⟨op, mode, pe.toNat, le, origin⟩] } ∧
        t.blk.get R.SPM_STAT_QDEPTH = p.cmdQ.length + 1 ∧ OnlyFields [R.SPM_STAT_QDEPTH] { b with spm := t.blk.spm } t.blk) ∧
      (b.drips = false → 16 ≤ p.cmdQ.length → Gives x s fun t => logged op 1 origin pe.toNat le t.blk ∧ t.blk.spm.cmdQ = p.cmdQ ∧
        t.blk.eng = b.eng)
    let st := fun (m : Nat) => get (R.peState m)
    let own := b.peOf c.le
    let front := p.move = none ∧ p.hwQ = [] ∧ p.cmdQ = c :: q ∧ b.stepping = false ∧
      ∀ m < 72, get (R.peWorn m) ≠ 0 → st m = 1 → b.chooseTarget .trapok m = none
    let taken := fun (u : Block) => u.spm.cmdQ = q ∧ u.get R.SPM_STAT_QDEPTH = q.length % 32 ∧ u.mem = b.mem
    let ends := fun (op r pe le : Nat) (u : Block) => taken u ∧ logged op r c.origin pe le u
    let refused := fun (op r pe le : Nat) (u : Block) => ends op r pe le u ∧ u.eng = b.eng ∧ u.spm.move = none ∧
      ∀ m < 72, u.get (R.peState m) = st m
    let applies := fun (P : Block → Prop) => Gives .transitionApply s fun t => P t.blk
    let spare := fun (m : Nat) => m < 72 ∧ st m = 2
    let loaded := fun (m : Nat) => get (R.ENG_CSSTAT_IMGST m) = 2
    let source := fun (m : Nat) => m < 72 ∧ loaded m ∧ get (R.ENG_CSSTAT_UEPEND m) = 0
    let fits := fun (atMac : Bool) (src m : Nat) => loaded m ∧ if atMac then get (R.ENG_CSVER_MAJOR m) = get (R.ENG_CSVER_MAJOR src)
      else get (R.ENG_CSVER_MSFV m) = get (R.ENG_CSVER_MSFV src)
    let best := fun (src : Nat) (ok : Nat → Prop) => spare d ∧ d / 9 = src / 9 ∧ ok d ∧ ∀ m, spare m → m / 9 = src / 9 → ok m →
      get (R.peStrikes d) < get (R.peStrikes m) ∨ get (R.peStrikes d) = get (R.peStrikes m) ∧ d ≤ m
    let pick := fun (src : Nat) (ok : Nat → Prop) => b.rolling (src / 9) = false ∧ best src ok
    let same := fun (src m : Nat) => loaded m ∧ (b.engine src).csDigest ≠ none ∧ (b.engine m).csDigest = (b.engine src).csDigest
    let begun := fun (l src op : Nat) (kind : MoveKind) (retire : Bool) (phase : MovePhase) (u : Block) => taken u ∧
      u.spm.move = some ⟨l, src, d, kind, op, c.origin, retire, phase, false, none⟩ ∧ u.get (R.peState src) = 3 ∧
        u.get (R.peState d) = 3 ∧
      u.leState l = 1 ∧ u.get (R.mapRun l) = 0 ∧ u.get R.SPM_STAT_BUSY = 1 ∧
      u.get R.SPM_LSEQ_LSEQ = (get R.SPM_LSEQ_LSEQ + 1) % 2 ^ 32 ∧
        u.engine src = (if phase = .copy then b.engine src else { b.engine src with freezeReq := true }) ∧
      u.get R.SPM_STAT_LOGNEXT = i
    let movable := b.leState c.le = 0 ∧ st own = 1 ∧ own < 72
    let kind := if c.mode then MoveKind.atMacro else .trapok
    let mine := get (R.ENG_ID_LE c.pe)
    let stopped := b.leState c.le = 2 ∨ b.leState c.le = 3
    let kept := st own = 5 ∧ get (R.ENG_ID_LE own) = c.le ∧ get (R.ENG_ID_RUN own) ≠ 0 ∧ own < 72
    let restarted := fun (m : Nat) (u : Block) => ends 5 0 m c.le u ∧ u.get (R.peState m) = 1 ∧ u.peOf c.le = m ∧
      u.get (R.ENG_ID_LE m) = c.le ∧ u.get (R.ENG_ID_RUN m) = 1 ∧ (u.engine m).startDue = true ∧ u.leState c.le = 0 ∧
      u.crema = b.crema.filter fun x => x.2.held != some c.le
    asks (.spmMove mode pe le mgmt) 1 ∧ asks (.spmRetire mode pe le mgmt) 2 ∧ asks (.spmRestore mode pe le mgmt) 3 ∧
    asks (.spmTest mode pe le mgmt) 4 ∧ asks (.spmRestart mode pe le mgmt) 5 ∧
    (front → c.op = 1 →
      (72 ≤ c.pe → c.pe ≠ 0x7F → applies (refused 1 2 c.pe c.le)) ∧
      (c.pe < 72 ∨ c.pe = 0x7F → b.leState c.le ≠ 0 ∨ st own ≠ 1 → applies (refused 1 3 c.pe c.le)) ∧
      (movable → c.pe < 72 → ¬(spare c.pe ∧ fits c.mode own c.pe) → applies (refused 1 3 c.pe c.le)) ∧
      (movable → c.pe = d → spare d → fits c.mode own d → applies (begun c.le own 1 kind false .freeze)) ∧
      (movable → c.pe = 0x7F → pick own (fits c.mode own) → applies (begun c.le own 1 kind false .freeze)) ∧
      (movable → c.pe = 0x7F → b.rolling (own / 9) = true → best own (same own) → applies (begun c.le own 1 kind false .freeze)) ∧
      (movable → c.pe = 0x7F → (∀ m, ¬spare m) → applies (refused 1 4 0x7F c.le)) ∧
      (movable → c.pe = 0x7F → (∀ m, spare m → ¬fits c.mode own m) → pick own (fun m => get (R.ENG_CSSTAT_IMGST m) ≠ 1) →
        source f → fits c.mode own f → (∀ m < f, ¬(source m ∧ fits c.mode own m)) → applies fun u =>
          begun c.le own 1 kind false .copy u ∧ u.spm.copies = p.copies ++ [⟨f, d, .move⟩])) ∧
    (front → c.op = 2 →
      (72 ≤ c.pe → applies (refused 2 2 c.pe c.le)) ∧
      (c.pe < 72 → st c.pe = 2 ∨ st c.pe = 5 → applies fun u => ends 2 0 c.pe c.le u ∧ u.get (R.peState c.pe) = 6 ∧
        u.get (R.PWR_ENG_STATE c.pe) = 0 ∧ u.get (R.ENG_CSSTAT_IMGST c.pe) = 0 ∧ (u.engine c.pe).cs = []) ∧
      (c.pe < 72 → st c.pe = 4 → applies fun u => refused 2 0 c.pe c.le u ∧ u.spm.retireAfter = p.retireAfter ++ [c.pe]) ∧
      (c.pe < 72 → st c.pe = 6 → applies (refused 2 0 c.pe c.le)) ∧
      (c.pe < 72 → st c.pe = 0 → applies (refused 2 3 c.pe c.le)) ∧
      (c.pe < 72 → st c.pe = 1 → mine < 64 → pick c.pe (fits false c.pe) → applies (begun mine c.pe 2 .trapok true .freeze)) ∧
      (c.pe < 72 → st c.pe = 1 → (∀ m, ¬spare m) → applies (refused 2 4 0x7F mine))) ∧
    (front → c.op = 3 →
      (72 ≤ c.pe → applies (refused 3 2 c.pe c.le)) ∧
      (c.pe < 72 → st c.pe ≠ 6 → st c.pe ≠ 0 → applies (refused 3 3 c.pe c.le)) ∧
      (c.pe < 72 → st c.pe = 6 ∨ st c.pe = 0 → (∀ m, ¬source m) → applies (refused 3 4 c.pe c.le)) ∧
      (c.pe < 72 → st c.pe = 6 ∨ st c.pe = 0 → source f → (∀ m < f, ¬source m) → applies fun u => taken u ∧
        u.get (R.PWR_ENG_STATE c.pe) = 2 ∧ u.get (R.ENG_CSSTAT_IMGST c.pe) = 1 ∧ u.get (R.peStrikes c.pe) = 0 ∧
          u.get (R.peWorn c.pe) = 0 ∧ u.spm.copies = p.copies ++ [⟨f, c.pe, .restore⟩] ∧
        u.spm.testOf.look c.pe = some (3, c.origin, c.le))) ∧
    (front → c.op = 4 →
      (72 ≤ c.pe → applies (refused 4 2 c.pe c.le)) ∧
      (c.pe < 72 → st c.pe ≠ 2 → applies (refused 4 3 c.pe c.le)) ∧
      (c.pe < 72 → st c.pe = 2 → applies fun u => taken u ∧ u.get (R.peState c.pe) = 4 ∧ (u.engine c.pe).running = false ∧
        u.spm.testOf.look c.pe = some (4, c.origin, c.le) ∧ u.get R.SPM_STAT_LOGNEXT = i)) ∧
    (front → c.op = 5 →
      (72 ≤ c.pe → c.pe ≠ 0x7F → applies (refused 5 2 c.pe c.le)) ∧
      (c.pe < 72 ∨ c.pe = 0x7F → ¬stopped → applies (refused 5 3 c.pe c.le)) ∧
      (stopped → c.pe = 0x7F → kept → get (R.peStrikes own) < get R.SPM_POLICY_STRIKEMAX → applies (restarted own)) ∧
      (stopped → c.pe = 0x7F → ¬kept ∨ get R.SPM_POLICY_STRIKEMAX ≤ get (R.peStrikes own) → own < 72 → (∀ m, ¬spare m) →
        applies (refused 5 4 0x7F c.le)) ∧
      (stopped → c.pe = 0x7F → kept → get R.SPM_POLICY_STRIKEMAX ≤ get (R.peStrikes own) → best own loaded → applies fun u =>
        restarted d u ∧ u.get (R.peState own) = 4 ∧ u.get (R.ENG_ID_RUN own) = 0) ∧
      (stopped → c.pe < 72 → st c.pe = 2 → ¬kept → applies (restarted c.pe)) ∧
      (stopped → c.pe < 72 → st c.pe ≠ 2 → c.pe ≠ own → applies (refused 5 3 c.pe c.le))) ∧
    (front → c.op = 0 ∨ 5 < c.op → applies (refused c.op 2 c.pe c.le))

/-- R297, R298, R300, R301, R303, R304, R307 to R309, R312, R314, R316, R341, R346: hardware transitions and moves. A fault moves the
logical engine onto the best target or leaves it OFFLINE, a data fault leaves it OFFLINE without a strike; a worn engine is moved, one
that locked up or expired twice is stopped, and a tag row gets a spare row. A move drains, transfers its frame, switches the map and
everything held by target, and resumes on the target once every bank has taken the new map; a second CRC failure ends it. A stop or a
data fault of the source ends a move that has not reached its freeze point, a hard fault turns it into a FAULT move. LSEQ is log entry
17, what a move carries beside the frame is log entry 64, and the data fault during a move is log entry 85. -/
def Obligations.SpareMoves : Prop :=
  ∀ (crcOk : Bool) (ns : BitVec 16) (q : List HwReq) (n k d : Nat) (m : Move) (s : State),
    let b := s.blk
    let get := b.get
    let p := b.spm
    let i := get R.SPM_STAT_LOGNEXT
    let entry := fun (j op r origin pe le : Nat) (u : Block) => u.get (R.SPM_LOG_A_OP j) = op % 16 ∧
      u.get (R.SPM_LOG_A_RESULT j) = r ∧ u.get (R.SPM_LOG_A_ORIGIN j) = origin % 4 ∧ u.get (R.SPM_LOG_A_PE j) = pe % 128 ∧
      u.get (R.SPM_LOG_A_LE j) = le % 64 ∧ u.get R.SPM_EVT_CMDDONE = 1
    let logged := fun (op r origin pe le : Nat) (u : Block) => entry i op r origin pe le u ∧ u.get R.SPM_STAT_LOGNEXT = (i + 1) % 8
    let st := fun (m : Nat) => get (R.peState m)
    let le := get (R.ENG_ID_LE n)
    let strikes := fun (m : Nat) => min (get (R.peStrikes m) + 1) 7
    let applies := fun (P : Block → Prop) => Gives .transitionApply s fun t => P t.blk ∧ t.blk.spm.hwQ = q ∧ t.blk.mem = b.mem
    let noWear := ∀ x < 72, get (R.peWorn x) ≠ 0 → st x = 1 → b.chooseTarget .trapok x = none ∨ ∃ r ∈ p.hwQ, r.pe = some x
    let ready := fun (r : HwReq) => p.move = none ∧ p.act = none ∧ p.hwQ = r :: q ∧ n < 72 ∧ le < 64 ∧ noWear
    let spare := fun (x : Nat) => x < 72 ∧ st x = 2
    let fits := fun (x : Nat) => get (R.ENG_CSSTAT_IMGST x) = 2 ∧ get (R.ENG_CSVER_MSFV x) = get (R.ENG_CSVER_MSFV n)
    let best := spare d ∧ d / 9 = n / 9 ∧ fits d ∧ ∀ x, spare x → x / 9 = n / 9 → fits x →
      get (R.peStrikes d) < get (R.peStrikes x) ∨ get (R.peStrikes d) = get (R.peStrikes x) ∧ d ≤ x
    let offline := fun (u : Block) => u.leState le = 3 ∧ u.get (R.mapRun le) = 0 ∧ u.get (R.ENG_ID_RUN n) = 0 ∧
      u.get R.SPM_EVT_OFFLINE = 1 ∧ u.srcBit R.DIST_PENDSET_PEND n = true
    let active := p.move = some m ∧ m.src < 72 ∧ m.dst < 72 ∧ m.src ≠ m.dst ∧ m.le < 64
    let phase := fun (ph : MovePhase) (u : Block) => u = { b with spm := { p with move := some { m with phase := ph } } }
    let src := b.engine m.src
    let waits := m.phase = .freeze ∨ m.phase = .copy
    let ended := fun (r : Nat) (u : Block) => u.spm.move = none ∧ u.get R.SPM_STAT_BUSY = 0 ∧ entry i m.op r m.origin m.dst m.le u ∧
      u.mem = b.mem ∧ (m.also = none → u.get R.SPM_STAT_LOGNEXT = (i + 1) % 8) ∧ ∀ x, m.also = some x →
        entry ((i + 1) % 8) x.1 r x.2 m.dst m.le u ∧ u.get R.SPM_STAT_LOGNEXT = (i + 2) % 8
    let carried := fun (t : Engine) => t.gV = src.gV ∧ t.gT = src.gT ∧ t.sp = src.sp ∧ t.st = src.st ∧ t.pc = src.pc ∧
      t.vr = src.vr ∧
      t.ctxid = src.ctxid ∧ t.vbase = src.vbase ∧ t.ftpc = src.ftpc ∧ t.faddr = src.faddr ∧ t.fcause = src.fcause ∧ t.rg = src.rg ∧
      t.kern = src.kern ∧ t.frozen = true ∧ t.cs = (b.engine m.dst).cs
    let utpc := BitVec.ofNat 13 (get (R.ENG_USTAT_UTPC m.src))
    let micro := fun (t : Engine) => t.u = src.u ∧ t.ir = src.ir ∧ t.mdr = src.landed.mdr ∧ t.fpr = src.landed.fpr ∧
      t.lat = src.lat ∧
      t.l = src.l ∧ t.ustack = src.ustack ∧ t.upc = (if m.kind = .fault then src.upc else src.resumeAt utpc) ∧ t.long = src.long ∧
      ∀ x y z, src.slots.look x = some (.held y z) → t.slots.look x = some (.held y z)
    let unlocked := get (R.ENG_LKSTAT_LKACT m.src) = 0
    (ready (.fault n true) → applies fun u => offline u ∧ u.get (R.peState n) = 2 ∧ logged 8 6 0 n le u ∧ u.spm.move = none ∧
      (∀ x < 72, u.get (R.peStrikes x) = get (R.peStrikes x)) ∧ (u.engine n).running = false) ∧
    (ready (.fault n false) → st n = 1 ∨ st n = 3 → best → applies fun u =>
      u.spm.move = some ⟨le, n, d, .fault, 8, 0, false, .drain, false, none⟩ ∧
      u.get (R.peState n) = 3 ∧ u.get (R.peState d) = 3 ∧ u.leState le = 1 ∧ u.get (R.peStrikes n) = get (R.peStrikes n) ∧
      (u.engine n).frozen = true ∧ u.get (R.ENG_LKSTAT_LKACT n) = 0 ∧
      (get (R.ENG_LKSTAT_LKACT n) = 0 → u.engine n = { b.engine n with frozen := true, freezeReq := false }) ∧
        u.srcBit R.DIST_PENDSET_PEND n = b.srcBit R.DIST_PENDSET_PEND n) ∧
    (ready (.fault n false) → st n = 1 ∨ st n = 3 → (∀ x, ¬spare x) → applies fun u => offline u ∧ u.get (R.peState n) = 4 ∧
      u.get (R.peStrikes n) = strikes n ∧ logged 8 4 0 n le u) ∧
    (ready (.wear n) → st n = 1 → best → applies fun u => u.spm.move = some ⟨le, n, d, .trapok, 9, 0, true, .freeze, false, none⟩ ∧
      u.engine n = { b.engine n with freezeReq := true } ∧ u.get (R.peState n) = 3 ∧ u.get (R.peState d) = 3) ∧
    (p.move = none → p.hwQ = [.wear n] → n < 72 → st n = 1 → (∀ x, ¬spare x) → p.act = none → Gives .transitionApply s fun t =>
      t.blk.spm.hwQ = [] ∧ t.blk.regs = b.regs ∧ t.blk.eng = b.eng) ∧
    (ready (.stop n) → applies fun u => u.get (R.peState n) = 5 ∧ u.get (R.peStrikes n) = strikes n ∧ (u.engine n).running = false ∧
      (get (R.ENG_ID_RUN n) ≠ 0 → u.leState le = 2 ∧ u.get (R.mapRun le) = 0) ∧ logged 10 0 0 n le u) ∧
    (ready (.tagRow k) → get R.SPM_TAGSP_USED < 1312 → applies fun u => u.intake.rowMap = b.intake.rowMap ++ [k] ∧
      u.get R.SPM_TAGSP_USED = get R.SPM_TAGSP_USED + 1 ∧ logged 11 0 0 0x7F 0 u) ∧
    (ready (.tagRow k) → 1312 ≤ get R.SPM_TAGSP_USED → applies fun u => k ∈ u.intake.retiring ∧ u.intake.rowMap = b.intake.rowMap ∧
      logged 11 0 0 0x7F 0 u) ∧
    (p.move = none → p.hwQ = [] → p.act = none → p.cmdQ = [] → noWear → Gives .transitionApply s (Same s)) ∧
    (active → waits → m.also = none → p.hwQ = [.stop m.src] → p.act = none → (∀ x < 72, get (R.peWorn x) = 0) →
      Gives .transitionApply s fun t => t.blk.spm.move = none ∧ t.blk.get R.SPM_STAT_BUSY = 0 ∧
        entry i m.op 3 m.origin m.dst m.le t.blk ∧
        t.blk.get R.SPM_STAT_LOGNEXT = (i + 2) % 8 ∧ t.blk.get (R.peState m.dst) = 2 ∧ t.blk.get (R.peState m.src) = 5 ∧
        t.blk.get (R.peStrikes m.src) = strikes m.src ∧ t.blk.mem = b.mem) ∧
    (active → waits → m.also = none → p.hwQ = [.fault m.src true] → p.act = none → (∀ x < 72, get (R.peWorn x) = 0) →
      get (R.ENG_ID_LE m.src) = m.le → Gives .transitionApply s fun t => t.blk.spm.move = none ∧
        entry i m.op 3 m.origin m.dst m.le t.blk ∧
        entry ((i + 1) % 8) 8 6 0 m.src m.le t.blk ∧ t.blk.leState m.le = 3 ∧ t.blk.get (R.peState m.dst) = 2 ∧
        t.blk.get (R.peState m.src) = 2 ∧ t.blk.mem = b.mem) ∧
    (active → m.kind ≠ .fault → src.resFault = true → .stop m.src ∉ p.hwQ → .fault m.src true ∉ p.hwQ →
      (m.phase = .freeze → Gives .transitionApply s fun t => (t.blk.engine m.src).frozen = true ∧
        t.blk.spm.move = some { m with kind := .fault, phase := .drain, op := 8, origin := 0, also := some (m.op, m.origin) } ∧
        (unlocked → t.blk.engine m.src = { src with frozen := true, freezeReq := false } ∧ t.blk.regs = b.regs)) ∧
      (m.phase = .copy → Gives .transitionApply s fun t => t.blk.eng = b.eng ∧ t.blk.regs = b.regs ∧
        t.blk.spm.move = some { m with kind := .fault, op := 8, origin := 0, also := some (m.op, m.origin) })) ∧
    (active → ¬waits → p.act = none → noWear → Gives .transitionApply s (Same s)) ∧
    (active → m.phase = .drain → b.drained m.src = true → Gives .moveDrainDone s fun t => phase .transfer t.blk) ∧
    (active → m.phase ≠ .drain ∨ b.drained m.src = false → Gives .moveDrainDone s (Same s)) ∧
    (active → m.phase = .transfer → crcOk = true → Gives (.moveTransferDone crcOk) s fun t => carried (t.blk.engine m.dst) ∧
      (m.kind ≠ .atMacro → micro (t.blk.engine m.dst)) ∧ (m.kind = .atMacro → (t.blk.engine m.dst).hold = .fetch) ∧
      t.blk.get (R.ENG_WDG_CNT_COUNT m.dst) = get (R.ENG_WDG_CNT_COUNT m.src) ∧
      t.blk.get (R.ENG_WDG_PERIOD_PERIOD m.dst) = get (R.ENG_WDG_PERIOD_PERIOD m.src) ∧
      t.blk.spm = { p with move := some { m with phase := .remap } } ∧ t.blk.mem = b.mem ∧
      ∀ x : Nat, x ≠ m.dst → t.blk.engine x = b.engine x) ∧
    (active → m.phase = .transfer → crcOk = false → m.crcBad = false → Gives (.moveTransferDone crcOk) s fun t =>
      t.blk = { b with spm := { p with move := some { m with crcBad := true } } }) ∧
    (active → m.phase = .transfer → crcOk = false → m.crcBad = true →
      (m.kind ≠ .fault → Gives (.moveTransferDone crcOk) s fun t => ended 5 t.blk ∧ t.blk.get (R.peState m.dst) = 4 ∧
        t.blk.get (R.peStrikes m.dst) = strikes m.dst ∧ t.blk.get (R.peState m.src) = 1 ∧ t.blk.leState m.le = 0 ∧
        t.blk.peOf m.le = b.peOf m.le ∧ (t.blk.engine m.src).frozen = false ∧ (t.blk.engine m.src).pc = src.pc) ∧
      (m.kind = .fault → Gives (.moveTransferDone crcOk) s fun t => ended 5 t.blk ∧ t.blk.get (R.peState m.dst) = 4 ∧
        t.blk.get (R.peState m.src) = 4 ∧ t.blk.get (R.peStrikes m.src) = strikes m.src ∧
        t.blk.get (R.peStrikes m.dst) = strikes m.dst ∧ t.blk.leState m.le = 3 ∧
        t.blk.srcBit R.DIST_PENDSET_PEND m.src = true)) ∧
    (active → m.phase = .remap → Gives .moveRemap s fun t => t.blk.peOf m.le = m.dst ∧ t.blk.get (R.peState m.dst) = 1 ∧
      t.blk.get (R.ENG_ID_LE m.dst) = m.le ∧ t.blk.get (R.ENG_ID_RUN m.dst) = 1 ∧ t.blk.get (R.ENG_ID_RUN m.src) = 0 ∧
      t.blk.get (R.peState m.src) = (if m.kind = .fault then 4 else if m.retire then 6 else 2) ∧
      (m.kind = .fault → t.blk.get (R.peStrikes m.src) = strikes m.src) ∧
      t.blk.get R.SPM_LSEQ_LSEQ = (get R.SPM_LSEQ_LSEQ + 1) % 2 ^ 32 ∧
      t.blk.get (R.DIST_THRESH_THR (2 * m.dst)) = get (R.DIST_THRESH_THR (2 * m.src)) ∧
      t.blk.get (R.DIST_THRESH_THR (2 * m.dst + 1)) = get (R.DIST_THRESH_THR (2 * m.src + 1)) ∧
      t.blk.srcBit R.DIST_PENDSET_PEND (72 + 2 * m.dst) = b.srcBit R.DIST_PENDSET_PEND (72 + 2 * m.src) ∧
      (∀ g < 128, g < 9 ∨ 26 < g → get (R.routeByte g) = 2 * m.src → t.blk.get (R.routeByte g) = 2 * m.dst) ∧
      t.blk.spm.move = some { m with phase := .ack } ∧ t.blk.mem = b.mem) ∧
    (active → m.phase = .ack → (∃ j < 64, get (R.CB_CTRL_OWNER j) = m.le ∧ (b.bankAt j).ownerPE ≠ m.dst) →
      Gives (.remapAcknowledged ns) s (Same s)) ∧
    (active → m.phase = .ack → (∀ j < 64, get (R.CB_CTRL_OWNER j) = m.le → (b.bankAt j).ownerPE = m.dst) →
      Gives (.remapAcknowledged ns) s fun t => ended 0 t.blk ∧ t.blk.leState m.le = 0 ∧
      t.blk.get (R.mapRun m.le) = 1 ∧ (t.blk.engine m.dst).running = true ∧ (t.blk.engine m.dst).frozen = false ∧
      (t.blk.engine m.dst).pc = (b.engine m.dst).pc ∧ (t.blk.engine m.dst).upc = (b.engine m.dst).upc ∧
      t.blk.get R.SPM_MIGCNT_ALL = min (get R.SPM_MIGCNT_ALL + 1) 0xFFFF ∧ t.blk.get R.SPM_MIGLAST_LAST = ns.toNat ∧
      t.blk.get R.SPM_MIGLAST_MAX = max ns.toNat (get R.SPM_MIGLAST_MAX) ∧
      (m.kind = .fault → t.blk.get R.SPM_EVT_FAULTMOVE = 1 ∧
        t.blk.get R.SPM_MIGCNT_FAULT = min (get R.SPM_MIGCNT_FAULT + 1) 0xFFFF)) ∧
    (p.move = none → Gives .moveDrainDone s (Same s) ∧ Gives (.moveTransferDone crcOk) s (Same s) ∧ Gives .moveRemap s (Same s) ∧
      Gives (.remapAcknowledged ns) s (Same s))

/-- R310 to R314, R317, R318: the engine test, wear and the mirror. A test that passes leaves the engine SPARE unless its strikes, its
WORN bit or a RETIRE say otherwise, one that fails RETIRED, and the command that asked for it is logged. A sampling period wears out the
engines whose RETRY rose by RETRYLIM, and a WORN ACTIVE engine is moved as soon as there is a target. Outside Drip the mirror takes over
LSEQ first, then one changed unit's word at a time. When a TEST command is logged is log entry 26. -/
def Obligations.TestsWearMirror : Prop :=
  ∀ (n : PE) (pass : Bool) (op origin le d u : Nat) (f : Option Nat) (rest : List Nat) (s : State),
    let b := s.blk
    let get := b.get
    let p := b.spm
    let i := get R.SPM_STAT_LOGNEXT
    let retires := pass = false ∨ n.val ∈ p.retireAfter ∨ get (R.peWorn n) ≠ 0 ∨
      get R.SPM_POLICY_STRIKEMAX ≤ get (R.peStrikes n)
    let lim := get R.SPM_POLICY_RETRYLIM
    let rise := get (R.ENG_RES_RETRY n) - p.retryBase.get n 0
    let wears := lim ≠ 0 ∧ lim ≤ rise ∧ get (R.peWorn n) = 0
    let summary := if u < 72
      then get (R.peState u) + 8 * get (R.peStrikes u) + 64 * get (R.peWorn u) + 128 * get (R.ENG_ID_LE u) + 2 ^ 13 * get (R.ENG_ID_RUN u)
      else get (R.mapPE (u - 384)) + 128 * get (R.mapRun (u - 384)) + 256 * b.leState (u - 384)
    (get (R.peState n) = 4 → Gives (.engineTestDone n pass) s fun t => t.blk.mem = b.mem ∧
      (retires → t.blk.get (R.peState n) = 6 ∧ t.blk.get (R.PWR_ENG_STATE n) = 0 ∧ (t.blk.engine n).cs = [] ∧
        t.blk.get (R.ENG_CSSTAT_IMGST n) = 0) ∧
      (¬retires → t.blk.get (R.peState n) = 2 ∧ t.blk.eng = b.eng) ∧
      t.blk.get R.SPM_LSEQ_LSEQ = (get R.SPM_LSEQ_LSEQ + 1) % 2 ^ 32 ∧ n.val ∉ t.blk.spm.retireAfter ∧
      (p.testOf.look n = some (op, origin, le) → t.blk.get (R.SPM_LOG_A_OP i) = op % 16 ∧
        t.blk.get (R.SPM_LOG_A_RESULT i) = (if pass then 0 else 7) ∧ t.blk.get (R.SPM_LOG_A_PE i) = n.val ∧
        t.blk.get R.SPM_STAT_LOGNEXT = (i + 1) % 8) ∧
      (p.testOf.look n = none → t.blk.get R.SPM_STAT_LOGNEXT = i)) ∧
    (get (R.peState n) ≠ 4 → Gives (.engineTestDone n pass) s (Same s)) ∧
    Gives .wearSample s (fun t => t.blk.mem = b.mem ∧ t.blk.eng = b.eng ∧
      t.blk.spm.retryBase.get n 0 = get (R.ENG_RES_RETRY n) ∧
      t.blk.get (R.peWorn n) = (if wears then 1 else get (R.peWorn n)) ∧
      t.blk.spm.hwQ = p.hwQ ∧
      ∀ x : Nat, t.blk.get (R.peState x) = get (R.peState x) ∧ t.blk.get (R.peStrikes x) = get (R.peStrikes x)) ∧
    (get (R.peWorn n) ≠ 0 → get (R.peState n) = 1 → p.move = none → p.hwQ = [] → p.act = none →
      b.chooseTarget .trapok n = some (d, f) →
      (∀ x < 72, x ≠ n.val → get (R.peWorn x) ≠ 0 → get (R.peState x) = 1 → b.chooseTarget .trapok x = none) →
      Gives .transitionApply s fun t => t.blk.spm.hwQ = [] ∧ t.blk.spm.move = some ⟨get (R.ENG_ID_LE n), n, d, .trapok, 9, 0, true,
        if f = none then .freeze else .copy, false, none⟩) ∧
    (b.drips = true → Gives .mirrorUpdate s (Same s)) ∧
    (b.drips = false → p.lseqAon ≠ get R.SPM_LSEQ_LSEQ → Gives .mirrorUpdate s fun t =>
      t.blk = { b with spm := { p with lseqAon := get R.SPM_LSEQ_LSEQ } }) ∧
    (b.drips = false → p.lseqAon = get R.SPM_LSEQ_LSEQ → p.mirQ = [] → Gives .mirrorUpdate s (Same s)) ∧
    (b.drips = false → p.lseqAon = get R.SPM_LSEQ_LSEQ → p.mirQ = u :: rest → u < 72 ∨ 384 ≤ u ∧ u < 448 →
      Gives .mirrorUpdate s fun t =>
      t.blk = { b with spm := { p with
        mirror := p.mirror.put u summary, mirQ := rest, mseq := if rest = [] then p.lseqAon else p.mseq } })

/-- R4, R183, R218, R266, R288, R456, R514: the resets and the power-fail warning's arrival. A power-on reset returns everything but
SEALED and the DRAM window; a block reset leaves PD1, the remap tables and GLB_RSTCAUSE, where it sets BLOCK, and AFTERPF after a
warning. The warning takes effect island by island: an engine goes on, the Intake refuses and its request at the Kettle goes, the
Media Port closes P5 and gives up P1, an activation stops, the Ring Port refuses its waiting spills. The banks right after reset
(log entry 42), the DRAM window (log entry 43) and a debug write outstanding (log entry 50) are the model's readings. -/
def Obligations.Resets : Prop :=
  ∀ (w : Island) (f : Fld) (n : PE) (k a : Nat) (s : State), MemOk s → f.lo < 32 →
    let b := s.blk
    let get := b.get
    let swept := fun (u : Block) => u.mem.read a = if dramBase ≤ a then b.mem.read a else 0
    let spares := f.key ∈ [R.SPM_TAGSP_USED.key, R.SPM_TAGSP_RETIRED.key] ∨ (∃ m < 72, f.key = (R.ENG_CSSTAT_SPUSED m).key) ∨
      ∃ m < 64, f.key = (R.CB_STAT_SPUSED m).key ∨ f.key = (R.CB_STAT_SPFULL m).key
    let kept := isDebug f.off = true ∨ f.key = R.GLB_RSTCAUSE_POWERON.key ∨ spares
    let causes := f.key = R.GLB_RSTCAUSE_BLOCK.key ∨ f.key = R.GLB_RSTCAUSE_AFTERPF.key
    let warned := get R.KET_STAT_PFWARN ≠ 0
    let same := fun (u : Block) => ∀ m, { u.engine m with notices := [] } = { b.engine m with notices := [] }
    let stepGoes := (∀ x l, b.spm.act = some x → x.inPlace = some l →
        get (R.ENG_DBGSTAT_CSTOP (b.peOf l)) = 0 ∨ (b.engine (b.peOf l)).frozen = true) ∧
      ∀ m, b.spm.move = some m → m.origin = 3 → get (R.ENG_DBGSTAT_CSTOP m.src) = 0 ∨ (m.phase ≠ .freeze ∧ m.phase ≠ .copy)
    Gives .powerOnReset s (fun t => t.blk = { Block.reset with mem := t.blk.mem, fresh := b.fresh, isSealed := b.isSealed } ∧
      MemOk t ∧
      swept t.blk ∧ t.pending = s.pending) ∧
    (b.tap.acc = none → Gives .blockReset s fun t => MemOk t ∧ swept t.blk ∧ (kept → t.blk.get f = get f) ∧
      (¬kept → ¬causes → t.blk.get f = Block.reset.get f) ∧ t.blk.get R.GLB_RSTCAUSE_BLOCK = 1 ∧
      t.blk.get R.GLB_RSTCAUSE_AFTERPF = (if warned then 1 else get R.GLB_RSTCAUSE_AFTERPF) ∧
      t.blk.engine n = { Engine.reset with csMap := (b.engine n).csMap } ∧
      t.blk.bankAt k = { Bank.reset k with spare := (b.bankAt k).spare, spUsed := (b.bankAt k).spUsed } ∧
      t.blk.intake = { Intake.reset with rowMap := b.intake.rowMap, retiring := b.intake.retiring } ∧ t.blk.spm = Spm.reset ∧
      t.blk.kettle = Kettle.reset ∧ t.blk.media = Media.reset ∧ t.blk.rport = RingPort.reset ∧ t.blk.timers = Timers.reset ∧
      t.blk.axes = [] ∧ t.blk.crema = [] ∧ t.blk.pinseq = [] ∧ t.blk.claimer = [] ∧ t.blk.resps = [] ∧ t.blk.domQ = [] ∧
      t.blk.pd1 = b.pd1 ∧ t.blk.vt = b.vt ∧ t.blk.trcBuf = b.trcBuf ∧ t.blk.tap = b.tap ∧ t.blk.isSealed = b.isSealed ∧
      t.pending = s.pending) ∧
    (¬warned → Gives (.warningArrival w) s (Same s)) ∧
    (warned →
      Gives (.warningArrival (.engine n)) s (fun t =>
        t.blk = { b with kettle := { b.kettle with warnEng := t.blk.kettle.warnEng } } ∧
        ∀ m < 72, t.blk.kettle.warnEng.testBit m = (m == n.val || b.kettle.warnEng.testBit m)) ∧
      Gives (.warningArrival .intake) s (fun t => t.blk.intake = { b.intake with warned := true } ∧
        t.blk.kettle = { b.kettle with req := none } ∧ t.blk.get R.KET_STAT_WAITING = 0 ∧ t.blk.get R.KET_STAT_THROTTLE = 0 ∧
        t.blk.eng = b.eng ∧ t.blk.mem = b.mem) ∧
      Gives (.warningArrival .spm) s (fun t => t.blk.spm.act.isSome = b.spm.act.isSome ∧
        (∀ x, t.blk.spm.act = some x → x.abort = true) ∧
        (stepGoes → t.blk = { b with spm := { b.spm with act := b.spm.act.map fun x => { x with abort := true } } })) ∧
      Gives (.warningArrival .ring) s (fun t => t.blk.rport.warned = true ∧ t.blk.rport.waiting = [] ∧
        t.blk.rport.flight = b.rport.flight ∧ same t.blk ∧ (b.rport.waiting ≠ [] → t.blk.get R.RING_EVT_SFAIL = 1) ∧
        (b.rport.due = 0 → t.blk.get R.RING_EQTAIL_INDEX = (get R.RING_EQTAIL_INDEX + b.rport.waiting.length) % 1024)) ∧
      Gives (.warningArrival .fabric) s (fun t => t.blk.get R.MP_STAT_PFAIL = 1 ∧ t.blk.get R.PERC_STAT_P5CLOSED = 1 ∧
        t.blk.get R.PERC_STAT_P1ABAND = 1 ∧ t.blk.kettle = { b.kettle with warnFabric := true } ∧ same t.blk ∧
        ∀ x ∈ t.blk.media.accepted, x.handed = true ∨ (x.desc.op ≠ 2 ∧ x.desc.op ≠ 3)))

/-- R205, R206, R303, R310, R342, R444 to R447: power domain requests. Outside Drip a request waits its turn, and the head of the queue
starts a freeze, a bank's withdrawal or its initialisation; it ends with DOMDONE once what it waits for has come, or with DOMREF: an
engine goes to CS-RETAIN frozen and drained, and comes back with its state; a bank leaves ON once its requests are served, empty of
locks, and with its bytes only in RETAIN; PD4 and PD5 lose their contents. The readings of domain requests are log entry 40, and the
banks right after reset log entry 42. -/
def Obligations.Domains : Prop :=
  ∀ (n : PE) (k : BankId) (dest : BitVec 2) (auto off tag : Bool) (d : Nat) (f : Fld) (s : State), f.lo < 32 →
    let b := s.blk
    let get := b.get
    let idle := get R.PWR_STAT_DRIP = 0 ∧ get R.PWR_STAT_PHASE = 0
    let e := b.engine n
    let c := b.bankAt k
    let st := get (R.PWR_ENG_STATE n)
    let pst := get (R.CB_STAT_PSTATE k)
    let active := get (R.peState n) = 1
    let wish := fun (u : Block) => u.get (R.PWR_ENG_REQ n) = dest.toNat ∧ u.get (R.PWR_ENG_AUTOWAKE n) = bit auto
    let front := fun (r : DomReq) => b.domQ = [r]
    let done' := fun (ok : Bool) (u : Block) => u.domQ = [] ∧ u.get (if ok then R.PWR_EVT_DOMDONE else R.PWR_EVT_DOMREF) = 1
    let refused := fun (u : Block) => done' false u ∧ u.eng = b.eng ∧ u.bank = b.bank ∧ u.mem = b.mem
    let ends := fun (P : Block → Prop) => Gives .domainDone s fun t => P t.blk
    let held := ∃ i < 64, get (R.INT_STG_BANK i) = k.val ∧ b.stageLocked i = true
    (¬idle → Gives (.engineDomainRequest n dest auto) s (fun t => wish t.blk ∧ t.blk.get R.PWR_EVT_DOMREF = 1 ∧ t.blk.eng = b.eng) ∧
      Gives (.bankDomainRequest k dest) s (fun t => t.blk.get (R.PWR_BANK_REQ k) = dest.toNat ∧ t.blk.get R.PWR_EVT_DOMREF = 1 ∧
        OnlyFields [R.PWR_BANK_REQ k, R.PWR_EVT_DOMREF] b t.blk) ∧
      Gives (.perioff off) s (fun t => OnlyFields [R.PWR_CTRL_PERIOFF, R.PWR_EVT_DOMREF] b t.blk ∧ t.blk.get R.PWR_EVT_DOMREF = 1) ∧
      Gives (.ringoff off) s (fun t => OnlyFields [R.PWR_CTRL_RINGOFF, R.PWR_EVT_DOMREF] b t.blk ∧
        t.blk.get R.PWR_EVT_DOMREF = 1)) ∧
    (idle → st ≠ 1 →
      (b.domQ ≠ [] → Gives (.engineDomainRequest n dest auto) s fun t => wish t.blk ∧ t.blk.get (R.PWR_ENG_BUSY n) = 1 ∧
        t.blk.domQ = b.domQ ++ [.engine n dest.toNat false] ∧ t.blk.eng = b.eng) ∧
      (b.domQ = [] → dest = 1 → active → st = 2 → e.frozen = false → Gives (.engineDomainRequest n dest auto) s fun t =>
        wish t.blk ∧
        t.blk.domQ = [.engine n 1 false] ∧ t.blk.engine n = { e with freezeReq := true })) ∧
    (idle → b.domQ = [] → pst = 2 → dest.toNat < 2 → Gives (.bankDomainRequest k dest) s fun t =>
      t.blk.get (R.PWR_BANK_BUSY k) = 1 ∧ t.blk.domQ = [.bank k dest.toNat] ∧ t.blk.mem = b.mem ∧
      (held → t.blk.bank = b.bank) ∧ (¬held → t.blk.bankAt k = { c with target := some dest.toNat })) ∧
    (idle → b.domQ = [] → pst = 0 → dest = 2 → Gives (.bankDomainRequest k dest) s fun t => t.blk.get (R.CB_STAT_INIT k) = 1 ∧
      t.blk.domQ = [.bank k 2]) ∧
    (idle → Gives (.perioff off) s (fun t => t.blk.get R.PWR_CTRL_PERIOFF = bit off ∧ (b.domQ = [] → t.blk.domQ = [.periph off])) ∧
      Gives (.ringoff off) s (fun t => t.blk.get R.PWR_CTRL_RINGOFF = bit off ∧ (b.domQ = [] → t.blk.domQ = [.ring off]))) ∧
    (b.domQ = [] → Gives .domainDone s (Same s)) ∧
    (front (.engine n 1 tag) → st = 2 → e.resFault = false →
      (get (R.peState n) = 2 → ends fun u => done' true u ∧ u.get (R.PWR_ENG_STATE n) = 1 ∧ u.get (R.PWR_ENG_BUSY n) = 0 ∧
        u.eng = b.eng) ∧
      (active → e.frozen = false → ends fun u => u.domQ = b.domQ ∧ u.engine n = { e with freezeReq := true } ∧ u.regs = b.regs) ∧
      (active → e.frozen = true → b.drained n = false → Gives .domainDone s (Same s)) ∧
      (active → e.frozen = true → b.drained n = true → get (R.ENG_ID_RUN n) ≠ 0 → ends fun u => done' true u ∧
        u.get (R.PWR_ENG_STATE n) = 1 ∧ u.leState (get (R.ENG_ID_LE n)) = 1 ∧ u.engine n = e)) ∧
    (front (.engine n 1 tag) → st = 2 → e.resFault = true → get (R.peState n) ≠ 3 → ends refused) ∧
    (front (.engine n 2 tag) → st = 1 → get (R.peState n) ≠ 3 → ends fun u => done' true u ∧ u.get (R.PWR_ENG_STATE n) = 2 ∧
      (active → (u.engine n).running = true ∧ (u.engine n).frozen = false ∧ (u.engine n).pc = e.pc ∧ (u.engine n).gV = e.gV ∧
        (u.engine n).gT = e.gT ∧
        (u.engine n).upc = e.resumeAt (BitVec.ofNat 13 (get (R.ENG_USTAT_UTPC n))) ∧
        (u.engine n).cs = e.cs)) ∧
    (front (.engine n d tag) → d = 0 ∨ d = 3 → get (R.peState n) ≠ 3 → ends refused) ∧
    (front (.engine n d tag) → get (R.peState n) = 3 → Gives .domainDone s (Same s)) ∧
    (front (.bank k d) → d < 2 → pst = 2 → c.target = some d →
      (c.waiting ≠ [] → Gives .domainDone s (Same s)) ∧
      (c.waiting = [] → ends fun u => done' true u ∧ u.get (R.CB_STAT_PSTATE k) = d ∧ u.get (R.PWR_BANK_STATE k) = d ∧
        (u.bankAt k).locks = [] ∧ (u.bankAt k).target = none ∧ (d = 1 → u.mem = b.mem ∧ (u.bankAt k).src = c.src) ∧
        (d = 0 → u.mem = b.mem.filter (fun x => x.1 / 2 ^ 20 != k.val) ∧ (u.bankAt k).src = []))) ∧
    (front (.bank k d) → d < 2 → pst = 2 → c.target ≠ some d → ends refused) ∧
    (front (.bank k 2) → pst = 1 → ends fun u => done' true u ∧ u.get (R.CB_STAT_PSTATE k) = 2 ∧ u.get (R.PWR_BANK_STATE k) = 2 ∧
      u.mem = b.mem ∧ u.bank = b.bank) ∧
    (front (.bank k 3) → ends refused) ∧
    (front (.periph off) → ends fun u => done' true u ∧ u.pd4 = !off ∧ u.mem = b.mem ∧
      (off = true → u.crema = [] ∧ u.axes = [] ∧ u.pinseq = [] ∧
        u.timers = { Timers.reset with servo := b.timers.servo, tpAt := b.timers.tpAt } ∧
        (isPeriph f.off = true → u.get f = Block.reset.get f)) ∧
      (isPeriph f.off = false → f.key ≠ R.PWR_EVT_DOMDONE.key → u.get f = get f)) ∧
    (front (.ring off) → ends fun u => done' true u ∧ u.pd5 = !off ∧ u.mem = b.mem ∧
      (off = true → u.rport = RingPort.reset ∧ (0x6000 ≤ f.off → f.off < 0x6100 → u.get f = Block.reset.get f)) ∧
      (off = false → u.rport = b.rport ∧ (f.key ≠ R.PWR_EVT_DOMDONE.key → u.get f = get f)))

/-- R357, R448 to R454: Drip. ENTER is refused with the first condition that does not hold, and otherwise freezes every ACTIVE
engine; once all are frozen and drained and every request is served, the banks go where DRIPPOL says, the domains go off (with
emulation they stay) and DRIP is 1. A wake request begins the wake and is recorded; at its end every bank and engine is ON again,
each logical engine goes on where it stopped, the shadowed registers hold what they held, and the tag table and PD4 start anew.
PHASE, the domains after a wake and the wake record are read as log entry 40 says, and what an engine keeps as log entry 41. -/
def Obligations.Drip : Prop :=
  ∀ (level : Bool) (n k x cause : Nat) (s : State), MemOk s → n < 72 → k < 64 →
    let b := s.blk
    let get := b.get
    let w := b.power
    let p := b.spm
    let idle := get R.PWR_STAT_DRIP = 0 ∧ get R.PWR_STAT_PHASE = 0
    let wakes := fun (y : Nat) => y < 1024 ∧ b.enabled y = true ∧ b.pend y = true ∧ (b.routeOf y).isSome
    let fails := fun (i : Nat) =>
      if i = 1 then get R.INT_STAT_INUSE ≠ 0 ∨ ∃ r ∈ b.intake.recs, r.2.taken = true
      else if i = 2 then b.percEmpty ≠ 0x3F
      else if i = 3 then ∃ y ∈ b.chain, y.2.moving ≠ [] ∨ y.2.shown ≠ []
      else if i = 4 then p.move ≠ none ∨ p.act ≠ none ∨ p.hwQ ≠ [] ∨ p.cmdQ ≠ [] ∨ p.copies ≠ []
      else if i = 5 then get R.KET_STAT_PFWARN ≠ 0
      else if i = 6 then (∃ y < 1024, wakes y) ∨ w.wakeIn = true ∨ w.wakeDbg = true
      else b.sqWait ≠ 0
    let emul := b.pd1 = true ∧ get R.DBG_CTRL_ATTACH ≠ 0 ∧ get R.DBG_EMU_SLEEP_SLEEP ≠ 0
    let frozen := p.move = none ∧ p.hwQ = [] ∧ b.dram.waiting = [] ∧ b.dram.presented = [] ∧ (∀ j < 64, (b.bankAt j).waiting = []) ∧
      ∀ m < 72, get (R.peState m) = 1 → (b.engine m).frozen = true ∧ b.drained m = true
    let active := get (R.peState n) = 1
    let goesOff := get (R.CB_CTRL_DRIPPOL k) ≠ 0
    let pst := get (R.CB_STAT_PSTATE k)
    let drips := get R.PWR_STAT_DRIP ≠ 0 ∧ get R.PWR_STAT_PHASE = 6
    let begins := fun (c : Nat × Nat) (u : Block) => u.get R.PWR_STAT_PHASE = 7 ∧
      u.power = { w with wakeDbg := false, cause := some c } ∧ OnlyFields [R.PWR_STAT_PHASE] { b with power := u.power } u
    let bytes := fun (u : Block) => u.mem.filter fun y => y.1 / 2 ^ 20 == k
    (¬idle → Gives .dripEnter s (Same s)) ∧
    (idle → 1 ≤ cause → cause ≤ 7 → fails cause → (∀ j < cause, 1 ≤ j → ¬fails j) → Gives .dripEnter s fun t =>
      t.blk.get R.PWR_DRIP_CAUSE = cause ∧ t.blk.get R.PWR_EVT_REFUSED = 1 ∧
        OnlyFields [R.PWR_DRIP_CAUSE, R.PWR_EVT_REFUSED] b t.blk) ∧
    (idle → (∀ j < 8, 1 ≤ j → ¬fails j) → Gives .dripEnter s fun t => t.blk.get R.PWR_STAT_PHASE = 1 ∧
      t.blk.get R.PWR_DRIP_CAUSE = 0 ∧ t.blk.domQ = [] ∧ (b.domQ ≠ [] → t.blk.get R.PWR_EVT_DOMREF = 1) ∧ t.blk.mem = b.mem ∧
      (active → get (R.PWR_ENG_STATE n) = 2 → (b.engine n).frozen = false →
        t.blk.engine n = { b.engine n with freezeReq := true }) ∧
      (¬active → t.blk.engine n = b.engine n)) ∧
    (get R.PWR_STAT_PHASE = 0 ∨ 5 < get R.PWR_STAT_PHASE ∨ ¬frozen → Gives .dripOff s (Same s)) ∧
    (1 ≤ get R.PWR_STAT_PHASE → get R.PWR_STAT_PHASE ≤ 5 → frozen → Gives .dripOff s fun t => t.blk.get R.PWR_STAT_DRIP = 1 ∧
      t.blk.get R.PWR_STAT_PHASE = 6 ∧
      t.blk.get R.PWR_DRIPCNT_COUNT = (get R.PWR_DRIPCNT_COUNT + 1) % 2 ^ 32 ∧
      t.blk.leState k = (if b.leState k = 0 then 1 else b.leState k) ∧
      (emul → t.blk.get R.PWR_STAT_EMUL = 1 ∧ t.blk.pd4 = b.pd4 ∧ t.blk.pd5 = b.pd5 ∧ t.blk.mem = b.mem ∧
        t.blk.get (R.CB_STAT_PSTATE k) = pst) ∧
      (¬emul → t.blk.pd4 = false ∧ t.blk.pd5 = false ∧ t.blk.get (R.PWR_ENG_STATE n) = (if get (R.peState n) = 6 then 0 else 1) ∧
        t.blk.get (R.CB_STAT_PSTATE k) = (if pst = 2 then if goesOff then 0 else 1 else pst) ∧
        bytes t.blk = (if pst = 2 ∧ goesOff then [] else bytes b) ∧ (pst = 2 → (t.blk.bankAt k).locks = []))) ∧
    Gives (.pwrWake level) s (fun t => t.blk = { b with power := { w with wakeIn := level } }) ∧
    (idle → Gives .wake s (Same s)) ∧
    (¬idle → Gives .wake s fun t => t.blk = { b with power := { w with wakeDbg := true } }) ∧
    (¬drips → Gives .dripWake s (Same s)) ∧
    (drips → wakes x → (∀ y < x, ¬wakes y) → Gives .dripWake s fun t => begins (0, x) t.blk) ∧
    (drips → (∀ y < 1024, ¬wakes y) →
      (w.wakeIn = true → Gives .dripWake s fun t => begins (1, 0) t.blk) ∧
      (w.wakeIn = false → w.wakeDbg = true → Gives .dripWake s fun t => begins (2, 0) t.blk) ∧
      (w.wakeIn = false → w.wakeDbg = false → Gives .dripWake s (Same s))) ∧
    (get R.PWR_STAT_PHASE ≠ 7 → Gives .wakeComplete s (Same s)) ∧
    (get R.PWR_STAT_PHASE = 7 → Gives .wakeComplete s fun t => t.blk.get R.PWR_STAT_DRIP = 0 ∧ t.blk.get R.PWR_STAT_PHASE = 0 ∧
      t.blk.get R.PWR_STAT_EMUL = 0 ∧ t.blk.get R.PWR_EVT_WAKE = 1 ∧
      (∀ c, w.cause = some c → t.blk.get R.PWR_WAKESTAT_KIND = c.1 % 4 ∧ t.blk.get R.PWR_WAKESTAT_SRC = c.2 % 2 ^ 10) ∧
      t.blk.get (R.CB_STAT_PSTATE k) = 2 ∧ t.blk.get (R.PWR_BANK_STATE k) = 2 ∧ t.blk.get (R.CB_STAT_INIT k) = 0 ∧
      (get R.PWR_STAT_EMUL = 0 → bytes t.blk = if pst = 0 then [] else bytes b) ∧
      (∀ a, dramBase ≤ a → t.blk.mem.read a = b.mem.read a) ∧
      (get (R.peState n) ≠ 6 → t.blk.get (R.PWR_ENG_STATE n) = 2) ∧
      (active → (t.blk.engine n).running = true ∧ (t.blk.engine n).frozen = false ∧ (t.blk.engine n).pc = (b.engine n).pc ∧
        (t.blk.engine n).gV = (b.engine n).gV ∧
          (t.blk.engine n).upc = (b.engine n).resumeAt (BitVec.ofNat 13 (get (R.ENG_USTAT_UTPC n))) ∧
        (get (R.ENG_ID_RUN n) ≠ 0 → t.blk.leState (get (R.ENG_ID_LE n)) = 0)) ∧
      t.blk.get R.RING_EQTAIL_INDEX = get R.RING_EQTAIL_INDEX ∧ t.blk.get R.MP_CPLTAIL_INDEX = get R.MP_CPLTAIL_INDEX ∧
      t.blk.get (R.INT_STG_BANK k) = get (R.INT_STG_BANK k) ∧ t.blk.media.heads = b.media.heads ∧
      t.blk.get R.INT_STAT_INUSE = Block.reset.get R.INT_STAT_INUSE ∧
      t.blk.intake = { Intake.reset with rowMap := b.intake.rowMap } ∧ t.blk.rport = RingPort.reset ∧ t.blk.crema = [] ∧
      t.blk.timers = { Timers.reset with servo := b.timers.servo, tpAt := b.timers.tpAt } ∧ t.blk.power.cause = none)

/-- R459 to R463, R476, R480: the scan port and the debug bus master. A TAP reset selects IDCODE; a refused instruction selects BYPASS
and sets DENIED; MEMADDR, MEMDATA and OBSADDR issue one access at a time, a second one being discarded with OVR; captures return BUSY
until it ends, then data and status, and advance the address; an access reads without side effects, writes with them, or ends with ERR
and no effect; TRACE takes the oldest record; PORTSTAT shows and clears its bits. With PD1 OFF or another instruction nothing happens.
The corners of the scan port are log entries 44 and 45. -/
def Obligations.ScanPort : Prop :=
  ∀ (code : BitVec 4) (v : BitVec 50) (o : BitVec 19) (w : BitVec 34) (c : BitVec 16) (find : BankFind) (a off x : Nat) (s : State), MemOk s →
    s.blk.still →
    let b := s.blk
    let get := b.get
    let p := b.tap
    let ir := fun (i : Nat) => b.pd1 = true ∧ p.ir = i
    let tapped := fun (q : Tap) (u : Block) => u = { b with tap := q }
    let ovr := fun (u : Block) => u.get R.DBG_STAT_OVR = 1 ∧ OnlyFields [R.DBG_STAT_OVR] b u
    let cap := 8 * bit b.isSealed + 4 * get R.DBG_STAT_DENIED + 1
    let idcode := 3 * 2 ^ 28 + 0xF172 * 2 ^ 12 + get R.INTEG_MFR_MFR * 2 + 1
    let known := 1 ≤ code.toNat ∧ code.toNat ≤ 7
    let refused := b.isSealed = true ∧ (code = 2 ∨ code = 3)
    let addr := v.toNat % 2 ^ 48 / 4 * 4
    let wr := v.getLsbD 48
    let loaded := { p with addr := addr, wr := wr, inc := v.getLsbD 49 }
    let reg := o.toNat % 2 ^ 18
    let place := fun (k : Nat) => 0x10000000 + 4 * k
    let shown := { p with dr := p.status * 2 ^ 32 + p.data }
    let next := (p.addr + 4) % 2 ^ 48
    let nextReg := (p.off + 1) % 2 ^ 18
    let busy := fun (u : Block) => u.tap.dr / 2 ^ 32 = 1 ∧ { u.tap with dr := p.dr } = p ∧ { u with tap := p, fresh := b.fresh } = b
    let ended := fun (st : Nat) (u : Block) => u.tap.acc = none ∧ u.tap.status = st ∧ u.tap.addr = p.addr ∧ u.tap.ir = p.ir
    let quiet := fun (u : Block) => { u with tap := p, fresh := b.fresh } = b
    let read := p.acc = some ⟨a, none⟩
    let write := p.acc = some ⟨a, some x⟩
    let touched := ∃ second words, find = .uncorrectable second words ∧ words.getLsbD (a % 64 / 8) = true ∧
      ∀ j, b.target a = .carafe j → (b.bankAt j).src.look (a / 64 % 2 ^ 14) = none
    let memory := (∀ j, b.target a ≠ .window j ∧ b.target a ≠ .tags j) ∧ b.target a ≠ .nothing ∧ b.drips = false ∧ a % 4 = 0
    (b.pd1 = false → Gives .tapReset s (Same s) ∧ Gives (.updateIr code) s (Same s)) ∧
    (b.pd1 = true → Gives .tapReset s fun t => tapped { p with ir := 1, dr := idcode } t.blk) ∧
    (b.pd1 = true → refused → Gives (.updateIr code) s fun t => t.blk.tap = { p with irCap := cap, ir := 15 } ∧
      t.blk.get R.DBG_STAT_DENIED = 1 ∧ OnlyFields [R.DBG_STAT_DENIED] { b with tap := t.blk.tap } t.blk) ∧
    (b.pd1 = true → ¬refused → Gives (.updateIr code) s fun t => tapped { p with
      irCap := cap, ir := if known then code.toNat else 15, dr := if code = 1 then idcode else p.dr } t.blk) ∧
    (¬ir 2 ∨ b.isSealed = true → Gives (.memaddr v) s (Same s)) ∧
    (ir 2 → b.isSealed = false →
      (wr = true → Gives (.memaddr v) s fun t => tapped loaded t.blk) ∧
      (wr = false → p.acc = none → Gives (.memaddr v) s fun t => tapped { loaded with acc := some ⟨addr, none⟩ } t.blk) ∧
      (wr = false → p.acc ≠ none → Gives (.memaddr v) s fun t => ovr t.blk)) ∧
    (¬ir 3 → Gives (.memdata (.update w)) s (Same s) ∧ Gives (.memdata .capture) s (Same s)) ∧
    (ir 3 → b.isSealed = true ∨ p.wr = false → Gives (.memdata (.update w)) s (Same s)) ∧
    (ir 3 → b.isSealed = false → p.wr = true →
      (p.acc = none → Gives (.memdata (.update w)) s fun t => tapped { p with
        acc := some ⟨p.addr, some (w.toNat % 2 ^ 32)⟩, addr := if p.inc then next else p.addr } t.blk) ∧
      (p.acc ≠ none → Gives (.memdata (.update w)) s fun t => ovr t.blk)) ∧
    (ir 3 → b.isSealed = true → Gives (.memdata .capture) s fun t => t.blk.tap.dr / 2 ^ 32 = 3 ∧ quiet t.blk) ∧
    (ir 3 → b.isSealed = false →
      (p.acc ≠ none → Gives (.memdata .capture) s fun t => busy t.blk) ∧
      (p.acc = none → p.status = 0 → p.inc = true → p.wr = false → Gives (.memdata .capture) s fun t =>
        tapped { shown with addr := next, acc := some ⟨next, none⟩ } t.blk) ∧
      (p.acc = none → p.status ≠ 0 ∨ p.inc = false ∨ p.wr = true → Gives (.memdata .capture) s fun t => tapped shown t.blk)) ∧
    (¬ir 4 → Gives (.obsaddr o) s (Same s)) ∧
    (ir 4 → p.acc = none → Gives (.obsaddr o) s fun t =>
      tapped { p with off := reg, offInc := o.getLsbD 18, acc := some ⟨place reg, none⟩ } t.blk) ∧
    (ir 4 → p.acc ≠ none → Gives (.obsaddr o) s fun t => ovr t.blk) ∧
    Gives (.obsdata (.update w)) s (Same s) ∧
    (ir 5 →
      (p.acc ≠ none → Gives (.obsdata .capture) s fun t => busy t.blk) ∧
      (p.acc = none → p.status = 0 → p.offInc = true → Gives (.obsdata .capture) s fun t =>
        tapped { shown with off := nextReg, acc := some ⟨place nextReg, none⟩ } t.blk) ∧
      (p.acc = none → p.status ≠ 0 ∨ p.offInc = false → Gives (.obsdata .capture) s fun t => tapped shown t.blk)) ∧
    (∀ r rs, ir 6 → get R.TRC_CTRL_SINK = 0 → b.trcBuf = r :: rs → Gives .trace s fun t =>
      t.blk = { b with trcBuf := rs, tap := { p with dr := leNat r + 2 ^ 128 + 2 ^ 129 * bit (!rs.isEmpty) } }) ∧
    (ir 6 → get R.TRC_CTRL_SINK ≠ 0 ∨ b.trcBuf = [] → Gives .trace s fun t => tapped { p with dr := 0 } t.blk) ∧
    (ir 7 → Gives (.portstat .capture) s fun t => tapped { p with
      dr := bit b.isSealed + 2 * get R.DBG_STAT_DENIED + 4 * get R.DBG_STAT_OVR + 8 * get R.DBG_CTRL_ATTACH } t.blk) ∧
    (ir 7 → c.getLsbD 4 = false → Gives (.portstat (.update c)) s fun t =>
      t.blk.get R.DBG_STAT_DENIED = (if c.getLsbD 1 then 0 else get R.DBG_STAT_DENIED) ∧
      t.blk.get R.DBG_STAT_OVR = (if c.getLsbD 2 then 0 else get R.DBG_STAT_OVR) ∧
      OnlyFields [R.DBG_STAT_DENIED, R.DBG_STAT_OVR] b t.blk) ∧
    (ir 7 → c.getLsbD 4 = true → Gives (.portstat (.update c)) s fun t => (get R.TRC_CTRL_EN = 0 → t.blk.trcBuf = []) ∧
      t.blk.vt = [] ∧ t.blk.tap.acc = none ∧
      t.blk.get R.DBG_CTRL_ATTACH = 0) ∧
    (p.acc = none → Gives (.debugAccessDone find) s (Same s)) ∧
    (read → b.target a = .window off → off < 0x1F000 ∨ 0x20000 ≤ off →
      (b.winOff off = false → Gives (.debugAccessDone find) s fun t => ended 0 t.blk ∧ t.blk.tap.data = (b.winRead 75 off).2 ∧
        ({ t.blk with tap := p, fresh := b.fresh } : Block) = { b.readNote off with fresh := b.fresh } ∧
        (off < 0x40000 ∨ off % 0x100 ∉ [0x68, 0x84, 0x88] → quiet t.blk)) ∧
      (b.winOff off = true → Gives (.debugAccessDone find) s fun t => ended 2 t.blk ∧ quiet t.blk)) ∧
    (write → b.target a = .window off → b.winOff off = false → Gives (.debugAccessDone find) s fun t => ended 0 t.blk ∧
      { t.blk with tap := p } = { b.winWrite 75 off x with tap := p, isSealed := b.isSealed }) ∧
    (write → (∃ j, b.target a = .tags j) ∨ b.target a = .nothing → Gives (.debugAccessDone find) s fun t => ended 2 t.blk ∧
      quiet t.blk) ∧
    (read → memory → find = .clean → b.reachable a 4 = true → Gives (.debugAccessDone find) s fun t => ended 0 t.blk ∧
      t.blk.tap.data = leNat (b.mem.bytes a 4) ∧ t.blk.mem = b.mem) ∧
    (write → memory → find = .clean → b.reachable a 4 = true → Gives (.debugAccessDone find) s fun t => ended 0 t.blk ∧
      Wrote a (leBytes x 4) b t.blk) ∧
    (read → memory → b.readLost a 4 find → Gives (.debugAccessDone find) s fun t => ended 2 t.blk ∧ t.blk.mem = b.mem) ∧
    (write → memory → b.reachable a 4 = false ∨ touched → Gives (.debugAccessDone find) s fun t => ended 2 t.blk ∧
      t.blk.mem = b.mem) ∧
    (read → Gives .blockReset s fun t => t.blk.tap = { p with acc := none, data := 0, status := 2 })

/-- R12, R13, R20, R463, R494, R495, R520, R521: the DRAM Port and outbound reads. Of the requests that wait for a channel the next
in round robin is presented and takes effect; its response carries the data, or an error, after which a write's lines hold undefined
bytes and no others change, and an engine's posted write sets WRERR. The Host Shim answers an outbound read with one beat per line,
in order, or with ERR. A response's data (log entry 62), the host's word reads (log entry 48) and what counts as having reached the
port together (log entry 80) are the model's readings. -/
def Obligations.DramAndHost : Prop :=
  ∀ (c : Fin 4) (k : BitVec 10) (err : Bool) (id : Byte) (addr : Addr) (lines : Byte) (errs : BitVec 255) (q : Req) (j : Nat) (s : State),
    MemOk s →
    let b := s.blk
    let d := b.dram
    let first := b.dramPick c.val = some q
    let heads := fun (y : Req) => ∃ l r, d.waiting = l ++ y :: r ∧ y.addr / 64 % 4 = c.val ∧ ∀ z ∈ l, z.rq ≠ y.rq
    let turn := fun (y : Req) => rrAfter (d.last.get c.val 75) y.rq
    let still := b.still
    let shown := fun (data : List Byte) (u : Block) => u.dram.waiting = removeReq q d.waiting ∧
      u.dram.presented = d.presented ++ [{ q with data := data }] ∧ u.dram.last = d.last.put c.val (arbNumber q.rq)
    let answered := d.presented[k.toNat]? = some q
    let left := d.presented.eraseIdx k.toNat
    let replies := fun (data : List Byte) (bad : Bool) (u : Block) => u.resps = b.resps ++
      (if q.reply = .none ∨ q.reply = .now then [] else [⟨q.rq, q.reply, q.addr, data, bad, [], q.cls⟩])
    let lo := q.addr / 64 * 64
    let hi := (q.addr + q.len - 1) / 64 * 64 + 64
    let base := addr.toNat / 64 * 64
    let n := lines.toNat
    let found : BankFind := if errs.getLsbD 0 then .uncorrectable false 0xFF else .clean
    let off := base - 0x10000000
    (first → heads q ∧ ∀ y, heads y → turn q ≤ turn y) ∧
    ((∃ y, heads y) → b.dramPick c.val ≠ none) ∧
    (b.dramPick c.val = none → Gives (.dramPortRequest c) s (Same s)) ∧
    (first → q.kind = .read → Gives (.dramPortRequest c) s fun t => shown (b.mem.bytes q.addr q.len) t.blk ∧ t.blk.mem = b.mem) ∧
    (first → q.kind = .write → Gives (.dramPortRequest c) s fun t => shown [] t.blk ∧ Wrote q.addr q.data b t.blk) ∧
    (d.presented[k.toNat]? = none → Gives (.dramResponse k err) s (Same s)) ∧
    (answered → err = false → Gives (.dramResponse k err) s fun t => t.blk.dram = { d with presented := left } ∧
      replies q.data false t.blk ∧
      t.blk.mem = b.mem ∧ t.blk.regs = b.regs) ∧
    (answered → err = true → q.kind.writes = false → Gives (.dramResponse k err) s fun t =>
      t.blk.dram = { d with presented := left } ∧
      replies [] true t.blk ∧ t.blk.mem = b.mem ∧ t.blk.regs = b.regs) ∧
    (answered → err = true → q.kind.writes = true → 1 ≤ q.len → Gives (.dramResponse k err) s fun t =>
      t.blk.dram = { d with presented := left } ∧ replies [] true t.blk ∧
      (∀ j, j < lo ∨ hi ≤ j → t.blk.mem.read j = b.mem.read j) ∧
      (q.reply = .none → q.rq < 72 → t.blk.get (R.ENG_USTAT_WRERR q.rq) = 1 ∧
        OnlyFields [R.ENG_USTAT_WRERR q.rq] { b with dram := t.blk.dram, mem := t.blk.mem, fresh := t.blk.fresh } t.blk)) ∧
    (b.drips = true → Gives (.outboundRead id addr lines errs) s (Same s)) ∧
    (b.drips = false → still → (∀ i < n, errs.getLsbD i = false ∧ b.reachable (base + 64 * i) 64 = true) →
      Gives (.outboundRead id addr lines errs) s fun t =>
      t.blk.ports.tx = some (id.toNat, (List.range n).map fun i => (b.mem.bytes (base + 64 * i) 64, false)) ∧ t.blk.mem = b.mem ∧
      t.blk.eng = b.eng) ∧
    (b.drips = false → still → n = 1 → (∀ j, b.target base ≠ .window j ∧ b.target base ≠ .tags j) → b.readLost base 64 found →
      Gives (.outboundRead id addr lines errs) s fun t => (∃ x, t.blk.ports.tx = some (id.toNat, [(x, true)])) ∧
        t.blk.mem = b.mem) ∧
    (b.drips = false → still → n = 1 → b.target base = .carafe j → b.reachable base 64 = true → errs.getLsbD 0 = true →
      (b.bankAt j).src.look (base / 64 % 2 ^ 14) ≠ none → Gives (.outboundRead id addr lines errs) s fun t =>
        (t.blk.bankAt j).repair = [(base / 64 % 2 ^ 14, false)] ∧ t.blk.ports.tx = b.ports.tx ∧ t.blk.mem = b.mem) ∧
    (b.drips = false → n = 1 → b.target base = .window off → 0x2000 ≤ off → off + 64 ≤ 0x3000 →
      Gives (.outboundRead id addr lines errs) s fun t =>
        t.blk.ports.tx = some (id.toNat, [((List.range 16).flatMap fun i => leBytes (b.winRead rqHost (off + 4 * i)).2 4, false)]) ∧
        t.blk.mem = b.mem ∧ t.blk.eng = b.eng)

/-- R10 to R13, R66, R195, R286, R320, R348, R377, R445, R508, R510, R511: the register window. A write takes each RW field, leaves RO
ones, clears the W1C bits it names and has no effect where the domain does not answer; a write of a command register is that command;
only the accesses that an agent can make are commands. A limit written to CSWORN wears out the engines that have reached it. FSTEP
outside 16 to 64 sets BADSTEP, and a relock ends with the clock's switch, at a TRAPOK point or where no words issue.
Several actions in one write are taken in the order of log entries 44 and 61. -/
def Obligations.RegisterWindow : Prop :=
  ∀ (rq : BitVec 7) (off : BitVec 20) (v : W32) (n : PE) (bank : BankId) (fstep : BitVec 7) (s : State),
    let b := s.blk
    let get := b.get
    let w := v.toNat
    let o := off.toNat
    let x := Instr.registerWrite rq off v
    let sent := registerWriteOk rq off = true
    let slice := fun (f : Fld) => w / 2 ^ f.lo % 2 ^ f.w
    let takes := fun (at' : Nat) (fs : List Fld) => o = at' → Gives x s fun t => OnlyFields fs b t.blk ∧
      ∀ f ∈ fs, t.blk.get f = slice f
    let clears := fun (at' : Nat) (fs : List Fld) => o = at' → Gives x s fun t => OnlyFields fs b t.blk ∧
      ∀ f ∈ fs, t.blk.get f = if slice f = 1 then 0 else get f
    let acts := fun (at' : Nat) (c : Instr) => o = at' → exec x s = exec c s
    let le : LE := Fin.ofNat 64 (w / 2 ^ 8)
    let pe := BitVec.ofNat 7 (w / 2 ^ 16)
    let mode := v.getLsbD 24
    let spm := fun (mgmt : Bool) (at' : Nat) => (w / 2 ^ 28 = 1 → acts at' (.spmMove mode pe le mgmt)) ∧
      (w / 2 ^ 28 = 2 → acts at' (.spmRetire mode pe le mgmt)) ∧ (w / 2 ^ 28 = 3 → acts at' (.spmRestore mode pe le mgmt)) ∧
      (w / 2 ^ 28 = 4 → acts at' (.spmTest mode pe le mgmt)) ∧ (w / 2 ^ 28 = 5 → acts at' (.spmRestart mode pe le mgmt))
    let on := get (R.PWR_ENG_STATE n) = 2
    let policy := [R.SPM_POLICY_CSWORN, R.SPM_POLICY_RETRYLIM, R.SPM_POLICY_STRIKEMAX, R.SPM_POLICY_XCLUSTER]
    let lim := slice R.SPM_POLICY_CSWORN
    let canSwitch := b.runs n = false ∨ ((b.engine n).wait = none ∧ (b.engine n).point.isSome = true)
    (¬sent → exec x s = .fault .illFormed) ∧
    (sent →
      (isPeriph o = true → b.pd4 = false → Gives x s (Same s)) ∧
      (isDebug o = true → b.pd1 = false → Gives x s (Same s)) ∧
      (0x6000 ≤ o → o < 0x6100 → b.pd5 = false ∨ get R.INTEG_OPT_RING = 0 → Gives x s (Same s)) ∧
      (o / 0x100 = 0x400 + n.val → ¬on → Gives x s (Same s)) ∧
      (b.drips = false → (∀ m < 72, lim = 0 ∨ get (R.ENG_CSSTAT_SPUSED m) < lim ∨ get (R.peWorn m) ≠ 0) → takes 0x2000 policy) ∧
      (b.drips = false → o = 0x2000 → Gives x s fun t => (∀ f ∈ policy, t.blk.get f = slice f) ∧
        ∀ m < 72, lim ≠ 0 → lim ≤ get (R.ENG_CSSTAT_SPUSED m) → t.blk.get (R.peWorn m) = 1 ∨ get (R.peWorn m) ≠ 0) ∧
      (b.drips = false → clears 0x2008 [R.SPM_EVT_TAGSP, R.SPM_EVT_SPARELOW, R.SPM_EVT_CSREPAIR, R.SPM_EVT_ACT, R.SPM_EVT_RETIRED, R.SPM_EVT_OFFLINE,
          R.SPM_EVT_CMDDONE, R.SPM_EVT_FAULTMOVE] ∧
        takes 0x2108 [R.ACT_IMGADDR_LO_ADDR] ∧ takes 0x210C [R.ACT_IMGADDR_HI_ADDR]) ∧
      (o = 0x2004 ∨ o = 0x2010 ∨ o = 0x2104 ∨ o = 0x0104 ∨ o = 0x0110 ∨ o = 0x2024 → Gives x s (Same s)) ∧
      (o = 0x40000 + 0x100 * n.val + 0x6C → on → get (R.peState n) ≠ 3 →
        Gives x s fun t => t.blk.get (R.ENG_WDG_GRACE_GRACE n) = w % 2 ^ (R.ENG_WDG_GRACE_GRACE n).w ∧
          OnlyFields [R.ENG_WDG_GRACE_GRACE n] b t.blk) ∧
      (o = 0x40000 + 0x100 * n.val + 0x64 → on → get (R.peState n) = 3 →
        Gives x s fun t => t.blk.get (R.ENG_ID_CFGREF n) = 1 ∧ OnlyFields [R.ENG_ID_CFGREF n] b t.blk) ∧
      (isDebug o = true → b.pd1 = true → takes 0x8000C [R.DBG_XHALT_SE 0] ∧ takes 0x80050 [R.TRC_SIZE_SIZE]) ∧
      spm false 0x200C ∧ spm true 0x308 ∧
      (w / 2 ^ 10 % 2 = 0 → acts (0x40010 + 0x100 * n.val) (.engineClockWrite n (BitVec.ofNat 7 w))) ∧
      acts (0x1100 + 4 * n.val) (.engineDomainRequest n (BitVec.ofNat 2 w) (v.getLsbD 2)) ∧
      acts (0x1220 + 4 * bank.val) (.bankDomainRequest bank (BitVec.ofNat 2 w)) ∧
      (w = 1 → acts 0x100C .dripEnter) ∧ acts 0x5050 (.alarmArm v) ∧ acts 0x5060 (.timeAdj v) ∧
      acts 0x601C (.ringSubmit (BitVec.ofNat 9 w)) ∧ acts 0x6044 (.creditPush (BitVec.ofNat 2 (w / 2 ^ 16)) (BitVec.ofNat 5 w)) ∧
      acts (0x40088 + 0x100 * n.val) (.dbgrdCommit n v) ∧ acts (0x400A8 + 0x100 * n.val) (.cmpctlCommit n v) ∧
      acts 0x80280 (.vtDtxPush 0 v) ∧ acts 0x80284 (.vtDrxPush 0 v) ∧ (w = 1 → acts 0x80024 .xresume)) ∧
    (on → 16 ≤ fstep.toNat → fstep.toNat ≤ 64 → Gives (.engineClockWrite n fstep) s fun t =>
      t.blk.get (R.ENG_CLK_FSTEP n) = fstep.toNat ∧ t.blk.get (R.ENG_CLK_PENDING n) = 1 ∧
      OnlyFields [R.ENG_CLK_FSTEP n, R.ENG_CLK_PENDING n] b t.blk) ∧
    (on → fstep.toNat < 16 ∨ 64 < fstep.toNat → Gives (.engineClockWrite n fstep) s fun t =>
      t.blk.get (R.ENG_CLK_BADSTEP n) = 1 ∧ OnlyFields [R.ENG_CLK_BADSTEP n] b t.blk) ∧
    (¬on → Gives (.engineClockWrite n fstep) s (Same s)) ∧
    (canSwitch → Gives (.engineClockSwitch n) s fun t => t.blk.get (R.ENG_CLK_PENDING n) = 0 ∧
      OnlyFields [R.ENG_CLK_PENDING n] b t.blk) ∧
    (¬canSwitch → Gives (.engineClockSwitch n) s (Same s))

/-- R4, R5, R345, R465 to R471, R480, R481: run control. HALT raises a request in HALTMODE's mode, CANCEL withdraws it, RESUME ends a
clock-stop halt with the watchdog's grace, STEP ends it and asks for the next; the halt group resumes at once. While halted a commit
writes the selected element, but inside an instruction is refused. Comparator commits take the staged values. A debug reset and a change
of PD1 end every halt and request. Sealing does so too, disables every comparator, and nothing undoes it; then HALT, RESUME, STEP and
CANCEL are ignored. The order of actions (log entry 44), a write of PC (log entry 46), the halt group (log entry 59), comparators (log
entry 67) and the debug reset (log entry 72) are the model's readings. -/
def Obligations.RunControl : Prop :=
  ∀ (n : PE) (hi v : W32) (level : Bool) (m i : Nat) (s : State), m < 72 →
    let b := s.blk
    let get := b.get
    let e := b.engine n
    let on := get (R.PWR_ENG_STATE n) = 2
    let live := on ∧ b.isSealed = false
    let halted := get (R.ENG_DBGSTAT_CSTOP n) ≠ 0
    let calm := get (R.ENG_WDG_CTRL_EN n) = 0 ∧ b.tracing n = false
    let mode := if get (R.ENG_DBGCTL_HALTMODE n) ≠ 0 then HaltKind.monitor else .clockStop
    let ends := { e with skipIaddr := true, trapPt := none }
    let stat := [R.ENG_DBGSTAT_CSTOP n, R.ENG_DBGSTAT_INSTR n, R.ENG_DBGSTAT_PENDING n, R.ENG_DBGSTAT_STEPPING n]
    let only := fun (f : Engine) (fs : List Fld) (u : Block) => u.engine n = f ∧ (∀ k : Nat, k ≠ n.val → u.engine k = b.engine k) ∧
      OnlyFields fs { b with eng := u.eng } u
    let sel := get (R.ENG_DBGRSEL_SEL n)
    let word := BitVec.ofNat 64 (hi.toNat * 2 ^ 32 + e.dbgLo)
    let inside := get (R.ENG_DBGSTAT_INSTR n) ≠ 0
    let j := get (R.ENG_CMPIDX_INDEX n)
    let group := (get (if m < 64 then R.DBG_XHALT_SE (m / 32) else R.DBG_XHALT2_SE)).testBit (m % 32) = true
    let free := fun (u : Block) => u.get (R.ENG_DBGSTAT_CSTOP m) = 0 ∧ u.get (R.ENG_DBGSTAT_PENDING m) = 0 ∧
      (u.engine m).halt = none ∧ (u.engine m).pc = (b.engine m).pc ∧ (u.engine m).gV = (b.engine m).gV
    let cleared := fun (u : Block) => u.get R.DBG_CTRL_ATTACH = 0 ∧ u.get R.DBG_EMU_SLEEP_SLEEP = 0 ∧ u.mem = b.mem ∧ free u
    let reset := fun (u : Block) => cleared u ∧ (get R.TRC_CTRL_EN = 0 → u.trcBuf = []) ∧ u.vt = [] ∧
      u.tap = { b.tap with acc := none } ∧
      (u.engine m).cmp = (b.engine m).cmp
    (b.isSealed = true → Gives (.halt n) s (Same s) ∧ Gives (.resume n) s (Same s) ∧ Gives (.step n) s (Same s) ∧
      Gives (.cancel n) s (Same s)) ∧
    (¬on → Gives (.halt n) s (Same s) ∧ Gives (.resume n) s (Same s) ∧ Gives (.step n) s (Same s) ∧ Gives (.cancel n) s (Same s) ∧
      Gives (.dbgrdCommit n hi) s (Same s) ∧ Gives (.cmpctlCommit n v) s (Same s) ∧ Gives (.pmcClr n) s (Same s)) ∧
    (live → Gives (.halt n) s fun t => only { e with halt := some mode } [R.ENG_DBGSTAT_PENDING n] t.blk ∧
      t.blk.get (R.ENG_DBGSTAT_PENDING n) = 1) ∧
    (live → Gives (.cancel n) s fun t => only { e with halt := none } [R.ENG_DBGSTAT_PENDING n, R.ENG_DBGSTAT_STEPPING n] t.blk ∧
      t.blk.get (R.ENG_DBGSTAT_PENDING n) = 0 ∧ t.blk.get (R.ENG_DBGSTAT_STEPPING n) = 0) ∧
    (live → ¬halted → Gives (.resume n) s (Same s) ∧ Gives (.step n) s (Same s)) ∧
    (live → halted → calm → Gives (.resume n) s (fun t => only ends stat t.blk ∧ t.blk.get (R.ENG_DBGSTAT_CSTOP n) = 0 ∧
        t.blk.get (R.ENG_DBGSTAT_INSTR n) = 0) ∧
      Gives (.step n) s (fun t => only { ends with halt := some .clockStop } stat t.blk ∧ t.blk.get (R.ENG_DBGSTAT_CSTOP n) = 0 ∧
        t.blk.get (R.ENG_DBGSTAT_STEPPING n) = 1 ∧ t.blk.get (R.ENG_DBGSTAT_PENDING n) = 1)) ∧
    (live → halted → get (R.ENG_WDG_CTRL_EN n) ≠ 0 → b.tracing n = false → Gives (.resume n) s fun t =>
      get (R.ENG_WDG_GRACE_GRACE n) ≤ t.blk.get (R.ENG_WDG_CNT_COUNT n) ∧ t.blk.engine n = { ends with wdgExact := false }) ∧
    (b.pd1 = false → Gives .xresume s (Same s) ∧ Gives .dreset s (Same s)) ∧
    (b.pd1 = true → Gives .xresume s fun t => t.blk.mem = b.mem ∧
      (group → t.blk.get (R.ENG_DBGSTAT_CSTOP m) = 0 ∧ (t.blk.engine m).halt = (b.engine m).halt) ∧
      (¬group → t.blk.get (R.ENG_DBGSTAT_CSTOP m) = get (R.ENG_DBGSTAT_CSTOP m) ∧ t.blk.engine m = b.engine m)) ∧
    (on → ¬halted → Gives (.dbgrdCommit n hi) s (Same s)) ∧
    (on → halted → inside → Gives (.dbgrdCommit n hi) s fun t => t.blk.get (R.ENG_DBGSTAT_WREF n) = 1 ∧
      OnlyFields [R.ENG_DBGSTAT_WREF n] b t.blk) ∧
    (on → halted → ¬inside →
      (sel < 0x1F → Gives (.dbgrdCommit n hi) s fun t =>
        t.blk = b.setEngine n (Engine.recode { e with gV := e.gV.put sel word } [sel])) ∧
      (0x20 ≤ sel → sel < 0x3F → Gives (.dbgrdCommit n hi) s fun t =>
        t.blk = b.setEngine n (Engine.recode { e with gT := e.gT.put (sel - 0x20) word } [sel - 1])) ∧
      (0x40 ≤ sel → sel < 0x44 → Gives (.dbgrdCommit n hi) s fun t =>
        t.blk = b.setEngine n (Engine.recode { e with sp := e.sp.put (sel - 0x40) word } [sel - 2])) ∧
      (sel = 0x44 → Gives (.dbgrdCommit n hi) s fun t =>
        t.blk = b.setEngine n (Engine.recode { e with st := St.ofWord word } [128])) ∧
      (sel = 0x45 → Gives (.dbgrdCommit n hi) s fun t => (t.blk.engine n).pc = BitVec.ofNat 48 (word.toNat / 4 * 4) ∧
        (t.blk.engine n).gV = e.gV ∧ (t.blk.engine n).st = e.st) ∧
      (0x48 ≤ sel → sel < 0x58 → Gives (.dbgrdCommit n hi) s fun t =>
        ((t.blk.engine n).v ((sel - 0x48) / 2)).extractLsb' (64 * (sel % 2)) 64 = word ∧
        ((t.blk.engine n).v ((sel - 0x48) / 2)).extractLsb' (64 * (1 - sel % 2)) 64 =
          (e.v ((sel - 0x48) / 2)).extractLsb' (64 * (1 - sel % 2)) 64 ∧ (t.blk.engine n).gV = e.gV) ∧
      (sel = 0x58 + 8 * i → i < 2 → Gives (.dbgrdCommit n hi) s fun t =>
        t.blk = b.setEngine n { e with ctxid := e.ctxid.put i (word.setWidth 32) }) ∧
      (sel = 0x5B + 8 * i → i < 2 → Gives (.dbgrdCommit n hi) s fun t =>
        t.blk = b.setEngine n { e with faddr := e.faddr.put i (word.setWidth 48) }) ∧
      (sel = 0x46 ∨ sel = 0x68 ∨ 0x70 ≤ sel → sel < 0x80 → Gives (.dbgrdCommit n hi) s fun t => t.blk = b.setEngine n e)) ∧
    (on → get (R.peState n) ≠ 3 → Gives (.cmpctlCommit n v) s fun t =>
      ((t.blk.engine n).cmp.look j).map (fun c => (c.en, c.type, c.action, c.link, c.a, c.b, c.ctx, c.armed)) =
        some (decide (2 ^ 31 ≤ v.toNat ∧ v.toNat % 16 ≤ 4 ∧ b.isSealed = false), v.toNat % 16, v.toNat / 2 ^ 16 % 16,
          v.toNat / 2 ^ 24 % 4, e.cmpA, e.cmpB, e.cmpCtx, false) ∧
      t.blk.regs = b.regs ∧ t.blk.mem = b.mem ∧ { t.blk.engine n with cmp := e.cmp } = e) ∧
    (on → get (R.peState n) = 3 → Gives (.cmpctlCommit n v) s fun t => t.blk.get (R.ENG_ID_CFGREF n) = 1 ∧
      OnlyFields [R.ENG_ID_CFGREF n] b t.blk) ∧
    (b.pd1 = true → Gives .dreset s fun t => reset t.blk ∧ t.blk.pd1 = true) ∧
    (b.pd1 = level → Gives (.dbgPwrreq level) s (Same s)) ∧
    (b.pd1 ≠ level → Gives (.dbgPwrreq level) s fun t => reset t.blk ∧ t.blk.pd1 = level ∧
      t.blk.get R.DBG_STAT_DENIED = 0 ∧ t.blk.get R.TRC_CTRL_EN = 0) ∧
    (b.isSealed = true → Gives .sealInputHigh s (Same s)) ∧
    (b.isSealed = false → Gives .sealInputHigh s fun t => t.blk.isSealed = true ∧ cleared t.blk ∧
      ∀ c ∈ (t.blk.engine m).cmp, c.2.en = false)

/-- R477 to R480, R482, R483: counters and the virtual terminal. CLR sets the counters of an engine, or all global ones, to 0 and
nothing else. A push joins a FIFO of sixteen words, or is discarded with its overrun bit; a read of DRX takes the head, or sets RXUNF
when it is empty, and a peek changes nothing; POPTX takes the DTX head and FLUSH empties both; sealed or with PD1 OFF pushes are
discarded. Counters of timed events read free values (log entry 49). -/
def Obligations.CountersAndTerminal : Prop :=
  ∀ (n : PE) (k : Fin 8) (v : W32) (peek : Bool) (i : Nat) (s : State),
    let b := s.blk
    let get := b.get
    let vt := b.vtAt k
    let on := b.pd1 = true ∧ b.isSealed = false
    let holds := fun (x : Vt) (u : Block) => u = { b with vt := b.vt.put k x }
    let sets := fun (f : Fld) (u : Block) => u.get f = 1 ∧ OnlyFields [f] b u
    (get (R.PWR_ENG_STATE n) = 2 → Gives (.pmcClr n) s fun t => (i < 8 → t.blk.get (R.ENG_PMC_COUNT n i) = 0) ∧
      OnlyFields ((List.range 8).map (R.ENG_PMC_COUNT n)) b t.blk) ∧
    Gives .gpcClr s (fun t => (i < 64 → t.blk.get (R.GPC_COUNT i) = 0) ∧ OnlyFields ((List.range 64).map R.GPC_COUNT) b t.blk) ∧
    (on → vt.dtx.length < 16 → Gives (.vtDtxPush k v) s fun t => holds { vt with dtx := vt.dtx ++ [v.toNat] } t.blk) ∧
    (on → 16 ≤ vt.dtx.length → Gives (.vtDtxPush k v) s fun t => sets (R.VT_STAT_TXOVR k) t.blk) ∧
    (on → vt.drx.length < 16 → Gives (.vtDrxPush k v) s fun t => holds { vt with drx := vt.drx ++ [v.toNat] } t.blk) ∧
    (on → 16 ≤ vt.drx.length → Gives (.vtDrxPush k v) s fun t => sets (R.VT_STAT_RXOVR k) t.blk) ∧
    (on → vt.drx ≠ [] → Gives (.vtDrxRead k false) s fun t => holds { vt with drx := vt.drx.drop 1 } t.blk) ∧
    (on → vt.drx = [] → Gives (.vtDrxRead k false) s fun t => sets (R.VT_STAT_RXUNF k) t.blk) ∧
    (peek = true → Gives (.vtDrxRead k peek) s (Same s)) ∧
    (¬on → Gives (.vtDtxPush k v) s (Same s) ∧ Gives (.vtDrxPush k v) s (Same s) ∧ Gives (.vtDrxRead k peek) s (Same s)) ∧
    (b.pd1 = true → Gives (.poptx k) s (fun t => holds { vt with dtx := vt.dtx.drop 1 } t.blk) ∧
      Gives (.vtFlush k) s (fun t => holds ⟨[], []⟩ t.blk)) ∧
    (b.pd1 = false → Gives (.poptx k) s (Same s) ∧ Gives (.vtFlush k) s (Same s))
end

