-- ==== Sys2Proof/Laws/Table.lean ====
section
/-! SUPPORT. The tables and the memory: what a read gives after a write, and that every memory operation keeps the canonical
form. -/
namespace Sys2Proof.Machine

/-! ## Tables -/

@[simp] theorem Tab.look_put_same {α : Type} (t : Tab α) (i : Nat) (x : α) : (Tab.put t i x).look i = some x := by
  induction t with
  | nil => simp [Tab.put, Tab.look]
  | cons p t ih =>
    obtain ⟨k, v⟩ := p
    by_cases h : i = k
    · simp [Tab.put, Tab.look, h]
    · by_cases h2 : i < k
      · simp [Tab.put, Tab.look, h, h2]
      · simp [Tab.put, Tab.look, h, h2, ih]

theorem Tab.look_put_ne {α : Type} (t : Tab α) (i j : Nat) (x : α) (h : j ≠ i) : (Tab.put t i x).look j = t.look j := by
  induction t with
  | nil => simp [Tab.put, Tab.look, h]
  | cons p t ih =>
    obtain ⟨k, v⟩ := p
    by_cases h1 : i = k
    · subst h1
      simp [Tab.put, Tab.look, h]
    · by_cases h2 : i < k
      · simp only [Tab.put, Tab.look, h1, h2, h, if_true, if_false]
        by_cases h3 : j < i
        · have : j < k := Nat.lt_trans h3 h2
          have : j ≠ k := by omega
          simp [*]
        · simp [h3]
      · simp only [Tab.put, Tab.look, h1, h2, if_false, ih]

@[simp] theorem Tab.get_put_same {α : Type} (t : Tab α) (i : Nat) (x d : α) : (Tab.put t i x).get i d = x := by
  simp [Tab.get]

theorem Tab.get_put_ne {α : Type} (t : Tab α) (i j : Nat) (x d : α) (h : j ≠ i) :
    (Tab.put t i x).get j d = Tab.get t j d := by
  simp [Tab.get, Tab.look_put_ne _ _ _ _ h]

/-! ## Memory -/

theorem Mem.wfFrom_mono {m : Mem} {lo lo' : Nat} (h : lo' ≤ lo) (w : Mem.wfFrom lo m = true) :
    Mem.wfFrom lo' m = true := by
  cases m with
  | nil => rfl
  | cons p m =>
    obtain ⟨a, v⟩ := p
    simp only [Mem.wfFrom, Bool.and_eq_true, decide_eq_true_eq] at w ⊢
    exact ⟨⟨by omega, w.1.2⟩, w.2⟩

theorem Mem.look_below {m : Mem} {lo a : Nat} (w : Mem.wfFrom lo m = true) (h : a < lo) : Tab.look m a = none := by
  cases m with
  | nil => rfl
  | cons p m =>
    obtain ⟨k, v⟩ := p
    simp only [Mem.wfFrom, Bool.and_eq_true, decide_eq_true_eq] at w
    have h1 : a < k := by omega
    have h2 : a ≠ k := by omega
    simp [Tab.look, h1, h2]

theorem Mem.wfFrom_put {m : Mem} {lo a : Nat} {v : Byte} (w : Mem.wfFrom lo m = true) (h : lo ≤ a)
    (hv : v ≠ Mem.unlisted) : Mem.wfFrom lo (Tab.put m a v) = true := by
  induction m generalizing lo with
  | nil => simp [Tab.put, Mem.wfFrom, h, hv]
  | cons p m ih =>
    obtain ⟨k, x⟩ := p
    simp only [Mem.wfFrom, Bool.and_eq_true, decide_eq_true_eq] at w
    by_cases h1 : a = k
    · subst h1
      simp [Tab.put, Mem.wfFrom, h, hv, w.2]
    · by_cases h2 : a < k
      · simp only [Tab.put, h1, h2, if_true, if_false, Mem.wfFrom, Bool.and_eq_true, decide_eq_true_eq]
        exact ⟨⟨h, hv⟩, ⟨h2, w.1.2⟩, w.2⟩
      · simp only [Tab.put, h1, h2, if_false, Mem.wfFrom, Bool.and_eq_true, decide_eq_true_eq]
        exact ⟨⟨w.1.1, w.1.2⟩, ih w.2 (by omega)⟩

theorem Mem.wfFrom_filter {m : Mem} {lo : Nat} (p : Host.Cell → Bool) (w : Mem.wfFrom lo m = true) :
    Mem.wfFrom lo (m.filter p) = true := by
  induction m generalizing lo with
  | nil => rfl
  | cons c m ih =>
    obtain ⟨a, v⟩ := c
    simp only [Mem.wfFrom, Bool.and_eq_true, decide_eq_true_eq] at w
    by_cases h : p (a, v) = true
    · simp only [List.filter_cons, h, if_true, Mem.wfFrom, Bool.and_eq_true, decide_eq_true_eq]
      exact ⟨⟨w.1.1, w.1.2⟩, ih w.2⟩
    · simp only [List.filter_cons, h]
      exact Mem.wfFrom_mono (by omega) (ih w.2)

theorem Mem.wfFrom_del {m : Mem} {lo : Nat} (a : Nat) (w : Mem.wfFrom lo m = true) :
    Mem.wfFrom lo (Tab.del m a) = true := by
  induction m generalizing lo with
  | nil => rfl
  | cons p m ih =>
    obtain ⟨k, x⟩ := p
    have w' := w
    simp only [Mem.wfFrom, Bool.and_eq_true, decide_eq_true_eq] at w
    by_cases h1 : a = k
    · simp only [Tab.del, h1, if_true]
      exact Mem.wfFrom_filter _ (Mem.wfFrom_mono (by omega) w.2)
    · by_cases h2 : a < k
      · simpa only [Tab.del, h1, h2, if_true, if_false] using w'
      · simp only [Tab.del, h1, h2, if_false, Mem.wfFrom, Bool.and_eq_true, decide_eq_true_eq]
        exact ⟨⟨w.1.1, w.1.2⟩, ih w.2⟩

/-- A write keeps the canonical form. -/
theorem Mem.wf_write {m : Mem} (a : Nat) (v : Byte) (w : m.wf = true) : (m.write a v).wf = true := by
  unfold Mem.write Mem.wf
  split
  · exact Mem.wfFrom_del a w
  · exact Mem.wfFrom_put w (Nat.zero_le a) (by assumption)

/-- Writes of several bytes keep the canonical form. -/
theorem Mem.wf_writes {m : Mem} (a : Nat) (d : List Byte) (w : m.wf = true) : (m.writes a d).wf = true := by
  induction d generalizing m a with
  | nil => exact w
  | cons v vs ih => exact ih (a + 1) (Mem.wf_write a v w)

/-- Removing bytes (a bank's contents lost, R206) keeps the canonical form. -/
theorem Mem.wf_filter {m : Mem} (p : Host.Cell → Bool) (w : m.wf = true) : Mem.wf (m.filter p) = true :=
  Mem.wfFrom_filter p w

/-- No key above `i` only: reads of keys up to `i` find nothing. -/
theorem Tab.look_above {α : Type} (t : Tab α) (i j : Nat) (h : j ≤ i) : Tab.look (t.filter fun p => decide (i < p.1)) j = none := by
  induction t with
  | nil => rfl
  | cons p t ih =>
    obtain ⟨k, x⟩ := p
    by_cases hk : i < k
    · have h1 : j ≠ k := by omega
      have h2 : j < k := by omega
      simp [hk, Tab.look, h1, h2]
    · simpa [List.filter_cons, hk] using ih

/-- The removal of smaller keys leaves a greater key's value. -/
theorem Tab.look_filter_gt {α : Type} (t : Tab α) (i j : Nat) (h : i < j) :
    Tab.look (t.filter fun p => decide (i < p.1)) j = Tab.look t j := by
  induction t with
  | nil => rfl
  | cons p t ih =>
    obtain ⟨k, x⟩ := p
    by_cases hk : i < k
    · simp only [List.filter_cons, hk, decide_true, if_true, Tab.look, ih]
    · have h1 : j ≠ k := by omega
      have h2 : ¬j < k := by omega
      simp [hk, Tab.look, h1, h2, ih]

/-- A key that has been removed reads as not listed, in any list. -/
@[simp] theorem Tab.look_del_same {α : Type} (t : Tab α) (i : Nat) : (Tab.del t i).look i = none := by
  induction t with
  | nil => rfl
  | cons p t ih =>
    obtain ⟨k, x⟩ := p
    by_cases h1 : i = k
    · simp only [Tab.del, h1, if_true]
      exact Tab.look_above t k k (Nat.le_refl k)
    · by_cases h2 : i < k
      · simp [Tab.del, Tab.look, h1, h2]
      · simp only [Tab.del, Tab.look, h1, h2, if_false]
        exact ih

/-- The removal of a key leaves every other one, in any list. -/
theorem Tab.look_del_ne {α : Type} (t : Tab α) (i j : Nat) (h : j ≠ i) : (Tab.del t i).look j = t.look j := by
  induction t with
  | nil => rfl
  | cons p t ih =>
    obtain ⟨k, x⟩ := p
    by_cases h1 : i = k
    · subst h1
      by_cases h3 : j < i
      · simp only [Tab.del, if_true, Tab.look, h, h3, if_false]
        exact Tab.look_above t i j (Nat.le_of_lt h3)
      · have h4 : i < j := by omega
        simp only [Tab.del, if_true, Tab.look, h, h3, if_false]
        exact Tab.look_filter_gt t i j h4
    · by_cases h2 : i < k
      · simp [Tab.del, h1, h2]
      · simp only [Tab.del, Tab.look, h1, h2, if_false, ih]

/-- A read after a write to the same address gives the byte written. -/
theorem Mem.read_write_same (m : Mem) (a : Nat) (v : Byte) : (m.write a v).read a = v := by
  unfold Mem.write Mem.read Tab.get
  split
  · rename_i h
    simp [h]
  · simp

/-- A write leaves every other byte alone. -/
theorem Mem.read_write_ne (m : Mem) (a j : Nat) (v : Byte) (h : j ≠ a) : (m.write a v).read j = m.read j := by
  unfold Mem.write Mem.read Tab.get
  split
  · rw [Tab.look_del_ne _ _ _ h]
  · rw [Tab.look_put_ne _ _ _ _ h]

/-- Writes of several bytes leave every byte outside them alone. -/
theorem Mem.read_writes_out (m : Mem) (a : Nat) (d : List Byte) (j : Nat) (h : j < a ∨ a + d.length ≤ j) :
    (m.writes a d).read j = m.read j := by
  induction d generalizing m a with
  | nil => rfl
  | cons v vs ih =>
    simp only [List.length_cons] at h
    rw [Mem.writes, ih _ (a + 1) (by omega), Mem.read_write_ne m a j v (by omega)]

/-- Writes of several bytes read back. -/
theorem Mem.bytes_writes (m : Mem) (a : Nat) (d : List Byte) : (m.writes a d).bytes a d.length = d := by
  induction d generalizing m a with
  | nil => rfl
  | cons v vs ih =>
    simp only [List.length_cons, Mem.bytes, Mem.writes]
    rw [ih, Mem.read_writes_out _ (a + 1) vs a (by omega), Mem.read_write_same m a v]

end Sys2Proof.Machine
end

