-- ==== Sys2Proof/Laws/State.lean ====
section
/-! SUPPORT. What each update of the block leaves in each of its fields, and what a register field reads after a write: no
proof unfolds a record update. -/
namespace Sys2Proof.Machine

@[simp] theorem Block.raise_eq (b : Block) (f : Fld) : b.raise f = b.put f 1 := rfl
@[simp] theorem Block.clear_eq (b : Block) (f : Fld) : b.clear f = b.put f 0 := rfl
@[simp] theorem Block.inc_eq (b : Block) (f : Fld) (k : Nat) : b.inc f k = b.put f (b.get f + k) := rfl
@[simp] theorem Block.incSat_eq (b : Block) (f : Fld) (k : Nat) : b.incSat f k = b.put f (satAdd (b.get f) k f.w) := rfl

@[simp] theorem Block.put_isSealed (b : Block) (f : Fld) (v : Nat) : (b.put f v).isSealed = b.isSealed := rfl
@[simp] theorem Block.put_regs (b : Block) (f : Fld) (v : Nat) : (b.put f v).regs = b.regs.put f.key (v % 2 ^ f.w) := rfl
@[simp] theorem Block.put_mem (b : Block) (f : Fld) (v : Nat) : (b.put f v).mem = b.mem := rfl
@[simp] theorem Block.put_eng (b : Block) (f : Fld) (v : Nat) : (b.put f v).eng = b.eng := rfl
@[simp] theorem Block.put_bank (b : Block) (f : Fld) (v : Nat) : (b.put f v).bank = b.bank := rfl
@[simp] theorem Block.put_dram (b : Block) (f : Fld) (v : Nat) : (b.put f v).dram = b.dram := rfl
@[simp] theorem Block.put_resps (b : Block) (f : Fld) (v : Nat) : (b.put f v).resps = b.resps := rfl
@[simp] theorem Block.put_chain (b : Block) (f : Fld) (v : Nat) : (b.put f v).chain = b.chain := rfl
@[simp] theorem Block.put_claimer (b : Block) (f : Fld) (v : Nat) : (b.put f v).claimer = b.claimer := rfl
@[simp] theorem Block.put_fresh (b : Block) (f : Fld) (v : Nat) : (b.put f v).fresh = b.fresh := rfl
@[simp] theorem Block.put_vt (b : Block) (f : Fld) (v : Nat) : (b.put f v).vt = b.vt := rfl
@[simp] theorem Block.put_domQ (b : Block) (f : Fld) (v : Nat) : (b.put f v).domQ = b.domQ := rfl
@[simp] theorem Block.put_pd1 (b : Block) (f : Fld) (v : Nat) : (b.put f v).pd1 = b.pd1 := rfl
@[simp] theorem Block.put_pd4 (b : Block) (f : Fld) (v : Nat) : (b.put f v).pd4 = b.pd4 := rfl
@[simp] theorem Block.put_pd5 (b : Block) (f : Fld) (v : Nat) : (b.put f v).pd5 = b.pd5 := rfl
@[simp] theorem Block.put_trcBuf (b : Block) (f : Fld) (v : Nat) : (b.put f v).trcBuf = b.trcBuf := rfl
@[simp] theorem Block.put_spm (b : Block) (f : Fld) (v : Nat) : (b.put f v).spm = b.spm := rfl
@[simp] theorem Block.put_strobes (b : Block) (f : Fld) (v : Nat) : (b.put f v).strobes = b.strobes := rfl
@[simp] theorem Block.put_extAns (b : Block) (f : Fld) (v : Nat) : (b.put f v).extAns = b.extAns := rfl
@[simp] theorem Block.put_ports (b : Block) (f : Fld) (v : Nat) : (b.put f v).ports = b.ports := rfl
@[simp] theorem Block.put_intake (b : Block) (f : Fld) (v : Nat) : (b.put f v).intake = b.intake := rfl
@[simp] theorem Block.put_kettle (b : Block) (f : Fld) (v : Nat) : (b.put f v).kettle = b.kettle := rfl
@[simp] theorem Block.put_media (b : Block) (f : Fld) (v : Nat) : (b.put f v).media = b.media := rfl
@[simp] theorem Block.put_frac (b : Block) (f : Fld) (v : Nat) : (b.put f v).frac = b.frac := rfl
@[simp] theorem Block.put_digQ (b : Block) (f : Fld) (v : Nat) : (b.put f v).digQ = b.digQ := rfl
@[simp] theorem Block.put_dg (b : Block) (f : Fld) (v : Nat) : (b.put f v).dg = b.dg := rfl
@[simp] theorem Block.put_timers (b : Block) (f : Fld) (v : Nat) : (b.put f v).timers = b.timers := rfl
@[simp] theorem Block.put_dcycle (b : Block) (f : Fld) (v : Nat) : (b.put f v).dcycle = b.dcycle := rfl
@[simp] theorem Block.put_tick (b : Block) (f : Fld) (v : Nat) : (b.put f v).tick = b.tick := rfl
@[simp] theorem Block.put_axes (b : Block) (f : Fld) (v : Nat) : (b.put f v).axes = b.axes := rfl
@[simp] theorem Block.put_crema (b : Block) (f : Fld) (v : Nat) : (b.put f v).crema = b.crema := rfl
@[simp] theorem Block.put_pinseq (b : Block) (f : Fld) (v : Nat) : (b.put f v).pinseq = b.pinseq := rfl
@[simp] theorem Block.put_psio (b : Block) (f : Fld) (v : Nat) : (b.put f v).psio = b.psio := rfl
@[simp] theorem Block.put_rport (b : Block) (f : Fld) (v : Nat) : (b.put f v).rport = b.rport := rfl
@[simp] theorem Block.put_power (b : Block) (f : Fld) (v : Nat) : (b.put f v).power = b.power := rfl
@[simp] theorem Block.put_tap (b : Block) (f : Fld) (v : Nat) : (b.put f v).tap = b.tap := rfl

@[simp] theorem Block.put_engine (b : Block) (f : Fld) (v : Nat) (m : Nat) : (b.put f v).engine m = b.engine m := rfl
@[simp] theorem Block.put_bankAt (b : Block) (f : Fld) (v : Nat) (m : Nat) : (b.put f v).bankAt m = b.bankAt m := rfl

@[simp] theorem Block.toReset_isSealed (b : Block) (f : Fld) : (b.toReset f).isSealed = b.isSealed := rfl
@[simp] theorem Block.toReset_regs (b : Block) (f : Fld) : (b.toReset f).regs = b.regs.del f.key := rfl
@[simp] theorem Block.toReset_mem (b : Block) (f : Fld) : (b.toReset f).mem = b.mem := rfl
@[simp] theorem Block.toReset_eng (b : Block) (f : Fld) : (b.toReset f).eng = b.eng := rfl
@[simp] theorem Block.toReset_bank (b : Block) (f : Fld) : (b.toReset f).bank = b.bank := rfl
@[simp] theorem Block.toReset_dram (b : Block) (f : Fld) : (b.toReset f).dram = b.dram := rfl
@[simp] theorem Block.toReset_resps (b : Block) (f : Fld) : (b.toReset f).resps = b.resps := rfl
@[simp] theorem Block.toReset_chain (b : Block) (f : Fld) : (b.toReset f).chain = b.chain := rfl
@[simp] theorem Block.toReset_claimer (b : Block) (f : Fld) : (b.toReset f).claimer = b.claimer := rfl
@[simp] theorem Block.toReset_fresh (b : Block) (f : Fld) : (b.toReset f).fresh = b.fresh := rfl
@[simp] theorem Block.toReset_vt (b : Block) (f : Fld) : (b.toReset f).vt = b.vt := rfl
@[simp] theorem Block.toReset_domQ (b : Block) (f : Fld) : (b.toReset f).domQ = b.domQ := rfl
@[simp] theorem Block.toReset_pd1 (b : Block) (f : Fld) : (b.toReset f).pd1 = b.pd1 := rfl
@[simp] theorem Block.toReset_pd4 (b : Block) (f : Fld) : (b.toReset f).pd4 = b.pd4 := rfl
@[simp] theorem Block.toReset_pd5 (b : Block) (f : Fld) : (b.toReset f).pd5 = b.pd5 := rfl
@[simp] theorem Block.toReset_trcBuf (b : Block) (f : Fld) : (b.toReset f).trcBuf = b.trcBuf := rfl
@[simp] theorem Block.toReset_spm (b : Block) (f : Fld) : (b.toReset f).spm = b.spm := rfl
@[simp] theorem Block.toReset_strobes (b : Block) (f : Fld) : (b.toReset f).strobes = b.strobes := rfl
@[simp] theorem Block.toReset_extAns (b : Block) (f : Fld) : (b.toReset f).extAns = b.extAns := rfl
@[simp] theorem Block.toReset_ports (b : Block) (f : Fld) : (b.toReset f).ports = b.ports := rfl
@[simp] theorem Block.toReset_intake (b : Block) (f : Fld) : (b.toReset f).intake = b.intake := rfl
@[simp] theorem Block.toReset_kettle (b : Block) (f : Fld) : (b.toReset f).kettle = b.kettle := rfl
@[simp] theorem Block.toReset_media (b : Block) (f : Fld) : (b.toReset f).media = b.media := rfl
@[simp] theorem Block.toReset_frac (b : Block) (f : Fld) : (b.toReset f).frac = b.frac := rfl
@[simp] theorem Block.toReset_digQ (b : Block) (f : Fld) : (b.toReset f).digQ = b.digQ := rfl
@[simp] theorem Block.toReset_dg (b : Block) (f : Fld) : (b.toReset f).dg = b.dg := rfl
@[simp] theorem Block.toReset_timers (b : Block) (f : Fld) : (b.toReset f).timers = b.timers := rfl
@[simp] theorem Block.toReset_dcycle (b : Block) (f : Fld) : (b.toReset f).dcycle = b.dcycle := rfl
@[simp] theorem Block.toReset_tick (b : Block) (f : Fld) : (b.toReset f).tick = b.tick := rfl
@[simp] theorem Block.toReset_axes (b : Block) (f : Fld) : (b.toReset f).axes = b.axes := rfl
@[simp] theorem Block.toReset_crema (b : Block) (f : Fld) : (b.toReset f).crema = b.crema := rfl
@[simp] theorem Block.toReset_pinseq (b : Block) (f : Fld) : (b.toReset f).pinseq = b.pinseq := rfl
@[simp] theorem Block.toReset_psio (b : Block) (f : Fld) : (b.toReset f).psio = b.psio := rfl
@[simp] theorem Block.toReset_rport (b : Block) (f : Fld) : (b.toReset f).rport = b.rport := rfl
@[simp] theorem Block.toReset_power (b : Block) (f : Fld) : (b.toReset f).power = b.power := rfl
@[simp] theorem Block.toReset_tap (b : Block) (f : Fld) : (b.toReset f).tap = b.tap := rfl

@[simp] theorem Block.toReset_engine (b : Block) (f : Fld) (m : Nat) : (b.toReset f).engine m = b.engine m := rfl
@[simp] theorem Block.toReset_bankAt (b : Block) (f : Fld) (m : Nat) : (b.toReset f).bankAt m = b.bankAt m := rfl

@[simp] theorem Block.setEngine_isSealed (b : Block) (n : Nat) (e : Engine) : (b.setEngine n e).isSealed = b.isSealed := rfl
@[simp] theorem Block.setEngine_regs (b : Block) (n : Nat) (e : Engine) : (b.setEngine n e).regs = b.regs := rfl
@[simp] theorem Block.setEngine_mem (b : Block) (n : Nat) (e : Engine) : (b.setEngine n e).mem = b.mem := rfl
@[simp] theorem Block.setEngine_eng (b : Block) (n : Nat) (e : Engine) : (b.setEngine n e).eng = b.eng.put n e := rfl
@[simp] theorem Block.setEngine_bank (b : Block) (n : Nat) (e : Engine) : (b.setEngine n e).bank = b.bank := rfl
@[simp] theorem Block.setEngine_dram (b : Block) (n : Nat) (e : Engine) : (b.setEngine n e).dram = b.dram := rfl
@[simp] theorem Block.setEngine_resps (b : Block) (n : Nat) (e : Engine) : (b.setEngine n e).resps = b.resps := rfl
@[simp] theorem Block.setEngine_chain (b : Block) (n : Nat) (e : Engine) : (b.setEngine n e).chain = b.chain := rfl
@[simp] theorem Block.setEngine_claimer (b : Block) (n : Nat) (e : Engine) : (b.setEngine n e).claimer = b.claimer := rfl
@[simp] theorem Block.setEngine_fresh (b : Block) (n : Nat) (e : Engine) : (b.setEngine n e).fresh = b.fresh := rfl
@[simp] theorem Block.setEngine_vt (b : Block) (n : Nat) (e : Engine) : (b.setEngine n e).vt = b.vt := rfl
@[simp] theorem Block.setEngine_domQ (b : Block) (n : Nat) (e : Engine) : (b.setEngine n e).domQ = b.domQ := rfl
@[simp] theorem Block.setEngine_pd1 (b : Block) (n : Nat) (e : Engine) : (b.setEngine n e).pd1 = b.pd1 := rfl
@[simp] theorem Block.setEngine_pd4 (b : Block) (n : Nat) (e : Engine) : (b.setEngine n e).pd4 = b.pd4 := rfl
@[simp] theorem Block.setEngine_pd5 (b : Block) (n : Nat) (e : Engine) : (b.setEngine n e).pd5 = b.pd5 := rfl
@[simp] theorem Block.setEngine_trcBuf (b : Block) (n : Nat) (e : Engine) : (b.setEngine n e).trcBuf = b.trcBuf := rfl
@[simp] theorem Block.setEngine_spm (b : Block) (n : Nat) (e : Engine) : (b.setEngine n e).spm = b.spm := rfl
@[simp] theorem Block.setEngine_strobes (b : Block) (n : Nat) (e : Engine) : (b.setEngine n e).strobes = b.strobes := rfl
@[simp] theorem Block.setEngine_extAns (b : Block) (n : Nat) (e : Engine) : (b.setEngine n e).extAns = b.extAns := rfl
@[simp] theorem Block.setEngine_ports (b : Block) (n : Nat) (e : Engine) : (b.setEngine n e).ports = b.ports := rfl
@[simp] theorem Block.setEngine_intake (b : Block) (n : Nat) (e : Engine) : (b.setEngine n e).intake = b.intake := rfl
@[simp] theorem Block.setEngine_kettle (b : Block) (n : Nat) (e : Engine) : (b.setEngine n e).kettle = b.kettle := rfl
@[simp] theorem Block.setEngine_media (b : Block) (n : Nat) (e : Engine) : (b.setEngine n e).media = b.media := rfl
@[simp] theorem Block.setEngine_frac (b : Block) (n : Nat) (e : Engine) : (b.setEngine n e).frac = b.frac := rfl
@[simp] theorem Block.setEngine_digQ (b : Block) (n : Nat) (e : Engine) : (b.setEngine n e).digQ = b.digQ := rfl
@[simp] theorem Block.setEngine_dg (b : Block) (n : Nat) (e : Engine) : (b.setEngine n e).dg = b.dg := rfl
@[simp] theorem Block.setEngine_timers (b : Block) (n : Nat) (e : Engine) : (b.setEngine n e).timers = b.timers := rfl
@[simp] theorem Block.setEngine_dcycle (b : Block) (n : Nat) (e : Engine) : (b.setEngine n e).dcycle = b.dcycle := rfl
@[simp] theorem Block.setEngine_tick (b : Block) (n : Nat) (e : Engine) : (b.setEngine n e).tick = b.tick := rfl
@[simp] theorem Block.setEngine_axes (b : Block) (n : Nat) (e : Engine) : (b.setEngine n e).axes = b.axes := rfl
@[simp] theorem Block.setEngine_crema (b : Block) (n : Nat) (e : Engine) : (b.setEngine n e).crema = b.crema := rfl
@[simp] theorem Block.setEngine_pinseq (b : Block) (n : Nat) (e : Engine) : (b.setEngine n e).pinseq = b.pinseq := rfl
@[simp] theorem Block.setEngine_psio (b : Block) (n : Nat) (e : Engine) : (b.setEngine n e).psio = b.psio := rfl
@[simp] theorem Block.setEngine_rport (b : Block) (n : Nat) (e : Engine) : (b.setEngine n e).rport = b.rport := rfl
@[simp] theorem Block.setEngine_power (b : Block) (n : Nat) (e : Engine) : (b.setEngine n e).power = b.power := rfl
@[simp] theorem Block.setEngine_tap (b : Block) (n : Nat) (e : Engine) : (b.setEngine n e).tap = b.tap := rfl

@[simp] theorem Block.setEngine_get (b : Block) (n : Nat) (e : Engine) (x : Fld) : (b.setEngine n e).get x = b.get x := rfl
@[simp] theorem Block.setEngine_flag (b : Block) (n : Nat) (e : Engine) (x : Fld) : (b.setEngine n e).flag x = b.flag x := rfl
@[simp] theorem Block.setEngine_bankAt (b : Block) (n : Nat) (e : Engine) (m : Nat) : (b.setEngine n e).bankAt m = b.bankAt m := rfl

@[simp] theorem Block.modEngine_isSealed (b : Block) (n : Nat) (g : Engine → Engine) : (b.modEngine n g).isSealed = b.isSealed := rfl
@[simp] theorem Block.modEngine_regs (b : Block) (n : Nat) (g : Engine → Engine) : (b.modEngine n g).regs = b.regs := rfl
@[simp] theorem Block.modEngine_mem (b : Block) (n : Nat) (g : Engine → Engine) : (b.modEngine n g).mem = b.mem := rfl
@[simp] theorem Block.modEngine_eng (b : Block) (n : Nat) (g : Engine → Engine) : (b.modEngine n g).eng = b.eng.put n (g (b.engine n)) := rfl
@[simp] theorem Block.modEngine_bank (b : Block) (n : Nat) (g : Engine → Engine) : (b.modEngine n g).bank = b.bank := rfl
@[simp] theorem Block.modEngine_dram (b : Block) (n : Nat) (g : Engine → Engine) : (b.modEngine n g).dram = b.dram := rfl
@[simp] theorem Block.modEngine_resps (b : Block) (n : Nat) (g : Engine → Engine) : (b.modEngine n g).resps = b.resps := rfl
@[simp] theorem Block.modEngine_chain (b : Block) (n : Nat) (g : Engine → Engine) : (b.modEngine n g).chain = b.chain := rfl
@[simp] theorem Block.modEngine_claimer (b : Block) (n : Nat) (g : Engine → Engine) : (b.modEngine n g).claimer = b.claimer := rfl
@[simp] theorem Block.modEngine_fresh (b : Block) (n : Nat) (g : Engine → Engine) : (b.modEngine n g).fresh = b.fresh := rfl
@[simp] theorem Block.modEngine_vt (b : Block) (n : Nat) (g : Engine → Engine) : (b.modEngine n g).vt = b.vt := rfl
@[simp] theorem Block.modEngine_domQ (b : Block) (n : Nat) (g : Engine → Engine) : (b.modEngine n g).domQ = b.domQ := rfl
@[simp] theorem Block.modEngine_pd1 (b : Block) (n : Nat) (g : Engine → Engine) : (b.modEngine n g).pd1 = b.pd1 := rfl
@[simp] theorem Block.modEngine_pd4 (b : Block) (n : Nat) (g : Engine → Engine) : (b.modEngine n g).pd4 = b.pd4 := rfl
@[simp] theorem Block.modEngine_pd5 (b : Block) (n : Nat) (g : Engine → Engine) : (b.modEngine n g).pd5 = b.pd5 := rfl
@[simp] theorem Block.modEngine_trcBuf (b : Block) (n : Nat) (g : Engine → Engine) : (b.modEngine n g).trcBuf = b.trcBuf := rfl
@[simp] theorem Block.modEngine_spm (b : Block) (n : Nat) (g : Engine → Engine) : (b.modEngine n g).spm = b.spm := rfl
@[simp] theorem Block.modEngine_strobes (b : Block) (n : Nat) (g : Engine → Engine) : (b.modEngine n g).strobes = b.strobes := rfl
@[simp] theorem Block.modEngine_extAns (b : Block) (n : Nat) (g : Engine → Engine) : (b.modEngine n g).extAns = b.extAns := rfl
@[simp] theorem Block.modEngine_ports (b : Block) (n : Nat) (g : Engine → Engine) : (b.modEngine n g).ports = b.ports := rfl
@[simp] theorem Block.modEngine_intake (b : Block) (n : Nat) (g : Engine → Engine) : (b.modEngine n g).intake = b.intake := rfl
@[simp] theorem Block.modEngine_kettle (b : Block) (n : Nat) (g : Engine → Engine) : (b.modEngine n g).kettle = b.kettle := rfl
@[simp] theorem Block.modEngine_media (b : Block) (n : Nat) (g : Engine → Engine) : (b.modEngine n g).media = b.media := rfl
@[simp] theorem Block.modEngine_frac (b : Block) (n : Nat) (g : Engine → Engine) : (b.modEngine n g).frac = b.frac := rfl
@[simp] theorem Block.modEngine_digQ (b : Block) (n : Nat) (g : Engine → Engine) : (b.modEngine n g).digQ = b.digQ := rfl
@[simp] theorem Block.modEngine_dg (b : Block) (n : Nat) (g : Engine → Engine) : (b.modEngine n g).dg = b.dg := rfl
@[simp] theorem Block.modEngine_timers (b : Block) (n : Nat) (g : Engine → Engine) : (b.modEngine n g).timers = b.timers := rfl
@[simp] theorem Block.modEngine_dcycle (b : Block) (n : Nat) (g : Engine → Engine) : (b.modEngine n g).dcycle = b.dcycle := rfl
@[simp] theorem Block.modEngine_tick (b : Block) (n : Nat) (g : Engine → Engine) : (b.modEngine n g).tick = b.tick := rfl
@[simp] theorem Block.modEngine_axes (b : Block) (n : Nat) (g : Engine → Engine) : (b.modEngine n g).axes = b.axes := rfl
@[simp] theorem Block.modEngine_crema (b : Block) (n : Nat) (g : Engine → Engine) : (b.modEngine n g).crema = b.crema := rfl
@[simp] theorem Block.modEngine_pinseq (b : Block) (n : Nat) (g : Engine → Engine) : (b.modEngine n g).pinseq = b.pinseq := rfl
@[simp] theorem Block.modEngine_psio (b : Block) (n : Nat) (g : Engine → Engine) : (b.modEngine n g).psio = b.psio := rfl
@[simp] theorem Block.modEngine_rport (b : Block) (n : Nat) (g : Engine → Engine) : (b.modEngine n g).rport = b.rport := rfl
@[simp] theorem Block.modEngine_power (b : Block) (n : Nat) (g : Engine → Engine) : (b.modEngine n g).power = b.power := rfl
@[simp] theorem Block.modEngine_tap (b : Block) (n : Nat) (g : Engine → Engine) : (b.modEngine n g).tap = b.tap := rfl

@[simp] theorem Block.modEngine_get (b : Block) (n : Nat) (g : Engine → Engine) (x : Fld) : (b.modEngine n g).get x = b.get x := rfl
@[simp] theorem Block.modEngine_flag (b : Block) (n : Nat) (g : Engine → Engine) (x : Fld) : (b.modEngine n g).flag x = b.flag x := rfl
@[simp] theorem Block.modEngine_bankAt (b : Block) (n : Nat) (g : Engine → Engine) (m : Nat) : (b.modEngine n g).bankAt m = b.bankAt m := rfl

@[simp] theorem Block.setBank_isSealed (b : Block) (k : Nat) (c : Bank) : (b.setBank k c).isSealed = b.isSealed := rfl
@[simp] theorem Block.setBank_regs (b : Block) (k : Nat) (c : Bank) : (b.setBank k c).regs = b.regs := rfl
@[simp] theorem Block.setBank_mem (b : Block) (k : Nat) (c : Bank) : (b.setBank k c).mem = b.mem := rfl
@[simp] theorem Block.setBank_eng (b : Block) (k : Nat) (c : Bank) : (b.setBank k c).eng = b.eng := rfl
@[simp] theorem Block.setBank_bank (b : Block) (k : Nat) (c : Bank) : (b.setBank k c).bank = b.bank.put k c := rfl
@[simp] theorem Block.setBank_dram (b : Block) (k : Nat) (c : Bank) : (b.setBank k c).dram = b.dram := rfl
@[simp] theorem Block.setBank_resps (b : Block) (k : Nat) (c : Bank) : (b.setBank k c).resps = b.resps := rfl
@[simp] theorem Block.setBank_chain (b : Block) (k : Nat) (c : Bank) : (b.setBank k c).chain = b.chain := rfl
@[simp] theorem Block.setBank_claimer (b : Block) (k : Nat) (c : Bank) : (b.setBank k c).claimer = b.claimer := rfl
@[simp] theorem Block.setBank_fresh (b : Block) (k : Nat) (c : Bank) : (b.setBank k c).fresh = b.fresh := rfl
@[simp] theorem Block.setBank_vt (b : Block) (k : Nat) (c : Bank) : (b.setBank k c).vt = b.vt := rfl
@[simp] theorem Block.setBank_domQ (b : Block) (k : Nat) (c : Bank) : (b.setBank k c).domQ = b.domQ := rfl
@[simp] theorem Block.setBank_pd1 (b : Block) (k : Nat) (c : Bank) : (b.setBank k c).pd1 = b.pd1 := rfl
@[simp] theorem Block.setBank_pd4 (b : Block) (k : Nat) (c : Bank) : (b.setBank k c).pd4 = b.pd4 := rfl
@[simp] theorem Block.setBank_pd5 (b : Block) (k : Nat) (c : Bank) : (b.setBank k c).pd5 = b.pd5 := rfl
@[simp] theorem Block.setBank_trcBuf (b : Block) (k : Nat) (c : Bank) : (b.setBank k c).trcBuf = b.trcBuf := rfl
@[simp] theorem Block.setBank_spm (b : Block) (k : Nat) (c : Bank) : (b.setBank k c).spm = b.spm := rfl
@[simp] theorem Block.setBank_strobes (b : Block) (k : Nat) (c : Bank) : (b.setBank k c).strobes = b.strobes := rfl
@[simp] theorem Block.setBank_extAns (b : Block) (k : Nat) (c : Bank) : (b.setBank k c).extAns = b.extAns := rfl
@[simp] theorem Block.setBank_ports (b : Block) (k : Nat) (c : Bank) : (b.setBank k c).ports = b.ports := rfl
@[simp] theorem Block.setBank_intake (b : Block) (k : Nat) (c : Bank) : (b.setBank k c).intake = b.intake := rfl
@[simp] theorem Block.setBank_kettle (b : Block) (k : Nat) (c : Bank) : (b.setBank k c).kettle = b.kettle := rfl
@[simp] theorem Block.setBank_media (b : Block) (k : Nat) (c : Bank) : (b.setBank k c).media = b.media := rfl
@[simp] theorem Block.setBank_frac (b : Block) (k : Nat) (c : Bank) : (b.setBank k c).frac = b.frac := rfl
@[simp] theorem Block.setBank_digQ (b : Block) (k : Nat) (c : Bank) : (b.setBank k c).digQ = b.digQ := rfl
@[simp] theorem Block.setBank_dg (b : Block) (k : Nat) (c : Bank) : (b.setBank k c).dg = b.dg := rfl
@[simp] theorem Block.setBank_timers (b : Block) (k : Nat) (c : Bank) : (b.setBank k c).timers = b.timers := rfl
@[simp] theorem Block.setBank_dcycle (b : Block) (k : Nat) (c : Bank) : (b.setBank k c).dcycle = b.dcycle := rfl
@[simp] theorem Block.setBank_tick (b : Block) (k : Nat) (c : Bank) : (b.setBank k c).tick = b.tick := rfl
@[simp] theorem Block.setBank_axes (b : Block) (k : Nat) (c : Bank) : (b.setBank k c).axes = b.axes := rfl
@[simp] theorem Block.setBank_crema (b : Block) (k : Nat) (c : Bank) : (b.setBank k c).crema = b.crema := rfl
@[simp] theorem Block.setBank_pinseq (b : Block) (k : Nat) (c : Bank) : (b.setBank k c).pinseq = b.pinseq := rfl
@[simp] theorem Block.setBank_psio (b : Block) (k : Nat) (c : Bank) : (b.setBank k c).psio = b.psio := rfl
@[simp] theorem Block.setBank_rport (b : Block) (k : Nat) (c : Bank) : (b.setBank k c).rport = b.rport := rfl
@[simp] theorem Block.setBank_power (b : Block) (k : Nat) (c : Bank) : (b.setBank k c).power = b.power := rfl
@[simp] theorem Block.setBank_tap (b : Block) (k : Nat) (c : Bank) : (b.setBank k c).tap = b.tap := rfl

@[simp] theorem Block.setBank_get (b : Block) (k : Nat) (c : Bank) (x : Fld) : (b.setBank k c).get x = b.get x := rfl
@[simp] theorem Block.setBank_flag (b : Block) (k : Nat) (c : Bank) (x : Fld) : (b.setBank k c).flag x = b.flag x := rfl
@[simp] theorem Block.setBank_engine (b : Block) (k : Nat) (c : Bank) (m : Nat) : (b.setBank k c).engine m = b.engine m := rfl

@[simp] theorem Block.setChain_isSealed (b : Block) (i : Nat) (c : Chain) : (b.setChain i c).isSealed = b.isSealed := rfl
@[simp] theorem Block.setChain_regs (b : Block) (i : Nat) (c : Chain) : (b.setChain i c).regs = b.regs := rfl
@[simp] theorem Block.setChain_mem (b : Block) (i : Nat) (c : Chain) : (b.setChain i c).mem = b.mem := rfl
@[simp] theorem Block.setChain_eng (b : Block) (i : Nat) (c : Chain) : (b.setChain i c).eng = b.eng := rfl
@[simp] theorem Block.setChain_bank (b : Block) (i : Nat) (c : Chain) : (b.setChain i c).bank = b.bank := rfl
@[simp] theorem Block.setChain_dram (b : Block) (i : Nat) (c : Chain) : (b.setChain i c).dram = b.dram := rfl
@[simp] theorem Block.setChain_resps (b : Block) (i : Nat) (c : Chain) : (b.setChain i c).resps = b.resps := rfl
@[simp] theorem Block.setChain_chain (b : Block) (i : Nat) (c : Chain) : (b.setChain i c).chain = b.chain.put i c := rfl
@[simp] theorem Block.setChain_claimer (b : Block) (i : Nat) (c : Chain) : (b.setChain i c).claimer = b.claimer := rfl
@[simp] theorem Block.setChain_fresh (b : Block) (i : Nat) (c : Chain) : (b.setChain i c).fresh = b.fresh := rfl
@[simp] theorem Block.setChain_vt (b : Block) (i : Nat) (c : Chain) : (b.setChain i c).vt = b.vt := rfl
@[simp] theorem Block.setChain_domQ (b : Block) (i : Nat) (c : Chain) : (b.setChain i c).domQ = b.domQ := rfl
@[simp] theorem Block.setChain_pd1 (b : Block) (i : Nat) (c : Chain) : (b.setChain i c).pd1 = b.pd1 := rfl
@[simp] theorem Block.setChain_pd4 (b : Block) (i : Nat) (c : Chain) : (b.setChain i c).pd4 = b.pd4 := rfl
@[simp] theorem Block.setChain_pd5 (b : Block) (i : Nat) (c : Chain) : (b.setChain i c).pd5 = b.pd5 := rfl
@[simp] theorem Block.setChain_trcBuf (b : Block) (i : Nat) (c : Chain) : (b.setChain i c).trcBuf = b.trcBuf := rfl
@[simp] theorem Block.setChain_spm (b : Block) (i : Nat) (c : Chain) : (b.setChain i c).spm = b.spm := rfl
@[simp] theorem Block.setChain_strobes (b : Block) (i : Nat) (c : Chain) : (b.setChain i c).strobes = b.strobes := rfl
@[simp] theorem Block.setChain_extAns (b : Block) (i : Nat) (c : Chain) : (b.setChain i c).extAns = b.extAns := rfl
@[simp] theorem Block.setChain_ports (b : Block) (i : Nat) (c : Chain) : (b.setChain i c).ports = b.ports := rfl
@[simp] theorem Block.setChain_intake (b : Block) (i : Nat) (c : Chain) : (b.setChain i c).intake = b.intake := rfl
@[simp] theorem Block.setChain_kettle (b : Block) (i : Nat) (c : Chain) : (b.setChain i c).kettle = b.kettle := rfl
@[simp] theorem Block.setChain_media (b : Block) (i : Nat) (c : Chain) : (b.setChain i c).media = b.media := rfl
@[simp] theorem Block.setChain_frac (b : Block) (i : Nat) (c : Chain) : (b.setChain i c).frac = b.frac := rfl
@[simp] theorem Block.setChain_digQ (b : Block) (i : Nat) (c : Chain) : (b.setChain i c).digQ = b.digQ := rfl
@[simp] theorem Block.setChain_dg (b : Block) (i : Nat) (c : Chain) : (b.setChain i c).dg = b.dg := rfl
@[simp] theorem Block.setChain_timers (b : Block) (i : Nat) (c : Chain) : (b.setChain i c).timers = b.timers := rfl
@[simp] theorem Block.setChain_dcycle (b : Block) (i : Nat) (c : Chain) : (b.setChain i c).dcycle = b.dcycle := rfl
@[simp] theorem Block.setChain_tick (b : Block) (i : Nat) (c : Chain) : (b.setChain i c).tick = b.tick := rfl
@[simp] theorem Block.setChain_axes (b : Block) (i : Nat) (c : Chain) : (b.setChain i c).axes = b.axes := rfl
@[simp] theorem Block.setChain_crema (b : Block) (i : Nat) (c : Chain) : (b.setChain i c).crema = b.crema := rfl
@[simp] theorem Block.setChain_pinseq (b : Block) (i : Nat) (c : Chain) : (b.setChain i c).pinseq = b.pinseq := rfl
@[simp] theorem Block.setChain_psio (b : Block) (i : Nat) (c : Chain) : (b.setChain i c).psio = b.psio := rfl
@[simp] theorem Block.setChain_rport (b : Block) (i : Nat) (c : Chain) : (b.setChain i c).rport = b.rport := rfl
@[simp] theorem Block.setChain_power (b : Block) (i : Nat) (c : Chain) : (b.setChain i c).power = b.power := rfl
@[simp] theorem Block.setChain_tap (b : Block) (i : Nat) (c : Chain) : (b.setChain i c).tap = b.tap := rfl

@[simp] theorem Block.setChain_get (b : Block) (i : Nat) (c : Chain) (x : Fld) : (b.setChain i c).get x = b.get x := rfl
@[simp] theorem Block.setChain_flag (b : Block) (i : Nat) (c : Chain) (x : Fld) : (b.setChain i c).flag x = b.flag x := rfl
@[simp] theorem Block.setChain_engine (b : Block) (i : Nat) (c : Chain) (m : Nat) : (b.setChain i c).engine m = b.engine m := rfl
@[simp] theorem Block.setChain_bankAt (b : Block) (i : Nat) (c : Chain) (m : Nat) : (b.setChain i c).bankAt m = b.bankAt m := rfl

@[simp] theorem Block.setVt_isSealed (b : Block) (k : Nat) (v : Vt) : (b.setVt k v).isSealed = b.isSealed := rfl
@[simp] theorem Block.setVt_regs (b : Block) (k : Nat) (v : Vt) : (b.setVt k v).regs = b.regs := rfl
@[simp] theorem Block.setVt_mem (b : Block) (k : Nat) (v : Vt) : (b.setVt k v).mem = b.mem := rfl
@[simp] theorem Block.setVt_eng (b : Block) (k : Nat) (v : Vt) : (b.setVt k v).eng = b.eng := rfl
@[simp] theorem Block.setVt_bank (b : Block) (k : Nat) (v : Vt) : (b.setVt k v).bank = b.bank := rfl
@[simp] theorem Block.setVt_dram (b : Block) (k : Nat) (v : Vt) : (b.setVt k v).dram = b.dram := rfl
@[simp] theorem Block.setVt_resps (b : Block) (k : Nat) (v : Vt) : (b.setVt k v).resps = b.resps := rfl
@[simp] theorem Block.setVt_chain (b : Block) (k : Nat) (v : Vt) : (b.setVt k v).chain = b.chain := rfl
@[simp] theorem Block.setVt_claimer (b : Block) (k : Nat) (v : Vt) : (b.setVt k v).claimer = b.claimer := rfl
@[simp] theorem Block.setVt_fresh (b : Block) (k : Nat) (v : Vt) : (b.setVt k v).fresh = b.fresh := rfl
@[simp] theorem Block.setVt_vt (b : Block) (k : Nat) (v : Vt) : (b.setVt k v).vt = b.vt.put k v := rfl
@[simp] theorem Block.setVt_domQ (b : Block) (k : Nat) (v : Vt) : (b.setVt k v).domQ = b.domQ := rfl
@[simp] theorem Block.setVt_pd1 (b : Block) (k : Nat) (v : Vt) : (b.setVt k v).pd1 = b.pd1 := rfl
@[simp] theorem Block.setVt_pd4 (b : Block) (k : Nat) (v : Vt) : (b.setVt k v).pd4 = b.pd4 := rfl
@[simp] theorem Block.setVt_pd5 (b : Block) (k : Nat) (v : Vt) : (b.setVt k v).pd5 = b.pd5 := rfl
@[simp] theorem Block.setVt_trcBuf (b : Block) (k : Nat) (v : Vt) : (b.setVt k v).trcBuf = b.trcBuf := rfl
@[simp] theorem Block.setVt_spm (b : Block) (k : Nat) (v : Vt) : (b.setVt k v).spm = b.spm := rfl
@[simp] theorem Block.setVt_strobes (b : Block) (k : Nat) (v : Vt) : (b.setVt k v).strobes = b.strobes := rfl
@[simp] theorem Block.setVt_extAns (b : Block) (k : Nat) (v : Vt) : (b.setVt k v).extAns = b.extAns := rfl
@[simp] theorem Block.setVt_ports (b : Block) (k : Nat) (v : Vt) : (b.setVt k v).ports = b.ports := rfl
@[simp] theorem Block.setVt_intake (b : Block) (k : Nat) (v : Vt) : (b.setVt k v).intake = b.intake := rfl
@[simp] theorem Block.setVt_kettle (b : Block) (k : Nat) (v : Vt) : (b.setVt k v).kettle = b.kettle := rfl
@[simp] theorem Block.setVt_media (b : Block) (k : Nat) (v : Vt) : (b.setVt k v).media = b.media := rfl
@[simp] theorem Block.setVt_frac (b : Block) (k : Nat) (v : Vt) : (b.setVt k v).frac = b.frac := rfl
@[simp] theorem Block.setVt_digQ (b : Block) (k : Nat) (v : Vt) : (b.setVt k v).digQ = b.digQ := rfl
@[simp] theorem Block.setVt_dg (b : Block) (k : Nat) (v : Vt) : (b.setVt k v).dg = b.dg := rfl
@[simp] theorem Block.setVt_timers (b : Block) (k : Nat) (v : Vt) : (b.setVt k v).timers = b.timers := rfl
@[simp] theorem Block.setVt_dcycle (b : Block) (k : Nat) (v : Vt) : (b.setVt k v).dcycle = b.dcycle := rfl
@[simp] theorem Block.setVt_tick (b : Block) (k : Nat) (v : Vt) : (b.setVt k v).tick = b.tick := rfl
@[simp] theorem Block.setVt_axes (b : Block) (k : Nat) (v : Vt) : (b.setVt k v).axes = b.axes := rfl
@[simp] theorem Block.setVt_crema (b : Block) (k : Nat) (v : Vt) : (b.setVt k v).crema = b.crema := rfl
@[simp] theorem Block.setVt_pinseq (b : Block) (k : Nat) (v : Vt) : (b.setVt k v).pinseq = b.pinseq := rfl
@[simp] theorem Block.setVt_psio (b : Block) (k : Nat) (v : Vt) : (b.setVt k v).psio = b.psio := rfl
@[simp] theorem Block.setVt_rport (b : Block) (k : Nat) (v : Vt) : (b.setVt k v).rport = b.rport := rfl
@[simp] theorem Block.setVt_power (b : Block) (k : Nat) (v : Vt) : (b.setVt k v).power = b.power := rfl
@[simp] theorem Block.setVt_tap (b : Block) (k : Nat) (v : Vt) : (b.setVt k v).tap = b.tap := rfl

@[simp] theorem Block.setVt_get (b : Block) (k : Nat) (v : Vt) (x : Fld) : (b.setVt k v).get x = b.get x := rfl
@[simp] theorem Block.setVt_flag (b : Block) (k : Nat) (v : Vt) (x : Fld) : (b.setVt k v).flag x = b.flag x := rfl
@[simp] theorem Block.setVt_engine (b : Block) (k : Nat) (v : Vt) (m : Nat) : (b.setVt k v).engine m = b.engine m := rfl
@[simp] theorem Block.setVt_bankAt (b : Block) (k : Nat) (v : Vt) (m : Nat) : (b.setVt k v).bankAt m = b.bankAt m := rfl

@[simp] theorem Block.modSpm_isSealed (b : Block) (g : Spm → Spm) : (b.modSpm g).isSealed = b.isSealed := rfl
@[simp] theorem Block.modSpm_regs (b : Block) (g : Spm → Spm) : (b.modSpm g).regs = b.regs := rfl
@[simp] theorem Block.modSpm_mem (b : Block) (g : Spm → Spm) : (b.modSpm g).mem = b.mem := rfl
@[simp] theorem Block.modSpm_eng (b : Block) (g : Spm → Spm) : (b.modSpm g).eng = b.eng := rfl
@[simp] theorem Block.modSpm_bank (b : Block) (g : Spm → Spm) : (b.modSpm g).bank = b.bank := rfl
@[simp] theorem Block.modSpm_dram (b : Block) (g : Spm → Spm) : (b.modSpm g).dram = b.dram := rfl
@[simp] theorem Block.modSpm_resps (b : Block) (g : Spm → Spm) : (b.modSpm g).resps = b.resps := rfl
@[simp] theorem Block.modSpm_chain (b : Block) (g : Spm → Spm) : (b.modSpm g).chain = b.chain := rfl
@[simp] theorem Block.modSpm_claimer (b : Block) (g : Spm → Spm) : (b.modSpm g).claimer = b.claimer := rfl
@[simp] theorem Block.modSpm_fresh (b : Block) (g : Spm → Spm) : (b.modSpm g).fresh = b.fresh := rfl
@[simp] theorem Block.modSpm_vt (b : Block) (g : Spm → Spm) : (b.modSpm g).vt = b.vt := rfl
@[simp] theorem Block.modSpm_domQ (b : Block) (g : Spm → Spm) : (b.modSpm g).domQ = b.domQ := rfl
@[simp] theorem Block.modSpm_pd1 (b : Block) (g : Spm → Spm) : (b.modSpm g).pd1 = b.pd1 := rfl
@[simp] theorem Block.modSpm_pd4 (b : Block) (g : Spm → Spm) : (b.modSpm g).pd4 = b.pd4 := rfl
@[simp] theorem Block.modSpm_pd5 (b : Block) (g : Spm → Spm) : (b.modSpm g).pd5 = b.pd5 := rfl
@[simp] theorem Block.modSpm_trcBuf (b : Block) (g : Spm → Spm) : (b.modSpm g).trcBuf = b.trcBuf := rfl
@[simp] theorem Block.modSpm_spm (b : Block) (g : Spm → Spm) : (b.modSpm g).spm = g b.spm := rfl
@[simp] theorem Block.modSpm_strobes (b : Block) (g : Spm → Spm) : (b.modSpm g).strobes = b.strobes := rfl
@[simp] theorem Block.modSpm_extAns (b : Block) (g : Spm → Spm) : (b.modSpm g).extAns = b.extAns := rfl
@[simp] theorem Block.modSpm_ports (b : Block) (g : Spm → Spm) : (b.modSpm g).ports = b.ports := rfl
@[simp] theorem Block.modSpm_intake (b : Block) (g : Spm → Spm) : (b.modSpm g).intake = b.intake := rfl
@[simp] theorem Block.modSpm_kettle (b : Block) (g : Spm → Spm) : (b.modSpm g).kettle = b.kettle := rfl
@[simp] theorem Block.modSpm_media (b : Block) (g : Spm → Spm) : (b.modSpm g).media = b.media := rfl
@[simp] theorem Block.modSpm_frac (b : Block) (g : Spm → Spm) : (b.modSpm g).frac = b.frac := rfl
@[simp] theorem Block.modSpm_digQ (b : Block) (g : Spm → Spm) : (b.modSpm g).digQ = b.digQ := rfl
@[simp] theorem Block.modSpm_dg (b : Block) (g : Spm → Spm) : (b.modSpm g).dg = b.dg := rfl
@[simp] theorem Block.modSpm_timers (b : Block) (g : Spm → Spm) : (b.modSpm g).timers = b.timers := rfl
@[simp] theorem Block.modSpm_dcycle (b : Block) (g : Spm → Spm) : (b.modSpm g).dcycle = b.dcycle := rfl
@[simp] theorem Block.modSpm_tick (b : Block) (g : Spm → Spm) : (b.modSpm g).tick = b.tick := rfl
@[simp] theorem Block.modSpm_axes (b : Block) (g : Spm → Spm) : (b.modSpm g).axes = b.axes := rfl
@[simp] theorem Block.modSpm_crema (b : Block) (g : Spm → Spm) : (b.modSpm g).crema = b.crema := rfl
@[simp] theorem Block.modSpm_pinseq (b : Block) (g : Spm → Spm) : (b.modSpm g).pinseq = b.pinseq := rfl
@[simp] theorem Block.modSpm_psio (b : Block) (g : Spm → Spm) : (b.modSpm g).psio = b.psio := rfl
@[simp] theorem Block.modSpm_rport (b : Block) (g : Spm → Spm) : (b.modSpm g).rport = b.rport := rfl
@[simp] theorem Block.modSpm_power (b : Block) (g : Spm → Spm) : (b.modSpm g).power = b.power := rfl
@[simp] theorem Block.modSpm_tap (b : Block) (g : Spm → Spm) : (b.modSpm g).tap = b.tap := rfl

@[simp] theorem Block.modSpm_get (b : Block) (g : Spm → Spm) (x : Fld) : (b.modSpm g).get x = b.get x := rfl
@[simp] theorem Block.modSpm_flag (b : Block) (g : Spm → Spm) (x : Fld) : (b.modSpm g).flag x = b.flag x := rfl
@[simp] theorem Block.modSpm_engine (b : Block) (g : Spm → Spm) (m : Nat) : (b.modSpm g).engine m = b.engine m := rfl
@[simp] theorem Block.modSpm_bankAt (b : Block) (g : Spm → Spm) (m : Nat) : (b.modSpm g).bankAt m = b.bankAt m := rfl

@[simp] theorem Block.modInt_isSealed (b : Block) (g : Intake → Intake) : (b.modInt g).isSealed = b.isSealed := rfl
@[simp] theorem Block.modInt_regs (b : Block) (g : Intake → Intake) : (b.modInt g).regs = b.regs := rfl
@[simp] theorem Block.modInt_mem (b : Block) (g : Intake → Intake) : (b.modInt g).mem = b.mem := rfl
@[simp] theorem Block.modInt_eng (b : Block) (g : Intake → Intake) : (b.modInt g).eng = b.eng := rfl
@[simp] theorem Block.modInt_bank (b : Block) (g : Intake → Intake) : (b.modInt g).bank = b.bank := rfl
@[simp] theorem Block.modInt_dram (b : Block) (g : Intake → Intake) : (b.modInt g).dram = b.dram := rfl
@[simp] theorem Block.modInt_resps (b : Block) (g : Intake → Intake) : (b.modInt g).resps = b.resps := rfl
@[simp] theorem Block.modInt_chain (b : Block) (g : Intake → Intake) : (b.modInt g).chain = b.chain := rfl
@[simp] theorem Block.modInt_claimer (b : Block) (g : Intake → Intake) : (b.modInt g).claimer = b.claimer := rfl
@[simp] theorem Block.modInt_fresh (b : Block) (g : Intake → Intake) : (b.modInt g).fresh = b.fresh := rfl
@[simp] theorem Block.modInt_vt (b : Block) (g : Intake → Intake) : (b.modInt g).vt = b.vt := rfl
@[simp] theorem Block.modInt_domQ (b : Block) (g : Intake → Intake) : (b.modInt g).domQ = b.domQ := rfl
@[simp] theorem Block.modInt_pd1 (b : Block) (g : Intake → Intake) : (b.modInt g).pd1 = b.pd1 := rfl
@[simp] theorem Block.modInt_pd4 (b : Block) (g : Intake → Intake) : (b.modInt g).pd4 = b.pd4 := rfl
@[simp] theorem Block.modInt_pd5 (b : Block) (g : Intake → Intake) : (b.modInt g).pd5 = b.pd5 := rfl
@[simp] theorem Block.modInt_trcBuf (b : Block) (g : Intake → Intake) : (b.modInt g).trcBuf = b.trcBuf := rfl
@[simp] theorem Block.modInt_spm (b : Block) (g : Intake → Intake) : (b.modInt g).spm = b.spm := rfl
@[simp] theorem Block.modInt_strobes (b : Block) (g : Intake → Intake) : (b.modInt g).strobes = b.strobes := rfl
@[simp] theorem Block.modInt_extAns (b : Block) (g : Intake → Intake) : (b.modInt g).extAns = b.extAns := rfl
@[simp] theorem Block.modInt_ports (b : Block) (g : Intake → Intake) : (b.modInt g).ports = b.ports := rfl
@[simp] theorem Block.modInt_intake (b : Block) (g : Intake → Intake) : (b.modInt g).intake = g b.intake := rfl
@[simp] theorem Block.modInt_kettle (b : Block) (g : Intake → Intake) : (b.modInt g).kettle = b.kettle := rfl
@[simp] theorem Block.modInt_media (b : Block) (g : Intake → Intake) : (b.modInt g).media = b.media := rfl
@[simp] theorem Block.modInt_frac (b : Block) (g : Intake → Intake) : (b.modInt g).frac = b.frac := rfl
@[simp] theorem Block.modInt_digQ (b : Block) (g : Intake → Intake) : (b.modInt g).digQ = b.digQ := rfl
@[simp] theorem Block.modInt_dg (b : Block) (g : Intake → Intake) : (b.modInt g).dg = b.dg := rfl
@[simp] theorem Block.modInt_timers (b : Block) (g : Intake → Intake) : (b.modInt g).timers = b.timers := rfl
@[simp] theorem Block.modInt_dcycle (b : Block) (g : Intake → Intake) : (b.modInt g).dcycle = b.dcycle := rfl
@[simp] theorem Block.modInt_tick (b : Block) (g : Intake → Intake) : (b.modInt g).tick = b.tick := rfl
@[simp] theorem Block.modInt_axes (b : Block) (g : Intake → Intake) : (b.modInt g).axes = b.axes := rfl
@[simp] theorem Block.modInt_crema (b : Block) (g : Intake → Intake) : (b.modInt g).crema = b.crema := rfl
@[simp] theorem Block.modInt_pinseq (b : Block) (g : Intake → Intake) : (b.modInt g).pinseq = b.pinseq := rfl
@[simp] theorem Block.modInt_psio (b : Block) (g : Intake → Intake) : (b.modInt g).psio = b.psio := rfl
@[simp] theorem Block.modInt_rport (b : Block) (g : Intake → Intake) : (b.modInt g).rport = b.rport := rfl
@[simp] theorem Block.modInt_power (b : Block) (g : Intake → Intake) : (b.modInt g).power = b.power := rfl
@[simp] theorem Block.modInt_tap (b : Block) (g : Intake → Intake) : (b.modInt g).tap = b.tap := rfl

@[simp] theorem Block.modInt_get (b : Block) (g : Intake → Intake) (x : Fld) : (b.modInt g).get x = b.get x := rfl
@[simp] theorem Block.modInt_flag (b : Block) (g : Intake → Intake) (x : Fld) : (b.modInt g).flag x = b.flag x := rfl
@[simp] theorem Block.modInt_engine (b : Block) (g : Intake → Intake) (m : Nat) : (b.modInt g).engine m = b.engine m := rfl
@[simp] theorem Block.modInt_bankAt (b : Block) (g : Intake → Intake) (m : Nat) : (b.modInt g).bankAt m = b.bankAt m := rfl

@[simp] theorem Block.modKet_isSealed (b : Block) (g : Kettle → Kettle) : (b.modKet g).isSealed = b.isSealed := rfl
@[simp] theorem Block.modKet_regs (b : Block) (g : Kettle → Kettle) : (b.modKet g).regs = b.regs := rfl
@[simp] theorem Block.modKet_mem (b : Block) (g : Kettle → Kettle) : (b.modKet g).mem = b.mem := rfl
@[simp] theorem Block.modKet_eng (b : Block) (g : Kettle → Kettle) : (b.modKet g).eng = b.eng := rfl
@[simp] theorem Block.modKet_bank (b : Block) (g : Kettle → Kettle) : (b.modKet g).bank = b.bank := rfl
@[simp] theorem Block.modKet_dram (b : Block) (g : Kettle → Kettle) : (b.modKet g).dram = b.dram := rfl
@[simp] theorem Block.modKet_resps (b : Block) (g : Kettle → Kettle) : (b.modKet g).resps = b.resps := rfl
@[simp] theorem Block.modKet_chain (b : Block) (g : Kettle → Kettle) : (b.modKet g).chain = b.chain := rfl
@[simp] theorem Block.modKet_claimer (b : Block) (g : Kettle → Kettle) : (b.modKet g).claimer = b.claimer := rfl
@[simp] theorem Block.modKet_fresh (b : Block) (g : Kettle → Kettle) : (b.modKet g).fresh = b.fresh := rfl
@[simp] theorem Block.modKet_vt (b : Block) (g : Kettle → Kettle) : (b.modKet g).vt = b.vt := rfl
@[simp] theorem Block.modKet_domQ (b : Block) (g : Kettle → Kettle) : (b.modKet g).domQ = b.domQ := rfl
@[simp] theorem Block.modKet_pd1 (b : Block) (g : Kettle → Kettle) : (b.modKet g).pd1 = b.pd1 := rfl
@[simp] theorem Block.modKet_pd4 (b : Block) (g : Kettle → Kettle) : (b.modKet g).pd4 = b.pd4 := rfl
@[simp] theorem Block.modKet_pd5 (b : Block) (g : Kettle → Kettle) : (b.modKet g).pd5 = b.pd5 := rfl
@[simp] theorem Block.modKet_trcBuf (b : Block) (g : Kettle → Kettle) : (b.modKet g).trcBuf = b.trcBuf := rfl
@[simp] theorem Block.modKet_spm (b : Block) (g : Kettle → Kettle) : (b.modKet g).spm = b.spm := rfl
@[simp] theorem Block.modKet_strobes (b : Block) (g : Kettle → Kettle) : (b.modKet g).strobes = b.strobes := rfl
@[simp] theorem Block.modKet_extAns (b : Block) (g : Kettle → Kettle) : (b.modKet g).extAns = b.extAns := rfl
@[simp] theorem Block.modKet_ports (b : Block) (g : Kettle → Kettle) : (b.modKet g).ports = b.ports := rfl
@[simp] theorem Block.modKet_intake (b : Block) (g : Kettle → Kettle) : (b.modKet g).intake = b.intake := rfl
@[simp] theorem Block.modKet_kettle (b : Block) (g : Kettle → Kettle) : (b.modKet g).kettle = g b.kettle := rfl
@[simp] theorem Block.modKet_media (b : Block) (g : Kettle → Kettle) : (b.modKet g).media = b.media := rfl
@[simp] theorem Block.modKet_frac (b : Block) (g : Kettle → Kettle) : (b.modKet g).frac = b.frac := rfl
@[simp] theorem Block.modKet_digQ (b : Block) (g : Kettle → Kettle) : (b.modKet g).digQ = b.digQ := rfl
@[simp] theorem Block.modKet_dg (b : Block) (g : Kettle → Kettle) : (b.modKet g).dg = b.dg := rfl
@[simp] theorem Block.modKet_timers (b : Block) (g : Kettle → Kettle) : (b.modKet g).timers = b.timers := rfl
@[simp] theorem Block.modKet_dcycle (b : Block) (g : Kettle → Kettle) : (b.modKet g).dcycle = b.dcycle := rfl
@[simp] theorem Block.modKet_tick (b : Block) (g : Kettle → Kettle) : (b.modKet g).tick = b.tick := rfl
@[simp] theorem Block.modKet_axes (b : Block) (g : Kettle → Kettle) : (b.modKet g).axes = b.axes := rfl
@[simp] theorem Block.modKet_crema (b : Block) (g : Kettle → Kettle) : (b.modKet g).crema = b.crema := rfl
@[simp] theorem Block.modKet_pinseq (b : Block) (g : Kettle → Kettle) : (b.modKet g).pinseq = b.pinseq := rfl
@[simp] theorem Block.modKet_psio (b : Block) (g : Kettle → Kettle) : (b.modKet g).psio = b.psio := rfl
@[simp] theorem Block.modKet_rport (b : Block) (g : Kettle → Kettle) : (b.modKet g).rport = b.rport := rfl
@[simp] theorem Block.modKet_power (b : Block) (g : Kettle → Kettle) : (b.modKet g).power = b.power := rfl
@[simp] theorem Block.modKet_tap (b : Block) (g : Kettle → Kettle) : (b.modKet g).tap = b.tap := rfl

@[simp] theorem Block.modKet_get (b : Block) (g : Kettle → Kettle) (x : Fld) : (b.modKet g).get x = b.get x := rfl
@[simp] theorem Block.modKet_flag (b : Block) (g : Kettle → Kettle) (x : Fld) : (b.modKet g).flag x = b.flag x := rfl
@[simp] theorem Block.modKet_engine (b : Block) (g : Kettle → Kettle) (m : Nat) : (b.modKet g).engine m = b.engine m := rfl
@[simp] theorem Block.modKet_bankAt (b : Block) (g : Kettle → Kettle) (m : Nat) : (b.modKet g).bankAt m = b.bankAt m := rfl

@[simp] theorem Block.modMp_isSealed (b : Block) (g : Media → Media) : (b.modMp g).isSealed = b.isSealed := rfl
@[simp] theorem Block.modMp_regs (b : Block) (g : Media → Media) : (b.modMp g).regs = b.regs := rfl
@[simp] theorem Block.modMp_mem (b : Block) (g : Media → Media) : (b.modMp g).mem = b.mem := rfl
@[simp] theorem Block.modMp_eng (b : Block) (g : Media → Media) : (b.modMp g).eng = b.eng := rfl
@[simp] theorem Block.modMp_bank (b : Block) (g : Media → Media) : (b.modMp g).bank = b.bank := rfl
@[simp] theorem Block.modMp_dram (b : Block) (g : Media → Media) : (b.modMp g).dram = b.dram := rfl
@[simp] theorem Block.modMp_resps (b : Block) (g : Media → Media) : (b.modMp g).resps = b.resps := rfl
@[simp] theorem Block.modMp_chain (b : Block) (g : Media → Media) : (b.modMp g).chain = b.chain := rfl
@[simp] theorem Block.modMp_claimer (b : Block) (g : Media → Media) : (b.modMp g).claimer = b.claimer := rfl
@[simp] theorem Block.modMp_fresh (b : Block) (g : Media → Media) : (b.modMp g).fresh = b.fresh := rfl
@[simp] theorem Block.modMp_vt (b : Block) (g : Media → Media) : (b.modMp g).vt = b.vt := rfl
@[simp] theorem Block.modMp_domQ (b : Block) (g : Media → Media) : (b.modMp g).domQ = b.domQ := rfl
@[simp] theorem Block.modMp_pd1 (b : Block) (g : Media → Media) : (b.modMp g).pd1 = b.pd1 := rfl
@[simp] theorem Block.modMp_pd4 (b : Block) (g : Media → Media) : (b.modMp g).pd4 = b.pd4 := rfl
@[simp] theorem Block.modMp_pd5 (b : Block) (g : Media → Media) : (b.modMp g).pd5 = b.pd5 := rfl
@[simp] theorem Block.modMp_trcBuf (b : Block) (g : Media → Media) : (b.modMp g).trcBuf = b.trcBuf := rfl
@[simp] theorem Block.modMp_spm (b : Block) (g : Media → Media) : (b.modMp g).spm = b.spm := rfl
@[simp] theorem Block.modMp_strobes (b : Block) (g : Media → Media) : (b.modMp g).strobes = b.strobes := rfl
@[simp] theorem Block.modMp_extAns (b : Block) (g : Media → Media) : (b.modMp g).extAns = b.extAns := rfl
@[simp] theorem Block.modMp_ports (b : Block) (g : Media → Media) : (b.modMp g).ports = b.ports := rfl
@[simp] theorem Block.modMp_intake (b : Block) (g : Media → Media) : (b.modMp g).intake = b.intake := rfl
@[simp] theorem Block.modMp_kettle (b : Block) (g : Media → Media) : (b.modMp g).kettle = b.kettle := rfl
@[simp] theorem Block.modMp_media (b : Block) (g : Media → Media) : (b.modMp g).media = g b.media := rfl
@[simp] theorem Block.modMp_frac (b : Block) (g : Media → Media) : (b.modMp g).frac = b.frac := rfl
@[simp] theorem Block.modMp_digQ (b : Block) (g : Media → Media) : (b.modMp g).digQ = b.digQ := rfl
@[simp] theorem Block.modMp_dg (b : Block) (g : Media → Media) : (b.modMp g).dg = b.dg := rfl
@[simp] theorem Block.modMp_timers (b : Block) (g : Media → Media) : (b.modMp g).timers = b.timers := rfl
@[simp] theorem Block.modMp_dcycle (b : Block) (g : Media → Media) : (b.modMp g).dcycle = b.dcycle := rfl
@[simp] theorem Block.modMp_tick (b : Block) (g : Media → Media) : (b.modMp g).tick = b.tick := rfl
@[simp] theorem Block.modMp_axes (b : Block) (g : Media → Media) : (b.modMp g).axes = b.axes := rfl
@[simp] theorem Block.modMp_crema (b : Block) (g : Media → Media) : (b.modMp g).crema = b.crema := rfl
@[simp] theorem Block.modMp_pinseq (b : Block) (g : Media → Media) : (b.modMp g).pinseq = b.pinseq := rfl
@[simp] theorem Block.modMp_psio (b : Block) (g : Media → Media) : (b.modMp g).psio = b.psio := rfl
@[simp] theorem Block.modMp_rport (b : Block) (g : Media → Media) : (b.modMp g).rport = b.rport := rfl
@[simp] theorem Block.modMp_power (b : Block) (g : Media → Media) : (b.modMp g).power = b.power := rfl
@[simp] theorem Block.modMp_tap (b : Block) (g : Media → Media) : (b.modMp g).tap = b.tap := rfl

@[simp] theorem Block.modMp_get (b : Block) (g : Media → Media) (x : Fld) : (b.modMp g).get x = b.get x := rfl
@[simp] theorem Block.modMp_flag (b : Block) (g : Media → Media) (x : Fld) : (b.modMp g).flag x = b.flag x := rfl
@[simp] theorem Block.modMp_engine (b : Block) (g : Media → Media) (m : Nat) : (b.modMp g).engine m = b.engine m := rfl
@[simp] theorem Block.modMp_bankAt (b : Block) (g : Media → Media) (m : Nat) : (b.modMp g).bankAt m = b.bankAt m := rfl

@[simp] theorem Block.modTim_isSealed (b : Block) (g : Timers → Timers) : (b.modTim g).isSealed = b.isSealed := rfl
@[simp] theorem Block.modTim_regs (b : Block) (g : Timers → Timers) : (b.modTim g).regs = b.regs := rfl
@[simp] theorem Block.modTim_mem (b : Block) (g : Timers → Timers) : (b.modTim g).mem = b.mem := rfl
@[simp] theorem Block.modTim_eng (b : Block) (g : Timers → Timers) : (b.modTim g).eng = b.eng := rfl
@[simp] theorem Block.modTim_bank (b : Block) (g : Timers → Timers) : (b.modTim g).bank = b.bank := rfl
@[simp] theorem Block.modTim_dram (b : Block) (g : Timers → Timers) : (b.modTim g).dram = b.dram := rfl
@[simp] theorem Block.modTim_resps (b : Block) (g : Timers → Timers) : (b.modTim g).resps = b.resps := rfl
@[simp] theorem Block.modTim_chain (b : Block) (g : Timers → Timers) : (b.modTim g).chain = b.chain := rfl
@[simp] theorem Block.modTim_claimer (b : Block) (g : Timers → Timers) : (b.modTim g).claimer = b.claimer := rfl
@[simp] theorem Block.modTim_fresh (b : Block) (g : Timers → Timers) : (b.modTim g).fresh = b.fresh := rfl
@[simp] theorem Block.modTim_vt (b : Block) (g : Timers → Timers) : (b.modTim g).vt = b.vt := rfl
@[simp] theorem Block.modTim_domQ (b : Block) (g : Timers → Timers) : (b.modTim g).domQ = b.domQ := rfl
@[simp] theorem Block.modTim_pd1 (b : Block) (g : Timers → Timers) : (b.modTim g).pd1 = b.pd1 := rfl
@[simp] theorem Block.modTim_pd4 (b : Block) (g : Timers → Timers) : (b.modTim g).pd4 = b.pd4 := rfl
@[simp] theorem Block.modTim_pd5 (b : Block) (g : Timers → Timers) : (b.modTim g).pd5 = b.pd5 := rfl
@[simp] theorem Block.modTim_trcBuf (b : Block) (g : Timers → Timers) : (b.modTim g).trcBuf = b.trcBuf := rfl
@[simp] theorem Block.modTim_spm (b : Block) (g : Timers → Timers) : (b.modTim g).spm = b.spm := rfl
@[simp] theorem Block.modTim_strobes (b : Block) (g : Timers → Timers) : (b.modTim g).strobes = b.strobes := rfl
@[simp] theorem Block.modTim_extAns (b : Block) (g : Timers → Timers) : (b.modTim g).extAns = b.extAns := rfl
@[simp] theorem Block.modTim_ports (b : Block) (g : Timers → Timers) : (b.modTim g).ports = b.ports := rfl
@[simp] theorem Block.modTim_intake (b : Block) (g : Timers → Timers) : (b.modTim g).intake = b.intake := rfl
@[simp] theorem Block.modTim_kettle (b : Block) (g : Timers → Timers) : (b.modTim g).kettle = b.kettle := rfl
@[simp] theorem Block.modTim_media (b : Block) (g : Timers → Timers) : (b.modTim g).media = b.media := rfl
@[simp] theorem Block.modTim_frac (b : Block) (g : Timers → Timers) : (b.modTim g).frac = b.frac := rfl
@[simp] theorem Block.modTim_digQ (b : Block) (g : Timers → Timers) : (b.modTim g).digQ = b.digQ := rfl
@[simp] theorem Block.modTim_dg (b : Block) (g : Timers → Timers) : (b.modTim g).dg = b.dg := rfl
@[simp] theorem Block.modTim_timers (b : Block) (g : Timers → Timers) : (b.modTim g).timers = g b.timers := rfl
@[simp] theorem Block.modTim_dcycle (b : Block) (g : Timers → Timers) : (b.modTim g).dcycle = b.dcycle := rfl
@[simp] theorem Block.modTim_tick (b : Block) (g : Timers → Timers) : (b.modTim g).tick = b.tick := rfl
@[simp] theorem Block.modTim_axes (b : Block) (g : Timers → Timers) : (b.modTim g).axes = b.axes := rfl
@[simp] theorem Block.modTim_crema (b : Block) (g : Timers → Timers) : (b.modTim g).crema = b.crema := rfl
@[simp] theorem Block.modTim_pinseq (b : Block) (g : Timers → Timers) : (b.modTim g).pinseq = b.pinseq := rfl
@[simp] theorem Block.modTim_psio (b : Block) (g : Timers → Timers) : (b.modTim g).psio = b.psio := rfl
@[simp] theorem Block.modTim_rport (b : Block) (g : Timers → Timers) : (b.modTim g).rport = b.rport := rfl
@[simp] theorem Block.modTim_power (b : Block) (g : Timers → Timers) : (b.modTim g).power = b.power := rfl
@[simp] theorem Block.modTim_tap (b : Block) (g : Timers → Timers) : (b.modTim g).tap = b.tap := rfl

@[simp] theorem Block.modTim_get (b : Block) (g : Timers → Timers) (x : Fld) : (b.modTim g).get x = b.get x := rfl
@[simp] theorem Block.modTim_flag (b : Block) (g : Timers → Timers) (x : Fld) : (b.modTim g).flag x = b.flag x := rfl
@[simp] theorem Block.modTim_engine (b : Block) (g : Timers → Timers) (m : Nat) : (b.modTim g).engine m = b.engine m := rfl
@[simp] theorem Block.modTim_bankAt (b : Block) (g : Timers → Timers) (m : Nat) : (b.modTim g).bankAt m = b.bankAt m := rfl

@[simp] theorem Block.modAx_isSealed (b : Block) (a : Nat) (g : Axis → Axis) : (b.modAx a g).isSealed = b.isSealed := rfl
@[simp] theorem Block.modAx_regs (b : Block) (a : Nat) (g : Axis → Axis) : (b.modAx a g).regs = b.regs := rfl
@[simp] theorem Block.modAx_mem (b : Block) (a : Nat) (g : Axis → Axis) : (b.modAx a g).mem = b.mem := rfl
@[simp] theorem Block.modAx_eng (b : Block) (a : Nat) (g : Axis → Axis) : (b.modAx a g).eng = b.eng := rfl
@[simp] theorem Block.modAx_bank (b : Block) (a : Nat) (g : Axis → Axis) : (b.modAx a g).bank = b.bank := rfl
@[simp] theorem Block.modAx_dram (b : Block) (a : Nat) (g : Axis → Axis) : (b.modAx a g).dram = b.dram := rfl
@[simp] theorem Block.modAx_resps (b : Block) (a : Nat) (g : Axis → Axis) : (b.modAx a g).resps = b.resps := rfl
@[simp] theorem Block.modAx_chain (b : Block) (a : Nat) (g : Axis → Axis) : (b.modAx a g).chain = b.chain := rfl
@[simp] theorem Block.modAx_claimer (b : Block) (a : Nat) (g : Axis → Axis) : (b.modAx a g).claimer = b.claimer := rfl
@[simp] theorem Block.modAx_fresh (b : Block) (a : Nat) (g : Axis → Axis) : (b.modAx a g).fresh = b.fresh := rfl
@[simp] theorem Block.modAx_vt (b : Block) (a : Nat) (g : Axis → Axis) : (b.modAx a g).vt = b.vt := rfl
@[simp] theorem Block.modAx_domQ (b : Block) (a : Nat) (g : Axis → Axis) : (b.modAx a g).domQ = b.domQ := rfl
@[simp] theorem Block.modAx_pd1 (b : Block) (a : Nat) (g : Axis → Axis) : (b.modAx a g).pd1 = b.pd1 := rfl
@[simp] theorem Block.modAx_pd4 (b : Block) (a : Nat) (g : Axis → Axis) : (b.modAx a g).pd4 = b.pd4 := rfl
@[simp] theorem Block.modAx_pd5 (b : Block) (a : Nat) (g : Axis → Axis) : (b.modAx a g).pd5 = b.pd5 := rfl
@[simp] theorem Block.modAx_trcBuf (b : Block) (a : Nat) (g : Axis → Axis) : (b.modAx a g).trcBuf = b.trcBuf := rfl
@[simp] theorem Block.modAx_spm (b : Block) (a : Nat) (g : Axis → Axis) : (b.modAx a g).spm = b.spm := rfl
@[simp] theorem Block.modAx_strobes (b : Block) (a : Nat) (g : Axis → Axis) : (b.modAx a g).strobes = b.strobes := rfl
@[simp] theorem Block.modAx_extAns (b : Block) (a : Nat) (g : Axis → Axis) : (b.modAx a g).extAns = b.extAns := rfl
@[simp] theorem Block.modAx_ports (b : Block) (a : Nat) (g : Axis → Axis) : (b.modAx a g).ports = b.ports := rfl
@[simp] theorem Block.modAx_intake (b : Block) (a : Nat) (g : Axis → Axis) : (b.modAx a g).intake = b.intake := rfl
@[simp] theorem Block.modAx_kettle (b : Block) (a : Nat) (g : Axis → Axis) : (b.modAx a g).kettle = b.kettle := rfl
@[simp] theorem Block.modAx_media (b : Block) (a : Nat) (g : Axis → Axis) : (b.modAx a g).media = b.media := rfl
@[simp] theorem Block.modAx_frac (b : Block) (a : Nat) (g : Axis → Axis) : (b.modAx a g).frac = b.frac := rfl
@[simp] theorem Block.modAx_digQ (b : Block) (a : Nat) (g : Axis → Axis) : (b.modAx a g).digQ = b.digQ := rfl
@[simp] theorem Block.modAx_dg (b : Block) (a : Nat) (g : Axis → Axis) : (b.modAx a g).dg = b.dg := rfl
@[simp] theorem Block.modAx_timers (b : Block) (a : Nat) (g : Axis → Axis) : (b.modAx a g).timers = b.timers := rfl
@[simp] theorem Block.modAx_dcycle (b : Block) (a : Nat) (g : Axis → Axis) : (b.modAx a g).dcycle = b.dcycle := rfl
@[simp] theorem Block.modAx_tick (b : Block) (a : Nat) (g : Axis → Axis) : (b.modAx a g).tick = b.tick := rfl
@[simp] theorem Block.modAx_axes (b : Block) (a : Nat) (g : Axis → Axis) : (b.modAx a g).axes = b.axes.put a (g (b.ax a)) := rfl
@[simp] theorem Block.modAx_crema (b : Block) (a : Nat) (g : Axis → Axis) : (b.modAx a g).crema = b.crema := rfl
@[simp] theorem Block.modAx_pinseq (b : Block) (a : Nat) (g : Axis → Axis) : (b.modAx a g).pinseq = b.pinseq := rfl
@[simp] theorem Block.modAx_psio (b : Block) (a : Nat) (g : Axis → Axis) : (b.modAx a g).psio = b.psio := rfl
@[simp] theorem Block.modAx_rport (b : Block) (a : Nat) (g : Axis → Axis) : (b.modAx a g).rport = b.rport := rfl
@[simp] theorem Block.modAx_power (b : Block) (a : Nat) (g : Axis → Axis) : (b.modAx a g).power = b.power := rfl
@[simp] theorem Block.modAx_tap (b : Block) (a : Nat) (g : Axis → Axis) : (b.modAx a g).tap = b.tap := rfl

@[simp] theorem Block.modAx_get (b : Block) (a : Nat) (g : Axis → Axis) (x : Fld) : (b.modAx a g).get x = b.get x := rfl
@[simp] theorem Block.modAx_flag (b : Block) (a : Nat) (g : Axis → Axis) (x : Fld) : (b.modAx a g).flag x = b.flag x := rfl
@[simp] theorem Block.modAx_engine (b : Block) (a : Nat) (g : Axis → Axis) (m : Nat) : (b.modAx a g).engine m = b.engine m := rfl
@[simp] theorem Block.modAx_bankAt (b : Block) (a : Nat) (g : Axis → Axis) (m : Nat) : (b.modAx a g).bankAt m = b.bankAt m := rfl

@[simp] theorem Block.modPs_isSealed (b : Block) (n : Nat) (g : PinSeq → PinSeq) : (b.modPs n g).isSealed = b.isSealed := rfl
@[simp] theorem Block.modPs_regs (b : Block) (n : Nat) (g : PinSeq → PinSeq) : (b.modPs n g).regs = b.regs := rfl
@[simp] theorem Block.modPs_mem (b : Block) (n : Nat) (g : PinSeq → PinSeq) : (b.modPs n g).mem = b.mem := rfl
@[simp] theorem Block.modPs_eng (b : Block) (n : Nat) (g : PinSeq → PinSeq) : (b.modPs n g).eng = b.eng := rfl
@[simp] theorem Block.modPs_bank (b : Block) (n : Nat) (g : PinSeq → PinSeq) : (b.modPs n g).bank = b.bank := rfl
@[simp] theorem Block.modPs_dram (b : Block) (n : Nat) (g : PinSeq → PinSeq) : (b.modPs n g).dram = b.dram := rfl
@[simp] theorem Block.modPs_resps (b : Block) (n : Nat) (g : PinSeq → PinSeq) : (b.modPs n g).resps = b.resps := rfl
@[simp] theorem Block.modPs_chain (b : Block) (n : Nat) (g : PinSeq → PinSeq) : (b.modPs n g).chain = b.chain := rfl
@[simp] theorem Block.modPs_claimer (b : Block) (n : Nat) (g : PinSeq → PinSeq) : (b.modPs n g).claimer = b.claimer := rfl
@[simp] theorem Block.modPs_fresh (b : Block) (n : Nat) (g : PinSeq → PinSeq) : (b.modPs n g).fresh = b.fresh := rfl
@[simp] theorem Block.modPs_vt (b : Block) (n : Nat) (g : PinSeq → PinSeq) : (b.modPs n g).vt = b.vt := rfl
@[simp] theorem Block.modPs_domQ (b : Block) (n : Nat) (g : PinSeq → PinSeq) : (b.modPs n g).domQ = b.domQ := rfl
@[simp] theorem Block.modPs_pd1 (b : Block) (n : Nat) (g : PinSeq → PinSeq) : (b.modPs n g).pd1 = b.pd1 := rfl
@[simp] theorem Block.modPs_pd4 (b : Block) (n : Nat) (g : PinSeq → PinSeq) : (b.modPs n g).pd4 = b.pd4 := rfl
@[simp] theorem Block.modPs_pd5 (b : Block) (n : Nat) (g : PinSeq → PinSeq) : (b.modPs n g).pd5 = b.pd5 := rfl
@[simp] theorem Block.modPs_trcBuf (b : Block) (n : Nat) (g : PinSeq → PinSeq) : (b.modPs n g).trcBuf = b.trcBuf := rfl
@[simp] theorem Block.modPs_spm (b : Block) (n : Nat) (g : PinSeq → PinSeq) : (b.modPs n g).spm = b.spm := rfl
@[simp] theorem Block.modPs_strobes (b : Block) (n : Nat) (g : PinSeq → PinSeq) : (b.modPs n g).strobes = b.strobes := rfl
@[simp] theorem Block.modPs_extAns (b : Block) (n : Nat) (g : PinSeq → PinSeq) : (b.modPs n g).extAns = b.extAns := rfl
@[simp] theorem Block.modPs_ports (b : Block) (n : Nat) (g : PinSeq → PinSeq) : (b.modPs n g).ports = b.ports := rfl
@[simp] theorem Block.modPs_intake (b : Block) (n : Nat) (g : PinSeq → PinSeq) : (b.modPs n g).intake = b.intake := rfl
@[simp] theorem Block.modPs_kettle (b : Block) (n : Nat) (g : PinSeq → PinSeq) : (b.modPs n g).kettle = b.kettle := rfl
@[simp] theorem Block.modPs_media (b : Block) (n : Nat) (g : PinSeq → PinSeq) : (b.modPs n g).media = b.media := rfl
@[simp] theorem Block.modPs_frac (b : Block) (n : Nat) (g : PinSeq → PinSeq) : (b.modPs n g).frac = b.frac := rfl
@[simp] theorem Block.modPs_digQ (b : Block) (n : Nat) (g : PinSeq → PinSeq) : (b.modPs n g).digQ = b.digQ := rfl
@[simp] theorem Block.modPs_dg (b : Block) (n : Nat) (g : PinSeq → PinSeq) : (b.modPs n g).dg = b.dg := rfl
@[simp] theorem Block.modPs_timers (b : Block) (n : Nat) (g : PinSeq → PinSeq) : (b.modPs n g).timers = b.timers := rfl
@[simp] theorem Block.modPs_dcycle (b : Block) (n : Nat) (g : PinSeq → PinSeq) : (b.modPs n g).dcycle = b.dcycle := rfl
@[simp] theorem Block.modPs_tick (b : Block) (n : Nat) (g : PinSeq → PinSeq) : (b.modPs n g).tick = b.tick := rfl
@[simp] theorem Block.modPs_axes (b : Block) (n : Nat) (g : PinSeq → PinSeq) : (b.modPs n g).axes = b.axes := rfl
@[simp] theorem Block.modPs_crema (b : Block) (n : Nat) (g : PinSeq → PinSeq) : (b.modPs n g).crema = b.crema := rfl
@[simp] theorem Block.modPs_pinseq (b : Block) (n : Nat) (g : PinSeq → PinSeq) : (b.modPs n g).pinseq = b.pinseq.put n (g (b.ps n)) := rfl
@[simp] theorem Block.modPs_psio (b : Block) (n : Nat) (g : PinSeq → PinSeq) : (b.modPs n g).psio = b.psio := rfl
@[simp] theorem Block.modPs_rport (b : Block) (n : Nat) (g : PinSeq → PinSeq) : (b.modPs n g).rport = b.rport := rfl
@[simp] theorem Block.modPs_power (b : Block) (n : Nat) (g : PinSeq → PinSeq) : (b.modPs n g).power = b.power := rfl
@[simp] theorem Block.modPs_tap (b : Block) (n : Nat) (g : PinSeq → PinSeq) : (b.modPs n g).tap = b.tap := rfl

@[simp] theorem Block.modPs_get (b : Block) (n : Nat) (g : PinSeq → PinSeq) (x : Fld) : (b.modPs n g).get x = b.get x := rfl
@[simp] theorem Block.modPs_flag (b : Block) (n : Nat) (g : PinSeq → PinSeq) (x : Fld) : (b.modPs n g).flag x = b.flag x := rfl
@[simp] theorem Block.modPs_engine (b : Block) (n : Nat) (g : PinSeq → PinSeq) (m : Nat) : (b.modPs n g).engine m = b.engine m := rfl
@[simp] theorem Block.modPs_bankAt (b : Block) (n : Nat) (g : PinSeq → PinSeq) (m : Nat) : (b.modPs n g).bankAt m = b.bankAt m := rfl

@[simp] theorem Block.modRing_isSealed (b : Block) (g : RingPort → RingPort) : (b.modRing g).isSealed = b.isSealed := rfl
@[simp] theorem Block.modRing_regs (b : Block) (g : RingPort → RingPort) : (b.modRing g).regs = b.regs := rfl
@[simp] theorem Block.modRing_mem (b : Block) (g : RingPort → RingPort) : (b.modRing g).mem = b.mem := rfl
@[simp] theorem Block.modRing_eng (b : Block) (g : RingPort → RingPort) : (b.modRing g).eng = b.eng := rfl
@[simp] theorem Block.modRing_bank (b : Block) (g : RingPort → RingPort) : (b.modRing g).bank = b.bank := rfl
@[simp] theorem Block.modRing_dram (b : Block) (g : RingPort → RingPort) : (b.modRing g).dram = b.dram := rfl
@[simp] theorem Block.modRing_resps (b : Block) (g : RingPort → RingPort) : (b.modRing g).resps = b.resps := rfl
@[simp] theorem Block.modRing_chain (b : Block) (g : RingPort → RingPort) : (b.modRing g).chain = b.chain := rfl
@[simp] theorem Block.modRing_claimer (b : Block) (g : RingPort → RingPort) : (b.modRing g).claimer = b.claimer := rfl
@[simp] theorem Block.modRing_fresh (b : Block) (g : RingPort → RingPort) : (b.modRing g).fresh = b.fresh := rfl
@[simp] theorem Block.modRing_vt (b : Block) (g : RingPort → RingPort) : (b.modRing g).vt = b.vt := rfl
@[simp] theorem Block.modRing_domQ (b : Block) (g : RingPort → RingPort) : (b.modRing g).domQ = b.domQ := rfl
@[simp] theorem Block.modRing_pd1 (b : Block) (g : RingPort → RingPort) : (b.modRing g).pd1 = b.pd1 := rfl
@[simp] theorem Block.modRing_pd4 (b : Block) (g : RingPort → RingPort) : (b.modRing g).pd4 = b.pd4 := rfl
@[simp] theorem Block.modRing_pd5 (b : Block) (g : RingPort → RingPort) : (b.modRing g).pd5 = b.pd5 := rfl
@[simp] theorem Block.modRing_trcBuf (b : Block) (g : RingPort → RingPort) : (b.modRing g).trcBuf = b.trcBuf := rfl
@[simp] theorem Block.modRing_spm (b : Block) (g : RingPort → RingPort) : (b.modRing g).spm = b.spm := rfl
@[simp] theorem Block.modRing_strobes (b : Block) (g : RingPort → RingPort) : (b.modRing g).strobes = b.strobes := rfl
@[simp] theorem Block.modRing_extAns (b : Block) (g : RingPort → RingPort) : (b.modRing g).extAns = b.extAns := rfl
@[simp] theorem Block.modRing_ports (b : Block) (g : RingPort → RingPort) : (b.modRing g).ports = b.ports := rfl
@[simp] theorem Block.modRing_intake (b : Block) (g : RingPort → RingPort) : (b.modRing g).intake = b.intake := rfl
@[simp] theorem Block.modRing_kettle (b : Block) (g : RingPort → RingPort) : (b.modRing g).kettle = b.kettle := rfl
@[simp] theorem Block.modRing_media (b : Block) (g : RingPort → RingPort) : (b.modRing g).media = b.media := rfl
@[simp] theorem Block.modRing_frac (b : Block) (g : RingPort → RingPort) : (b.modRing g).frac = b.frac := rfl
@[simp] theorem Block.modRing_digQ (b : Block) (g : RingPort → RingPort) : (b.modRing g).digQ = b.digQ := rfl
@[simp] theorem Block.modRing_dg (b : Block) (g : RingPort → RingPort) : (b.modRing g).dg = b.dg := rfl
@[simp] theorem Block.modRing_timers (b : Block) (g : RingPort → RingPort) : (b.modRing g).timers = b.timers := rfl
@[simp] theorem Block.modRing_dcycle (b : Block) (g : RingPort → RingPort) : (b.modRing g).dcycle = b.dcycle := rfl
@[simp] theorem Block.modRing_tick (b : Block) (g : RingPort → RingPort) : (b.modRing g).tick = b.tick := rfl
@[simp] theorem Block.modRing_axes (b : Block) (g : RingPort → RingPort) : (b.modRing g).axes = b.axes := rfl
@[simp] theorem Block.modRing_crema (b : Block) (g : RingPort → RingPort) : (b.modRing g).crema = b.crema := rfl
@[simp] theorem Block.modRing_pinseq (b : Block) (g : RingPort → RingPort) : (b.modRing g).pinseq = b.pinseq := rfl
@[simp] theorem Block.modRing_psio (b : Block) (g : RingPort → RingPort) : (b.modRing g).psio = b.psio := rfl
@[simp] theorem Block.modRing_rport (b : Block) (g : RingPort → RingPort) : (b.modRing g).rport = g b.rport := rfl
@[simp] theorem Block.modRing_power (b : Block) (g : RingPort → RingPort) : (b.modRing g).power = b.power := rfl
@[simp] theorem Block.modRing_tap (b : Block) (g : RingPort → RingPort) : (b.modRing g).tap = b.tap := rfl

@[simp] theorem Block.modRing_get (b : Block) (g : RingPort → RingPort) (x : Fld) : (b.modRing g).get x = b.get x := rfl
@[simp] theorem Block.modRing_flag (b : Block) (g : RingPort → RingPort) (x : Fld) : (b.modRing g).flag x = b.flag x := rfl
@[simp] theorem Block.modRing_engine (b : Block) (g : RingPort → RingPort) (m : Nat) : (b.modRing g).engine m = b.engine m := rfl
@[simp] theorem Block.modRing_bankAt (b : Block) (g : RingPort → RingPort) (m : Nat) : (b.modRing g).bankAt m = b.bankAt m := rfl

@[simp] theorem Block.modTap_isSealed (b : Block) (g : Tap → Tap) : (b.modTap g).isSealed = b.isSealed := rfl
@[simp] theorem Block.modTap_regs (b : Block) (g : Tap → Tap) : (b.modTap g).regs = b.regs := rfl
@[simp] theorem Block.modTap_mem (b : Block) (g : Tap → Tap) : (b.modTap g).mem = b.mem := rfl
@[simp] theorem Block.modTap_eng (b : Block) (g : Tap → Tap) : (b.modTap g).eng = b.eng := rfl
@[simp] theorem Block.modTap_bank (b : Block) (g : Tap → Tap) : (b.modTap g).bank = b.bank := rfl
@[simp] theorem Block.modTap_dram (b : Block) (g : Tap → Tap) : (b.modTap g).dram = b.dram := rfl
@[simp] theorem Block.modTap_resps (b : Block) (g : Tap → Tap) : (b.modTap g).resps = b.resps := rfl
@[simp] theorem Block.modTap_chain (b : Block) (g : Tap → Tap) : (b.modTap g).chain = b.chain := rfl
@[simp] theorem Block.modTap_claimer (b : Block) (g : Tap → Tap) : (b.modTap g).claimer = b.claimer := rfl
@[simp] theorem Block.modTap_fresh (b : Block) (g : Tap → Tap) : (b.modTap g).fresh = b.fresh := rfl
@[simp] theorem Block.modTap_vt (b : Block) (g : Tap → Tap) : (b.modTap g).vt = b.vt := rfl
@[simp] theorem Block.modTap_domQ (b : Block) (g : Tap → Tap) : (b.modTap g).domQ = b.domQ := rfl
@[simp] theorem Block.modTap_pd1 (b : Block) (g : Tap → Tap) : (b.modTap g).pd1 = b.pd1 := rfl
@[simp] theorem Block.modTap_pd4 (b : Block) (g : Tap → Tap) : (b.modTap g).pd4 = b.pd4 := rfl
@[simp] theorem Block.modTap_pd5 (b : Block) (g : Tap → Tap) : (b.modTap g).pd5 = b.pd5 := rfl
@[simp] theorem Block.modTap_trcBuf (b : Block) (g : Tap → Tap) : (b.modTap g).trcBuf = b.trcBuf := rfl
@[simp] theorem Block.modTap_spm (b : Block) (g : Tap → Tap) : (b.modTap g).spm = b.spm := rfl
@[simp] theorem Block.modTap_strobes (b : Block) (g : Tap → Tap) : (b.modTap g).strobes = b.strobes := rfl
@[simp] theorem Block.modTap_extAns (b : Block) (g : Tap → Tap) : (b.modTap g).extAns = b.extAns := rfl
@[simp] theorem Block.modTap_ports (b : Block) (g : Tap → Tap) : (b.modTap g).ports = b.ports := rfl
@[simp] theorem Block.modTap_intake (b : Block) (g : Tap → Tap) : (b.modTap g).intake = b.intake := rfl
@[simp] theorem Block.modTap_kettle (b : Block) (g : Tap → Tap) : (b.modTap g).kettle = b.kettle := rfl
@[simp] theorem Block.modTap_media (b : Block) (g : Tap → Tap) : (b.modTap g).media = b.media := rfl
@[simp] theorem Block.modTap_frac (b : Block) (g : Tap → Tap) : (b.modTap g).frac = b.frac := rfl
@[simp] theorem Block.modTap_digQ (b : Block) (g : Tap → Tap) : (b.modTap g).digQ = b.digQ := rfl
@[simp] theorem Block.modTap_dg (b : Block) (g : Tap → Tap) : (b.modTap g).dg = b.dg := rfl
@[simp] theorem Block.modTap_timers (b : Block) (g : Tap → Tap) : (b.modTap g).timers = b.timers := rfl
@[simp] theorem Block.modTap_dcycle (b : Block) (g : Tap → Tap) : (b.modTap g).dcycle = b.dcycle := rfl
@[simp] theorem Block.modTap_tick (b : Block) (g : Tap → Tap) : (b.modTap g).tick = b.tick := rfl
@[simp] theorem Block.modTap_axes (b : Block) (g : Tap → Tap) : (b.modTap g).axes = b.axes := rfl
@[simp] theorem Block.modTap_crema (b : Block) (g : Tap → Tap) : (b.modTap g).crema = b.crema := rfl
@[simp] theorem Block.modTap_pinseq (b : Block) (g : Tap → Tap) : (b.modTap g).pinseq = b.pinseq := rfl
@[simp] theorem Block.modTap_psio (b : Block) (g : Tap → Tap) : (b.modTap g).psio = b.psio := rfl
@[simp] theorem Block.modTap_rport (b : Block) (g : Tap → Tap) : (b.modTap g).rport = b.rport := rfl
@[simp] theorem Block.modTap_power (b : Block) (g : Tap → Tap) : (b.modTap g).power = b.power := rfl
@[simp] theorem Block.modTap_tap (b : Block) (g : Tap → Tap) : (b.modTap g).tap = g b.tap := rfl

@[simp] theorem Block.modTap_get (b : Block) (g : Tap → Tap) (x : Fld) : (b.modTap g).get x = b.get x := rfl
@[simp] theorem Block.modTap_flag (b : Block) (g : Tap → Tap) (x : Fld) : (b.modTap g).flag x = b.flag x := rfl
@[simp] theorem Block.modTap_engine (b : Block) (g : Tap → Tap) (m : Nat) : (b.modTap g).engine m = b.engine m := rfl
@[simp] theorem Block.modTap_bankAt (b : Block) (g : Tap → Tap) (m : Nat) : (b.modTap g).bankAt m = b.bankAt m := rfl

@[simp] theorem Block.drawn_isSealed (b : Block) : (b.drawn).isSealed = b.isSealed := rfl
@[simp] theorem Block.drawn_regs (b : Block) : (b.drawn).regs = b.regs := rfl
@[simp] theorem Block.drawn_mem (b : Block) : (b.drawn).mem = b.mem := rfl
@[simp] theorem Block.drawn_eng (b : Block) : (b.drawn).eng = b.eng := rfl
@[simp] theorem Block.drawn_bank (b : Block) : (b.drawn).bank = b.bank := rfl
@[simp] theorem Block.drawn_dram (b : Block) : (b.drawn).dram = b.dram := rfl
@[simp] theorem Block.drawn_resps (b : Block) : (b.drawn).resps = b.resps := rfl
@[simp] theorem Block.drawn_chain (b : Block) : (b.drawn).chain = b.chain := rfl
@[simp] theorem Block.drawn_claimer (b : Block) : (b.drawn).claimer = b.claimer := rfl
@[simp] theorem Block.drawn_fresh (b : Block) : (b.drawn).fresh = b.fresh + 1 := rfl
@[simp] theorem Block.drawn_vt (b : Block) : (b.drawn).vt = b.vt := rfl
@[simp] theorem Block.drawn_domQ (b : Block) : (b.drawn).domQ = b.domQ := rfl
@[simp] theorem Block.drawn_pd1 (b : Block) : (b.drawn).pd1 = b.pd1 := rfl
@[simp] theorem Block.drawn_pd4 (b : Block) : (b.drawn).pd4 = b.pd4 := rfl
@[simp] theorem Block.drawn_pd5 (b : Block) : (b.drawn).pd5 = b.pd5 := rfl
@[simp] theorem Block.drawn_trcBuf (b : Block) : (b.drawn).trcBuf = b.trcBuf := rfl
@[simp] theorem Block.drawn_spm (b : Block) : (b.drawn).spm = b.spm := rfl
@[simp] theorem Block.drawn_strobes (b : Block) : (b.drawn).strobes = b.strobes := rfl
@[simp] theorem Block.drawn_extAns (b : Block) : (b.drawn).extAns = b.extAns := rfl
@[simp] theorem Block.drawn_ports (b : Block) : (b.drawn).ports = b.ports := rfl
@[simp] theorem Block.drawn_intake (b : Block) : (b.drawn).intake = b.intake := rfl
@[simp] theorem Block.drawn_kettle (b : Block) : (b.drawn).kettle = b.kettle := rfl
@[simp] theorem Block.drawn_media (b : Block) : (b.drawn).media = b.media := rfl
@[simp] theorem Block.drawn_frac (b : Block) : (b.drawn).frac = b.frac := rfl
@[simp] theorem Block.drawn_digQ (b : Block) : (b.drawn).digQ = b.digQ := rfl
@[simp] theorem Block.drawn_dg (b : Block) : (b.drawn).dg = b.dg := rfl
@[simp] theorem Block.drawn_timers (b : Block) : (b.drawn).timers = b.timers := rfl
@[simp] theorem Block.drawn_dcycle (b : Block) : (b.drawn).dcycle = b.dcycle := rfl
@[simp] theorem Block.drawn_tick (b : Block) : (b.drawn).tick = b.tick := rfl
@[simp] theorem Block.drawn_axes (b : Block) : (b.drawn).axes = b.axes := rfl
@[simp] theorem Block.drawn_crema (b : Block) : (b.drawn).crema = b.crema := rfl
@[simp] theorem Block.drawn_pinseq (b : Block) : (b.drawn).pinseq = b.pinseq := rfl
@[simp] theorem Block.drawn_psio (b : Block) : (b.drawn).psio = b.psio := rfl
@[simp] theorem Block.drawn_rport (b : Block) : (b.drawn).rport = b.rport := rfl
@[simp] theorem Block.drawn_power (b : Block) : (b.drawn).power = b.power := rfl
@[simp] theorem Block.drawn_tap (b : Block) : (b.drawn).tap = b.tap := rfl

@[simp] theorem Block.drawn_get (b : Block) (x : Fld) : (b.drawn).get x = b.get x := rfl
@[simp] theorem Block.drawn_flag (b : Block) (x : Fld) : (b.drawn).flag x = b.flag x := rfl
@[simp] theorem Block.drawn_engine (b : Block) (m : Nat) : (b.drawn).engine m = b.engine m := rfl
@[simp] theorem Block.drawn_bankAt (b : Block) (m : Nat) : (b.drawn).bankAt m = b.bankAt m := rfl

/-! ## Fresh residues (R142): nothing but the stored codes -/

@[simp] theorem Engine.recode_running (e : Engine) (l : List Nat) : (Engine.recode e l).running = e.running := rfl
@[simp] theorem Engine.recode_startDue (e : Engine) (l : List Nat) : (Engine.recode e l).startDue = e.startDue := rfl
@[simp] theorem Engine.recode_gV (e : Engine) (l : List Nat) : (Engine.recode e l).gV = e.gV := rfl
@[simp] theorem Engine.recode_gT (e : Engine) (l : List Nat) : (Engine.recode e l).gT = e.gT := rfl
@[simp] theorem Engine.recode_sp (e : Engine) (l : List Nat) : (Engine.recode e l).sp = e.sp := rfl
@[simp] theorem Engine.recode_st (e : Engine) (l : List Nat) : (Engine.recode e l).st = e.st := rfl
@[simp] theorem Engine.recode_pc (e : Engine) (l : List Nat) : (Engine.recode e l).pc = e.pc := rfl
@[simp] theorem Engine.recode_vr (e : Engine) (l : List Nat) : (Engine.recode e l).vr = e.vr := rfl
@[simp] theorem Engine.recode_ctxid (e : Engine) (l : List Nat) : (Engine.recode e l).ctxid = e.ctxid := rfl
@[simp] theorem Engine.recode_vbase (e : Engine) (l : List Nat) : (Engine.recode e l).vbase = e.vbase := rfl
@[simp] theorem Engine.recode_ftpc (e : Engine) (l : List Nat) : (Engine.recode e l).ftpc = e.ftpc := rfl
@[simp] theorem Engine.recode_faddr (e : Engine) (l : List Nat) : (Engine.recode e l).faddr = e.faddr := rfl
@[simp] theorem Engine.recode_fcause (e : Engine) (l : List Nat) : (Engine.recode e l).fcause = e.fcause := rfl
@[simp] theorem Engine.recode_ibuf (e : Engine) (l : List Nat) : (Engine.recode e l).ibuf = e.ibuf := rfl
@[simp] theorem Engine.recode_hold (e : Engine) (l : List Nat) : (Engine.recode e l).hold = e.hold := rfl
@[simp] theorem Engine.recode_long (e : Engine) (l : List Nat) : (Engine.recode e l).long = e.long := rfl
@[simp] theorem Engine.recode_fpt (e : Engine) (l : List Nat) : (Engine.recode e l).fpt = e.fpt := rfl
@[simp] theorem Engine.recode_cycle (e : Engine) (l : List Nat) : (Engine.recode e l).cycle = e.cycle := rfl
@[simp] theorem Engine.recode_kern (e : Engine) (l : List Nat) : (Engine.recode e l).kern = e.kern := rfl
@[simp] theorem Engine.recode_rg (e : Engine) (l : List Nat) : (Engine.recode e l).rg = e.rg := rfl
@[simp] theorem Engine.recode_rgBase (e : Engine) (l : List Nat) : (Engine.recode e l).rgBase = e.rgBase := rfl
@[simp] theorem Engine.recode_rgLim (e : Engine) (l : List Nat) : (Engine.recode e l).rgLim = e.rgLim := rfl
@[simp] theorem Engine.recode_u (e : Engine) (l : List Nat) : (Engine.recode e l).u = e.u := rfl
@[simp] theorem Engine.recode_ir (e : Engine) (l : List Nat) : (Engine.recode e l).ir = e.ir := rfl
@[simp] theorem Engine.recode_mdr (e : Engine) (l : List Nat) : (Engine.recode e l).mdr = e.mdr := rfl
@[simp] theorem Engine.recode_mlo (e : Engine) (l : List Nat) : (Engine.recode e l).mlo = e.mlo := rfl
@[simp] theorem Engine.recode_mhi (e : Engine) (l : List Nat) : (Engine.recode e l).mhi = e.mhi := rfl
@[simp] theorem Engine.recode_fpr (e : Engine) (l : List Nat) : (Engine.recode e l).fpr = e.fpr := rfl
@[simp] theorem Engine.recode_fprLate (e : Engine) (l : List Nat) : (Engine.recode e l).fprLate = e.fprLate := rfl
@[simp] theorem Engine.recode_scnt (e : Engine) (l : List Nat) : (Engine.recode e l).scnt = e.scnt := rfl
@[simp] theorem Engine.recode_lat (e : Engine) (l : List Nat) : (Engine.recode e l).lat = e.lat := rfl
@[simp] theorem Engine.recode_l (e : Engine) (l : List Nat) : (Engine.recode e l).l = e.l := rfl
@[simp] theorem Engine.recode_ustack (e : Engine) (l : List Nat) : (Engine.recode e l).ustack = e.ustack := rfl
@[simp] theorem Engine.recode_upc (e : Engine) (l : List Nat) : (Engine.recode e l).upc = e.upc := rfl
@[simp] theorem Engine.recode_pcNext (e : Engine) (l : List Nat) : (Engine.recode e l).pcNext = e.pcNext := rfl
@[simp] theorem Engine.recode_streamIn (e : Engine) (l : List Nat) : (Engine.recode e l).streamIn = e.streamIn := rfl
@[simp] theorem Engine.recode_streamPos (e : Engine) (l : List Nat) : (Engine.recode e l).streamPos = e.streamPos := rfl
@[simp] theorem Engine.recode_streamOut (e : Engine) (l : List Nat) : (Engine.recode e l).streamOut = e.streamOut := rfl
@[simp] theorem Engine.recode_slots (e : Engine) (l : List Nat) : (Engine.recode e l).slots = e.slots := rfl
@[simp] theorem Engine.recode_extBusy (e : Engine) (l : List Nat) : (Engine.recode e l).extBusy = e.extBusy := rfl
@[simp] theorem Engine.recode_extErr (e : Engine) (l : List Nat) : (Engine.recode e l).extErr = e.extErr := rfl
@[simp] theorem Engine.recode_extData (e : Engine) (l : List Nat) : (Engine.recode e l).extData = e.extData := rfl
@[simp] theorem Engine.recode_mdrWritten (e : Engine) (l : List Nat) : (Engine.recode e l).mdrWritten = e.mdrWritten := rfl
@[simp] theorem Engine.recode_wait (e : Engine) (l : List Nat) : (Engine.recode e l).wait = e.wait := rfl
@[simp] theorem Engine.recode_trapPt (e : Engine) (l : List Nat) : (Engine.recode e l).trapPt = e.trapPt := rfl
@[simp] theorem Engine.recode_inFault (e : Engine) (l : List Nat) : (Engine.recode e l).inFault = e.inFault := rfl
@[simp] theorem Engine.recode_resFault (e : Engine) (l : List Nat) : (Engine.recode e l).resFault = e.resFault := rfl
@[simp] theorem Engine.recode_replay (e : Engine) (l : List Nat) : (Engine.recode e l).replay = e.replay := rfl
@[simp] theorem Engine.recode_cs (e : Engine) (l : List Nat) : (Engine.recode e l).cs = e.cs := rfl
@[simp] theorem Engine.recode_csErr (e : Engine) (l : List Nat) : (Engine.recode e l).csErr = e.csErr := rfl
@[simp] theorem Engine.recode_csMap (e : Engine) (l : List Nat) : (Engine.recode e l).csMap = e.csMap := rfl
@[simp] theorem Engine.recode_csDigest (e : Engine) (l : List Nat) : (Engine.recode e l).csDigest = e.csDigest := rfl
@[simp] theorem Engine.recode_csScrub (e : Engine) (l : List Nat) : (Engine.recode e l).csScrub = e.csScrub := rfl
@[simp] theorem Engine.recode_lkLine (e : Engine) (l : List Nat) : (Engine.recode e l).lkLine = e.lkLine := rfl
@[simp] theorem Engine.recode_lkSeq (e : Engine) (l : List Nat) : (Engine.recode e l).lkSeq = e.lkSeq := rfl
@[simp] theorem Engine.recode_notices (e : Engine) (l : List Nat) : (Engine.recode e l).notices = e.notices := rfl
@[simp] theorem Engine.recode_cmp (e : Engine) (l : List Nat) : (Engine.recode e l).cmp = e.cmp := rfl
@[simp] theorem Engine.recode_cmpA (e : Engine) (l : List Nat) : (Engine.recode e l).cmpA = e.cmpA := rfl
@[simp] theorem Engine.recode_cmpB (e : Engine) (l : List Nat) : (Engine.recode e l).cmpB = e.cmpB := rfl
@[simp] theorem Engine.recode_cmpCtx (e : Engine) (l : List Nat) : (Engine.recode e l).cmpCtx = e.cmpCtx := rfl
@[simp] theorem Engine.recode_halt (e : Engine) (l : List Nat) : (Engine.recode e l).halt = e.halt := rfl
@[simp] theorem Engine.recode_monFrame (e : Engine) (l : List Nat) : (Engine.recode e l).monFrame = e.monFrame := rfl
@[simp] theorem Engine.recode_skipIaddr (e : Engine) (l : List Nat) : (Engine.recode e l).skipIaddr = e.skipIaddr := rfl
@[simp] theorem Engine.recode_dbgLo (e : Engine) (l : List Nat) : (Engine.recode e l).dbgLo = e.dbgLo := rfl
@[simp] theorem Engine.recode_trq (e : Engine) (l : List Nat) : (Engine.recode e l).trq = e.trq := rfl
@[simp] theorem Engine.recode_trDrop (e : Engine) (l : List Nat) : (Engine.recode e l).trDrop = e.trDrop := rfl
@[simp] theorem Engine.recode_icnt (e : Engine) (l : List Nat) : (Engine.recode e l).icnt = e.icnt := rfl
@[simp] theorem Engine.recode_trCount (e : Engine) (l : List Nat) : (Engine.recode e l).trCount = e.trCount := rfl
@[simp] theorem Engine.recode_wdgDue (e : Engine) (l : List Nat) : (Engine.recode e l).wdgDue = e.wdgDue := rfl
@[simp] theorem Engine.recode_wdgExact (e : Engine) (l : List Nat) : (Engine.recode e l).wdgExact = e.wdgExact := rfl
@[simp] theorem Engine.recode_freezeReq (e : Engine) (l : List Nat) : (Engine.recode e l).freezeReq = e.freezeReq := rfl
@[simp] theorem Engine.recode_frozen (e : Engine) (l : List Nat) : (Engine.recode e l).frozen = e.frozen := rfl

/-! ## Reading back -/

theorem Block.get_put_same (b : Block) (f : Fld) (v : Nat) : (b.put f v).get f = v % 2 ^ f.w := by
  simp [Block.get, Block.put, Tab.get]

theorem Block.get_put_ne (b : Block) (f x : Fld) (v : Nat) (h : x.key ≠ f.key) : (b.put f v).get x = b.get x := by
  simp [Block.get, Block.put, Tab.get, Tab.look_put_ne _ _ _ _ h]

/-- A field after a write of a field with another key, or of the same one. -/
theorem Block.get_put (b : Block) (f x : Fld) (v : Nat) :
    (b.put f v).get x = if x.key = f.key then v % 2 ^ f.w else b.get x := by
  by_cases h : x.key = f.key
  · simp [Block.get, Block.put, Tab.get, h]
  · simp [h, Block.get_put_ne b f x v h]

theorem Block.flag_put (b : Block) (f x : Fld) (v : Nat) :
    (b.put f v).flag x = if x.key = f.key then v % 2 ^ f.w != 0 else b.flag x := by
  unfold Block.flag
  rw [Block.get_put]
  split <;> rfl

@[simp] theorem Block.setEngine_engine_same (b : Block) (n : Nat) (e : Engine) : (b.setEngine n e).engine n = e := by
  simp [Block.engine, Tab.get]

theorem Block.setEngine_engine_ne (b : Block) (n m : Nat) (e : Engine) (h : m ≠ n) :
    (b.setEngine n e).engine m = b.engine m := by
  simp [Block.engine, Tab.get, Tab.look_put_ne _ _ _ _ h]

@[simp] theorem Block.modEngine_engine_same (b : Block) (n : Nat) (g : Engine → Engine) :
    (b.modEngine n g).engine n = g (b.engine n) := by
  simp [Block.modEngine]

theorem Block.modEngine_engine_ne (b : Block) (n m : Nat) (g : Engine → Engine) (h : m ≠ n) :
    (b.modEngine n g).engine m = b.engine m := Block.setEngine_engine_ne b n m _ h

@[simp] theorem Block.setBank_bankAt_same (b : Block) (k : Nat) (c : Bank) : (b.setBank k c).bankAt k = c := by
  simp [Block.bankAt, Tab.get]

theorem Block.setBank_bankAt_ne (b : Block) (k j : Nat) (c : Bank) (h : j ≠ k) : (b.setBank k c).bankAt j = b.bankAt j := by
  simp [Block.bankAt, Tab.get, Tab.look_put_ne _ _ _ _ h]

/-! ## A meaning's answer -/

/-- A meaning that always goes on answers a next state with the queue as it was and LC_STATE as it was. -/
theorem done_next (s : State) (b : Block) :
    done s b = .next { blk := { b with isSealed := s.blk.isSealed }, pending := s.pending } := rfl

theorem done_keeps {s t : State} {b : Block} (h : done s b = .next t) :
    t.pending = s.pending ∧ t.blk.isSealed = s.blk.isSealed ∧ { t.blk with isSealed := b.isSealed } = b := by
  cases h
  exact ⟨rfl, rfl, rfl⟩

end Sys2Proof.Machine
end

