-- ==== Sys2Proof/Laws/Feis.lean ====
section
/-! SUPPORT. What the operations that every FEIS instruction shares can do: the counters, dispatch without comparators, and the
end of an instruction where nothing is due. -/
namespace Sys2Proof.Machine

/-! ## Counters -/

theorem OnlyPmc.refl (n : Nat) (b : Block) : OnlyPmc n b b := ⟨rfl, fun _ _ => rfl⟩

theorem OnlyPmc.trans {n : Nat} {a b c : Block} (h : OnlyPmc n a b) (k : OnlyPmc n b c) : OnlyPmc n a c := by
  refine ⟨?_, fun x hx => (k.2 x hx).trans (h.2 x hx)⟩
  have h1 := h.1
  have k1 := k.1
  cases a; cases b; cases c
  simp only [Block.mk.injEq] at h1 k1 ⊢
  simp_all

theorem OnlyPmc.put {n : Nat} {a b : Block} (h : OnlyPmc n a b) (f : Fld) (v : Nat) (hf : isPmc n f = true) :
    OnlyPmc n a (b.put f v) := by
  refine ⟨h.1, fun x hx => ?_⟩
  rw [Block.get_put_ne, h.2 x hx]
  intro hk
  have : isPmc n x = isPmc n f := by simp [isPmc, hk]
  rw [this, hf] at hx
  exact Bool.noConfusion hx

theorem isPmc_ovf (n : Nat) : isPmc n (R.ENG_PMCTL_OVF n) = true := by simp [isPmc]

theorem isPmc_count (n i : Nat) (h : i < 8) : isPmc n (R.ENG_PMC_COUNT n i) = true := by
  simp only [isPmc, Bool.or_eq_true, List.any_eq_true, List.mem_range]
  exact .inr ⟨i, h, by simp⟩

/-- A step of a fold keeps a relation that every one of its steps keeps. -/
theorem forEach_keeps {α : Type} (P : α → Prop) (n : Nat) (f : Nat → α → α) (x : α) (h : P x)
    (k : ∀ i y, i < n → P y → P (f i y)) : P (forEach n f x) := by
  have : ∀ (l : List Nat), (∀ i ∈ l, i < n) → ∀ y, P y → P (l.foldl (fun y i => f i y) y) := by
    intro l
    induction l with
    | nil => intro _ y hy; exact hy
    | cons i l ih =>
      intro hl y hy
      exact ih (fun j hj => hl j (List.mem_cons_of_mem _ hj)) _ (k i y (hl i List.mem_cons_self) hy)
  exact this _ (fun i hi => List.mem_range.mp hi) x h

theorem pmcStep_only {n i : Nat} {a b : Block} (hi : i < 8) (h : OnlyPmc n a b) : OnlyPmc n a (b.pmcStep n i) := by
  have c0 := isPmc_count n i hi
  have o := isPmc_ovf n
  simp only [Block.pmcStep]
  split
  · exact h.put _ _ c0
  · split
    · rename_i g
      have c1 := isPmc_count n (i + 1) (by omega)
      split
      · exact ((h.put _ _ c0).put _ _ o).put _ _ c1
      · exact (((h.put _ _ c0).put _ _ o).put _ _ c1).put _ _ o
    · exact (h.put _ _ c0).put _ _ o

/-- Counting an engine's event changes its counters and nothing else (R477). -/
theorem countEng_only (b : Block) (n code : Nat) : OnlyPmc n b (b.countEng n code) := by
  unfold Block.countEng
  split
  · split
    · exact OnlyPmc.refl n b
    · refine forEach_keeps (OnlyPmc n b) 8 _ b (OnlyPmc.refl n b) ?_
      intro i y hi hy
      split
      · exact pmcStep_only hi hy
      · exact hy
  · exact OnlyPmc.refl n b

theorem OnlyPmc.engine {n : Nat} {a b : Block} (h : OnlyPmc n a b) (m : Nat) : b.engine m = a.engine m := by
  have := congrArg Block.eng h.1
  simp only [Block.engine]
  rw [← this]

theorem OnlyPmc.flag {n : Nat} {a b : Block} (h : OnlyPmc n a b) (x : Fld) (hx : isPmc n x = false) :
    b.flag x = a.flag x := by
  simp [Block.flag, h.2 x hx]

/-! ## Keys that are no counters -/

theorem isPmc_lkact (n : Nat) : isPmc n (R.ENG_LKSTAT_LKACT n) = false := by
  simp [isPmc, Fld.key, R.ENG_LKSTAT_LKACT, R.ENG_PMCTL_OVF, R.ENG_PMC_COUNT, List.range, List.range.loop]
  omega

theorem isPmc_tren (n : Nat) : isPmc n (R.ENG_DBGCTL_TREN n) = false := by
  simp [isPmc, Fld.key, R.ENG_DBGCTL_TREN, R.ENG_PMCTL_OVF, R.ENG_PMC_COUNT, List.range, List.range.loop]
  omega

theorem isPmc_trcEn (n : Nat) : isPmc n R.TRC_CTRL_EN = false := by
  simp [isPmc, Fld.key, R.TRC_CTRL_EN, R.ENG_PMCTL_OVF, R.ENG_PMC_COUNT, List.range, List.range.loop]
  omega

/-! ## Dispatch and the exceptions of an instruction -/

/-- No stored code of an engine differs from its value: none of what an instruction reads does. -/
theorem feisCorrupt_none {e : Engine} (h : e.codes = []) : e.feisCorrupt = false := by
  simp [Engine.feisCorrupt, h]

/-- An instruction at an engine that is there and that no comparator watches: its exceptions, or its body (R335). -/
theorem feis_at {s : State} {n : PE} {word : Nat} (h : AtInstr s n word) (traps : Engine → Option Trap)
    (body : Engine → Block → Block) :
    s.blk.feis n word traps body =
      match traps (s.blk.engine n).noSkip with
      | some t => (s.blk.modEngine n Engine.noSkip).trap n t
      | none => body (s.blk.engine n).noSkip (s.blk.modEngine n Engine.noSkip) := by
  obtain ⟨h1, h2, h3, h4, h5⟩ := h
  have hd : s.blk.dispatch n = (s.blk.modEngine n Engine.noSkip, false) := by
    simp only [Block.dispatch]
    rw [h4]
    rfl
  have he : (s.blk.modEngine n Engine.noSkip).engine n = (s.blk.engine n).noSkip := Block.modEngine_engine_same _ _ _
  have hc : (s.blk.engine n).noSkip.feisCorrupt = false := feisCorrupt_none h5
  have hw : ((s.blk.engine n).ir.toNat == word) = true := by simp [h3]
  simp only [Block.feis, h1, h2, hw, hd, he, hc, Bool.not_false, Bool.and_self, if_true, Bool.false_eq_true, if_false]

/-- A FEIS command for an engine that is not there changes nothing (log entry 5). -/
theorem feis_elsewhere (b : Block) (n : PE) (word : Nat) (traps : Engine → Option Trap) (body : Engine → Block → Block)
    (h : (b.ready n && !b.trapFirst n && (b.engine n).ir.toNat == word) = false) : b.feis n word traps body = b := by
  unfold Block.feis
  rw [h]
  rfl

/-! ## The end of an instruction -/

/-- Where no code is stored, a fresh residue stores none. -/
theorem recode_nil {e : Engine} (l : List Nat) (h : e.codes = []) : Engine.recode e l = e := by
  have hc : (e.codes.filter fun p => !l.contains p.1) = e.codes := by rw [h]; rfl
  unfold Engine.recode
  rw [hc]

theorem advance_eq {e : Engine} (next : Nat) (h : e.codes = []) :
    ∃ u i hd, e.advance next = { e with
      pc := BitVec.ofNat 48 next, trapPt := some true, upc := u, ir := i, hold := hd
      ibuf := e.ibuf.filter fun l => l.1 == next / 64 || l.1 == next / 64 + 1 } := by
  unfold Engine.advance Engine.dispatchNext
  rw [recode_nil [129] (by exact h)]
  split
  · rw [recode_nil [130, 138] (by exact h)]
    exact ⟨_, _, _, rfl⟩
  · exact ⟨_, _, _, rfl⟩

theorem advance_core {e : Engine} (next : Nat) (h : e.codes = []) : (e.advance next).core = e.core := by
  obtain ⟨u, i, hd, he⟩ := advance_eq next h
  rw [he]
  rfl

theorem advance_pc (e : Engine) (next : Nat) : (e.advance next).pc = BitVec.ofNat 48 next := by
  unfold Engine.advance Engine.dispatchNext
  split <;> rfl

theorem advance_fpt (e : Engine) (next : Nat) : (e.advance next).fpt = e.fpt := by
  unfold Engine.advance Engine.dispatchNext
  split <;> rfl

/-- The count of a pending FPTRAP touches nothing else (R120). -/
theorem fpCount_codes (e : Engine) (fp : Bool) : (e.fpCount fp).codes = e.codes := by
  unfold Engine.fpCount
  split <;> rfl

theorem fpCount_st (e : Engine) (fp : Bool) : (e.fpCount fp).st = e.st := by
  unfold Engine.fpCount
  split <;> rfl

theorem fpCount_none {e : Engine} (fp : Bool) (h : e.fpt = none) : e.fpCount fp = e := by
  simp [Engine.fpCount, h]

/-- The end of an instruction after which nothing is due (R71, R90, R120, R335). -/
theorem finish_ended (b : Block) (n : PE) (e0 : Engine) (next : Nat) (fp flow : Bool)
    (hdue : ((b.engine n).fpCount fp).fpTrapDue = false) (hss : e0.st.ss = false) (hcode : (b.engine n).codes = [])
    (hl : b.flag (R.ENG_LKSTAT_LKACT n) = false) (ht : b.tracing n = false) (s : State) (hs : s.blk.isSealed = b.isSealed) :
    ∃ t, done s (b.finish n e0 next fp flow) = .next t ∧ Ended (b.setEngine n ((b.engine n).fpCount fp)) n next t ∧
      t.pending = s.pending := by
  refine ⟨_, done_next s _, ?_, rfl⟩
  let e1 : Engine := { (b.engine n).fpCount fp with
    st := { (b.engine n).st with rsm := false }, long := none, ustack := [] }
  have hc1 : e1.codes = [] := by
    simp only [e1, fpCount_codes]
    exact hcode
  let b1 := b.setEngine n (e1.advance next)
  let b2 := b1.countEng n 0x03
  let b3 := if flow then b2.countEng n 0x0D else b2
  have o2 : OnlyPmc n b1 b2 := countEng_only b1 n 0x03
  have o3 : OnlyPmc n b1 b3 := by
    simp only [b3]
    split
    · exact o2.trans (countEng_only b2 n 0x0D)
    · exact o2
  have tr : ∀ {c : Block}, OnlyPmc n b1 c → c.tracing n = false := by
    intro c o
    simp only [Block.tracing] at ht ⊢
    rw [o.flag _ (isPmc_tren n), o.flag _ (isPmc_trcEn n)]
    exact ht
  have hlk : b2.flag (R.ENG_LKSTAT_LKACT n) = false := by
    rw [o2.flag _ (isPmc_lkact n)]
    exact hl
  have hfin : b.finish n e0 next fp flow = b3 := by
    have hd : (b3.engine n).fpTrapDue = false := by
      rw [o3.engine]
      simp only [b1, Block.setEngine_engine_same, Engine.fpTrapDue, advance_fpt, e1]
      exact hdue
    unfold Block.finish
    rw [show (b.modEngine n fun e => ({ e.fpCount fp with
      st := { e.st with rsm := false }, long := none, ustack := [] } : Engine).advance next) = b1 from rfl]
    simp only
    rw [show b1.countEng n 0x03 = b2 from rfl]
    have hb3 : (if flow = true then (b2.countEng n 0x0D).emitFlow n 2 0 0 next else b2) = b3 := by
      cases flow with
      | false => rfl
      | true =>
        have : (b2.countEng n 0x0D).tracing n = false := tr (o2.trans (countEng_only b2 n 0x0D))
        simp only [Block.emitFlow, this, Bool.false_eq_true, if_false, if_true, b3]
    simp only [Block.traceCount, tr o2, Bool.false_eq_true, if_false, Block.lockCount, hlk, hb3, hd, hss, Bool.false_and,
      Bool.or_self]
  rw [hfin]
  have hseal : b3.isSealed = s.blk.isSealed := by
    rw [hs]
    have := congrArg Block.isSealed o3.1
    exact this
  have heq : ({ b3 with isSealed := s.blk.isSealed } : Block) = b3 := by
    rw [← hseal]
  simp only [heq]
  refine ⟨?_, ?_, ?_, ?_⟩
  · simp only [o3.engine, b1, Block.setEngine_engine_same, advance_pc]
  · simp only [o3.engine, b1, Block.setEngine_engine_same, advance_core next hc1, e1]
    simp only [Engine.core, fpCount_st]
  · intro m hm
    simp only [o3.engine, b1]
    rw [Block.setEngine_engine_ne b n m _ hm, Block.setEngine_engine_ne b n m _ hm]
  · have he : b3.eng = b1.eng := by
      have := congrArg Block.eng o3.1
      exact this
    have : ({ b.setEngine n ((b.engine n).fpCount fp) with eng := b3.eng } : Block) = b1 := by
      rw [he]
      rfl
    rw [this]
    exact o3

/-- The core of an engine does not hold IADDR's skip. -/
theorem core_skip (e : Engine) : e.noSkip.core = e.core := rfl

/-- An instruction that only changes its engine, well encoded and with nothing due: it retires (R335). -/
theorem regOp_retires {s : State} {n : PE} {word len : Nat} (h : AtInstr s n word) (q : Quiet s n)
    (f : Engine → Engine) (hcore : ∀ e, (f e.noSkip).core = (f e).core) (hfpt : ∀ e, (f e).fpt = e.fpt)
    (hcode : ∀ e, e.codes = [] → (f e).codes = []) :
    ∃ t, done s (s.blk.regOp n word len false f) = .next t ∧
      Retired s n (nextPc (s.blk.engine n).pc len) f t := by
  obtain ⟨q1, q2, q3, q4⟩ := q
  have hb : s.blk.regOp n word len false f =
      ((s.blk.modEngine n Engine.noSkip).setEngine n (f (s.blk.engine n).noSkip)).finish n (s.blk.engine n).noSkip
          (nextPc (s.blk.engine n).pc len) false false := by
    simp only [Block.regOp, feis_at h, Bool.false_eq_true, if_false]
    rfl
  rw [hb]
  have hf : (f (s.blk.engine n).noSkip).fpt = none := by rw [hfpt]; exact q1
  obtain ⟨t, ht, he, hp⟩ := finish_ended ((s.blk.modEngine n Engine.noSkip).setEngine n
      (f (s.blk.engine n).noSkip)) n (s.blk.engine n).noSkip
      (nextPc (s.blk.engine n).pc len) false false (by simp [fpCount_none, Engine.fpTrapDue, hf]) q2
      (by simpa using hcode (s.blk.engine n).noSkip h.2.2.2.2) (by simpa using q3) (by simpa [Block.tracing] using q4) s rfl
  refine ⟨t, ht, ⟨he.1, ?_, ?_, ?_⟩, hp⟩
  · rw [he.2.1]
    simp [hcore, fpCount_none _ hf]
  · intro m hm
    rw [he.2.2.1 m hm, Block.setEngine_engine_ne _ _ _ _ hm, Block.setEngine_engine_ne _ _ _ _ hm,
      Block.setEngine_engine_ne _ _ _ _ hm, Block.modEngine_engine_ne _ _ _ _ hm]
  · exact he.2.2.2

/-! ## Register writes -/

theorem setG_noSkip (e : Engine) (i : Nat) (v : W64) : e.noSkip.setG i v = (e.setG i v).noSkip := by
  unfold Engine.setG Engine.noSkip
  dsimp only
  split
  · rfl
  · split <;> rfl

theorem setG_fpt (e : Engine) (i : Nat) (v : W64) : (e.setG i v).fpt = e.fpt := by
  unfold Engine.setG
  split
  · rfl
  · split <;> rfl

theorem setG_st (e : Engine) (i : Nat) (v : W64) : (e.setG i v).st = e.st := by
  unfold Engine.setG
  split
  · rfl
  · split <;> rfl

theorem g_noSkip (e : Engine) (i : Nat) : e.noSkip.g i = e.g i := rfl

/-- A register reads what was last written to it. -/
theorem g_setG_same (e : Engine) (i : Nat) (v : W64) : (e.setG i v).g i = v := by
  unfold Engine.setG Engine.g Engine.recode
  by_cases h : i = 31
  · simp [h]
  · by_cases t : e.st.tw = true
    · simp [h, t]
    · simp [h, t]

/-- A write of one register leaves every other register of the bank alone. -/
theorem g_setG_ne (e : Engine) (i j : Nat) (v : W64) (h : j ≠ i) : (e.setG i v).g j = e.g j := by
  unfold Engine.setG Engine.g Engine.recode
  by_cases h1 : i = 31
  · have : j ≠ 31 := by omega
    simp [h1, this]
  · by_cases t : e.st.tw = true
    · by_cases h2 : j = 31 <;> simp [h1, h2, t, Tab.get_put_ne _ _ _ _ _ h]
    · by_cases h2 : j = 31 <;> simp [h1, h2, t, Tab.get_put_ne _ _ _ _ _ h]

theorem result_noSkip (e : Engine) (d : Nat) (r : W64) (st : St) : (e.noSkip.result d r st) = (e.result d r st).noSkip := by
  simp only [Engine.result, setG_noSkip]
  rfl

/-- What an instruction that only changes its engine gives, where its effect on the engine as it stands is known. -/
theorem gives_regOp {c : Instr} {s : State} {n : PE} {word len : Nat} (f : Engine → Engine) {g : Engine → Engine}
    (hx : exec c s = done s (s.blk.regOp n word len false f)) (h : AtInstr s n word) (q : Quiet s n)
    (hskip : ∀ e, (f e.noSkip).core = (f e).core) (hfpt : ∀ e, (f e).fpt = e.fpt)
    (hcode : ∀ e, e.codes = [] → (f e).codes = []) (hg : f (s.blk.engine n) = g (s.blk.engine n)) :
    Gives c s (Retired s n (nextPc (s.blk.engine n).pc len) g) := by
  obtain ⟨t, ht, hr⟩ := regOp_retires h q f hskip hfpt hcode (len := len)
  refine ⟨t, hx.trans ht, ?_⟩
  rw [Retired, ← hg]
  exact hr

end Sys2Proof.Machine
end

