-- ==== Sys2Proof/Tests/Support.lean ====
section
/-! SUPPORT. Small states for the tests: the block as reset leaves it but for some register fields, and engine 3 at a boundary. -/
namespace Sys2Proof.Machine.Tests
open Sys2Proof Sys2Proof.Machine

/-- The block with register fields set. -/
def fields (l : List (Fld × Nat)) (b : Block) : Block := { b with regs := l.foldl (fun r p => r.put p.1.key p.2) b.regs }

/-- The state of a block with no command waiting. -/
def here (b : Block) : State := ⟨b, []⟩

/-- The reset block with register fields set. -/
def fresh (l : List (Fld × Nat)) : Block := fields l Block.reset

/-- The reset block with register fields set, as a state. -/
def st (l : List (Fld × Nat)) : State := here (fresh l)

/-- The block with bytes written. -/
def bytesAt (a : Nat) (d : List Byte) (b : Block) : Block := { b with mem := b.mem.writes a d }

/-- The block with engine 3 running at a macro boundary, the instruction word `w` in IR, its domain and bank 0 ON. -/
def instr (w : Nat) (f : Engine → Engine) (l : List (Fld × Nat)) : State :=
  here ((fresh ([(R.PWR_ENG_STATE 3, 2), (R.CB_STAT_PSTATE 0, 2)] ++ l)).setEngine 3 (f { Engine.reset with
    running := true, ir := BitVec.ofNat 64 w, upc := BitVec.ofNat 13 (0x1000 + 4 * (w / 2 ^ 24 % 256)), pc := 0x4000 }))

/-- The instruction words for which nothing is due at engine 3 in `instr`, with the engine changed by `f`. -/
def quietAt (f : Engine → Engine) (ws : List Nat) : Prop :=
  ∀ w ∈ ws, Quiet (instr w f []) 3 ∧ AtInstr (instr w f []) 3 w

/-- A descriptor's 32 bytes. -/
def descBytes (d : Desc) : List Byte := leBytes d.hpc 8 ++ leBytes d.stt 8 ++ leBytes d.stack 8 ++ leBytes d.flags 4 ++ leBytes 0 4

/-- A handler at 0x8000 at the supervisor level of a world, its stack at 0x30100, with the descriptor's flags. -/
def handler (tenant : Bool) (flags : Nat) : Desc := ⟨0x8000, 2 ^ 20 + 2 ^ 21 * bit tenant, 0x30100, flags, 0⟩

/-- `instr` with g1 to g3 and tables of both worlds in bank 0 that hold a good handler for the listed vectors. -/
def vectored (w : Nat) (sup tenant : Bool) (flags : Nat) (vs : List Nat) (f : Engine → Engine) (l : List (Fld × Nat)) : State :=
  let s := instr w (fun e => f { e with
    gV := (([(1, 0x10000), (2, 0x10040), (3, 0x20)] : List (Nat × Nat)).foldl (fun t p => t.put p.1 (BitVec.ofNat 64 p.2)) []),
    st := { e.st with sup := sup, tw := tenant }, vbase := [(0, 0x20000), (1, 0x22000)], sp := [(0, 0x30200), (2, 0x30400)],
    rg := [(0, { RgEntry.whole with perm := 0xFFF })] }) l
  here (vs.foldl (fun b v => bytesAt (0x22000 + 32 * v) (descBytes (handler true flags))
    (bytesAt (0x20000 + 32 * v) (descBytes (handler false flags)) b)) s.blk)

/-- What reading the descriptor of vector `v` of a world leaves as the block. -/
def readOf (s : State) (v : Nat) (tenant : Bool) : Block := ((s.blk.modEngine 3 Engine.noSkip).readDesc 3 v tenant).1

/-- The executing world's vector `v` can be entered. -/
def canTake (s : State) (v : Nat) (tenant : Bool) (d : Desc) : Prop :=
  ((s.blk.modEngine 3 Engine.noSkip).readDesc 3 v tenant).2 = .good d ∧ CanEnter (readOf s v tenant) 3 d tenant

/-- The general registers with the given values. -/
def gs (l : List (Nat × Nat)) : Tab W64 := l.foldl (fun t p => t.put p.1 (BitVec.ofNat 64 p.2)) []

/-- A strobe of engine 3, operation `op` with operands `a` and `b`. -/
def strobe (op a b : Nat) (tenant : Bool) : Strobe := ⟨3, op, BitVec.ofNat 64 a, BitVec.ofNat 64 b, tenant⟩

/-- The reset block with register fields set and one strobe of engine 3. -/
def strobed (op a b : Nat) (tenant : Bool) (l : List (Fld × Nat)) : Block := { fresh l with strobes := [strobe op a b tenant] }

end Sys2Proof.Machine.Tests
end

