-- ==== Sys2Proof/Tests/Slice0.lean ====
section
/-! SUPPORT. Tests of single commands, and states that meet the premises of the statements about engines. -/
namespace Sys2Proof.Machine.Tests
set_option Elab.async false
open Sys2Proof Sys2Proof.Machine

/-! ## Commands no agent sends -/

theorem test_registerWrite_from_no_window_master : (Instr.registerWrite 76 0x2000 0).wellFormed = false := by decide
theorem test_registerWrite_unaligned : (Instr.registerWrite 3 0x2002 0).wellFormed = false := by decide
theorem test_registerWrite_from_debug : (Instr.registerWrite 75 0x2000 0).wellFormed = true := by decide
theorem test_customerOpcode_of_table : (Instr.customerOpcode 3 0x10000000 true).wellFormed = false := by decide
theorem test_customerOpcode_bounds :
    (Instr.customerOpcode 3 0xC0000000 true).wellFormed = true ∧ (Instr.customerOpcode 3 0xEFFFFFFF true).wellFormed = true := by decide
theorem test_customerOpcode_unlisted :
    (Instr.customerOpcode 3 0 true).wellFormed = true ∧ (Instr.customerOpcode 3 0xFFFFFFFF true).wellFormed = true := by decide
theorem test_ill_formed_faults : step ⟨Block.reset, [.registerWrite 76 0x2000 0]⟩ = .fault .illFormed := by rfl

/-! ## The machine as a whole -/

theorem test_witness_StepRunsFront : (⟨Block.reset, [.adcLost, .throttle]⟩ : State).pending = .adcLost :: [.throttle] ∧
    State.reset.pending = [] := by decide
theorem test_witness_NeverStops : ∀ c ∈ ([.registerWrite 71 0xFFFFC 5, .powerOnReset] : List Instr), c.wellFormed = true := by decide
theorem test_witness_StepKeepsForm : WellKept State.reset := by unfold WellKept MemOk; decide +kernel

/-- The seal: the command seals, in both orders of an already sealed and an open block. -/
theorem test_witness_SealedStays : Block.reset.isSealed = false ∧
    (match step ⟨Block.reset, [.sealInputHigh]⟩ with
      | .next t => t.blk.isSealed
      | _ => false) = true ∧
    (match step ⟨{ Block.reset with isSealed := true }, [.powerOnReset]⟩ with
      | .next t => t.blk.isSealed
      | _ => false) = true := by decide +kernel

/-! ## Integer instructions -/

theorem test_witness_ArithmeticAndLogic : quietAt id
    ([0x01, 0x02, 0x03, 0x04, 0x05, 0x06, 0x07, 0x08].map (fun o => wordR o 31 0 31 0) ++ [wordR 0x09 1 2 0 0, wordR 0x0A 1 2 0 0,
      wordR 0x0B 0 1 2 0, wordR 0x0C 0 1 2 0, wordI 0x20 1 2 0x2000, wordI 0x21 1 2 0x3FFF, wordI 0x22 1 2 0, wordI 0x23 1 2 1,
      wordI 0x24 0 2 0x1FFF, wordL 0xF2 1 2 0 0x80000000]) := by
  unfold quietAt Quiet AtInstr; decide +kernel

theorem test_witness_Shift : quietAt id
    ([0x0D, 0x0E, 0x0F, 0x10].map (fun o => wordR o 1 2 3 0) ++ [0x25, 0x26, 0x27, 0x28].map (fun o => wordI o 1 2 63) ++
      [wordI 0x25 1 2 0]) := by
  unfold quietAt Quiet AtInstr; decide +kernel

/-- The bounds of CLZ, CTZ, EXT, SEL and of a field: 64 and 0 leading zeros, size code 5, condition 0x13, the whole word and its
last bit. -/
theorem test_witness_SelectAndFields : quietAt id
    ([0x11, 0x12, 0x13, 0x14].map (fun o => wordR o 1 2 3 0) ++ [0x15, 0x16, 0x17, 0x19, 0x1C].map (fun o => wordR o 1 2 0 0) ++
      [wordR 0x18 1 2 0 5, wordR 0x1A 1 2 3 0x13, wordI 0x29 1 2 (BitVec.ofNat 14 (64 * 64)), wordI 0x2A 1 2 (BitVec.ofNat 14 (63 + 64)),
        wordL 0xF0 1 0 0 5, wordL 0xF1 1 0 0 5]) ∧
    ((0 : Nat) < 2 ^ (64 - 64) ∧ (2 ^ 64 - 1 : Nat) < 2 ^ (64 - 0) ∧ 2 ^ (63 - 0) ≤ (2 ^ 64 - 1 : Nat)) ∧
    ((∀ j < 64, (0 : Nat).testBit j = false) ∧ (1 : Nat).testBit 0 = true) ∧
    ccDefined 0x13 = true ∧ (0 : Nat) + 64 ≤ 64 ∧ (63 : Nat) + 1 ≤ 64 := by
  unfold quietAt Quiet AtInstr; decide +kernel

/-- The last registers a pair may name, four different registers of a division step, a DFIX with STEP full and one without; a divisor
that is not 0, one that is, and the signed overflow. -/
theorem test_witness_MultiplyAndDivide : quietAt id
    ([0x30, 0x31, 0x32, 0x33, 0x34].map (fun o => wordR o 29 30 31 0) ++ [0x38, 0x39].map (fun o => wordR o 29 1 2 0)) ∧
    ([(29 : Nat), 30, 1, 2, 31] : List Nat).Nodup ∧
    (dfix 0 0 0 1).1 = none ∧ (dfix 0 (BitVec.ofNat 64 (32 * 2 ^ 8)) 0 1).1.isSome = true ∧
    (0x8000000000000000 : W64).toInt = -2 ^ 63 ∧ (-1 : W64).toInt = -1 := by
  unfold quietAt Quiet AtInstr; decide +kernel

end Sys2Proof.Machine.Tests
end

