-- ==== Sys2Proof/Tests/Witness1.lean ====
section
/-! SUPPORT. States that meet the premises of the statements about an engine's memory, floating-point, control, long and kernel
instructions. -/
namespace Sys2Proof.Machine.Tests
set_option Elab.async false
open Sys2Proof Sys2Proof.Machine

/-- A base register for an access that ends with bank 0. -/
def lastOf (len : Nat) (e : Engine) : Engine := { e with gV := gs [(1, 0x100000 - len), (2, 5)] }

/-- Loads and stores of each size up to the last byte of a bank. -/
theorem test_witness_LoadsAndStores :
    (∀ p ∈ [(0x40, 1), (0x41, 1), (0x42, 2), (0x43, 2), (0x44, 4), (0x45, 4), (0x46, 8), (0x4B, 16)],
      let s := instr (wordI p.1 7 1 0) (lastOf p.2) []
      Quiet s 3 ∧ AtInstr s 3 (wordI p.1 7 1 0) ∧ AtBank s 3 [.read] (0x100000 - p.2) p.2 0) ∧
    (∀ p ∈ [(0x47, 1), (0x48, 2), (0x49, 4), (0x4A, 8), (0x4C, 16)],
      let s := instr (wordI p.1 7 1 0) (lastOf p.2) []
      Quiet s 3 ∧ AtInstr s 3 (wordI p.1 7 1 0) ∧ StoresAt s 3 (0x100000 - p.2) p.2 0) ∧
    quietAt id [wordR 0x60 7 2 0 1, wordR 0x60 0 2 0 0, wordR 0x61 2 7 0 1] := by
  unfold quietAt Quiet AtInstr AtBank StoresAt; decide +kernel

theorem test_witness_Atomics : ∀ o ∈ [0x50, 0x51, 0x52, 0x53, 0x54], ∀ x ∈ [(0, 4), (1, 8)],
    let w := wordR o 3 1 2 (BitVec.ofNat 9 x.1)
    let s := instr w (lastOf x.2) []
    Quiet s 3 ∧ AtInstr s 3 w ∧ AtBank s 3 [.read, .write] (0x100000 - x.2) x.2 0 ∧ (0x100000 - x.2) % x.2 = 0 ∧ MemOk s := by
  unfold Quiet AtInstr AtBank MemOk; decide +kernel

/-- LKB and FENCE outside a sequence, LKE inside one that holds the bank's last line, and outside one. -/
theorem test_witness_LockedSequenceAndFence :
    (let w := wordR 0x58 3 1 0 0
      let s := instr w (lastOf 4) []
      Quiet s 3 ∧ AtInstr s 3 w ∧ AtBank s 3 [.read] 0xFFFFC 4 0 ∧ 0xFFFFC % 4 = 0 ∧ MemOk s) ∧
    (let w := wordR 0x59 0 1 2 1
      let b := (instr w (lastOf 8) [(R.ENG_LKSTAT_LKACT 3, 1)]).blk
      let s := here (b.setBank 0 { b.bankAt 0 with locks := [(3, (0x3FFF, 0))] })
      s.blk.flag (R.ENG_LKSTAT_LKACT 3) = true ∧ AtInstr s 3 w ∧ AtBank s 3 [.read, .write] 0xFFFF8 8 0 ∧
        ((s.blk.bankAt 0).locks.look 3).map (·.1) = some (0xFFFF8 / 64 % 2 ^ 14) ∧ (s.blk.engine 3).fpt = none ∧
        (s.blk.engine 3).st.ss = false ∧ s.blk.tracing 3 = false) ∧
    (let w := wordR 0x59 0 1 2 1
      let s := instr w (lastOf 8) []
      Quiet s 3 ∧ AtInstr s 3 w ∧ s.blk.check 3 [.read, .write] 0xFFFF8 8 = none) ∧
    quietAt id [wordR 0x5A 0 0 0 0] ∧ Serves (instr (wordR 0x5A 0 0 0 0) id []).blk := by
  unfold quietAt Quiet AtInstr AtBank MemOk Serves; refine ⟨?_, ?_, ?_, ?_, ?_⟩ <;> decide +kernel

/-- Every operation in every format; for the values a quiet and a signalling NaN, the largest finite number, a subnormal. -/
theorem test_witness_FpArithmeticAndValues :
    quietAt id ([0x70, 0x71, 0x72, 0x73, 0x74, 0x75, 0x76, 0x77, 0x78].flatMap fun o => [0, 1, 2].map fun f =>
      wordR o 1 2 3 (BitVec.ofNat 9 f)) ∧
    ∀ f : Fin 3, fpNaN f < 2 ^ fpW f ∧ fpExp f (fpNaN f) = fpEmax f ∧ fpFrac f (fpNaN f) ≠ 0 ∧ (fpNaN f).testBit (fpP f - 2) = true ∧
      fpExp f (fpInf f false + 1) = fpEmax f ∧ fpFrac f (fpInf f false + 1) ≠ 0 ∧ (fpInf f false + 1).testBit (fpP f - 2) = false ∧
      fpExp f (fpInf f false - 1) < fpEmax f ∧ fpSubnormal f 1 = true ∧ fpSubnormal f (fpBias f * 2 ^ (fpP f - 1)) = false := by
  unfold quietAt Quiet AtInstr; decide +kernel

theorem test_witness_FpCompareAndSign : quietAt id ([0, 1, 2].flatMap fun f => [wordR 0x79 0 1 2 (BitVec.ofNat 9 f),
    wordR 0x7A 0 1 2 (BitVec.ofNat 9 f), wordR 0x7B 1 2 0 (BitVec.ofNat 9 f), wordR 0x7C 1 2 0 (BitVec.ofNat 9 f),
    wordR 0x7D 1 2 3 (BitVec.ofNat 9 f), wordR 0x7E 1 2 0 (BitVec.ofNat 9 f)]) := by
  unfold quietAt Quiet AtInstr; decide +kernel

/-- Conversions between two formats, and the registers of a quotient and of a root. -/
theorem test_witness_FpConvertAndDivide :
    quietAt id ([wordR 0x7F 1 2 0 4, wordR 0x7F 1 2 0 2, wordR 0x80 1 2 0 (BitVec.ofNat 9 14), wordR 0x81 1 2 0 6, wordR 0x82 1 2 0 2] ++
      [0x83, 0x84, 0x85].map fun o => wordR o 29 2 3 2) ∧
    (([29, 30, 2, 31] : List Nat).Nodup ∧ 3 ∉ ([29, 30, 2, 31] : List Nat)) ∧
    quietAt (fun e => { e with gV := gs [(30, 2 ^ 62)] }) ([0x83, 0x84, 0x85].map fun o => wordR o 29 2 0 2) ∧
    ((((instr 0 (fun e => { e with gV := gs [(30, 2 ^ 62)] }) []).blk.engine 3).g 30).toNat.testBit 62) = true := by
  unfold quietAt Quiet AtInstr; decide +kernel

/-- The branches to the ends of their ranges, a jump to an aligned address; SEL and Bcc with the last defined and the first two undefined
codes, in both worlds. -/
theorem test_witness_BranchesAndConditions :
    quietAt id [wordJ 0x90 0x800000, wordJ 0x91 0x7FFFFF, wordBC 0x92 0x13 0x40000, wordBC 0x92 0 0x3FFFF, wordR 0x93 0 1 0 0,
      wordR 0x94 30 1 0 0, wordR 0x1A 1 2 3 0x13] ∧ ccDefined 0x13 = true ∧ ccDefined 0 = true ∧
    (∀ t ∈ [false, true], ∀ c ∈ [0x0F, 0x14, 0x1F], ∀ w ∈ [wordBC 0x92 (BitVec.ofNat 5 c) 5, wordR 0x1A 1 2 3 (BitVec.ofNat 9 c)],
      let s := vectored w true t 1 [3] id []
      Quiet s 3 ∧ AtInstr s 3 w ∧ ccDefined c = false ∧ canTake s 3 t (handler t 1)) := by
  unfold quietAt canTake Quiet AtInstr CanEnter; refine ⟨?_, ?_, ?_, ?_⟩ <;> decide +kernel

theorem test_witness_SoftwareExceptions :
    ∀ t ∈ [false, true], ∀ p ∈ [(wordJ 0xA0 0xFFFF, 9), (wordJ 0xA1 0, 8), (wordJ 0xA2 32, 32), (wordJ 0xA2 255, 255)],
      let s := vectored p.1 false t 1 [p.2] id []
      Quiet s 3 ∧ AtInstr s 3 p.1 ∧ canTake s p.2 t (handler t 1) := by
  unfold canTake Quiet AtInstr CanEnter; decide +kernel

/-- A gate in each direction, from a supervisor and, with GUSER, from a user, with and without XARG; a return in each world. -/
theorem test_witness_GatesAndReturn :
    (∀ t ∈ [false, true], ∀ p ∈ [(true, 5), (false, 13), (true, 21)], ∀ g ∈ [32, 255],
      let w := wordJ 0xA3 (BitVec.ofNat 24 g)
      let s := vectored w p.1 t p.2 [g] id []
      Quiet s 3 ∧ AtInstr s 3 w ∧ canTake s g (!t) (handler (!t) p.2) ∧ p.2.testBit 2 = true ∧ (p.1 = true ∨ p.2.testBit 3 = true) ∧
        (readOf s g (!t)).flag (R.ENG_LKSTAT_LKACT 3) = false ∧ ((readOf s g (!t)).engine 3).st = (s.blk.engine 3).st) ∧
    (∀ p ∈ [(false, 0x200, 2 ^ 20), (false, 0x205, 2 ^ 20 + 2 ^ 21), (true, 0x200, 2 ^ 21)],
      let w := wordJ 0xA4 0
      let s0 := vectored w true p.1 1 [] id []
      let s := here (bytesAt (if p.1 then 0x30400 else 0x30200) (leBytes p.2.1 8 ++ leBytes p.2.2 8) s0.blk)
      Quiet s 3 ∧ AtInstr s 3 w ∧ AtBank s 3 [.read] (if p.1 then 0x30400 else 0x30200) 16 0 ∧ p.2.1.testBit 1 = false ∧
        (p.1 = true → (St.ofWord (BitVec.ofNat 64 p.2.2)).tw = true) ∧ s.blk.flag (R.ENG_DBGSTAT_MONITOR 3) = false) := by
  unfold canTake Quiet AtInstr AtBank CanEnter; refine ⟨?_, ?_⟩ <;> decide +kernel

/-- WFI with and without a line that is high, and the instructions without effect, the first and the last customer opcode among them. -/
theorem test_witness_WaitAndNoEffect :
    (let s := vectored (wordJ 0xA5 0) true false 1 [] id [];
      Quiet s 3 ∧ AtInstr s 3 (wordJ 0xA5 0) ∧ s.blk.irqLine 6 = false ∧ s.blk.dbLine 6 = false ∧
        (s.blk.setEngine 3 { s.blk.engine 3 with hold := .wfi }).trapFirst 3 = false) ∧
    (let s := vectored (wordJ 0xA5 0) true false 1 [] id [(R.DIST_ENSET_EN 2, 2 ^ 14), (R.DIST_PENDSET_PEND 2, 2 ^ 14),
        (R.prioByte 78, 3)];
      Quiet s 3 ∧ AtInstr s 3 (wordJ 0xA5 0) ∧ (s.blk.irqLine 6 = true ∨ s.blk.dbLine 6 = true)) ∧
    quietAt id [wordJ 0xAB 0, wordR 0x86 0 0 0 0, wordJ 0xAA 0, 0xC0000000, 0xEFFFFFFF] := by
  unfold quietAt Quiet AtInstr; decide +kernel

/-- Each register, read and written, at the supervisor level of both worlds, and ST at the user level. -/
theorem test_witness_SpecialRegisters :
    (∀ t ∈ [false, true], ∀ w ∈ [wordR 0xA6 1 0 0 0, wordR 0xA7 0 1 0 0] ++ (List.range 8).map (fun i => wordI 0xA8 1 0 (BitVec.ofNat 14 i)) ++
        (List.range 6).map (fun i => wordI 0xA9 0 1 (BitVec.ofNat 14 i)),
      let s := vectored w true t 1 [] id []
      Quiet s 3 ∧ AtInstr s 3 w ∧ (s.blk.engine 3).st.sup = true) ∧
    (let s := vectored (wordR 0xA7 0 1 0 0) false true 1 [] id [];
      Quiet s 3 ∧ AtInstr s 3 (wordR 0xA7 0 1 0 0) ∧ (s.blk.engine 3).st.sup = false) := by
  unfold Quiet AtInstr; decide +kernel

/-- Each vector's cause with a table that holds its handler: reserved fields, a user level, a load outside every region, a locked
sequence. -/
theorem test_witness_SynchronousExceptions :
    (∀ w ∈ [wordR 0x01 1 2 3 1, wordR 0x33 30 2 3 0, wordI 0x25 1 2 64, wordR 0x93 0 4 0 0, wordJ 0xA2 31, 0xC0000000, 0xEFFFFFFF, 0, 0x1B000000, 0xF3000000,
        0xFFFFFFFF],
      let s := vectored w false false 1 [3] (fun e => { e with gV := e.gV.put 4 0x4001 }) []
      Quiet s 3 ∧ AtInstr s 3 w ∧ canTake s 3 false (handler false 1)) ∧
    ((0x4001 : W64).toNat % 4 ≠ 0 ∧ (64 : Nat) ≤ 64 ∧ (30 : Nat) ≤ 30 ∧
      ∀ w ∈ [0xC0000000, 0xEFFFFFFF, 0, 0x1B000000, 0xF3000000, 0xFFFFFFFF], customerOk (BitVec.ofNat 64 w) = true) ∧
    (∀ w ∈ [wordJ 0xA4 0, wordJ 0xA5 0, wordI 0xA9 0 1 7],
      let s := vectored w false true 1 [4] id []
      Quiet s 3 ∧ AtInstr s 3 w ∧ canTake s 4 true (handler true 1) ∧ (s.blk.engine 3).st.sup = false) ∧
    (let w := wordI 0x46 1 4 0
      let s := vectored w false false 1 [5] (fun e => { e with
          gV := e.gV.put 4 0xFFFFC, rg := [(0, { RgEntry.whole with perm := 0xFFF, lim := 0xFF })] }) []
      let c : Engine → Engine := fun q => { q with
        faddr := q.faddr.put 0 0x100000, fcause := q.fcause.put 0 (BitVec.ofNat 8 Cause.region.code) }
      Quiet s 3 ∧ AtInstr s 3 w ∧ s.blk.check 3 [.read] 0xFFFFC 8 = some (0x100000, .region) ∧
        canTake (here (s.blk.modEngine 3 c)) 5 false (handler false 1)) ∧
    (∀ w ∈ [wordR 0x5A 0 0 0 0, wordJ 0xAA 0, wordR 0xB1 1 2 3 0],
      let s := vectored w false false 1 [6] id [(R.ENG_LKSTAT_LKACT 3, 1)]
      let b := (s.blk.modEngine 3 Engine.noSkip).lockBreak 3 .exception
      s.blk.flag (R.ENG_LKSTAT_LKACT 3) = true ∧ AtInstr s 3 w ∧ (s.blk.engine 3).fpt = none ∧ (s.blk.engine 3).lkLine = none ∧
        (b.readDesc 3 6 false).2 = .good (handler false 1) ∧ CanEnter (b.readDesc 3 6 false).1 3 (handler false 1) false) := by
  unfold canTake Quiet AtInstr CanEnter; refine ⟨?_, ?_, ?_, ?_, ?_⟩ <;> decide +kernel

end Sys2Proof.Machine.Tests
end

