-- ==== Sys2Proof/Tests/Witness10.lean ====
section
/-! SUPPORT. States that meet the premises of the statements about the Spare Manager. -/
namespace Sys2Proof.Machine.Tests
set_option Elab.async false
open Sys2Proof Sys2Proof.Machine

/-- Cluster 1 as a load leaves it: engines 9 to 16 ACTIVE, 17 SPARE. -/
def cluster1 (f : Spm → Spm) (l : List (Fld × Nat)) : Block :=
  let b := fresh (((List.range 9).map (· + 9)).flatMap (fun n =>
    [(R.peState n, if n = 17 then 2 else 1), (R.ENG_ID_RUN n, if n = 17 then 0 else 1), (R.ENG_ID_LE n, n - 1), (R.ENG_CSSTAT_IMGST n, 2)]) ++ l)
  { b with spm := f b.spm }

/-- A command at the front of the queue. -/
def commanded (c : SpmCmd) (f : Spm → Spm) (l : List (Fld × Nat)) : Block := cluster1 (fun s => f { s with cmdQ := [c] }) l

/-- Cluster 1 in a ROLL, with one image in engines 11 and 17, and a command for logical engine `k`. -/
def rolled (k : Nat) : Block :=
  ((commanded ⟨1, false, 0x7F, k, 1⟩ (fun s => { s with act := some ⟨false, 9, none, [1], none, none, false, false⟩ })
    [(R.ACT_STAT_PHASE, 2), (R.ACT_STAT_CLUSTER, 1)]).modEngine 11 fun e => { e with csDigest := some [1] }).modEngine 17
      fun e => { e with csDigest := some [1] }

/-- Engine 11 stopped, with strikes below or at the limit of 3. -/
def struck (k : Nat) : List (Fld × Nat) := [(R.peState 11, 5), (R.SPM_POLICY_STRIKEMAX, 3), (R.peStrikes 11, k)]

/-- A command that finds Drip, a place in the queue, and none; and each command at the front, for each state of the engine it names, with a
target, with none, and with one that must first be copied to; a logical engine to restart in place, elsewhere, and nowhere. -/
theorem test_witness_SpareCommands :
    (cluster1 id [(R.PWR_STAT_DRIP, 1)]).drips = true ∧ (cluster1 id []).drips = false ∧
    (∀ k ∈ [15, 16], (cluster1 (fun s => { s with cmdQ := List.replicate k ⟨1, false, 0x7F, 10, 1⟩ }) []).spm.cmdQ.length = k) ∧
    (∀ o ∈ [0, 1, 2, 3, 4, 5, 6], ∀ p ∈ [17, 71, 72, 0x7F], let b := commanded ⟨o, false, p, 10, 1⟩ id []
      b.spm.move = none ∧ b.spm.hwQ = [] ∧ b.stepping = false ∧ b.spm.cmdQ = ⟨o, false, p, 10, 1⟩ :: [] ∧
        (∀ m < 72, b.get (R.peWorn m) = 0) ∧ b.rolling 1 = false) ∧
    (let b := commanded ⟨1, false, 0x7F, 10, 1⟩ id [];
      b.leState 10 = 0 ∧ b.get (R.peState (b.peOf 10)) = 1 ∧ b.peOf 10 < 72 ∧ (17 < 72 ∧ b.get (R.peState 17) = 2) ∧ 17 / 9 = b.peOf 10 / 9 ∧
        b.get (R.ENG_CSSTAT_IMGST 17) = 2 ∧ b.get (R.ENG_CSVER_MSFV 17) = b.get (R.ENG_CSVER_MSFV (b.peOf 10)) ∧
        (∀ m < 72, b.get (R.peState m) = 2 → m = 17) ∧ b.get (R.ENG_ID_LE 11) < 64) ∧
    (let b := rolled 10;
      b.stepping = false ∧ b.rolling (b.peOf 10 / 9) = true ∧ b.leState 10 = 0 ∧ b.get (R.peState (b.peOf 10)) = 1 ∧
        (b.engine (b.peOf 10)).csDigest ≠ none ∧ (b.engine 17).csDigest = (b.engine (b.peOf 10)).csDigest ∧
        b.get (R.ENG_CSSTAT_IMGST 17) = 2 ∧ b.get (R.peState 17) = 2 ∧ 17 / 9 = b.peOf 10 / 9 ∧ ∀ m < 72, b.get (R.peState m) = 2 → m = 17) ∧
    (let b := commanded ⟨1, false, 0x7F, 10, 1⟩ id [(R.peState 17, 6)]; ∀ m < 72, b.get (R.peState m) ≠ 2) ∧
    (let b := commanded ⟨1, false, 0x7F, 10, 1⟩ id [(R.ENG_CSVER_MSFV 17, 3), (R.ENG_CSVER_MSFV 9, 3)];
      b.get (R.ENG_CSVER_MSFV 17) ≠ b.get (R.ENG_CSVER_MSFV (b.peOf 10)) ∧ b.get (R.ENG_CSSTAT_IMGST 17) ≠ 1 ∧
        (∀ m < 10, ¬(b.get (R.ENG_CSSTAT_IMGST m) = 2 ∧ b.get (R.ENG_CSVER_MSFV m) = b.get (R.ENG_CSVER_MSFV (b.peOf 10)))) ∧
        b.get (R.ENG_CSSTAT_IMGST 10) = 2 ∧ b.get (R.ENG_CSSTAT_UEPEND 10) = 0 ∧ b.get (R.ENG_CSVER_MSFV 10) = b.get (R.ENG_CSVER_MSFV (b.peOf 10))) ∧
    (commanded ⟨1, false, 0x7F, 10, 1⟩ (fun s => { s with leState := [(10, 2)] }) []).leState 10 ≠ 0 ∧
    (∀ x ∈ [0, 1, 2, 4, 5, 6], (commanded ⟨2, false, 11, 10, 1⟩ id [(R.peState 11, x)]).get (R.peState 11) = x) ∧
    (∀ x ∈ [0, 6], let b := commanded ⟨3, false, 11, 10, 1⟩ id [(R.peState 11, x)]
      b.get (R.peState 11) = x ∧ b.get (R.ENG_CSSTAT_IMGST 9) = 2 ∧ b.get (R.ENG_CSSTAT_UEPEND 9) = 0 ∧ ∀ m < 9, b.get (R.ENG_CSSTAT_IMGST m) ≠ 2) ∧
    (∀ m < 72, (fresh []).get (R.ENG_CSSTAT_IMGST m) ≠ 2) ∧
    (∀ k ∈ [2, 3], let b := commanded ⟨5, false, 0x7F, 10, 1⟩ (fun s => { s with leState := [(10, k)] }) (struck k)
      b.leState 10 = k ∧ b.get (R.peState (b.peOf 10)) = 5 ∧ b.get (R.ENG_ID_LE (b.peOf 10)) = 10 ∧ b.get (R.ENG_ID_RUN (b.peOf 10)) ≠ 0 ∧
        b.peOf 10 < 72 ∧ decide (b.get (R.peStrikes (b.peOf 10)) < b.get R.SPM_POLICY_STRIKEMAX) = decide (k = 2)) ∧
    (let b := commanded ⟨5, false, 17, 10, 1⟩ (fun s => { s with leState := [(10, 3)] }) [(R.peState 11, 4)];
      b.leState 10 = 3 ∧ b.get (R.peState (b.peOf 10)) ≠ 5 ∧ b.get (R.peState 17) = 2 ∧ b.get (R.peState 12) ≠ 2 ∧ 12 ≠ b.peOf 10) := by
  and_intros <;> decide +kernel

/-- A hardware request at the front of the queue. -/
def asked (r : HwReq) (l : List (Fld × Nat)) : Block := cluster1 (fun s => { s with hwQ := [r] }) l

/-- Logical engine 10 on its way from engine 11 to engine 17. -/
def moving (m : Move) (e : Engine → Engine) (l : List (Fld × Nat)) : Block :=
  (cluster1 (fun s => { s with move := some m, leState := [(10, 1)] }) ([(R.peState 11, 3), (R.peState 17, 3)] ++ l)).modEngine 11 e

/-- Each hardware request with the best target and with none; a tag row with a spare row left and with none; nothing to do; a freeze that
meets a lockup and one that meets a fault; each phase of a move of each kind, drained and not; no move. -/
theorem test_witness_SpareMoves :
    (∀ r ∈ [.fault 11 true, .fault 11 false, .wear 11, .stop 11, .tagRow 9], let b := asked r []
      b.spm.move = none ∧ b.spm.act = none ∧ b.spm.hwQ = r :: [] ∧ b.get (R.ENG_ID_LE 11) < 64 ∧ b.get (R.peState 11) = 1 ∧
        b.get (R.peState 17) = 2 ∧ 17 / 9 = 11 / 9 ∧ b.get (R.ENG_CSSTAT_IMGST 17) = 2 ∧
        b.get (R.ENG_CSVER_MSFV 17) = b.get (R.ENG_CSVER_MSFV 11) ∧ ∀ m < 72, b.get (R.peState m) = 2 → m = 17) ∧
    (let b := asked (.wear 11) [(R.peState 17, 6)]; ∀ m < 72, b.get (R.peState m) ≠ 2) ∧
    (∀ k ∈ [1311, 1312], (asked (.tagRow 9) [(R.SPM_TAGSP_USED, k)]).get R.SPM_TAGSP_USED = k) ∧
    (let b := cluster1 id []; b.spm.move = none ∧ b.spm.hwQ = [] ∧ b.spm.act = none ∧ b.spm.cmdQ = []) ∧
    (∀ k ∈ [.trapok, .atMacro, .fault], ∀ ph ∈ [.freeze, .drain, .transfer, .remap, .ack], ∀ c ∈ [false, true],
      let m : Move := ⟨10, 11, 17, k, 1, 1, false, ph, c, none⟩
      let b := moving m id []
      b.spm.move = some m ∧ m.src < 72 ∧ m.dst < 72 ∧ m.src ≠ m.dst ∧ m.le < 64 ∧ b.spm.hwQ = [] ∧ b.spm.act = none ∧ b.spm.cmdQ = []) ∧
    (∀ ph ∈ [.freeze, .copy], ∀ r ∈ ([.stop 11, .fault 11 true] : List HwReq),
      let b0 := moving ⟨10, 11, 17, .trapok, 1, 1, false, ph, false, none⟩ (fun e => { e with resFault := true }) []
      let b : Block := { b0 with spm := { b0.spm with hwQ := [r] } }
      b.spm.hwQ = [r] ∧ b.spm.act = none ∧ (∀ m < 72, b.get (R.peWorn m) = 0) ∧ b.get (R.ENG_ID_LE 11) = 10 ∧
        (b.engine 11).resFault = true ∧ b.get (R.ENG_LKSTAT_LKACT 11) = 0) ∧
    (let b := moving ⟨10, 11, 17, .trapok, 1, 1, false, .ack, false, none⟩ id [];
      b.get (R.CB_CTRL_OWNER 10) = 10 ∧ (b.bankAt 10).ownerPE ≠ 17) ∧
    (let b0 := moving ⟨10, 11, 17, .trapok, 1, 1, false, .ack, false, none⟩ id [];
      let b := b0.setBank 10 { b0.bankAt 10 with ownerPE := 17 };
      ∀ j < 64, b.get (R.CB_CTRL_OWNER j) = 10 → (b.bankAt j).ownerPE = 17) ∧
    (moving ⟨10, 11, 17, .trapok, 1, 1, false, .drain, false, none⟩ (fun e => { e with frozen := true }) []).drained 11 = true ∧
    (moving ⟨10, 11, 17, .trapok, 1, 1, false, .drain, false, none⟩ (fun e => { e with frozen := true, extBusy := true }) []).drained 11 = false := by
  and_intros <;> decide +kernel

/-- An engine in test, that retires and that does not, with a command to answer and with none, and one not in test; the RETRY limit met and
missed by one; LSEQ to mirror, no unit, an engine's and a logical engine's. -/
theorem test_witness_TestsWearMirror :
    (∀ p ∈ [(2, false), (3, true)], let b := cluster1 (fun s => { s with testOf := [(11, 4, 1, 5)] }) (struck p.1 ++ [(R.peState 11, 4)])
      b.get (R.peState 11) = 4 ∧ b.spm.testOf.look 11 = some (4, 1, 5) ∧
        decide (11 ∈ b.spm.retireAfter ∨ b.get (R.peWorn 11) ≠ 0 ∨ b.get R.SPM_POLICY_STRIKEMAX ≤ b.get (R.peStrikes 11)) = p.2) ∧
    ((cluster1 id []).get (R.peState 11) ≠ 4 ∧ (cluster1 id []).spm.testOf.look 11 = none) ∧
    (∀ p ∈ [(6, false), (7, true)], let b := cluster1 id [(R.SPM_POLICY_RETRYLIM, 7), (R.ENG_RES_RETRY 11, p.1)]
      b.get (R.peState 11) = 1 ∧ decide (b.get R.SPM_POLICY_RETRYLIM ≠ 0 ∧ b.get R.SPM_POLICY_RETRYLIM ≤
        b.get (R.ENG_RES_RETRY 11) - b.spm.retryBase.get 11 0 ∧ b.get (R.peWorn 11) = 0) = p.2) ∧
    (let b := cluster1 id [(R.peWorn 11, 1)];
      b.get (R.peWorn 11) ≠ 0 ∧ b.get (R.peState 11) = 1 ∧ b.spm.move = none ∧ b.spm.hwQ = [] ∧ b.spm.act = none ∧
        b.chooseTarget .trapok 11 = some (17, none) ∧ ∀ m < 72, m ≠ 11 → b.get (R.peWorn m) = 0) ∧
    (cluster1 id [(R.PWR_STAT_DRIP, 1)]).drips = true ∧ (cluster1 id []).drips = false ∧
    (cluster1 id [(R.SPM_LSEQ_LSEQ, 6)]).spm.lseqAon ≠ (cluster1 id [(R.SPM_LSEQ_LSEQ, 6)]).get R.SPM_LSEQ_LSEQ ∧
    (∀ q ∈ [[], [71], [384], [447]], let b := cluster1 (fun s => { s with lseqAon := 6, mirQ := q }) [(R.SPM_LSEQ_LSEQ, 6)]
      b.spm.lseqAon = b.get R.SPM_LSEQ_LSEQ ∧ b.spm.mirQ = q) := by
  and_intros <;> decide +kernel
end Sys2Proof.Machine.Tests
end

