-- ==== Sys2Proof/Tests/Witness11.lean ====
section
/-! SUPPORT. States that meet the premises of the statements about resets, power domains, Drip, the DRAM Port and the debug commands. -/
namespace Sys2Proof.Machine.Tests
set_option Elab.async false
open Sys2Proof Sys2Proof.Machine

/-- An activation whose step has engine 3 frozen in place, not yet frozen, its clock stopped and not. -/
def inPlace (c : Nat) : Block :=
  let b := fresh [(R.ENG_DBGSTAT_CSTOP 3, c), (R.KET_STAT_PFWARN, 1)]
  { b with spm := { b.spm with act := some ⟨false, 8, none, [9], none, some 3, false, false⟩ } }

/-- A register that a reset keeps, one it sets and one it clears; no debug access in flight; before the warning and after it. -/
theorem test_witness_Resets :
    (fresh []).mem.wf = true ∧ (fresh []).tap.acc = none ∧
    (∀ f ∈ [R.DBG_CTRL_ATTACH, R.ENG_CSSTAT_SPUSED 71, R.GLB_RSTCAUSE_BLOCK, R.RING_ME_ID], f.lo < 32) ∧
    (isDebug R.DBG_CTRL_ATTACH.off = true ∧ isDebug R.RING_ME_ID.off = false ∧ R.RING_ME_ID.key ∉ [R.SPM_TAGSP_USED.key, R.GLB_RSTCAUSE_POWERON.key] ∧
      R.RING_ME_ID.key ≠ R.GLB_RSTCAUSE_BLOCK.key) ∧
    (∀ w ∈ [0, 1], (fresh [(R.KET_STAT_PFWARN, w)]).get R.KET_STAT_PFWARN = w) ∧
    (∀ c ∈ [0, 1], (inPlace c).get (R.ENG_DBGSTAT_CSTOP ((inPlace c).peOf 3)) = c ∧ (inPlace c).spm.move = none ∧
      ((inPlace c).engine 3).frozen = false) := by
  and_intros <;> decide +kernel

/-- Engine 3 and bank 3 in a state, with the domain requests. -/
def domain (q : List DomReq) (e : Engine → Engine) (c : Bank → Bank) (l : List (Fld × Nat)) : Block :=
  let b := (fresh ([(R.CB_STAT_PSTATE 3, 2), (R.PWR_BANK_STATE 3, 2), (R.PWR_ENG_STATE 3, 2), (R.peState 3, 1), (R.ENG_ID_RUN 3, 1),
    (R.ENG_ID_LE 3, 3)] ++ l)).modEngine 3 e
  { b.setBank 3 (c (b.bankAt 3)) with domQ := q }

/-- A request in Drip and outside it, alone and behind another; an engine to retain, still running, frozen, drained or not, spare, at fault; one
to wake and one that is moved; a bank to power down, empty, busy and refused, one to initialise and one to wake; PD4 and PD5. -/
theorem test_witness_Domains :
    (¬((fresh [(R.PWR_STAT_PHASE, 6)]).get R.PWR_STAT_DRIP = 0 ∧ (fresh [(R.PWR_STAT_PHASE, 6)]).get R.PWR_STAT_PHASE = 0)) ∧
    (∀ q ∈ [[], [.bank 5 1]], let b := domain q id id []
      b.get R.PWR_STAT_DRIP = 0 ∧ b.get R.PWR_STAT_PHASE = 0 ∧ b.get (R.PWR_ENG_STATE 3) ≠ 1 ∧ b.domQ = q ∧ b.get (R.peState 3) = 1 ∧
        b.get (R.PWR_ENG_STATE 3) = 2 ∧ (b.engine 3).frozen = false ∧ b.get (R.CB_STAT_PSTATE 3) = 2) ∧
    (domain [] id id [(R.CB_STAT_PSTATE 3, 0)]).get (R.CB_STAT_PSTATE 3) = 0 ∧
    (let b0 := domain [] id id [(R.INT_STG_BANK 3, 3)];
      let b : Block := { b0 with intake := { b0.intake with rings := [(3, ⟨0, [⟨1, 20, false, none⟩]⟩)] } };
      b.get (R.INT_STG_BANK 3) = 3 ∧ b.stageLocked 3 = true) ∧
    (∀ z ∈ [false, true], let b := domain [.engine 3 1 false] (fun e => { e with frozen := true, extBusy := z }) id []
      b.domQ = [.engine 3 1 false] ∧ b.get (R.PWR_ENG_STATE 3) = 2 ∧ (b.engine 3).resFault = false ∧ (b.engine 3).frozen = true ∧
        b.drained 3 = !z ∧ b.get (R.ENG_ID_RUN 3) ≠ 0) ∧
    ((domain [.engine 3 1 false] id id [(R.peState 3, 2)]).get (R.peState 3) = 2) ∧
    ((domain [.engine 3 1 false] (fun e => { e with resFault := true }) id []).engine 3).resFault = true ∧
    ((domain [.engine 3 2 true] id id [(R.PWR_ENG_STATE 3, 1)]).get (R.PWR_ENG_STATE 3) = 1) ∧
    (∀ d ∈ [0, 3], (domain [.engine 3 d false] id id []).get (R.peState 3) ≠ 3) ∧
    (domain [.engine 3 1 false] id id [(R.peState 3, 3)]).get (R.peState 3) = 3 ∧
    (∀ d ∈ [0, 1], let b := domain [.bank 3 d] id (fun c => { c with target := some d }) []
      b.domQ = [.bank 3 d] ∧ b.get (R.CB_STAT_PSTATE 3) = 2 ∧ (b.bankAt 3).target = some d ∧ (b.bankAt 3).waiting = []) ∧
    ((domain [.bank 3 1] id (fun c => { c with waiting := [⟨5, .read, 0x300000, 8, [], 0, .word, 0, 0, 4, false, 1⟩] }) []).bankAt 3).waiting ≠ [] ∧
    ((domain [.bank 3 1] id id []).bankAt 3).target ≠ some 1 ∧ (domain [.bank 3 2] id id [(R.CB_STAT_PSTATE 3, 1)]).get (R.CB_STAT_PSTATE 3) = 1 := by
  and_intros <;> decide +kernel

/-- ENTER refused for each condition and allowed; all engines frozen, one that is not, and emulation; each cause of a wake and none; a wake to
complete. -/
theorem test_witness_Drip :
    (let b := fresh [];
      b.get R.PWR_STAT_DRIP = 0 ∧ b.get R.PWR_STAT_PHASE = 0 ∧ b.get R.INT_STAT_INUSE = 0 ∧ b.intake.recs = [] ∧ b.percEmpty = 0x3F ∧
        b.chain = [] ∧ b.spm.move = none ∧ b.spm.act = none ∧ b.spm.hwQ = [] ∧ b.spm.cmdQ = [] ∧ b.spm.copies = [] ∧
        b.get R.KET_STAT_PFWARN = 0 ∧ b.power.wakeIn = false ∧ b.power.wakeDbg = false ∧ b.sqWait = 0) ∧
    (∀ j < 32, (fresh []).get (R.DIST_ENSET_EN j) = 0) ∧
    (fresh [(R.INT_STAT_INUSE, 1)]).get R.INT_STAT_INUSE ≠ 0 ∧ (fresh [(R.MP_STAT_JSTALL, 1)]).percEmpty ≠ 0x3F ∧
    (fresh [(R.KET_STAT_PFWARN, 1)]).get R.KET_STAT_PFWARN ≠ 0 ∧
    (∀ z ∈ [false, true], ∀ ph ∈ [1, 2, 5], let b := domain [] (fun e => { e with frozen := z }) id [(R.PWR_STAT_PHASE, ph)]
      b.get R.PWR_STAT_PHASE = ph ∧ b.dram.waiting = [] ∧ b.dram.presented = [] ∧ (∀ j < 64, (b.bankAt j).waiting = []) ∧ b.spm.move = none ∧ b.spm.hwQ = [] ∧ (∀ m < 72, b.get (R.peState m) = 1 → m = 3) ∧
        (b.engine 3).frozen = z ∧ b.drained 3 = true) ∧
    (let b : Block := { fresh [(R.DBG_CTRL_ATTACH, 1), (R.DBG_EMU_SLEEP_SLEEP, 1)] with pd1 := true };
      b.pd1 = true ∧ b.get R.DBG_CTRL_ATTACH ≠ 0 ∧ b.get R.DBG_EMU_SLEEP_SLEEP ≠ 0) ∧
    (∀ p ∈ [(false, false), (false, true), (true, false)], let b0 := fresh [(R.PWR_STAT_DRIP, 1), (R.PWR_STAT_PHASE, 6)]
      let b : Block := { b0 with power := { b0.power with wakeIn := p.1, wakeDbg := p.2 } }
      b.get R.PWR_STAT_DRIP ≠ 0 ∧ b.get R.PWR_STAT_PHASE = 6 ∧ b.power.wakeIn = p.1 ∧ b.power.wakeDbg = p.2) ∧
    (let b := fresh [(R.PWR_STAT_DRIP, 1), (R.PWR_STAT_PHASE, 6), (R.DIST_ENSET_EN 31, 2 ^ 31), (R.DIST_PENDSET_PEND 31, 2 ^ 31), (R.routeByte 127, 6)];
      b.enabled 1023 = true ∧ b.pend 1023 = true ∧ (b.routeOf 1023).isSome = true) ∧
    (fresh [(R.PWR_STAT_PHASE, 7)]).get R.PWR_STAT_PHASE = 7 ∧ (fresh []).get R.PWR_STAT_PHASE ≠ 7 := by
  and_intros <;> decide +kernel

/-- A request to the DRAM Port. -/
def dramReq (rq : Nat) (k : ReqKind) (a n : Nat) (r : Reply) : Req := ⟨rq, k, dramBase + a, n, if k = .write then List.replicate n 7 else [], 0, r, 0, 0, 4, true, 0⟩

/-- The oldest request of the last channel and none; a response to a read, to a write that spans two lines and to a posted one, and to none; a
line to send from memory, from a bank that is off and from the window; Drip. -/
theorem test_witness_DramAndHost :
    (∀ q ∈ [dramReq 6 .read 192 8 .word, dramReq 6 .write 255 2 .none],
      let b : Block := { fresh [] with dram := { Block.reset.dram with waiting := [dramReq 5 .read 64 8 .word, q], presented := [q] } }
      b.mem.wf = true ∧ b.dramPick 3 = some q ∧
        b.dram.presented[0]? = some q ∧ 1 ≤ q.len ∧ q.kind.writes = decide (q.len = 2)) ∧
    ((fresh []).mem.wf = true ∧ (fresh []).still ∧ (fresh []).dramPick 3 = none ∧ (fresh []).dram.presented[0]? = none) ∧
    ((fresh [(R.PWR_STAT_DRIP, 1)]).drips = true ∧ (fresh []).drips = false) ∧
    (∀ l ∈ [[], [(0, 6)]], let b0 := fresh [(R.CB_STAT_PSTATE 3, 2)]
      let b := b0.setBank 3 { b0.bankAt 3 with src := l }
      b.still ∧ b.reachable 0x300000 64 = true ∧ b.target 0x300000 = .carafe 3 ∧ ((b.bankAt 3).src.look (0x300000 / 64 % 2 ^ 14)).isSome = !l.isEmpty ∧ b.reachable 0x400000 64 = false ∧
        b.target 0x400000 = .carafe 4 ∧ b.target 0x10002FC0 = .window 0x2FC0) := by
  unfold Block.still
  and_intros <;> decide +kernel

/-- The scan port with PD1 ON, an instruction and its state. -/
def scan (i : Nat) (f : Tap → Tap) (l : List (Fld × Nat)) : Block :=
  let b := fresh ([(R.CB_STAT_PSTATE 3, 2)] ++ l)
  { b with pd1 := true, tap := f { b.tap with ir := i } }

/-- Each instruction, sealed and not, with an access in flight and with none, to read and to write, with and without the address step, a good
and a bad status; trace records and none; accesses to the window, to a domain that is off, to memory that answers and that does not, and to
nothing. -/
theorem test_witness_ScanPort :
    ((fresh []).pd1 = false ∧ (fresh []).tap.acc = none) ∧
    (∀ i ∈ [1, 2, 3, 4, 5, 6, 7], (scan i id []).mem.wf = true ∧ (scan i id []).still ∧ (scan i id []).pd1 = true ∧ (scan i id []).tap.ir = i) ∧
    (∀ z ∈ [false, true], ({ scan 2 id [] with isSealed := z } : Block).isSealed = z ∧
      (scan 3 (fun t => { t with wr := z, inc := z, offInc := z }) []).tap.wr = z) ∧
    (∀ st ∈ [0, 1, 2], (scan 3 (fun t => { t with inc := true, status := st }) []).tap.status = st) ∧
    (scan 2 (fun t => { t with acc := some ⟨5, none⟩ }) []).tap.acc ≠ none ∧
    (∀ q ∈ [[], [[1], [2]]], ({ scan 6 id [] with trcBuf := q } : Block).trcBuf = q) ∧
    ((scan 6 id []).get R.TRC_CTRL_SINK = 0 ∧ (scan 6 id [(R.TRC_CTRL_SINK, 1)]).get R.TRC_CTRL_SINK ≠ 0) ∧
    (let b := scan 2 id [];
      b.target (0x10000000 + 0x2000) = .window 0x2000 ∧ b.winOff 0x2000 = false ∧ ({ b with pd4 := false } : Block).winOff 0xB000 = true ∧
        b.target 0x300000 = .carafe 3 ∧ b.reachable 0x300000 4 = true ∧ (b.bankAt 3).src.look (0x300000 / 64 % 2 ^ 14) = none ∧ b.reachable 0x400000 4 = false ∧
        b.drips = false) := by
  unfold Block.still
  and_intros <;> decide +kernel

/-- An access that no agent makes, and one that it does; the domains that answer and that do not; FSTEP at both limits and past them. -/
theorem test_witness_RegisterWindow :
    (registerWriteOk 0 0x2001 = false ∧ registerWriteOk 0 0x2000 = true ∧ registerWriteOk 71 0x4036C = true ∧ registerWriteOk 72 0x308 = false ∧
      registerWriteOk 75 0x80024 = true) ∧
    (isPeriph 0xB000 = true ∧ isDebug 0x8000C = true ∧ isPeriph 0x2000 = false) ∧
    (∀ p ∈ [(1, 2), (3, 2), (1, 1)], let b := fresh [(R.peState 3, p.1), (R.PWR_ENG_STATE 3, p.2)]
      b.get (R.peState 3) = p.1 ∧ b.get (R.PWR_ENG_STATE 3) = p.2 ∧ b.drips = false) ∧
    (∀ m < 72, (fresh []).get (R.ENG_CSSTAT_SPUSED m) = 0) ∧ (fresh [(R.ENG_CSSTAT_SPUSED 3, 5)]).get (R.ENG_CSSTAT_SPUSED 3) = 5 ∧
    (∀ z ∈ [none, some true], let b := (instr 0 (fun e => { e with trapPt := z }) []).blk
      b.runs 3 = true ∧ (b.engine 3).wait = none ∧ (b.engine 3).point = z) ∧
    (fresh []).runs 3 = false ∧
    (∀ p ∈ [(15, false), (16, true), (64, true), (65, false)],
      decide (16 ≤ (BitVec.ofNat 7 p.1).toNat ∧ (BitVec.ofNat 7 p.1).toNat ≤ 64) = p.2) := by
  and_intros <;> decide +kernel

/-- Engine 3 under debug, ON, with the registers set. -/
def debugged (l : List (Fld × Nat)) : Block := { (fresh ([(R.PWR_ENG_STATE 3, 2)] ++ l)) with pd1 := true }

/-- An engine that is sealed, off, running and halted, calm and with a watchdog, inside an instruction and outside; an engine in the halt group
at each of its words and outside it; a moved one; the last selector of each group. -/
theorem test_witness_RunControl :
    (let b := debugged [];
      b.get (R.PWR_ENG_STATE 3) = 2 ∧ b.isSealed = false ∧ b.get (R.ENG_DBGSTAT_CSTOP 3) = 0 ∧ b.pd1 = true ∧ b.get (R.peState 3) ≠ 3) ∧
    (∀ p ∈ [(0, 0), (0, 1), (1, 0)], let b := debugged [(R.ENG_DBGSTAT_CSTOP 3, 1), (R.ENG_WDG_CTRL_EN 3, p.1), (R.ENG_DBGSTAT_INSTR 3, p.2)]
      b.get (R.ENG_DBGSTAT_CSTOP 3) ≠ 0 ∧ b.get (R.ENG_WDG_CTRL_EN 3) = p.1 ∧ b.tracing 3 = false ∧ b.get (R.ENG_DBGSTAT_INSTR 3) = p.2) ∧
    (fresh [(R.PWR_ENG_STATE 3, 1)]).get (R.PWR_ENG_STATE 3) ≠ 2 ∧ ({ debugged [] with isSealed := true } : Block).isSealed = true ∧
    (fresh []).pd1 = false ∧
    (∀ m ∈ [0, 31, 32, 63, 64, 71], let b := debugged [(if m < 64 then R.DBG_XHALT_SE (m / 32) else R.DBG_XHALT2_SE, 2 ^ (m % 32))]
      (b.get (if m < 64 then R.DBG_XHALT_SE (m / 32) else R.DBG_XHALT2_SE)).testBit (m % 32) = true) ∧
    (let b := debugged []; (b.get (R.DBG_XHALT_SE 0)).testBit 3 = false) ∧
    (debugged [(R.peState 3, 3)]).get (R.peState 3) = 3 ∧
    (∀ x ∈ [0x1E, 0x3E, 0x43, 0x44, 0x45, 0x46, 0x57, 0x60, 0x63, 0x68, 0x7F], (debugged [(R.ENG_DBGRSEL_SEL 3, x)]).get (R.ENG_DBGRSEL_SEL 3) = x) := by
  and_intros <;> decide +kernel

/-- An engine that is ON; a terminal with one place in each FIFO, none, and nothing to read; PD1 OFF and the device sealed. -/
theorem test_witness_CountersAndTerminal :
    (debugged []).get (R.PWR_ENG_STATE 3) = 2 ∧
    (∀ k ∈ [0, 15, 16], let b : Block := { debugged [] with vt := [(7, ⟨List.replicate k 1, List.replicate k 1⟩)] }
      b.pd1 = true ∧ b.isSealed = false ∧ (b.vtAt 7).dtx.length = k ∧ (b.vtAt 7).drx.length = k) ∧
    (fresh []).pd1 = false ∧ ({ debugged [] with isSealed := true } : Block).isSealed = true := by
  and_intros <;> decide +kernel
end Sys2Proof.Machine.Tests
end

