-- ==== Sys2Proof/Tests/Witness2.lean ====
section
/-! SUPPORT. States that meet the premises of the statements about long and kernel instructions, microwords and micro-traps. -/
namespace Sys2Proof.Machine.Tests
set_option Elab.async false
open Sys2Proof Sys2Proof.Machine

/-- Engine 3 with the long instruction `op` in progress on g1, g2 and g3. -/
def longAt (op d a cnt x : Nat) (down : Bool) : State := vectored 0 true false 1 [5] (fun e => { e with
  gV := gs [(1, d), (2, a), (3, cnt)], long := some ⟨op, 1, 2, 3, x, true, down⟩ }) []

/-- Engine 3 is not stopped or waiting, nothing is due there, and nothing watches or fails it. -/
def Undisturbed (s : State) : Prop :=
  s.blk.runs 3 = true ∧ s.blk.trapFirst 3 = false ∧ (s.blk.engine 3).cmp = [] ∧ (s.blk.engine 3).codes = [] ∧
    (s.blk.engine 3).wait = none ∧ (s.blk.engine 3).hold = .none

/-- Starting with a count of 0 and another; a chunk of each instruction that ends with the bank's last byte, one that finds nothing
and one that finds at once; a chunk outside every region. -/
theorem test_witness_LongInstructions :
    quietAt (fun e => { e with gV := gs [(4, 1)] }) ([0xB0, 0xB1, 0xB2, 0xB3, 0xB4].flatMap fun o => [wordR o 1 2 3 0, wordR o 1 2 4 0] ++
      if o = 0xB4 then [wordR o 1 2 3 1] else []) ∧ ([(1 : Nat), 2, 4, 31] : List Nat).Nodup ∧
    (∀ p ∈ [(0xB0, 0), (0xB1, 0), (0xB2, 0), (0xB3, 0), (0xB4, 0), (0xB4, 1)], ∀ c ∈ [1, 64],
      let s := longAt p.1 (0x100000 - c) (0x80000 - c) c p.2 false
      Quiet s 3 ∧ Undisturbed s ∧
        min c (64 - (0x100000 - c) % 64) = c ∧ AtBank s 3 [.read] (0x80000 - c) c 0 ∧ StoresAt s 3 (0x100000 - c) c 0 ∧
        (∀ i < c, s.blk.mem.read (0x80000 - c + i) = s.blk.mem.read (0x100000 - c + i)) ∧
        s.blk.mem.read (0x80000 - c) = ((0 : W64)).setWidth 8 ∧ s.blk.mem.read (0x80000 - c) ≠ (5 : W64).setWidth 8) ∧
    (∀ c ∈ [1, 64], AtBank (longAt 0xB3 (0x100000 - c) 0 c 0 false) 3 [.read] (0x100000 - c) c 0) ∧
    (∀ c ∈ [1, 64, 100],
      let s := longAt 0xB0 (0x100000 - c) (0x100000 - c - 8) c 0 true
      let lo := max (0x100000 - c) (0xFFFFF / 64 * 64)
      Quiet s 3 ∧ Undisturbed s ∧ AtBank s 3 [.read] (lo - 8) (0x100000 - lo) 0 ∧ StoresAt s 3 lo (0x100000 - lo) 0) ∧
    (let s := vectored 0 true false 1 [5] (fun e => { e with
        gV := gs [(1, 5), (2, 0x200000), (3, 100)], long := some ⟨0xB2, 1, 2, 3, 0, true, false⟩,
        rg := [(0, { RgEntry.whole with perm := 0xFFF, lim := 0x1FF })] }) []
      let b := s.blk.modEngine 3 fun g => { g with
        st := { g.st with rsm := true }, long := none, faddr := g.faddr.put 0 0x200000,
        fcause := g.fcause.put 0 (BitVec.ofNat 8 Cause.region.code) }
      Quiet s 3 ∧ Undisturbed s ∧ s.blk.check 3 [.read] 0x200000 64 = some (0x200000, .region) ∧
        (b.readDesc 3 5 false).2 = .good (handler false 1) ∧
        CanEnter (b.readDesc 3 5 false).1 3 (handler false 1) false) := by
  unfold quietAt Quiet Undisturbed AtInstr AtBank StoresAt CanEnter; refine ⟨?_, ?_, ?_, ?_, ?_, ?_⟩ <;> decide +kernel

/-- A KCALL descriptor of one stage (kernel ID 1), 512 bytes from 0x10000 to 0x30000. -/
def passDesc : List Byte :=
  leBytes 1 4 ++ leBytes 0 4 ++ leBytes 0x10000 8 ++ leBytes 0x200 4 ++ leBytes 0 4 ++ leBytes 0x30000 8 ++ leBytes 0x1000 4 ++
    leBytes 0 4 ++ leBytes 0 16

/-- KCALL resumed and started; its first block and the last that is not the call's last. -/
theorem test_witness_KernelCalls :
    (∀ rsm ∈ [true, false],
      let w := wordR 0xB5 1 2 3 0
      let s := vectored w true false 1 [] (fun e => { e with st := { e.st with rsm := rsm } }) []
      let s := here (bytesAt 0x10040 passDesc s.blk)
      Quiet s 3 ∧ AtInstr s 3 w ∧ 0x10040 % 64 = 0 ∧ AtBank s 3 [.read] 0x10040 0x38 0 ∧
        (KDesc.ofBytes (s.blk.mem.bytes 0x10040 0x38)).ok = true ∧
        (KDesc.ofBytes (s.blk.mem.bytes 0x10040 0x38)).ids.any takesParam = false ∧
        s.blk.chainOff 3 (KDesc.ofBytes (s.blk.mem.bytes 0x10040 0x38)) = false ∧
        (s.blk.engine 3).st.rsm = rsm) ∧
    (∀ pos ∈ [0, 384],
      let s := vectored 0 true false 1 [] (fun e => { e with
        gV := gs [(1, pos), (2, 0x10040), (3, pos)], long := some ⟨0xB5, 1, 2, 3, 0, false, false⟩,
        kern := [(0x10040, { KernRun.begun with desc := passDesc, stages := [⟨0, 0, [], [], []⟩] })] }) []
      let r := (s.blk.engine 3).kern.get 0x10040 KernRun.begun
      let desc := KDesc.ofBytes r.desc
      Quiet s 3 ∧ Undisturbed s ∧ desc.flags = 0 ∧ desc.stages = 1 ∧ r.stages.length = 1 ∧ r.out = [] ∧ pos + 64 < desc.inLen ∧ pos + 64 ≤ desc.outLim ∧
        s.blk.outFault 3 ⟨0xB5, 1, 2, 3, 0, false, false⟩ r pos 64 false = none ∧ AtBank s 3 [.read] (0x10000 + pos) 64 0 ∧
        StoresAt s 3 (0x30000 + pos) 64 0) := by
  unfold Quiet Undisturbed AtInstr AtBank StoresAt; constructor <;> decide +kernel

/-! ## Microwords -/

/-- Engine 3 at the microaddress 0x123 with the 192 bits `v` there, three micro-registers, two return addresses and a loop counter. -/
def wordAt (v : Nat) (f : Engine → Engine) : State := vectored 0 true false 1 [] (fun e => f { e with
  upc := 0x123, cs := [(0x123, BitVec.ofNat 192 v)], u := gs [(0, 0x10005), (1, 7), (15, 0x777)], ustack := [0x55, 0x66], l := [(0, 5)] }) []

/-- A word with DSEL at no register. -/
def idle : Nat := 0x30 * 2 ^ 132

/-- Every ALU operation named, every sequencing operation with its condition true, the loop counter at 0 and not, an empty and a
deep micro-stack; a reserved word and one that is too short. -/
theorem test_witness_Microwords :
    (∀ alu ∈ [0x01, 0x02, 0x03, 0x06, 0x09, 0x0A, 0x0B, 0x0C, 0x10, 0x11, 0x12, 0x13, 0x29],
      let v := alu * 2 ^ 150 + 0x20 * 2 ^ 144 + 0x21 * 2 ^ 138 + 0x2F * 2 ^ 132 + 2 ^ 28
      AtWord (wordAt v id) 3 (Uword.ofBits v) ∧ (Uword.ofBits v).plain ∧ (Uword.ofBits v).dsel = 0x2F ∧ (Uword.ofBits v).flags = 1) ∧
    (∀ q ∈ [0, 1, 2, 3, 4, 5, 6, 7, 8, 9, 0xC, 0xD, 0xE], ∀ ca ∈ [0, 1],
      let v := idle + q * 2 ^ 184 + 0x777 * 2 ^ 171 + ca * 2 ^ 165
      AtWord (wordAt v id) 3 (Uword.ofBits v) ∧ (Uword.ofBits v).plain ∧ (Uword.ofBits v).alu = 0 ∧ (Uword.ofBits v).seq = q) ∧
    (let v := idle + 9 * 2 ^ 184;
      AtWord (wordAt v fun e => { e with l := [], ustack := List.replicate 15 0 }) 3 (Uword.ofBits v)) ∧
    (∀ p ∈ [(idle + 0x3F * 2 ^ 150, some (1, 0)), (idle + 1 * 2 ^ 120, some (2, 0))],
      let s := wordAt p.1 id
      s.blk.atWord 3 = true ∧ (s.blk.engine 3).csErr.look 0x123 ≠ some true ∧ (s.blk.engine 3).inFault = false ∧
        (s.blk.engine 3).decodeFault (Uword.ofBits p.1) = p.2) := by
  unfold AtWord Uword.plain; decide +kernel

/-- The state `s` with one response waiting. -/
def answered (s : State) (r : Reply) (data : List Byte) : State := here { s.blk with resps := [⟨3, r, 0, data, false, [], 4⟩] }

/-- A load that ends with bank 0, its answers of 1 and of 8 bytes, a channel's answer kept and dropped, a strobe's answer; nothing due,
a halt, a watchdog and an interrupt due at an instruction boundary, for the Vendor and for the Tenant world. -/
theorem test_witness_MicroAnswersAndTraps :
    (∀ p ∈ [(1, 0), (2, 3)],
      let v := idle + p.1 * 2 ^ 88 + p.2 * 2 ^ 81
      let w := Uword.ofBits v
      let s := wordAt v fun e => { e with u := gs [(0, 0x100000 - w.size)] }
      AtWord s 3 w ∧ { w with mem := 0 }.plain ∧ (s.blk.engine 3).uaddr w = 0x100000 - w.size ∧ s.blk.target (0x100000 - w.size) = .carafe 0 ∧
        s.blk.check 3 [.read] (0x100000 - w.size) w.size = none ∧ s.blk.wordFault 3 w (s.blk.conds 3 w).condC 0 = none) ∧
    (∀ p ∈ [(1, [0x81]), (2, [0x81]), (2, [1, 2, 3, 4, 5, 6, 7, 0x88])],
      let v := idle + p.1 * 2 ^ 88
      let s := answered (wordAt v fun e => { e with wait := some ⟨true, true, true, none⟩ }) .word p.2
      s.blk.runs 3 = true ∧ (s.blk.engine 3).wait = some ⟨true, true, true, none⟩ ∧ 1 ≤ p.2.length ∧ p.2.length ≤ 8 ∧
        Uword.ofBits ((s.blk.engine 3).row (s.blk.engine 3).upc.toNat).toNat = Uword.ofBits v) ∧
    (∀ dropped ∈ [true, false], ∀ c ∈ [0, 31],
      let s := answered (wordAt 0 fun e => { e with slots := [(c, .expecting dropped 2)] }) (.channel c) [1, 2]
      s.blk.clocked 3 = true ∧ (s.blk.engine 3).slot c = .expecting dropped 2) ∧
    (let s := here { (wordAt 0 id).blk with extAns := [⟨3, false, some 77⟩] };
      (s.blk.extAns.find? (·.pe == 3)).isSome = true ∧ s.blk.clocked 3 = true ∧ (s.blk.engine 3).resFault = false ∧
        (s.blk.engine 3).wait = none ∧ (s.blk.engine 3).mdrWritten = false ∧ (s.blk.engine 3).codes = []) ∧
    (let at' := fun (f : Engine → Engine) (tenant : Bool) (l : List (Fld × Nat)) => vectored 0 true tenant 1 [2, 16, 17]
        (fun e => f { e with trapPt := some true, hold := .fetch, st := { e.st with ie := true } }) l
      let line := fun (t : Nat) => [(R.DIST_ENSET_EN 2, 2 ^ (8 + t)), (R.DIST_PENDSET_PEND 2, 2 ^ (8 + t)), (R.prioByte (72 + t), 3)]
      (at' id false []).blk.runs 3 = true ∧ ((at' id false []).blk.engine 3).wait = none ∧ (at' id false []).blk.trapDue 3 = none ∧
        (at' (fun e => { e with halt := some .clockStop }) false []).blk.trapDue 3 = some .clockStop ∧ (at' id false []).blk.inGroup 3 = false ∧
        (at' id false []).blk.tracing 3 = false ∧ ((at' id false []).blk.engine 3).fpt = none ∧
        (at' id false []).blk.flag (R.ENG_LKSTAT_LKACT 3) = false ∧
        ((at' id false []).blk.engine 3).point = some true ∧
        (let s := at' (fun e => { e with wdgDue := true }) false [(R.ENG_WDG_CTRL_EXP1 3, 1)]
          let b := (((s.blk.recordTrap 3 false .watchdog).modEngine 3 id).modEngine 3 fun q => { q with wdgDue := false }).readDesc 3 2 false
          s.blk.trapDue 3 = some .watchdog ∧ b.2 = .good (handler false 1) ∧ CanEnter b.1 3 (handler false 1) false) ∧
        ∀ p ∈ [(false, 6, true), (true, 7, false)],
          let s := at' id p.1 (line p.2.1)
          let b1 := ((s.blk.recordTrap 3 false .event).modEngine 3 id).countEng 3 0x0B
          let vendor := b1.admits 3 false && (b1.irqLine 6 || b1.dbLine 6)
          let v := if b1.irqLine (6 + bit (!vendor)) then 16 else 17
          s.blk.trapDue 3 = some .event ∧ vendor = p.2.2 ∧ (b1.readDesc 3 v (!vendor)).2 = .good (handler (!vendor) 1) ∧
            CanEnter (b1.readDesc 3 v (!vendor)).1 3 (handler (!vendor) 1) (!vendor)) := by
  unfold AtWord Uword.plain CanEnter; refine ⟨?_, ?_, ?_, ?_, ?_⟩ <;> decide +kernel

/-- A start that is due, a fetch of a line's last word, a notice of another lock and one of the sequence's own. -/
theorem test_witness_EngineEvents :
    (let s := vectored 0 true false 1 [] (fun e => { e with startDue := true }) [];
      (s.blk.engine 3).startDue = true ∧ s.blk.get (R.PWR_ENG_STATE 3) = 2) ∧
    (let s := vectored 0 true false 1 [] (fun e => { e with pc := 0xFFFF8, hold := .fetch, ibuf := [] }) [];
      s.blk.runs 3 = true ∧ s.blk.trapFirst 3 = false ∧ (s.blk.engine 3).hold = .fetch ∧ 0xFFFF8 % 64 ≤ 56 ∧ AtBank s 3 [.exec] 0xFFFC0 64 0 ∧
        leNat (s.blk.mem.bytes 0xFFFF8 4) / 2 ^ 24 < 0xF0) ∧
    (∀ x ∈ [3, 4],
      let s := vectored 0 true false 1 [] (fun e => { e with notices := [x, 5], lkSeq := 4, lkLine := some 0x10040 }) [(R.ENG_LKSTAT_LKACT 3, 1)]
      (s.blk.engine 3).notices = x :: [5] ∧ s.blk.flag (R.ENG_LKSTAT_LKACT 3) = true) := by
  unfold AtBank; decide +kernel

end Sys2Proof.Machine.Tests
end

