-- ==== Sys2Proof/Tests/Witness3.lean ====
section
/-! SUPPORT. States that meet the premises of the statements about timers, the Distributor, the engine-side units, axes and Crema. -/
namespace Sys2Proof.Machine.Tests
set_option Elab.async false
open Sys2Proof Sys2Proof.Machine

/-- The odd channel of the last pair, linked and not; the last single channel running; a phase delay; a group start that is due. -/
theorem test_witness_TimerChannels :
    (fresh []).pd4 = true ∧ (fresh [(R.TC_CTRL_LINK 62, 1)]).oddLinked 63 = true ∧ (fresh []).oddLinked 63 = false ∧
    (fresh [(R.TC_CTRL_LINK 62, 1)]).linked 62 = true ∧
    (let b := fresh [(R.TC_STAT_ARMED 63, 1), (R.TC_STAT_EXPCNT 63, 0xFF)];
      b.tcRuns 63 = true ∧ b.linked 63 = false ∧ 0 < b.tcDue 63 ∧ b.flag R.TMR_GCTRL_PEND = false ∧ b.timers.go = false ∧
        63 ∉ b.tick.started ∧ 216 + 63 ∉ b.dcycle.forced) ∧
    (let b : Block := { fresh [(R.TC_STAT_WAITPH 63, 1)] with timers := { Timers.reset with phase := [(63, 1)] } };
      b.flag (R.TC_STAT_WAITPH 63) = true ∧ b.tcFrozen 63 = false ∧ 0 < b.timers.phase.get 63 0 ∧ b.flag R.TMR_GCTRL_PEND = false ∧
        b.timers.go = false) ∧
    (let b := fresh [(R.TMR_GCTRL_PEND, 1), (R.TMR_GAT_LO_TNOW, 5), (R.TNOW_LO_TNOW, 5)];
      b.flag R.TMR_GCTRL_PEND = true ∧ b.tick.started = [] ∧ b.tnow ≥ b.get R.TMR_GAT_HI_TNOW * 2 ^ 32 + b.get R.TMR_GAT_LO_TNOW) := by
  and_intros <;> decide +kernel

/-- An edge of pair 15 is accepted: the pair has seen none, or the one before went the other way, long enough ago. -/
def acceptable (e : Block) (rising : Bool) : Prop := ∀ p ∈ e.timers.edge.look 15, rising ≠ p.2 ∧ p.1 + e.get (R.TC_CTRL_FILT 15) + 1 ≤ e.ticks

/-- The first and the second edge of an event; each strobe at the last channel it names and at the first it does not, Tenant with and
without TENANT. -/
theorem test_witness_CaptureAndStrobes :
    (let e := (fresh [(R.TC_CTRL_CAPEN 15, 1)]).elapse 5;
      e.pd4 = true ∧ e.flag (R.TC_CTRL_CAPEN 15) = true ∧ e.flag (R.TC_STAT_CAPHALF 15) = false ∧ acceptable e true ∧ true ≠ e.flag (R.TC_CTRL_CAPPOL 15)) ∧
    (∀ l ∈ [[], [15]],
      let b : Block := { fresh [(R.TC_CTRL_CAPEN 15, 1), (R.TC_STAT_CAPHALF 15, 1), (R.TC_CTRL_FILT 15, 4)] with
        timers := { Timers.reset with edge := [(15, (0, true))] }, tick := { Tick.fresh with read := l } }
      let e := b.elapse (if l = [] then 5 else 0)
      e.flag (R.TC_STAT_CAPHALF 15) = true ∧ (l = [] → acceptable e false ∧ 15 ∉ e.tick.read) ∧ (l ≠ [] → 15 ∈ e.tick.read ∧
        ¬acceptable e false) ∧ ¬acceptable e true ∧ false = e.flag (R.TC_CTRL_CAPPOL 15)) ∧
    (let b : Block := { fresh [(R.TC_CTRL_CAPEN 15, 1), (R.TC_STAT_CAPHALF 15, 1)] with tick := { Tick.fresh with read := [15] } };
      acceptable (b.elapse 0) false ∧ 15 ∈ (b.elapse 0).tick.read ∧ 15 ∉ b.tick.published ∧ 15 ∉ b.tick.started) ∧
    (∀ o ∈ [0x20, 0x21, 0x22], ∀ t ∈ [false, true],
      let b := strobed o 63 0 t [(R.TC_CTRL_TENANT 63, 1)]
      b.strobeOf 3 o = some (strobe o 63 0 t) ∧ (strobe o 63 0 t).a.toNat < 64 ∧ b.oddLinked 63 = false ∧ b.linked 63 = false ∧
        b.flag (R.TC_CTRL_TENANT 63) = true) ∧
    ((strobed 0x22 64 0 true []).strobeOf 3 0x22 = some (strobe 0x22 64 0 true) ∧ 64 ≤ (strobe 0x22 64 0 true).a.toNat) ∧
    ((strobed 0x22 0 0 true []).strobeOf 3 0x22 = some (strobe 0x22 0 0 true) ∧ (strobed 0x22 0 0 true []).flag (R.TC_CTRL_TENANT 0) = false ∧
      (strobed 0x22 0 0 true []).oddLinked 0 = false) ∧
    ((strobed 0x23 15 0 false []).strobeOf 3 0x23 = some (strobe 0x23 15 0 false) ∧ (strobe 0x23 15 0 false).a.toNat < 16) := by
  unfold acceptable; and_intros <;> decide +kernel

/-- An alarm at the present time and none; the Time Port open and closed; a result within the step threshold and one at it; a missed
event. -/
theorem test_witness_TimeCounterAndServo :
    (let b := fresh [(R.TIME_STAT_ALARMED, 1)];
      b.flag R.TIME_STAT_ALARMED = true ∧ b.get R.TIME_ALARM_HI_TNOW * 2 ^ 32 + b.get R.TIME_ALARM_LO_TNOW ≤ b.tnow) ∧
    (fresh []).flag R.TIME_STAT_ALARMED = false ∧
    ((fresh [(R.TIME_CTRL_TPEN, 1)]).elapse 7).flag R.TIME_CTRL_TPEN = true ∧ ((fresh []).elapse 7).flag R.TIME_CTRL_TPEN = false ∧
    ((fresh [(R.TIME_CTRL_TPEN, 1)]).elapse 7).timers.tpAt = none ∧
    (let e := ({ fresh [(R.TIME_CTRL_TPEN, 1)] with timers := { Timers.reset with tpAt := some 0 } } : Block).elapse 250;
      e.timers.tpAt = some 0 ∧ e.ticks = 0 + 250) ∧
    (let b : Block := { fresh [] with timers := { Timers.reset with servo := some (5, 0) }, tick := { Tick.fresh with loaded := true } };
      b.timers.servo = some (5, 0) ∧ 0 ≤ b.ticks ∧ b.tick.loaded = true) ∧
    (∀ p ∈ ([(0xFFFF, false), (0x10000, true)] : List (Int × Bool)),
      let b : Block := { fresh [(R.TIME_CTRL_SERVO, 1), (R.TIME_CTRL_STEPEN, 1), (R.TIME_STEPTHR_THR, 1)] with
        timers := { Timers.reset with servo := some (p.1, 0) } }
      b.timers.servo = some (p.1, 0) ∧ 0 ≤ b.ticks ∧ b.tick.loaded = false ∧ b.tick.servoed = false ∧ b.flag R.TIME_CTRL_SERVO = true ∧
        decide (b.flag R.TIME_CTRL_STEPEN = true ∧ b.get R.TIME_STEPTHR_THR * 2 ^ 16 ≤ p.1.natAbs) = p.2) ∧
    (let b := fresh [(R.TIME_CTRL_TPEN, 1), (R.TIME_TPGAP_MS, 1)];
      b.flag R.TIME_CTRL_TPEN = true ∧ b.get R.TIME_TPGAP_MS ≠ 0 ∧ b.flag R.TIME_STAT_HOLDOVER = false) := by
  and_intros <;> decide +kernel

/-- A block with source `x` enabled, pending and routed to target 6. -/
def sourced (x : Nat) (l : List (Fld × Nat)) : Block :=
  fresh ([(R.DIST_ENSET_EN (x / 32), 2 ^ (x % 32)), (R.DIST_PENDSET_PEND (x / 32), 2 ^ (x % 32)), (R.routeByte (x / 8), 6),
    (R.prioByte x, 3)] ++ l)

/-- A claimable source, the last one, and none; an edge and a level source, active or not; the target's own doorbell, a source claimed
by it and one that is not; the strobes for them, and a doorbell, a spare and another source to ring. -/
theorem test_witness_ClaimsAndDistributor :
    (sourced 1023 []).best 6 = some 1023 ∧ (fresh []).best 6 = none ∧
    (fresh []).srcOn 319 = true ∧ (fresh [(R.PWR_ENG_STATE 5, 0)]).srcOn 5 = false ∧ isLevel 319 = false ∧ isLevel 448 = false ∧ isLevel 320 = true ∧ isLevel 447 = true ∧ (fresh []).srcBit R.DIST_ACTIVE_ACT 320 = false ∧
    (let b : Block := { fresh [(R.DIST_ACTIVE_ACT (320 / 32), 2 ^ (320 % 32))] with claimer := [(320, 6)], strobes := [strobe 0xC1 320 0 false] };
      b.srcBit R.DIST_ACTIVE_ACT 320 = true ∧ b.claimer.look 320 = some 6 ∧ 320 ≠ 72 + 6 ∧
        b.strobeOf 3 0xC1 = some (strobe 0xC1 320 0 false) ∧ b.claimer.look 320 ≠ some 7) ∧
    (let b : Block := { sourced 1023 [] with strobes := [strobe 0xC0 0 0 false] };
      b.strobeOf 3 0xC0 = some (strobe 0xC0 0 0 false) ∧ b.best 6 = some 1023) ∧
    ((strobed 0xC0 0 0 true []).strobeOf 3 0xC0 = some (strobe 0xC0 0 0 true) ∧ (strobed 0xC0 0 0 true []).best 7 = none) ∧
    ((strobed 0xC1 78 0 false []).strobeOf 3 0xC1 = some (strobe 0xC1 78 0 false) ∧ 78 = 72 + 6) ∧
    (∀ p ∈ [(72, true), (215, true), (447, false), (448, true), (71, false), (1023, true)], ∀ t ∈ [false, true],
      (strobed 0xC2 p.1 0 t []).strobeOf 3 0xC2 = some (strobe 0xC2 p.1 0 t) ∧ decide (isDoorbell p.1 = true ∨ 448 ≤ p.1) = p.2) := by
  and_intros <;> decide +kernel

/-- A watchdog at its first and at its second expiry, and one that does not run; a service; staged bounds at the last entry; a chain with
entries and credits on their way. -/
theorem test_witness_EngineUnits :
    (∀ p ∈ [(0, false), (1, true)],
      let b := (vectored 0 true false 1 [] id [(R.ENG_WDG_CTRL_EN 3, 1), (R.ENG_WDG_CTRL_EXP1 3, p.1)]).blk
      b.wdgRuns 3 = true ∧ b.flag (R.ENG_WDG_CTRL_EXP1 3) = p.2) ∧
    (fresh []).wdgRuns 3 = false ∧
    (let b : Block := { fresh [(R.PWR_ENG_STATE 3, 2), (R.ENG_ID_RUN 3, 1), (R.ENG_ID_LE 3, 6), (R.ENG_RGIDX_INDEX 3, 15)] with
        chain := [(6, ⟨[([1], 0), ([2], 1)], [], 3, 1⟩)] };
      b.get (R.PWR_ENG_STATE 3) = 2 ∧ b.get (R.peState 3) ≠ 3 ∧ b.leOf 3 = some 6 ∧ 6 % 8 < 7 ∧
        (b.chainAt 6).moving = ([1], 0) :: [([2], 1)] ∧ (b.chainAt 6).returning ≠ 0) ∧
    (fresh [(R.PWR_ENG_STATE 3, 2)]).get (R.peState 3) ≠ 3 ∧ ((fresh []).chainAt 6).returning = 0 ∧
    (strobed 0xA0 0 0 true []).strobeOf 3 0xA0 = some (strobe 0xA0 0 0 true) := by
  and_intros <;> decide +kernel

/-! ## Axes and Crema -/

/-- Axis 1 there and on. -/
def axisOn (l : List (Fld × Nat)) (f : Axis → Axis) : Block := (fresh ([(R.INTEG_OPT_AX1, 1), (R.AX_CFG_EN 1, 1)] ++ l)).modAx 1 f

/-- Both modes with a port on, one not there; amplitudes at a bound and past it, at each of the four unambiguous phases; a first and a
later sample. -/
theorem test_witness_AxisPosition :
    (axisOn [] id).axOn 1 = true ∧ (axisOn [] id).flag (R.AX_CFG_MODE 1) = false ∧ ((axisOn [] id).ax 1).lvlA = false ∧
    (axisOn [(R.AX_STAT_DIRVALID 1, 1), (R.AX_STAT_DIR 1, 1), (R.AX_CFG_REVHYST 1, 0)] id).flag (R.AX_STAT_DIRVALID 1) = true ∧
    (∀ p ∈ ([(0, 3, true), (3, 0, true), (0, -3, true), (-3, 0, true), (0, 2, false), (0, 1001, false)] : List (Int × Int × Bool)),
      let b := axisOn [(R.AX_CFG_MODE 1, 1), (R.AX_SCAMP_AMPMIN 1, 3), (R.AX_SCAMP_AMPMAX 1, 1000), (R.AX_CFG_INTERP 1, 12)]
        fun x => { x with phi := some 4095 }
      b.axOn 1 = true ∧ b.flag (R.AX_CFG_MODE 1) = true ∧ (b.ax 1).phi = some 4095 ∧
        decide ((b.get (R.AX_SCAMP_AMPMIN 1) : Int) ^ 2 ≤ p.1 * p.1 + p.2.1 * p.2.1 ∧
          p.1 * p.1 + p.2.1 * p.2.1 ≤ (b.get (R.AX_SCAMP_AMPMAX 1) : Int) ^ 2) = p.2.2) ∧
    ((axisOn [(R.AX_CFG_MODE 1, 1)] id).ax 1).phi = none ∧ (fresh [(R.INTEG_OPT_AX1, 0)]).axHere 1 = false ∧
    (fresh [(R.INTEG_OPT_AX1, 1)]).axHere 1 = true := by
  and_intros <;> decide +kernel

/-- A window with increments and without, young and not; the index and the emulator on and off; a probe's edge and another. -/
theorem test_witness_AxisMeasures :
    (∀ p ∈ ([(0, 0, false), (5, 5, true), (2 ^ 40, -(2 ^ 40), false)] : List (Nat × Int × Bool)),
      let b := axisOn [] fun x => { x with n := p.1, net := p.2.1, young := p.2.2 }
      b.axOn 1 = true ∧ (b.ax 1).n = p.1 ∧ (b.ax 1).young = p.2.2) ∧
    (fresh [(R.INTEG_OPT_AX1, 0)]).axOn 1 = false ∧ (axisOn [] id).axHere 1 = true ∧
    (axisOn [(R.AX_CFG_IDXEN 1, 1), (R.AX_CFG_IDXHOME 1, 1)] id).flag (R.AX_CFG_IDXEN 1) = true ∧
    (axisOn [(R.AX_CFG_IDXEN 1, 1), (R.AX_IDXPER_PER 1, 8), (R.AX_POSLO_POS 1, 4), (R.AX_CFG_IDXCORR 1, 1), (R.AX_IDXTOL_TOL 1, 4)] id).flag
      (R.AX_CFG_IDXEN 1) = true ∧
    (axisOn [] id).flag (R.AX_CFG_IDXEN 1) = false ∧ (axisOn [(R.AX_EMUCFG_EMUEN 1, 1)] id).flag (R.AX_EMUCFG_EMUEN 1) = true ∧
    (axisOn [] id).flag (R.AX_EMUCFG_EMUEN 1) = false ∧
    (let e := (axisOn [(R.AX_CFG_PRBEN 1, 1)] id).elapse 3;
      e.axHere 1 = true ∧ e.flag (R.AX_CFG_PRBEN 1) = true ∧ true ≠ e.flag (R.AX_CFG_PRBPOL 1) ∧ false = e.flag (R.AX_CFG_PRBPOL 1)) ∧
    ((axisOn [] id).elapse 3).flag (R.AX_CFG_PRBEN 1) = false := by
  and_intros <;> decide +kernel

/-- Two pending slots of frame 7, one of frame 8 held by logical engine 2 and the last slot, held by another; engine 3 runs 2. -/
def slots (op a : Nat) (tenant : Bool) (l : List (Fld × Nat)) : Block :=
  let c := fun (h : Option Nat) (f o : Nat) => (⟨h, f, 0, 0, 0, 0, 0, 0, o, 0⟩ : CSlot)
  { strobed op a 0 tenant ([(R.ENG_ID_RUN 3, 1), (R.ENG_ID_LE 3, 2)] ++ l) with
    crema := [(0, c none 7 5), (2, c (some 2) 8 1), (5, c none 7 3), (1023, c (some 1) 9 2)] }

/-- A slot that ages and one that does not; each strobe where it finds its slot and where it does not, and from the Tenant world. -/
theorem test_witness_Crema :
    (slots 0x60 7 false []).crema.Pairwise (fun x y => x.1 < y.1) ∧
    (let b := slots 0x60 7 false [(R.CREMA_CTRL_AGE, 1)];
      ((b.crema.look 0).map (·.held)) = some none ∧ b.get R.CREMA_CTRL_AGE ≠ 0 ∧ ((b.crema.look 1023).map (·.held)) = some (some 1)) ∧
    (fresh [(R.CREMA_CTRL_AGE, 0)]).get R.CREMA_CTRL_AGE = 0 ∧
    (∀ o ∈ [0x60, 0x61, 0x62], ∀ t ∈ [false, true], ∀ a ∈ [0, 2, 7, 8, 9],
      (slots o a t []).strobeOf 3 o = some (strobe o a 0 t) ∧ (strobe o a 0 t).tenant = t) ∧
    (let b := slots 0x61 2 false [];
      b.strobeLe (strobe 0x61 2 0 false) = 2 ∧ (b.crema.look 2).map (·.held) = some (some 2) ∧ (b.crema.look 1023).map (·.held) = some (some 1)) ∧
    (slots 0x61 2 false []).winOff R.CREMA_SLOTCLR_ALL.off = false := by
  and_intros <;> decide +kernel

end Sys2Proof.Machine.Tests
end

