-- ==== Sys2Proof/Tests/Witness4.lean ====
section
/-! SUPPORT. States that meet the premises of the statements about the pin sequencers, the media rings and their traffic. -/
namespace Sys2Proof.Machine.Tests
set_option Elab.async false
open Sys2Proof Sys2Proof.Machine

/-- Sequencer 15 enabled at its last step, which is the word `w`. -/
def seqAt (w : Nat) (f : PinSeq → PinSeq) (l : List (Fld × Nat)) : Block :=
  (fresh ([(R.PS_CTRL_EN 15, 1), (R.PS_STAT_PC 15, 63)] ++ l)).modPs 15 fun p => f { p with steps := [(63, w)] }

/-- One word of each operation; WAITFOR that holds and not; SEND with the bits it needs and with one too few, with a frame to take and
with none; TAKE with a frame that is due and not; a receive FIFO with one place and with none. -/
theorem test_witness_PinSteps :
    (∀ w ∈ [0x0120FF3C, 0x10020003, 0x2003E400, 0x20008000, 0x30008800, 0x40000000, 0x50000000, 0x60000000],
      (seqAt w id []).psNext 15 = some w ∧ psReserved w = false) ∧
    (∀ p ∈ [(0x80000000, false), (8, true)], let b := seqAt 0x10020003 id [];
      b.psNext 15 = some 0x10020003 ∧ bitsOf 0x10020003 18 2 = 0 ∧
      ((p.1 : Nat).testBit ((b.get (R.PS_CTRL_PINBASE 15) + 3 % 8) % 32) == (0x10020003 : Nat).testBit 17) = p.2) ∧
    (∀ p ∈ [(7, false), (8, true)], let b := seqAt 0x2003E400 id [(R.PS_STAT_SCNT 15, p.1)];
      b.psNext 15 = some 0x2003E400 ∧ decide (bitsOf 0x2003E400 15 5 + 1 ≤ b.get (R.PS_STAT_SCNT 15)) = p.2 ∧ (b.ps 15).sndf = []) ∧
    (let b := seqAt 0x2003E400 (fun p => { p with sndf := [5] }) [(R.PS_STAT_SCNT 15, 7), (R.PS_FRMCFG_SLEN 15, 1)];
      b.psNext 15 = some 0x2003E400 ∧ b.get (R.PS_STAT_SCNT 15) < bitsOf 0x2003E400 15 5 + 1 ∧ (b.ps 15).sndf = 5 :: [] ∧
        bitsOf 0x2003E400 15 5 + 1 - b.get (R.PS_STAT_SCNT 15) ≤ frameLen (b.get (R.PS_FRMCFG_SLEN 15)) ∧
        frameLen (b.get (R.PS_FRMCFG_SLEN 15)) < 64) ∧
    (∀ p ∈ [(0, false), (1, true)], let b := seqAt 0x30008800 id [(R.PS_STAT_DCNT 15, p.1), (R.PS_FRMCFG_DLEN 15, 3)];
      b.psNext 15 = some 0x30008800 ∧ ((0x30008800 : Nat).testBit 11 &&
        decide (frameLen (b.get (R.PS_FRMCFG_DLEN 15)) ≤ min (b.get (R.PS_STAT_DCNT 15) + (bitsOf 0x30008800 15 5 + 1)) 32)) = p.2) ∧
    (∀ k ∈ [15, 16], ((seqAt 0x50000000 (fun p => { p with rcvf := List.replicate k 1 }) []).ps 15).rcvf.length = k) := by
  and_intros <;> decide +kernel

/-- One word of each operation and a reserved one; a tally that is 0 and one that is not; no step; a stall of PAUSE and a dwell. -/
theorem test_witness_PinControl :
    (Block.reset.crema.Pairwise fun x y => x.1 < y.1) ∧
    (∀ w ∈ [0x65618001, 0x6002FFFF, 0x7000003F, 0x80030F05, 0x900C0003, 0xA0000003, 0xB1100000, 0xC0000000],
      (seqAt w id []).psNext 15 = some w ∧ psReserved w = false) ∧
    ((seqAt 0xD0000000 id []).psNext 15 = some 0xD0000000 ∧ psReserved 0xD0000000 = true) ∧
    (seqAt 0 id []).get (R.psTally 15 0) = 0 ∧ (seqAt 0 id [(R.PS_TALLY01_T0 15, 1)]).get (R.psTally 15 0) ≠ 0 ∧
    (fresh []).psNext 15 = none ∧
    (let b := fresh [(R.CREMA_CTRL_EN, 1), (R.CREMA_CTRL_TRIGPS, 15)]; b.get R.CREMA_CTRL_EN ≠ 0 ∧ b.get R.CREMA_CTRL_TRIGPS = 15) ∧
    (let b := (fresh [(R.PS_CTRL_EN 15, 1), (R.PS_STAT_DWELLING 15, 1)]).modPs 15 fun p => { p with stall := some ⟨0xC0500000, false, []⟩ };
      b.pd4 = true ∧ b.flag (R.PS_CTRL_EN 15) = true ∧ (b.ps 15).stall = some ⟨0xC0500000, false, []⟩ ∧ 0xC0500000 / 2 ^ 28 % 16 = 12 ∧
        b.get (R.PS_STAT_DWELLING 15) ≠ 0) := by
  and_intros <;> decide +kernel

/-- Every register readable and writable; a FIFO with one place, a full one, an empty one; a group start that is due and none; an
injected word at a boundary, over a stall with force and without it. -/
theorem test_witness_PinRegisters :
    (∀ f ∈ [R.PS_STEPDATA_WORD 15, R.PS_SNDF_DATA 15, R.PS_RCVF_DATA 15, R.PS_CTRL_CLKRST 15, R.PS_FLAGS_FLAGS, R.PS_GCTRL_GO,
      R.PS_INJECT_WORD 15], Block.reset.winOff f.off = false) ∧
    (∀ k ∈ [15, 16], let b := (fresh []).modPs 15 fun p => { p with sndf := List.replicate k 1, rcvf := List.replicate (k - 15) 7 };
      (b.ps 15).sndf.length = k ∧ ((b.ps 15).rcvf = [] ∧ k = 15 ∨ (b.ps 15).rcvf = 7 :: [] ∧ k = 16)) ∧
    (let b := fresh [(R.PS_GCTRL_PEND, 1), (R.TMR_GAT_LO_TNOW, 5), (R.TNOW_LO_TNOW, 5)];
      b.flag R.PS_GCTRL_PEND = true ∧ b.get R.TMR_GAT_HI_TNOW * 2 ^ 32 + b.get R.TMR_GAT_LO_TNOW ≤ b.tnow) ∧
    (fresh []).flag R.PS_GCTRL_PEND = false ∧
    (∀ p ∈ ([(none, 0), (some ⟨0x20000000, true, []⟩, 1), (some ⟨0x20000000, true, []⟩, 0)] : List (Option PsStall × Nat)),
      let b := (fresh [(R.PS_CTRL_EN 15, 1), (R.PS_STAT_INJ_PEND 15, 1), (R.PS_CTRL_INJ_FORCE 15, p.2)]).modPs 15 fun q =>
        { q with stall := p.1, inj := some 0x60501234 }
      (b.ps 15).inj = some 0x60501234 ∧ b.pd4 = true ∧ b.flag (R.PS_CTRL_EN 15) = true ∧ 0x60501234 / 2 ^ 28 % 16 = 6 ∧
        psReserved 0x60501234 = false ∧ (b.ps 15).stall = p.1 ∧ b.flag (R.PS_CTRL_INJ_FORCE 15) = decide (p.2 = 1) ∧
        b.flag (R.PS_STAT_DWELLING 15) = false) := by
  and_intros <;> decide +kernel
end Sys2Proof.Machine.Tests
end

