-- ==== Sys2Proof/Tests/Witness5.lean ====
section
/-! SUPPORT. States that meet the premises of the statements about the Media Port's rings and its channels. -/
namespace Sys2Proof.Machine.Tests
set_option Elab.async false
open Sys2Proof Sys2Proof.Machine

/-- A media descriptor of the cookie 77 (R251). -/
def dsc (op flags ns gcnt iucnt gran iu blen old : Nat) : Desc64 :=
  Desc64.ofBytes (leBytes op 1 ++ leBytes flags 1 ++ [1] ++ leBytes ns 1 ++ leBytes gcnt 2 ++ leBytes iucnt 1 ++ [0] ++ leBytes gran 8 ++
    leBytes (if op < 4 then 0x1000 else 0) 8 ++ leBytes iu 8 ++ leBytes 0 20 ++ leBytes 77 4 ++ leBytes blen 3 ++ leBytes old 5)

/-- Banks ON, channels 0 to 3 present, namespace 1 with a map at 0x100000 that has an array extent, a captured one, one past its
channel's end and one that names nothing. -/
def media (f : Media → Media) (l : List (Fld × Nat)) : State :=
  let b := bytesAt 0x100000 (leBytes (2 ^ 36 + 9 + 2 ^ 40 * 2 + 2 ^ 58 * 2) 8 ++ leBytes (2 ^ 36 - 1 + 2 ^ 40 * 2 + 2 ^ 58 * 2) 8) (fresh
    ([(R.CB_STAT_PSTATE 0, 2), (R.CB_STAT_PSTATE 1, 2), (R.CB_STAT_PSTATE 2, 2), (R.CB_STAT_PSTATE 3, 2), (R.INTEG_CHAN_PRESENT, 0xF),
      (R.MP_CTRL_EN, 1), (R.MP_NS_CFG_EN 1, 1), (R.MP_NS_CFG_CAPT 1, 1),
      (R.MP_NS_MAP_LO_ADDR 1, 0x100), (R.MP_NS_IUCNT_COUNT 1, 4), (R.MP_CPL_LO_ADDR, 4), (R.MP_JBUF_LO_ADDR, 0x30), (R.MP_JROOM_ROOM, 1)]
      ++ l))
  here { b with media := f b.media }

/-- A descriptor that ring 3 has fetched, as the head for acceptance. -/
def fetchedBy (d : Desc64) (f : Media → Media) : Block := (media (fun m => f { m with fetched := [(3, d.raw)] }) []).blk

/-- The same of ring 0. -/
def fetchedBy0 (d : Desc64) : Block := (media (fun m => { m with fetched := [(0, d.raw)] }) []).blk

/-- A fetch that can be answered, its first and its second try; a sound descriptor of each operation, with and without MAP, with room in the
journal for its run and with none; a lookup past the map, at an empty slot, at an extent and at one that names no present granules, with no
program on its way and with one; a bad operation and a bad address. -/
theorem test_witness_MediaRings :
    (∀ r ∈ [false, true], let s := media (fun m => { m with subs := [(31, 1)], heads := [(31, 1023)], used := [(31, 1024)], retried := r }) []
      let b := s.blk
      MemOk s ∧ b.still ∧ b.media.subs = (31, 1) :: [] ∧ b.get R.MP_CTRL_EN ≠ 0 ∧
        b.mpHeld + b.media.fetched.length < 32768 ∧ b.media.retried = r ∧
        b.reachable (b.getAddr R.MP_RING_LO_ADDR R.MP_RING_HI_ADDR + 31 * 0x10000 + 64 * b.media.heads.get 31 0) 64 = true) ∧
    (let b := ({ (media (fun m => { m with subs := [(31, 1)] }) []).blk with regs := (media id [(R.CB_STAT_PSTATE 1, 0)]).blk.regs } : Block);
      b.reachable (0x100000 + 64) 64 = false ∧ b.media.subs = (31, 1) :: []) ∧
    (let b := (media id []).blk;
      b.target 0x100040 = .carafe 1 ∧ (b.bankAt 1).src.look (0x100040 / 64 % 2 ^ 14) = none) ∧
    (media (fun m => { m with unread := 32768 }) []).blk.mpFull = true ∧ (media id []).blk.mpFull = false ∧
    (fresh []).winOff R.MP_SUBMIT_SLOT.off = false ∧ (media id []).blk.media.subs = [] ∧
    (∀ d ∈ [dsc 1 0 0 1 0 (3 * 2 ^ 35 + 7) 0 512 0, dsc 1 2 0x21 1 3 (3 * 2 ^ 35 + 7) 0 500 0, dsc 2 0 0 1 0 (4 * 2 ^ 35 - 1) 0 0 0,
        dsc 4 0 0 0 0 (3 * 2 ^ 35) 0 0 0, dsc 3 0 1 0 0 0 64 0 0, dsc 3 0 1 0 0 0 63 0 0, dsc 3 0 1 0 0 0 0 0 0],
      let b := fetchedBy d id
      b.mem.wf = true ∧ b.still ∧ b.mpHead = some (3, d) ∧ (d.op = 2 ∨ d.op = 3 → b.get R.MP_STAT_PFAIL = 0) ∧
        b.badDesc d = false ∧ b.badAddr 3 d = false) ∧
    (let b := fetchedBy (dsc 1 2 0x21 1 3 (3 * 2 ^ 35 + 7) 0 500 0) fun m => { m with jopen := some ⟨15, 126, 5⟩ };
      (runsOf (b.installSet (dsc 1 2 0x21 1 3 (3 * 2 ^ 35 + 7) 0 500 0))).length ≤ b.jRoomFor) ∧
    (let b := fetchedBy (dsc 1 2 0x21 1 3 (3 * 2 ^ 35 + 7) 0 500 0) fun m => { m with jopen := none };
      b.jRoomFor < (runsOf (b.installSet (dsc 1 2 0x21 1 3 (3 * 2 ^ 35 + 7) 0 500 0))).length) ∧
    (let b := fetchedBy0 (dsc 5 0 1 0 2 0 62 0 0);
      b.mem.wf = true ∧ b.still ∧ b.mpHead = some (0, dsc 5 0 1 0 2 0 62 0 0) ∧ b.badDesc (dsc 5 0 1 0 2 0 62 0 0) = false ∧
        b.badAddr 0 (dsc 5 0 1 0 2 0 62 0 0) = false ∧ (runsOf (b.installSet (dsc 5 0 1 0 2 0 62 0 0))).length ≤ b.jRoomFor ∧ (dsc 5 0 1 0 2 0 62 0 0).nss < 8) ∧
    (fetchedBy (dsc 3 0 1 0 0 0 64 0 0) id).iuCount 1 ≤ 64 ∧ 63 < (fetchedBy (dsc 3 0 1 0 0 0 63 0 0) id).iuCount 1 ∧
    (∀ p ∈ [(0, 2, true), (1, 2, false), (2, 0, false), (63, 0, false)],
      let b := fetchedBy (dsc 3 0 1 0 0 0 p.1 0 0) id
      let w := leNat (b.mem.bytes (b.getAddr (R.MP_NS_MAP_LO_ADDR 1) (R.MP_NS_MAP_HI_ADDR 1) + 8 * p.1) 8)
      w / 2 ^ 58 % 4 = p.2.1 ∧ (w / 2 ^ 58 % 4 = 2 → b.extentOk (w % 2 ^ 40) (w / 2 ^ 40 % 2 ^ 12) = p.2.2) ∧ b.media.accepted = []) ∧
    (let x : Accepted := ⟨0, 3, 2, 0, dsc 1 0 0 1 0 (2 ^ 36 + 9) 0 512 0, none, false, false, false, 0⟩
      let b := fetchedBy (dsc 3 0 1 0 0 0 0 0 0) fun m => { m with accepted := [x] };
      (b.media.accepted.filter (fun x => x.desc.op == 1 && x.block.isNone &&
        x.desc.gran == leNat (b.mem.bytes (b.getAddr (R.MP_NS_MAP_LO_ADDR 1) (R.MP_NS_MAP_HI_ADDR 1)) 8) % 2 ^ 40)).getLast? = some x) ∧
    (let d := dsc 2 0 0 0 0 (3 * 2 ^ 35) 0 0 0;
      (fetchedBy d id).mpHead = some (3, d) ∧ d.op = 2 ∧ (fetchedBy d id).badDesc d = true) ∧
    (let d := dsc 4 0 0 0 0 (2 * 2 ^ 35) 0 0 0;
      (fetchedBy d id).mpHead = some (3, d) ∧ d.op = 4 ∧ (fetchedBy d id).badDesc d = false ∧ (fetchedBy d id).badAddr 3 d = true) ∧
    (let d := dsc 5 0 1 0 2 0 62 0 0;
      (fetchedBy d id).mpHead = some (3, d) ∧ d.op = 5 ∧ (fetchedBy d id).badDesc d = false ∧ (fetchedBy d id).badAddr 3 d = true) := by
  unfold Block.still MemOk
  and_intros <;> decide +kernel

/-- An accepted descriptor of channel 3. -/
def taken (idx : Nat) (d : Desc64) (handed srcErr : Bool) (block : Option Nat) : Accepted := ⟨idx, 3, 3, idx, d, block, handed, false, srcErr, 9⟩

/-- A descriptor to hand over and none; a program's last data beat, one beyond its length, with a failed source; a read's first and last beat
with out-of-band bytes and without; completions of a handed descriptor and of a journal block; a journal block to close, empty and none; a
closed block to hand over, and none. -/
theorem test_witness_MediaTraffic :
    (let d := dsc 1 0x10 0 3 0 (3 * 2 ^ 35 + 7) 0 1025 0
      let r := dsc 2 8 0 3 0 (3 * 2 ^ 35 + 7) 0 0 0
      let j := Desc64.ofBytes (journalDesc 5 0x30000)
      let s := media (fun m => { m with accepted := [taken 0 d false false none, taken 1 d true false none, taken 2 d true true none,
        taken 3 r true false none, taken 4 { r with flags := 0 } true false none, taken 5 j true false (some 3)] }) []
      let b := s.blk;
      MemOk s ∧ b.still ∧ b.mpNext 3 = some (taken 0 d false false none) ∧ b.mpNext 4 = none ∧
      b.handedAt 3 1 = some (taken 1 d true false none) ∧ d.op = 1 ∧ min 512 (d.blen - 512 * 2) = 1 ∧ min 512 (d.blen - 512 * 3) = 0 ∧
      b.reachable (d.buf + 512 * 2) 1 = true ∧ b.handedAt 3 2 = some (taken 2 d true true none) ∧
      b.handedAt 3 3 = some (taken 3 r true false none) ∧ r.op = 2 ∧ r.oob = true ∧ b.reachable (r.buf + 512 * 2 + 64 * 7) 64 = true ∧
      b.reachable (r.buf + 512 * 3 + 16 * 2) 16 = true ∧ r.buf + 512 * 2 + 64 ≤ r.buf + 512 * 3 + 16 * 2 ∧
      b.handedAt 3 4 = some (taken 4 { r with flags := 0 } true false none) ∧ ({ r with flags := 0 } : Desc64).oob = false ∧
      b.handedAt 3 5 = some (taken 5 j true false (some 3)) ∧ b.handedAt 3 9 = none) ∧
    (∀ c ∈ [0, 1, 127], let b := (media (fun m => { m with jopen := some ⟨15, c, 5⟩ }) []).blk
      b.winOff R.MP_CTRL_JFLUSH.off = false ∧ b.media.jopen = some ⟨15, c, 5⟩ ∧ c ≤ 127 ∧ b.reachable (b.jAddr 0 + 4096 * 15) 32 = true) ∧
    (media (fun m => { m with jopen := none }) []).blk.media.jopen = none ∧
    (let b := (media (fun m => { m with jclosed := [⟨15, 127, 5⟩] }) []).blk;
      b.media.jclosed = ⟨15, 127, 5⟩ :: [] ∧ b.media.jbusy = false ∧ b.get R.MP_JROOM_ROOM ≠ 0) ∧
    ((media id []).blk.media.jclosed = []) := by
  unfold Block.still MemOk
  and_intros <;> decide +kernel
end Sys2Proof.Machine.Tests
end

