-- ==== Sys2Proof/Tests/Witness6.lean ====
section
/-! SUPPORT. States that meet the premises of the statements about the Intake and the Kettle. -/
namespace Sys2Proof.Machine.Tests
set_option Elab.async false
open Sys2Proof Sys2Proof.Machine

/-- A tag of 200 bytes staged in bank 3, in a state. -/
def tg (st : Nat) (f : Tag → Tag) : Tag :=
  f { Tag.free with st := st, tseq := 5, len := 200, cid := 9, sqid := 4, stage := 3 * 2 ^ 20 + 0x1000, wbuf := dramBase + 0x4000 }

/-- The Intake enabled with one group of members 3 and 5 and rule 1 for opcode 1, bank 3 ON, logical engine 2 on engine 3. -/
def intake (f : Intake → Intake) (l : List (Fld × Nat)) : Block :=
  let b := fresh ([(R.CB_STAT_PSTATE 3, 2), (R.INTEG_DRAM_GIB, 1), (R.ENG_ID_RUN 3, 1), (R.ENG_ID_LE 3, 2), (R.INT_CTRL_EN, 1),
    (R.INT_WBSIZE_SIZE, 1), (R.INT_WB_HI_ADDR, 1), (R.INT_GRP_LO_MASK 0, 0x28), (R.INT_STG_SIZE 3, 1), (R.INT_STG_SIZE 5, 2),
    (R.INT_RULE_M_VALID 1, 1), (R.INT_RULE_M_OPCMASK 1, 0xFF), (R.INT_RULE_M_OPC 1, 1), (R.INT_RULE_A_LAND 1, 1),
    (R.INT_RULE_A_ENERGY 1, 1)] ++ l)
  { b with intake := f b.intake }

/-- The Intake with tag 7 in a state. -/
def tag7 (x : Tag) (f : Intake → Intake) : Block := intake (fun i => f { i with tags := [(7, x)] }) []

/-- Records of logical engine 2: decided, two to take, and one taken and not decided. -/
def recs2 : Tab Rec := [(recKey 2 0, ⟨7, 5, 3, [], true, true, some (4, 9), true⟩), (recKey 2 1, ⟨7, 5, 2, [], true, false, none, true⟩),
  (recKey 2 4, ⟨7, 5, 1, [], true, false, none, true⟩), (recKey 2 5, ⟨7, 5, 4, [], true, true, none, true⟩)]

/-- An arrival of a rule's opcode and of another, with a tag free and with none; ageing on and off; a grant for its tag and for one that
has moved on; a dispatch of a LAND head and of one no member can ever take; a record written; the data requests. -/
theorem test_witness_IntakeAdmission :
    ((intake id []).cmdReady = true ∧ ((intake id []).intake.firstFree.map (·.1)) = some 0 ∧
      ((intake id []).findPair 4 9).isSome = false ∧ ((tag7 (tg 4 id) id).findPair 4 9).isSome = true ∧
      ∀ p ∈ [(1, true), (2, false)],
        ((intake id []).newTag Tag.free (leBytes (p.1 + 2 ^ 16 * 9) 64) 2 4 true 1 200).land = p.2) ∧
    (intake (fun i => { i with fresh := 65536 }) []).cmdReady = false ∧
    (∀ a ∈ [0, 1], let b := intake (fun i => { i with admQ := [7], tags := [(7, tg 1 fun x => { x with cls := 7 })] }) [(R.INT_CTRL_AGE, a)]
      b.admHead 7 = some 7 ∧ b.get R.INT_CTRL_AGE = a ∧ b.admHead 6 = none) ∧
    (∀ v ∈ [4, 5], let b : Block := { tag7 (tg 1 id) fun i => { i with admQ := [7] } with kettle := { Kettle.reset with grant := some (7, v, 99) } }
      b.kettle.grant = some (7, v, 99) ∧ b.intake.warned = false ∧ (b.tag 7).st = 1 ∧ decide ((b.tag 7).tseq = v) = decide (v = 5)) ∧
    (let b := tag7 (tg 2 fun x => { x with attr := 1 }) fun i => { i with dispQ := [7], lastMember := [(0, 3)] };
      b.get R.INT_CTRL_HOLD = 0 ∧ b.intake.warned = false ∧ b.groupHead 0 = some 7 ∧ (∀ j ∈ [1, 2, 3, 4, 5, 6, 7], b.groupHead j = none) ∧
      b.refusal 0 (b.tag 7) = none ∧ b.chooseMember 0 (b.tag 7) = some 5 ∧ (b.tag 7).st = 2) ∧
    (let b := tag7 (tg 2 fun x => { x with attr := 1, len := 500000 }) fun i => { i with dispQ := [7] };
      b.get R.INT_CTRL_HOLD = 0 ∧ b.intake.warned = false ∧ b.groupHead 0 = some 7 ∧ (b.refusal 0 (b.tag 7)).isSome = true) ∧
    (intake id [(R.INT_CTRL_HOLD, 1)]).get R.INT_CTRL_HOLD ≠ 0 ∧
    (let b := tag7 (tg 3 fun x => { x with attr := 1 }) fun i => { i with recs := [(recKey 3 63, ⟨7, 5, 0, [], false, false, none, true⟩)] };
      b.intake.recs.look (recKey 3 63) = some ⟨7, 5, 0, [], false, false, none, true⟩ ∧ Serves b) ∧
    ((recs2.look (recKey 2 1)).map (·.visible)) = some true ∧
    (∀ p ∈ [(3, 5), (4, 5), (3, 4)], let b := tag7 (tg p.1 id) fun i => { i with drqQ := [.transfer 7 p.2] }
      b.intake.drqQ = .transfer 7 p.2 :: [] ∧ b.intake.warned = false ∧ (b.tag 7).st = p.1 ∧ (b.tag 7).tseq = 5) ∧
    (tag7 (tg 4 id) fun i => { i with drqQ := [.refetch 7 64 3 6] }).intake.drqQ = .refetch 7 64 3 6 :: [] := by
  unfold Serves; and_intros <;> decide +kernel

/-- Tag 7 with a strobe of engine 3 and the records of its logical engine. -/
def asked7 (x : Tag) (op a b : Nat) (tenant : Bool) : Block :=
  { tag7 x fun i => { i with recs := recs2 } with strobes := [strobe op a b tenant] }

/-- A landing beat at a tag's last line, for a tag past landing and for one that aborts; a refetched line; the last beat held and not. -/
theorem test_witness_IntakeLanding :
    (tag7 (tg 3 id) fun i => { i with warned := true }).intake.warned = true ∧
    (let b := tag7 (tg 3 id) id; let x := b.tag 7;
      b.intake.warned = false ∧ b.intake.refetch = [] ∧ x.st = 3 ∧ 192 + 64 ≤ 64 * linesOf x.len ∧ b.target (x.stage + 192) = .carafe 3 ∧
        b.bankOn 3 = true ∧ b.target (x.wbuf + 192) = .dram (x.wbuf + 192 - dramBase) ∧ (x.stage + 192) % 2 ^ 20 + 64 ≤ 2 ^ 20) ∧
    ((tag7 (tg 4 id) id).tag 7).st = 4 ∧ ((tag7 (tg 6 id) id).tag 7).st = 6 ∧
    (∀ k ∈ [3, 4], let b := tag7 (tg k id) fun i => { i with refetch := [(7, 64, 3, 5)] }
      b.mem.wf = true ∧ b.intake.warned = false ∧ (b.tag 7).st = k ∧
        (b.intake.refetch.filter fun r => r.1 == 7 && r.2.1 == 64) = [(7, 64, 3, 5)]) ∧
    (∀ p ∈ [(0, false), (7, true)], let x := (tag7 (tg 3 fun x => { x with dreq := true, rx := 200, attr := p.1 }) id).tag 7
      x.st = 3 ∧ x.len ≤ x.rx ∧ x.dreq = true ∧ x.autocpl = p.2) ∧
    (let x := (tag7 (tg 3 fun x => { x with dreq := true, rx := 199 }) id).tag 7; x.rx < x.len) := by
  and_intros <;> decide +kernel

/-- TAKE and RETAKE with a record and without one; LANDED and COMPLETE for an allocation, a stale one, an aborted tag, a decided one and one
that still lands; ABORT of a tag that can be caught, of one that cannot and of none; RELEASE of each kind of slot; each operation from
Tenant. -/
theorem test_witness_IntakeOperations :
    (∀ o ∈ [0x40, 0x41, 0x42, 0x43, 0x44], ∀ t ∈ [false, true],
      (asked7 (tg 3 id) o 7 5 t).strobeOf 3 o = some (strobe o 7 5 t) ∧ (strobe o 7 5 t).tenant = t) ∧
    (let b := asked7 (tg 3 id) 0x40 0 0 false; let w := fun (p : Nat × Rec) => p.1 / 64 = 2 ∧ p.2.visible = true ∧ p.2.taken = false;
      b.strobeLe (strobe 0x40 0 0 false) = 2 ∧ (recKey 2 4, ⟨7, 5, 1, [], true, false, none, true⟩) ∈ b.intake.recs ∧
      w (recKey 2 4, ⟨7, 5, 1, [], true, false, none, true⟩) ∧ ∀ p ∈ b.intake.recs, w p → p = (recKey 2 4, ⟨7, 5, 1, [], true, false, none, true⟩) ∨ 1 < p.2.order) ∧
    (∀ p ∈ (tag7 (tg 3 id) id).intake.recs, ¬(p.1 / 64 = 2)) ∧
    (let b := asked7 (tg 3 id) 0x40 0 1 false;
      (strobe 0x40 0 1 false).b.getLsbD 0 = true ∧ (∀ i ∈ [0, 5], (b.intake.recs.look (recKey 2 i)).any (·.taken) = true) ∧
      (∀ i ∈ List.range 64, i ≠ 0 → i ≠ 5 → (b.intake.recs.look (recKey 2 i)).any (·.taken) = false)) ∧
    (∀ p ∈ ([(3, id, 5, true), (3, id, 4, false)] : List (Nat × (Tag → Tag) × Nat × Bool)),
      decide ((tg p.1 p.2.1).tseq = p.2.2.1 ∧ (tg p.1 p.2.1).tseq ≠ 0) = p.2.2.2) ∧
    ((tg 6 id).st = 6 ∧ (tg 7 fun x => { x with decided := true, status := 3 }).status % 2 ^ 11 ≠ 0 ∧
      (tg 7 fun x => { x with decided := true, lost := true }).lost = true) ∧
    (∀ k ∈ [4, 5], (tg k id).st = k ∧ (tg k id).decided = false) ∧
    (let q := strobe 0x43 (9 + 4 * 2 ^ 16) 0 false; (asked7 (tg 3 id) 0x43 (9 + 4 * 2 ^ 16) 0 false).findPair (q.a.toNat / 2 ^ 16 % 2 ^ 16) (q.a.toNat % 2 ^ 16) = some 7) ∧
    (tg 3 fun x => { x with dreq := true }).catchable = true ∧ (tg 6 id).catchable = false ∧
    (asked7 (tg 3 id) 0x43 (9 + 3 * 2 ^ 16) 0 false).findPair 3 9 = none ∧
    (recs2.look (recKey 2 63) = none ∧ (recs2.look (recKey 2 1)).any (·.taken) = false ∧ recs2.look (recKey 2 5) = some ⟨7, 5, 4, [], true, true, none, true⟩ ∧
      recs2.look (recKey 2 0) = some ⟨7, 5, 3, [], true, true, some (4, 9), true⟩) := by
  and_intros <;> decide +kernel

/-- A completion to post and none; a flush that is due; a controller reset with tags to catch, one that is over and one that is not; a second
source still staged and one that is gone; a write buffer release. -/
theorem test_witness_IntakeTags :
    (let b := tag7 (tg 7 id) fun i => { i with postQ := [7] };
      b.intake.postQ = 7 :: [] ∧ b.intake.warned = false ∧ b.kettle.warnFabric = false ∧ 7 ∉ b.intake.retiring) ∧
    (tag7 (tg 7 id) id).intake.postQ = [] ∧
    (let b := intake (fun i => { i with tags := [(7, tg 5 fun x => { x with attr := 8, ftarget := 0 })] }) [];
      ∀ p ∈ b.intake.tags, p.2.st = 5 ∧ p.2.flush = true ∧ 0 < toSigned (b.dhor + 2 ^ 32 - p.2.ftarget) 32) ∧
    (tag7 (tg 3 id) id).get R.INT_STAT_RSTACT = 0 ∧
    (∀ k ∈ [0, 3], let b := intake (fun i => { i with tags := [(7, tg k id)] }) [(R.INT_STAT_RSTACT, 1)]
      b.get R.INT_STAT_RSTACT ≠ 0 ∧ b.intake.refetch = [] ∧ decide (∀ p ∈ b.intake.tags, p.2.st = 0) = decide (k = 0)) ∧
    (∀ k ∈ [2, 3], let b0 := tag7 (tg k fun x => { x with attr := 1 }) id
      let b := b0.setBank 3 { b0.bankAt 3 with repair := [(5, true)], src := [(5, 0x101)] }
      (((b.bankAt 3).repair.find? (·.2)).map (·.1)) = some 5 ∧ (b.bankAt 3).src.look 5 = some 0x101 ∧ b.intake.drqQ = [] ∧ b.intake.refetch = [] ∧
        ((b.intake.tags.filter fun p => (p.2.st == 3 || p.2.st == 4) && p.2.land && decide (p.2.wbuf ≤ dramBase + 64 * 0x101) &&
          decide (dramBase + 64 * 0x101 < p.2.wbuf + p.2.len)).head?.map (·.1)) = if k = 3 then some 7 else none) ∧
    (let b := (tag7 (tg 3 id) id).setBank 3 { (tag7 (tg 3 id) id).bankAt 3 with repair := [(5, true)] };
      (((b.bankAt 3).repair.find? (·.2)).map (·.1)) = some 5 ∧ (b.bankAt 3).src.look 5 = none) ∧
    (tag7 (tg 3 id) fun i => { i with wbRel := [(5, 1)] }).intake.wbRel = (5, 1) :: [] := by
  and_intros <;> decide +kernel

/-- The Kettle enabled, with 100 reserved. -/
def kettle (f : Kettle → Kettle) (l : List (Fld × Nat)) : Block :=
  let b := fresh ([(R.KET_CTRL_EN, 1), (R.KET_RESV_RESV, 100)] ++ l)
  { b with kettle := f b.kettle }

/-- A request that fits exactly and one that is 1 too large, while a deficit stands; what is returned at a cycle; the strobes at the limit and
past it, closed and with the warning, and from Tenant; a stall to tell the Brew Head of and none; TESTPF before and after the warning. -/
theorem test_witness_KettleEnergy :
    (∀ p ∈ [(199, 0, false), (200, 0, true), (200, 1, false)],
      let b := kettle (fun k => { k with budget := p.1, req := some ⟨7, 5, 0, some 100⟩ }) [(R.KET_STAT_DEFICIT, p.2.1)]
      b.strobes = [] ∧ b.kettle.usable = [] ∧ b.kettle.req = some ⟨7, 5, 0, some 100⟩ ∧
        decide ((b.get R.KET_CTRL_EN ≠ 0 ∧ b.get R.KET_STAT_PFWARN = 0 ∧ b.get R.KET_STAT_DEFICIT = 0) ∧ b.get R.KET_RESV_RESV + 100 ≤ b.kettle.budget) = p.2.2) ∧
    (let b := kettle (fun k => { k with usable := [.release 100] }) []; b.kettle.usable = [.release 100] ∧ b.kettle.req = none) ∧
    (let b := kettle (fun k => { k with usable := [.withdraw 7 5], req := some ⟨7, 5, 100, none⟩ }) [(R.INT_CTRL_HOLD, 1)];
      b.kettle.usable = [.withdraw 7 5] ∧ b.kettle.req = some ⟨7, 5, 100, none⟩ ∧ b.get R.INT_CTRL_HOLD ≠ 0) ∧
    (kettle (fun k => { k with moving := [.release 5] }) []).kettle.moving = .release 5 :: [] ∧ (kettle id []).kettle.moving = [] ∧
    (∀ o ∈ [0x80, 0x81, 0x82], ∀ t ∈ [false, true],
      let b : Block := { kettle (fun k => { k with budget := 200 }) [] with strobes := [strobe o 100 0 t] }
      b.strobeOf 3 o = some (strobe o 100 0 t) ∧ (strobe o 100 0 t).tenant = t ∧ b.get R.KET_RESV_RESV + 100 ≤ b.kettle.budget ∧
        100 ≤ b.get R.KET_RESV_RESV ∧ b.kettle.budget < b.get R.KET_RESV_RESV + 101 ∧ b.get R.KET_RESV_RESV < 101) ∧
    (∀ a ∈ [100, 101], ∀ l ∈ [[], [(R.KET_STAT_PFWARN, 1)], [(R.KET_RESV_RESV, 201)]],
      let b : Block := { kettle (fun k => { k with budget := 200 }) l with strobes := [strobe 0x80 a 0 false] }
      let y := b.ketCycle 3
      (b.strobeOf 3 0x80).isSome = true ∧ y.strobeOf 3 0x80 = some (strobe 0x80 a 0 false) ∧ y.get R.KET_CTRL_EN ≠ 0 ∧
        (y.get R.KET_STAT_PFWARN = 0 ∨ l = [(R.KET_STAT_PFWARN, 1)]) ∧ (y.get R.KET_RESV_RESV ≤ 200 ∨ l = [(R.KET_RESV_RESV, 201)]) ∧
        b.kettle.usable = [] ∧ b.kettle.req = none ∧ ∀ p ∈ b.strobes, p.pe = 3 ∧ p.op ≠ 0x81) ∧
    (kettle id [(R.KET_STAT_PFWARN, 1)]).get R.KET_STAT_PFWARN ≠ 0 ∧ (kettle id [(R.KET_CTRL_EN, 0)]).get R.KET_CTRL_EN = 0 ∧
    (∀ u ∈ [0, 1], let b := kettle (fun k => { k with req := some ⟨7, 5, 100, none⟩ }) [(R.KET_THRT_US, u)]
      b.kettle.req ≠ none ∧ decide (b.get R.KET_THRT_US ≠ 0) = decide (u = 1)) ∧
    (kettle id []).get R.KET_STAT_PFWARN = 0 ∧
    (let b := kettle (fun k => { k with low := 1 }) [(R.KET_PF_PFN, 1), (R.KET_PF_PFV, 9000)];
      b.get R.KET_STAT_PFWARN = 0 ∧ 8999 < b.get R.KET_PF_PFV ∧ b.get R.KET_PF_PFN ≤ b.kettle.low) := by
  and_intros <;> decide +kernel
end Sys2Proof.Machine.Tests
end

