-- ==== Sys2Proof/Tests/Witness7.lean ====
section
/-! SUPPORT. States that meet the premises of the statements about the Carafe banks and the Ring Port. -/
namespace Sys2Proof.Machine.Tests
set_option Elab.async false
open Sys2Proof Sys2Proof.Machine

/-- Bank 3 ON with the registers set. -/
def carafe (f : Bank → Bank) (l : List (Fld × Nat)) : Block :=
  let b := fresh ([(R.CB_STAT_PSTATE 3, 2)] ++ l)
  b.setBank 3 (f (b.bankAt 3))

/-- A request to bank 3. -/
def asks (rq : Nat) (k : ReqKind) (line n age : Nat) (r : Reply) : Req :=
  ⟨rq, k, 0x300000 + 64 * line, n, if k = .write then List.replicate n 7 else [], 0, r, 0, age, 4, false, 1⟩

/-- A request picked by age, by ownership and by rotation; none that can be served; a line with a second source and one without; the scrub at
its last line, at a line seen before, and off; a repair that lands and none; initialisation; the counters' register. -/
theorem test_witness_CarafeBanks :
    (∀ p ∈ [([asks 40 .read 5 64 16 .word, asks 5 .read 0 8 15 .word], asks 40 .read 5 64 16 .word, false),
        ([asks 0 .write 5 64 0 .none, asks 9 .read 0 8 0 .word], asks 0 .write 5 64 0 .none, false),
        ([asks 6 .read 0 8 0 .word, asks 9 .read 5 8 0 .word], asks 9 .read 5 8 0 .word, true)],
      let b := carafe (fun c => { c with waiting := p.1, ownerPE := 0 }) [(R.CB_ARB_LASTRQ 3, 7)]
      b.mem.wf = true ∧ b.bankPick 3 = some (p.2.1, p.2.2) ∧ p.2.1.addr / 2 ^ 20 = 3 ∧
        (∀ x ∈ p.2.1.spans, (b.bankAt 3).bad.get x.1 0 = 0) ∧ (b.bankAt 3).src.look p.2.1.line = none) ∧
    ((carafe id []).bankPick 3 = none ∧ firstsOf [] ((carafe id []).bankAt 3).waiting = []) ∧
    (let b := carafe (fun c => { c with waiting := [asks 9 .read 5 8 0 .word], repair := [(5, false)] }) []; b.bankPick 3 = none) ∧
    (let b := carafe (fun c => { c with waiting := [asks 9 .read 5 8 0 .word], src := [(5, 6)] }) [];
      b.bankPick 3 = some (asks 9 .read 5 8 0 .word, true) ∧
        (b.bankAt 3).src.look (asks 9 .read 5 8 0 .word).line = some 6) ∧
    (∀ n ∈ [0x3FFE, 0x3FFF, 0x4000, 0x403F], ∀ l ∈ [[], [(n, 6)]],
      let b := carafe (fun c => { c with seen := [0x3FFE], src := l, spare := [(7, 0)] }) [(R.CB_SCRUB_NEXT 3, n)]
      b.get (R.CB_STAT_PSTATE 3) = 2 ∧ b.get (R.CB_SCRUB_NEXT 3) = n ∧ (b.bankAt 3).waiting = [] ∧
        ((b.bankAt 3).src.look n).isSome = !l.isEmpty ∧ (b.bankAt 3).seen.contains n = (n == 0x3FFE) ∧
        b.rowLine 3 n = if n < 0x4000 then some n else if n = 0x4000 then some 7 else none) ∧
    (∀ a ∈ [none, some 15, some 16], let b := carafe (fun c => { c with waiting := [asks 9 .read 5 8 0 .word], scrubAge := a }) []
      b.get (R.CB_STAT_PSTATE 3) = 2 ∧ (∃ q ∈ (b.bankAt 3).waiting, q.place ≠ 0) ∧
        decide (16 ≤ (b.bankAt 3).scrubAge.getD 0) = decide (a = some 16)) ∧
    (carafe id [(R.CB_STAT_PSTATE 3, 1)]).get (R.CB_STAT_PSTATE 3) ≠ 2 ∧
    (∀ l ∈ [[], [(5, 6)]], ∀ d ∈ [1, 254, 255], let b := carafe (fun c => { c with repair := [(5, false)], src := l, bad := [(5, d)] }) []
      (((b.bankAt 3).repair.find? fun r => r.2 == false).map (·.1)) = some 5 ∧ ((b.bankAt 3).src.look 5).isSome = !l.isEmpty ∧
        (b.bankAt 3).bad.get 5 0 = d) ∧
    ((carafe id []).bankAt 3).repair = [] ∧
    (carafe id [(R.CB_STAT_INIT 3, 1)]).get (R.CB_STAT_INIT 3) ≠ 0 ∧ (carafe id []).winOff (R.CB_CTRL_CLRCNT 3).off = false := by
  and_intros <;> decide +kernel

/-- A unit of 100 bytes to spill on link 2. -/
def spill2 : SpillDesc := ⟨2, 100, 0x300000, 9, 3, 1, 77, 4, 5⟩

/-- The Ring Port enabled with link 2 configured. -/
def ring (f : RingPort → RingPort) (l : List (Fld × Nat)) : Block :=
  let b := fresh ([(R.CB_STAT_PSTATE 0, 2), (R.CB_STAT_PSTATE 3, 2), (R.INTEG_OPT_RING, 1), (R.LINK_CFG_EN 2, 1), (R.RING_CTRL_EN, 1),
    (R.RING_CTRL_CENSEN, 1), (R.RING_CENSUS_US, 1), (R.RING_EQTAIL_INDEX, 1023), (R.RING_EQHEAD_INDEX, 1000), (R.RING_CRBUF_LO_ADDR, 0x60),
    (R.RING_RTTMAX_NS, 6000)] ++ l)
  { b with rport := f b.rport }

/-- Link 2 up and this device named. -/
def linked2 : List (Fld × Nat) := [(R.LINK_STAT_STATE 2, 2), (R.RING_ME_ID, 5), (R.RING_STAT_UP, 4)]

/-- A census of an age and of hops. -/
def census (age hops : Nat) : List Byte := leBytes (2 ^ 8 * hops + 2 ^ 128 * age) 64

/-- A link that can come up, one that is up; a census that is sent, one that is passed on and those too old or too far; room for one more
credit and none, and its sizes; submissions that fit and one too many; a unit its credit holds and one it does not; no credit; a spill in
flight and none; a credit offered for a unit that arrives, before and after the warning. -/
theorem test_witness_RingPort :
    ((ring id []).ringOn = true ∧ (ring id []).get (R.LINK_CFG_EN 2) ≠ 0 ∧ (ring id []).linkUp 2 = false) ∧
    (let b := ring id linked2;
      b.mem.wf = true ∧ b.still ∧ b.linkUp 2 = true ∧ (b.get R.RING_ME_ID != 0xFFFF) = true ∧ b.ringOn = true ∧
        b.get R.RING_CTRL_CENSEN ≠ 0 ∧ b.get R.RING_CENSUS_US ≠ 0 ∧ 320 < 1024 - b.eqUsed) ∧
    (∀ p ∈ [(3000, 253, true), (3001, 253, false), (3000, 254, false)],
      let b := ring id linked2
      let age := leNat (((census p.1 p.2.1).drop 0x10).take 4) + (b.get (R.LINK_RTT_LAST 2) + 1) / 2
      let hops := leNat (((census p.1 p.2.1).drop 1).take 1) + 1
      decide (2 * age ≤ b.get R.RING_RTTMAX_NS ∧ hops < 255) = p.2.2) ∧
    (∀ p ∈ [(15, true), (16, false)],
      let b := ring (fun r => { r with offered := [(2, List.replicate p.1 (0, 0, 1))], held := [(2, List.replicate p.1 1)] }) linked2
      decide ((b.offered 2).length < 16) = p.2 ∧ decide ((b.creds 2).length < 16) = p.2 ∧ b.get R.RING_CTRL_EN ≠ 0) ∧
    (ring id [(R.RING_CTRL_EN, 0)]).get R.RING_CTRL_EN = 0 ∧
    ((ring id []).sqWait + 256 ≤ 256 ∧ 256 < (ring id []).sqWait + 257) ∧
    (∀ c ∈ [0, 1], let b := ring (fun r => { r with waiting := [spill2], held := [(2, [c])] }) linked2
      b.spillHead 2 = some spill2 ∧ b.creds 2 = c :: [] ∧ b.rport.warned = false ∧ decide (spill2.blen ≤ c * 2 ^ 16) = decide (c = 1) ∧
        b.reachable spill2.buf spill2.blen = true ∧ b.target spill2.buf = .carafe 3 ∧ b.rport.due = 0 ∧ (b.bankAt 3).src.look (spill2.buf / 64 % 2 ^ 14) = none) ∧
    (let b := ring (fun r => { r with waiting := [spill2] }) linked2; b.spillHead 2 = some spill2 ∧ b.creds 2 = []) ∧
    (ring id linked2).spillHead 2 = none ∧ (ring id (linked2 ++ [(R.CB_STAT_PSTATE 3, 0)])).reachable spill2.buf spill2.blen = false ∧
    ((ring (fun r => { r with flight := [spill2] }) linked2).rport.flight.find? (·.link == 2)) = some spill2 ∧
    (ring id linked2).rport.flight = [] ∧
    (∀ w ∈ [false, true], let b := ring (fun r => { r with offered := [(2, [(0x300000, 4, 1)])], warned := w }) linked2
      b.offered 2 = (0x300000, 4, 1) :: [] ∧ b.rport.warned = w ∧ b.reachable 0x300000 3 = true ∧
        b.getAddr R.RING_EQ_LO_ADDR R.RING_EQ_HI_ADDR + 128 * b.get R.RING_EQTAIL_INDEX + 128 ≤ 0x300000) := by
  unfold Block.still
  and_intros <;> decide +kernel
end Sys2Proof.Machine.Tests
end

