-- ==== Sys2Proof/Tests/Witness8.lean ====
section
/-! SUPPORT. States that meet the premises of the statements about loading, digests, activation and the control stores' rows. -/
namespace Sys2Proof.Machine.Tests
set_option Elab.async false
open Sys2Proof Sys2Proof.Machine

/-- An image header of two sections with seven words, 168 bytes (R183). -/
def header : List Byte :=
  leBytes 0x474D4942 4 ++ leBytes 3 2 ++ leBytes 2 2 ++ leBytes 424 4 ++ leBytes 0x0F1A0072 4 ++ leBytes 0x3452 4 ++ leBytes 1 4 ++
    leBytes 77 8 ++ List.replicate 96 0 ++ leBytes 5 2 ++ leBytes 3 2 ++ leBytes 0 4 ++ leBytes 100 2 ++ leBytes 4 2 ++
    List.replicate 116 0

/-- Bank 3 ON, a manifest stamped, every clock locked, and the image at 0x300000 half read. -/
def loading (x : Option ImgRead) (l : List (Fld × Nat)) : Block :=
  let b := fresh ([(R.CB_STAT_PSTATE 3, 2), (R.LDR_IMGADDR_LO_ADDR, 0x300000), (R.LDR_STAT_MVALID, 1)] ++ l)
  { b with spm := { b.spm with img := x, locked := true } }

/-- The image being read is the one given. -/
theorem test_witness_ImageRead : ∀ x l, (loading (some x) l).spm.img = some x := fun _ _ => rfl

/-- The root of trust while a check runs and while none does; a load that can start and those that cannot; a read's first and second error; the
two halves of a header, sound and not; the words that follow it, whole, broken and last; the digest's answer. -/
theorem test_witness_ImageLoading :
    (∀ p ∈ [(0, false), (1, true), (3, true), (4, false)], let b := loading none [(R.LDR_STAT_PHASE, p.1)]
      decide (b.get R.LDR_STAT_PHASE = 1 ∨ b.get R.LDR_STAT_PHASE = 2 ∨ b.get R.LDR_STAT_PHASE = 3 ∨ b.get R.ACT_STAT_PHASE = 1) = p.2) ∧
    (let b := loading none [];
      b.mem.wf = true ∧ b.still ∧ b.get R.LDR_STAT_PHASE = 0 ∧ b.get R.LDR_STAT_MVALID ≠ 0 ∧ b.spm.locked = true) ∧
    ((fresh []).spm.locked = false ∧ (fresh []).get R.LDR_STAT_MVALID = 0) ∧
    (∀ x ∈ ([⟨none, 0, [], [], false⟩, ⟨none, 0, [], [], true⟩, ⟨none, 128, header.take 128, [], false⟩,
        ⟨none, 128, header.take 127 ++ [1], [], false⟩, ⟨none, 256, header, [], false⟩, ⟨none, 384, header, List.replicate 8 0, false⟩] : List ImgRead),
      let b := loading (some x) [(R.LDR_STAT_PHASE, 2)]
      let k := if x.got < 256 then 128 else min 128 (imgLen x.hdr - x.got)
      x.dst = none ∧ k ≠ 0 ∧ b.reachable (0x300000 + x.got) k = true ∧ b.target (0x300000 + x.got) = .carafe 3 ∧
        (b.bankAt 3).src.look ((0x300000 + x.got) / 64 % 2 ^ 14) = none ∧ (x.got = 256 → headerOk x.hdr = true ∧ x.got = 256 + 24 * 0 + x.part.length) ∧
        (x.got = 384 → headerOk x.hdr = true ∧ x.got = 256 + 24 * 5 + x.part.length ∧ x.part.length < 24 ∧ x.got + k = imgLen x.hdr)) ∧
    headerOk (header.take 128 ++ header.drop 128) = true ∧ headerOk (header.take 127 ++ [1] ++ header.drop 128) = false ∧
    (loading (some ⟨none, 0, [], [], false⟩) [(R.LDR_IMGADDR_LO_ADDR, 0x400000)]).reachable 0x400000 128 = false ∧
    (let b := loading (some ⟨none, 424, header, [], false⟩) [(R.LDR_STAT_PHASE, 3)];
      b.get R.LDR_STAT_PHASE = 3) := by
  unfold Block.still
  and_intros <;> decide +kernel

/-- Logical engine 9 asks for a digest with the block at 0x300000, of the operation, flags, context and length. -/
def digesting (op flags ctx len : Nat) (dg : Tab DgCtx) : Block :=
  { bytesAt 0x300000 (leBytes op 1 ++ leBytes flags 1 ++ [7] ++ leBytes ctx 1 ++ leBytes len 4 ++ leBytes 0x310000 8 ++ leBytes 0x320000 8)
    (fresh [(R.CB_STAT_PSTATE 3, 2)]) with dg := dg, digQ := [(9, 0x300000)] }

/-- A bad block, first or not; a context its engine does not hold; the first part with contexts free and with none; a part in the last
context; a part with LAST, compared or written back; an empty one; a source out of reach; the answers to come. -/
theorem test_witness_DigestRequests :
    (∀ p ∈ [(2, 0, 5, 128, false), (2, 1, 5, 128, false), (1, 0, 5, 128, true), (1, 1, 0, 128, true), (1, 1, 0, 0, true), (1, 3, 0, 100, true),
        (1, 7, 0, 100, true), (1, 2, 7, 5, true)],
      let b := digesting p.1 p.2.1 p.2.2.1 p.2.2.2.1 [(7, ⟨some 9, none⟩)]
      b.mem.wf = true ∧ b.still ∧ b.digQ = (9, 0x300000) :: [] ∧ digestOk (b.mem.bytes 0x300000 64) = p.2.2.2.2 ∧
        b.reachable 0x300000 64 = true ∧ b.reachable 0x300018 1 = true ∧ b.reachable 0x300003 1 = true ∧ 
        b.spm.act = none ∧ b.dg.look 5 = none ∧ b.dg.look 1 = none ∧ b.dg.look 7 = some ⟨some 9, none⟩ ∧
        b.reachable 0x310000 128 = true ∧ b.reachable 0x320000 48 = true) ∧
    (digesting 1 1 0 128 []).reachable 0x400000 128 = false ∧
    (let b := digesting 1 1 0 128 ((List.range 7).map fun i => (i + 1, ⟨some 8, none⟩));
      (∀ j < 8, 1 ≤ j → b.dg.look j ≠ none) ∧ (b.mem.read (0x300000 + 1)).getLsbD 0 = true) ∧
    (fresh []).digQ = [] ∧
    (∀ c ∈ [false, true], let b : Block := { digesting 1 3 7 0 [(7, ⟨some 9, some (0x300000, 0x2FFFE8, c, true, 7)⟩)] with digQ := [] }
      b.spm.act = none ∧ b.reachable 0x300018 1 = true ∧ b.dg.look 7 = some ⟨some 9, some (0x300000, 0x2FFFE8, c, true, 7)⟩ ∧
        0x2FFFE8 + 48 ≤ 0x300000 + 0x18) ∧
    (fresh []).dg.look 7 = none := by
  unfold Block.still
  and_intros <;> decide +kernel

end Sys2Proof.Machine.Tests
end

