-- ==== Sys2Proof/Tests/Witness9.lean ====
section
/-! SUPPORT. States that meet the premises of the statements about activation and the control stores' rows. -/
namespace Sys2Proof.Machine.Tests
set_option Elab.async false
open Sys2Proof Sys2Proof.Machine

/-- Clusters 0 and 7 as a load leaves them, all other logical engines STOPPED there, the new image in the stores of `nw`. -/
def active (f : Spm → Spm) (nw : List Nat) (l : List (Fld × Nat)) : Block :=
  let b := fresh (((List.range 9 ++ (List.range 9).map (· + 63)).flatMap fun n =>
    [(R.peState n, if n % 9 = 8 then 2 else 1), (R.ENG_ID_RUN n, if n % 9 = 8 then 0 else 1), (R.ENG_CSSTAT_IMGST n, 2)]) ++
    [(R.LDR_STAT_MVALID, 1), (R.ACT_STAT_PHASE, 2)] ++ l)
  nw.foldl (fun b n => b.modEngine n fun e => { e with csDigest := some [9] }) { b with spm := f b.spm }

/-- An activation that rolls, its image verified on engine 8. -/
def roll (f : Act → Act) (s : Spm) : Spm := { s with act := some (f ⟨false, 8, none, [9], none, none, false, false⟩) }

/-- A START while one runs, without a manifest, with P0 to P3 not empty, without an engine, and one that is able, with contexts free and
not; a Roll with no free engine, with one to copy to, with one that is ready, with every engine done, in the last cluster and before it;
one in place, frozen and not; faulted and aborted. -/
theorem test_witness_Activation :
    (let b := active (roll id) [] []; b.drips = false ∧ b.spm.act ≠ none ∧ b.spm.move = none ∧ b.spm.copies = [] ∧ b.get R.ACT_STAT_PHASE ≠ 1) ∧
    (let b := active id [] []; b.drips = false ∧ b.spm.act = none ∧ b.get R.LDR_STAT_MVALID ≠ 0 ∧ b.percEmpty % 16 = 15 ∧
      (b.get (R.peState 8) = 2 ∧ ∀ m < 8, ¬(b.get (R.peState m) = 2 ∨ b.get (R.peState m) = 0)) ∧ b.dg.look 1 = none) ∧
    (active id [] [(R.LDR_STAT_MVALID, 0)]).get R.LDR_STAT_MVALID = 0 ∧ (active id [] [(R.MP_STAT_JSTALL, 1)]).percEmpty % 16 ≠ 15 ∧
    (let b := fresh ((List.range 72).map fun i => (R.peState i, 1));
      ∀ m < 72, ¬(b.get (R.peState m) = 2 ∨ b.get (R.peState m) = 0)) ∧
    (active id [] [(R.PWR_STAT_DRIP, 1)]).drips = true ∧
    (let b := active (roll id) [8] []; let F := fun m => m < 72 ∧ m / 9 = b.get R.ACT_STAT_CLUSTER ∧ b.get (R.peState m) = 2;
      F 8 ∧ (b.get (R.ENG_CSSTAT_IMGST 8) = 2 ∧ (b.engine 8).csDigest = some [9])) ∧
    (let b := active (roll id) [0] []; let N := fun m => b.get (R.ENG_CSSTAT_IMGST m) = 2 ∧ (b.engine m).csDigest = some [9];
      b.get (R.peState 8) = 2 ∧ b.get (R.ENG_CSSTAT_IMGST 8) ≠ 1 ∧ ¬N 8 ∧ N 0 ∧ b.get (R.ENG_CSSTAT_UEPEND 0) = 0 ∧
        (b.peOf 1 / 9 = b.get R.ACT_STAT_CLUSTER ∧ b.get (R.peState (b.peOf 1)) = 1 ∧ b.get (R.ENG_ID_RUN (b.peOf 1)) ≠ 0 ∧ ¬N (b.peOf 1))) ∧
    (let b := active (roll id) [0] [(R.peState 8, 6)]; ∀ m < 9, b.get (R.peState m) ≠ 2) ∧
    (∀ c ∈ [0, 7], let b := active (roll id) ((List.range 9).map (· + 9 * c)) [(R.ACT_STAT_CLUSTER, c)]
      ∀ m < 9, b.get (R.ENG_CSSTAT_IMGST (9 * c + m)) = 2 ∧ (b.engine (9 * c + m)).csDigest = some [9]) ∧
    (∀ z ∈ [false, true], let b := (active (roll fun a => { a with inPlace := some 3 }) [0] [(R.peState 8, 6)]).modEngine 3 fun e => { e with frozen := z }
      (b.engine (b.peOf 3)).frozen = z ∧ b.spm.move = none ∧ b.spm.copies = []) ∧
    (∀ c ∈ [0, 1], let b := active (roll fun a => { a with inPlace := some 3 }) [0] [(R.ENG_DBGSTAT_CSTOP 3, c)]
      b.get (R.ENG_DBGSTAT_CSTOP (b.peOf 3)) = c ∧ (b.engine (b.peOf 3)).frozen = false ∧ b.spm.move = none) ∧
    ((roll (fun a => { a with faulted := true }) (active id [] []).spm).act.any (·.faulted) = true) ∧
    (let b := active (roll fun a => { a with step := some 3 }) [8] [];
      b.spm.move = none ∧ b.spm.hwQ = [] ∧ (∀ m < 72, b.get (R.peWorn m) = 0) ∧ b.leState 3 = 0 ∧ b.get (R.peState (b.peOf 3)) = 1 ∧ b.peOf 3 < 72 ∧
        (8 / 9 = b.peOf 3 / 9 ∧ b.get (R.peState 8) = 2 ∧ b.get (R.ENG_CSSTAT_IMGST 8) = 2 ∧ (b.engine 8).csDigest = some [9])) ∧
    (let b := active (roll fun a => { a with step := some 3 }) [] [];
      b.peOf 3 / 9 = 0 ∧ ∀ m < 72, m / 9 = 0 → b.get (R.peState m) = 2 → (b.engine m).csDigest ≠ some [9]) := by
  and_intros <;> decide +kernel

/-- A RELOAD that waits in its third phase, with a logical engine still to freeze and with none. -/
theorem test_witness_Reload :
    (∀ q ∈ [false, true], let b := (active (fun s => { roll (fun a => { a with reload := true }) s with leState := [(3, 1)] }) [8]
        [(R.ACT_STAT_PHASE, 3)]).modEngine 3 fun e => { e with freezeReq := q }
      b.leState 3 = 1 ∧ b.leState 5 = 0 ∧ (b.engine (b.peOf 3)).frozen = false ∧ (b.engine (b.peOf 3)).freezeReq = q) ∧
    ∀ z ∈ [false, true], let b := (active (fun s => { roll (fun a => { a with reload := true }) s with leState := (List.range 64).map fun i => (i, if i = 3 then 1 else 2) }) [8]
        [(R.ACT_STAT_PHASE, 3)]).modEngine 3 fun e => { e with frozen := z, freezeReq := true }
      b.spm.act.any (·.reload) = true ∧ b.get R.ACT_STAT_PHASE = 3 ∧
        (∀ l < 64, b.leState l ≠ 0) ∧ (b.engine 3).freezeReq = true ∧
        ((List.range 64).all fun l => b.leState l != 1 || (b.engine (b.peOf l)).frozen) = z := by
  decide +kernel

/-- Engine 3 with errors in its rows, engine 40 with the same image. -/
def store (e : Engine → Engine) (f : Spm → Spm) (l : List (Fld × Nat)) : Block :=
  let b := fresh ([(R.ENG_CSSTAT_IMGST 3, 2), (R.ENG_CSSTAT_IMGST 40, 2), (R.PWR_ENG_STATE 3, 2)] ++ l)
  { ((b.modEngine 3 e).modEngine 40 fun e => { e with csDigest := some [9] }) with spm := f b.spm }

/-- A copy of each use and none; a row in error and none, a spare row left, the row already moved, and none left; a store with the image and
none; the scrub at a row, at a spare row that is used and at one that is not; CLRCNT with the engine ON and off. -/
theorem test_witness_StoreRows :
    (∀ u ∈ [.roll, .move, .restore, .reload, .inPlace 3],
      (store id (fun s => { s with copies := [⟨40, 3, u⟩] }) []).spm.copies.find? (fun x => x.dst == 3) = some ⟨40, 3, u⟩) ∧
    (let b := store (fun e => { e with frozen := true }) (fun s => { s with copies := [⟨40, 3, .inPlace 3⟩] }) [];
      b.get (R.ENG_CSSTAT_IMGST 40) = 2 ∧ b.get (R.ENG_CSSTAT_UEPEND 40) = 0 ∧ b.peOf 3 = 3 ∧ (b.engine 3).frozen = true) ∧
    (∀ k ∈ [0, 2],
      let b0 := store id (fun s => { s with copies := [⟨40, 3, .roll⟩] }) [(R.ENG_CSSTAT_UEPEND 40, 1), (R.ENG_CSSTAT_IMGST 41, k)]
      let b := b0.modEngine 41 fun e => { e with csDigest := some [9] }
      b.get (R.ENG_CSSTAT_UEPEND 40) ≠ 0 ∧ (b.engine 40).csDigest = some [9] ∧ (b.engine 41).csDigest = some [9] ∧ b.get (R.ENG_CSSTAT_UEPEND 41) = 0 ∧
        b.get (R.ENG_CSSTAT_IMGST 41) = k ∧ ∀ m < 72, m ≠ 3 → m ≠ 40 → m ≠ 41 → (b.engine m).csDigest = none) ∧
    ([⟨1, 2, .roll⟩, ⟨40, 3, .reload⟩] : List Copy).find? (fun x => x.dst == 3) = some ⟨40, 3, .reload⟩ ∧
    (store id id []).spm.copies.find? (fun x => x.dst == 3) = none ∧ (store id id []).peOf 3 = 3 ∧
    ((store id id []).engine 3).csErr.look 5 = none ∧
    (∀ ue ∈ [false, true], ∀ n ∈ [63, 64],
      let b := store (fun e => { e with csErr := [(5, ue)], csDigest := some [9] }) id [(R.ENG_CSSTAT_SPUSED 3, n)]
      (b.engine 3).csErr.look 5 = some ue ∧ decide (b.get (R.ENG_CSSTAT_SPUSED 3) < 64) = decide (n = 63) ∧
        b.get (R.ENG_CSSTAT_IMGST 40) = 2 ∧ b.get (R.ENG_CSSTAT_UEPEND 40) = 0 ∧ (b.engine 3).csDigest ≠ none ∧
        (b.engine 40).csDigest = (b.engine 3).csDigest ∧ (b.engine 40).csErr.look 5 ≠ some true) ∧
    (let b := store (fun e => { e with csErr := [(5, true)], csMap := [(5, 7)], csDigest := some [8] }) id [(R.ENG_CSSTAT_SPUSED 3, 64)];
      (b.engine 3).csMap.look 5 ≠ none ∧ (b.engine 40).csDigest ≠ (b.engine 3).csDigest) ∧
    (∀ p ∈ [(8191, some 8191), (8192, some 5), (8255, none)],
      let b := store (fun e => { e with csScrub := p.1, csMap := [(5, 0)] }) id []
      let k := (b.engine 3).csScrub
      (if k < 8192 then some k else ((b.engine 3).csMap.find? fun x => x.2 == k - 8192).map (·.1)) = p.2 ∧
        b.get (R.ENG_CSSTAT_IMGST 3) = 2 ∧ ∀ x ∈ b.spm.copies, x.src ≠ 3 ∧ x.dst ≠ 3) ∧
    (store id id [(R.ENG_CSSTAT_IMGST 3, 1)]).get (R.ENG_CSSTAT_IMGST 3) ≠ 2 ∧
    (store id id []).get (R.PWR_ENG_STATE 3) = 2 ∧ (store id id [(R.PWR_ENG_STATE 3, 1)]).get (R.PWR_ENG_STATE 3) ≠ 2 := by
  and_intros <;> decide +kernel
end Sys2Proof.Machine.Tests
end

section
/-! What a step can answer (log entries 31 and 60), and from it that LC_STATE is sealed by the seal input alone, for good (R4). -/
namespace Sys2Proof.Machine

/-! ## What a command can answer -/

/-- A command that no agent can send faults, whatever the state. -/
theorem exec_of_not_wellFormed {c : Instr} (hw : c.wellFormed = false) (s : State) : exec c s = .fault .illFormed := by
  cases c with
  | registerWrite rq off v => exact if_neg (ne_true_of_eq_false hw)
  | customerOpcode n word defined => exact if_neg (ne_true_of_eq_false hw)
  | _ => cases hw

/-- Every command but SEAL_INPUT_HIGH answers through `done`, which leaves LC_STATE alone. The two commands that can be ill-formed
test that first; the meaning of each other command is an application of `done` as it stands. -/
theorem exec_eq_done {c : Instr} (hw : c.wellFormed = true) (hc : c ≠ .sealInputHigh) (s : State) :
    ∃ b, exec c s = done s b := by
  cases c with
  | sealInputHigh => exact absurd rfl hc
  | registerWrite rq off v => exact ⟨_, if_pos hw⟩
  | customerOpcode n word defined => exact ⟨_, if_pos hw⟩
  | _ => exact ⟨_, rfl⟩

/-- LC_STATE moves at no other command (R4): one that goes on is `done`, which keeps it. -/
theorem exec_next_isSealed {c : Instr} {s t : State} (hc : c ≠ .sealInputHigh) (h : exec c s = .next t) :
    t.blk.isSealed = s.blk.isSealed := by
  cases hw : c.wellFormed with
  | false =>
    rw [exec_of_not_wellFormed hw] at h
    cases h
  | true =>
    obtain ⟨b, hb⟩ := exec_eq_done hw hc s
    obtain ⟨-, hseal, -⟩ := done_keeps (hb.symm.trans h)
    exact hseal

/-- SEAL_INPUT_HIGH seals, whatever LC_STATE was (R4). -/
theorem exec_sealInputHigh_isSealed {s t : State} (h : exec .sealInputHigh s = .next t) : t.blk.isSealed = true := by
  cases h
  rfl

/-! ## What a step does to LC_STATE -/

theorem step_of_pending_cons {s : State} {c : Instr} {q : List Instr} (hp : s.pending = c :: q) :
    step s = exec c { s with pending := q } := by
  simp only [step, hp]

theorem step_of_pending_nil {s : State} (hp : s.pending = []) : step s = done s (s.blk.elapse 1) := by
  simp only [step, hp, idle]

theorem step_sealInputHigh {s t : State} {q : List Instr} (hp : s.pending = .sealInputHigh :: q) (h : step s = .next t) :
    t.blk.isSealed = true :=
  exec_sealInputHigh_isSealed ((step_of_pending_cons hp).symm.trans h)

/-- The idle step counts here too: the PERIPH tick that passes also answers through `done` (log entry 31). -/
theorem step_isSealed_of_no_seal {s t : State} (hn : ∀ q, s.pending ≠ .sealInputHigh :: q) (h : step s = .next t) :
    t.blk.isSealed = s.blk.isSealed := by
  cases hp : s.pending with
  | nil =>
    obtain ⟨-, hseal, -⟩ := done_keeps ((step_of_pending_nil hp).symm.trans h)
    exact hseal
  | cons c q =>
    have hc : c ≠ .sealInputHigh := fun e => hn q (e ▸ hp)
    exact exec_next_isSealed (s := { s with pending := q }) hc ((step_of_pending_cons hp).symm.trans h)

/-- Settles O4: a step runs SEAL_INPUT_HIGH, which seals, or it leaves LC_STATE as it was. -/
theorem sealedStays : Obligations.SealedStays := by
  unfold Obligations.SealedStays
  intro s t h
  by_cases hq : ∃ q, s.pending = .sealInputHigh :: q
  · obtain ⟨q, hp⟩ := hq
    have hseal := step_sealInputHigh hp h
    exact ⟨fun _ => hseal, fun _ _ => hseal, fun _ _ => ⟨q, hp⟩⟩
  · have hkeep := step_isSealed_of_no_seal (not_exists.mp hq) h
    refine ⟨fun hs => hkeep.trans hs, fun q hp => absurd ⟨q, hp⟩ hq, fun hs ht => ?_⟩
    rw [hkeep, hs] at ht
    cases ht

end Sys2Proof.Machine
end

section
/-! What serving memory leaves alone: no request that a bank or the DRAM Port serves, and no read of a descriptor (R336), writes a
register of an engine or of the trace control. -/
namespace Sys2Proof.Machine

/-! ## A request and its effect write no register -/

@[simp] theorem Block.post_regs (b : Block) (q : Req) : (b.post q).regs = b.regs := by
  unfold Block.post
  split <;> rfl

@[simp] theorem Block.breakBank_regs (b : Block) (k line rq : Nat) : (b.breakBank k line rq).regs = b.regs := by
  have hfold : ∀ (l : List (Nat × Nat × Nat)) (c : Block),
      (l.foldl (fun b p => b.modEngine p.1 fun e => { e with notices := e.notices ++ [p.2.2] }) c).regs = c.regs := by
    intro l
    induction l with
    | nil => exact fun _ => rfl
    | cons p l ih => exact fun c => ih _
  unfold Block.breakBank
  dsimp only
  split
  · rfl
  · exact hfold _ _

@[simp] theorem Block.touchLine_regs (b : Block) (rq a n : Nat) (src : Option Nat) :
    (b.touchLine rq a n src).regs = b.regs := by
  unfold Block.touchLine
  split
  · exact Block.breakBank_regs ..
  · rfl
  · rfl

@[simp] theorem Block.touchLines_regs (rq : Nat) (src : Option Nat) (fuel a n : Nat) (b : Block) :
    (Block.touchLines rq src fuel a n b).regs = b.regs := by
  induction fuel generalizing a n b with
  | zero => rfl
  | succ fuel ih =>
    unfold Block.touchLines
    split
    · rfl
    · rw [ih, Block.touchLine_regs]

@[simp] theorem Block.store_regs (b : Block) (rq a : Nat) (data : List Byte) (src : Option Nat) :
    (b.store rq a data src).regs = b.regs := Block.touchLines_regs ..

@[simp] theorem Block.takeLock_regs (b : Block) (rq a lock : Nat) : (b.takeLock rq a lock).regs = b.regs := by
  unfold Block.takeLock
  split <;> rfl

@[simp] theorem Block.freeLock_regs (b : Block) (rq a : Nat) : (b.freeLock rq a).regs = b.regs := by
  unfold Block.freeLock
  split <;> rfl

@[simp] theorem Block.effect_regs (b : Block) (q : Req) : (b.effect q).1.regs = b.regs := by
  cases hk : q.kind with
  | condStore =>
    simp only [Block.effect, hk]
    split
    · split <;> simp
    · rfl
  | _ => simp [Block.effect, hk]

@[simp] theorem Block.answer_regs (b : Block) (q : Req) (data : List Byte) (err : Bool) :
    (b.answer q data err).regs = b.regs := by
  unfold Block.answer
  split <;> rfl

/-! ## The registers that serving memory leaves alone -/

/-- A field of the engines' registers or of the trace control: between the banks' registers and the global counters. -/
def IsEngReg (x : Fld) : Prop := 0x40000 * 32 ≤ x.key ∧ x.key < 0x80100 * 32

/-- The engines' registers and the trace control read in `b'` as in `b`. -/
def KeepsEngRegs (b b' : Block) : Prop := ∀ x, IsEngReg x → b'.get x = b.get x

theorem KeepsEngRegs.refl (b : Block) : KeepsEngRegs b b := fun _ _ => rfl

theorem KeepsEngRegs.trans {a b c : Block} (h : KeepsEngRegs a b) (k : KeepsEngRegs b c) : KeepsEngRegs a c :=
  fun x hx => (k x hx).trans (h x hx)

theorem KeepsEngRegs.of_regs {b b' : Block} (h : b'.regs = b.regs) : KeepsEngRegs b b' := fun x _ => by
  simp only [Block.get, h]

theorem KeepsEngRegs.put {f : Fld} (hf : ¬IsEngReg f) (b : Block) (v : Nat) : KeepsEngRegs b (b.put f v) := fun x hx =>
  Block.get_put_ne _ _ _ _ fun hk => hf (by rwa [IsEngReg, ← hk])

theorem KeepsEngRegs.ite {a b b' : Block} {c : Prop} [Decidable c] (h : KeepsEngRegs a b) (h' : KeepsEngRegs a b') :
    KeepsEngRegs a (if c then b else b') := by
  split
  · exact h
  · exact h'

theorem not_isEngReg_of_lt {f : Fld} (h : f.key < 0x40000 * 32) : ¬IsEngReg f := fun hf => absurd hf.1 (Nat.not_le.mpr h)

theorem not_isEngReg_of_le {f : Fld} (h : 0x80100 * 32 ≤ f.key) : ¬IsEngReg f := fun hf => absurd hf.2 (Nat.not_lt.mpr h)

/-- The fields of bank `k` that its service writes. -/
def bankRegs (k : Nat) : List Fld :=
  [R.CB_STAT_SPUSED k, R.CB_STAT_SPFULL k, R.CB_ECCCNT_UECNT k, R.CB_ECCCNT_RFCNT k, R.CB_ECCCNT_CECNT k, R.CB_ERRADDR_DROPST k,
    R.CB_ERRADDR_REFETCHED k, R.CB_ERRADDR_REMAPPED k, R.CB_ERRADDR_UE k, R.CB_ERRADDR_LINE k, R.CB_EVT_SPFULL k, R.CB_EVT_DROPST k,
    R.CB_EVT_UNREP k, R.CB_ARB_LASTRQ k, R.CB_WAITCNT_COUNT k]

theorem bankRegs_below {k : Nat} {f : Fld} (hf : f ∈ bankRegs k) : f.key < (0x20020 + k * 0x20) * 32 := by
  simp only [bankRegs, List.mem_cons, List.not_mem_nil, or_false] at hf
  rcases hf with rfl | rfl | rfl | rfl | rfl | rfl | rfl | rfl | rfl | rfl | rfl | rfl | rfl | rfl | rfl <;>
    · simp only [Fld.key, R.CB_STAT_SPUSED, R.CB_STAT_SPFULL, R.CB_ECCCNT_UECNT, R.CB_ECCCNT_RFCNT, R.CB_ECCCNT_CECNT,
        R.CB_ERRADDR_DROPST, R.CB_ERRADDR_REFETCHED, R.CB_ERRADDR_REMAPPED, R.CB_ERRADDR_UE, R.CB_ERRADDR_LINE, R.CB_EVT_SPFULL,
        R.CB_EVT_DROPST, R.CB_EVT_UNREP, R.CB_ARB_LASTRQ, R.CB_WAITCNT_COUNT]
      omega

theorem KeepsEngRegs.putBank {a b : Block} {k : Nat} (h : KeepsEngRegs a b) (hk : k < 64) {f : Fld} (v : Nat)
    (hf : f ∈ bankRegs k := by simp [bankRegs]) : KeepsEngRegs a (b.put f v) := by
  have hb := bankRegs_below hf
  exact h.trans (.put (not_isEngReg_of_lt (by omega)) b v)

theorem not_isEngReg_gpc (i : Nat) : ¬IsEngReg (R.GPC_COUNT i) := by
  refine not_isEngReg_of_le ?_
  simp only [Fld.key, R.GPC_COUNT]
  omega

theorem countGlob_keepsEngRegs (b : Block) (code k : Nat) : KeepsEngRegs b (b.countGlob code k) := by
  unfold Block.countGlob
  split
  · refine forEach_keeps (KeepsEngRegs b) 64 _ b (.refl b) fun i c _ hc => ?_
    split
    · exact hc.trans (.put (not_isEngReg_gpc i) c _)
    · exact hc
  · exact .refl b

theorem countDram_keepsEngRegs (b : Block) (a n : Nat) (rd wr : Bool) : KeepsEngRegs b (b.countDram a n rd wr) := by
  unfold Block.countDram
  split
  · dsimp only
    cases rd <;> cases wr
    · exact .refl b
    · exact countGlob_keepsEngRegs b _ _
    · exact countGlob_keepsEngRegs b _ _
    · exact (countGlob_keepsEngRegs b _ _).trans (countGlob_keepsEngRegs _ _ _)
  · exact .refl b

/-! ## A bank's service -/

theorem target_carafe_lt {b : Block} {a k : Nat} (h : b.target a = .carafe k) : k < 64 := by
  unfold Block.target at h
  split at h
  · cases h
    omega
  · repeat' split at h
    all_goals cases h

section
variable {k : Nat} (hk : k < 64)
include hk

theorem bankErr_keepsEngRegs (b : Block) (line : Nat) (ue refetched drop : Bool) :
    KeepsEngRegs b (b.bankErr k line ue refetched drop) :=
  (((((KeepsEngRegs.refl b).putBank hk _).putBank hk _).putBank hk _).putBank hk _).putBank hk _

theorem unrepairable_keepsEngRegs (b : Block) (line : Nat) (store quiet : Bool) :
    KeepsEngRegs b (b.unrepairable k line store quiet) := by
  have hcount : KeepsEngRegs b (b.incSat (R.CB_ECCCNT_UECNT k) 1) := (KeepsEngRegs.refl b).putBank hk _
  have hevent : (if store then R.CB_EVT_DROPST k else R.CB_EVT_UNREP k) ∈ bankRegs k := by cases store <;> simp [bankRegs]
  have hraised := KeepsEngRegs.ite (c := quiet) hcount (hcount.putBank hk 1 hevent)
  exact ((((hraised.putBank hk _).putBank hk _).putBank hk _).putBank hk _).putBank hk _

theorem bankRemap_keepsEngRegs (b : Block) (line : Nat) : KeepsEngRegs b (b.bankRemap k line) :=
  .ite (.trans ((KeepsEngRegs.refl b).putBank hk (f := R.CB_STAT_SPUSED k) _)
      (.put (f := R.SPM_LSEQ_LSEQ) (not_isEngReg_of_lt (by decide)) _ _))
    (((KeepsEngRegs.refl b).putBank hk _).putBank hk _)

theorem bankCorrect_keepsEngRegs (b : Block) (line : Nat) (stays : Bool) : KeepsEngRegs b (b.bankCorrect k line stays) := by
  have hcount : KeepsEngRegs b ((b.incSat (R.CB_ECCCNT_CECNT k) 1).countGlob 0x07 1) :=
    ((KeepsEngRegs.refl b).putBank hk _).trans (countGlob_keepsEngRegs _ _ _)
  exact (KeepsEngRegs.ite (hcount.trans (bankRemap_keepsEngRegs hk _ line)) hcount).trans
    (bankErr_keepsEngRegs hk _ line false false false)

theorem bankFinds_keepsEngRegs (b : Block) (q : Req) (find : BankFind) : KeepsEngRegs b (b.bankFinds k q find) := by
  unfold Block.bankFinds
  split
  · exact .refl b
  · cases find with
    | clean => exact .refl b
    | correctable second stays => exact bankCorrect_keepsEngRegs hk b _ stays
    | uncorrectable second words =>
      dsimp only
      split <;> exact .refl b
    | sourceLost second => exact .refl b

theorem countApplied_keepsEngRegs (b : Block) (q : Req) : KeepsEngRegs b (b.countApplied k q) := by
  unfold Block.countApplied
  refine List.foldlRecOn (motive := KeepsEngRegs b) q.spans _ (.refl b) fun c hc s _ => ?_
  split
  · exact hc.trans (unrepairable_keepsEngRegs hk c _ _ _)
  · exact hc

theorem bankLost_keepsEngRegs (b : Block) (line : Nat) (q : Req) : KeepsEngRegs b (b.bankLost k line q) := by
  unfold Block.bankLost
  split
  · exact (unrepairable_keepsEngRegs hk b line _ _).trans (.of_regs (Block.freeLock_regs _ _ _))
  all_goals exact unrepairable_keepsEngRegs hk b line _ _

theorem bankDo_keepsEngRegs (b : Block) (q : Req) (find : BankFind) : KeepsEngRegs b (b.bankDo k q find).1 := by
  refine (bankFinds_keepsEngRegs hk b q find).trans ?_
  unfold Block.bankDo
  dsimp only
  split
  · split
    · exact .refl _
    · exact bankLost_keepsEngRegs hk _ _ q
  · exact (countApplied_keepsEngRegs hk _ q).trans (.of_regs (Block.effect_regs _ _))

theorem KeepsEngRegs.bankDo {a b u : Block} {q : Req} {find : BankFind} {r : Served} (h : KeepsEngRegs a b)
    (he : b.bankDo k q find = (u, r)) : KeepsEngRegs a u := by
  have hdo := bankDo_keepsEngRegs hk b q find
  rw [he] at hdo
  exact h.trans hdo

/-- Round robin moves on, where it chose. -/
theorem KeepsEngRegs.turn {a b : Block} (h : KeepsEngRegs a b) (p : Prop) [Decidable p] (v : Nat) :
    KeepsEngRegs a (if p then b.put (R.CB_ARB_LASTRQ k) v else b) :=
  .ite (h.putBank hk v) h

/-- The requests that wait on are counted, where there are any. -/
theorem KeepsEngRegs.countWait {a b : Block} (h : KeepsEngRegs a b) (p : Prop) [Decidable p] (v : Nat) :
    KeepsEngRegs a (if p then b else b.inc (R.CB_WAITCNT_COUNT k) v) :=
  .ite h (h.putBank hk _)

omit hk in
/-- The cycles in which a request found no entry are counted, where there are any (R293). -/
theorem KeepsEngRegs.countPerc {a b : Block} (h : KeepsEngRegs a b) (p : Prop) [Decidable p] (v : Nat) :
    KeepsEngRegs a (if p then b.drawn.inc R.PERC_WAITS_COUNT v else b) :=
  .ite (h.trans (.put (f := R.PERC_WAITS_COUNT) (not_isEngReg_of_lt (by decide)) b.drawn _)) h

theorem bankStep_keepsEngRegs (b : Block) (find : BankFind) : KeepsEngRegs b (b.bankStep k find).1 := by
  unfold Block.bankStep
  split
  · exact .refl b
  · dsimp only
    split
    all_goals
      next he =>
        refine KeepsEngRegs.trans (KeepsEngRegs.bankDo hk ?_ he) (.of_regs rfl)
        exact .countPerc (.countWait hk (.turn hk (.of_regs rfl) _ _) _ _) _ _

omit hk in
theorem bankReply_keepsEngRegs (b : Block) (q : Req) (r : Served) : KeepsEngRegs b (b.bankReply q r) := by
  cases r with
  | later => exact .refl b
  | data d => exact .of_regs (Block.answer_regs _ _ _ _)
  | lost => exact .of_regs (Block.answer_regs _ _ _ _)

theorem bankServe_keepsEngRegs (b : Block) (find : BankFind) : KeepsEngRegs b (b.bankServe k find) := by
  have hstep := bankStep_keepsEngRegs hk b find
  unfold Block.bankServe
  split
  next c q r he =>
    rw [he] at hstep
    exact hstep.trans (bankReply_keepsEngRegs c q r)
  next c he => rwa [he] at hstep

theorem bankUntil_keepsEngRegs (find : BankFind) (fuel : Nat) (b : Block) :
    KeepsEngRegs b (Block.bankUntil k find fuel b).1 := by
  induction fuel generalizing b with
  | zero => exact .refl b
  | succ fuel ih =>
    have hstep := bankStep_keepsEngRegs hk b find
    unfold Block.bankUntil
    split
    · exact .refl b
    · split
      · split <;> next he => rwa [he] at hstep
      · exact (bankServe_keepsEngRegs hk b .clean).trans (ih _)

theorem bankNow_keepsEngRegs (b : Block) (q : Req) (find : BankFind) : KeepsEngRegs b (b.bankNow k q find).1 := by
  have hpost : KeepsEngRegs b (b.post { q with reply := .now }) := .of_regs (Block.post_regs _ _)
  have huntil := hpost.trans (bankUntil_keepsEngRegs hk find
    (((b.post { q with reply := .now }).bankAt k).waiting.length + 1) _)
  unfold Block.bankNow
  dsimp only
  split
  next he =>
    rw [he] at huntil
    exact huntil.trans (.of_regs rfl)
  · exact huntil

end

/-! ## The DRAM Port's service -/

theorem present_keepsEngRegs (b : Block) (q : Req) : KeepsEngRegs b (b.present q) :=
  (countDram_keepsEngRegs b q.addr q.len _ _).trans (.of_regs (Block.effect_regs _ q))

theorem dramUntil_keepsEngRegs (rq fuel : Nat) (b : Block) : KeepsEngRegs b (Block.dramUntil rq fuel b) := by
  induction fuel generalizing b with
  | zero => exact .refl b
  | succ fuel ih =>
    unfold Block.dramUntil
    split
    · exact .refl b
    · next q _ => exact .ite (.refl b) ((present_keepsEngRegs (b.dramLeave q) q).trans (ih _))

theorem dramNow_keepsEngRegs (b : Block) (q : Req) (err : Bool) : KeepsEngRegs b (b.dramNow q err).1 := by
  have hpost : KeepsEngRegs b (b.post { q with reply := .now }) := .of_regs (Block.post_regs _ _)
  have hserved := (hpost.trans (dramUntil_keepsEngRegs q.rq
    ((b.post { q with reply := .now }).dram.waiting.length + 1) _)).trans
      (countDram_keepsEngRegs _ q.addr q.len q.kind.reads q.kind.writes)
  unfold Block.dramNow
  dsimp only
  split
  · exact hserved
  · exact hserved.trans (.of_regs (Block.effect_regs _ q))

/-! ## A load outside the register window -/

theorem target_ne_window {b : Block} {a : Nat} (h : inWindow a = false) (off : Nat) : b.target a ≠ .window off := by
  have hout : ¬(0x10000000 ≤ a ∧ a < 0x10100000) := by simpa [inWindow] using h
  unfold Block.target
  rw [if_neg hout]
  split_ifs <;> exact Target.noConfusion

theorem loadPiece_keepsEngRegs {b : Block} {pe a n : Nat} {fab : Bool} {find : BankFind} (h : inWindow a = false) :
    KeepsEngRegs b (b.loadPiece pe a n fab find).1 := by
  unfold Block.loadPiece
  split
  · next ht => exact bankNow_keepsEngRegs (target_carafe_lt ht) b _ find
  · exact dramNow_keepsEngRegs b _ _
  · next ht => exact absurd ht (target_ne_window h _)
  · exact .refl b
  · exact .refl b

theorem loadPieces_keepsEngRegs (pe : Nat) (fab : Bool) {ps : List (Nat × Nat)} (h : ∀ p ∈ ps, inWindow p.1 = false)
    (find : BankFind) (b : Block) : KeepsEngRegs b (Block.loadPieces pe fab find ps b).1 := by
  induction ps generalizing find b with
  | nil => exact .refl b
  | cons p ps ih =>
    have hfirst := loadPiece_keepsEngRegs (b := b) (pe := pe) (n := p.2) (fab := fab) (find := find) (h p List.mem_cons_self)
    have hrest := ih (fun r hr => h r (List.mem_cons_of_mem _ hr)) .clean
    unfold Block.loadPieces
    split
    next he => rwa [he] at hfirst
    next u _ he =>
      rw [he] at hfirst
      have hu := hfirst.trans (hrest u)
      split
      all_goals
        next he' => rwa [he'] at hu

/-- An access is one piece, or the second one begins at the next 1 MiB boundary (R197). -/
theorem pieces_cases (a n : Nat) :
    pieces a n = [(a, n)] ∨ ∃ t m m', pieces a n = [(a, m), (t, m')] ∧ a < t ∧ t ≤ a + 2 ^ 20 ∧ t % 2 ^ 20 = 0 := by
  by_cases h : a + n ≤ a / 2 ^ 20 * 2 ^ 20 + 2 ^ 20
  · exact .inl (if_pos h)
  · exact .inr ⟨_, _, _, if_neg h, by omega, by omega, by omega⟩

/-- Nothing answers in the 1 MiB below the register window (R10). -/
theorem target_below_window {b : Block} {a : Nat} (h : 0xFF00000 ≤ a) (h' : a < 0x10000000) : b.target a = .nothing := by
  unfold Block.target dramBase
  rw [if_neg (by omega), if_neg (by omega), if_neg (by omega), if_neg (by omega)]

/-- A load that does not begin in the register window does not reach it: the one second piece that would follows a first piece that
nothing answers. -/
theorem load_keepsEngRegs {b : Block} {pe a n : Nat} {fab : Bool} {find : BankFind} (h : inWindow a = false) :
    KeepsEngRegs b (b.load pe a n fab find).1 := by
  unfold Block.load
  obtain hp | ⟨t, m, m', hp, hlt, hle, hmod⟩ := pieces_cases a n
  · rw [hp]
    exact loadPieces_keepsEngRegs pe fab (by simp [h]) find b
  · rw [hp]
    cases hw : inWindow t with
    | false => exact loadPieces_keepsEngRegs pe fab (by simp [h, hw]) find b
    | true =>
      have hnone : b.target a = .nothing := by
        simp only [inWindow, Bool.and_eq_true, decide_eq_true_eq, Bool.and_eq_false_iff, decide_eq_false_iff_not] at h hw
        exact target_below_window (by omega) (by omega)
      simp only [Block.loadPieces, Block.loadPiece, hnone]
      exact .refl b

/-! ## A descriptor's read (R336) -/

theorem repairLine_keepsEngRegs {k : Nat} (hk : k < 64) (b : Block) (line wb : Nat) (stays : Bool) :
    KeepsEngRegs b (b.repairLine k line wb stays) := by
  unfold Block.repairLine
  refine KeepsEngRegs.trans ?_ (bankErr_keepsEngRegs hk _ line true true false)
  refine KeepsEngRegs.trans ?_ (countGlob_keepsEngRegs _ 0x08 1)
  refine KeepsEngRegs.putBank ?_ hk _
  cases stays
  · exact .of_regs rfl
  · exact KeepsEngRegs.trans (.of_regs rfl) (bankRemap_keepsEngRegs hk _ line)

theorem endRepairs_keepsEngRegs {k : Nat} (hk : k < 64) (b : Block) : KeepsEngRegs b (b.endRepairs k) := by
  unfold Block.endRepairs
  refine List.foldlRecOn (motive := KeepsEngRegs b) _ _ (.refl b) fun c hc r _ => ?_
  dsimp only
  split
  · exact KeepsEngRegs.ite (hc.trans (repairLine_keepsEngRegs hk c _ _ _)) hc
  · exact hc

/-- A request of other than 4 bytes that passes its checks does not begin in the register window (R10). -/
theorem checkPiece_not_inWindow {b : Block} {pe level a n : Nat} {rs : List Right} (h : b.checkPiece pe level rs a n = none)
    (hn : n ≠ 4) : inWindow a = false := by
  by_contra hw
  simp [Block.checkPiece, Bool.eq_true_of_not_eq_false hw, hn] at h

theorem KeepsEngRegs.load {a b u : Block} {pe x n : Nat} {fab : Bool} {find : BankFind} {r : Except Cause (List Byte)}
    (h : KeepsEngRegs a b) (hx : inWindow x = false) (he : b.load pe x n fab find = (u, r)) : KeepsEngRegs a u := by
  have hload := load_keepsEngRegs (b := b) (pe := pe) (n := n) (fab := fab) (find := find) hx
  rw [he] at hload
  exact h.trans hload

/-- A descriptor's read keeps what its loads and the repairs between them keep. The load and the target are variables here: the kernel
would compute them where it meets them under the match. -/
theorem descBytes_keepsEngRegs_of {load : Block → Nat → Nat → Nat → Bool → BankFind → Block × Except Cause (List Byte)}
    {target : Block → Nat → Target} (hl : Block.load = load) (ht : Block.target = target) {b u : Block} {n a : Nat}
    {r : Option (List Byte)}
    (hload : ∀ {c w : Block} {find : BankFind} {r : Except Cause (List Byte)}, load c n a 32 false find = (w, r) →
      KeepsEngRegs c w)
    (hrepairs : ∀ {c : Block} {k : Nat}, target c a = .carafe k → KeepsEngRegs c (c.endRepairs k))
    (he : b.descBytes n a = (u, r)) : KeepsEngRegs b u := by
  have hdrawn : KeepsEngRegs b b.drawn := .of_regs rfl
  obtain ⟨read, hread⟩ : ∃ f, Block.descBytes = f := ⟨_, rfl⟩
  rw [hread] at he
  delta Block.descBytes at hread
  rw [hl, ht] at hread
  subst hread
  dsimp only at he
  split at he
  next w d hfirst =>
    cases he
    exact hdrawn.trans (hload hfirst)
  next w hfirst =>
    have hw : KeepsEngRegs b w := hdrawn.trans (hload hfirst)
    split at he <;>
      next hagain =>
        cases he
        refine .trans ?_ (hload hagain)
        split
        next hk => exact hw.trans (hrepairs hk)
        · exact hw
  next w c _ hfirst =>
    cases he
    exact hdrawn.trans (hload hfirst)

theorem descBytes_keepsEngRegs {b u : Block} {n a : Nat} {r : Option (List Byte)} (h : inWindow a = false)
    (he : b.descBytes n a = (u, r)) : KeepsEngRegs b u :=
  descBytes_keepsEngRegs_of rfl rfl ((KeepsEngRegs.refl _).load h)
    (fun hk => endRepairs_keepsEngRegs (target_carafe_lt hk) _) he

/-- A table's entry is read only from an address outside the register window (R10, R336). -/
theorem readDesc_keepsEngRegs {b u : Block} {n v : Nat} {tenant : Bool} {r : DescRead}
    (h : b.readDesc n v tenant = (u, r)) : KeepsEngRegs b u := by
  unfold Block.readDesc at h
  generalize ((b.engine n).vbase.get (bit tenant) 0).toNat = base at h
  by_cases hbase : base = 0
  · rw [if_pos hbase] at h
    cases h
    exact .refl b
  · rw [if_neg hbase] at h
    generalize hcheck : b.checkPiece n (2 * bit tenant) [.read] (base + 32 * v) 32 = piece at h
    cases piece with
    | some p =>
      cases h
      exact .refl b
    | none =>
      have hout := checkPiece_not_inWindow hcheck (by decide)
      generalize hbytes : b.descBytes n (base + 32 * v) = bytes at h
      obtain ⟨w, d⟩ := bytes
      have hw := descBytes_keepsEngRegs hout hbytes
      cases d with
      | none =>
        cases h
        exact hw
      | some d =>
        dsimp only at h
        split at h <;>
          · cases h
            exact hw

theorem isEngReg_tren (n : PE) : IsEngReg (R.ENG_DBGCTL_TREN n) := by
  have hn := n.isLt
  simp only [IsEngReg, Fld.key, R.ENG_DBGCTL_TREN]
  omega

theorem isEngReg_trcEn : IsEngReg R.TRC_CTRL_EN := ⟨by decide, by decide⟩

theorem tracing_congr {b b' : Block} {n : Nat} (h : b'.get (R.ENG_DBGCTL_TREN n) = b.get (R.ENG_DBGCTL_TREN n))
    (h' : b'.get R.TRC_CTRL_EN = b.get R.TRC_CTRL_EN) : b'.tracing n = b.tracing n := by
  simp only [Block.tracing, Block.flag, h, h']

theorem readDesc_tracing {b u : Block} {n : PE} {v : Nat} {tenant : Bool} {r : DescRead} (h : b.readDesc n v tenant = (u, r)) :
    u.tracing n = b.tracing n :=
  tracing_congr (readDesc_keepsEngRegs h _ (isEngReg_tren n)) (readDesc_keepsEngRegs h _ isEngReg_trcEn)

end Sys2Proof.Machine
end

section
/-! An exception entry that nothing stops (R333, R336): the frame joins its bank's line and the engine is at the handler. -/
namespace Sys2Proof.Machine

/-! ## A request in line at its bank -/

/-- Seating changes the places of requests and nothing else: the last one in line stays last (R199). -/
theorem seatClass_append_last (k c : Nat) (q : Req) (ws : List Req) : ∀ (ahead : List Req) (p : Nat),
    ∃ l p', seatClass k c ahead (ws ++ [{ q with place := p }]) = l ++ [{ q with place := p' }] := by
  induction ws with
  | nil =>
    intro ahead p
    simp only [List.nil_append, seatClass]
    split
    · split <;> exact ⟨ahead.reverse, _, List.reverse_cons⟩
    · exact ⟨ahead.reverse, _, List.reverse_cons⟩
  | cons w ws ih =>
    intro ahead p
    simp only [List.cons_append, seatClass]
    split
    · split <;> exact ih _ p
    · exact ih _ p

theorem seat_append_last (k : Nat) (ws : List Req) (q : Req) :
    ∃ l p, seat k (ws ++ [q]) = l ++ [{ q with place := p }] :=
  forEach_keeps (fun r => ∃ l p, r = l ++ [{ q with place := p }]) 6 (seatClass k · []) (ws ++ [q]) ⟨ws, q.place, rfl⟩
    fun c _ _ ⟨l, p, hl⟩ => hl ▸ seatClass_append_last k c q l [] p

@[simp] theorem Block.post_eng (b : Block) (q : Req) : (b.post q).eng = b.eng := by
  unfold Block.post
  split <;> rfl

@[simp] theorem Block.post_mem (b : Block) (q : Req) : (b.post q).mem = b.mem := by
  unfold Block.post
  split <;> rfl

theorem Block.post_waiting {b : Block} {q : Req} {k : Nat} (h : b.target q.addr = .carafe k) :
    ∃ l p, ((b.post q).bankAt k).waiting = l ++ [{ q with place := p }] := by
  unfold Block.post
  rw [h]
  simpa only [Block.setBank_bankAt_same] using seat_append_last k (b.bankAt k).waiting q

/-! ## The push of an exception entry (R336) -/

theorem leBytes_length (v n : Nat) : (leBytes v n).length = n := by
  induction n generalizing v with
  | zero => rfl
  | succ n ih => simp [leBytes, ih]

theorem pushAddr_aligned {sp : W64} (h : sp.toNat % 16 = 0) : pushAddr sp % 16 = 0 := by
  have hlt := sp.isLt
  have h16 : (16 : W64).toNat = 16 := rfl
  rw [pushAddr, BitVec.toNat_sub, h16]
  omega

/-- An aligned access of 16 bytes crosses no 1 MiB boundary (R197). -/
theorem pieces_of_aligned {a : Nat} (h : a % 16 = 0) : pieces a 16 = [(a, 16)] := by
  unfold pieces
  exact if_pos (by omega)

theorem postStore_of_aligned {b : Block} {n a : Nat} {data : List Byte} {fab : Bool} (hl : data.length = 16) (h : a % 16 = 0) :
    b.postStore n a data fab = b.postPiece n a data fab := by
  simp only [Block.postStore, hl, pieces_of_aligned h]

/-- A posted store that is no word of the register window joins its target's line, or is refused and recorded (R84, R521). -/
theorem postPiece_cases (b : Block) (n a : Nat) {data : List Byte} (fab : Bool) (h : data.length ≠ 4) :
    b.postPiece n a data fab = b.post (b.engReq n .write a data.length data 0 .none 0 fab) ∨ b.postPiece n a data fab = b ∨
      b.postPiece n a data fab = b.put (R.ENG_USTAT_WRERR n) 1 := by
  unfold Block.postPiece
  split
  · exact .inl rfl
  · exact .inl rfl
  · exact .inr (.inl (if_neg h))
  · exact .inr (.inr rfl)
  · exact .inr (.inr rfl)

theorem postPiece_carafe {b : Block} {n a k : Nat} {data : List Byte} {fab : Bool} (h : b.target a = .carafe k) :
    b.postPiece n a data fab = b.post (b.engReq n .write a data.length data 0 .none 0 fab) := by
  simp only [Block.postPiece, h]

theorem postPiece_engine (b : Block) (n a m : Nat) {data : List Byte} (fab : Bool) (h : data.length ≠ 4) :
    (b.postPiece n a data fab).engine m = b.engine m := by
  obtain e | e | e := postPiece_cases b n a fab h <;> rw [e] <;> simp [Block.engine]

theorem postPiece_mem (b : Block) (n a : Nat) {data : List Byte} (fab : Bool) (h : data.length ≠ 4) :
    (b.postPiece n a data fab).mem = b.mem := by
  obtain e | e | e := postPiece_cases b n a fab h <;> rw [e] <;> simp

theorem postPiece_get (b : Block) (n a : Nat) {data : List Byte} (fab : Bool) (h : data.length ≠ 4) {x : Fld}
    (hx : x.key ≠ (R.ENG_USTAT_WRERR n).key) : (b.postPiece n a data fab).get x = b.get x := by
  obtain e | e | e := postPiece_cases b n a fab h <;> rw [e]
  · simp [Block.get]
  · exact Block.get_put_ne _ _ _ _ hx

/-! ## Trace stays off -/

theorem postPiece_tracing (b : Block) (n a : Nat) {data : List Byte} (fab : Bool) (h : data.length ≠ 4) :
    (b.postPiece n a data fab).tracing n = b.tracing n := by
  apply tracing_congr <;> apply postPiece_get b n a fab h <;>
    · simp only [Fld.key, R.ENG_DBGCTL_TREN, R.TRC_CTRL_EN, R.ENG_USTAT_WRERR]
      omega

theorem put_lastvec_tracing (b : Block) (n v : Nat) : (b.put (R.ENG_XSTAT_LASTVEC n) v).tracing n = b.tracing n := by
  apply tracing_congr <;> apply Block.get_put_ne <;>
    · simp only [Fld.key, R.ENG_DBGCTL_TREN, R.TRC_CTRL_EN, R.ENG_XSTAT_LASTVEC]
      omega

theorem OnlyPmc.tracing {n : Nat} {a b : Block} (h : OnlyPmc n a b) : b.tracing n = a.tracing n :=
  tracing_congr (h.2 _ (isPmc_tren n)) (h.2 _ (isPmc_trcEn n))

theorem emitFlow_of_not_tracing {b : Block} {n : Nat} (h : b.tracing n = false) (kind info vec pc : Nat) :
    b.emitFlow n kind info vec pc = b := by
  simp [Block.emitFlow, h]

/-! ## Exception entry (R336) -/

theorem isPmc_lastvec (n : Nat) : isPmc n (R.ENG_XSTAT_LASTVEC n) = false := by
  simp [isPmc, Fld.key, R.ENG_XSTAT_LASTVEC, R.ENG_PMCTL_OVF, R.ENG_PMC_COUNT, List.range, List.range.loop]
  omega

theorem OnlyPmc.mem {n : Nat} {a b : Block} (h : OnlyPmc n a b) : b.mem = a.mem := by
  have e := congrArg Block.mem h.1
  exact e

theorem OnlyPmc.bankAt {n : Nat} {a b : Block} (h : OnlyPmc n a b) (k : Nat) : b.bankAt k = a.bankAt k := by
  have e := congrArg (fun c : Block => c.bankAt k) h.1
  exact e

/-- The block once an entry has pushed its frame, installed the descriptor and recorded the vector, before the event is counted. -/
def Block.pushed (b : Block) (n v : Nat) (tenant : Bool) (d : Desc) (ra sw : Nat) : Block :=
  ((b.postPiece n (pushAddr (b.entrySp n d tenant)) (leBytes ra 8 ++ leBytes sw 8) false).modEngine n
    fun e => e.install d tenant (b.entrySp n d tenant)).put (R.ENG_XSTAT_LASTVEC n) v

theorem frame_length (ra sw : Nat) : (leBytes ra 8 ++ leBytes sw 8).length = 16 := by
  rw [List.length_append, leBytes_length, leBytes_length]

theorem frame_length_ne (ra sw : Nat) : (leBytes ra 8 ++ leBytes sw 8).length ≠ 4 := by
  rw [frame_length]
  decide

theorem pushed_tracing (b : Block) (n v : Nat) (tenant : Bool) (d : Desc) (ra sw : Nat) :
    (b.pushed n v tenant d ra sw).tracing n = b.tracing n :=
  (put_lastvec_tracing _ n v).trans (postPiece_tracing b n _ false (frame_length_ne ra sw))

/-- An entry that nothing stops, at an engine that is not traced (R336). -/
theorem enterWith_of_canEnter {b : Block} {n : PE} {v : Nat} {tenant : Bool} {d : Desc} (h : CanEnter b n d tenant)
    (ht : b.tracing n = false) (ra sw : Nat) :
    b.enterWith n v tenant d ra sw = (b.pushed n v tenant d ra sw).countEng n 0x0A := by
  obtain ⟨halign, hwin, hallow, hbank⟩ := h
  have htr : ((b.pushed n v tenant d ra sw).countEng n 0x0A).tracing n = false :=
    (countEng_only _ _ _).tracing.trans ((pushed_tracing ..).trans ht)
  simp only [Block.enterWith, halign, hwin, hallow, hbank, postStore_of_aligned (frame_length ra sw) (pushAddr_aligned halign)]
  exact emitFlow_of_not_tracing htr _ _ _ _

theorem pushed_engine_same (b : Block) (n v : Nat) (tenant : Bool) (d : Desc) (ra sw : Nat) :
    (b.pushed n v tenant d ra sw).engine n = (b.engine n).install d tenant (b.entrySp n d tenant) := by
  rw [Block.pushed, Block.put_engine, Block.modEngine_engine_same, postPiece_engine _ _ _ _ _ (frame_length_ne ra sw)]

theorem pushed_engine_ne (b : Block) (n v : Nat) (tenant : Bool) (d : Desc) (ra sw : Nat) {m : Nat} (h : m ≠ n) :
    (b.pushed n v tenant d ra sw).engine m = b.engine m := by
  rw [Block.pushed, Block.put_engine, Block.modEngine_engine_ne _ _ _ _ h, postPiece_engine _ _ _ _ _ (frame_length_ne ra sw)]

theorem pushed_mem (b : Block) (n v : Nat) (tenant : Bool) (d : Desc) (ra sw : Nat) :
    (b.pushed n v tenant d ra sw).mem = b.mem := by
  rw [Block.pushed, Block.put_mem, Block.modEngine_mem, postPiece_mem _ _ _ _ (frame_length_ne ra sw)]

/-- The frame waits last in line at the stack's bank. -/
theorem pushed_waiting {b : Block} {n k : Nat} {tenant : Bool} {d : Desc}
    (hk : b.target (pushAddr (b.entrySp n d tenant)) = .carafe k) (v ra sw : Nat) :
    ∃ l p, ((b.pushed n v tenant d ra sw).bankAt k).waiting = l ++ [{ b.engReq n .write
      (pushAddr (b.entrySp n d tenant)) 16 (leBytes ra 8 ++ leBytes sw 8) 0 .none 0 false with place := p }] := by
  rw [Block.pushed, Block.put_bankAt, Block.modEngine_bankAt, postPiece_carafe hk, frame_length]
  exact Block.post_waiting hk

/-- What the counters of the event and LC_STATE hold is no part of an entry. -/
theorem entered_of_pushed {b : Block} {n : PE} {v : Nat} {tenant : Bool} {d : Desc} {ra sw : Nat} {t : State}
    (h : OnlyPmc n { b.pushed n v tenant d ra sw with isSealed := t.blk.isSealed } t.blk) : Entered b n v d tenant ra sw t := by
  have heng : t.blk.engine n = (b.engine n).install d tenant (b.entrySp n d tenant) :=
    (h.engine n).trans (pushed_engine_same b n v tenant d ra sw)
  have hwait : ∀ k, b.target (pushAddr (b.entrySp n d tenant)) = .carafe k → ∃ l p, (t.blk.bankAt k).waiting =
      l ++ [{ b.engReq n .write (pushAddr (b.entrySp n d tenant)) 16 (leBytes ra 8 ++ leBytes sw 8) 0 .none 0 false with
        place := p }] := fun k hk => by
    rw [h.bankAt k]
    exact pushed_waiting hk v ra sw
  have hvec : t.blk.get (R.ENG_XSTAT_LASTVEC n) = v % 2 ^ 8 := (h.2 _ (isPmc_lastvec n)).trans (Block.get_put_same ..)
  have hothers : ∀ m : Nat, m ≠ n.val → t.blk.engine m = b.engine m := fun m hm =>
    (h.engine m).trans (pushed_engine_ne b n v tenant d ra sw hm)
  simp only [Entered, heng]
  exact ⟨hwait, rfl, rfl, rfl, rfl, rfl, rfl, rfl, rfl, rfl, rfl, rfl, rfl, hvec, h.mem.trans (pushed_mem b n v tenant d ra sw), hothers⟩

theorem OnlyPmc.sealed {n : Nat} {a b : Block} (h : OnlyPmc n a b) (x : Bool) :
    OnlyPmc n { a with isSealed := x } { b with isSealed := x } :=
  ⟨congrArg (fun c : Block => { c with isSealed := x }) h.1, h.2⟩

theorem enterWith_entered {b : Block} {n : PE} {d : Desc} {tenant : Bool} (h : CanEnter b n d tenant)
    (ht : b.tracing n = false) (s : State) (v ra sw : Nat) :
    ∃ t, done s (b.enterWith n v tenant d ra sw) = .next t ∧ Entered b n v d tenant ra sw t := by
  refine ⟨_, done_next s _, entered_of_pushed ?_⟩
  rw [enterWith_of_canEnter h ht]
  exact (countEng_only _ _ _).sealed _

/-- Vector 3 in the executing world (R333, R336): nothing is pending and no sequence breaks, the table answers with a good descriptor
and the stack takes the push. -/
theorem trap_illegal_eq {b u : Block} {n : Nat} {e : Engine} {d : Desc} (he : b.engine n = e) (hfpt : e.fpt = none)
    (hlk : b.flag (R.ENG_LKSTAT_LKACT n) = false) (hd : b.readDesc n 3 e.st.tw = (u, .good d)) :
    b.trap n .illegal = u.enterWith n 3 e.st.tw d e.pc.toNat e.st.word.toNat := by
  simp only [Block.trap, he, hfpt, Option.isSome_none, Bool.false_eq_true, if_false, Block.except, Block.enter,
    Block.enterPushing, Block.lockBreak, hlk, hd]

/-- An instruction that is ILLEGAL enters vector 3 of its world, its own address pushed (R333, R335). -/
theorem feis_illegal_entered {s : State} {n : PE} {word : Nat} {u : Block} {d : Desc} {traps : Engine → Option Trap}
    (body : Engine → Block → Block) (h : AtInstr s n word) (q : Quiet s n)
    (htrap : traps (s.blk.engine n).noSkip = some .illegal)
    (hd : (s.blk.modEngine n Engine.noSkip).readDesc n 3 (s.blk.engine n).st.tw = (u, .good d))
    (hc : CanEnter u n d (s.blk.engine n).st.tw) :
    ∃ t, done s (s.blk.feis n word traps body) = .next t ∧
      Entered u n 3 d (s.blk.engine n).st.tw (s.blk.engine n).pc.toNat (s.blk.engine n).st.word.toNat t := by
  obtain ⟨hfpt, -, hlk, htr⟩ := q
  have htaken := trap_illegal_eq (Block.modEngine_engine_same s.blk n Engine.noSkip) hfpt hlk hd
  rw [feis_at h, htrap]
  dsimp only
  rw [htaken]
  exact enterWith_entered hc ((readDesc_tracing hd).trans htr) s 3 _ _

end Sys2Proof.Machine
end

section
/-! The condition codes and the control transfers (R74, R87, R88). -/
namespace Sys2Proof.Machine

/-! ## Condition codes -/

theorem ccDefined_iff (cc : Nat) : ccDefined cc = true ↔ cc < 20 ∧ cc ≠ 15 := by
  simp [ccDefined]

theorem ccDefined_eq_false_iff (cc : Nat) : ccDefined cc = false ↔ cc = 15 ∨ 20 ≤ cc := by
  rw [← Bool.not_eq_true, ccDefined_iff]
  omega

/-- R88's table: the truth value of each condition code in turn, 0x0F held by a dummy. -/
def St.ccValues (q : St) : List Bool :=
  [q.z, !q.z, q.c, !q.c, q.n, !q.n, q.v, !q.v, q.c && !q.z, !q.c || q.z, q.n == q.v, q.n != q.v,
    !q.z && q.n == q.v, q.z || q.n != q.v, true, false, q.c, q.c || q.z, q.n || q.z, q.n || q.c]

theorem holds_eq_ccValues (q : St) {cc : Nat} (h : ccDefined cc = true) : q.ccValues[cc]? = some (q.holds cc) := by
  obtain ⟨hlt, -⟩ := (ccDefined_iff cc).mp h
  interval_cases cc <;> rfl

theorem toNat_ccField (cc : BitVec 5) : (cc.setWidth 9).toNat = cc.toNat := by
  have := cc.isLt
  rw [BitVec.toNat_setWidth]
  omega

/-! ## Control transfer -/

theorem setG_codes {e : Engine} (i : Nat) (v : W64) (h : e.codes = []) : (e.setG i v).codes = [] := by
  unfold Engine.setG Engine.recode
  split
  · simp [h]
  · split <;> simp [h]

/-- A result without flags is a register write. -/
theorem result_keeping_st (e : Engine) (d : Nat) (r : W64) : e.result d r e.st = e.setG d r :=
  congrArg (fun st => { e.setG d r with st := st }) (setG_st e d r).symm

/-- A retirement where the dispatch's own change of the engine, IADDR's skip, no longer shows: the effect `f` was computed from the
engine after dispatch and is `g` of the engine as it stood. -/
theorem finish_retires {s : State} {n : PE} (q : Quiet s n) {f g : Engine → Engine}
    (hf : f (s.blk.engine n).noSkip = (g (s.blk.engine n)).noSkip) (hfpt : (g (s.blk.engine n)).fpt = (s.blk.engine n).fpt)
    (hcode : (g (s.blk.engine n)).codes = []) (next : Nat) (flow : Bool) :
    ∃ t, done s (((s.blk.modEngine n Engine.noSkip).setEngine n (f (s.blk.engine n).noSkip)).finish n (s.blk.engine n).noSkip
      next false flow) = .next t ∧ Retired s n next g t := by
  obtain ⟨hnofpt, hss, hlk, htr⟩ := q
  rw [hf]
  have hnone : (g (s.blk.engine n)).noSkip.fpt = none := hfpt.trans hnofpt
  obtain ⟨t, ht, ⟨hpc, hcore, hothers, hpmc⟩, hp⟩ := finish_ended
    ((s.blk.modEngine n Engine.noSkip).setEngine n (g (s.blk.engine n)).noSkip) n (s.blk.engine n).noSkip next false flow
    (by simp [fpCount_none, Engine.fpTrapDue, hnone]) hss (by rw [Block.setEngine_engine_same]; exact hcode) hlk htr s rfl
  refine ⟨t, ht, ⟨hpc, ?_, fun m hm => ?_, hpmc⟩, hp⟩
  · simpa [fpCount_none _ hnone, core_skip] using hcore
  · rw [hothers m hm]
    simp only [Block.setEngine_engine_ne _ _ _ _ hm, Block.modEngine_engine_ne _ _ _ _ hm]

/-- A transfer that raises nothing retires at its target where it is taken, else at the next instruction (R87). -/
theorem gives_branchOp {c : Instr} {s : State} {n : PE} {word next : Nat} {bad take : Engine → Bool} {target : Engine → Nat}
    {f g : Engine → Engine} (hx : exec c s = done s (s.blk.branchOp n word bad take target f)) (h : AtInstr s n word)
    (q : Quiet s n) (hbad : bad (s.blk.engine n).noSkip = false)
    (hf : f (s.blk.engine n).noSkip = (g (s.blk.engine n)).noSkip) (hfpt : (g (s.blk.engine n)).fpt = (s.blk.engine n).fpt)
    (hcode : (g (s.blk.engine n)).codes = [])
    (hnext : (if take (s.blk.engine n).noSkip then target (s.blk.engine n).noSkip else nextPc (s.blk.engine n).pc 4) = next) :
    Gives c s (Retired s n next g) := by
  obtain ⟨t, ht, hr⟩ := finish_retires q hf hfpt hcode next (take (s.blk.engine n).noSkip)
  refine ⟨t, ?_, hr⟩
  rw [hx, ← ht, ← hnext, Block.branchOp, feis_at h, hbad]
  rfl

/-- A transfer without a link register changes no register. -/
theorem gives_branchOp_id {c : Instr} {s : State} {n : PE} {word next : Nat} {bad take : Engine → Bool} {target : Engine → Nat}
    (hx : exec c s = done s (s.blk.branchOp n word bad take target id)) (h : AtInstr s n word) (q : Quiet s n)
    (hbad : bad (s.blk.engine n).noSkip = false)
    (hnext : (if take (s.blk.engine n).noSkip then target (s.blk.engine n).noSkip else nextPc (s.blk.engine n).pc 4) = next) :
    Gives c s (Retired s n next id) := by
  obtain ⟨-, -, -, -, hcode⟩ := id h
  exact gives_branchOp hx h q hbad rfl rfl hcode hnext

/-- A transfer with a link register writes the return address there. -/
theorem gives_branchOp_link {c : Instr} {s : State} {n : PE} {word next i : Nat} {bad take : Engine → Bool}
    {target : Engine → Nat}
    (hx : exec c s = done s (s.blk.branchOp n word bad take target fun e => e.setG i (BitVec.ofNat 64 (nextPc e.pc 4))))
    (h : AtInstr s n word) (q : Quiet s n) (hbad : bad (s.blk.engine n).noSkip = false)
    (hnext : (if take (s.blk.engine n).noSkip then target (s.blk.engine n).noSkip else nextPc (s.blk.engine n).pc 4) = next) :
    Gives c s (Retired s n next fun e => e.setG i (BitVec.ofNat 64 (nextPc (s.blk.engine n).pc 4))) := by
  obtain ⟨-, -, -, -, hcode⟩ := id h
  exact gives_branchOp hx h q hbad (setG_noSkip _ _ _) (setG_fpt _ _ _) (setG_codes _ _ hcode) hnext

theorem branchTarget_eq (pc : Addr) (off : Int) : branchTarget pc off = ((pc.toNat + 4 * off) % 2 ^ 48 : Int).toNat := by
  rw [branchTarget, Int.mul_comm]

theorem gives_b {s : State} {n : PE} {off : BitVec 24} (h : AtInstr s n (wordJ 0x90 off)) (q : Quiet s n) :
    Gives (.b n off) s (Retired s n (branchTarget (s.blk.engine n).pc off.toInt) id) :=
  gives_branchOp_id rfl h q rfl rfl

theorem gives_bl {s : State} {n : PE} {off : BitVec 24} (h : AtInstr s n (wordJ 0x91 off)) (q : Quiet s n) :
    Gives (.bl n off) s (Retired s n (branchTarget (s.blk.engine n).pc off.toInt) fun e =>
      e.setG 30 (BitVec.ofNat 64 (nextPc (s.blk.engine n).pc 4))) :=
  gives_branchOp_link rfl h q rfl rfl

theorem gives_bcc {s : State} {n : PE} {cc : BitVec 5} {off : BitVec 19} (hcc : ccDefined cc.toNat = true)
    (h : AtInstr s n (wordBC 0x92 cc off)) (q : Quiet s n) :
    Gives (.bcc n cc off) s (Retired s n (if (s.blk.engine n).st.holds cc.toNat then
      branchTarget (s.blk.engine n).pc off.toInt else nextPc (s.blk.engine n).pc 4) id) :=
  gives_branchOp_id rfl h q (by simp [hcc]) rfl

theorem gives_jr {s : State} {n : PE} {a : BitVec 5} (hal : ((s.blk.engine n).g a.toNat).toNat % 4 = 0)
    (h : AtInstr s n (wordR 0x93 0 a 0 0)) (q : Quiet s n) :
    Gives (.jr n 0 a 0 0) s (Retired s n (((s.blk.engine n).g a.toNat).toNat % 2 ^ 48) id) :=
  gives_branchOp_id rfl h q (by simp [g_noSkip, hal]) rfl

theorem gives_jalr {s : State} {n : PE} {d a : BitVec 5} (hal : ((s.blk.engine n).g a.toNat).toNat % 4 = 0)
    (h : AtInstr s n (wordR 0x94 d a 0 0)) (q : Quiet s n) :
    Gives (.jalr n d a 0 0) s (Retired s n (((s.blk.engine n).g a.toNat).toNat % 2 ^ 48) fun e =>
      e.setG d.toNat (BitVec.ofNat 64 (nextPc (s.blk.engine n).pc 4))) :=
  gives_branchOp_link rfl h q (by simp [g_noSkip, hal]) rfl

theorem gives_sel {s : State} {n : PE} {d a b : BitVec 5} {x : BitVec 9} (hcc : ccDefined x.toNat = true)
    (h : AtInstr s n (wordR 0x1A d a b x)) (q : Quiet s n) :
    Gives (.sel n d a b x) s (Retired s n (nextPc (s.blk.engine n).pc 4) fun e => e.setG d.toNat
      (if (s.blk.engine n).st.holds x.toNat then (s.blk.engine n).g a.toNat else (s.blk.engine n).g b.toNat)) := by
  refine gives_regOp (fun e => e.setG d.toNat (if e.st.holds x.toNat then e.g a.toNat else e.g b.toNat)) ?_ h q ?_ ?_ ?_ rfl
  · show execSel n d a b x s = _
    simp only [execSel, hcc, result_keeping_st, Bool.not_true]
  · exact fun e => (congrArg Engine.core (setG_noSkip e d.toNat _)).trans (core_skip _)
  · exact fun e => setG_fpt e _ _
  · exact fun e => setG_codes _ _

/-! ## Undefined condition codes -/

theorem bcc_undefined_entered {s : State} {n : PE} {cc : BitVec 5} {off : BitVec 19} {u : Block} {d : Desc}
    (hcc : ccDefined cc.toNat = false) (h : AtInstr s n (wordBC 0x92 cc off)) (q : Quiet s n)
    (hd : (s.blk.modEngine n Engine.noSkip).readDesc n 3 (s.blk.engine n).st.tw = (u, .good d))
    (hc : CanEnter u n d (s.blk.engine n).st.tw) :
    Gives (.bcc n cc off) s (Entered u n 3 d (s.blk.engine n).st.tw (s.blk.engine n).pc.toNat (s.blk.engine n).st.word.toNat) :=
  feis_illegal_entered _ h q (by simp only [hcc, Bool.not_false, if_true]) hd hc

theorem sel_undefined_entered {s : State} {n : PE} {d a b : BitVec 5} {x : BitVec 9} {u : Block} {desc : Desc}
    (hcc : ccDefined x.toNat = false) (h : AtInstr s n (wordR 0x1A d a b x)) (q : Quiet s n)
    (hd : (s.blk.modEngine n Engine.noSkip).readDesc n 3 (s.blk.engine n).st.tw = (u, .good desc))
    (hc : CanEnter u n desc (s.blk.engine n).st.tw) :
    Gives (.sel n d a b x) s
      (Entered u n 3 desc (s.blk.engine n).st.tw (s.blk.engine n).pc.toNat (s.blk.engine n).st.word.toNat) :=
  feis_illegal_entered _ h q (by simp only [hcc, Bool.not_false, if_true]) hd hc

/-- Settles O16: each transfer and each selection retires at an engine with nothing due; a code that R88 does not define enters
vector 3, since the table's read leaves the trace off. -/
theorem branchesAndConditions : Obligations.BranchesAndConditions := by
  unfold Obligations.BranchesAndConditions
  refine ⟨fun n d a cc off near s q => ?_, fun q cc h => ?_, fun n d a rb cc near desc b s q => ?_, ccDefined_eq_false_iff⟩
  · simp only [← branchTarget_eq]
    exact ⟨fun h => gives_b h q, fun h => gives_bl h q, fun hcc h => gives_bcc hcc h q,
      fun hal => ⟨fun h => gives_jr hal h q, fun h => gives_jalr hal h q⟩⟩
  · obtain ⟨hlt, hne⟩ := (ccDefined_iff cc).mp h
    exact ⟨hlt, hne, holds_eq_ccValues q h⟩
  · rw [← toNat_ccField cc]
    exact ⟨fun hcc h => gives_sel hcc h q, fun hcc hd hc =>
      ⟨fun h => bcc_undefined_entered (toNat_ccField cc ▸ hcc) h q hd hc, fun h => sel_undefined_entered hcc h q hd hc⟩⟩

end Sys2Proof.Machine
end

section
/-! Integer division on numbers: the iterations of DSTEP are long division, and DFIX gives quotient and remainder their signs
(R107 to R110). -/
namespace Sys2Proof.Machine

/-! ## Numbers in registers -/

theorem ofNat_ofSigned (v : Int) : BitVec.ofNat 64 (ofSigned v 64) = BitVec.ofInt 64 v := by
  apply BitVec.eq_of_toNat_eq
  rw [BitVec.toNat_ofNat, BitVec.toNat_ofInt, ofSigned]
  omega

/-- 65 bits hold a partial remainder whose magnitude a divisor of 64 bits bounds. -/
theorem toSigned_ofSigned {v : Int} (h : -2 ^ 64 ≤ v) (h' : v < 2 ^ 64) : toSigned (ofSigned v 65) 65 = v := by
  unfold toSigned ofSigned
  split <;> omega

/-- The low 32 bits of a number, sign-extended, depend on the number modulo 2^32 alone. -/
theorem toSigned_narrow {u v : Int} (h : -2 ^ 31 ≤ v) (h' : v < 2 ^ 31) (hu : u % 2 ^ 32 = v % 2 ^ 32) :
    toSigned (ofSigned u 64) 32 = v := by
  unfold toSigned ofSigned
  split <;> omega

/-- A partial remainder is {RNEG, gD} (R107). -/
theorem signed_remainder {r : Int} (h : -2 ^ 64 ≤ r) (h' : r < 2 ^ 64) :
    ((BitVec.ofInt 64 r).toNat : Int) - (if decide (r < 0) = true then 2 ^ 64 else 0) = r := by
  rw [BitVec.toNat_ofInt]
  split <;> rename_i hr <;> simp only [decide_eq_true_eq] at hr <;> omega

/-! ## The control word (R107) -/

theorem DivCtl.ofWord_word {c : DivCtl} (h : c.step < 64) : DivCtl.ofWord c.word = c := by
  obtain ⟨rneg, nega, step, w32, signed⟩ := c
  simp only at h
  simp only [DivCtl.ofWord, DivCtl.word, DivCtl.mk.injEq, BitVec.getLsbD_ofNat, BitVec.extractLsb'_toNat, BitVec.toNat_ofNat,
    Nat.testBit_eq_decide_div_mod_eq, Nat.shiftRight_eq_div_pow]
  cases rneg <;> cases nega <;> cases w32 <;> cases signed <;> simp [bit] <;> omega

/-- The control word that a program writes before a division: SIGNED and W32, every other bit 0 (R107). -/
def DivCtl.start (w32 signed : Bool) : DivCtl := ⟨false, false, 0, w32, signed⟩

theorem DivCtl.start_word (w32 signed : Bool) :
    (DivCtl.start w32 signed).word = BitVec.ofNat 64 (2 * bit w32 + bit signed) := by
  cases w32 <;> cases signed <;> rfl

/-- The width of the operands (R108). -/
def DivCtl.width (c : DivCtl) : Nat := if c.w32 then 32 else 64

theorem DivCtl.width_cases (c : DivCtl) : c.width = 32 ∨ c.width = 64 := by
  unfold DivCtl.width
  split <;> simp

theorem DivCtl.width_le (c : DivCtl) : c.width ≤ 64 := by
  rcases c.width_cases with hw | hw <;> omega

theorem DivCtl.width_eq (c : DivCtl) : c.width = 2 * c.full := by
  unfold DivCtl.width DivCtl.full
  split <;> rfl

/-- A number fits the operands' width, read as SIGNED selects (R109). -/
def DivCtl.Fits (c : DivCtl) (v : Int) : Prop :=
  if c.signed then -2 ^ (c.width - 1) ≤ v ∧ v < 2 ^ (c.width - 1) else 0 ≤ v ∧ v < 2 ^ c.width

theorem DivCtl.operand_fits (c : DivCtl) (v : W64) : c.Fits (c.operand v) := by
  obtain ⟨rneg, nega, step, w32, signed⟩ := c
  cases w32 <;> cases signed <;> simp [DivCtl.Fits, DivCtl.operand, DivCtl.width, toSigned] <;> omega

theorem DivCtl.Fits.natAbs_lt {c : DivCtl} {v : Int} (h : c.Fits v) : v.natAbs < 2 ^ c.width := by
  unfold DivCtl.Fits at h
  rcases c.width_cases with hw | hw <;> rw [hw] at h ⊢ <;> split at h <;> omega

theorem DivCtl.dm_lt (c : DivCtl) (v : W64) : c.dm v < 2 ^ 64 := by
  have := (c.operand_fits v).natAbs_lt
  rcases c.width_cases with hw | hw <;> rw [hw] at this <;> unfold DivCtl.dm <;> omega

theorem DivCtl.dm_eq_zero (c : DivCtl) {v : W64} : c.dm v = 0 ↔ c.operand v = 0 := Int.natAbs_eq_zero

/-! ## One iteration on numbers (R108) -/

/-- The remainder as DFIX corrects it (R109). -/
def divRem (dm : Nat) (r : Int) : Int := if r < 0 then r + dm else r

/-- After `i` iterations on the dividend `m`, aligned to the left of 64 bits: the corrected remainder is that of the dividend's
first `i` bits, and the dividend-quotient word holds the dividend's other bits above the quotient of those first bits. A divisor of
0 leaves the quotient bits free, since DFIX does not look at them. -/
structure DivAt (dm m i : Nat) (p : Int × Nat) : Prop where
  rem : divRem dm p.1 = (m / 2 ^ (64 - i) % dm : Nat)
  word : ∃ q < 2 ^ i, p.2 = m % 2 ^ (64 - i) * 2 ^ i + q ∧ (dm ≠ 0 → q = m / 2 ^ (64 - i) / dm)

theorem divAt_zero {dm m : Nat} (hm : m < 2 ^ 64) : DivAt dm m 0 (0, m) where
  rem := by rw [Nat.sub_zero, Nat.div_eq_of_lt hm, Nat.zero_mod]; rfl
  word := by
    refine ⟨0, one_pos, ?_, fun _ => ?_⟩
    · rw [Nat.sub_zero, Nat.mod_eq_of_lt hm, Nat.pow_zero, Nat.mul_one]
      rfl
    · rw [Nat.sub_zero, Nat.div_eq_of_lt hm, Nat.zero_div]

/-- A partial remainder lies within the divisor's magnitude, but for a divisor of 0, where it is the dividend read so far. -/
theorem DivAt.bounds {dm m i : Nat} {p : Int × Nat} (h : DivAt dm m i p) (hd : dm < 2 ^ 64) (hm : m < 2 ^ 64) :
    -2 ^ 64 ≤ p.1 ∧ p.1 < 2 ^ 64 := by
  have hr := h.rem
  have hlt : m / 2 ^ (64 - i) % dm < 2 ^ 64 := ((Nat.mod_le _ _).trans (Nat.div_le_self _ _)).trans_lt hm
  unfold divRem at hr
  split at hr <;> omega

/-- Whichever sign the partial remainder has, the next one is twice the corrected remainder and the next bit, less the divisor. -/
theorem divIter_eq (dm : Nat) (r : Int) (a : Nat) (h : -2 ^ 64 ≤ 2 * divRem dm r + (a / 2 ^ 63 : Nat) - dm)
    (h' : 2 * divRem dm r + (a / 2 ^ 63 : Nat) - dm < 2 ^ 64) :
    divIter dm (r, a) = (2 * divRem dm r + (a / 2 ^ 63 : Nat) - dm,
      a % 2 ^ 63 * 2 + if 0 ≤ 2 * divRem dm r + (a / 2 ^ 63 : Nat) - dm then 1 else 0) := by
  have hnext : (if 0 ≤ r then 2 * r + (a / 2 ^ 63 : Nat) - dm else 2 * r + (a / 2 ^ 63 : Nat) + dm) =
      2 * divRem dm r + (a / 2 ^ 63 : Nat) - (dm : Int) := by
    unfold divRem
    split <;> split <;> omega
  simp only [divIter, hnext, toSigned_ofSigned h h']

/-- Long division's step: what the next bit of the dividend makes of quotient and remainder. -/
theorem div_mod_next_bit {d : Nat} (hd : 0 < d) (p : Nat) {b : Nat} (hb : b < 2) :
    (2 * p + b) / d = 2 * (p / d) + (if d ≤ 2 * (p % d) + b then 1 else 0) ∧
      (2 * p + b) % d = 2 * (p % d) + b - (if d ≤ 2 * (p % d) + b then d else 0) := by
  have hp := Nat.mod_add_div p d
  have hlt := Nat.mod_lt p hd
  rw [Nat.div_mod_unique hd, Nat.mul_add, Nat.mul_left_comm]
  split <;> omega

/-- The step on the remainder holds of a divisor of 0 too, which leaves the dividend as it is read. -/
theorem mod_next_bit (d p : Nat) {b : Nat} (hb : b < 2) :
    (2 * p + b) % d = 2 * (p % d) + b - (if d ≤ 2 * (p % d) + b then d else 0) := by
  rcases Nat.eq_zero_or_pos d with rfl | hd
  · simp
  · exact (div_mod_next_bit hd p hb).2

/-- The next partial remainder, corrected, is the remainder of the dividend with one bit more. -/
theorem divRem_next_bit (d p : Nat) {b : Nat} (hb : b < 2) :
    divRem d (2 * (p % d : Nat) + b - d) = ((2 * p + b) % d : Nat) := by
  have hlt := Nat.mod_lt (2 * p + b) (y := d)
  have hmod := mod_next_bit d p hb
  unfold divRem
  split <;> split at hmod <;> omega

/-- The dividend-quotient word gives up the dividend's next bit and makes room for a bit of the quotient. -/
theorem divWord_shift {m q i k : Nat} (hik : i + k = 63) (hq : q < 2 ^ i) :
    (m % 2 ^ (k + 1) * 2 ^ i + q) / 2 ^ 63 = m / 2 ^ k % 2 ∧
      (m % 2 ^ (k + 1) * 2 ^ i + q) % 2 ^ 63 = m % 2 ^ k * 2 ^ i + q := by
  have hpow : 2 ^ k * 2 ^ i = 2 ^ 63 := by rw [← pow_add, Nat.add_comm, hik]
  have hlow : m % 2 ^ k * 2 ^ i + q < 2 ^ 63 := by
    have := Nat.mul_le_mul_right (2 ^ i) (Nat.mod_lt m (Nat.two_pow_pos k))
    rw [Nat.succ_mul, hpow] at this
    omega
  rw [Nat.div_mod_unique (by decide), Nat.mod_pow_succ, Nat.add_mul, Nat.mul_right_comm, hpow]
  exact ⟨by omega, hlow⟩

/-- One iteration where the dividend's bits read so far are `p` and the next one is `b`: the bits read are then `2 * p + b`. -/
theorem divIter_next_bit {dm p b a : Nat} {r : Int} (hd : dm < 2 ^ 64) (hb : b < 2) (hlt : 2 * p + b < 2 ^ 64)
    (hrem : divRem dm r = (p % dm : Nat)) (htop : a / 2 ^ 63 = b) :
    divRem dm (divIter dm (r, a)).1 = ((2 * p + b) % dm : Nat) ∧
      (divIter dm (r, a)).2 = a % 2 ^ 63 * 2 + if dm ≤ 2 * (p % dm) + b then 1 else 0 := by
  have hle := Nat.mod_le p dm
  have hmodlt := Nat.mod_lt p (y := dm)
  have hbit : 0 ≤ 2 * ((p % dm : Nat) : Int) + b - dm ↔ dm ≤ 2 * (p % dm) + b := by omega
  rw [divIter_eq dm r a (by omega) (by omega), hrem, htop]
  exact ⟨divRem_next_bit dm p hb, by simp only [hbit]⟩

theorem divIter_divAt {dm m i : Nat} {p : Int × Nat} (hd : dm < 2 ^ 64) (hm : m < 2 ^ 64) (hi : i < 64) (h : DivAt dm m i p) :
    DivAt dm m (i + 1) (divIter dm p) := by
  obtain ⟨k, hik⟩ : ∃ k, i + k = 63 := ⟨63 - i, by omega⟩
  obtain ⟨r, a⟩ := p
  obtain ⟨hrem, q, hq, ha, hquot⟩ := h
  have hsplit : 64 - i = k + 1 := by omega
  have hrest : 64 - (i + 1) = k := by omega
  rw [hsplit] at hrem ha hquot
  simp only at hrem ha
  subst ha
  obtain ⟨htop, hlow⟩ := divWord_shift (m := m) hik hq
  have hb : m / 2 ^ k % 2 < 2 := Nat.mod_lt _ two_pos
  have hread : 2 * (m / 2 ^ (k + 1)) + m / 2 ^ k % 2 = m / 2 ^ k := by
    rw [pow_succ, ← Nat.div_div_eq_div_mul]
    omega
  obtain ⟨hrem', hword⟩ := divIter_next_bit hd hb (hread.trans_lt ((Nat.div_le_self _ _).trans_lt hm)) hrem htop
  refine ⟨?_, 2 * q + (if dm ≤ 2 * (m / 2 ^ (k + 1) % dm) + m / 2 ^ k % 2 then 1 else 0), ?_, ?_, fun hne => ?_⟩
  · rw [hrem', hread, hrest]
  · rw [pow_succ]
    split <;> omega
  · rw [hword, hlow, hrest]
    ring
  · rw [hrest, hquot hne, ← (div_mod_next_bit (Nat.pos_of_ne_zero hne) _ hb).1, hread]

theorem divIter_iterate_divAt {dm m i : Nat} (hd : dm < 2 ^ 64) (hm : m < 2 ^ 64) (hi : i ≤ 64) :
    DivAt dm m i ((divIter dm)^[i] (0, m)) := by
  induction i with
  | zero => exact divAt_zero hm
  | succ i ih =>
    rw [Function.iterate_succ_apply']
    exact divIter_divAt hd hm (by omega) (ih (by omega))

theorem DivAt.word_lt {dm m i : Nat} {p : Int × Nat} (h : DivAt dm m i p) (hi : i ≤ 64) : p.2 < 2 ^ 64 := by
  obtain ⟨-, q, hq, ha, -⟩ := h
  have := Nat.mul_le_mul_right (2 ^ i) (Nat.mod_lt m (Nat.two_pow_pos (64 - i)))
  rw [Nat.succ_mul, ← pow_add, Nat.sub_add_cancel hi] at this
  omega

/-! ## The steps on registers (R108) -/

/-- The dividend's magnitude, at the left of 64 bits (R108). -/
def DivCtl.aligned (c : DivCtl) (v : W64) : Nat := (c.operand v).natAbs * 2 ^ (64 - c.width)

theorem DivCtl.aligned_lt (c : DivCtl) (v : W64) : c.aligned v < 2 ^ 64 := by
  have := (c.operand_fits v).natAbs_lt
  unfold DivCtl.aligned
  rcases c.width_cases with hw | hw <;> rw [hw] at this ⊢ <;> omega

theorem DivCtl.aligned_eq (c : DivCtl) (v : W64) :
    (c.operand v).natAbs % 2 ^ 64 * (if c.w32 then 2 ^ 32 else 1) % 2 ^ 64 = c.aligned v := by
  have hlt := (c.operand_fits v).natAbs_lt
  unfold DivCtl.aligned
  unfold DivCtl.width at hlt ⊢
  split at hlt <;> rename_i h <;> simp only [h, if_true, if_false, Bool.false_eq_true] <;> omega

/-- gD, control word and gA after `k` steps, at least one, that have left the partial remainder and dividend-quotient word `p`. -/
def DivCtl.regs (c : DivCtl) (k : Nat) (p : Int × Nat) : W64 × W64 × W64 :=
  (BitVec.ofInt 64 p.1, DivCtl.word { c with rneg := decide (p.1 < 0), step := k }, BitVec.ofNat 64 p.2)

/-- The control word's part that the first step settles: NEGA (R108). -/
def DivCtl.begun (c : DivCtl) (ga : W64) : DivCtl := { c with nega := c.signed && decide (c.operand ga < 0) }

theorem DivCtl.begun_dm (c : DivCtl) (ga gb : W64) : (c.begun ga).dm gb = c.dm gb := rfl

theorem DivCtl.full_lt (c : DivCtl) : c.full < 64 := by
  unfold DivCtl.full
  split <;> decide

theorem DivCtl.full_pos (c : DivCtl) : 0 < c.full := by
  unfold DivCtl.full
  split <;> decide

/-- DSTEP on the three registers it writes. -/
def dstepOn (gb : W64) (p : W64 × W64 × W64) : W64 × W64 × W64 := dstep p.1 p.2.1 p.2.2 gb

theorem dstepOn_word {c : DivCtl} (h : c.step = 0) (gd ga gb : W64) :
    dstepOn gb (gd, c.word, ga) = (c.begun ga).regs 1 ((divIter (c.dm gb))^[2] (0, c.aligned ga)) := by
  have hread : DivCtl.ofWord c.word = c := DivCtl.ofWord_word (by omega)
  have hne : 0 ≠ c.full := c.full_pos.ne
  simp only [dstepOn, dstep, hread, h, if_neg hne, if_true, DivCtl.aligned_eq, ofNat_ofSigned]
  rfl

theorem dstepOn_regs {c : DivCtl} {k : Nat} {p : Int × Nat} (gb : W64) (h0 : 0 < k) (hk : k < c.full)
    (hr : -2 ^ 64 ≤ p.1 ∧ p.1 < 2 ^ 64) (ha : p.2 < 2 ^ 64) :
    dstepOn gb (c.regs k p) = c.regs (k + 1) ((divIter (c.dm gb))^[2] p) := by
  have hread : DivCtl.ofWord (DivCtl.word { c with rneg := decide (p.1 < 0), step := k }) =
      { c with rneg := decide (p.1 < 0), step := k } := DivCtl.ofWord_word (hk.trans c.full_lt)
  have hne : k ≠ DivCtl.full { c with rneg := decide (p.1 < 0), step := k } := hk.ne
  have hword : (BitVec.ofNat 64 p.2).toNat = p.2 := by rw [BitVec.toNat_ofNat, Nat.mod_eq_of_lt ha]
  simp only [dstepOn, DivCtl.regs, dstep, hread, if_neg hne, if_neg h0.ne', ofNat_ofSigned, hword,
    signed_remainder hr.1 hr.2]
  rfl

/-- The steps on registers are the iterations on numbers, whatever gD held before the first. -/
theorem dstepOn_iterate {c : DivCtl} (h : c.step = 0) (gd ga gb : W64) {k : Nat} (h0 : 0 < k) (hk : k ≤ c.full) :
    (dstepOn gb)^[k] (gd, c.word, ga) = (c.begun ga).regs k ((divIter (c.dm gb))^[2 * k] (0, c.aligned ga)) := by
  induction k, h0 using Nat.le_induction with
  | base => exact dstepOn_word h gd ga gb
  | succ k h0 ih =>
    have hwidth := c.width_eq ▸ c.width_le
    have hle : 2 * k ≤ 64 := by omega
    have hat := divIter_iterate_divAt (c.dm_lt gb) (c.aligned_lt ga) hle
    rw [Function.iterate_succ_apply', ih (by omega), dstepOn_regs (c := c.begun ga) gb h0 hk
      (hat.bounds (c.dm_lt gb) (c.aligned_lt ga)) (hat.word_lt hle), Nat.mul_succ, Nat.add_comm (2 * k),
      Function.iterate_add_apply]
    rfl

/-! ## DFIX (R109, R110) -/

/-- A number narrowed to the operands' width, and extended as SIGNED selects (R109). -/
def DivCtl.narrow (c : DivCtl) (v : Int) : W64 :=
  BitVec.ofNat 64 (if c.w32 then (if c.signed then ofSigned (toSigned (ofSigned v 64) 32) 64 else ofSigned v 64 % 2 ^ 32)
    else ofSigned v 64)

/-- A number that fits the width is what every number congruent to it is narrowed to. -/
theorem DivCtl.narrow_eq {c : DivCtl} {u v : Int} (hv : c.Fits v) (h : u % 2 ^ c.width = v % 2 ^ c.width) :
    c.narrow u = BitVec.ofInt 64 v := by
  rw [← ofNat_ofSigned]
  unfold DivCtl.Fits at hv
  unfold DivCtl.narrow
  unfold DivCtl.width at h hv
  cases hw : c.w32 <;> simp only [hw, if_true, if_false, Bool.false_eq_true] at h hv ⊢
  · congr 1
    unfold ofSigned
    omega
  · cases hs : c.signed <;> simp only [hs, if_true, if_false, Bool.false_eq_true] at hv ⊢
    · congr 1
      unfold ofSigned
      omega
    · rw [toSigned_narrow hv.1 hv.2 h]

theorem DivCtl.Fits.ofInt_eq_zero {c : DivCtl} {v : Int} (h : c.Fits v) : (BitVec.ofInt 64 v == 0) = decide (v = 0) := by
  have hlt := h.natAbs_lt
  rw [beq_eq_decide, decide_eq_decide, ← BitVec.toNat_inj, BitVec.toNat_ofInt]
  rcases c.width_cases with hw | hw <;> rw [hw] at hlt <;> simp <;> omega

/-- DFIX where STEP is short of the full count (R109). -/
theorem dfix_short {c : DivCtl} (h : c.step < c.full) (gd ga gb : W64) :
    dfix gd c.word ga gb = (none, false, false, false, true) := by
  have hread : DivCtl.ofWord c.word = c := DivCtl.ofWord_word (h.trans c.full_lt)
  simp only [dfix, hread, ne_eq, h.ne, not_false_eq_true, if_true]

/-- The quotient's sign is to be changed: the operands' signs differ (R109). -/
def DivCtl.negates (c : DivCtl) (gb : W64) : Bool := c.signed && (c.nega != if c.w32 then gb.getLsbD 31 else gb.msb)

/-- A signed quotient does not fit the operands' width (R109). -/
def DivCtl.overflows (c : DivCtl) (q : Int) : Bool :=
  c.signed && !(decide (-(2 : Int) ^ (c.width - 1) ≤ q) && decide (q < (2 : Int) ^ (c.width - 1)))

/-- What DFIX makes of the quotient's and the remainder's numbers at the full count (R109): the registers and the flags. -/
def DivCtl.fixed (c : DivCtl) (dm : Nat) (q r : Int) : Option (W64 × W64) × (Bool × Bool × Bool × Bool) :=
  (some (c.narrow r, c.narrow q), c.narrow r == 0, (c.narrow q).msb, dm == 0, dm == 0 || c.overflows q)

theorem dfix_regs (c : DivCtl) (gb : W64) {p : Int × Nat} (hr : -2 ^ 64 ≤ p.1 ∧ p.1 < 2 ^ 64) (ha : p.2 < 2 ^ 64) :
    dfix (c.regs c.full p).1 (c.regs c.full p).2.1 (c.regs c.full p).2.2 gb =
      c.fixed (c.dm gb) (if c.dm gb = 0 then 2 ^ 64 - 1 else if c.negates gb then -(p.2 : Int) else p.2)
        (if c.signed && c.nega then -divRem (c.dm gb) p.1 else divRem (c.dm gb) p.1) := by
  have hread : DivCtl.ofWord (DivCtl.word { c with rneg := decide (p.1 < 0), step := c.full }) =
      { c with rneg := decide (p.1 < 0), step := c.full } := DivCtl.ofWord_word c.full_lt
  have hfull : DivCtl.full { c with rneg := decide (p.1 < 0), step := c.full } = c.full := rfl
  have hword : (BitVec.ofNat 64 p.2).toNat = p.2 := by rw [BitVec.toNat_ofNat, Nat.mod_eq_of_lt ha]
  simp only [DivCtl.regs, dfix, hread, hfull, ne_eq, not_true, if_false, hword, signed_remainder hr.1 hr.2]
  rfl

/-! ## Signs -/

/-- The divisor's sign bit is its sign (R109). -/
theorem DivCtl.operand_neg {c : DivCtl} (h : c.signed = true) (v : W64) :
    (if c.w32 then v.getLsbD 31 else v.msb) = decide (c.operand v < 0) := by
  unfold DivCtl.operand
  rw [h]
  cases c.w32 <;>
    simp [toSigned, BitVec.msb_eq_decide, BitVec.getLsbD, Nat.testBit_eq_decide_div_mod_eq] <;> split <;> omega

theorem DivCtl.operand_nonneg {c : DivCtl} (h : c.signed = false) (v : W64) : 0 ≤ c.operand v := by
  simp only [DivCtl.operand, h, Bool.false_eq_true, if_false]
  exact Int.natCast_nonneg _

/-- The quotient from its magnitude and the operands' signs. -/
theorem tdiv_eq_of_natAbs (x y : Int) :
    (if decide (x < 0) != decide (y < 0) then -((x.natAbs / y.natAbs : Nat) : Int) else (x.natAbs / y.natAbs : Nat)) =
      x.tdiv y := by
  obtain ⟨m, rfl | rfl⟩ := x.eq_nat_or_neg <;> obtain ⟨k, rfl | rfl⟩ := y.eq_nat_or_neg <;>
    simp only [Int.neg_tdiv, Int.tdiv_neg, ← Int.ofNat_tdiv, Int.natAbs_neg, Int.natAbs_natCast]
  · simp [show ¬(m : Int) < 0 by omega, show ¬(k : Int) < 0 by omega]
  · rcases k.eq_zero_or_pos with rfl | hk <;> simp [*]
  · rcases m.eq_zero_or_pos with rfl | hm <;> simp [*]
  · rcases m.eq_zero_or_pos with rfl | hm <;> rcases k.eq_zero_or_pos with rfl | hk <;> simp [*]

/-- The remainder from its magnitude and the dividend's sign. -/
theorem tmod_eq_of_natAbs (x y : Int) :
    (if decide (x < 0) then -((x.natAbs % y.natAbs : Nat) : Int) else (x.natAbs % y.natAbs : Nat)) = x.tmod y := by
  have hy : x.tmod y = x.tmod (y.natAbs : Int) := by
    rcases y.natAbs_eq with h | h <;> conv_lhs => rw [h]
    exact Int.tmod_neg ..
  obtain ⟨m, rfl | rfl⟩ := x.eq_nat_or_neg <;>
    simp only [hy, Int.neg_tmod, ← Int.ofNat_tmod, Int.natAbs_neg, Int.natAbs_natCast]
  · simp
  · rcases m.eq_zero_or_pos with rfl | hm <;> simp [*]

/-- The quotient is negated where the operands' signs differ: of unsigned operands none is negative. -/
theorem DivCtl.begun_negates (c : DivCtl) (ga gb : W64) :
    (c.begun ga).negates gb = (decide (c.operand ga < 0) != decide (c.operand gb < 0)) := by
  rw [DivCtl.negates, DivCtl.begun]
  cases hs : c.signed with
  | true => rw [DivCtl.operand_neg hs, Bool.true_and, Bool.true_and]
  | false => simp [(DivCtl.operand_nonneg hs _).not_gt]

theorem DivCtl.begun_nega (c : DivCtl) (ga : W64) :
    ((c.begun ga).signed && (c.begun ga).nega) = decide (c.operand ga < 0) := by
  rw [DivCtl.begun]
  cases hs : c.signed with
  | true => rw [Bool.true_and, Bool.true_and]
  | false => simp [DivCtl.operand_nonneg hs]

/-! ## Results that fit -/

theorem DivCtl.Fits.tmod {c : DivCtl} {x : Int} (h : c.Fits x) (y : Int) : c.Fits (x.tmod y) := by
  have hle := Nat.mod_le x.natAbs y.natAbs
  rw [← tmod_eq_of_natAbs]
  unfold DivCtl.Fits at *
  cases hs : c.signed <;> simp only [hs, if_true, if_false, Bool.false_eq_true, decide_eq_true_eq] at h ⊢
  · rw [if_neg h.1.not_gt]
    omega
  · split <;> omega

/-- The quotient fits, but for the one signed overflow (R110). -/
theorem DivCtl.Fits.tdiv {c : DivCtl} {x y : Int} (hx : c.Fits x) (hy : c.Fits y) (h0 : y ≠ 0)
    (hov : ¬(c.signed = true ∧ x = -2 ^ (c.width - 1) ∧ y = -1)) : c.Fits (x.tdiv y) := by
  have habs : (x.tdiv y).natAbs = x.natAbs / y.natAbs := Int.natAbs_tdiv x y
  unfold DivCtl.Fits at *
  cases hs : c.signed <;> simp only [hs, if_true, if_false, Bool.false_eq_true, true_and] at hx hy hov ⊢
  · have hle := Nat.div_le_self x.natAbs y.natAbs
    have hnonneg := Int.tdiv_nonneg hx.1 hy.1
    omega
  · rcases (show y = 1 ∨ y = -1 ∨ 2 ≤ y.natAbs by omega) with rfl | rfl | h2
    · rwa [Int.tdiv_one]
    · rw [Int.tdiv_neg, Int.tdiv_one]
      omega
    · have hhalf := Nat.div_le_div_left (a := x.natAbs) h2 two_pos
      have hle := Nat.div_le_self x.natAbs y.natAbs
      omega

/-! ## A whole division (R110) -/

/-- The full count of steps leaves the magnitudes of quotient and remainder. -/
theorem DivAt.at_width {c : DivCtl} {ga gb : W64} {p : Int × Nat} (h : DivAt (c.dm gb) (c.aligned ga) c.width p) :
    divRem (c.dm gb) p.1 = ((c.operand ga).natAbs % (c.operand gb).natAbs : Nat) ∧
      (c.operand gb ≠ 0 → p.2 = (c.operand ga).natAbs / (c.operand gb).natAbs) := by
  obtain ⟨hrem, q, -, hp, hq⟩ := h
  have hdiv : c.aligned ga / 2 ^ (64 - c.width) = (c.operand ga).natAbs := Nat.mul_div_cancel _ (Nat.two_pow_pos _)
  rw [hdiv] at hrem hq
  refine ⟨hrem, fun hy => ?_⟩
  rw [hp, DivCtl.aligned, Nat.mul_mod_left, Nat.zero_mul, Nat.zero_add]
  exact hq (c.dm_eq_zero.not.mpr hy)

/-- What a whole division leaves, the full count of steps and the fix-up: the registers gD and gA, and Z, N, C and V. -/
def DivCtl.divide (c : DivCtl) (gd ga gb : W64) : Option (W64 × W64) × (Bool × Bool × Bool × Bool) :=
  let p := (dstepOn gb)^[c.full] (gd, c.word, ga)
  dfix p.1 p.2.1 p.2.2 gb

/-- The quotient rounded toward zero, or all ones, and the remainder are what DFIX fixes up after the full count of steps. -/
theorem DivCtl.divide_eq {c : DivCtl} (h : c.step = 0) (gd ga gb : W64) :
    c.divide gd ga gb = c.fixed (c.dm gb)
      (if c.operand gb = 0 then 2 ^ 64 - 1 else (c.operand ga).tdiv (c.operand gb)) ((c.operand ga).tmod (c.operand gb)) := by
  have hat := divIter_iterate_divAt (c.dm_lt gb) (c.aligned_lt ga) c.width_le
  obtain ⟨hrem, hquot⟩ := hat.at_width
  have hsteps := dstepOn_iterate h gd ga gb c.full_pos le_rfl
  rw [← c.width_eq] at hsteps
  rw [DivCtl.divide, hsteps]
  refine (dfix_regs (c.begun ga) gb (hat.bounds (c.dm_lt gb) (c.aligned_lt ga)) (hat.word_lt c.width_le)).trans ?_
  rw [c.begun_negates, c.begun_nega, DivCtl.begun_dm, hrem, tmod_eq_of_natAbs]
  by_cases hy : c.operand gb = 0
  · rw [if_pos hy, if_pos (c.dm_eq_zero.mpr hy)]
    rfl
  · rw [if_neg hy, if_neg (c.dm_eq_zero.not.mpr hy), hquot hy, tdiv_eq_of_natAbs]
    rfl

/-- What the fix-up leaves for a quotient that is narrowed to `v`: the remainder always fits. -/
theorem DivCtl.fixed_eq {c : DivCtl} {q r v : Int} (dm : Nat) (hr : c.Fits r) (hv : c.Fits v)
    (h : q % 2 ^ c.width = v % 2 ^ c.width) :
    c.fixed dm q r = (some (BitVec.ofInt 64 r, BitVec.ofInt 64 v), decide (r = 0), (BitVec.ofInt 64 v).msb, dm == 0,
      dm == 0 || c.overflows q) := by
  rw [DivCtl.fixed, DivCtl.narrow_eq hr rfl, DivCtl.narrow_eq hv h, hr.ofInt_eq_zero]

theorem DivCtl.Fits.not_overflows {c : DivCtl} {q : Int} (h : c.Fits q) : c.overflows q = false := by
  unfold DivCtl.Fits at h
  rw [DivCtl.overflows]
  cases hs : c.signed with
  | true =>
    rw [hs, if_pos rfl] at h
    simp [h]
  | false => rfl

section
variable {c : DivCtl} (h : c.step = 0) (gd : W64) {ga gb : W64}
include h

theorem divide_of_fits (h0 : c.operand gb ≠ 0)
    (hov : ¬(c.signed = true ∧ c.operand ga = -2 ^ (c.width - 1) ∧ c.operand gb = -1)) :
    c.divide gd ga gb = (some (BitVec.ofInt 64 ((c.operand ga).tmod (c.operand gb)),
      BitVec.ofInt 64 ((c.operand ga).tdiv (c.operand gb))), decide ((c.operand ga).tmod (c.operand gb) = 0),
      (BitVec.ofInt 64 ((c.operand ga).tdiv (c.operand gb))).msb, false, false) := by
  have hfits := (c.operand_fits ga).tdiv (c.operand_fits gb) h0 hov
  have hdm : (c.dm gb == 0) = false := beq_eq_false_iff_ne.mpr (c.dm_eq_zero.not.mpr h0)
  rw [DivCtl.divide_eq h, if_neg h0, DivCtl.fixed_eq _ ((c.operand_fits ga).tmod _) hfits rfl, hdm,
    hfits.not_overflows]
  rfl

theorem divide_by_zero (h0 : c.operand gb = 0) :
    c.divide gd ga gb = (some (BitVec.ofInt 64 (c.operand ga), BitVec.ofInt 64 (if c.w32 && !c.signed then 2 ^ 32 - 1 else -1)),
      decide (c.operand ga = 0), !(c.w32 && !c.signed), true, true) := by
  have hdm : (c.dm gb == 0) = true := beq_iff_eq.mpr (c.dm_eq_zero.mpr h0)
  have hones : c.narrow (2 ^ 64 - 1) = BitVec.ofInt 64 (if c.w32 && !c.signed then 2 ^ 32 - 1 else -1) := by
    unfold DivCtl.narrow
    cases c.w32 <;> cases c.signed <;> decide
  have hmsb : (BitVec.ofInt 64 (if c.w32 && !c.signed then 2 ^ 32 - 1 else -1)).msb = !(c.w32 && !c.signed) := by
    cases c.w32 <;> cases c.signed <;> decide
  have hfits := c.operand_fits ga
  rw [DivCtl.divide_eq h, if_pos h0, h0, Int.tmod_zero, DivCtl.fixed, hones, hmsb, hdm,
    DivCtl.narrow_eq hfits rfl, hfits.ofInt_eq_zero]
  rfl

theorem divide_overflow (hs : c.signed = true) (hx : c.operand ga = -2 ^ (c.width - 1)) (hy : c.operand gb = -1) :
    c.divide gd ga gb = (some (0, BitVec.ofInt 64 (c.operand ga)), true, true, false, true) := by
  have hdm : (c.dm gb == 0) = false := beq_eq_false_iff_ne.mpr (c.dm_eq_zero.not.mpr (by rw [hy]; decide))
  have hfits := c.operand_fits ga
  have hcong : -c.operand ga % 2 ^ c.width = c.operand ga % 2 ^ c.width := by
    rw [hx]
    rcases c.width_cases with hw | hw <;> rw [hw] <;> rfl
  have hmsb : (BitVec.ofInt 64 (c.operand ga)).msb = true := by
    rw [hx]
    rcases c.width_cases with hw | hw <;> rw [hw] <;> decide
  have hover : c.overflows (-c.operand ga) = true := by
    rw [DivCtl.overflows, hs, hx]
    simp
  rw [DivCtl.divide_eq h, if_neg (by rw [hy]; decide), DivCtl.fixed_eq (v := c.operand ga) _ (hfits.tmod _) hfits]
  · rw [hy, Int.tdiv_neg, Int.tdiv_one, Int.tmod_neg, Int.tmod_one, hmsb, hdm, hover]
    rfl
  · rwa [hy, Int.tdiv_neg, Int.tdiv_one]

/-- With fewer steps than the full count DFIX writes nothing (R109). -/
theorem dfix_dstepOn_short {k : Nat} (hk : k < c.full) :
    let p := (dstepOn gb)^[k] (gd, c.word, ga)
    dfix p.1 p.2.1 p.2.2 gb = (none, false, false, false, true) := by
  rcases k.eq_zero_or_pos with rfl | h0
  · exact dfix_short (by rwa [h]) _ _ _
  · rw [dstepOn_iterate h gd ga gb h0 hk.le]
    exact dfix_short hk _ _ _

end

/-- An operand as the statement about a whole division writes it. -/
theorem DivCtl.operand_eq (c : DivCtl) (v : W64) :
    c.operand v = if c.signed = true ∧ 2 ^ (c.width - 1) ≤ v.toNat % 2 ^ c.width
      then ((v.toNat % 2 ^ c.width : Nat) : Int) - 2 ^ c.width else (v.toNat % 2 ^ c.width : Nat) := by
  have hw : (if c.w32 then 32 else 64) = c.width := rfl
  rw [DivCtl.operand, hw, toSigned]
  cases c.signed <;> simp only [Bool.false_eq_true, false_and, true_and, if_true, if_false, ← not_lt, ite_not]
  push_cast
  rfl

end Sys2Proof.Machine
end

section
/-! Products and the steps of a division on an engine's registers (R83, R105, R106). -/
namespace Sys2Proof.Machine

/-! ## Effects on registers and flags -/

/-- An effect on an engine that IADDR's skip does not change, with no FPTRAP raised and no stored code left behind. -/
structure RegEffect (f : Engine → Engine) : Prop where
  noSkip : ∀ e, f e.noSkip = (f e).noSkip
  fpt : ∀ e, (f e).fpt = e.fpt
  codes : ∀ e, e.codes = [] → (f e).codes = []

theorem RegEffect.id : RegEffect fun e => e := ⟨fun _ => rfl, fun _ => rfl, fun _ h => h⟩

theorem RegEffect.setG {f : Engine → Engine} (h : RegEffect f) (i : Nat) {v : Engine → W64} (hv : ∀ e, v e.noSkip = v e) :
    RegEffect fun e => (f e).setG i (v e) where
  noSkip e := by rw [h.noSkip, hv, setG_noSkip]
  fpt e := by rw [setG_fpt, h.fpt]
  codes e he := setG_codes _ _ (h.codes e he)

theorem RegEffect.withSt {f : Engine → Engine} (h : RegEffect f) {st : Engine → St} (hst : ∀ e, st e.noSkip = st e) :
    RegEffect fun e => { f e with st := st e } where
  noSkip e := by rw [h.noSkip, hst]; rfl
  fpt := h.fpt
  codes := h.codes

theorem RegEffect.elim {α : Type} {o : Engine → Option α} {f : Engine → Engine} {g : α → Engine → Engine}
    (ho : ∀ e, o e.noSkip = o e) (hf : RegEffect f) (hg : ∀ a, RegEffect (g a)) :
    RegEffect fun e => (o e).elim (f e) fun a => g a e where
  noSkip e := by
    rw [ho]
    cases o e with
    | none => exact hf.noSkip e
    | some a => exact (hg a).noSkip e
  fpt e := by
    cases o e with
    | none => exact hf.fpt e
    | some a => exact (hg a).fpt e
  codes e he := by
    cases o e with
    | none => exact hf.codes e he
    | some a => exact (hg a).codes e he

/-- A well-encoded instruction with such an effect retires where nothing is due. -/
theorem RegEffect.gives {c : Instr} {s : State} {n : PE} {word len : Nat} {bad : Bool} {f g : Engine → Engine} (hf : RegEffect f)
    (hx : exec c s = done s (s.blk.regOp n word len bad f)) (hbad : bad = false) (h : AtInstr s n word) (q : Quiet s n)
    (hg : f (s.blk.engine n) = g (s.blk.engine n)) : Gives c s (Retired s n (nextPc (s.blk.engine n).pc len) g) := by
  subst hbad
  exact gives_regOp f hx h q (fun e => (congrArg Engine.core (hf.noSkip e)).trans (core_skip _)) hf.fpt hf.codes hg

/-! ## Products (R83, R105) -/

theorem mul_eq_ofInt (x y : W64) : x * y = BitVec.ofInt 64 (x.toInt * y.toInt) := by
  rw [BitVec.ofInt_mul, BitVec.ofInt_toInt, BitVec.ofInt_toInt]

theorem lo64_ofInt (v : Int) : lo64 (BitVec.ofInt 128 v) = BitVec.ofInt 64 v := by
  apply BitVec.eq_of_toNat_eq
  rw [lo64, BitVec.toNat_setWidth, BitVec.toNat_ofInt, BitVec.toNat_ofInt]
  omega

theorem hi64_ofInt (v : Int) : hi64 (BitVec.ofInt 128 v) = BitVec.ofInt 64 (v / 2 ^ 64) := by
  apply BitVec.eq_of_toNat_eq
  rw [hi64, BitVec.extractLsb'_toNat, BitVec.toNat_ofInt, BitVec.toNat_ofInt, Nat.shiftRight_eq_div_pow]
  omega

theorem mulU_eq_ofInt (x y : W64) : mulU x y = BitVec.ofInt 128 ((x.toNat * y.toNat : Nat) : Int) :=
  (BitVec.ofInt_natCast ..).symm

theorem toInt_mulS (x y : W64) : (mulS x y).toInt = x.toInt * y.toInt := by
  have hle := BitVec.le_toInt_mul_toInt (x := x) (y := y)
  have hlt := BitVec.toInt_mul_toInt_le (x := x) (y := y)
  rw [mulS, BitVec.toInt_ofInt_eq_self (by decide)] <;> omega

/-- The signed product is the sign extension of its low half exactly where that half, read as signed, is the product. -/
theorem mulOverflow_eq (x y : W64) :
    mulOverflow x y = decide ((BitVec.ofInt 64 (x.toInt * y.toInt)).toInt ≠ x.toInt * y.toInt) := by
  have hext : ((lo64 (mulS x y)).signExtend 128).toInt = (BitVec.ofInt 64 (x.toInt * y.toInt)).toInt := by
    rw [BitVec.toInt_signExtend_of_le (by decide), mulS, lo64_ofInt]
  rw [mulOverflow, bne, beq_eq_decide, ← decide_not, decide_eq_decide, not_iff_not, ← BitVec.toInt_inj, toInt_mulS, hext]
  exact eq_comm

section
variable {s : State} {n : PE} {d a b : BitVec 5} (q : Quiet s n)
include q

theorem gives_mul (h : AtInstr s n (wordR 0x30 d a b 0)) :
    let ps := ((s.blk.engine n).g a.toNat).toInt * ((s.blk.engine n).g b.toNat).toInt
    let low := BitVec.ofInt 64 ps
    Gives (.mul n d a b 0) s (Retired s n (nextPc (s.blk.engine n).pc 4) fun e => { e.setG d.toNat low with
        st := { e.st with
          z := decide (low.toNat = 0), n := decide (low.toInt < 0), v := decide (low.toInt ≠ ps) } }) := by
  intro ps low
  refine ((RegEffect.id.setG d.toNat fun e => rfl).withSt fun e => rfl).gives rfl rfl h q ?_
  have hlow : (s.blk.engine n).g a.toNat * (s.blk.engine n).g b.toNat = low := mul_eq_ofInt _ _
  have hz : (low == 0) = decide (low.toNat = 0) := by rw [beq_eq_decide, decide_eq_decide, ← BitVec.toNat_inj]; rfl
  simp only [hlow, mulOverflow_eq, St.zn, hz, BitVec.msb_eq_toInt]
  rfl

theorem gives_mulhS (h : AtInstr s n (wordR 0x31 d a b 0)) :
    Gives (.mulhS n d a b 0) s (Retired s n (nextPc (s.blk.engine n).pc 4) fun e => e.setG d.toNat
      (BitVec.ofInt 64 (((s.blk.engine n).g a.toNat).toInt * ((s.blk.engine n).g b.toNat).toInt / 2 ^ 64))) := by
  rw [← hi64_ofInt]
  exact ((RegEffect.id.setG d.toNat fun e => rfl).withSt fun e => rfl).gives rfl rfl h q (result_keeping_st _ _ _)

theorem gives_mulhU (h : AtInstr s n (wordR 0x32 d a b 0)) :
    Gives (.mulhU n d a b 0) s (Retired s n (nextPc (s.blk.engine n).pc 4) fun e => e.setG d.toNat
      (BitVec.ofInt 64 (((((s.blk.engine n).g a.toNat).toNat * ((s.blk.engine n).g b.toNat).toNat : Nat) : Int) / 2 ^ 64))) := by
  rw [← hi64_ofInt, ← mulU_eq_ofInt]
  exact ((RegEffect.id.setG d.toNat fun e => rfl).withSt fun e => rfl).gives rfl rfl h q (result_keeping_st _ _ _)

theorem gives_mulwS (hd : d.toNat < 30) (h : AtInstr s n (wordR 0x33 d a b 0)) :
    let ps := ((s.blk.engine n).g a.toNat).toInt * ((s.blk.engine n).g b.toNat).toInt
    Gives (.mulwS n d a b 0) s (Retired s n (nextPc (s.blk.engine n).pc 4) fun e =>
      (e.setG d.toNat (BitVec.ofInt 64 ps)).setG (d.toNat + 1) (BitVec.ofInt 64 (ps / 2 ^ 64))) :=
  ((RegEffect.id.setG d.toNat fun e => rfl).setG (d.toNat + 1) fun e => rfl).gives rfl (by simp [hd]) h q
    (by rw [mulS, lo64_ofInt, hi64_ofInt])

theorem gives_mulwU (hd : d.toNat < 30) (h : AtInstr s n (wordR 0x34 d a b 0)) :
    let pu : Int := (((s.blk.engine n).g a.toNat).toNat * ((s.blk.engine n).g b.toNat).toNat : Nat)
    Gives (.mulwU n d a b 0) s (Retired s n (nextPc (s.blk.engine n).pc 4) fun e =>
      (e.setG d.toNat (BitVec.ofInt 64 pu)).setG (d.toNat + 1) (BitVec.ofInt 64 (pu / 2 ^ 64))) :=
  ((RegEffect.id.setG d.toNat fun e => rfl).setG (d.toNat + 1) fun e => rfl).gives rfl (by simp [hd]) h q
    (by rw [mulU_eq_ofInt, lo64_ofInt, hi64_ofInt])

end

/-! ## The steps of a division (R106) -/

/-- Four different registers, none of them g31, break no rule of R106. -/
theorem badDiv_of_nodup {d a b : BitVec 5} (hd : d.toNat ≤ 29)
    (h : ([d.toNat, d.toNat + 1, a.toNat, b.toNat, 31] : List Nat).Nodup) : badDiv d a b = false := by
  simp only [List.nodup_cons, List.mem_cons, List.not_mem_nil, or_false, not_or] at h
  simp only [badDiv, Bool.or_eq_false_iff, decide_eq_false_iff_not, beq_eq_false_iff_ne]
  omega

/-- DFIX's effect on the engine: the two registers where it writes any, and the flags. -/
def dfixOn (d a b : BitVec 5) (e : Engine) : Engine :=
  let r := dfix (e.g d.toNat) (e.g (d.toNat + 1)) (e.g a.toNat) (e.g b.toNat)
  { r.1.elim e (fun p => (e.setG d.toNat p.1).setG a.toNat p.2) with
    st := { e.st with z := r.2.1, n := r.2.2.1, c := r.2.2.2.1, v := r.2.2.2.2 } }

theorem dfixOn_regEffect (d a b : BitVec 5) : RegEffect (dfixOn d a b) := by
  have hwrites : RegEffect fun e => (dfix (e.g d.toNat) (e.g (d.toNat + 1)) (e.g a.toNat) (e.g b.toNat)).1.elim e fun p =>
      (e.setG d.toNat p.1).setG a.toNat p.2 :=
    .elim (fun _ => rfl) .id fun p => (RegEffect.id.setG d.toNat (v := fun _ => p.1) fun _ => rfl).setG a.toNat
      (v := fun _ => p.2) fun _ => rfl
  exact hwrites.withSt fun _ => rfl

theorem execDfix_eq (n : PE) (d a b : BitVec 5) (s : State) :
    execDfix n d a b 0 s = done s (s.blk.regOp n (wordR 0x39 d a b 0) 4 (badDiv d a b) (dfixOn d a b)) := by
  refine congrArg (fun f => done s (s.blk.regOp n (wordR 0x39 d a b 0) 4 (badDiv d a b) f)) (funext fun e => ?_)
  unfold dfixOn
  generalize dfix _ _ _ _ = r
  obtain ⟨_ | p, f⟩ := r <;> rfl

section
variable {s : State} {n : PE} {d a b : BitVec 5} (q : Quiet s n) (hd : badDiv d a b = false)
include q hd

theorem gives_dstep (h : AtInstr s n (wordR 0x38 d a b 0)) :
    let e := s.blk.engine n
    let r := dstep (e.g d.toNat) (e.g (d.toNat + 1)) (e.g a.toNat) (e.g b.toNat)
    Gives (.dstep n d a b 0) s (Retired s n (nextPc e.pc 4) fun e =>
      ((e.setG d.toNat r.1).setG (d.toNat + 1) r.2.1).setG a.toNat r.2.2) :=
  (((RegEffect.id.setG d.toNat fun _ => rfl).setG (d.toNat + 1) fun _ => rfl).setG a.toNat fun _ => rfl).gives
    rfl hd h q rfl

theorem gives_dfix {g : Engine → Engine} (h : AtInstr s n (wordR 0x39 d a b 0))
    (hg : dfixOn d a b (s.blk.engine n) = g (s.blk.engine n)) :
    Gives (.dfix n d a b 0) s (Retired s n (nextPc (s.blk.engine n).pc 4) g) :=
  (dfixOn_regEffect d a b).gives (execDfix_eq n d a b s) hd h q hg

end

/-- Settles O9: products and divide steps retire with the values of R83 and R105 to R109; the iterations of the steps keep `DivAt`,
long division's invariant, so that a whole division ends with quotient and remainder (R110). -/
theorem multiplyAndDivide : Obligations.MultiplyAndDivide := by
  unfold Obligations.MultiplyAndDivide
  refine ⟨fun n d a b s q => ?_, fun n d a b s q hd hnodup => ?_, fun gd ga gb signed narrow => ?_⟩
  · exact ⟨gives_mul q, gives_mulhS q, gives_mulhU q, fun hd => ⟨gives_mulwS q hd, gives_mulwU q hd⟩⟩
  · have hbad := badDiv_of_nodup hd hnodup
    exact ⟨gives_dstep q hbad, fun h => ⟨fun p hp => gives_dfix q hbad h (by rw [dfixOn, hp]; rfl),
      fun hp => gives_dfix q hbad h (by rw [dfixOn, hp]; rfl)⟩⟩
  · have h : (DivCtl.start narrow signed).step = 0 := rfl
    rw [← DivCtl.start_word]
    intro ctl w operand x y one p fixed out
    have hx : (DivCtl.start narrow signed).operand ga = x := DivCtl.operand_eq _ _
    have hy : (DivCtl.start narrow signed).operand gb = y := DivCtl.operand_eq _ _
    rw [← hx, ← hy]
    exact ⟨divide_of_fits h gd, divide_by_zero h gd, divide_overflow h gd, fun k hk => dfix_dstepOn_short h gd hk⟩

end Sys2Proof.Machine
end

section
/-! What a step answers, whatever the queue holds (log entry 60), and the state after reset. -/
namespace Sys2Proof.Machine

/-- A command that some agent can send goes on, and leaves the queue as it finds it. -/
theorem exec_of_wellFormed {c : Instr} (hw : c.wellFormed = true) (s : State) :
    ∃ t, exec c s = .next t ∧ t.pending = s.pending := by
  by_cases hc : c = .sealInputHigh
  · subst hc
    exact ⟨_, rfl, rfl⟩
  · obtain ⟨b, hb⟩ := exec_eq_done hw hc s
    exact ⟨_, hb.trans (done_next s b), rfl⟩

/-- One step of a state whose queue only agents filled: it goes on, and the queue loses its front. -/
theorem step_of_sendable {s : State} (h : Sendable s) : ∃ t, step s = .next t ∧ t.pending = s.pending.drop 1 := by
  cases hp : s.pending with
  | nil => exact ⟨_, (step_of_pending_nil hp).trans (done_next s _), hp⟩
  | cons c q =>
    have hw : c.wellFormed = true := h c (by simp [hp])
    obtain ⟨t, ht, hq⟩ := exec_of_wellFormed hw { s with pending := q }
    exact ⟨t, (step_of_pending_cons hp).trans ht, hq⟩

/-- Settles O2: every meaning but that of an ill-formed command answers through `done` or is SEAL_INPUT_HIGH, and neither
touches the queue. -/
theorem neverStops : Obligations.NeverStops := by
  unfold Obligations.NeverStops
  refine ⟨fun s h => ?_, fun c s => ⟨fun hw => exec_of_wellFormed hw s, fun hw => exec_of_not_wellFormed hw s⟩⟩
  obtain ⟨t, ht, hq⟩ := step_of_sendable h
  refine ⟨t, ht, hq, fun c hc => h c ?_⟩
  rw [hq] at hc
  exact List.mem_of_mem_drop hc

/-- Settles O1: a step is `exec` of the front command, or the PERIPH tick of log entry 31; no word of the table spells a command. -/
theorem stepRunsFront : Obligations.StepRunsFront := by
  unfold Obligations.StepRunsFront
  exact ⟨fun c q s hp => step_of_pending_cons hp,
    fun s hp => ⟨_, (step_of_pending_nil hp).trans (done_next s _), hp⟩, fun nbits w s => ⟨rfl, rfl⟩⟩

/-- Where no register has been written a field reads its reset value. -/
theorem get_reset (f : Fld) : Block.reset.get f = f.rst := rfl

theorem wellKept_reset : WellKept State.reset := by
  refine ⟨rfl, List.Pairwise.nil, fun j hj => ?_⟩
  cases hj
  exact ⟨by decide, by decide⟩

/-- Settles O5: nothing has been written, so that every field reads the value the register map gives it. -/
theorem atReset : Obligations.AtReset := by
  unfold Obligations.AtReset
  refine ⟨wellKept_reset, rfl, rfl, rfl, rfl, rfl, rfl, rfl, rfl, rfl, ?_, ?_, ?_, ?_, ?_⟩
  · intro n hn
    exact ⟨rfl, rfl, rfl, rfl, rfl, rfl⟩
  · intro k hk
    exact ⟨rfl, rfl⟩
  · intro g hg hr
    exact if_neg fun h => by omega
  · intro c hc
    exact ⟨rfl, rfl⟩
  · intro i hi
    rfl

end Sys2Proof.Machine
end

section
/-! The integer instructions that write one register and flags: sums and differences, bits, shifts and rotates (R79, R81, R82). -/
namespace Sys2Proof.Machine

/-! ## Flags (R79) -/

theorem beq_zero_eq (r : W64) : (r == 0) = decide (r.toNat = 0) := by
  rw [beq_eq_decide, decide_eq_decide, ← BitVec.toNat_inj]
  rfl

theorem msb_eq (r : W64) : r.msb = decide (2 ^ 63 ≤ r.toNat) := BitVec.msb_eq_decide r

/-- A result's Z and N, beside a carry and the sum or difference that it should be: V says that it is another one. -/
def St.exactFlags (q : St) (r : W64) (c : Bool) (exact : Int) : St :=
  { q with z := decide (r.toNat = 0), n := decide (2 ^ 63 ≤ r.toNat), c := c, v := decide (r.toInt ≠ exact) }

/-- Where both operands of an addition have one sign and the sum the other, the signed sum does not fit, and only there. -/
theorem add_overflow_eq (x y : W64) (k : Bool) :
    let r := x + y + BitVec.ofNat 64 (bit k)
    (x.msb == y.msb && r.msb != x.msb) = decide (r.toInt ≠ x.toInt + y.toInt + bit k) := by
  have hx := x.isLt
  have hy := y.isLt
  have hk : bit k ≤ 1 := by cases k <;> decide
  rw [Bool.eq_iff_iff]
  simp only [Bool.and_eq_true, bne_iff_ne, beq_iff_eq, decide_eq_true_eq, msb_eq, BitVec.toInt_eq_toNat_cond, BitVec.toNat_add,
    BitVec.toNat_ofNat, decide_eq_decide, ne_eq]
  omega

/-- As for a sum: a borrow is the carry's complement. -/
theorem sub_overflow_eq (x y : W64) (k : Bool) :
    let r := x - y - BitVec.ofNat 64 (bit k)
    (x.msb != y.msb && r.msb != x.msb) = decide (r.toInt ≠ x.toInt - y.toInt - bit k) := by
  have hx := x.isLt
  have hy := y.isLt
  have hk : bit k ≤ 1 := by cases k <;> decide
  rw [Bool.eq_iff_iff]
  simp only [Bool.and_eq_true, bne_iff_ne, decide_eq_true_eq, msb_eq, BitVec.toInt_eq_toNat_cond, BitVec.toNat_sub,
    BitVec.toNat_ofNat, decide_eq_decide, ne_eq]
  omega

theorem addFlags_eq (q : St) (x y : W64) (k : Bool) :
    q.addFlags x y k = q.exactFlags (x + y + BitVec.ofNat 64 (bit k)) (decide (2 ^ 64 ≤ x.toNat + y.toNat + bit k))
      (x.toInt + y.toInt + bit k) := by
  simp only [St.addFlags, St.exactFlags, beq_zero_eq, add_overflow_eq, ← msb_eq]

theorem subFlags_eq (q : St) (x y : W64) (k : Bool) :
    q.subFlags x y k = q.exactFlags (x - y - BitVec.ofNat 64 (bit !k)) (decide (y.toNat + bit (!k) ≤ x.toNat))
      (x.toInt - y.toInt - bit !k) := by
  simp only [St.subFlags, St.exactFlags, beq_zero_eq, sub_overflow_eq, ← msb_eq]

/-- An addition without a carry coming in. -/
theorem addFlags_false (q : St) (x y : W64) :
    q.addFlags x y false = q.exactFlags (x + y) (decide (2 ^ 64 ≤ x.toNat + y.toNat)) (x.toInt + y.toInt) := by
  simp [addFlags_eq, bit]

/-- A subtraction without a borrow coming in. -/
theorem subFlags_true (q : St) (x y : W64) :
    q.subFlags x y true = q.exactFlags (x - y) (decide (y.toNat ≤ x.toNat)) (x.toInt - y.toInt) := by
  simp [subFlags_eq, bit]

theorem zn_eq (q : St) (r : W64) : q.zn r = { q with z := decide (r.toNat = 0), n := decide (2 ^ 63 ≤ r.toNat) } := by
  simp only [St.zn, beq_zero_eq, msb_eq]

theorem shiftFlags_eq (q : St) (r : W64) (k : Nat) (out : Bool) :
    q.shiftFlags r k out =
      { q with z := decide (r.toNat = 0), n := decide (2 ^ 63 ≤ r.toNat), c := if k = 0 then q.c else out } := by
  simp only [St.shiftFlags, zn_eq]

/-! ## Instructions with one result and flags -/

theorem RegEffect.result (i : Nat) {r : Engine → W64} {st : Engine → St} (hr : ∀ e, r e.noSkip = r e)
    (hst : ∀ e, st e.noSkip = st e) : RegEffect fun e => e.result i (r e) (st e) :=
  (RegEffect.id.setG i hr).withSt hst

section
variable {c : Instr} {s : State} {n : PE} {word len i : Nat} {bad : Bool}

/-- An instruction that writes D and flags retires with what they are of the engine as it stands. -/
theorem gives_result {r : Engine → W64} {st : Engine → St} (r' : W64) (st' : St → St)
    (hx : exec c s = done s (s.blk.regOp n word len bad fun e => e.result i (r e) (st e))) (hbad : bad = false)
    (h : AtInstr s n word) (q : Quiet s n) (hr : r (s.blk.engine n) = r')
    (hst : st (s.blk.engine n) = st' (s.blk.engine n).st)
    (hr0 : ∀ e, r e.noSkip = r e := by intros; rfl) (hst0 : ∀ e, st e.noSkip = st e := by intros; rfl) :
    Gives c s (Retired s n (nextPc (s.blk.engine n).pc len) fun e => { e.setG i r' with st := st' e.st }) :=
  (RegEffect.result i hr0 hst0).gives hx hbad h q (by rw [hr, hst]; rfl)

/-- An instruction that writes D and no flag. -/
theorem gives_value {r : Engine → W64} (r' : W64)
    (hx : exec c s = done s (s.blk.regOp n word len bad fun e => e.result i (r e) e.st)) (hbad : bad = false)
    (h : AtInstr s n word) (q : Quiet s n) (hr : r (s.blk.engine n) = r')
    (hr0 : ∀ e, r e.noSkip = r e := by intros; rfl) :
    Gives c s (Retired s n (nextPc (s.blk.engine n).pc len) fun e => e.setG i r') :=
  (RegEffect.result i hr0 fun _ => rfl).gives hx hbad h q (by rw [hr, result_keeping_st])

/-- A comparison: flags only. -/
theorem gives_flags {st : Engine → St} (st' : St → St)
    (hx : exec c s = done s (s.blk.regOp n word len bad fun e => { e with st := st e })) (hbad : bad = false)
    (h : AtInstr s n word) (q : Quiet s n) (hst : st (s.blk.engine n) = st' (s.blk.engine n).st)
    (hst0 : ∀ e, st e.noSkip = st e := by intros; rfl) :
    Gives c s (Retired s n (nextPc (s.blk.engine n).pc len) fun e => { e with st := st' e.st }) :=
  (RegEffect.id.withSt hst0).gives hx hbad h q (by rw [hst])

/-- A logic instruction: Z and N are those of the result. -/
theorem gives_logic {r : Engine → W64} {r' : W64}
    (hx : exec c s = done s (s.blk.regOp n word len bad fun e => e.result i (r e) (e.st.zn (r e)))) (hbad : bad = false)
    (h : AtInstr s n word) (q : Quiet s n) (hr : r (s.blk.engine n) = r')
    (hr0 : ∀ e, r e.noSkip = r e := by intros; rfl) :
    Gives c s (Retired s n (nextPc (s.blk.engine n).pc len) fun e => { e.setG i r' with
      st := { e.st with z := decide (r'.toNat = 0), n := decide (2 ^ 63 ≤ r'.toNat) } }) :=
  gives_result r' (fun p => { p with z := decide (r'.toNat = 0), n := decide (2 ^ 63 ≤ r'.toNat) }) hx hbad h q hr (by rw [hr, zn_eq]) hr0 fun e => by rw [hr0]; rfl

/-- A logic instruction without D. -/
theorem gives_test {r : Engine → W64} {r' : W64}
    (hx : exec c s = done s (s.blk.regOp n word len bad fun e => { e with st := e.st.zn (r e) })) (hbad : bad = false)
    (h : AtInstr s n word) (q : Quiet s n) (hr : r (s.blk.engine n) = r')
    (hr0 : ∀ e, r e.noSkip = r e := by intros; rfl) :
    Gives c s (Retired s n (nextPc (s.blk.engine n).pc len) fun e => { e with
      st := { e.st with z := decide (r'.toNat = 0), n := decide (2 ^ 63 ≤ r'.toNat) } }) :=
  gives_flags (fun p => { p with z := decide (r'.toNat = 0), n := decide (2 ^ 63 ≤ r'.toNat) }) hx hbad h q (by rw [hr, zn_eq]) fun e => by rw [hr0]; rfl

end

/-! ## Sums and differences (R81, R82, R104) -/

theorem sub_eq_of_borrow (x y : W64) (c : Bool) : x - y - BitVec.ofNat 64 (bit !c) = x - y - BitVec.ofNat 64 (1 - bit c) := by
  cases c <;> rfl

theorem decide_le_zero_eq (x : W64) : decide (x.toNat ≤ 0) = decide (x = 0) := by
  rw [decide_eq_decide, ← BitVec.toNat_inj, Nat.le_zero]
  rfl

/-- A negation is a subtraction from 0. -/
theorem negFlags_eq (q : St) (x : W64) :
    q.subFlags 0 x true = q.exactFlags (0 - x) (decide (x = 0)) (-x.toInt) := by
  have h0 : (0 : W64).toInt = 0 := rfl
  rw [subFlags_true, h0, Int.zero_sub]
  exact congrArg (q.exactFlags (0 - x) · _) (decide_le_zero_eq x)

theorem bit_not (c : Bool) : bit (!c) = 1 - bit c := by cases c <;> rfl

theorem bit_not_int (c : Bool) : (bit (!c) : Int) = 1 - bit c := by cases c <;> rfl

theorem eq_of_getLsbD {r v : W64} (h : ∀ j < 64, r.getLsbD j = v.getLsbD j) : v = r :=
  BitVec.eq_of_getLsbD_eq fun j hj => (h j hj).symm

/-- Settles O6: each instruction is a result and flags of the engine as it stands; carry and overflow are those of the numbers that
its registers hold, and a logic result is the word with those bits. -/
theorem arithmeticAndLogic : Obligations.ArithmeticAndLogic := by
  unfold Obligations.ArithmeticAndLogic
  refine ⟨fun n d a b imm wide s q => ?_, fun n d a b imm s q => ?_⟩
  · intro e x y i w k flags set ends
    refine ⟨fun h => ?_, fun h => ?_, fun h => ?_, fun h => ?_, fun h => ?_, fun h => ?_, fun h => ?_, fun h => ?_, fun h => ?_⟩
    · exact gives_result _ (flags _ _ _) rfl rfl h q rfl (addFlags_false ..)
    · exact gives_result _ (flags _ _ _) rfl rfl h q rfl (subFlags_true ..)
    · exact gives_result _ (flags _ _ _) rfl rfl h q rfl (addFlags_eq ..)
    · refine gives_result _ (flags _ _ _) rfl rfl h q (sub_eq_of_borrow ..) ?_
      rw [subFlags_eq, sub_eq_of_borrow, bit_not_int, bit_not]
      rfl
    · exact gives_result _ (flags _ _ _) rfl rfl h q rfl (negFlags_eq ..)
    · exact gives_flags (flags _ _ _) rfl rfl h q (subFlags_true ..)
    · exact gives_result _ (flags _ _ _) rfl rfl h q rfl (addFlags_false ..)
    · exact gives_flags (flags _ _ _) rfl rfl h q (subFlags_true ..)
    · exact gives_result _ (flags _ _ _) rfl rfl h q rfl (addFlags_false ..)
  · intro e x y i flags ends r set
    have ofBits : ∀ v : W64, (∀ j < 64, r.getLsbD j = v.getLsbD j) → v = r := fun _ => eq_of_getLsbD
    refine ⟨fun h hr => ?_, fun h hr => ?_, fun h hr => ?_, fun h hr => ?_, fun h hr => ?_, fun h hr => ?_, fun h hr => ?_,
      fun h hr => ?_, fun h hr => ?_⟩
    · exact gives_logic rfl rfl h q (ofBits (x &&& y) (by simpa using hr))
    · exact gives_logic rfl rfl h q (ofBits (x ||| y) (by simpa using hr))
    · exact gives_logic rfl rfl h q (ofBits (x ^^^ y) (by simpa using hr))
    · exact gives_logic rfl rfl h q (ofBits (x &&& ~~~y) fun j hj => (hr j hj).trans (by simp [hj]))
    · exact gives_logic rfl rfl h q (ofBits (~~~x) fun j hj => (hr j hj).trans (by simp [hj]))
    · exact gives_test rfl rfl h q (ofBits (x &&& y) (by simpa using hr))
    · exact gives_logic rfl rfl h q (ofBits (x &&& i) (by simpa using hr))
    · exact gives_logic rfl rfl h q (ofBits (x ||| i) (by simpa using hr))
    · exact gives_logic rfl rfl h q (ofBits (x ^^^ i) (by simpa using hr))

end Sys2Proof.Machine
end

section
/-! Shifts and rotates, selections, bit counts, fields and long immediates (R79, R81, R82, R88). -/
namespace Sys2Proof.Machine

/-! ## Shifts and rotates -/

theorem ror64_eq (x : W64) {k : Nat} (h : k < 64) : ror64 x k = (x >>> k) ||| (x <<< (64 - k)) := by
  rw [ror64, BitVec.rotateRight_def, Nat.mod_eq_of_lt h]

section
variable {c : Instr} {s : State} {n : PE} {word len i : Nat} {bad : Bool}

/-- A shift by an amount that the instruction or a register gives. -/
theorem gives_shift {r : Engine → W64} {amount : Engine → Nat} {out : Engine → Bool} (r' : W64) (k : Nat) (out' : Bool)
    (hx : exec c s = done s (s.blk.regOp n word len bad fun e => e.result i (r e) (e.st.shiftFlags (r e) (amount e) (out e))))
    (hbad : bad = false) (h : AtInstr s n word) (q : Quiet s n) (hr : r (s.blk.engine n) = r')
    (hk : amount (s.blk.engine n) = k) (hout : out (s.blk.engine n) = out')
    (hr0 : ∀ e, r e.noSkip = r e := by intros; rfl) (hk0 : ∀ e, amount e.noSkip = amount e := by intros; rfl)
    (hout0 : ∀ e, out e.noSkip = out e := by intros; rfl) :
    Gives c s (Retired s n (nextPc (s.blk.engine n).pc len) fun e => { e.setG i r' with st := { e.st with
      z := decide (r'.toNat = 0), n := decide (2 ^ 63 ≤ r'.toNat), c := if k = 0 then e.st.c else out' } }) :=
  gives_result r' (fun p => { p with
      z := decide (r'.toNat = 0), n := decide (2 ^ 63 ≤ r'.toNat), c := if k = 0 then p.c else out' }) hx hbad h q hr
    (by rw [hr, hk, hout, shiftFlags_eq]) hr0 fun e => by rw [hr0, hk0, hout0]; rfl

end

/-- Settles O7: each of the eight is a shift by a register's low six bits or by the immediate. -/
theorem shift : Obligations.Shift := by
  unfold Obligations.Shift
  intro n d a b s q e x ends set left right arith rot k
  have hk : k < 64 := Nat.mod_lt _ (by decide)
  refine ⟨fun h => ?_, fun h => ?_, fun h => ?_, fun h => ?_, fun imm himm => ?_⟩
  · exact gives_shift _ k _ rfl rfl h q rfl rfl rfl
  · exact gives_shift _ k _ rfl rfl h q rfl rfl rfl
  · exact gives_shift _ k _ rfl rfl h q rfl rfl rfl
  · exact gives_shift _ k _ rfl rfl h q (ror64_eq x hk) rfl (by rw [ror64_eq _ hk, msb_eq])
  · have hbad : decide (64 ≤ imm.toNat) = false := decide_eq_false (Nat.not_le.mpr himm)
    refine ⟨fun h => ?_, fun h => ?_, fun h => ?_, fun h => ?_⟩
    · exact gives_shift _ imm.toNat _ rfl hbad h q rfl rfl rfl
    · exact gives_shift _ imm.toNat _ rfl hbad h q rfl rfl rfl
    · exact gives_shift _ imm.toNat _ rfl hbad h q rfl rfl rfl
    · exact gives_shift _ imm.toNat _ rfl hbad h q (ror64_eq x himm) rfl (by rw [ror64_eq _ himm, msb_eq])

/-! ## Selections and bit counts -/

theorem minS_eq (x y : W64) : minS x y = if x.toInt < y.toInt then x else y := by
  simp only [minS, BitVec.slt_iff_toInt_lt]

theorem maxS_eq (x y : W64) : maxS x y = if x.toInt < y.toInt then y else x := by
  simp only [maxS, BitVec.slt_iff_toInt_lt]

theorem minU_eq (x y : W64) : minU x y = if x.toNat < y.toNat then x else y := by
  simp only [minU, BitVec.ult_iff_toNat_lt]

theorem maxU_eq (x y : W64) : maxU x y = if x.toNat < y.toNat then y else x := by
  simp only [maxU, BitVec.ult_iff_toNat_lt]

/-- The number of zeros above a value's highest one. -/
theorem clz64_eq {x : W64} {k : Nat} (hk : k ≤ 64) (hlt : x.toNat < 2 ^ (64 - k)) (hle : k < 64 → 2 ^ (63 - k) ≤ x.toNat) :
    clz64 x = k := by
  unfold clz64
  obtain rfl | hk' := Nat.eq_or_lt_of_le hk
  · rw [if_pos (by simpa using hlt)]
  · have hpos : x.toNat ≠ 0 := Nat.ne_of_gt (Nat.lt_of_lt_of_le (Nat.two_pow_pos _) (hle hk'))
    have hlog : Nat.log2 x.toNat = 63 - k :=
      (Nat.log2_eq_iff hpos).mpr ⟨hle hk', by rwa [show 63 - k + 1 = 64 - k by omega]⟩
    rw [if_neg hpos, hlog]
    omega

theorem ctzFrom_eq {x : W64} (m : Nat) : ∀ (i k : Nat), k ≤ m → (∀ j < k, x.getLsbD (i + j) = false) →
    (k < m → x.getLsbD (i + k) = true) → ctzFrom x m i = k := by
  induction m with
  | zero => intro i k hk _ _; rw [Nat.le_zero.mp hk]; rfl
  | succ m ih =>
    intro i k hk hzero hone
    cases k with
    | zero => rw [ctzFrom, if_pos (show x.getLsbD i = true from hone (Nat.succ_pos m))]
    | succ k =>
      have hi : x.getLsbD i = false := hzero 0 (Nat.succ_pos k)
      have hrest := ih (i + 1) k (Nat.le_of_succ_le_succ hk)
        (fun j hj => by rw [Nat.add_assoc, Nat.add_comm 1]; exact hzero (j + 1) (Nat.succ_lt_succ hj))
        (fun hkm => by rw [Nat.add_assoc, Nat.add_comm 1]; exact hone (Nat.succ_lt_succ hkm))
      rw [ctzFrom, hi, hrest, Nat.add_comm]
      rfl

theorem ctz64_eq {x : W64} {k : Nat} (hk : k ≤ 64) (hzero : ∀ j < k, x.toNat.testBit j = false)
    (hone : k < 64 → x.toNat.testBit k = true) : ctz64 x = k :=
  ctzFrom_eq 64 0 k hk (fun j hj => by rw [Nat.zero_add]; exact hzero j hj) fun h => by rw [Nat.zero_add]; exact hone h

theorem onesBelow_eq (v m : Nat) : onesBelow v m = (List.range m).countP fun j => v.testBit j := by
  induction m with
  | zero => rfl
  | succ m ih =>
    rw [onesBelow, ih, List.range_succ, List.countP_append, List.countP_singleton, Nat.add_comm]
    rfl

theorem extend_eq (x : W64) {t : Nat} (ht : t < 6) :
    extend t x = if t < 3 then (x.setWidth (8 * 2 ^ t)).signExtend 64 else (x.setWidth (8 * 2 ^ (t - 3))).setWidth 64 := by
  interval_cases t <;> rfl

/-! ## Bytes and fields -/

theorem leNat_leBytes (v n : Nat) : leNat (leBytes v n) = v % 256 ^ n := by
  induction n generalizing v with
  | zero => rw [Nat.pow_zero, Nat.mod_one]; rfl
  | succ n ih => rw [leBytes, leNat, ih, BitVec.toNat_ofNat, Nat.pow_succ' (m := 256), Nat.mod_mul]

theorem getElem_leBytes (v n j : Nat) (h : j < (leBytes v n).length) : (leBytes v n)[j] = BitVec.ofNat 8 (v / 256 ^ j) := by
  induction n generalizing v j with
  | zero => exact absurd h (Nat.not_lt_zero j)
  | succ n ih =>
    cases j with
    | zero => rw [Nat.pow_zero, Nat.div_one]; rfl
    | succ j => rw [Nat.pow_succ, Nat.mul_comm, ← Nat.div_div_eq_div_mul]; exact ih _ _ (Nat.lt_of_succ_lt_succ h)

/-- A byte of a word, and the same byte of its list of bytes. -/
theorem extractLsb'_byte (x : W64) (j : Nat) : x.extractLsb' (8 * j) 8 = BitVec.ofNat 8 (x.toNat / 256 ^ j) := by
  apply BitVec.eq_of_toNat_eq
  rw [BitVec.extractLsb'_toNat, BitVec.toNat_ofNat, Nat.shiftRight_eq_div_pow, Nat.pow_mul]

/-- A word's bytes in order, reversed. -/
theorem bswap64_eq {x r : W64} (h : ∀ j < 8, r.extractLsb' (8 * j) 8 = x.extractLsb' (8 * (7 - j)) 8) : bswap64 x = r := by
  have hbytes : (leBytes x.toNat 8).reverse = leBytes r.toNat 8 := by
    refine List.ext_getElem (by simp [leBytes_length]) fun j hj _ => ?_
    have hj' : j < 8 := by simpa [leBytes_length] using hj
    have hb := h j hj'
    rw [extractLsb'_byte, extractLsb'_byte] at hb
    rw [List.getElem_reverse, getElem_leBytes, getElem_leBytes, hb, leBytes_length]
  rw [bswap64, hbytes, leNat_leBytes, Nat.mod_eq_of_lt (show r.toNat < 256 ^ 8 from r.isLt), BitVec.ofNat_toNat,
    BitVec.setWidth_eq]

theorem testBit_bitsOf (v p w j : Nat) : (bitsOf v p w).testBit j = (decide (j < w) && v.testBit (p + j)) := by
  rw [bitsOf, Nat.testBit_mod_two_pow, Nat.testBit_div_two_pow, Nat.add_comm]

theorem bfx_eq {x r : W64} {p w : Nat} (h : ∀ j < 64, r.getLsbD j = (decide (j < w) && x.getLsbD (p + j))) : bfx x p w = r := by
  refine eq_of_getLsbD fun j hj => ?_
  rw [h j hj, bfx, BitVec.getLsbD_ofNat, decide_eq_true hj, Bool.true_and, testBit_bitsOf]
  rfl

/-- A number with a field replaced, part by part. -/
theorem replace_field_eq {d a r p w : Nat} (hlow : r % 2 ^ p = d % 2 ^ p) (hmid : bitsOf r p w = a % 2 ^ w)
    (hhigh : r / 2 ^ p / 2 ^ w = d / 2 ^ p / 2 ^ w) : d - bitsOf d p w * 2 ^ p + a % 2 ^ w * 2 ^ p = r := by
  have hd := Nat.div_add_mod d (2 ^ p)
  have hd' := Nat.div_add_mod (d / 2 ^ p) (2 ^ w)
  have hr := Nat.div_add_mod r (2 ^ p)
  have hr' := Nat.div_add_mod (r / 2 ^ p) (2 ^ w)
  rw [← hmid]
  unfold bitsOf
  rw [hhigh] at hr'
  rw [← hd', Nat.mul_add] at hd
  rw [← hr', Nat.mul_add, hlow] at hr
  rw [Nat.mul_comm _ (2 ^ p), Nat.mul_comm _ (2 ^ p)]
  omega

theorem bfi_eq {x z r : W64} {p w : Nat} (hpw : p + w ≤ 64)
    (h : ∀ j < 64, r.getLsbD j = if p ≤ j ∧ j < p + w then x.getLsbD (j - p) else z.getLsbD j) : bfi z x p w = r := by
  have hbit : ∀ j, r.toNat.testBit j = if p ≤ j ∧ j < p + w then x.toNat.testBit (j - p) else z.toNat.testBit j := by
    intro j
    by_cases hj : j < 64
    · exact h j hj
    · rw [if_neg (by omega)]
      exact (BitVec.getLsbD_of_ge r j (by omega)).trans (BitVec.getLsbD_of_ge z j (by omega)).symm
  have hlow : r.toNat % 2 ^ p = z.toNat % 2 ^ p := Nat.eq_of_testBit_eq fun j => by
    simp only [Nat.testBit_mod_two_pow, hbit]
    by_cases hj : j < p
    · rw [if_neg (by omega)]
    · simp [hj]
  have hmid : bitsOf r.toNat p w = x.toNat % 2 ^ w := Nat.eq_of_testBit_eq fun j => by
    rw [testBit_bitsOf, Nat.testBit_mod_two_pow, hbit]
    by_cases hj : j < w
    · rw [if_pos (by omega), Nat.add_sub_cancel_left]
    · simp [hj]
  have hhigh : r.toNat / 2 ^ p / 2 ^ w = z.toNat / 2 ^ p / 2 ^ w := Nat.eq_of_testBit_eq fun j => by
    rw [Nat.testBit_div_two_pow, Nat.testBit_div_two_pow, Nat.testBit_div_two_pow, Nat.testBit_div_two_pow, hbit,
      if_neg (by omega)]
  rw [bfi, replace_field_eq hlow hmid hhigh, BitVec.ofNat_toNat, BitVec.setWidth_eq]

theorem badField_eq_false {imm : BitVec 14} {p w : Nat} (hp : p < 64) (hw : 1 ≤ w) (hpw : p + w ≤ 64)
    (himm : imm.toNat = p + 64 * w) : badField imm = false ∧ imm.toNat % 64 = p ∧ imm.toNat / 64 % 128 = w := by
  have hm : imm.toNat % 64 = p := by omega
  have hd : imm.toNat / 64 % 128 = w := by omega
  refine ⟨?_, hm, hd⟩
  have h13 : imm.getLsbD 13 = false := by
    rw [BitVec.getLsbD, Nat.testBit_lt_two_pow (by omega)]
  simp only [badField, h13, hm, hd]
  simp
  omega

/-- LIH keeps the lower half. -/
theorem lih_eq (imm : BitVec 32) (z : W64) :
    (imm ++ z.setWidth 32 : W64) = BitVec.ofNat 64 (imm.toNat * 2 ^ 32 + z.toNat % 2 ^ 32) := by
  apply BitVec.eq_of_toNat_eq
  have hi := imm.isLt
  rw [BitVec.toNat_append, BitVec.toNat_setWidth, BitVec.toNat_ofNat, Nat.shiftLeft_eq, Nat.mul_comm,
    ← Nat.two_pow_add_eq_or_of_lt (by omega)]
  omega

/-- Settles O8: each value is what the selection, count, extension or field is of the engine's registers. -/
theorem selectAndFields : Obligations.SelectAndFields := by
  unfold Obligations.SelectAndFields
  refine ⟨fun n d a b s q => ?_, fun n d a s q => ?_⟩
  · intro e x y gives
    refine ⟨fun h => ?_, fun h => ?_, fun h => ?_, fun h => ?_, fun h k hk hlt hle => ?_, fun h k hk hzero hone => ?_, fun h => ?_,
      fun t ht h => ?_, fun h r hr => ?_, fun t ht h => gives_sel ht h q, fun h => ?_⟩
    · exact gives_value _ rfl rfl h q (minS_eq ..)
    · exact gives_value _ rfl rfl h q (maxS_eq ..)
    · exact gives_value _ rfl rfl h q (minU_eq ..)
    · exact gives_value _ rfl rfl h q (maxU_eq ..)
    · exact gives_value _ rfl rfl h q (congrArg _ (clz64_eq hk hlt hle))
    · exact gives_value _ rfl rfl h q (congrArg _ (ctz64_eq hk hzero hone))
    · exact gives_value _ rfl rfl h q (congrArg _ (onesBelow_eq ..))
    · exact gives_value _ rfl (by simp [ht]) h q (extend_eq _ ht)
    · exact gives_value _ rfl rfl h q (bswap64_eq hr)
    · exact gives_value _ rfl rfl h q rfl
  · intro e x z gives
    refine ⟨fun imm p w r hp hw hpw himm => ?_, fun imm => ⟨fun h => ?_, fun h => ?_⟩⟩
    · obtain ⟨hbad, hm, hd⟩ := badField_eq_false hp hw hpw himm
      refine ⟨fun h hr => gives_value _ rfl hbad h q ?_, fun h hr => gives_value _ rfl hbad h q ?_⟩
      · rw [hm, hd, bfx_eq hr]
      · rw [hm, hd, bfi_eq hpw hr]
    · exact gives_value _ rfl rfl h q rfl
    · exact gives_value _ rfl rfl h q (lih_eq ..)

end Sys2Proof.Machine
end

section
/-! A request that finds no other waiting at its bank and whole lines there: it is served at once (R199, R200, R213). -/
namespace Sys2Proof.Machine

/-! ## Tables -/

theorem Tab.put_put {α : Type} (t : Tab α) (i : Nat) (x y : α) : (t.put i x).put i y = t.put i y := by
  induction t with
  | nil => simp [Tab.put]
  | cons p t ih =>
    obtain ⟨k, v⟩ := p
    by_cases h : i = k
    · simp [Tab.put, h]
    · by_cases h' : i < k
      · simp [Tab.put, h, h']
      · simp [Tab.put, h, h', ih]

theorem Tab.put_look {α : Type} {t : Tab α} {i : Nat} {x : α} (h : t.look i = some x) : t.put i x = t := by
  induction t with
  | nil => cases h
  | cons p t ih =>
    obtain ⟨k, v⟩ := p
    by_cases hk : i = k
    · simp_all [Tab.put, Tab.look]
    · by_cases h' : i < k
      · simp [Tab.look, hk, h'] at h
      · simp only [Tab.look, Tab.put, hk, h', if_false] at h ⊢
        rw [ih h]

theorem Block.setBank_setBank (b : Block) (k : Nat) (c d : Bank) : (b.setBank k c).setBank k d = b.setBank k d := by
  simp only [Block.setBank, Tab.put_put]

/-! ## Places at the arbiter (R199) -/

/-- One request alone finds a place: a direct port, or a shared entry of the fabric. -/
theorem placeFor_alone (k : Nat) (q : Req) (h : q.place = 0) : ∃ p, p ≠ 0 ∧ placeFor k [q] [] q = some p := by
  unfold placeFor
  rw [if_neg (not_not.mpr h)]
  split
  · exact ⟨1, by decide, by simp [h]⟩
  · exact ⟨2, by decide, by simp [fabricEntry, h]⟩

theorem placeFor_of_placed {k : Nat} {held ahead : List Req} {q : Req} (h : q.place ≠ 0) : placeFor k held ahead q = none := if_pos h

theorem seatClass_alone_ne {k c : Nat} {q : Req} (h : q.cls ≠ c) : seatClass k c [] [q] = [q] := by
  simp [seatClass, h]

theorem seatClass_alone_placed {k c : Nat} {q : Req} (h : q.place ≠ 0) : seatClass k c [] [q] = [q] := by
  simp only [seatClass, List.reverse_nil, List.nil_append, placeFor_of_placed h]
  split <;> rfl

theorem seatClass_alone {k : Nat} {q : Req} (h : q.place = 0) :
    ∃ p, p ≠ 0 ∧ seatClass k q.cls [] [q] = [{ q with place := p }] := by
  obtain ⟨p, hp, hq⟩ := placeFor_alone k q h
  refine ⟨p, hp, ?_⟩
  simp only [seatClass, List.reverse_nil, List.nil_append, hq, if_true]
  rfl

theorem seat_nil (k : Nat) : seat k [] = [] := rfl

/-- After the classes below `m` have had their turn a request alone has its place exactly where its class is among them. -/
theorem seat_alone_upto {k : Nat} {q : Req} (h : q.place = 0) (m : Nat) :
    (q.cls < m → ∃ p, p ≠ 0 ∧ (List.range m).foldl (fun l c => seatClass k c [] l) [q] = [{ q with place := p }]) ∧
      (m ≤ q.cls → (List.range m).foldl (fun l c => seatClass k c [] l) [q] = [q]) := by
  induction m with
  | zero => exact ⟨fun hc => absurd hc (Nat.not_lt_zero _), fun _ => rfl⟩
  | succ m ih =>
    obtain ⟨ihlt, ihle⟩ := ih
    rw [List.range_succ, List.foldl_append]
    refine ⟨fun hc => ?_, fun hc => ?_⟩
    · obtain hlt | heq := Nat.lt_or_eq_of_le (Nat.lt_succ_iff.mp hc)
      · obtain ⟨p, hp, hq⟩ := ihlt hlt
        exact ⟨p, hp, by rw [hq]; exact seatClass_alone_placed hp⟩
      · rw [ihle heq.ge, ← heq]
        exact seatClass_alone h
    · rw [ihle (Nat.le_of_succ_le hc)]
      exact seatClass_alone_ne (by omega)

theorem seat_alone {k : Nat} {q : Req} (h : q.place = 0) (hc : q.cls < 6) : ∃ p, p ≠ 0 ∧ seat k [q] = [{ q with place := p }] :=
  (seat_alone_upto h 6).1 hc

/-! ## Whole lines -/

/-- None of the lines that a request touches is damaged or under repair at bank `k` (R212, R213). -/
def Bank.whole (c : Bank) (q : Req) : Prop := ∀ p ∈ q.spans, c.bad.get p.1 0 = 0 ∧ ∀ r ∈ c.repair, r.1 ≠ p.1

theorem Req.meets_zero (q : Req) (o n : Nat) : q.meets 0 o n = false := by
  unfold Req.meets
  split
  · simp [Nat.land]
  · split <;> rfl

theorem Bank.whole.holdsUp {c : Bank} {q : Req} (h : c.whole q) : c.holdsUp q = false := by
  simp only [Bank.holdsUp, List.any_eq_false, List.any_eq_true, not_exists, not_and, beq_iff_eq]
  exact fun r hr p hp heq => (h p hp).2 r hr heq.symm

theorem Bank.whole.meets {c : Bank} {q : Req} (h : c.whole q) :
    (q.spans.find? fun s => q.meets (c.bad.get s.1 0) s.2.1 s.2.2) = none := by
  rw [List.find?_eq_none]
  intro p hp
  rw [(h p hp).1, Req.meets_zero]
  exact Bool.false_ne_true

theorem countApplied_whole {b : Block} {k : Nat} {q : Req} (h : (b.bankAt k).whole q) : b.countApplied k q = b := by
  unfold Block.countApplied
  generalize hl : q.spans = l
  have hzero : ∀ p ∈ l, (b.bankAt k).bad.get p.1 0 = 0 := fun p hp => (h p (hl ▸ hp)).1
  clear hl
  induction l with
  | nil => rfl
  | cons p l ih =>
    rw [List.foldl_cons, hzero p List.mem_cons_self]
    simpa [Nat.land] using ih fun r hr => hzero r (List.mem_cons_of_mem _ hr)

/-- A request with whole lines takes effect. -/
theorem bankDo_whole {b : Block} {k : Nat} {q : Req} (h : (b.bankAt k).whole q) :
    b.bankDo k q .clean = ((b.effect q).1, .data (b.effect q).2) := by
  have hfinds : b.bankFinds k q .clean = b := ite_self _
  unfold Block.bankDo
  dsimp only
  rw [hfinds, h.meets, countApplied_whole h]

/-! ## A bank with one request -/

/-- The bank's account of the service of request `q`, the only one that waits: round robin moves on unless the bank's owner was
served, and a scrub read that waits has waited longer (R200). -/
def Block.serving (b : Block) (k : Nat) (q : Req) : Block :=
  let c := b.bankAt k
  let b := b.setBank k { c with waiting := [], scrubAge := c.scrubAge.map (· + q.cycles) }
  if c.ownerPE = q.rq then b else b.put (R.CB_ARB_LASTRQ k) (arbNumber q.rq)

section
variable {b : Block} {k : Nat} {q : Req}

theorem bankPick_alone (hw : (b.bankAt k).waiting = [q]) (hp : q.place ≠ 0) (ha : q.age < 16) (h : (b.bankAt k).whole q) :
    b.bankPick k = some (q, !decide ((b.bankAt k).ownerPE = q.rq)) := by
  have hcan : (firstsOf [] (b.bankAt k).waiting).filter (fun p => p.place != 0 && !(b.bankAt k).holdsUp p) = [q] := by
    rw [hw]
    simp [firstsOf, hp, h.holdsUp]
  unfold Block.bankPick
  simp only [hcan]
  rw [if_neg (by simpa using ha)]
  by_cases ho : (b.bankAt k).ownerPE = q.rq
  · simp [ho]
  · have hne : (q.rq == (b.bankAt k).ownerPE) = false := by simpa using fun e => ho e.symm
    simp [ho, hne, rrFirst]

theorem bankStep_alone (hw : (b.bankAt k).waiting = [q]) (hp : q.place ≠ 0) (ha : q.age < 16) (h : (b.bankAt k).whole q) :
    b.bankStep k .clean =
      let r := (b.serving k q).effect q
      (r.1.setBank k { r.1.bankAt k with waiting := seat k (r.1.bankAt k).waiting }, some (q, .data r.2)) := by
  have hserve : (if (!decide ((b.bankAt k).ownerPE = q.rq)) = true then
      (b.setBank k { b.bankAt k with waiting := [], scrubAge := (b.bankAt k).scrubAge.map (· + q.cycles) }).put
        (R.CB_ARB_LASTRQ k) (arbNumber q.rq)
      else b.setBank k { b.bankAt k with waiting := [], scrubAge := (b.bankAt k).scrubAge.map (· + q.cycles) }) =
      b.serving k q := by
    by_cases ho : (b.bankAt k).ownerPE = q.rq <;> simp [Block.serving, ho]
  have hwhole : ((b.serving k q).bankAt k).whole q := by
    unfold Block.serving
    dsimp only
    split
    all_goals
      simp only [Block.put_bankAt, Block.setBank_bankAt_same]
      exact h
  unfold Block.bankStep
  rw [bankPick_alone hw hp ha h]
  dsimp only
  simp only [hw, removeReq, if_true, List.map_nil, List.all_nil, List.any_nil, hserve, Bool.false_eq_true, if_false,
    bankDo_whole hwhole]

/-- A command's request at a bank where none other waits: it is served at once. -/
theorem bankNow_alone (ht : b.target q.addr = .carafe k) (hw : (b.bankAt k).waiting = []) (hp : q.place = 0) (ha : q.age < 16)
    (hc : q.cls < 6) (h : (b.bankAt k).whole q) :
    b.bankNow k q .clean =
      let r := (b.serving k q).effect q
      (r.1.setBank k { r.1.bankAt k with waiting := seat k (r.1.bankAt k).waiting }, .data r.2) := by
  obtain ⟨p, hp0, hseat⟩ := seat_alone (k := k) (q := { q with reply := .now }) hp hc
  let q' : Req := { q with reply := .now, place := p }
  let b' := b.setBank k { b.bankAt k with waiting := [q'] }
  have hpost : b.post { q with reply := .now } = b' := by
    unfold Block.post
    dsimp only
    rw [ht]
    dsimp only
    rw [hw, List.nil_append, hseat]
  have hbank : b'.bankAt k = { b.bankAt k with waiting := [q'] } := Block.setBank_bankAt_same ..
  have hwait : (b'.bankAt k).waiting = [q'] := by rw [hbank]
  have hwhole : (b'.bankAt k).whole q' := by rw [hbank]; exact h
  have hserving : b'.serving k q' = b.serving k q := by
    unfold Block.serving
    rw [hbank]
    dsimp only
    rw [Block.setBank_setBank]
    rfl
  have hpick := bankPick_alone hwait hp0 ha hwhole
  unfold Block.bankNow
  dsimp only
  rw [hpost, hwait]
  unfold Block.bankUntil
  rw [hpick]
  dsimp only
  rw [if_pos rfl, bankStep_alone hwait hp0 ha hwhole, hserving]
  rfl

end

end Sys2Proof.Machine
end

section
/-! An engine's loads and posted stores within one bank (R51, R84, R197, R199, R200). -/
namespace Sys2Proof.Machine

/-! ## What the counting of events leaves alone (R477) -/

theorem isPmc_of_lt {n : Nat} {x : Fld} (h : x.key < 0x40000 * 32) : isPmc n x = false := by
  simp only [isPmc, Bool.or_eq_false_iff, beq_eq_false_iff_ne, List.any_eq_false, List.mem_range, beq_iff_eq]
  simp only [Fld.key, R.ENG_PMCTL_OVF, R.ENG_PMC_COUNT] at h ⊢
  exact ⟨by omega, fun i hi => by omega⟩

theorem OnlyPmc.setEng {n : Nat} {a b : Block} (h : OnlyPmc n a b) (x : Tab Engine) :
    OnlyPmc n { a with eng := x } { b with eng := x } :=
  ⟨congrArg (fun c : Block => { c with eng := x }) h.1, h.2⟩

theorem OnlyPmc.setBank {n : Nat} {a b : Block} (h : OnlyPmc n a b) (k : Nat) (c : Bank) :
    OnlyPmc n (a.setBank k c) (b.setBank k c) := by
  have hbank : b.bank = a.bank := by
    have e := congrArg Block.bank h.1
    exact e
  refine ⟨?_, h.2⟩
  simp only [Block.setBank, hbank]
  exact congrArg (fun c' : Block => { c' with bank := a.bank.put k c }) h.1

theorem OnlyPmc.put_both {n : Nat} {a b : Block} (h : OnlyPmc n a b) (f : Fld) (v : Nat) : OnlyPmc n (a.put f v) (b.put f v) := by
  refine ⟨congrArg (fun c : Block => { c with regs := (a.put f v).regs }) h.1, fun x hx => ?_⟩
  rw [Block.get_put, Block.get_put, h.2 x hx]

theorem OnlyPmc.target {n : Nat} {a b : Block} (h : OnlyPmc n a b) (x : Nat) : b.target x = a.target x := by
  have hg : b.get R.INTEG_DRAM_GIB = a.get R.INTEG_DRAM_GIB := h.2 _ (isPmc_of_lt (by decide))
  have hd : b.dramSize = a.dramSize := congrArg (· * 2 ^ 30) hg
  unfold Block.target
  rw [hd]

/-- The fields of the class windows (R282). -/
def percWin (w : Nat) : List Fld :=
  [R.PERC_WIN_CFG_EN w, R.PERC_WIN_CFG_SIZE w, R.PERC_WIN_CFG_CLS w, R.PERC_WIN_LO_ADDR w, R.PERC_WIN_HI_ADDR w]

theorem percWin_below {w : Nat} (hw : w < 4) {f : Fld} (hf : f ∈ percWin w) : f.key < 0x40000 * 32 := by
  simp only [percWin, List.mem_cons, List.not_mem_nil, or_false] at hf
  rcases hf with rfl | rfl | rfl | rfl | rfl <;>
    · simp only [Fld.key, R.PERC_WIN_CFG_EN, R.PERC_WIN_LO_ADDR, R.PERC_WIN_HI_ADDR, R.PERC_WIN_CFG_SIZE, R.PERC_WIN_CFG_CLS]
      omega

theorem classOf_congr {a b : Block} (h : ∀ w < 4, ∀ f ∈ percWin w, b.get f = a.get f) (x : Nat) : b.classOf x = a.classOf x := by
  have hwin : ∀ w < 4, b.get (R.PERC_WIN_CFG_EN w) = a.get (R.PERC_WIN_CFG_EN w) ∧
      b.get (R.PERC_WIN_CFG_SIZE w) = a.get (R.PERC_WIN_CFG_SIZE w) ∧ b.get (R.PERC_WIN_CFG_CLS w) = a.get (R.PERC_WIN_CFG_CLS w) ∧
        b.get (R.PERC_WIN_LO_ADDR w) = a.get (R.PERC_WIN_LO_ADDR w) ∧
          b.get (R.PERC_WIN_HI_ADDR w) = a.get (R.PERC_WIN_HI_ADDR w) := fun w hw => by simpa [percWin] using h w hw
  unfold Block.classOf
  rw [List.find?_congr (p₂ := fun w => a.flag (R.PERC_WIN_CFG_EN w) &&
    decide (a.getAddr (R.PERC_WIN_LO_ADDR w) (R.PERC_WIN_HI_ADDR w) ≤ x) &&
      decide (x < a.getAddr (R.PERC_WIN_LO_ADDR w) (R.PERC_WIN_HI_ADDR w) + 4096 * a.get (R.PERC_WIN_CFG_SIZE w)))
    fun w hw => ?_]
  · split
    next w hw =>
      obtain ⟨-, -, hcls, -, -⟩ := hwin w (List.mem_range.mp (List.mem_of_find?_eq_some hw))
      rw [Block.flag, Block.flag, hcls]
    · rfl
  · obtain ⟨hen, hsize, -, hlo, hhi⟩ := hwin w (List.mem_range.mp hw)
    have hflag : b.flag (R.PERC_WIN_CFG_EN w) = a.flag (R.PERC_WIN_CFG_EN w) := congrArg (· != 0) hen
    have haddr : b.getAddr (R.PERC_WIN_LO_ADDR w) (R.PERC_WIN_HI_ADDR w) =
        a.getAddr (R.PERC_WIN_LO_ADDR w) (R.PERC_WIN_HI_ADDR w) := by rw [Block.getAddr, hlo, hhi]; rfl
    rw [hflag, haddr, hsize]

theorem OnlyPmc.classOf {n : Nat} {a b : Block} (h : OnlyPmc n a b) (x : Nat) : b.classOf x = a.classOf x :=
  classOf_congr (fun _ hw _ hf => h.2 _ (isPmc_of_lt (percWin_below hw hf))) x

theorem countAccess_only (b : Block) (n a : Nat) (wr fab : Bool) : OnlyPmc n b (b.countAccess n a wr fab) := by
  unfold Block.countAccess
  split <;> exact countEng_only _ _ _

theorem classOf_lt (b : Block) (a : Nat) : b.classOf a < 6 := by
  unfold Block.classOf
  split
  · split <;> decide
  · decide

/-! ## A bank's turn -/

theorem arbNumber_pe (n : PE) : arbNumber n.val = n.val := by
  have := n.isLt
  rw [arbNumber, if_neg (by omega), if_neg (by omega)]

theorem Turned_modEngine (b : Block) (n : PE) (k m : Nat) (g : Engine → Engine) :
    Turned (b.modEngine m g) n k = (Turned b n k).modEngine m g := by
  by_cases ho : (b.bankAt k).ownerPE = n.val
  · simp only [Turned, Block.modEngine_bankAt, ho, if_true]
    rfl
  · simp only [Turned, Block.modEngine_bankAt, ho, if_false]
    rfl

@[simp] theorem Turned_engine (b : Block) (n : PE) (k m : Nat) : (Turned b n k).engine m = b.engine m := by
  unfold Turned
  dsimp only
  split <;> rfl

@[simp] theorem Turned_mem (b : Block) (n : PE) (k : Nat) : (Turned b n k).mem = b.mem := by
  unfold Turned
  dsimp only
  split <;> rfl

@[simp] theorem Turned_isSealed (b : Block) (n : PE) (k : Nat) : (Turned b n k).isSealed = b.isSealed := by
  unfold Turned
  dsimp only
  split <;> rfl

theorem Turned_keepsEngRegs (b : Block) (n : PE) {k : Nat} (hk : k < 64) : KeepsEngRegs b (Turned b n k) := by
  unfold Turned
  dsimp only
  split
  · exact .of_regs rfl
  · exact KeepsEngRegs.putBank (.of_regs rfl) hk _

theorem OnlyPmc.turned {n : PE} {a b : Block} (h : OnlyPmc n a b) (k : Nat) : OnlyPmc n (Turned a n k) (Turned b n k) := by
  have hbank := h.setBank k { a.bankAt k with scrubAge := (a.bankAt k).scrubAge.map (· + 1) }
  unfold Turned
  rw [h.bankAt k]
  dsimp only
  split
  · exact hbank
  · exact hbank.put_both _ _

/-- A bank cycle's account of an engine's request, no other waiting. -/
theorem serving_eq_turned {b : Block} {k : Nat} {n : PE} {q : Req} (hw : (b.bankAt k).waiting = []) (hrq : q.rq = n.val)
    (hc : q.cycles = 1) : b.serving k q = Turned b n k := by
  have hbank : { b.bankAt k with waiting := [], scrubAge := (b.bankAt k).scrubAge.map (· + q.cycles) } =
      { b.bankAt k with scrubAge := (b.bankAt k).scrubAge.map (· + 1) } := by rw [hc, ← hw]
  unfold Block.serving Turned
  dsimp only
  rw [hbank, hrq, arbNumber_pe]

/-- Bank `k` stands in the block's list, and no request waits there. -/
def Block.idleBank (b : Block) (k : Nat) : Prop := b.bank.look k = some (b.bankAt k) ∧ (b.bankAt k).waiting = []

theorem idleBank_setBank {b : Block} {j k : Nat} {c : Bank} (h : b.idleBank k) (hc : j = k → c.waiting = []) :
    (b.setBank j c).idleBank k := by
  by_cases hj : j = k
  · subst hj
    exact ⟨by simp, by simpa using hc rfl⟩
  · have hne : k ≠ j := fun e => hj e.symm
    exact ⟨by rw [Block.setBank_bank, Tab.look_put_ne _ _ _ _ hne, Block.setBank_bankAt_ne _ _ _ _ hne]; exact h.1,
      by rw [Block.setBank_bankAt_ne _ _ _ _ hne]; exact h.2⟩

theorem setBank_idleBank (b : Block) (k : Nat) {c : Bank} (hc : c.waiting = []) : (b.setBank k c).idleBank k :=
  ⟨by simp, by simpa using hc⟩

theorem reseat_self {b : Block} {k : Nat} (h : b.idleBank k) :
    b.setBank k { b.bankAt k with waiting := seat k (b.bankAt k).waiting } = b := by
  have hc : { b.bankAt k with waiting := seat k (b.bankAt k).waiting } = b.bankAt k := by
    rw [show seat k (b.bankAt k).waiting = (b.bankAt k).waiting by rw [h.2]; rfl]
  rw [hc, Block.setBank, Tab.put_look h.1]

theorem serving_idle (b : Block) (k : Nat) (q : Req) : (b.serving k q).idleBank k := by
  unfold Block.serving
  dsimp only
  split <;> exact setBank_idleBank b k rfl

theorem turned_idle {b : Block} {k : Nat} (h : (b.bankAt k).waiting = []) (n : PE) : (Turned b n k).idleBank k := by
  unfold Turned
  dsimp only
  split <;> exact setBank_idleBank b k h

/-! ## Lines of an access -/

theorem carafe_of_target {b : Block} {a k : Nat} (h : b.target a = .carafe k) : a < 0x4000000 ∧ k = a / 2 ^ 20 := by
  unfold Block.target at h
  split at h
  next ha => exact ⟨ha, (Target.carafe.inj h).symm⟩
  · repeat' split at h
    all_goals cases h

/-- The lines of an access are found whole: what `AtBank` says of them. -/
def Block.wholeAt (b : Block) (a len k : Nat) : Prop :=
  (b.bankAt k).waiting = [] ∧ ∀ i < len / 64 + 2, (a % 2 ^ 20 / 64 + i) * 64 < a % 2 ^ 20 + len →
    (b.bankAt k).bad.get (a % 2 ^ 20 / 64 + i) 0 = 0 ∧ ∀ r ∈ (b.bankAt k).repair, r.1 ≠ a % 2 ^ 20 / 64 + i

theorem Block.wholeAt.whole {b : Block} {a len k : Nat} (h : b.wholeAt a len k) (hlen : 0 < len) {q : Req} (ha : q.addr = a)
    (hl : q.len = len) : (b.bankAt k).whole q := by
  obtain ⟨-, hlines⟩ := h
  have hline : q.line = a % 2 ^ 20 / 64 + 0 := by rw [Req.line, ha]; omega
  have h0 := hlines 0 (by omega) (by omega)
  intro p hp
  unfold Req.spans at hp
  rw [ha, hl] at hp
  dsimp only at hp
  split at hp
  next htwo =>
    have htwo : 64 < a % 64 + len := by simpa [Req.two, ha, hl] using htwo
    have h1 := hlines 1 (by omega) (by omega)
    simp only [List.mem_cons, List.not_mem_nil, or_false] at hp
    rcases hp with rfl | rfl
    · rw [hline]; exact h0
    · rw [hline]; exact h1
  next =>
    obtain rfl := List.mem_singleton.mp hp
    rw [hline]
    exact h0

/-- An access within one bank is one request (R197). -/
theorem pieces_within {a len : Nat} (h : a % 2 ^ 20 + len ≤ 2 ^ 20) : pieces a len = [(a, len)] := if_pos (by omega)

theorem load_within {b : Block} {n : PE} {a len k : Nat} (ht : b.target a = .carafe k) (hin : a % 2 ^ 20 + len ≤ 2 ^ 20)
    (hlen : 0 < len) (hw : b.wholeAt a len k) (fab : Bool) :
    b.load n a len fab .clean = (Turned b n k, .ok (b.mem.bytes a len)) := by
  have hread := bankNow_alone (b := b) (k := k) (q := b.engReq n .read a len [] 0 .now 0 fab) ht hw.1 rfl (by decide : 0 < 16)
    (classOf_lt b a) (hw.whole hlen rfl rfl)
  have hserve : b.serving k (b.engReq n .read a len [] 0 .now 0 fab) = Turned b n k := serving_eq_turned hw.1 rfl rfl
  have hstill : (Turned b n k).setBank k { (Turned b n k).bankAt k with waiting := seat k ((Turned b n k).bankAt k).waiting } =
      Turned b n k :=
    reseat_self (turned_idle hw.1 n)
  unfold Block.load
  rw [pieces_within hin]
  unfold Block.loadPieces
  unfold Block.loadPiece
  rw [ht]
  dsimp only
  rw [hread, hserve]
  dsimp only [Block.effect, Block.engReq]
  rw [hstill]
  simp [Block.loadPieces, Served.forEngine, Block.fetch]

/-! ## The end of an instruction that used a bank -/

theorem cmpData_of_none {b : Block} {n : Nat} (h : (b.engine n).cmp = []) (rd wr : Bool) (a len v : Nat) :
    b.cmpData n rd wr a len v = b := by
  unfold Block.cmpData Block.cmpAll
  rw [h]
  rfl

/-- An instruction ends on a block that is `base` but for its engine's sequencing and counters. -/
theorem finish_on {s : State} {n : PE} (q : Quiet s n) {base b : Block} {e0 : Engine} (hbase : OnlyPmc n { base with eng := b.eng } b)
    (hcore : (b.engine n).core = (base.engine n).core) (hoth : ∀ m : Nat, m ≠ n.val → b.engine m = base.engine m)
    (hfpt : (b.engine n).fpt = none) (hcode : (b.engine n).codes = []) (hss : e0.st.ss = false)
    (hkeep : KeepsEngRegs s.blk base) (hseal : base.isSealed = s.blk.isSealed) (next : Nat) (flow : Bool) :
    ∃ t, done s (b.finish n e0 next false flow) = .next t ∧ Ended base n next t ∧ t.pending = s.pending := by
  obtain ⟨-, -, hlk, htr⟩ := q
  have hlkact : IsEngReg (R.ENG_LKSTAT_LKACT n) := by
    have := n.isLt
    simp only [IsEngReg, Fld.key, R.ENG_LKSTAT_LKACT]
    omega
  have hlk' : b.flag (R.ENG_LKSTAT_LKACT n) = false := by
    rw [hbase.flag _ (isPmc_lkact n)]
    exact (congrArg (· != 0) (hkeep _ hlkact)).trans hlk
  have htr' : b.tracing n = false := by
    rw [hbase.tracing]
    exact (tracing_congr (hkeep _ (isEngReg_tren n)) (hkeep _ isEngReg_trcEn)).trans htr
  have hseal' : s.blk.isSealed = b.isSealed := by
    rw [← hseal]
    have e := congrArg Block.isSealed hbase.1
    exact e.symm
  obtain ⟨t, ht, ⟨hpc, hcore', hoth', hpmc⟩, hp⟩ := finish_ended b n e0 next false flow
    (by simp [fpCount_none _ hfpt, Engine.fpTrapDue, hfpt]) hss hcode hlk' htr' s hseal'
  refine ⟨t, ht, ⟨hpc, ?_, fun m hm => ?_, ?_⟩, hp⟩
  · rw [hcore', Block.setEngine_engine_same, fpCount_none _ hfpt, hcore]
  · rw [hoth' m hm, Block.setEngine_engine_ne _ _ _ _ hm, hoth m hm]
  · exact (hbase.setEng t.blk.eng).trans hpmc

/-! ## Loads -/

theorem allows_noSkip (e : Engine) (level : Nat) (r : Right) (a len : Nat) : e.noSkip.allows level r a len = e.allows level r a len :=
  rfl

theorem bankFault_setEngine (b : Block) (n : Nat) (e : Engine) (a len : Nat) : (b.setEngine n e).bankFault a len = b.bankFault a len := by
  have ht : ∀ x, (b.setEngine n e).target x = b.target x := fun _ => rfl
  have ho : ∀ k, (b.setEngine n e).bankOn k = b.bankOn k := fun _ => rfl
  simp only [Block.bankFault, ht, ho]

theorem check_noSkip (b : Block) (n : Nat) (rs : List Right) (a len : Nat) :
    (b.modEngine n Engine.noSkip).check n rs a len = b.check n rs a len := by
  have hst : (b.engine n).noSkip.st = (b.engine n).st := rfl
  simp only [Block.modEngine, Block.check, Block.checkPiece, Block.setEngine_engine_same, allows_noSkip, bankFault_setEngine, hst]

/-- An effect on the engine that ran an instruction, as the instruction computes it after dispatch. -/
theorem RegEffect.core_noSkip {f : Engine → Engine} (h : RegEffect f) (e : Engine) : (f e.noSkip).core = (f e).core := by
  rw [h.noSkip, core_skip]

theorem loadOp_gives {c : Instr} {s : State} {n : PE} {word a len k : Nat} {put : List Byte → Engine → Engine} {bad : Bool}
    {f : Engine → Engine} (hx : exec c s = done s (s.blk.loadOp n word a len .clean bad put)) (hbad : bad = false)
    (hb : AtBank s n [.read] a len k) (hlen : 0 < len) (h : AtInstr s n word) (q : Quiet s n)
    (hput : RegEffect (put (s.blk.mem.bytes a len))) (hf : put (s.blk.mem.bytes a len) (s.blk.engine n) = f (s.blk.engine n)) :
    Gives c s (Loaded s n k (nextPc (s.blk.engine n).pc 4) f) := by
  subst hbad
  obtain ⟨ht, hin, hcheck, hwait, hlines⟩ := hb
  obtain ⟨hnofpt, hss, -, -⟩ := id q
  obtain ⟨-, -, -, hcmp, hcode⟩ := id h
  have hk : k < 64 := target_carafe_lt ht
  let e := s.blk.engine n
  let b0 := s.blk.modEngine n Engine.noSkip
  let b1 := b0.countAccess n a false false
  let b2 := (Turned b1 n k).modEngine n (put (s.blk.mem.bytes a len))
  have h01 : OnlyPmc n b0 b1 := countAccess_only b0 n a false false
  have he1 : b1.engine n = e.noSkip := (h01.engine n).trans (Block.modEngine_engine_same _ _ _)
  have hmem : b1.mem = s.blk.mem := h01.mem
  have hload : b1.load n a len false .clean = (Turned b1 n k, .ok (s.blk.mem.bytes a len)) := by
    rw [← hmem]
    refine load_within ((h01.target a).trans ht) hin hlen ⟨?_, ?_⟩ false
    · rw [h01.bankAt k]
      exact hwait
    · rw [h01.bankAt k]
      exact hlines
  have hrun : s.blk.loadOp n word a len .clean false put = b2.finish n e.noSkip (nextPc e.pc 4) false false := by
    have hcmp' : ((Turned b1 n k).engine n).cmp = [] := by
      rw [Turned_engine, he1]
      exact hcmp
    unfold Block.loadOp
    rw [feis_at h, if_neg Bool.false_ne_true]
    dsimp only
    rw [check_noSkip, hcheck]
    dsimp only
    rw [hload]
    dsimp only
    rw [cmpData_of_none hcmp']
    rfl
  have he2 : b2.engine n = put (s.blk.mem.bytes a len) e.noSkip := by
    rw [Block.modEngine_engine_same, Turned_engine, he1]
  have hb2 : b2.engine n = (f e).noSkip := by rw [he2, hput.noSkip, hf]
  obtain ⟨t, hdone, hend, hp⟩ := finish_on (s := s) q (base := (Turned s.blk n k).setEngine n (f e)) (b := b2) (e0 := e.noSkip)
    ((h01.turned k).setEng b2.eng |> fun o => by
      refine OnlyPmc.trans ?_ o
      rw [show Turned b0 n k = (Turned s.blk n k).modEngine n Engine.noSkip from Turned_modEngine ..]
      exact OnlyPmc.refl _ _)
    (by rw [hb2, Block.setEngine_engine_same, core_skip])
    (fun m hm => by
      rw [Block.modEngine_engine_ne _ _ _ _ hm, Turned_engine, h01.engine, Block.modEngine_engine_ne _ _ _ _ hm,
        Block.setEngine_engine_ne _ _ _ _ hm, Turned_engine])
    (by rw [he2, hput.fpt]; exact hnofpt) (by rw [he2]; exact hput.codes _ hcode) hss
    ((Turned_keepsEngRegs s.blk n hk).trans (.of_regs rfl)) (by simp) (nextPc e.pc 4) false
  exact ⟨t, by rw [hx, hrun, hdone], hend, hp⟩

end Sys2Proof.Machine
end

section
/-! The loads and stores of R84, and the halves of a lane register. -/
namespace Sys2Proof.Machine

/-! ## Values -/

theorem Mem.length_bytes (m : Mem) (a n : Nat) : (m.bytes a n).length = n := by
  induction n generalizing a with
  | zero => rfl
  | succ n ih => exact congrArg (· + 1) (ih (a + 1))

theorem toInt_ofNat_eq_toSigned (v : Nat) {w : Nat} (h : 0 < w) : (BitVec.ofNat w v).toInt = toSigned v w := by
  have hw : 2 ^ w = 2 * 2 ^ (w - 1) := by rw [← Nat.pow_succ', Nat.succ_eq_add_one, Nat.sub_add_cancel h]
  rw [BitVec.toInt_eq_toNat_cond, BitVec.toNat_ofNat, toSigned]
  by_cases hv : v % 2 ^ w < 2 ^ (w - 1)
  · rw [if_pos (by omega), if_pos hv]
  · rw [if_neg (by omega), if_neg hv]

theorem loadValue_signed (d : List Byte) (h : 0 < d.length) :
    loadValue d true = (BitVec.ofNat (8 * d.length) (leNat d)).signExtend 64 := by
  rw [loadValue, if_pos rfl, ofNat_ofSigned, ← toInt_ofNat_eq_toSigned _ (by omega)]
  rfl

theorem loadValue_bytes_signed (m : Mem) (a : Nat) {len : Nat} (h : 0 < len) :
    loadValue (m.bytes a len) true = (BitVec.ofNat (8 * len) (leNat (m.bytes a len))).signExtend 64 := by
  have hs := loadValue_signed (m.bytes a len) (by rwa [Mem.length_bytes])
  rwa [Mem.length_bytes] at hs

/-! ## Lane registers -/

theorem setV_codes {e : Engine} (i : Nat) (v : W128) (h : e.codes = []) : (e.setV i v).codes = [] := by
  rw [Engine.setV, recode_nil _ (by exact h)]
  exact h

theorem RegEffect.setV (i : Nat) {v : Engine → W128} (hv : ∀ e, v e.noSkip = v e) : RegEffect fun e => e.setV i (v e) where
  noSkip e := by rw [hv]; rfl
  fpt _ := rfl
  codes e he := setV_codes i _ he

theorem join64_toNat (hi lo : W64) : join64 hi lo = BitVec.ofNat 128 (hi.toNat * 2 ^ 64 + lo.toNat) := by
  apply BitVec.eq_of_toNat_eq
  have hlo := lo.isLt
  have hhi := hi.isLt
  rw [join64, BitVec.toNat_append, BitVec.toNat_ofNat, Nat.shiftLeft_eq, Nat.mul_comm, ← Nat.two_pow_add_eq_or_of_lt hlo]
  omega

theorem lo64_toNat (v : W128) : (lo64 v).toNat = v.toNat % 2 ^ 64 := BitVec.toNat_setWidth ..

theorem hi64_toNat (v : W128) : (hi64 v).toNat = v.toNat / 2 ^ 64 := by
  have hv := v.isLt
  rw [hi64, BitVec.extractLsb'_toNat, Nat.shiftRight_eq_div_pow]
  omega

/-- The bit X[0] that names a half. -/
def halfBit (high : Bool) : BitVec 9 := if high then 1 else 0

theorem vins_value (high : Bool) (g : W64) (v : W128) :
    (if (halfBit high).getLsbD 0 then join64 g (lo64 v) else join64 (hi64 v) g) =
      BitVec.ofNat 128 (if high then g.toNat * 2 ^ 64 + v.toNat % 2 ^ 64 else v.toNat / 2 ^ 64 * 2 ^ 64 + g.toNat) := by
  cases high
  · exact (join64_toNat ..).trans (by rw [hi64_toNat]; rfl)
  · exact (join64_toNat ..).trans (by rw [lo64_toNat]; rfl)

theorem vext_value (high : Bool) (v : W128) :
    (if (halfBit high).getLsbD 0 then hi64 v else lo64 v) =
      BitVec.ofNat 64 (if high then v.toNat / 2 ^ 64 else v.toNat % 2 ^ 64) := by
  apply BitVec.eq_of_toNat_eq
  have hv := v.isLt
  rw [BitVec.toNat_ofNat]
  cases high
  · exact (lo64_toNat v).trans (by simp)
  · refine (hi64_toNat v).trans ?_
    simp only [if_true]
    omega

/-! ## Stores -/

/-- A posted store that stays in one bank joins its line there. -/
theorem postStore_within {b : Block} {n : PE} {a k : Nat} {data : List Byte} (ht : b.target a = .carafe k)
    (hin : a % 2 ^ 20 + data.length ≤ 2 ^ 20) : b.postStore n a data false = Posted b n a data k := by
  unfold Block.postStore
  rw [pieces_within hin]
  dsimp only
  unfold Block.postPiece
  rw [ht]
  dsimp only
  unfold Block.post
  rw [show (b.engReq n .write a data.length data 0 .none 0 false).addr = a from rfl, ht]
  rfl

theorem OnlyPmc.posted {n : PE} {a b : Block} (h : OnlyPmc n a b) (x : Nat) (data : List Byte) (k : Nat) :
    OnlyPmc n (Posted a n x data k) (Posted b n x data k) := by
  unfold Posted Block.engReq
  rw [h.bankAt k, h.classOf x]
  exact h.setBank k _

theorem storeOp_gives {c : Instr} {s : State} {n : PE} {word a k : Nat} {data : List Byte} {bad : Bool}
    (hx : exec c s = done s (s.blk.storeOp n word a data bad)) (hbad : bad = false) (hst : StoresAt s n a data.length k)
    (h : AtInstr s n word) (q : Quiet s n) :
    Gives c s (Ended (Posted s.blk n a data k) n (nextPc (s.blk.engine n).pc 4)) := by
  subst hbad
  obtain ⟨ht, hin, hcheck⟩ := hst
  obtain ⟨hnofpt, hss, hlk, -⟩ := id q
  obtain ⟨-, -, -, hcmp, hcode⟩ := id h
  let e := s.blk.engine n
  let b0 := s.blk.modEngine n Engine.noSkip
  let b1 := b0.countAccess n a true false
  let b2 := Posted b1 n a data k
  have h01 : OnlyPmc n b0 b1 := countAccess_only b0 n a true false
  have he2 : b2.engine n = e.noSkip := (h01.engine n).trans (Block.modEngine_engine_same _ _ _)
  have hrun : s.blk.storeOp n word a data false = b2.finish n e.noSkip (nextPc e.pc 4) false false := by
    have hcmp' : (b2.engine n).cmp = [] := by rw [he2]; exact hcmp
    unfold Block.storeOp
    rw [feis_at h, hlk]
    simp only [firstTrap, Bool.false_eq_true, if_false]
    rw [check_noSkip, hcheck]
    dsimp only
    rw [postStore_within ((h01.target a).trans ht) hin, cmpData_of_none hcmp']
    rfl
  obtain ⟨t, hdone, hend, -⟩ := finish_on (s := s) q (base := Posted s.blk n a data k) (b := b2) (e0 := e.noSkip)
    ((h01.posted a data k).setEng b2.eng) (by rw [he2]; exact core_skip e)
    (fun m hm => (h01.engine m).trans (Block.modEngine_engine_ne _ _ _ _ hm)) (by rw [he2]; exact hnofpt)
    (by rw [he2]; exact hcode) hss (.of_regs rfl) rfl (nextPc e.pc 4) false
  exact ⟨t, by rw [hx, hrun, hdone], hend⟩

/-! ## The statement -/

section
variable {c : Instr} {s : State} {n : PE} {word a len k : Nat} {d : BitVec 5}

theorem gives_load_unsigned (hb : AtBank s n [.read] a len k) (hlen : 0 < len) (h : AtInstr s n word) (q : Quiet s n)
    (hx : exec c s = done s (s.blk.loadOp n word a len .clean false fun v e => e.setG d.toNat (loadValue v false))) :
    Gives c s (Loaded s n k (nextPc (s.blk.engine n).pc 4) fun e =>
      e.setG d.toNat (BitVec.ofNat 64 (leNat (s.blk.mem.bytes a len)))) :=
  loadOp_gives hx rfl hb hlen h q (RegEffect.id.setG _ fun _ => rfl) rfl

theorem gives_load_signed (hb : AtBank s n [.read] a len k) (hlen : 0 < len) (h : AtInstr s n word) (q : Quiet s n)
    (hx : exec c s = done s (s.blk.loadOp n word a len .clean false fun v e => e.setG d.toNat (loadValue v true))) :
    Gives c s (Loaded s n k (nextPc (s.blk.engine n).pc 4) fun e =>
      e.setG d.toNat ((BitVec.ofNat (8 * len) (leNat (s.blk.mem.bytes a len))).signExtend 64)) :=
  loadOp_gives hx rfl hb hlen h q (RegEffect.id.setG _ fun _ => rfl) (by rw [loadValue_bytes_signed _ _ hlen])

end

/-- Settles O10: a load is the turn of the one request that it makes of its bank; a store is one more request in its bank's line;
the lane halves are register instructions. -/
theorem loadsAndStores : Obligations.LoadsAndStores := by
  unfold Obligations.LoadsAndStores
  refine ⟨fun n d a imm k s q => ?_, fun n size d a imm k s q => ?_, fun n d a high s q => ?_⟩
  · intro e addr value unsigned signed
    refine ⟨fun hb => ⟨fun h => ?_, fun h => ?_⟩, fun hb => ⟨fun h => ?_, fun h => ?_⟩, fun hb => ⟨fun h => ?_, fun h => ?_⟩,
      fun hb h => ?_, fun hb hd h => ?_⟩
    · exact gives_load_unsigned hb (by decide) h q rfl
    · exact gives_load_signed hb (by decide) h q rfl
    · exact gives_load_unsigned hb (by decide) h q rfl
    · exact gives_load_signed hb (by decide) h q rfl
    · exact gives_load_unsigned hb (by decide) h q rfl
    · exact gives_load_signed hb (by decide) h q rfl
    · exact gives_load_unsigned hb (by decide) h q rfl
    · exact loadOp_gives rfl (decide_eq_false (by omega)) hb (by decide) h q (.setV _ fun _ => rfl) rfl
  · intro e addr
    refine ⟨fun hst h => ?_, fun hst hd h => ?_⟩
    · exact storeOp_gives rfl rfl (by rwa [leBytes_length]) h q
    · exact storeOp_gives rfl (decide_eq_false (by omega)) (by rwa [leBytes_length]) h q
  · intro x e low up
    have hx : decide (2 ≤ x.toNat) = false := by cases high <;> rfl
    refine ⟨fun hd h => ?_, fun ha h => ?_⟩
    · exact (RegEffect.setV d.toNat (v := fun e => if x.getLsbD 0 then join64 (e.g a.toNat) (lo64 (e.v d.toNat))
        else join64 (hi64 (e.v d.toNat)) (e.g a.toNat)) fun _ => rfl).gives rfl (by simp [hx, hd]) h q
          (congrArg (e.setV d.toNat) (vins_value high _ _))
    · exact (RegEffect.id.setG d.toNat (v := fun e => if x.getLsbD 0 then hi64 (e.v a.toNat) else lo64 (e.v a.toNat))
        fun _ => rfl).gives rfl (by simp [hx, ha]) h q (congrArg (e.setG d.toNat) (vext_value high _))

end Sys2Proof.Machine
end

section
/-! The atomics: one request that reads, changes and writes its word (R84, R92, R203). -/
namespace Sys2Proof.Machine

/-! ## A request's effect leaves the line at its bank alone -/

theorem Bank.heal_waiting (c : Bank) (line words : Nat) : (c.heal line words).waiting = c.waiting := by
  unfold Bank.heal
  dsimp only
  split <;> rfl

theorem modEngines_bank (l : List (Nat × Nat × Nat)) (b : Block) :
    (l.foldl (fun b p => b.modEngine p.1 fun e => { e with notices := e.notices ++ [p.2.2] }) b).bank = b.bank := by
  induction l generalizing b with
  | nil => rfl
  | cons p l ih => exact ih _

theorem breakBank_idle {b : Block} {k : Nat} (h : b.idleBank k) (j line rq : Nat) : (b.breakBank j line rq).idleBank k := by
  unfold Block.breakBank
  dsimp only
  split
  · exact h
  · have hset : (b.setBank j { b.bankAt j with locks := (b.bankAt j).locks.filter fun p =>
        !(p.2.1 == line && p.1 != rq) }).idleBank k := idleBank_setBank h fun hj => by rw [hj]; exact h.2
    simpa only [Block.idleBank, Block.bankAt, modEngines_bank] using hset

theorem touchLine_idle {b : Block} {k : Nat} (h : b.idleBank k) (rq a n : Nat) (src : Option Nat) :
    (b.touchLine rq a n src).idleBank k := by
  unfold Block.touchLine
  split
  next j _ =>
    have hbreak := breakBank_idle h j (a / 64 % 2 ^ 14) rq
    exact idleBank_setBank hbreak fun hj => by
      dsimp only
      rw [Bank.heal_waiting, hj]
      exact (hj ▸ hbreak).2
  · exact h
  · exact h

theorem touchLines_idle {k : Nat} (rq : Nat) (src : Option Nat) (fuel a n : Nat) {b : Block} (h : b.idleBank k) :
    (Block.touchLines rq src fuel a n b).idleBank k := by
  induction fuel generalizing a n b with
  | zero => exact h
  | succ fuel ih =>
    unfold Block.touchLines
    split
    · exact h
    · exact ih _ _ (touchLine_idle h _ _ _ _)

theorem store_idle {b : Block} {k : Nat} (h : b.idleBank k) (rq a : Nat) (data : List Byte) (src : Option Nat) :
    (b.store rq a data src).idleBank k := touchLines_idle rq src _ _ _ h

theorem takeLock_idle {b : Block} {k : Nat} (h : b.idleBank k) (rq a lock : Nat) : (b.takeLock rq a lock).idleBank k := by
  unfold Block.takeLock
  split
  · exact idleBank_setBank h fun hj => by rw [hj]; exact h.2
  · exact h
  · exact h

theorem freeLock_idle {b : Block} {k : Nat} (h : b.idleBank k) (rq a : Nat) : (b.freeLock rq a).idleBank k := by
  unfold Block.freeLock
  split
  · exact idleBank_setBank h fun hj => by rw [hj]; exact h.2
  · exact h
  · exact h

theorem effect_idle {b : Block} {k : Nat} (h : b.idleBank k) (q : Req) : (b.effect q).1.idleBank k := by
  unfold Block.effect
  split
  · exact h
  · exact store_idle h _ _ _ _
  · exact store_idle h _ _ _ _
  · exact takeLock_idle h _ _ _
  · exact freeLock_idle h _ _
  · split
    · split
      · exact store_idle (freeLock_idle h _ _) _ _ _ _
      · exact freeLock_idle h _ _
    · exact h
  · exact store_idle h _ _ _ _

/-- A locked or atomic request of an engine at a bank where no other request waits; `c` is the block as the request was made. -/
theorem atomic_within {b c : Block} {n : PE} {kind : ReqKind} {a len k cmp lock : Nat} {data : List Byte} {fab : Bool}
    (ht : b.target a = .carafe k) (hlen : 0 < len) (hw : b.wholeAt a len k) :
    b.atomic (c.engReq n kind a len data cmp .now lock fab) .clean =
      (((b.serving k (c.engReq n kind a len data cmp .now lock fab)).effect (c.engReq n kind a len data cmp .now lock fab)).1,
        .ok ((b.serving k (c.engReq n kind a len data cmp .now lock fab)).effect (c.engReq n kind a len data cmp .now lock fab)).2) := by
  have hcls : (c.engReq n kind a len data cmp .now lock fab).cls < 6 := classOf_lt c a
  have haddr : (c.engReq n kind a len data cmp .now lock fab).addr = a := rfl
  have hplace : (c.engReq n kind a len data cmp .now lock fab).place = 0 := rfl
  have hage : (c.engReq n kind a len data cmp .now lock fab).age < 16 := (by decide : 0 < 16)
  have hwhole : (b.bankAt k).whole (c.engReq n kind a len data cmp .now lock fab) := hw.whole hlen rfl rfl
  generalize c.engReq n kind a len data cmp .now lock fab = q at *
  unfold Block.atomic Block.now
  rw [haddr, ht]
  dsimp only
  rw [bankNow_alone (by rwa [haddr]) hw.1 hplace hage hcls hwhole]
  dsimp only
  rw [reseat_self (effect_idle (serving_idle b k q) q)]
  rfl

/-! ## Blocks that differ in one engine and its counters -/

/-- `b` is `a` but for engine `n` and its counters. -/
def Beside (n : Nat) (a b : Block) : Prop := OnlyPmc n { a with eng := b.eng } b ∧ ∀ m, m ≠ n → b.engine m = a.engine m

section
variable {n : Nat} {a b : Block}

theorem OnlyPmc.beside (h : OnlyPmc n a b) : Beside n a b := by
  have heng : b.eng = a.eng := by
    have e := congrArg Block.eng h.1
    exact e
  exact ⟨by rw [heng]; exact h, fun m _ => h.engine m⟩

theorem Beside.trans {c : Block} (h : Beside n a b) (k : Beside n b c) : Beside n a c :=
  ⟨(h.1.setEng c.eng).trans k.1, fun m hm => (k.2 m hm).trans (h.2 m hm)⟩

theorem modEngine_beside (b : Block) (n : Nat) (g : Engine → Engine) : Beside n b (b.modEngine n g) :=
  ⟨OnlyPmc.refl _ _, fun _ hm => Block.modEngine_engine_ne _ _ _ _ hm⟩

theorem Beside.bankAt (h : Beside n a b) (k : Nat) : b.bankAt k = a.bankAt k := h.1.bankAt k

theorem Beside.target (h : Beside n a b) (x : Nat) : b.target x = a.target x := h.1.target x

theorem Beside.mem (h : Beside n a b) : b.mem = a.mem := h.1.mem

theorem Beside.dram (h : Beside n a b) : b.dram = a.dram := by
  have e := congrArg Block.dram h.1.1
  exact e

theorem Beside.setBank (h : Beside n a b) (k : Nat) (c : Bank) : Beside n (a.setBank k c) (b.setBank k c) :=
  ⟨h.1.setBank k c, h.2⟩

theorem Beside.put (h : Beside n a b) (f : Fld) (v : Nat) : Beside n (a.put f v) (b.put f v) := ⟨h.1.put_both f v, h.2⟩

theorem Beside.setDram (h : Beside n a b) (d : DramPort) : Beside n { a with dram := d } { b with dram := d } :=
  ⟨⟨congrArg (fun c : Block => { c with dram := d }) h.1.1, h.1.2⟩, h.2⟩

theorem Beside.setMem (h : Beside n a b) (m : Mem) : Beside n { a with mem := m } { b with mem := m } :=
  ⟨⟨congrArg (fun c : Block => { c with mem := m }) h.1.1, h.1.2⟩, h.2⟩

/-- Another engine changes alike in both. -/
theorem Beside.modEngine (h : Beside n a b) {m : Nat} (hm : m ≠ n) (g : Engine → Engine) :
    Beside n (a.modEngine m g) (b.modEngine m g) := by
  refine ⟨h.1.setEng _, fun j hj => ?_⟩
  by_cases hjm : j = m
  · subst hjm
    rw [Block.modEngine_engine_same, Block.modEngine_engine_same, h.2 j hj]
  · rw [Block.modEngine_engine_ne _ _ _ _ hjm, Block.modEngine_engine_ne _ _ _ _ hjm, h.2 j hj]

theorem Beside.turned {n : PE} {a b : Block} (h : Beside n a b) (k : Nat) : Beside n (Turned a n k) (Turned b n k) := by
  unfold Turned
  rw [h.bankAt k]
  dsimp only
  split
  · exact h.setBank _ _
  · exact (h.setBank _ _).put _ _

theorem Beside.breakBank (h : Beside n a b) (k line : Nat) : Beside n (a.breakBank k line n) (b.breakBank k line n) := by
  unfold Block.breakBank
  rw [h.bankAt k]
  dsimp only
  split
  · exact h
  · have hl : ∀ p ∈ (a.bankAt k).locks.filter fun p => p.2.1 == line && p.1 != n, p.1 ≠ n := fun p hp => by
      simpa using (List.of_mem_filter hp : _ = true) |> fun e => ((Bool.and_eq_true _ _).mp e).2
    generalize ((a.bankAt k).locks.filter fun p => p.2.1 == line && p.1 != n) = l at hl
    have hset := h.setBank k { a.bankAt k with locks := (a.bankAt k).locks.filter fun p => !(p.2.1 == line && p.1 != n) }
    revert hset
    generalize a.setBank k _ = a'
    generalize b.setBank k _ = b'
    intro hset
    induction l generalizing a' b' with
    | nil => exact hset
    | cons p l ih =>
      exact ih (fun r hr => hl r (List.mem_cons_of_mem _ hr)) _ _ (hset.modEngine (hl p List.mem_cons_self) _)

theorem Beside.touchLine (h : Beside n a b) (x len : Nat) (src : Option Nat) :
    Beside n (a.touchLine n x len src) (b.touchLine n x len src) := by
  unfold Block.touchLine
  rw [h.target x]
  split
  · have hb := h.breakBank (by assumption) (x / 64 % 2 ^ 14)
    dsimp only
    rw [hb.bankAt]
    exact hb.setBank _ _
  · unfold Block.breakDram
    rw [h.dram]
    exact h.setDram _
  · exact h

theorem Beside.touchLines (src : Option Nat) (fuel x len : Nat) (h : Beside n a b) :
    Beside n (Block.touchLines n src fuel x len a) (Block.touchLines n src fuel x len b) := by
  induction fuel generalizing x len a b with
  | zero => exact h
  | succ fuel ih =>
    unfold Block.touchLines
    split
    · exact h
    · exact ih _ _ (h.touchLine _ _ _)

theorem Beside.store (h : Beside n a b) (x : Nat) (data : List Byte) (src : Option Nat) :
    Beside n (a.store n x data src) (b.store n x data src) := by
  have ht := h.touchLines src (data.length / 64 + 2) x data.length
  unfold Block.store
  dsimp only
  rw [ht.mem]
  exact ht.setMem _

end

/-! ## What a store leaves of its own engine and of LC_STATE -/

/-- A property of the block that no bank, no DRAM lock and no other engine decides. -/
def AsideFrom (n : Nat) (a b : Block) : Prop := b.engine n = a.engine n ∧ b.isSealed = a.isSealed

theorem breakBank_aside (b : Block) (k line n : Nat) : AsideFrom n b (b.breakBank k line n) := by
  unfold Block.breakBank
  dsimp only
  split
  · exact ⟨rfl, rfl⟩
  · refine List.foldlRecOn (motive := AsideFrom n b) _ _ ⟨rfl, rfl⟩ fun c hc p hp => ?_
    have hne : n ≠ p.1 := by
      have hfit := List.of_mem_filter hp
      simp only [Bool.and_eq_true, bne_iff_ne] at hfit
      exact hfit.2.symm
    exact ⟨(Block.modEngine_engine_ne _ _ _ _ hne).trans hc.1, hc.2⟩

theorem touchLine_aside (b : Block) (n a len : Nat) (src : Option Nat) : AsideFrom n b (b.touchLine n a len src) := by
  unfold Block.touchLine
  split
  · exact breakBank_aside b _ _ n
  · exact ⟨rfl, rfl⟩
  · exact ⟨rfl, rfl⟩

theorem touchLines_aside (n : Nat) (src : Option Nat) (fuel a len : Nat) (b : Block) :
    AsideFrom n b (Block.touchLines n src fuel a len b) := by
  induction fuel generalizing a len b with
  | zero => exact ⟨rfl, rfl⟩
  | succ fuel ih =>
    unfold Block.touchLines
    split
    · exact ⟨rfl, rfl⟩
    · obtain ⟨he, hs⟩ := touchLine_aside b n a (min len (64 - a % 64)) src
      obtain ⟨he', hs'⟩ := ih (a + min len (64 - a % 64)) (len - min len (64 - a % 64)) (b.touchLine n a (min len (64 - a % 64)) src)
      exact ⟨he'.trans he, hs'.trans hs⟩

theorem store_engine_self (b : Block) (n a : Nat) (data : List Byte) (src : Option Nat) :
    (b.store n a data src).engine n = b.engine n := (touchLines_aside n src _ _ _ b).1

theorem store_isSealed (b : Block) (n a : Nat) (data : List Byte) (src : Option Nat) :
    (b.store n a data src).isSealed = b.isSealed := (touchLines_aside n src _ _ _ b).2

theorem breakBank_mem (b : Block) (k line rq : Nat) : (b.breakBank k line rq).mem = b.mem := by
  unfold Block.breakBank
  dsimp only
  split
  · rfl
  · exact List.foldlRecOn (motive := fun c : Block => c.mem = b.mem) _ _ rfl fun c hc p _ => hc

theorem touchLine_mem (b : Block) (rq a len : Nat) (src : Option Nat) : (b.touchLine rq a len src).mem = b.mem := by
  unfold Block.touchLine
  split
  · exact breakBank_mem b _ _ _
  · rfl
  · rfl

theorem touchLines_mem (rq : Nat) (src : Option Nat) (fuel a len : Nat) (b : Block) :
    (Block.touchLines rq src fuel a len b).mem = b.mem := by
  induction fuel generalizing a len b with
  | zero => rfl
  | succ fuel ih =>
    unfold Block.touchLines
    split
    · rfl
    · exact (ih _ _ _).trans (touchLine_mem _ _ _ _ _)

theorem store_mem (b : Block) (rq a : Nat) (data : List Byte) (src : Option Nat) :
    (b.store rq a data src).mem = b.mem.writes a data := by
  unfold Block.store
  dsimp only
  rw [touchLines_mem]

/-! ## The end of an atomic -/

theorem finish_beside {s : State} {n : PE} (q : Quiet s n) {base b : Block} {e0 : Engine} (hb : Beside n base b)
    (hcore : (b.engine n).core = (base.engine n).core) (hfpt : (b.engine n).fpt = none) (hcode : (b.engine n).codes = [])
    (hss : e0.st.ss = false) (hkeep : KeepsEngRegs s.blk base) (hseal : base.isSealed = s.blk.isSealed) (next : Nat) :
    ∃ t, done s (b.finish n e0 next false false) = .next t ∧ Ended base n next t ∧ t.pending = s.pending :=
  finish_on q hb.1 hcore hb.2 hfpt hcode hss hkeep hseal next false

theorem Ended.mem {b : Block} {n : PE} {next : Nat} {t : State} (h : Ended b n next t) : t.blk.mem = b.mem := by
  obtain ⟨-, -, -, hpmc⟩ := h
  exact hpmc.mem

theorem setEngine_beside (b : Block) (n : Nat) (e : Engine) : Beside n b (b.setEngine n e) :=
  ⟨OnlyPmc.refl _ _, fun _ hm => Block.setEngine_engine_ne _ _ _ _ hm⟩

theorem Beside.symm_setEngine {n : Nat} {a b : Block} (h : Beside n a b) (e : Engine) : Beside n (a.setEngine n e) b :=
  ⟨h.1, fun m hm => (h.2 m hm).trans (Block.setEngine_engine_ne _ _ _ _ hm).symm⟩

/-- The word that an atomic writes, of `len` bytes. -/
def amoWord (kind : Nat) (s : State) (n : PE) (addr len : Nat) (d b : BitVec 5) : Nat :=
  amoValue kind (leNat (s.blk.mem.bytes addr len)) (leNat (leBytes ((s.blk.engine n).g b.toNat).toNat len))
    (((s.blk.engine n).g d.toNat).toNat % 2 ^ (8 * len)) (8 * len)

/-- The registers after an atomic: the old value in D, and Z of the comparison where it makes one. -/
def amoEnds (s : State) (n : PE) (addr len : Nat) (d : BitVec 5) (z : Bool) (e : Engine) : Engine :=
  e.result d.toNat (loadValue (s.blk.mem.bytes addr len) false)
    (if z then { e.st with z := leNat (s.blk.mem.bytes addr len) == ((s.blk.engine n).g d.toNat).toNat % 2 ^ (8 * len) } else e.st)

theorem amoEnds_regEffect (s : State) (n : PE) (addr len : Nat) (d : BitVec 5) (z : Bool) :
    RegEffect (amoEnds s n addr len d z) :=
  (RegEffect.id.setG d.toNat fun _ => rfl).withSt fun e => by cases z <;> rfl

theorem amoOp_gives {c : Instr} {s : State} {n : PE} {op kind k : Nat} {d a b : BitVec 5} {x : BitVec 9} {fab z : Bool}
    (hx : exec c s = done s (s.blk.amoOp n op kind d a b x .clean fab z)) (hx2 : x.toNat < 2) (h : AtInstr s n (wordR op d a b x))
    (q : Quiet s n) :
    let len := xSize x
    let addr := ((s.blk.engine n).g a.toNat).toNat % 2 ^ 48
    let v := amoWord kind s n addr len d b
    let stored := (Turned s.blk n k).store n addr (leBytes v len) none
    AtBank s n [.read, .write] addr len k → addr % len = 0 →
    Gives c s fun t => Ended (stored.setEngine n (amoEnds s n addr len d z (stored.engine n))) n (nextPc (s.blk.engine n).pc 4) t ∧
      t.blk.mem.bytes addr len = leBytes v len := by
  intro len addr v stored hb hal
  obtain ⟨ht, hin, hcheck, hwait, hlines⟩ := hb
  obtain ⟨hnofpt, hss, hlk, -⟩ := id q
  obtain ⟨-, -, -, hcmp, hcode⟩ := id h
  have hk : k < 64 := target_carafe_lt ht
  have hlen : 0 < len := by
    show 0 < xSize x
    unfold xSize
    split <;> decide
  let e := s.blk.engine n
  let b0 := s.blk.modEngine n Engine.noSkip
  let b1 := b0.countAccess n addr true fab
  let req := b0.engReq n (.amo kind) addr len (leBytes (e.g b.toNat).toNat len) ((e.g d.toNat).toNat % 2 ^ (8 * len)) .now 0 fab
  let b2 := (Turned b1 n k).store n addr (leBytes v len) none
  let b3 := b2.modEngine n (amoEnds s n addr len d z)
  have h01 : Beside n s.blk b1 := (modEngine_beside s.blk n Engine.noSkip).trans (countAccess_only b0 n addr true fab).beside
  have h12 : Beside n stored b2 := (h01.turned k).store _ _ _
  have he1 : b1.engine n = e.noSkip := ((countAccess_only b0 n addr true fab).engine n).trans (Block.modEngine_engine_same _ _ _)
  have he2 : b2.engine n = e.noSkip := by
    rw [store_engine_self, Turned_engine, he1]
  have hes : stored.engine n = e := by
    rw [store_engine_self, Turned_engine]
  have hold : (Turned b1 n k).fetch addr len = s.blk.mem.bytes addr len := by
    rw [Block.fetch, Turned_mem, h01.mem]
  have hwhole : b1.wholeAt addr len k := by
    refine ⟨?_, ?_⟩
    · rw [h01.bankAt k]
      exact hwait
    · rw [h01.bankAt k]
      exact hlines
  have hserve : b1.serving k req = Turned b1 n k := serving_eq_turned hwhole.1 rfl rfl
  have hatomic : b1.atomic req .clean = (b2, .ok (s.blk.mem.bytes addr len)) := by
    have ha : b1.atomic req .clean = (((b1.serving k req).effect req).1, .ok ((b1.serving k req).effect req).2) :=
      atomic_within ((h01.target addr).trans ht) hlen hwhole
    rw [hserve] at ha
    rw [ha]
    unfold Block.effect
    dsimp only [req, Block.engReq]
    rw [hold]
    rfl
  have hrun : s.blk.amoOp n op kind d a b x .clean fab z = b3.finish n e.noSkip (nextPc e.pc 4) false false := by
    have hill : decide (2 ≤ x.toNat) = false := decide_eq_false (by omega)
    have hcmp' : (b2.engine n).cmp = [] := by
      rw [he2]
      exact hcmp
    unfold Block.amoOp
    dsimp only
    rw [feis_at h, hlk, hill]
    simp only [firstTrap, Bool.false_eq_true, if_false]
    rw [if_neg (show ¬(((s.blk.engine n).noSkip.g a.toNat).toNat % 2 ^ 48 % xSize x ≠ 0) from not_not.mpr hal), check_noSkip,
      show s.blk.check n [.read, .write] (((s.blk.engine n).noSkip.g a.toNat).toNat % 2 ^ 48) (xSize x) = none from hcheck]
    dsimp only
    have hgoal : b1.atomic (b0.engReq n (.amo kind) (((s.blk.engine n).noSkip.g a.toNat).toNat % 2 ^ 48) (xSize x)
      (leBytes (((s.blk.engine n).noSkip.g b.toNat).toNat) (xSize x))
      (((s.blk.engine n).noSkip.g d.toNat).toNat % 2 ^ (8 * xSize x)) .now 0 fab) .clean = (b2, .ok (s.blk.mem.bytes addr len)) := hatomic
    rw [show b0.countAccess n (((s.blk.engine n).noSkip.g a.toNat).toNat % 2 ^ 48) true fab = b1 from rfl, hgoal]
    dsimp only
    rw [cmpData_of_none hcmp']
    rfl
  have he3 : b3.engine n = (amoEnds s n addr len d z e).noSkip := by
    rw [Block.modEngine_engine_same, he2, (amoEnds_regEffect s n addr len d z).noSkip]
  have heff := amoEnds_regEffect s n addr len d z
  obtain ⟨t, hdone, hend, -⟩ := finish_beside (s := s) q (base := stored.setEngine n (amoEnds s n addr len d z (stored.engine n)))
    (b := b3) (e0 := e.noSkip) ((h12.trans (modEngine_beside b2 n _)).symm_setEngine _)
    (by rw [he3, core_skip, Block.setEngine_engine_same, hes])
    (by rw [he3]; exact (heff.fpt e).trans hnofpt) (by rw [he3]; exact heff.codes e hcode) hss
    ((Turned_keepsEngRegs s.blk n hk).trans (.of_regs (Block.store_regs _ _ _ _ _)))
    ((store_isSealed _ _ _ _ _).trans (Turned_isSealed _ _ _)) (nextPc e.pc 4)
  refine ⟨t, by rw [hx, hrun, hdone], hend, ?_⟩
  have hlen' : (leBytes v len).length = len := leBytes_length v len
  have hmem : t.blk.mem = (Turned s.blk n k).mem.writes addr (leBytes v len) := hend.mem.trans (store_mem _ _ _ _ _)
  have hbytes := Mem.bytes_writes (Turned s.blk n k).mem addr (leBytes v len)
  rwa [hlen', ← hmem] at hbytes

theorem xSize_of_wide (wide : Bool) : xSize (if wide then 1 else 0) = if wide then 8 else 4 := by cases wide <;> decide

/-- Settles O11: each atomic is one request of its bank, and its word is what the operation makes of the old value and B. -/
theorem atomics : Obligations.Atomics := by
  unfold Obligations.Atomics
  intro n d a b wide k s q x len e addr old m y swap ends set hb hal hmem
  have hlen : xSize x = len := xSize_of_wide wide
  have hx : x.toNat < 2 := by cases wide <;> decide
  have hm : m = 256 ^ len := by rw [show (256 : Nat) = 2 ^ 8 from rfl, ← Nat.pow_mul]
  have hy : leNat (leBytes (e.g b.toNat).toNat len) = y := by rw [leNat_leBytes, ← hm]
  have word : ∀ kind, amoWord kind s n addr len d b = amoValue kind old y ((e.g d.toNat).toNat % m) (8 * len) := fun kind =>
    congrArg (amoValue kind old · _ _) hy
  have hym : y % 2 ^ (8 * len) = y := Nat.mod_mod _ _
  have amo : ∀ {c : Instr} {op kind : Nat} {fab z : Bool} (v : Nat) (f : Engine → Engine),
      exec c s = done s (s.blk.amoOp n op kind d a b x .clean fab z) →
      amoValue kind old y ((e.g d.toNat).toNat % m) (8 * len) = v → (∀ e, amoEnds s n addr len d z e = f e) →
      AtInstr s n (wordR op d a b x) → Gives c s (ends v f) := by
    intro c op kind fab z v f hxc hv hf h
    have hg := amoOp_gives hxc hx h q (k := k)
    rw [hlen] at hg
    have hg := hg hb hal
    rw [word, hv] at hg
    obtain ⟨t, ht, hend, hbytes⟩ := hg
    exact ⟨t, ht, by rw [← hf]; exact hend, hbytes⟩
  refine ⟨fun h => ?_, fun h => ?_, fun h => ?_, fun h => ?_, fun h => ?_⟩
  · exact amo _ _ rfl rfl (fun e => result_keeping_st _ _ _) h
  · exact amo _ _ rfl hym (fun e => result_keeping_st _ _ _) h
  · refine amo (c := .amocas n d a b x .clean) (kind := 2) (fab := false) (z := true) (if swap then y else old)
      (fun p => { set p with st := { p.st with z := swap } }) rfl ?_ (fun p => ?_) h
    · have hym' : y % m = y := hym
      simp only [amoValue, swap, decide_eq_true_eq, show 2 ^ (8 * len) = m from rfl, Nat.mod_mod, hym']
    · exact congrArg (fun b => { set p with st := { p.st with z := b } }) 
        (by rw [beq_eq_decide] : (old == (e.g d.toNat).toNat % m) = swap)
  · exact amo _ _ rfl (congrArg (Nat.land old) hym) (fun e => result_keeping_st _ _ _) h
  · exact amo _ _ rfl (congrArg (Nat.lor old) hym) (fun e => result_keeping_st _ _ _) h

end Sys2Proof.Machine
end

section
/-! Locked sequences: LKB takes the line lock, LKE stores while it stands (R84, R90, R91, R202, R203). -/
namespace Sys2Proof.Machine

/-! ## The end of an instruction, a locked sequence active or not (R90) -/

/-- The engine at the end of an instruction without a pending FPTRAP. -/
def Engine.ended (e : Engine) (next : Nat) : Engine :=
  Engine.advance { e with st := { e.st with rsm := false }, long := none, ustack := [] } next

theorem ended_fpt (e : Engine) (next : Nat) : (e.ended next).fpt = e.fpt := advance_fpt _ _

theorem ended_regs {e : Engine} (next : Nat) (h : e.codes = []) :
    (e.ended next).pc = BitVec.ofNat 48 next ∧ (e.ended next).gV = e.gV ∧ (e.ended next).gT = e.gT ∧ (e.ended next).sp = e.sp ∧
      (e.ended next).vr = e.vr ∧ (e.ended next).st = { e.st with rsm := false } := by
  obtain ⟨u, i, hd, he⟩ := advance_eq (e := { e with st := { e.st with rsm := false }, long := none, ustack := [] }) next h
  unfold Engine.ended
  rw [he]
  exact ⟨rfl, rfl, rfl, rfl, rfl, rfl⟩

/-- The end of an instruction changes no general register. -/
theorem ended_g {e : Engine} (next : Nat) (h : e.codes = []) (i : Nat) : (e.ended next).g i = e.g i := by
  obtain ⟨-, hV, hT, hsp, -, hst⟩ := ended_regs next h
  unfold Engine.g
  rw [hV, hT, hsp, hst]
  rfl

theorem isPmc_lkcnt (n : Nat) : isPmc n (R.ENG_LKSTAT_LKCNT n) = false := by
  simp [isPmc, Fld.key, R.ENG_LKSTAT_LKCNT, R.ENG_PMCTL_OVF, R.ENG_PMC_COUNT, List.range, List.range.loop]
  omega

theorem key_lkact_ne_lkcnt (n : Nat) : (R.ENG_LKSTAT_LKACT n).key ≠ (R.ENG_LKSTAT_LKCNT n).key := by
  simp only [Fld.key, R.ENG_LKSTAT_LKACT, R.ENG_LKSTAT_LKCNT]
  omega

/-- The end of an instruction where no exception is due, on a block in whose active sequence no instruction has been counted: what it
leaves, and LKCNT (R71, R90). -/
theorem finish_facts (s : State) {b : Block} {n : PE} {e0 : Engine} (next : Nat) (hfpt : (b.engine n).fpt = none)
    (hss : e0.st.ss = false) (ht : b.tracing n = false)
    (hcnt : b.flag (R.ENG_LKSTAT_LKACT n) = true → b.get (R.ENG_LKSTAT_LKCNT n) = 0) :
    ∃ t, done s (b.finish n e0 next false false) = .next t ∧ t.blk.engine n = (b.engine n).ended next ∧ t.blk.mem = b.mem ∧
      (∀ k, t.blk.bankAt k = b.bankAt k) ∧ t.blk.dram = b.dram ∧ t.blk.get (R.ENG_LKSTAT_LKACT n) = b.get (R.ENG_LKSTAT_LKACT n) ∧
      t.blk.get (R.ENG_LKSTAT_LKCNT n) = if b.flag (R.ENG_LKSTAT_LKACT n) then 1 else b.get (R.ENG_LKSTAT_LKCNT n) := by
  let b1 := b.setEngine n ((b.engine n).ended next)
  let b2 := b1.countEng n 0x03
  have o : OnlyPmc n b1 b2 := countEng_only b1 n 0x03
  have ht2 : b2.tracing n = false := o.tracing.trans ht
  have hact : b2.flag (R.ENG_LKSTAT_LKACT n) = b.flag (R.ENG_LKSTAT_LKACT n) := o.flag _ (isPmc_lkact n)
  have hcnt2 : b2.get (R.ENG_LKSTAT_LKCNT n) = b.get (R.ENG_LKSTAT_LKCNT n) := o.2 _ (isPmc_lkcnt n)
  have he2 : b2.engine n = (b.engine n).ended next := (o.engine n).trans (Block.setEngine_engine_same _ _ _)
  have hlock : b2.lockCount n = if b.flag (R.ENG_LKSTAT_LKACT n) then b2.put (R.ENG_LKSTAT_LKCNT n) 1 else b2 := by
    unfold Block.lockCount
    rw [hact]
    split
    next h =>
      have hinc : b2.inc (R.ENG_LKSTAT_LKCNT n) 1 = b2.put (R.ENG_LKSTAT_LKCNT n) 1 := by
        rw [Block.inc_eq, hcnt2, hcnt h]
      rw [hinc]
      dsimp only
      rw [Block.get_put_same, if_neg (by simp [R.ENG_LKSTAT_LKCNT])]
    · rfl
  have hfin : b.finish n e0 next false false = b2.lockCount n := by
    have he3 : ((b2.lockCount n).engine n).fpt = none := by
      have : (b2.lockCount n).engine n = b2.engine n := by
        rw [hlock]
        split <;> rfl
      rw [this, he2, ended_fpt, hfpt]
    have hmod : (b.modEngine n fun e => ({ e.fpCount false with
      st := { e.st with rsm := false }, long := none, ustack := [] } : Engine).advance next) = b1 := by
      unfold Block.modEngine
      dsimp only
      rw [fpCount_none _ hfpt]
      rfl
    unfold Block.finish
    rw [hmod]
    dsimp only
    rw [show (b1.countEng n 0x03).traceCount n = b2 by simp [Block.traceCount, show (b1.countEng n 0x03) = b2 from rfl, ht2]]
    simp [Engine.fpTrapDue, he3, hss]
  refine ⟨_, done_next s _, ?_⟩
  rw [hfin, hlock]
  split
  · exact ⟨he2, o.mem, o.bankAt, o.beside.dram, (Block.get_put_ne _ _ _ _ (key_lkact_ne_lkcnt n)).trans (o.2 _ (isPmc_lkact n)),
      Block.get_put_same _ _ _⟩
  · exact ⟨he2, o.mem, o.bankAt, o.beside.dram, o.2 _ (isPmc_lkact n), hcnt2⟩

/-! ## A requester's lock slots -/

theorem Tab.key_ne_of_mem_del {α : Type} {t : Tab α} {i : Nat} {x : α} (h : t.look i = some x) : ∀ p ∈ Tab.del t i, p.1 ≠ i := by
  induction t with
  | nil => cases h
  | cons r t ih =>
    obtain ⟨k, v⟩ := r
    intro p hp
    by_cases hk : i = k
    · rw [Tab.del, if_pos hk, List.mem_filter] at hp
      have := hp.2
      simp only [decide_eq_true_eq] at this
      omega
    · by_cases hlt : i < k
      · simp [Tab.look, hk, hlt] at h
      · simp only [Tab.del, Tab.look, hk, hlt, if_false] at h hp
        rcases List.mem_cons.mp hp with rfl | hp
        · exact fun e => hk e.symm
        · exact ih h p hp

theorem Tab.look_of_keys_ne {α : Type} {t : Tab α} {i : Nat} (h : ∀ p ∈ t, p.1 ≠ i) : t.look i = none := by
  induction t with
  | nil => rfl
  | cons r t ih =>
    obtain ⟨k, v⟩ := r
    have hk : i ≠ k := fun e => h (k, v) List.mem_cons_self e.symm
    rw [Tab.look, if_neg hk]
    split
    · rfl
    · exact ih fun p hp => h p (List.mem_cons_of_mem _ hp)

/-- Requester `n` has no lock at bank `k`. -/
def Block.lockless (b : Block) (n k : Nat) : Prop := ∀ p ∈ (b.bankAt k).locks, p.1 ≠ n

theorem lockless_setBank {b : Block} {n k j : Nat} {c : Bank} (h : b.lockless n k) (hc : ∀ p ∈ c.locks, p ∈ (b.bankAt j).locks) :
    (b.setBank j c).lockless n k := by
  unfold Block.lockless
  by_cases hj : k = j
  · subst hj
    rw [Block.setBank_bankAt_same]
    exact fun p hp => h p (hc p hp)
  · rw [Block.setBank_bankAt_ne _ _ _ _ hj]
    exact h

theorem Bank.heal_locks (c : Bank) (line words : Nat) : (c.heal line words).locks = c.locks := by
  unfold Bank.heal
  dsimp only
  split <;> rfl

theorem breakBank_lockless {b : Block} {n k : Nat} (h : b.lockless n k) (j line rq : Nat) :
    (b.breakBank j line rq).lockless n k := by
  unfold Block.breakBank
  dsimp only
  split
  · exact h
  · have hset : (b.setBank j { b.bankAt j with locks := (b.bankAt j).locks.filter fun p =>
        !(p.2.1 == line && p.1 != rq) }).lockless n k := lockless_setBank h fun p hp => List.mem_of_mem_filter hp
    simpa only [Block.lockless, Block.bankAt, modEngines_bank] using hset

theorem touchLine_lockless {b : Block} {n k : Nat} (h : b.lockless n k) (rq a len : Nat) (src : Option Nat) :
    (b.touchLine rq a len src).lockless n k := by
  unfold Block.touchLine
  split
  · refine lockless_setBank (breakBank_lockless h _ _ rq) fun p hp => ?_
    dsimp only at hp
    rwa [Bank.heal_locks] at hp
  · exact h
  · exact h

theorem touchLines_lockless {n k : Nat} (rq : Nat) (src : Option Nat) (fuel a len : Nat) {b : Block} (h : b.lockless n k) :
    (Block.touchLines rq src fuel a len b).lockless n k := by
  induction fuel generalizing a len b with
  | zero => exact h
  | succ fuel ih =>
    unfold Block.touchLines
    split
    · exact h
    · exact ih _ _ (touchLine_lockless h _ _ _ _)

/-! ## A service's account of the bank -/

theorem serving_engine (b : Block) (k : Nat) (q : Req) (m : Nat) : (b.serving k q).engine m = b.engine m := by
  unfold Block.serving
  dsimp only
  split <;> rfl

theorem serving_mem (b : Block) (k : Nat) (q : Req) : (b.serving k q).mem = b.mem := by
  unfold Block.serving
  dsimp only
  split <;> rfl

theorem serving_locks (b : Block) (k : Nat) (q : Req) : ((b.serving k q).bankAt k).locks = (b.bankAt k).locks := by
  unfold Block.serving
  dsimp only
  split <;> simp

theorem serving_keepsEngRegs (b : Block) {k : Nat} (hk : k < 64) (q : Req) : KeepsEngRegs b (b.serving k q) := by
  unfold Block.serving
  dsimp only
  split
  · exact .of_regs rfl
  · exact KeepsEngRegs.putBank (.of_regs rfl) hk _

theorem target_of_carafe {b b' : Block} {a k : Nat} (h : b.target a = .carafe k) : b'.target a = .carafe k := by
  obtain ⟨ha, hk⟩ := carafe_of_target h
  rw [hk]
  exact if_pos ha

theorem lockLine_of_carafe {b : Block} {a k : Nat} (h : b.target a = .carafe k) : b.lockLine a = a / 64 % 2 ^ 14 := by
  unfold Block.lockLine
  rw [h]

theorem isEngReg_lkact (n : PE) : IsEngReg (R.ENG_LKSTAT_LKACT n) := by
  have := n.isLt
  simp only [IsEngReg, Fld.key, R.ENG_LKSTAT_LKACT]
  omega

theorem KeepsEngRegs.lkact {b b' : Block} (h : KeepsEngRegs b b') (n : PE) :
    b'.flag (R.ENG_LKSTAT_LKACT n) = b.flag (R.ENG_LKSTAT_LKACT n) := congrArg (· != 0) (h _ (isEngReg_lkact n))

theorem KeepsEngRegs.tracing {b b' : Block} (h : KeepsEngRegs b b') (n : PE) : b'.tracing n = b.tracing n :=
  tracing_congr (h _ (isEngReg_tren n)) (h _ isEngReg_trcEn)

/-- LKACT and LKCNT do not switch trace on. -/
theorem put_lkstat_tracing (b : Block) (n : PE) (v w : Nat) :
    ((b.put (R.ENG_LKSTAT_LKACT n) v).put (R.ENG_LKSTAT_LKCNT n) w).tracing n = b.tracing n := by
  apply tracing_congr <;> rw [Block.get_put_ne, Block.get_put_ne] <;>
    · simp only [Fld.key, R.ENG_LKSTAT_LKCNT, R.ENG_LKSTAT_LKACT, R.ENG_DBGCTL_TREN, R.TRC_CTRL_EN]
      omega

/-! ## LKB and LKE -/

section
variable {s : State} {n : PE} {d a b : BitVec 5} {x : BitVec 9} {len k : Nat}

theorem AtBank.wholeAt {rs : List Right} {addr : Nat} (h : AtBank s n rs addr len k) {c : Block} (hc : Beside n s.blk c) :
    c.wholeAt addr len k := by
  obtain ⟨-, -, -, hwait, hlines⟩ := h
  refine ⟨?_, ?_⟩
  · rw [hc.bankAt k]
    exact hwait
  · rw [hc.bankAt k]
    exact hlines

/-- The block at an instruction's access: dispatched, and the access counted. -/
def accessed (s : State) (n : PE) (addr : Nat) (wr fab : Bool) : Block :=
  (s.blk.modEngine n Engine.noSkip).countAccess n addr wr fab

theorem accessed_beside (s : State) (n : PE) (addr : Nat) (wr fab : Bool) : Beside n s.blk (accessed s n addr wr fab) :=
  (modEngine_beside s.blk n Engine.noSkip).trans (countAccess_only _ n addr wr fab).beside

theorem accessed_engine (s : State) (n : PE) (addr : Nat) (wr fab : Bool) :
    (accessed s n addr wr fab).engine n = (s.blk.engine n).noSkip :=
  ((countAccess_only _ n addr wr fab).engine n).trans (Block.modEngine_engine_same _ _ _)

theorem accessed_get (s : State) (n : PE) (addr : Nat) (wr fab : Bool) {f : Fld} (hf : isPmc n f = false) :
    (accessed s n addr wr fab).get f = s.blk.get f := (countAccess_only _ n addr wr fab).2 f hf

theorem accessed_lkact (s : State) (n : PE) (addr : Nat) (wr fab : Bool) :
    (accessed s n addr wr fab).flag (R.ENG_LKSTAT_LKACT n) = s.blk.flag (R.ENG_LKSTAT_LKACT n) :=
  congrArg (· != 0) (accessed_get s n addr wr fab (isPmc_lkact n))

theorem accessed_tracing (s : State) (n : PE) (addr : Nat) (wr fab : Bool) :
    (accessed s n addr wr fab).tracing n = s.blk.tracing n :=
  tracing_congr (accessed_get s n addr wr fab (isPmc_tren n)) (accessed_get s n addr wr fab (isPmc_trcEn n))

/-- LKB loads D, takes the line's lock and starts the sequence (R84, R90). -/
theorem gives_lkb (hlen : xSize x = len) (hx : x.toNat < 2) (q : Quiet s n) (h : AtInstr s n (wordR 0x58 d a 0 x)) :
    let addr := ((s.blk.engine n).g a.toNat).toNat % 2 ^ 48
    addr % len = 0 → AtBank s n [.read] addr len k →
    Gives (.lkb n d a 0 x .clean) s fun t => t.blk.get (R.ENG_LKSTAT_LKACT n) = 1 ∧ t.blk.get (R.ENG_LKSTAT_LKCNT n) = 1 ∧
      (t.blk.engine n).g d.toNat = BitVec.ofNat 64 (leNat (s.blk.mem.bytes addr len)) ∧
      ((t.blk.bankAt k).locks.look n).map (·.1) = some (addr / 64 % 2 ^ 14) ∧
      (t.blk.engine n).pc = BitVec.ofNat 48 (nextPc (s.blk.engine n).pc 4) ∧ t.blk.mem = s.blk.mem := by
  intro addr hal hb
  obtain ⟨ht, hin, hcheck, -, -⟩ := id hb
  obtain ⟨hnofpt, hss, hlk, htr⟩ := id q
  obtain ⟨-, -, -, hcmp, hcode⟩ := id h
  have hk : k < 64 := target_carafe_lt ht
  have hlen0 : 0 < len := by
    rw [← hlen]
    unfold xSize
    split <;> decide
  let e := s.blk.engine n
  let b1 := accessed s n addr false false
  let req := (s.blk.modEngine n Engine.noSkip).engReq n .lockRead addr len [] 0 .now (e.lkSeq + 1) false
  let b2 := (Turned b1 n k).takeLock n addr (e.lkSeq + 1)
  let f := fun (p : Engine) => { p.setG d.toNat (loadValue (s.blk.mem.bytes addr len) false) with
    lkLine := some (addr / 64 * 64), lkSeq := p.lkSeq + 1 }
  let b3 := ((b2.modEngine n f).raise (R.ENG_LKSTAT_LKACT n)).clear (R.ENG_LKSTAT_LKCNT n)
  have hb3 : b3 = ((b2.modEngine n f).put (R.ENG_LKSTAT_LKACT n) 1).put (R.ENG_LKSTAT_LKCNT n) 0 := rfl
  have h1 := accessed_beside s n addr false false
  have hwhole : b1.wholeAt addr len k := hb.wholeAt h1
  have hserve : b1.serving k req = Turned b1 n k := serving_eq_turned hwhole.1 rfl rfl
  have hatomic : b1.atomic req .clean = (b2, .ok (s.blk.mem.bytes addr len)) := by
    have ha : b1.atomic req .clean = (((b1.serving k req).effect req).1, .ok ((b1.serving k req).effect req).2) :=
      atomic_within ((h1.target addr).trans ht) hlen0 hwhole
    rw [ha, hserve]
    unfold Block.effect Block.fetch
    dsimp only [req, Block.engReq]
    rw [Turned_mem, h1.mem]
  have htake : b2 = (Turned b1 n k).setBank k { (Turned b1 n k).bankAt k with
      locks := ((Turned b1 n k).bankAt k).locks.put n (addr / 64 % 2 ^ 14, e.lkSeq + 1) } := by
    show (Turned b1 n k).takeLock n addr (e.lkSeq + 1) = _
    unfold Block.takeLock
    rw [target_of_carafe ht, lockLine_of_carafe (target_of_carafe ht)]
  have he2 : b2.engine n = e.noSkip := by
    rw [htake]
    exact (Turned_engine _ _ _ _).trans (accessed_engine s n addr false false)
  have hrun : exec (.lkb n d a 0 x .clean) s = done s (b3.finish n e.noSkip (nextPc e.pc 4) false false) := by
    have hill : (decide (2 ≤ x.toNat) || (0 : BitVec 5) != 0) = false := by simp [hx]
    have hcmp' : (b2.engine n).cmp = [] := by rw [he2]; exact hcmp
    show execLkb n d a 0 x .clean s = _
    unfold execLkb
    dsimp only
    rw [feis_at h, hlk, hill]
    simp only [firstTrap, Bool.false_eq_true, if_false]
    rw [hlen, if_neg (show ¬(((s.blk.engine n).noSkip.g a.toNat).toNat % 2 ^ 48 % len ≠ 0) from not_not.mpr hal), check_noSkip,
      show s.blk.check n [.read] (((s.blk.engine n).noSkip.g a.toNat).toNat % 2 ^ 48) len = none from hcheck]
    dsimp only
    have hgoal : ((s.blk.modEngine n Engine.noSkip).countAccess n (((s.blk.engine n).noSkip.g a.toNat).toNat % 2 ^ 48) false
      false).atomic ((s.blk.modEngine n Engine.noSkip).engReq n .lockRead (((s.blk.engine n).noSkip.g a.toNat).toNat % 2 ^ 48) len
        [] 0 .now ((s.blk.engine n).noSkip.lkSeq + 1) false) .clean = (b2, .ok (s.blk.mem.bytes addr len)) := hatomic
    rw [hgoal]
    dsimp only
    rw [cmpData_of_none hcmp']
    rfl
  have hkeep : KeepsEngRegs b1 b2 := by
    rw [htake]
    exact (Turned_keepsEngRegs b1 n hk).trans (.of_regs rfl)
  have he3 : b3.engine n = f e.noSkip := by
    rw [hb3, Block.put_engine, Block.put_engine, Block.modEngine_engine_same, he2]
  have hact : b3.get (R.ENG_LKSTAT_LKACT n) = 1 := by
    rw [hb3, Block.get_put_ne _ _ _ _ (key_lkact_ne_lkcnt n), Block.get_put_same]
    rfl
  have hcnt : b3.get (R.ENG_LKSTAT_LKCNT n) = 0 := by
    rw [hb3, Block.get_put_same]
    rfl
  have hcode3 : (b3.engine n).codes = [] := by
    rw [he3]
    exact setG_codes _ _ hcode
  have htr3 : b3.tracing n = false := by
    refine Eq.trans (put_lkstat_tracing (b2.modEngine n f) n 1 0) ?_
    exact (hkeep.tracing n).trans ((accessed_tracing s n addr false false).trans htr)
  obtain ⟨t, hdone, het, hmem, hbank, -, hacts, hcnts⟩ := finish_facts s (b := b3) (n := n) (e0 := e.noSkip) (nextPc e.pc 4)
    (by rw [he3]; exact (setG_fpt _ _ _).trans hnofpt) hss htr3 (fun _ => hcnt)
  refine ⟨t, hrun.trans hdone, hacts.trans hact, ?_, ?_, ?_, ?_, ?_⟩
  · rw [hcnts, Block.flag, hact]
    rfl
  · rw [het, ended_g _ hcode3, he3]
    exact g_setG_same e.noSkip d.toNat _
  · rw [hbank, show b3.bankAt k = b2.bankAt k from rfl, htake, Block.setBank_bankAt_same, Tab.look_put_same]
    rfl
  · rw [het, (ended_regs _ hcode3).1]
  · rw [hmem, show b3.mem = b2.mem from rfl, htake, Block.setBank_mem, Turned_mem, h1.mem]

theorem leNat_one {len : Nat} (h : 0 < len) : leNat (leBytes 1 len) = 1 := by
  rw [leNat_leBytes]
  exact Nat.mod_eq_of_lt (Nat.one_lt_pow (Nat.ne_of_gt h) (by decide))

/-- A conditional store of the lock's holder stores and frees the lock (R203). -/
theorem effect_condStore {b : Block} {r : Req} {num : Nat} (hkind : r.kind = .condStore)
    (hheld : b.lockHeld r.rq r.addr = some (b.lockLine r.addr, num)) :
    b.effect r = ((b.freeLock r.rq r.addr).store r.rq r.addr r.data none, leBytes 1 r.len) := by
  unfold Block.effect
  rw [hkind]
  dsimp only
  rw [hheld]
  exact if_pos rfl

/-- LKE inside a sequence whose lock stands stores B, sets C and ends the sequence (R84, R91, R203). -/
theorem gives_lke_locked (hlen : xSize x = len) (hx : x.toNat < 2) (hfpt : (s.blk.engine n).fpt = none)
    (hss : (s.blk.engine n).st.ss = false) (htr : s.blk.tracing n = false) (hlk : s.blk.flag (R.ENG_LKSTAT_LKACT n) = true)
    (h : AtInstr s n (wordR 0x59 0 a b x)) :
    let addr := ((s.blk.engine n).g a.toNat).toNat % 2 ^ 48
    let data := leBytes ((s.blk.engine n).g b.toNat).toNat len
    addr % len = 0 → AtBank s n [.read, .write] addr len k →
    ((s.blk.bankAt k).locks.look n).map (·.1) = some (addr / 64 % 2 ^ 14) →
    Gives (.lke n 0 a b x .clean) s fun t => t.blk.get (R.ENG_LKSTAT_LKACT n) = 0 ∧ (t.blk.engine n).st.c = true ∧
      ((t.blk.engine n).gV = (s.blk.engine n).gV ∧ (t.blk.engine n).gT = (s.blk.engine n).gT ∧
        (t.blk.engine n).pc = BitVec.ofNat 48 (nextPc (s.blk.engine n).pc 4)) ∧
      (t.blk.bankAt k).locks.look n = none ∧ t.blk.mem.bytes addr len = data ∧
      ∀ i, i < addr ∨ addr + len ≤ i → t.blk.mem.read i = s.blk.mem.read i := by
  intro addr data hal hb hlock
  obtain ⟨ht, hin, hcheck, -, -⟩ := id hb
  obtain ⟨-, -, -, hcmp, hcode⟩ := id h
  have hk : k < 64 := target_carafe_lt ht
  have hlen0 : 0 < len := by
    rw [← hlen]
    unfold xSize
    split <;> decide
  obtain ⟨⟨line, num⟩, hlook, hline⟩ := Option.map_eq_some_iff.mp hlock
  obtain rfl : line = addr / 64 % 2 ^ 14 := hline
  let e := s.blk.engine n
  let b1 := accessed s n addr true false
  let req := (s.blk.modEngine n Engine.noSkip).engReq n .condStore addr len data 0 .now e.lkSeq false
  let bs := b1.serving k req
  let b2 := (bs.freeLock n addr).store n addr data none
  let f := fun (p : Engine) => { p with lkLine := none }
  let g := fun (p : Engine) => { p with st := { p.st with c := true } }
  let b3 := (((b2.put (R.ENG_LKSTAT_LKACT n) 0).put (R.ENG_LKSTAT_LKCNT n) 0).modEngine n f).modEngine n g
  have h1 := accessed_beside s n addr true false
  have hwhole : b1.wholeAt addr len k := hb.wholeAt h1
  have hts : bs.target addr = .carafe k := target_of_carafe ht
  have hlooks : (bs.bankAt k).locks.look n = some (addr / 64 % 2 ^ 14, num) := by
    rw [serving_locks, h1.bankAt k]
    exact hlook
  have hfree : bs.freeLock n addr = bs.setBank k { bs.bankAt k with locks := (bs.bankAt k).locks.del n } := by
    unfold Block.freeLock
    rw [hts]
  have hatomic : b1.atomic req .clean = (b2, .ok (leBytes 1 len)) := by
    have ha : b1.atomic req .clean = ((bs.effect req).1, .ok (bs.effect req).2) :=
      atomic_within ((h1.target addr).trans ht) hlen0 hwhole
    have hheld : bs.lockHeld req.rq req.addr = some (bs.lockLine req.addr, num) := by
      show bs.lockHeld n addr = some (bs.lockLine addr, num)
      unfold Block.lockHeld
      rw [hts, lockLine_of_carafe hts]
      exact hlooks
    rw [ha, effect_condStore rfl hheld]
    rfl
  have he2 : b2.engine n = e.noSkip := by
    rw [store_engine_self, hfree]
    exact (serving_engine _ _ _ _).trans (accessed_engine s n addr true false)
  have hkeep : KeepsEngRegs b1 b2 := by
    refine (serving_keepsEngRegs b1 hk req).trans (.of_regs ?_)
    rw [Block.store_regs, hfree]
    rfl
  have hlk2 : b2.flag (R.ENG_LKSTAT_LKACT n) = true := (hkeep.lkact n).trans ((accessed_lkact s n addr true false).trans hlk)
  have hrun : exec (.lke n 0 a b x .clean) s = done s (b3.finish n e.noSkip (nextPc e.pc 4) false false) := by
    have hill : (decide (2 ≤ x.toNat) || (0 : BitVec 5) != 0) = false := by simp [hx]
    have hcmp' : (b2.engine n).cmp = [] := by rw [he2]; exact hcmp
    show execLke n 0 a b x .clean s = _
    unfold execLke
    dsimp only
    rw [feis_at h, hill]
    simp only [Bool.false_eq_true, if_false]
    rw [hlen, if_neg (show ¬(((s.blk.engine n).noSkip.g a.toNat).toNat % 2 ^ 48 % len ≠ 0) from not_not.mpr hal), check_noSkip,
      show s.blk.check n [.read, .write] (((s.blk.engine n).noSkip.g a.toNat).toNat % 2 ^ 48) len = none from hcheck]
    dsimp only
    have hgoal : ((s.blk.modEngine n Engine.noSkip).countAccess n (((s.blk.engine n).noSkip.g a.toNat).toNat % 2 ^ 48) true
      false).atomic ((s.blk.modEngine n Engine.noSkip).engReq n .condStore (((s.blk.engine n).noSkip.g a.toNat).toNat % 2 ^ 48) len
        (leBytes (((s.blk.engine n).noSkip.g b.toNat).toNat) len) 0 .now (s.blk.engine n).noSkip.lkSeq false) .clean =
          (b2, .ok (leBytes 1 len)) := hatomic
    rw [show (s.blk.modEngine n Engine.noSkip).flag (R.ENG_LKSTAT_LKACT n) = true from hlk, hgoal]
    simp only [Bool.not_true, Bool.false_eq_true, if_false]
    rw [cmpData_of_none hcmp', leNat_one hlen0]
    unfold Block.endSequence
    rw [hlk2, if_pos rfl, if_pos (beq_self_eq_true 1)]
    rfl
  have he3 : b3.engine n = g (f e.noSkip) := by
    rw [Block.modEngine_engine_same, Block.modEngine_engine_same, Block.put_engine, Block.put_engine, he2]
  have hact : b3.get (R.ENG_LKSTAT_LKACT n) = 0 := by
    rw [show b3.get (R.ENG_LKSTAT_LKACT n) = ((b2.put (R.ENG_LKSTAT_LKACT n) 0).put (R.ENG_LKSTAT_LKCNT n) 0).get
      (R.ENG_LKSTAT_LKACT n) from rfl, Block.get_put_ne _ _ _ _ (key_lkact_ne_lkcnt n), Block.get_put_same]
    rfl
  have hcode3 : (b3.engine n).codes = [] := by
    rw [he3]
    exact hcode
  have htr3 : b3.tracing n = false := by
    refine Eq.trans (put_lkstat_tracing b2 n 0 0) ?_
    exact (hkeep.tracing n).trans ((accessed_tracing s n addr true false).trans htr)
  have hmem2 : b2.mem = s.blk.mem.writes addr data := by
    rw [store_mem, hfree, Block.setBank_mem, serving_mem, h1.mem]
  obtain ⟨t, hdone, het, hmem, hbank, -, hacts, -⟩ := finish_facts s (b := b3) (n := n) (e0 := e.noSkip) (nextPc e.pc 4)
    (by rw [he3]; exact hfpt) hss htr3 (fun hc => by rw [Block.flag, hact] at hc; cases hc)
  have hlen' : data.length = len := leBytes_length _ _
  have hmemt : t.blk.mem = s.blk.mem.writes addr data := hmem.trans hmem2
  obtain ⟨hpc, hV, hT, -, -, hst⟩ := ended_regs (nextPc e.pc 4) hcode3
  refine ⟨t, hrun.trans hdone, hacts.trans hact, ?_, ⟨?_, ?_, ?_⟩, ?_, ?_, fun i hi => ?_⟩
  · rw [het, hst, he3]
  · rw [het, hV, he3]
    rfl
  · rw [het, hT, he3]
    rfl
  · rw [het, hpc]
  · rw [hbank]
    refine Tab.look_of_keys_ne (show b2.lockless n k from touchLines_lockless n none _ addr _ ?_)
    unfold Block.lockless
    rw [hfree, Block.setBank_bankAt_same]
    exact Tab.key_ne_of_mem_del hlooks
  · have hbytes := Mem.bytes_writes s.blk.mem addr data
    rwa [hlen', ← hmemt] at hbytes
  · rw [hmemt]
    exact Mem.read_writes_out _ _ _ _ (by rwa [hlen'])

/-- LKE outside a sequence stores nothing and clears C (R84). -/
theorem gives_lke_unlocked (hlen : xSize x = len) (hx : x.toNat < 2) (q : Quiet s n) (h : AtInstr s n (wordR 0x59 0 a b x)) :
    let addr := ((s.blk.engine n).g a.toNat).toNat % 2 ^ 48
    addr % len = 0 → s.blk.check n [.read, .write] addr len = none →
    Gives (.lke n 0 a b x .clean) s
      (Retired s n (nextPc (s.blk.engine n).pc 4) fun e => { e with st := { e.st with c := false } }) := by
  intro addr hal hcheck
  obtain ⟨-, -, -, -, hcode⟩ := id h
  obtain ⟨-, -, hlk, -⟩ := id q
  let f := fun (p : Engine) => { p with st := { p.st with c := false } }
  let b0 := s.blk.modEngine n Engine.noSkip
  obtain ⟨t, ht, hr⟩ := finish_retires q (f := f) (g := f) rfl rfl hcode (nextPc (s.blk.engine n).pc 4) false
  have hill : (decide (2 ≤ x.toNat) || (0 : BitVec 5) != 0) = false := by simp [hx]
  have hmod : b0.modEngine n f = b0.setEngine n (f (s.blk.engine n).noSkip) :=
    congrArg (fun p => b0.setEngine n (f p)) (Block.modEngine_engine_same _ _ _)
  have hrun : exec (.lke n 0 a b x .clean) s =
      done s ((b0.setEngine n (f (s.blk.engine n).noSkip)).finish n (s.blk.engine n).noSkip (nextPc (s.blk.engine n).pc 4) false
        false) := by
    rw [← hmod]
    show execLke n 0 a b x .clean s = _
    unfold execLke
    dsimp only
    rw [feis_at h, hill]
    simp only [Bool.false_eq_true, if_false]
    rw [hlen, if_neg (show ¬(((s.blk.engine n).noSkip.g a.toNat).toNat % 2 ^ 48 % len ≠ 0) from not_not.mpr hal), check_noSkip,
      show s.blk.check n [.read, .write] (((s.blk.engine n).noSkip.g a.toNat).toNat % 2 ^ 48) len = none from hcheck]
    dsimp only
    rw [show (s.blk.modEngine n Engine.noSkip).flag (R.ENG_LKSTAT_LKACT n) = false from hlk, if_pos Bool.not_false]
    rfl
  exact ⟨t, hrun.trans ht, hr⟩

end

end Sys2Proof.Machine
end

section
/-! FENCE: every earlier request of its engine has had its turn (R84, R92). -/
namespace Sys2Proof.Machine

/-! ## What a request's effect leaves alone -/

/-- An engine with the break notices `l`. -/
def Engine.told (e : Engine) (l : List Nat) : Engine := { e with notices := l }

/-- From `b` to `b'` no engine has changed but in its break notices. -/
def EngNoticed (b b' : Block) : Prop := ∀ m, ∃ l, b'.engine m = (b.engine m).told l

theorem EngNoticed.of_same {b b' : Block} (h : ∀ m, b'.engine m = b.engine m) : EngNoticed b b' := fun m => ⟨_, h m⟩

theorem EngNoticed.refl (b : Block) : EngNoticed b b := .of_same fun _ => rfl

theorem EngNoticed.trans {a b c : Block} (h : EngNoticed a b) (h' : EngNoticed b c) : EngNoticed a c := fun m => by
  obtain ⟨l, hl⟩ := h m
  obtain ⟨l', hl'⟩ := h' m
  exact ⟨l', by rw [hl', hl]; rfl⟩

/-- From `b` to `b'` no request has come, gone or met damage, and of the engines at most break notices have changed. -/
structure Mild (b b' : Block) : Prop where
  waiting : ∀ j, (b'.bankAt j).waiting = (b.bankAt j).waiting
  repair : ∀ j, (b'.bankAt j).repair = (b.bankAt j).repair
  bad : ∀ j, (b.bankAt j).bad = [] → (b'.bankAt j).bad = []
  dram : b'.dram.waiting = b.dram.waiting
  eng : EngNoticed b b'

theorem Mild.refl (b : Block) : Mild b b := ⟨fun _ => rfl, fun _ => rfl, fun _ h => h, rfl, .refl b⟩

theorem Mild.trans {a b c : Block} (h : Mild a b) (k : Mild b c) : Mild a c where
  waiting j := (k.waiting j).trans (h.waiting j)
  repair j := (k.repair j).trans (h.repair j)
  bad j hj := k.bad j (h.bad j hj)
  dram := k.dram.trans h.dram
  eng := h.eng.trans k.eng

theorem Mild.setBank {b : Block} {k : Nat} {c : Bank} (hw : c.waiting = (b.bankAt k).waiting) (hr : c.repair = (b.bankAt k).repair)
    (hb : (b.bankAt k).bad = [] → c.bad = []) : Mild b (b.setBank k c) := by
  have hat : ∀ j, (b.setBank k c).bankAt j = if j = k then c else b.bankAt j := fun j => by
    split
    next h => rw [h, Block.setBank_bankAt_same]
    next h => exact Block.setBank_bankAt_ne _ _ _ _ h
  refine ⟨fun j => ?_, fun j => ?_, fun j hj => ?_, rfl, .refl b⟩
  all_goals
    rw [hat]
    split
  · next h => rw [hw, h]
  · rfl
  · next h => rw [hr, h]
  · rfl
  · next h => exact hb (h ▸ hj)
  · exact hj

theorem Mild.notice (b : Block) (m : Nat) (l : List Nat) :
    Mild b (b.modEngine m fun e => { e with notices := e.notices ++ l }) where
  waiting _ := rfl
  repair _ := rfl
  bad _ h := h
  dram := rfl
  eng j := by
    by_cases hj : j = m
    · exact ⟨(b.engine m).notices ++ l, by rw [hj, Block.modEngine_engine_same]; rfl⟩
    · exact ⟨(b.engine j).notices, by rw [Block.modEngine_engine_ne _ _ _ _ hj]; rfl⟩

theorem Mild.of_regs {b b' : Block} (h : { b' with regs := b.regs } = b) : Mild b b' := by
  have hbank : ∀ j, b'.bankAt j = b.bankAt j := fun j => by
    have e := congrArg (fun c : Block => c.bankAt j) h
    exact e
  have heng : ∀ m, b'.engine m = b.engine m := fun m => by
    have e := congrArg (fun c : Block => c.engine m) h
    exact e
  have hdram : b'.dram = b.dram := by
    have e := congrArg Block.dram h
    exact e
  exact ⟨fun j => by rw [hbank], fun j => by rw [hbank], fun j hj => by rwa [hbank], by rw [hdram],
    .of_same heng⟩

theorem Mild.of_same {b b' : Block} (hbank : ∀ j, b'.bankAt j = b.bankAt j) (hdram : b'.dram = b.dram)
    (heng : ∀ m, b'.engine m = b.engine m) : Mild b b' :=
  ⟨fun j => by rw [hbank], fun j => by rw [hbank], fun j hj => by rwa [hbank], by rw [hdram], .of_same heng⟩

theorem breakBank_mild (b : Block) (k line rq : Nat) : Mild b (b.breakBank k line rq) := by
  unfold Block.breakBank
  dsimp only
  split
  · exact .refl b
  · refine List.foldlRecOn (motive := Mild b) _ _ (.setBank rfl rfl id) fun c hc p _ => ?_
    exact hc.trans (.notice c p.1 [p.2.2])

theorem Bank.heal_repair (c : Bank) (line words : Nat) : (c.heal line words).repair = c.repair := by
  unfold Bank.heal
  dsimp only
  split <;> rfl

theorem Bank.heal_bad {c : Bank} (h : c.bad = []) (line words : Nat) : (c.heal line words).bad = [] := by
  unfold Bank.heal
  dsimp only
  rw [h, show Tab.get ([] : Tab Nat) line 0 = 0 from rfl, if_pos (Nat.zero_sub _)]
  rfl

theorem touchLine_mild (b : Block) (rq a n : Nat) (src : Option Nat) : Mild b (b.touchLine rq a n src) := by
  unfold Block.touchLine
  split
  · exact (breakBank_mild b _ _ rq).trans (.setBank (Bank.heal_waiting _ _ _) (Bank.heal_repair _ _ _) fun h => Bank.heal_bad h _ _)
  · exact ⟨fun _ => rfl, fun _ => rfl, fun _ h => h, rfl, .refl b⟩
  · exact .refl b

theorem touchLines_mild (rq : Nat) (src : Option Nat) (fuel a n : Nat) (b : Block) : Mild b (Block.touchLines rq src fuel a n b) := by
  induction fuel generalizing a n b with
  | zero => exact .refl b
  | succ fuel ih =>
    unfold Block.touchLines
    split
    · exact .refl b
    · exact (touchLine_mild b _ _ _ _).trans (ih _ _ _)

theorem store_mild (b : Block) (rq a : Nat) (data : List Byte) (src : Option Nat) : Mild b (b.store rq a data src) := by
  obtain ⟨hw, hr, hb, hd, he⟩ := touchLines_mild rq src (data.length / 64 + 2) a data.length b
  exact ⟨hw, hr, hb, hd, he⟩

theorem takeLock_mild (b : Block) (rq a lock : Nat) : Mild b (b.takeLock rq a lock) := by
  unfold Block.takeLock
  split
  · exact .setBank rfl rfl id
  · exact ⟨fun _ => rfl, fun _ => rfl, fun _ h => h, rfl, .refl b⟩
  · exact .refl b

theorem freeLock_mild (b : Block) (rq a : Nat) : Mild b (b.freeLock rq a) := by
  unfold Block.freeLock
  split
  · exact .setBank rfl rfl id
  · exact ⟨fun _ => rfl, fun _ => rfl, fun _ h => h, rfl, .refl b⟩
  · exact .refl b

theorem effect_mild (b : Block) (q : Req) : Mild b (b.effect q).1 := by
  unfold Block.effect
  split
  · exact .refl b
  · exact store_mild b _ _ _ _
  · exact store_mild b _ _ _ _
  · exact takeLock_mild b _ _ _
  · exact freeLock_mild b _ _
  · split
    · split
      · exact (freeLock_mild b _ _).trans (store_mild _ _ _ _ _)
      · exact freeLock_mild b _ _
    · exact .refl b
  · exact store_mild b _ _ _ _

theorem answer_mild (b : Block) (q : Req) (data : List Byte) (err : Bool) : Mild b (b.answer q data err) := by
  unfold Block.answer
  split
  · exact .refl b
  · exact .refl b
  · exact ⟨fun _ => rfl, fun _ => rfl, fun _ h => h, rfl, .refl b⟩

/-! ## The request that a bank picks -/

theorem rrFirst_isSome {last : Nat} {l : List Req} (h : l ≠ []) : (rrFirst last l).isSome := by
  cases l with
  | nil => exact absurd rfl h
  | cons q l =>
    unfold rrFirst
    split
    · split <;> rfl
    · rfl

theorem rrFirst_mem {last : Nat} {l : List Req} {q : Req} (h : rrFirst last l = some q) : q ∈ l := by
  induction l generalizing q with
  | nil => cases h
  | cons p l ih =>
    unfold rrFirst at h
    split at h
    next r hr =>
      split at h
      · exact List.mem_cons_of_mem _ (ih (hr.trans h))
      · cases h
        exact List.mem_cons_self
    · cases h
      exact List.mem_cons_self

theorem firstsOf_sublist (seen : List Nat) (l : List Req) : (firstsOf seen l).Sublist l := by
  induction l generalizing seen with
  | nil => exact List.Sublist.refl _
  | cons q l ih =>
    unfold firstsOf
    split
    · exact (ih seen).cons _
    · exact (ih _).cons_cons _

theorem exists_age_eq_max (l : List Req) (m : Nat) :
    l.foldl (fun m q => max m q.age) m = m ∨ ∃ q ∈ l, q.age = l.foldl (fun m q => max m q.age) m := by
  induction l generalizing m with
  | nil => exact .inl rfl
  | cons p l ih =>
    rw [List.foldl_cons]
    obtain h | ⟨q, hq, h⟩ := ih (max m p.age)
    · rw [h]
      obtain hm | hm := max_choice m p.age
      · exact .inl hm
      · exact .inr ⟨p, List.mem_cons_self, hm.symm⟩
    · exact .inr ⟨q, List.mem_cons_of_mem _ hq, h⟩

/-- The request picked is one of those that wait. -/
theorem bankPick_mem {b : Block} {k : Nat} {q : Req} {rr : Bool} (h : b.bankPick k = some (q, rr)) : q ∈ (b.bankAt k).waiting := by
  have hcan : ∀ p ∈ (firstsOf [] (b.bankAt k).waiting).filter (fun q => q.place != 0 && !(b.bankAt k).holdsUp q),
      p ∈ (b.bankAt k).waiting := fun p hp => (firstsOf_sublist _ _).subset (List.mem_of_mem_filter hp)
  unfold Block.bankPick at h
  dsimp only at h
  split at h
  · obtain ⟨p, hp, he⟩ := Option.map_eq_some_iff.mp h
    cases he
    exact hcan _ (List.mem_of_mem_filter (rrFirst_mem hp))
  · split at h
    next p hp =>
      cases h
      exact hcan _ (List.mem_of_find?_eq_some hp)
    · obtain ⟨p, hp, he⟩ := Option.map_eq_some_iff.mp h
      cases he
      exact hcan _ (rrFirst_mem hp)

/-- A bank whose waiting requests all have their places and none of whose lines is under repair serves one. -/
theorem bankPick_isSome {b : Block} {k : Nat} (hne : (b.bankAt k).waiting ≠ []) (hr : (b.bankAt k).repair = [])
    (hp : ∀ q ∈ (b.bankAt k).waiting, q.place ≠ 0) : (b.bankPick k).isSome := by
  have hcan : (firstsOf [] (b.bankAt k).waiting).filter (fun q => q.place != 0 && !(b.bankAt k).holdsUp q) ≠ [] := by
    obtain ⟨q, l, hl⟩ := List.exists_cons_of_ne_nil hne
    refine List.ne_nil_of_mem (a := q) (List.mem_filter.mpr ⟨?_, ?_⟩)
    · rw [hl]
      simp [firstsOf]
    · have hq : q.place ≠ 0 := hp q (by simp [hl])
      simp [Bank.holdsUp, hr, hq]
  unfold Block.bankPick
  dsimp only
  split
  next hold =>
    rw [Option.isSome_map]
    refine rrFirst_isSome ?_
    obtain h0 | ⟨q, hq, hage⟩ := exists_age_eq_max
      ((firstsOf [] (b.bankAt k).waiting).filter (fun q => q.place != 0 && !(b.bankAt k).holdsUp q)) 0
    · rw [h0] at hold
      exact absurd hold (by decide)
    · exact List.ne_nil_of_mem (List.mem_filter.mpr ⟨hq, beq_iff_eq.mpr hage⟩)
  · split
    · rfl
    · rw [Option.isSome_map]
      exact rrFirst_isSome hcan

theorem removeReq_sublist (q : Req) (l : List Req) : (removeReq q l).Sublist l := by
  induction l with
  | nil => exact List.Sublist.refl _
  | cons p l ih =>
    unfold removeReq
    split
    · exact List.sublist_cons_self _ _
    · exact ih.cons_cons _

theorem removeReq_length {q : Req} {l : List Req} (h : q ∈ l) : (removeReq q l).length + 1 = l.length := by
  induction l with
  | nil => cases h
  | cons p l ih =>
    unfold removeReq
    split
    · rfl
    next hne =>
      rw [List.length_cons, List.length_cons, ih ((List.mem_cons.mp h).resolve_left fun e => hne e.symm)]

/-- Requests that have their places keep them. -/
theorem seatClass_placed {k c : Nat} (l ahead : List Req) (h : ∀ q ∈ l, q.place ≠ 0) :
    seatClass k c ahead l = ahead.reverse ++ l := by
  induction l generalizing ahead with
  | nil => rw [seatClass, List.append_nil]
  | cons q l ih =>
    have hq := placeFor_of_placed (k := k) (held := ahead.reverse ++ (q :: l)) (ahead := ahead) (h q List.mem_cons_self)
    have hl := ih (q :: ahead) fun p hp => h p (List.mem_cons_of_mem _ hp)
    rw [List.reverse_cons, List.append_assoc] at hl
    unfold seatClass
    dsimp only
    rw [hq]
    split <;> exact hl

theorem seat_placed {k : Nat} {l : List Req} (h : ∀ q ∈ l, q.place ≠ 0) : seat k l = l := by
  unfold seat
  exact List.foldlRecOn (motive := fun m => m = l) _ _ rfl fun m hm c _ => by
    rw [hm]
    exact seatClass_placed l [] h

/-! ## One bank's turn after another -/

/-- From `b` to `b'` bank `k` has served requests: the other banks and the DRAM Port stand as they were, and of the engines at most
break notices have changed. -/
structure Serving (k : Nat) (b b' : Block) : Prop where
  serves : Serves b → Serves b'
  others : ∀ j, j ≠ k → (b'.bankAt j).waiting = (b.bankAt j).waiting
  dram : b'.dram.waiting = b.dram.waiting
  eng : EngNoticed b b'

theorem Serving.refl (k : Nat) (b : Block) : Serving k b b := ⟨id, fun _ _ => rfl, rfl, .refl b⟩

theorem Serving.trans {k : Nat} {a b c : Block} (h : Serving k a b) (h' : Serving k b c) : Serving k a c where
  serves hs := h'.serves (h.serves hs)
  others j hj := (h'.others j hj).trans (h.others j hj)
  dram := h'.dram.trans h.dram
  eng := h.eng.trans h'.eng

theorem Mild.serves {b b' : Block} (h : Mild b b') (hs : Serves b) : Serves b' := fun k hk => by
  obtain ⟨hr, hb, hw⟩ := hs k hk
  rw [h.repair, h.waiting]
  exact ⟨hr, h.bad k hb, hw⟩

theorem Mild.serving {b b' : Block} (h : Mild b b') (k : Nat) : Serving k b b' :=
  ⟨h.serves, fun j _ => h.waiting j, h.dram, h.eng⟩

theorem whole_of_sound {c : Bank} (hr : c.repair = []) (hb : c.bad = []) (q : Req) : c.whole q := fun p _ => by
  rw [hr, hb]
  exact ⟨rfl, fun r h => absurd h List.not_mem_nil⟩

theorem countGlob_mild (b : Block) (code n : Nat) : Mild b (b.countGlob code n) := by
  refine .of_regs ?_
  unfold Block.countGlob
  split
  · refine forEach_keeps (fun c => { c with regs := b.regs } = b) 64 _ b rfl fun i c _ hc => ?_
    split
    · exact hc
    · exact hc
  · rfl

theorem countDram_mild (b : Block) (a n : Nat) (rd wr : Bool) : Mild b (b.countDram a n rd wr) := by
  unfold Block.countDram
  split
  · dsimp only
    have hrd : Mild b (if rd then b.countGlob 0x0D (if n = 0 then 0 else (a + n - 1) / 64 - a / 64 + 1) else b) := by
      split
      · exact countGlob_mild b _ _
      · exact .refl b
    split
    · exact hrd.trans (countGlob_mild _ _ _)
    · exact hrd
  · exact .refl b

/-- A bank all of whose requests can be served serves one of them (R200). -/
theorem bankServe_one {b : Block} {k : Nat} (hk : k < 64) (hs : Serves b) (hne : (b.bankAt k).waiting ≠ []) :
    Serving k b (b.bankServe k .clean) ∧ ((b.bankServe k .clean).bankAt k).waiting.length + 1 = (b.bankAt k).waiting.length := by
  obtain ⟨hr, hb, hw⟩ := hs k hk
  obtain ⟨⟨q, rr⟩, hpick⟩ := Option.isSome_iff_exists.mp (bankPick_isSome hne hr hw)
  let aged := fun (p : Req) => if p.place = 0 then p else { p with age := p.age + q.cycles }
  let rest := (removeReq q (b.bankAt k).waiting).map aged
  have hrest : ∀ p ∈ rest, p.place ≠ 0 := fun p hp => by
    obtain ⟨r, hr', rfl⟩ := List.mem_map.mp hp
    have hplace := hw r ((removeReq_sublist _ _).subset hr')
    simp only [aged, if_neg hplace]
    exact hplace
  have hlen : rest.length + 1 = (b.bankAt k).waiting.length := by
    rw [List.length_map, removeReq_length (bankPick_mem hpick)]
  let c1 : Bank := { b.bankAt k with waiting := rest, scrubAge := (b.bankAt k).scrubAge.map (· + q.cycles) }
  let b1 := b.setBank k c1
  let b2 := if rr then b1.put (R.CB_ARB_LASTRQ k) (arbNumber q.rq) else b1
  let b3 := if rest.all (·.place == 0) then b2 else b2.inc (R.CB_WAITCNT_COUNT k) q.cycles
  let b4 := if rest.any (Req.outside k) then b3.drawn.inc R.PERC_WAITS_COUNT (1 + b3.freeWord.toNat) else b3
  have hm : Mild b1 b4 := by
    refine .of_same (fun j => ?_) ?_ fun m => ?_
    all_goals
      simp only [b4, b3, b2]
      split <;> split <;> split <;> rfl
  have hc4 : b4.bankAt k = c1 := by
    have hsame : b4.bankAt k = b1.bankAt k := by
      simp only [b4, b3, b2]
      split <;> split <;> split <;> rfl
    rw [hsame, Block.setBank_bankAt_same]
  have hserving : Serving k b b4 := by
    have h1 : Serving k b b1 := by
      refine ⟨fun hs j hj => ?_, fun j hj => by rw [Block.setBank_bankAt_ne _ _ _ _ hj], rfl, .refl b⟩
      by_cases he : j = k
      · rw [he, Block.setBank_bankAt_same]
        exact ⟨hr, hb, hrest⟩
      · rw [Block.setBank_bankAt_ne _ _ _ _ he]
        exact hs j hj
    exact h1.trans (hm.serving k)
  let b5 := (b4.effect q).1
  have hm5 : Mild b4 b5 := effect_mild b4 q
  have hw5 : (b5.bankAt k).waiting = rest := by rw [hm5.waiting, hc4]
  have hmseat : Mild b5 (b5.setBank k { b5.bankAt k with waiting := seat k (b5.bankAt k).waiting }) :=
    .setBank (by rw [hw5]; exact seat_placed hrest) rfl id
  let b6 := b5.setBank k { b5.bankAt k with waiting := seat k (b5.bankAt k).waiting }
  have hm7 : Mild b4 (b6.answer q (b4.effect q).2 false) := (hm5.trans hmseat).trans (answer_mild _ _ _ _)
  have hrun : b.bankServe k .clean = b6.answer q (b4.effect q).2 false := by
    unfold Block.bankServe Block.bankStep
    rw [hpick]
    dsimp only
    rw [show (if rest.any (Req.outside k) then b3.drawn.inc R.PERC_WAITS_COUNT (1 + b3.freeWord.toNat) else b3).bankDo k q .clean =
      ((b4.effect q).1, .data (b4.effect q).2) from bankDo_whole (whole_of_sound (by rw [hc4]; exact hr) (by rw [hc4]; exact hb) q)]
    rfl
  rw [hrun]
  refine ⟨hserving.trans (hm7.serving k), ?_⟩
  rw [hm7.waiting, hc4]
  exact hlen

/-- A bank all of whose requests can be served serves those of requester `rq` (R84). -/
theorem bankFlush_serving {k rq : Nat} (hk : k < 64) (fuel : Nat) {b : Block} (hs : Serves b)
    (hf : (b.bankAt k).waiting.length ≤ fuel) :
    Serving k b (Block.bankFlush k rq fuel b) ∧ ∀ q ∈ ((Block.bankFlush k rq fuel b).bankAt k).waiting, q.rq ≠ rq := by
  induction fuel generalizing b with
  | zero =>
    refine ⟨.refl k b, ?_⟩
    show ∀ q ∈ (b.bankAt k).waiting, _
    rw [List.length_eq_zero_iff.mp (Nat.le_zero.mp hf)]
    exact fun q h => absurd h List.not_mem_nil
  | succ fuel ih =>
    unfold Block.bankFlush
    split
    next hstop =>
      refine ⟨.refl k b, fun q hq => ?_⟩
      obtain hall | hnone := Bool.or_eq_true_iff.mp hstop
      · simpa using List.all_eq_true.mp hall q hq
      · have hsome := bankPick_isSome (List.ne_nil_of_mem hq) (hs k hk).1 (hs k hk).2.2
        rw [Option.isNone_iff_eq_none.mp hnone] at hsome
        cases hsome
    next hgo =>
      have hne : (b.bankAt k).waiting ≠ [] := fun h => hgo (by rw [h]; rfl)
      obtain ⟨hone, hlen⟩ := bankServe_one hk hs hne
      obtain ⟨hall, hnone⟩ := ih (hone.serves hs) (by omega)
      exact ⟨hone.trans hall, hnone⟩

theorem bankFlush_keepsEngRegs {k : Nat} (hk : k < 64) (rq fuel : Nat) (b : Block) :
    KeepsEngRegs b (Block.bankFlush k rq fuel b) := by
  induction fuel generalizing b with
  | zero => exact .refl b
  | succ fuel ih =>
    unfold Block.bankFlush
    split
    · exact .refl b
    · exact (bankServe_keepsEngRegs hk b .clean).trans (ih _)

/-- Banks whose requests can all be served serve those of requester `rq`, one bank after the other (R84). -/
theorem drainBanks_serving (rq : Nat) (ks : List Nat) (hlt : ∀ k ∈ ks, k < 64) {b : Block} (hs : Serves b) :
    let b' := ks.foldl (fun c k => c.drainBank rq k) b
    (∀ k, k ∈ ks ∨ (∀ q ∈ (b.bankAt k).waiting, q.rq ≠ rq) → ∀ q ∈ (b'.bankAt k).waiting, q.rq ≠ rq) ∧
      EngNoticed b b' ∧ KeepsEngRegs b b' := by
  induction ks generalizing b with
  | nil => exact ⟨fun k h => h.resolve_left List.not_mem_nil, .refl b, .refl b⟩
  | cons k ks ih =>
    have hk := hlt k List.mem_cons_self
    obtain ⟨hone, hk0⟩ := bankFlush_serving (rq := rq) hk _ hs (Nat.le_refl _)
    obtain ⟨hno, heng, hregs⟩ := ih (fun j hj => hlt j (List.mem_cons_of_mem _ hj)) (hone.serves hs)
    refine ⟨fun j hj => hno j ?_, hone.eng.trans heng, (bankFlush_keepsEngRegs hk rq _ b).trans hregs⟩
    · by_cases he : j = k
      · rw [he]
        exact .inr hk0
      · refine hj.imp (fun h => (List.mem_cons.mp h).resolve_left he) fun h => ?_
        rw [hone.others j he]
        exact h

/-! ## The DRAM Port -/

/-- A request of the DRAM Port's list takes effect: no other request leaves, and of the engines at most break notices change. -/
theorem present_mild (b : Block) (q : Req) : Mild b (b.present q) := by
  unfold Block.present
  dsimp only
  obtain ⟨hw, hr, hb, hd, he⟩ := (countDram_mild b q.addr q.len q.kind.reads q.kind.writes).trans (effect_mild _ q)
  exact ⟨hw, hr, hb, hd, he⟩

theorem mem_firstsOf_of_find {rq : Nat} {q : Req} (seen : List Nat) {l : List Req} (h : l.find? (·.rq == rq) = some q)
    (hs : rq ∉ seen) : q ∈ firstsOf seen l := by
  induction l generalizing seen with
  | nil => cases h
  | cons p l ih =>
    unfold firstsOf
    by_cases hp : p.rq = rq
    · rw [List.find?_cons_of_pos (p := fun r : Req => r.rq == rq) (beq_iff_eq.mpr hp)] at h
      cases h
      rw [if_neg (by rw [hp, List.contains_iff_mem]; exact hs)]
      exact List.mem_cons_self
    · rw [List.find?_cons_of_neg (p := fun r : Req => r.rq == rq) (by rw [beq_iff_eq]; exact hp)] at h
      split
      · exact ih seen h hs
      · exact List.mem_cons_of_mem _ (ih _ h (by simp [hs, Ne.symm hp]))

/-- The DRAM Port has a next request for a requester exactly as long as one of its requests waits. -/
theorem dramNext_of_waiting {b : Block} {rq : Nat} {r : Req} (hr : r ∈ b.dram.waiting) (hrq : r.rq = rq) :
    ∃ q, b.dramNext rq = some q ∧ q ∈ b.dram.waiting := by
  have hfound : (b.dram.waiting.find? (·.rq == rq)).isSome := List.find?_isSome.mpr ⟨r, hr, beq_iff_eq.mpr hrq⟩
  obtain ⟨p, hp⟩ := Option.isSome_iff_exists.mp hfound
  have hfirst : p ∈ (firstsOf [] b.dram.waiting).filter (·.channel == p.channel) :=
    List.mem_filter.mpr ⟨mem_firstsOf_of_find [] hp List.not_mem_nil, beq_self_eq_true _⟩
  obtain ⟨q, hq⟩ := Option.isSome_iff_exists.mp (rrFirst_isSome (last := b.dram.last.get p.channel 75) (List.ne_nil_of_mem hfirst))
  refine ⟨q, ?_, (firstsOf_sublist _ _).subset (List.mem_of_mem_filter (rrFirst_mem hq))⟩
  unfold Block.dramNext
  rw [hp]
  exact hq

/-- The DRAM Port presents every request of requester `rq` (R84). -/
theorem dramFlush_serving (rq fuel : Nat) {b b' : Block} (hf : b.dram.waiting.length ≤ fuel) (hb' : Block.dramFlush rq fuel b = b') :
    (∀ q ∈ b'.dram.waiting, q.rq ≠ rq) ∧ (∀ j, (b'.bankAt j).waiting = (b.bankAt j).waiting) ∧
      EngNoticed b b' ∧ KeepsEngRegs b b' := by
  subst hb'
  induction fuel generalizing b with
  | zero =>
    refine ⟨?_, fun _ => rfl, .refl b, .refl b⟩
    show ∀ q ∈ b.dram.waiting, _
    rw [List.length_eq_zero_iff.mp (Nat.le_zero.mp hf)]
    exact fun q h => absurd h List.not_mem_nil
  | succ fuel ih =>
    unfold Block.dramFlush
    split
    next hnone =>
      refine ⟨fun r hr hrq => ?_, fun _ => rfl, .refl b, .refl b⟩
      obtain ⟨q, hq, -⟩ := dramNext_of_waiting hr hrq
      rw [hnone] at hq
      cases hq
    next q hq =>
      have hmem : q ∈ b.dram.waiting := by
        unfold Block.dramNext at hq
        obtain ⟨p, -, hp⟩ := Option.bind_eq_some_iff.mp hq
        exact (firstsOf_sublist _ _).subset (List.mem_of_mem_filter (rrFirst_mem hp))
      have hm : Mild (b.dramLeave q) ((b.dramLeave q).present q) := present_mild _ q
      have hlen : ((b.dramLeave q).present q).dram.waiting.length + 1 = b.dram.waiting.length :=
        (congrArg (fun l => List.length l + 1) hm.dram).trans (removeReq_length hmem)
      obtain ⟨hno, hbanks, heng, hregs⟩ := ih (b := (b.dramLeave q).present q) (by omega)
      have hkeeps : KeepsEngRegs b ((b.dramLeave q).present q) :=
        KeepsEngRegs.trans (b := b.dramLeave q) (.of_regs rfl) (present_keepsEngRegs _ q)
      exact ⟨hno, fun j => (hbanks j).trans (hm.waiting j), EngNoticed.trans (b := b.dramLeave q) (.refl b) (hm.eng.trans heng),
        hkeeps.trans hregs⟩

/-- Where every request that waits at a bank can be served, all of requester `rq`'s have their turn (R84). -/
theorem drainAll_facts {rq : Nat} {b b' : Block} (hs : Serves b) (hb' : b.drainAll rq = b') :
    (∀ k < 64, ∀ q ∈ (b'.bankAt k).waiting, q.rq ≠ rq) ∧ (∀ q ∈ b'.dram.waiting, q.rq ≠ rq) ∧
      EngNoticed b b' ∧ KeepsEngRegs b b' := by
  unfold Block.drainAll forEach at hb'
  obtain ⟨hbank, heng, hregs⟩ := drainBanks_serving rq (List.range 64) (fun k => List.mem_range.mp) hs
  obtain ⟨hdram, hsame, heng', hregs'⟩ := dramFlush_serving rq _ (Nat.le_refl _) hb'
  refine ⟨fun k hk => ?_, hdram, heng.trans heng', hregs.trans hregs'⟩
  rw [hsame k]
  exact hbank k (.inl (List.mem_range.mpr hk))

/-! ## FENCE -/

theorem hasWaiting_eq_false {b : Block} {rq : Nat} (hbank : ∀ k < 64, ∀ q ∈ (b.bankAt k).waiting, q.rq ≠ rq)
    (hdram : ∀ q ∈ b.dram.waiting, q.rq ≠ rq) : b.hasWaiting rq = false := by
  unfold Block.hasWaiting
  rw [Bool.or_eq_false_iff, List.any_eq_false, List.any_eq_false]
  refine ⟨fun q hq => by simpa using hdram q hq, fun k hk => ?_⟩
  rw [List.any_eq_true]
  rintro ⟨q, hq, h⟩
  exact hbank k (List.mem_range.mp hk) q hq (beq_iff_eq.mp h)

theorem gives_fence {n : PE} {s : State} (q : Quiet s n) (h : AtInstr s n (wordR 0x5A 0 0 0 0)) (hs : Serves s.blk) :
    let e := s.blk.engine n
    Gives (.fence n 0 0 0 0) s fun t =>
      (∀ k < 64, ∀ q ∈ (t.blk.bankAt k).waiting, q.rq ≠ n.val) ∧ (∀ q ∈ t.blk.dram.waiting, q.rq ≠ n.val) ∧
        (t.blk.engine n).pc = BitVec.ofNat 48 (nextPc e.pc 4) ∧ (t.blk.engine n).gV = e.gV ∧
        (t.blk.engine n).gT = e.gT ∧ (t.blk.engine n).vr = e.vr ∧ (t.blk.engine n).st = { e.st with rsm := false } := by
  intro e
  obtain ⟨hfpt, hss, hlk, htr⟩ := id q
  obtain ⟨-, -, -, -, hcode⟩ := id h
  let b0 := s.blk.modEngine n Engine.noSkip
  obtain ⟨hbank, hdram, heng, hregs⟩ := drainAll_facts (rq := n.val) (b := b0) hs rfl
  obtain ⟨l, hl⟩ := heng n
  have he0 : b0.engine n = e.noSkip := Block.modEngine_engine_same _ _ _
  rw [he0] at hl
  have hact : (b0.drainAll n).flag (R.ENG_LKSTAT_LKACT n) = false := (hregs.lkact n).trans hlk
  obtain ⟨t, ht, htE, -, htB, htD, -, -⟩ := finish_facts s (b := b0.drainAll n) (n := n) (e0 := e.noSkip) (nextPc e.pc 4)
    (by rw [hl]; exact hfpt) hss ((hregs.tracing n).trans htr) (by rw [hact]; exact fun h => by cases h)
  have hrun : exec (.fence n 0 0 0 0) s = done s ((b0.drainAll n).finish n e.noSkip (nextPc e.pc 4) false false) := by
    show execFence n 0 0 0 0 s = _
    unfold execFence
    rw [feis_at h, hlk]
    simp only [bne_self_eq_false, Bool.or_self, firstTrap, Bool.false_eq_true, if_false]
    rw [show (s.blk.modEngine n Engine.noSkip).drainAll n = b0.drainAll n from rfl,
      if_neg (by rw [hasWaiting_eq_false hbank hdram]; exact Bool.false_ne_true)]
    rfl
  refine ⟨t, hrun.trans ht, ?_⟩
  beta_reduce
  rw [htD, htE, hl]
  obtain ⟨hpc, hV, hT, -, hvr, hst⟩ := ended_regs (e := e.noSkip.told l) (nextPc e.pc 4) hcode
  exact ⟨fun k hk => by rw [htB]; exact hbank k hk, hdram, hpc, hV, hT, hvr, hst⟩

/-- Settles O12. -/
theorem lockedSequenceAndFence : Obligations.LockedSequenceAndFence := by
  unfold Obligations.LockedSequenceAndFence
  refine ⟨fun n d a b wide k s => ?_, fun n s q h hs => gives_fence q h hs⟩
  intro x len e addr line regsAs act hal _ hfpt hss htr
  have hlen : xSize x = len := xSize_of_wide wide
  have hx : x.toNat < 2 := by cases wide <;> decide
  refine ⟨fun q hbank h => ?_, fun hact hbank hlock h => ?_, fun q hcheck h => ?_⟩
  · exact gives_lkb hlen hx q h hal hbank
  · exact gives_lke_locked hlen hx hfpt hss htr hact h hal hbank hlock
  · exact gives_lke_unlocked hlen hx q h hal hcheck

end Sys2Proof.Machine
end

section
/-! System instructions: waits, no-effects, special registers and software exceptions (R69, R73, R77, R89, R333, R336, R358). -/
namespace Sys2Proof.Machine

/-! ## Retirement of an instruction that changes only its engine -/

theorem setEngine_setEngine (b : Block) (n : Nat) (e e' : Engine) : (b.setEngine n e).setEngine n e' = b.setEngine n e' := by
  unfold Block.setEngine
  dsimp only
  rw [Tab.put_put]

theorem setEngine_modEngine (b : Block) (n : Nat) (f : Engine → Engine) (e : Engine) :
    (b.modEngine n f).setEngine n e = b.setEngine n e := setEngine_setEngine b n _ e

/-- What is left behind at an instruction's end does not tell two effects with the same core apart. -/
theorem Retired.congr {s t : State} {n : PE} {next : Nat} {f g : Engine → Engine}
    (h : (f (s.blk.engine n)).core = (g (s.blk.engine n)).core) (hr : Retired s n next f t) : Retired s n next g t := by
  obtain ⟨⟨hpc, hcore, hoth, hpmc⟩, hp⟩ := hr
  rw [Block.setEngine_engine_same] at hcore
  refine ⟨⟨hpc, ?_, fun m hm => ?_, hpmc⟩, hp⟩
  · rw [Block.setEngine_engine_same, hcore, h]
  · rw [hoth m hm, Block.setEngine_engine_ne _ _ _ _ hm, Block.setEngine_engine_ne _ _ _ _ hm]

theorem Gives.mono {c : Instr} {s : State} {P Q : State → Prop} (h : Gives c s P) (hpq : ∀ t, P t → Q t) : Gives c s Q := by
  obtain ⟨t, ht, hp⟩ := h
  exact ⟨t, ht, hpq t hp⟩

section
variable {c : Instr} {s : State} {n : PE} {word next : Nat} {traps : Engine → Option Trap} {body : Engine → Block → Block}

/-- An instruction that raises nothing and ends with the effect `f` on its engine retires. -/
theorem regEffect_ends {f : Engine → Engine} (hf : RegEffect f) (hx : exec c s = done s (s.blk.feis n word traps body))
    (h : AtInstr s n word) (q : Quiet s n) (htrap : traps (s.blk.engine n).noSkip = none)
    (hbody : body (s.blk.engine n).noSkip (s.blk.modEngine n Engine.noSkip) =
      ((s.blk.modEngine n Engine.noSkip).setEngine n (f (s.blk.engine n).noSkip)).finish n (s.blk.engine n).noSkip next false
        false) : Gives c s (Retired s n next f) := by
  obtain ⟨-, -, -, -, hcode⟩ := id h
  obtain ⟨t, ht, hr⟩ := finish_retires q (hf.noSkip _) (hf.fpt _) (hf.codes _ hcode) next false
  refine ⟨t, ?_, hr⟩
  rw [hx, feis_at h, htrap, ← ht]
  exact congrArg (done s) hbody

theorem modEngine_noSkip_self (b : Block) (n : Nat) :
    (b.modEngine n Engine.noSkip).setEngine n (b.engine n).noSkip = b.modEngine n Engine.noSkip := setEngine_modEngine ..

/-- An instruction that only ends changes nothing. -/
theorem gives_id (hx : exec c s = done s (s.blk.feis n word traps body)) (h : AtInstr s n word) (q : Quiet s n)
    (htrap : traps (s.blk.engine n).noSkip = none)
    (hbody : body (s.blk.engine n).noSkip (s.blk.modEngine n Engine.noSkip) =
      (s.blk.modEngine n Engine.noSkip).finish n (s.blk.engine n).noSkip next false false) : Gives c s (Retired s n next id) :=
  regEffect_ends (f := id) RegEffect.id hx h q htrap (by rw [hbody, id_eq, modEngine_noSkip_self])

end

/-! ## NOP, FBAR, ISYNC, customer opcodes -/

theorem gives_nop {s : State} {n : PE} (h : AtInstr s n (wordJ 0xAB 0)) (q : Quiet s n) :
    Gives (.nop n 0) s (Retired s n (nextPc (s.blk.engine n).pc 4) id) := gives_id rfl h q rfl rfl

theorem fpCount_none_flag {e : Engine} (h : e.fpt = none) (fp : Bool) : e.fpCount fp = e := by
  unfold Engine.fpCount
  rw [h]

theorem finish_fp {b : Block} {n : Nat} (h : (b.engine n).fpt = none) (e0 : Engine) (next : Nat) (fp flow : Bool) :
    b.finish n e0 next fp flow = b.finish n e0 next false flow := by
  unfold Block.finish Block.modEngine
  dsimp only
  rw [fpCount_none_flag h, fpCount_none_flag h]

theorem gives_fbar {s : State} {n : PE} (h : AtInstr s n (wordR 0x86 0 0 0 0)) (q : Quiet s n) :
    Gives (.fbar n 0 0 0 0) s (Retired s n (nextPc (s.blk.engine n).pc 4) id) := by
  refine gives_id rfl h q rfl ?_
  have hfpt : (s.blk.engine n).noSkip.fpt = none := q.1
  rw [hfpt]
  exact finish_fp (by rw [Block.modEngine_engine_same]; exact hfpt) _ _ _ _

theorem RegEffect.clearIbuf : RegEffect fun e => { e with ibuf := [] } := ⟨fun _ => rfl, fun _ => rfl, fun _ h => h⟩

/-- With an empty instruction buffer the next instruction has to be fetched. -/
theorem ended_of_ibuf_nil {e : Engine} (h : e.ibuf = []) (next : Nat) :
    (e.ended next).ibuf = [] ∧ (e.ended next).hold = .fetch := by
  unfold Engine.ended Engine.advance
  rw [h]
  exact ⟨rfl, rfl⟩

theorem gives_isync {s : State} {n : PE} (h : AtInstr s n (wordJ 0xAA 0)) (q : Quiet s n) :
    Gives (.isync n 0) s fun t => Retired s n (nextPc (s.blk.engine n).pc 4) id t ∧ (t.blk.engine n).ibuf = [] ∧
      (t.blk.engine n).hold = .fetch := by
  obtain ⟨hfpt, hss, hlk, htr⟩ := id q
  have htrap : firstTrap [((0 : BitVec 24) != 0, .illegal), (s.blk.flag (R.ENG_LKSTAT_LKACT n), .lockseq)] = none := by
    rw [hlk]
    rfl
  obtain ⟨t, ht, hr⟩ := regEffect_ends .clearIbuf (c := .isync n 0) rfl h q htrap rfl
  let b := (s.blk.modEngine n Engine.noSkip).setEngine n { (s.blk.engine n).noSkip with ibuf := [] }
  have hbe : b.engine n = { (s.blk.engine n).noSkip with ibuf := [] } := Block.setEngine_engine_same ..
  have hact : b.flag (R.ENG_LKSTAT_LKACT n) = false := hlk
  obtain ⟨u, hu, huE, -⟩ := finish_facts s (b := b) (n := n) (e0 := (s.blk.engine n).noSkip) (nextPc (s.blk.engine n).pc 4)
    (by rw [hbe]; exact hfpt) hss htr (by rw [hact]; exact fun h => by cases h)
  have hrun : exec (.isync n 0) s = done s (b.finish n (s.blk.engine n).noSkip (nextPc (s.blk.engine n).pc 4) false false) := by
    show execIsync n 0 s = _
    unfold execIsync
    rw [feis_at h, htrap]
    rfl
  have htu : t = u := Host.Outcome.next.inj (ht.symm.trans (hrun.trans hu))
  refine ⟨t, ht, Retired.congr (f := fun e => { e with ibuf := [] }) rfl hr, ?_⟩
  rw [htu, huE]
  exact ended_of_ibuf_nil (by rw [hbe]) _

/-- A customer opcode of the image leaves its engine before its dispatch word (R75). -/
theorem gives_customerOpcode {s : State} {n : PE} {word : BitVec 32} (hlo : 0xC0 ≤ word.toNat / 2 ^ 24)
    (hhi : word.toNat / 2 ^ 24 ≤ 0xEF) (h : AtInstr s n word.toNat) :
    Gives (.customerOpcode n (word.setWidth 64) true) s fun t =>
      t.blk = s.blk.setEngine n { s.blk.engine n with trapPt := none, skipIaddr := false } ∧ t.pending = s.pending := by
  have hw : (word.setWidth 64).toNat = word.toNat := by
    rw [BitVec.toNat_setWidth, Nat.mod_eq_of_lt (lt_trans word.isLt (by decide))]
  have hop : opcodeOf (word.setWidth 64) = word.toNat / 2 ^ 24 := by
    unfold opcodeOf
    rw [hw]
    omega
  have hcust : isCustomer (word.setWidth 64) = true := by
    unfold isCustomer
    rw [hop]
    rw [decide_eq_true hlo, decide_eq_true hhi]
    rfl
  have hdef : feisDefined (opcodeOf (word.setWidth 64)) = false := by
    rw [hop]
    unfold feisDefined
    simp only [Bool.or_eq_false_iff, decide_eq_false_iff_not, beq_eq_false_iff_ne]
    omega
  have hok : customerOk (word.setWidth 64) = true := by
    unfold customerOk
    rw [hdef, hw, decide_eq_true (lt_of_lt_of_eq word.isLt (by norm_num))]
    rfl
  have hmod : (s.blk.modEngine n Engine.noSkip).modEngine n (fun e => { e with trapPt := none }) =
      s.blk.setEngine n { s.blk.engine n with trapPt := none, skipIaddr := false } := by
    unfold Block.modEngine
    rw [Block.setEngine_engine_same, setEngine_setEngine]
    rfl
  refine ⟨{ s with blk := s.blk.setEngine n { s.blk.engine n with trapPt := none, skipIaddr := false } }, ?_, rfl, rfl⟩
  show execCustomerOpcode n _ true s = _
  unfold execCustomerOpcode
  rw [if_pos hok, hw, feis_at h, Bool.true_and, hcust, if_pos rfl]
  dsimp only
  rw [hmod]
  rfl

/-! ## WFI -/

/-- WFI at an engine that does not wait yet (R358). -/
def Block.wfiOp (b : Block) (n : Nat) : Block :=
  b.feis n (wordJ 0xA5 0)
    (fun e => firstTrap [((0 : BitVec 24) != 0, .illegal), (!e.st.sup, .priv), (b.flag (R.ENG_LKSTAT_LKACT n), .lockseq)])
    fun e b =>
      if b.wfiDone n then b.finish n e (nextPc e.pc 4) false false
      else b.modEngine n fun e => { e with hold := .wfi }

section
variable {s : State} {n : PE}

theorem wfi_traps (q : Quiet s n) (hsup : (s.blk.engine n).st.sup = true) :
    firstTrap [((0 : BitVec 24) != 0, .illegal), (!(s.blk.engine n).noSkip.st.sup, .priv),
      (s.blk.flag (R.ENG_LKSTAT_LKACT n), .lockseq)] = none := by
  obtain ⟨-, -, hlk, -⟩ := q
  rw [show (s.blk.engine n).noSkip.st.sup = true from hsup, hlk]
  rfl

/-- WFI completes where a line of its engine's target is high. -/
theorem wfiOp_retires (h : AtInstr s n (wordJ 0xA5 0)) (q : Quiet s n) (hsup : (s.blk.engine n).st.sup = true)
    (hline : s.blk.wfiDone n = true) :
    ∃ t, done s (s.blk.wfiOp n) = .next t ∧ Retired s n (nextPc (s.blk.engine n).pc 4) id t := by
  obtain ⟨-, -, -, -, hcode⟩ := id h
  obtain ⟨t, ht, hr⟩ := finish_retires q (f := id) (g := id) rfl rfl hcode (nextPc (s.blk.engine n).pc 4) false
  have hl : (s.blk.modEngine n Engine.noSkip).wfiDone n = true := by
    rw [← hline]
    unfold Block.wfiDone Block.targetOf
    rw [Block.modEngine_engine_same]
    rfl
  refine ⟨t, ?_, hr⟩
  rw [id_eq, modEngine_noSkip_self] at ht
  unfold Block.wfiOp
  rw [feis_at h, wfi_traps q hsup, ← ht]
  dsimp only
  rw [hl, if_pos rfl]
  rfl

/-- WFI waits at itself where no line of its engine's target is high. -/
theorem wfiOp_waits (h : AtInstr s n (wordJ 0xA5 0)) (q : Quiet s n) (hsup : (s.blk.engine n).st.sup = true)
    (hline : s.blk.wfiDone n = false) :
    s.blk.wfiOp n = s.blk.setEngine n { s.blk.engine n with hold := .wfi, skipIaddr := false } := by
  have hl : (s.blk.modEngine n Engine.noSkip).wfiDone n = false := by
    rw [← hline]
    unfold Block.wfiDone Block.targetOf
    rw [Block.modEngine_engine_same]
    rfl
  unfold Block.wfiOp
  rw [feis_at h, wfi_traps q hsup]
  dsimp only
  rw [hl, if_neg Bool.false_ne_true]
  unfold Block.modEngine
  rw [Block.setEngine_engine_same, setEngine_setEngine]
  rfl

end

/-- An engine that waits at WFI, with no micro-trap due, is as it was before (R37). -/
theorem execWfi_waiting {s : State} {n : PE} (hhold : (s.blk.engine n).hold = .none)
    (ht : (s.blk.setEngine n { s.blk.engine n with hold := .wfi }).trapFirst n = false) :
    exec (.wfi n 0) { s with blk := s.blk.setEngine n { s.blk.engine n with hold := .wfi } } =
      done s ((s.blk.setEngine n (s.blk.engine n)).wfiOp n) := by
  let waiting := s.blk.setEngine n { s.blk.engine n with hold := .wfi }
  have hback : waiting.modEngine n (fun e => { e with hold := .none }) = s.blk.setEngine n (s.blk.engine n) := by
    unfold Block.modEngine
    rw [Block.setEngine_engine_same, setEngine_setEngine]
    dsimp only
    rw [← hhold]
  show execWfi n 0 _ = _
  unfold execWfi
  dsimp only
  rw [show (if (waiting.engine n).hold == .wfi && !waiting.trapFirst n then
    waiting.modEngine n fun e => { e with hold := .none } else waiting) = s.blk.setEngine n (s.blk.engine n) from ?_]
  · rfl
  · rw [if_pos, hback]
    rw [ht, Block.setEngine_engine_same]
    rfl

/-- The state with engine `n` written back as it stands. -/
def State.rewritten (s : State) (n : Nat) : State := { s with blk := s.blk.setEngine n (s.blk.engine n) }

section
variable {s : State} {n : PE}

theorem rewritten_engine : (s.rewritten n).blk.engine n = s.blk.engine n := Block.setEngine_engine_same ..

theorem rewritten_atInstr {word : Nat} (h : AtInstr s n word) : AtInstr (s.rewritten n) n word := by
  unfold AtInstr Block.ready Block.runs Block.trapFirst Block.trapDue Block.stopDue Block.irqDue Block.dbDue Block.admits
  simp only [rewritten_engine]
  exact h

theorem rewritten_quiet (q : Quiet s n) : Quiet (s.rewritten n) n := by
  unfold Quiet
  rw [rewritten_engine]
  exact q

theorem rewritten_wfiDone : (s.rewritten n).blk.wfiDone n = s.blk.wfiDone n := by
  unfold Block.wfiDone Block.targetOf
  rw [rewritten_engine]
  rfl

theorem rewritten_retired {next : Nat} {t : State} (hr : Retired (s.rewritten n) n next id t) : Retired s n next id t := by
  have hsame : (s.rewritten n).blk.setEngine n (id ((s.rewritten n).blk.engine n)) = s.blk.setEngine n (id (s.blk.engine n)) := by
    rw [rewritten_engine]
    exact setEngine_setEngine ..
  obtain ⟨he, hp⟩ := hr
  rw [hsame] at he
  exact ⟨he, hp⟩

end

theorem of_ite {p a b : Prop} [Decidable p] (ha : p → a) (hb : ¬p → b) : if p then a else b := by
  split
  · exact ha ‹p›
  · exact hb ‹¬p›

/-- Settles O19. -/
theorem waitAndNoEffect : Obligations.WaitAndNoEffect := by
  unfold Obligations.WaitAndNoEffect
  refine ⟨fun n s q h hsup => ?_, fun n word s q => ?_⟩
  · intro e waiting t
    have hhold : e.hold = .none := by
      have hready := h.1
      unfold Block.ready at hready
      simp only [Bool.and_eq_true, beq_iff_eq] at hready
      exact hready.1.2
    have hx : exec (.wfi n 0) s = done s (s.blk.wfiOp n) := by
      show execWfi n 0 s = _
      unfold execWfi
      rw [show (s.blk.engine n).hold = .none from hhold]
      rfl
    have hsup' : ((s.rewritten n).blk.engine n).st.sup = true := by rw [rewritten_engine]; exact hsup
    have hline : s.blk.wfiDone n = (s.blk.irqLine t || s.blk.dbLine t) := rfl
    refine @of_ite _ _ _ _ ?_ ?_
    · intro hup
      have hdone : s.blk.wfiDone n = true := by rw [hline, Bool.or_eq_true]; exact hup
      refine ⟨?_, fun ht => ?_⟩
      · obtain ⟨u, hu, hr⟩ := wfiOp_retires h q hsup hdone
        exact ⟨u, hx.trans hu, hr⟩
      · obtain ⟨u, hu, hr⟩ := wfiOp_retires (rewritten_atInstr h) (rewritten_quiet q) hsup' (rewritten_wfiDone.trans hdone)
        rw [rewritten_engine] at hr
        exact ⟨u, (execWfi_waiting hhold ht).trans hu, rewritten_retired hr⟩
    · intro hup
      have hdone : s.blk.wfiDone n = false := by
        rw [hline, ← Bool.not_eq_true, Bool.or_eq_true]
        exact hup
      intro still
      refine ⟨⟨_, hx.trans (done_next s _), ?_⟩, fun ht => ⟨_, (execWfi_waiting hhold ht).trans (done_next s _), ?_⟩⟩
      · show ({ s.blk.wfiOp n with isSealed := s.blk.isSealed } : Block) = _
        rw [wfiOp_waits h q hsup hdone]
        rfl
      · show ({ (s.rewritten n).blk.wfiOp n with isSealed := s.blk.isSealed } : Block) = _
        rw [wfiOp_waits (rewritten_atInstr h) (rewritten_quiet q) hsup' (rewritten_wfiDone.trans hdone), rewritten_engine]
        exact congrArg (fun b : Block => { b with isSealed := s.blk.isSealed }) (setEngine_setEngine ..)
  · intro e ends
    exact ⟨fun h => gives_nop h q, fun h => gives_fbar h q, fun h => gives_isync h q,
      fun hlo hhi h => gives_customerOpcode hlo hhi h⟩

end Sys2Proof.Machine
end

section
/-! Software exceptions and the special registers (R69, R73, R89, R331, R333, R336). -/
namespace Sys2Proof.Machine

/-! ## Software exceptions -/

/-- An exception of the executing world where no sequence breaks and the table answers with a good descriptor (R333, R336). -/
theorem except_eq {b u : Block} {n v ra : Nat} {d : Desc} (hlk : b.flag (R.ENG_LKSTAT_LKACT n) = false)
    (hd : b.readDesc n v (b.engine n).st.tw = (u, .good d)) :
    b.except n v ra = u.enterWith n v (b.engine n).st.tw d ra (b.engine n).st.word.toNat := by
  simp only [Block.except, Block.enter, Block.enterPushing, Block.lockBreak, hlk, hd, Bool.false_eq_true, if_false]

/-- An instruction whose effect is an exception enters its vector with the next address and ST pushed (R89, R333). -/
theorem gives_softTrap {c : Instr} {s : State} {n : PE} {word v : Nat} {d : Desc} {u : Block}
    (hx : exec c s = done s (s.blk.softTrap n word v false)) (h : AtInstr s n word) (q : Quiet s n)
    (hd : (s.blk.modEngine n Engine.noSkip).readDesc n v (s.blk.engine n).st.tw = (u, .good d))
    (hc : CanEnter u n d (s.blk.engine n).st.tw) :
    Gives c s (Entered u n v d (s.blk.engine n).st.tw (nextPc (s.blk.engine n).pc 4) (s.blk.engine n).st.word.toNat) := by
  obtain ⟨hfpt, -, hlk, htr⟩ := q
  let b := s.blk.modEngine n Engine.noSkip
  have he : b.engine n = (s.blk.engine n).noSkip := Block.modEngine_engine_same ..
  have htw : (b.engine n).st.tw = (s.blk.engine n).st.tw := by rw [he]; rfl
  have hexcept : b.except n v (nextPc (s.blk.engine n).pc 4) =
      u.enterWith n v (s.blk.engine n).st.tw d (nextPc (s.blk.engine n).pc 4) (s.blk.engine n).st.word.toNat := by
    rw [except_eq (b := b) (u := u) (d := d) hlk (by rw [htw]; exact hd), he]
    rfl
  obtain ⟨t, ht, hent⟩ := enterWith_entered hc ((readDesc_tracing hd).trans htr) s v (nextPc (s.blk.engine n).pc 4)
    (s.blk.engine n).st.word.toNat
  refine ⟨t, ?_, hent⟩
  rw [hx, ← ht, ← hexcept]
  unfold Block.softTrap
  rw [feis_at h, hlk]
  simp only [firstTrap, Bool.false_eq_true, if_false]
  rw [show (s.blk.engine n).noSkip.fpt = none from hfpt]
  rfl

/-- Settles O17. -/
theorem softwareExceptions : Obligations.SoftwareExceptions := by
  unfold Obligations.SoftwareExceptions
  intro n code d b s q e tw into enters
  refine ⟨fun hcode => ⟨fun hinto h => ?_, fun hinto h => ?_⟩, fun hlo hhi hinto h => ?_⟩
  · exact gives_softTrap (by show execSyscall n code s = _; unfold execSyscall; rw [decide_eq_false (not_le.mpr hcode)]) h q
      hinto.1 hinto.2
  · exact gives_softTrap (by show execBreak n code s = _; unfold execBreak; rw [decide_eq_false (not_le.mpr hcode)]) h q
      hinto.1 hinto.2
  · refine gives_softTrap ?_ h q hinto.1 hinto.2
    show execTrap n code s = _
    unfold execTrap
    rw [decide_eq_false (not_le.mpr hhi), decide_eq_false (not_lt.mpr hlo)]
    rfl

/-! ## ST and the special registers -/

theorem gives_mfst {n : PE} {d : BitVec 5} {s : State} (q : Quiet s n) (h : AtInstr s n (wordR 0xA6 d 0 0 0)) :
    Gives (.mfst n d 0 0 0) s
      (Retired s n (nextPc (s.blk.engine n).pc 4) fun e => e.setG d.toNat (s.blk.engine n).st.word) :=
  (RegEffect.id.setG d.toNat (v := fun e => e.st.word) fun _ => rfl).gives rfl rfl h q rfl

/-- ST moves as R69 says; what becomes of RSM is no matter, as the instruction's end clears it. -/
theorem regEffect_moved (a : BitVec 5) :
    RegEffect fun e => Engine.recode { e with st := e.st.moved (St.ofWord (e.g a.toNat)) } [128] where
  noSkip _ := rfl
  fpt _ := rfl
  codes e h := by
    rw [recode_nil (e := { e with st := e.st.moved (St.ofWord (e.g a.toNat)) }) [128] h]
    exact h

theorem gives_mtst {n : PE} {a : BitVec 5} {s : State} (q : Quiet s n) (h : AtInstr s n (wordR 0xA7 0 a 0 0)) :
    Gives (.mtst n 0 a 0 0) s (Retired s n (nextPc (s.blk.engine n).pc 4) fun p =>
      { p with st := (s.blk.engine n).st.moved (St.ofWord ((s.blk.engine n).g a.toNat)) }) := by
  obtain ⟨-, -, -, -, hcode⟩ := id h
  exact (regEffect_moved a).gives rfl rfl h q
    (recode_nil (e := { s.blk.engine n with st := (s.blk.engine n).st.moved (St.ofWord ((s.blk.engine n).g a.toNat)) }) _ hcode)

theorem regEffect_writeSr (i : Nat) (a : BitVec 5) : RegEffect fun e => e.writeSr i (e.g a.toNat) where
  noSkip e := by
    unfold Engine.writeSr
    split <;> rfl
  fpt e := by
    unfold Engine.writeSr
    split <;> rfl
  codes e h := by
    unfold Engine.writeSr
    dsimp only
    split
    case h_6 => exact (congrArg (fun p : Engine => p.codes) (recode_nil (e := { e with sp := _ }) _ h)).trans h
    all_goals exact h

section
variable {n : PE} {s : State} (q : Quiet s n)
include q

theorem gives_mtsr {a : BitVec 5} {i : BitVec 14} (hi : i.toNat < 6) (hsup : (s.blk.engine n).st.sup = true)
    (h : AtInstr s n (wordI 0xA9 0 a i)) :
    Gives (.mtsr n 0 a i) s (Retired s n (nextPc (s.blk.engine n).pc 4) fun p => p.writeSr i.toNat (p.g a.toNat)) := by
  obtain ⟨-, -, hlk, -⟩ := id q
  refine regEffect_ends (regEffect_writeSr i.toNat a) rfl h q ?_ rfl
  rw [hlk, show (s.blk.engine n).noSkip.st.sup = true from hsup, decide_eq_false (show ¬8 ≤ i.toNat by omega),
    decide_eq_false (show ¬6 ≤ i.toNat by omega)]
  rfl

theorem gives_mfsr {d : BitVec 5} {i : BitVec 14} {v : W64} (hi : i.toNat < 7)
    (hread : srReadable (s.blk.engine n).st i.toNat = true) (hv : s.blk.readSr n i.toNat = v)
    (h : AtInstr s n (wordI 0xA8 d 0 i)) :
    Gives (.mfsr n d 0 i) s (Retired s n (nextPc (s.blk.engine n).pc 4) fun p => p.setG d.toNat v) := by
  have hsr : (s.blk.modEngine n Engine.noSkip).readSr n i.toNat = v := by
    rw [← hv]
    unfold Block.readSr
    rw [Block.modEngine_engine_same]
    rfl
  refine regEffect_ends (RegEffect.id.setG d.toNat fun _ => rfl) rfl h q ?_ ?_
  · rw [show (s.blk.engine n).noSkip.st = (s.blk.engine n).st from rfl, hread, decide_eq_false (show ¬8 ≤ i.toNat by omega)]
    rfl
  · dsimp only
    rw [hsr, if_neg (show i.toNat ≠ 7 by omega), if_neg (show i.toNat ≠ 7 by omega)]
    rfl

/-- CYCLE is read a free number of ticks on (log entry 11). -/
theorem gives_mfsr_cycle {d : BitVec 5} (h : AtInstr s n (wordI 0xA8 d 0 7)) :
    let c := (s.blk.engine n).cycle + Config.freeWord s.blk.fresh
    Gives (.mfsr n d 0 7) s (Ended { s.blk.setEngine n ({ s.blk.engine n with cycle := c }.setG d.toNat c) with
      fresh := s.blk.fresh + 1 } n (nextPc (s.blk.engine n).pc 4)) := by
  intro c
  obtain ⟨hfpt, hss, -, -⟩ := id q
  obtain ⟨-, -, -, -, hcode⟩ := id h
  let e := s.blk.engine n
  let base : Block := { s.blk.setEngine n ({ e with cycle := c }.setG d.toNat c) with fresh := s.blk.fresh + 1 }
  let b : Block := (s.blk.modEngine n Engine.noSkip).drawn.setEngine n ({ e.noSkip with cycle := c }.setG d.toNat c)
  have hbe : b.engine n = { e.noSkip with cycle := c }.setG d.toNat c := Block.setEngine_engine_same ..
  have hbase : base.engine n = { e with cycle := c }.setG d.toNat c := Block.setEngine_engine_same ..
  have hskip : { e.noSkip with cycle := c }.setG d.toNat c = ({ e with cycle := c }.setG d.toNat c).noSkip :=
    setG_noSkip { e with cycle := c } d.toNat c
  have hv : (s.blk.modEngine n Engine.noSkip).readSr n 7 = c := by
    show ((s.blk.modEngine n Engine.noSkip).engine n).cycle + _ = _
    rw [Block.modEngine_engine_same]
    rfl
  obtain ⟨t, ht, hend, -⟩ := finish_on q (base := base) (b := b) (e0 := e.noSkip) ⟨rfl, fun _ _ => rfl⟩
    (by rw [hbe, hbase, hskip]; rfl)
    (fun m hm => (Block.setEngine_engine_ne _ _ _ _ hm).trans ((Block.modEngine_engine_ne _ _ _ _ hm).trans
      (Block.setEngine_engine_ne _ _ _ _ hm).symm))
    (by rw [hbe, setG_fpt]; exact hfpt) (by rw [hbe]; exact setG_codes (e := { e.noSkip with cycle := c }) _ _ hcode) hss
    (.of_regs rfl) rfl (nextPc e.pc 4) false
  refine ⟨t, ?_, hend⟩
  rw [← ht]
  show execMfsr n d 0 7 s = _
  unfold execMfsr
  rw [feis_at h]
  dsimp only [BitVec.reduceToNat]
  rw [hv]
  rfl

end

theorem vbase_bits (v : Nat) : v % 2 ^ 48 / 2 ^ 13 * 2 ^ 13 = v % 2 ^ 48 - v % 2 ^ 13 := by omega

theorem toNat_sr {i : Nat} (h : i < 2 ^ 14) : (BitVec.ofNat 14 i).toNat = i := by
  rw [BitVec.toNat_ofNat, Nat.mod_eq_of_lt h]

/-- Settles O20. -/
theorem specialRegisters : Obligations.SpecialRegisters := by
  unfold Obligations.SpecialRegisters
  intro n d a s q e w v ends readable sr
  have hmtsr : ∀ {i : Nat} {f : Engine → Engine}, i < 6 → e.st.sup = true → AtInstr s n (wordI 0xA9 0 a (sr i)) →
      (e.writeSr i v).core = (f e).core → Gives (.mtsr n 0 a (sr i)) s (ends f) := fun {i f} hi hsup h hf => by
    have hn : (sr i).toNat = i := toNat_sr (by omega)
    refine (gives_mtsr q (by omega) hsup h).mono fun t hr => hr.congr ?_
    rw [hn]
    exact hf
  have hmfsr : ∀ {i : Nat} {r : W64}, i < 7 → srReadable e.st i = true → s.blk.readSr n i = r → AtInstr s n (wordI 0xA8 d 0 (sr i)) →
      Gives (.mfsr n d 0 (sr i)) s (ends fun p => p.setG d.toNat r) := fun {i r} hi hread hr h => by
    have hn : (sr i).toNat = i := toNat_sr (by omega)
    exact gives_mfsr q (by omega) (by rw [hn]; exact hread) (by rw [hn]; exact hr) h
  refine ⟨fun h => ?_, fun h => ?_, fun hsup => ⟨fun i hi r hr h => ?_, ?_, ?_, ?_, ?_, ?_, ?_⟩, fun htw h => ?_, fun h => ?_⟩
  · exact gives_mfst q h
  · refine (gives_mtst q h).mono fun t hr => hr.congr ?_
    show ({ e with st := e.st.moved (St.ofWord v) } : Engine).core = ({ e with st := _ } : Engine).core
    cases hs : e.st.sup with
    | true =>
      simp only [St.moved, hs, if_true]
    | false =>
      simp only [St.moved, hs, Bool.false_eq_true, if_false]
      rfl
  · refine hmfsr (by omega) (by unfold srReadable; rw [if_pos hi]; exact hsup) ?_ h
    interval_cases i
    all_goals exact Option.some.inj hr
  · exact fun h => hmtsr (by decide) hsup h rfl
  · exact fun h => hmtsr (by decide) hsup h (by rw [← vbase_bits]; rfl)
  · exact fun h => hmtsr (by decide) hsup h rfl
  · exact fun h => hmtsr (by decide) hsup h rfl
  · exact fun h => hmtsr (by decide) hsup h rfl
  · exact fun h => hmtsr (by decide) hsup h (by rw [show e.writeSr 5 v = { e with sp := e.sp.put (2 * w + 1) v } from recode_nil _ h.2.2.2.2])
  · exact hmfsr (by decide) (by show (!e.st.tw) = true; rw [htw]; rfl) rfl h
  · exact gives_mfsr_cycle q h

end Sys2Proof.Machine
end

section
/-! Gates between the worlds and the return from an exception (R89, R339, R340). -/
namespace Sys2Proof.Machine

/-! ## g1 to g7 copied into the other world's bank -/

/-- A world's bank of general registers. -/
def Engine.bankOf (e : Engine) (tenant : Bool) : Tab W64 := if tenant then e.gT else e.gV

/-- The engine with new contents of a world's bank, and of its stored codes. -/
def Engine.withBank (e : Engine) (tenant : Bool) (g : Tab W64) (codes : Tab Nat) : Engine :=
  if tenant then { e with gT := g, codes := codes } else { e with gV := g, codes := codes }

/-- One register's step of the copy. -/
def copyArg (dest : Bool) (e : Engine) (i : Nat) : Engine :=
  let v := e.g (i + 1)
  if dest then Engine.recode { e with gT := e.gT.put (i + 1) v } [32 + i]
  else Engine.recode { e with gV := e.gV.put (i + 1) v } [1 + i]

theorem copyArgs_eq_foldl (e : Engine) (dest : Bool) : e.copyArgs dest = (List.range 7).foldl (copyArg dest) e := rfl

/-- `e'` is `e` but for its stored codes and g1 to gk of a world's bank, which are those of the other world's bank. -/
def CopiedArgs (dest : Bool) (k : Nat) (e e' : Engine) : Prop :=
  ∃ g c, e' = e.withBank dest g c ∧
    ∀ i, g.get i 0 = if 1 ≤ i ∧ i ≤ k then (e.bankOf !dest).get i 0 else (e.bankOf dest).get i 0

theorem copiedArgs_zero (dest : Bool) (e : Engine) : CopiedArgs dest 0 e e := by
  refine ⟨e.bankOf dest, e.codes, by cases dest <;> rfl, fun i => ?_⟩
  rw [if_neg (by omega)]

theorem g_of_low {e : Engine} {i : Nat} (h : i < 31) : e.g i = (e.bankOf e.st.tw).get i 0 := by
  unfold Engine.g Engine.bankOf
  rw [if_neg (by omega)]
  split <;> rfl

theorem withBank_st (e : Engine) (dest : Bool) (g : Tab W64) (c : Tab Nat) : (e.withBank dest g c).st = e.st := by
  cases dest <;> rfl

theorem withBank_bankOf_other (e : Engine) (dest : Bool) (g : Tab W64) (c : Tab Nat) :
    (e.withBank dest g c).bankOf (!dest) = e.bankOf (!dest) := by
  cases dest <;> rfl

theorem withBank_bankOf_same (e : Engine) (dest : Bool) (g : Tab W64) (c : Tab Nat) : (e.withBank dest g c).bankOf dest = g := by
  cases dest <;> rfl

theorem copiedArgs_succ {dest : Bool} {k : Nat} {e e' : Engine} (hk : k < 30) (htw : e.st.tw = !dest) (h : CopiedArgs dest k e e') :
    CopiedArgs dest (k + 1) e (copyArg dest e' k) := by
  obtain ⟨g, c, rfl, hg⟩ := h
  have hv : (e.withBank dest g c).g (k + 1) = (e.bankOf !dest).get (k + 1) 0 := by
    rw [g_of_low (by omega), withBank_st, htw, withBank_bankOf_other]
  refine ⟨g.put (k + 1) ((e.bankOf !dest).get (k + 1) 0), (copyArg dest (e.withBank dest g c) k).codes, ?_, fun i => ?_⟩
  · unfold copyArg
    dsimp only
    rw [hv]
    cases dest <;> rfl
  · by_cases hi : i = k + 1
    · rw [hi, Tab.get_put_same, if_pos (by omega)]
    · rw [Tab.get_put_ne _ _ _ _ _ hi, hg]
      exact if_congr (by omega) rfl rfl

/-- GCALL and RTE copy g1 to g7 into the other world's bank (R339, R340). -/
theorem copyArgs_copied {e : Engine} {dest : Bool} (htw : e.st.tw = !dest) : CopiedArgs dest 7 e (e.copyArgs dest) := by
  have hall : ∀ k ≤ 7, CopiedArgs dest k e ((List.range k).foldl (copyArg dest) e) := fun k hk => by
    induction k with
    | zero => exact copiedArgs_zero dest e
    | succ k ih =>
      rw [List.range_succ, List.foldl_append]
      exact copiedArgs_succ (by omega) htw (ih (by omega))
  rw [copyArgs_eq_foldl]
  exact hall 7 (le_refl 7)

theorem withBank_allows (e : Engine) (dest : Bool) (g : Tab W64) (c : Tab Nat) (level : Nat) (r : Right) (a len : Nat) :
    (e.withBank dest g c).allows level r a len = e.allows level r a len := by
  have hrg : (e.withBank dest g c).rg = e.rg := by cases dest <;> rfl
  unfold Engine.allows Engine.grants Engine.regionOf
  rw [hrg]

/-! ## GCALL -/

/-- The copy of the arguments that a gate makes does not matter to the entry's checks (R336). -/
theorem CopiedArgs.entrySp {dest tenant : Bool} {b : Block} {n : Nat} {e' : Engine} (h : CopiedArgs dest 7 (b.engine n) e')
    (d : Desc) : (b.setEngine n e').entrySp n d tenant = b.entrySp n d tenant := by
  obtain ⟨g, c, rfl, -⟩ := h
  unfold Block.entrySp
  rw [Block.setEngine_engine_same]
  cases dest <;> rfl

theorem CopiedArgs.canEnter {dest tenant : Bool} {b : Block} {n : PE} {e' : Engine} (h : CopiedArgs dest 7 (b.engine n) e')
    {d : Desc} (hc : CanEnter b n d tenant) : CanEnter (b.setEngine n e') n d tenant := by
  obtain ⟨hal, hwin, hallow, hbank⟩ := hc
  unfold CanEnter
  rw [h.entrySp]
  refine ⟨hal, hwin, ?_, (bankFault_setEngine ..).trans hbank⟩
  obtain ⟨g, c, rfl, -⟩ := h
  rw [Block.setEngine_engine_same, withBank_allows]
  exact hallow

section
variable {n : PE} {code : BitVec 24} {d : Desc} {b : Block} {s : State} (q : Quiet s n) (hlo : 32 ≤ code.toNat)
  (hhi : code.toNat < 2 ^ 8) (h : AtInstr s n (wordJ 0xA3 code))
  (hd : (s.blk.modEngine n Engine.noSkip).readDesc n code.toNat (!(s.blk.engine n).st.tw) = (b, .good d))
  (hgate : d.flags.testBit 2 = true) (huser : (s.blk.engine n).st.sup = true ∨ d.flags.testBit 3 = true)
include q hlo hhi h hd hgate huser

theorem execGcall_crosses :
    exec (.gcall n code) s = done s (b.crossGate n code.toNat d (nextPc (s.blk.engine n).pc 4)) := by
  obtain ⟨hfpt, -, hlk, -⟩ := id q
  have hok : d.gateOk code.toNat (s.blk.engine n).st.sup = true := by
    unfold Desc.gateOk Desc.gate Desc.guser
    rw [decide_eq_true hlo, hgate, Bool.true_and, Bool.true_and, Bool.or_eq_true]
    exact huser
  show execGcall n code s = _
  unfold execGcall
  rw [feis_at h, hlk, decide_eq_false (not_le.mpr hhi)]
  simp only [firstTrap, Bool.false_eq_true, if_false]
  rw [show (s.blk.engine n).noSkip.fpt = none from hfpt]
  simp only [Option.isSome_none, Bool.false_eq_true, if_false]
  rw [show (s.blk.engine n).noSkip.st = (s.blk.engine n).st from rfl, hd]
  dsimp only
  rw [hok, if_pos rfl]
  rfl

/-- GCALL through a valid gate enters the other world (R340). -/
theorem gives_gcall (hc : CanEnter b n d (!(s.blk.engine n).st.tw)) (hact : b.flag (R.ENG_LKSTAT_LKACT n) = false)
    (hst : (b.engine n).st = (s.blk.engine n).st) :
    let tw := (s.blk.engine n).st.tw
    let words := if tw then (nextPc (s.blk.engine n).pc 4 + bit (d.flags.testBit 4), (s.blk.engine n).st.word.toNat) else (0, 0)
    let b' := if d.flags.testBit 4 then b.setEngine n ((b.engine n).copyArgs (!tw)) else b
    Gives (.gcall n code) s (Entered b' n code.toNat d (!tw) words.1 words.2) := by
  intro tw words b'
  have htr : b'.tracing n = false := by
    have hb : b.tracing n = false := (readDesc_tracing hd).trans q.2.2.2
    simp only [b']
    split
    · exact hb
    · exact hb
  have hcan : CanEnter b' n d (!tw) := by
    simp only [b']
    split
    · exact (copyArgs_copied (by rw [hst, Bool.not_not])).canEnter hc
    · exact hc
  have hcross : b.crossGate n code.toNat d (nextPc (s.blk.engine n).pc 4) = b'.enterWith n code.toNat (!tw) d words.1 words.2 := by
    have hbreak : b.lockBreak n .exception = b := by
      unfold Block.lockBreak
      rw [hact]
      rfl
    unfold Block.crossGate
    dsimp only
    rw [hbreak, hst]
    rfl
  obtain ⟨t, ht, hent⟩ := enterWith_entered hcan htr s code.toNat words.1 words.2
  refine ⟨t, ?_, hent⟩
  rw [execGcall_crosses q hlo hhi h hd hgate huser, hcross]
  exact ht

end

/-! ## RTE -/

theorem bytes_add (m : Mem) (a i j : Nat) : m.bytes a (i + j) = m.bytes a i ++ m.bytes (a + i) j := by
  induction i generalizing a with
  | zero => simp [Mem.bytes]
  | succ i ih =>
    rw [Nat.succ_add, Mem.bytes, Mem.bytes, ih, List.cons_append, Nat.add_right_comm, Nat.add_assoc]

/-- The engine whose frame RTE pops, g1 to g7 copied where they cross (R339). -/
def Engine.crossed (e : Engine) (ra : Nat) (st : St) : Engine :=
  if ra.testBit 0 ∧ st.tw ≠ e.st.tw then e.copyArgs st.tw else e

theorem crossed_copied {e : Engine} {ra : Nat} {st : St} (h : ra.testBit 0 = true ∧ st.tw ≠ e.st.tw) :
    CopiedArgs st.tw 7 e (e.crossed ra st) := by
  unfold Engine.crossed
  rw [if_pos h]
  exact copyArgs_copied (by revert h; cases st.tw <;> cases e.st.tw <;> simp)

theorem crossed_facts (e : Engine) (ra : Nat) (st : St) :
    (e.crossed ra st).sp = e.sp ∧ (e.crossed ra st).vr = e.vr ∧ (e.crossed ra st).bankOf e.st.tw = e.bankOf e.st.tw := by
  by_cases h : ra.testBit 0 = true ∧ st.tw ≠ e.st.tw
  · obtain ⟨g, c, he, -⟩ := crossed_copied h
    have htw : e.st.tw = !st.tw := by revert h; cases st.tw <;> cases e.st.tw <;> simp
    rw [he, htw, withBank_bankOf_other]
    refine ⟨?_, ?_, rfl⟩
    · cases st.tw <;> rfl
    · cases st.tw <;> rfl
  · unfold Engine.crossed
    rw [if_neg h]
    exact ⟨rfl, rfl, rfl⟩

/-- The engine after RTE (R339). -/
theorem popFrame_facts (e : Engine) (ra : Nat) (st : St) :
    let e' := e.popFrame ra st
    e'.pc = BitVec.ofNat 48 (ra / 4 * 4) ∧ e'.st = st ∧ e'.sp = e.sp.put e.st.level (e.sp.get e.st.level 0 + 16) ∧ e'.ibuf = [] ∧
      e'.hold = .fetch ∧ e'.vr = e.vr ∧ ∀ w, e'.bankOf w = (e.crossed ra st).bankOf w := by
  obtain ⟨hsp, hvr, -⟩ := crossed_facts e ra st
  refine ⟨rfl, rfl, ?_, rfl, rfl, hvr, fun w => rfl⟩
  show (e.crossed ra st).sp.put _ _ = _
  rw [hsp]

theorem traceCount_of_not_tracing {b : Block} {n : Nat} (h : b.tracing n = false) : b.traceCount n = b := by
  unfold Block.traceCount
  rw [h]
  rfl

theorem isPmc_monitor (n : Nat) : isPmc n (R.ENG_DBGSTAT_MONITOR n) = false := by
  simp [isPmc, Fld.key, R.ENG_DBGSTAT_MONITOR, R.ENG_PMCTL_OVF, R.ENG_PMC_COUNT, List.range, List.range.loop]
  omega

theorem KeepsEngRegs.monitor {b b' : Block} (h : KeepsEngRegs b b') (n : PE) :
    b'.flag (R.ENG_DBGSTAT_MONITOR n) = b.flag (R.ENG_DBGSTAT_MONITOR n) := by
  have := n.isLt
  refine congrArg (· != 0) (h _ ?_)
  simp only [IsEngReg, Fld.key, R.ENG_DBGSTAT_MONITOR]
  omega

section
variable {n : PE} {k : Nat} {s : State} (q : Quiet s n) (h : AtInstr s n (wordJ 0xA4 0))
  (hb : AtBank s n [.read] (((s.blk.engine n).g 31).toNat % 2 ^ 48) 16 k) (hsup : (s.blk.engine n).st.sup = true)
include q h hb hsup

/-- RTE pops the frame that it reads (R339). -/
theorem gives_rte {ra sw : Nat} (hra : leNat (s.blk.mem.bytes (((s.blk.engine n).g 31).toNat % 2 ^ 48) 8) = ra)
    (hsw : leNat (s.blk.mem.bytes (((s.blk.engine n).g 31).toNat % 2 ^ 48 + 8) 8) = sw) (hbit : ra.testBit 1 = false)
    (hworld : (s.blk.engine n).st.tw = true → (St.ofWord (BitVec.ofNat 64 sw)).tw = true)
    (hmon : s.blk.flag (R.ENG_DBGSTAT_MONITOR n) = false) :
    Gives (.rte n 0 .clean) s fun t =>
      t.blk.engine n = (s.blk.engine n).noSkip.popFrame (ra % 2 ^ 48) (St.ofWord (BitVec.ofNat 64 sw)) ∧ t.blk.mem = s.blk.mem ∧
        ∀ m : Nat, m ≠ n.val → t.blk.engine m = s.blk.engine m := by
  obtain ⟨hfpt, hss, hlk, htr⟩ := id q
  obtain ⟨ht, hin, hcheck, hwait, hlines⟩ := hb
  have hk : k < 64 := target_carafe_lt ht
  let a := ((s.blk.engine n).g 31).toNat % 2 ^ 48
  let st := St.ofWord (BitVec.ofNat 64 sw)
  let e := (s.blk.engine n).noSkip
  let b0 := s.blk.modEngine n Engine.noSkip
  let b1 := (Turned b0 n k).modEngine n fun e => e.popFrame (ra % 2 ^ 48) st
  let b2 := (b1.countEng n 0x03).countEng n 0x0D
  have hload : (s.blk.modEngine n Engine.noSkip).load n (((s.blk.engine n).g 31).toNat % 2 ^ 48) 16 false .clean =
      (Turned b0 n k, .ok (s.blk.mem.bytes a 16)) :=
    load_within (b := b0) ht hin (by decide) ⟨hwait, hlines⟩ false
  have hbytes : s.blk.mem.bytes a 16 = s.blk.mem.bytes a 8 ++ s.blk.mem.bytes (a + 8) 8 := bytes_add _ a 8 8
  have htake : (s.blk.mem.bytes a 16).take 8 = s.blk.mem.bytes a 8 := by
    rw [hbytes, List.take_left' (Mem.length_bytes ..)]
  have hdrop : (s.blk.mem.bytes a 16).drop 8 = s.blk.mem.bytes (a + 8) 8 := by
    rw [hbytes, List.drop_left' (Mem.length_bytes ..)]
  have o : OnlyPmc n b1 b2 := (countEng_only b1 n 0x03).trans (countEng_only _ n 0x0D)
  have hkeep : KeepsEngRegs s.blk b1 := Turned_keepsEngRegs b0 n hk
  have htr2 : b2.tracing n = false := o.tracing.trans ((hkeep.tracing n).trans htr)
  have hmon2 : b2.flag (R.ENG_DBGSTAT_MONITOR n) = false := by
    rw [o.flag _ (isPmc_monitor n), hkeep.monitor n]
    exact hmon
  have hcross : ¬((s.blk.engine n).noSkip.st.tw && !st.tw) = true := by
    rw [Bool.and_eq_true, Bool.not_eq_true']
    exact fun hx => Bool.noConfusion ((hworld hx.1).symm.trans hx.2)
  have hrun : exec (.rte n 0 .clean) s = done s b2 := by
    show execRte n 0 .clean s = _
    unfold execRte
    rw [feis_at h, hlk]
    simp only [show (s.blk.engine n).noSkip.st.sup = true from hsup, Bool.not_true, bne_self_eq_false, firstTrap, Bool.false_eq_true,
      if_false]
    rw [show (s.blk.engine n).noSkip.fpt = none from hfpt]
    simp only [Option.isSome_none, Bool.false_eq_true, if_false]
    rw [check_noSkip, show (s.blk.engine n).noSkip.g 31 = (s.blk.engine n).g 31 from rfl, hcheck, hload]
    dsimp only
    rw [htake, hdrop, hra, hsw, hbit, if_neg Bool.false_ne_true, if_neg hcross, traceCount_of_not_tracing htr2,
      emitFlow_of_not_tracing htr2, hmon2]
    simp only [Bool.false_and, Bool.false_eq_true, if_false]
    rw [show (s.blk.engine n).noSkip.st.ss = false from hss]
    rfl
  refine ⟨_, hrun.trans (done_next s b2), ?_, ?_, fun m hm => ?_⟩
  · show b2.engine n = _
    rw [o.engine n, Block.modEngine_engine_same, Turned_engine, Block.modEngine_engine_same]
  · show b2.mem = _
    rw [o.mem, Block.modEngine_mem, Turned_mem]
    rfl
  · show b2.engine m = _
    rw [o.engine m, Block.modEngine_engine_ne _ _ _ _ hm, Turned_engine, Block.modEngine_engine_ne _ _ _ _ hm]

end

/-- The bank of general registers of the world that a gate leaves. -/
def ownBank (tw : Bool) (q : Engine) : Tab W64 := if !tw then q.gV else q.gT

theorem ownBank_eq (tw : Bool) (q : Engine) : ownBank tw q = q.bankOf tw := by cases tw <;> rfl

theorem bankOf_congr {e e' : Engine} (hV : e'.gV = e.gV) (hT : e'.gT = e.gT) (w : Bool) : e'.bankOf w = e.bankOf w := by
  unfold Engine.bankOf
  rw [hV, hT]

/-- What the other world's bank holds after the copy, where one is made. -/
theorem CopiedArgs.banks {dest : Bool} {e e' : Engine} (h : CopiedArgs dest 7 e e') :
    e'.bankOf (!dest) = e.bankOf (!dest) ∧
      ∀ i, (e'.bankOf dest).get i 0 = if 1 ≤ i ∧ i ≤ 7 then (e.bankOf !dest).get i 0 else (e.bankOf dest).get i 0 := by
  obtain ⟨g, c, rfl, hg⟩ := h
  exact ⟨withBank_bankOf_other .., fun i => by rw [withBank_bankOf_same, hg]⟩

/-- The engine at a gate's entry has the arguments copied where the gate says so. -/
theorem crossed_banks {b : Block} {n : Nat} {tw xarg : Bool} (hst : (b.engine n).st.tw = tw) :
    let e' := (if xarg then b.setEngine n ((b.engine n).copyArgs (!tw)) else b).engine n
    e'.bankOf tw = (b.engine n).bankOf tw ∧ ∀ i, (e'.bankOf (!tw)).get i 0 =
      if xarg = true ∧ 1 ≤ i ∧ i ≤ 7 then ((b.engine n).bankOf tw).get i 0 else ((b.engine n).bankOf (!tw)).get i 0 := by
  cases xarg with
  | true =>
    obtain ⟨hown, hother⟩ := (copyArgs_copied (e := b.engine n) (dest := !tw) (by rw [hst, Bool.not_not])).banks
    rw [Bool.not_not] at hown hother
    simp only [if_true, Block.setEngine_engine_same, true_and]
    exact ⟨hown, hother⟩
  | false => exact ⟨rfl, fun i => rfl⟩

/-- What an entry at the block with the arguments copied says of the block without. -/
theorem entered_crossed {b : Block} {n : PE} {v ra sw : Nat} {d : Desc} {tw xarg : Bool} {t : State} (hst : (b.engine n).st.tw = tw)
    (h : Entered (if xarg then b.setEngine n ((b.engine n).copyArgs (!tw)) else b) n v d (!tw) ra sw t) :
    (∀ k, b.target (pushAddr (b.entrySp n d (!tw))) = .carafe k → ∃ l p, (t.blk.bankAt k).waiting =
      l ++ [{ b.engReq n .write (pushAddr (b.entrySp n d (!tw))) 16 (leBytes ra 8 ++ leBytes sw 8) 0 .none 0 false with
        place := p }]) ∧ t.blk.mem = b.mem := by
  have hcopied : CopiedArgs (!tw) 7 (b.engine n) ((b.engine n).copyArgs (!tw)) := copyArgs_copied (by rw [hst, Bool.not_not])
  obtain ⟨hwait, -, -, -, -, -, -, -, -, -, -, -, -, -, hmem, -⟩ := h
  cases xarg with
  | true =>
    simp only [if_true, hcopied.entrySp] at hwait hmem
    exact ⟨hwait, hmem⟩
  | false => exact ⟨hwait, hmem⟩

/-- Settles O18. -/
theorem gatesAndReturn : Obligations.GatesAndReturn := by
  unfold Obligations.GatesAndReturn
  refine ⟨fun n code d b s q hhi hlo h => ?_, fun n k s q h => ?_⟩
  · intro e dest hd hc hgate huser _ hact xarg words hst
    refine (gives_gcall q hlo hhi h hd hgate huser hc hact hst).mono fun t hent => ?_
    obtain ⟨hwait, hmem⟩ := entered_crossed (congrArg St.tw hst) hent
    obtain ⟨-, hpc, hst', -, hV, hT, -⟩ := hent
    obtain ⟨hown, hother⟩ := crossed_banks (xarg := d.flags.testBit 4) (congrArg St.tw hst)
    have hbank := bankOf_congr hV hT
    intro other own
    refine ⟨hpc, hst', ?_, fun i _ => ?_, hmem, hwait⟩
    · show ownBank _ _ = ownBank _ _
      rw [ownBank_eq, ownBank_eq, hbank]
      exact hown
    · show ((t.blk.engine n).bankOf (!e.st.tw)).get i 0 =
        if _ then (ownBank e.st.tw (b.engine n)).get i 0 else ((b.engine n).bankOf (!e.st.tw)).get i 0
      rw [hbank, hother, ownBank_eq]
  · intro e sp a ra st hb hsup hbit hworld hmon
    refine (gives_rte q h hb hsup rfl rfl hbit hworld hmon).mono fun t ht => ?_
    obtain ⟨he, hmem, hoth⟩ := ht
    obtain ⟨hpc, hst, hsp, hib, hhold, hvr, hbank⟩ := popFrame_facts e.noSkip (ra % 2 ^ 48) st
    obtain ⟨-, -, hown⟩ := crossed_facts e.noSkip (ra % 2 ^ 48) st
    rw [← he] at hpc hst hsp hib hhold hvr hbank
    intro e' crosses other own
    refine ⟨hpc, hst, hsp, hib, hhold, (hbank _).trans hown, fun i _ => ?_, hvr, hmem, hoth⟩
    show ((t.blk.engine n).bankOf st.tw).get i 0 = if crosses ∧ 1 ≤ i ∧ i ≤ 7 then (e.bankOf e.st.tw).get i 0
      else (e.bankOf st.tw).get i 0
    have hbit0 : (ra % 2 ^ 48).testBit 0 = ra.testBit 0 := by simp
    rw [hbank]
    by_cases hx : crosses
    · have hcopied := crossed_copied (e := e.noSkip) (ra := ra % 2 ^ 48) (st := st) ⟨hbit0.trans hx.1, hx.2⟩
      have htw : (!st.tw) = e.st.tw := Bool.not_eq.mpr hx.2
      obtain ⟨-, hother⟩ := hcopied.banks
      rw [hother, htw]
      exact if_congr (by simp [hx]) rfl rfl
    · unfold Engine.crossed
      rw [hbit0, if_neg (show ¬(ra.testBit 0 = true ∧ st.tw ≠ e.noSkip.st.tw) from hx), if_neg (fun h => hx h.1)]
      rfl

end Sys2Proof.Machine
end

section
/-! Floating-point arithmetic: how an instruction ends, and values of sums, products and selections (R86, R113 to R124). -/
namespace Sys2Proof.Machine

/-! ## The end of a floating-point instruction (R120) -/

theorem setG_ftpc (e : Engine) (i : Nat) (v : W64) : (e.setG i v).ftpc = e.ftpc := by
  unfold Engine.setG
  split
  · rfl
  · split <;> rfl

/-- The flags that an instruction raises, as they stand after its own count. -/
theorem raiseFp_counted {e p : Engine} (hst : p.st = e.st) (he : e.fpt = none) (hp : p.fpt = none) (hftpc : p.ftpc = e.ftpc)
    (fl : FpFlags) : (p.noSkip.raiseFp e.pc fl).fpCount true = (fpEnds (fun _ => p) fl e).noSkip := by
  have hst' : p.noSkip.st = e.st := hst
  have hp' : p.noSkip.fpt = none := hp
  have hftpc' : p.noSkip.ftpc = e.ftpc := hftpc
  unfold Engine.raiseFp fpEnds
  simp only [hst', hp', hftpc', he, Option.isNone_none, and_true]
  by_cases hfen : fl &&& e.st.fen ≠ 0
  · rw [if_pos hfen, if_pos hfen, hst]
    rfl
  · rw [if_neg hfen, if_neg hfen]
    refine (fpCount_none true rfl).trans ?_
    simp only [Engine.noSkip, hst, hp, hftpc]

section
variable {c : Instr} {s : State} {n : PE} {op : Nat} {d a b : BitVec 5} {x : BitVec 9}

/-- A well-encoded floating-point instruction with a result in D ends so (R86, R120). -/
theorem gives_fpResult {r : Engine → Nat × FpFlags} (hx : exec c s = done s (s.blk.fpOp n op d a b x (fun _ => xOver x 2) fun e =>
      e.fpResult d (r e))) (hover : xOver x 2 = false) (hfmt : (xFmt x == 3) = false) (hr : ∀ e, r e.noSkip = r e)
    (q : Quiet s n) (h : AtInstr s n (wordR op d a b x)) :
    Gives c s (Retired s n (nextPc (s.blk.engine n).pc 4)
      (fpEnds (fun p => p.setG d.toNat (BitVec.ofNat 64 (r (s.blk.engine n)).1)) (r (s.blk.engine n)).2)) := by
  obtain ⟨hfpt, hss, hlk, htr⟩ := id q
  obtain ⟨-, -, -, -, hcode⟩ := id h
  let e := s.blk.engine n
  let p := e.setG d.toNat (BitVec.ofNat 64 (r e).1)
  let g := fpEnds (fun p => p.setG d.toNat (BitVec.ofNat 64 (r e).1)) (r e).2
  let b1 := (s.blk.modEngine n Engine.noSkip).setEngine n (p.noSkip.raiseFp e.pc (r e).2)
  have he1 : b1.engine n = p.noSkip.raiseFp e.pc (r e).2 := Block.setEngine_engine_same ..
  have hcount : (b1.engine n).fpCount true = (g e).noSkip := by
    rw [he1]
    exact raiseFp_counted (setG_st ..) hfpt ((setG_fpt ..).trans hfpt) (setG_ftpc ..) _
  have hcode1 : (b1.engine n).codes = [] := by
    rw [he1]
    unfold Engine.raiseFp
    dsimp only
    split <;> exact setG_codes _ _ hcode
  have hdue : ((b1.engine n).fpCount true).fpTrapDue = false := by
    rw [hcount]
    show Engine.fpTrapDue (g e) = false
    simp only [g, fpEnds]
    split
    · rfl
    · unfold Engine.fpTrapDue
      rw [show ({ p with st := _ } : Engine).fpt = none from (setG_fpt ..).trans hfpt]
  obtain ⟨t, ht, ⟨hpc, hcore, hoth, hpmc⟩, hpend⟩ := finish_ended b1 n e.noSkip (nextPc e.pc 4) true false hdue hss hcode1 hlk htr s rfl
  refine ⟨t, ?_, ⟨hpc, ?_, fun m hm => ?_, hpmc⟩, hpend⟩
  · rw [hx, ← ht]
    unfold Block.fpOp
    rw [feis_at h, hover, hfmt]
    simp only [Bool.or_self, Bool.false_eq_true, if_false]
    rw [hr]
    unfold Engine.fpResult
    rw [setG_noSkip]
    rfl
  · rw [hcore, Block.setEngine_engine_same, hcount, Block.setEngine_engine_same]
    rfl
  · rw [hoth m hm, Block.setEngine_engine_ne _ _ _ _ hm, Block.setEngine_engine_ne _ _ _ _ hm, Block.modEngine_engine_ne _ _ _ _ hm,
      Block.setEngine_engine_ne _ _ _ _ hm]

end

theorem xFmt_ofNat (fmt : Fin 3) : xFmt (BitVec.ofNat 9 fmt.val) = fmt.val := by decide +revert

theorem xOver_ofNat (fmt : Fin 3) : xOver (BitVec.ofNat 9 fmt.val) 2 = false := by decide +revert

theorem xFmt_ne_three (fmt : Fin 3) : (xFmt (BitVec.ofNat 9 fmt.val) == 3) = false := by decide +revert

/-! ## Reading an operand (R112, R116) -/

/-- An encoding is a NaN. -/
def fpIsNaN (f v : Nat) : Bool := decide (fpExp f v = fpEmax f) && decide (fpFrac f v ≠ 0)

theorem fpEmax_pos (f : Nat) : 0 < fpEmax f := Nat.succ_pos _

theorem fpP_ge (f : Nat) : 11 ≤ fpP f := by
  unfold fpP
  split
  · exact le_refl _
  · split <;> decide

theorem fpVal_zero (f : Fin 3) (s : Bool) :
    fpVal f (fpZero f s) = .num s 0 (1 - (fpBias f : Int) - (fpP f - 1 : Nat)) := by
  revert f s
  decide

/-- An operand that FZ leaves alone is read as it is encoded. -/
theorem fpFlush_of_not {f v : Nat} {env : FpEnv} (hv : v < 2 ^ fpW f) (h : env.fz = false ∨ fpSubnormal f v = false) :
    fpFlush f env v = v := by
  have hno : (env.fz && fpSubnormal f v) = false := by
    rcases h with h | h
    · rw [h, Bool.false_and]
    · rw [h, Bool.and_false]
  unfold fpFlush
  rw [hno, if_neg Bool.false_ne_true, Nat.mod_eq_of_lt hv]

theorem fpSubnormal_of_exp {f v : Nat} (h : fpExp f v ≠ 0) : fpSubnormal f v = false := by
  unfold fpSubnormal
  rw [beq_eq_false_iff_ne.mpr h, Bool.false_and]

/-- A read operand is its encoding's value, or a zero where FZ flushes a subnormal. -/
theorem fpRead_cases (f : Fin 3) (env : FpEnv) {v : Nat} (hv : v < 2 ^ fpW f) :
    fpRead f env v = fpVal f v ∨
      fpExp f v = 0 ∧ ∃ s, fpRead f env v = .num s 0 (1 - (fpBias f : Int) - (fpP f - 1 : Nat)) := by
  by_cases h : env.fz = false ∨ fpSubnormal f v = false
  · left
    unfold fpRead
    rw [fpFlush_of_not hv h]
  · right
    simp only [not_or, Bool.not_eq_false] at h
    obtain ⟨hfz, hsub⟩ := h
    have hexp : fpExp f v = 0 := by
      unfold fpSubnormal at hsub
      rw [Bool.and_eq_true, beq_iff_eq] at hsub
      exact hsub.1
    refine ⟨hexp, fpSign f v, ?_⟩
    unfold fpRead fpFlush
    rw [hfz, hsub, Bool.and_self, if_pos rfl, fpVal_zero]

theorem fpVal_isNaN (f v : Nat) : (fpVal f v).isNaN = fpIsNaN f v := by
  unfold fpVal fpIsNaN
  by_cases hexp : fpExp f v = fpEmax f
  · by_cases hfrac : fpFrac f v = 0
    · simp [hexp, hfrac, FpVal.isNaN]
    · simp [hexp, hfrac, FpVal.isNaN]
  · rw [if_neg hexp, decide_eq_false hexp, Bool.false_and]
    split <;> rfl

theorem fpFrac_testBit (f v : Nat) : (fpFrac f v).testBit (fpP f - 2) = v.testBit (fpP f - 2) := by
  have := fpP_ge f
  unfold fpFrac
  rw [Nat.testBit_mod_two_pow, decide_eq_true (by omega), Bool.true_and]

theorem fpVal_isSig (f v : Nat) : (fpVal f v).isSig = (fpIsNaN f v && !v.testBit (fpP f - 2)) := by
  rw [← fpFrac_testBit]
  unfold fpVal fpIsNaN
  by_cases hexp : fpExp f v = fpEmax f
  · by_cases hfrac : fpFrac f v = 0
    · simp [hexp, hfrac, FpVal.isSig]
    · simp [hexp, hfrac, FpVal.isSig]
  · rw [if_neg hexp, decide_eq_false hexp, Bool.false_and, Bool.false_and]
    split <;> rfl

theorem fpIsNaN_of_exp_zero {f v : Nat} (h : fpExp f v = 0) : fpIsNaN f v = false := by
  unfold fpIsNaN
  rw [h, decide_eq_false (fpEmax_pos f).ne, Bool.false_and]

section
variable (f : Fin 3) (env : FpEnv) {v : Nat} (hv : v < 2 ^ fpW f)
include hv

theorem fpRead_isNaN : (fpRead f env v).isNaN = fpIsNaN f v := by
  obtain h | ⟨hexp, s, h⟩ := fpRead_cases f env hv
  · rw [h, fpVal_isNaN]
  · rw [h, fpIsNaN_of_exp_zero hexp]
    rfl

theorem fpRead_isSig : (fpRead f env v).isSig = (fpIsNaN f v && !v.testBit (fpP f - 2)) := by
  obtain h | ⟨hexp, s, h⟩ := fpRead_cases f env hv
  · rw [h, fpVal_isSig]
  · rw [h, fpIsNaN_of_exp_zero hexp]
    rfl

/-- A finite operand is read as a number. -/
theorem fpRead_finite (hfin : fpExp f v < fpEmax f) : ∃ s m e, fpRead f env v = .num s m e := by
  obtain h | ⟨-, s, h⟩ := fpRead_cases f env hv
  · rw [h]
    unfold fpVal
    rw [if_neg hfin.ne]
    split
    · exact ⟨_, _, _, rfl⟩
    · exact ⟨_, _, _, rfl⟩
  · exact ⟨_, _, _, h⟩

end

theorem fpRead_inf (f : Fin 3) (env : FpEnv) (s : Bool) : fpRead f env (fpInf f s) = .inf s := by
  have hval : fpVal f (fpInf f s) = .inf s := by decide +revert
  have hlt : fpInf f s < 2 ^ fpW f := by decide +revert
  have hsub : fpSubnormal f (fpInf f s) = false := by decide +revert
  unfold fpRead
  rw [fpFlush_of_not hlt (.inr hsub), hval]

/-! ## Sums (R114, R119) -/

theorem fpSum_nan_left (f : Nat) (env : FpEnv) {x y : FpVal} (h : x.isNaN = true) (nv : Bool) :
    fpSum f env x y nv = (fpNaN f, flagIf nv fNV) := by
  cases x with
  | nan _ => rfl
  | inf _ => cases h
  | num _ _ _ => cases h

theorem fpSum_nan_right (f : Nat) (env : FpEnv) {x y : FpVal} (h : y.isNaN = true) (nv : Bool) :
    fpSum f env x y nv = (fpNaN f, flagIf nv fNV) := by
  cases y with
  | nan _ => cases x <;> rfl
  | inf _ => cases h
  | num _ _ _ => cases h

theorem exactSum_comm (s t : Bool) (m k : Nat) (e g : Int) : exactSum s m e t k g = exactSum t k g s m e := by
  unfold exactSum
  dsimp only
  rw [min_comm g e, add_comm (if t then _ else _)]

theorem fpSum_comm (f : Nat) (env : FpEnv) (x y : FpVal) (nv : Bool) : fpSum f env x y nv = fpSum f env y x nv := by
  cases x with
  | nan s => rw [fpSum_nan_left f env rfl, fpSum_nan_right f env rfl]
  | inf s =>
    cases y with
    | nan t => rfl
    | inf t => cases s <;> cases t <;> rfl
    | num t k g => rfl
  | num s m e =>
    cases y with
    | nan t => rfl
    | inf t => rfl
    | num t k g =>
      unfold fpSum
      dsimp only
      by_cases h : m = 0 ∧ k = 0 ∧ s = t
      · rw [if_pos h, if_pos ⟨h.2.1, h.1, h.2.2.symm⟩, h.2.2]
      · rw [if_neg h, if_neg (show ¬(k = 0 ∧ m = 0 ∧ t = s) from fun h' => h ⟨h'.2.1, h'.1, h'.2.2.symm⟩), exactSum_comm]

/-- A number less itself is a zero with the sign that the rounding mode gives (R119). -/
theorem fpSum_neg_self (f : Nat) (env : FpEnv) (s : Bool) (m : Nat) (e : Int) (nv : Bool) :
    fpSum f env (.num s m e) (.num (!s) m e) nv = (fpZero f (env.rm == 2), 0) := by
  have hne : ¬(m = 0 ∧ m = 0 ∧ s = !s) := fun h => by cases s <;> cases h.2.2
  have hzero : (exactSum s m e (!s) m e).1 = 0 := by
    unfold exactSum
    cases s <;> simp
  unfold fpSum zeroSumSign
  dsimp only
  rw [if_neg hne, if_pos hzero]

/-! ## Products (R114) -/

theorem fpProduct_comm {x y : FpVal} (hx : x.isNaN = false) (hy : y.isNaN = false) : fpProduct x y = fpProduct y x := by
  cases x with
  | nan s => cases hx
  | inf s =>
    cases y with
    | nan t => cases hy
    | inf t => simp only [fpProduct, bne_comm (a := s)]
    | num t k g => simp only [fpProduct, bne_comm (a := s)]
  | num s m e =>
    cases y with
    | nan t => cases hy
    | inf t => simp only [fpProduct, bne_comm (a := s)]
    | num t k g => simp only [fpProduct, bne_comm (a := s), Nat.mul_comm m, Int.add_comm e]

theorem fpMul_comm (f : Nat) (env : FpEnv) {u v : Nat} (hu : (fpRead f env u).isNaN = false) (hv : (fpRead f env v).isNaN = false) :
    fpMul f env u v = fpMul f env v u := by
  unfold fpMul
  dsimp only
  rw [fpProduct_comm hu hv, Bool.or_comm (fpRead f env u).isSig]

/-! ## A product by 1 (R113, R116, R118) -/

/-- A shift that loses no bit rounds nothing. -/
theorem roundShift_exact (rm : Nat) (s : Bool) (m k : Nat) (hk : 0 < k) : roundShift rm s (m * 2 ^ k) k = (m, false) := by
  have hpos : ¬(k : Int) ≤ 0 := by omega
  unfold roundShift
  rw [if_neg hpos, Int.toNat_natCast]
  dsimp only
  rw [Nat.mul_mod_left, Nat.mul_div_cancel _ (Nat.two_pow_pos k)]
  match rm with
  | 0 => simp [(Nat.two_pow_pos k).ne]
  | 1 => rfl
  | 2 => simp
  | rm + 3 => simp

theorem log2_mul_two_pow {m : Nat} (hm : m ≠ 0) (k : Nat) : Nat.log2 (m * 2 ^ k) = Nat.log2 m + k := by
  have hpos := Nat.two_pow_pos k
  rw [Nat.log2_eq_iff (Nat.mul_ne_zero hm hpos.ne'), pow_add, Nat.add_right_comm, pow_add]
  exact ⟨Nat.mul_le_mul_right _ (Nat.log2_self_le hm), Nat.mul_lt_mul_of_pos_right Nat.lt_log2_self hpos⟩

section
variable {f m : Nat} {e : Int} (env : FpEnv) (s : Bool)

/-- A normal number, given at half its scale, rounds to itself. -/
theorem fpRound_normal (hlo : 2 ^ (fpP f - 1) ≤ m) (hhi : m < 2 ^ fpP f) (hmin : 1 - (fpBias f : Int) ≤ e + (fpP f - 1 : Nat))
    (hmax : e + (fpP f - 1 : Nat) ≤ fpBias f) :
    fpRound f env s (m * 2 ^ (fpP f - 1)) (e - (fpP f - 1 : Nat)) false =
      (fpZero f s + (e + (fpP f - 1 : Nat) + fpBias f).toNat * 2 ^ (fpP f - 1) + (m - 2 ^ (fpP f - 1)), 0) := by
  have hp := fpP_ge f
  have hm : m ≠ 0 := by
    have := Nat.two_pow_pos (fpP f - 1)
    omega
  have hM : 2 * (m * 2 ^ (fpP f - 1)) + bit false = m * 2 ^ fpP f := by
    rw [show 2 ^ fpP f = 2 ^ (fpP f - 1) * 2 from by rw [← pow_succ]; congr 1; omega]
    simp only [bit, Bool.false_eq_true, if_false]
    ring
  have hL : Nat.log2 m = fpP f - 1 := (Nat.log2_eq_iff hm).mpr ⟨hlo, by rwa [Nat.sub_add_cancel (by omega)]⟩
  unfold fpRound
  dsimp only
  rw [hM, log2_mul_two_pow hm, hL, show ((fpP f - 1 + fpP f + 1 : Nat) : Int) - (fpP f : Int) = (fpP f : Nat) by omega,
    roundShift_exact _ _ _ _ (by omega), if_neg (show ¬((fpP f : Nat) : Int) ≤ 0 by omega)]
  dsimp only
  rw [beq_eq_false_iff_ne.mpr hhi.ne]
  simp only [Bool.false_eq_true, if_false, add_zero]
  rw [show e - ((fpP f - 1 : Nat) : Int) - 1 + (fpP f : Int) + (fpP f : Int) - 1 = e + ((fpP f - 1 : Nat) : Int) by omega,
    if_neg (not_lt.mpr hmin), if_neg (not_lt.mpr hmax)]
  rfl

/-- A subnormal number, given at half its scale, rounds to itself where FZ is 0. -/
theorem fpRound_subnormal (hm : m ≠ 0) (hhi : m < 2 ^ (fpP f - 1)) (hfz : env.fz = false) :
    fpRound f env s (m * 2 ^ (fpP f - 1)) (1 - (fpBias f : Int) - (fpP f - 1 : Nat) - (fpP f - 1 : Nat)) false =
      (fpZero f s + m, 0) := by
  have hp := fpP_ge f
  have hM : 2 * (m * 2 ^ (fpP f - 1)) + bit false = m * 2 ^ fpP f := by
    rw [show 2 ^ fpP f = 2 ^ (fpP f - 1) * 2 from by rw [← pow_succ]; congr 1; omega]
    simp only [bit, Bool.false_eq_true, if_false]
    ring
  have hL : Nat.log2 m < fpP f - 1 := (Nat.log2_lt hm).mpr hhi
  have hlt : m < 2 ^ (Nat.log2 m + 1) := Nat.lt_log2_self
  have hq : m * 2 ^ (fpP f - 1 - Nat.log2 m) < 2 ^ fpP f := by
    calc m * 2 ^ (fpP f - 1 - Nat.log2 m) < 2 ^ (Nat.log2 m + 1) * 2 ^ (fpP f - 1 - Nat.log2 m) :=
          Nat.mul_lt_mul_of_pos_right hlt (Nat.two_pow_pos _)
      _ = 2 ^ fpP f := by rw [← pow_add]; congr 1; omega
  have hround : roundShift env.rm s (m * 2 ^ fpP f) ((Nat.log2 m + 1 : Nat) : Int) = (m * 2 ^ (fpP f - 1 - Nat.log2 m), false) := by
    rw [show m * 2 ^ fpP f = m * 2 ^ (fpP f - 1 - Nat.log2 m) * 2 ^ (Nat.log2 m + 1) by rw [mul_assoc, ← pow_add]; congr 2; omega]
    exact roundShift_exact _ _ _ _ (by omega)
  unfold fpRound
  dsimp only
  rw [hM, log2_mul_two_pow hm, show ((Nat.log2 m + fpP f + 1 : Nat) : Int) - (fpP f : Int) = ((Nat.log2 m + 1 : Nat) : Int) by omega,
    hround, if_neg (show ¬((Nat.log2 m + 1 : Nat) : Int) ≤ 0 by omega)]
  dsimp only
  rw [beq_eq_false_iff_ne.mpr hq.ne]
  simp only [Bool.false_eq_true, if_false, add_zero]
  rw [if_pos (by omega), hfz, if_neg Bool.false_ne_true,
    show 1 - (fpBias f : Int) - ((fpP f - 1 : Nat) : Int) -
      (1 - (fpBias f : Int) - ((fpP f - 1 : Nat) : Int) - ((fpP f - 1 : Nat) : Int) - 1) = ((fpP f : Nat) : Int) by omega,
    roundShift_exact _ _ _ _ (by omega)]
  rfl

end

theorem bit_eq_toNat (b : Bool) : bit b = b.toNat := by cases b <;> rfl

theorem fpP_lt_fpW (f : Fin 3) : fpP f < fpW f := by decide +revert

/-- An encoding from its fields (R112). -/
theorem fpFields (f : Fin 3) {v : Nat} (hv : v < 2 ^ fpW f) :
    fpZero f (fpSign f v) + fpExp f v * 2 ^ (fpP f - 1) + fpFrac f v = v := by
  have hp := fpP_ge f
  have hw := fpP_lt_fpW f
  have hpow : 2 ^ (fpW f - 1) = 2 ^ (fpP f - 1) * 2 ^ (fpW f - fpP f) := by
    rw [← pow_add]
    congr 1
    omega
  have htop : 2 ^ fpW f = 2 ^ (fpW f - 1) * 2 := by
    rw [← pow_succ]
    congr 1
    omega
  have hmod : v % (2 ^ (fpW f - 1) * 2) = v := Nat.mod_eq_of_lt (htop ▸ hv)
  unfold fpZero fpSign fpExp fpFrac bitsOf
  rw [bit_eq_toNat, Nat.toNat_testBit]
  conv_rhs => rw [← hmod, Nat.mod_mul, hpow, Nat.mod_mul, ← hpow]
  ring

theorem fpExp_lt (f : Fin 3) (v : Nat) : fpFrac f v < 2 ^ (fpP f - 1) := Nat.mod_lt _ (Nat.two_pow_pos _)

/-- The encoding of 1. -/
def fpOne (f : Nat) : Nat := fpBias f * 2 ^ (fpP f - 1)

theorem fpRead_one (f : Fin 3) (env : FpEnv) :
    fpRead f env (fpOne f) = .num false (2 ^ (fpP f - 1)) (-(fpP f - 1 : Nat)) := by
  have hval : fpVal f (fpOne f) = .num false (2 ^ (fpP f - 1)) (-(fpP f - 1 : Nat)) := by decide +revert
  have hlt : fpOne f < 2 ^ fpW f := by decide +revert
  have hsub : fpSubnormal f (fpOne f) = false := by decide +revert
  unfold fpRead
  rw [fpFlush_of_not hlt (.inr hsub), hval]

theorem fpPack_num (f : Nat) (env : FpEnv) (s : Bool) {m : Nat} (e : Int) (hm : m ≠ 0) :
    fpPack f env (.num s m e) = fpRound f env s m e false := by
  unfold fpPack
  exact if_neg hm

/-- A finite value times 1 is itself, exactly (R113, R116). -/
theorem fpMul_one (f : Fin 3) (env : FpEnv) {u : Nat} (hu : u < 2 ^ fpW f) (hfin : fpExp f u < fpEmax f)
    (hfz : env.fz = false ∨ fpSubnormal f u = false) : fpMul f env u (fpOne f) = (u, 0) := by
  have hp := fpP_ge f
  have hfields := fpFields f hu
  have hfrac := fpExp_lt f u
  have hpos := Nat.two_pow_pos (fpP f - 1)
  have hread : fpRead f env u = fpVal f u := by
    unfold fpRead
    rw [fpFlush_of_not hu hfz]
  have hone := fpRead_one f env
  suffices h : ∀ s m e, fpVal f u = .num s m e →
      fpPack f env (.num s (m * 2 ^ (fpP f - 1)) (e - (fpP f - 1 : Nat))) = (u, 0) by
    obtain ⟨s, m, e, hv⟩ := fpRead_finite f env hu hfin
    unfold fpMul
    dsimp only
    rw [hone, hv]
    simp only [fpProduct, Bool.bne_false, ← Int.sub_eq_add_neg]
    rw [h s m e (hread.symm.trans hv)]
    simp [FpVal.isSig, flagIf]
  intro s m e hval
  unfold fpVal at hval
  rw [if_neg hfin.ne] at hval
  by_cases hexp : fpExp f u = 0
  · rw [if_pos hexp] at hval
    obtain ⟨rfl, rfl, rfl⟩ := FpVal.num.inj hval
    rw [hexp, Nat.zero_mul, Nat.add_zero] at hfields
    by_cases hm : fpFrac f u = 0
    · rw [hm, Nat.add_zero] at hfields
      unfold fpPack
      rw [hm, Nat.zero_mul]
      dsimp only
      rw [if_pos rfl, hfields]
    · have hfz' : env.fz = false := hfz.resolve_right (by
        unfold fpSubnormal
        rw [hexp, bne_iff_ne.mpr hm]
        decide)
      rw [fpPack_num _ _ _ _ (Nat.mul_ne_zero hm hpos.ne'), fpRound_subnormal env _ hm hfrac hfz', hfields]
  · rw [if_neg hexp] at hval
    obtain ⟨rfl, rfl, rfl⟩ := FpVal.num.inj hval
    have hmax : fpExp f u ≤ 2 * fpBias f := Nat.lt_succ_iff.mp hfin
    rw [fpPack_num _ _ _ _ (by positivity), fpRound_normal env _ (by omega) ?_ (by omega) (by omega)]
    · rw [Nat.add_sub_cancel, show ((fpExp f u : Int) - fpBias f - (fpP f - 1 : Nat) + (fpP f - 1 : Nat) + fpBias f).toNat = fpExp f u by
        omega, hfields]
    · rw [show 2 ^ fpP f = 2 ^ (fpP f - 1) + 2 ^ (fpP f - 1) by rw [← two_mul, ← pow_succ']; congr 1; omega]
      omega

/-! ## Selections (R122) -/

/-- Of a NaN and a number that FZ leaves alone, FMIN and FMAX give the number. -/
theorem fpMinMax_nan (f : Fin 3) (env : FpEnv) {u v : Nat} (hu : u < 2 ^ fpW f) (hv : v < 2 ^ fpW f) (hnan : fpIsNaN f u = true)
    (hnum : fpIsNaN f v = false) (hfz : env.fz = false ∨ fpSubnormal f v = false) (max : Bool) :
    (fpMinMax f env u v max).1 = v := by
  have hx : (fpVal f (fpFlush f env u)).isNaN = true := (fpRead_isNaN f env hu).trans hnan
  have hy : (fpVal f v).isNaN = false := (fpVal_isNaN f v).trans hnum
  unfold fpMinMax
  dsimp only
  rw [fpFlush_of_not hv hfz, hx, hy]
  rfl

/-- Settles O13. -/
theorem fpArithmeticAndValues : Obligations.FpArithmeticAndValues := by
  unfold Obligations.FpArithmeticAndValues
  refine ⟨fun n d a b fmt s q => ?_, fun f env u v hu hv hrm => ?_⟩
  · intro x e env u v w gives
    have hfmt : xFmt x = fmt.val := xFmt_ofNat fmt
    have hover : xOver x 2 = false := xOver_ofNat fmt
    have hne : (xFmt x == 3) = false := xFmt_ne_three fmt
    have ends : ∀ {c : Instr} {op : Nat} {r : Engine → Nat × FpFlags},
        exec c s = done s (s.blk.fpOp n op d a b x (fun _ => xOver x 2) fun p => p.fpResult d (r p)) → (∀ p, r p.noSkip = r p) →
        AtInstr s n (wordR op d a b x) → gives c (r e) := fun hx hr h => gives_fpResult hx hover hne hr q h
    rw [← hfmt]
    exact ⟨ends (r := fun p => fpAdd (xFmt x) p.st.fpEnv (p.gn a) (p.gn b) false) rfl (fun _ => rfl),
      ends (r := fun p => fpAdd (xFmt x) p.st.fpEnv (p.gn a) (p.gn b) true) rfl (fun _ => rfl),
      ends (r := fun p => fpMul (xFmt x) p.st.fpEnv (p.gn a) (p.gn b)) rfl (fun _ => rfl),
      ends (r := fun p => fpFma (xFmt x) p.st.fpEnv (p.gn a) (p.gn b) (p.gn d) false false) rfl (fun _ => rfl),
      ends (r := fun p => fpFma (xFmt x) p.st.fpEnv (p.gn a) (p.gn b) (p.gn d) false true) rfl (fun _ => rfl),
      ends (r := fun p => fpFma (xFmt x) p.st.fpEnv (p.gn a) (p.gn b) (p.gn d) true false) rfl (fun _ => rfl),
      ends (r := fun p => fpFma (xFmt x) p.st.fpEnv (p.gn a) (p.gn b) (p.gn d) true true) rfl (fun _ => rfl),
      ends (r := fun p => fpMinMax (xFmt x) p.st.fpEnv (p.gn a) (p.gn b) false) rfl (fun _ => rfl),
      ends (r := fun p => fpMinMax (xFmt x) p.st.fpEnv (p.gn a) (p.gn b) true) rfl (fun _ => rfl)⟩
  · intro nan signalling one
    refine ⟨fun h => ?_, ?_, fun hnu hnv => ⟨?_, ?_⟩, fun hfin => ?_, fun hfin hfz => fpMul_one f env hu hfin hfz,
      fun hnu hnv hfz => ⟨fpMinMax_nan f env hu hv hnu hnv hfz false, fpMinMax_nan f env hu hv hnu hnv hfz true⟩⟩
    · have hsig : ((fpRead f env u).isSig || (fpRead f env v).isSig) = (signalling u || signalling v) := by
        rw [fpRead_isSig f env hu, fpRead_isSig f env hv]
        rfl
      unfold fpAdd
      dsimp only
      rw [if_neg Bool.false_ne_true, hsig]
      rcases h with h | h
      · rw [fpSum_nan_left _ _ ((fpRead_isNaN f env hu).trans h)]
        rfl
      · rw [fpSum_nan_right _ _ ((fpRead_isNaN f env hv).trans h)]
        rfl
    · unfold fpAdd
      rw [fpRead_inf, fpRead_inf]
      rfl
    · unfold fpAdd
      dsimp only
      rw [if_neg Bool.false_ne_true, if_neg Bool.false_ne_true, fpSum_comm, Bool.or_comm]
    · exact fpMul_comm f env ((fpRead_isNaN f env hu).trans hnu) ((fpRead_isNaN f env hv).trans hnv)
    · obtain ⟨s, m, e, h⟩ := fpRead_finite f env hu hfin
      unfold fpAdd
      rw [h]
      exact fpSum_neg_self f env s m e _

end Sys2Proof.Machine
end

section
/-! The Interrupt Distributor's operations: source bits, cycles, events, claims (R348 to R353, R446). -/
namespace Sys2Proof.Machine

/-! ## A completed command -/

/-- A command that answers the block `b`, which holds LC_STATE as it was. -/
theorem gives_of_done {c : Instr} {s : State} {b : Block} {P : State → Prop} (hx : exec c s = done s b)
    (hs : b.isSealed = s.blk.isSealed) (hp : P { s with blk := b }) : Gives c s P := by
  refine ⟨{ s with blk := b }, ?_, hp⟩
  rw [hx, done_next]
  exact congrArg (fun x => Host.Outcome.next { s with blk := { b with isSealed := x } }) hs.symm

/-! ## Bits of a word -/

theorem testBit_add_two_pow {v i : Nat} (h : v.testBit i = false) (j : Nat) :
    (v + 2 ^ i).testBit j = (decide (j = i) || v.testBit j) := by
  induction i generalizing v j with
  | zero =>
    rw [Nat.testBit_zero, decide_eq_false_iff_not] at h
    cases j with
    | zero =>
      rw [Nat.testBit_zero, decide_eq_true (show (v + 2 ^ 0) % 2 = 1 by omega)]
      rfl
    | succ j =>
      rw [Nat.testBit_add_one, Nat.testBit_add_one, show (v + 2 ^ 0) / 2 = v / 2 by omega]
      rfl
  | succ i ih =>
    rw [Nat.testBit_add_one] at h
    have hpow : 2 ^ (i + 1) = 2 * 2 ^ i := by ring
    cases j with
    | zero =>
      rw [Nat.testBit_zero, Nat.testBit_zero, show (v + 2 ^ (i + 1)) % 2 = v % 2 by omega]
      rfl
    | succ j =>
      rw [Nat.testBit_add_one, Nat.testBit_add_one, show (v + 2 ^ (i + 1)) / 2 = v / 2 + 2 ^ i by omega, ih h]
      simp

theorem testBit_setBit (v i j : Nat) : (setBit v i).testBit j = (decide (j = i) || v.testBit j) := by
  unfold setBit
  split
  next h =>
    by_cases hj : j = i
    · rw [hj, h, Bool.or_true]
    · rw [decide_eq_false hj, Bool.false_or]
  next h => exact testBit_add_two_pow (Bool.not_eq_true _ ▸ h) j

theorem testBit_clrBit (v i j : Nat) : (clrBit v i).testBit j = (!decide (j = i) && v.testBit j) := by
  unfold clrBit
  split
  next h =>
    have hle : 2 ^ i ≤ v := Nat.ge_two_pow_of_testBit h
    have hlow : (v - 2 ^ i).testBit i = false := by
      have hflip := Nat.testBit_two_pow_add_eq (v - 2 ^ i) i
      rw [Nat.add_sub_cancel' hle, h] at hflip
      exact Bool.not_eq_true' _ ▸ hflip.symm
    have hadd := testBit_add_two_pow hlow j
    rw [Nat.sub_add_cancel hle] at hadd
    rw [hadd]
    by_cases hj : j = i
    · rw [hj, hlow, decide_eq_true rfl]
      rfl
    · rw [decide_eq_false hj]
      rfl
  next h =>
    by_cases hj : j = i
    · rw [hj, Bool.eq_false_iff.mpr h, Bool.and_false]
    · rw [decide_eq_false hj]
      rfl

theorem testBit_putBit (v i : Nat) (x : Bool) (j : Nat) : (putBit v i x).testBit j = if j = i then x else v.testBit j := by
  unfold putBit
  cases x with
  | true =>
    rw [if_pos rfl, testBit_setBit]
    split <;> simp [*]
  | false =>
    rw [if_neg Bool.false_ne_true, testBit_clrBit]
    split <;> simp [*]

/-! ## Per-source arrays (R360) -/

/-- An array of one bit for each source: 32 registers of 32 bits. -/
structure SrcArray (f : Nat → Fld) (base : Nat) : Prop where
  key : ∀ r, (f r).key = base + 128 * r
  width : ∀ r, (f r).w = 32

theorem pendArray : SrcArray R.DIST_PENDSET_PEND (0x10100 * 32) :=
  ⟨fun r => by simp only [Fld.key, R.DIST_PENDSET_PEND]; omega, fun _ => rfl⟩

theorem activeArray : SrcArray R.DIST_ACTIVE_ACT (0x10200 * 32) :=
  ⟨fun r => by simp only [Fld.key, R.DIST_ACTIVE_ACT]; omega, fun _ => rfl⟩

section
variable {f : Nat → Fld} {base : Nat} (b : Block)

theorem SrcArray.srcBit_put (h : SrcArray f base) (x y : Nat) (v : Bool) :
    (b.putSrcBit f x v).srcBit f y = if y = x then v else b.srcBit f y := by
  unfold Block.putSrcBit Block.srcBit
  rw [Block.get_put, h.key, h.key]
  by_cases hr : y / 32 = x / 32
  · rw [if_pos (by omega), h.width, Nat.testBit_mod_two_pow, decide_eq_true (Nat.mod_lt _ (by decide)), Bool.true_and, testBit_putBit, hr]
    exact if_congr (by omega) rfl rfl
  · rw [if_neg (by omega), if_neg (by rintro rfl; exact hr rfl)]

/-- A per-source bit written leaves every field of another register alone. -/
theorem putSrcBit_get_ne {x : Nat} {v : Bool} {g : Fld} (hx : x < 1024)
    (hg : ∀ r < 32, g.key ≠ (f r).key) : (b.putSrcBit f x v).get g = b.get g :=
  Block.get_put_ne _ _ _ _ (hg _ (by omega))

end

/-- What is held in the per-source array `f` is the same where its registers are. -/
theorem srcBit_congr {b b' : Block} {f : Nat → Fld} {x : Nat} (h : b'.get (f (x / 32)) = b.get (f (x / 32))) :
    b'.srcBit f x = b.srcBit f x := by
  unfold Block.srcBit
  rw [h]

/-- PENDING and ACTIVE are registers of their own. -/
theorem active_putPend (b : Block) {x y : Nat} (v : Bool) (hx : x < 1024) :
    (b.putSrcBit R.DIST_PENDSET_PEND x v).srcBit R.DIST_ACTIVE_ACT y = b.srcBit R.DIST_ACTIVE_ACT y :=
  srcBit_congr (putSrcBit_get_ne b hx fun r hr => by rw [activeArray.key, pendArray.key]; omega)

theorem pend_putActive (b : Block) {x y : Nat} (v : Bool) (hx : x < 1024) (hy : y < 1024) :
    (b.putSrcBit R.DIST_ACTIVE_ACT x v).srcBit R.DIST_PENDSET_PEND y = b.srcBit R.DIST_PENDSET_PEND y :=
  srcBit_congr (putSrcBit_get_ne b hx fun r hr => by rw [activeArray.key, pendArray.key]; omega)

/-! ## The wake of a target's engine (R446) -/

theorem autowake_cases (b : Block) (n : Nat) :
    b.autowake n = b ∨ b.autowake n = { b.raise (R.PWR_ENG_BUSY n) with domQ := b.domQ ++ [.engine n 2 true] } := by
  unfold Block.autowake
  split
  · exact .inr rfl
  · exact .inl rfl

theorem routeOf_lt {b : Block} {x t : Nat} (h : b.routeOf x = some t) : t < 144 := by
  unfold Block.routeOf isDoorbell at h
  split at h
  next hd =>
    rw [Bool.and_eq_true, decide_eq_true_iff, decide_eq_true_iff] at hd
    cases h
    omega
  next =>
    split at h
    next hr => cases h; exact hr
    next => cases h

/-- Between two blocks at most one engine has been asked to wake. -/
def MayWake (b b' : Block) : Prop :=
  b' = b ∨ ∃ n < 72, b' = { b.raise (R.PWR_ENG_BUSY n) with domQ := b.domQ ++ [.engine n 2 true] }

theorem autowakeSrc_mayWake (b : Block) (x : Nat) : MayWake b (b.autowakeSrc x) := by
  unfold Block.autowakeSrc
  split
  next t ht =>
    have hlt := routeOf_lt ht
    exact (autowake_cases b (t / 2)).imp id fun h => ⟨t / 2, by omega, h⟩
  next => exact .inl rfl

theorem MayWake.get {b b' : Block} (h : MayWake b b') {g : Fld} (hg : ∀ n < 72, g.key ≠ (R.PWR_ENG_BUSY n).key) :
    b'.get g = b.get g := by
  obtain rfl | ⟨n, hn, rfl⟩ := h
  · rfl
  · exact Block.get_put_ne _ _ _ _ (hg n hn)

theorem MayWake.frame {b b' : Block} (h : MayWake b b') : { b' with regs := b.regs, domQ := b.domQ } = b := by
  obtain rfl | ⟨n, hn, rfl⟩ := h
  · rfl
  · rfl

theorem MayWake.domQ {b b' : Block} (h : MayWake b b') :
    b'.domQ = b.domQ ∨ ∃ n : Nat, b'.domQ = b.domQ ++ [.engine n 2 true] := by
  obtain rfl | ⟨n, hn, rfl⟩ := h
  · exact .inl rfl
  · exact .inr ⟨n, rfl⟩

/-- The wake is no matter of a per-source array. -/
theorem MayWake.srcBit {b b' : Block} (h : MayWake b b') {f : Nat → Fld} {base : Nat} (hf : SrcArray f base)
    (hbase : 0x10000 * 32 ≤ base) (y : Nat) : b'.srcBit f y = b.srcBit f y :=
  srcBit_congr (h.get fun n hn => by
    rw [hf.key]
    simp only [Fld.key, R.PWR_ENG_BUSY]
    omega)

theorem MayWake.pend {b b' : Block} (h : MayWake b b') (y : Nat) :
    b'.srcBit R.DIST_PENDSET_PEND y = b.srcBit R.DIST_PENDSET_PEND y := h.srcBit pendArray (by decide) y

theorem MayWake.active {b b' : Block} (h : MayWake b b') (y : Nat) :
    b'.srcBit R.DIST_ACTIVE_ACT y = b.srcBit R.DIST_ACTIVE_ACT y := h.srcBit activeArray (by decide) y

/-! ## Cycles (R348, R353) -/

theorem isLevel_lt {x : Nat} (h : isLevel x = true) : x < 448 := by
  unfold isLevel at h
  rw [Bool.and_eq_true, decide_eq_true_iff, decide_eq_true_iff] at h
  exact h.2

/-- Some PENDING bits cleared, one after the other. -/
def Block.unpendAll (b : Block) (l : List Nat) : Block := l.foldl (fun b x => b.putSrcBit R.DIST_PENDSET_PEND x false) b

theorem distCycle_eq (b : Block) :
    b.distCycle = { b.unpendAll (b.dcycle.forced.filter isLevel) with dcycle := DistCycle.idle } := rfl

theorem unpendAll_frame (l : List Nat) (b : Block) : { b.unpendAll l with regs := b.regs } = b := by
  induction l generalizing b with
  | nil => rfl
  | cons x l ih => exact congrArg (fun c : Block => { c with regs := b.regs }) (ih (b.putSrcBit R.DIST_PENDSET_PEND x false))

theorem unpendAll_pend (l : List Nat) (b : Block) (y : Nat) :
    (b.unpendAll l).srcBit R.DIST_PENDSET_PEND y = (b.srcBit R.DIST_PENDSET_PEND y && !l.contains y) := by
  induction l generalizing b with
  | nil => simp [Block.unpendAll]
  | cons x l ih =>
    have h := ih (b.putSrcBit R.DIST_PENDSET_PEND x false)
    rw [pendArray.srcBit_put] at h
    refine (h : _ = _).trans ?_
    by_cases hy : y = x
    · rw [if_pos hy]
      simp [hy]
    · rw [if_neg hy]
      simp [hy]

theorem unpendAll_get {l : List Nat} (hl : ∀ x ∈ l, x < 1024) (b : Block) {g : Fld} (hg : ∀ r < 32, g.key ≠ (R.DIST_PENDSET_PEND r).key) :
    (b.unpendAll l).get g = b.get g := by
  induction l generalizing b with
  | nil => rfl
  | cons x l ih =>
    exact (ih (fun y hy => hl y (List.mem_cons_of_mem _ hy)) _).trans (putSrcBit_get_ne b (hl x List.mem_cons_self) hg)

theorem forced_lt (b : Block) : ∀ x ∈ b.dcycle.forced.filter isLevel, x < 1024 := fun x hx => by
  have := isLevel_lt (List.mem_filter.mp hx).2
  omega

theorem contains_filter (p : Nat → Bool) (l : List Nat) (y : Nat) : (l.filter p).contains y = (p y && l.contains y) := by
  rw [Bool.eq_iff_iff, Bool.and_eq_true, List.contains_iff_mem, List.contains_iff_mem, List.mem_filter, and_comm]

/-- From `b` to `b'` the Distributor has taken a step of its present cycle or, where `new`, of the next one. -/
structure Cycled (new : Bool) (b b' : Block) : Prop where
  frame : { b' with regs := b.regs, dcycle := b.dcycle } = b
  get : ∀ g : Fld, (∀ r < 32, g.key ≠ (R.DIST_PENDSET_PEND r).key) → b'.get g = b.get g
  pend : ∀ y, b'.srcBit R.DIST_PENDSET_PEND y =
    (b.srcBit R.DIST_PENDSET_PEND y && !(new && isLevel y && b.dcycle.forced.contains y))

theorem Cycled.active {new : Bool} {b b' : Block} (h : Cycled new b b') (y : Nat) :
    b'.srcBit R.DIST_ACTIVE_ACT y = b.srcBit R.DIST_ACTIVE_ACT y :=
  srcBit_congr (h.get _ fun r hr => by rw [activeArray.key, pendArray.key]; omega)

theorem cycled_of_dcycle (b : Block) (d : DistCycle) : Cycled false b { b with dcycle := d } :=
  ⟨rfl, fun _ _ => rfl, fun y => by simp; rfl⟩

theorem distCycle_cycled (b : Block) : Cycled true b b.distCycle where
  frame := congrArg (fun c : Block => { c with dcycle := b.dcycle }) (unpendAll_frame _ b)
  get _ hg := unpendAll_get (forced_lt b) b hg
  pend y := by
    rw [Bool.true_and, ← contains_filter]
    exact unpendAll_pend _ b y

theorem distAt_cycled (b : Block) (k : Nat) : Cycled (k < b.dcycle.step) b (b.distAt k) := by
  unfold Block.distAt
  by_cases h : k < b.dcycle.step
  · rw [if_pos h, decide_eq_true h]
    obtain ⟨hf, hg, hp⟩ := distCycle_cycled b
    exact ⟨hf, hg, hp⟩
  · rw [if_neg h, decide_eq_false h]
    exact cycled_of_dcycle b _

theorem distAt_step (b : Block) (k : Nat) : (b.distAt k).dcycle.step = k := rfl

/-! ## Events (R348) -/

section
variable {b : Block} {x y : Nat}

theorem setPend_pend : (b.setPend x).srcBit R.DIST_PENDSET_PEND y = if y = x then true else b.srcBit R.DIST_PENDSET_PEND y := by
  unfold Block.setPend
  rw [(autowakeSrc_mayWake _ x).pend, pendArray.srcBit_put]

theorem setPend_active (hx : x < 1024) : (b.setPend x).srcBit R.DIST_ACTIVE_ACT y = b.srcBit R.DIST_ACTIVE_ACT y := by
  unfold Block.setPend
  rw [(autowakeSrc_mayWake _ x).active, active_putPend _ _ hx]

/-- An event makes its source pending and may wake its target's engine. -/
theorem event_signals (hx : x < 1024) (b : Block) : Signals [] x b (b.event x) := by
  have hc := distAt_cycled b 1
  have hw := autowakeSrc_mayWake ((b.distAt 1).putSrcBit R.DIST_PENDSET_PEND x true) x
  have hdomQ : ((b.distAt 1).putSrcBit R.DIST_PENDSET_PEND x true).domQ = b.domQ := by
    have h := congrArg Block.domQ hc.frame
    exact h
  refine ⟨?_, hw.domQ.imp (·.trans hdomQ) fun ⟨n, hn⟩ => ⟨n, hn.trans (congrArg (· ++ _) hdomQ)⟩, ?_,
    fun y hy hyx hforced => ?_, fun g _ hpend hbusy => ?_⟩
  · have h1 := congrArg (fun c : Block => { c with regs := b.regs, domQ := b.domQ, dcycle := b.dcycle, tick := b.tick }) hw.frame
    have h2 := congrArg (fun c : Block => { c with domQ := b.domQ, tick := b.tick }) hc.frame
    exact h1.trans h2
  · show (b.event x).srcBit R.DIST_PENDSET_PEND x = true
    unfold Block.event
    rw [setPend_pend, if_pos rfl]
  · unfold Block.event
    rw [setPend_pend, if_neg hyx, hc.pend]
    simp [hforced]
  · exact (hw.get hbusy).trans ((putSrcBit_get_ne _ hx hpend).trans (hc.get g hpend))

end

end Sys2Proof.Machine
end

section
/-! The Interrupt Distributor's claims, completions and strobes (R351 to R359). -/
namespace Sys2Proof.Machine

/-! ## The best claimable source (R351, R352) -/

/-- Source `x` goes before or is source `y` in a claim: a higher PRIO, or the same and no higher number (R352). -/
def Block.beats (b : Block) (x y : Nat) : Prop :=
  b.get (R.prioByte y) < b.get (R.prioByte x) ∨ (b.get (R.prioByte y) = b.get (R.prioByte x) ∧ x ≤ y)

theorem Block.beats.trans {b : Block} {x y z : Nat} (h : b.beats x y) (h' : b.beats y z) : b.beats x z := by
  unfold Block.beats at *
  omega

theorem Block.beats.antisymm {b : Block} {x y : Nat} (h : b.beats x y) (h' : b.beats y x) : x = y := by
  unfold Block.beats at *
  omega

/-- Of the claimable sources below `n`, `w` is the one that goes before all others. -/
def Block.BestBelow (b : Block) (t n : Nat) : Option Nat → Prop
  | none => ∀ y < n, b.claimable t y = false
  | some x => x < n ∧ b.claimable t x = true ∧ ∀ y < n, b.claimable t y = true → b.beats x y

/-- One source compared with the best of those before it. -/
def Block.bestStep (b : Block) (t : Nat) (w : Option Nat) (x : Nat) : Option Nat :=
  if b.claimable t x then
    match w with
    | some y => if b.get (R.prioByte y) < b.get (R.prioByte x) then some x else w
    | none => some x
  else w

theorem Block.BestBelow.step {b : Block} {t n : Nat} {w : Option Nat} (h : b.BestBelow t n w) :
    b.BestBelow t (n + 1) (b.bestStep t w n) := by
  unfold Block.bestStep
  by_cases hc : b.claimable t n = true
  · rw [if_pos hc]
    cases w with
    | none =>
      refine ⟨Nat.lt_succ_self n, hc, fun y hy hy' => ?_⟩
      obtain hlt | rfl := Nat.lt_succ_iff_lt_or_eq.mp hy
      · rw [h y hlt] at hy'
        cases hy'
      · exact .inr ⟨rfl, le_rfl⟩
    | some x =>
      obtain ⟨hx, hxc, hbest⟩ := h
      dsimp only
      split
      next hlt =>
        refine ⟨Nat.lt_succ_self n, hc, fun y hy hy' => ?_⟩
        obtain hyn | rfl := Nat.lt_succ_iff_lt_or_eq.mp hy
        · exact Block.beats.trans (.inl hlt) (hbest y hyn hy')
        · exact .inr ⟨rfl, le_rfl⟩
      next hge =>
        refine ⟨by omega, hxc, fun y hy hy' => ?_⟩
        obtain hyn | rfl := Nat.lt_succ_iff_lt_or_eq.mp hy
        · exact hbest y hyn hy'
        · unfold Block.beats
          omega
  · rw [if_neg hc]
    have hnew : ∀ y < n + 1, b.claimable t y = true → y < n := fun y hy hy' => by
      obtain hlt | rfl := Nat.lt_succ_iff_lt_or_eq.mp hy
      · exact hlt
      · exact absurd hy' hc
    cases w with
    | none => exact fun y hy => Bool.eq_false_iff.mpr fun hy' => by rw [h y (hnew y hy hy')] at hy'; cases hy'
    | some x =>
      obtain ⟨hx, hxc, hbest⟩ := h
      exact ⟨by omega, hxc, fun y hy hy' => hbest y (hnew y hy hy') hy'⟩

theorem bestBelow_foldl (b : Block) (t n : Nat) : b.BestBelow t n ((List.range n).foldl (b.bestStep t) none) := by
  induction n with
  | zero => exact fun y hy => absurd hy (Nat.not_lt_zero y)
  | succ n ih =>
    rw [List.range_succ, List.foldl_append]
    exact ih.step

theorem best_eq_foldl (b : Block) (t : Nat) : b.best t = (List.range 1024).foldl (b.bestStep t) none := by
  unfold Block.best Block.bestStep
  rfl

theorem Block.BestBelow.none_iff {b : Block} {t n : Nat} {w : Option Nat} (h : b.BestBelow t n w) :
    w = none ↔ ∀ x < n, b.claimable t x = false := by
  cases w with
  | none => exact ⟨fun _ => h, fun _ => rfl⟩
  | some x =>
    obtain ⟨hx, hxc, -⟩ := h
    exact ⟨fun h => absurd h (Option.some_ne_none x), fun h => absurd hxc (by rw [h x hx]; exact Bool.false_ne_true)⟩

theorem Block.BestBelow.some_iff {b : Block} {t n : Nat} {w : Option Nat} (h : b.BestBelow t n w) (x : Nat) :
    w = some x ↔ x < n ∧ b.claimable t x = true ∧ ∀ y < n, b.claimable t y = true → b.beats x y := by
  constructor
  · rintro rfl
    exact h
  · rintro ⟨hx, hxc, hbest⟩
    cases w with
    | none => rw [h x hx] at hxc; cases hxc
    | some y =>
      obtain ⟨hy, hyc, hbest'⟩ := h
      rw [(hbest y hy hyc).antisymm (hbest' x hx hxc)]

theorem foldl_bestStep_none_iff (b : Block) (t n : Nat) :
    (List.range n).foldl (b.bestStep t) none = none ↔ ∀ x < n, b.claimable t x = false :=
  (bestBelow_foldl b t n).none_iff

theorem foldl_bestStep_some_iff (b : Block) (t n x : Nat) : (List.range n).foldl (b.bestStep t) none = some x ↔
    x < n ∧ b.claimable t x = true ∧ ∀ y < n, b.claimable t y = true → b.beats x y :=
  (bestBelow_foldl b t n).some_iff x

theorem best_eq_none_iff (b : Block) (t : Nat) : b.best t = none ↔ ∀ x < 1024, b.claimable t x = false := by
  rw [best_eq_foldl]
  exact foldl_bestStep_none_iff b t 1024

theorem best_eq_some_iff (b : Block) (t x : Nat) :
    b.best t = some x ↔ x < 1024 ∧ b.claimable t x = true ∧ ∀ y < 1024, b.claimable t y = true → b.beats x y := by
  rw [best_eq_foldl]
  exact foldl_bestStep_some_iff b t 1024 x

/-! ## The cycle of a claim (R353) -/

theorem Cycled.trans {b c d : Block} (h : Cycled false b c) {new : Bool} (h' : Cycled new c d)
    (hf : c.dcycle.forced = b.dcycle.forced) : Cycled new b d where
  frame := (congrArg (fun x : Block => { x with regs := b.regs, dcycle := b.dcycle }) h'.frame).trans h.frame
  get g hg := (h'.get g hg).trans (h.get g hg)
  pend y := by
    rw [h'.pend, h.pend, hf]
    simp

theorem Cycled.same_cycle {new : Bool} {b c : Block} (h : Cycled new b c) {d : DistCycle} : Cycled new b { c with dcycle := d } where
  frame := h.frame
  get := h.get
  pend := h.pend

theorem distAt_of_le {b : Block} {k : Nat} (h : ¬k < b.dcycle.step) : b.distAt k = { b with dcycle := { b.dcycle with step := k } } := by
  unfold Block.distAt
  rw [if_neg h]

theorem distAt_of_lt {b : Block} {k : Nat} (h : k < b.dcycle.step) :
    b.distAt k = { b.distCycle with dcycle := { DistCycle.idle with step := k } } := by
  unfold Block.distAt
  rw [if_pos h]
  rfl

theorem distCycle_distAt (b : Block) (k : Nat) : b.distCycle.distAt k = { b.distCycle with dcycle := { DistCycle.idle with step := k } } :=
  distAt_of_le (Nat.not_lt_zero k)

theorem claimCycle_served (b : Block) (t : Nat) : (b.claimCycle t).dcycle.served.contains t = false := by
  unfold Block.claimCycle
  dsimp only
  split
  · rw [distCycle_distAt]
    rfl
  next h => exact Bool.not_eq_true _ ▸ h

theorem claimCycle_step (b : Block) (t : Nat) : (b.claimCycle t).dcycle.step = 4 := by
  unfold Block.claimCycle
  dsimp only
  split <;> rfl

theorem claimCycle_cycled (b : Block) (t : Nat) : Cycled (4 < b.dcycle.step || b.dcycle.served.contains t) b (b.claimCycle t) := by
  unfold Block.claimCycle
  dsimp only
  by_cases hlate : 4 < b.dcycle.step
  · rw [if_neg (by rw [distAt_of_lt hlate]; exact Bool.false_ne_true)]
    have h := distAt_cycled b 4
    rw [decide_eq_true hlate] at h ⊢
    exact h
  · have hat := distAt_of_le hlate
    have h := distAt_cycled b 4
    rw [decide_eq_false hlate] at h ⊢
    rw [show (b.distAt 4).dcycle.served = b.dcycle.served from by rw [hat], Bool.false_or]
    by_cases hs : b.dcycle.served.contains t = true
    · rw [if_pos hs, hs, distCycle_distAt]
      exact h.trans (distCycle_cycled _).same_cycle (by rw [hat])
    · rw [if_neg hs, Bool.eq_false_iff.mpr hs]
      exact h

/-! ## What one source's change leaves alone -/

/-- From `b` to `b'` only source `x` changes at the Distributor; beside it an engine may be asked to wake. -/
structure AtSource (x : Nat) (b b' : Block) : Prop where
  frame : { b' with regs := b.regs, domQ := b.domQ, dcycle := b.dcycle, claimer := b.claimer } = b
  pend : ∀ y < 1024, y ≠ x → b'.srcBit R.DIST_PENDSET_PEND y = b.srcBit R.DIST_PENDSET_PEND y
  active : ∀ y < 1024, y ≠ x → b'.srcBit R.DIST_ACTIVE_ACT y = b.srcBit R.DIST_ACTIVE_ACT y

theorem AtSource.refl (x : Nat) (b : Block) : AtSource x b b := ⟨rfl, fun _ _ _ => rfl, fun _ _ _ => rfl⟩

theorem AtSource.trans {x : Nat} {b c d : Block} (h : AtSource x b c) (h' : AtSource x c d) : AtSource x b d where
  frame := (congrArg (fun e : Block => { e with regs := b.regs, domQ := b.domQ, dcycle := b.dcycle, claimer := b.claimer }) h'.frame).trans
    h.frame
  pend y hy hyx := (h'.pend y hy hyx).trans (h.pend y hy hyx)
  active y hy hyx := (h'.active y hy hyx).trans (h.active y hy hyx)

theorem MayWake.atSource {b b' : Block} (h : MayWake b b') (x : Nat) : AtSource x b b' where
  frame := congrArg (fun e : Block => { e with dcycle := b.dcycle, claimer := b.claimer }) h.frame
  pend y _ _ := h.pend y
  active y _ _ := h.active y

theorem putPend_atSource (b : Block) {x : Nat} (v : Bool) (hx : x < 1024) : AtSource x b (b.putSrcBit R.DIST_PENDSET_PEND x v) where
  frame := rfl
  pend y _ hyx := by rw [pendArray.srcBit_put, if_neg hyx]
  active y _ _ := active_putPend b v hx

theorem putActive_atSource (b : Block) {x : Nat} (v : Bool) (hx : x < 1024) : AtSource x b (b.putSrcBit R.DIST_ACTIVE_ACT x v) where
  frame := rfl
  pend y hy _ := pend_putActive b v hx hy
  active y _ hyx := by rw [activeArray.srcBit_put, if_neg hyx]

theorem setPend_atSource (b : Block) {x : Nat} (hx : x < 1024) : AtSource x b (b.setPend x) :=
  (putPend_atSource b true hx).trans ((autowakeSrc_mayWake _ x).atSource x)

theorem AtSource.mem {x : Nat} {b b' : Block} (h : AtSource x b b') : b'.mem = b.mem := by
  have e := congrArg Block.mem h.frame
  exact e

theorem AtSource.isSealed {x : Nat} {b b' : Block} (h : AtSource x b b') : b'.isSealed = b.isSealed := by
  have e := congrArg Block.isSealed h.frame
  exact e

theorem AtSource.extAns {x : Nat} {b b' : Block} (h : AtSource x b b') : b'.extAns = b.extAns := by
  have e := congrArg Block.extAns h.frame
  exact e

theorem AtSource.strobes {x : Nat} {b b' : Block} (h : AtSource x b b') : b'.strobes = b.strobes := by
  have e := congrArg Block.strobes h.frame
  exact e

theorem Cycled.isSealed {new : Bool} {b b' : Block} (h : Cycled new b b') : b'.isSealed = b.isSealed := by
  have e := congrArg Block.isSealed h.frame
  exact e

theorem Cycled.mem {new : Bool} {b b' : Block} (h : Cycled new b b') : b'.mem = b.mem := by
  have e := congrArg Block.mem h.frame
  exact e

theorem Cycled.extAns {new : Bool} {b b' : Block} (h : Cycled new b b') : b'.extAns = b.extAns := by
  have e := congrArg Block.extAns h.frame
  exact e

theorem Cycled.strobes {new : Bool} {b b' : Block} (h : Cycled new b b') : b'.strobes = b.strobes := by
  have e := congrArg Block.strobes h.frame
  exact e

theorem Cycled.claimer {new : Bool} {b b' : Block} (h : Cycled new b b') : b'.claimer = b.claimer := by
  have e := congrArg Block.claimer h.frame
  exact e

/-! ## Global counters (R477, R478) -/

theorem countGlob_frame (b : Block) (code k : Nat) : { b.countGlob code k with regs := b.regs } = b := by
  unfold Block.countGlob
  split
  · refine forEach_keeps (fun c : Block => { c with regs := b.regs } = b) 64 _ b rfl fun i c _ hc => ?_
    split
    · exact hc
    · exact hc
  · rfl

theorem countGlob_get (b : Block) (code k : Nat) {g : Fld} (hg : ∀ i < 64, g.key ≠ (R.GPC_COUNT i).key) :
    (b.countGlob code k).get g = b.get g := by
  unfold Block.countGlob
  split
  · refine forEach_keeps (fun c : Block => c.get g = b.get g) 64 _ b rfl fun i c hi hc => ?_
    split
    · exact (Block.get_put_ne _ _ _ _ (hg i hi)).trans hc
    · exact hc
  · rfl

theorem countGlob_srcBit (b : Block) (code k : Nat) {f : Nat → Fld} {base : Nat} (hf : SrcArray f base)
    (hbase : base + 128 * 31 < 0x80000 * 32) {y : Nat} (hy : y < 1024) : (b.countGlob code k).srcBit f y = b.srcBit f y :=
  srcBit_congr (countGlob_get b code k fun i _ => by
    rw [hf.key]
    simp only [Fld.key, R.GPC_COUNT]
    omega)

theorem countGlob_atSource (b : Block) (code k x : Nat) : AtSource x b (b.countGlob code k) where
  frame := congrArg (fun e : Block => { e with domQ := b.domQ, dcycle := b.dcycle, claimer := b.claimer }) (countGlob_frame b code k)
  pend _ hy _ := countGlob_srcBit b code k pendArray (by decide) hy
  active _ hy _ := countGlob_srcBit b code k activeArray (by decide) hy

/-! ## Claims (R352) -/

/-- A claim for target `t` has taken source `x` of the block `b`. -/
structure Claimed (b : Block) (t x : Nat) (b' : Block) : Prop where
  at_source : AtSource x b b'
  pend : b'.srcBit R.DIST_PENDSET_PEND x = false
  active : b'.srcBit R.DIST_ACTIVE_ACT x = true
  claimer : b'.claimer.look x = some t

theorem claim_of_best {b : Block} {t x : Nat} (hb : (b.claimCycle t).best t = some x) :
    Claimed (b.claimCycle t) t x (b.claim t).1 ∧ (b.claim t).2 = 2 ^ 31 + x := by
  obtain ⟨hx, -, -⟩ := (best_eq_some_iff _ t x).mp hb
  unfold Block.claim
  dsimp only
  generalize hc : b.claimCycle t = c at hb ⊢
  have hbest : ({ c with dcycle := { c.dcycle with served := t :: c.dcycle.served } } : Block).best t = some x := hb
  rw [hbest]
  refine ⟨⟨?_, ?_, ?_, ?_⟩, rfl⟩
  · have h1 := (putPend_atSource c false hx).trans (putActive_atSource _ true hx)
    have h2 : AtSource x c { (c.putSrcBit R.DIST_PENDSET_PEND x false).putSrcBit R.DIST_ACTIVE_ACT x true with
        dcycle := { c.dcycle with served := t :: c.dcycle.served }, claimer := c.claimer.put x t } :=
      ⟨h1.frame, h1.pend, h1.active⟩
    exact h2.trans (countGlob_atSource _ 0x11 1 x)
  · dsimp only
    rw [countGlob_srcBit _ _ _ pendArray (by decide) hx]
    refine (pend_putActive (c.putSrcBit R.DIST_PENDSET_PEND x false) true hx hx).trans ?_
    rw [pendArray.srcBit_put, if_pos rfl]
  · dsimp only
    rw [countGlob_srcBit _ _ _ activeArray (by decide) hx]
    refine (activeArray.srcBit_put (c.putSrcBit R.DIST_PENDSET_PEND x false) x x true).trans (if_pos rfl)
  · have e := congrArg Block.claimer (countGlob_frame { (c.putSrcBit R.DIST_PENDSET_PEND x false).putSrcBit R.DIST_ACTIVE_ACT x true with
        dcycle := { c.dcycle with served := t :: c.dcycle.served }, claimer := c.claimer.put x t } 0x11 1)
    refine (congrArg (Tab.look · x) e).trans ?_
    exact Tab.look_put_same _ _ _

theorem claim_of_none {b : Block} {t : Nat} (hb : (b.claimCycle t).best t = none) :
    b.claim t = ({ b.claimCycle t with dcycle := { (b.claimCycle t).dcycle with served := t :: (b.claimCycle t).dcycle.served } }, 0) := by
  unfold Block.claim
  dsimp only
  generalize b.claimCycle t = c at hb ⊢
  have hbest : ({ c with dcycle := { c.dcycle with served := t :: c.dcycle.served } } : Block).best t = none := hb
  rw [hbest]

/-! ## Completions (R354, R356) -/

theorem BADCPL_ne_pend (t r : Nat) (_ : r < 32) : (R.DIST_STAT_BADCPL t).key ≠ (R.DIST_PENDSET_PEND r).key := by
  rw [pendArray.key]
  simp only [Fld.key, R.DIST_STAT_BADCPL]
  omega

theorem BADCPL_ne_active (t r : Nat) (_ : r < 32) : (R.DIST_STAT_BADCPL t).key ≠ (R.DIST_ACTIVE_ACT r).key := by
  rw [activeArray.key]
  simp only [Fld.key, R.DIST_STAT_BADCPL]
  omega

theorem BADCPL_ne_busy (t n : Nat) (_ : n < 72) : (R.DIST_STAT_BADCPL t).key ≠ (R.PWR_ENG_BUSY n).key := by
  simp only [Fld.key, R.DIST_STAT_BADCPL, R.PWR_ENG_BUSY]
  omega

theorem complete_doorbell {b : Block} {t x : Nat} (h : x = 72 + t) :
    b.complete t x = ((b.distAt 0).putSrcBit R.DIST_PENDSET_PEND x false, false) := by
  unfold Block.complete
  rw [if_pos h]

/-- The doorbell of target `t` completed: its PENDING is 0. -/
theorem complete_doorbell_at (b : Block) {t x : Nat} (h : x = 72 + t) (hx : x < 1024) :
    AtSource x (b.distAt 0) (b.complete t x).1 ∧ (b.complete t x).1.srcBit R.DIST_PENDSET_PEND x = false ∧
      (b.complete t x).1.srcBit R.DIST_ACTIVE_ACT x = b.srcBit R.DIST_ACTIVE_ACT x ∧
      (b.complete t x).1.get (R.DIST_STAT_BADCPL t) = b.get (R.DIST_STAT_BADCPL t) := by
  rw [complete_doorbell h]
  have hc := distAt_cycled b 0
  refine ⟨putPend_atSource _ false hx, ?_, ?_, ?_⟩
  · rw [pendArray.srcBit_put, if_pos rfl]
  · rw [active_putPend _ _ hx, hc.active]
  · exact (putSrcBit_get_ne _ hx (BADCPL_ne_pend t)).trans (hc.get _ (BADCPL_ne_pend t))

/-- ACTIVE of `x` cleared and its level, if it has one, sampled. -/
def Block.released (b : Block) (x : Nat) : Block :=
  let b := { b.putSrcBit R.DIST_ACTIVE_ACT x false with claimer := b.claimer.del x }
  if isLevel x then b.sample x else b.autowakeSrc x

theorem complete_claimed {b : Block} {t x : Nat} (h : x ≠ 72 + t) (ha : b.srcBit R.DIST_ACTIVE_ACT x = true)
    (hc : b.claimer.look x = some t) : b.complete t x = ((b.distAt 3).released x, false) := by
  have hact : (b.distAt 3).active x = true := ((distAt_cycled b 3).active x).trans ha
  have hcl : (b.distAt 3).claimer.look x = some t := (congrArg (Tab.look · x) (distAt_cycled b 3).claimer).trans hc
  unfold Block.complete
  rw [if_neg h]
  dsimp only
  rw [if_pos (by rw [hact, hcl]; simp)]
  rfl

theorem complete_other {b : Block} {t x : Nat} (h : x ≠ 72 + t)
    (hn : b.srcBit R.DIST_ACTIVE_ACT x = false ∨ b.claimer.look x ≠ some t) :
    b.complete t x = ((b.distAt 3).raise (R.DIST_STAT_BADCPL t), true) := by
  have hact : (b.distAt 3).active x = b.srcBit R.DIST_ACTIVE_ACT x := (distAt_cycled b 3).active x
  unfold Block.complete
  rw [if_neg h]
  dsimp only
  rw [if_neg ?_]
  rw [hact, (distAt_cycled b 3).claimer, Bool.and_eq_true, beq_iff_eq]
  rintro ⟨ha, hc⟩
  exact hn.elim (fun h => by rw [ha] at h; cases h) (· hc)

theorem sample_of_idle {b : Block} {x : Nat} (h : b.srcBit R.DIST_ACTIVE_ACT x = false) :
    b.sample x = (b.putSrcBit R.DIST_PENDSET_PEND x false).autowakeSrc x := by
  unfold Block.sample
  rw [if_neg (by unfold Block.active; rw [h]; exact Bool.false_ne_true)]

theorem sample_of_active {b : Block} {x : Nat} (h : b.srcBit R.DIST_ACTIVE_ACT x = true) : b.sample x = b := by
  unfold Block.sample
  exact if_pos h

/-- An idle level source sampled: a PENDSET no longer holds it. -/
theorem sample_at {b : Block} {x : Nat} (hx : x < 1024) (h : b.srcBit R.DIST_ACTIVE_ACT x = false) :
    AtSource x b (b.sample x) ∧ (b.sample x).srcBit R.DIST_PENDSET_PEND x = false ∧
      (b.sample x).srcBit R.DIST_ACTIVE_ACT x = false ∧
      ∀ t, (b.sample x).get (R.DIST_STAT_BADCPL t) = b.get (R.DIST_STAT_BADCPL t) := by
  rw [sample_of_idle h]
  have hw := autowakeSrc_mayWake (b.putSrcBit R.DIST_PENDSET_PEND x false) x
  refine ⟨(putPend_atSource b false hx).trans (hw.atSource x), ?_, ?_, fun t => ?_⟩
  · rw [hw.pend, pendArray.srcBit_put, if_pos rfl]
  · rw [hw.active, active_putPend _ _ hx, h]
  · exact (hw.get (BADCPL_ne_busy t)).trans (putSrcBit_get_ne _ hx (BADCPL_ne_pend t))

theorem released_at (b : Block) {x : Nat} (hx : x < 1024) :
    AtSource x b (b.released x) ∧ (b.released x).srcBit R.DIST_ACTIVE_ACT x = false ∧
      ∀ t, (b.released x).get (R.DIST_STAT_BADCPL t) = b.get (R.DIST_STAT_BADCPL t) := by
  unfold Block.released
  have hput := putActive_atSource b false hx
  have hclear : (b.putSrcBit R.DIST_ACTIVE_ACT x false).srcBit R.DIST_ACTIVE_ACT x = false := by
    rw [activeArray.srcBit_put, if_pos rfl]
  have hbad : ∀ t, (b.putSrcBit R.DIST_ACTIVE_ACT x false).get (R.DIST_STAT_BADCPL t) = b.get (R.DIST_STAT_BADCPL t) :=
    fun t => putSrcBit_get_ne b hx (BADCPL_ne_active t)
  generalize b.putSrcBit R.DIST_ACTIVE_ACT x false = c at hput hclear hbad ⊢
  have hdel : AtSource x b { c with claimer := b.claimer.del x } := ⟨hput.frame, hput.pend, hput.active⟩
  have hclear' : ({ c with claimer := b.claimer.del x } : Block).srcBit R.DIST_ACTIVE_ACT x = false := hclear
  dsimp only
  split
  · obtain ⟨hat, -, hact, hstat⟩ := sample_at hx hclear'
    exact ⟨hdel.trans hat, hact, fun t => (hstat t).trans (hbad t)⟩
  · have hw := autowakeSrc_mayWake { c with claimer := b.claimer.del x } x
    exact ⟨hdel.trans (hw.atSource x), (hw.active x).trans hclear, fun t => (hw.get (BADCPL_ne_busy t)).trans (hbad t)⟩

theorem complete_claimed_at {b : Block} {t x : Nat} (h : x ≠ 72 + t) (hx : x < 1024)
    (ha : b.srcBit R.DIST_ACTIVE_ACT x = true) (hc : b.claimer.look x = some t) :
    AtSource x (b.distAt 3) (b.complete t x).1 ∧ (b.complete t x).1.srcBit R.DIST_ACTIVE_ACT x = false ∧
      (b.complete t x).1.get (R.DIST_STAT_BADCPL t) = b.get (R.DIST_STAT_BADCPL t) := by
  rw [complete_claimed h ha hc]
  obtain ⟨hat, hact, hstat⟩ := released_at (b.distAt 3) hx
  exact ⟨hat, hact, (hstat t).trans ((distAt_cycled b 3).get _ (BADCPL_ne_pend t))⟩

/-! ## Bits written to PENDSET (R348, R360) -/

theorem force_pend (b : Block) (x y : Nat) :
    (b.force x).srcBit R.DIST_PENDSET_PEND y = if y = x then true else b.srcBit R.DIST_PENDSET_PEND y := by
  rw [← setPend_pend]
  unfold Block.force
  dsimp only
  split <;> rfl

theorem force_active (b : Block) {x : Nat} (hx : x < 1024) (y : Nat) :
    (b.force x).srcBit R.DIST_ACTIVE_ACT y = b.srcBit R.DIST_ACTIVE_ACT y := by
  rw [← setPend_active (b := b) (x := x) hx]
  unfold Block.force
  dsimp only
  split <;> rfl

theorem force_atSource (b : Block) {x : Nat} (hx : x < 1024) : AtSource x b (b.force x) := by
  have h := setPend_atSource b hx
  unfold Block.force
  dsimp only
  split
  · exact ⟨h.frame, h.pend, h.active⟩
  · exact h

/-- The first `n` bits of a word written to PENDSET register `r`. -/
structure Forced (r w n : Nat) (b b' : Block) : Prop where
  pend : ∀ y, b'.srcBit R.DIST_PENDSET_PEND y =
    ((decide (y / 32 = r) && decide (y % 32 < n) && w.testBit (y % 32)) || b.srcBit R.DIST_PENDSET_PEND y)
  active : ∀ y, b'.srcBit R.DIST_ACTIVE_ACT y = b.srcBit R.DIST_ACTIVE_ACT y
  frame : b'.mem = b.mem ∧ b'.isSealed = b.isSealed

theorem Forced.step {r w n : Nat} {b b' : Block} (hr : r < 32) (hn : n < 32) (h : Forced r w n b b') :
    Forced r w (n + 1) b (if w.testBit n then b'.force (32 * r + n) else b') := by
  have hiff : ∀ y, (y / 32 = r ∧ y % 32 = n) ↔ y = 32 * r + n := fun y => by omega
  split
  next hw =>
    have hat := force_atSource b' (show 32 * r + n < 1024 by omega)
    refine ⟨fun y => ?_, fun y => ?_, hat.mem.trans h.frame.1, hat.isSealed.trans h.frame.2⟩
    · rw [force_pend, h.pend]
      split
      next hy =>
        obtain ⟨hq, hm⟩ := (hiff y).mpr hy
        rw [hq, hm, hw]
        simp
      next hy =>
        have : (decide (y / 32 = r) && decide (y % 32 < n + 1)) = (decide (y / 32 = r) && decide (y % 32 < n)) := by
          rw [Bool.eq_iff_iff, Bool.and_eq_true, Bool.and_eq_true, decide_eq_true_iff, decide_eq_true_iff, decide_eq_true_iff]
          omega
        rw [this]
    · rw [force_active b' (by omega), h.active]
  next hw =>
    refine ⟨fun y => ?_, h.active, h.frame⟩
    rw [h.pend]
    by_cases hy : y % 32 = n
    · rw [hy, Bool.eq_false_iff.mpr hw, Bool.and_false, Bool.and_false]
    · rw [decide_eq_decide.mpr (show y % 32 < n ↔ y % 32 < n + 1 by omega)]

theorem pendSet_forced (b : Block) {r w : Nat} (hr : r < 32) : Forced r w 32 (b.distAt 2) (b.pendSet r w) := by
  have h : ∀ n ≤ 32, Forced r w n (b.distAt 2)
      (forEach n (fun i b => if w.testBit i then b.force (32 * r + i) else b) (b.distAt 2)) := by
    intro n hn
    induction n with
    | zero => exact ⟨fun y => by simp [forEach], fun _ => rfl, rfl, rfl⟩
    | succ n ih =>
      unfold forEach at *
      rw [List.range_succ, List.foldl_append]
      exact (ih (by omega)).step hr (by omega)
  exact h 32 le_rfl

/-! ## Strobes served (R54, R359) -/

theorem strobeOf_pe {b : Block} {n op : Nat} {q : Strobe} (h : b.strobeOf n op = some q) : q.pe = n := by
  have hfound := List.find?_some h
  rw [Bool.and_eq_true, beq_iff_eq] at hfound
  exact hfound.1

/-- A strobe that its unit takes, be it from either world or the unit asks for none. -/
theorem extServe_taken {b : Block} {n op : Nat} {q : Strobe} {world : Option Nat} {f : Strobe → Block → Block × Except Nat W64}
    (hq : b.strobeOf n op = some q) (hw : world = none ∨ q.tenant = false) :
    b.extServe n op world f = (f q b).1.extReply n (f q b).2 := by
  unfold Block.extServe
  rw [hq]
  cases world with
  | none => rfl
  | some w =>
    have ht : q.tenant = false := hw.resolve_left (Option.some_ne_none w)
    dsimp only
    rw [if_neg (by rw [ht]; exact Bool.false_ne_true)]

/-- A Tenant strobe that its unit refuses. -/
theorem extServe_refused {b : Block} {n op w : Nat} {q : Strobe} {f : Strobe → Block → Block × Except Nat W64}
    (hq : b.strobeOf n op = some q) (ht : q.tenant = true) : b.extServe n op (some w) f = b.extReply n (.error w) := by
  unfold Block.extServe
  rw [hq]
  exact if_pos ht

/-- A unit's operation that takes the strobe `q` and makes the block `b` with the answer `r`. -/
theorem gives_taken {c : Instr} {s : State} {n op : Nat} {q : Strobe} {world : Option Nat} {f : Strobe → Block → Block × Except Nat W64}
    {b : Block} {r : Except Nat W64} {P : State → Prop} (hx : exec c s = done s (s.blk.extServe n op world f))
    (hq : s.blk.strobeOf n op = some q) (hw : world = none ∨ q.tenant = false) (hf : f q s.blk = (b, r))
    (hs : b.isSealed = s.blk.isSealed) (hp : P { s with blk := b.extReply n r }) : Gives c s P := by
  refine gives_of_done (b := b.extReply n r) ?_ hs hp
  rw [hx, extServe_taken hq hw, hf]

theorem gives_refused {c : Instr} {s : State} {n op w : Nat} {q : Strobe} {f : Strobe → Block → Block × Except Nat W64}
    {P : State → Prop} (hx : exec c s = done s (s.blk.extServe n op (some w) f))
    (hq : s.blk.strobeOf n op = some q) (ht : q.tenant = true) (hp : P { s with blk := s.blk.extReply n (.error w) }) : Gives c s P := by
  refine gives_of_done (b := s.blk.extReply n (.error w)) ?_ rfl hp
  rw [hx, extServe_refused hq ht]

theorem extReply_error (b : Block) (n : PE) (w : Nat) : b.extReply n (.error w) = Replied b n true (BitVec.ofNat 64 w) := rfl

theorem extReply_ok (b : Block) (n : PE) (v : W64) : b.extReply n (.ok v) = Replied b n false v := rfl

/-! ## The obligation -/

theorem strobe_target {b : Block} {n : PE} {op : Nat} {q : Strobe} (h : b.strobeOf n op = some q) :
    q.target = 2 * n.val + bit q.tenant := by
  unfold Strobe.target
  rw [strobeOf_pe h]

/-- What `AtSource` says of the sources and the memory, in the terms of the statement. -/
theorem AtSource.others {x : Nat} {b b' : Block} (h : AtSource x b b') :
    (∀ y < 1024, y ≠ x → b'.srcBit R.DIST_PENDSET_PEND y = b.srcBit R.DIST_PENDSET_PEND y ∧
      b'.srcBit R.DIST_ACTIVE_ACT y = b.srcBit R.DIST_ACTIVE_ACT y) ∧ b'.mem = b.mem :=
  ⟨fun y hy hyx => ⟨h.pend y hy hyx, h.active y hy hyx⟩, h.mem⟩

theorem cycle_frame {new : Bool} {b u : Block} (h : Cycled new b u) :
    { u with regs := b.regs, dcycle := b.dcycle } = b ∧ ∀ y < 1024,
      u.srcBit R.DIST_ACTIVE_ACT y = b.srcBit R.DIST_ACTIVE_ACT y ∧ u.srcBit R.DIST_PENDSET_PEND y =
        (b.srcBit R.DIST_PENDSET_PEND y && !(new && isLevel y && b.dcycle.forced.contains y)) :=
  ⟨h.frame, fun y _ => ⟨h.active y, h.pend y⟩⟩

/-- The answer a unit's operation leaves beside its change. -/
theorem replied_answer {b d : Block} {n : PE} {err : Bool} {v : W64} (he : d.extAns = b.extAns) (hs : d.strobes = b.strobes) :
    (Replied d n err v).extAns = b.extAns ++ [⟨n, err, some v⟩] ∧ (Replied d n err v).strobes = b.strobes.filter (·.pe != n.val) := by
  constructor
  · exact congrArg (· ++ _) he
  · exact congrArg (List.filter _) hs

theorem distEvent_gives (x : BitVec 10) (s : State) :
    (isLevel x.toNat = false → s.blk.srcOn x.toNat = true → Gives (.sourceEvent x) s fun u =>
      u.blk.srcBit R.DIST_PENDSET_PEND x.toNat = true ∧
        u.blk.srcBit R.DIST_ACTIVE_ACT x.toNat = s.blk.srcBit R.DIST_ACTIVE_ACT x.toNat ∧ AtSource x.toNat (s.blk.distAt 1) u.blk) ∧
    (isLevel x.toNat = false → s.blk.srcOn x.toNat = false → Gives (.sourceEvent x) s (Same s)) ∧
    (isLevel x.toNat = true → s.blk.srcBit R.DIST_ACTIVE_ACT x.toNat = false → Gives (.sourceEvent x) s fun u =>
      u.blk.srcBit R.DIST_PENDSET_PEND x.toNat = false ∧ u.blk.srcBit R.DIST_ACTIVE_ACT x.toNat = false ∧
        AtSource x.toNat (s.blk.distAt 1) u.blk) ∧
    (isLevel x.toNat = true → s.blk.srcBit R.DIST_ACTIVE_ACT x.toNat = true → Gives (.sourceEvent x) s fun u =>
      u.blk = s.blk.distAt 1) := by
  have hx : x.toNat < 1024 := x.isLt
  have hc := distAt_cycled s.blk 1
  have hexec : exec (.sourceEvent x) s = done s
      (if isLevel x.toNat then (s.blk.distAt 1).sample x.toNat else if s.blk.srcOn x.toNat then s.blk.event x.toNat else s.blk) := rfl
  refine ⟨fun hl hon => ?_, fun hl hoff => ?_, fun hl ha => ?_, fun hl ha => ?_⟩
  · rw [hl, hon, if_neg Bool.false_ne_true, if_pos rfl] at hexec
    have hat := setPend_atSource (s.blk.distAt 1) hx
    exact gives_of_done hexec (hat.isSealed.trans hc.isSealed)
      ⟨setPend_pend.trans (if_pos rfl), (setPend_active hx).trans (hc.active _), hat⟩
  · rw [hl, hoff, if_neg Bool.false_ne_true, if_neg Bool.false_ne_true] at hexec
    exact gives_of_done hexec rfl rfl
  · rw [hl, if_pos rfl] at hexec
    obtain ⟨hat, hp, hact, -⟩ := sample_at hx ((hc.active _).trans ha)
    exact gives_of_done hexec (hat.isSealed.trans hc.isSealed) ⟨hp, hact, hat⟩
  · rw [hl, if_pos rfl, sample_of_active ((hc.active _).trans ha)] at hexec
    exact gives_of_done hexec hc.isSealed rfl

theorem pendset_gives (r : Fin 32) (w : W32) (s : State) : Gives (.distPendset r w) s fun u =>
    (∀ i < 32, u.blk.srcBit R.DIST_PENDSET_PEND (32 * r + i) =
      (w.getLsbD i || (s.blk.distAt 2).srcBit R.DIST_PENDSET_PEND (32 * r + i))) ∧
    (∀ y < 1024, y / 32 ≠ r.val → u.blk.srcBit R.DIST_PENDSET_PEND y = (s.blk.distAt 2).srcBit R.DIST_PENDSET_PEND y) ∧
    (∀ y < 1024, u.blk.srcBit R.DIST_ACTIVE_ACT y = s.blk.srcBit R.DIST_ACTIVE_ACT y) ∧ u.blk.mem = s.blk.mem := by
  have hc := distAt_cycled s.blk 2
  obtain ⟨hpend, hact, hmem, hsealed⟩ := pendSet_forced s.blk (w := w.toNat) r.isLt
  refine gives_of_done rfl (hsealed.trans hc.isSealed)
    ⟨fun i hi => ?_, fun y _ hy => ?_, fun y _ => (hact y).trans (hc.active y), hmem.trans hc.mem⟩
  · have hdiv : (32 * r.val + i) / 32 = r.val := by omega
    have hmod : (32 * r.val + i) % 32 = i := by omega
    refine (hpend _).trans ?_
    rw [hdiv, hmod, decide_eq_true rfl, decide_eq_true hi]
    rfl
  · refine (hpend y).trans ?_
    rw [decide_eq_false hy]
    rfl

/-- A claim's end in the terms of the statement. -/
theorem Claimed.outcome {b b' : Block} {t x : Nat} (h : Claimed b t x b') :
    b'.srcBit R.DIST_PENDSET_PEND x = false ∧ b'.srcBit R.DIST_ACTIVE_ACT x = true ∧ b'.claimer.look x = some t ∧
      (∀ z < 1024, z ≠ x → b'.srcBit R.DIST_PENDSET_PEND z = b.srcBit R.DIST_PENDSET_PEND z ∧
        b'.srcBit R.DIST_ACTIVE_ACT z = b.srcBit R.DIST_ACTIVE_ACT z) ∧ b'.mem = b.mem :=
  ⟨h.pend, h.active, h.claimer, h.at_source.others.1, h.at_source.mem⟩

theorem BADCPL_raised (b : Block) (t : Nat) : OnlyFields [R.DIST_STAT_BADCPL t] b (b.raise (R.DIST_STAT_BADCPL t)) ∧
    (b.raise (R.DIST_STAT_BADCPL t)).get (R.DIST_STAT_BADCPL t) = 1 :=
  ⟨⟨rfl, fun _ hg => Block.get_put_ne _ _ _ _ (hg _ List.mem_cons_self)⟩, Block.get_put_same _ _ _⟩

theorem claim_eq_of_best {b : Block} {t x : Nat} (hb : (b.claimCycle t).best t = some x) :
    ∃ c, b.claim t = (c, 2 ^ 31 + x) ∧ Claimed (b.claimCycle t) t x c := by
  obtain ⟨hclaim, hword⟩ := claim_of_best hb
  generalize b.claim t = p at hclaim hword ⊢
  exact ⟨p.1, hword ▸ rfl, hclaim⟩

section
variable {s : State} {P : State → Prop} {c : Block} {n : PE} {q : Strobe} {v : Nat} {bad : Bool}

theorem gives_distClaim {t : Fin 144} (hb : s.blk.claim t = (c, v)) (hs : c.isSealed = s.blk.isSealed)
    (hp : P { s with blk := c }) : Gives (.distClaim t) s P := by
  refine gives_of_done ?_ hs hp
  show done s (s.blk.claim t).1 = _
  rw [hb]

theorem gives_distComplete {t : Fin 144} {x : BitVec 10} (hb : s.blk.complete t x.toNat = (c, bad))
    (hs : c.isSealed = s.blk.isSealed) (hp : P { s with blk := c }) : Gives (.distComplete t x) s P := by
  refine gives_of_done ?_ hs hp
  show done s (s.blk.complete t x.toNat).1 = _
  rw [hb]

theorem gives_claim (hq : s.blk.strobeOf n 0xC0 = some q) (hb : s.blk.claim q.target = (c, v))
    (hs : c.isSealed = s.blk.isSealed) (hp : P { s with blk := Replied c n false (BitVec.ofNat 64 v) }) : Gives (.claim n) s P := by
  refine gives_taken (r := .ok (BitVec.ofNat 64 v)) (f := fun q b => let r := b.claim q.target; (r.1, .ok (BitVec.ofNat 64 r.2))) rfl hq (.inl rfl) ?_ hs hp
  dsimp only
  rw [hb]

theorem gives_complete (hq : s.blk.strobeOf n 0xC1 = some q) (hb : s.blk.complete q.target (q.a.toNat % 1024) = (c, bad))
    (hs : c.isSealed = s.blk.isSealed) (hp : P { s with blk := Replied c n bad (if bad then 2 else 0) }) : Gives (.complete n) s P := by
  refine gives_taken (r := if bad then .error 0x02 else .ok 0) (f := fun q b =>
    let r := b.complete q.target (q.a.toNat % 1024)
    (r.1, if r.2 then .error 0x02 else .ok 0)) rfl hq (.inl rfl) ?_ hs ?_
  · dsimp only
    rw [hb]
  · cases bad
    · exact hp
    · exact hp

/-- What RING makes of source `x` (R359). -/
def ringAt (x : Nat) (q : Strobe) (b : Block) : Block × Except Nat W64 :=
  if !(isDoorbell x || decide (448 ≤ x)) then (b, .error 0x01)
  else if q.tenant then (b, .error 0x08)
  else ((b.distAt 2).setPend x, .ok 0)

theorem gives_ring {r : Except Nat W64} (hq : s.blk.strobeOf n 0xC2 = some q) (hb : ringAt (q.a.toNat % 1024) q s.blk = (c, r))
    (hs : c.isSealed = s.blk.isSealed) (hp : P { s with blk := c.extReply n r }) : Gives (.ring n) s P :=
  gives_taken (f := fun q b => ringAt (q.a.toNat % 1024) q b) rfl hq (.inl rfl) hb hs hp

theorem not_ringable {x : Nat} : (!(isDoorbell x || decide (448 ≤ x))) = true ↔ isDoorbell x = false ∧ x < 448 := by
  rw [Bool.not_eq_true', Bool.or_eq_false_iff, decide_eq_false_iff_not, not_le]

theorem ringAt_other {x : Nat} {b : Block} (hd : isDoorbell x = false) (hlow : x < 448) : ringAt x q b = (b, .error 0x01) := by
  unfold ringAt
  rw [if_pos (not_ringable.mpr ⟨hd, hlow⟩)]

section
variable {x : Nat} {b : Block} (hring : isDoorbell x = true ∨ 448 ≤ x)
include hring

theorem ringable : ¬(!(isDoorbell x || decide (448 ≤ x))) = true := by
  rw [not_ringable]
  rintro ⟨hd, hlow⟩
  exact hring.elim (fun h => by rw [hd] at h; cases h) (fun h => by omega)

theorem ringAt_tenant (ht : q.tenant = true) : ringAt x q b = (b, .error 0x08) := by
  unfold ringAt
  rw [if_neg (ringable hring), if_pos ht]

theorem ringAt_vendor (ht : q.tenant = false) : ringAt x q b = ((b.distAt 2).setPend x, .ok 0) := by
  unfold ringAt
  rw [if_neg (ringable hring), if_neg (by rw [ht]; exact Bool.false_ne_true)]

end

end

/-- Settles O30: each change of the Distributor is the one source's own (`AtSource`) on the cycle that R353 gives it (`Cycled`). -/
theorem claimsAndDistributor : Obligations.ClaimsAndDistributor := by
  unfold Obligations.ClaimsAndDistributor
  refine ⟨fun b t => ⟨best_eq_none_iff b t, best_eq_some_iff b t⟩, fun b t k => ?_, fun n t x r w q s => ?_⟩
  · exact ⟨distAt_step b k, cycle_frame (distAt_cycled b k), claimCycle_step b t, claimCycle_served b t,
      cycle_frame (claimCycle_cycled b t)⟩
  have hx : x.toNat < 1024 := x.isLt
  obtain ⟨hon, hoff, hidle, hactive⟩ := distEvent_gives x s
  intro b pending active others claimed to' answer
  have htgt : ∀ {op : Nat}, b.strobeOf n op = some q → q.target = to' := fun h => strobe_target h
  refine ⟨fun hl h => (hon hl h).mono fun u ⟨hp, ha, hat⟩ => ⟨hp, ha, hat.others⟩, hoff,
    fun hl h => (hidle hl h).mono fun u ⟨hp, ha, hat⟩ => ⟨hp, ha, hat.others⟩, hactive, pendset_gives r w s,
    fun y hy => ?_, fun hnone => ?_, fun h => ?_, fun h ha hcl => ?_, fun h hn => ?_, fun y hq hy => ?_, fun hq hnone => ?_,
    fun hq hqx => ⟨fun h => ?_, fun h ha hcl => ?_, fun h hn => ?_⟩, fun hq hqx => ⟨fun hring => ⟨fun htw => ?_, fun htw => ?_⟩, fun hd hlow => ?_⟩⟩
  · obtain ⟨c, hc, hclaim⟩ := claim_eq_of_best hy
    exact gives_distClaim hc (hclaim.at_source.isSealed.trans (claimCycle_cycled b t).isSealed) hclaim.outcome
  · exact gives_distClaim (claim_of_none hnone) (claimCycle_cycled b t).isSealed ⟨rfl, fun _ _ => rfl⟩
  · obtain ⟨hat, hp, ha, hbad⟩ := complete_doorbell_at b h hx
    exact gives_of_done rfl (hat.isSealed.trans (distAt_cycled b 0).isSealed) ⟨hp, ha, hat.others, hbad⟩
  · obtain ⟨hat, hact, hbad⟩ := complete_claimed_at h hx ha hcl
    exact gives_of_done rfl (hat.isSealed.trans (distAt_cycled b 3).isSealed) ⟨hact, hat.others, hbad⟩
  · exact gives_distComplete (complete_other h hn) (distAt_cycled b 3).isSealed (BADCPL_raised _ _)
  · obtain ⟨c, hc, hclaim⟩ := claim_eq_of_best hy
    have hcyc := claimCycle_cycled b to'
    have hat := hclaim.at_source
    exact gives_claim hq ((congrArg b.claim (htgt hq)).trans hc) (hat.isSealed.trans hcyc.isSealed)
      ⟨hclaim.outcome, replied_answer (hat.extAns.trans hcyc.extAns) (hat.strobes.trans hcyc.strobes)⟩
  · exact gives_claim hq ((congrArg b.claim (htgt hq)).trans (claim_of_none hnone)) (claimCycle_cycled b to').isSealed ⟨rfl, fun _ _ => rfl⟩
  · obtain ⟨hat, hp, -, -⟩ := complete_doorbell_at b h hx
    have hcyc := distAt_cycled b 0
    rw [complete_doorbell h] at hat hp
    exact gives_complete hq ((congrArg₂ b.complete (htgt hq) hqx).trans (complete_doorbell h)) (hat.isSealed.trans hcyc.isSealed)
      ⟨hp, hat.others, replied_answer (hat.extAns.trans hcyc.extAns) (hat.strobes.trans hcyc.strobes)⟩
  · obtain ⟨hat, hact, -⟩ := complete_claimed_at h hx ha hcl
    have hcyc := distAt_cycled b 3
    rw [complete_claimed h ha hcl] at hat hact
    exact gives_complete hq ((congrArg₂ b.complete (htgt hq) hqx).trans (complete_claimed h ha hcl)) (hat.isSealed.trans hcyc.isSealed)
      ⟨hact, hat.others, replied_answer (hat.extAns.trans hcyc.extAns) (hat.strobes.trans hcyc.strobes)⟩
  · have hcyc := distAt_cycled b 3
    obtain ⟨⟨-, honly⟩, hbad⟩ := BADCPL_raised (b.distAt 3) to'
    exact gives_complete hq ((congrArg₂ b.complete (htgt hq) hqx).trans (complete_other h hn)) hcyc.isSealed
      ⟨hbad, replied_answer hcyc.extAns hcyc.strobes, rfl, honly⟩
  · have hcyc := distAt_cycled b 2
    have hat := setPend_atSource (b.distAt 2) hx
    exact gives_ring (r := .ok 0) hq (by rw [hqx]; exact ringAt_vendor hring htw) (hat.isSealed.trans hcyc.isSealed)
      ⟨setPend_pend.trans (if_pos rfl), hat.others, replied_answer (hat.extAns.trans hcyc.extAns) (hat.strobes.trans hcyc.strobes)⟩
  · exact gives_ring hq (by rw [hqx]; exact ringAt_tenant hring htw) rfl rfl
  · exact gives_ring hq (by rw [hqx]; exact ringAt_other hd hlow) rfl rfl

end Sys2Proof.Machine
end

section
/-! The engine-side units: watchdogs, region commits, chains (R149, R152, R330, R342 to R345). -/
namespace Sys2Proof.Machine

/-! ## Register fields kept -/

theorem KeepsFields.refl (fs : List Fld) (b : Block) : KeepsFields fs b b := fun _ _ => rfl

theorem KeepsFields.trans {fs : List Fld} {a b c : Block} (h : KeepsFields fs a b) (k : KeepsFields fs b c) : KeepsFields fs a c :=
  fun x hx => (k x hx).trans (h x hx)

theorem KeepsFields.put {fs : List Fld} {a b : Block} (h : KeepsFields fs a b) {f : Fld} (hf : f ∈ fs) (v : Nat) :
    KeepsFields fs a (b.put f v) := fun x hx => (Block.get_put_ne _ _ _ _ (hx f hf)).trans (h x hx)

/-- A block with the same registers keeps the same fields. -/
theorem KeepsFields.of_regs {fs : List Fld} {a b c : Block} (h : KeepsFields fs a b) (hr : c.regs = b.regs) : KeepsFields fs a c :=
  fun x hx => (congrArg (fun t : Tab Nat => t.get x.key x.rst) hr).trans (h x hx)

/-! ## Watchdogs -/

theorem wdgRuns_congr {b b' : Block} {n : Nat} (he : b'.engine n = b.engine n)
    (hg : KeepsFields [R.ENG_WDG_CNT_COUNT n, R.ENG_WDG_CTRL_EXP1 n] b b') : b'.wdgRuns n = b.wdgRuns n := by
  have hflag : ∀ x : Fld, x.key ≠ (R.ENG_WDG_CNT_COUNT n).key → x.key ≠ (R.ENG_WDG_CTRL_EXP1 n).key → b'.get x = b.get x :=
    fun x h1 h2 => hg x (by simp [h1, h2])
  unfold Block.wdgRuns Block.flag
  simp only [he]
  simp (disch := simp only [Fld.key, R.ENG_WDG_CNT_COUNT, R.ENG_WDG_CTRL_EXP1, R.ENG_WDG_CTRL_EN, R.ENG_USTAT_HALTED,
    R.ENG_XSTAT_LOCKUP, R.PWR_ENG_STATE, R.ENG_WDG_CTRL_FREEZE, R.ENG_DBGSTAT_CSTOP, R.ENG_DBGSTAT_MONITOR]; omega) only [hflag]

theorem wdgLoad_eq (b : Block) (n v : Nat) :
    b.wdgLoad n v = (b.put (R.ENG_WDG_CNT_COUNT n) v).setEngine n { b.engine n with wdgExact := !b.wdgRuns n } := by
  have hr : (b.put (R.ENG_WDG_CNT_COUNT n) v).wdgRuns n = b.wdgRuns n :=
    wdgRuns_congr rfl ((KeepsFields.refl _ b).put List.mem_cons_self v)
  unfold Block.wdgLoad
  dsimp only
  rw [hr]
  rfl

/-- COUNT and EXP1 of a watchdog are fields of their own. -/
theorem COUNT_ne_EXP1 (n : Nat) : (R.ENG_WDG_CNT_COUNT n).key ≠ (R.ENG_WDG_CTRL_EXP1 n).key := by
  simp only [Fld.key, R.ENG_WDG_CNT_COUNT, R.ENG_WDG_CTRL_EXP1]
  omega

/-- A watchdog's COUNT, EXP1 and its own state in the engine given values. -/
def Block.wdgSet (b : Block) (n count exp1 : Nat) (due exact : Bool) : Block :=
  ((b.put (R.ENG_WDG_CNT_COUNT n) count).put (R.ENG_WDG_CTRL_EXP1 n) exp1).setEngine n
    { b.engine n with wdgDue := due, wdgExact := exact }

section
variable (b : Block) (n count exp1 : Nat) (due exact : Bool)

theorem wdgSet_count : (b.wdgSet n count exp1 due exact).get (R.ENG_WDG_CNT_COUNT n) = count % 2 ^ 32 :=
  (Block.get_put_ne _ _ _ _ (COUNT_ne_EXP1 n)).trans (Block.get_put_same _ _ _)

theorem wdgSet_exp1 : (b.wdgSet n count exp1 due exact).get (R.ENG_WDG_CTRL_EXP1 n) = exp1 % 2 := Block.get_put_same _ _ _

theorem wdgSet_keeps : KeepsFields [R.ENG_WDG_CNT_COUNT n, R.ENG_WDG_CTRL_EXP1 n] b (b.wdgSet n count exp1 due exact) :=
  (((KeepsFields.refl _ b).put (by simp) count).put (by simp) exp1).of_regs rfl

theorem wdgLoad_then : ((b.wdgLoad n count).put (R.ENG_WDG_CTRL_EXP1 n) exp1).modEngine n (fun e => { e with wdgDue := due }) =
    b.wdgSet n count exp1 due (!b.wdgRuns n) := by
  have he : (((b.put (R.ENG_WDG_CNT_COUNT n) count).setEngine n { b.engine n with wdgExact := !b.wdgRuns n }).put
      (R.ENG_WDG_CTRL_EXP1 n) exp1).engine n = { b.engine n with wdgExact := !b.wdgRuns n } := Block.setEngine_engine_same _ _ _
  unfold Block.modEngine
  rw [wdgLoad_eq, he]
  exact setEngine_setEngine ((b.put _ _).put _ _) n _ _

end

theorem wdgService_eq (b : Block) (n : Nat) :
    b.wdgService n = b.wdgSet n (b.get (R.ENG_WDG_PERIOD_PERIOD n)) 0 false (!b.wdgRuns n) := wdgLoad_then b n _ 0 false

/-- A service's end: COUNT loaded, EXP1 clear, vector 2 no longer due. -/
theorem wdgService_served (b : Block) (n : Nat) : (b.wdgService n).get (R.ENG_WDG_CNT_COUNT n) = b.get (R.ENG_WDG_PERIOD_PERIOD n) % 2 ^ 32 ∧
    (b.wdgService n).get (R.ENG_WDG_CTRL_EXP1 n) = 0 ∧
    KeepsFields [R.ENG_WDG_CNT_COUNT n, R.ENG_WDG_CTRL_EXP1 n] b (b.wdgService n) := by
  rw [wdgService_eq]
  exact ⟨wdgSet_count b n _ _ _ _, wdgSet_exp1 b n _ _ _ _, wdgSet_keeps b n _ _ _ _⟩

/-! ## The second expiry (R343) -/

theorem foldl_clear_frame (l : List Fld) (b : Block) : { l.foldl Block.clear b with regs := b.regs } = b := by
  induction l generalizing b with
  | nil => rfl
  | cons f l ih => exact congrArg (fun c : Block => { c with regs := b.regs }) (ih (b.clear f))

theorem foldl_clear_get {l : List Fld} {g : Fld} (hg : ∀ f ∈ l, g.key ≠ f.key) (b : Block) : (l.foldl Block.clear b).get g = b.get g := by
  induction l generalizing b with
  | nil => rfl
  | cons f l ih =>
    exact (ih (fun f hf => hg f (List.mem_cons_of_mem _ hf)) _).trans (Block.get_put_ne _ _ _ _ (hg f List.mem_cons_self))

/-- What a reset leaves of the engine: its control store and what the debug bus set up, no halt (R343). -/
theorem resetEngine_engine (b : Block) (n : Nat) : (b.resetEngine n).engine n = { (b.engine n).started with halt := none } := by
  have h := congrArg Block.eng (foldl_clear_frame [R.ENG_DBGSTAT_CSTOP n, R.ENG_DBGSTAT_MONITOR n, R.ENG_DBGSTAT_PENDING n,
    R.ENG_DBGSTAT_STEPPING n, R.ENG_LKSTAT_LKACT n] ((b.modEngine n Engine.started).modEngine n fun e => { e with halt := none }))
  refine (congrArg (fun t : Tab Engine => t.get n Engine.reset) h).trans ?_
  refine (Block.setEngine_engine_same _ _ _).trans ?_
  rw [Block.modEngine_engine_same]

theorem resetEngine_count (b : Block) (n : Nat) : (b.resetEngine n).get (R.ENG_WDG_CNT_COUNT n) = b.get (R.ENG_WDG_CNT_COUNT n) := by
  refine foldl_clear_get (fun f hf => ?_) _
  simp only [List.mem_cons, List.not_mem_nil, or_false] at hf
  obtain rfl | rfl | rfl | rfl | rfl := hf <;>
    simp only [Fld.key, R.ENG_WDG_CNT_COUNT, R.ENG_DBGSTAT_CSTOP, R.ENG_DBGSTAT_MONITOR, R.ENG_DBGSTAT_PENDING,
      R.ENG_DBGSTAT_STEPPING, R.ENG_LKSTAT_LKACT] <;> omega

theorem resetEngine_frame (b : Block) (n : Nat) : { b.resetEngine n with regs := b.regs, eng := b.eng } = b :=
  congrArg (fun c : Block => { c with regs := b.regs, eng := b.eng })
    (foldl_clear_frame [R.ENG_DBGSTAT_CSTOP n, R.ENG_DBGSTAT_MONITOR n, R.ENG_DBGSTAT_PENDING n, R.ENG_DBGSTAT_STEPPING n,
      R.ENG_LKSTAT_LKACT n] ((b.modEngine n Engine.started).modEngine n fun e => { e with halt := none }))

/-- A transition queued touches the Spare Manager's queue alone, and its engine has one there. -/
theorem queueHw_queued (b : Block) {r : HwReq} {n : Nat} (hr : r.pe = some n) :
    { b.queueHw r with spm := b.spm } = b ∧ ((b.queueHw r).spm.hwQ.any fun q => q.pe == some n) = true := by
  unfold Block.queueHw
  dsimp only
  have hkeep : { (if r.isWear = true then b else b.modSpm fun s => { s with hwQ := s.hwQ.filter fun q => !(q.isWear && q.pe == r.pe) }) with
      spm := b.spm } = b := by
    split <;> rfl
  generalize (if r.isWear = true then b else b.modSpm fun s => { s with hwQ := s.hwQ.filter fun q => !(q.isWear && q.pe == r.pe) }) = c
    at hkeep ⊢
  split
  next h =>
    rw [hr] at h
    exact ⟨hkeep, h.2⟩
  next => exact ⟨hkeep, by simp [Block.modSpm, hr]⟩

/-- A watchdog's second expiry. -/
def Block.wdgStop (b : Block) (n : Nat) : Block := (((b.wdgLoad n 0).resetEngine n).event n).stopWithStrike n

theorem COUNT_ne_pend (n : PE) (r : Nat) (_ : r < 32) : (R.ENG_WDG_CNT_COUNT n).key ≠ (R.DIST_PENDSET_PEND r).key := by
  rw [pendArray.key]
  simp only [Fld.key, R.ENG_WDG_CNT_COUNT]
  omega

theorem COUNT_ne_busy (n : PE) (m : Nat) (_ : m < 72) : (R.ENG_WDG_CNT_COUNT n).key ≠ (R.PWR_ENG_BUSY m).key := by
  simp only [Fld.key, R.ENG_WDG_CNT_COUNT, R.PWR_ENG_BUSY]
  omega

/-- A transition queued after an event: of the engines, the memory and LC_STATE nothing changes. -/
theorem stopped_event_frame {b c d : Block} {x : Nat} (he : Signals [] x b c) (hq : { d with spm := c.spm } = c) :
    d.eng = b.eng ∧ d.mem = b.mem ∧ d.isSealed = b.isSealed ∧ d.regs = c.regs := by
  have h := he.1
  have e1 := congrArg Block.eng h
  have e2 := congrArg Block.mem h
  have e3 := congrArg Block.isSealed h
  have q1 := congrArg Block.eng hq
  have q2 := congrArg Block.mem hq
  have q3 := congrArg Block.isSealed hq
  have q4 := congrArg Block.regs hq
  exact ⟨q1.trans e1, q2.trans e2, q3.trans e3, q4⟩

theorem wdgStop_stopped (b : Block) (n : PE) :
    (b.wdgStop n).engine n = { (b.engine n).started with halt := none } ∧
      (b.wdgStop n).get (R.ENG_WDG_CNT_COUNT n) = 0 ∧ (b.wdgStop n).srcBit R.DIST_PENDSET_PEND n = true ∧
      ((b.wdgStop n).spm.hwQ.any fun r => r.pe == some n.val) = true ∧ (b.wdgStop n).mem = b.mem ∧
      (b.wdgStop n).isSealed = b.isSealed := by
  unfold Block.wdgStop Block.stopWithStrike
  rw [wdgLoad_eq]
  generalize hb : (b.put (R.ENG_WDG_CNT_COUNT n) 0).setEngine n { b.engine n with wdgExact := !b.wdgRuns n } = b1
  have hload : b1.engine n = { b.engine n with wdgExact := !b.wdgRuns n } := hb ▸ Block.setEngine_engine_same _ _ _
  have hzero : b1.get (R.ENG_WDG_CNT_COUNT n) = 0 := hb ▸ Block.get_put_same b (R.ENG_WDG_CNT_COUNT n) 0
  have hmem1 : b1.mem = b.mem := hb ▸ rfl
  have hsealed1 : b1.isSealed = b.isSealed := hb ▸ rfl
  have hengine := resetEngine_engine b1 n
  have hcount := resetEngine_count b1 n
  have hmem2 := congrArg Block.mem (resetEngine_frame b1 n)
  have hsealed2 := congrArg Block.isSealed (resetEngine_frame b1 n)
  have he := event_signals (x := n) (by omega) (b1.resetEngine n)
  obtain ⟨hq, hany⟩ := queueHw_queued ((b1.resetEngine n).event n) (r := .stop n) rfl
  obtain ⟨heng, hmem, hsealed, hregs⟩ := stopped_event_frame he hq
  obtain ⟨-, -, hpend, -, hget⟩ := he
  refine ⟨?_, ?_, ?_, hany, hmem.trans (hmem2.trans hmem1), hsealed.trans (hsealed2.trans hsealed1)⟩
  · refine (congrArg (fun t : Tab Engine => t.get n Engine.reset) heng).trans ?_
    refine hengine.trans ?_
    rw [hload]
    rfl
  · refine (congrArg (fun t : Tab Nat => t.get (R.ENG_WDG_CNT_COUNT n).key (R.ENG_WDG_CNT_COUNT n).rst) hregs).trans ?_
    exact (hget _ (fun _ h => absurd h List.not_mem_nil) (COUNT_ne_pend n) (COUNT_ne_busy n)).trans (hcount.trans hzero)
  · refine (srcBit_congr ?_).trans hpend
    exact congrArg (fun t : Tab Nat => t.get (R.DIST_PENDSET_PEND (n / 32)).key (R.DIST_PENDSET_PEND (n / 32)).rst) hregs

/-! ## The obligation -/

theorem atEng_of_on {b : Block} {n o : Nat} {act : Block → Block} (h : b.get (R.PWR_ENG_STATE n) = 2 ∧ b.get (R.peState n) ≠ 3) :
    b.atEng n o act = act b := by
  unfold Block.atEng
  rw [if_neg (by rw [h.1]; simp), if_neg (fun h' => h.2 h'.2)]

theorem wdgExpiry_first {s : State} {n : PE} (hr : s.blk.wdgRuns n = true) (h1 : s.blk.flag (R.ENG_WDG_CTRL_EXP1 n) = false) :
    exec (.watchdogExpiry n) s = done s (s.blk.wdgSet n (s.blk.get (R.ENG_WDG_PERIOD_PERIOD n)) 1 true false) := by
  have hexec : exec (.watchdogExpiry n) s = done s (if s.blk.wdgRuns n then
      if s.blk.flag (R.ENG_WDG_CTRL_EXP1 n) then s.blk.wdgStop n
      else ((s.blk.wdgLoad n (s.blk.get (R.ENG_WDG_PERIOD_PERIOD n))).put (R.ENG_WDG_CTRL_EXP1 n) 1).modEngine n
        fun e => { e with wdgDue := true }
    else s.blk) := rfl
  rw [hexec, hr, h1, if_pos rfl, if_neg Bool.false_ne_true, wdgLoad_then, hr]
  rfl

theorem wdgExpiry_second {s : State} {n : PE} (hr : s.blk.wdgRuns n = true) (h1 : s.blk.flag (R.ENG_WDG_CTRL_EXP1 n) = true) :
    exec (.watchdogExpiry n) s = done s (s.blk.wdgStop n) := by
  have hexec : exec (.watchdogExpiry n) s = done s (if s.blk.wdgRuns n then
      if s.blk.flag (R.ENG_WDG_CTRL_EXP1 n) then s.blk.wdgStop n
      else ((s.blk.wdgLoad n (s.blk.get (R.ENG_WDG_PERIOD_PERIOD n))).raise (R.ENG_WDG_CTRL_EXP1 n)).modEngine n
        fun e => { e with wdgDue := true }
    else s.blk) := rfl
  rw [hexec, hr, h1, if_pos rfl, if_pos rfl]

theorem wdgExpiry_held {s : State} {n : PE} (hr : s.blk.wdgRuns n = false) : exec (.watchdogExpiry n) s = done s s.blk := by
  show done s (if s.blk.wdgRuns n then _ else _) = _
  rw [hr, if_neg Bool.false_ne_true]

theorem wdgService_only (b : Block) (n : PE) : OnlyFields [R.ENG_WDG_CNT_COUNT n, R.ENG_WDG_CTRL_EXP1 n]
    (b.setEngine n { b.engine n with wdgDue := false, wdgExact := !b.wdgRuns n }) (b.wdgService n) := by
  obtain ⟨-, -, hkeep⟩ := wdgService_served b n
  refine ⟨?_, hkeep⟩
  rw [wdgService_eq]
  rfl

/-- FLUSHOUT keeps a first part of the entries on their way (R152). -/
theorem flushOut_kept {b : Block} {n k : Nat} (hle : b.leOf n = some k) (hk : k % 8 < 7) :
    (b.flushOut n).isSealed = b.isSealed ∧ ∃ keep ≤ (b.chainAt k).moving.length,
      ((b.flushOut n).chainAt k).moving = (b.chainAt k).moving.take keep ∧ ((b.flushOut n).chainAt k).shown = (b.chainAt k).shown ∧
        ((b.flushOut n).chainAt k).returning + keep = (b.chainAt k).returning + (b.chainAt k).moving.length ∧
        ∀ m, m ≠ k → (b.flushOut n).chainAt m = b.chainAt m := by
  have hout : (b.chainsOf n).1 = some k := by
    unfold Block.chainsOf chainOut
    rw [hle]
    exact if_pos hk
  have hlt : b.freeWord.toNat % ((b.chainAt k).moving.length + 1) < (b.chainAt k).moving.length + 1 := Nat.mod_lt _ (Nat.succ_pos _)
  have hflush : b.flushOut n = (b.setChain k { b.chainAt k with
      moving := (b.chainAt k).moving.take (b.freeWord.toNat % ((b.chainAt k).moving.length + 1)),
      returning := (b.chainAt k).returning + ((b.chainAt k).moving.length - b.freeWord.toNat % ((b.chainAt k).moving.length + 1)) }).drawn := by
    unfold Block.flushOut
    rw [hout]
  generalize b.freeWord.toNat % ((b.chainAt k).moving.length + 1) = keep at hlt hflush
  have hat : (b.flushOut n).chainAt k = { b.chainAt k with
      moving := (b.chainAt k).moving.take keep, returning := (b.chainAt k).returning + ((b.chainAt k).moving.length - keep) } := by
    rw [hflush]
    exact congrArg (·.getD Chain.empty) (Tab.look_put_same _ _ _)
  refine ⟨by rw [hflush]; rfl, keep, by omega, by rw [hat], by rw [hat], by rw [hat]; dsimp only; omega, fun m hm => ?_⟩
  rw [hflush]
  exact congrArg (·.getD Chain.empty) (Tab.look_put_ne _ _ _ _ hm)

/-- Settles O31: a watchdog's change is `wdgSet` of its fields, or the reset and the stop of its second expiry. -/
theorem engineUnits : Obligations.EngineUnits := by
  unfold Obligations.EngineUnits
  intro n key en perm c j q s b e on period served i f
  refine ⟨fun hr h1 => ?_, fun hr h1 => ?_, fun hr => gives_of_done (wdgExpiry_held hr) rfl rfl,
    fun hon => ⟨fun hk => ?_, fun hk => ?_, ?_, fun k hle hk => ?_⟩, fun hq => ?_, fun x xs hf => ?_, fun hf => ?_, fun hf => ?_⟩
  · exact gives_of_done (wdgExpiry_first hr h1) rfl
      ⟨wdgSet_count b n _ _ _ _, wdgSet_exp1 b n _ _ _ _, rfl, wdgSet_keeps b n _ _ _ _⟩
  · obtain ⟨hengine, hcount, hpend, hany, hmem, hsealed⟩ := wdgStop_stopped b n
    refine gives_of_done (wdgExpiry_second hr h1) hsealed ?_
    rw [hengine]
    exact ⟨rfl, rfl, rfl, hcount, hpend, hany, hmem⟩
  · obtain ⟨hcount, hexp, -⟩ := wdgService_served b n
    refine gives_of_done (b := b.wdgService n) ?_ rfl ⟨hcount, hexp, wdgService_only b n⟩
    show done s (b.atEng n 0x70 fun b => if key = 0xA5 then b.wdgService n else b) = _
    rw [atEng_of_on hon, if_pos hk]
  · refine gives_of_done (b := b) ?_ rfl rfl
    show done s (b.atEng n 0x70 fun b => if key = 0xA5 then b.wdgService n else b) = _
    rw [atEng_of_on hon, if_neg hk]
  · refine gives_of_done (b := b.rgpCommit n en perm) ?_ rfl rfl
    show done s (b.atEng n 0x54 fun b => b.rgpCommit n en perm) = _
    rw [atEng_of_on hon]
  · obtain ⟨hsealed, hkept⟩ := flushOut_kept hle hk
    refine gives_of_done (b := b.flushOut n) ?_ hsealed hkept
    show done s (b.atEng n 0x1C fun b => b.flushOut n) = _
    rw [atEng_of_on hon]
  · obtain ⟨hcount, hexp, -⟩ := wdgService_served b n
    obtain ⟨hframe, hkeep⟩ := wdgService_only b n
    refine gives_taken (f := fun _ b => (b.wdgService n, .ok 0)) rfl hq (.inl rfl) rfl rfl ⟨hcount, hexp, ?_, hkeep⟩
    exact congrArg (fun c : Block => Replied c n false 0) hframe
  · refine gives_of_done (b := b.setChain i { f with moving := xs, shown := f.shown ++ [x] }) ?_ rfl rfl
    show done s (match f.moving with
      | [] => b
      | x :: xs => b.setChain i { f with moving := xs, shown := f.shown ++ [x] }) = _
    rw [hf]
  · refine gives_of_done (b := b.setChain i { f with returning := f.returning - 1, spent := f.spent - 1 }) ?_ rfl rfl
    show done s (if f.returning = 0 then b else _) = _
    rw [if_neg hf]
  · refine gives_of_done (b := b) ?_ rfl rfl
    show done s (if f.returning = 0 then b else _) = _
    rw [if_pos hf]

end Sys2Proof.Machine
end

section
/-! PERIPH ticks that pass (R363, R375 to R377, R406): what of the block they can change. -/
namespace Sys2Proof.Machine

/-! ## Slots taken away -/

/-- Of the table `t` the table `t'` holds a part. -/
structure Tab.Within {α : Type} (t' t : Tab α) : Prop where
  sub : List.Sublist t' t
  look : ∀ i, t'.look i = none ∨ t'.look i = t.look i

theorem Tab.Within.refl {α : Type} (t : Tab α) : Tab.Within t t := ⟨List.Sublist.refl t, fun _ => .inr rfl⟩

theorem Tab.Within.trans {α : Type} {t u v : Tab α} (h : Tab.Within t u) (h' : Tab.Within u v) : Tab.Within t v where
  sub := h.sub.trans h'.sub
  look i := (h.look i).elim .inl fun e => (h'.look i).imp (e.trans ·) (e.trans ·)

theorem Tab.del_sublist {α : Type} (t : Tab α) (i : Nat) : List.Sublist (t.del i) t := by
  induction t with
  | nil => exact List.Sublist.refl _
  | cons p t ih =>
    obtain ⟨k, v⟩ := p
    unfold Tab.del
    split
    · exact List.filter_sublist.trans (List.sublist_cons_self _ _)
    · split
      · exact List.Sublist.refl _
      · exact ih.cons_cons _

theorem Tab.del_within {α : Type} (t : Tab α) (i : Nat) : Tab.Within (t.del i) t where
  sub := t.del_sublist i
  look j := by
    by_cases h : j = i
    · exact .inl (h ▸ Tab.look_del_same t i)
    · exact .inr (Tab.look_del_ne t i j h)

/-! ## What time can change -/

/-- A field below 0x1000 that no tick writes: all but the group start's control, Crema's events and its count of aged slots. -/
def untimed (x : Fld) : Prop := x.key / 32 < 0x1000 ∧ x.key / 32 ≠ 0x390 ∧ x.key / 32 ≠ 0x3cc ∧ x.key / 32 ≠ 0x3dc

/-- From `b` to `b'` time has passed: Crema's slots may have aged, and nothing outside the timed units has changed. -/
structure Passed (b b' : Block) : Prop where
  frame : { b' with
    regs := b.regs, domQ := b.domQ, dcycle := b.dcycle, tick := b.tick, timers := b.timers, frac := b.frac, crema := b.crema,
    pinseq := b.pinseq } = b
  crema : Tab.Within b'.crema b.crema
  get : ∀ x, untimed x → b'.get x = b.get x

theorem Passed.refl (b : Block) : Passed b b := ⟨rfl, .refl _, fun _ _ => rfl⟩

theorem Passed.trans {b c d : Block} (h : Passed b c) (h' : Passed c d) : Passed b d where
  frame := (congrArg (fun e : Block => { e with
    regs := b.regs, domQ := b.domQ, dcycle := b.dcycle, tick := b.tick, timers := b.timers, frac := b.frac, crema := b.crema,
    pinseq := b.pinseq }) h'.frame).trans h.frame
  crema := h'.crema.trans h.crema
  get x hx := (h'.get x hx).trans (h.get x hx)

theorem Passed.isSealed {b b' : Block} (h : Passed b b') : b'.isSealed = b.isSealed := by
  have e := congrArg Block.isSealed h.frame
  exact e

theorem Passed.extAns {b b' : Block} (h : Passed b b') : b'.extAns = b.extAns := by
  have e := congrArg Block.extAns h.frame
  exact e

theorem Passed.strobes {b b' : Block} (h : Passed b b') : b'.strobes = b.strobes := by
  have e := congrArg Block.strobes h.frame
  exact e

theorem Passed.mem {b b' : Block} (h : Passed b b') : b'.mem = b.mem := by
  have e := congrArg Block.mem h.frame
  exact e

theorem Passed.media {b b' : Block} (h : Passed b b') : b'.media = b.media := by
  have e := congrArg Block.media h.frame
  exact e

theorem put_passed (b : Block) {f : Fld} (hf : ¬untimed f) (v : Nat) : Passed b (b.put f v) where
  frame := rfl
  crema := .refl _
  get x hx := Block.get_put_ne _ _ _ _ fun h => hf (by unfold untimed at *; rw [← h]; exact hx)

/-- What is in one of the timed units' own places. -/
theorem passed_of_regs {b b' : Block} (h : { b' with
    regs := b.regs, domQ := b.domQ, dcycle := b.dcycle, tick := b.tick, timers := b.timers, frac := b.frac, crema := b.crema,
    pinseq := b.pinseq } = b) (hr : b'.regs = b.regs) (hc : b'.crema = b.crema) : Passed b b' where
  frame := h
  crema := hc ▸ .refl _
  get _ _ := congrArg (fun t : Tab Nat => t.get _ _) hr

theorem modTim_passed (b : Block) (f : Timers → Timers) : Passed b (b.modTim f) := passed_of_regs rfl rfl rfl

theorem noting_passed (b : Block) (f : Tick → Tick) : Passed b (b.noting f) := passed_of_regs rfl rfl rfl

theorem forEach_passed {n : Nat} {f : Nat → Block → Block} (hf : ∀ i b, i < n → Passed b (f i b)) (b : Block) :
    Passed b (forEach n f b) :=
  forEach_keeps (Passed b) n f b (.refl b) fun i c hi hc => hc.trans (hf i c hi)

/-! ## The Distributor's part -/

theorem pend_timed (r : Nat) : ¬untimed (R.DIST_PENDSET_PEND r) := by
  unfold untimed
  rw [pendArray.key]
  omega

theorem MayWake.passed {b b' : Block} (h : MayWake b b') : Passed b b' where
  frame := congrArg (fun e : Block => { e with
    dcycle := b.dcycle, tick := b.tick, timers := b.timers, frac := b.frac, crema := b.crema, pinseq := b.pinseq }) h.frame
  crema := by
    have e := congrArg Block.crema h.frame
    exact (show b'.crema = b.crema from e) ▸ .refl _
  get x hx := h.get fun n _ hk => by
    unfold untimed at hx
    rw [hk] at hx
    simp only [Fld.key, R.PWR_ENG_BUSY] at hx
    omega

theorem setPend_passed (b : Block) (x : Nat) : Passed b (b.setPend x) :=
  (put_passed b (pend_timed _) _).trans (autowakeSrc_mayWake _ x).passed

theorem Cycled.passed {new : Bool} {b b' : Block} (h : Cycled new b b') : Passed b b' where
  frame := congrArg (fun e : Block => { e with
    domQ := b.domQ, tick := b.tick, timers := b.timers, frac := b.frac, crema := b.crema, pinseq := b.pinseq }) h.frame
  crema := by
    have e := congrArg Block.crema h.frame
    exact (show b'.crema = b.crema from e) ▸ .refl _
  get x hx := h.get x fun r _ hk => pend_timed r (by unfold untimed at *; rw [← hk]; exact hx)

theorem event_passed (b : Block) (x : Nat) : Passed b (b.event x) := (distAt_cycled b 1).passed.trans (setPend_passed _ x)

theorem countGlob_passed (b : Block) (code k : Nat) : Passed b (b.countGlob code k) where
  frame := congrArg (fun e : Block => { e with
    domQ := b.domQ, dcycle := b.dcycle, tick := b.tick, timers := b.timers, frac := b.frac, crema := b.crema,
    pinseq := b.pinseq }) (countGlob_frame b code k)
  crema := by
    have e := congrArg Block.crema (countGlob_frame b code k)
    exact (show (b.countGlob code k).crema = b.crema from e) ▸ .refl _
  get x hx := countGlob_get b code k fun i _ hk => by
    unfold untimed at hx
    rw [hk] at hx
    simp only [Fld.key, R.GPC_COUNT] at hx
    omega

/-! ## Timer channels -/

/-- The fields at 0x1000 and above are the timed ones. -/
theorem timed_of_off {f : Fld} (h : 0x1000 ≤ f.off) : ¬untimed f := by
  unfold untimed Fld.key
  omega

theorem put_passed_of_off (b : Block) {f : Fld} (h : 0x1000 ≤ f.off) (v : Nat) : Passed b (b.put f v) := put_passed b (timed_of_off h) v

theorem channel_off (c : Nat) : 0x1000 ≤ (R.TC_COUNT_COUNT c).off ∧ 0x1000 ≤ (R.TC_STAT_ARMED c).off ∧
    0x1000 ≤ (R.TC_CAPR_RISE c).off := by
  simp only [R.TC_COUNT_COUNT, R.TC_STAT_ARMED, R.TC_CAPR_RISE]
  omega

theorem put64_passed (b : Block) {lo hi : Fld} (hl : 0x1000 ≤ lo.off) (hh : 0x1000 ≤ hi.off) (v : Nat) : Passed b (b.put64 lo hi v) :=
  (put_passed_of_off b hl _).trans (put_passed_of_off _ hh _)

theorem setCount_passed (b : Block) (c v : Nat) : Passed b (b.setCount c v) := by
  obtain ⟨h, -, -⟩ := channel_off c
  obtain ⟨h', -, -⟩ := channel_off (c + 1)
  unfold Block.setCount
  split
  · exact put64_passed b h h' v
  · exact put_passed_of_off b h v

theorem tcArm_passed (b : Block) (c : Nat) : Passed b (b.tcArm c) := by
  obtain ⟨-, h, -⟩ := channel_off c
  unfold Block.tcArm
  split
  · exact .refl b
  · exact (((setCount_passed b c _).trans (put_passed_of_off _ (f := R.TC_STAT_ARMED c) h 1)).trans
      (put_passed_of_off _ (f := R.TC_STAT_WAITPH c) h 0)).trans (modTim_passed _ _)

theorem tcExpire_passed (b : Block) (c k past : Nat) : Passed b (b.tcExpire c k past) := by
  obtain ⟨-, h, -⟩ := channel_off c
  unfold Block.tcExpire
  refine Passed.trans ?_ (event_passed _ _)
  have hcnt : Passed b (b.incSat (R.TC_STAT_EXPCNT c) k) := put_passed_of_off b (f := R.TC_STAT_EXPCNT c) h _
  split
  · exact (hcnt.trans (setCount_passed _ c _)).trans (setCount_passed _ c _)
  · exact ((hcnt.trans (setCount_passed _ c 0)).trans (put_passed_of_off _ (f := R.TC_STAT_ARMED c) h 0)).trans (modTim_passed _ _)

theorem tcStart_passed (b : Block) (c : Nat) : Passed b (b.tcStart c) := by
  obtain ⟨-, h, -⟩ := channel_off c
  unfold Block.tcStart
  split
  · exact .refl b
  · refine Passed.trans ?_ (noting_passed _ _)
    split
    · exact tcArm_passed b c
    · exact ((tcArm_passed b c).trans (put_passed_of_off _ (f := R.TC_STAT_WAITPH c) h 1)).trans (modTim_passed _ _)

theorem tcCountOn_passed (b : Block) (dt c : Nat) : Passed b (b.tcCountOn dt c) := by
  unfold Block.tcCountOn
  dsimp only
  split
  · exact (modTim_passed b _).trans (setCount_passed _ c _)
  · exact (modTim_passed b _).trans (tcExpire_passed _ c _ _)

theorem tcElapse_passed (b : Block) (dt c : Nat) : Passed b (b.tcElapse dt c) := by
  obtain ⟨-, h, -⟩ := channel_off c
  unfold Block.tcElapse
  split
  · exact .refl b
  split
  · dsimp only
    split
    · exact modTim_passed b _
    · have hend : Passed b ((b.clear (R.TC_STAT_WAITPH c)).modTim fun t => { t with phase := t.phase.del c }) :=
        (put_passed_of_off b (f := R.TC_STAT_WAITPH c) h 0).trans (modTim_passed _ _)
      split
      · exact hend.trans (tcCountOn_passed _ _ c)
      · exact hend
  · split
    · exact tcCountOn_passed b dt c
    · exact .refl b

/-! ## Time, the servo, the group starts, Crema -/

theorem setFine_passed (b : Block) (v : Nat) : Passed b (b.setFine v) :=
  (put64_passed b (lo := R.TNOW_LO_TNOW) (hi := R.TNOW_HI_TNOW) (by decide) (by decide) _).trans (passed_of_regs rfl rfl rfl)

theorem psElapse_passed (b : Block) (dt n : Nat) : Passed b (b.psElapse dt n) := by
  unfold Block.psElapse
  split
  · exact passed_of_regs rfl rfl rfl
  · exact .refl b

theorem pass_passed (b : Block) (dt : Nat) : Passed b (b.pass dt) := by
  unfold Block.pass
  dsimp only
  refine Passed.trans ?_ (countGlob_passed _ _ _)
  refine Passed.trans ?_ (forEach_passed (fun i c _ => psElapse_passed c dt i) _)
  refine Passed.trans ?_ (forEach_passed (fun i c _ => tcElapse_passed c dt i) _)
  exact (put64_passed b (by decide) (by decide) _).trans (setFine_passed _ _)

theorem startGroup_passed (b : Block) : Passed b b.startGroup := by
  have hpend : Passed b (b.clear R.TMR_GCTRL_PEND) := put_passed b (f := R.TMR_GCTRL_PEND) (by unfold untimed Fld.key; decide) 0
  unfold Block.startGroup
  refine (hpend.trans (modTim_passed _ _)).trans (forEach_passed (fun i c _ => ?_) _)
  split
  · exact tcStart_passed c i
  · exact .refl c

theorem psStart_passed (b : Block) : Passed b b.psStart := by
  have hpend : Passed b (b.clear R.PS_GCTRL_PEND) := put_passed_of_off b (f := R.PS_GCTRL_PEND) (by decide) 0
  unfold Block.psStart
  refine (hpend.trans (modTim_passed _ _)).trans (forEach_passed (fun i c _ => ?_) _)
  split
  · exact (put_passed_of_off c (f := R.PS_CTRL_EN i) (by simp only [R.PS_CTRL_EN]; omega) 1).trans (passed_of_regs rfl rfl rfl)
  · exact .refl c

theorem loseLock_passed (b : Block) : Passed b b.loseLock := by
  unfold Block.loseLock
  have hrest : ∀ c : Block, Passed c ((c.clear R.TIME_STAT_LOCKED).clear R.TIME_STAT_LOCKCNT) := fun c =>
    (put_passed_of_off c (f := R.TIME_STAT_LOCKED) (by decide) 0).trans (put_passed_of_off _ (f := R.TIME_STAT_LOCKCNT) (by decide) 0)
  dsimp only
  split
  · exact (put_passed_of_off b (f := R.TIME_EVT_LOCKLOST) (by decide) 1).trans (hrest _)
  · exact hrest b

theorem follow_passed (b : Block) {stat evt : Fld} (hs : 0x1000 ≤ stat.off) (he : 0x1000 ≤ evt.off) (v : Bool) :
    Passed b (b.follow stat evt v) := by
  unfold Block.follow
  dsimp only
  split
  · exact (put_passed_of_off b he 1).trans (put_passed_of_off _ hs _)
  · exact put_passed_of_off b hs _

theorem servoResult_passed (b : Block) (theta : Int) : Passed b (b.servoResult theta) := by
  unfold Block.servoResult
  dsimp only
  have hput : ∀ (c : Block) {f : Fld} (v : Nat), 0x1000 ≤ f.off → Passed c (c.put f v) := fun c f v h => put_passed_of_off c h v
  split
  · exact ((setFine_passed b _).trans (loseLock_passed _)).trans (hput _ 1 (by decide))
  · have hnew : ∀ (c : Block) (v w x : Nat),
        Passed c (((c.put R.TIME_STAT_CLAMPED v).put R.TIME_INTEG_INTEG w).put R.TIME_INC_INC x) := fun c v w x =>
      ((hput c v (by decide)).trans (hput _ w (by decide))).trans (hput _ x (by decide))
    have hlock : ∀ (c : Block) (v w x y : Nat), Passed c (((((c.put R.TIME_STAT_CLAMPED v).put R.TIME_INTEG_INTEG w).put
        R.TIME_INC_INC x).follow R.TIME_STAT_LOCKED R.TIME_EVT_LOCK true).put R.TIME_STAT_LOCKCNT y) := fun c v w x y =>
      ((hnew c v w x).trans (follow_passed _ (by decide) (by decide) true)).trans (hput _ y (by decide))
    have hlose : ∀ (c : Block) (v w x y : Nat), Passed c ((((c.put R.TIME_STAT_CLAMPED v).put R.TIME_INTEG_INTEG w).put
        R.TIME_INC_INC x).loseLock.put R.TIME_STAT_LOCKCNT y) := fun c v w x y =>
      ((hnew c v w x).trans (loseLock_passed _)).trans (hput _ y (by decide))
    have hend : ∀ (c : Block) (v w x y : Nat) (p : Prop) [Decidable p], Passed c (if p then
        ((((c.put R.TIME_STAT_CLAMPED v).put R.TIME_INTEG_INTEG w).put R.TIME_INC_INC x).follow R.TIME_STAT_LOCKED
          R.TIME_EVT_LOCK true).put R.TIME_STAT_LOCKCNT y
        else (((c.put R.TIME_STAT_CLAMPED v).put R.TIME_INTEG_INTEG w).put R.TIME_INC_INC x).loseLock.put R.TIME_STAT_LOCKCNT y) := by
      intro c v w x y p _
      split
      · exact hlock c v w x y
      · exact hlose c v w x y
    split
    · exact (hput b (f := R.TIME_EVT_CLAMP) 1 (by decide)).trans (hend _ _ _ _ _ _)
    · exact hend _ _ _ _ _ _

theorem servoDue_passed (b : Block) : Passed b b.servoDue := by
  unfold Block.servoDue
  split
  · split
    · exact .refl b
    · have hend : Passed b ((b.modTim fun t => { t with servo := none }).noting fun t => { t with servoed := true }) :=
        (modTim_passed b _).trans (noting_passed _ _)
      dsimp only
      split
      · exact hend.trans (servoResult_passed _ _)
      · exact hend
  · exact .refl b

theorem compare_passed (b : Block) : Passed b b.compare := by
  unfold Block.compare
  have hgroup : Passed b (if b.pd4 && b.flag R.TMR_GCTRL_PEND && b.startDue then b.startGroup else b) := by
    split
    · exact startGroup_passed b
    · exact .refl b
  dsimp only
  generalize (if b.pd4 && b.flag R.TMR_GCTRL_PEND && b.startDue then b.startGroup else b) = c at hgroup ⊢
  have hps : Passed b (if c.pd4 && c.flag R.PS_GCTRL_PEND && c.startDue then c.psStart else c) := by
    split
    · exact hgroup.trans (psStart_passed c)
    · exact hgroup
  generalize (if c.pd4 && c.flag R.PS_GCTRL_PEND && c.startDue then c.psStart else c) = d at hps ⊢
  split
  · exact (hps.trans (put_passed_of_off d (f := R.TIME_STAT_ALARMED) (by decide) 0)).trans
      (put_passed_of_off _ (f := R.TIME_EVT_ALARM) (by decide) 1)
  · exact hps

theorem cremaAge_passed (b : Block) (i : Nat) : Passed b (b.cremaAge i) := by
  have hdel : Passed b { b with crema := b.crema.del i } := ⟨rfl, b.crema.del_within i, fun _ _ => rfl⟩
  unfold Block.cremaAge
  exact (hdel.trans (put_passed _ (f := R.CREMA_AGED_COUNT) (by unfold untimed Fld.key; decide) _)).trans
    (put_passed _ (f := R.CREMA_EVT_AGED) (by unfold untimed Fld.key; decide) _)

theorem foldl_passed {α : Type} {f : Block → α → Block} (hf : ∀ b x, Passed b (f b x)) (l : List α) (b : Block) :
    Passed b (l.foldl f b) := by
  induction l generalizing b with
  | nil => exact .refl b
  | cons x l ih => exact (hf b x).trans (ih _)

theorem cremaAgeing_passed (b : Block) : Passed b b.cremaAgeing := by
  unfold Block.cremaAgeing
  refine foldl_passed (fun c p => ?_) _ b
  split
  · exact cremaAge_passed c p.1
  · exact .refl c

theorem endTick_passed (b : Block) : Passed b b.endTick :=
  ((servoDue_passed b).trans (compare_passed _)).trans (cremaAgeing_passed _)

theorem publish_passed (b : Block) (c rise fall width : Nat) (pol : Bool) : Passed b (b.publish c rise fall width pol) := by
  obtain ⟨-, h, h'⟩ := channel_off c
  unfold Block.publish
  refine Passed.trans ?_ (event_passed _ _)
  refine Passed.trans ?_ (noting_passed _ _)
  refine Passed.trans ?_ (modTim_passed _ _)
  refine Passed.trans ?_ (put_passed_of_off _ (f := R.TC_STAT_NEW c) h 1)
  refine Passed.trans ?_ (put_passed_of_off _ (f := R.TC_CAPR_RISE c) h' _)
  split
  · exact put_passed_of_off b (f := R.TC_STAT_OVR c) h 1
  · exact .refl b

theorem dripStep_passed (b : Block) : Passed b b.dripStep := by
  have hphase : ∀ v, Passed b (b.put R.PWR_STAT_PHASE v) := put_passed_of_off b (by decide)
  unfold Block.dripStep
  dsimp only
  split
  · exact hphase 2
  · split
    · exact hphase 3
    · exact .refl b
  · split
    · exact hphase 4
    · exact .refl b
  · split
    · exact hphase 5
    · exact .refl b
  · exact .refl b

theorem newTick_passed (b : Block) : Passed b b.newTick := by
  unfold Block.newTick
  dsimp only
  refine Passed.trans ?_ (dripStep_passed _)
  have hcycle : Passed b { b.distCycle with tick := Tick.fresh } := (distCycle_cycled b).passed.trans (passed_of_regs rfl rfl rfl)
  have hheld := hcycle.trans (foldl_passed (fun c (p : Nat × Nat × Nat × Nat × Bool) =>
    publish_passed c p.1 p.2.1 p.2.2.1 p.2.2.2.1 p.2.2.2.2) b.tick.held _)
  generalize b.tick.held.foldl _ { b.distCycle with tick := Tick.fresh } = c at hheld ⊢
  have hgroup : Passed b (if c.timers.go && c.pd4 then c.startGroup else c) := by
    split
    · exact hheld.trans (startGroup_passed c)
    · exact hheld
  generalize (if c.timers.go && c.pd4 then c.startGroup else c) = d at hgroup ⊢
  split
  · exact hgroup.trans (psStart_passed d)
  · exact hgroup

/-- The ticks of a stretch: to the next stop, at most `dt` and at least one. -/
def Block.stretchLen (b : Block) (dt : Nat) : Nat :=
  match b.nextStop with
  | some n => min dt (max 1 n)
  | none => dt

theorem stretch_eq (b : Block) {dt : Nat} (h : dt ≠ 0) :
    b.stretch dt = ((b.endTick.pass (b.endTick.stretchLen dt)).newTick, dt - b.endTick.stretchLen dt) := by
  unfold Block.stretch Block.stretchLen
  exact if_neg h

theorem stretch_passed (b : Block) (dt : Nat) : Passed b (b.stretch dt).1 := by
  by_cases h : dt = 0
  · subst h
    exact .refl b
  · rw [stretch_eq b h]
    dsimp only
    exact ((endTick_passed b).trans (pass_passed _ _)).trans (newTick_passed _)

theorem stretches_passed (l : List Nat) (b : Block) (dt : Nat) : Passed b (l.foldl (fun r _ => r.1.stretch r.2) (b, dt)).1 := by
  induction l generalizing b dt with
  | nil => exact .refl b
  | cons x l ih => exact (stretch_passed b dt).trans (ih (b.stretch dt).1 (b.stretch dt).2)

theorem elapse_passed (b : Block) (dt : Nat) : Passed b (b.elapse dt) := by
  unfold Block.elapse
  exact stretches_passed _ b dt

end Sys2Proof.Machine
end

section
/-! Crema: slots found, held, consumed, aged and counted (R402, R403, R405 to R409). -/
namespace Sys2Proof.Machine

/-! ## Tables in order -/

/-- The keys of a table rise. -/
def Tab.Rising {α : Type} (t : Tab α) : Prop := t.Pairwise fun x y => x.1 < y.1

theorem Tab.Rising.look_iff {α : Type} {t : Tab α} (h : Tab.Rising t) (i : Nat) (x : α) : t.look i = some x ↔ (i, x) ∈ t := by
  induction t with
  | nil => exact ⟨fun e => (by cases e), fun e => (by cases e)⟩
  | cons p t ih =>
    obtain ⟨k, v⟩ := p
    obtain ⟨hlt, ht⟩ := List.pairwise_cons.mp h
    unfold Tab.look
    rw [List.mem_cons]
    by_cases hk : i = k
    · rw [if_pos hk]
      subst hk
      constructor
      · intro e
        cases e
        exact .inl rfl
      · rintro (e | e)
        · cases e
          rfl
        · exact absurd (hlt _ e) (Nat.lt_irrefl _)
    · rw [if_neg hk]
      have hne : (i, x) ≠ (k, v) := fun e => hk (congrArg Prod.fst e)
      split
      next hik =>
        refine ⟨fun e => (by cases e), fun e => ?_⟩
        have := hlt _ (e.resolve_left hne)
        dsimp only at this
        omega
      next => exact (ih ht).trans ⟨.inr, fun e => e.resolve_left hne⟩

theorem Tab.Within.rising {α : Type} {t' t : Tab α} (h : Tab.Within t' t) (ht : Tab.Rising t) : Tab.Rising t' := ht.sublist h.sub

/-! ## The first by a number -/

/-- The earlier of two by `f`, at equal `f` the first. -/
def leastStep {α : Type} (f : α → Nat) (w : Option α) (p : α) : Option α :=
  match w with
  | some q => if f p < f q then some p else w
  | none => some p

theorem leastStep_lt {α : Type} {f : α → Nat} {p q : α} (h : f p < f q) : leastStep f (some q) p = some p := if_pos h

theorem leastStep_ge {α : Type} {f : α → Nat} {p q : α} (h : ¬f p < f q) : leastStep f (some q) p = some q := if_neg h

/-- The element of a list with the least `f`, the first of them. -/
def firstLeast {α : Type} (f : α → Nat) (l : List α) : Option α := l.foldl (leastStep f) none

theorem foldl_least {α : Type} (f : α → Nat) (l : List α) (q : α) :
    ∃ p, l.foldl (leastStep f) (some q) = some p ∧ (p = q ∨ p ∈ l) ∧ f p ≤ f q ∧ ∀ r ∈ l, f p ≤ f r := by
  induction l generalizing q with
  | nil => exact ⟨q, rfl, .inl rfl, le_rfl, fun r hr => absurd hr List.not_mem_nil⟩
  | cons x l ih =>
    by_cases hx : f x < f q
    · obtain ⟨p, hp, hmem, hle, hall⟩ := ih x
      refine ⟨p, ?_, ?_, by omega, fun r hr => ?_⟩
      · rw [List.foldl_cons, leastStep_lt hx, hp]
      · obtain rfl | h := hmem
        · exact .inr List.mem_cons_self
        · exact .inr (List.mem_cons_of_mem _ h)
      · obtain rfl | h := List.mem_cons.mp hr
        · exact hle
        · exact hall r h
    · obtain ⟨p, hp, hmem, hle, hall⟩ := ih q
      refine ⟨p, ?_, hmem.imp id (List.mem_cons_of_mem _), hle, fun r hr => ?_⟩
      · rw [List.foldl_cons, leastStep_ge hx, hp]
      · obtain rfl | h := List.mem_cons.mp hr
        · omega
        · exact hall r h

theorem firstLeast_none {α : Type} {f : α → Nat} {l : List α} (h : firstLeast f l = none) : l = [] := by
  cases l with
  | nil => rfl
  | cons x l =>
    obtain ⟨p, hp, -⟩ := foldl_least f l x
    exact absurd (hp.symm.trans h) (Option.some_ne_none p)

theorem firstLeast_some {α : Type} {f : α → Nat} {l : List α} {p : α} (h : firstLeast f l = some p) : p ∈ l ∧ ∀ r ∈ l, f p ≤ f r := by
  cases l with
  | nil => cases h
  | cons x l =>
    obtain ⟨p', hp, hmem, hle, hall⟩ := foldl_least f l x
    obtain rfl : p' = p := Option.some.inj (hp.symm.trans h)
    refine ⟨List.mem_cons.mpr hmem, fun r hr => ?_⟩
    obtain rfl | h := List.mem_cons.mp hr
    · exact hle
    · exact hall r h

/-! ## The slot of a LOOKUP (R405) -/

theorem cremaFind_eq (b : Block) (frame k : Nat) : b.cremaFind frame k =
    (b.crema.find? fun p => p.2.frame == frame && p.2.held == some k).or
      (firstLeast (fun p => p.2.order) (b.crema.filter fun p => p.2.frame == frame && p.2.held.isNone)) := by
  have hstep : (fun (w : Option (Nat × CSlot)) (p : Nat × CSlot) => match w with
      | some q => if p.2.order < q.2.order then some p else w
      | none => some p) = leastStep fun p => p.2.order := by
    funext w p
    cases w <;> rfl
  unfold Block.cremaFind firstLeast
  rw [← hstep]
  cases b.crema.find? fun p => p.2.frame == frame && p.2.held == some k <;> rfl

section
variable {b : Block} {frame le : Nat} (hb : Tab.Rising b.crema)
include hb

theorem cremaFind_some {p : Nat × CSlot} (h : b.cremaFind frame le = some p) :
    b.crema.look p.1 = some p.2 ∧ ((p.2.frame = frame ∧ p.2.held = some le) ∨ (p.2.frame = frame ∧ p.2.held = none) ∧
      ∀ k d, b.crema.look k = some d → ¬(d.frame = frame ∧ d.held = some le) ∧
        (d.frame = frame ∧ d.held = none → p.2.order ≤ d.order)) := by
  rw [cremaFind_eq, Option.or_eq_some_iff] at h
  obtain hq | ⟨hq, h⟩ := h
  · have hp := List.find?_some hq
    rw [Bool.and_eq_true, beq_iff_eq, beq_iff_eq] at hp
    exact ⟨(hb.look_iff _ _).mpr (List.mem_of_find?_eq_some hq), .inl hp⟩
  · obtain ⟨hmem, hleast⟩ := firstLeast_some h
    obtain ⟨hin, hp⟩ := List.mem_filter.mp hmem
    rw [Bool.and_eq_true, beq_iff_eq, Option.isNone_iff_eq_none] at hp
    refine ⟨(hb.look_iff _ _).mpr hin, .inr ⟨hp, fun k d hd => ⟨fun hm => ?_, fun hf => ?_⟩⟩⟩
    · have hno := List.find?_eq_none.mp hq (k, d) ((hb.look_iff _ _).mp hd)
      rw [Bool.and_eq_true, beq_iff_eq, beq_iff_eq] at hno
      exact hno hm
    · refine hleast (k, d) (List.mem_filter.mpr ⟨(hb.look_iff _ _).mp hd, ?_⟩)
      rw [Bool.and_eq_true, beq_iff_eq, Option.isNone_iff_eq_none]
      exact hf

theorem cremaFind_none (h : b.cremaFind frame le = none) (k : Nat) (d : CSlot) (hd : b.crema.look k = some d) :
    ¬(d.frame = frame ∧ d.held = some le) ∧ ¬(d.frame = frame ∧ d.held = none) := by
  have hin := (hb.look_iff _ _).mp hd
  rw [cremaFind_eq, Option.or_eq_none_iff] at h
  obtain ⟨hq, h⟩ := h
  have hno := List.find?_eq_none.mp hq (k, d) hin
  rw [Bool.and_eq_true, beq_iff_eq, beq_iff_eq] at hno
  refine ⟨hno, fun hf => ?_⟩
  have hempty := firstLeast_none h
  rw [List.filter_eq_nil_iff] at hempty
  refine hempty (k, d) hin ?_
  rw [Bool.and_eq_true, beq_iff_eq, Option.isNone_iff_eq_none]
  exact hf

end

/-! ## Steps of Crema's order (R406) -/

theorem cremaAt_passed (b : Block) (k le : Nat) : Passed b (b.cremaAt k le) := by
  unfold Block.cremaAt
  dsimp only
  split
  · exact (elapse_passed b 1).trans (noting_passed _ _)
  · exact noting_passed b _

/-- The tick in which a PENDING slot's age is over (R403). -/
theorem cremaDue_some {b : Block} {c : CSlot} (hh : c.held = none) (ha : b.get R.CREMA_CTRL_AGE ≠ 0) :
    b.cremaDue c = some (c.born + b.get R.CREMA_CTRL_AGE * 2 ^ 16) := by
  unfold Block.cremaDue
  dsimp only
  rw [hh, if_pos (by simp [ha])]

theorem cremaDue_none {b : Block} {c : CSlot} (h : c.held ≠ none ∨ b.get R.CREMA_CTRL_AGE = 0) : b.cremaDue c = none := by
  unfold Block.cremaDue
  dsimp only
  rw [if_neg]
  rw [Bool.and_eq_true, Option.isNone_iff_eq_none, bne_iff_ne]
  exact fun hc => h.elim (· hc.1) hc.2

theorem age_untimed : untimed R.CREMA_CTRL_AGE := by
  unfold untimed Fld.key
  decide

/-- Slot `i` aged at the end of the present tick, where it is PENDING and its age is over (R403). -/
def Block.agedNow (b : Block) (i : Nat) : Block :=
  match (b.crema.look i).bind b.cremaDue with
  | some _ => b.cremaAge i
  | none => b

theorem agedNow_due {b : Block} {i d : Nat} {c : CSlot} (hc : b.crema.look i = some c) (hd : b.cremaDue c = some d) :
    b.agedNow i = b.cremaAge i := by
  unfold Block.agedNow
  rw [hc, Option.bind_some, hd]

theorem agedNow_gone {b : Block} {i : Nat} (hc : b.crema.look i = none) : b.agedNow i = b := by
  unfold Block.agedNow
  rw [hc, Option.bind_none]

/-- The block after SLOT_AGED of slot `i`, which falls due in the tick `due?` if it does: `elapse` is how ticks pass. -/
def agedBy (elapse : Block → Nat → Block) (b : Block) (i : Nat) (due? : Option Nat) : Block :=
  match due? with
  | some due =>
    let b := (elapse b (due - b.ticks)).cremaAt 4 0
    match (b.crema.look i).bind b.cremaDue with
    | some _ => b.cremaAge i
    | none => b
  | none => b

theorem agedBy_some (elapse : Block → Nat → Block) (b : Block) (i due : Nat) :
    agedBy elapse b i (some due) = ((elapse b (due - b.ticks)).cremaAt 4 0).agedNow i := by
  unfold agedBy Block.agedNow
  rfl

theorem exec_slotAged (slot : BitVec 10) (s : State) : exec (.slotAged slot) s =
    done s (agedBy Block.elapse s.blk slot.toNat ((s.blk.crema.look slot.toNat).bind s.blk.cremaDue)) := by
  show execSlotAged slot s = _
  unfold execSlotAged agedBy
  generalize Block.elapse = elapse
  rfl

theorem exec_slotAged_due {s : State} {slot : BitVec 10} {c : CSlot} {due : Nat} (hc : s.blk.crema.look slot.toNat = some c)
    (hd : s.blk.cremaDue c = some due) :
    exec (.slotAged slot) s = done s (((s.blk.elapse (due - s.blk.ticks)).cremaAt 4 0).agedNow slot.toNat) := by
  rw [exec_slotAged, hc, Option.bind_some, hd, agedBy_some]

theorem exec_slotAged_none {s : State} {slot : BitVec 10} (h : (s.blk.crema.look slot.toNat).bind s.blk.cremaDue = none) :
    exec (.slotAged slot) s = done s s.blk := by
  rw [exec_slotAged, h]
  rfl

/-- What ageing a slot changes. -/
theorem cremaAge_aged (b : Block) (i : Nat) : (b.cremaAge i).crema.look i = none ∧
    (∀ j, j ≠ i → (b.cremaAge i).crema.look j = b.crema.look j) ∧
    (b.cremaAge i).get R.CREMA_AGED_COUNT = (b.get R.CREMA_AGED_COUNT + 1) % 2 ^ 32 ∧ (b.cremaAge i).get R.CREMA_EVT_AGED = 1 ∧
    OnlyFields [R.CREMA_AGED_COUNT, R.CREMA_EVT_AGED] { b with crema := (b.cremaAge i).crema } (b.cremaAge i) := by
  have hne : R.CREMA_AGED_COUNT.key ≠ R.CREMA_EVT_AGED.key := by decide
  refine ⟨Tab.look_del_same _ _, fun j hj => Tab.look_del_ne _ _ _ hj, ?_, Block.get_put_same _ _ _, rfl, ?_⟩
  · exact (Block.get_put_ne _ _ _ _ hne).trans (Block.get_put_same _ _ _)
  · exact ((KeepsFields.refl _ _).put (by simp) _).put (by simp) _

/-! ## The strobes (R405) -/

theorem cremaLookup_found {b : Block} {frame le : Nat} {p : Nat × CSlot} (h : (b.cremaAt 3 le).cremaFind frame le = some p) :
    b.cremaLookup frame le =
      ({ b.cremaAt 3 le with crema := (b.cremaAt 3 le).crema.put p.1 { p.2 with held := some le } }, some p) := by
  unfold Block.cremaLookup
  dsimp only
  rw [h]

/-- A LOOKUP that finds no slot. -/
def Block.cremaMiss (b : Block) (frame : Nat) : Block :=
  let b := if b.crema.any fun p => p.2.frame == frame then b.raise R.CREMA_EVT_DUP else b
  (b.inc R.CREMA_MISS_COUNT 1).raise R.CREMA_EVT_NOSLOT

theorem cremaLookup_missed {b : Block} {frame le : Nat} (h : (b.cremaAt 3 le).cremaFind frame le = none) :
    b.cremaLookup frame le = ((b.cremaAt 3 le).cremaMiss frame, none) := by
  unfold Block.cremaLookup Block.cremaMiss
  dsimp only
  rw [h]

theorem cremaMiss_missed (b : Block) (frame : Nat) :
    (b.cremaMiss frame).get R.CREMA_MISS_COUNT = (b.get R.CREMA_MISS_COUNT + 1) % 2 ^ 32 ∧
      (b.cremaMiss frame).get R.CREMA_EVT_NOSLOT = 1 ∧
      ((b.crema.any fun p => p.2.frame == frame) = true → (b.cremaMiss frame).get R.CREMA_EVT_DUP = 1) ∧
      { b.cremaMiss frame with regs := b.regs } = b ∧
      KeepsFields [R.CREMA_MISS_COUNT, R.CREMA_EVT_NOSLOT, R.CREMA_EVT_DUP] b (b.cremaMiss frame) := by
  have hcount : R.CREMA_MISS_COUNT.key ≠ R.CREMA_EVT_NOSLOT.key := by decide
  have hdup : R.CREMA_EVT_DUP.key ≠ R.CREMA_EVT_NOSLOT.key := by decide
  have hdup' : R.CREMA_EVT_DUP.key ≠ R.CREMA_MISS_COUNT.key := by decide
  have hmiss : R.CREMA_MISS_COUNT.key ≠ R.CREMA_EVT_DUP.key := by decide
  unfold Block.cremaMiss
  dsimp only
  refine ⟨?_, Block.get_put_same _ _ _, fun h => ?_, ?_, ?_⟩
  · refine (Block.get_put_ne _ _ _ _ hcount).trans ((Block.get_put_same _ _ _).trans ?_)
    split
    · exact congrArg (fun v => (v + 1) % 2 ^ 32) (Block.get_put_ne _ _ _ _ hmiss)
    · rfl
  · rw [if_pos h]
    exact (Block.get_put_ne _ _ _ _ hdup).trans ((Block.get_put_ne _ _ _ _ hdup').trans (Block.get_put_same _ _ _))
  · split <;> rfl
  · refine KeepsFields.put (KeepsFields.put ?_ (by simp) _) (by simp) _
    split
    · exact (KeepsFields.refl _ b).put (by simp) 1
    · exact .refl _ b

/-- A warning of a COUNT: its count and its event. -/
def Block.cremaWarn (b : Block) (on : Bool) (count evt : Fld) : Block := if on then (b.inc count 1).raise evt else b

theorem cremaCount_eq (b : Block) (w : Nat) : b.cremaCount w =
    ((b.cremaWarn (w.testBit 0) R.CREMA_LSHORT_COUNT R.CREMA_EVT_LEN).cremaWarn (w.testBit 1) R.CREMA_LLONG_COUNT
      R.CREMA_EVT_LEN).cremaWarn (w.testBit 2) R.CREMA_HDRBAD_COUNT R.CREMA_EVT_HDRBAD := rfl

theorem cremaConsume_held {b : Block} {i le : Nat} {c : CSlot} (hc : (b.cremaAt 1 0).crema.look i = some c) (hh : c.held = some le) :
    b.cremaConsume i le = some ({ b.cremaAt 1 0 with crema := (b.cremaAt 1 0).crema.del i }.cover c.frame false) := by
  unfold Block.cremaConsume
  generalize b.cremaAt 1 0 = k at hc ⊢
  dsimp only
  rw [hc]
  exact if_pos hh

theorem cremaConsume_other {b : Block} {i le : Nat} (h : ∀ c, (b.cremaAt 1 0).crema.look i = some c → c.held ≠ some le) :
    b.cremaConsume i le = none := by
  unfold Block.cremaConsume
  generalize b.cremaAt 1 0 = k at h ⊢
  dsimp only
  split
  next c hc => exact if_neg (h c hc)
  next => rfl

/-- What LOOKUP, CONSUME and COUNT make of their strobe. -/
def lookupOp (q : Strobe) (b : Block) : Block × Except Nat W64 :=
  match b.cremaLookup (q.a.toNat % 2 ^ 32) (b.strobeLe q) with
  | (b, some p) => (b, .ok (BitVec.ofNat 64 (p.1 + 2 ^ 16)))
  | (b, none) => (b, .ok 0)

def consumeOp (q : Strobe) (b : Block) : Block × Except Nat W64 :=
  match b.cremaConsume (q.a.toNat % 1024) (b.strobeLe q) with
  | some b => (b, .ok 0)
  | none => (b, .error 0x01)

section
variable {n : PE} {q : Strobe} {s : State} {P : State → Prop} {c : Block} {v : Except Nat W64}

theorem gives_lookup (hq : s.blk.strobeOf n 0x60 = some q) (ht : q.tenant = false) (hf : lookupOp q s.blk = (c, v))
    (hs : c.isSealed = s.blk.isSealed) (hp : P { s with blk := c.extReply n v }) : Gives (.lookup n) s P :=
  gives_taken (f := lookupOp) rfl hq (.inr ht) hf hs hp

theorem gives_consume (hq : s.blk.strobeOf n 0x61 = some q) (ht : q.tenant = false) (hf : consumeOp q s.blk = (c, v))
    (hs : c.isSealed = s.blk.isSealed) (hp : P { s with blk := c.extReply n v }) : Gives (.consume n) s P :=
  gives_taken (f := consumeOp) rfl hq (.inr ht) hf hs hp

end

theorem lookupOp_found {b : Block} {q : Strobe} {p : Nat × CSlot}
    (h : (b.cremaAt 3 (b.strobeLe q)).cremaFind (q.a.toNat % 2 ^ 32) (b.strobeLe q) = some p) :
    lookupOp q b = ({ b.cremaAt 3 (b.strobeLe q) with
      crema := (b.cremaAt 3 (b.strobeLe q)).crema.put p.1 { p.2 with held := some (b.strobeLe q) } },
        .ok (BitVec.ofNat 64 (p.1 + 2 ^ 16))) := by
  unfold lookupOp
  rw [cremaLookup_found h]

theorem lookupOp_missed {b : Block} {q : Strobe}
    (h : (b.cremaAt 3 (b.strobeLe q)).cremaFind (q.a.toNat % 2 ^ 32) (b.strobeLe q) = none) :
    lookupOp q b = ((b.cremaAt 3 (b.strobeLe q)).cremaMiss (q.a.toNat % 2 ^ 32), .ok 0) := by
  unfold lookupOp
  rw [cremaLookup_missed h]

/-! ## COUNT's warnings -/

/-- The counts of COUNT and its events. -/
theorem cremaWarn_get_ne (b : Block) (on : Bool) {count evt g : Fld} (hc : g.key ≠ count.key) (he : g.key ≠ evt.key) :
    (b.cremaWarn on count evt).get g = b.get g := by
  unfold Block.cremaWarn
  split
  · exact (Block.get_put_ne _ _ _ _ he).trans (Block.get_put_ne _ _ _ _ hc)
  · rfl

theorem cremaWarn_count (b : Block) (on : Bool) {count evt : Fld} (h : count.key ≠ evt.key) :
    (b.cremaWarn on count evt).get count = if on then (b.get count + 1) % 2 ^ count.w else b.get count := by
  unfold Block.cremaWarn
  split
  · exact (Block.get_put_ne _ _ _ _ h).trans (Block.get_put_same _ _ _)
  · rfl

theorem cremaWarn_evt (b : Block) (on : Bool) (count evt : Fld) (hw : evt.w = 1) :
    (b.cremaWarn on count evt).get evt = if on then 1 else (b.cremaWarn on count evt).get evt := by
  unfold Block.cremaWarn
  split
  · refine (Block.get_put_same _ _ _).trans ?_
    rw [hw]
    rfl
  · rfl

theorem cremaWarn_frame (b : Block) (on : Bool) (count evt : Fld) : { b.cremaWarn on count evt with regs := b.regs } = b := by
  unfold Block.cremaWarn
  split <;> rfl

theorem cremaWarn_keeps {b c : Block} {fs : List Fld} (h : KeepsFields fs b c) (on : Bool) {count evt : Fld} (hc : count ∈ fs)
    (he : evt ∈ fs) : KeepsFields fs b (c.cremaWarn on count evt) := by
  unfold Block.cremaWarn
  split
  · exact (h.put hc _).put he _
  · exact h

/-- The block of a COUNT (R405). -/
theorem cremaCount_counted (b : Block) (a : Nat) :
    (∀ p ∈ [(0, R.CREMA_LSHORT_COUNT), (1, R.CREMA_LLONG_COUNT), (2, R.CREMA_HDRBAD_COUNT)],
      (b.cremaCount (a % 8)).get p.2 = if a.testBit p.1 then (b.get p.2 + 1) % 2 ^ 32 else b.get p.2) ∧
    (a.testBit 0 = true ∨ a.testBit 1 = true → (b.cremaCount (a % 8)).get R.CREMA_EVT_LEN = 1) ∧
    (a.testBit 2 = true → (b.cremaCount (a % 8)).get R.CREMA_EVT_HDRBAD = 1) ∧
    { b.cremaCount (a % 8) with regs := b.regs } = b ∧
    KeepsFields [R.CREMA_LSHORT_COUNT, R.CREMA_LLONG_COUNT, R.CREMA_HDRBAD_COUNT, R.CREMA_EVT_LEN, R.CREMA_EVT_HDRBAD] b
      (b.cremaCount (a % 8)) := by
  have hbit : ∀ i < 3, (a % 8).testBit i = a.testBit i := fun i hi => by
    rw [show (8 : Nat) = 2 ^ 3 from rfl, Nat.testBit_mod_two_pow, decide_eq_true hi, Bool.true_and]
  rw [cremaCount_eq, hbit 0 (by decide), hbit 1 (by decide), hbit 2 (by decide)]
  generalize hb1 : b.cremaWarn (a.testBit 0) R.CREMA_LSHORT_COUNT R.CREMA_EVT_LEN = b1
  generalize hb2 : b1.cremaWarn (a.testBit 1) R.CREMA_LLONG_COUNT R.CREMA_EVT_LEN = b2
  generalize hb3 : b2.cremaWarn (a.testBit 2) R.CREMA_HDRBAD_COUNT R.CREMA_EVT_HDRBAD = b3
  have h1 : ∀ g : Fld, g.key ≠ R.CREMA_LSHORT_COUNT.key → g.key ≠ R.CREMA_EVT_LEN.key → b1.get g = b.get g :=
    fun g hc he => hb1 ▸ cremaWarn_get_ne b _ hc he
  have h2 : ∀ g : Fld, g.key ≠ R.CREMA_LLONG_COUNT.key → g.key ≠ R.CREMA_EVT_LEN.key → b2.get g = b1.get g :=
    fun g hc he => hb2 ▸ cremaWarn_get_ne b1 _ hc he
  have h3 : ∀ g : Fld, g.key ≠ R.CREMA_HDRBAD_COUNT.key → g.key ≠ R.CREMA_EVT_HDRBAD.key → b3.get g = b2.get g :=
    fun g hc he => hb3 ▸ cremaWarn_get_ne b2 _ hc he
  have hlong : b2.get R.CREMA_EVT_LEN = if a.testBit 1 then 1 else b1.get R.CREMA_EVT_LEN := by
    rw [← hb2, cremaWarn_evt b1 (a.testBit 1) R.CREMA_LLONG_COUNT R.CREMA_EVT_LEN rfl]
    cases a.testBit 1 <;> rfl
  have hshort : a.testBit 0 = true → b1.get R.CREMA_EVT_LEN = 1 := fun h => by
    rw [← hb1, cremaWarn_evt b (a.testBit 0) R.CREMA_LSHORT_COUNT R.CREMA_EVT_LEN rfl, h, if_pos rfl]
  refine ⟨fun p hp => ?_, fun h => ?_, fun h => ?_, ?_, ?_⟩
  · simp only [List.mem_cons, List.not_mem_nil, or_false] at hp
    obtain rfl | rfl | rfl := hp
    · rw [h3 _ (by decide) (by decide), h2 _ (by decide) (by decide), ← hb1]
      exact cremaWarn_count b _ (by decide)
    · rw [h3 _ (by decide) (by decide), ← hb2]
      refine (cremaWarn_count b1 _ (by decide)).trans ?_
      rw [h1 _ (by decide) (by decide)]
      rfl
    · rw [← hb3]
      refine (cremaWarn_count b2 _ (by decide)).trans ?_
      rw [h2 _ (by decide) (by decide), h1 _ (by decide) (by decide)]
      rfl
  · rw [h3 _ (by decide) (by decide), hlong]
    split
    · rfl
    next hl => exact hshort (h.resolve_right hl)
  · rw [← hb3, cremaWarn_evt b2 (a.testBit 2) R.CREMA_HDRBAD_COUNT R.CREMA_EVT_HDRBAD rfl, h, if_pos rfl]
  · have f1 := cremaWarn_frame b (a.testBit 0) R.CREMA_LSHORT_COUNT R.CREMA_EVT_LEN
    have f2 := cremaWarn_frame b1 (a.testBit 1) R.CREMA_LLONG_COUNT R.CREMA_EVT_LEN
    have f3 := cremaWarn_frame b2 (a.testBit 2) R.CREMA_HDRBAD_COUNT R.CREMA_EVT_HDRBAD
    rw [hb1] at f1
    rw [hb2] at f2
    rw [hb3] at f3
    have f23 := congrArg (fun c : Block => { c with regs := b.regs }) f3
    have f12 := congrArg (fun c : Block => { c with regs := b.regs }) f2
    exact f23.trans (f12.trans f1)
  · subst hb1 hb2 hb3
    exact cremaWarn_keeps (cremaWarn_keeps (cremaWarn_keeps (.refl _ b) _ (by simp) (by simp)) _ (by simp) (by simp)) _
      (by simp) (by simp)

/-- A unit's operation that changed only registers, with its answer. -/
theorem onlyFields_replied {fs : List Fld} {b c : Block} (hf : { c with regs := b.regs } = b) (hk : KeepsFields fs b c) (n : PE)
    (err : Bool) (v : W64) : OnlyFields fs (Replied b n err v) (Replied c n err v) :=
  ⟨congrArg (fun d : Block => Replied { d with dcycle := b.dcycle, tick := b.tick } n err v) hf, hk⟩

theorem gives_aged {s : State} {slot : BitVec 10} {c : CSlot} {k : Block} (hc : s.blk.crema.look slot.toNat = some c)
    (hh : c.held = none) (ha : s.blk.get R.CREMA_CTRL_AGE ≠ 0) (hk : Passed s.blk k)
    (hexec : exec (.slotAged slot) s = done s (k.agedNow slot.toNat)) : Gives (.slotAged slot) s fun t =>
      t.blk.crema.look slot.toNat = none ∧ (∀ j, j ≠ slot.toNat → t.blk.crema.look j = k.crema.look j) ∧
        (k.crema.look slot.toNat = some c → t.blk.get R.CREMA_AGED_COUNT = (k.get R.CREMA_AGED_COUNT + 1) % 2 ^ 32 ∧
          t.blk.get R.CREMA_EVT_AGED = 1 ∧
          OnlyFields [R.CREMA_AGED_COUNT, R.CREMA_EVT_AGED] { k with crema := t.blk.crema } t.blk) ∧
        (k.crema.look slot.toNat ≠ some c → t.blk = k) := by
  obtain hnone | hsame := hk.crema.look slot.toNat
  · rw [agedNow_gone hnone] at hexec
    exact gives_of_done hexec hk.isSealed
      ⟨hnone, fun _ _ => rfl, fun h => absurd (hnone.symm.trans h) (Option.some_ne_none c).symm, fun _ => rfl⟩
  · have hkc : k.crema.look slot.toNat = some c := hsame.trans hc
    have hdue := cremaDue_some hh (show k.get R.CREMA_CTRL_AGE ≠ 0 by rw [hk.get _ age_untimed]; exact ha)
    rw [agedNow_due hkc hdue] at hexec
    obtain ⟨hgone, hrest, hcount, hevt, honly⟩ := cremaAge_aged k slot.toNat
    exact gives_of_done hexec hk.isSealed ⟨hgone, hrest, fun _ => ⟨hcount, hevt, honly⟩, fun h => absurd hkc h⟩

/-- Settles O34: a slot's fate is what `cremaFind`, a deletion or a raised count say of the table in the tick that R406 gives it. -/
theorem crema : Obligations.Crema := by
  unfold Obligations.Crema
  intro n slot all q s b i at' le frame mine free up seen clr hsorted
  have hseen : Passed b seen := cremaAt_passed b 3 le
  have hclr : Passed b clr := cremaAt_passed b 1 0
  have hrise : Tab.Rising seen.crema := hseen.crema.rising hsorted
  refine ⟨fun c hc hh ha => ?_, fun h => ?_, fun hq ht => ?_, fun hq ht => ⟨fun c hc hh => ?_, fun h => ?_⟩, fun hq ht => ?_,
    fun ht => ⟨fun hq => ?_, fun hq => ?_, fun hq => ?_⟩, fun hon => ?_⟩
  · have hexec := exec_slotAged_due hc (cremaDue_some hh ha)
    exact gives_aged hc hh ha ((elapse_passed b _).trans (cremaAt_passed _ 4 0)) hexec
  · refine gives_of_done (exec_slotAged_none ?_) rfl rfl
    cases hc : s.blk.crema.look slot.toNat with
    | none => rfl
    | some c => exact cremaDue_none (h.imp (fun h => h c hc) id)
  · cases hfind : seen.cremaFind frame le with
    | some p =>
      obtain ⟨hlook, hmine⟩ := cremaFind_some hrise hfind
      exact gives_lookup hq ht (lookupOp_found hfind) hseen.isSealed (.inl ⟨p.1, p.2, hlook, hmine, Tab.look_put_same _ _ _,
        fun k hk => Tab.look_put_ne _ _ _ _ hk, rfl⟩)
    | none =>
      have hno := cremaFind_none hrise hfind
      obtain ⟨hcount, hnoslot, hdup, hframe, hkeep⟩ := cremaMiss_missed seen frame
      have hcrema := congrArg Block.crema hframe
      have hsealed := congrArg Block.isSealed hframe
      refine gives_lookup hq ht (lookupOp_missed hfind) (hsealed.trans hseen.isSealed) (.inr ⟨hno, hcrema, hcount, hnoslot, ?_,
        onlyFields_replied hframe hkeep n false 0⟩)
      rintro ⟨k, d, hd, hf⟩
      refine hdup (List.any_eq_true.mpr ⟨(k, d), (hrise.look_iff k d).mp hd, ?_⟩)
      exact beq_iff_eq.mpr hf
  · refine gives_consume (v := .ok 0)
      (c := ({ clr with crema := clr.crema.del (q.a.toNat % 1024) } : Block).cover c.frame false) hq ht ?_ hclr.isSealed
      ⟨Tab.look_del_same _ _, fun j hj => Tab.look_del_ne _ _ _ hj, rfl, rfl⟩
    unfold consumeOp
    rw [cremaConsume_held hc hh]
  · refine gives_consume (c := b) (v := .error 1) hq ht ?_ rfl rfl
    unfold consumeOp
    rw [cremaConsume_other h]
  · obtain ⟨hcounts, hlen, hhdr, hframe, hkeep⟩ := cremaCount_counted b q.a.toNat
    have hup : ∀ w f, (w, f) ∈ [(0, R.CREMA_LSHORT_COUNT), (1, R.CREMA_LLONG_COUNT), (2, R.CREMA_HDRBAD_COUNT)] →
        up w f (b.cremaCount (q.a.toNat % 8)) := fun w f h => by
      have hget := hcounts (w, f) h
      cases hbit : q.a.toNat.testBit w with
      | true =>
        rw [hbit, if_pos rfl] at hget
        exact .inl (by rw [hbit]; exact hget)
      | false =>
        rw [hbit, if_neg Bool.false_ne_true] at hget
        exact .inr ⟨hget.symm, hbit⟩
    have hsealed := congrArg Block.isSealed hframe
    refine gives_taken (f := fun q b => (b.cremaCount (q.a.toNat % 8), .ok 0)) rfl hq (.inr ht) rfl hsealed
      ⟨hup _ _ (by simp), hup _ _ (by simp), hup _ _ (by simp), hlen, hhdr,
        onlyFields_replied hframe hkeep n false 0⟩
  · exact gives_refused rfl hq ht rfl
  · exact gives_refused rfl hq ht rfl
  · exact gives_refused rfl hq ht rfl
  · refine gives_of_done (b := b.cremaClear all i) ?_ hclr.isSealed ⟨rfl, fun ha => ?_, fun ha => ?_⟩
    · show done s (b.atReg R.CREMA_SLOTCLR_ALL fun b => b.cremaClear all i) = _
      unfold Block.atReg
      rw [hon, if_neg Bool.false_ne_true]
    · show (if all then [] else clr.crema.del i) = []
      rw [ha, if_pos rfl]
    · show Tab.look (if all then [] else clr.crema.del i) i = none ∧
        ∀ j, j ≠ i → Tab.look (if all then [] else clr.crema.del i) j = clr.crema.look j
      rw [ha, if_neg Bool.false_ne_true]
      exact ⟨Tab.look_del_same _ _, fun j hj => Tab.look_del_ne _ _ _ hj⟩

end Sys2Proof.Machine
end

section
/-! Capture pairs and the timer strobes (R362 to R374). -/
namespace Sys2Proof.Machine

/-! ## An edge of a capture input (R371, R372) -/

theorem filtered_iff (b : Block) (c : Nat) (rising : Bool) : b.filtered c rising = true ↔
    ∀ t level, b.timers.edge.look c = some (t, level) → rising ≠ level ∧ t + b.get (R.TC_CTRL_FILT c) + 1 ≤ b.ticks := by
  unfold Block.filtered
  split
  next t level h =>
    rw [Bool.and_eq_true, bne_iff_ne, decide_eq_true_iff]
    constructor
    · rintro hc t' level' h'
      cases h.symm.trans h'
      exact hc
    · exact fun hc => hc t level h
  next h => exact ⟨fun _ t level h' => (by rw [h] at h'; cases h'), fun _ => rfl⟩

theorem capture_ignored {b : Block} {c : Nat} {rising : Bool} (h : b.filtered c rising = false) : b.capture c rising = b := by
  unfold Block.capture
  rw [h, Bool.and_false]
  rfl

/-- The stamp of an edge that is accepted now (R372). -/
def Block.stamp (b : Block) (c : Nat) : Nat := ofSigned ((b.get R.TIME_TICKS_LO_TICKS : Int) - b.get (R.TC_CTRL_FILT c) - 2) 32

theorem stamp_int (b : Block) (c : Nat) :
    (b.stamp c : Int) = ((b.get R.TIME_TICKS_LO_TICKS : Int) - b.get (R.TC_CTRL_FILT c) - 2) % 2 ^ 32 := by
  unfold Block.stamp ofSigned
  exact Int.toNat_of_nonneg (Int.emod_nonneg _ (by decide))

theorem stamp_lt (b : Block) (c : Nat) : b.stamp c < 2 ^ 32 := by
  have h := stamp_int b c
  omega

/-- The edge noted as the channel's last one. -/
def Block.edged (b : Block) (c : Nat) (rising : Bool) : Block := b.modTim fun t => { t with edge := t.edge.put c (b.ticks, rising) }

section
variable {b : Block} {c : Nat} {rising : Bool} (hp : b.pd4 = true) (he : b.flag (R.TC_CTRL_CAPEN c) = true)
  (hf : b.filtered c rising = true)
include hp he hf

theorem capture_first (hh : b.flag (R.TC_STAT_CAPHALF c) = false) (hr : rising ≠ b.flag (R.TC_CTRL_CAPPOL c)) :
    b.capture c rising =
      ((b.edged c rising).raise (R.TC_STAT_CAPHALF c)).modTim fun t => { t with first := t.first.put c (b.stamp c) } := by
  have hhalf : (b.edged c rising).flag (R.TC_STAT_CAPHALF c) = false := hh
  have hpol : (rising != (b.edged c rising).flag (R.TC_CTRL_CAPPOL c)) = true := bne_iff_ne.mpr hr
  unfold Block.capture
  rw [hp, he, hf]
  show (if (b.edged c rising).flag (R.TC_STAT_CAPHALF c) then _ else
    if (rising != (b.edged c rising).flag (R.TC_CTRL_CAPPOL c)) = true then _ else _) = _
  rw [hhalf, if_neg Bool.false_ne_true, hpol, if_pos rfl]
  rfl

/-- The triple that the second edge of an event makes: RISE, FALL and WIDTH (R372). -/
def Block.capRise (b : Block) (c : Nat) : Nat := if b.flag (R.TC_CTRL_CAPPOL c) then b.stamp c else b.timers.first.get c 0

def Block.capFall (b : Block) (c : Nat) : Nat := if b.flag (R.TC_CTRL_CAPPOL c) then b.timers.first.get c 0 else b.stamp c

def Block.capWidth (b : Block) (c : Nat) : Nat := ofSigned ((b.stamp c : Int) - b.timers.first.get c 0) 32

theorem capture_second (hh : b.flag (R.TC_STAT_CAPHALF c) = true) (hr : rising = b.flag (R.TC_CTRL_CAPPOL c)) :
    b.capture c rising = if b.tick.read.contains c then
      ((b.edged c rising).clear (R.TC_STAT_CAPHALF c)).noting fun t =>
        { t with held := t.held.put c (b.capRise c, b.capFall c, b.capWidth c, b.flag (R.TC_CTRL_CAPPOL c)) }
      else ((b.edged c rising).clear (R.TC_STAT_CAPHALF c)).publish c (b.capRise c) (b.capFall c) (b.capWidth c)
        (b.flag (R.TC_CTRL_CAPPOL c)) := by
  have hhalf : (b.edged c rising).flag (R.TC_STAT_CAPHALF c) = true := hh
  have hpol : (rising == (b.edged c rising).flag (R.TC_CTRL_CAPPOL c)) = true := beq_iff_eq.mpr hr
  unfold Block.capture
  rw [hp, he, hf]
  show (if (b.edged c rising).flag (R.TC_STAT_CAPHALF c) then
    if (rising == (b.edged c rising).flag (R.TC_CTRL_CAPPOL c)) = true then _ else _ else _) = _
  rw [hhalf, if_pos rfl, hpol, if_pos rfl]
  rfl

end

/-! ## A publication (R372) -/

/-- NEW, OVR, CAPHALF and RISE of a channel are fields of their own. -/
theorem capture_keys (c : Nat) : (R.TC_STAT_NEW c).key ≠ (R.TC_STAT_OVR c).key ∧ (R.TC_STAT_CAPHALF c).key ≠ (R.TC_STAT_NEW c).key ∧
    (R.TC_STAT_CAPHALF c).key ≠ (R.TC_STAT_OVR c).key ∧ (R.TC_CAPR_RISE c).key ≠ (R.TC_STAT_NEW c).key ∧
    (R.TC_CAPR_RISE c).key ≠ (R.TC_STAT_OVR c).key ∧ (R.TC_CAPR_RISE c).key ≠ (R.TC_STAT_CAPHALF c).key := by
  simp only [Fld.key, R.TC_STAT_NEW, R.TC_STAT_OVR, R.TC_STAT_CAPHALF, R.TC_CAPR_RISE]
  omega

/-- A field of a timer channel is none of the Distributor's. -/
theorem channel_ne_pend {f : Fld} (hf : f.off < 0x9000) (hl : f.lo < 32) (r : Nat) (_ : r < 32) : f.key ≠ (R.DIST_PENDSET_PEND r).key := by
  rw [pendArray.key]
  unfold Fld.key
  omega

theorem channel_ne_busy {f : Fld} (hf : 0x8000 ≤ f.off) (m : Nat) (_ : m < 72) : f.key ≠ (R.PWR_ENG_BUSY m).key := by
  simp only [Fld.key, R.PWR_ENG_BUSY]
  omega

theorem publish_published (b : Block) {c : Nat} (hc : c < 64) (rise fall width : Nat) (pol : Bool) :
    let p := b.publish c rise fall width pol
    p.get (R.TC_STAT_NEW c) = 1 ∧ p.get (R.TC_STAT_OVR c) = (if b.flag (R.TC_STAT_NEW c) then 1 else b.get (R.TC_STAT_OVR c)) ∧
      p.get (R.TC_CAPR_RISE c) = rise % 2 ^ 32 ∧ p.get (R.TC_STAT_CAPHALF c) = b.get (R.TC_STAT_CAPHALF c) ∧
      p.srcBit R.DIST_PENDSET_PEND (280 + c) = true := by
  obtain ⟨hno, hhn, hho, hrn, hro, hrh⟩ := capture_keys c
  intro p
  let b1 := if b.flag (R.TC_STAT_NEW c) then b.raise (R.TC_STAT_OVR c) else b
  let b2 := (((b1.put (R.TC_CAPR_RISE c) rise).raise (R.TC_STAT_NEW c)).modTim fun t =>
    { t with live := t.live.put c (fall, width, pol) }).noting fun t => { t with published := c :: t.published }
  obtain ⟨-, -, hpend, -, hget⟩ := event_signals (x := 280 + c) (by omega) b2
  have hchan : ∀ f : Fld, 0x8000 ≤ f.off → f.off < 0x9000 → f.lo < 32 → p.get f = b2.get f := fun f h1 h2 h3 =>
    hget f (fun _ h => absurd h List.not_mem_nil) (channel_ne_pend h2 h3) (channel_ne_busy h1)
  have hstat : ∀ f : Fld, f.off = 0x801c + c * 0x20 → f.lo < 32 → p.get f = b2.get f := fun f h h' => hchan f (by omega) (by omega) h'
  have hb1 : ∀ f : Fld, f.key ≠ (R.TC_STAT_OVR c).key → b1.get f = b.get f := fun f hf => by
    show (if b.flag (R.TC_STAT_NEW c) then b.raise (R.TC_STAT_OVR c) else b).get f = _
    split
    · exact Block.get_put_ne _ _ _ _ hf
    · rfl
  have hb2 : ∀ f : Fld, f.key ≠ (R.TC_STAT_NEW c).key → f.key ≠ (R.TC_CAPR_RISE c).key → b2.get f = b1.get f :=
    fun f hn hr => (Block.get_put_ne _ _ _ _ hn).trans (Block.get_put_ne _ _ _ _ hr)
  refine ⟨?_, ?_, ?_, ?_, hpend⟩
  · exact (hstat _ rfl (show 16 < 32 by decide)).trans (Block.get_put_same _ _ _)
  · rw [hstat _ rfl (show 17 < 32 by decide), hb2 _ hno.symm hro.symm]
    show (if b.flag (R.TC_STAT_NEW c) then b.raise (R.TC_STAT_OVR c) else b).get _ = _
    split
    · exact Block.get_put_same _ _ _
    · rfl
  · rw [hchan _ (by simp only [R.TC_CAPR_RISE]; omega) (by simp only [R.TC_CAPR_RISE]; omega) (by simp only [R.TC_CAPR_RISE]; omega)]
    exact (Block.get_put_ne _ _ _ _ hrn).trans (Block.get_put_same _ _ _)
  · rw [hstat _ rfl (show 18 < 32 by decide), hb2 _ hhn hrh.symm, hb1 _ hho]

theorem publish_isSealed (b : Block) (c rise fall width : Nat) (pol : Bool) :
    (b.publish c rise fall width pol).isSealed = b.isSealed := (publish_passed b c rise fall width pol).isSealed

/-! ## Reads (R373) -/

theorem readCapr_keys (c : Nat) : (R.TC_CAPF_FALL c).key ≠ (R.TC_CAPW_WIDTH c).key ∧ (R.TC_CAPF_FALL c).key ≠ (R.TC_STAT_NEW c).key ∧
    (R.TC_CAPW_WIDTH c).key ≠ (R.TC_STAT_NEW c).key := by
  simp only [Fld.key, R.TC_CAPF_FALL, R.TC_CAPW_WIDTH, R.TC_STAT_NEW]
  omega

/-- A read takes the snapshot of the other two words and clears NEW. -/
theorem readCapr_read (b : Block) (c : Nat) :
    (b.readCapr c).get (R.TC_CAPF_FALL c) = (b.timers.live.get c (0, 0, false)).1 % 2 ^ 32 ∧
      (b.readCapr c).get (R.TC_CAPW_WIDTH c) = (b.timers.live.get c (0, 0, false)).2.1 % 2 ^ 32 ∧
      (b.readCapr c).get (R.TC_STAT_NEW c) = 0 ∧
      KeepsFields [R.TC_CAPF_FALL c, R.TC_CAPW_WIDTH c, R.TC_STAT_NEW c] b (b.readCapr c) := by
  obtain ⟨hfw, hfn, hwn⟩ := readCapr_keys c
  refine ⟨?_, ?_, Block.get_put_same _ _ _, ?_⟩
  · exact (Block.get_put_ne _ _ _ _ hfn).trans ((Block.get_put_ne _ _ _ _ hfw).trans (Block.get_put_same _ _ _))
  · exact (Block.get_put_ne _ _ _ _ hwn).trans (Block.get_put_same _ _ _)
  · exact ((((KeepsFields.refl _ b).put (by simp) _).put (by simp) _).put (f := R.TC_STAT_NEW c) (by simp) 0).of_regs rfl

/-! ## Arming and stopping (R363, R364) -/

theorem arm_keys (c : Nat) : (R.TC_COUNT_COUNT c).key ≠ (R.TC_STAT_ARMED c).key ∧ (R.TC_COUNT_COUNT c).key ≠ (R.TC_STAT_WAITPH c).key ∧
    (R.TC_STAT_ARMED c).key ≠ (R.TC_STAT_WAITPH c).key ∧ (R.TC_LOAD_LOAD c).key ≠ (R.TC_COUNT_COUNT c).key ∧
    (R.TC_LOAD_LOAD c).key ≠ (R.TC_STAT_ARMED c).key ∧ (R.TC_LOAD_LOAD c).key ≠ (R.TC_STAT_WAITPH c).key := by
  simp only [Fld.key, R.TC_COUNT_COUNT, R.TC_STAT_ARMED, R.TC_STAT_WAITPH, R.TC_LOAD_LOAD]
  omega

theorem tcArm_eq {b : Block} {c : Nat} (ho : b.oddLinked c = false) (hs : c ∉ b.tick.started) :
    b.tcArm c = (((b.setCount c (b.tcLoad c)).raise (R.TC_STAT_ARMED c)).clear (R.TC_STAT_WAITPH c)).modTim fun t =>
      { t with presc := t.presc.del c, phase := t.phase.del c } := by
  unfold Block.tcArm
  rw [if_neg]
  rw [ho, Bool.false_or, List.contains_iff_mem]
  exact hs

theorem tcStop_eq {b : Block} {c : Nat} (ho : b.oddLinked c = false) :
    b.tcStop c = ((b.clear (R.TC_STAT_ARMED c)).clear (R.TC_STAT_WAITPH c)).modTim fun t => { t with phase := t.phase.del c } := by
  unfold Block.tcStop
  rw [if_neg (by rw [ho]; exact Bool.false_ne_true)]

/-- ARMED and WAITPH of an armed channel. -/
theorem tcArm_stat {b : Block} {c : Nat} (ho : b.oddLinked c = false) (hs : c ∉ b.tick.started) :
    (b.tcArm c).get (R.TC_STAT_ARMED c) = 1 ∧ (b.tcArm c).get (R.TC_STAT_WAITPH c) = 0 ∧
      ∀ f : Fld, f.key ≠ (R.TC_STAT_ARMED c).key → f.key ≠ (R.TC_STAT_WAITPH c).key →
        (b.tcArm c).get f = (b.setCount c (b.tcLoad c)).get f := by
  obtain ⟨-, -, haw, -⟩ := arm_keys c
  rw [tcArm_eq ho hs]
  exact ⟨(Block.get_put_ne _ _ _ _ haw).trans (Block.get_put_same _ _ _), Block.get_put_same _ _ _,
    fun f ha hw => (Block.get_put_ne _ _ _ _ hw).trans (Block.get_put_ne _ _ _ _ ha)⟩

theorem tcStop_stat {b : Block} {c : Nat} (ho : b.oddLinked c = false) :
    (b.tcStop c).get (R.TC_STAT_ARMED c) = 0 ∧ (b.tcStop c).get (R.TC_STAT_WAITPH c) = 0 ∧
      OnlyTimers [R.TC_STAT_ARMED c, R.TC_STAT_WAITPH c] b (b.tcStop c) := by
  obtain ⟨-, -, haw, -⟩ := arm_keys c
  rw [tcStop_eq ho]
  refine ⟨(Block.get_put_ne _ _ _ _ haw).trans (Block.get_put_same _ _ _), Block.get_put_same _ _ _, rfl, ?_⟩
  exact (((KeepsFields.refl _ b).put (f := R.TC_STAT_ARMED c) (by simp) 0).put (f := R.TC_STAT_WAITPH c) (by simp) 0).of_regs rfl

theorem setCount_single {b : Block} {c : Nat} (h : b.linked c = false) (v : Nat) :
    b.setCount c v = b.put (R.TC_COUNT_COUNT c) v := by
  unfold Block.setCount
  rw [if_neg (by rw [h]; exact Bool.false_ne_true)]

theorem tcLoad_single {b : Block} {c : Nat} (h : b.linked c = false) : b.tcLoad c = b.get (R.TC_LOAD_LOAD c) := by
  unfold Block.tcLoad
  rw [if_neg (by rw [h]; exact Bool.false_ne_true)]

/-! ## The timer strobes (R370) -/

section
variable {lim : Nat} {q : Strobe} {b : Block} {f : Nat → Block × W64}

theorem timerOp_range (h : lim ≤ q.a.toNat) : b.timerOp lim q f = (b, .error 0x01) := by
  unfold Block.timerOp
  dsimp only
  rw [if_pos (by rw [decide_eq_true h]; rfl)]

section
variable (hl : q.a.toNat < lim) (ho : lim = 64 → b.oddLinked q.a.toNat = false)
include hl ho

theorem inRange : ¬(decide (lim ≤ q.a.toNat) || (lim == 64 && b.oddLinked q.a.toNat)) = true := by
  rw [Bool.or_eq_true, decide_eq_true_iff, Bool.and_eq_true, beq_iff_eq]
  rintro (h | ⟨h, h'⟩)
  · omega
  · rw [ho h] at h'
    cases h'

theorem timerOp_done (ht : q.tenant = true → b.flag (R.TC_CTRL_TENANT q.a.toNat) = true) :
    b.timerOp lim q f = ((f q.a.toNat).1, .ok (f q.a.toNat).2) := by
  unfold Block.timerOp
  dsimp only
  rw [if_neg (inRange hl ho), if_neg]
  rw [Bool.and_eq_true, Bool.not_eq_true']
  rintro ⟨h, h'⟩
  rw [ht h] at h'
  cases h'

theorem timerOp_world (ht : q.tenant = true) (hn : b.flag (R.TC_CTRL_TENANT q.a.toNat) = false) :
    b.timerOp lim q f = (b, .error 0x08) := by
  unfold Block.timerOp
  dsimp only
  rw [if_neg (inRange hl ho), ht, hn]
  rfl

end

end

theorem oddLinked_congr {b b' : Block} {c : Nat} (h : b'.get (R.TC_CTRL_LINK (c - 1)) = b.get (R.TC_CTRL_LINK (c - 1))) :
    b'.oddLinked c = b.oddLinked c := by
  unfold Block.oddLinked Block.flag
  rw [h]

theorem linked_congr {b b' : Block} {c : Nat} (h : b'.get (R.TC_CTRL_LINK c) = b.get (R.TC_CTRL_LINK c)) :
    b'.linked c = b.linked c := by
  unfold Block.linked Block.flag
  rw [h]

theorem LINK_ne_LOAD (c d : Nat) : (R.TC_CTRL_LINK c).key ≠ (R.TC_LOAD_LOAD d).key := by
  simp only [Fld.key, R.TC_CTRL_LINK, R.TC_LOAD_LOAD]
  omega

/-- ARM: LOAD written, the channel armed (R370). -/
theorem armStrobe_armed {b : Block} {c : Nat} (v : Nat) (ho : b.oddLinked c = false) (hl : b.linked c = false) (hs : c ∉ b.tick.started) :
    let k := (b.put (R.TC_LOAD_LOAD c) v).tcArm c
    k.get (R.TC_LOAD_LOAD c) = v % 2 ^ 32 ∧ k.get (R.TC_COUNT_COUNT c) = v % 2 ^ 32 ∧ k.get (R.TC_STAT_ARMED c) = 1 ∧
      { k with regs := b.regs, timers := b.timers } = b ∧
      KeepsFields [R.TC_LOAD_LOAD c, R.TC_COUNT_COUNT c, R.TC_STAT_ARMED c, R.TC_STAT_WAITPH c] b k := by
  obtain ⟨hca, hcw, -, hlc, hla, hlw⟩ := arm_keys c
  have ho' : (b.put (R.TC_LOAD_LOAD c) v).oddLinked c = false :=
    (oddLinked_congr (Block.get_put_ne _ _ _ _ (LINK_ne_LOAD _ _))).trans ho
  have hl' : (b.put (R.TC_LOAD_LOAD c) v).linked c = false := (linked_congr (Block.get_put_ne _ _ _ _ (LINK_ne_LOAD _ _))).trans hl
  obtain ⟨harmed, -, hrest⟩ := tcArm_stat ho' hs
  have hcount : (b.put (R.TC_LOAD_LOAD c) v).setCount c ((b.put (R.TC_LOAD_LOAD c) v).tcLoad c) =
      (b.put (R.TC_LOAD_LOAD c) v).put (R.TC_COUNT_COUNT c) (v % 2 ^ 32) := by
    rw [setCount_single hl', tcLoad_single hl', Block.get_put_same]
    rfl
  rw [hcount] at hrest
  intro k
  refine ⟨?_, ?_, harmed, ?_, ?_⟩
  · exact (hrest _ hla hlw).trans ((Block.get_put_ne _ _ _ _ hlc).trans (Block.get_put_same _ _ _))
  · refine (hrest _ hca hcw).trans ((Block.get_put_same _ _ _).trans ?_)
    exact Nat.mod_mod _ _
  · show { (b.put (R.TC_LOAD_LOAD c) v).tcArm c with regs := b.regs, timers := b.timers } = b
    rw [tcArm_eq ho' hs, hcount]
    rfl
  · show KeepsFields _ b ((b.put (R.TC_LOAD_LOAD c) v).tcArm c)
    rw [tcArm_eq ho' hs, hcount]
    exact (((((KeepsFields.refl _ b).put (by simp) v).put (by simp) _).put (f := R.TC_STAT_ARMED c) (by simp) 1).put
      (f := R.TC_STAT_WAITPH c) (by simp) 0).of_regs rfl

theorem captureTick_eq {b : Block} {c : Nat} (h : c ∉ b.tick.published) : b.captureTick c = b := by
  unfold Block.captureTick
  rw [if_neg]
  rw [List.contains_iff_mem]
  exact h

/-- A register of the timers answers with PERIPH on (R508). -/
theorem atReg_timer {b : Block} {f : Fld} {act : Block → Block} (hp : b.pd4 = true) (hl : 0x8000 ≤ f.off) (hh : f.off < 0x8800) :
    b.atReg f act = act b := by
  have hper : isPeriph f.off = true := by
    unfold isPeriph
    rw [decide_eq_true (show 0x8000 ≤ f.off ∧ f.off < 0x8800 from ⟨hl, hh⟩)]
    rfl
  unfold Block.atReg Block.winOff
  rw [if_pos (show f.off < 0x40000 by omega), if_pos hper, hp, decide_eq_false (show ¬(0xB000 ≤ f.off ∧ f.off < 0xB0C0) by omega),
    decide_eq_false (show ¬(0xB0C0 ≤ f.off ∧ f.off < 0xB180) by omega)]
  rfl

/-- A unit's operation that changed only registers and the timers' state, with its answer. -/
theorem onlyTimers_replied {fs : List Fld} {b c : Block}
    (hf : { c with regs := b.regs, timers := b.timers, dcycle := b.dcycle, tick := b.tick } = b) (hk : KeepsFields fs b c) (n : PE)
    (err : Bool) (v : W64) : OnlyTimers fs (Replied b n err v) (Replied c n err v) :=
  ⟨congrArg (fun d : Block => Replied d n err v) hf, hk⟩

/-! ## The obligation -/

/-- Settles O28: `capture` on the block of the edge's tick, and the channel operations under a strobe's two refusals. -/
theorem captureAndStrobes : Obligations.CaptureAndStrobes := by
  unfold Obligations.CaptureAndStrobes
  intro n c rising dt q s b e stamp pol chan accepted live snap answer
  have hpass : Passed b e := elapse_passed b _
  have hexec : exec (.captureEdge c rising dt) s = done s (e.capture c rising) := rfl
  clear_value e
  have hgives : ∀ {k : Block} {P : State → Prop}, e.capture c rising = k → k.isSealed = e.isSealed → P { s with blk := k } →
      Gives (.captureEdge c rising dt) s P := fun hk hs hp =>
    gives_of_done (hexec.trans (congrArg (done s) hk)) (hs.trans hpass.isSealed) hp
  refine ⟨fun hna => ?_, fun hp he ha => ?_, fun hp hpub => ?_, fun hq hl ho hn hs ht => ?_, fun hq hl ho ht => ?_,
    fun hq hl ho ht => ?_, fun hq hr => ?_, fun hq hl ho ht hn => ?_, fun hq hl hpub ht => ?_⟩
  · refine hgives (capture_ignored ?_) rfl rfl
    rw [Bool.eq_false_iff, ne_eq, filtered_iff]
    exact hna
  · have hf : e.filtered c rising = true := (filtered_iff e c rising).mpr ha
    refine ⟨fun hh hr => ?_, fun hh hr hread => ?_, fun hh hr hread => ?_⟩
    · refine hgives (capture_first hp he hf hh hr) rfl ⟨⟨rfl, ?_⟩, Block.get_put_same _ _ _, ?_⟩
      · exact ((KeepsFields.refl _ e).put (f := R.TC_STAT_CAPHALF c) (by simp) 1).of_regs rfl
      · exact (congrArg (fun o : Option Nat => ((o.getD 0 : Nat) : Int)) (Tab.look_put_same _ _ _)).trans (stamp_int e c)
    · have hk := capture_second hp he hf hh hr
      rw [if_pos (List.contains_iff_mem.mpr hread)] at hk
      refine hgives hk rfl ⟨⟨rfl, ?_⟩, Block.get_put_same _ _ _, ?_⟩
      · exact ((KeepsFields.refl _ e).put (f := R.TC_STAT_CAPHALF c) (by simp) 0).of_regs rfl
      · exact congrArg Option.isSome (Tab.look_put_same _ _ _)
    · have hk := capture_second hp he hf hh hr
      rw [if_neg (by rw [List.contains_iff_mem]; exact hread)] at hk
      obtain ⟨hno, hhn, hho, -, -, -⟩ := capture_keys c
      obtain ⟨hnew, hovr, hrise, hhalf, hpend⟩ := publish_published ((e.edged c rising).clear (R.TC_STAT_CAPHALF c))
        (c := c) (by omega) (e.capRise c) (e.capFall c) (e.capWidth c) (e.flag (R.TC_CTRL_CAPPOL c))
      refine hgives hk (publish_isSealed _ _ _ _ _ _) ⟨hhalf.trans (Block.get_put_same _ _ _), hnew, hovr.trans ?_, ?_, hpend⟩
      · have hflag : ((e.edged c rising).clear (R.TC_STAT_CAPHALF c)).get (R.TC_STAT_NEW c) = e.get (R.TC_STAT_NEW c) :=
          Block.get_put_ne _ _ _ _ hhn.symm
        have hget : ((e.edged c rising).clear (R.TC_STAT_CAPHALF c)).get (R.TC_STAT_OVR c) = e.get (R.TC_STAT_OVR c) :=
          Block.get_put_ne _ _ _ _ hho.symm
        unfold Block.flag
        rw [hflag, hget]
      · refine (congrArg (fun v : Nat => (v : Int)) hrise).trans ?_
        show ((e.capRise c % 2 ^ 32 : Nat) : Int) = if pol then stamp else _
        unfold Block.capRise
        have hstamp := stamp_int e c
        have hlt := stamp_lt e c
        split
        · rw [Nat.mod_eq_of_lt hlt]
          exact hstamp
        · rfl
  · obtain ⟨hfall, hwidth, hnew, hkeep⟩ := readCapr_read b c
    refine gives_of_done (b := b.readCapr c) ?_ rfl ⟨hfall, hwidth, hnew, rfl, hkeep⟩
    show done s (b.atReg (R.TC_CAPR_RISE c) fun b => (b.captureTick c).readCapr c) = _
    rw [atReg_timer hp (by simp only [R.TC_CAPR_RISE]; omega) (by simp only [R.TC_CAPR_RISE]; omega), captureTick_eq hpub]
  · obtain ⟨hload, hcount, harmed, hframe, hkeep⟩ := armStrobe_armed q.b.toNat ho hn hs
    have hsealed := congrArg Block.isSealed hframe
    refine gives_taken (f := fun q b => b.timerOp 64 q fun c => ((b.put (R.TC_LOAD_LOAD c) q.b.toNat).tcArm c, 0)) rfl hq (.inl rfl)
      (timerOp_done hl (fun _ => ho) ht) hsealed ⟨onlyTimers_replied ?_ hkeep n false 0, hload, hcount, harmed⟩
    exact congrArg (fun d : Block => { d with dcycle := b.dcycle, tick := b.tick }) hframe
  · obtain ⟨harmed, -, hframe, hkeep⟩ := tcStop_stat ho
    have hsealed := congrArg Block.isSealed hframe
    exact gives_taken (f := fun q b => b.timerOp 64 q fun c => (b.tcStop c, 0)) rfl hq (.inl rfl)
      (timerOp_done hl (fun _ => ho) ht) hsealed ⟨harmed, onlyTimers_replied hframe hkeep n false 0⟩
  · exact gives_taken rfl hq (.inl rfl) (timerOp_done hl (fun _ => ho) ht) rfl rfl
  · exact gives_taken rfl hq (.inl rfl) (timerOp_range hr) rfl rfl
  · exact gives_taken rfl hq (.inl rfl) (timerOp_world hl (fun _ => ho) ht hn) rfl rfl
  · obtain ⟨hfall, hwidth, hnew, hkeep⟩ := readCapr_read b chan
    have htick := captureTick_eq hpub
    refine gives_taken (f := fun q b => b.timerOp 16 q fun c =>
      let b := b.captureTick c
      let l := b.timers.live.get c (0, 0, false)
      (b.readCapr c, BitVec.ofNat 64 ((if l.2.2 then l.1 else b.get (R.TC_CAPR_RISE c)) + 2 ^ 32 * l.2.1)))
      (b := b.readCapr chan) (r := .ok (answer chan)) rfl hq (.inl rfl) ?_ rfl
      ⟨hfall, hwidth, hnew, rfl, hkeep⟩
    refine (timerOp_done hl (fun h => absurd h (by decide)) ht).trans ?_
    dsimp only
    rw [htick]

end Sys2Proof.Machine
end

section
/-! Timer channels (R363): the statement on their expiry fails where a COUNT register holds more than its 32 bits. -/
namespace Sys2Proof.Machine

/-- Channel 0 counts down with RELOAD and LOAD = 5 from a COUNT of 2³² + 5, which is no value of a 32-bit register but one that a
state of the model can hold, and a start of the Pin Sequencers' group comes with the next tick. -/
def overlongCount : State where
  blk := { Block.reset with
    regs := [(R.TC_CTRL_RELOAD 0, 1), (R.TC_LOAD_LOAD 0, 5), (R.TC_COUNT_COUNT 0, 2 ^ 32 + 5), (R.TC_STAT_ARMED 0, 1)].foldl
      (fun r p => r.put p.1.key p.2) []
    timers := { Timers.reset with psGo := true } }
  pending := []

/-- Channel 0 runs, unlinked, and its expiry is 2³² + 5 ticks away. -/
theorem overlongCount_runs : overlongCount.blk.pd4 = true ∧ overlongCount.blk.tcRuns 0 = true ∧ overlongCount.blk.linked 0 = false ∧
    0 < overlongCount.blk.tcDue 0 ∧ overlongCount.blk.flag R.TMR_GCTRL_PEND = false ∧ overlongCount.blk.timers.go = false ∧
    216 + 0 ∉ overlongCount.blk.dcycle.forced := by
  decide +kernel

/-- The first of these ticks, with the group start in it, writes back 4 of the count's 2³² + 4, so the rest of them hold many expiries. -/
theorem overlongCount_expires :
    (overlongCount.blk.elapse (overlongCount.blk.tcDue 0)).get (R.TC_STAT_EXPCNT 0) = 0xFF ∧
      overlongCount.blk.get (R.TC_STAT_EXPCNT 0) = 0 := by
  decide +kernel

/-- TIMER_EXPIRY of a channel that runs leaves the registers that its ticks make. -/
theorem timerExpiry_get {c : Fin 64} {s t : State} (hr : s.blk.tcRuns c = true) (h : exec (.timerExpiry c) s = .next t) (f : Fld) :
    t.blk.get f = (s.blk.elapse (s.blk.tcDue c)).get f := by
  have hexec : exec (.timerExpiry c) s = done s (if s.blk.tcRuns c then s.blk.elapse (s.blk.tcDue c) else s.blk) := rfl
  rw [hexec, hr, if_pos rfl] at h
  generalize s.blk.elapse (s.blk.tcDue c) = k at h ⊢
  obtain ⟨-, -, hk⟩ := done_keeps h
  have e := congrArg (fun b : Block => b.get f) hk
  exact e

/-- What the statement says of an expiry's count. -/
theorem expcnt_of_timerChannels (h : Obligations.TimerChannels) {c : Fin 64} {s : State} (hp : s.blk.pd4 = true)
    (hr : s.blk.tcRuns c = true) (hl : s.blk.linked c = false) (hd : 0 < s.blk.tcDue c) (hg : s.blk.flag R.TMR_GCTRL_PEND = false)
    (hgo : s.blk.timers.go = false) (hf : 216 + c.val ∉ s.blk.dcycle.forced) :
    (s.blk.elapse (s.blk.tcDue c)).get (R.TC_STAT_EXPCNT c) = min (s.blk.get (R.TC_STAT_EXPCNT c) + 1) 0xFF := by
  obtain ⟨-, -, -, hexpiry, -⟩ := h c false s hp
  obtain ⟨t, ht, hcnt, -⟩ := hexpiry hr hl hd hg hgo hf
  exact (timerExpiry_get hr ht _).symm.trans hcnt

/-- Refutes O27: from `overlongCount` the expiry's ticks count EXPCNT from 0 to 0xFF, where the statement says 1. The COUNT register
holds more than 32 bits there, so the ticks to its expiry are more than what a stop on their way writes back. -/
theorem not_timerChannels : ¬ Obligations.TimerChannels := by
  intro h
  obtain ⟨hp, hr, hl, hd, hg, hgo, hf⟩ := overlongCount_runs
  obtain ⟨hexp, hzero⟩ := overlongCount_expires
  have hcnt := expcnt_of_timerChannels h (c := 0) hp hr hl hd hg hgo hf
  have hone : (0xFF : Nat) = min (0 + 1) 0xFF := (hexp.symm.trans hcnt).trans (congrArg (fun v => min (v + 1) 0xFF) hzero)
  exact absurd hone (by decide)

end Sys2Proof.Machine
end

section
/-! Axis positions (R389 to R392): the statement fails where a position register holds more than its 32 bits. -/
namespace Sys2Proof.Machine

/-- Axis 0 samples in MODE 1 and its last step was step 0; POSHI holds 2³², which is no value of a 32-bit register but one that a state
of the model can hold. -/
def overlongPosition : State where
  blk := { Block.reset with
    regs := [(R.INTEG_OPT_AX0, 1), (R.AX_CFG_EN 0, 1), (R.AX_CFG_MODE 0, 1), (R.AX_SCAMP_AMPMIN 0, 0), (R.AX_SCAMP_AMPMAX 0, 9),
      (R.AX_SCOFF_OFFS 0, 0), (R.AX_SCOFF_OFFC 0, 0), (R.AX_POSLO_POS 0, 0), (R.AX_POSHI_POS 0, 2 ^ 32)].foldl (fun r p => r.put p.1.key p.2) []
    axes := [(0, { Axis.reset with phi := some 0 })] }
  pending := []

/-- The axis of `overlongPosition`. -/
def axis0 : Fin 2 := 0

theorem overlongPosition_samples : overlongPosition.blk.axOn axis0 = true ∧ overlongPosition.blk.flag (R.AX_CFG_MODE axis0) = true ∧
    (overlongPosition.blk.ax axis0).phi = some 0 ∧
    overlongPosition.blk.get64 (R.AX_POSLO_POS axis0) (R.AX_POSHI_POS axis0) = 2 ^ 64 := by
  decide +kernel

/-- A sample at angle 0 moves nothing, so the position keeps its overlong value. -/
theorem overlongPosition_stays :
    (overlongPosition.blk.axSample axis0 (0 : BitVec 16).toNat (1 : BitVec 16).toNat).get64 (R.AX_POSLO_POS axis0)
      (R.AX_POSHI_POS axis0) = 2 ^ 64 ∧
    ((overlongPosition.blk.axSample axis0 (0 : BitVec 16).toNat (1 : BitVec 16).toNat).ax axis0).phi = some 0 := by
  decide +kernel

/-- A SINCOS_SAMPLE that is taken leaves the registers that the sample makes. -/
theorem sincosSample_get64 {a : Fin 2} {sin cos : BitVec 16} {s t : State} (hon : s.blk.axOn a = true)
    (hm : s.blk.flag (R.AX_CFG_MODE a) = true) (h : exec (.sincosSample a sin cos) s = .next t) (lo hi : Fld) :
    t.blk.get64 lo hi = (s.blk.axSample a sin.toNat cos.toNat).get64 lo hi ∧
      (t.blk.ax a) = (s.blk.axSample a sin.toNat cos.toNat).ax a := by
  have hexec : exec (.sincosSample a sin cos) s = done s (if s.blk.axOn a && s.blk.flag (R.AX_CFG_MODE a) then
    s.blk.axSample a sin.toNat cos.toNat else s.blk) := rfl
  rw [hexec, hon, hm, Bool.and_self, if_pos rfl] at h
  generalize s.blk.axSample a sin.toNat cos.toNat = k at h ⊢
  obtain ⟨-, -, hk⟩ := done_keeps h
  have e := congrArg (fun b : Block => (b.get64 lo hi, b.ax a)) hk
  exact Prod.ext_iff.mp e

/-- What the statement says of the position after a sample in bounds whose step is that of the last one. -/
theorem pos_of_axisPosition (h : Obligations.AxisPosition) {a : Fin 2} {sin cos : BitVec 16} {s : State} {k : Nat}
    (hon : s.blk.axOn a = true) (hm : s.blk.flag (R.AX_CFG_MODE a) = true) (hk : (s.blk.ax a).phi = some k)
    (hphi : ((s.blk.axSample a sin.toNat cos.toNat).ax a).phi = some k)
    (hpower : let vs := sin.toInt - (BitVec.ofNat 16 (s.blk.get (R.AX_SCOFF_OFFS a))).toInt
      let vc := cos.toInt - (BitVec.ofNat 16 (s.blk.get (R.AX_SCOFF_OFFC a))).toInt
      (s.blk.get (R.AX_SCAMP_AMPMIN a) : Int) ^ 2 ≤ vs * vs + vc * vc ∧
        vs * vs + vc * vc ≤ (s.blk.get (R.AX_SCAMP_AMPMAX a) : Int) ^ 2) :
    ((s.blk.axSample a sin.toNat cos.toNat).get64 (R.AX_POSLO_POS a) (R.AX_POSHI_POS a) : Int) =
      s.blk.get64 (R.AX_POSLO_POS a) (R.AX_POSHI_POS a) % 2 ^ 64 := by
  obtain ⟨t, ht, hafter⟩ := ((h a false false sin cos s).2.1 hon hm).2.1 hpower
  obtain ⟨hpos, hax⟩ := sincosSample_get64 hon hm ht (R.AX_POSLO_POS a) (R.AX_POSHI_POS a)
  obtain ⟨-, -, k', hstep⟩ := hafter
  have hkk : k' = k := Option.some.inj (hstep.2.1.symm.trans ((congrArg Axis.phi hax).trans hphi))
  subst hkk
  have hmove := (hstep.2.2.2.2 k' hk).1
  rw [← hpos]
  refine hmove.trans ?_
  dsimp only
  rw [Int.sub_self, Int.zero_bmod, neg_zero, ite_self, Int.add_zero]

/-- Refutes O32: from `overlongPosition` a sample at the last step's angle leaves the position as it is, at 2⁶⁴, where the statement
says it is the old one plus 0 modulo 2⁶⁴. -/
theorem not_axisPosition : ¬ Obligations.AxisPosition := by
  intro h
  obtain ⟨hon, hm, hp, hold⟩ := overlongPosition_samples
  obtain ⟨hpos, hphi⟩ := overlongPosition_stays
  have hmod := pos_of_axisPosition h hon hm hp hphi (by decide +kernel)
  rw [hold, hpos] at hmod
  exact absurd hmod (by decide)

end Sys2Proof.Machine
end

section
/-! Axis measures: speed windows, index, probe, encoder emulation (R393 to R399). -/
namespace Sys2Proof.Machine

/-! ## Speed windows (R393) -/

theorem OnlyAxes.of_puts {fs : List Fld} {b c : Block} (hf : { c with regs := b.regs, axes := b.axes, tick := b.tick } = b)
    (hk : KeepsFields fs b c) : OnlyAxes fs b c := ⟨hf, hk⟩

theorem OnlyAxes.isSealed {fs : List Fld} {b c : Block} (h : OnlyAxes fs b c) : c.isSealed = b.isSealed := by
  have hframe := congrArg Block.isSealed h.1
  exact hframe

theorem modAx_ax (b : Block) (a : Nat) (f : Axis → Axis) : (b.modAx a f).ax a = f (b.ax a) :=
  congrArg (·.getD Axis.reset) (Tab.look_put_same _ _ _)

/-- The result that a window's end leaves in SPD, STALE and MOVING (R393). -/
def Block.spdResult (b : Block) (a : Nat) : Block :=
  if (b.ax a).n = 0 then ((b.clear (R.AX_SPD_SPD a)).clear (R.AX_SPDF_STALE a)).clear (R.AX_STAT_MOVING a)
  else if (b.ax a).young then (b.clear (R.AX_SPD_SPD a)).raise (R.AX_SPDF_STALE a)
  else (b.put (R.AX_SPD_SPD a) (ofSigned (clampInt (b.ax a).net (-0x7FFFFFFF) 0x7FFFFFFF) 32)).clear (R.AX_SPDF_STALE a)

theorem axWindowEnd_eq (b : Block) (a : Nat) : b.axWindowEnd a =
    (((b.spdResult a).put (R.AX_SPDF_REVWIN a) (bit (b.ax a).rev)).inc (R.AX_SPDF_WSEQ a) 1).modAx a fun x =>
      { x with n := 0, net := 0, young := false, rev := false } := rfl

theorem spdResult_frame (b : Block) (a : Nat) : { b.spdResult a with regs := b.regs } = b := by
  unfold Block.spdResult
  split
  · rfl
  · split <;> rfl

theorem spdResult_keeps (b : Block) (a : Nat) :
    KeepsFields [R.AX_SPD_SPD a, R.AX_SPDF_STALE a, R.AX_STAT_MOVING a] b (b.spdResult a) := by
  unfold Block.spdResult
  split
  · exact (((KeepsFields.refl _ b).put (f := R.AX_SPD_SPD a) (by simp) 0).put (f := R.AX_SPDF_STALE a) (by simp) 0).put
      (f := R.AX_STAT_MOVING a) (by simp) 0
  split
  · exact ((KeepsFields.refl _ b).put (f := R.AX_SPD_SPD a) (by simp) 0).put (f := R.AX_SPDF_STALE a) (by simp) 1
  · exact ((KeepsFields.refl _ b).put (f := R.AX_SPD_SPD a) (by simp) _).put (f := R.AX_SPDF_STALE a) (by simp) 0

theorem clampInt_eq (v lo hi : Int) (h : lo ≤ hi) : clampInt v lo hi = max lo (min hi v) := by
  unfold clampInt
  split
  · omega
  · split <;> omega

theorem ofSigned_int (v : Int) (w : Nat) : (ofSigned v w : Int) = v % (2 ^ w : Nat) :=
  Int.toNat_of_nonneg (Int.emod_nonneg _ (by positivity))

theorem ofSigned_lt (v : Int) (w : Nat) : ofSigned v w < 2 ^ w := by
  have h := ofSigned_int v w
  have h' := Int.emod_lt_of_pos v (show (0 : Int) < (2 ^ w : Nat) by positivity)
  omega

section
variable (b : Block) (a : Nat)

theorem spdResult_still (h : (b.ax a).n = 0) : (b.spdResult a).get (R.AX_SPD_SPD a) = 0 ∧
    (b.spdResult a).get (R.AX_SPDF_STALE a) = 0 ∧ (b.spdResult a).get (R.AX_STAT_MOVING a) = 0 := by
  unfold Block.spdResult
  rw [if_pos h]
  unfold Block.clear
  simp (disch := simp only [Fld.key, R.AX_SPD_SPD, R.AX_SPDF_STALE, R.AX_STAT_MOVING]; omega) only
    [Block.get_put_same, Block.get_put_ne, Nat.zero_mod, and_self]

theorem spdResult_young (h : (b.ax a).n ≠ 0) (hy : (b.ax a).young = true) : (b.spdResult a).get (R.AX_SPD_SPD a) = 0 ∧
    (b.spdResult a).get (R.AX_SPDF_STALE a) = 1 := by
  unfold Block.spdResult
  rw [if_neg h, if_pos hy]
  unfold Block.clear Block.raise
  simp (disch := simp only [Fld.key, R.AX_SPD_SPD, R.AX_SPDF_STALE]; omega) only
    [Block.get_put_same, Block.get_put_ne, Nat.zero_mod, true_and]
  rfl

theorem spdResult_moving (h : (b.ax a).n ≠ 0) : (b.spdResult a).get (R.AX_STAT_MOVING a) = b.get (R.AX_STAT_MOVING a) := by
  unfold Block.spdResult Block.clear Block.raise
  rw [if_neg h]
  split <;> simp (disch := simp only [Fld.key, R.AX_SPD_SPD, R.AX_SPDF_STALE, R.AX_STAT_MOVING]; omega) only
    [Block.get_put_ne]

theorem spdResult_sum (h : (b.ax a).n ≠ 0) (hy : (b.ax a).young = false) : (b.spdResult a).get (R.AX_SPDF_STALE a) = 0 ∧
    ((b.spdResult a).get (R.AX_SPD_SPD a) : Int) = max (-0x7FFFFFFF) (min 0x7FFFFFFF (b.ax a).net) % 2 ^ 32 := by
  unfold Block.spdResult Block.clear
  rw [if_neg h, if_neg (by rw [hy]; exact Bool.false_ne_true)]
  refine ⟨Block.get_put_same _ _ _, ?_⟩
  rw [Block.get_put_ne _ _ _ _ (by simp only [Fld.key, R.AX_SPD_SPD, R.AX_SPDF_STALE]; omega), Block.get_put_same]
  refine (congrArg (fun v : Nat => (v : Int)) (Nat.mod_eq_of_lt (ofSigned_lt _ 32))).trans ?_
  rw [ofSigned_int, clampInt_eq _ _ _ (by decide)]
  rfl

end

/-- A window's end: the sums begin anew, REVWIN tells of a reversal, WSEQ counts. -/
theorem axWindowEnd_end (b : Block) (a : Nat) :
    OnlyAxes ([R.AX_SPDF_REVWIN a, R.AX_SPDF_WSEQ a] ++ [R.AX_SPD_SPD a, R.AX_SPDF_STALE a, R.AX_STAT_MOVING a]) b (b.axWindowEnd a) ∧
      (b.axWindowEnd a).get (R.AX_SPDF_WSEQ a) = (b.get (R.AX_SPDF_WSEQ a) + 1) % 2 ^ 16 ∧
      (b.axWindowEnd a).get (R.AX_SPDF_REVWIN a) = bit (b.ax a).rev ∧
      ∀ f ∈ [R.AX_SPD_SPD a, R.AX_SPDF_STALE a, R.AX_STAT_MOVING a], (b.axWindowEnd a).get f = (b.spdResult a).get f := by
  have hframe := spdResult_frame b a
  have hkeep := spdResult_keeps b a
  rw [axWindowEnd_eq]
  generalize b.spdResult a = c at hframe hkeep ⊢
  have hget : ∀ f, ((((c.put (R.AX_SPDF_REVWIN a) (bit (b.ax a).rev)).inc (R.AX_SPDF_WSEQ a) 1).modAx a fun x =>
      { x with n := 0, net := 0, young := false, rev := false }).get f) =
        (((c.put (R.AX_SPDF_REVWIN a) (bit (b.ax a).rev)).put (R.AX_SPDF_WSEQ a) (c.get (R.AX_SPDF_WSEQ a) + 1)).get f) := fun f => by
    refine congrArg (fun v => (((c.put (R.AX_SPDF_REVWIN a) (bit (b.ax a).rev)).put (R.AX_SPDF_WSEQ a) (v + 1)).get f)) ?_
    exact Block.get_put_ne _ _ _ _ (by simp only [Fld.key, R.AX_SPDF_WSEQ, R.AX_SPDF_REVWIN]; omega)
  have hwseq : c.get (R.AX_SPDF_WSEQ a) = b.get (R.AX_SPDF_WSEQ a) := hkeep _ fun f hf => by
    simp only [List.mem_cons, List.not_mem_nil, or_false] at hf
    obtain rfl | rfl | rfl := hf <;>
      simp only [Fld.key, R.AX_SPDF_WSEQ, R.AX_SPD_SPD, R.AX_SPDF_STALE, R.AX_STAT_MOVING] <;> omega
  refine ⟨⟨?_, ?_⟩, ?_, ?_, fun f hf => ?_⟩
  · exact congrArg (fun d : Block => { d with axes := b.axes, tick := b.tick }) hframe
  · intro f hf
    have hin : ∀ g ∈ [R.AX_SPD_SPD a, R.AX_SPDF_STALE a, R.AX_STAT_MOVING a], f.key ≠ g.key := fun g hg =>
      hf g (List.mem_append_right _ hg)
    rw [hget, Block.get_put_ne _ _ _ _ (hf _ (by simp)), Block.get_put_ne _ _ _ _ (hf _ (by simp)), hkeep f hin]
  · rw [hget, Block.get_put_same, hwseq]
    rfl
  · rw [hget, Block.get_put_ne _ _ _ _ (by simp only [Fld.key, R.AX_SPDF_WSEQ, R.AX_SPDF_REVWIN]; omega), Block.get_put_same]
    cases (b.ax a).rev <;> rfl
  · rw [hget]
    simp only [List.mem_cons, List.not_mem_nil, or_false] at hf
    obtain rfl | rfl | rfl := hf <;> simp (disch := (simp only [Fld.key, R.AX_SPD_SPD, R.AX_SPDF_STALE,
      R.AX_STAT_MOVING, R.AX_SPDF_WSEQ, R.AX_SPDF_REVWIN]; omega)) only [Block.get_put_ne]

/-- A new window (R393). -/
theorem axWindow_new (b : Block) (a : Nat) : (b.axWindow a).get (R.AX_SPD_SPD a) = 0 ∧ (b.axWindow a).get (R.AX_SPDF_STALE a) = 1 ∧
    (b.axWindow a).get (R.AX_STAT_MOVING a) = 0 ∧
    KeepsFields [R.AX_SPD_SPD a, R.AX_SPDF_STALE a, R.AX_STAT_MOVING a] b (b.axWindow a) ∧
    { b.axWindow a with regs := b.regs, axes := b.axes } = b ∧ ((b.axWindow a).ax a).n = 0 ∧ ((b.axWindow a).ax a).net = 0 := by
  have hget : ∀ f, (b.axWindow a).get f =
      (((b.put (R.AX_SPD_SPD a) 0).put (R.AX_SPDF_STALE a) 1).put (R.AX_STAT_MOVING a) 0).get f := fun f => rfl
  have hax : (b.axWindow a).ax a = { b.ax a with n := 0, net := 0, young := true, rev := false } := modAx_ax _ _ _
  refine ⟨?_, ?_, ?_, ?_, rfl, by rw [hax], by rw [hax]⟩
  · rw [hget]
    simp (disch := simp only [Fld.key, R.AX_SPD_SPD, R.AX_SPDF_STALE, R.AX_STAT_MOVING]; omega) only
      [Block.get_put_same, Block.get_put_ne, Nat.zero_mod]
  · rw [hget]
    simp (disch := simp only [Fld.key, R.AX_SPDF_STALE, R.AX_STAT_MOVING]; omega) only [Block.get_put_same, Block.get_put_ne]
    rfl
  · rw [hget, Block.get_put_same, Nat.zero_mod]
  · exact ((((KeepsFields.refl _ b).put (by simp) 0).put (by simp) 1).put (by simp) 0).of_regs rfl

/-! ## The reversal test (R392) -/

/-- An event leaves an edge source that is pending so. -/
theorem event_pend_edge (b : Block) (x : Nat) {y : Nat} (hp : b.srcBit R.DIST_PENDSET_PEND y = true) (hl : isLevel y = false) :
    (b.event x).srcBit R.DIST_PENDSET_PEND y = true := by
  unfold Block.event
  rw [setPend_pend, (distAt_cycled b 1).pend, hp, hl, Bool.and_false, Bool.false_and]
  split <;> rfl

theorem event_pend_self (b : Block) (x : Nat) : (b.event x).srcBit R.DIST_PENDSET_PEND x = true := by
  unfold Block.event
  rw [setPend_pend, if_pos rfl]

theorem event_frame (b : Block) {x : Nat} (hx : x < 1024) :
    { b.event x with regs := b.regs, domQ := b.domQ, dcycle := b.dcycle, tick := b.tick } = b := (event_signals hx b).1

/-- A field of an axis is none of the Distributor's and no BUSY. -/
def axisField (f : Fld) : Prop := 0xB000 * 32 ≤ f.key ∧ f.key < 0xB200 * 32

theorem axisField_ne_pend {f : Fld} (hf : axisField f) (r : Nat) (_ : r < 32) : f.key ≠ (R.DIST_PENDSET_PEND r).key := by
  rw [pendArray.key]
  unfold axisField at hf
  omega

theorem axisField_ne_busy {f : Fld} (hf : axisField f) (n : Nat) (_ : n < 72) : f.key ≠ (R.PWR_ENG_BUSY n).key := by
  unfold axisField at hf
  simp only [Fld.key, R.PWR_ENG_BUSY] at hf ⊢
  omega

theorem event_get_axis (b : Block) {x : Nat} (hx : x < 1024) {f : Fld} (hf : axisField f) : (b.event x).get f = b.get f := by
  obtain ⟨-, -, -, -, hget⟩ := event_signals hx b
  exact hget f (fun _ h => absurd h List.not_mem_nil) (axisField_ne_pend hf) (axisField_ne_busy hf)

/-- What a change of axis `a` within an index may touch: `b'` keeps every field of the axis but the listed ones, the block beside the
axis and the Distributor, and every edge source that is pending. -/
structure AxisKept (fs : List Fld) (b b' : Block) : Prop where
  frame : { b' with regs := b.regs, axes := b.axes, domQ := b.domQ, dcycle := b.dcycle, tick := b.tick } = b
  get : ∀ f, axisField f → (∀ g ∈ fs, f.key ≠ g.key) → b'.get f = b.get f
  pend : ∀ y < 1024, b.srcBit R.DIST_PENDSET_PEND y = true → isLevel y = false → b'.srcBit R.DIST_PENDSET_PEND y = true

theorem AxisKept.refl (fs : List Fld) (b : Block) : AxisKept fs b b := ⟨rfl, fun _ _ _ => rfl, fun _ _ h _ => h⟩

theorem AxisKept.trans {fs : List Fld} {b c d : Block} (h : AxisKept fs b c) (h' : AxisKept fs c d) : AxisKept fs b d where
  frame := (congrArg (fun e : Block => { e with regs := b.regs, axes := b.axes, domQ := b.domQ, dcycle := b.dcycle, tick := b.tick })
    h'.frame).trans h.frame
  get f hf hfs := (h'.get f hf hfs).trans (h.get f hf hfs)
  pend y hy hp hl := h'.pend y hy (h.pend y hy hp hl) hl

theorem AxisKept.put {fs : List Fld} {b c : Block} (h : AxisKept fs b c) {f : Fld} (hf : f ∈ fs) (ha : axisField f) (v : Nat) :
    AxisKept fs b (c.put f v) where
  frame := h.frame
  get g hg hgs := (Block.get_put_ne _ _ _ _ (hgs f hf)).trans (h.get g hg hgs)
  pend y hy hp hl := (srcBit_congr (Block.get_put_ne _ _ _ _ fun hk =>
    axisField_ne_pend ha (y / 32) (by omega) hk.symm)).trans (h.pend y hy hp hl)

theorem AxisKept.modAx {fs : List Fld} {b c : Block} (h : AxisKept fs b c) (a : Nat) (f : Axis → Axis) : AxisKept fs b (c.modAx a f) :=
  ⟨h.frame, h.get, h.pend⟩

theorem AxisKept.event {fs : List Fld} {b c : Block} (h : AxisKept fs b c) {x : Nat} (hx : x < 1024) : AxisKept fs b (c.event x) where
  frame := (congrArg (fun e : Block => { e with regs := b.regs, axes := b.axes, domQ := b.domQ, dcycle := b.dcycle, tick := b.tick })
    (event_frame c hx)).trans h.frame
  get f hf hfs := (event_get_axis c hx hf).trans (h.get f hf hfs)
  pend y hy hp hl := event_pend_edge c x (h.pend y hy hp hl) hl

/-- The reversal test writes DIR and the REV event alone. -/
theorem axReversal_kept (b : Block) (a : Fin 2) : AxisKept [R.AX_STAT_DIR a, R.AX_EVT_REV a] b (b.axReversal a) := by
  have hdir : axisField (R.AX_STAT_DIR a) := by simp only [axisField, Fld.key, R.AX_STAT_DIR]; omega
  have hrev : axisField (R.AX_EVT_REV a) := by simp only [axisField, Fld.key, R.AX_EVT_REV]; omega
  unfold Block.axReversal
  split
  · dsimp only
    generalize (if b.flag (R.AX_STAT_DIR a) = true then toSigned (b.ax a).ext 64 - b.axPos a
      else b.axPos a - toSigned (b.ax a).ext 64) = back
    split
    · exact ((((AxisKept.refl _ b).put (by simp) hdir _).put (f := R.AX_EVT_REV a) (by simp) hrev 1).modAx a _).event (by omega)
    · split
      · exact (AxisKept.refl _ b).modAx a _
      · exact .refl _ b
  · exact .refl _ b

/-! ## Index (R395, R396) -/

theorem nearest_multiple (d : Int) {per : Nat} (h : per ≠ 0) :
    let e := if (per : Int) ≤ 2 * (d % per) then d % per - per else d % per
    (per : Int) ∣ d - e ∧ -(per : Int) ≤ 2 * e ∧ 2 * e < per := by
  have hper : (0 : Int) < per := by omega
  have hnn := Int.emod_nonneg d hper.ne'
  have hlt := Int.emod_lt_of_pos d hper
  have hdvd : (per : Int) ∣ d - d % per := Int.dvd_self_sub_emod
  intro e
  unfold e
  split
  · exact ⟨by rw [← sub_add]; exact dvd_add hdvd (dvd_refl _), by omega, by omega⟩
  · exact ⟨hdvd, by omega, by omega⟩

/-- The signed error of an index: the nearest multiple of the period taken off (R395). -/
theorem idxErr_spec (b : Block) (a : Nat) :
    let per := b.get (R.AX_IDXPER_PER a)
    (per = 0 → b.idxErr a = 0) ∧ (per ≠ 0 → (per : Int) ∣ b.axPos a - toSigned (b.get (R.AX_IDXREF_REF a)) 32 - b.idxErr a ∧
      -(per : Int) ≤ 2 * b.idxErr a ∧ 2 * b.idxErr a < per) := by
  intro per
  refine ⟨fun h => if_pos h, fun h => ?_⟩
  have herr : b.idxErr a = _ := if_neg h
  rw [herr]
  exact nearest_multiple _ h

/-- The fields that an index latches (R395). -/
def Block.idxLatch (b : Block) (a : Nat) : Block :=
  (((((b.put (R.AX_IDXPOS_POS a) (b.get (R.AX_POSLO_POS a))).put (R.AX_IDXERR_ERR a) (ofSigned (b.idxErr a) 32))).inc
    (R.AX_IDXCNT_COUNT a) 1).raise (R.AX_EVT_INDEX a)).event (312 + 4 * a)

/-- What follows an index's latches: homing, a correction, or a fault (R396). -/
def Block.idxEnd (b : Block) (a : Nat) (err : Int) : Block :=
  if b.flag (R.AX_CFG_IDXHOME a) then
    ((b.setPos a (toSigned (b.get (R.AX_IDXREF_REF a)) 32)).clear (R.AX_CFG_IDXHOME a)).axReversal a
  else if b.flag (R.AX_CFG_IDXCORR a) && decide (err.natAbs ≤ b.get (R.AX_IDXTOL_TOL a)) then
    if err = 0 then b else ((b.setPos a (b.axPos a - err)).incSat (R.AX_IDXCNT_ADJCNT a) 1).axReversal a
  else if err = 0 then b else b.axFault a R.AX_EVT_IDXERR

theorem axIndex_eq (b : Block) (a : Nat) : b.axIndex a = (b.idxLatch a).idxEnd a (b.idxErr a) := rfl

section
variable (b : Block) (a : Fin 2)

theorem idxFields : axisField (R.AX_IDXPOS_POS a) ∧ axisField (R.AX_IDXERR_ERR a) ∧ axisField (R.AX_IDXCNT_COUNT a) ∧
    axisField (R.AX_EVT_INDEX a) ∧ axisField (R.AX_POSLO_POS a) ∧ axisField (R.AX_POSHI_POS a) ∧ axisField (R.AX_CFG_IDXHOME a) ∧
    axisField (R.AX_IDXCNT_ADJCNT a) ∧ axisField (R.AX_FLTCNT_COUNT a) ∧ axisField (R.AX_EVT_IDXERR a) ∧
    axisField (R.AX_CFG_IDXCORR a) ∧ axisField (R.AX_IDXREF_REF a) ∧ axisField (R.AX_IDXTOL_TOL a) := by
  simp only [axisField, Fld.key, R.AX_IDXPOS_POS, R.AX_IDXERR_ERR, R.AX_IDXCNT_COUNT, R.AX_EVT_INDEX, R.AX_POSLO_POS, R.AX_POSHI_POS,
    R.AX_CFG_IDXHOME, R.AX_IDXCNT_ADJCNT, R.AX_FLTCNT_COUNT, R.AX_EVT_IDXERR, R.AX_CFG_IDXCORR, R.AX_IDXREF_REF, R.AX_IDXTOL_TOL]
  omega

theorem idxLatch_kept : AxisKept [R.AX_IDXPOS_POS a, R.AX_IDXERR_ERR a, R.AX_IDXCNT_COUNT a, R.AX_EVT_INDEX a] b (b.idxLatch a) := by
  obtain ⟨hpos, herr, hcnt, hevt, -⟩ := idxFields a
  exact (((((AxisKept.refl _ b).put (by simp) hpos _).put (by simp) herr _).put (f := R.AX_IDXCNT_COUNT a) (by simp) hcnt _).put
    (f := R.AX_EVT_INDEX a) (by simp) hevt 1).event (by omega)

theorem idxLatch_latched : (b.idxLatch a).get (R.AX_IDXPOS_POS a) = b.get (R.AX_POSLO_POS a) % 2 ^ 32 ∧
    ((b.idxLatch a).get (R.AX_IDXERR_ERR a) : Int) = b.idxErr a % 2 ^ 32 ∧
    (b.idxLatch a).get (R.AX_IDXCNT_COUNT a) = (b.get (R.AX_IDXCNT_COUNT a) + 1) % 2 ^ 16 ∧ (b.idxLatch a).get (R.AX_EVT_INDEX a) = 1 ∧
    (b.idxLatch a).srcBit R.DIST_PENDSET_PEND (312 + 4 * a) = true := by
  obtain ⟨hpos, herr, hcnt, hevt, -⟩ := idxFields a
  have hx : 312 + 4 * a.val < 1024 := by omega
  unfold Block.idxLatch Block.raise Block.inc
  rw [event_get_axis _ hx hpos, event_get_axis _ hx herr, event_get_axis _ hx hcnt, event_get_axis _ hx hevt]
  simp (disch := (simp only [Fld.key, R.AX_IDXPOS_POS, R.AX_IDXERR_ERR, R.AX_IDXCNT_COUNT, R.AX_EVT_INDEX]; omega)) only
    [Block.get_put_same, Block.get_put_ne]
  refine ⟨rfl, ?_, rfl, rfl, event_pend_self _ _⟩
  refine (congrArg (fun v : Nat => (v : Int)) (Nat.mod_eq_of_lt (ofSigned_lt _ 32))).trans ?_
  rw [ofSigned_int]
  rfl

end

theorem get64_put64 (b : Block) {lo hi : Fld} (hne : lo.key ≠ hi.key) (hl : lo.w = 32) (hh : hi.w = 32) {v : Nat} (hv : v < 2 ^ 64) :
    (b.put64 lo hi v).get64 lo hi = v := by
  unfold Block.put64 Block.get64
  rw [Block.get_put_same, Block.get_put_ne _ _ _ _ hne, Block.get_put_same, hl, hh]
  omega

theorem POS_keys (a : Nat) : (R.AX_POSLO_POS a).key ≠ (R.AX_POSHI_POS a).key := by
  simp only [Fld.key, R.AX_POSLO_POS, R.AX_POSHI_POS]
  omega

/-- The position of axis `a` as its two registers hold it. -/
def Block.rawPos (b : Block) (a : Nat) : Nat := b.get64 (R.AX_POSLO_POS a) (R.AX_POSHI_POS a)

theorem setPos_rawPos (b : Block) (a : Nat) (v : Int) : ((b.setPos a v).rawPos a : Int) = v % 2 ^ 64 := by
  unfold Block.rawPos Block.setPos
  rw [get64_put64 _ (POS_keys a) rfl rfl (ofSigned_lt v 64), ofSigned_int]
  rfl

theorem axPos_emod (b : Block) (a : Nat) (e : Int) : (b.axPos a - e) % 2 ^ 64 = ((b.rawPos a : Int) - e) % 2 ^ 64 := by
  unfold Block.axPos Block.rawPos toSigned
  generalize b.get64 (R.AX_POSLO_POS a) (R.AX_POSHI_POS a) = v
  split <;> omega

theorem AxisKept.rawPos {fs : List Fld} {b c : Block} (h : AxisKept fs b c) {a : Fin 2}
    (hl : ∀ g ∈ fs, (R.AX_POSLO_POS a).key ≠ g.key) (hh : ∀ g ∈ fs, (R.AX_POSHI_POS a).key ≠ g.key) : c.rawPos a = b.rawPos a := by
  obtain ⟨-, -, -, -, hlo, hhi, -⟩ := idxFields a
  unfold Block.rawPos Block.get64
  rw [h.get _ hlo hl, h.get _ hhi hh]

/-- The fields that an index may write beside its latches. -/
def idxEndFields (a : Nat) : List Fld :=
  [R.AX_POSLO_POS a, R.AX_POSHI_POS a, R.AX_CFG_IDXHOME a, R.AX_STAT_DIR a, R.AX_EVT_REV a, R.AX_IDXCNT_ADJCNT a, R.AX_FLTCNT_COUNT a,
    R.AX_EVT_IDXERR a]

theorem AxisKept.mono {fs gs : List Fld} {b c : Block} (h : AxisKept fs b c) (hsub : fs ⊆ gs) : AxisKept gs b c :=
  ⟨h.frame, fun f hf hfs => h.get f hf fun g hg => hfs g (hsub hg), h.pend⟩

section
variable (b : Block) (a : Fin 2)

theorem setPos_kept (v : Int) : AxisKept [R.AX_POSLO_POS a, R.AX_POSHI_POS a] b (b.setPos a v) := by
  obtain ⟨-, -, -, -, hlo, hhi, -⟩ := idxFields a
  exact ((AxisKept.refl _ b).put (by simp) hlo _).put (by simp) hhi _

theorem axFault_kept {f : Nat → Fld} (hf : axisField (f a)) : AxisKept [f a, R.AX_FLTCNT_COUNT a] b (b.axFault a f) := by
  obtain ⟨-, -, -, -, -, -, -, -, hflt, -⟩ := idxFields a
  exact (((AxisKept.refl _ b).put (f := f a) (by simp) hf 1).put (f := R.AX_FLTCNT_COUNT a) (by simp) hflt _).event (by omega)

theorem idxEnd_kept (err : Int) : AxisKept (idxEndFields a) b (b.idxEnd a err) := by
  obtain ⟨-, -, -, -, -, -, hhome, hadj, -, herr, -⟩ := idxFields a
  have hset : ∀ v, AxisKept (idxEndFields a) b (b.setPos a v) := fun v => (setPos_kept b a v).mono (by simp [idxEndFields])
  have hrev : ∀ c, AxisKept (idxEndFields a) c (c.axReversal a) := fun c => (axReversal_kept c a).mono (by simp [idxEndFields])
  unfold Block.idxEnd
  split
  · exact ((hset _).put (f := R.AX_CFG_IDXHOME a) (by simp [idxEndFields]) hhome 0).trans (hrev _)
  split
  · split
    · exact .refl _ b
    · exact ((hset _).put (f := R.AX_IDXCNT_ADJCNT a) (by simp [idxEndFields]) hadj _).trans (hrev _)
  · split
    · exact .refl _ b
    · exact (axFault_kept b a herr).mono (by simp [idxEndFields])

/-- The reversal test leaves the position and the counters alone. -/
theorem axReversal_get {f : Fld} (hf : axisField f) (hd : f.key ≠ (R.AX_STAT_DIR a).key) (hr : f.key ≠ (R.AX_EVT_REV a).key) :
    (b.axReversal a).get f = b.get f := (axReversal_kept b a).get f hf (by simp [hd, hr])

theorem rawPos_congr {b c : Block} {a : Nat} (hl : c.get (R.AX_POSLO_POS a) = b.get (R.AX_POSLO_POS a))
    (hh : c.get (R.AX_POSHI_POS a) = b.get (R.AX_POSHI_POS a)) : c.rawPos a = b.rawPos a := by
  unfold Block.rawPos Block.get64
  rw [hl, hh]

theorem axReversal_rawPos : (b.axReversal a).rawPos a = b.rawPos a := by
  obtain ⟨-, -, -, -, hlo, hhi, -⟩ := idxFields a
  refine rawPos_congr (axReversal_get b a hlo ?_ ?_) (axReversal_get b a hhi ?_ ?_) <;>
    simp only [Fld.key, R.AX_POSLO_POS, R.AX_POSHI_POS, R.AX_STAT_DIR, R.AX_EVT_REV] <;> omega

theorem idxEnd_home (err : Int) (h : b.flag (R.AX_CFG_IDXHOME a) = true) :
    ((b.idxEnd a err).rawPos a : Int) = toSigned (b.get (R.AX_IDXREF_REF a)) 32 % 2 ^ 64 ∧
      (b.idxEnd a err).get (R.AX_CFG_IDXHOME a) = 0 ∧ (b.idxEnd a err).get (R.AX_FLTCNT_COUNT a) = b.get (R.AX_FLTCNT_COUNT a) := by
  obtain ⟨-, -, -, -, -, -, hhome, -, hflt, -⟩ := idxFields a
  have hend : b.idxEnd a err = ((b.setPos a (toSigned (b.get (R.AX_IDXREF_REF a)) 32)).put (R.AX_CFG_IDXHOME a) 0).axReversal a := if_pos h
  rw [hend, axReversal_rawPos, axReversal_get _ a hhome, axReversal_get _ a hflt]
  · refine ⟨(congrArg (fun v : Nat => (v : Int)) (rawPos_congr ?_ ?_)).trans (setPos_rawPos b a _), Block.get_put_same _ _ _, ?_⟩
    · exact Block.get_put_ne _ _ _ _ (by simp only [Fld.key, R.AX_POSLO_POS, R.AX_CFG_IDXHOME]; omega)
    · exact Block.get_put_ne _ _ _ _ (by simp only [Fld.key, R.AX_POSHI_POS, R.AX_CFG_IDXHOME]; omega)
    · unfold Block.setPos Block.put64
      simp (disch := (simp only [Fld.key, R.AX_FLTCNT_COUNT, R.AX_CFG_IDXHOME, R.AX_POSLO_POS, R.AX_POSHI_POS]; omega)) only
        [Block.get_put_ne]
  all_goals simp only [Fld.key, R.AX_CFG_IDXHOME, R.AX_FLTCNT_COUNT, R.AX_STAT_DIR, R.AX_EVT_REV]; omega

theorem idxEnd_correct {err : Int} (h : b.flag (R.AX_CFG_IDXHOME a) = false) (hc : b.flag (R.AX_CFG_IDXCORR a) = true)
    (ht : err.natAbs ≤ b.get (R.AX_IDXTOL_TOL a)) :
    (err ≠ 0 → ((b.idxEnd a err).rawPos a : Int) = ((b.rawPos a : Int) - err) % 2 ^ 64 ∧ (b.idxEnd a err).get (R.AX_IDXCNT_ADJCNT a) =
        min (b.get (R.AX_IDXCNT_ADJCNT a) + 1) 0xFFFF) ∧
      (err = 0 → b.idxEnd a err = b) ∧ (b.idxEnd a err).get (R.AX_FLTCNT_COUNT a) = b.get (R.AX_FLTCNT_COUNT a) := by
  obtain ⟨-, -, -, -, -, -, -, hadj, hflt, -⟩ := idxFields a
  have hend : b.idxEnd a err = if err = 0 then b else
      ((b.setPos a (b.axPos a - err)).incSat (R.AX_IDXCNT_ADJCNT a) 1).axReversal a := by
    unfold Block.idxEnd
    rw [h, if_neg Bool.false_ne_true, hc, decide_eq_true ht, Bool.and_self, if_pos rfl]
  by_cases he : err = 0
  · rw [if_pos he] at hend
    rw [hend]
    exact ⟨fun h => absurd he h, fun _ => rfl, rfl⟩
  · rw [if_neg he] at hend
    have hset : ∀ {f : Fld}, f.key ≠ (R.AX_POSLO_POS a).key → f.key ≠ (R.AX_POSHI_POS a).key →
        (b.setPos a (b.axPos a - err)).get f = b.get f := fun h1 h2 =>
      (Block.get_put_ne _ _ _ _ h2).trans (Block.get_put_ne _ _ _ _ h1)
    have hold : (b.setPos a (b.axPos a - err)).get (R.AX_IDXCNT_ADJCNT a) = b.get (R.AX_IDXCNT_ADJCNT a) :=
      hset (by simp only [Fld.key, R.AX_IDXCNT_ADJCNT, R.AX_POSLO_POS]; omega)
        (by simp only [Fld.key, R.AX_IDXCNT_ADJCNT, R.AX_POSHI_POS]; omega)
    rw [hend, axReversal_rawPos, axReversal_get _ a hadj, axReversal_get _ a hflt]
    · refine ⟨fun _ => ⟨(congrArg (fun v : Nat => (v : Int)) (rawPos_congr ?_ ?_)).trans ((setPos_rawPos b a _).trans (axPos_emod b a err)),
        (Block.get_put_same _ _ _).trans ?_⟩, fun h => absurd h he, ?_⟩
      · exact Block.get_put_ne _ _ _ _ (by simp only [Fld.key, R.AX_POSLO_POS, R.AX_IDXCNT_ADJCNT]; omega)
      · exact Block.get_put_ne _ _ _ _ (by simp only [Fld.key, R.AX_POSHI_POS, R.AX_IDXCNT_ADJCNT]; omega)
      · rw [hold]
        unfold satAdd
        exact Nat.mod_eq_of_lt (Nat.lt_of_le_of_lt (Nat.min_le_right _ _) (show 2 ^ 16 - 1 < 2 ^ 16 by decide))
      · refine (Block.get_put_ne _ _ _ _ ?_).trans (hset ?_ ?_) <;>
          simp only [Fld.key, R.AX_FLTCNT_COUNT, R.AX_IDXCNT_ADJCNT, R.AX_POSLO_POS, R.AX_POSHI_POS] <;> omega
    all_goals simp only [Fld.key, R.AX_IDXCNT_ADJCNT, R.AX_FLTCNT_COUNT, R.AX_STAT_DIR, R.AX_EVT_REV]; omega

/-- A fault of an axis: its event, its source and FLTCNT (R399). -/
theorem axFault_raised {f : Nat → Fld} (hf : axisField (f a)) (hne : (f a).key ≠ (R.AX_FLTCNT_COUNT a).key) (hw : (f a).w = 1) :
    (b.axFault a f).get (f a) = 1 ∧ (b.axFault a f).srcBit R.DIST_PENDSET_PEND (315 + 4 * a) = true ∧
      (b.axFault a f).get (R.AX_FLTCNT_COUNT a) = (b.get (R.AX_FLTCNT_COUNT a) + 1) % 2 ^ 32 := by
  obtain ⟨-, -, -, -, -, -, -, -, hflt, -⟩ := idxFields a
  have hx : 315 + 4 * a.val < 1024 := by omega
  refine ⟨(event_get_axis _ hx hf).trans ?_, event_pend_self _ _, (event_get_axis _ hx hflt).trans ?_⟩
  · refine (Block.get_put_ne _ _ _ _ hne).trans ((Block.get_put_same _ _ _).trans ?_)
    rw [hw]
    rfl
  · refine (Block.get_put_same _ _ _).trans ?_
    refine congrArg (fun v => (v + 1) % 2 ^ 32) (Block.get_put_ne _ _ _ _ hne.symm)

theorem idxEnd_fault {err : Int} (h : b.flag (R.AX_CFG_IDXHOME a) = false)
    (hc : ¬(b.flag (R.AX_CFG_IDXCORR a) = true ∧ err.natAbs ≤ b.get (R.AX_IDXTOL_TOL a))) :
    (b.idxEnd a err).rawPos a = b.rawPos a ∧ (err ≠ 0 → (b.idxEnd a err).get (R.AX_EVT_IDXERR a) = 1 ∧
      (b.idxEnd a err).srcBit R.DIST_PENDSET_PEND (315 + 4 * a) = true ∧
      (b.idxEnd a err).get (R.AX_FLTCNT_COUNT a) = (b.get (R.AX_FLTCNT_COUNT a) + 1) % 2 ^ 32) := by
  obtain ⟨-, -, -, -, -, -, -, -, -, herr, -⟩ := idxFields a
  have hend : b.idxEnd a err = if err = 0 then b else b.axFault a R.AX_EVT_IDXERR := by
    unfold Block.idxEnd
    rw [h, if_neg Bool.false_ne_true, if_neg]
    rw [Bool.and_eq_true, decide_eq_true_iff]
    exact hc
  by_cases he : err = 0
  · rw [if_pos he] at hend
    rw [hend]
    exact ⟨rfl, fun h => absurd he h⟩
  · rw [if_neg he] at hend
    rw [hend]
    refine ⟨(axFault_kept b a herr).rawPos ?_ ?_, fun _ => axFault_raised b a herr ?_ rfl⟩
    · simp only [List.forall_mem_cons, Fld.key, R.AX_POSLO_POS, R.AX_EVT_IDXERR, R.AX_FLTCNT_COUNT]
      refine ⟨by omega, by omega, by simp⟩
    · simp only [List.forall_mem_cons, Fld.key, R.AX_POSHI_POS, R.AX_EVT_IDXERR, R.AX_FLTCNT_COUNT]
      refine ⟨by omega, by omega, by simp⟩
    · simp only [Fld.key, R.AX_EVT_IDXERR, R.AX_FLTCNT_COUNT]
      omega

end

/-! ## Probe and emulation (R397, R398) -/

/-- The fields of a probe's edge, before its event (R397). -/
def Block.prbLatch (b : Block) (a : Nat) : Block :=
  let c := if b.flag (R.AX_STAT_PRBNEW a) then b.raise (R.AX_EVT_PRBOVR a) else b
  ((c.raise (R.AX_STAT_PRBNEW a)).put (R.AX_PRBLO_POS a) (c.rawPos a)).modAx a fun x =>
    { x with prb := (c.rawPos a, ofSigned ((c.tnow : Int) - 8) 64) }

theorem exec_probe (a : Fin 2) (rising : Bool) (dt : W32) (s : State) : exec (.probe a rising dt) s =
    done s (if (s.blk.elapse dt.toNat).axHere a && (s.blk.elapse dt.toNat).flag (R.AX_CFG_PRBEN a) &&
        rising != (s.blk.elapse dt.toNat).flag (R.AX_CFG_PRBPOL a) then
      ((s.blk.elapse dt.toNat).prbLatch a).event (314 + 4 * a) else s.blk.elapse dt.toNat) := by
  show execProbe a rising dt s = _
  unfold execProbe Block.prbLatch
  generalize s.blk.elapse dt.toNat = e
  rfl

theorem prbLatch_latched (b : Block) (a : Fin 2) :
    (b.prbLatch a).get (R.AX_STAT_PRBNEW a) = 1 ∧
    (b.prbLatch a).get (R.AX_EVT_PRBOVR a) = (if b.flag (R.AX_STAT_PRBNEW a) then 1 else b.get (R.AX_EVT_PRBOVR a)) ∧
    (b.prbLatch a).get (R.AX_PRBLO_POS a) = b.get (R.AX_POSLO_POS a) % 2 ^ 32 ∧
    ((b.prbLatch a).ax a).prb = (b.rawPos a, ofSigned ((b.tnow : Int) - 8) 64) ∧
    { b.prbLatch a with regs := b.regs, axes := b.axes } = b ∧
    KeepsFields [R.AX_STAT_PRBNEW a, R.AX_EVT_PRBOVR a, R.AX_PRBLO_POS a] b (b.prbLatch a) := by
  unfold Block.prbLatch
  dsimp only
  have hc : ∀ f : Fld, f.key ≠ (R.AX_EVT_PRBOVR a).key →
      (if b.flag (R.AX_STAT_PRBNEW a) then b.raise (R.AX_EVT_PRBOVR a) else b).get f = b.get f := fun f hf => by
    split
    · exact Block.get_put_ne _ _ _ _ hf
    · rfl
  have hovr : (if b.flag (R.AX_STAT_PRBNEW a) then b.raise (R.AX_EVT_PRBOVR a) else b).get (R.AX_EVT_PRBOVR a) =
      if b.flag (R.AX_STAT_PRBNEW a) then 1 else b.get (R.AX_EVT_PRBOVR a) := by
    split
    · exact Block.get_put_same _ _ _
    · rfl
  have hframe : { (if b.flag (R.AX_STAT_PRBNEW a) then b.raise (R.AX_EVT_PRBOVR a) else b) with regs := b.regs } = b := by
    split <;> rfl
  have hkeep : KeepsFields [R.AX_STAT_PRBNEW a, R.AX_EVT_PRBOVR a, R.AX_PRBLO_POS a] b
      (if b.flag (R.AX_STAT_PRBNEW a) then b.raise (R.AX_EVT_PRBOVR a) else b) := by
    split
    · exact (KeepsFields.refl _ b).put (by simp) 1
    · exact .refl _ b
  generalize (if b.flag (R.AX_STAT_PRBNEW a) then b.raise (R.AX_EVT_PRBOVR a) else b) = c at hc hovr hframe hkeep ⊢
  have hraw : c.rawPos a = b.rawPos a := by
    refine rawPos_congr (hc _ ?_) (hc _ ?_) <;> simp only [Fld.key, R.AX_POSLO_POS, R.AX_POSHI_POS, R.AX_EVT_PRBOVR] <;> omega
  have htnow : c.tnow = b.tnow := by
    unfold Block.tnow Block.get64
    rw [hc _ (by simp only [Fld.key, R.TNOW_HI_TNOW, R.AX_EVT_PRBOVR]; omega),
      hc _ (by simp only [Fld.key, R.TNOW_LO_TNOW, R.AX_EVT_PRBOVR]; omega)]
  refine ⟨?_, ?_, ?_, ?_, ?_, ?_⟩
  · refine (Block.get_put_ne _ _ _ _ ?_).trans (Block.get_put_same _ _ _)
    simp only [Fld.key, R.AX_STAT_PRBNEW, R.AX_PRBLO_POS]
    omega
  · refine ((Block.get_put_ne _ _ _ _ ?_).trans (Block.get_put_ne _ _ _ _ ?_)).trans hovr <;>
      simp only [Fld.key, R.AX_STAT_PRBNEW, R.AX_PRBLO_POS, R.AX_EVT_PRBOVR] <;> omega
  · refine (Block.get_put_same _ _ _).trans ?_
    rw [hraw]
    unfold Block.rawPos Block.get64
    show _ % 2 ^ 32 = _
    omega
  · rw [modAx_ax, hraw, htnow]
  · exact congrArg (fun d : Block => { d with axes := b.axes }) hframe
  · exact ((hkeep.put (f := R.AX_STAT_PRBNEW a) (by simp) 1).put (by simp) _).of_regs rfl

/-- A read of PRBLO (R397). -/
theorem readPrblo_read (b : Block) (a : Nat) :
    (b.readPrblo a).1.get (R.AX_PRBHI_POS a) = (b.ax a).prb.1 / 2 ^ 32 % 2 ^ 32 ∧
    (b.readPrblo a).1.get (R.AX_PRBT_LO_TNOW a) = (b.ax a).prb.2 % 2 ^ 32 ∧
    (b.readPrblo a).1.get (R.AX_PRBT_HI_TNOW a) = (b.ax a).prb.2 / 2 ^ 32 % 2 ^ 32 ∧
    (b.readPrblo a).1.get (R.AX_STAT_PRBNEW a) = 0 ∧
    KeepsFields [R.AX_PRBHI_POS a, R.AX_PRBT_LO_TNOW a, R.AX_PRBT_HI_TNOW a, R.AX_STAT_PRBNEW a] b (b.readPrblo a).1 := by
  unfold Block.readPrblo Block.put64 Block.clear
  dsimp only
  refine ⟨?_, ?_, ?_, ?_, ((((KeepsFields.refl _ b).put (by simp) _).put (by simp) _).put (by simp) _).put (by simp) _⟩ <;>
    simp (disch := (simp only [Fld.key, R.AX_PRBHI_POS, R.AX_PRBT_LO_TNOW, R.AX_PRBT_HI_TNOW, R.AX_STAT_PRBNEW]; omega)) only
      [Block.get_put_same, Block.get_put_ne, Nat.zero_mod] <;> rfl

theorem setEmu_set (b : Block) (a : Nat) (e : Int) : ((b.setEmu a e).ax a).emu = e ∧
    ((b.setEmu a e).get (R.AX_EMUCNT_E a) : Int) = e % 2 ^ 32 ∧ OnlyAxes [R.AX_EMUCNT_E a] b (b.setEmu a e) := by
  refine ⟨?_, ?_, rfl, ((KeepsFields.refl _ b).put (by simp) _).of_regs rfl⟩
  · exact congrArg Axis.emu (modAx_ax _ _ _)
  · refine (congrArg (fun v : Nat => (v : Int)) ((Block.get_put_same _ _ _).trans (Nat.mod_eq_of_lt (ofSigned_lt e 32)))).trans ?_
    rw [ofSigned_int]
    rfl

/-! ## The obligation -/

theorem axHere_pd4 {b : Block} {a : Nat} (h : b.axHere a = true) :
    b.pd4 = true ∧ b.flag (if a = 0 then R.INTEG_OPT_AX0 else R.INTEG_OPT_AX1) = true := by
  unfold Block.axHere at h
  exact Bool.and_eq_true_iff.mp h

/-- A register of an axis that is there answers (R505, R508). -/
theorem atReg_axis {b : Block} {a : Fin 2} {f : Fld} {act : Block → Block} (h : b.axHere a = true)
    (hl : 0xB000 + a * 0xC0 ≤ f.off) (hh : f.off < 0xB0C0 + a * 0xC0) : b.atReg f act = act b := by
  obtain ⟨hp, ho⟩ := axHere_pd4 h
  have hper : isPeriph f.off = true := by
    unfold isPeriph
    rw [decide_eq_true (show 0xB000 ≤ f.off ∧ f.off < 0xB180 by omega)]
    simp
  unfold Block.atReg Block.winOff
  rw [if_pos (show f.off < 0x40000 by omega), if_pos hper, hp]
  obtain rfl | rfl : a = 0 ∨ a = 1 := by omega
  · have ho0 : b.flag R.INTEG_OPT_AX0 = true := ho
    rw [ho0, decide_eq_false (show ¬(0xB0C0 ≤ f.off ∧ f.off < 0xB180) by simp at hh; omega)]
    simp
  · have ho1 : b.flag R.INTEG_OPT_AX1 = true := ho
    rw [ho1, decide_eq_false (show ¬(0xB000 ≤ f.off ∧ f.off < 0xB0C0) by simp at hl; omega)]
    simp

/-- An event after a change of the block: both seen from the block before. -/
theorem Signals.of_event {fs : List Fld} {b c : Block} {x : Nat} (hx : x < 1024) (hframe : { c with regs := b.regs } = b)
    (hkeep : KeepsFields fs b c) (hpend : ∀ g ∈ fs, ∀ r < 32, (R.DIST_PENDSET_PEND r).key ≠ g.key) :
    Signals fs x b (c.event x) := by
  obtain ⟨h1, h2, h3, h4, h5⟩ := event_signals hx c
  have hdomQ := congrArg Block.domQ hframe
  have hcycle := congrArg Block.dcycle hframe
  dsimp only at hdomQ hcycle
  refine ⟨?_, ?_, h3, fun y hy hyx hforced => ?_, fun g hg hpd hbusy => ?_⟩
  · exact (congrArg (fun d : Block => { d with regs := b.regs, domQ := b.domQ, dcycle := b.dcycle, tick := b.tick }) h1).trans
      (congrArg (fun d : Block => { d with domQ := b.domQ, dcycle := b.dcycle, tick := b.tick }) hframe)
  · rw [← hdomQ]
    exact h2
  · refine (h4 y hy hyx (by rw [hcycle]; exact hforced)).trans (srcBit_congr (hkeep _ fun g hg => hpend g hg _ (by omega)))
  · exact (h5 g (fun _ h => absurd h List.not_mem_nil) hpd hbusy).trans (hkeep g hg)

/-- Where the encoder emulation is after one step towards the position (R398). -/
def Block.emuStep (b : Block) (a : Nat) : Block :=
  if (b.ax a).emu < b.emuTarget a then b.setEmu a ((b.ax a).emu + 1)
  else if b.emuTarget a < (b.ax a).emu then b.setEmu a ((b.ax a).emu - 1) else b

theorem emuStep_steps (b : Block) (a : Nat) :
    ((b.emuStep a).ax a).emu = (b.ax a).emu + (if (b.ax a).emu < b.emuTarget a then 1 else if b.emuTarget a < (b.ax a).emu then -1 else 0) ∧
      ((b.ax a).emu ≠ b.emuTarget a → ((b.emuStep a).get (R.AX_EMUCNT_E a) : Int) = ((b.emuStep a).ax a).emu % 2 ^ 32) ∧
      OnlyAxes [R.AX_EMUCNT_E a] b (b.emuStep a) := by
  unfold Block.emuStep
  split
  · obtain ⟨h1, h2, h3⟩ := setEmu_set b a ((b.ax a).emu + 1)
    exact ⟨h1, fun _ => h2.trans (by rw [h1]), h3⟩
  split
  · obtain ⟨h1, h2, h3⟩ := setEmu_set b a ((b.ax a).emu - 1)
    exact ⟨h1, fun _ => h2.trans (by rw [h1]), h3⟩
  · exact ⟨(add_zero _).symm, fun h => absurd h (by omega), rfl, fun _ _ => rfl⟩

theorem AxisKept.mem {fs : List Fld} {b c : Block} (h : AxisKept fs b c) : c.mem = b.mem := by
  have e := congrArg Block.mem h.frame
  exact e

theorem AxisKept.isSealed {fs : List Fld} {b c : Block} (h : AxisKept fs b c) : c.isSealed = b.isSealed := by
  have e := congrArg Block.isSealed h.frame
  exact e

/-- What an index leaves: its latches, whatever follows them. -/
theorem axIndex_latched (b : Block) (a : Fin 2) :
    (b.axIndex a).get (R.AX_IDXPOS_POS a) = b.get (R.AX_POSLO_POS a) % 2 ^ 32 ∧
    ((b.axIndex a).get (R.AX_IDXERR_ERR a) : Int) = b.idxErr a % 2 ^ 32 ∧
    (b.axIndex a).get (R.AX_IDXCNT_COUNT a) = (b.get (R.AX_IDXCNT_COUNT a) + 1) % 2 ^ 16 ∧ (b.axIndex a).get (R.AX_EVT_INDEX a) = 1 ∧
    (b.axIndex a).srcBit R.DIST_PENDSET_PEND (312 + 4 * a) = true ∧ (b.axIndex a).mem = b.mem ∧
    (b.axIndex a).isSealed = b.isSealed := by
  obtain ⟨hpos, herr, hcnt, hevt, -⟩ := idxFields a
  obtain ⟨h1, h2, h3, h4, h5⟩ := idxLatch_latched b a
  have hlatch := idxLatch_kept b a
  have hend := idxEnd_kept (b.idxLatch a) a (b.idxErr a)
  rw [axIndex_eq]
  refine ⟨(hend.get _ hpos ?_).trans h1, (congrArg (fun v : Nat => (v : Int)) (hend.get _ herr ?_)).trans h2, (hend.get _ hcnt ?_).trans h3,
    (hend.get _ hevt ?_).trans h4, hend.pend _ (by omega) h5 ?_,
    hend.mem.trans hlatch.mem, hend.isSealed.trans hlatch.isSealed⟩
  case refine_5 => obtain rfl | rfl : a = 0 ∨ a = 1 := by omega
                   all_goals decide
  all_goals
    simp only [idxEndFields, List.forall_mem_cons, List.not_mem_nil, false_imp_iff, implies_true, and_true, Fld.key, R.AX_IDXPOS_POS,
      R.AX_IDXERR_ERR, R.AX_IDXCNT_COUNT, R.AX_EVT_INDEX, R.AX_POSLO_POS, R.AX_POSHI_POS, R.AX_CFG_IDXHOME, R.AX_STAT_DIR, R.AX_EVT_REV,
      R.AX_IDXCNT_ADJCNT, R.AX_FLTCNT_COUNT, R.AX_EVT_IDXERR]
    omega

/-- The latches leave the fields that homing, correction and the fault test read. -/
theorem idxLatch_reads (b : Block) (a : Fin 2) {f : Fld}
    (hf : f ∈ [R.AX_POSLO_POS a, R.AX_POSHI_POS a, R.AX_CFG_IDXHOME a, R.AX_CFG_IDXCORR a, R.AX_IDXREF_REF a, R.AX_IDXTOL_TOL a,
      R.AX_IDXCNT_ADJCNT a, R.AX_FLTCNT_COUNT a]) : (b.idxLatch a).get f = b.get f := by
  have hin : axisField f ∧ ∀ g ∈ [R.AX_IDXPOS_POS a, R.AX_IDXERR_ERR a, R.AX_IDXCNT_COUNT a, R.AX_EVT_INDEX a], f.key ≠ g.key := by
    simp only [List.mem_cons, List.not_mem_nil, or_false] at hf
    simp only [List.forall_mem_cons, List.not_mem_nil, false_imp_iff, implies_true, and_true]
    obtain rfl | rfl | rfl | rfl | rfl | rfl | rfl | rfl := hf <;>
      simp only [axisField, Fld.key, R.AX_IDXPOS_POS, R.AX_IDXERR_ERR, R.AX_IDXCNT_COUNT, R.AX_EVT_INDEX, R.AX_POSLO_POS, R.AX_POSHI_POS,
        R.AX_CFG_IDXHOME, R.AX_CFG_IDXCORR, R.AX_IDXREF_REF, R.AX_IDXTOL_TOL, R.AX_IDXCNT_ADJCNT, R.AX_FLTCNT_COUNT] <;> omega
  exact (idxLatch_kept b a).get f hin.1 hin.2

/-- Homing, correction or fault of an index, in the terms of the block before it (R396). -/
theorem axIndex_end (b : Block) (a : Fin 2) :
    if b.flag (R.AX_CFG_IDXHOME a) then
      ((b.axIndex a).rawPos a : Int) = toSigned (b.get (R.AX_IDXREF_REF a)) 32 % 2 ^ 64 ∧ (b.axIndex a).get (R.AX_CFG_IDXHOME a) = 0 ∧
        (b.axIndex a).get (R.AX_FLTCNT_COUNT a) = b.get (R.AX_FLTCNT_COUNT a)
    else if b.flag (R.AX_CFG_IDXCORR a) = true ∧ (b.idxErr a).natAbs ≤ b.get (R.AX_IDXTOL_TOL a) then
      (b.idxErr a ≠ 0 → ((b.axIndex a).rawPos a : Int) = ((b.rawPos a : Int) - b.idxErr a) % 2 ^ 64 ∧
        (b.axIndex a).get (R.AX_IDXCNT_ADJCNT a) = min (b.get (R.AX_IDXCNT_ADJCNT a) + 1) 0xFFFF) ∧
      (b.idxErr a = 0 → (b.axIndex a).rawPos a = b.rawPos a ∧ (b.axIndex a).get (R.AX_IDXCNT_ADJCNT a) = b.get (R.AX_IDXCNT_ADJCNT a)) ∧
      (b.axIndex a).get (R.AX_FLTCNT_COUNT a) = b.get (R.AX_FLTCNT_COUNT a)
    else (b.axIndex a).rawPos a = b.rawPos a ∧ (b.idxErr a ≠ 0 → (b.axIndex a).get (R.AX_EVT_IDXERR a) = 1 ∧
      (b.axIndex a).srcBit R.DIST_PENDSET_PEND (315 + 4 * a) = true ∧
      (b.axIndex a).get (R.AX_FLTCNT_COUNT a) = (b.get (R.AX_FLTCNT_COUNT a) + 1) % 2 ^ 32) := by
  have hflag : ∀ {f : Fld}, (b.idxLatch a).get f = b.get f → (b.idxLatch a).flag f = b.flag f := fun h => by
    unfold Block.flag
    rw [h]
  have hhome := hflag (idxLatch_reads b a (f := R.AX_CFG_IDXHOME a) (by simp))
  have hcorr := hflag (idxLatch_reads b a (f := R.AX_CFG_IDXCORR a) (by simp))
  have href := idxLatch_reads b a (f := R.AX_IDXREF_REF a) (by simp)
  have htol := idxLatch_reads b a (f := R.AX_IDXTOL_TOL a) (by simp)
  have hadj := idxLatch_reads b a (f := R.AX_IDXCNT_ADJCNT a) (by simp)
  have hflt := idxLatch_reads b a (f := R.AX_FLTCNT_COUNT a) (by simp)
  have hraw : (b.idxLatch a).rawPos a = b.rawPos a := rawPos_congr (idxLatch_reads b a (by simp)) (idxLatch_reads b a (by simp))
  rw [axIndex_eq, ← hhome, ← hcorr, ← href, ← htol, ← hadj, ← hflt, ← hraw]
  generalize b.idxLatch a = c
  generalize b.idxErr a = err
  split
  case isTrue h => exact idxEnd_home c a err h
  case isFalse h =>
  have hoff : c.flag (R.AX_CFG_IDXHOME a) = false := Bool.eq_false_iff.mpr h
  split
  case isTrue hc =>
    obtain ⟨h1, h2, h3⟩ := idxEnd_correct c a hoff hc.1 hc.2
    exact ⟨h1, fun h => by rw [h2 h]; exact ⟨rfl, rfl⟩, h3⟩
  case isFalse hc => exact idxEnd_fault c a hoff hc

/-- Settles O33: each measure is its own latch of the axis; an index is `idxLatch`, then `idxEnd`. -/
theorem axisMeasures : Obligations.AxisMeasures := by
  unfold Obligations.AxisMeasures
  intro a win rising dt s b x raw fresh window per home indexed e steps
  have hpass : Passed b e := elapse_passed b _
  have hprobe : exec (.probe a rising dt) s = done s (if e.axHere a && e.flag (R.AX_CFG_PRBEN a) &&
    rising != e.flag (R.AX_CFG_PRBPOL a) then (e.prbLatch a).event (314 + 4 * a) else e) := exec_probe a rising dt s
  clear_value e
  refine ⟨fun hon => ?_, fun hoff => ?_, fun hh => ⟨?_, fun hen => ?_, fun hen => ?_, ?_, fun hen => ?_, fun hen => ?_, ?_⟩,
    fun hh hen hr => ?_, fun h => ?_⟩
  · obtain ⟨honly, hwseq, hrev, hget⟩ := axWindowEnd_end b a
    have hax : (b.axWindowEnd a).ax a = { x with n := 0, net := 0, young := false, rev := false } := by
      rw [axWindowEnd_eq, modAx_ax]
      refine congrArg (fun y : Axis => { y with n := 0, net := 0, young := false, rev := false }) ?_
      have hframe := congrArg (fun c : Block => c.ax a) (spdResult_frame b a)
      exact hframe
    have hspd := hget _ (List.mem_cons_self)
    have hstale := hget (R.AX_SPDF_STALE a) (by simp)
    have hmoving := hget (R.AX_STAT_MOVING a) (by simp)
    refine gives_of_done (b := b.axWindowEnd a) ?_ ?_ ?_
    · show done s (if b.axOn a then b.axWindowEnd a else b) = _
      rw [hon, if_pos rfl]
    · exact honly.isSealed
    · show OnlyAxes _ b (b.axWindowEnd a) ∧ (b.axWindowEnd a).get _ = _ ∧ (b.axWindowEnd a).get _ = _ ∧ ((b.axWindowEnd a).ax a).n = 0 ∧
        ((b.axWindowEnd a).ax a).net = 0 ∧ ((b.axWindowEnd a).ax a).rev = false ∧ _ ∧ _
      rw [hax]
      refine ⟨honly, hwseq, hrev, rfl, rfl, rfl, fun hn => ?_, fun hn => ⟨hmoving.trans (spdResult_moving b a hn), fun hy => ?_, fun hy => ?_⟩⟩
      · obtain ⟨h1, h2, h3⟩ := spdResult_still b a hn
        exact ⟨hspd.trans h1, hstale.trans h2, hmoving.trans h3⟩
      · obtain ⟨h1, h2⟩ := spdResult_young b a hn hy
        exact ⟨hspd.trans h1, hstale.trans h2⟩
      · obtain ⟨h1, h2⟩ := spdResult_sum b a hn hy
        exact ⟨hstale.trans h1, (congrArg (fun v : Nat => (v : Int)) hspd).trans h2⟩
  · refine gives_of_done (b := b) ?_ rfl rfl
    show done s (if b.axOn a then b.axWindowEnd a else b) = _
    rw [hoff, if_neg Bool.false_ne_true]
  · obtain ⟨hspd, hstale, hmoving, hkeep, -, hn, hnet⟩ := axWindow_new (b.put (R.AX_SPDWIN_WIN a) win.toNat) a
    refine gives_of_done (b := (b.put (R.AX_SPDWIN_WIN a) win.toNat).axWindow a) ?_ rfl ⟨⟨hspd, hstale, hmoving⟩, ?_, ⟨rfl, ?_⟩, hn, hnet⟩
    · show done s (if b.axHere a then (b.put (R.AX_SPDWIN_WIN a) win.toNat).axWindow a else b) = _
      rw [hh, if_pos rfl]
    · refine (hkeep _ fun g hg => ?_).trans ((Block.get_put_same _ _ _).trans (Nat.mod_eq_of_lt win.isLt))
      simp only [List.mem_cons, List.not_mem_nil, or_false] at hg
      obtain rfl | rfl | rfl := hg <;>
        simp only [Fld.key, R.AX_SPDWIN_WIN, R.AX_SPD_SPD, R.AX_SPDF_STALE, R.AX_STAT_MOVING] <;> omega
    · intro f hf
      exact (hkeep f fun g hg => hf g (List.mem_cons_of_mem _ hg)).trans (Block.get_put_ne _ _ _ _ (hf _ List.mem_cons_self))
  · obtain ⟨h1, h2, h3, h4, h5, h6, h7⟩ := axIndex_latched b a
    obtain ⟨hzero, hper⟩ := idxErr_spec b a
    refine gives_of_done (b := b.axIndex a) ?_ h7 ⟨b.idxErr a, ⟨hzero, hper, h1, h2, h3, h4, h5, h6⟩, axIndex_end b a⟩
    show done s (if b.axHere a && b.flag (R.AX_CFG_IDXEN a) then b.axIndex a else b) = _
    rw [hh, hen, Bool.and_self, if_pos rfl]
  · refine gives_of_done (b := b) ?_ rfl rfl
    show done s (if b.axHere a && b.flag (R.AX_CFG_IDXEN a) then b.axIndex a else b) = _
    rw [hen, Bool.and_false, if_neg Bool.false_ne_true]
  · obtain ⟨h1, h2, h3, h4, hkeep⟩ := readPrblo_read b a
    refine gives_of_done (b := (b.readPrblo a).1) ?_ rfl ⟨h1, h2, h3, h4, rfl, hkeep⟩
    show done s (if b.axHere a then (b.readPrblo a).1 else b) = _
    rw [hh, if_pos rfl]
  · have htarget : steps = b.emuTarget a := by
      unfold steps Block.emuTarget
      rw [Nat.cast_add, Nat.cast_one]
    have hsealed := (emuStep_steps b a).2.2.isSealed
    rw [htarget]
    refine gives_of_done (b := b.emuStep a) ?_ hsealed (emuStep_steps b a)
    show done s (if b.axHere a && b.flag (R.AX_EMUCFG_EMUEN a) then b.emuStep a else b) = _
    rw [hh, hen, Bool.and_self, if_pos rfl]
  · refine gives_of_done (b := b) ?_ rfl rfl
    show done s (if b.axHere a && b.flag (R.AX_EMUCFG_EMUEN a) then _ else b) = _
    rw [hen, Bool.and_false, if_neg Bool.false_ne_true]
  · refine gives_of_done (b := b.axCntclr a) ?_ rfl ⟨⟨rfl, ?_⟩, ?_, Block.get_put_same _ _ _⟩
    · show done s (b.atReg (R.AX_CTRL_CNTCLR a) fun b => b.axCntclr a) = _
      rw [atReg_axis hh (by simp only [R.AX_CTRL_CNTCLR]; omega) (by simp only [R.AX_CTRL_CNTCLR]; omega)]
    · exact ((KeepsFields.refl _ b).put (f := R.AX_IDXCNT_ADJCNT a) (by simp) 0).put (f := R.AX_FLTCNT_COUNT a) (by simp) 0
    · refine (Block.get_put_ne _ _ _ _ ?_).trans (Block.get_put_same _ _ _)
      simp only [Fld.key, R.AX_IDXCNT_ADJCNT, R.AX_FLTCNT_COUNT]
      omega
  · obtain ⟨hnew, hovr, hpos, hprb, hframe, hkeep⟩ := prbLatch_latched e a
    have hx : 314 + 4 * a.val < 1024 := by omega
    have haxes : ((e.prbLatch a).event (314 + 4 * a)).axes = (e.prbLatch a).axes := by
      have h := congrArg Block.axes (event_frame (e.prbLatch a) hx)
      exact h
    have hsig : Signals [R.AX_STAT_PRBNEW a, R.AX_EVT_PRBOVR a, R.AX_PRBLO_POS a] (314 + 4 * a)
        { e with axes := (e.prbLatch a).axes } ((e.prbLatch a).event (314 + 4 * a)) := by
      refine Signals.of_event hx (congrArg (fun d : Block => { d with axes := (e.prbLatch a).axes }) hframe) (hkeep.of_regs rfl) ?_
      simp only [List.forall_mem_cons, List.not_mem_nil, false_imp_iff, implies_true, and_true, pendArray.key]
      simp only [Fld.key, R.AX_STAT_PRBNEW, R.AX_EVT_PRBOVR, R.AX_PRBLO_POS]
      exact ⟨fun r hr => by omega, fun r hr => by omega, fun r hr => by omega⟩
    obtain ⟨hf1, hf2, hf3⟩ : axisField (R.AX_STAT_PRBNEW a) ∧ axisField (R.AX_EVT_PRBOVR a) ∧ axisField (R.AX_PRBLO_POS a) := by
      simp only [axisField, Fld.key, R.AX_STAT_PRBNEW, R.AX_EVT_PRBOVR, R.AX_PRBLO_POS]
      omega
    refine gives_of_done (b := (e.prbLatch a).event (314 + 4 * a)) ?_ ?_ ?_
    · rw [hprobe, hh, hen, Bool.true_and, Bool.true_and, bne_iff_ne.mpr hr, if_pos rfl]
    · have h := congrArg Block.isSealed hsig.1
      exact h.trans hpass.isSealed
    · have hax : ((e.prbLatch a).event (314 + 4 * a)).ax a = (e.prbLatch a).ax a := by
        unfold Block.ax
        rw [haxes]
      show _ ∧ _ ∧ _ ∧ (((e.prbLatch a).event (314 + 4 * a)).ax a).prb.1 = _ ∧
        ((((e.prbLatch a).event (314 + 4 * a)).ax a).prb.2 : Int) = _ ∧ _
      refine ⟨(event_get_axis _ hx hf1).trans hnew, (event_get_axis _ hx hf2).trans hovr, (event_get_axis _ hx hf3).trans hpos, ?_, ?_, ?_⟩
      · rw [hax, hprb]
        rfl
      · rw [hax, hprb, ofSigned_int]
        rfl
      · show Signals _ _ { e with axes := ((e.prbLatch a).event (314 + 4 * a)).axes } _
        rw [haxes]
        exact hsig
  · refine gives_of_done (b := e) ?_ hpass.isSealed rfl
    rw [hprobe, if_neg]
    rw [Bool.and_eq_true, Bool.and_eq_true, bne_iff_ne]
    rintro ⟨⟨h1, h2⟩, h3⟩
    obtain h | h | h := h
    · rw [h] at h1
      cases h1
    · exact h3 h
    · rw [h] at h2
      cases h2

end Sys2Proof.Machine
end

section
/-! Steps that compute and branch (R403, R416): the statement fails where Crema holds a slot number that it does not have. -/
namespace Sys2Proof.Machine

/-- A slot of no frame. -/
def idleSlot : CSlot := { held := none, frame := 0, tnow := 0, pos0 := 0, pos1 := 0, spd0 := 0, spd1 := 0, flags := 0, order := 0, born := 0 }

/-- All 1,024 slots taken, and a slot 2,000 beside them, which Crema does not have but a state of the model can hold. -/
def overfullCrema : Tab CSlot := (List.range 1024).map (fun i => (i, idleSlot)) ++ [(2000, idleSlot)]

/-- A STROBE word with STB. -/
def strobeWord : Nat := 0xA0000002

/-- Sequencer 0 is about to execute `strobeWord`, Crema takes its strobes, and its slots are `overfullCrema`. -/
def overfullStrobe : State where
  blk := { Block.reset with
    regs := [(R.PS_CTRL_EN 0, 1), (R.CREMA_CTRL_EN, 1), (R.CREMA_CTRL_TRIGPS, 0), (R.PS_STAT_PC 0, 0)].foldl
      (fun r p => r.put p.1.key p.2) []
    pinseq := [(0, { PinSeq.reset with steps := [(0, strobeWord)] })]
    crema := overfullCrema }
  pending := []

/-- The sequencer of `overfullStrobe`. -/
def sequencer0 : Fin 16 := 0

theorem overfullCrema_rising : overfullCrema.Pairwise fun x y => x.1 < y.1 := by
  refine List.pairwise_append.mpr ⟨List.pairwise_map.mpr List.pairwise_lt_range, List.pairwise_singleton _ _, fun x hx y hy => ?_⟩
  obtain ⟨i, hi, rfl⟩ := List.mem_map.mp hx
  rw [List.mem_singleton.mp hy]
  exact (List.mem_range.mp hi).trans (by decide)

/-- The search for a free slot runs past the last one that Crema has. -/
theorem overfullCrema_lowestFree : lowestFree overfullCrema 0 = some 1024 ∧ overfullCrema.look 1024 = none := by
  decide +kernel

theorem overfullCrema_taken {i : Nat} (hi : i < 1024) : overfullCrema.look i = some idleSlot :=
  (Tab.Rising.look_iff overfullCrema_rising i idleSlot).mpr
    (List.mem_append_left _ (List.mem_map.mpr ⟨i, List.mem_range.mpr hi, rfl⟩))

theorem overfullStrobe_ready : overfullStrobe.blk.psNext sequencer0 = some strobeWord ∧
    overfullStrobe.blk.flag R.CREMA_CTRL_EN = true ∧ overfullStrobe.blk.get R.CREMA_CTRL_EN ≠ 0 ∧
    overfullStrobe.blk.get R.CREMA_CTRL_TRIGPS = sequencer0.val := by
  decide +kernel

/-- A STROBE step with STB and no event leaves Crema as its strobe does. -/
theorem psStrobe_crema {n : Fin 16} {s t : State} (hw : s.blk.psNext n = some strobeWord) (h : exec (.psStrobe n) s = .next t) :
    t.blk.crema = (s.blk.cremaTrigger n).crema := by
  have hcycle : s.blk.psCycle n (psIs 10) = (s.blk.cremaTrigger n).psEnd n strobeWord false (.done none) := by
    unfold Block.psCycle
    rw [hw]
    rfl
  have hexec : exec (.psStrobe n) s = done s ((s.blk.cremaTrigger n).psEnd n strobeWord false (.done none)) :=
    congrArg (done s) hcycle
  rw [hexec] at h
  generalize s.blk.cremaTrigger n = k at h ⊢
  obtain ⟨-, -, hk⟩ := done_keeps h
  have e := congrArg Block.crema hk
  exact e

theorem cremaTrigger_crema {b : Block} {n i : Nat} (hen : b.flag R.CREMA_CTRL_EN = true) (hn : b.get R.CREMA_CTRL_TRIGPS = n)
    (hi : lowestFree b.crema 0 = some i) : (b.cremaTrigger n).crema.look i ≠ none := by
  have hcrema : ∃ x, (b.cremaTrigger n).crema = b.crema.put i x := by
    unfold Block.cremaTrigger
    rw [hen, hn, beq_self_eq_true, Bool.and_self, if_pos rfl]
    dsimp only
    have hsame : (((b.noting fun t => { t with crema := 2, looked := 0 }).inc R.CREMA_FRAME_NEXT 1).inc
        R.CREMA_TRIGCNT_COUNT 1).crema = b.crema := rfl
    rw [hsame, hi]
    exact ⟨_, congrArg Block.crema (countGlob_frame _ _ _)⟩
  obtain ⟨x, hx⟩ := hcrema
  rw [hx, Tab.look_put_same]
  exact Option.some_ne_none x

/-- What the statement says of Crema after a strobe that finds no slot free. -/
theorem crema_of_pinControl (h : Obligations.PinControl) {n : Fin 16} {s : State} (hsort : s.blk.crema.Pairwise fun x y => x.1 < y.1)
    (hw : s.blk.psNext n = some strobeWord) (hen : s.blk.get R.CREMA_CTRL_EN ≠ 0) (hn : s.blk.get R.CREMA_CTRL_TRIGPS = n)
    (hfull : ∀ i < 1024, s.blk.crema.look i ≠ none) : (s.blk.cremaTrigger n).crema = s.blk.crema := by
  obtain ⟨t, ht, -, -, -, htrig, -⟩ := ((h n 0 strobeWord s hsort).1 hw (by decide)).2.2.2.2.1 (by decide)
  obtain ⟨-, -, -, hlost⟩ := htrig (by decide) ⟨hen, hn⟩
  exact (psStrobe_crema hw ht).symm.trans (hlost hfull).1

/-- Refutes O36: in `overfullStrobe` no slot of the 1,024 is free, yet the strobe puts its frame into a slot 1,024. -/
theorem not_pinControl : ¬ Obligations.PinControl := by
  intro h
  obtain ⟨hw, hflag, hen, hn⟩ := overfullStrobe_ready
  obtain ⟨hfree, hnone⟩ := overfullCrema_lowestFree
  have hsame := crema_of_pinControl h (s := overfullStrobe) overfullCrema_rising hw hen hn fun i hi hfree =>
    Option.some_ne_none _ ((overfullCrema_taken hi).symm.trans hfree)
  refine cremaTrigger_crema hflag hn hfree ?_
  rw [hsame]
  exact hnone

end Sys2Proof.Machine
end

section
/-! What a tick leaves of the Pin Sequencers: everything but the dividers, where no group start is due (R414, R421). -/
namespace Sys2Proof.Machine

/-- The registers that a group start reads and writes: EN of the sixteen sequencers, PEND and MASK. -/
def seqField (f : Fld) : Prop := (∃ i < 16, f.key = (R.PS_CTRL_EN i).key) ∨ f.key = R.PS_GCTRL_PEND.key ∨ f.key = R.PS_GCTRL_MASK.key

/-- From `b` to `b'` no sequencer has started or stopped, and nothing of a sequencer has changed but its divider. -/
structure SeqKept (b b' : Block) : Prop where
  pd4 : b'.pd4 = b.pd4
  psGo : b'.timers.psGo = b.timers.psGo
  get : ∀ f, seqField f → b'.get f = b.get f
  ps : ∀ i, { b'.ps i with div := 0 } = { b.ps i with div := 0 }

theorem SeqKept.refl (b : Block) : SeqKept b b := ⟨rfl, rfl, fun _ _ => rfl, fun _ => rfl⟩

theorem SeqKept.trans {b c d : Block} (h : SeqKept b c) (h' : SeqKept c d) : SeqKept b d where
  pd4 := h'.pd4.trans h.pd4
  psGo := h'.psGo.trans h.psGo
  get f hf := (h'.get f hf).trans (h.get f hf)
  ps i := (h'.ps i).trans (h.ps i)

/-- A change beside the registers and the sequencers. -/
theorem SeqKept.beside {b c d : Block} (h : SeqKept b c) (hr : d.regs = c.regs) (hq : d.pinseq = c.pinseq) (hp : d.pd4 = c.pd4)
    (hg : d.timers.psGo = c.timers.psGo) : SeqKept b d :=
  h.trans ⟨hp, hg, fun f _ => congrArg (fun t : Tab Nat => t.get _ _) hr, fun i => by
    unfold Block.ps
    rw [hq]⟩

theorem SeqKept.put' {b c : Block} (h : SeqKept b c) {f : Fld} (hf : ¬seqField f) (v : Nat) : SeqKept b (c.put f v) :=
  h.trans ⟨rfl, rfl, fun g hg => Block.get_put_ne _ _ _ _ fun hk => hf (by unfold seqField at *; rw [← hk]; exact hg), fun _ => rfl⟩

theorem not_seqField_of_off {f : Fld} (h : f.off < 0xA000 ∧ f.lo < 32 ∨ 0xB000 ≤ f.off) : ¬seqField f := by
  rintro (⟨i, hi, hk⟩ | hk | hk) <;> simp only [Fld.key, R.PS_CTRL_EN, R.PS_GCTRL_PEND, R.PS_GCTRL_MASK] at hk <;> omega

/-- A write outside the Pin Sequencers' registers. -/
theorem SeqKept.put {b c : Block} (h : SeqKept b c) {f : Fld} (hf : f.off < 0xA000 ∧ f.lo < 32 ∨ 0xB000 ≤ f.off) (v : Nat) :
    SeqKept b (c.put f v) := h.put' (not_seqField_of_off hf) v

theorem SeqKept.put64 {b c : Block} (h : SeqKept b c) {lo hi : Fld} (hl : lo.off < 0xA000 ∧ lo.lo < 32 ∨ 0xB000 ≤ lo.off)
    (hh : hi.off < 0xA000 ∧ hi.lo < 32 ∨ 0xB000 ≤ hi.off) (v : Nat) : SeqKept b (c.put64 lo hi v) := (h.put hl _).put hh _

theorem SeqKept.ite {b c d : Block} {p : Prop} [Decidable p] (hc : p → SeqKept b c) (hd : ¬p → SeqKept b d) :
    SeqKept b (if p then c else d) := by
  split
  case isTrue h => exact hc h
  case isFalse h => exact hd h

theorem SeqKept.forEach {b c : Block} (h : SeqKept b c) {n : Nat} {f : Nat → Block → Block}
    (hf : ∀ i d, i < n → SeqKept b d → SeqKept b (f i d)) : SeqKept b (forEach n f c) :=
  forEach_keeps (SeqKept b) n f c h hf

/-! ## The Distributor and the counters -/

theorem MayWake.seqKept {b b' : Block} (h : MayWake b b') : SeqKept b b' := by
  have hframe := h.frame
  have hp := congrArg Block.pd4 hframe
  have hg := congrArg (fun e : Block => e.timers.psGo) hframe
  have hq := congrArg Block.pinseq hframe
  refine ⟨hp, hg, fun f hf => h.get fun n hn hk => ?_, fun i => ?_⟩
  · refine not_seqField_of_off (f := R.PWR_ENG_BUSY n) ?_ (by unfold seqField at *; rw [← hk]; exact hf)
    simp only [R.PWR_ENG_BUSY]
    omega
  · unfold Block.ps
    exact congrArg (fun t : Tab PinSeq => { t.get i PinSeq.reset with div := 0 }) hq

theorem Cycled.seqKept {new : Bool} {b b' : Block} (h : Cycled new b b') : SeqKept b b' := by
  have hp := congrArg Block.pd4 h.frame
  have hg := congrArg (fun e : Block => e.timers.psGo) h.frame
  have hq := congrArg Block.pinseq h.frame
  refine ⟨hp, hg, fun f hf => h.get f fun r hr hk => ?_, fun i => ?_⟩
  · refine not_seqField_of_off (f := R.DIST_PENDSET_PEND r) ?_ (by unfold seqField at *; rw [← hk]; exact hf)
    simp only [R.DIST_PENDSET_PEND]
    omega
  · unfold Block.ps
    exact congrArg (fun t : Tab PinSeq => { t.get i PinSeq.reset with div := 0 }) hq

theorem SeqKept.event {b c : Block} (h : SeqKept b c) (x : Nat) : SeqKept b (c.event x) :=
  ((h.trans (distAt_cycled c 1).seqKept).put (f := R.DIST_PENDSET_PEND (x / 32)) (by simp only [R.DIST_PENDSET_PEND]; omega) _).trans
    (autowakeSrc_mayWake _ x).seqKept

theorem SeqKept.countGlob {b c : Block} (h : SeqKept b c) (code k : Nat) : SeqKept b (c.countGlob code k) := by
  have hframe := countGlob_frame c code k
  have hp := congrArg Block.pd4 hframe
  have hg := congrArg (fun e : Block => e.timers.psGo) hframe
  have hq := congrArg Block.pinseq hframe
  refine h.trans ⟨hp, hg, fun f hf => countGlob_get c code k fun i _ hk => ?_, fun i => ?_⟩
  · refine not_seqField_of_off (f := R.GPC_COUNT i) ?_ (by unfold seqField at *; rw [← hk]; exact hf)
    simp only [R.GPC_COUNT]
    omega
  · unfold Block.ps
    exact congrArg (fun t : Tab PinSeq => { t.get i PinSeq.reset with div := 0 }) hq

/-! ## Timer channels -/

/-- The registers of a channel that is there are none of the sequencers'. -/
theorem channel_aside {c : Nat} (hc : c < 65) {f : Fld} (hl : 0x8000 + 0x20 * c ≤ f.off) (hh : f.off < 0x8020 + 0x20 * c) (hw : f.lo < 32) :
    f.off < 0xA000 ∧ f.lo < 32 ∨ 0xB000 ≤ f.off := .inl ⟨by omega, hw⟩

section
variable {b d : Block} {c : Nat}

theorem SeqKept.setCount (h : SeqKept b d) (hc : c < 64) (v : Nat) : SeqKept b (d.setCount c v) := by
  have h0 : ∀ c < 65, (R.TC_COUNT_COUNT c).off < 0xA000 ∧ (R.TC_COUNT_COUNT c).lo < 32 ∨ 0xB000 ≤ (R.TC_COUNT_COUNT c).off := fun c hc => by
    simp only [R.TC_COUNT_COUNT]
    omega
  unfold Block.setCount
  exact .ite (fun _ => h.put64 (h0 c (by omega)) (h0 (c + 1) (by omega)) v) fun _ => h.put (h0 c (by omega)) v

theorem stat_aside (hc : c < 64) (lo w : Nat) (a : Acc) (r : Nat) (hw : lo < 32) :
    ((⟨0x801C + c * 0x20, lo, w, a, r⟩ : Fld).off < 0xA000 ∧ (⟨0x801C + c * 0x20, lo, w, a, r⟩ : Fld).lo < 32) ∨
      0xB000 ≤ (⟨0x801C + c * 0x20, lo, w, a, r⟩ : Fld).off := .inl ⟨by dsimp only; omega, hw⟩

theorem SeqKept.tcArm (h : SeqKept b d) (hc : c < 64) : SeqKept b (d.tcArm c) := by
  unfold Block.tcArm
  exact .ite (fun _ => h) fun _ => (((h.setCount hc _).put (f := R.TC_STAT_ARMED c) (stat_aside hc _ _ _ _ (by decide)) 1).put
    (f := R.TC_STAT_WAITPH c) (stat_aside hc _ _ _ _ (by decide)) 0).beside rfl rfl rfl rfl

theorem SeqKept.tcExpire (h : SeqKept b d) (hc : c < 64) (k past : Nat) : SeqKept b (d.tcExpire c k past) := by
  have hcnt : SeqKept b (d.incSat (R.TC_STAT_EXPCNT c) k) := h.put (f := R.TC_STAT_EXPCNT c) (stat_aside hc _ _ _ _ (by decide)) _
  unfold Block.tcExpire
  refine SeqKept.event ?_ _
  exact .ite (fun _ => (hcnt.setCount hc _).setCount hc _) fun _ => ((hcnt.setCount hc 0).put (f := R.TC_STAT_ARMED c)
    (stat_aside hc _ _ _ _ (by decide)) 0).beside rfl rfl rfl rfl

theorem SeqKept.tcStart (h : SeqKept b d) (hc : c < 64) : SeqKept b (d.tcStart c) := by
  unfold Block.tcStart
  refine .ite (fun _ => h) fun _ => SeqKept.beside (.ite (fun _ => h.tcArm hc) fun _ => ?_) rfl rfl rfl rfl
  exact ((h.tcArm hc).put (f := R.TC_STAT_WAITPH c) (stat_aside hc _ _ _ _ (by decide)) 1).beside rfl rfl rfl rfl

theorem SeqKept.tcCountOn (h : SeqKept b d) (hc : c < 64) (dt : Nat) : SeqKept b (d.tcCountOn dt c) := by
  have hpre := fun v => h.beside (d := d.modTim fun t => { t with presc := t.presc.put c v }) rfl rfl rfl rfl
  unfold Block.tcCountOn
  exact .ite (fun _ => (hpre _).setCount hc _) fun _ => (hpre _).tcExpire hc _ _

theorem SeqKept.tcElapse (h : SeqKept b d) (hc : c < 64) (dt : Nat) : SeqKept b (d.tcElapse dt c) := by
  have hend : SeqKept b ((d.clear (R.TC_STAT_WAITPH c)).modTim fun t => { t with phase := t.phase.del c }) :=
    (h.put (f := R.TC_STAT_WAITPH c) (stat_aside hc _ _ _ _ (by decide)) 0).beside rfl rfl rfl rfl
  unfold Block.tcElapse
  refine .ite (fun _ => h) fun _ => .ite (fun _ => ?_) fun _ => .ite (fun _ => h.tcCountOn hc dt) fun _ => h
  exact .ite (fun _ => h.beside rfl rfl rfl rfl) fun _ => .ite (fun _ => hend.tcCountOn hc _) fun _ => hend

end

/-! ## A tick -/

section
variable {b c : Block}

theorem SeqKept.setFine (h : SeqKept b c) (v : Nat) : SeqKept b (c.setFine v) :=
  (h.put64 (lo := R.TNOW_LO_TNOW) (hi := R.TNOW_HI_TNOW) (by decide) (by decide) (v / 2 ^ 28)).beside rfl rfl rfl rfl

theorem SeqKept.psElapse (h : SeqKept b c) (dt n : Nat) : SeqKept b (c.psElapse dt n) := by
  unfold Block.psElapse
  refine .ite (fun _ => h.trans ⟨rfl, rfl, fun _ _ => rfl, fun i => ?_⟩) fun _ => h
  unfold Block.ps
  dsimp only
  by_cases hi : i = n
  · subst hi
    rw [Tab.get_put_same]
  · rw [Tab.get_put_ne _ _ _ _ _ hi]

theorem SeqKept.pass (h : SeqKept b c) (dt : Nat) : SeqKept b (c.pass dt) := by
  unfold Block.pass
  refine SeqKept.countGlob (SeqKept.forEach (SeqKept.forEach (SeqKept.setFine (h.put64 ?_ ?_ _) _) fun i d hi hd => hd.tcElapse hi dt)
    fun i d _ hd => hd.psElapse dt i) _ _
  · decide
  · decide

theorem SeqKept.startGroup (h : SeqKept b c) : SeqKept b c.startGroup := by
  unfold Block.startGroup
  dsimp only
  have hclear : SeqKept b (c.clear R.TMR_GCTRL_PEND) := h.put (f := R.TMR_GCTRL_PEND) (by decide) 0
  have hgo : SeqKept b ((c.clear R.TMR_GCTRL_PEND).modTim fun t => { t with go := false }) := hclear.beside rfl rfl rfl rfl
  refine SeqKept.forEach hgo fun i d hi hd => ?_
  exact .ite (fun _ => hd.tcStart hi) fun _ => hd

theorem SeqKept.loseLock (h : SeqKept b c) : SeqKept b c.loseLock := by
  unfold Block.loseLock
  refine (SeqKept.put (SeqKept.ite (fun _ => h.put (f := R.TIME_EVT_LOCKLOST) ?_ 1) fun _ => h) (f := R.TIME_STAT_LOCKED) ?_ 0).put
    (f := R.TIME_STAT_LOCKCNT) ?_ 0 <;> decide

theorem SeqKept.follow (h : SeqKept b c) {stat evt : Fld} (hs : stat.off < 0xA000 ∧ stat.lo < 32 ∨ 0xB000 ≤ stat.off)
    (he : evt.off < 0xA000 ∧ evt.lo < 32 ∨ 0xB000 ≤ evt.off) (v : Bool) : SeqKept b (c.follow stat evt v) := by
  unfold Block.follow
  exact SeqKept.put (.ite (fun _ => h.put he _) fun _ => h) hs _

theorem SeqKept.servoResult (h : SeqKept b c) (theta : Int) : SeqKept b (c.servoResult theta) := by
  unfold Block.servoResult
  refine .ite (fun _ => (SeqKept.loseLock (h.setFine _)).put (f := R.TIME_EVT_STEP) (by decide) 1) fun _ => ?_
  have hnew : ∀ {d : Block} (v w x : Nat), SeqKept b d →
      SeqKept b (((d.put R.TIME_STAT_CLAMPED v).put R.TIME_INTEG_INTEG w).put R.TIME_INC_INC x) := fun v w x hd =>
    ((hd.put (by decide) v).put (by decide) w).put (by decide) x
  have hclamp : SeqKept b (c.raise R.TIME_EVT_CLAMP) := h.put (f := R.TIME_EVT_CLAMP) (by decide) 1
  refine .ite (fun _ => ?_) fun _ => ?_
  · exact ((hnew _ _ _ (.ite (fun _ => hclamp) fun _ => h)).follow (by decide) (by decide) true).put (by decide) _
  · exact (hnew _ _ _ (.ite (fun _ => hclamp) fun _ => h)).loseLock.put (by decide) _

theorem SeqKept.servoDue (h : SeqKept b c) : SeqKept b c.servoDue := by
  unfold Block.servoDue
  split
  · refine .ite (fun _ => h) fun _ => .ite (fun _ => SeqKept.servoResult ?_ _) fun _ => ?_
    all_goals exact h.beside rfl rfl rfl rfl
  · exact h

theorem SeqKept.flag_pend (h : SeqKept b c) : c.flag R.PS_GCTRL_PEND = b.flag R.PS_GCTRL_PEND := by
  unfold Block.flag
  rw [h.get _ (.inr (.inl rfl))]

/-- The alarm's part of the comparisons (R382). -/
theorem SeqKept.alarm (h : SeqKept b c) (p : Prop) [Decidable p] :
    SeqKept b (if p then (c.clear R.TIME_STAT_ALARMED).raise R.TIME_EVT_ALARM else c) :=
  .ite (fun _ => (h.put (f := R.TIME_STAT_ALARMED) (by decide) 0).put (f := R.TIME_EVT_ALARM) (by decide) 1) fun _ => h

/-- Where the sequencers' start is not pending, the comparisons start none of them. -/
theorem SeqKept.compare (h : SeqKept b c) (hp : b.flag R.PS_GCTRL_PEND = false) : SeqKept b c.compare := by
  have hgroup : SeqKept b (if c.pd4 && c.flag R.TMR_GCTRL_PEND && c.startDue then c.startGroup else c) :=
    .ite (fun _ => h.startGroup) fun _ => h
  unfold Block.compare
  dsimp only
  generalize (if c.pd4 && c.flag R.TMR_GCTRL_PEND && c.startDue then c.startGroup else c) = d at hgroup ⊢
  rw [hgroup.flag_pend, hp, Bool.and_false, Bool.false_and, if_neg Bool.false_ne_true]
  exact hgroup.alarm _

theorem SeqKept.cremaAgeing (h : SeqKept b c) : SeqKept b c.cremaAgeing := by
  have hage : ∀ (d : Block) (i : Nat), SeqKept b d → SeqKept b (d.cremaAge i) := fun d i hd =>
    ((hd.beside (d := { d with crema := d.crema.del i }) rfl rfl rfl rfl).put (f := R.CREMA_AGED_COUNT) (by decide) _).put
      (f := R.CREMA_EVT_AGED) (by decide) 1
  unfold Block.cremaAgeing
  suffices hl : ∀ (l : Tab CSlot) (d : Block), SeqKept b d → SeqKept b (l.foldl (fun b p => if (b.cremaDue p.2).any
      fun d => decide (d ≤ b.ticks) then b.cremaAge p.1 else b) d) from hl c.crema c h
  intro l
  induction l with
  | nil => exact fun _ hd => hd
  | cons p l ih => exact fun d hd => ih _ (.ite (fun _ => hage d p.1 hd) fun _ => hd)

theorem SeqKept.publish (h : SeqKept b c) (n rise fall width : Nat) (pol : Bool) : SeqKept b (c.publish n rise fall width pol) := by
  have hovr : ¬seqField (R.TC_STAT_OVR n) := by
    rintro (⟨i, hi, hk⟩ | hk | hk) <;> simp only [Fld.key, R.TC_STAT_OVR, R.PS_CTRL_EN, R.PS_GCTRL_PEND, R.PS_GCTRL_MASK] at hk <;> omega
  have hnew : ¬seqField (R.TC_STAT_NEW n) := by
    rintro (⟨i, hi, hk⟩ | hk | hk) <;> simp only [Fld.key, R.TC_STAT_NEW, R.PS_CTRL_EN, R.PS_GCTRL_PEND, R.PS_GCTRL_MASK] at hk <;> omega
  have hrise : ¬seqField (R.TC_CAPR_RISE n) := by
    rintro (⟨i, hi, hk⟩ | hk | hk) <;> simp only [Fld.key, R.TC_CAPR_RISE, R.PS_CTRL_EN, R.PS_GCTRL_PEND, R.PS_GCTRL_MASK] at hk <;> omega
  unfold Block.publish
  have hlost : SeqKept b (if c.flag (R.TC_STAT_NEW n) then c.raise (R.TC_STAT_OVR n) else c) := .ite (fun _ => h.put' hovr 1) fun _ => h
  dsimp only
  generalize (if c.flag (R.TC_STAT_NEW n) then c.raise (R.TC_STAT_OVR n) else c) = d at hlost ⊢
  have hput : SeqKept b ((d.put (R.TC_CAPR_RISE n) rise).raise (R.TC_STAT_NEW n)) := (hlost.put' hrise rise).put' hnew 1
  refine SeqKept.event ?_ (280 + n)
  generalize (d.put (R.TC_CAPR_RISE n) rise).raise (R.TC_STAT_NEW n) = e at hput ⊢
  exact hput.beside rfl rfl rfl rfl

theorem SeqKept.dripStep (h : SeqKept b c) : SeqKept b c.dripStep := by
  have hphase : ∀ v, SeqKept b (c.put R.PWR_STAT_PHASE v) := h.put (by decide)
  unfold Block.dripStep
  dsimp only
  split
  · exact hphase 2
  · exact .ite (fun _ => hphase 3) fun _ => h
  · exact .ite (fun _ => hphase 4) fun _ => h
  · exact .ite (fun _ => hphase 5) fun _ => h
  · exact h

/-- The part of a new tick before the sequencers' start. -/
def Block.newTickStart (b : Block) : Block :=
  let held := b.tick.held
  let b := held.foldl (fun b p => b.publish p.1 p.2.1 p.2.2.1 p.2.2.2.1 p.2.2.2.2) { b.distCycle with tick := Tick.fresh }
  if b.timers.go && b.pd4 then b.startGroup else b

theorem newTick_eq (b : Block) : b.newTick =
    (if b.newTickStart.timers.psGo && b.newTickStart.pd4 then b.newTickStart.psStart else b.newTickStart).dripStep := rfl

theorem SeqKept.newTickStart (h : SeqKept b c) : SeqKept b c.newTickStart := by
  unfold Block.newTickStart
  dsimp only
  have hcycle : SeqKept b { c.distCycle with tick := Tick.fresh } := (h.trans (distCycle_cycled c).seqKept).beside rfl rfl rfl rfl
  have hheld : ∀ (l : Tab (Nat × Nat × Nat × Bool)) (d : Block), SeqKept b d →
      SeqKept b (l.foldl (fun b p => b.publish p.1 p.2.1 p.2.2.1 p.2.2.2.1 p.2.2.2.2) d) := by
    intro l
    induction l with
    | nil => exact fun _ hd => hd
    | cons p l ih => exact fun d hd => ih _ (hd.publish _ _ _ _ _)
  exact .ite (fun _ => (hheld _ _ hcycle).startGroup) fun _ => hheld _ _ hcycle

end

/-! ## The sequencers' group start (R421) -/

/-- Stretches of no ticks. -/
theorem stretches_zero (l : List Nat) (b : Block) : (l.foldl (fun r _ => r.1.stretch r.2) (b, 0)).1 = b := by
  induction l with
  | nil => rfl
  | cons x l ih =>
    rw [List.foldl_cons]
    exact ih

/-- One tick: the present one ends, time passes, the new one begins. -/
theorem elapse_one (b : Block) : b.elapse 1 = (b.endTick.pass 1).newTick := by
  have hlen : b.endTick.stretchLen 1 = 1 := by
    unfold Block.stretchLen
    split
    · omega
    · rfl
  have hone : b.stretch 1 = ((b.endTick.pass 1).newTick, 0) := by
    rw [stretch_eq b Nat.one_ne_zero, hlen]
  have hseven : List.range 7 = 0 :: [1, 2, 3, 4, 5, 6] := rfl
  unfold Block.elapse
  rw [hseven, List.foldl_cons, hone]
  exact stretches_zero _ _

/-- From `b` to `b'` the sequencers that `m` names have started, and no other (R421). -/
structure SeqStarted (m : Nat) (b b' : Block) : Prop where
  en : ∀ i < 16, b'.get (R.PS_CTRL_EN i) = if m.testBit i then 1 else b.get (R.PS_CTRL_EN i)
  ps : ∀ i < 16, b'.ps i = if m.testBit i then { b.ps i with div := 0 } else b.ps i
  pend : b'.get R.PS_GCTRL_PEND = 0

theorem forEach_induct {α : Type} {P : Nat → α → Prop} {n : Nat} {f : Nat → α → α} {x : α} (h : P 0 x)
    (hs : ∀ i y, i < n → P i y → P (i + 1) (f i y)) : P n (forEach n f x) := by
  have hk : ∀ k ≤ n, P k ((List.range k).foldl (fun y i => f i y) x) := by
    intro k hk
    induction k with
    | zero => exact h
    | succ k ih =>
      rw [List.range_succ, List.foldl_append]
      exact hs k _ hk (ih (by omega))
  exact hk n le_rfl

/-- Sequencer `i` started, if `m` names it. -/
def Block.psStartOne (m i : Nat) (b : Block) : Block :=
  if m.testBit i then
    let b := b.raise (R.PS_CTRL_EN i)
    { b with pinseq := b.pinseq.put i { b.pinseq.get i PinSeq.reset with div := 0 } }
  else b

theorem psStartOne_en (m i j : Nat) (b : Block) : (b.psStartOne m i).get (R.PS_CTRL_EN j) =
    if j = i ∧ m.testBit i = true then 1 else b.get (R.PS_CTRL_EN j) := by
  unfold Block.psStartOne
  cases m.testBit i with
  | false => rw [if_neg Bool.false_ne_true, if_neg (by simp)]
  | true =>
    rw [if_pos rfl]
    by_cases hj : j = i
    · subst hj
      rw [if_pos ⟨rfl, rfl⟩]
      exact Block.get_put_same _ _ _
    · rw [if_neg fun h => hj h.1]
      refine Block.get_put_ne _ _ _ _ ?_
      simp only [Fld.key, R.PS_CTRL_EN]
      omega

theorem psStartOne_ps (m i j : Nat) (b : Block) : (b.psStartOne m i).ps j =
    if j = i ∧ m.testBit i = true then { b.ps j with div := 0 } else b.ps j := by
  unfold Block.psStartOne
  cases m.testBit i with
  | false => rw [if_neg Bool.false_ne_true, if_neg (by simp)]
  | true =>
    rw [if_pos rfl]
    unfold Block.ps
    by_cases hj : j = i
    · subst hj
      rw [if_pos ⟨rfl, rfl⟩]
      exact Tab.get_put_same _ _ _ _
    · rw [if_neg fun h => hj h.1]
      exact Tab.get_put_ne _ _ _ _ _ hj

theorem psStartOne_get (m i : Nat) (b : Block) {f : Fld} (hf : f.key ≠ (R.PS_CTRL_EN i).key) : (b.psStartOne m i).get f = b.get f := by
  unfold Block.psStartOne
  split
  · exact Block.get_put_ne _ _ _ _ hf
  · rfl

theorem psStart_started (b : Block) : SeqStarted (b.get R.PS_GCTRL_MASK) b b.psStart := by
  have hstart : b.psStart = forEach 16 (Block.psStartOne (b.get R.PS_GCTRL_MASK))
      ((b.clear R.PS_GCTRL_PEND).modTim fun t => { t with psGo := false }) := rfl
  have hen : ∀ i, (b.clear R.PS_GCTRL_PEND).get (R.PS_CTRL_EN i) = b.get (R.PS_CTRL_EN i) := fun i =>
    Block.get_put_ne _ _ _ _ (by simp only [Fld.key, R.PS_CTRL_EN, R.PS_GCTRL_PEND]; omega)
  have hall := forEach_induct (n := 16) (f := Block.psStartOne (b.get R.PS_GCTRL_MASK))
    (x := (b.clear R.PS_GCTRL_PEND).modTim fun t => { t with psGo := false })
    (P := fun k c => (∀ i, c.get (R.PS_CTRL_EN i) = if i < k ∧ (b.get R.PS_GCTRL_MASK).testBit i = true then 1 else b.get (R.PS_CTRL_EN i)) ∧
      (∀ i, c.ps i = if i < k ∧ (b.get R.PS_GCTRL_MASK).testBit i = true then { b.ps i with div := 0 } else b.ps i) ∧
      c.get R.PS_GCTRL_PEND = 0) ?_ ?_
  · rw [hstart]
    obtain ⟨h1, h2, h3⟩ := hall
    exact ⟨fun i hi => by rw [h1]; simp [hi], fun i hi => by rw [h2]; simp [hi], h3⟩
  · refine ⟨fun i => by rw [if_neg (by omega)]; exact hen i, fun i => by rw [if_neg (by omega)]; rfl, Block.get_put_same _ _ _⟩
  · rintro i c hi ⟨h1, h2, h3⟩
    refine ⟨fun j => ?_, fun j => ?_, ?_⟩
    · rw [psStartOne_en, h1]
      by_cases hj : j = i
      · subst hj
        simp
      · simp [hj, show j < i + 1 ↔ j < i by omega]
    · rw [psStartOne_ps, h2]
      by_cases hj : j = i
      · subst hj
        simp
      · simp [hj, show j < i + 1 ↔ j < i by omega]
    · rw [psStartOne_get _ _ _ (by simp only [Fld.key, R.PS_CTRL_EN, R.PS_GCTRL_PEND]; omega), h3]

/-- A GO that waits for the next tick only: that tick starts the sequencers that MASK names, and the others keep all but their dividers. -/
theorem elapse_psGo {b : Block} (hp : b.flag R.PS_GCTRL_PEND = false) (hgo : b.timers.psGo = true) (hpd : b.pd4 = true) :
    ∃ c, SeqKept b c ∧ SeqStarted (b.get R.PS_GCTRL_MASK) c (b.elapse 1) := by
  have hend : SeqKept b b.endTick := SeqKept.cremaAgeing (SeqKept.compare (SeqKept.servoDue (.refl b)) hp)
  have hstart : SeqKept b (b.endTick.pass 1).newTickStart := (hend.pass 1).newTickStart
  have hmask := hstart.get R.PS_GCTRL_MASK (.inr (.inr rfl))
  rw [elapse_one, newTick_eq, hstart.psGo, hstart.pd4, hgo, hpd, Bool.and_self, if_pos rfl]
  refine ⟨_, hstart, ?_⟩
  rw [← hmask]
  generalize (b.endTick.pass 1).newTickStart = c
  have hs := psStart_started c
  have hd : SeqKept c.psStart c.psStart.dripStep := SeqKept.dripStep (.refl _)
  have hps : c.psStart.dripStep.pinseq = c.psStart.pinseq := by
    unfold Block.dripStep
    dsimp only
    repeat' split
    all_goals rfl
  exact ⟨fun i hi => (hd.get _ (.inl ⟨i, hi, rfl⟩)).trans (hs.en i hi),
    fun i hi => (congrArg (fun t : Tab PinSeq => t.get i PinSeq.reset) hps).trans (hs.ps i hi), (hd.get _ (.inr (.inl rfl))).trans hs.pend⟩

end Sys2Proof.Machine
end

section
/-! The sequencers' registers, group start and injected words (R402 to R423). -/
namespace Sys2Proof.Machine

theorem modPs_ps (b : Block) (n : Nat) (f : PinSeq → PinSeq) : (b.modPs n f).ps n = f (b.ps n) := Tab.get_put_same _ _ _ _

theorem modPs_ps_ne (b : Block) {n m : Nat} (f : PinSeq → PinSeq) (h : m ≠ n) : (b.modPs n f).ps m = b.ps m :=
  Tab.get_put_ne _ _ _ _ _ h

theorem modPs_get (b : Block) (n : Nat) (f : PinSeq → PinSeq) (g : Fld) : (b.modPs n f).get g = b.get g := rfl

theorem put_ps (b : Block) (f : Fld) (v n : Nat) : (b.put f v).ps n = b.ps n := rfl

theorem OnlyPs.refl (n : Nat) (fs : List Fld) (b : Block) : OnlyPs n fs b b := ⟨rfl, fun _ _ => rfl, .refl _ b⟩

theorem OnlyPs.put {n : Nat} {fs : List Fld} {b c : Block} (h : OnlyPs n fs b c) {f : Fld} (hf : f ∈ fs) (v : Nat) :
    OnlyPs n fs b (c.put f v) := by
  obtain ⟨hframe, hps, hkeep⟩ := h
  exact ⟨hframe, hps, hkeep.put hf v⟩

theorem OnlyPs.modPs {n : Nat} {fs : List Fld} {b c : Block} (h : OnlyPs n fs b c) (f : PinSeq → PinSeq) :
    OnlyPs n fs b (c.modPs n f) := by
  obtain ⟨hframe, hps, hkeep⟩ := h
  exact ⟨hframe, fun m hm => (modPs_ps_ne c f hm).trans (hps m hm), hkeep⟩

theorem OnlyPs.isSealed {n : Nat} {fs : List Fld} {b c : Block} (h : OnlyPs n fs b c) : c.isSealed = b.isSealed := by
  have e := congrArg Block.isSealed h.1
  exact e

theorem OnlyPs.mem {n : Nat} {fs : List Fld} {b c : Block} (h : OnlyPs n fs b c) : c.mem = b.mem := by
  have e := congrArg Block.mem h.1
  exact e

theorem OnlyFields.put {fs : List Fld} {b c : Block} (h : OnlyFields fs b c) {f : Fld} (hf : f ∈ fs) (v : Nat) :
    OnlyFields fs b (c.put f v) := ⟨h.1, KeepsFields.put h.2 hf v⟩

theorem OnlyFields.refl (fs : List Fld) (b : Block) : OnlyFields fs b b := ⟨rfl, fun _ _ => rfl⟩

theorem OnlyFields.isSealed {fs : List Fld} {b c : Block} (h : OnlyFields fs b c) : c.isSealed = b.isSealed := by
  have e := congrArg Block.isSealed h.1
  exact e

theorem atReg_on {b : Block} {f : Fld} {act : Block → Block} (h : b.winOff f.off = false) : b.atReg f act = act b := by
  unfold Block.atReg
  rw [h, if_neg Bool.false_ne_true]

/-! ## FLAGS and the group's registers (R420, R421) -/

theorem psFlagsWrite_psFlag (b : Block) (w : W32) {i : Nat} (hi : i < 16) :
    (b.psFlagsWrite w.toNat).psFlag i = (w.getLsbD i || (b.psFlag i && !w.getLsbD (16 + i))) := by
  have hw : (w.toNat / 2 ^ 16 % 2 ^ 16).testBit i = w.getLsbD (16 + i) := by
    rw [Nat.testBit_mod_two_pow, decide_eq_true hi, Bool.true_and, Nat.testBit_div_two_pow, Nat.add_comm]
    rfl
  have hclr : (0xFFFF - w.toNat / 2 ^ 16 % 2 ^ 16).testBit i = !w.getLsbD (16 + i) := by
    have hlt : w.toNat / 2 ^ 16 % 2 ^ 16 < 2 ^ 16 := Nat.mod_lt _ (by decide)
    rw [← hw, show 0xFFFF - w.toNat / 2 ^ 16 % 2 ^ 16 = 2 ^ 16 - (w.toNat / 2 ^ 16 % 2 ^ 16 + 1) by omega,
      Nat.testBit_two_pow_sub_succ hlt, decide_eq_true hi, Bool.true_and]
  have hset : (w.toNat % 2 ^ 16).testBit i = w.getLsbD i := by
    rw [Nat.testBit_mod_two_pow, decide_eq_true hi, Bool.true_and]
    rfl
  unfold Block.psFlagsWrite Block.psFlag
  rw [Block.get_put_same]
  show (_ % 2 ^ 16).testBit i = _
  rw [Nat.testBit_mod_two_pow, decide_eq_true hi, Bool.true_and, Nat.testBit_or, Nat.testBit_and, hclr, hset, Bool.or_comm]

theorem psStop_en (b : Block) (m : Nat) : OnlyFields (R.PS_GCTRL_MASK :: (List.range 16).map R.PS_CTRL_EN) b (b.psStop m) ∧
    ∀ i < 16, (b.psStop m).get (R.PS_CTRL_EN i) = if m.testBit i then 0 else b.get (R.PS_CTRL_EN i) := by
  have hmask : ∀ i, (b.put R.PS_GCTRL_MASK m).get (R.PS_CTRL_EN i) = b.get (R.PS_CTRL_EN i) := fun i =>
    Block.get_put_ne _ _ _ _ (by simp only [Fld.key, R.PS_CTRL_EN, R.PS_GCTRL_MASK]; omega)
  unfold Block.psStop
  have hall := forEach_induct (n := 16) (f := fun n b => if m.testBit n then b.clear (R.PS_CTRL_EN n) else b) (x := b.put R.PS_GCTRL_MASK m)
    (P := fun k c => OnlyFields (R.PS_GCTRL_MASK :: (List.range 16).map R.PS_CTRL_EN) b c ∧
      ∀ i, c.get (R.PS_CTRL_EN i) = if i < k ∧ m.testBit i = true then 0 else b.get (R.PS_CTRL_EN i)) ?_ ?_
  · obtain ⟨honly, hget⟩ := hall
    exact ⟨honly, fun i hi => by rw [hget]; simp [hi]⟩
  · exact ⟨(OnlyFields.refl _ b).put List.mem_cons_self m, fun i => by rw [if_neg (by omega)]; exact hmask i⟩
  · rintro i c hi ⟨honly, hget⟩
    cases hm : m.testBit i with
    | false =>
      rw [if_neg Bool.false_ne_true]
      refine ⟨honly, fun j => (hget j).trans ?_⟩
      by_cases hj : j = i
      · subst hj
        simp [hm]
      · simp [show j < i + 1 ↔ j < i by omega]
    | true =>
      rw [if_pos rfl]
      refine ⟨honly.put (List.mem_cons_of_mem _ (List.mem_map.mpr ⟨i, List.mem_range.mpr hi, rfl⟩)) 0, fun j => ?_⟩
      by_cases hj : j = i
      · subst hj
        rw [if_pos ⟨Nat.lt_succ_self j, hm⟩]
        exact Block.get_put_same _ _ _
      · refine (Block.get_put_ne _ _ _ _ ?_).trans ((hget j).trans ?_)
        · simp only [Fld.key, R.PS_CTRL_EN]
          omega
        · simp [show j < i + 1 ↔ j < i by omega]

theorem psGo_only (b : Block) (timed : Bool) (mask : BitVec 16) :
    OnlyTimers [R.PS_GCTRL_TIMED, R.PS_GCTRL_MASK, R.PS_GCTRL_PEND] b (b.psGo timed mask.toNat) ∧
      (b.psGo timed mask.toNat).timers = { b.timers with psGo := !timed } ∧
      (b.psGo timed mask.toNat).get R.PS_GCTRL_PEND = bit timed ∧ (b.psGo timed mask.toNat).get R.PS_GCTRL_MASK = mask.toNat := by
  refine ⟨⟨rfl, ?_⟩, rfl, (Block.get_put_same _ _ _).trans (by cases timed <;> rfl), ?_⟩
  · exact ((((KeepsFields.refl _ b).put (by simp) (bit timed)).put (f := R.PS_GCTRL_MASK) (by simp) mask.toNat).put
      (f := R.PS_GCTRL_PEND) (by simp) (bit timed)).of_regs rfl
  · refine (Block.get_put_ne _ _ _ _ (by decide)).trans ((Block.get_put_same _ _ _).trans ?_)
    exact Nat.mod_eq_of_lt mask.isLt

/-! ## The timers' group start leaves the sequencers and the time alone -/

/-- A field that is no channel's and not PEND of the timers' group. -/
def offChannels (f : Fld) : Prop := (f.key < 0x8000 * 32 ∨ 0x8820 * 32 ≤ f.key) ∧ f.key ≠ R.TMR_GCTRL_PEND.key

theorem setCount_get_off (b : Block) {c : Nat} (hc : c < 64) (v : Nat) {f : Fld} (hf : offChannels f) : (b.setCount c v).get f = b.get f := by
  have hne : ∀ c < 65, f.key ≠ (R.TC_COUNT_COUNT c).key := fun c hc => by
    unfold offChannels at hf
    simp only [Fld.key, R.TC_COUNT_COUNT] at hf ⊢
    omega
  unfold Block.setCount
  split
  · exact (Block.get_put_ne _ _ _ _ (hne _ (by omega))).trans (Block.get_put_ne _ _ _ _ (hne _ (by omega)))
  · exact Block.get_put_ne _ _ _ _ (hne _ (by omega))

theorem tcStart_get_off (b : Block) {c : Nat} (hc : c < 64) {f : Fld} (hf : offChannels f) :
    (b.tcStart c).get f = b.get f ∧ (b.tcStart c).pinseq = b.pinseq := by
  have hA : f.key ≠ (R.TC_STAT_ARMED c).key := by
    unfold offChannels at hf
    simp only [Fld.key, R.TC_STAT_ARMED] at hf ⊢
    omega
  have hW : f.key ≠ (R.TC_STAT_WAITPH c).key := by
    unfold offChannels at hf
    simp only [Fld.key, R.TC_STAT_WAITPH] at hf ⊢
    omega
  have harm : (b.tcArm c).get f = b.get f ∧ (b.tcArm c).pinseq = b.pinseq := by
    unfold Block.tcArm
    split
    · exact ⟨rfl, rfl⟩
    · refine ⟨?_, ?_⟩
      · exact ((Block.get_put_ne _ _ _ _ hW).trans (Block.get_put_ne _ _ _ _ hA)).trans (setCount_get_off b hc _ hf)
      · unfold Block.setCount
        split <;> rfl
  unfold Block.tcStart
  split
  · exact ⟨rfl, rfl⟩
  · dsimp only
    split
    · exact harm
    · exact ⟨(Block.get_put_ne _ _ _ _ hW).trans harm.1, harm.2⟩

theorem startGroup_get_off (b : Block) {f : Fld} (hf : offChannels f) : b.startGroup.get f = b.get f ∧ b.startGroup.pinseq = b.pinseq := by
  unfold Block.startGroup
  refine forEach_keeps (fun c : Block => c.get f = b.get f ∧ c.pinseq = b.pinseq) 64 _ _ ⟨Block.get_put_ne _ _ _ _ hf.2, rfl⟩
    fun i c hi hc => ?_
  split
  · exact ⟨(tcStart_get_off c hi hf).1.trans hc.1, (tcStart_get_off c hi hf).2.trans hc.2⟩
  · exact hc

theorem startDue_congr {b c : Block} (h : ∀ f, offChannels f → c.get f = b.get f) : c.startDue = b.startDue := by
  unfold Block.startDue Block.tnow Block.get64
  rw [h R.TMR_GAT_LO_TNOW (by unfold offChannels; decide), h R.TMR_GAT_HI_TNOW (by unfold offChannels; decide),
    h R.TNOW_LO_TNOW (by unfold offChannels; decide), h R.TNOW_HI_TNOW (by unfold offChannels; decide)]

/-- The comparisons of a tick in which the sequencers' timed start is due (R421). -/
theorem compare_started {b : Block} (hpd : b.pd4 = true) (hp : b.flag R.PS_GCTRL_PEND = true) (hd : b.startDue = true) :
    SeqStarted (b.get R.PS_GCTRL_MASK) b b.compare := by
  have hgroup : (∀ f, offChannels f → (if b.pd4 && b.flag R.TMR_GCTRL_PEND && b.startDue then b.startGroup else b).get f = b.get f) ∧
      (if b.pd4 && b.flag R.TMR_GCTRL_PEND && b.startDue then b.startGroup else b).pinseq = b.pinseq ∧
      SeqKept b (if b.pd4 && b.flag R.TMR_GCTRL_PEND && b.startDue then b.startGroup else b) := by
    split
    · exact ⟨fun f hf => (startGroup_get_off b hf).1, (startGroup_get_off b (f := R.PS_GCTRL_MASK) (by unfold offChannels; decide)).2,
        SeqKept.startGroup (.refl b)⟩
    · exact ⟨fun _ _ => rfl, rfl, .refl b⟩
  unfold Block.compare
  dsimp only
  generalize (if b.pd4 && b.flag R.TMR_GCTRL_PEND && b.startDue then b.startGroup else b) = c at hgroup ⊢
  obtain ⟨hget, hpin, hkept⟩ := hgroup
  rw [hkept.pd4, hpd, hkept.flag_pend, hp, startDue_congr hget, hd, Bool.and_self, Bool.and_self, if_pos rfl,
    ← hkept.get R.PS_GCTRL_MASK (.inr (.inr rfl))]
  obtain ⟨hen, hps, hpend⟩ := psStart_started c
  have halarm : ∀ (d : Block) (p : Prop) [Decidable p], SeqKept d (if p then (d.clear R.TIME_STAT_ALARMED).raise R.TIME_EVT_ALARM else d) :=
    fun d p _ => (SeqKept.refl d).alarm p
  have hsame : ∀ (d : Block) (p : Prop) [Decidable p],
      (if p then (d.clear R.TIME_STAT_ALARMED).raise R.TIME_EVT_ALARM else d).pinseq = d.pinseq := fun d p _ => by
    split <;> rfl
  have hcps : ∀ i, c.ps i = b.ps i := fun i => by
    unfold Block.ps
    rw [hpin]
  refine ⟨fun i hi => ?_, fun i hi => ?_, ((halarm _ _).get _ (.inr (.inl rfl))).trans hpend⟩
  · rw [(halarm _ _).get _ (.inl ⟨i, hi, rfl⟩), hen i hi, hkept.get _ (.inl ⟨i, hi, rfl⟩)]
  · have h : ∀ d : Block, d.pinseq = c.psStart.pinseq → d.ps i = c.psStart.ps i := fun d hd => by
      unfold Block.ps
      rw [hd]
    rw [h _ (hsame _ _), hps i hi, hcps]

theorem elapse_zero (b : Block) : b.elapse 0 = b := stretches_zero _ b

/-! ## Injected words (R422, R423) -/

/-- A field of the Pin Sequencers. -/
def psField (f : Fld) : Prop := 0xA000 * 32 ≤ f.key ∧ f.key < 0xA400 * 32

/-- An event of a sequencer leaves the sequencers and their registers alone. -/
theorem psEvent_keeps (b : Block) (n : Fin 16) : (∀ f, psField f → (b.psEvent n).get f = b.get f) ∧
    (∀ i, (b.psEvent n).ps i = b.ps i) ∧ (b.psEvent n).srcBit R.DIST_PENDSET_PEND (296 + n) = true ∧ (b.psEvent n).mem = b.mem ∧
    (b.psEvent n).isSealed = b.isSealed := by
  obtain ⟨hframe, -, hpend, -, hget⟩ := event_signals (x := 296 + n.val) (by omega) b
  have hps := congrArg Block.pinseq hframe
  have hmem := congrArg Block.mem hframe
  have hsealed := congrArg Block.isSealed hframe
  refine ⟨fun f hf => hget f (fun _ h => absurd h List.not_mem_nil) (fun r hr => ?_) fun k hk => ?_, fun i => ?_, hpend, hmem, hsealed⟩
  · rw [pendArray.key]
    unfold psField at hf
    omega
  · unfold psField at hf
    simp only [Fld.key, R.PWR_ENG_BUSY] at hf ⊢
    omega
  · exact congrArg (fun t : Tab PinSeq => t.get i PinSeq.reset) hps

theorem psTally_key (n : Fin 16) (i : Nat) : (R.psTally n i).key / 32 = 0xA028 + n * 0x40 ∨ (R.psTally n i).key / 32 = 0xA02C + n * 0x40 := by
  unfold R.psTally
  split <;> simp only [Fld.key, R.PS_TALLY01_T0, R.PS_TALLY01_T1, R.PS_TALLY23_T2, R.PS_TALLY23_T3] <;> omega

/-- The fields that an injected TALLY writes. -/
def tallyFields (n x : Nat) : List Fld :=
  [R.PS_STAT_INJ_PEND n, R.PS_STAT_HALTED n, R.psTally n (bitsOf x 18 2)] ++ psStat n

/-- An injected TALLY executes (R416, R422): it is done where the sequencer stands, and no injection waits any more. -/
theorem psInjected_tally (b : Block) (n : Fin 16) {x : Nat} (hop : x / 2 ^ 28 % 16 = 6) (hr : psReserved x = false) :
    OnlyPs n (tallyFields n x) b (b.psInjected n x) ∧
      (b.psInjected n x).psDone n x (b.get (R.PS_STAT_PC n) % 64) { b.ps n with inj := none } ∧
      (b.psInjected n x).get (R.PS_STAT_INJ_PEND n) = 0 ∧ (b.psInjected n x).get (R.PS_STAT_HALTED n) = 0 := by
  have hattempt : ∀ c : Block, ∃ v, c.psAttempt n x false [] = (c.put (R.psTally n (bitsOf x 18 2)) v, .done none) := fun c => by
    have hop' : bitsOf x 28 4 = 6 := hop
    unfold Block.psAttempt
    rw [hr, if_neg Bool.false_ne_true, hop']
    exact ⟨_, rfl⟩
  unfold Block.psInjected Block.psIssue
  dsimp only
  generalize hc : ((b.clear (R.PS_STAT_INJ_PEND n)).clear (R.PS_STAT_HALTED n)).modPs n (fun p => { p with inj := none }) = c
  obtain ⟨v, hv⟩ := hattempt c
  rw [hv]
  subst hc
  have hkey := psTally_key n (bitsOf x 18 2)
  have hmem : R.psTally n (bitsOf x 18 2) ∈ tallyFields n x := by simp [tallyFields]
  generalize R.psTally n (bitsOf x 18 2) = t at hkey hmem ⊢
  unfold Fld.key at hkey
  unfold Block.psEnd Block.clear
  dsimp only [Option.getD_none, if_true]
  refine ⟨?_, ⟨?_, ?_, ?_, ?_⟩, ?_, ?_⟩
  · exact ((((((((OnlyPs.refl n _ b).put (f := R.PS_STAT_INJ_PEND n) (by simp [tallyFields]) 0).put (f := R.PS_STAT_HALTED n)
      (by simp [tallyFields]) 0).modPs _).put hmem v).put (f := R.PS_STAT_PC n) (by simp [tallyFields, psStat]) _).put
      (f := R.PS_STAT_STALL n) (by simp [tallyFields, psStat]) 0).modPs _).put (f := R.PS_STAT_DWELLING n) (by simp [tallyFields, psStat]) _
  · simp (disch := (simp only [Fld.key, R.PS_STAT_PC, R.PS_STAT_STALL, R.PS_STAT_DWELLING, R.PS_STAT_INJ_PEND, R.PS_STAT_HALTED]; omega))
      only [Block.get_put_same, Block.get_put_ne, modPs_get, if_true]
    rfl
  · simp (disch := (simp only [Fld.key, R.PS_STAT_STALL, R.PS_STAT_DWELLING]; omega)) only
      [Block.get_put_same, Block.get_put_ne, modPs_get, Nat.zero_mod]
  · simp only [put_ps, modPs_ps]
  · rw [Block.get_put_same]
    cases (bitsOf x 20 8 != 0) <;> rfl
  all_goals
    simp (disch := (simp only [Fld.key, R.PS_STAT_PC, R.PS_STAT_STALL, R.PS_STAT_DWELLING, R.PS_STAT_INJ_PEND, R.PS_STAT_HALTED]; omega))
      only [Block.get_put_same, Block.get_put_ne, modPs_get, Nat.zero_mod]

/-- An injected TALLY that executes in a block where sequencer `n` stands as it did in `b`. -/
theorem psInjected_held {b c : Block} (n : Fin 16) {x : Nat} (hop : x / 2 ^ 28 % 16 = 6) (hr : psReserved x = false)
    (hpc : c.get (R.PS_STAT_PC n) = b.get (R.PS_STAT_PC n))
    (hps : { c.ps n with stall := none, dwell := 0 } = { b.ps n with stall := none, dwell := 0 }) (hmem : c.mem = b.mem) :
    ((c.psInjected n x).get (R.PS_STAT_INJ_PEND n) = 0 ∧ (c.psInjected n x).get (R.PS_STAT_HALTED n) = 0 ∧
      (c.psInjected n x).mem = b.mem) ∧
      (c.psInjected n x).psDone n x (b.get (R.PS_STAT_PC n) % 64) { b.ps n with inj := none } := by
  obtain ⟨honly, ⟨h1, h2, h3, h4⟩, hpend, hhalt⟩ := psInjected_tally c n hop hr
  refine ⟨⟨hpend, hhalt, honly.mem.trans hmem⟩, h1.trans (by rw [hpc]), h2, h3.trans ?_, h4⟩
  exact congrArg (fun p : PinSeq => { p with inj := none, dwell := bitsOf x 20 8 }) hps

/-- The block after PS_INJECT_EXEC of a word `x` that waits (R423). -/
def Block.psInjectTry (b : Block) (n x : Nat) : Block :=
  match (b.ps n).stall with
  | some st => if b.flag (R.PS_CTRL_INJ_FORCE n) then (b.psAbandon n st).psInjected n x else b
  | none =>
    if b.flag (R.PS_STAT_DWELLING n) then
      if b.flag (R.PS_CTRL_INJ_FORCE n) then ((b.clear (R.PS_STAT_DWELLING n)).modPs n fun p => { p with dwell := 0 }).psInjected n x else b
    else b.psInjected n x

theorem exec_psInjectExec {n : Fin 16} {pins : W32} {s : State} {x : Nat} (hx : (s.blk.ps n).inj = some x) (hpd : s.blk.pd4 = true)
    (hen : s.blk.flag (R.PS_CTRL_EN n) = true) : exec (.psInjectExec n pins) s = done s ((s.blk.sees pins).psInjectTry n x) := by
  have hx' : ((s.blk.sees pins).ps n).inj = some x := hx
  have hon : ((s.blk.sees pins).pd4 && (s.blk.sees pins).flag (R.PS_CTRL_EN n)) = true := Bool.and_eq_true_iff.mpr ⟨hpd, hen⟩
  show execPsInjectExec n pins s = _
  unfold execPsInjectExec Block.psInjectTry
  dsimp only
  rw [hx', hon]
  all_goals cases ((s.blk.sees pins).ps n).stall <;> rfl

/-- A stalled step abandoned (R423): its stall is over, with an event; a SEND loses the bits that it held. -/
theorem psAbandon_abandoned (b : Block) (n : Fin 16) (st : PsStall) :
    (b.psAbandon n st).get (R.PS_STAT_PC n) = b.get (R.PS_STAT_PC n) ∧ (b.psAbandon n st).ps n = { b.ps n with stall := none } ∧
      (b.psAbandon n st).get (R.PS_EVT_STALL_ABORT n) = 1 ∧ (b.psAbandon n st).srcBit R.DIST_PENDSET_PEND (296 + n) = true ∧
      (b.psAbandon n st).get (R.PS_STAT_SCNT n) = (if bitsOf st.word 28 4 = 2 then 0 else b.get (R.PS_STAT_SCNT n)) ∧
      (b.psAbandon n st).mem = b.mem ∧ (b.psAbandon n st).isSealed = b.isSealed := by
  have hfield : ∀ f ∈ [R.PS_STAT_PC n, R.PS_EVT_STALL_ABORT n, R.PS_STAT_SCNT n], psField f := by
    simp only [List.forall_mem_cons, List.not_mem_nil, false_imp_iff, implies_true, and_true, psField, Fld.key, R.PS_STAT_PC,
      R.PS_EVT_STALL_ABORT, R.PS_STAT_SCNT]
    omega
  have hscnt : ∀ f : Fld, (if bitsOf st.word 28 4 = 2 then b.clear (R.PS_STAT_SCNT n) else b).get f =
      if bitsOf st.word 28 4 = 2 then (b.clear (R.PS_STAT_SCNT n)).get f else b.get f := fun f => by
    split <;> rfl
  have hrest : ∀ {α : Type} (q : Block → α), q (b.clear (R.PS_STAT_SCNT n)) = q b →
      q (if bitsOf st.word 28 4 = 2 then b.clear (R.PS_STAT_SCNT n) else b) = q b := fun q h => by
    split
    · exact h
    · rfl
  unfold Block.psAbandon
  dsimp only
  obtain ⟨hget, hps, hpend, hmem, hsealed⟩ := psEvent_keeps ((((if bitsOf st.word 28 4 = 2 then b.clear (R.PS_STAT_SCNT n) else b).clear
    (R.PS_STAT_STALL n)).raise (R.PS_EVT_STALL_ABORT n)).modPs n fun p => { p with stall := none }) n
  have hpc := hget _ (hfield (R.PS_STAT_PC n) (by simp))
  have hev := hget _ (hfield (R.PS_EVT_STALL_ABORT n) (by simp))
  have hsc := hget _ (hfield (R.PS_STAT_SCNT n) (by simp))
  refine ⟨hpc.trans ?_, (hps n).trans ((modPs_ps _ _ _).trans ?_), hev.trans (Block.get_put_same _ _ _), hpend, hsc.trans ?_,
    hmem.trans (hrest Block.mem rfl), hsealed.trans (hrest Block.isSealed rfl)⟩
  · unfold Block.raise Block.clear
    rw [modPs_get, Block.get_put_ne _ _ _ _ (by simp only [Fld.key, R.PS_STAT_PC, R.PS_EVT_STALL_ABORT]; omega),
      Block.get_put_ne _ _ _ _ (by simp only [Fld.key, R.PS_STAT_PC, R.PS_STAT_STALL]; omega)]
    refine hrest (fun c => c.get (R.PS_STAT_PC n)) (Block.get_put_ne _ _ _ _ ?_)
    simp only [Fld.key, R.PS_STAT_PC, R.PS_STAT_SCNT]
    omega
  · exact congrArg (fun p : PinSeq => { p with stall := none }) (hrest (fun c => c.ps n) rfl)
  · unfold Block.raise
    rw [modPs_get, Block.get_put_ne _ _ _ _ (by simp only [Fld.key, R.PS_STAT_SCNT, R.PS_EVT_STALL_ABORT]; omega)]
    refine (Block.get_put_ne _ _ _ _ (by simp only [Fld.key, R.PS_STAT_SCNT, R.PS_STAT_STALL]; omega)).trans ((hscnt _).trans ?_)
    split
    · exact Block.get_put_same _ _ _
    · rfl

/-- A write of RESTART (R423). -/
theorem psRestart_restarted (b : Block) (n : Fin 16) :
    (b.psRestart n).ps n = { b.ps n with des := 0, stall := none, dwell := 0 } ∧
      (b.psRestart n).get (R.PS_STAT_PC n) = b.get (R.PS_CTRL_START n) % 64 ∧
      (∀ f ∈ [R.PS_SER_SER n, R.PS_STAT_SCNT n, R.PS_STAT_DCNT n, R.PS_STAT_STALL n, R.PS_STAT_DWELLING n], (b.psRestart n).get f = 0) ∧
      OnlyPs n ([R.PS_SER_SER n, R.PS_STAT_SCNT n, R.PS_STAT_DCNT n] ++ psStat n) b (b.psRestart n) := by
  unfold Block.psRestart Block.clear
  dsimp only
  refine ⟨modPs_ps _ _ _, ?_, ?_, ?_⟩
  · simp (disch := (simp only [Fld.key, R.PS_STAT_PC, R.PS_SER_SER, R.PS_STAT_SCNT, R.PS_STAT_DCNT, R.PS_STAT_STALL,
      R.PS_STAT_DWELLING]; omega)) only [Block.get_put_same, Block.get_put_ne, modPs_get]
    rfl
  · simp only [List.forall_mem_cons, List.not_mem_nil, false_imp_iff, implies_true, and_true]
    simp (disch := (simp only [Fld.key, R.PS_STAT_PC, R.PS_SER_SER, R.PS_STAT_SCNT, R.PS_STAT_DCNT, R.PS_STAT_STALL,
      R.PS_STAT_DWELLING]; omega)) only [Block.get_put_same, Block.get_put_ne, modPs_get, Nat.zero_mod, and_self]
  · exact (((((((OnlyPs.refl n _ b).put (f := R.PS_STAT_PC n) (by simp [psStat]) _).put (f := R.PS_SER_SER n) (by simp) 0).put
      (f := R.PS_STAT_SCNT n) (by simp) 0).put (f := R.PS_STAT_DCNT n) (by simp) 0).put (f := R.PS_STAT_STALL n) (by simp [psStat]) 0).put
      (f := R.PS_STAT_DWELLING n) (by simp [psStat]) 0).modPs _

/-- A write of INJECT (R422). -/
theorem psInject_injected (b : Block) (n : Fin 16) (w : Nat) :
    (b.psInject n w).get (R.PS_STAT_INJ_PEND n) = 1 ∧ (b.psInject n w).ps n = { b.ps n with inj := some w } ∧
      (b.psInject n w).get (R.PS_EVT_INJOVR n) = (if b.flag (R.PS_STAT_INJ_PEND n) then 1 else b.get (R.PS_EVT_INJOVR n)) ∧
      OnlyPs n [R.PS_STAT_INJ_PEND n, R.PS_EVT_INJOVR n] b (b.psInject n w) := by
  have hne : (R.PS_EVT_INJOVR n).key ≠ (R.PS_STAT_INJ_PEND n).key := by
    simp only [Fld.key, R.PS_EVT_INJOVR, R.PS_STAT_INJ_PEND]
    omega
  unfold Block.psInject
  dsimp only
  split
  · exact ⟨Block.get_put_same _ _ _, modPs_ps _ _ _, (Block.get_put_ne _ _ _ _ hne).trans (Block.get_put_same _ _ _),
      (((OnlyPs.refl n _ b).put (f := R.PS_EVT_INJOVR n) (by simp) 1).put (f := R.PS_STAT_INJ_PEND n) (by simp) 1).modPs _⟩
  · exact ⟨Block.get_put_same _ _ _, modPs_ps _ _ _, Block.get_put_ne _ _ _ _ hne,
      ((OnlyPs.refl n _ b).put (f := R.PS_STAT_INJ_PEND n) (by simp) 1).modPs _⟩

/-! ## The obligation -/

theorem exec_psGo_untimed {mask : BitVec 16} {s : State} (h : s.blk.winOff R.PS_GCTRL_GO.off = false) :
    exec (.psGo false mask) s = done s ((s.blk.psGo false mask.toNat).elapse 1) := by
  show execPsGo false mask s = _
  unfold execPsGo
  rw [atReg_on h]
  exact congrArg (done s) (if_neg Bool.false_ne_true)

theorem exec_psGroupStart_due {s : State} (hp : s.blk.flag R.PS_GCTRL_PEND = true)
    (hd : s.blk.get64 R.TMR_GAT_LO_TNOW R.TMR_GAT_HI_TNOW ≤ s.blk.tnow) : exec .psGroupStart s = done s s.blk.compare := by
  have hticks : s.blk.ticksTo (s.blk.get64 R.TMR_GAT_LO_TNOW R.TMR_GAT_HI_TNOW) = some 0 := if_pos hd
  show execPsGroupStart s = _
  unfold execPsGroupStart
  dsimp only
  rw [hp, hticks]
  exact congrArg (fun c : Block => done s c.compare) (elapse_zero s.blk)

theorem exec_psGroupStart_idle {s : State} (hp : s.blk.flag R.PS_GCTRL_PEND = false) : exec .psGroupStart s = done s s.blk := by
  show execPsGroupStart s = _
  unfold execPsGroupStart
  dsimp only
  rw [hp]

/-- What a started group is, by the bits of the written mask. -/
theorem SeqStarted.running {m : Nat} {mask : BitVec 16} {b c d : Block} (h : SeqStarted m c d) (hk : SeqKept b c)
    (hm : ∀ i < 16, m.testBit i = mask.getLsbD i) :
    ∀ i < 16, (mask.getLsbD i = true → d.get (R.PS_CTRL_EN i) = 1 ∧ (d.ps i).div = 0) ∧
      (mask.getLsbD i = false → d.get (R.PS_CTRL_EN i) = b.get (R.PS_CTRL_EN i) ∧ d.ps i = { b.ps i with div := (d.ps i).div }) := by
  intro i hi
  have hen := h.en i hi
  have hps := h.ps i hi
  have hkept := hk.ps i
  rw [hm i hi] at hen hps
  refine ⟨fun hb => ?_, fun hb => ?_⟩
  · rw [hb, if_pos rfl] at hen hps
    exact ⟨hen, by rw [hps]⟩
  · rw [hb, if_neg Bool.false_ne_true] at hen hps
    rw [hps]
    exact ⟨hen.trans (hk.get _ (.inl ⟨i, hi, rfl⟩)), congrArg (fun p : PinSeq => { p with div := (c.ps i).div }) hkept⟩

/-- Settles O37: each register's write is its own latch; a GO's start comes with its tick, or with the comparison that finds TMR_GAT
reached; an injected TALLY executes where the sequencer stands. -/
theorem pinRegisters : Obligations.PinRegisters := by
  unfold Obligations.PinRegisters
  intro n pins w timed mask s b v p on addr running ens group held
  have hreg : ∀ {f : Fld} (act : Block → Block), on f → done s (b.atReg f act) = done s (act b) := fun act h =>
    congrArg (done s) (atReg_on h)
  refine ⟨fun h => ?_, fun h => ⟨fun hl => ?_, fun hl => ?_⟩, fun h => ⟨fun x xs hx => ?_, fun hx => ?_⟩, fun h => ⟨?_, ?_, ?_⟩, fun h => ?_,
    fun h => ⟨fun ht => ?_, fun ht => ?_, ?_⟩, fun hpd hp hd => ?_, fun hp => ?_, fun h => ?_,
    fun x hx hpd hen hop hr => ⟨fun hst hforce => ?_, fun st hst hforce => ?_, fun st hst hforce => ?_⟩⟩
  · have hps : (b.psStepData n w.toNat).ps n = { p with steps := p.steps.put addr w.toNat } := (put_ps _ _ _ _).trans (modPs_ps b n _)
    refine gives_of_done (hreg _ h) rfl ⟨Block.get_put_same _ _ _, hps, ?_⟩
    exact ((OnlyPs.refl n _ b).modPs _).put (f := R.PS_STEPADDR_ADDR n) (by simp) _
  · have hpush : b.psPush n w.toNat = b.modPs n fun p => { p with sndf := p.sndf ++ [w.toNat] } := if_neg (Nat.not_le.mpr hl)
    refine gives_of_done ((hreg _ h).trans (congrArg (done s) hpush)) rfl ⟨modPs_ps _ _ _, (OnlyPs.refl n _ b).modPs _⟩
  · have hpush : b.psPush n w.toNat = b.put (R.PS_EVT_SQOVR n) 1 := if_pos hl
    refine gives_of_done ((hreg _ h).trans (congrArg (done s) hpush)) rfl ⟨Block.get_put_same _ _ _, ?_⟩
    exact (OnlyFields.refl _ b).put (by simp) 1
  · have hpop : (b.psPop n).1 = b.modPs n fun p => { p with rcvf := xs } := by
      unfold Block.psPop
      rw [hx]
    refine gives_of_done ((hreg _ h).trans (congrArg (done s) hpop)) rfl ⟨modPs_ps _ _ _, (OnlyPs.refl n _ b).modPs _⟩
  · have hpop : (b.psPop n).1 = b.put (R.PS_EVT_RQRDE n) 1 := by
      unfold Block.psPop
      rw [hx]
      rfl
    refine gives_of_done ((hreg _ h).trans (congrArg (done s) hpop)) rfl ⟨Block.get_put_same _ _ _, ?_⟩
    exact (OnlyFields.refl _ b).put (by simp) 1
  · exact gives_of_done (hreg _ h) rfl ⟨modPs_ps _ _ _, (OnlyPs.refl n _ b).modPs _⟩
  · exact gives_of_done (hreg (f := R.PS_CTRL_FIFOCLR n) _ h) rfl ⟨modPs_ps _ _ _, (OnlyPs.refl n _ b).modPs _⟩
  · exact gives_of_done (hreg (f := R.PS_CTRL_RESTART n) _ h) rfl (psRestart_restarted b n)
  · refine gives_of_done (hreg _ h) rfl ⟨(OnlyFields.refl _ b).put (by simp) _, fun i hi => psFlagsWrite_psFlag b w hi⟩
  · obtain ⟨honly, htim, hpend, hmask⟩ := psGo_only b timed mask
    subst ht
    exact gives_of_done (b := b.psGo true mask.toNat) (hreg _ h) rfl ⟨honly, htim, hpend, hmask⟩
  · obtain ⟨honly, htim, hpend, hmask⟩ := psGo_only b timed mask
    subst ht
    have hpd : (b.psGo false mask.toNat).pd4 = true := by
      have hper : isPeriph R.PS_GCTRL_GO.off = true := by decide
      have hoff : (!b.pd4) = false := by
        have h' : b.winOff R.PS_GCTRL_GO.off = false := h
        unfold Block.winOff at h'
        rw [if_pos (by decide), if_pos hper, Bool.or_eq_false_iff, Bool.or_eq_false_iff] at h'
        exact h'.1.1
      exact (Bool.not_eq_eq_eq_not.mp hoff).trans Bool.not_false
    have hflag : (b.psGo false mask.toNat).flag R.PS_GCTRL_PEND = false := by
      unfold Block.flag
      rw [hpend]
      rfl
    obtain ⟨c, hk, hs⟩ := elapse_psGo hflag (congrArg Timers.psGo htim) hpd
    have hsealed := (elapse_passed (b.psGo false mask.toNat) 1).isSealed
    have hrun := hs.running hk (mask := mask) fun i hi => by rw [hmask]; rfl
    have hzero := hs.pend
    refine gives_of_done (exec_psGo_untimed h) hsealed ?_
    generalize Block.elapse = elapse at hrun hzero ⊢
    refine ⟨fun i hi => ?_, hzero, _, honly, htim, hpend, hmask, rfl⟩
    obtain ⟨hon, hoff⟩ := hrun i hi
    refine ⟨hon, fun hb => ⟨(hoff hb).1.trans ?_, (hoff hb).2⟩⟩
    refine honly.2 _ ?_
    simp only [List.forall_mem_cons, List.not_mem_nil, false_imp_iff, implies_true, and_true, Fld.key, R.PS_CTRL_EN,
      R.PS_GCTRL_TIMED, R.PS_GCTRL_MASK, R.PS_GCTRL_PEND]
    omega
  · obtain ⟨honly, hen⟩ := psStop_en b mask.toNat
    exact gives_of_done (hreg (f := R.PS_GCTRL_STOP) _ h) honly.isSealed ⟨honly, hen⟩
  · have hdue : b.get64 R.TMR_GAT_LO_TNOW R.TMR_GAT_HI_TNOW ≤ b.tnow := by
      unfold Block.get64
      omega
    have hs := compare_started hpd hp (decide_eq_true hdue)
    have hrun := hs.running (.refl b) (mask := BitVec.ofNat 16 (b.get R.PS_GCTRL_MASK)) fun i hi => by
      rw [BitVec.getLsbD_ofNat, decide_eq_true hi, Bool.true_and]
    refine gives_of_done (exec_psGroupStart_due hp hdue) (compare_passed b).isSealed ⟨hrun, hs.pend, fun i hi hm => (hs.ps i hi).trans ?_⟩
    rw [hm, if_neg Bool.false_ne_true]
  · exact gives_of_done (exec_psGroupStart_idle hp) rfl rfl
  · exact gives_of_done (hreg _ h) (psInject_injected b n w.toNat).2.2.2.isSealed (psInject_injected b n w.toNat)
  · by_cases hdw : b.flag (R.PS_STAT_DWELLING n) = true
    · have hf : b.flag (R.PS_CTRL_INJ_FORCE n) = true := hforce.resolve_left (by rw [hdw]; exact Bool.noConfusion)
      have htry : v.psInjectTry n x = ((v.clear (R.PS_STAT_DWELLING n)).modPs n fun p => { p with dwell := 0 }).psInjected n x := by
        unfold Block.psInjectTry
        rw [show (v.ps n).stall = none from hst]
        exact (if_pos hdw).trans (if_pos hf)
      refine gives_of_done ((exec_psInjectExec hx hpd hen).trans (congrArg (done s) htry)) ?_ (psInjected_held n hop hr ?_ ?_ rfl)
      · exact (psInjected_tally _ n hop hr).1.isSealed
      · refine Block.get_put_ne _ _ _ _ ?_
        simp only [Fld.key, R.PS_STAT_PC, R.PS_STAT_DWELLING]
        omega
      · rw [modPs_ps]
        rfl
    · have htry : v.psInjectTry n x = v.psInjected n x := by
        unfold Block.psInjectTry
        rw [show (v.ps n).stall = none from hst]
        exact if_neg hdw
      exact gives_of_done ((exec_psInjectExec hx hpd hen).trans (congrArg (done s) htry)) (psInjected_tally _ n hop hr).1.isSealed
        (psInjected_held n hop hr rfl rfl rfl)
  · have htry : v.psInjectTry n x = (v.psAbandon n st).psInjected n x := by
      unfold Block.psInjectTry
      rw [show (v.ps n).stall = some st from hst]
      exact if_pos hforce
    obtain ⟨hpc, hps, hab, hsrc, hscnt, hmem, hsealed⟩ := psAbandon_abandoned v n st
    have honly := (psInjected_tally (v.psAbandon n st) n hop hr).1
    have hkey := psTally_key n (bitsOf x 18 2)
    refine gives_of_done ((exec_psInjectExec hx hpd hen).trans (congrArg (done s) htry)) (honly.isSealed.trans hsealed) ?_
    obtain ⟨hheld, hdone⟩ := psInjected_held (b := b) n hop hr hpc (by rw [hps]; rfl) hmem
    have hkeep : ∀ f : Fld, f.key / 32 ≠ 0xA028 + n * 0x40 → f.key / 32 ≠ 0xA02C + n * 0x40 →
        (∀ g ∈ [R.PS_STAT_INJ_PEND n, R.PS_STAT_HALTED n] ++ psStat n, f.key ≠ g.key) →
        ((v.psAbandon n st).psInjected n x).get f = (v.psAbandon n st).get f := fun f h1 h2 hg => honly.2.2 f fun g hgm => by
      simp only [tallyFields, List.mem_append, List.mem_cons, List.not_mem_nil, or_false] at hgm
      obtain (rfl | rfl | rfl) | hgm := hgm
      · exact hg _ (by simp)
      · exact hg _ (by simp)
      · intro hk
        rw [hk] at h1 h2
        exact hkey.elim h1 h2
      · exact hg _ (List.mem_append_right _ hgm)
    refine ⟨hheld, hdone, (hkeep _ ?_ ?_ ?_).trans hab, (srcBit_congr (hkeep _ ?_ ?_ ?_)).trans hsrc, (hkeep _ ?_ ?_ ?_).trans hscnt⟩
    all_goals
      simp only [psStat, List.cons_append, List.nil_append, List.forall_mem_cons, List.not_mem_nil, false_imp_iff, implies_true, and_true,
        Fld.key, R.PS_EVT_STALL_ABORT, R.PS_STAT_SCNT, R.DIST_PENDSET_PEND, R.PS_STAT_INJ_PEND, R.PS_STAT_HALTED, R.PS_STAT_PC,
        R.PS_STAT_STALL, R.PS_STAT_DWELLING]
      omega
  · have htry : v.psInjectTry n x = v := by
      unfold Block.psInjectTry
      rw [show (v.ps n).stall = some st from hst]
      exact if_neg (by rw [show v.flag (R.PS_CTRL_INJ_FORCE n) = false from hforce]; exact Bool.false_ne_true)
    exact gives_of_done ((exec_psInjectExec hx hpd hen).trans (congrArg (done s) htry)) rfl rfl

end Sys2Proof.Machine
end

section
/-! Counters and the virtual terminal (R477 to R483). -/
namespace Sys2Proof.Machine

/-- Fields of different places cleared one after another. -/
theorem clearAll_cleared (b : Block) {f : Nat → Fld} {k : Nat} (hne : ∀ i < k, ∀ j < k, i ≠ j → (f i).key ≠ (f j).key) :
    OnlyFields ((List.range k).map f) b (forEach k (fun i b => b.clear (f i)) b) ∧
      ∀ i < k, (forEach k (fun i b => b.clear (f i)) b).get (f i) = 0 := by
  refine forEach_induct (n := k) (f := fun i b => b.clear (f i)) (x := b)
    (P := fun m c => OnlyFields ((List.range k).map f) b c ∧ ∀ i < m, c.get (f i) = 0) ⟨OnlyFields.refl _ b, fun i hi => absurd hi (by omega)⟩ ?_
  rintro i c hi ⟨honly, hzero⟩
  refine ⟨honly.put (List.mem_map.mpr ⟨i, List.mem_range.mpr hi, rfl⟩) 0, fun j hj => ?_⟩
  by_cases h : j = i
  · subst h
    exact (Block.get_put_same _ _ _).trans (Nat.zero_mod _)
  · exact (Block.get_put_ne _ _ _ _ (hne j (by omega) i hi h)).trans (hzero j (by omega))

/-- A register of an engine's block outside its configuration answers where its domain is ON (R510, R517). -/
theorem atEng_act {b : Block} {n o : Nat} {act : Block → Block} (h : b.get (R.PWR_ENG_STATE n) = 2)
    (ho : o < 0x40 ∨ 0x70 < o ∧ o < 0x90 ∨ 0xA8 < o) : b.atEng n o act = act b := by
  unfold Block.atEng
  rw [if_neg (not_not.mpr h), if_neg]
  rintro ⟨h', -⟩
  omega

/-- Settles O59: CLR clears field after field; a push, a read and POPTX each change one FIFO or raise its bit. -/
theorem countersAndTerminal : Obligations.CountersAndTerminal := by
  unfold Obligations.CountersAndTerminal
  intro n k v peek i s b get vt on holds sets
  have hon : on → b.vtOn = true := fun h => by
    unfold Block.vtOn
    rw [h.1, h.2]
    rfl
  have hmod : v.toNat % 2 ^ 32 = v.toNat := Nat.mod_eq_of_lt v.isLt
  have hflag : ∀ (c : Instr) (f : Fld), f.w = 1 → exec c s = done s (b.raise f) → Gives c s fun t => sets f t.blk := fun c f hw hx => by
    refine gives_of_done hx rfl ⟨(Block.get_put_same _ _ _).trans ?_, (OnlyFields.refl _ b).put (List.mem_singleton_self f) 1⟩
    rw [hw]
    rfl
  have hidle : ∀ {c : Instr}, exec c s = done s b → Gives c s (Same s) := fun hx => gives_of_done hx rfl rfl
  refine ⟨fun h => ?_, ?_, fun h hl => ?_, fun h hl => ?_, fun h hl => ?_, fun h hl => ?_, fun h hl => ?_, fun h hl => ?_, fun h => ?_,
    fun h => ?_, fun h => ⟨?_, ?_⟩, fun h => ⟨?_, ?_⟩⟩
  · obtain ⟨honly, hzero⟩ := clearAll_cleared b (f := R.ENG_PMC_COUNT n) (k := 8) fun i hi j hj hij => by
      simp only [Fld.key, R.ENG_PMC_COUNT]
      omega
    exact gives_of_done (congrArg (done s) (atEng_act h (by decide))) honly.isSealed ⟨hzero i, honly⟩
  · obtain ⟨honly, hzero⟩ := clearAll_cleared b (f := R.GPC_COUNT) (k := 64) fun i hi j hj hij => by
      simp only [Fld.key, R.GPC_COUNT]
      omega
    exact gives_of_done (b := b.gpcClr) rfl honly.isSealed ⟨hzero i, honly⟩
  · have hpush : b.dtxPush k v.toNat = b.setVt k { vt with dtx := vt.dtx ++ [v.toNat] } := by
      unfold Block.dtxPush
      rw [hon h, hmod]
      exact if_pos hl
    exact gives_of_done (congrArg (done s) hpush) rfl rfl
  · refine hflag _ _ rfl (congrArg (done s) ?_)
    unfold Block.dtxPush
    rw [hon h]
    exact if_neg (Nat.not_lt.mpr hl)
  · have hpush : b.drxPush k v.toNat = b.setVt k { vt with drx := vt.drx ++ [v.toNat] } := by
      unfold Block.drxPush
      rw [hon h, hmod]
      exact if_pos hl
    exact gives_of_done (congrArg (done s) hpush) rfl rfl
  · refine hflag _ _ rfl (congrArg (done s) ?_)
    unfold Block.drxPush
    rw [hon h]
    exact if_neg (Nat.not_lt.mpr hl)
  · have hpop : b.drxPop k = b.setVt k { vt with drx := vt.drx.drop 1 } := by
      unfold Block.drxPop
      rw [hon h]
      exact if_neg fun he => hl (List.isEmpty_iff.mp he)
    exact gives_of_done (congrArg (done s) hpop) rfl rfl
  · refine hflag _ _ rfl (congrArg (done s) (?_ : b.drxPop k = _))
    unfold Block.drxPop
    rw [hon h]
    exact if_pos (List.isEmpty_iff.mpr hl)
  · subst h
    exact hidle rfl
  · have hoff : b.vtOn = false := by
      unfold Block.vtOn
      rw [Bool.and_eq_false_iff, Bool.not_eq_false']
      by_cases hp : b.pd1 = true
      · exact .inr (by_contra fun hs => h ⟨hp, Bool.eq_false_iff.mpr hs⟩)
      · exact .inl (Bool.eq_false_iff.mpr hp)
    have hdtx : b.dtxPush k v.toNat = b := by
      unfold Block.dtxPush
      rw [hoff]
      rfl
    have hdrx : b.drxPush k v.toNat = b := by
      unfold Block.drxPush
      rw [hoff]
      rfl
    have hpop : b.drxPop k = b := by
      unfold Block.drxPop
      rw [hoff]
      rfl
    refine ⟨hidle (congrArg (done s) hdtx), hidle (congrArg (done s) hdrx), hidle (congrArg (done s) ?_)⟩
    cases peek
    · exact hpop
    · rfl
  · have hpop : b.popTx k = b.setVt k { vt with dtx := vt.dtx.drop 1 } := if_pos h
    exact gives_of_done (congrArg (done s) hpop) rfl rfl
  · have hflush : b.vtFlush k = b.setVt k ⟨[], []⟩ := if_pos h
    exact gives_of_done (congrArg (done s) hflush) rfl rfl
  · exact hidle (congrArg (done s) (if_neg (by rw [h]; exact Bool.false_ne_true)))
  · exact hidle (congrArg (done s) (if_neg (by rw [h]; exact Bool.false_ne_true)))

/-! ## Run control -/

/-- Engine 0 has no halt request, yet its PENDING is set: no command leaves a block so, but a state of the model can be so. -/
def strayPending : State where
  blk := { Block.reset with regs := [((R.ENG_DBGSTAT_PENDING 0).key, 1)] }
  pending := []

theorem strayPending_sealing : strayPending.blk.isSealed = false ∧ strayPending.blk.sealing.get (R.ENG_DBGSTAT_PENDING 0) = 1 := by
  decide +kernel

/-- What the statement says of a request's PENDING after sealing. -/
theorem pending_of_runControl (h : Obligations.RunControl) {s : State} (hs : s.blk.isSealed = false) :
    s.blk.sealing.get (R.ENG_DBGSTAT_PENDING 0) = 0 := by
  obtain ⟨-, -, -, -, -, -, -, -, -, -, -, -, -, -, -, -, -, -, hseal⟩ := h 0 0 0 false 0 0 s (by decide)
  obtain ⟨t, ht, -, hclr, -⟩ := hseal hs
  obtain ⟨-, -, -, -, hpend, -⟩ := hclr
  have hexec : exec .sealInputHigh s = .next { s with blk := { (if s.blk.isSealed then s.blk else s.blk.sealing) with isSealed := true } } := rfl
  rw [hexec, hs, if_neg Bool.false_ne_true] at ht
  generalize s.blk.sealing = c at ht ⊢
  cases ht
  exact hpend

/-- Refutes O58: from `strayPending` sealing leaves PENDING of engine 0 at 1, where the statement says 0. Only a request that the engine
holds is withdrawn with its PENDING. -/
theorem not_runControl : ¬ Obligations.RunControl := by
  intro h
  obtain ⟨hs, hone⟩ := strayPending_sealing
  have hzero := pending_of_runControl h hs
  rw [hone] at hzero
  exact absurd hzero Nat.one_ne_zero

/-! ## The register window -/

/-- TAGSP of SPM_EVT holds 2, which is no value of a bit but one that a state of the model can hold. -/
def overlongEvent : State where
  blk := { Block.reset with regs := [(R.SPM_EVT_TAGSP.key, 2)] }
  pending := []

/-- The offset of SPM_EVT. -/
def spmEvtOff : BitVec 20 := 0x2008

theorem overlongEvent_write : overlongEvent.blk.drips = false ∧ overlongEvent.blk.get R.SPM_EVT_TAGSP = 2 ∧
    (overlongEvent.blk.winWrite (75 : BitVec 7).toNat spmEvtOff.toNat (0 : W32).toNat).get R.SPM_EVT_TAGSP = 0 := by
  decide +kernel

/-- What the statement says of a bit of SPM_EVT that a write of 0 does not name. -/
theorem tagsp_of_registerWindow (h : Obligations.RegisterWindow) {s : State} (hd : s.blk.drips = false) :
    (s.blk.winWrite (75 : BitVec 7).toNat spmEvtOff.toNat (0 : W32).toNat).get R.SPM_EVT_TAGSP = s.blk.get R.SPM_EVT_TAGSP := by
  obtain ⟨-, hsent, -⟩ := h 75 spmEvtOff 0 0 0 0 s
  obtain ⟨-, -, -, -, -, -, hclr, -⟩ := hsent (by decide)
  obtain ⟨t, ht, -, hget⟩ := (hclr hd).1 (by decide)
  have hexec : exec (.registerWrite 75 spmEvtOff 0) s =
      if registerWriteOk 75 spmEvtOff then done s (s.blk.winWrite (75 : BitVec 7).toNat spmEvtOff.toNat (0 : W32).toNat) else .fault .illFormed := rfl
  rw [hexec, if_pos (by decide)] at ht
  generalize s.blk.winWrite (75 : BitVec 7).toNat spmEvtOff.toNat (0 : W32).toNat = c at ht ⊢
  obtain ⟨-, -, hk⟩ := done_keeps ht
  have e := congrArg (fun b : Block => b.get R.SPM_EVT_TAGSP) hk
  exact e.symm.trans (hget R.SPM_EVT_TAGSP List.mem_cons_self)

/-- Refutes O57: from `overlongEvent` a write of 0 to SPM_EVT cuts the bit TAGSP from 2 to its one bit, 0, where the statement says that
it stays. -/
theorem not_registerWindow : ¬ Obligations.RegisterWindow := by
  intro h
  obtain ⟨hd, htwo, hzero⟩ := overlongEvent_write
  have hsame := tagsp_of_registerWindow h hd
  rw [hzero, htwo] at hsame
  exact absurd hsame (by decide)

end Sys2Proof.Machine
end

section
/-! Store copies and activation steps (R190, R191): the statements fail where a register holds more than its bits. -/
namespace Sys2Proof.Machine

/-- What a register holds after a command that completes. -/
def afterGet (o : Host.Outcome State Fault Refusal) (f : Fld) : Option Nat :=
  match o with
  | .next t => some (t.blk.get f)
  | _ => none

/-- What a statement on a command says of the state that the command answers, a register of which is known. -/
theorem Gives.afterGet {c : Instr} {s : State} {P : State → Prop} {f : Fld} {v : Nat} (h : Gives c s P)
    (hv : Machine.afterGet (exec c s) f = some v) : ∃ t, P t ∧ t.blk.get f = v := by
  obtain ⟨t, ht, hp⟩ := h
  rw [ht] at hv
  exact ⟨t, hp, Option.some.inj hv⟩

/-! ## Store copies (R188, R190) -/

/-- Store 1 is copied to store 0 for a ROLL, and MAJOR of store 1 holds 16, which is no value of its four bits but one that a state of
the model can hold. -/
def overlongVersion : State where
  blk := { Block.reset with
    regs := [(R.ENG_CSSTAT_IMGST 1, 2), (R.ENG_CSSTAT_UEPEND 1, 0), (R.ENG_CSVER_MAJOR 1, 16)].foldl (fun r p => r.put p.1.key p.2) []
    spm := { Spm.reset with copies := [⟨1, 0, .roll⟩] } }
  pending := []

theorem overlongVersion_copied : overlongVersion.blk.spm.copies.find? (fun x => x.dst == (0 : PE).val) = some ⟨1, 0, .roll⟩ ∧
    overlongVersion.blk.get (R.ENG_CSSTAT_IMGST 1) = 2 ∧ overlongVersion.blk.get (R.ENG_CSSTAT_UEPEND 1) = 0 ∧
    overlongVersion.blk.get (R.ENG_CSVER_MAJOR 1) = 16 ∧
    afterGet (exec (.storeCopyDone 0) overlongVersion) (R.ENG_CSVER_MAJOR 0) = some 0 := by
  decide +kernel

/-- Refutes O48: from `overlongVersion` the copy cuts MAJOR from 16 to its four bits, 0, where the statement says that it is the source's. -/
theorem not_storeRows : ¬ Obligations.StoreRows := by
  intro h
  obtain ⟨hopen, hst, hue, hmajor, hafter⟩ := overlongVersion_copied
  obtain ⟨t, ⟨⟨-, -, -, -, -, hversion, -⟩, -⟩, hzero⟩ :=
    ((h 0 0 false false .clean ⟨1, 0, .roll⟩ 0 overlongVersion).1 ⟨hopen, hst, hue⟩ rfl).afterGet hafter
  have hsame := hversion (R.ENG_CSVER_MAJOR 1, R.ENG_CSVER_MAJOR 0) (by simp)
  dsimp only at hsame
  rw [hmajor] at hsame
  exact absurd (hzero.symm.trans hsame) (by decide)

/-! ## Activation steps (R191) -/

/-- A ROLL under way, of which nothing waits. -/
def rollAct : Act := ⟨false, 0, none, [], none, none, false, false⟩

/-- A ROLL treats cluster 8, which the block does not have but the register can hold in a state of the model: logical engine 0 runs on
engine 72 of it, engine 73 of it is SPARE, and engine 0 has the new image. -/
def strayCluster : State where
  blk := { Block.reset with
    regs := [(R.ACT_STAT_CLUSTER, 8), (R.ACT_STAT_PHASE, 2), (R.mapPE 0, 72), (R.peState 72, 1), (R.ENG_ID_RUN 72, 1), (R.peState 73, 2),
      (R.ENG_CSSTAT_IMGST 73, 0), (R.ENG_CSSTAT_IMGST 72, 0), (R.ENG_CSSTAT_IMGST 0, 2),
      (R.ENG_CSSTAT_UEPEND 0, 0)].foldl (fun r p => r.put p.1.key p.2) []
    eng := [(0, { Engine.reset with csDigest := some [] })]
    spm := { Spm.reset with act := some rollAct } }
  pending := []

theorem strayCluster_copies : strayCluster.blk.peOf 0 = 72 ∧ strayCluster.blk.get R.ACT_STAT_CLUSTER = 8 ∧
    strayCluster.blk.get R.ACT_STAT_PHASE = 2 ∧ strayCluster.blk.get (R.peState 72) = 1 ∧ strayCluster.blk.get (R.ENG_ID_RUN 72) = 1 ∧
    strayCluster.blk.get (R.ENG_CSSTAT_IMGST 72) = 0 ∧ strayCluster.blk.get (R.ENG_CSSTAT_IMGST 0) = 2 ∧
    strayCluster.blk.get (R.ENG_CSSTAT_UEPEND 0) = 0 ∧ (strayCluster.blk.engine 0).csDigest = some rollAct.digest ∧
    strayCluster.blk.get (R.ENG_CSSTAT_IMGST 73) = 0 ∧
    afterGet (exec .activationStep strayCluster) (R.ENG_CSSTAT_IMGST 73) = some 1 := by
  decide +kernel

/-- Refutes O47: from `strayCluster`, whose cluster has no engine of the 72 free, the step begins a copy onto engine 73, where the
statement says that it moves logical engine 0. -/
theorem not_activation : ¬ Obligations.Activation := by
  intro h
  obtain ⟨hpe, hcl, hphase, hactive, hrun, hold, hnew, hue, hdig, hst, hafter⟩ := strayCluster_copies
  obtain ⟨-, -, -, -, -, -, -, -, -, -, -, -, -, -, -, hstep, -⟩ := h false 0 0 0 0 0 rollAct strayCluster
  have hrolling := And.intro (And.intro (rfl : strayCluster.blk.spm.act = some rollAct) (And.intro (show strayCluster.blk.get R.ACT_STAT_PHASE ≠ 1 by
    rw [hphase]; decide) (And.intro (rfl : strayCluster.blk.spm.move = none) (And.intro (rfl : strayCluster.blk.spm.copies = [])
    (rfl : rollAct.step = none)))))
    (And.intro (rfl : rollAct.reload = false) (And.intro (rfl : rollAct.inPlace = none) (And.intro (rfl : rollAct.faulted = false)
    (rfl : rollAct.abort = false))))
  have hhere : strayCluster.blk.peOf 0 / 9 = strayCluster.blk.get R.ACT_STAT_CLUSTER := by
    rw [hpe, hcl]
  have hruns : strayCluster.blk.get (R.peState (strayCluster.blk.peOf 0)) = 1 ∧
      strayCluster.blk.get (R.ENG_ID_RUN (strayCluster.blk.peOf 0)) ≠ 0 ∧
      strayCluster.blk.get (R.ENG_CSSTAT_IMGST (strayCluster.blk.peOf 0)) ≠ 2 := by
    rw [hpe, hactive, hrun, hold]
    decide
  obtain ⟨t, hsame, hone⟩ := (hstep hrolling
    ⟨⟨by decide, hhere, hruns.1, hruns.2.1, fun hfresh => hruns.2.2 hfresh.1⟩, fun l hl => absurd hl (Nat.not_lt_zero l)⟩
    ⟨⟨by decide, ⟨hnew, hdig⟩, hue⟩, fun m hm => absurd hm (Nat.not_lt_zero m)⟩
    fun m ⟨hm, hcluster, _⟩ => absurd (hcluster.trans hcl) (by omega)).afterGet hafter
  have hzero : t.blk.get (R.ENG_CSSTAT_IMGST 73) = strayCluster.blk.get (R.ENG_CSSTAT_IMGST 73) := by
    rw [hsame]
    rfl
  rw [hone, hst] at hzero
  exact absurd hzero Nat.one_ne_zero

end Sys2Proof.Machine
end

section
/-! The Spare Manager's commands, moves and tests (R299, R313, R314): the statements fail where LOGNEXT or a watchdog period holds more
than its bits. -/
namespace Sys2Proof.Machine

/-! ## Commands (R313, R314) -/

/-- RESTART of logical engine 3, whose own engine 3 is STOPPED; LOGNEXT holds 8, which is no value of its three bits but one that a
state of the model can hold, and RESULT of log entry 8 lies where the map has PE of logical engine 3. -/
def strayRestart : State where
  blk := { Block.reset with
    regs := [(R.SPM_STAT_LOGNEXT, 8), (R.mapPE 3, 3), (R.peState 3, 5), (R.ENG_ID_LE 3, 3), (R.ENG_ID_RUN 3, 1),
      (R.peStrikes 3, 0), (R.SPM_POLICY_STRIKEMAX, 3)].foldl (fun r p => r.put p.1.key p.2) []
    spm := { Spm.reset with cmdQ := [⟨5, false, 0x7F, 3, 1⟩], leState := [(3, 2)] } }
  pending := []

theorem strayRestart_restarts : strayRestart.blk.peOf 3 = 3 ∧ strayRestart.blk.leState 3 = 2 ∧
    strayRestart.blk.get (R.peState 3) = 5 ∧ strayRestart.blk.get (R.ENG_ID_LE 3) = 3 ∧ strayRestart.blk.get (R.ENG_ID_RUN 3) ≠ 0 ∧
    strayRestart.blk.get (R.peStrikes 3) < strayRestart.blk.get R.SPM_POLICY_STRIKEMAX ∧
    (∀ m < 72, strayRestart.blk.get (R.peWorn m) = 0) ∧
    afterGet (exec .transitionApply strayRestart) (R.mapPE 3) = some 0 := by
  decide +kernel

/-- Refutes O49: from `strayRestart` the log entry's RESULT, 0, overwrites the map, where the statement says that logical engine 3 is
mapped to engine 3. -/
theorem not_spareCommands : ¬ Obligations.SpareCommands := by
  intro h
  obtain ⟨hpe, hle, hst, hid, hrun, hstrikes, hworn, hafter⟩ := strayRestart_restarts
  obtain ⟨-, -, -, -, -, -, -, -, -, hrestart, -⟩ :=
    h false false 0 0 ⟨5, false, 0x7F, 3, 1⟩ [] 0 0 strayRestart (by decide)
  have hkept : strayRestart.blk.get (R.peState (strayRestart.blk.peOf 3)) = 5 ∧
      strayRestart.blk.get (R.ENG_ID_LE (strayRestart.blk.peOf 3)) = 3 ∧
      strayRestart.blk.get (R.ENG_ID_RUN (strayRestart.blk.peOf 3)) ≠ 0 ∧ strayRestart.blk.peOf 3 < 72 := by
    rw [hpe]
    exact ⟨hst, hid, hrun, by decide⟩
  have hfew : strayRestart.blk.get (R.peStrikes (strayRestart.blk.peOf 3)) < strayRestart.blk.get R.SPM_POLICY_STRIKEMAX := by
    rw [hpe]
    exact hstrikes
  obtain ⟨-, -, hown, -⟩ := hrestart ⟨rfl, rfl, rfl, rfl, fun m hm hw => absurd (hworn m hm) hw⟩ rfl
  obtain ⟨t, ⟨-, -, hmap, -⟩, hzero⟩ := (hown (Or.inl hle) rfl hkept hfew).afterGet hafter
  have hthree : t.blk.get (R.mapPE 3) = 3 := Eq.trans hmap hpe
  exact absurd (hzero.symm.trans hthree) (by decide)

/-! ## Moves (R299, R300) -/

/-- The transfer of a move of logical engine 0 from engine 0 to engine 1. -/
def openTransfer : Move := ⟨0, 0, 1, .trapok, 1, 0, false, .transfer, false, none⟩

/-- The move of `openTransfer`; engine 0's watchdog period holds `2 ^ 32`, which is no value of its 32 bits but one that a state of the
model can hold. -/
def overlongPeriod : State where
  blk := { Block.reset with
    regs := [(R.ENG_WDG_PERIOD_PERIOD 0, 2 ^ 32)].foldl (fun r p => r.put p.1.key p.2) []
    spm := { Spm.reset with move := some openTransfer } }
  pending := []

theorem overlongPeriod_cut : overlongPeriod.blk.get (R.ENG_WDG_PERIOD_PERIOD 0) = 2 ^ 32 ∧
    afterGet (exec (.moveTransferDone true) overlongPeriod) (R.ENG_WDG_PERIOD_PERIOD 1) = some 0 := by
  decide +kernel

/-- Refutes O50: from `overlongPeriod` the transfer cuts the watchdog period to its 32 bits, 0, where the statement says that it is the
source's. -/
theorem not_spareMoves : ¬ Obligations.SpareMoves := by
  intro h
  obtain ⟨hlong, hafter⟩ := overlongPeriod_cut
  obtain ⟨-, -, -, -, -, -, -, -, -, -, -, -, -, -, -, htransfer, -⟩ := h true 0 [] 0 0 0 openTransfer overlongPeriod
  obtain ⟨t, ⟨-, -, -, -, hperiod, -⟩, hzero⟩ :=
    (htransfer ⟨rfl, by decide, by decide, by decide, by decide⟩ rfl rfl).afterGet hafter
  have hsame : t.blk.get (R.ENG_WDG_PERIOD_PERIOD 1) = 2 ^ 32 := Eq.trans hperiod hlong
  exact absurd (hzero.symm.trans hsame) (by decide)

/-! ## Engine tests (R311, R314) -/

/-- Engine 4 is under a test that a command started; LOGNEXT holds 26, which is no value of its three bits but one that a state of the
model can hold, and LSEQ of log entry 26 lies where engine 4 has its STATE. -/
def strayTest : State where
  blk := { Block.reset with
    regs := [(R.SPM_STAT_LOGNEXT, 26), (R.peState 4, 4), (R.SPM_POLICY_STRIKEMAX, 3), (R.SPM_LSEQ_LSEQ, 0)].foldl
      (fun r p => r.put p.1.key p.2) []
    spm := { Spm.reset with testOf := [(4, 4, 0, 0)] } }
  pending := []

theorem strayTest_passes : strayTest.blk.get (R.peState 4) = 4 ∧ strayTest.blk.get (R.peWorn 4) = 0 ∧
    strayTest.blk.get (R.peStrikes 4) < strayTest.blk.get R.SPM_POLICY_STRIKEMAX ∧
    afterGet (exec (.engineTestDone 4 true) strayTest) (R.peState 4) = some 1 := by
  decide +kernel

/-- Refutes O51: from `strayTest` the log entry's LSEQ, 1, overwrites the state of the engine, where the statement says that it is
SPARE. -/
theorem not_testsWearMirror : ¬ Obligations.TestsWearMirror := by
  intro h
  obtain ⟨htesting, hworn, hstrikes, hafter⟩ := strayTest_passes
  obtain ⟨hdone, -⟩ := h 4 true 0 0 0 0 0 none [] strayTest
  obtain ⟨t, ⟨-, -, hpass, -⟩, hone⟩ := (hdone htesting).afterGet hafter
  have hno : ¬ ((true : Bool) = false ∨ (4 : PE).val ∈ strayTest.blk.spm.retireAfter ∨ strayTest.blk.get (R.peWorn (4 : PE)) ≠ 0 ∨
      strayTest.blk.get R.SPM_POLICY_STRIKEMAX ≤ strayTest.blk.get (R.peStrikes (4 : PE))) := by
    rintro (hfalse | hmem | hwears | hmany)
    · exact absurd hfalse (by decide)
    · exact absurd hmem (List.not_mem_nil)
    · exact hwears hworn
    · exact absurd hmany (Nat.not_le.mpr hstrikes)
  exact absurd (hone.symm.trans (hpass hno).1) (by decide)

end Sys2Proof.Machine
end

section
/-! Resets and the warning's arrival (R288, R435): the statement fails where an event queue's tail holds more than its bits. -/
namespace Sys2Proof.Machine

/-- The warning stands, no spill waits, and the tail of the Ring Port's event queue holds 1024, which is no value of its ten bits but
one that a state of the model can hold. -/
def strayTail : State where
  blk := { Block.reset with
    regs := [(R.KET_STAT_PFWARN, 1), (R.RING_EQTAIL_INDEX, 1024)].foldl (fun r p => r.put p.1.key p.2) [] }
  pending := []

theorem strayTail_warned : strayTail.blk.get R.KET_STAT_PFWARN ≠ 0 ∧ strayTail.blk.get R.RING_EQTAIL_INDEX = 1024 ∧
    afterGet (exec (.warningArrival .ring) strayTail) R.RING_EQTAIL_INDEX = some 1024 := by
  decide +kernel

/-- Refutes O52: from `strayTail` the warning's arrival at the Ring Port leaves the tail at 1024, where the statement says that it is
taken modulo 1024. -/
theorem not_resets : ¬ Obligations.Resets := by
  intro h
  obtain ⟨hwarned, htail, hafter⟩ := strayTail_warned
  obtain ⟨-, -, -, harrival⟩ := h .ring R.RING_EQTAIL_INDEX 0 0 0 strayTail (show strayTail.blk.mem.wf = true by decide) (by decide)
  obtain ⟨-, -, -, hring, -⟩ := harrival hwarned
  obtain ⟨t, ⟨-, -, -, -, -, hcount⟩, hkept⟩ := hring.afterGet hafter
  have hzero : t.blk.get R.RING_EQTAIL_INDEX = (strayTail.blk.get R.RING_EQTAIL_INDEX + 0) % 1024 := hcount rfl
  rw [hkept, htail] at hzero
  exact absurd hzero (by decide)

end Sys2Proof.Machine
end

section
/-! Drip (R448, R449): the statement fails where the queue of domain requests names an engine that the block does not have. -/
namespace Sys2Proof.Machine

/-- What a part of the block is after a command that completes. -/
def afterOf {α : Type} (o : Host.Outcome State Fault Refusal) (part : Block → α) : Option α :=
  match o with
  | .next t => some (part t.blk)
  | _ => none

/-- What a statement on a command says of the state that the command answers, a part of which is known. -/
theorem Gives.afterOf {α : Type} {c : Instr} {s : State} {P : State → Prop} {part : Block → α} {v : α} (h : Gives c s P)
    (hv : Machine.afterOf (exec c s) part = some v) : ∃ t, P t ∧ part t.blk = v := by
  obtain ⟨t, ht, hp⟩ := h
  rw [ht] at hv
  exact ⟨t, hp, Option.some.inj hv⟩

/-- Engine 2 is ACTIVE, and a domain request of engine 1028 waits, which the block does not have but the queue can name in a state of
the model; its BUSY bit lies where engine 2 has its STATE. -/
def strayDomain : State where
  blk := { Block.reset with
    regs := [(R.peState 2, 1)].foldl (fun r p => r.put p.1.key p.2) []
    domQ := [.engine 1028 1 false] }
  pending := []

theorem strayDomain_enters : strayDomain.blk.get R.PWR_STAT_DRIP = 0 ∧ strayDomain.blk.get R.PWR_STAT_PHASE = 0 ∧
    strayDomain.blk.get R.INT_STAT_INUSE = 0 ∧ strayDomain.blk.percEmpty = 0x3F ∧ strayDomain.blk.get R.KET_STAT_PFWARN = 0 ∧
    strayDomain.blk.sqWait = 0 ∧ strayDomain.blk.get (R.peState 2) = 1 ∧ strayDomain.blk.get (R.PWR_ENG_STATE 2) = 2 ∧
    afterOf (exec .dripEnter strayDomain) (fun b => (b.engine 2).freezeReq) = some false := by
  decide +kernel

theorem strayDomain_wakes : ∀ y < 1024, strayDomain.blk.enabled y = false := by
  decide +kernel

/-- Refutes O54: from `strayDomain` the entry clears the stray BUSY bit and with it the STATE of engine 2, which it then does not ask
to freeze, where the statement says that every ACTIVE engine is asked to. -/
theorem not_drip : ¬ Obligations.Drip := by
  intro h
  obtain ⟨hdrip, hphase, huse, hperc, hwarn, hwait, hactive, hpower, hafter⟩ := strayDomain_enters
  obtain ⟨-, -, henter, -⟩ := h false 2 0 0 0 strayDomain (show strayDomain.blk.mem.wf = true by decide) (by decide) (by decide)
  have hgo := henter ⟨hdrip, hphase⟩ (fun j hj hone => by
    interval_cases j
    · exact fun hf => hf.elim (fun hi => hi huse) (fun ⟨r, hr, _⟩ => absurd hr (List.not_mem_nil))
    · exact fun hf => hf hperc
    · exact fun ⟨y, hy, _⟩ => absurd hy (List.not_mem_nil)
    · exact fun hf => by simp [strayDomain, Block.reset, Spm.reset] at hf
    · exact fun hf => hf hwarn
    · rintro (⟨y, hy, hwake⟩ | hin | hdbg)
      · exact absurd ((strayDomain_wakes y hy).symm.trans hwake.2.1) (by decide)
      · exact absurd hin (by decide)
      · exact absurd hdbg (by decide)
    · exact fun hf => hf hwait)
  obtain ⟨t, ⟨-, -, -, -, -, hfreezes, -⟩, hno⟩ := hgo.afterOf hafter
  have hasked := hfreezes hactive hpower rfl
  rw [hasked] at hno
  exact absurd hno (by decide)

end Sys2Proof.Machine
end

section
/-! The Ring Port (R430, R440): the statement fails where the event queue's tail holds more than its bits. -/
namespace Sys2Proof.Machine

/-- Link 0 is UP with no credit and no spill on it, and the tail of the event queue holds 1024, which is no value of its ten bits but
one that a state of the model can hold. -/
def strayQueue : State where
  blk := { Block.reset with
    regs := [(R.INTEG_OPT_RING, 1), (R.LINK_STAT_STATE 0, 2), (R.RING_EQTAIL_INDEX, 1024)].foldl (fun r p => r.put p.1.key p.2) [] }
  pending := []

theorem strayQueue_down : strayQueue.blk.linkUp 0 = true ∧ strayQueue.blk.get R.RING_EQTAIL_INDEX = 1024 ∧
    afterGet (exec (.linkDown 0) strayQueue) R.RING_EQTAIL_INDEX = some 1024 := by
  decide +kernel

/-- Refutes O44: from `strayQueue` the link's going down leaves the tail at 1024, where the statement says that it is taken modulo
1024. -/
theorem not_ringPort : ¬ Obligations.RingPort := by
  intro h
  obtain ⟨hup, htail, hafter⟩ := strayQueue_down
  obtain ⟨-, hdown, -⟩ := h 0 0 0 0 0 0 0 [] .sack .clean ⟨0, 0, 0, 0, 0, 0, 0, 0, 0⟩ strayQueue
    (show strayQueue.blk.mem.wf = true by decide) ⟨fun _ _ => ⟨rfl, rfl, rfl⟩, rfl⟩
  obtain ⟨t, ⟨-, -, -, -, -, -, -, hcount⟩, hkept⟩ := (hdown hup).afterGet hafter
  have hzero : t.blk.get R.RING_EQTAIL_INDEX = (strayQueue.blk.get R.RING_EQTAIL_INDEX + 0 + 0) % 1024 := hcount
  rw [hkept, htail] at hzero
  exact absurd hzero (by decide)

end Sys2Proof.Machine
end

section
/-! Engine start, instruction fetch and break notices (R38, R76, R91, R325). -/
namespace Sys2Proof.Machine

/-! ## Registers at their reset values -/

theorem toReset_get_same (b : Block) (f : Fld) : (b.toReset f).get f = f.rst := by
  unfold Block.toReset Block.get Tab.get
  rw [Tab.look_del_same]
  rfl

theorem toReset_get_ne (b : Block) {f g : Fld} (h : g.key ≠ f.key) : (b.toReset f).get g = b.get g := by
  unfold Block.toReset Block.get Tab.get
  rw [Tab.look_del_ne _ _ _ h]

theorem KeepsFields.toReset {fs : List Fld} {b c : Block} (h : KeepsFields fs b c) {f : Fld} (hf : f ∈ fs) :
    KeepsFields fs b (c.toReset f) := fun x hx => (toReset_get_ne c (hx f hf)).trans (h x hx)

theorem OnlyFields.toReset {fs : List Fld} {b c : Block} (h : OnlyFields fs b c) {f : Fld} (hf : f ∈ fs) :
    OnlyFields fs b (c.toReset f) := ⟨h.1, KeepsFields.toReset h.2 hf⟩

theorem OnlyFields.mono {fs gs : List Fld} {b c : Block} (h : OnlyFields fs b c) (hsub : fs ⊆ gs) : OnlyFields gs b c :=
  ⟨h.1, fun x hx => h.2 x fun f hf => hx f (hsub hf)⟩

theorem OnlyFields.trans {fs : List Fld} {a b c : Block} (h : OnlyFields fs a b) (k : OnlyFields fs b c) : OnlyFields fs a c := by
  refine ⟨?_, fun x hx => (k.2 x hx).trans (h.2 x hx)⟩
  have := congrArg (fun z : Block => { z with regs := a.regs, dcycle := a.dcycle, tick := a.tick }) k.1
  exact this.trans h.1

/-- The watchdog registers of an engine. -/
def wdgRegs (n : Nat) : List Fld :=
  [R.ENG_WDG_CTRL_EN n, R.ENG_WDG_CTRL_FREEZE n, R.ENG_WDG_CTRL_EXP1 n, R.ENG_WDG_PERIOD_PERIOD n, R.ENG_WDG_CNT_COUNT n,
    R.ENG_WDG_GRACE_GRACE n]

theorem foldl_toReset_only {fs : List Fld} (l : List Fld) {b c : Block} (h : OnlyFields fs b c) (hl : l ⊆ fs) :
    OnlyFields fs b (l.foldl Block.toReset c) := by
  induction l generalizing c with
  | nil => exact h
  | cons f l ih => exact ih (h.toReset (hl List.mem_cons_self)) fun x hx => hl (List.mem_cons_of_mem _ hx)

/-- A field that several registers' resets reach, or that was at its reset value before, is at its reset value. -/
theorem foldl_toReset_get (l : List Fld) (b : Block) {f : Fld} (h : f ∈ l ∨ b.get f = f.rst) (hkey : ∀ g ∈ l, g.key = f.key → g = f) :
    (l.foldl Block.toReset b).get f = f.rst := by
  induction l generalizing b with
  | nil => exact h.resolve_left List.not_mem_nil
  | cons g l ih =>
    refine ih _ ?_ fun x hx => hkey x (List.mem_cons_of_mem _ hx)
    by_cases he : f.key = g.key
    · rw [hkey g List.mem_cons_self he.symm]
      exact .inr (toReset_get_same b f)
    · rcases h with h | h
      · rcases List.mem_cons.mp h with rfl | h
        · exact absurd rfl he
        · exact .inl h
      · exact .inr ((toReset_get_ne b he).trans h)

theorem wdgRegs_key {n : Nat} {f g : Fld} (hf : f ∈ wdgRegs n) (hg : g ∈ wdgRegs n) (h : g.key = f.key) : g = f := by
  have hnodup : ((wdgRegs n).map Fld.key).Nodup := by
    simp [wdgRegs, Fld.key, R.ENG_WDG_CTRL_EN, R.ENG_WDG_CTRL_FREEZE, R.ENG_WDG_CTRL_EXP1, R.ENG_WDG_PERIOD_PERIOD,
      R.ENG_WDG_CNT_COUNT, R.ENG_WDG_GRACE_GRACE]
    omega
  exact List.inj_on_of_nodup_map hnodup hg hf h

/-! ## ENGINE_START -/

theorem lockupVec_key_lt (n : Nat) : (R.lockupVec n).key < 0x350 * 32 := by
  unfold R.lockupVec
  split
  · decide
  · split <;> decide

/-- The fields that end an engine's lockup. -/
def lockupRegs (n : Nat) : List Fld := [R.ENG_XSTAT_LOCKUP n, R.lockupVec n, R.ENG_LOCKUP_ANY]

theorem unlock_only {fs : List Fld} {b c : Block} {n : Nat} (h : OnlyFields fs b c) (hsub : lockupRegs n ⊆ fs) :
    OnlyFields fs b (c.unlock n) :=
  ((h.put (f := R.ENG_XSTAT_LOCKUP n) (hsub (by simp [lockupRegs])) 0).put (f := R.lockupVec n) (hsub (by simp [lockupRegs])) _).put
    (f := R.ENG_LOCKUP_ANY) (hsub (by simp [lockupRegs])) _

theorem unlock_lockup (b : Block) (n : Nat) : (b.unlock n).get (R.ENG_XSTAT_LOCKUP n) = 0 := by
  have hvec : (R.ENG_XSTAT_LOCKUP n).key ≠ (R.lockupVec n).key := by
    have := lockupVec_key_lt n
    simp only [R.ENG_XSTAT_LOCKUP, Fld.key] at this ⊢
    omega
  have hany : (R.ENG_XSTAT_LOCKUP n).key ≠ R.ENG_LOCKUP_ANY.key := by
    simp only [R.ENG_XSTAT_LOCKUP, R.ENG_LOCKUP_ANY, Fld.key]
    omega
  unfold Block.unlock Block.clear
  rw [Block.get_put_ne _ _ _ _ hany, Block.get_put_ne _ _ _ _ hvec, Block.get_put_same]
  exact Nat.zero_mod _

/-- The registers of an engine's status that its start clears. -/
def startCleared (n : Nat) : List Fld :=
  [R.ENG_USTAT_LASTCAUSE n, R.ENG_LKSTAT_BRKCAUSE n, R.ENG_LKSTAT_LKACT n, R.ENG_LKSTAT_LKCNT n]

/-- Engine `n` and its registers once its base routine is done (R325, R327). -/
def Block.startRegs (b : Block) (n : Nat) : Block :=
  let b := ((b.resetWdg n).clear (R.ENG_USTAT_HALTED n)).unlock n
  (startCleared n).foldl Block.clear b

theorem execEngineStart_due {n : PE} {s : State} (hdue : (s.blk.engine n).startDue = true) (hon : s.blk.get (R.PWR_ENG_STATE n) = 2) :
    exec (.engineStart n) s = done s ((s.blk.setEngine n { (s.blk.engine n).started with
      running := true, hold := .fetch, trapPt := some true, pc := BitVec.ofNat 48
        (s.blk.get (R.ENG_BOOT_HI_PC n) * 2 ^ 32 + s.blk.get (R.ENG_BOOT_LO_PC n) * 2 ^ 2) }).startRegs n) := by
  show execEngineStart n s = _
  unfold execEngineStart
  dsimp only
  rw [hdue, hon]
  rfl

/-- The fields that the start of engine `n` writes. -/
def startFields (n : Nat) : List Fld :=
  wdgRegs n ++ [R.ENG_USTAT_LASTCAUSE n, R.ENG_USTAT_HALTED n, R.ENG_LKSTAT_BRKCAUSE n, R.ENG_LKSTAT_LKACT n,
    R.ENG_LKSTAT_LKCNT n, R.ENG_XSTAT_LOCKUP n, R.lockupVec n, R.ENG_LOCKUP_ANY]

theorem startRegs_only (b : Block) (n : Nat) : OnlyFields (startFields n) b (b.startRegs n) := by
  have hwdg : OnlyFields (startFields n) b (b.resetWdg n) :=
    foldl_toReset_only (wdgRegs n) (.refl _ b) (List.subset_append_left ..)
  have hhalt := hwdg.put (f := R.ENG_USTAT_HALTED n) (by simp [startFields]) 0
  have hlock := unlock_only (n := n) hhalt (by simp [lockupRegs, startFields])
  exact (((hlock.put (f := R.ENG_USTAT_LASTCAUSE n) (by simp [startFields]) 0).put (f := R.ENG_LKSTAT_BRKCAUSE n)
    (by simp [startFields]) 0).put (f := R.ENG_LKSTAT_LKACT n) (by simp [startFields]) 0).put (f := R.ENG_LKSTAT_LKCNT n)
    (by simp [startFields]) 0

theorem startRegs_wdg (b : Block) {n : Nat} {f : Fld} (hf : f ∈ wdgRegs n) : (b.startRegs n).get f = f.rst := by
  have hreset : (b.resetWdg n).get f = f.rst := foldl_toReset_get (wdgRegs n) b (.inl hf) fun g hg h => wdgRegs_key hf hg h
  have hrest : OnlyFields ([R.ENG_USTAT_HALTED n] ++ lockupRegs n ++ startCleared n) (b.resetWdg n) (b.startRegs n) := by
    have h1 := (OnlyFields.refl ([R.ENG_USTAT_HALTED n] ++ lockupRegs n ++ startCleared n) (b.resetWdg n)).put
      (f := R.ENG_USTAT_HALTED n) (by simp) 0
    have h2 := unlock_only (n := n) h1 (by simp [lockupRegs])
    exact (((h2.put (f := R.ENG_USTAT_LASTCAUSE n) (by simp [startCleared]) 0).put (f := R.ENG_LKSTAT_BRKCAUSE n)
      (by simp [startCleared]) 0).put (f := R.ENG_LKSTAT_LKACT n) (by simp [startCleared]) 0).put (f := R.ENG_LKSTAT_LKCNT n)
      (by simp [startCleared]) 0
  refine (hrest.2 f fun g hg => ?_).trans hreset
  have hlow := lockupVec_key_lt n
  have hf' : (0x40060 + n * 0x100) * 32 ≤ f.key ∧ f.key < (0x40070 + n * 0x100) * 32 := by
    simp only [wdgRegs, List.mem_cons, List.not_mem_nil, or_false] at hf
    rcases hf with rfl | rfl | rfl | rfl | rfl | rfl <;>
      simp only [R.ENG_WDG_CTRL_EN, R.ENG_WDG_CTRL_FREEZE, R.ENG_WDG_CTRL_EXP1, R.ENG_WDG_PERIOD_PERIOD, R.ENG_WDG_CNT_COUNT,
        R.ENG_WDG_GRACE_GRACE, Fld.key] <;> omega
  have hg' : g.key < (0x40034 + n * 0x100) * 32 := by
    simp only [lockupRegs, startCleared, List.mem_append, List.mem_cons, List.not_mem_nil, or_false] at hg
    rcases hg with (rfl | rfl | rfl | rfl) | rfl | rfl | rfl | rfl
    case inl.inr.inr.inl => omega
    all_goals
      simp only [R.ENG_USTAT_HALTED, R.ENG_XSTAT_LOCKUP, R.ENG_LOCKUP_ANY, R.ENG_USTAT_LASTCAUSE, R.ENG_LKSTAT_BRKCAUSE,
        R.ENG_LKSTAT_LKACT, R.ENG_LKSTAT_LKCNT, Fld.key]
      omega
  omega

theorem startRegs_halted (b : Block) (n : Nat) : (b.startRegs n).get (R.ENG_USTAT_HALTED n) = 0 := by
  have hrest : OnlyFields (lockupRegs n ++ startCleared n) ((b.resetWdg n).clear (R.ENG_USTAT_HALTED n)) (b.startRegs n) := by
    have h2 := unlock_only (n := n) (.refl (lockupRegs n ++ startCleared n) ((b.resetWdg n).clear (R.ENG_USTAT_HALTED n)))
      (by simp)
    exact (((h2.put (f := R.ENG_USTAT_LASTCAUSE n) (by simp [startCleared]) 0).put (f := R.ENG_LKSTAT_BRKCAUSE n)
      (by simp [startCleared]) 0).put (f := R.ENG_LKSTAT_LKACT n) (by simp [startCleared]) 0).put (f := R.ENG_LKSTAT_LKCNT n)
      (by simp [startCleared]) 0
  refine (hrest.2 _ fun g hg => ?_).trans ((Block.get_put_same ..).trans (Nat.zero_mod _))
  have hlow := lockupVec_key_lt n
  simp only [lockupRegs, startCleared, List.mem_append, List.mem_cons, List.not_mem_nil, or_false] at hg
  rcases hg with (rfl | rfl | rfl) | rfl | rfl | rfl | rfl
  case inl.inr.inl =>
    simp only [R.ENG_USTAT_HALTED, Fld.key] at hlow ⊢
    omega
  all_goals
    simp only [R.ENG_USTAT_HALTED, R.ENG_XSTAT_LOCKUP, R.ENG_LOCKUP_ANY, R.ENG_USTAT_LASTCAUSE, R.ENG_LKSTAT_BRKCAUSE,
      R.ENG_LKSTAT_LKACT, R.ENG_LKSTAT_LKCNT, Fld.key]
    omega

theorem startRegs_status (b : Block) (n : Nat) :
    (b.startRegs n).get (R.ENG_XSTAT_LOCKUP n) = 0 ∧ (b.startRegs n).get (R.ENG_USTAT_LASTCAUSE n) = 0 ∧
      (b.startRegs n).get (R.ENG_LKSTAT_LKACT n) = 0 := by
  unfold Block.startRegs startCleared Block.clear
  dsimp only [List.foldl]
  generalize hu : Block.unlock _ n = u
  have hlockup : u.get (R.ENG_XSTAT_LOCKUP n) = 0 := hu ▸ unlock_lockup _ n
  refine ⟨?_, ?_, ?_⟩ <;>
    simp (disch := (simp only [Fld.key, R.ENG_XSTAT_LOCKUP, R.ENG_USTAT_LASTCAUSE, R.ENG_LKSTAT_BRKCAUSE, R.ENG_LKSTAT_LKACT,
      R.ENG_LKSTAT_LKCNT]; omega)) only [Block.get_put_same, Block.get_put_ne, Nat.zero_mod, hlockup]

/-! ## INSTRUCTION_FETCH -/

theorem bytes_drop_take (m : Mem) (a : Nat) {i k len : Nat} (h : i + k ≤ len) : ((m.bytes a len).drop i).take k = m.bytes (a + i) k := by
  induction len generalizing a i k with
  | zero =>
    obtain ⟨rfl, rfl⟩ : i = 0 ∧ k = 0 := by omega
    rfl
  | succ len ih =>
    cases i with
    | succ i =>
      have := ih (a + 1) (i := i) (k := k) (by omega)
      rw [Mem.bytes, List.drop_succ_cons, this, Nat.add_assoc, Nat.add_comm 1]
    | zero =>
      cases k with
      | zero => rfl
      | succ k =>
        have := ih (a + 1) (i := 0) (k := k) (by omega)
        rw [List.drop_zero, Nat.add_zero] at this
        rw [Mem.bytes, List.drop_zero, List.take_succ_cons, this]
        rfl

theorem instrAt_filled {e : Engine} (m : Mem) (hin : e.pc.toNat % 64 ≤ 56)
    (hop : leNat (m.bytes e.pc.toNat 4) / 2 ^ 24 < 0xF0 ∨ leNat (m.bytes e.pc.toNat 4) / 2 ^ 24 = 0xFF) :
    (e.fill (e.pc.toNat / 64) (m.bytes (e.pc.toNat / 64 * 64) 64)).instrAt = some (leNat (m.bytes e.pc.toNat 4)) := by
  have hline : (e.fill (e.pc.toNat / 64) (m.bytes (e.pc.toNat / 64 * 64) 64)).ibuf.look (e.pc.toNat / 64) =
      some (m.bytes (e.pc.toNat / 64 * 64) 64) := Tab.look_put_same ..
  have hword : (e.fill (e.pc.toNat / 64) (m.bytes (e.pc.toNat / 64 * 64) 64)).wordAt e.pc.toNat =
      some (leNat (m.bytes e.pc.toNat 4)) := by
    unfold Engine.wordAt
    rw [hline, Option.map_some, bytes_drop_take m _ (by omega : e.pc.toNat % 64 + 4 ≤ 64),
      show e.pc.toNat / 64 * 64 + e.pc.toNat % 64 = e.pc.toNat by omega]
  unfold Engine.instrAt
  rw [show (e.fill (e.pc.toNat / 64) (m.bytes (e.pc.toNat / 64 * 64) 64)).pc = e.pc from rfl, hword]
  exact if_neg (by omega)

theorem dispatchNext_some {e : Engine} {w : Nat} (h : e.instrAt = some w) (hcodes : e.codes = []) :
    e.dispatchNext = { e with
      ir := BitVec.ofNat 64 w, upc := BitVec.ofNat 13 (0x1000 + 4 * (w / 2 ^ 24 % 256)), hold := .none } := by
  unfold Engine.dispatchNext
  rw [h]
  exact recode_nil _ hcodes

/-- Engine `e` with one line in its buffer and the instruction word `w` dispatched. -/
def Engine.fetched (e : Engine) (line : List Byte) (w : Nat) : Engine :=
  { e with
    ibuf := [(e.pc.toNat / 64, line)], ir := BitVec.ofNat 64 w, hold := .none, upc := BitVec.ofNat 13 (0x1000 + 4 * (w / 2 ^ 24)) }

theorem dispatchNext_filled {e : Engine} (m : Mem) (hcodes : e.codes = []) (hbuf : e.ibuf = []) (hin : e.pc.toNat % 64 ≤ 56)
    (hop : leNat (m.bytes e.pc.toNat 4) / 2 ^ 24 < 0xF0 ∨ leNat (m.bytes e.pc.toNat 4) / 2 ^ 24 = 0xFF) :
    (e.fill (e.pc.toNat / 64) (m.bytes (e.pc.toNat / 64 * 64) 64)).dispatchNext =
      e.fetched (m.bytes (e.pc.toNat / 64 * 64) 64) (leNat (m.bytes e.pc.toNat 4)) := by
  rw [dispatchNext_some (instrAt_filled m hin hop) hcodes, Nat.mod_eq_of_lt (by omega)]
  generalize m.bytes (e.pc.toNat / 64 * 64) 64 = line
  generalize leNat (m.bytes e.pc.toNat 4) = w
  unfold Engine.fill Engine.fetched
  dsimp only
  rw [hbuf, show Tab.put [] (e.pc.toNat / 64) line = [(e.pc.toNat / 64, line)] from rfl]

theorem fetchLine_of_load {b c : Block} {n : Nat} {d : List Byte} {find : BankFind}
    (hcheck : b.check n [.exec] ((b.engine n).missing / 64 * 64) 64 = none)
    (hload : b.load n ((b.engine n).missing / 64 * 64) 64 true find = (c, .ok d)) :
    b.fetchLine n find = c.modEngine n fun e => (e.fill ((b.engine n).missing / 64) d).dispatchNext := by
  unfold Block.fetchLine
  dsimp only
  rw [hcheck, hload]

theorem modEngine_turned (b : Block) (n : PE) (k : Nat) (g : Engine → Engine) :
    (Turned b n k).modEngine n g = (Turned b n k).setEngine n (g (b.engine n)) := by
  unfold Block.modEngine
  rw [Turned_engine]

theorem gives_instructionFetch {n : PE} {s : State} {k : Nat} (hruns : s.blk.runs n = true) (htrap : s.blk.trapFirst n = false)
    (hcodes : (s.blk.engine n).codes = []) (hhold : (s.blk.engine n).hold = .fetch) (hbuf : (s.blk.engine n).ibuf = [])
    (hin : (s.blk.engine n).pc.toNat % 64 ≤ 56) (hbank : AtBank s n [.exec] ((s.blk.engine n).pc.toNat / 64 * 64) 64 k)
    (hop : leNat (s.blk.mem.bytes (s.blk.engine n).pc.toNat 4) / 2 ^ 24 < 0xF0 ∨
      leNat (s.blk.mem.bytes (s.blk.engine n).pc.toNat 4) / 2 ^ 24 = 0xFF) :
    Gives (.instructionFetch n .clean) s fun t => t.blk = (Turned s.blk n k).setEngine n
      ((s.blk.engine n).fetched (s.blk.mem.bytes ((s.blk.engine n).pc.toNat / 64 * 64) 64)
        (leNat (s.blk.mem.bytes (s.blk.engine n).pc.toNat 4))) := by
  obtain ⟨ht, hwithin, hcheck, -, -⟩ := id hbank
  have hmissing : (s.blk.engine n).missing = (s.blk.engine n).pc.toNat := by
    unfold Engine.missing Engine.wordAt
    rw [hbuf]
    rfl
  have hload := load_within (n := n) ht hwithin (by decide) (hbank.wholeAt (OnlyPmc.refl n s.blk).beside) true
  have hline := fetchLine_of_load (find := .clean) (by rwa [hmissing]) (by rw [hmissing]; exact hload)
  rw [modEngine_turned, hmissing, dispatchNext_filled s.blk.mem hcodes hbuf hin hop] at hline
  have hexec : exec (.instructionFetch n .clean) s = done s (s.blk.fetchLine n .clean) := by
    show execInstructionFetch n .clean s = _
    unfold execInstructionFetch
    simp only [hruns, hhold, htrap, Bool.not_true, Bool.false_eq_true, if_false, beq_self_eq_true, if_true]
  refine gives_of_done (hexec.trans (congrArg (done s) hline)) ?_ rfl
  unfold Turned
  dsimp only
  split <;> rfl

/-! ## BREAK_NOTICE -/

theorem gives_breakNotice_other {n : PE} {s : State} {x : Nat} {xs : List Nat} (hn : (s.blk.engine n).notices = x :: xs)
    (h : s.blk.flag (R.ENG_LKSTAT_LKACT n) = false ∨ x ≠ (s.blk.engine n).lkSeq) :
    Gives (.breakNotice n) s fun t => t.blk = s.blk.setEngine n { s.blk.engine n with notices := xs } := by
  refine gives_of_done (b := s.blk.setEngine n { s.blk.engine n with notices := xs }) ?_ rfl rfl
  show execBreakNotice n s = _
  unfold execBreakNotice
  dsimp only
  rw [hn]
  dsimp only
  refine congrArg (done s) (if_neg ?_)
  rw [Block.setEngine_flag]
  rcases h with h | h <;> simp [h]

theorem isPmc_lockStat (n : Nat) : isPmc n (R.ENG_LKSTAT_LOCKBREAK n) = false ∧ isPmc n (R.ENG_LKSTAT_BRKCAUSE n) = false := by
  refine ⟨?_, ?_⟩ <;>
  · simp [isPmc, Fld.key, R.ENG_LKSTAT_LOCKBREAK, R.ENG_LKSTAT_BRKCAUSE, R.ENG_PMCTL_OVF, R.ENG_PMC_COUNT, List.range,
      List.range.loop]
    omega

/-- The block after engine `n`'s line lock, if it has one, has been given up (R91). -/
def Block.lockGiven (b : Block) (n : Nat) : Block :=
  let e := b.engine n
  let b := b.setEngine n { e with lkLine := none }
  match e.lkLine with
  | some a => b.post (b.engReq n .lockRelease a 0 [] 0 .none e.lkSeq false)
  | none => b

theorem lockGiven_facts (b : Block) (n : Nat) : (b.lockGiven n).engine n = { b.engine n with lkLine := none } ∧
    (b.lockGiven n).mem = b.mem ∧ (b.lockGiven n).isSealed = b.isSealed := by
  have hself : (b.setEngine n { b.engine n with lkLine := none }).engine n = { b.engine n with lkLine := none } :=
    Block.setEngine_engine_same ..
  unfold Block.lockGiven
  dsimp only
  cases (b.engine n).lkLine with
  | none => exact ⟨hself, rfl, rfl⟩
  | some a =>
    refine ⟨?_, Block.post_mem .., ?_⟩
    · exact (congrArg (fun t : Tab Engine => Block.engine { b with eng := t } n) (Block.post_eng ..)).trans hself
    · unfold Block.post
      dsimp only
      split <;> rfl

theorem lockBreak_of_active {b : Block} {n : Nat} (h : b.flag (R.ENG_LKSTAT_LKACT n) = true) (c : BreakCause) :
    b.lockBreak n c = (((((b.lockGiven n).clear (R.ENG_LKSTAT_LKACT n)).clear (R.ENG_LKSTAT_LKCNT n)).raise
      (R.ENG_LKSTAT_LOCKBREAK n)).put (R.ENG_LKSTAT_BRKCAUSE n) c.code).countEng n 0x0C := if_pos h

theorem lockBreak_facts {b : Block} {n : Nat} (h : b.flag (R.ENG_LKSTAT_LKACT n) = true) (c : BreakCause) :
    (b.lockBreak n c).get (R.ENG_LKSTAT_LKACT n) = 0 ∧ (b.lockBreak n c).get (R.ENG_LKSTAT_LOCKBREAK n) = 1 ∧
      (b.lockBreak n c).get (R.ENG_LKSTAT_BRKCAUSE n) = c.code ∧
      (b.lockBreak n c).engine n = { b.engine n with lkLine := none } ∧ (b.lockBreak n c).mem = b.mem ∧
      (b.lockBreak n c).isSealed = b.isSealed := by
  rw [lockBreak_of_active h]
  obtain ⟨heng, hmem, hseal⟩ := lockGiven_facts b n
  generalize b.lockGiven n = p at heng hmem hseal ⊢
  have hcount := countEng_only ((((p.clear (R.ENG_LKSTAT_LKACT n)).clear (R.ENG_LKSTAT_LKCNT n)).raise
    (R.ENG_LKSTAT_LOCKBREAK n)).put (R.ENG_LKSTAT_BRKCAUSE n) c.code) n 0x0C
  obtain ⟨hbrk, hcause⟩ := isPmc_lockStat n
  refine ⟨(hcount.2 _ (isPmc_lkact n)).trans ?_, (hcount.2 _ hbrk).trans ?_, (hcount.2 _ hcause).trans ?_,
    (hcount.engine n).trans heng, hcount.mem.trans hmem, ?_⟩
  · unfold Block.clear Block.raise
    simp (disch := (simp only [Fld.key, R.ENG_LKSTAT_LOCKBREAK, R.ENG_LKSTAT_BRKCAUSE, R.ENG_LKSTAT_LKACT, R.ENG_LKSTAT_LKCNT]; omega)) only
      [Block.get_put_same, Block.get_put_ne, Nat.zero_mod]
  · unfold Block.clear Block.raise
    simp (disch := (simp only [Fld.key, R.ENG_LKSTAT_LOCKBREAK, R.ENG_LKSTAT_BRKCAUSE]; omega)) only
      [Block.get_put_same, Block.get_put_ne]
    rfl
  · rw [Block.get_put_same]
    cases c <;> rfl
  · have e := congrArg Block.isSealed hcount.1
    exact e.trans hseal

theorem gives_breakNotice_own {n : PE} {s : State} {x : Nat} {xs : List Nat} (hn : (s.blk.engine n).notices = x :: xs)
    (h : s.blk.flag (R.ENG_LKSTAT_LKACT n) = true) (hx : x = (s.blk.engine n).lkSeq) :
    Gives (.breakNotice n) s fun t => t.blk.get (R.ENG_LKSTAT_LKACT n) = 0 ∧ t.blk.get (R.ENG_LKSTAT_LOCKBREAK n) = 1 ∧
      t.blk.get (R.ENG_LKSTAT_BRKCAUSE n) = 3 ∧ (t.blk.engine n).notices = xs ∧ (t.blk.engine n).lkLine = none ∧
      t.blk.mem = s.blk.mem := by
  have hflag : (s.blk.setEngine n { s.blk.engine n with notices := xs }).flag (R.ENG_LKSTAT_LKACT n) = true := h
  obtain ⟨hact, hbrk, hcause, heng, hmem, hseal⟩ := lockBreak_facts hflag .remote
  refine gives_of_done (b := (s.blk.setEngine n { s.blk.engine n with notices := xs }).lockBreak n .remote) ?_ hseal
    ⟨hact, hbrk, hcause, ?_, ?_, hmem⟩
  · show execBreakNotice n s = _
    unfold execBreakNotice
    dsimp only
    rw [hn]
    dsimp only
    refine congrArg (done s) (if_pos ?_)
    rw [hflag, hx]
    simp
  · dsimp only
    rw [heng, Block.setEngine_engine_same]
  · dsimp only
    rw [heng]

theorem startRegs_engine (b : Block) (n m : Nat) : (b.startRegs n).engine m = b.engine m := by
  have e := congrArg Block.eng (startRegs_only b n).1
  exact congrArg (fun t : Tab Engine => t.get m Engine.reset) e

/-- Engine `e` as its start leaves it, at the address `pc` (R325). -/
def Engine.booted (e : Engine) (pc : Nat) : Engine :=
  { e.started with running := true, hold := .fetch, trapPt := some true, pc := BitVec.ofNat 48 pc }

/-- Settles O26: an engine starts at its boot address with its registers at their start values, a fetch dispatches the
instruction at PC, and a break notice breaks the sequence whose lock it names. -/
theorem engineEvents : Obligations.EngineEvents := by
  intro n k s
  dsimp only
  refine ⟨fun hdue hon => ?_, fun hruns htrap hcodes hhold hbuf hin hbank hop =>
    gives_instructionFetch hruns htrap hcodes hhold hbuf hin hbank hop, fun x xs hn =>
    ⟨gives_breakNotice_other hn, gives_breakNotice_own hn⟩⟩
  have hexec := execEngineStart_due hdue hon
  rw [← Engine.booted] at hexec ⊢
  generalize he : (s.blk.engine n).booted _ = e at hexec ⊢
  generalize hb : s.blk.setEngine n e = b at hexec ⊢
  have honly := startRegs_only b n
  obtain ⟨hlockup, hcause, hact⟩ := startRegs_status b n
  have hself : (b.startRegs n).engine n = e := (startRegs_engine b n n).trans (hb ▸ Block.setEngine_engine_same ..)
  refine gives_of_done hexec (honly.isSealed.trans (hb ▸ rfl))
    ⟨honly, fun f hf => startRegs_wdg _ hf, startRegs_halted _ n, hlockup, hcause, hact, ?_⟩
  dsimp only
  rw [hself, ← he]
  refine ⟨rfl, ?_, rfl, rfl, fun m hm =>
    (startRegs_engine b n m).trans (hb ▸ Block.setEngine_engine_ne _ _ _ _ hm)⟩
  show St.start.word = _
  decide

end Sys2Proof.Machine
end

section
/-! The Kettle: samples, the budget, grants, strobes and the power-fail warning (R269 to R291). -/
namespace Sys2Proof.Machine

/-! ## Blocks that differ in their registers -/

/-- Between two blocks nothing differs but registers. -/
def RegsOnly (a b : Block) : Prop := { b with regs := a.regs } = a

theorem RegsOnly.refl (b : Block) : RegsOnly b b := rfl

theorem RegsOnly.put {a b : Block} (h : RegsOnly a b) (f : Fld) (v : Nat) : RegsOnly a (b.put f v) := h

theorem RegsOnly.trans {a b c : Block} (h : RegsOnly a b) (k : RegsOnly b c) : RegsOnly a c := by
  have e := congrArg (fun z : Block => { z with regs := a.regs }) k
  exact e.trans h

theorem RegsOnly.isSealed {a b : Block} (h : RegsOnly a b) : b.isSealed = a.isSealed := by
  have e := congrArg Block.isSealed h
  exact e

theorem RegsOnly.kettle {a b : Block} (h : RegsOnly a b) : b.kettle = a.kettle := by
  have e := congrArg Block.kettle h
  exact e

theorem RegsOnly.mem {a b : Block} (h : RegsOnly a b) : b.mem = a.mem := by
  have e := congrArg Block.mem h
  exact e

/-! ## Status bits -/

theorem bit_mod (v : Bool) : bit v % 2 ^ 1 = bit v := by cases v <;> rfl

section
variable (b : Block) (stat evt : Fld) (v : Bool)

theorem follow_get_ne {g : Fld} (hs : g.key ≠ stat.key) (he : g.key ≠ evt.key) : (b.follow stat evt v).get g = b.get g := by
  unfold Block.follow
  dsimp only
  rw [Block.get_put_ne _ _ _ _ hs]
  split
  · exact Block.get_put_ne _ _ _ _ he
  · rfl

theorem follow_get_stat (hw : stat.w = 1) : (b.follow stat evt v).get stat = bit v := by
  unfold Block.follow
  dsimp only
  rw [Block.get_put_same, hw, bit_mod]

theorem follow_get_evt (hne : evt.key ≠ stat.key) (hw : evt.w = 1) :
    (b.follow stat evt v).get evt = if v = true ∧ b.get stat = 0 then 1 else b.get evt := by
  unfold Block.follow Block.flag
  dsimp only
  rw [Block.get_put_ne _ _ _ _ hne]
  by_cases h : v = true ∧ b.get stat = 0
  · rw [if_pos h, if_pos (by simp [h.1, h.2])]
    unfold Block.raise
    rw [Block.get_put_same, hw]
    rfl
  · rw [if_neg h, if_neg (by simpa using h)]

end

theorem RegsOnly.follow {a b : Block} (h : RegsOnly a b) (stat evt : Fld) (v : Bool) : RegsOnly a (b.follow stat evt v) := by
  unfold Block.follow
  split
  · exact h
  · exact h

theorem KeepsFields.follow {fs : List Fld} {a b : Block} (h : KeepsFields fs a b) {stat evt : Fld} (hs : stat ∈ fs) (he : evt ∈ fs)
    (v : Bool) : KeepsFields fs a (b.follow stat evt v) :=
  fun x hx => (follow_get_ne b stat evt v (hx _ hs) (hx _ he)).trans (h x hx)

/-! ## What follows E, RESV and the budget -/

/-- The status fields that follow the Kettle's state. -/
def ketStatus : List Fld :=
  [R.KET_HEAD_HEAD, R.KET_STAT_WAITING, R.KET_STAT_DEFICIT, R.KET_EVT_DEFICIT, R.KET_STAT_LOWBANK, R.KET_EVT_LOWBANK,
    R.KET_STAT_DRAINED, R.KET_EVT_DRAINED, R.KET_STAT_RAILOK, R.KET_EVT_RAILOK]

/-- The Kettle's status agrees with its state, LOWE being `low`. -/
def Block.KetSettled (low : Nat) (k : Block) : Prop :=
  k.get R.KET_HEAD_HEAD = (k.kettle.budget - k.get R.KET_RESV_RESV) % 2 ^ 32 ∧
    k.get R.KET_STAT_DEFICIT = bit (decide (k.kettle.budget < k.get R.KET_RESV_RESV)) ∧
    k.get R.KET_STAT_LOWBANK = bit (decide (k.get R.KET_E_E < low)) ∧ k.get R.KET_STAT_WAITING = bit k.kettle.req.isSome

theorem settleKettle_frame (b : Block) : RegsOnly b b.settleKettle :=
  ((((((RegsOnly.refl b).put R.KET_HEAD_HEAD _).put R.KET_STAT_WAITING _).follow _ _ _).follow _ _ _).follow _ _ _).follow _ _ _

theorem settleKettle_keeps (b : Block) : KeepsFields ketStatus b b.settleKettle :=
  (((((((KeepsFields.refl ketStatus b).put (f := R.KET_HEAD_HEAD) (by decide) _).put (f := R.KET_STAT_WAITING) (by decide) _).follow
    (by decide) (by decide) _).follow (by decide) (by decide) _).follow (by decide) (by decide) _).follow (by decide) (by decide) _)

theorem settleKettle_settled {b : Block} {low : Nat} (h : b.get R.KET_LOWE_LOWE = low) : b.settleKettle.KetSettled low := by
  have hkettle : b.settleKettle.kettle = b.kettle := (settleKettle_frame b).kettle
  have hkeep (g : Fld) (hg : ∀ f ∈ ketStatus, g.key ≠ f.key) := settleKettle_keeps b g hg
  unfold Block.KetSettled
  rw [hkettle, hkeep R.KET_RESV_RESV (by decide), hkeep R.KET_E_E (by decide), ← h]
  refine ⟨?_, ?_, ?_, ?_⟩ <;> unfold Block.settleKettle <;>
    simp (disch := decide) only [follow_get_ne, follow_get_stat, Block.get_put_same, Block.get_put_ne]
  · rfl
  · exact bit_mod _

theorem settleKettle_get (b : Block) {g : Fld} (hg : ∀ f ∈ ketStatus, g.key ≠ f.key) : b.settleKettle.get g = b.get g :=
  settleKettle_keeps b g hg

theorem settleKettle_kettle (b : Block) : b.settleKettle.kettle = b.kettle := (settleKettle_frame b).kettle

/-! ## The Intake's request beside the Kettle -/

/-- The registers that say whether the Intake is held. -/
def heldRegs : List Fld := [R.INT_STAT_HELD, R.INT_EVT_HELD]

/-- Between two blocks nothing differs but registers and the request pending at the Kettle. -/
def RegsAndReq (a b : Block) : Prop := { b with regs := a.regs, kettle := { b.kettle with req := a.kettle.req } } = a

theorem settleIntake_frame (b : Block) : RegsAndReq b b.settleIntake := by
  unfold Block.settleIntake
  dsimp only
  split
  · split <;> rfl
  · split
    · split <;> rfl
    · split <;> rfl

theorem settleIntake_keeps (b : Block) : KeepsFields heldRegs b b.settleIntake := by
  unfold Block.settleIntake
  dsimp only
  generalize hc : (if b.reqOut || b.flag R.INT_CTRL_HOLD || b.intake.warned || b.flag R.KET_STAT_PFWARN then b
    else match b.admChoice with
      | some t => { b with kettle := { b.kettle with req := some ⟨t, (b.tag t).tseq, (b.tag t).len, none⟩ } }
      | none => b) = c
  have hregs : c.regs = b.regs := by
    rw [← hc]
    split
    · rfl
    · split <;> rfl
  have h0 : KeepsFields heldRegs b c := (KeepsFields.refl heldRegs b).of_regs hregs
  split
  · exact (h0.put (f := R.INT_EVT_HELD) (by decide) _).put (f := R.INT_STAT_HELD) (by decide) _
  · exact h0.put (f := R.INT_STAT_HELD) (by decide) _

/-- No request joins the Kettle while one is out, or the Intake is held. -/
theorem settleIntake_kettle {b : Block} (h : b.reqOut = true ∨ b.flag R.INT_CTRL_HOLD = true) : b.settleIntake.kettle = b.kettle := by
  unfold Block.settleIntake
  dsimp only
  have hcond : (b.reqOut || b.flag R.INT_CTRL_HOLD || b.intake.warned || b.flag R.KET_STAT_PFWARN) = true := by
    rcases h with h | h <;> simp [h]
  rw [if_pos hcond]
  split <;> rfl

/-! ## The warning -/

/-- Between two blocks nothing differs but registers, the engines and the Spare Manager's state. -/
def BesideFreeze (a b : Block) : Prop := { b with regs := a.regs, eng := a.eng, spm := a.spm } = a

theorem BesideFreeze.trans {a b c : Block} (h : BesideFreeze a b) (k : BesideFreeze b c) : BesideFreeze a c := by
  have e := congrArg (fun z : Block => { z with regs := a.regs, eng := a.eng, spm := a.spm }) k
  exact e.trans h

theorem RegsOnly.besideFreeze {a b : Block} (h : RegsOnly a b) : BesideFreeze a b := by
  have e := congrArg (fun z : Block => { z with eng := a.eng, spm := a.spm }) h
  exact e

theorem BesideFreeze.put {a b : Block} (h : BesideFreeze a b) (f : Fld) (v : Nat) : BesideFreeze a (b.put f v) := h

theorem unfreeze_frame (b : Block) : BesideFreeze b b.unfreeze := by
  refine forEach_keeps (BesideFreeze b) 72 _ b rfl fun n c _ hc => ?_
  dsimp only
  split
  · split
    · split <;> exact hc
    · split <;> exact hc
  · exact hc

theorem unfreeze_get (b : Block) {g : Fld} (hg : g.key < 0x40000 * 32) : b.unfreeze.get g = b.get g := by
  have hne (n : Nat) : g.key ≠ (R.ENG_USTAT_HALTED n).key := by
    simp only [R.ENG_USTAT_HALTED, Fld.key] at hg ⊢
    omega
  refine forEach_keeps (fun c : Block => c.get g = b.get g) 72 _ b rfl fun n c _ hc => ?_
  dsimp only
  split
  · have hclear (d : Block) (hd : d.get g = b.get g) : (d.clear (R.ENG_USTAT_HALTED n)).get g = b.get g :=
      (Block.get_put_ne _ _ _ _ (hne n)).trans hd
    split <;> split
    · exact hclear _ hc
    · exact hc
    · exact hclear _ hc
    · exact hc
  · exact hc

theorem dripAbandon_frame (b : Block) : BesideFreeze b b.dripAbandon := by
  unfold Block.dripAbandon
  split
  · exact ((unfreeze_frame b).put _ _).put _ _
  · rfl

theorem dripAbandon_get (b : Block) {g : Fld} (hg : g.key < 0x40000 * 32) (hp : g.key ≠ R.PWR_STAT_PHASE.key)
    (he : g.key ≠ R.PWR_EVT_ABANDON.key) : b.dripAbandon.get g = b.get g := by
  unfold Block.dripAbandon
  split
  · exact (Block.get_put_ne _ _ _ _ he).trans ((Block.get_put_ne _ _ _ _ hp).trans (unfreeze_get b hg))
  · rfl

/-- A field of the Kettle that the warning leaves alone. -/
def BesideWarning (g : Fld) : Prop :=
  g.key < 0x40000 * 32 ∧ ∀ f ∈ [R.KET_STAT_PFWARN, R.KET_EVT_PFWARN, R.KET_PFT_LO_TNOW, R.KET_PFT_HI_TNOW, R.KET_STAT_THROTTLE,
    R.PWR_STAT_PHASE, R.PWR_EVT_ABANDON] ++ ketStatus, g.key ≠ f.key

/-- The block with the warning's registers, before the status follows. -/
def Block.warnRegs (b : Block) : Block :=
  let b := (b.raise R.KET_STAT_PFWARN).raise R.KET_EVT_PFWARN
  (b.put64 R.KET_PFT_LO_TNOW R.KET_PFT_HI_TNOW b.tnow).dropRequest

theorem pfWarn_of_rising {b : Block} (h : b.get R.KET_STAT_PFWARN = 0) :
    b.pfWarn = (b.warnRegs.modKet fun k => { k with good := 0 }).settleKettle.dripAbandon := by
  refine if_neg ?_
  unfold Block.flag
  rw [h]
  decide

theorem pfWarn_of_warned {b : Block} (h : b.get R.KET_STAT_PFWARN ≠ 0) : b.pfWarn = b := if_pos (bne_iff_ne.mpr h)

theorem settleAbandon_frame (b : Block) : BesideFreeze b b.settleKettle.dripAbandon :=
  (settleKettle_frame b).besideFreeze.trans (dripAbandon_frame _)

theorem BesideFreeze.kettle {a b : Block} (h : BesideFreeze a b) : b.kettle = a.kettle := by
  have e := congrArg Block.kettle h
  exact e

theorem BesideFreeze.mem {a b : Block} (h : BesideFreeze a b) : b.mem = a.mem := by
  have e := congrArg Block.mem h
  exact e

theorem BesideFreeze.isSealed {a b : Block} (h : BesideFreeze a b) : b.isSealed = a.isSealed := by
  have e := congrArg Block.isSealed h
  exact e

theorem pfWarn_kettle {b : Block} (h : b.get R.KET_STAT_PFWARN = 0) : b.pfWarn.kettle = { b.kettle with req := none, good := 0 } := by
  rw [pfWarn_of_rising h]
  exact (settleAbandon_frame _).kettle

theorem pfWarn_mem (b : Block) : b.pfWarn.mem = b.mem := by
  by_cases h : b.get R.KET_STAT_PFWARN = 0
  · rw [pfWarn_of_rising h]
    exact (settleAbandon_frame _).mem.trans (by simp [Block.warnRegs, Block.dropRequest, Block.put64])
  · rw [pfWarn_of_warned h]

theorem pfWarn_isSealed (b : Block) : b.pfWarn.isSealed = b.isSealed := by
  by_cases h : b.get R.KET_STAT_PFWARN = 0
  · rw [pfWarn_of_rising h]
    exact (settleAbandon_frame _).isSealed.trans (by simp [Block.warnRegs, Block.dropRequest, Block.put64])
  · rw [pfWarn_of_warned h]

theorem warnRegs_get_ne (b : Block) {g : Fld} (hg : ∀ f ∈ [R.KET_STAT_PFWARN, R.KET_EVT_PFWARN, R.KET_PFT_LO_TNOW,
    R.KET_PFT_HI_TNOW, R.KET_STAT_THROTTLE], g.key ≠ f.key) : b.warnRegs.get g = b.get g := by
  unfold Block.warnRegs Block.dropRequest Block.put64 Block.raise Block.clear
  rw [Block.get_put_ne _ _ _ _ (hg _ (by simp)), Block.modKet_get, Block.get_put_ne _ _ _ _ (hg _ (by simp)),
    Block.get_put_ne _ _ _ _ (hg _ (by simp)), Block.get_put_ne _ _ _ _ (hg _ (by simp)), Block.get_put_ne _ _ _ _ (hg _ (by simp))]

theorem pfWarn_get (b : Block) {g : Fld} (hg : BesideWarning g) : b.pfWarn.get g = b.get g := by
  by_cases h : b.get R.KET_STAT_PFWARN = 0
  · obtain ⟨hlow, hne⟩ := hg
    rw [pfWarn_of_rising h, dripAbandon_get _ hlow (hne _ (by simp)) (hne _ (by simp)),
      settleKettle_get _ fun f hf => hne f (List.mem_append_right _ hf), Block.modKet_get]
    exact warnRegs_get_ne b fun f hf => hne f (List.mem_append_left _ (by simp at hf ⊢; tauto))
  · rw [pfWarn_of_warned h]

/-- The warning has risen over the block `b` (R286). -/
def Block.Risen (b k : Block) : Prop :=
  k.get R.KET_STAT_PFWARN = 1 ∧ k.get R.KET_EVT_PFWARN = 1 ∧ k.get R.KET_PFT_LO_TNOW = b.tnow % 2 ^ 32 ∧
    k.get R.KET_PFT_HI_TNOW = b.tnow / 2 ^ 32 % 2 ^ 32 ∧ k.kettle.req = none ∧ k.get R.KET_STAT_THROTTLE = 0 ∧ k.mem = b.mem

theorem warnRegs_get (b : Block) : b.warnRegs.get R.KET_STAT_PFWARN = 1 ∧ b.warnRegs.get R.KET_EVT_PFWARN = 1 ∧
    b.warnRegs.get R.KET_PFT_LO_TNOW = b.tnow % 2 ^ 32 ∧ b.warnRegs.get R.KET_PFT_HI_TNOW = b.tnow / 2 ^ 32 % 2 ^ 32 ∧
    b.warnRegs.get R.KET_STAT_THROTTLE = 0 := by
  have htnow : ((b.raise R.KET_STAT_PFWARN).raise R.KET_EVT_PFWARN).tnow = b.tnow := by
    unfold Block.tnow Block.get64 Block.raise
    simp (disch := decide) only [Block.get_put_ne]
  unfold Block.warnRegs
  dsimp only
  rw [htnow]
  have hmod (c : Block) (g : Fld) : (c.modKet fun k => { k with req := none }).get g = c.get g := rfl
  unfold Block.dropRequest Block.put64 Block.raise Block.clear
  simp (disch := decide) only [Block.get_put_ne, Block.get_put_same, hmod, Nat.zero_mod]
  exact ⟨rfl, rfl, rfl, rfl, trivial⟩

theorem pfWarn_risen {b : Block} (h : b.get R.KET_STAT_PFWARN = 0) : b.Risen b.pfWarn := by
  have hkeep {g : Fld} (hlow : g.key < 0x40000 * 32) (hp : g.key ≠ R.PWR_STAT_PHASE.key) (he : g.key ≠ R.PWR_EVT_ABANDON.key)
      (hs : ∀ f ∈ ketStatus, g.key ≠ f.key) : b.pfWarn.get g = b.warnRegs.get g := by
    rw [pfWarn_of_rising h, dripAbandon_get _ hlow hp he, settleKettle_get _ hs,
      Block.modKet_get]
  obtain ⟨hwarn, hevt, hlo, hhi, hthr⟩ := warnRegs_get b
  unfold Block.Risen
  rw [hkeep (g := R.KET_STAT_PFWARN) (by decide) (by decide) (by decide) (by decide),
    hkeep (g := R.KET_EVT_PFWARN) (by decide) (by decide) (by decide) (by decide),
    hkeep (g := R.KET_PFT_LO_TNOW) (by decide) (by decide) (by decide) (by decide),
    hkeep (g := R.KET_PFT_HI_TNOW) (by decide) (by decide) (by decide) (by decide),
    hkeep (g := R.KET_STAT_THROTTLE) (by decide) (by decide) (by decide) (by decide), pfWarn_kettle h]
  exact ⟨hwarn, hevt, hlo, hhi, rfl, hthr, pfWarn_mem b⟩

end Sys2Proof.Machine
end

section
/-! Samples at the Kettle (R269 to R271, R286). -/
namespace Sys2Proof.Machine

/-! ## The smallest code -/

theorem minOf_eq {l : List Nat} {m : Nat} (hmem : m ∈ l) (hle : ∀ x ∈ l, m ≤ x) : minOf l = m := by
  cases l with
  | nil => exact absurd hmem List.not_mem_nil
  | cons v vs =>
    have h : (v :: vs).min? = some m := List.min?_eq_some_iff.mpr ⟨hmem, hle⟩
    exact Option.some.inj h

/-! ## Energy -/

/-- E as the registers give it (R271). -/
theorem energy_eq (b : Block) : b.energy = if max (b.get R.KET_VMIN_VMIN) 1667 < b.get R.KET_VBANK_MIN16 ∧ b.get R.KET_STAT_ADCLOST = 0
    then b.get R.KET_CAP_CAP * (b.get R.KET_VBANK_MIN16 * b.get R.KET_VBANK_MIN16 -
      max (b.get R.KET_VMIN_VMIN) 1667 * max (b.get R.KET_VMIN_VMIN) 1667) * 9 * min (b.get R.KET_EFF_EFF) 1024 / 2048000000
    else 0 := by
  unfold Block.energy Block.flag
  simp

theorem refill_get (b : Block) : b.refill.get R.KET_STAT_ADCLOST =
    if 16 ≤ b.kettle.railN ∧ 16 ≤ b.kettle.bankN then 0 else b.get R.KET_STAT_ADCLOST := by
  unfold Block.refill
  split
  · exact Block.get_put_same ..
  · rfl

theorem refill_get_ne (b : Block) {g : Fld} (h : g.key ≠ R.KET_STAT_ADCLOST.key) : b.refill.get g = b.get g := by
  unfold Block.refill
  split
  · exact Block.get_put_ne _ _ _ _ h
  · rfl

theorem refill_frame (b : Block) : RegsOnly b b.refill := by
  unfold Block.refill
  split <;> rfl

theorem refill_kettle (b : Block) : b.refill.kettle = b.kettle := (refill_frame b).kettle

theorem newEnergy_get (b : Block) : b.newEnergy.get R.KET_E_E = b.energy % 2 ^ 32 := by
  unfold Block.newEnergy
  dsimp only
  rw [Block.modKet_get, Block.get_put_same]
  exact Nat.mod_mod _ _

theorem newEnergy_get_ne (b : Block) {g : Fld} (h : g.key ≠ R.KET_E_E.key) : b.newEnergy.get g = b.get g := by
  unfold Block.newEnergy
  dsimp only
  rw [Block.modKet_get, Block.get_put_ne _ _ _ _ h]

theorem newEnergy_kettle (b : Block) : b.newEnergy.kettle =
    { b.kettle with budget := b.newEnergy.get R.KET_E_E - b.get R.KET_MARGIN_MARGIN } := by
  rw [newEnergy_get]
  unfold Block.newEnergy
  dsimp only
  rw [Block.modKet_kettle, Block.put_kettle]

/-- Between two blocks nothing differs but registers and the Kettle's own state. -/
def RegsAndKettle (a b : Block) : Prop := { b with regs := a.regs, kettle := a.kettle } = a

theorem RegsAndKettle.isSealed {a b : Block} (h : RegsAndKettle a b) : b.isSealed = a.isSealed := by
  have e := congrArg Block.isSealed h
  exact e

/-! ## BANK samples -/

/-- The codes of the BANK channel with one more. -/
def Kettle.withBank (c : Kettle) (v : Nat) : Kettle := { c with bank := (v :: c.bank).take 16, bankN := min (c.bankN + 1) 16 }

/-- The block with a BANK code in its registers. -/
def Block.bankCode (b : Block) (v : Nat) : Block :=
  ((b.put R.KET_VBANK_LAST v).put R.KET_VBANK_MIN16 (minOf ((v :: b.kettle.bank).take 16))).modKet fun k => k.withBank v

theorem bankSample_eq (b : Block) (v : Nat) : b.bankSample v = (b.bankCode v).refill.newEnergy := rfl

theorem bankCode_keeps (b : Block) (v : Nat) : KeepsFields [R.KET_VBANK_LAST, R.KET_VBANK_MIN16] b (b.bankCode v) :=
  ((KeepsFields.refl _ b).put (f := R.KET_VBANK_LAST) (by simp) _).put (f := R.KET_VBANK_MIN16) (by simp) _

/-- The fields that a BANK sample writes, but for the status. -/
def bankFields : List Fld := [R.KET_VBANK_LAST, R.KET_VBANK_MIN16, R.KET_E_E, R.KET_STAT_ADCLOST]

theorem bankSample_get_ne (b : Block) (v : Nat) {g : Fld} (hg : ∀ f ∈ bankFields, g.key ≠ f.key) : (b.bankSample v).get g = b.get g := by
  rw [bankSample_eq, newEnergy_get_ne _ (hg _ (by simp [bankFields])), refill_get_ne _ (hg _ (by simp [bankFields])),
    bankCode_keeps b v g fun f hf => hg f (by simp [bankFields] at hf ⊢; tauto)]

theorem bankSample_frame (b : Block) (v : Nat) : RegsAndKettle b (b.bankSample v) := by
  have h := refill_frame (b.bankCode v)
  have e := congrArg (fun z : Block => { z with regs := b.regs, kettle := b.kettle }) h
  exact e

theorem bankCode_get_ne (b : Block) (v : Nat) {g : Fld} (hg : ∀ f ∈ [R.KET_VBANK_LAST, R.KET_VBANK_MIN16, R.KET_STAT_ADCLOST],
    g.key ≠ f.key) : (b.bankCode v).refill.get g = b.get g := by
  rw [refill_get_ne _ (hg _ (by simp)), bankCode_keeps b v g fun f hf => hg f (by simp at hf ⊢; tauto)]

theorem bankSample_min (b : Block) (v : Nat) :
    (b.bankSample v).get R.KET_VBANK_MIN16 = minOf ((v :: b.kettle.bank).take 16) % 2 ^ 14 := by
  rw [bankSample_eq, newEnergy_get_ne _ (by decide), refill_get_ne _ (by decide)]
  unfold Block.bankCode
  rw [Block.modKet_get, Block.get_put_same]
  rfl

theorem bankSample_last (b : Block) {v : Nat} (h : v < 2 ^ 14) : (b.bankSample v).get R.KET_VBANK_LAST = v := by
  rw [bankSample_eq, newEnergy_get_ne _ (by decide), refill_get_ne _ (by decide)]
  unfold Block.bankCode
  rw [Block.modKet_get, Block.get_put_ne _ _ _ _ (by decide), Block.get_put_same]
  exact Nat.mod_eq_of_lt h

theorem bankSample_lost (b : Block) (v : Nat) : (b.bankSample v).get R.KET_STAT_ADCLOST =
    if 16 ≤ b.kettle.railN ∧ 16 ≤ min (b.kettle.bankN + 1) 16 then 0 else b.get R.KET_STAT_ADCLOST := by
  rw [bankSample_eq, newEnergy_get_ne _ (by decide), refill_get, bankCode_keeps b v _ (by decide)]
  rfl

theorem bankSample_kettle (b : Block) (v : Nat) : (b.bankSample v).kettle =
    { b.kettle with
      bank := (v :: b.kettle.bank).take 16, bankN := min (b.kettle.bankN + 1) 16,
      budget := (b.bankSample v).get R.KET_E_E - b.get R.KET_MARGIN_MARGIN } := by
  rw [bankSample_eq, newEnergy_kettle, bankCode_get_ne b v (by decide), refill_kettle]
  rfl

theorem bankSample_energy (b : Block) (v : Nat) : (b.bankSample v).get R.KET_E_E =
    if max (b.get R.KET_VMIN_VMIN) 1667 < (b.bankSample v).get R.KET_VBANK_MIN16 ∧ (b.bankSample v).get R.KET_STAT_ADCLOST = 0
    then b.get R.KET_CAP_CAP * ((b.bankSample v).get R.KET_VBANK_MIN16 * (b.bankSample v).get R.KET_VBANK_MIN16 -
      max (b.get R.KET_VMIN_VMIN) 1667 * max (b.get R.KET_VMIN_VMIN) 1667) * 9 * min (b.get R.KET_EFF_EFF) 1024 / 2048000000 % 2 ^ 32
    else 0 := by
  rw [bankSample_eq, newEnergy_get, energy_eq, newEnergy_get_ne _ (by decide), newEnergy_get_ne _ (by decide),
    bankCode_get_ne b v (g := R.KET_VMIN_VMIN) (by decide), bankCode_get_ne b v (g := R.KET_CAP_CAP) (by decide),
    bankCode_get_ne b v (g := R.KET_EFF_EFF) (by decide)]
  split <;> rfl

theorem bankSample_sealed (b : Block) (v : Nat) : (b.bankSample v).settleKettle.isSealed = b.isSealed := by
  rw [(settleKettle_frame (b.bankSample v)).isSealed, (bankSample_frame b v).isSealed]

theorem bankSample_keeps (b : Block) (v : Nat) : KeepsFields (bankFields ++ ketStatus) b (b.bankSample v).settleKettle := by
  intro g hg
  rw [settleKettle_get _ fun f hf => hg f (List.mem_append_right _ hf)]
  exact bankSample_get_ne b v fun f hf => hg f (List.mem_append_left _ hf)

/-! ## RAIL samples -/

/-- The block with a RAIL code in its registers. -/
def Block.railCode (b : Block) (v : Nat) : Block :=
  ((b.put R.KET_VRAIL_LAST v).put R.KET_VRAIL_MIN16 (minOf ((v :: b.kettle.rail).take 16))).modKet fun k =>
    { k with rail := (v :: b.kettle.rail).take 16, railN := min (k.railN + 1) 16 }

/-- The block with a RAIL code counted, before a warning that it may raise. -/
def Block.railCounted (b : Block) (v : Nat) : Block :=
  let c := (b.railCode v).refill
  c.modKet fun k => { k with
    low := if v < c.get R.KET_PF_PFV then b.kettle.low + 1 else 0,
    good := if c.flag R.KET_STAT_PFWARN && decide (c.get R.KET_PF_PFV + c.get R.KET_PF_HYST ≤ v) then b.kettle.good + 1 else 0 }

theorem railSample_eq (b : Block) (v : Nat) : b.railSample v =
    if (b.railCounted v).get R.KET_PF_PFN < (b.railCounted v).kettle.low then (b.railCounted v).pfWarn else b.railCounted v := rfl

theorem railCode_keeps (b : Block) (v : Nat) : KeepsFields [R.KET_VRAIL_LAST, R.KET_VRAIL_MIN16] b (b.railCode v) :=
  ((KeepsFields.refl _ b).put (f := R.KET_VRAIL_LAST) (by simp) _).put (f := R.KET_VRAIL_MIN16) (by simp) _

theorem railCounted_get_ne (b : Block) (v : Nat) {g : Fld}
    (hg : ∀ f ∈ [R.KET_VRAIL_LAST, R.KET_VRAIL_MIN16, R.KET_STAT_ADCLOST], g.key ≠ f.key) : (b.railCounted v).get g = b.get g := by
  unfold Block.railCounted
  dsimp only
  rw [Block.modKet_get, refill_get_ne _ (hg _ (by simp)), railCode_keeps b v g fun f hf => hg f (by simp at hf ⊢; tauto)]

theorem railCounted_last (b : Block) {v : Nat} (h : v < 2 ^ 14) : (b.railCounted v).get R.KET_VRAIL_LAST = v := by
  unfold Block.railCounted
  dsimp only
  rw [Block.modKet_get, refill_get_ne _ (by decide)]
  unfold Block.railCode
  rw [Block.modKet_get, Block.get_put_ne _ _ _ _ (by decide), Block.get_put_same]
  exact Nat.mod_eq_of_lt h

theorem railCounted_min (b : Block) (v : Nat) :
    (b.railCounted v).get R.KET_VRAIL_MIN16 = minOf ((v :: b.kettle.rail).take 16) % 2 ^ 14 := by
  unfold Block.railCounted
  dsimp only
  rw [Block.modKet_get, refill_get_ne _ (by decide)]
  unfold Block.railCode
  rw [Block.modKet_get, Block.get_put_same]
  rfl

theorem railCounted_lost (b : Block) (v : Nat) : (b.railCounted v).get R.KET_STAT_ADCLOST =
    if 16 ≤ min (b.kettle.railN + 1) 16 ∧ 16 ≤ b.kettle.bankN then 0 else b.get R.KET_STAT_ADCLOST := by
  unfold Block.railCounted
  dsimp only
  rw [Block.modKet_get, refill_get, railCode_keeps b v _ (by decide)]
  rfl

theorem railCounted_kettle (b : Block) (v : Nat) : (b.railCounted v).kettle.rail = (v :: b.kettle.rail).take 16 ∧
    (b.railCounted v).kettle.bank = b.kettle.bank ∧
    (b.railCounted v).kettle.low = if v < b.get R.KET_PF_PFV then b.kettle.low + 1 else 0 := by
  have hpfv : (b.railCode v).refill.get R.KET_PF_PFV = b.get R.KET_PF_PFV := by
    rw [refill_get_ne _ (by decide), railCode_keeps b v _ (by decide)]
  unfold Block.railCounted
  dsimp only
  rw [Block.modKet_kettle, refill_kettle, hpfv]
  exact ⟨rfl, rfl, rfl⟩

theorem railCounted_frame (b : Block) (v : Nat) : RegsAndKettle b (b.railCounted v) := by
  have h := refill_frame (b.railCode v)
  have e := congrArg (fun z : Block => { z with regs := b.regs, kettle := b.kettle }) h
  exact e

/-- The warning rises on a RAIL sample exactly as R286 says. -/
theorem railSample_rises {b : Block} {v : Nat} :
    (b.railCounted v).get R.KET_PF_PFN < (b.railCounted v).kettle.low ↔ v < b.get R.KET_PF_PFV ∧ b.get R.KET_PF_PFN ≤ b.kettle.low := by
  rw [(railCounted_kettle b v).2.2, railCounted_get_ne b v (by decide)]
  split
  · omega
  · omega

/-- What a warning leaves alone, a RAIL sample has as it was counted. -/
theorem railSample_get (b : Block) (v : Nat) {g : Fld} (hg : BesideWarning g) : (b.railSample v).get g = (b.railCounted v).get g := by
  rw [railSample_eq]
  split
  · exact pfWarn_get _ hg
  · rfl

theorem pfWarn_codes (b : Block) : b.pfWarn.kettle.rail = b.kettle.rail ∧ b.pfWarn.kettle.bank = b.kettle.bank := by
  by_cases h : b.get R.KET_STAT_PFWARN = 0
  · rw [pfWarn_kettle h]
    exact ⟨rfl, rfl⟩
  · rw [pfWarn_of_warned h]
    exact ⟨rfl, rfl⟩

theorem railSample_codes (b : Block) (v : Nat) :
    (b.railSample v).kettle.rail = (v :: b.kettle.rail).take 16 ∧ (b.railSample v).kettle.bank = b.kettle.bank := by
  obtain ⟨hrail, hbank, -⟩ := railCounted_kettle b v
  obtain ⟨hr, hb⟩ := pfWarn_codes (b.railCounted v)
  rw [railSample_eq]
  split
  · exact ⟨hr.trans hrail, hb.trans hbank⟩
  · exact ⟨hrail, hbank⟩

theorem tnow_congr {b c : Block} (hlo : c.get R.TNOW_LO_TNOW = b.get R.TNOW_LO_TNOW) (hhi : c.get R.TNOW_HI_TNOW = b.get R.TNOW_HI_TNOW) :
    c.tnow = b.tnow := by
  unfold Block.tnow Block.get64
  rw [hlo, hhi]

theorem Risen.settled {b k : Block} (h : b.Risen k) : b.Risen k.settleKettle := by
  unfold Block.Risen at h ⊢
  rwa [settleKettle_get _ (by decide), settleKettle_get _ (by decide), settleKettle_get _ (by decide), settleKettle_get _ (by decide),
    settleKettle_get _ (by decide), settleKettle_kettle, (settleKettle_frame k).mem]

theorem railSample_warned (b : Block) (v : Nat) :
    if b.get R.KET_STAT_PFWARN = 0 ∧ v < b.get R.KET_PF_PFV ∧ b.get R.KET_PF_PFN ≤ b.kettle.low then b.Risen (b.railSample v)
    else (b.railSample v).get R.KET_STAT_PFWARN = b.get R.KET_STAT_PFWARN := by
  have hwarn : (b.railCounted v).get R.KET_STAT_PFWARN = b.get R.KET_STAT_PFWARN := railCounted_get_ne b v (by decide)
  have hmem : (b.railCounted v).mem = b.mem := by
    have e := congrArg Block.mem (railCounted_frame b v)
    exact e
  have htnow : (b.railCounted v).tnow = b.tnow := tnow_congr (railCounted_get_ne b v (by decide)) (railCounted_get_ne b v (by decide))
  split
  next h =>
    rw [railSample_eq, if_pos (railSample_rises.mpr h.2)]
    have hrisen := pfWarn_risen (hwarn.trans h.1)
    unfold Block.Risen at hrisen ⊢
    rwa [htnow, hmem] at hrisen
  next h =>
    rw [railSample_eq]
    split
    next hlow =>
      have hwas : (b.railCounted v).get R.KET_STAT_PFWARN ≠ 0 := by
        have := railSample_rises.mp hlow
        rw [hwarn]
        tauto
      rw [pfWarn_of_warned hwas]
      exact hwarn
    next => exact hwarn

theorem railSample_sealed (b : Block) (v : Nat) : (b.railSample v).settleKettle.isSealed = b.isSealed := by
  rw [(settleKettle_frame _).isSealed, railSample_eq]
  split
  · rw [pfWarn_isSealed, (railCounted_frame b v).isSealed]
  · exact (railCounted_frame b v).isSealed

/-! ## Lost samples -/

/-- The block with ADCLOST set and both channels' counts started anew. -/
def Block.lostMarked (b : Block) : Block :=
  (b.follow R.KET_STAT_ADCLOST R.KET_EVT_ADCLOST true).modKet fun k => { k with railN := 0, bankN := 0 }

theorem lostMarked_kettle (b : Block) : b.lostMarked.kettle = { b.kettle with railN := 0, bankN := 0 } := by
  unfold Block.lostMarked
  rw [Block.modKet_kettle, ((RegsOnly.refl b).follow _ _ _).kettle]

theorem lostMarked_lost (b : Block) : b.lostMarked.get R.KET_STAT_ADCLOST = 1 := follow_get_stat _ _ _ _ rfl

theorem newEnergy_of_lost {b : Block} (h : b.get R.KET_STAT_ADCLOST = 1) : b.energy = 0 := by
  rw [energy_eq, if_neg (by omega)]

theorem gives_adcLost (s : State) :
    Gives .adcLost s fun t => t.blk.get R.KET_STAT_ADCLOST = 1 ∧ t.blk.get R.KET_E_E = 0 ∧
      t.blk.KetSettled (s.blk.get R.KET_LOWE_LOWE) ∧ (s.blk.get R.KET_STAT_ADCLOST = 0 → t.blk.get R.KET_EVT_ADCLOST = 1) ∧
      t.blk.kettle = { s.blk.kettle with railN := 0, bankN := 0, budget := 0 } := by
  have hlost : s.blk.lostMarked.newEnergy.get R.KET_STAT_ADCLOST = 1 := (newEnergy_get_ne _ (by decide)).trans (lostMarked_lost _)
  have henergy : s.blk.lostMarked.newEnergy.get R.KET_E_E = 0 := by
    rw [newEnergy_get, newEnergy_of_lost (lostMarked_lost _)]
    rfl
  have hlow : s.blk.lostMarked.newEnergy.get R.KET_LOWE_LOWE = s.blk.get R.KET_LOWE_LOWE :=
    (newEnergy_get_ne _ (by decide)).trans (follow_get_ne _ _ _ _ (by decide) (by decide))
  have hevt (h : s.blk.get R.KET_STAT_ADCLOST = 0) : s.blk.lostMarked.newEnergy.get R.KET_EVT_ADCLOST = 1 := by
    rw [newEnergy_get_ne _ (by decide)]
    exact (follow_get_evt _ _ _ _ (by decide) rfl).trans (if_pos ⟨rfl, h⟩)
  have hkettle : s.blk.lostMarked.newEnergy.kettle = { s.blk.kettle with railN := 0, bankN := 0, budget := 0 } := by
    rw [newEnergy_kettle, henergy, lostMarked_kettle, Nat.zero_sub]
  refine gives_of_done (b := s.blk.lostMarked.newEnergy.settleKettle) rfl ?_ ⟨?_, ?_, settleKettle_settled hlow, fun h => ?_, ?_⟩
  · rw [(settleKettle_frame _).isSealed]
    exact ((RegsOnly.refl s.blk).follow _ _ _).isSealed
  · exact (settleKettle_get _ (by decide)).trans hlost
  · exact (settleKettle_get _ (by decide)).trans henergy
  · exact (settleKettle_get _ (by decide)).trans (hevt h)
  · exact (settleKettle_kettle _).trans hkettle

end Sys2Proof.Machine
end

section
/-! The Kettle's cycle, its strobes and the throttle (R273 to R279). -/
namespace Sys2Proof.Machine

/-! ## Blocks beside the request -/

section
variable {a b : Block}

theorem RegsAndReq.isSealed (h : RegsAndReq a b) : b.isSealed = a.isSealed := by
  have e := congrArg Block.isSealed h
  exact e

theorem RegsAndReq.mem (h : RegsAndReq a b) : b.mem = a.mem := by
  have e := congrArg Block.mem h
  exact e

theorem RegsAndReq.extAns (h : RegsAndReq a b) : b.extAns = a.extAns := by
  have e := congrArg Block.extAns h
  exact e

theorem RegsAndReq.strobes (h : RegsAndReq a b) : b.strobes = a.strobes := by
  have e := congrArg Block.strobes h
  exact e

theorem RegsAndReq.kettle (h : RegsAndReq a b) : b.kettle = { a.kettle with req := b.kettle.req } := by
  have e := congrArg (fun z : Block => { z.kettle with req := b.kettle.req }) h
  exact e

theorem RegsAndReq.regsOnly {c : Block} (h : RegsAndReq a b) (k : RegsOnly b c) : RegsAndReq a c := by
  have e := congrArg (fun z : Block => { z with regs := a.regs, kettle := { z.kettle with req := a.kettle.req } }) k
  exact e.trans h

end

/-- What follows a decision of the Kettle. -/
def Block.ketAfter (b : Block) : Block := b.settleIntake.settleKettle

theorem ketAfter_frame (b : Block) : RegsAndReq b b.ketAfter := (settleIntake_frame b).regsOnly (settleKettle_frame _)

theorem ketAfter_get (b : Block) {g : Fld} (hh : ∀ f ∈ heldRegs, g.key ≠ f.key) (hs : ∀ f ∈ ketStatus, g.key ≠ f.key) :
    b.ketAfter.get g = b.get g :=
  (settleKettle_get _ hs).trans (settleIntake_keeps b g hh)

theorem ketAfter_settled {b : Block} {low : Nat} (h : b.get R.KET_LOWE_LOWE = low) : b.ketAfter.KetSettled low :=
  settleKettle_settled ((settleIntake_keeps b _ (by decide)).trans h)

theorem ketAfter_kettle {b : Block} (h : b.reqOut = true ∨ b.flag R.INT_CTRL_HOLD = true) : b.ketAfter.kettle = b.kettle :=
  (settleKettle_kettle _).trans (settleIntake_kettle h)

/-! ## A cycle without strobes -/

theorem extServe_none {b : Block} {n op : Nat} {world : Option Nat} {f : Strobe → Block → Block × Except Nat W64}
    (h : b.strobeOf n op = none) : b.extServe n op world f = b := by
  unfold Block.extServe
  rw [h]

theorem strobeOf_nil {b : Block} (h : b.strobes = []) (n op : Nat) : b.strobeOf n op = none := by
  unfold Block.strobeOf
  rw [h]
  rfl

theorem forEach_extServe_none {b : Block} {m op : Nat} {world : Option Nat} {f : Strobe → Block → Block × Except Nat W64}
    (h : ∀ n < m, b.strobeOf n op = none) : forEach m (fun n c => c.extServe n op world f) b = b :=
  forEach_keeps (fun c => c = b) m _ b rfl fun n c hn hc => by
    subst hc
    exact extServe_none (h n hn)

/-- The block at the start of an AON cycle of the Kettle: a pending request has its cycle counted. -/
def Block.ketCounted (b : Block) : Block := if b.kettle.req.isSome then b.countGlob 0x04 1 else b

/-- The block once the releases and withdrawals of the cycle are applied (R275). -/
def Block.ketApplied (b : Block) : Block :=
  b.kettle.usable.foldl Block.applyKetIn (b.ketCounted.modKet fun k => { k with usable := [] })

theorem ketCounted_frame (b : Block) : RegsOnly b b.ketCounted := by
  unfold Block.ketCounted
  split
  · exact countGlob_frame b 0x04 1
  · rfl

theorem ketCounted_get (b : Block) {g : Fld} (hg : g.key < 0x40000 * 32) : b.ketCounted.get g = b.get g := by
  unfold Block.ketCounted
  split
  · refine countGlob_get b 0x04 1 fun i _ => ?_
    simp only [Fld.key, R.GPC_COUNT] at hg ⊢
    omega
  · rfl

theorem ketCycle_eq (b : Block) (n : Nat) : b.ketCycle n = forEach n (fun n b => b.extServe n 0x80 (some 8) Block.opReserve)
    (forEach 72 (fun n b => b.extServe n 0x81 (some 8) Block.opUnreserve) b.ketApplied).testRequest := by
  unfold Block.ketCycle Block.ketApplied
  dsimp only
  rw [show (if b.kettle.req.isSome then b.countGlob 0x04 1 else b).kettle = b.kettle from (ketCounted_frame b).kettle]
  rfl

theorem dropRequest_strobes (b : Block) : b.dropRequest.strobes = b.strobes := rfl

theorem applyKetIn_strobes (b : Block) (x : KetIn) : (b.applyKetIn x).strobes = b.strobes := by
  cases x with
  | release r => rfl
  | withdraw t tseq =>
    unfold Block.applyKetIn
    dsimp only
    split
    · split <;> rfl
    · rfl

theorem ketApplied_strobes (b : Block) : b.ketApplied.strobes = b.strobes := by
  unfold Block.ketApplied
  generalize b.kettle.usable = l
  have h0 : (b.ketCounted.modKet fun k => { k with usable := [] }).strobes = b.strobes := by
    have e := congrArg Block.strobes (ketCounted_frame b)
    exact e
  generalize (b.ketCounted.modKet fun k => { k with usable := [] }) = c at h0 ⊢
  induction l generalizing c with
  | nil => exact h0
  | cons x l ih => exact ih _ ((applyKetIn_strobes c x).trans h0)

theorem testRequest_strobes (b : Block) : b.testRequest.strobes = b.strobes := by
  unfold Block.testRequest
  split
  · rfl
  · dsimp only
    split <;> rfl

theorem ketCycle_quiet {b : Block} (h : b.strobes = []) (n : Nat) : b.ketCycle n = b.ketApplied.testRequest := by
  have happ : b.ketApplied.strobes = [] := (ketApplied_strobes b).trans h
  rw [ketCycle_eq, forEach_extServe_none fun m _ => strobeOf_nil happ m _]
  exact forEach_extServe_none fun m _ => strobeOf_nil ((testRequest_strobes _).trans happ) m _

/-! ## The Intake's request tested -/

/-- The amount of a pending request (R273). -/
def Block.askedFor (b : Block) (p : KetReq) : Nat := p.amount.getD (b.amountOf p.clen)

/-- A pending request may be granted (R274, R278). -/
def Block.grants (b : Block) (p : KetReq) : Prop :=
  (b.get R.KET_CTRL_EN ≠ 0 ∧ b.get R.KET_STAT_PFWARN = 0) ∧ b.get R.KET_RESV_RESV + b.askedFor p ≤ b.kettle.budget

theorem ketOpen_eq_true {b : Block} : b.ketOpen = true ↔
    b.get R.KET_CTRL_EN ≠ 0 ∧ b.get R.KET_STAT_PFWARN = 0 ∧ b.get R.KET_RESV_RESV ≤ b.kettle.budget := by
  unfold Block.ketOpen Block.flag
  simp [and_assoc]

theorem fits_eq_true {b : Block} {r : Nat} : b.fits r = true ↔ b.get R.KET_RESV_RESV + r ≤ b.kettle.budget := decide_eq_true_iff

theorem testRequest_cond (b : Block) (p : KetReq) :
    ((b.inc R.KET_STALL_COUNT 1).ketOpen && (b.inc R.KET_STALL_COUNT 1).fits (b.askedFor p)) = true ↔ b.grants p := by
  have hget {g : Fld} (hg : g.key ≠ R.KET_STALL_COUNT.key) : (b.inc R.KET_STALL_COUNT 1).get g = b.get g := Block.get_put_ne _ _ _ _ hg
  rw [Bool.and_eq_true, ketOpen_eq_true, fits_eq_true, hget (by decide), hget (by decide), hget (by decide)]
  unfold Block.grants
  show _ ∧ _ ≤ b.kettle.budget ↔ _
  have : (b.inc R.KET_STALL_COUNT 1).kettle = b.kettle := rfl
  rw [this]
  omega

theorem testRequest_none {b : Block} (h : b.kettle.req = none) : b.testRequest = b := by
  unfold Block.testRequest
  rw [h]

theorem testRequest_granted {b : Block} {p : KetReq} (h : b.kettle.req = some p) (hg : b.grants p) : b.testRequest =
    ((b.inc R.KET_STALL_COUNT 1).dropRequest.reserve (b.askedFor p)).modKet fun k =>
      { k with grant := some (p.tag, p.tseq, b.askedFor p) } := by
  unfold Block.testRequest
  rw [h]
  exact if_pos ((testRequest_cond b p).mpr hg)

theorem testRequest_held {b : Block} {p : KetReq} (h : b.kettle.req = some p) (hg : ¬ b.grants p) : b.testRequest =
    (b.inc R.KET_STALL_COUNT 1).modKet fun k => { k with req := some { p with amount := some (b.askedFor p) } } := by
  unfold Block.testRequest
  rw [h]
  exact if_neg fun hc => hg ((testRequest_cond b p).mp hc)

theorem execKettleCycle_quiet {s : State} (h : s.blk.strobes = []) :
    exec .kettleCycle s = done s s.blk.ketApplied.testRequest.ketAfter := by
  show execKettleCycle s = _
  unfold execKettleCycle
  rw [ketCycle_quiet h]
  rfl

/-- Nothing returned: the cycle starts at the request. -/
theorem ketApplied_of_nil {b : Block} (h : b.kettle.usable = []) : b.ketApplied.kettle = b.kettle ∧ RegsOnly b b.ketApplied ∧
    ∀ {g : Fld}, g.key < 0x40000 * 32 → b.ketApplied.get g = b.get g := by
  have hk : b.ketApplied = b.ketCounted.modKet fun k => { k with usable := [] } := by
    unfold Block.ketApplied
    rw [h]
    rfl
  have hkettle : b.ketApplied.kettle = b.kettle := by
    rw [hk, Block.modKet_kettle, (ketCounted_frame b).kettle, ← h]
  refine ⟨hkettle, ?_, fun hg => ?_⟩
  · have e := congrArg (fun z : Block => { z with kettle := b.ketApplied.kettle }) (ketCounted_frame b)
    rw [hk] at e ⊢
    refine e.trans ?_
    rw [← hk, hkettle]
  · rw [hk, Block.modKet_get, ketCounted_get b hg]

theorem askedFor_congr {b c : Block} (h : ∀ {g : Fld}, g.key < 0x40000 * 32 → c.get g = b.get g) (p : KetReq) :
    c.askedFor p = b.askedFor p := by
  unfold Block.askedFor Block.amountOf
  rw [h (g := R.KET_COEF_BCOEF) (by decide), h (g := R.KET_COEF_UCOEF) (by decide)]

theorem grants_congr {b c : Block} (h : ∀ {g : Fld}, g.key < 0x40000 * 32 → c.get g = b.get g) (hk : c.kettle = b.kettle) (p : KetReq) :
    c.grants p ↔ b.grants p := by
  unfold Block.grants
  rw [askedFor_congr h, h (g := R.KET_CTRL_EN) (by decide), h (g := R.KET_STAT_PFWARN) (by decide), h (g := R.KET_RESV_RESV) (by decide), hk]

/-! ## KETTLE_CYCLE -/

section
variable {s : State} {p : KetReq}

theorem gives_cycle_granted (hs : s.blk.strobes = []) (hu : s.blk.kettle.usable = []) (hreq : s.blk.kettle.req = some p)
    (hg : s.blk.grants p) :
    Gives .kettleCycle s fun t => t.blk.kettle = { s.blk.kettle with
        req := none, grant := some (p.tag, p.tseq, s.blk.askedFor p) } ∧
      t.blk.get R.KET_RESV_RESV = (s.blk.get R.KET_RESV_RESV + s.blk.askedFor p) % 2 ^ 32 ∧
      t.blk.get R.KET_GRANT_COUNT = (s.blk.get R.KET_GRANT_COUNT + 1) % 2 ^ 32 ∧ t.blk.get R.KET_STAT_THROTTLE = 0 ∧
      t.blk.KetSettled (s.blk.get R.KET_LOWE_LOWE) ∧ t.blk.get R.KET_STALL_COUNT = (s.blk.get R.KET_STALL_COUNT + 1) % 2 ^ 32 ∧
      t.blk.mem = s.blk.mem := by
  obtain ⟨hkettle, hframe, hget⟩ := ketApplied_of_nil hu
  have hask := askedFor_congr (fun {g} => hget (g := g)) p
  have htest := testRequest_granted (hkettle ▸ hreq) ((grants_congr (fun {g} => hget (g := g)) hkettle p).mpr hg)
  rw [hask] at htest
  have hexec := execKettleCycle_quiet hs
  generalize s.blk.ketApplied = c at hkettle hframe hget htest hexec
  generalize c.testRequest = d at htest hexec
  have hdk : d.kettle = { s.blk.kettle with req := none, grant := some (p.tag, p.tseq, s.blk.askedFor p) } := by
    rw [htest, ← hkettle]
    rfl
  have hout : d.reqOut = true := by
    unfold Block.reqOut
    rw [hdk]
    rfl
  have hdget {g : Fld} (hne : ∀ f ∈ [R.KET_STALL_COUNT, R.KET_STAT_THROTTLE, R.KET_RESV_RESV, R.KET_GRANT_COUNT], g.key ≠ f.key) :
      d.get g = c.get g := by
    rw [htest]
    unfold Block.reserve Block.dropRequest Block.inc Block.clear
    rw [Block.modKet_get, Block.get_put_ne _ _ _ _ (hne _ (by simp)), Block.get_put_ne _ _ _ _ (hne _ (by simp)),
      Block.get_put_ne _ _ _ _ (hne _ (by simp)), Block.modKet_get, Block.get_put_ne _ _ _ _ (hne _ (by simp))]
  have hregs : d.get R.KET_RESV_RESV = (c.get R.KET_RESV_RESV + s.blk.askedFor p) % 2 ^ 32 ∧
      d.get R.KET_GRANT_COUNT = (c.get R.KET_GRANT_COUNT + 1) % 2 ^ 32 ∧ d.get R.KET_STAT_THROTTLE = 0 ∧
      d.get R.KET_STALL_COUNT = (c.get R.KET_STALL_COUNT + 1) % 2 ^ 32 := by
    rw [htest]
    unfold Block.reserve Block.dropRequest Block.inc Block.clear
    simp (disch := decide) only [Block.modKet_get, Block.get_put_same, Block.get_put_ne, Nat.zero_mod]
    exact ⟨rfl, rfl, trivial, rfl⟩
  obtain ⟨hresv, hcount, hthr, hstall⟩ := hregs
  have hlow : d.get R.KET_LOWE_LOWE = s.blk.get R.KET_LOWE_LOWE := (hdget (by decide)).trans (hget (by decide))
  have hsame : d.mem = c.mem ∧ d.isSealed = c.isSealed := by
    rw [htest]
    exact ⟨rfl, rfl⟩
  refine gives_of_done (b := d.ketAfter) hexec ((ketAfter_frame d).isSealed.trans (hsame.2.trans hframe.isSealed)) ⟨(ketAfter_kettle (.inl hout)).trans hdk, ?_, ?_, ?_,
      ketAfter_settled hlow, ?_, (ketAfter_frame d).mem.trans (hsame.1.trans hframe.mem)⟩
  · exact (ketAfter_get d (by decide) (by decide)).trans (by rw [hresv, hget (by decide)])
  · exact (ketAfter_get d (by decide) (by decide)).trans (by rw [hcount, hget (by decide)])
  · exact (ketAfter_get d (by decide) (by decide)).trans hthr
  · exact (ketAfter_get d (by decide) (by decide)).trans (by rw [hstall, hget (by decide)])

theorem gives_cycle_held (hs : s.blk.strobes = []) (hu : s.blk.kettle.usable = []) (hreq : s.blk.kettle.req = some p)
    (hg : ¬ s.blk.grants p) :
    Gives .kettleCycle s fun t => t.blk.kettle = { s.blk.kettle with req := some { p with amount := some (s.blk.askedFor p) } } ∧
      t.blk.get R.KET_RESV_RESV = s.blk.get R.KET_RESV_RESV ∧ t.blk.KetSettled (s.blk.get R.KET_LOWE_LOWE) ∧
      t.blk.get R.KET_STALL_COUNT = (s.blk.get R.KET_STALL_COUNT + 1) % 2 ^ 32 := by
  obtain ⟨hkettle, hframe, hget⟩ := ketApplied_of_nil hu
  have hask := askedFor_congr (fun {g} => hget (g := g)) p
  have htest := testRequest_held (hkettle ▸ hreq) fun hc => hg ((grants_congr (fun {g} => hget (g := g)) hkettle p).mp hc)
  rw [hask] at htest
  have hexec := execKettleCycle_quiet hs
  generalize s.blk.ketApplied = c at hkettle hframe hget htest hexec
  generalize c.testRequest = d at htest hexec
  have hdk : d.kettle = { s.blk.kettle with req := some { p with amount := some (s.blk.askedFor p) } } := by
    rw [htest, ← hkettle]
    rfl
  have hout : d.reqOut = true := by
    unfold Block.reqOut
    rw [hdk]
    rfl
  have hdget {g : Fld} (hne : g.key ≠ R.KET_STALL_COUNT.key) : d.get g = c.get g := by
    rw [htest]
    exact Block.get_put_ne _ _ _ _ hne
  have hstall : d.get R.KET_STALL_COUNT = (c.get R.KET_STALL_COUNT + 1) % 2 ^ 32 := by
    rw [htest]
    exact Block.get_put_same ..
  have hsealed : d.isSealed = c.isSealed := by
    rw [htest]
    rfl
  have hlow : d.get R.KET_LOWE_LOWE = s.blk.get R.KET_LOWE_LOWE := (hdget (by decide)).trans (hget (by decide))
  refine gives_of_done (b := d.ketAfter) hexec ((ketAfter_frame d).isSealed.trans (hsealed.trans hframe.isSealed))
    ⟨(ketAfter_kettle (.inl hout)).trans hdk, ?_, ketAfter_settled hlow, ?_⟩
  · exact (ketAfter_get d (by decide) (by decide)).trans ((hdget (by decide)).trans (hget (by decide)))
  · exact (ketAfter_get d (by decide) (by decide)).trans (by rw [hstall, hget (by decide)])

theorem gives_cycle_release {r : Nat} (hs : s.blk.strobes = []) (hu : s.blk.kettle.usable = [.release r])
    (hreq : s.blk.kettle.req = none) :
    Gives .kettleCycle s fun t => t.blk.get R.KET_RESV_RESV = (s.blk.get R.KET_RESV_RESV - r) % 2 ^ 32 ∧
      t.blk.KetSettled (s.blk.get R.KET_LOWE_LOWE) ∧ t.blk.kettle.usable = [] := by
  have happ : s.blk.ketApplied = (s.blk.modKet fun k => { k with usable := [] }).unreserve r := by
    unfold Block.ketApplied Block.ketCounted
    rw [hu, hreq]
    rfl
  have hexec := execKettleCycle_quiet hs
  rw [happ, testRequest_none (by exact hreq)] at hexec
  refine gives_of_done hexec ((ketAfter_frame _).isSealed.trans rfl) ⟨?_, ketAfter_settled ?_, ?_⟩
  · exact (ketAfter_get _ (by decide) (by decide)).trans (Block.get_put_same ..)
  · exact Block.get_put_ne _ _ _ _ (by decide)
  · exact congrArg Kettle.usable (ketAfter_frame ((s.blk.modKet fun k => { k with usable := [] }).unreserve r)).kettle

theorem gives_cycle_withdraw (hs : s.blk.strobes = []) (hu : s.blk.kettle.usable = [.withdraw p.tag p.tseq])
    (hreq : s.blk.kettle.req = some p) (hhold : s.blk.get R.INT_CTRL_HOLD ≠ 0) :
    Gives .kettleCycle s fun t => t.blk.get R.KET_RESV_RESV = s.blk.get R.KET_RESV_RESV ∧ t.blk.kettle.req = none ∧
      t.blk.get R.KET_STAT_THROTTLE = 0 := by
  have hcount : s.blk.ketCounted.kettle = s.blk.kettle := (ketCounted_frame _).kettle
  have happ : s.blk.ketApplied = (s.blk.ketCounted.modKet fun k => { k with usable := [] }).dropRequest := by
    unfold Block.ketApplied Block.applyKetIn
    rw [hu, List.foldl_cons, List.foldl_nil, Block.modKet_kettle, hcount, hreq]
    exact if_pos ⟨rfl, rfl⟩
  have hexec := execKettleCycle_quiet hs
  rw [happ] at hexec
  generalize hd : (s.blk.ketCounted.modKet fun k => { k with usable := [] }).dropRequest = d at hexec
  have hnone : d.kettle.req = none := by
    rw [← hd]
    rfl
  have hget {g : Fld} (hlow : g.key < 0x40000 * 32) (hne : g.key ≠ R.KET_STAT_THROTTLE.key) : d.get g = s.blk.get g := by
    rw [← hd]
    unfold Block.dropRequest Block.clear
    rw [Block.get_put_ne _ _ _ _ hne, Block.modKet_get, Block.modKet_get, ketCounted_get _ hlow]
  have hthr : d.get R.KET_STAT_THROTTLE = 0 := by
    rw [← hd]
    exact Block.get_put_same ..
  have hsealed : d.isSealed = s.blk.isSealed := by
    rw [← hd]
    exact (ketCounted_frame s.blk).isSealed
  have hflag : d.flag R.INT_CTRL_HOLD = true := by
    unfold Block.flag
    rw [hget (by decide) (by decide)]
    exact bne_iff_ne.mpr hhold
  rw [testRequest_none hnone] at hexec
  refine gives_of_done (b := d.ketAfter) hexec ((ketAfter_frame d).isSealed.trans hsealed) ⟨?_, ?_, ?_⟩
  · exact (ketAfter_get d (by decide) (by decide)).trans (hget (by decide) (by decide))
  · exact (congrArg Kettle.req (ketAfter_kettle (.inr hflag))).trans hnone
  · exact (ketAfter_get d (by decide) (by decide)).trans hthr

end

/-! ## KETTLE_RESERVE -/

/-- What a cycle of the Kettle keeps of a block, whatever strobes it serves. -/
def CycleKept (a b : Block) : Prop := b.isSealed = a.isSealed ∧ b.get R.KET_LOWE_LOWE = a.get R.KET_LOWE_LOWE

theorem CycleKept.trans {a b c : Block} (h : CycleKept a b) (k : CycleKept b c) : CycleKept a c :=
  ⟨k.1.trans h.1, k.2.trans h.2⟩

theorem unreserve_kept (b : Block) (r : Nat) : CycleKept b (b.unreserve r) := ⟨rfl, Block.get_put_ne _ _ _ _ (by decide)⟩

theorem dropRequest_kept (b : Block) : CycleKept b b.dropRequest := ⟨rfl, Block.get_put_ne _ _ _ _ (by decide)⟩

theorem reserve_kept (b : Block) (r : Nat) : CycleKept b (b.reserve r) :=
  ⟨rfl, (Block.get_put_ne _ _ _ _ (by decide)).trans (Block.get_put_ne _ _ _ _ (by decide))⟩

theorem settleKettle_kept (b : Block) : CycleKept b b.settleKettle := ⟨(settleKettle_frame b).isSealed, settleKettle_get b (by decide)⟩

theorem applyKetIn_kept (b : Block) (x : KetIn) : CycleKept b (b.applyKetIn x) := by
  cases x with
  | release r => exact unreserve_kept b r
  | withdraw t tseq =>
    unfold Block.applyKetIn
    dsimp only
    split
    · split
      · exact dropRequest_kept b
      · exact ⟨rfl, rfl⟩
    · exact ⟨rfl, rfl⟩

theorem ketApplied_kept (b : Block) : CycleKept b b.ketApplied := by
  unfold Block.ketApplied
  generalize b.kettle.usable = l
  have h0 : CycleKept b (b.ketCounted.modKet fun k => { k with usable := [] }) :=
    ⟨(ketCounted_frame b).isSealed, ketCounted_get b (by decide)⟩
  generalize (b.ketCounted.modKet fun k => { k with usable := [] }) = c at h0 ⊢
  induction l generalizing c with
  | nil => exact h0
  | cons x l ih => exact ih _ (h0.trans (applyKetIn_kept c x))

theorem testRequest_kept (b : Block) : CycleKept b b.testRequest := by
  unfold Block.testRequest
  split
  · exact ⟨rfl, rfl⟩
  · have hinc : CycleKept b (b.inc R.KET_STALL_COUNT 1) := ⟨rfl, Block.get_put_ne _ _ _ _ (by decide)⟩
    dsimp only
    split
    · obtain ⟨hseal, hlow⟩ := hinc.trans ((dropRequest_kept _).trans (reserve_kept _ _))
      exact ⟨hseal, hlow⟩
    · exact hinc

theorem opReserve_kept (q : Strobe) (b : Block) : CycleKept b (Block.opReserve q b).1 := by
  unfold Block.opReserve
  dsimp only
  repeat' split
  · exact ⟨rfl, rfl⟩
  · exact ⟨rfl, rfl⟩
  · exact ⟨rfl, rfl⟩
  · exact (reserve_kept b _).trans (settleKettle_kept _)

theorem opUnreserve_kept (q : Strobe) (b : Block) : CycleKept b (Block.opUnreserve q b).1 := by
  unfold Block.opUnreserve
  dsimp only
  split
  · exact ⟨rfl, rfl⟩
  · exact (unreserve_kept b _).trans (settleKettle_kept _)

theorem extServe_kept {f : Strobe → Block → Block × Except Nat W64} (hf : ∀ q b, CycleKept b (f q b).1) (b : Block) (n op w : Nat) :
    CycleKept b (b.extServe n op (some w) f) := by
  cases h : b.strobeOf n op with
  | none =>
    rw [extServe_none h]
    exact ⟨rfl, rfl⟩
  | some q =>
    cases ht : q.tenant with
    | true =>
      rw [extServe_refused h ht]
      exact ⟨rfl, rfl⟩
    | false =>
      rw [extServe_taken h (.inr ht)]
      exact hf q b

theorem ketCycle_kept (b : Block) (n : Nat) : CycleKept b (b.ketCycle n) := by
  rw [ketCycle_eq]
  have hrel : CycleKept b (forEach 72 (fun n b => b.extServe n 0x81 (some 8) Block.opUnreserve) b.ketApplied) :=
    forEach_keeps (CycleKept b) 72 _ _ (ketApplied_kept b) fun m c _ hc => hc.trans (extServe_kept opUnreserve_kept c m _ 8)
  exact forEach_keeps (CycleKept b) n _ _ (hrel.trans (testRequest_kept _)) fun m c _ hc =>
    hc.trans (extServe_kept opReserve_kept c m _ 8)

theorem ketCycle_idle {b : Block} {n : PE} (hu : b.kettle.usable = []) (hreq : b.kettle.req = none)
    (hs : ∀ p ∈ b.strobes, p.pe = n.val ∧ p.op ≠ 0x81) : b.ketCycle n = b := by
  have happ : b.ketApplied = b := by
    have hk : { b.kettle with usable := [] } = b.kettle := by rw [← hu]
    unfold Block.ketApplied Block.ketCounted Block.modKet
    rw [hu, hreq]
    dsimp only [Option.isSome, List.foldl]
    exact congrArg (fun k : Kettle => { b with kettle := k }) (hk.trans rfl)
  have hrel (m : Nat) (_ : m < 72) : b.strobeOf m 0x81 = none :=
    List.find?_eq_none.mpr fun p hp => by
      have := (hs p hp).2
      simp [this]
  have hres (m : Nat) (hm : m < n.val) : b.strobeOf m 0x80 = none :=
    List.find?_eq_none.mpr fun p hp => by
      have := (hs p hp).1
      have hne : p.pe ≠ m := by omega
      simp [hne]
  rw [ketCycle_eq, happ, forEach_extServe_none hrel, testRequest_none hreq, forEach_extServe_none hres]

section
variable {n : PE} {q : Strobe} {s : State}

theorem execKettleReserve_asked (h : s.blk.strobeOf n 0x80 ≠ none) :
    exec (.kettleReserve n) s = done s ((s.blk.ketCycle n).extServe n 0x80 (some 8) Block.opReserve).ketAfter := by
  show execKettleReserve n s = _
  unfold execKettleReserve
  dsimp only
  rw [if_neg (by simpa using h)]
  rfl

/-- A RESERVE that is refused with `v` (R276). -/
theorem gives_reserve_refused {v : Nat} (h : s.blk.strobeOf n 0x80 ≠ none)
    (hx : (s.blk.ketCycle n).extServe n 0x80 (some 8) Block.opReserve = (s.blk.ketCycle n).extReply n (.error v)) :
    Gives (.kettleReserve n) s fun t =>
      t.blk.extAns = (s.blk.ketCycle n).extAns ++ [⟨n, true, some (BitVec.ofNat 64 v)⟩] ∧
      t.blk.strobes = (s.blk.ketCycle n).strobes.filter (·.pe != n.val) ∧
      t.blk.get R.KET_RESV_RESV = (s.blk.ketCycle n).get R.KET_RESV_RESV ∧ t.blk.mem = (s.blk.ketCycle n).mem ∧
      t.blk.KetSettled (s.blk.get R.KET_LOWE_LOWE) := by
  obtain ⟨hseal, hlow⟩ := ketCycle_kept s.blk n
  have hexec := execKettleReserve_asked h
  rw [hx] at hexec
  generalize s.blk.ketCycle n = y at hexec hseal hlow ⊢
  have hframe := ketAfter_frame (y.extReply n (.error v))
  exact gives_of_done hexec (hframe.isSealed.trans hseal) ⟨hframe.extAns, hframe.strobes,
    ketAfter_get _ (by decide) (by decide), hframe.mem, ketAfter_settled hlow⟩

theorem gives_reserve_denied {v : Nat} (h : s.blk.strobeOf n 0x80 ≠ none) (hq : (s.blk.ketCycle n).strobeOf n 0x80 = some q)
    (ht : q.tenant = false) (hop : Block.opReserve q (s.blk.ketCycle n) = (s.blk.ketCycle n, .error v)) :
    Gives (.kettleReserve n) s fun t =>
      t.blk.extAns = (s.blk.ketCycle n).extAns ++ [⟨n, true, some (BitVec.ofNat 64 v)⟩] ∧
      t.blk.strobes = (s.blk.ketCycle n).strobes.filter (·.pe != n.val) ∧
      t.blk.get R.KET_RESV_RESV = (s.blk.ketCycle n).get R.KET_RESV_RESV ∧ t.blk.mem = (s.blk.ketCycle n).mem ∧
      t.blk.KetSettled (s.blk.get R.KET_LOWE_LOWE) :=
  gives_reserve_refused h (by rw [extServe_taken hq (.inr ht), hop])

end

section
variable {q : Strobe} {b : Block}

theorem opReserve_warned (h : b.get R.KET_STAT_PFWARN ≠ 0) : Block.opReserve q b = (b, .error 2) := if_pos (bne_iff_ne.mpr h)

theorem not_flag {f : Fld} (h : b.get f = 0) : ¬ b.flag f = true := by
  unfold Block.flag
  rw [h]
  decide

theorem opReserve_shut (hw : b.get R.KET_STAT_PFWARN = 0) (h : ¬ b.ketOpen = true) : Block.opReserve q b = (b, .error 3) := by
  unfold Block.opReserve
  dsimp only
  rw [if_neg (not_flag hw), if_pos (by simpa using h)]

theorem opReserve_unfit (hopen : b.ketOpen = true) (h : b.kettle.budget < b.get R.KET_RESV_RESV + q.a.toNat % 2 ^ 32) :
    Block.opReserve q b = (b, .error 1) := by
  have hfit : b.fits (q.a.toNat % 2 ^ 32) = false := by
    rw [Bool.eq_false_iff, Ne, fits_eq_true]
    omega
  unfold Block.opReserve
  dsimp only
  rw [if_neg (not_flag (ketOpen_eq_true.mp hopen).2.1), if_neg (by simp [hopen]), if_pos (by rw [hfit]; rfl)]

theorem opReserve_granted (hopen : b.ketOpen = true) (h : b.get R.KET_RESV_RESV + q.a.toNat % 2 ^ 32 ≤ b.kettle.budget) :
    Block.opReserve q b = ((b.reserve (q.a.toNat % 2 ^ 32)).settleKettle,
      .ok (BitVec.ofNat 64 ((b.reserve (q.a.toNat % 2 ^ 32)).settleKettle.get R.KET_HEAD_HEAD))) := by
  have hfit : b.fits (q.a.toNat % 2 ^ 32) = true := fits_eq_true.mpr h
  unfold Block.opReserve
  dsimp only
  rw [if_neg (not_flag (ketOpen_eq_true.mp hopen).2.1), if_neg (by simp [hopen]), if_neg (by rw [hfit]; decide)]

end

section
variable {n : PE} {q : Strobe} {s : State}

theorem reserve_get (b : Block) (r : Nat) : (b.reserve r).get R.KET_RESV_RESV = (b.get R.KET_RESV_RESV + r) % 2 ^ 32 ∧
    (b.reserve r).get R.KET_GRANT_COUNT = (b.get R.KET_GRANT_COUNT + 1) % 2 ^ 32 := by
  unfold Block.reserve Block.inc
  simp (disch := decide) only [Block.get_put_same, Block.get_put_ne]
  exact ⟨rfl, rfl⟩

theorem reserve_get_ne (b : Block) (r : Nat) {g : Fld} (h1 : g.key ≠ R.KET_RESV_RESV.key) (h2 : g.key ≠ R.KET_GRANT_COUNT.key) :
    (b.reserve r).get g = b.get g := (Block.get_put_ne _ _ _ _ h2).trans (Block.get_put_ne _ _ _ _ h1)

/-- A RESERVE that is granted (R276). -/
theorem gives_reserve_granted (h : s.blk.strobeOf n 0x80 ≠ none) {y : Block} (hy : s.blk.ketCycle n = y)
    (hq : y.strobeOf n 0x80 = some q) (ht : q.tenant = false) (hopen : y.ketOpen = true)
    (hfit : y.get R.KET_RESV_RESV + q.a.toNat % 2 ^ 32 ≤ y.kettle.budget) :
    Gives (.kettleReserve n) s fun t => t.blk.KetSettled (s.blk.get R.KET_LOWE_LOWE) ∧
      t.blk.get R.KET_RESV_RESV = (y.get R.KET_RESV_RESV + q.a.toNat % 2 ^ 32) % 2 ^ 32 ∧
      t.blk.get R.KET_GRANT_COUNT = (y.get R.KET_GRANT_COUNT + 1) % 2 ^ 32 ∧
      t.blk.kettle = { y.kettle with req := t.blk.kettle.req } ∧
      ({ t.blk with regs := y.regs, kettle := y.kettle } : Block) =
        Replied y n false (BitVec.ofNat 64 (t.blk.get R.KET_HEAD_HEAD)) ∧
      KeepsFields ([R.KET_RESV_RESV, R.KET_GRANT_COUNT, R.INT_STAT_HELD, R.INT_EVT_HELD] ++ ketStatus) y t.blk := by
  obtain ⟨hseal, hlow⟩ := ketCycle_kept s.blk n
  have hexec := execKettleReserve_asked h
  rw [hy] at hexec hseal hlow
  rw [extServe_taken hq (.inr ht), opReserve_granted hopen hfit] at hexec
  dsimp only at hexec
  obtain ⟨hresv, hcount⟩ := reserve_get y (q.a.toNat % 2 ^ 32)
  have hne {g : Fld} (h1 : g.key ≠ R.KET_RESV_RESV.key) (h2 : g.key ≠ R.KET_GRANT_COUNT.key) := reserve_get_ne y (q.a.toNat % 2 ^ 32) h1 h2
  have hframe : RegsOnly y (y.reserve (q.a.toNat % 2 ^ 32)) := ((RegsOnly.refl y).put _ _).put _ _
  generalize y.reserve (q.a.toNat % 2 ^ 32) = c at hexec hresv hcount hne hframe
  have hset : c.settleKettle.KetSettled (s.blk.get R.KET_LOWE_LOWE) :=
    settleKettle_settled ((hne (by decide) (by decide)).trans hlow)
  have hframe2 := hframe.trans (settleKettle_frame c)
  have hget2 (g : Fld) (hg : ∀ f ∈ ketStatus, g.key ≠ f.key) := settleKettle_get c hg
  generalize c.settleKettle = d at hexec hset hframe2 hget2
  generalize hv : BitVec.ofNat 64 (d.get R.KET_HEAD_HEAD) = v at hexec
  have hafter := ketAfter_frame (d.extReply n (.ok v))
  have hsettled : (d.extReply n (.ok v)).ketAfter.KetSettled (s.blk.get R.KET_LOWE_LOWE) :=
    ketAfter_settled ((hget2 _ (by decide)).trans ((hne (by decide) (by decide)).trans hlow))
  have hkeep {g : Fld} (hh : ∀ f ∈ heldRegs, g.key ≠ f.key) (hs : ∀ f ∈ ketStatus, g.key ≠ f.key) :
      (d.extReply n (.ok v)).ketAfter.get g = c.get g := (ketAfter_get _ hh hs).trans (hget2 g hs)
  have hkettle : (d.extReply n (.ok v)).ketAfter.kettle = { d.kettle with req := (d.extReply n (.ok v)).ketAfter.kettle.req } :=
    hafter.kettle
  have hhead : (d.extReply n (.ok v)).ketAfter.get R.KET_HEAD_HEAD = d.get R.KET_HEAD_HEAD := by
    rw [hsettled.1, hset.1, hkeep (g := R.KET_RESV_RESV) (by decide) (by decide), hget2 R.KET_RESV_RESV (by decide), hkettle]
  generalize (d.extReply n (.ok v)).ketAfter = k at hexec hafter hsettled hkeep hkettle hhead
  have hregs := congrArg (fun z : Block => { z with regs := y.regs, kettle := y.kettle }) hafter
  have hdy := congrArg (fun z : Block => ({ z with kettle := y.kettle } : Block).extReply n (.ok v)) hframe2
  refine gives_of_done (b := k) hexec (hafter.isSealed.trans (hframe2.isSealed.trans hseal)) ⟨hsettled, ?_, ?_, ?_, ?_, ?_⟩
  · exact (hkeep (by decide) (by decide)).trans hresv
  · exact (hkeep (by decide) (by decide)).trans hcount
  · dsimp only
    rw [hkettle, hframe2.kettle]
  · dsimp only
    rw [hhead, hv]
    exact hregs.trans hdy
  · intro g hg
    refine (hkeep (fun f hf => hg f ?_) fun f hf => hg f (List.mem_append_right _ hf)).trans (hne (hg _ (by simp)) (hg _ (by simp)))
    simp only [heldRegs, List.mem_cons, List.not_mem_nil, or_false] at hf
    rcases hf with rfl | rfl <;> simp

end

/-! ## RELEASE and QUERY -/

section
variable {n : PE} {q : Strobe} {s : State}

theorem gives_release_refused (hq : s.blk.strobeOf n 0x81 = some q) (ht : q.tenant = false)
    (h : s.blk.get R.KET_RESV_RESV < q.a.toNat % 2 ^ 32) :
    Gives (.kettleRelease n) s fun t => t.blk = Replied s.blk n true 4 :=
  gives_taken (f := Block.opUnreserve) rfl hq (.inr ht) (if_pos h) rfl rfl

theorem gives_release (hq : s.blk.strobeOf n 0x81 = some q) (ht : q.tenant = false)
    (h : q.a.toNat % 2 ^ 32 ≤ s.blk.get R.KET_RESV_RESV) :
    Gives (.kettleRelease n) s fun t =>
      (t.blk.extAns = s.blk.extAns ++ [⟨n, false, some (BitVec.ofNat 64 (t.blk.get R.KET_RESV_RESV))⟩] ∧
        t.blk.KetSettled (s.blk.get R.KET_LOWE_LOWE) ∧ ({ t.blk with regs := s.blk.regs } : Block) =
          Replied s.blk n false (BitVec.ofNat 64 (t.blk.get R.KET_RESV_RESV))) ∧
      t.blk.get R.KET_RESV_RESV = (s.blk.get R.KET_RESV_RESV - q.a.toNat % 2 ^ 32) % 2 ^ 32 ∧
      KeepsFields (R.KET_RESV_RESV :: ketStatus) s.blk t.blk := by
  have hframe := ((RegsOnly.refl s.blk).put R.KET_RESV_RESV (s.blk.get R.KET_RESV_RESV - q.a.toNat % 2 ^ 32)).trans (settleKettle_frame _)
  have hset : (s.blk.unreserve (q.a.toNat % 2 ^ 32)).settleKettle.KetSettled (s.blk.get R.KET_LOWE_LOWE) :=
    settleKettle_settled (Block.get_put_ne _ _ _ _ (by decide))
  have hresv : (s.blk.unreserve (q.a.toNat % 2 ^ 32)).settleKettle.get R.KET_RESV_RESV =
      (s.blk.get R.KET_RESV_RESV - q.a.toNat % 2 ^ 32) % 2 ^ 32 := (settleKettle_get _ (by decide)).trans (Block.get_put_same ..)
  have hkeep : KeepsFields (R.KET_RESV_RESV :: ketStatus) s.blk (s.blk.unreserve (q.a.toNat % 2 ^ 32)).settleKettle := fun g hg =>
    (settleKettle_get _ fun f hf => hg f (List.mem_cons_of_mem _ hf)).trans (Block.get_put_ne _ _ _ _ (hg _ List.mem_cons_self))
  have hop : Block.opUnreserve q s.blk = ((s.blk.unreserve (q.a.toNat % 2 ^ 32)).settleKettle,
      .ok (BitVec.ofNat 64 ((s.blk.unreserve (q.a.toNat % 2 ^ 32)).settleKettle.get R.KET_RESV_RESV))) := if_neg (by omega)
  have hframe' : RegsOnly s.blk (s.blk.unreserve (q.a.toNat % 2 ^ 32)).settleKettle := hframe
  generalize (s.blk.unreserve (q.a.toNat % 2 ^ 32)).settleKettle = d at hset hresv hkeep hop hframe'
  have hext : d.extAns = s.blk.extAns := by
    have e := congrArg Block.extAns hframe'
    exact e
  have hreply := congrArg (fun z : Block => z.extReply n (.ok (BitVec.ofNat 64 (d.get R.KET_RESV_RESV)))) hframe'
  refine gives_taken (b := d) rfl hq (.inr ht) hop hframe'.isSealed ⟨⟨?_, hset, hreply⟩, hresv, hkeep⟩
  exact congrArg (· ++ [_]) hext

theorem gives_query (hq : s.blk.strobeOf n 0x82 = some q) (ht : q.tenant = false) :
    Gives (.kettleQuery n) s fun t =>
      t.blk = Replied s.blk n false (BitVec.ofNat 64 (s.blk.get R.KET_HEAD_HEAD + 2 ^ 32 * s.blk.get R.KET_E_E)) :=
  gives_taken (f := Block.opQuery) rfl hq (.inr ht) rfl rfl rfl

end

/-! ## The throttle and TESTPF -/

theorem gives_throttle {s : State} (hreq : s.blk.kettle.req ≠ none) (hus : s.blk.get R.KET_THRT_US ≠ 0) :
    Gives .throttle s fun t => t.blk.get R.KET_STAT_THROTTLE = 1 ∧
      t.blk.get R.KET_EVT_THROTTLE = (if s.blk.get R.KET_STAT_THROTTLE = 0 then 1 else s.blk.get R.KET_EVT_THROTTLE) ∧
      OnlyFields [R.KET_STAT_THROTTLE, R.KET_EVT_THROTTLE] s.blk t.blk := by
  have hframe := (RegsOnly.refl s.blk).follow R.KET_STAT_THROTTLE R.KET_EVT_THROTTLE true
  have hcond : (s.blk.kettle.req.isSome && s.blk.get R.KET_THRT_US != 0) = true := by
    rw [Bool.and_eq_true]
    exact ⟨Option.isSome_iff_ne_none.mpr hreq, bne_iff_ne.mpr hus⟩
  refine gives_of_done (b := s.blk.follow R.KET_STAT_THROTTLE R.KET_EVT_THROTTLE true) (congrArg (done s) (if_pos hcond))
    hframe.isSealed ⟨follow_get_stat _ _ _ _ rfl, ?_, ?_, ?_⟩
  · exact (follow_get_evt _ _ _ _ (by decide) rfl).trans (by simp)
  · have e := congrArg (fun z : Block => { z with dcycle := s.blk.dcycle, tick := s.blk.tick }) hframe
    exact e
  · exact (KeepsFields.refl _ _).follow (by simp) (by simp) true

theorem gives_throttle_idle {s : State} (h : s.blk.kettle.req = none ∨ s.blk.get R.KET_THRT_US = 0) : Gives .throttle s (Same s) := by
  refine gives_of_done (b := s.blk) (congrArg (done s) (if_neg ?_)) rfl rfl
  rcases h with h | h <;> simp [h]

theorem gives_testpf {key : Byte} {s : State} (hkey : key = 0xA5) (h : s.blk.get R.KET_STAT_PFWARN = 0) :
    Gives (.testpf key) s fun t => s.blk.Risen t.blk ∧ t.blk.kettle.good = 0 := by
  subst hkey
  exact gives_of_done (b := s.blk.pfWarn) (congrArg (done s) (if_pos rfl)) (pfWarn_isSealed _)
    ⟨pfWarn_risen h, congrArg Kettle.good (pfWarn_kettle h)⟩

theorem gives_testpf_idle {key : Byte} {s : State} (h : key ≠ 0xA5 ∨ s.blk.get R.KET_STAT_PFWARN ≠ 0) :
    Gives (.testpf key) s (Same s) := by
  refine gives_of_done (b := s.blk) (congrArg (done s) ?_) rfl rfl
  unfold Block.testPf
  split
  next hk =>
    refine pfWarn_of_warned (h.resolve_left fun hne => hne (BitVec.eq_of_toNat_eq ?_))
    exact hk
  next => rfl

theorem gives_moved {s : State} {x : KetIn} {xs : List KetIn} (h : s.blk.kettle.moving = x :: xs) :
    Gives .reservationRelease s fun t => t.blk =
      { s.blk with kettle := { s.blk.kettle with moving := xs, usable := s.blk.kettle.usable ++ [x] } } := by
  refine gives_of_done (b := s.blk.modKet fun k => { k with moving := xs, usable := k.usable ++ [x] }) ?_ rfl rfl
  show execReservationRelease s = _
  unfold execReservationRelease
  dsimp only
  rw [h]

theorem gives_moved_none {s : State} (h : s.blk.kettle.moving = []) : Gives .reservationRelease s (Same s) := by
  refine gives_of_done (b := s.blk) ?_ rfl rfl
  show execReservationRelease s = _
  unfold execReservationRelease
  dsimp only
  rw [h]

theorem gives_reserve_none {n : PE} {s : State} (h : s.blk.strobeOf n 0x80 = none) : Gives (.kettleReserve n) s (Same s) := by
  refine gives_of_done (b := s.blk) (congrArg (done s) (if_pos ?_)) rfl rfl
  rw [h]
  rfl

/-- Settles O42: each clause is the lemma of the command it names; what follows a command is `settleKettle`. -/
theorem kettleEnergy : Obligations.KettleEnergy := by
  intro n code key q r s
  dsimp only
  refine ⟨?_, ?_, gives_adcLost s, fun hs hu => ⟨fun p hreq hopen hfit => gives_cycle_granted hs hu hreq ⟨hopen, hfit⟩,
      fun p hreq hg => gives_cycle_held hs hu hreq hg⟩,
    fun hs hu hreq => gives_cycle_release hs hu hreq, fun p hs hu hreq hhold => gives_cycle_withdraw hs hu hreq hhold,
    fun x xs hm => gives_moved hm, gives_moved_none, fun hu hreq hs => ketCycle_idle hu hreq hs, fun h hq ht =>
      ⟨fun hwarn => gives_reserve_denied h hq ht (opReserve_warned hwarn),
        fun hwarn hshut => gives_reserve_denied h hq ht (opReserve_shut hwarn fun hc => hshut (ketOpen_eq_true.mp hc)),
        fun hopen hfit => gives_reserve_denied h hq ht (opReserve_unfit (ketOpen_eq_true.mpr hopen) hfit),
        fun hopen hfit => gives_reserve_granted h rfl hq ht (ketOpen_eq_true.mpr hopen) hfit⟩,
    gives_reserve_none,
    fun ⟨hq, ht⟩ => ⟨gives_release_refused hq ht, gives_release hq ht⟩, fun ⟨hq, ht⟩ => gives_query hq ht, fun ht =>
      ⟨fun h hq => gives_reserve_refused h (extServe_refused hq ht),
        fun hq => gives_of_done (congrArg (done s) (extServe_refused hq ht)) rfl rfl,
        fun hq => gives_of_done (congrArg (done s) (extServe_refused hq ht)) rfl rfl⟩,
    gives_throttle, gives_throttle_idle, gives_testpf, gives_testpf_idle⟩
  · refine gives_of_done (b := (s.blk.bankSample code.toNat).settleKettle) rfl (bankSample_sealed _ _)
      ⟨settleKettle_settled (bankSample_get_ne _ _ (by decide)), ?_⟩
    dsimp only
    rw [settleKettle_kettle, settleKettle_get (g := R.KET_E_E) _ (by decide), settleKettle_get (g := R.KET_VBANK_LAST) _ (by decide),
      settleKettle_get (g := R.KET_VBANK_MIN16) _ (by decide), settleKettle_get (g := R.KET_STAT_ADCLOST) _ (by decide)]
    exact ⟨bankSample_kettle _ _, bankSample_last _ code.isLt, fun m hm => by rw [bankSample_min, minOf_eq hm.1 hm.2],
      bankSample_energy _ _, bankSample_lost _ _, bankSample_keeps _ _⟩
  · have hbeside {g : Fld} (hg : BesideWarning g) (hs : ∀ f ∈ ketStatus, g.key ≠ f.key) :
        (s.blk.railSample code.toNat).settleKettle.get g = (s.blk.railCounted code.toNat).get g :=
      (settleKettle_get _ hs).trans (railSample_get _ _ hg)
    have hlow := (railSample_get s.blk code.toNat (g := R.KET_LOWE_LOWE) ⟨by decide, by decide⟩).trans (railCounted_get_ne _ _ (by decide))
    have hwarned := railSample_warned s.blk code.toNat
    refine gives_of_done (b := (s.blk.railSample code.toNat).settleKettle) rfl (railSample_sealed _ _)
      ⟨settleKettle_settled hlow, ?_, ?_, fun m hm => ?_, ?_, ?_, ?_⟩
    · exact (congrArg Kettle.rail (settleKettle_kettle _)).trans (railSample_codes _ _).1
    · exact (hbeside ⟨by decide, by decide⟩ (by decide)).trans (railCounted_last _ code.isLt)
    · exact (hbeside ⟨by decide, by decide⟩ (by decide)).trans (by rw [railCounted_min, minOf_eq hm.1 hm.2])
    · exact (congrArg Kettle.bank (settleKettle_kettle _)).trans (railSample_codes _ _).2
    · exact (hbeside ⟨by decide, by decide⟩ (by decide)).trans (railCounted_lost _ _)
    · split
      next h =>
        rw [if_pos h] at hwarned
        exact Risen.settled hwarned
      next h =>
        rw [if_neg h] at hwarned
        exact (settleKettle_get _ (by decide)).trans hwarned

end Sys2Proof.Machine
end

section
/-! One microword: what it commits and where it goes (R29 to R45). -/
namespace Sys2Proof.Machine

/-! ## The dispatch of a microword -/

section
variable (b : Block) (n : Nat)

/-- At an instruction's dispatch a pending skip of the comparators ends. -/
def Block.dispatched : Block :=
  if b.ready n && ((b.engine n).trapPt == some true || (b.engine n).skipIaddr) then b.modEngine n Engine.noSkip else b

theorem dispatched_cases : b.dispatched n = b ∨ b.dispatched n = b.modEngine n Engine.noSkip := by
  unfold Block.dispatched
  split
  · exact .inr rfl
  · exact .inl rfl

theorem dispatch_noCmp (h : (b.engine n).cmp = []) : b.dispatch n = (b.modEngine n Engine.noSkip, false) := by
  unfold Block.dispatch
  dsimp only
  exact if_pos (by rw [h]; rfl)

theorem dispatched_engine_ne {m : Nat} (h : m ≠ n) : (b.dispatched n).engine m = b.engine m := by
  rcases dispatched_cases b n with hd | hd <;> rw [hd]
  exact Block.modEngine_engine_ne _ _ _ _ h

/-- The engine at its dispatched word. -/
def Engine.Dispatched (e e' : Engine) : Prop := e' = e ∨ e' = e.noSkip

theorem dispatched_engine : (b.engine n).Dispatched ((b.dispatched n).engine n) := by
  rcases dispatched_cases b n with hd | hd <;> rw [hd]
  · exact .inl rfl
  · exact .inr (Block.modEngine_engine_same ..)

theorem dispatched_beside : { b.dispatched n with eng := b.eng } = b := by
  rcases dispatched_cases b n with hd | hd <;> rw [hd]
  rfl

/-- A word whose row is sound comes to its decode. -/
theorem microword_clean (hcmp : (b.engine n).cmp = []) (herr : (b.engine n).csErr.look (b.engine n).upc.toNat ≠ some true)
    {w : Uword} (hw : Uword.ofBits ((b.engine n).row (b.engine n).upc.toNat).toNat = w) :
    b.microword n .clean .clean = match ((b.dispatched n).engine n).decodeFault w with
      | some f => (b.dispatched n).microFault n f.1 f.2
      | none => (b.dispatched n).runWord n w .clean := by
  have herr' : ¬ ((EccFind.clean == EccFind.uncorrectable || (b.engine n).csErr.look (b.engine n).upc.toNat == some true) = true) := by
    simpa using herr
  unfold Block.microword Block.dispatched
  dsimp only
  rw [if_neg herr', hw, dispatch_noCmp b n hcmp]
  split <;> rfl

end

/-! ## Words without units -/

/-- The part of an engine that a plain word leaves alone. -/
structure WordKept (e q : Engine) : Prop where
  gV : q.gV = e.gV
  gT : q.gT = e.gT
  sp : q.sp = e.sp
  vr : q.vr = e.vr
  st : q.st = e.st
  pc : q.pc = e.pc
  ustack : q.ustack = e.ustack
  cmp : q.cmp = e.cmp

theorem WordKept.refl (e : Engine) : WordKept e e := ⟨rfl, rfl, rfl, rfl, rfl, rfl, rfl, rfl⟩

theorem WordKept.trans {a b c : Engine} (h : WordKept a b) (k : WordKept b c) : WordKept a c :=
  ⟨k.gV.trans h.gV, k.gT.trans h.gT, k.sp.trans h.sp, k.vr.trans h.vr, k.st.trans h.st, k.pc.trans h.pc, k.ustack.trans h.ustack, k.cmp.trans h.cmp⟩

section
variable {e : Engine} {w : Uword} {c : Computed}

theorem commitLane_plain (h : w.ln = 0) (head : Option (List Byte × Nat)) : e.commitLane w c head = e := by
  unfold Engine.commitLane laneOp
  simp [h]

theorem commitMul_plain (h : w.mul = 0) : e.commitMul w c = e := if_pos h

theorem commitMem_plain (h : w.mem = 0) (d : List Byte) : e.commitMem w c d = e := by
  unfold Engine.commitMem memToMdr
  simp [h]

theorem commitXf_plain (h : w.xf = 0) : e.commitXf w c = e := by
  unfold Engine.commitXf
  simp [h]

theorem strd_plain (h : w.strd = 0) (fl : FpFlags) : e.strd w fl = e := by
  unfold Engine.strd
  simp [h]

theorem commitDiv_plain (e0 : Engine) (h : w.alu ≠ 0x2A ∧ w.alu ≠ 0x2B) : e.commitDiv e0 w = e := by
  unfold Engine.commitDiv
  dsimp only
  rw [if_neg h.1, if_neg h.2]

/-- A word without an FPOP: an earlier fused result may land in FPR, and nothing else changes. -/
theorem commitFp_plain (hregs : c.regs = []) (hfp : c.fpr = none) : WordKept e (e.commitFp w c) ∧ (e.commitFp w c).u = e.u ∧
    (e.commitFp w c).l = e.l := by
  unfold Engine.commitFp
  rw [hregs, hfp]
  dsimp only [List.foldl]
  split <;> exact ⟨⟨rfl, rfl, rfl, rfl, rfl, rfl, rfl, rfl⟩, rfl, rfl⟩

theorem compute_plain (h : w.fp = 0) (cond : Bool) (fresh : Nat) : (e.compute w cond fresh).regs = [] ∧
    (e.compute w cond fresh).fpr = none := by
  unfold Engine.compute fpuOp
  simp [h]

theorem loops_plain (a : W64) (h : w.lctl < 4) : WordKept e (e.loops w a) ∧ (e.loops w a).u = e.u ∧ (e.loops w a).lat = e.lat ∧
    (e.loops w a).l = if w.seq = 9 then e.l.put (w.lctl % 4) (BitVec.ofNat 16 ((e.loop (w.lctl % 4)).toNat - 1)) else e.l := by
  have heq : e.loops w a = if w.seq = 9 then
      { e with l := e.l.put (w.lctl % 4) (BitVec.ofNat 16 ((e.loop (w.lctl % 4)).toNat - 1)) } else e := by
    have hdiv : w.lctl / 4 = 0 := by omega
    unfold Engine.loops
    simp only [hdiv]
  rw [heq]
  split <;> exact ⟨⟨rfl, rfl, rfl, rfl, rfl, rfl, rfl, rfl⟩, rfl, rfl, rfl⟩

/-- The ALU's result goes to a micro-register, or there is none. -/
theorem commitAlu_plain (e0 : Engine) (h : w.alu = 0 ∨ (0x20 ≤ w.dsel ∧ w.dsel < 0x30)) : WordKept e (e.commitAlu e0 w c) ∧
    (e.commitAlu e0 w c).l = e.l ∧
    (e.commitAlu e0 w c).u = if w.alu = 0 then e.u else e.u.put (w.dsel - 0x20) c.alu.r := by
  unfold Engine.commitAlu
  dsimp only
  by_cases halu : w.alu = 0
  · rw [if_pos halu, if_pos halu]
    exact ⟨.refl e, rfl, rfl⟩
  · obtain ⟨hlo, hhi⟩ := h.resolve_left halu
    rw [if_neg halu, if_neg (by omega), if_pos hhi, if_neg halu]
    exact ⟨⟨rfl, rfl, rfl, rfl, rfl, rfl, rfl, rfl⟩, rfl, rfl⟩

end

/-- What a plain word commits to its engine (R32). -/
theorem commit_plain {e : Engine} {w : Uword} (hp : w.plain) (hdiv : w.alu ≠ 0x2A ∧ w.alu ≠ 0x2B)
    (halu : w.alu = 0 ∨ (0x20 ≤ w.dsel ∧ w.dsel < 0x30)) (cond : Bool) (fresh : Nat) (head : Option (List Byte × Nat)) (d : List Byte) :
    WordKept e (e.commit w (e.compute w cond fresh) head d) ∧
      (e.commit w (e.compute w cond fresh) head d).lat = e.latched w (e.compute w cond fresh) (e.v w.lnd) ∧
      (e.commit w (e.compute w cond fresh) head d).u =
        (if w.alu = 0 then e.u else e.u.put (w.dsel - 0x20) (e.compute w cond fresh).alu.r) ∧
      (e.commit w (e.compute w cond fresh) head d).l =
        (if w.seq = 9 then e.l.put (w.lctl % 4) (BitVec.ofNat 16 ((e.loop (w.lctl % 4)).toNat - 1)) else e.l) := by
  obtain ⟨hmem, hxf, -, hln, hmul, hfp, hstrd, hlctl⟩ := hp
  obtain ⟨hregs, hfpr⟩ := compute_plain (e := e) hfp cond fresh
  generalize e.compute w cond fresh = c at hregs hfpr ⊢
  obtain ⟨hk1, hu1, hl1⟩ := commitFp_plain (e := e) (w := w) hregs hfpr
  unfold Engine.commit
  dsimp only
  rw [commitLane_plain hln, commitMul_plain hmul, commitDiv_plain e hdiv]
  generalize e.commitFp w c = e1 at hk1 hu1 hl1
  obtain ⟨hk2, hl2, hu2⟩ := commitAlu_plain (e := e1) (c := c) e halu
  generalize e1.commitAlu e w c = e2 at hk2 hl2 hu2
  rw [commitMem_plain hmem, commitXf_plain hxf, strd_plain hstrd]
  obtain ⟨hk3, hu3, hlat3, hl3⟩ := loops_plain (e := { e2 with lat := e.latched w c (e.v w.lnd) }) c.a hlctl
  generalize ({ e2 with lat := e.latched w c (e.v w.lnd) } : Engine).loops w c.a = e3 at hk3 hu3 hlat3 hl3
  have hk23 : WordKept e2 e3 := ⟨hk3.gV, hk3.gT, hk3.sp, hk3.vr, hk3.st, hk3.pc, hk3.ustack, hk3.cmp⟩
  have hk := (hk1.trans hk2).trans hk23
  have hu : e3.u = if w.alu = 0 then e.u else e.u.put (w.dsel - 0x20) c.alu.r := by
    refine hu3.trans ?_
    show e2.u = _
    rw [hu2, hu1]
  have hl : e3.l = if w.seq = 9 then e.l.put (w.lctl % 4) (BitVec.ofNat 16 ((e.loop (w.lctl % 4)).toNat - 1)) else e.l := by
    rw [hl3]
    unfold Engine.loop
    dsimp only
    rw [hl2, hl1]
  split
  · exact ⟨⟨hk.gV, hk.gT, hk.sp, hk.vr, hk.st, hk.pc, hk.ustack, hk.cmp⟩, hlat3, hu, hl⟩
  · split
    · exact ⟨⟨hk.gV, hk.gT, hk.sp, hk.vr, hk.st, hk.pc, hk.ustack, hk.cmp⟩, hlat3, hu, hl⟩
    · exact ⟨⟨hk.gV, hk.gT, hk.sp, hk.vr, hk.st, hk.pc, hk.ustack, hk.cmp⟩, hlat3, hu, hl⟩

/-! ## Conditions at a dispatch -/

section
variable (b : Block) (n : Nat)
theorem admits_noSkip (t : Bool) : (b.modEngine n Engine.noSkip).admits n t = b.admits n t := by
  unfold Block.admits
  rw [Block.modEngine_engine_same]
  rfl

theorem irqDue_noSkip : (b.modEngine n Engine.noSkip).irqDue n = b.irqDue n := by
  unfold Block.irqDue
  rw [admits_noSkip, admits_noSkip]
  rfl

theorem dbDue_noSkip : (b.modEngine n Engine.noSkip).dbDue n = b.dbDue n := by
  unfold Block.dbDue
  rw [admits_noSkip, admits_noSkip]
  rfl

theorem trapDue_noSkip : (b.modEngine n Engine.noSkip).trapDue n = b.trapDue n := by
  unfold Block.trapDue Block.stopDue
  rw [irqDue_noSkip, dbDue_noSkip, Block.modEngine_engine_same]
  rfl

theorem regionOk_noSkip (w : Uword) : (b.modEngine n Engine.noSkip).regionOk n w = b.regionOk n w := by
  unfold Block.regionOk
  rw [Block.modEngine_engine_same]
  rfl

theorem condition_noSkip (w : Uword) (code : Nat) : (b.modEngine n Engine.noSkip).condition n w code = b.condition n w code := by
  unfold Block.condition
  rw [irqDue_noSkip, dbDue_noSkip, trapDue_noSkip, regionOk_noSkip, Block.modEngine_engine_same]
  rfl
end

theorem condition_dispatched (b : Block) (n : Nat) (w : Uword) (code : Nat) :
    (b.dispatched n).condition n w code = b.condition n w code := by
  rcases dispatched_cases b n with h | h <;> rw [h]
  exact condition_noSkip b n w code

theorem conds_dispatched (b : Block) (n : Nat) (w : Uword) : (b.dispatched n).conds n w = b.conds n w := by
  unfold Block.conds
  rw [condition_dispatched, condition_dispatched]

/-! ## A plain word executes -/

section
variable {b : Block} {n : Nat} {w : Uword}

theorem upset_clean (b : Block) (n : Nat) : b.upset n .clean = b := rfl

theorem anyCorrupt_of_nil {e : Engine} (h : e.codes = []) (l : List Nat) : e.anyCorrupt l = false := by
  unfold Engine.anyCorrupt
  rw [h]
  rfl

theorem presentWord_plain (hp : w.plain) : b.presentWord n w = b := by
  obtain ⟨hmem, hxf, hext, -⟩ := hp
  have hmem' : b.presentMem n w = b := by
    unfold Block.presentMem
    simp [hmem]
  have hxf' : b.presentXf n w = b := by
    unfold Block.presentXf
    simp [hxf]
  unfold Block.presentWord
  rw [hmem', hxf']
  exact if_pos hext

/-- A plain word has no fault but those of the micro-stack (R35). -/
theorem wordFault_plain (hp : w.plain) {c : Bool} (hpush : w.pushes c = true → (b.engine n).ustack.length < 16)
    (hpop : w.pops c = true → (b.engine n).ustack ≠ []) : b.wordFault n w c 0 = none := by
  obtain ⟨hmem, hxf, hext, hln, -⟩ := hp
  have hstack1 : ¬ (w.pushes c && decide (16 ≤ (b.engine n).ustack.length)) = true := by
    rw [Bool.and_eq_true, decide_eq_true_iff]
    exact fun h => absurd (hpush h.1) (by omega)
  have hstack2 : ¬ (w.pops c && (b.engine n).ustack.isEmpty) = true := by
    rw [Bool.and_eq_true, List.isEmpty_iff]
    exact fun h => hpop h.1 h.2
  have hmemFault : b.memFault n w = none := by
    unfold Block.memFault
    dsimp only
    exact if_pos hmem
  have hxfFault : b.xfFault n w = none := by
    unfold Block.xfFault Uword.rights
    simp [hxf]
  unfold Block.wordFault Engine.streamFault xfResponds Uword.xfLine
  dsimp only
  rw [if_neg hstack1, if_neg hstack2, if_neg (by decide), hmemFault]
  dsimp only
  rw [if_neg (by decide), hxfFault]
  simp [hmem, hxf, hext, hln, bit]

/-- A plain word of an engine whose stored codes are right commits at once. -/
theorem runWord_plain (hp : w.plain) (hseq : w.seq ≠ 0xA) (hreplay : (b.engine n).replay = none) (hcodes : (b.engine n).codes = [])
    (hfault : b.wordFault n w (b.conds n w).condC 0 = none) : b.runWord n w .clean = b.commitWord n w (b.conds n w) [] := by
  have hwaits : memWaits w.mem = false := by
    rw [hp.1]
    rfl
  have hgo : b.wordGo n w (b.conds n w) ⟨0, none, false, []⟩ none = b.commitWord n w (b.conds n w) [] := by
    unfold Block.wordGo
    dsimp only
    rw [if_neg (by decide), presentWord_plain hp, hwaits]
    rfl
  unfold Block.runWord
  dsimp only
  rw [upset_clean, hreplay, anyCorrupt_of_nil hcodes, anyCorrupt_of_nil hcodes, anyCorrupt_of_nil hcodes]
  dsimp only [Option.getD]
  rw [if_neg (by simp [hseq]), if_neg Bool.false_ne_true, hfault]
  exact hgo

/-- The block with a plain word's commit, before its successor is chosen. -/
def Block.plainCommit (b : Block) (n : Nat) (w : Uword) (t : MemWait) : Block :=
  { b.setEngine n { (b.engine n).commit w ((b.engine n).compute w t.condC b.fresh) (b.chainHead n) [] with
      wait := none, replay := none } with fresh := b.fresh + freePerWord }

theorem commitWord_plain (hp : w.plain) (t : MemWait) : b.commitWord n w t [] = (b.plainCommit n w t).leaveWord n (b.engine n) w t := by
  obtain ⟨hmem, -, -, hln, -⟩ := hp
  unfold Block.commitWord Block.plainCommit memWaits
  dsimp only
  rw [hmem, hln]
  rfl

end

end Sys2Proof.Machine
end

section
/-! What a microword's command gives (R29 to R45, R60). -/
namespace Sys2Proof.Machine

/-! ## The block as a plain word commits -/

section
variable {b : Block} {n : Nat} {w : Uword} {t : MemWait}

theorem plainCommit_engine : (b.plainCommit n w t).engine n =
    { (b.engine n).commit w ((b.engine n).compute w t.condC b.fresh) (b.chainHead n) [] with wait := none, replay := none } :=
  Block.setEngine_engine_same ..

theorem plainCommit_frame : { b.plainCommit n w t with eng := b.eng, fresh := b.fresh } = b := rfl

theorem plainCommit_engine_ne {m : Nat} (h : m ≠ n) : (b.plainCommit n w t).engine m = b.engine m :=
  Block.setEngine_engine_ne _ _ _ _ h

end

/-- The next microaddress is the same from the engine at its dispatched word. -/
theorem nextWord_dispatched {b p : Block} {n : Nat} {e e' : Engine} (h : e.Dispatched e') (hp : p.regs = b.regs) (w : Uword)
    (t : MemWait) : p.nextWord n e' w t = b.nextWord n e w t := by
  have hget (x : Fld) : p.get x = b.get x := congrArg (fun r : Tab Nat => r.get x.key x.rst) hp
  unfold Block.nextWord
  rw [hget]
  rcases h with rfl | rfl <;> rfl

theorem stacked_dispatched {e e' : Engine} (h : e.Dispatched e') (w : Uword) (c : Bool) : e'.stacked w c = e.stacked w c := by
  rcases h with rfl | rfl <;> rfl

theorem WordKept.of_dispatched {e e' : Engine} (h : e.Dispatched e') : WordKept e e' := by
  rcases h with rfl | rfl <;> exact ⟨rfl, rfl, rfl, rfl, rfl, rfl, rfl, rfl⟩

/-- What a microword leaves of a state: the registers, PC, memory and the other engines. -/
def WordSame (s : State) (n : PE) (t : State) : Prop :=
  let e := s.blk.engine n
  let q := t.blk.engine n
  q.gV = e.gV ∧ q.gT = e.gT ∧ q.sp = e.sp ∧ q.vr = e.vr ∧ q.st = e.st ∧ q.pc = e.pc ∧ t.blk.mem = s.blk.mem ∧
    ∀ m : Nat, m ≠ n.val → t.blk.engine m = s.blk.engine m

section
variable {s : State} {n : PE} {w : Uword}

theorem execMicroword_plain (h : AtWord s n w) (hp : w.plain) (hseq : w.seq ≠ 0xA)
    (hpush : w.pushes (s.blk.conds n w).condC = true → (s.blk.engine n).ustack.length < 16)
    (hpop : w.pops (s.blk.conds n w).condC = true → (s.blk.engine n).ustack ≠ []) :
    exec (.microword n .clean .clean) s = done s (((s.blk.dispatched n).plainCommit n w (s.blk.conds n w)).leaveWord n
      ((s.blk.dispatched n).engine n) w (s.blk.conds n w)) := by
  obtain ⟨hat, hcmp, hw, herr, hreplay, hcodes, hdecode⟩ := h
  have hd := dispatched_engine s.blk n
  have hconds := conds_dispatched s.blk n w
  have hkept := WordKept.of_dispatched hd
  have hreplay' : ((s.blk.dispatched n).engine n).replay = none := by rcases hd with h | h <;> rw [h] <;> exact hreplay
  have hcodes' : ((s.blk.dispatched n).engine n).codes = [] := by rcases hd with h | h <;> rw [h] <;> exact hcodes
  have hdecode' : ((s.blk.dispatched n).engine n).decodeFault w = none := by rcases hd with h | h <;> rw [h] <;> exact hdecode
  have hfault : (s.blk.dispatched n).wordFault n w ((s.blk.dispatched n).conds n w).condC 0 = none := by
    rw [hconds]
    refine wordFault_plain hp ?_ ?_ <;> rw [hkept.ustack]
    · exact hpush
    · exact hpop
  have hrun := runWord_plain hp hseq hreplay' hcodes' hfault
  rw [hconds, commitWord_plain hp] at hrun
  show execMicroword n .clean .clean s = _
  unfold execMicroword
  rw [if_pos hat, microword_clean s.blk n hcmp herr hw, hdecode']
  exact congrArg (done s) hrun

/-- A plain word that goes on to another microaddress (R32, R33). -/
theorem gives_plainWord (h : AtWord s n w) (hp : w.plain) (hseq : w.seq ≠ 0xA ∧ w.seq ≠ 0xB ∧ w.seq ≠ 0xE)
    (hdiv : w.alu ≠ 0x2A ∧ w.alu ≠ 0x2B) (halu : w.alu = 0 ∨ (0x20 ≤ w.dsel ∧ w.dsel < 0x30))
    (hpush : w.pushes (s.blk.conds n w).condC = true → (s.blk.engine n).ustack.length < 16)
    (hpop : w.pops (s.blk.conds n w).condC = true → (s.blk.engine n).ustack ≠ []) :
    Gives (.microword n .clean .clean) s fun t => WordSame s n t ∧
      (t.blk.engine n).upc = s.blk.nextWord n (s.blk.engine n) w (s.blk.conds n w) ∧
      (t.blk.engine n).ustack = (s.blk.engine n).stacked w (s.blk.conds n w).condC ∧
      (t.blk.engine n).l = (if w.seq = 9 then (s.blk.engine n).l.put (w.lctl % 4)
        (BitVec.ofNat 16 (((s.blk.engine n).loop (w.lctl % 4)).toNat - 1)) else (s.blk.engine n).l) ∧
      ∃ e', (s.blk.engine n).Dispatched e' ∧
        (t.blk.engine n).u = (if w.alu = 0 then (s.blk.engine n).u
          else (s.blk.engine n).u.put (w.dsel - 0x20) (e'.compute w (s.blk.conds n w).condC s.blk.fresh).alu.r) ∧
        (t.blk.engine n).lat = e'.latched w (e'.compute w (s.blk.conds n w).condC s.blk.fresh) (e'.v w.lnd) := by
  have hexec := execMicroword_plain h hp hseq.1 hpush hpop
  have hd := dispatched_engine s.blk n
  have hfresh : (s.blk.dispatched n).fresh = s.blk.fresh := by
    have e := congrArg Block.fresh (dispatched_beside s.blk n)
    exact e
  have hregs : (s.blk.dispatched n).regs = s.blk.regs := by
    have e := congrArg Block.regs (dispatched_beside s.blk n)
    exact e
  have hmem : (s.blk.dispatched n).mem = s.blk.mem := by
    have e := congrArg Block.mem (dispatched_beside s.blk n)
    exact e
  have hseal : (s.blk.dispatched n).isSealed = s.blk.isSealed := by
    have e := congrArg Block.isSealed (dispatched_beside s.blk n)
    exact e
  have hother {m : Nat} (hm : m ≠ n.val) : (s.blk.dispatched n).engine m = s.blk.engine m := dispatched_engine_ne _ _ hm
  have hl : ((s.blk.dispatched n).engine n).l = (s.blk.engine n).l := by rcases hd with h | h <;> exact congrArg (·.l) h
  have hu : ((s.blk.dispatched n).engine n).u = (s.blk.engine n).u := by rcases hd with h | h <;> exact congrArg (·.u) h
  generalize s.blk.conds n w = t at hexec ⊢
  generalize s.blk.dispatched n = d at hexec hd hfresh hregs hmem hseal hother hl hu
  obtain ⟨hk, hlat, hcu, hcl⟩ := commit_plain (e := d.engine n) hp hdiv halu t.condC d.fresh (d.chainHead n) []
  have hkept := (WordKept.of_dispatched hd).trans hk
  have hleave : (d.plainCommit n w t).leaveWord n (d.engine n) w t = (d.plainCommit n w t).modEngine n fun e => Engine.recode { e with
      upc := (d.plainCommit n w t).nextWord n (d.engine n) w t, ustack := (d.engine n).stacked w t.condC,
      inFault := e.inFault && w.seq != 0xC, trapPt := if w.trapok then some false else none } [138] := by
    unfold Block.leaveWord
    rw [if_neg hseq.2.1, if_neg hseq.2.2]
  rw [nextWord_dispatched hd (show (d.plainCommit n w t).regs = s.blk.regs from hregs), stacked_dispatched hd] at hleave
  rw [hleave] at hexec
  rw [← hfresh]
  refine gives_of_done hexec hseal ⟨⟨?_, ?_, ?_, ?_, ?_, ?_, hmem, fun m hm => ?_⟩, ?_⟩
  case refine_7 => exact (Block.modEngine_engine_ne _ _ _ _ hm).trans ((plainCommit_engine_ne hm).trans (hother hm))
  all_goals
    dsimp only
    rw [Block.modEngine_engine_same, plainCommit_engine]
  · exact hkept.gV
  · exact hkept.gT
  · exact hkept.sp
  · exact hkept.vr
  · exact hkept.st
  · exact hkept.pc
  · refine ⟨rfl, rfl, hcl.trans ?_, d.engine n, hd, hcu.trans ?_, hlat⟩
    · rw [hl]
      unfold Engine.loop
      rw [hl]
    · rw [hu]

end

/-! ## HALTU and the faults found at decode -/

/-- The block after an engine's fault source has fired, where its word is a micro-fault's HALTU. -/
def Block.faultSource (b : Block) (n : Nat) : Block := if (b.engine n).inFault then b.event n else b

theorem faultSource_frame (b : Block) {n : Nat} (hn : n < 1024) :
    { b.faultSource n with regs := b.regs, domQ := b.domQ, dcycle := b.dcycle, tick := b.tick } = b := by
  unfold Block.faultSource
  split
  · exact (event_signals hn b).1
  · rfl

section
variable {s : State} {n : PE} {w : Uword}

theorem gives_haltu (h : AtWord s n w) (hp : w.plain) (hseq : w.seq = 0xE) (halu : w.alu = 0) :
    Gives (.microword n .clean .clean) s fun t => WordSame s n t ∧ t.blk.get (R.ENG_USTAT_HALTED n) = 1 := by
  have hpush : w.pushes (s.blk.conds n w).condC = true → (s.blk.engine n).ustack.length < 16 := by
    simp [Uword.pushes, hseq]
  have hpop : w.pops (s.blk.conds n w).condC = true → (s.blk.engine n).ustack ≠ [] := by
    simp [Uword.pops, hseq]
  have hexec := execMicroword_plain h hp (by omega) hpush hpop
  have hd := dispatched_engine s.blk n
  have hbeside := dispatched_beside s.blk n
  have hother {m : Nat} (hm : m ≠ n.val) : (s.blk.dispatched n).engine m = s.blk.engine m := dispatched_engine_ne _ _ hm
  generalize s.blk.conds n w = t at hexec
  generalize s.blk.dispatched n = d at hexec hd hbeside hother
  obtain ⟨hk, -⟩ := commit_plain (e := d.engine n) hp (by omega) (.inl halu) t.condC d.fresh (d.chainHead n) []
  have hkept := (WordKept.of_dispatched hd).trans hk
  have hpe : (d.plainCommit n w t).engine n = _ := plainCommit_engine
  have hpne {m : Nat} (hm : m ≠ n.val) : (d.plainCommit n w t).engine m = s.blk.engine m := (plainCommit_engine_ne hm).trans (hother hm)
  have hmem : (d.plainCommit n w t).mem = s.blk.mem := by
    have e := congrArg Block.mem hbeside
    exact e
  have hseal : (d.plainCommit n w t).isSealed = s.blk.isSealed := by
    have e := congrArg Block.isSealed hbeside
    exact e
  have hleave : (d.plainCommit n w t).leaveWord n (d.engine n) w t = (((d.plainCommit n w t).faultSource n).modEngine n fun e =>
      { e with inFault := false, trapPt := none }).raise (R.ENG_USTAT_HALTED n) := by
    unfold Block.leaveWord
    rw [if_neg (by omega), if_pos hseq]
    rfl
  rw [hleave] at hexec
  generalize d.plainCommit n w t = p at hexec hpe hpne hmem hseal
  have hf := faultSource_frame p (n := n.val) (by omega)
  have hengine (m : Nat) : (p.faultSource n).engine m = p.engine m := by
    have e := congrArg (fun z : Block => z.engine m) hf
    exact e
  have hfmem : (p.faultSource n).mem = p.mem := by
    have e := congrArg Block.mem hf
    exact e
  have hfseal : (p.faultSource n).isSealed = p.isSealed := by
    have e := congrArg Block.isSealed hf
    exact e
  generalize p.faultSource n = c at hexec hengine hfmem hfseal
  refine gives_of_done hexec (hfseal.trans hseal) ⟨?_, Block.get_put_same ..⟩
  have hself : ((c.modEngine n fun e => { e with inFault := false, trapPt := none }).raise (R.ENG_USTAT_HALTED n)).engine n =
      { p.engine n with inFault := false, trapPt := none } := by
    rw [Block.raise_eq, Block.put_engine, Block.modEngine_engine_same, hengine]
  unfold WordSame
  dsimp only
  rw [hself, hpe]
  refine ⟨hkept.gV, hkept.gT, hkept.sp, hkept.vr, hkept.st, hkept.pc, hfmem.trans hmem, fun m hm => ?_⟩
  rw [Block.raise_eq, Block.put_engine, Block.modEngine_engine_ne _ _ _ _ hm, hengine m, hpne hm]

theorem decodeFault_dispatched {e e' : Engine} (h : e.Dispatched e') (w : Uword) : e'.decodeFault w = e.decodeFault w := by
  rcases h with rfl | rfl <;> rfl

theorem decodeFault_cause {e : Engine} {cause addr : Nat} (h : e.decodeFault w = some (cause, addr)) : cause = 1 ∨ cause = 2 := by
  unfold Engine.decodeFault at h
  split at h
  · obtain ⟨rfl, -⟩ := Prod.mk.inj (Option.some.inj h)
    exact .inl rfl
  · split at h
    · obtain ⟨rfl, -⟩ := Prod.mk.inj (Option.some.inj h)
      exact .inr rfl
    · exact absurd h.symm (Option.some_ne_none _)

/-- A reserved word, or one with too small a CYC (R31, R60). -/
theorem gives_decodeFault (hat : s.blk.atWord n = true) (hcmp : (s.blk.engine n).cmp = [])
    (hw : Uword.ofBits ((s.blk.engine n).row (s.blk.engine n).upc.toNat).toNat = w)
    (herr : (s.blk.engine n).csErr.look (s.blk.engine n).upc.toNat ≠ some true) (hin : (s.blk.engine n).inFault = false)
    {cause addr : Nat} (hf : (s.blk.engine n).decodeFault w = some (cause, addr)) :
    Gives (.microword n .clean .clean) s fun t => WordSame s n t ∧ (t.blk.engine n).upc = 0x28 ∧
      t.blk.get (R.ENG_USTAT_UTPC n) = (s.blk.engine n).upc.toNat ∧ t.blk.get (R.ENG_USTAT_LASTCAUSE n) = cause % 2 ^ 8 ∧
      (cause = 1 ∨ cause = 2) ∧ (t.blk.engine n).mdr = BitVec.ofNat 64 (cause + addr * 2 ^ 16) ∧
      (t.blk.engine n).inFault = true := by
  have hd := dispatched_engine s.blk n
  have hbeside := dispatched_beside s.blk n
  have hother {m : Nat} (hm : m ≠ n.val) : (s.blk.dispatched n).engine m = s.blk.engine m := dispatched_engine_ne _ _ hm
  have hexec : exec (.microword n .clean .clean) s = done s ((s.blk.dispatched n).microFault n cause addr) := by
    show execMicroword n .clean .clean s = _
    unfold execMicroword
    rw [if_pos hat, microword_clean s.blk n hcmp herr hw, decodeFault_dispatched hd, hf]
  generalize s.blk.dispatched n = d at hexec hd hbeside hother
  have hin' : (d.engine n).inFault = false := by rcases hd with h | h <;> rw [h] <;> exact hin
  have hupc : (d.engine n).upc = (s.blk.engine n).upc := by rcases hd with h | h <;> exact congrArg (·.upc) h
  have hfault : d.microFault n cause addr = ((d.setEngine n (Engine.recode { d.engine n with
      mdr := BitVec.ofNat 64 (cause + addr * 2 ^ 16), upc := 0x28, inFault := true, wait := none, trapPt := none,
      mdrWritten := true, replay := none } [114, 138, 139])).put (R.ENG_USTAT_UTPC n) (d.engine n).upc.toNat).put
      (R.ENG_USTAT_LASTCAUSE n) cause := by
    unfold Block.microFault
    dsimp only
    rw [hin']
    rfl
  rw [hfault, hupc] at hexec
  have hkept := WordKept.of_dispatched hd
  have hmem : d.mem = s.blk.mem := by
    have e := congrArg Block.mem hbeside
    exact e
  have hseal : d.isSealed = s.blk.isSealed := by
    have e := congrArg Block.isSealed hbeside
    exact e
  refine gives_of_done hexec hseal ⟨⟨?_, ?_, ?_, ?_, ?_, ?_, hmem, fun m hm =>
    (Block.setEngine_engine_ne _ _ _ _ hm).trans (hother hm)⟩, ?_, ?_, Block.get_put_same .., decodeFault_cause hf, ?_, ?_⟩
  case refine_8 =>
    have hne : (R.ENG_USTAT_UTPC n).key ≠ (R.ENG_USTAT_LASTCAUSE n).key := by
      simp only [Fld.key, R.ENG_USTAT_UTPC, R.ENG_USTAT_LASTCAUSE]
      omega
    exact (Block.get_put_ne _ _ _ _ hne).trans ((Block.get_put_same ..).trans (Nat.mod_eq_of_lt (s.blk.engine n).upc.isLt))
  all_goals
    dsimp only
    rw [Block.put_engine, Block.put_engine, Block.setEngine_engine_same]
  · exact hkept.gV
  · exact hkept.gT
  · exact hkept.sp
  · exact hkept.vr
  · exact hkept.st
  · exact hkept.pc
  · rfl
  · rfl
  · rfl

end

/-! ## The ALU's result and the latches -/

section
variable {e : Engine} {w : Uword}

theorem aluSum_r (x y : W64) (cin : Bool) : (aluSum x y cin).r = x + y + BitVec.ofNat 64 (bit cin) := rfl

theorem sub_as_sum (x y : W64) : x + ~~~y + BitVec.ofNat 64 (bit true) = x - y := by
  rw [BitVec.sub_eq_add_neg, BitVec.neg_eq_not_add, BitVec.add_assoc]
  rfl

/-- The results of the operations that O24 names (R45). -/
theorem compute_alu (hshop : w.shop = 0) (cond : Bool) (fresh : Nat) {r : W64}
    (h : (w.alu, r) ∈ ([(0x01, e.opA w), (0x02, e.opB w), (0x03, e.opA w + e.opB w), (0x06, e.opA w - e.opB w),
      (0x09, e.opB w - e.opA w), (0x0A, e.opA w &&& e.opB w), (0x0B, e.opA w ||| e.opB w), (0x0C, e.opA w ^^^ e.opB w),
      (0x10, ~~~e.opA w), (0x11, 0 - e.opA w), (0x12, e.opA w + 1), (0x13, e.opA w - 1),
      (0x29, BitVec.ofNat 64 (((e.opA w).toNat + (e.opB w).toNat) % 2 ^ 48))] : List (Nat × W64))) :
    (e.compute w cond fresh).alu.r = r := by
  unfold Engine.compute
  dsimp only
  rw [hshop]
  show (aluOp w (e.opA w) (e.opB w) e.lat.c e.st.c (Config.freeWord (fresh + 2))).r = r
  generalize e.opA w = a at h ⊢
  generalize e.opB w = b at h ⊢
  unfold aluOp
  simp only [List.mem_cons, Prod.mk.injEq, List.not_mem_nil, or_false] at h
  rcases h with ⟨ha, rfl⟩ | ⟨ha, rfl⟩ | ⟨ha, rfl⟩ | ⟨ha, rfl⟩ | ⟨ha, rfl⟩ | ⟨ha, rfl⟩ | ⟨ha, rfl⟩ | ⟨ha, rfl⟩ | ⟨ha, rfl⟩ |
    ⟨ha, rfl⟩ | ⟨ha, rfl⟩ | ⟨ha, rfl⟩ | ⟨ha, rfl⟩ <;> rw [ha]
  · rfl
  · rfl
  · exact BitVec.add_zero _
  · exact sub_as_sum a b
  · exact sub_as_sum b a
  · rfl
  · rfl
  · rfl
  · rfl
  · exact sub_as_sum 0 a
  · show a + 0#64 + BitVec.ofNat 64 (bit true) = a + 1
    rw [BitVec.add_zero]
    rfl
  · exact sub_as_sum a 1
  · show BitVec.ofNat 64 ((a + b).toNat % 2 ^ 48) = _
    rw [BitVec.toNat_add, Nat.mod_mod_of_dvd _ (by decide)]

theorem latched_plain (hflags : w.flags = 1) (c : Computed) (lane : W128) : (e.latched w c lane).z = (c.alu.r == 0) ∧
    (e.latched w c lane).n = c.alu.r.msb ∧ (e.latched w c lane).c = e.lat.c ∧ (e.latched w c lane).v = e.lat.v := by
  unfold Engine.latched Uword.latchV Uword.flag
  rw [hflags]
  exact ⟨rfl, rfl, rfl, rfl⟩

end

/-! ## The sequencing of a word without units -/

section
variable {s : State} {n : PE} {w : Uword}

theorem stacked_none {e : Engine} {c : Bool} (h : w.seq < 3 ∨ 6 < w.seq) : e.stacked w c = e.ustack := by
  have h3 : w.seq ≠ 3 ∧ w.seq ≠ 4 ∧ w.seq ≠ 5 ∧ w.seq ≠ 6 := by omega
  unfold Engine.stacked Uword.pushes Uword.pops
  simp [h3]

theorem nextWord_on {b : Block} {m : Nat} {e : Engine} {t : MemWait} (h : w.seq = 0) : b.nextWord m e w t = e.upc + 1 := by
  simp [Block.nextWord, h]

/-- A plain word without an ALU operation goes where its SEQ says (R33). -/
theorem gives_sequence (h : AtWord s n w) (hp : w.plain) (halu : w.alu = 0) (hseq : w.seq ≠ 0xA ∧ w.seq ≠ 0xB ∧ w.seq ≠ 0xE)
    (hpush : w.pushes (s.blk.conds n w).condC = true → (s.blk.engine n).ustack.length < 16)
    (hpop : w.pops (s.blk.conds n w).condC = true → (s.blk.engine n).ustack ≠ []) {up : BitVec 13} {stack : List (BitVec 13)}
    {l : Tab (BitVec 16)} (hup : s.blk.nextWord n (s.blk.engine n) w (s.blk.conds n w) = up)
    (hstack : (s.blk.engine n).stacked w (s.blk.conds n w).condC = stack)
    (hl : (if w.seq = 9 then (s.blk.engine n).l.put (w.lctl % 4) (BitVec.ofNat 16 (((s.blk.engine n).loop (w.lctl % 4)).toNat - 1))
      else (s.blk.engine n).l) = l) :
    Gives (.microword n .clean .clean) s fun t => WordSame s n t ∧ (t.blk.engine n).upc = up ∧ (t.blk.engine n).ustack = stack ∧
      (t.blk.engine n).l = l ∧ (t.blk.engine n).u = (s.blk.engine n).u := by
  refine (gives_plainWord h hp hseq (by omega) (.inl halu) hpush hpop).mono fun t ⟨hsame, hu, hs, hlt, e', _, hur, _⟩ =>
    ⟨hsame, hu.trans hup, hs.trans hstack, hlt.trans hl, ?_⟩
  rw [hur, if_pos halu]

end

/-- Settles O24: a word with only an ALU operation commits its result and latches, a word without units goes where SEQ says,
and a reserved or too short one raises its micro-fault. -/
theorem microwords : Obligations.Microwords := by
  intro n w s
  dsimp only
  refine ⟨fun h hp => ⟨fun hseq hshop hflags hlo hhi hlctl r hr => ?_, fun halu hflags hlctl => ?_⟩,
    fun hat hcmp hw herr hin cause addr hf => gives_decodeFault hat hcmp hw herr hin hf⟩
  · have hne : w.alu ≠ 0 ∧ w.alu ≠ 0x2A ∧ w.alu ≠ 0x2B := by
      simp only [List.mem_cons, Prod.mk.injEq, List.not_mem_nil, or_false] at hr
      omega
    refine (gives_plainWord h hp (by omega) hne.2 (.inr ⟨hlo, hhi⟩) (by simp [Uword.pushes, hseq]) (by simp [Uword.pops, hseq])).mono
      fun t ⟨hsame, hup, hstack, _, e', hd, hu, hlat⟩ => ?_
    have hr' : (e'.compute w (s.blk.conds n w).condC s.blk.fresh).alu.r = r := by
      refine compute_alu hshop _ _ ?_
      rcases hd with rfl | rfl <;> exact hr
    obtain ⟨hz, hn, hc, hv⟩ := latched_plain (e := e') hflags (e'.compute w (s.blk.conds n w).condC s.blk.fresh) (e'.v w.lnd)
    have hlat' : e'.lat = (s.blk.engine n).lat := by rcases hd with rfl | rfl <;> rfl
    rw [hlat, hz, hn, hc, hv, hr', hlat']
    refine ⟨hsame, ?_, ?_, ?_, rfl, rfl, ?_, ?_⟩
    · rw [hu, if_neg hne.1, hr']
    · rw [Bool.eq_iff_iff, beq_iff_eq, decide_eq_true_iff]
      exact BitVec.toNat_eq.trans Iff.rfl
    · exact BitVec.msb_eq_decide r
    · exact hup.trans (nextWord_on (by omega))
    · exact hstack.trans (stacked_none (by omega))
  · have hcond : (s.blk.conds n w).condC = combine w.ccomb (s.blk.condition n w w.ca) (s.blk.condition n w w.cb) := rfl
    have hcounter : (s.blk.engine n).loop (w.lctl % 4) = (s.blk.engine n).l.get 0 0 := by
      rw [hlctl]
      rfl
    have hgo := fun {up stack l} => gives_sequence (up := up) (stack := stack) (l := l) h hp halu
    have hpush {p : Prop} (hs : w.seq ≠ 3 ∧ w.seq ≠ 4) : w.pushes (s.blk.conds n w).condC = true → p := by
      simp [Uword.pushes, hs]
    have hpop {p : Prop} (hs : w.seq ≠ 5 ∧ w.seq ≠ 6) : w.pops (s.blk.conds n w).condC = true → p := by
      simp [Uword.pops, hs]
    refine ⟨fun hseq => ?_, fun hseq => ?_, fun hseq => ?_, fun hseq hroom => ?_, fun hseq hroom => ?_, fun p l hs =>
      ⟨fun hseq => ?_, fun hseq => ?_⟩, fun hseq => ?_, fun hseq => ?_, fun hseq => ?_, fun hseq => ?_, fun hseq => ?_,
      fun hseq => gives_haltu h hp hseq halu⟩
    · exact hgo (by omega) (hpush (by omega)) (hpop (by omega)) (nextWord_on hseq) (stacked_none (by omega)) (if_neg (by omega))
    · exact hgo (by omega) (hpush (by omega)) (hpop (by omega)) (by simp [Block.nextWord, hseq]) (stacked_none (by omega))
        (if_neg (by omega))
    · exact hgo (by omega) (hpush (by omega)) (hpop (by omega)) (by simp [Block.nextWord, hseq, hcond]) (stacked_none (by omega))
        (if_neg (by omega))
    · exact hgo (by omega) (fun _ => hroom) (hpop (by omega)) (by simp [Block.nextWord, hseq])
        (by simp [Engine.stacked, Uword.pushes, hseq]) (if_neg (by omega))
    · rw [← hcond]
      split
      next hc =>
        exact hgo (by omega) (fun _ => hroom) (hpop (by omega)) (by simp [Block.nextWord, hseq, hc])
          (by simp [Engine.stacked, Uword.pushes, hseq, hc]) (if_neg (by omega))
      next hc =>
        exact hgo (by omega) (fun _ => hroom) (hpop (by omega)) (by simp [Block.nextWord, hseq, hc])
          (by simp [Engine.stacked, Uword.pushes, Uword.pops, hseq, hc]) (if_neg (by omega))
    · exact hgo (by omega) (hpush (by omega)) (by simp [hs]) (by simp [Block.nextWord, hseq, hs])
        (by simp [Engine.stacked, Uword.pushes, Uword.pops, hseq, hs]) (if_neg (by omega))
    · rw [← hcond]
      split
      next hc =>
        exact hgo (by omega) (hpush (by omega)) (by simp [hs]) (by simp [Block.nextWord, hseq, hs, hc])
          (by simp [Engine.stacked, Uword.pushes, Uword.pops, hseq, hs, hc]) (if_neg (by omega))
      next hc =>
        exact hgo (by omega) (hpush (by omega)) (by simp [hs]) (by simp [Block.nextWord, hseq, hc])
          (by simp [Engine.stacked, Uword.pushes, Uword.pops, hseq, hs, hc]) (if_neg (by omega))
    · have htgt : w.tgt / 4 * 4 = w.tgt - w.tgt % 4 := by omega
      exact hgo (by omega) (hpush (by omega)) (hpop (by omega)) (by simp only [Block.nextWord, hseq, htgt]; rfl) (stacked_none (by omega))
        (if_neg (by omega))
    · exact hgo (by omega) (hpush (by omega)) (hpop (by omega)) (by simp [Block.nextWord, hseq]) (stacked_none (by omega))
        (if_neg (by omega))
    · split
      next hz =>
        refine hgo (by omega) (hpush (by omega)) (hpop (by omega)) (by simp only [Block.nextWord, hseq, hcounter]; exact if_pos hz)
          (stacked_none (by omega)) ?_
        rw [if_pos hseq, hcounter, hz, hlctl]
        rfl
      next hz =>
        refine hgo (by omega) (hpush (by omega)) (hpop (by omega)) (by simp only [Block.nextWord, hseq, hcounter]; exact if_neg hz)
          (stacked_none (by omega)) ?_
        rw [if_pos hseq, hcounter, hlctl]
        have hpos : 1 ≤ ((s.blk.engine n).l.get 0 0).toNat := Nat.pos_of_ne_zero fun hc => hz (BitVec.eq_of_toNat_eq hc)
        congr 1
        apply BitVec.eq_of_toNat_eq
        rw [BitVec.toNat_ofNat, BitVec.toNat_sub_of_le (by exact hpos), Nat.mod_eq_of_lt (by omega)]
        rfl
    · exact hgo (by omega) (hpush (by omega)) (hpop (by omega)) (by simp [Block.nextWord, hseq]) (stacked_none (by omega))
        (if_neg (by omega))
    · exact hgo (by omega) (hpush (by omega)) (hpop (by omega)) (by simp [Block.nextWord, hseq, Engine.ur]) (stacked_none (by omega))
        (if_neg (by omega))

end Sys2Proof.Machine
end

section
/-! Micro-loads and the answers that reach an engine (R51, R52, R54, R57). -/
namespace Sys2Proof.Machine

/-! ## A word's faults at its dispatch -/

section
variable (b : Block) (n : Nat) (w : Uword)

theorem probeCheck_noSkip (a len : Nat) : (b.modEngine n Engine.noSkip).probeCheck n a len = b.probeCheck n a len := by
  unfold Block.probeCheck
  rw [check_noSkip, check_noSkip]
  rfl

theorem memFault_noSkip : (b.modEngine n Engine.noSkip).memFault n w = b.memFault n w := by
  unfold Block.memFault
  rw [Block.modEngine_engine_same]
  show (if w.mem = 0 then none else if 0x4000000 < (b.engine n).uaddr w + w.size then some (6, (b.engine n).uaddr w)
    else if memLocked w.mem && badAtomic ((b.engine n).uaddr w) w.size then some (7, (b.engine n).uaddr w)
    else match w.rights with
      | some rs => asFault ((b.modEngine n Engine.noSkip).check n rs ((b.engine n).uaddr w) w.size)
      | none => asFault ((b.modEngine n Engine.noSkip).probeCheck n ((b.engine n).uaddr w) w.size)) = _
  rw [probeCheck_noSkip]
  cases w.rights with
  | none => rfl
  | some rs =>
    dsimp only
    rw [check_noSkip]

theorem xfFault_noSkip : (b.modEngine n Engine.noSkip).xfFault n w = b.xfFault n w := by
  unfold Block.xfFault
  rw [Block.modEngine_engine_same]
  dsimp only
  cases ({ w with mem := 0 } : Uword).rights with
  | none => rfl
  | some rs =>
    dsimp only
    rw [check_noSkip]
    rfl

theorem wordFault_noSkip (c : Bool) (sent : Nat) :
    (b.modEngine n Engine.noSkip).wordFault n w c sent = b.wordFault n w c sent := by
  unfold Block.wordFault
  rw [memFault_noSkip, xfFault_noSkip, Block.modEngine_engine_same]
  rfl

theorem wordFault_dispatched (c : Bool) (sent : Nat) : (b.dispatched n).wordFault n w c sent = b.wordFault n w c sent := by
  rcases dispatched_cases b n with h | h <;> rw [h]
  exact wordFault_noSkip b n w c sent

end

/-! ## A load presented -/

section
variable {b : Block} {n : PE} {w : Uword} {k : Nat}

/-- The request of a micro-load. -/
def Block.loadReq (b : Block) (n : PE) (w : Uword) : Req :=
  b.engReq n .read ((b.engine n).uaddr w) w.size [] 0 .word 0 false

theorem presentWord_load (hp : ({ w with mem := 0 } : Uword).plain) (hmem : w.mem = 1 ∨ w.mem = 2)
    (ht : b.target ((b.engine n).uaddr w) = .carafe k) (hin : (b.engine n).uaddr w % 2 ^ 20 + w.size ≤ 2 ^ 20) :
    b.presentWord n w = (b.countAccess n ((b.engine n).uaddr w) false false).post (b.loadReq n w) := by
  obtain ⟨-, hxf, hext, -⟩ := hp
  have hcount := countAccess_only b n ((b.engine n).uaddr w) false false
  have htarget : (b.countAccess n ((b.engine n).uaddr w) false false).target (b.loadReq n w).addr = .carafe k :=
    (hcount.target _).trans ht
  have hissue : (b.countAccess n ((b.engine n).uaddr w) false false).issue (b.loadReq n w) =
      (b.countAccess n ((b.engine n).uaddr w) false false).post (b.loadReq n w) := by
    unfold Block.issue
    rw [htarget]
    have hpieces : pieces (b.loadReq n w).addr (b.loadReq n w).len = [((b.loadReq n w).addr, (b.loadReq n w).len)] := pieces_within hin
    rw [hpieces]
    rfl
  have hmem' : b.presentMem n w = (b.countAccess n ((b.engine n).uaddr w) false false).post (b.loadReq n w) := by
    rw [← hissue]
    unfold Block.presentMem
    rcases hmem with h | h <;> simp only [h] <;> rfl
  unfold Block.presentWord
  rw [hmem']
  have hxf' (c : Block) : c.presentXf n w = c := by
    unfold Block.presentXf
    simp [show w.xf = 0 from hxf]
  rw [hxf']
  exact if_pos hext

theorem runWord_load (hp : ({ w with mem := 0 } : Uword).plain) (hmem : w.mem = 1 ∨ w.mem = 2) (hseq : w.seq ≠ 0xA)
    (hreplay : (b.engine n).replay = none) (hcodes : (b.engine n).codes = [])
    (hfault : b.wordFault n w (b.conds n w).condC 0 = none)
    (ht : b.target ((b.engine n).uaddr w) = .carafe k) (hin : (b.engine n).uaddr w % 2 ^ 20 + w.size ≤ 2 ^ 20) :
    b.runWord n w .clean = ((b.countAccess n ((b.engine n).uaddr w) false false).post (b.loadReq n w)).modEngine n fun e =>
      { e with wait := some (b.conds n w) } := by
  have hwaits : memWaits w.mem = true := by rcases hmem with h | h <;> rw [h] <;> rfl
  have hgo : b.wordGo n w (b.conds n w) ⟨0, none, false, []⟩ none =
      ((b.countAccess n ((b.engine n).uaddr w) false false).post (b.loadReq n w)).modEngine n fun e =>
        { e with wait := some (b.conds n w) } := by
    unfold Block.wordGo
    dsimp only
    rw [if_neg (by decide), presentWord_load hp hmem ht hin, if_pos hwaits]
    rfl
  unfold Block.runWord
  dsimp only
  rw [upset_clean, hreplay, anyCorrupt_of_nil hcodes, anyCorrupt_of_nil hcodes, anyCorrupt_of_nil hcodes]
  dsimp only [Option.getD]
  rw [if_neg (by simp [hseq]), if_neg Bool.false_ne_true, hfault]
  exact hgo

end

theorem gives_microLoad {s : State} {n : PE} {w : Uword} {k : Nat} (h : AtWord s n w) (hp : ({ w with mem := 0 } : Uword).plain)
    (hmem : w.mem = 1 ∨ w.mem = 2) (hseq : w.seq ≠ 0xA) (ht : s.blk.target ((s.blk.engine n).uaddr w) = .carafe k)
    (hin : (s.blk.engine n).uaddr w % 2 ^ 20 + w.size ≤ 2 ^ 20) (hfault : s.blk.wordFault n w (s.blk.conds n w).condC 0 = none) :
    Gives (.microword n .clean .clean) s fun t =>
      (t.blk.bankAt k).waiting = seat k ((s.blk.bankAt k).waiting ++
        [s.blk.engReq n .read ((s.blk.engine n).uaddr w) w.size [] 0 .word 0 false]) ∧
      (t.blk.engine n).wait = some (s.blk.conds n w) ∧ (t.blk.engine n).upc = (s.blk.engine n).upc ∧
      (t.blk.engine n).gV = (s.blk.engine n).gV ∧ t.blk.mem = s.blk.mem := by
  obtain ⟨hat, hcmp, hw, herr, hreplay, hcodes, hdecode⟩ := h
  have hd := dispatched_engine s.blk n
  have hconds := conds_dispatched s.blk n w
  have hfault' := wordFault_dispatched s.blk n w (s.blk.conds n w).condC 0
  have hreplay' : ((s.blk.dispatched n).engine n).replay = none := by rcases hd with h | h <;> rw [h] <;> exact hreplay
  have hcodes' : ((s.blk.dispatched n).engine n).codes = [] := by rcases hd with h | h <;> rw [h] <;> exact hcodes
  have haddr : ((s.blk.dispatched n).engine n).uaddr w = (s.blk.engine n).uaddr w := by
    rcases hd with h | h <;> exact congrArg (·.uaddr w) h
  have hupc : ((s.blk.dispatched n).engine n).upc = (s.blk.engine n).upc := by rcases hd with h | h <;> exact congrArg (·.upc) h
  have hgV : ((s.blk.dispatched n).engine n).gV = (s.blk.engine n).gV := (WordKept.of_dispatched hd).gV
  have hbeside := dispatched_beside s.blk n
  have hbank (j : Nat) : (s.blk.dispatched n).bankAt j = s.blk.bankAt j := by
    have e := congrArg (fun z : Block => z.bankAt j) hbeside
    exact e
  have htarget : (s.blk.dispatched n).target ((s.blk.engine n).uaddr w) = .carafe k := target_of_carafe ht
  have hclass (a : Nat) : (s.blk.dispatched n).classOf a = s.blk.classOf a := by
    have e := congrArg (fun z : Block => z.classOf a) hbeside
    exact e
  have hmem' : (s.blk.dispatched n).mem = s.blk.mem := by
    have e := congrArg Block.mem hbeside
    exact e
  have hseal : (s.blk.dispatched n).isSealed = s.blk.isSealed := by
    have e := congrArg Block.isSealed hbeside
    exact e
  have hexec : exec (.microword n .clean .clean) s = done s ((s.blk.dispatched n).runWord n w .clean) := by
    show execMicroword n .clean .clean s = _
    unfold execMicroword
    rw [if_pos hat, microword_clean s.blk n hcmp herr hw, decodeFault_dispatched hd, hdecode]
  rw [runWord_load hp hmem hseq hreplay' hcodes' (by rw [hconds, hfault', hfault]) (by rw [haddr]; exact htarget)
    (by rw [haddr]; exact hin), hconds, haddr] at hexec
  have hreq : (s.blk.dispatched n).loadReq n w = s.blk.loadReq n w := by
    unfold Block.loadReq Block.engReq
    rw [haddr, hclass]
  rw [hreq] at hexec
  have hcount := countAccess_only (s.blk.dispatched n) n ((s.blk.engine n).uaddr w) false false
  generalize s.blk.dispatched n = d at hexec hd hupc hgV hbank htarget hmem' hseal hcount
  generalize d.countAccess n ((s.blk.engine n).uaddr w) false false = c at hexec hcount
  have hct : c.target (s.blk.loadReq n w).addr = .carafe k := target_of_carafe ht
  have hpost : c.post (s.blk.loadReq n w) =
      c.setBank k { c.bankAt k with waiting := seat k ((c.bankAt k).waiting ++ [s.blk.loadReq n w]) } := by
    unfold Block.post
    rw [hct]
  rw [hpost] at hexec
  have hce (m : Nat) : c.engine m = d.engine m := hcount.engine m
  refine gives_of_done hexec ?_ ⟨?_, ?_, ?_, ?_, hcount.mem.trans hmem'⟩
  · have e := congrArg Block.isSealed hcount.1
    exact e.trans hseal
  · dsimp only
    rw [Block.modEngine_bankAt, Block.setBank_bankAt_same, hcount.bankAt, hbank]
    rfl
  all_goals
    dsimp only
    rw [Block.modEngine_engine_same]
  · show (c.engine n).upc = _
    rw [hce, hupc]
  · show (c.engine n).gV = _
    rw [hce, hgV]

/-! ## A load's data -/

theorem memToMdr_of_load {w : Uword} (h : w.mem = 1 ∨ w.mem = 2) : memToMdr w.mem = true := by
  rcases h with h | h <;> rw [h] <;> rfl

theorem commitMem_load {e : Engine} {w : Uword} (h : w.mem = 1 ∨ w.mem = 2) (c : Computed) (d : List Byte) :
    e.commitMem w c d = Engine.recode { e with mdr := mdrValue d (w.mem == 2) (c.free 6) } [114] := by
  unfold Engine.commitMem
  rcases h with h | h <;> simp only [h] <;> rfl

/-- What a micro-load without any other operation commits (R32, R51). -/
theorem commit_load {e : Engine} {w : Uword} (hp : ({ w with mem := 0 } : Uword).plain) (hmem : w.mem = 1 ∨ w.mem = 2)
    (halu : w.alu = 0) (hseq : w.seq = 0) (cond : Bool) (fresh : Nat) (head : Option (List Byte × Nat)) (d : List Byte) :
    ∃ free, WordKept e (e.commit w (e.compute w cond fresh) head d) ∧
      (e.commit w (e.compute w cond fresh) head d).mdr = mdrValue d (w.mem == 2) free := by
  obtain ⟨-, hxf, -, hln, hmul, hfp, hstrd, hlctl⟩ := hp
  obtain ⟨hregs, hfpr⟩ := compute_plain (e := e) (w := w) hfp cond fresh
  generalize e.compute w cond fresh = c at hregs hfpr ⊢
  obtain ⟨hk1, hu1, hl1⟩ := commitFp_plain (e := e) (w := w) hregs hfpr
  have hwrites : e.writesMdr w = true := by
    unfold Engine.writesMdr
    rw [memToMdr_of_load hmem]
    rfl
  refine ⟨c.free 6, ?_⟩
  unfold Engine.commit
  dsimp only
  rw [commitLane_plain (w := w) hln, commitMul_plain (w := w) hmul, commitDiv_plain e (by omega)]
  generalize e.commitFp w c = e1 at hk1 hu1 hl1
  obtain ⟨hk2, -, -⟩ := commitAlu_plain (e := e1) (c := c) e (.inl halu)
  generalize e1.commitAlu e w c = e2 at hk2
  rw [commitMem_load hmem, commitXf_plain (w := w) hxf, strd_plain (w := w) hstrd, if_pos hwrites]
  have hloops (q : Engine) : q.loops w c.a = q := by
    have hdiv : w.lctl / 4 = 0 := by
      have : w.lctl < 4 := hlctl
      omega
    unfold Engine.loops
    simp only [hdiv]
    exact if_neg (by omega)
  rw [hloops]
  have hk := hk1.trans hk2
  exact ⟨⟨hk.gV, hk.gT, hk.sp, hk.vr, hk.st, hk.pc, hk.ustack, hk.cmp⟩, rfl⟩

theorem mdrValue_of_short {d : List Byte} (h1 : 1 ≤ d.length) (h8 : d.length ≤ 8) (sgn : Bool) (free : W64) :
    mdrValue d sgn free = loadValue d sgn := by
  unfold mdrValue
  refine if_neg ?_
  have : d ≠ [] := by
    rintro rfl
    exact absurd h1 (by decide)
  simp [this, h8]

/-- A word commits with its load's data and goes on (R32, R51). -/
theorem commitWord_load {b : Block} {n : Nat} {w : Uword} (hp : ({ w with mem := 0 } : Uword).plain) (hmem : w.mem = 1 ∨ w.mem = 2)
    (t : MemWait) (d : List Byte)
    (hcmp : ((b.engine n).commit w ((b.engine n).compute w t.condC b.fresh) (b.chainHead n) d).cmp = []) :
    b.commitWord n w t d = ({ b.setEngine n { (b.engine n).commit w ((b.engine n).compute w t.condC b.fresh) (b.chainHead n) d with
      wait := none, replay := none } with fresh := b.fresh + freePerWord } : Block).leaveWord n (b.engine n) w t := by
  have hln : w.ln = 0 := hp.2.2.2.1
  have hwaits : memWaits w.mem = true := by rcases hmem with h | h <;> rw [h] <;> rfl
  unfold Block.commitWord
  dsimp only
  rw [if_neg (show ¬ w.ln = 0x11 by omega), if_neg (show ¬ w.ln = 0x12 by omega), if_neg (show ¬ w.mem = 9 by omega),
    if_pos hwaits, cmpData_of_none]
  refine (congrArg (fun e : Engine => e.cmp) (Block.setEngine_engine_same b n _)).trans ?_
  exact hcmp

theorem gives_loadData {s : State} {n : PE} {w : Uword} {q : MemWait} {r : Resp} {rest : List Resp}
    (hwait : (s.blk.engine n).wait = some q) (hruns : s.blk.runs n = true) (hresps : s.blk.resps = r :: rest) (hpe : r.pe = n.val)
    (hreply : r.reply = .word) (herr : r.err = false) (h1 : 1 ≤ r.data.length) (h8 : r.data.length ≤ 8)
    (hw : Uword.ofBits ((s.blk.engine n).row (s.blk.engine n).upc.toNat).toNat = w) (hp : ({ w with mem := 0 } : Uword).plain)
    (halu : w.alu = 0) (hseq : w.seq = 0) (hmem : w.mem = 1 ∨ w.mem = 2) (hcmp : (s.blk.engine n).cmp = [])
    (hcodes : (s.blk.engine n).codes = []) :
    Gives (.carafeLoadData n .clean) s fun t => t.blk.resps = rest ∧ (t.blk.engine n).wait = none ∧
      (t.blk.engine n).mdr = (if w.mem = 1 then BitVec.ofNat 64 (leNat r.data)
        else (BitVec.ofNat (8 * r.data.length) (leNat r.data)).signExtend 64) ∧
      (t.blk.engine n).upc = (s.blk.engine n).upc + 1 ∧ (t.blk.engine n).gV = (s.blk.engine n).gV ∧ t.blk.mem = s.blk.mem := by
  have htake : takeResp n (· == .word) s.blk.resps = some (r, rest) := by
    rw [hresps]
    unfold takeResp
    rw [hpe, hreply]
    simp
  let b : Block := { s.blk with resps := rest }
  obtain ⟨free, hk, hmdr⟩ := commit_load (e := b.engine n) hp hmem halu hseq q.condC b.fresh (b.chainHead n) r.data
  have hexec : exec (.carafeLoadData n .clean) s = done s (b.commitWord n w q r.data) := by
    show execCarafeLoadData n .clean s = _
    unfold execCarafeLoadData
    dsimp only
    rw [hwait, htake]
    dsimp only
    rw [hruns, herr, if_neg (by decide), if_neg (by decide)]
    refine congrArg (done s) ?_
    show b.judge n q.seen (mismatches .clean ((b.engine n).anyCorrupt ((b.engine n).reads
      (Uword.ofBits ((b.engine n).row (b.engine n).upc.toNat).toNat))))
      (fun _ c => c.commitWord n (Uword.ofBits ((b.engine n).row (b.engine n).upc.toNat).toNat) q r.data) _ = _
    rw [anyCorrupt_of_nil (e := b.engine n) hcodes, show Uword.ofBits ((b.engine n).row (b.engine n).upc.toNat).toNat = w from hw]
    cases q.seen <;> rfl
  rw [commitWord_load hp hmem q r.data (hk.cmp.trans hcmp)] at hexec
  generalize (b.engine n).commit w ((b.engine n).compute w q.condC b.fresh) (b.chainHead n) r.data = c at hexec hk hmdr
  have hleave (p : Block) : p.leaveWord n (b.engine n) w q = p.modEngine n fun e => Engine.recode { e with
      upc := p.nextWord n (b.engine n) w q, ustack := (b.engine n).stacked w q.condC,
      inFault := e.inFault && w.seq != 0xC, trapPt := if w.trapok then some false else none } [138] := by
    unfold Block.leaveWord
    rw [if_neg (by omega), if_neg (by omega)]
  rw [hleave] at hexec
  have hself : (({ b.setEngine n { c with wait := none, replay := none } with fresh := b.fresh + freePerWord } : Block).engine n) =
      { c with wait := none, replay := none } := Block.setEngine_engine_same ..
  refine gives_of_done hexec rfl ⟨rfl, ?_, ?_, ?_, ?_, rfl⟩
  all_goals
    dsimp only
    rw [Block.modEngine_engine_same, hself]
  · rfl
  · refine hmdr.trans ?_
    rw [mdrValue_of_short h1 h8]
    rcases hmem with h | h <;> rw [h]
    · rfl
    · exact loadValue_signed _ h1
  · exact nextWord_on hseq
  · exact hk.gV

/-! ## Responses and strobe answers -/

theorem gives_fabricResponse {s : State} {n : PE} {c : BitVec 5} {r : Resp} {rest : List Resp} {dropped : Bool} {len : Nat}
    (hclock : s.blk.clocked n = true) (hresps : s.blk.resps = r :: rest) (hpe : r.pe = n.val) (hreply : r.reply = .channel c.toNat)
    (hbefore : r.before = []) (hcmp : (s.blk.engine n).cmp = []) (hslot : (s.blk.engine n).slot c.toNat = .expecting dropped len)
    (herr : r.err = false) :
    Gives (.fabricResponse n c) s fun t => t.blk.resps = rest ∧
      (t.blk.engine n).slot c.toNat = (if dropped then .free else .held r.data false) ∧
      (t.blk.engine n).gV = (s.blk.engine n).gV ∧ (t.blk.engine n).upc = (s.blk.engine n).upc ∧ t.blk.mem = s.blk.mem := by
  have htake : takeResp n (fun r => r == .channel c.toNat || r == .fence c.toNat) s.blk.resps = some (r, rest) := by
    rw [hresps]
    unfold takeResp
    rw [hpe, hreply]
    simp
  have hseen : (if r.data.isEmpty then ({ s.blk with resps := rest } : Block)
      else ({ s.blk with resps := rest } : Block).cmpData n true false r.addr r.data.length (leNat r.data)) =
      { s.blk with resps := rest } := by
    rw [cmpData_of_none (b := { s.blk with resps := rest }) hcmp, ite_self]
  have hexec : exec (.fabricResponse n c) s = done s (if dropped then
        ({ s.blk with resps := rest } : Block).modEngine n fun e =>
          { e with slots := e.slots.del c.toNat, streamIn := e.streamIn.filter (· != .rdl c.toNat) }
      else (({ s.blk with resps := rest } : Block).modEngine n fun e => Engine.recode { e with
          slots := e.slots.put c.toNat (.held r.data false) } [141 + c.toNat]).drawn) := by
    show execFabricResponse n c s = _
    unfold execFabricResponse
    dsimp only
    rw [htake]
    dsimp only
    rw [hclock, hbefore, if_neg (by simp), hslot]
    dsimp only
    rw [hseen, herr]
    rfl
  cases dropped with
  | true =>
    refine gives_of_done hexec rfl ⟨rfl, ?_, ?_, ?_, rfl⟩
    all_goals
      dsimp only
      rw [if_pos rfl, Block.modEngine_engine_same]
    · rw [if_pos rfl]
      unfold Engine.slot Tab.get
      dsimp only
      rw [Tab.look_del_same]
      rfl
    · rfl
    · rfl
  | false =>
    refine gives_of_done hexec rfl ⟨rfl, ?_, ?_, ?_, rfl⟩
    all_goals
      dsimp only
      rw [if_neg Bool.false_ne_true, Block.drawn_engine, Block.modEngine_engine_same]
    · rw [if_neg Bool.false_ne_true]
      exact Tab.get_put_same ..
    · rfl
    · rfl

theorem gives_extAnswer {s : State} {n : PE} {x : ExtAns} (hx : s.blk.extAns.find? (·.pe == n.val) = some x)
    (hclock : s.blk.clocked n = true) (hres : (s.blk.engine n).resFault = false) (hwait : (s.blk.engine n).wait = none)
    (hmdr : (s.blk.engine n).mdrWritten = false) (hcodes : (s.blk.engine n).codes = []) :
    Gives (.extAnswer n) s fun t => t.blk =
      { s.blk.setEngine n { s.blk.engine n with extBusy := false, extErr := x.err, mdr := x.data.getD (s.blk.engine n).mdr } with
        extAns := s.blk.extAns.erase x } := by
  have hexec : exec (.extAnswer n) s = done s
      { s.blk.setEngine n { s.blk.engine n with extBusy := false, extErr := x.err, mdr := x.data.getD (s.blk.engine n).mdr } with
        extAns := s.blk.extAns.erase x } := by
    show execExtAnswer n s = _
    unfold execExtAnswer
    dsimp only
    rw [hx]
    dsimp only
    rw [hclock, if_neg (by decide)]
    refine congrArg (done s) ?_
    show ({ s.blk with extAns := s.blk.extAns.erase x } : Block).setEngine n _ = _
    have hself : ({ s.blk with extAns := s.blk.extAns.erase x } : Block).engine n = s.blk.engine n := rfl
    rw [hself]
    dsimp only
    rw [hres, hwait, hmdr]
    dsimp only
    cases hdata : x.data with
    | none => rfl
    | some v => exact congrArg (fun e => ({ s.blk with extAns := s.blk.extAns.erase x } : Block).setEngine n e) (recode_nil _ hcodes)
  exact gives_of_done hexec rfl rfl

end Sys2Proof.Machine
end

section
/-! Micro-traps (R61 to R65, R333, R334, R343, R466). -/
namespace Sys2Proof.Machine

/-! ## Where a micro-trap is taken -/

section
variable {s : State} {n : PE}

theorem execMicroTrap_at (hruns : s.blk.runs n = true) (hwait : (s.blk.engine n).wait = none) :
    exec (.microTrap n) s = done s (match (s.blk.engine n).point, s.blk.trapDue n with
      | some p, some .clockStop => s.blk.clockStop n (!p)
      | some p, some .freeze => (s.blk.recordTrap n (!p) .freeze).takeFreeze n (!p)
      | some p, some t => (s.blk.recordTrap n (!p) t).takeTrap n (!p) t
      | _, _ => s.blk) := by
  show execMicroTrap n s = _
  unfold execMicroTrap
  dsimp only
  rw [hwait]
  have hcond : ¬ ((s.blk.runs n && (s.blk.trapDue n).isSome && (none : Option MemWait).isSome) = true) := by simp
  rw [if_neg hcond, hruns, hwait]
  rfl

theorem gives_microTrap_none (hruns : s.blk.runs n = true) (hwait : (s.blk.engine n).wait = none) (h : s.blk.trapDue n = none) :
    Gives (.microTrap n) s (Same s) := by
  have hexec := execMicroTrap_at hruns hwait
  rw [h] at hexec
  refine gives_of_done (b := s.blk) (hexec.trans ?_) rfl rfl
  cases (s.blk.engine n).point <;> rfl

end

/-! ## The clock-stop halt -/

theorem isPmc_xhalt (n : PE) : isPmc n (R.xhalt n) = false := by
  have hn : n.val < 72 := n.isLt
  unfold R.xhalt
  split
  · simp [isPmc, Fld.key, R.DBG_XHALT_SE, R.ENG_PMCTL_OVF, R.ENG_PMC_COUNT, List.range, List.range.loop]
    omega
  · simp [isPmc, Fld.key, R.DBG_XHALT2_SE, R.ENG_PMCTL_OVF, R.ENG_PMC_COUNT, List.range, List.range.loop]
    omega

theorem xhalt_key (n : PE) : 0x80000 * 32 ≤ (R.xhalt n).key := by
  unfold R.xhalt
  split
  · simp only [Fld.key, R.DBG_XHALT_SE]
    omega
  · decide

/-- The engine's own change at a clock-stop halt. -/
def Engine.stopped (e : Engine) (free : W64) : Engine := { e with halt := none, cycle := e.cycle + free }

/-- The registers of engine `n` in a clock-stop halt. -/
def Block.stopRegs (b : Block) (n : Nat) (inside : Bool) : Block :=
  (((b.clear (R.ENG_DBGSTAT_PENDING n)).clear (R.ENG_DBGSTAT_STEPPING n)).raise (R.ENG_DBGSTAT_CSTOP n)).put
    (R.ENG_DBGSTAT_INSTR n) (bit inside)

theorem stopRegs_get (b : Block) (n : Nat) (inside : Bool) : (b.stopRegs n inside).get (R.ENG_DBGSTAT_CSTOP n) = 1 ∧
    (b.stopRegs n inside).get (R.ENG_DBGSTAT_PENDING n) = 0 ∧ (b.stopRegs n inside).get (R.ENG_DBGSTAT_INSTR n) = bit inside := by
  unfold Block.stopRegs Block.clear Block.raise
  refine ⟨?_, ?_, ?_⟩ <;>
    simp (disch := (simp only [Fld.key, R.ENG_DBGSTAT_PENDING, R.ENG_DBGSTAT_STEPPING, R.ENG_DBGSTAT_CSTOP, R.ENG_DBGSTAT_INSTR]; omega)) only
      [Block.get_put_same, Block.get_put_ne, Nat.zero_mod]
  · rfl
  · exact bit_mod _

theorem stopRegs_get_ne (b : Block) (n : Nat) (inside : Bool) {g : Fld} (hg : (0x40005 + n * 0x100) * 32 ≤ g.key) :
    (b.stopRegs n inside).get g = b.get g := by
  unfold Block.stopRegs Block.clear Block.raise
  simp (disch := (simp only [Fld.key, R.ENG_DBGSTAT_PENDING, R.ENG_DBGSTAT_STEPPING, R.ENG_DBGSTAT_CSTOP, R.ENG_DBGSTAT_INSTR] at hg ⊢; omega)) only
    [Block.get_put_ne]

theorem emit_quiet {b : Block} {n : Nat} (h : b.tracing n = false) (kind info vec payload : Nat) :
    b.emit n kind info vec payload = b := if_neg (by rw [h]; exact Bool.false_ne_true)

theorem clockStop_alone {b : Block} {n : PE} {inside : Bool} (hgroup : b.inGroup n = false) (htr : b.tracing n = false) :
    b.clockStop n inside = ((b.countEng n 0x09).modEngine n fun e => e.stopped b.freeWord).drawn.stopRegs n inside := by
  have hcount := countEng_only b n 0x09
  have htrace : ((((b.countEng n 0x09).modEngine n fun e => e.stopped b.freeWord).drawn.clear (R.ENG_DBGSTAT_PENDING n)).clear
      (R.ENG_DBGSTAT_STEPPING n)).tracing n = false := by
    rw [← htr]
    refine tracing_congr ?_ ?_
    · unfold Block.clear
      simp (disch := (simp only [Fld.key, R.ENG_DBGSTAT_PENDING, R.ENG_DBGSTAT_STEPPING, R.ENG_DBGCTL_TREN]; omega)) only
        [Block.get_put_ne, Block.drawn_get, Block.modEngine_get]
      exact hcount.2 _ (isPmc_tren n)
    · unfold Block.clear
      simp (disch := (simp only [Fld.key, R.ENG_DBGSTAT_PENDING, R.ENG_DBGSTAT_STEPPING, R.TRC_CTRL_EN]; omega)) only
        [Block.get_put_ne, Block.drawn_get, Block.modEngine_get]
      exact hcount.2 _ (isPmc_trcEn n)
  have hself : (((b.countEng n 0x09).modEngine n fun e => e.stopped b.freeWord).drawn.stopRegs n inside).inGroup n = false := by
    rw [← hgroup]
    unfold Block.inGroup
    have hge := xhalt_key n
    have hn : n.val < 72 := n.isLt
    rw [stopRegs_get_ne _ _ _ (by omega), Block.drawn_get, Block.modEngine_get, hcount.2 _ (isPmc_xhalt n)]
  generalize hc : ((b.countEng n 0x09).modEngine n fun e => e.stopped b.freeWord).drawn = c at htrace hself
  have hstop : b.clockStop n inside =
      let d := ((((c.clear (R.ENG_DBGSTAT_PENDING n)).clear (R.ENG_DBGSTAT_STEPPING n)).emit n 5 0 0 (c.engine n).pc.toNat).raise
        (R.ENG_DBGSTAT_CSTOP n)).put (R.ENG_DBGSTAT_INSTR n) (bit inside)
      if d.inGroup n then
        forEach 72 (fun m b => if m ≠ n.val ∧ b.inGroup m ∧ !b.flag (R.ENG_DBGSTAT_CSTOP m) then b.requestHalt m .clockStop else b) d
      else d := by
    rw [← hc]
    rfl
  rw [hstop, emit_quiet htrace]
  refine if_neg fun h => Bool.false_ne_true (hself.symm.trans ?_)
  exact h

theorem stopRegs_engine (b : Block) (n : Nat) (inside : Bool) (m : Nat) : (b.stopRegs n inside).engine m = b.engine m := rfl

theorem gives_clockStop {s : State} {n : PE} {p : Bool} (hruns : s.blk.runs n = true) (hwait : (s.blk.engine n).wait = none)
    (hpoint : (s.blk.engine n).point = some p) (hdue : s.blk.trapDue n = some .clockStop) (hgroup : s.blk.inGroup n = false)
    (htr : s.blk.tracing n = false) :
    Gives (.microTrap n) s fun t => t.blk.get (R.ENG_DBGSTAT_CSTOP n) = 1 ∧ t.blk.get (R.ENG_DBGSTAT_PENDING n) = 0 ∧
      t.blk.get (R.ENG_DBGSTAT_INSTR n) = bit (!p) ∧
      t.blk.engine n = (s.blk.engine n).stopped (Config.freeWord s.blk.fresh) ∧
      t.blk.mem = s.blk.mem ∧ ∀ m : Nat, m ≠ n.val → t.blk.engine m = s.blk.engine m := by
  have hexec := execMicroTrap_at hruns hwait
  rw [hpoint, hdue] at hexec
  dsimp only at hexec
  rw [clockStop_alone hgroup htr] at hexec
  have hcount := countEng_only s.blk n 0x09
  obtain ⟨hcstop, hpend, hinstr⟩ := stopRegs_get ((s.blk.countEng n 0x09).modEngine n fun e => e.stopped s.blk.freeWord).drawn n (!p)
  refine gives_of_done hexec ?_ ⟨hcstop, hpend, hinstr, ?_, hcount.mem, fun m hm => ?_⟩
  · have e := congrArg Block.isSealed hcount.1
    exact e
  · dsimp only
    rw [stopRegs_engine, Block.drawn_engine, Block.modEngine_engine_same, hcount.engine]
    rfl
  · dsimp only
    rw [stopRegs_engine, Block.drawn_engine, Block.modEngine_engine_ne _ _ _ _ hm, hcount.engine]

/-! ## Traps that enter a vector -/

theorem enter_eq {b u : Block} {n v ra : Nat} {tenant : Bool} {d : Desc} (hlk : b.flag (R.ENG_LKSTAT_LKACT n) = false)
    (hd : b.readDesc n v tenant = (u, .good d)) :
    b.enter n v tenant ra = u.enterWith n v tenant d ra (b.engine n).st.word.toNat := by
  simp only [Block.enter, Block.enterPushing, Block.lockBreak, hlk, hd, Bool.false_eq_true, if_false]

theorem gives_enter {c : Instr} {s : State} {n : PE} {b u : Block} {v ra : Nat} {tenant : Bool} {d : Desc}
    (hx : exec c s = done s (b.enter n v tenant ra)) (hlk : b.flag (R.ENG_LKSTAT_LKACT n) = false) (htr : b.tracing n = false)
    (hd : b.readDesc n v tenant = (u, .good d)) (hc : CanEnter u n d tenant) :
    Gives c s (Entered u n v d tenant ra (b.engine n).st.word.toNat) := by
  obtain ⟨t, ht, hent⟩ := enterWith_entered hc ((readDesc_tracing hd).trans htr) s v ra (b.engine n).st.word.toNat
  exact ⟨t, by rw [hx, enter_eq hlk hd, ht], hent⟩

section
variable (b : Block) (n : PE) (m : MicroTrap)

/-- A trap at an instruction's boundary, as the entry routine finds the block. -/
def Block.trapRecorded : Block := (b.recordTrap n false m).modEngine n id

theorem recordTrap_keeps {g : Fld} (hpmc : isPmc n g = false) (hin : g.key ≠ (R.ENG_USTAT_UTIN n).key)
    (hpc : g.key ≠ (R.ENG_USTAT_UTPC n).key) : (b.recordTrap n false m).get g = b.get g := by
  have hcount := countEng_only (b.setEngine n (Engine.recode { b.engine n with upc := m.entry } [138, 139])) n 0x09
  unfold Block.recordTrap
  dsimp only
  split
  · rw [Block.get_put_ne _ _ _ _ hpc, Block.get_put_ne _ _ _ _ hin]
    exact hcount.2 g hpmc
  · rw [Block.drawn_get, Block.get_put_ne _ _ _ _ hpc, Block.get_put_ne _ _ _ _ hin]
    exact hcount.2 g hpmc

theorem recordTrap_engine : (b.recordTrap n false m).engine n = Engine.recode { b.engine n with upc := m.entry } [138, 139] := by
  have hcount := countEng_only (b.setEngine n (Engine.recode { b.engine n with upc := m.entry } [138, 139])) n 0x09
  unfold Block.recordTrap
  dsimp only
  split <;> exact (hcount.engine n).trans (Block.setEngine_engine_same ..)

theorem trapRecorded_engine : (b.trapRecorded n m).engine n = Engine.recode { b.engine n with upc := m.entry } [138, 139] := by
  unfold Block.trapRecorded
  rw [Block.modEngine_engine_same, recordTrap_engine]
  rfl

theorem trapRecorded_lkact (h : b.flag (R.ENG_LKSTAT_LKACT n) = false) : (b.trapRecorded n m).flag (R.ENG_LKSTAT_LKACT n) = false := by
  rw [← h]
  refine congrArg (· != 0) (recordTrap_keeps b n m (isPmc_lkact n) ?_ ?_) <;>
    simp only [Fld.key, R.ENG_LKSTAT_LKACT, R.ENG_USTAT_UTIN, R.ENG_USTAT_UTPC] <;> omega

theorem trapRecorded_tracing (h : b.tracing n = false) : (b.trapRecorded n m).tracing n = false := by
  rw [← h]
  refine tracing_congr (recordTrap_keeps b n m (isPmc_tren n) ?_ ?_) (recordTrap_keeps b n m (isPmc_trcEn n) ?_ ?_) <;>
    simp only [Fld.key, R.ENG_DBGCTL_TREN, R.TRC_CTRL_EN, R.ENG_USTAT_UTIN, R.ENG_USTAT_UTPC] <;> omega

end

section
variable {s : State} {n : PE} {d : Desc} {b : Block}

/-- At an instruction's boundary, with no FPTRAP pending, the routines take their traps (R62, R98). -/
theorem takeTrap_boundary {c : Block} (hfpt : ((c.modEngine n id).engine n).fpt = none) :
    c.takeTrap n false .watchdog = ((c.modEngine n id).modEngine n fun e => { e with wdgDue := false }).enter n 2 false
        ((c.modEngine n id).engine n).pc.toNat ∧
      c.takeTrap n false .event = (c.modEngine n id).takeEvent n ((c.modEngine n id).engine n).pc.toNat := by
  have hno : ¬ ((c.modEngine n id).engine n).fpt.isSome = true := by
    rw [hfpt]
    exact Bool.false_ne_true
  exact ⟨if_neg hno, if_neg hno⟩

theorem trapRecorded_fpt (m : MicroTrap) (hfpt : (s.blk.engine n).fpt = none) : ((s.blk.trapRecorded n m).engine n).fpt = none := by
  rw [trapRecorded_engine]
  exact hfpt

theorem trapRecorded_pc (m : MicroTrap) : ((s.blk.trapRecorded n m).engine n).pc = (s.blk.engine n).pc := by
  rw [trapRecorded_engine]
  rfl

theorem execMicroTrap_watchdog (hruns : s.blk.runs n = true) (hwait : (s.blk.engine n).wait = none)
    (hpoint : (s.blk.engine n).point = some true) (hdue : s.blk.trapDue n = some .watchdog) (hfpt : (s.blk.engine n).fpt = none) :
    exec (.microTrap n) s = done s (((s.blk.trapRecorded n .watchdog).modEngine n fun e => { e with wdgDue := false }).enter n 2 false
      (s.blk.engine n).pc.toNat) := by
  have hexec := execMicroTrap_at hruns hwait
  rw [hpoint, hdue] at hexec
  rw [hexec, ← trapRecorded_pc .watchdog]
  exact congrArg (done s) (takeTrap_boundary (trapRecorded_fpt .watchdog hfpt)).1

theorem execMicroTrap_event (hruns : s.blk.runs n = true) (hwait : (s.blk.engine n).wait = none)
    (hpoint : (s.blk.engine n).point = some true) (hdue : s.blk.trapDue n = some .event) (hfpt : (s.blk.engine n).fpt = none) :
    exec (.microTrap n) s = done s ((s.blk.trapRecorded n .event).takeEvent n (s.blk.engine n).pc.toNat) := by
  have hexec := execMicroTrap_at hruns hwait
  rw [hpoint, hdue] at hexec
  rw [hexec, ← trapRecorded_pc .event]
  exact congrArg (done s) (takeTrap_boundary (trapRecorded_fpt .event hfpt)).2

theorem gives_watchdogTrap (hruns : s.blk.runs n = true) (hwait : (s.blk.engine n).wait = none)
    (hpoint : (s.blk.engine n).point = some true) (hfpt : (s.blk.engine n).fpt = none)
    (hlk : s.blk.flag (R.ENG_LKSTAT_LKACT n) = false) (htr : s.blk.tracing n = false) (hdue : s.blk.trapDue n = some .watchdog)
    (hd : ((s.blk.trapRecorded n .watchdog).modEngine n fun q => { q with wdgDue := false }).readDesc n 2 false = (b, .good d))
    (hc : CanEnter b n d false) :
    Gives (.microTrap n) s (Entered b n 2 d false (s.blk.engine n).pc.toNat (s.blk.engine n).st.word.toNat) := by
  have hexec := execMicroTrap_watchdog hruns hwait hpoint hdue hfpt
  have hst : (((s.blk.trapRecorded n .watchdog).modEngine n fun q => { q with wdgDue := false }).engine n).st = (s.blk.engine n).st := by
    rw [Block.modEngine_engine_same, trapRecorded_engine]
    rfl
  rw [← hst]
  exact gives_enter hexec (trapRecorded_lkact s.blk n _ hlk) (trapRecorded_tracing s.blk n _ htr) hd hc

theorem gives_eventTrap (hruns : s.blk.runs n = true) (hwait : (s.blk.engine n).wait = none)
    (hpoint : (s.blk.engine n).point = some true) (hfpt : (s.blk.engine n).fpt = none)
    (hlk : s.blk.flag (R.ENG_LKSTAT_LKACT n) = false) (htr : s.blk.tracing n = false) (hdue : s.blk.trapDue n = some .event)
    {b1 : Block} (hb1 : (s.blk.trapRecorded n .event).countEng n 0x0B = b1) {vendor : Bool}
    (hvendor : (b1.admits n false && (b1.irqLine (2 * n.val) || b1.dbLine (2 * n.val))) = vendor)
    (hd : b1.readDesc n (if b1.irqLine (2 * n.val + bit (!vendor)) then 16 else 17) (!vendor) = (b, .good d))
    (hc : CanEnter b n d (!vendor)) :
    Gives (.microTrap n) s (Entered b n (if b1.irqLine (2 * n.val + bit (!vendor)) then 16 else 17) d (!vendor)
      (s.blk.engine n).pc.toNat (s.blk.engine n).st.word.toNat) := by
  have hexec := execMicroTrap_event hruns hwait hpoint hdue hfpt
  have hcount : OnlyPmc n (s.blk.trapRecorded n .event) b1 := hb1 ▸ countEng_only _ n 0x0B
  have hst : (b1.engine n).st = (s.blk.engine n).st := by
    rw [hcount.engine, trapRecorded_engine]
    rfl
  have hevent : (s.blk.trapRecorded n .event).takeEvent n (s.blk.engine n).pc.toNat =
      b1.enter n (if b1.irqLine (2 * n.val + bit (!vendor)) then 16 else 17) (!vendor) (s.blk.engine n).pc.toNat := by
    unfold Block.takeEvent
    rw [hb1]
    dsimp only
    rw [hvendor]
  have hlk1 : b1.flag (R.ENG_LKSTAT_LKACT n) = false :=
    (congrArg (· != 0) (hcount.2 _ (isPmc_lkact n))).trans (trapRecorded_lkact s.blk n _ hlk)
  have htr1 : b1.tracing n = false :=
    (tracing_congr (hcount.2 _ (isPmc_tren n)) (hcount.2 _ (isPmc_trcEn n))).trans (trapRecorded_tracing s.blk n _ htr)
  rw [← hst]
  exact gives_enter (hexec.trans (congrArg (done s) hevent)) hlk1 htr1 hd hc

end

/-- Settles O25: a micro-load waits at its bank and takes its data, the answers of the fabric and of strobes reach their places,
and a micro-trap at a boundary halts the engine or enters its vector. -/
theorem microAnswersAndTraps : Obligations.MicroAnswersAndTraps := by
  refine ⟨fun n w k r rest c s => ?_, fun n d b s => ?_⟩
  · dsimp only
    refine ⟨fun h hp hmem hseq ht hin _ hfault => gives_microLoad h hp hmem hseq ht hin hfault,
      fun q hwait hruns hresps hpe hreply herr h1 h8 hw hp halu _ hseq _ hmem hcmp hcodes =>
        gives_loadData hwait hruns hresps hpe hreply herr h1 h8 hw hp halu hseq hmem hcmp hcodes,
      fun hclock hresps hpe hreply hbefore hcmp dropped len hslot herr =>
        gives_fabricResponse hclock hresps hpe hreply hbefore hcmp hslot herr,
      fun x hx hclock hres hwait hmdr hcodes => gives_extAnswer hx hclock hres hwait hmdr hcodes⟩
  · dsimp only
    exact fun hruns hwait => ⟨gives_microTrap_none hruns hwait,
      fun p hpoint hdue hgroup htr => gives_clockStop hruns hwait hpoint hdue hgroup htr,
      fun hpoint hfpt hlk htr => ⟨fun hdue hd hc => gives_watchdogTrap hruns hwait hpoint hfpt hlk htr hdue hd hc,
        fun hdue hd hc => gives_eventTrap hruns hwait hpoint hfpt hlk htr hdue rfl rfl hd hc⟩⟩

end Sys2Proof.Machine
end

section
/-! A bank's choice among the requests that wait (R200), and what each part of a bank cycle leaves unchanged (R207, R208, R213). -/
namespace Sys2Proof.Machine

/-! ## The request picked (R200) -/

/-- The requests that a bank may serve: the first of each requester that has its place at the arbiter and no line under repair. -/
def Bank.servable (c : Bank) : List Req := (firstsOf [] c.waiting).filter fun q => q.place != 0 && !c.holdsUp q

theorem rrFirst_le {last : Nat} {l : List Req} {q : Req} (h : rrFirst last l = some q) :
    ∀ p ∈ l, rrAfter last q.rq ≤ rrAfter last p.rq := by
  induction l generalizing q with
  | nil => cases h
  | cons r l ih =>
    intro p hp
    unfold rrFirst at h
    split at h
    next x hx =>
      have hle := ih hx
      split at h
      next hlt =>
        cases h
        obtain rfl | hp := List.mem_cons.mp hp
        · exact hlt.le
        · exact hle p hp
      next hge =>
        cases h
        obtain rfl | hp := List.mem_cons.mp hp
        · exact le_refl _
        · exact (not_lt.mp hge).trans (hle p hp)
    next hnone =>
      cases h
      cases l with
      | nil => rw [List.mem_singleton.mp hp]
      | cons y l =>
        have hsome := rrFirst_isSome (last := last) (List.cons_ne_nil y l)
        rw [hnone] at hsome
        cases hsome

theorem foldl_age_ge (l : List Req) (m : Nat) :
    m ≤ l.foldl (fun m q => max m q.age) m ∧ ∀ q ∈ l, q.age ≤ l.foldl (fun m q => max m q.age) m := by
  induction l generalizing m with
  | nil => exact ⟨le_refl _, fun q h => absurd h List.not_mem_nil⟩
  | cons p l ih =>
    rw [List.foldl_cons]
    obtain ⟨hm, hl⟩ := ih (max m p.age)
    refine ⟨(le_max_left _ _).trans hm, fun q hq => ?_⟩
    obtain rfl | hq := List.mem_cons.mp hq
    · exact (le_max_right _ _).trans hm
    · exact hl q hq

/-- The greatest age among some requests. -/
def oldestAge (l : List Req) : Nat := l.foldl (fun m q => max m q.age) 0

theorem age_le_oldest {l : List Req} {q : Req} (h : q ∈ l) : q.age ≤ oldestAge l := (foldl_age_ge l 0).2 q h

theorem oldest_lt_of_all {l : List Req} {m : Nat} (hm : 0 < m) (h : ∀ q ∈ l, q.age < m) : oldestAge l < m := by
  obtain h0 | ⟨q, hq, hage⟩ := exists_age_eq_max l 0
  · unfold oldestAge
    rwa [h0]
  · unfold oldestAge
    rw [← hage]
    exact h q hq

theorem bankPick_eq (b : Block) (k : Nat) : b.bankPick k =
    if 16 ≤ oldestAge (b.bankAt k).servable then
      (rrFirst (b.get (R.CB_ARB_LASTRQ k)) ((b.bankAt k).servable.filter (·.age == oldestAge (b.bankAt k).servable))).map (·, false)
    else match (b.bankAt k).servable.find? (·.rq == (b.bankAt k).ownerPE) with
      | some q => some (q, false)
      | none => (rrFirst (b.get (R.CB_ARB_LASTRQ k)) (b.bankAt k).servable).map (·, true) := rfl

/-- How a bank chooses (R200): the oldest that has waited 16 cycles, else its owner's, else the next in round robin. -/
theorem bankPick_cases {b : Block} {k : Nat} {q : Req} {rr : Bool} (h : b.bankPick k = some (q, rr)) :
    q ∈ (b.bankAt k).servable ∧
      ((16 ≤ q.age ∧ rr = false ∧ ∀ p ∈ (b.bankAt k).servable, p.age ≤ q.age) ∨
      ((∀ p ∈ (b.bankAt k).servable, p.age < 16) ∧ rr = false ∧ q.rq = (b.bankAt k).ownerPE) ∨
      ((∀ p ∈ (b.bankAt k).servable, p.age < 16) ∧ rr = true ∧ ∀ p ∈ (b.bankAt k).servable, p.rq ≠ (b.bankAt k).ownerPE ∧
        rrAfter (b.get (R.CB_ARB_LASTRQ k)) q.rq ≤ rrAfter (b.get (R.CB_ARB_LASTRQ k)) p.rq)) := by
  rw [bankPick_eq] at h
  split at h
  next hold =>
    obtain ⟨p, hp, he⟩ := Option.map_eq_some_iff.mp h
    cases he
    obtain ⟨hmem, hage⟩ := List.mem_filter.mp (rrFirst_mem hp)
    have hage : q.age = oldestAge (b.bankAt k).servable := beq_iff_eq.mp hage
    exact ⟨hmem, .inl ⟨hage ▸ hold, rfl, fun p hp => hage ▸ age_le_oldest hp⟩⟩
  next hyoung =>
    have hyoung : ∀ p ∈ (b.bankAt k).servable, p.age < 16 := fun p hp => (age_le_oldest hp).trans_lt (not_le.mp hyoung)
    split at h
    next p hp =>
      cases h
      exact ⟨List.mem_of_find?_eq_some hp, .inr (.inl ⟨hyoung, rfl, by simpa using List.find?_some hp⟩)⟩
    next hno =>
      obtain ⟨p, hp, he⟩ := Option.map_eq_some_iff.mp h
      cases he
      exact ⟨rrFirst_mem hp, .inr (.inr ⟨hyoung, rfl, fun p hp' =>
        ⟨fun e => List.find?_eq_none.mp hno p hp' (beq_iff_eq.mpr e), rrFirst_le hp p hp'⟩⟩)⟩

theorem bankPick_eq_none (b : Block) (k : Nat) : b.bankPick k = none ↔ (b.bankAt k).servable = [] := by
  constructor
  · intro h
    rw [bankPick_eq] at h
    by_contra hne
    split at h
    next hold =>
      rw [Option.map_eq_none_iff] at h
      obtain h0 | ⟨q, hq, hage⟩ := exists_age_eq_max (b.bankAt k).servable 0
      · unfold oldestAge at hold
        rw [h0] at hold
        exact absurd hold (by decide)
      · have hmem : q ∈ (b.bankAt k).servable.filter (·.age == oldestAge (b.bankAt k).servable) :=
          List.mem_filter.mpr ⟨hq, beq_iff_eq.mpr hage⟩
        have hsome := rrFirst_isSome (last := b.get (R.CB_ARB_LASTRQ k)) (List.ne_nil_of_mem hmem)
        rw [h] at hsome
        cases hsome
    · split at h
      · cases h
      · rw [Option.map_eq_none_iff] at h
        have hsome := rrFirst_isSome (last := b.get (R.CB_ARB_LASTRQ k)) hne
        rw [h] at hsome
        cases hsome
  · intro h
    rw [bankPick_eq, h]
    rfl

theorem holdsUp_of_servable {c : Bank} {q : Req} (h : q ∈ c.servable) : c.holdsUp q = false := by
  have := (List.mem_filter.mp h).2
  simpa using (Bool.and_eq_true_iff.mp this).2

theorem repair_ne_of_servable {c : Bank} {q : Req} (h : q ∈ c.servable) {p : Nat × Nat × Nat} (hp : p ∈ q.spans) :
    ∀ r ∈ c.repair, r.1 ≠ p.1 := by
  intro r hr he
  have hno := holdsUp_of_servable h
  unfold Bank.holdsUp at hno
  rw [List.any_eq_false] at hno
  exact hno r hr (List.any_eq_true.mpr ⟨p, hp, beq_iff_eq.mpr he.symm⟩)

end Sys2Proof.Machine
end

section
/-! What the parts of a bank cycle leave unchanged: errors counted, rows remapped, damage marked, and the cycle's own account (R200,
R207, R208, R213, R214). -/
namespace Sys2Proof.Machine

/-- A register field of the Carafe banks' register block. -/
def isBankFld (x : Fld) : Prop := 0x20000 * 32 ≤ x.key ∧ x.key < 0x20800 * 32

/-- From `b` to `b'` memory, answers and the seal stand, and no register field of the banks differs but the listed ones. -/
structure BankKept (fs : List Fld) (b b' : Block) : Prop where
  isSealed : b'.isSealed = b.isSealed
  mem : b'.mem = b.mem
  resps : b'.resps = b.resps
  fields : ∀ x, isBankFld x → (∀ f ∈ fs, x.key ≠ f.key) → b'.get x = b.get x

theorem BankKept.refl (fs : List Fld) (b : Block) : BankKept fs b b := ⟨rfl, rfl, rfl, fun _ _ _ => rfl⟩

theorem BankKept.trans {fs : List Fld} {a b c : Block} (h : BankKept fs a b) (h' : BankKept fs b c) : BankKept fs a c :=
  ⟨h'.isSealed.trans h.isSealed, h'.mem.trans h.mem, h'.resps.trans h.resps,
    fun x hx hf => (h'.fields x hx hf).trans (h.fields x hx hf)⟩

theorem BankKept.mono {fs gs : List Fld} {b c : Block} (h : BankKept fs b c) (hsub : ∀ f ∈ fs, f ∈ gs) : BankKept gs b c :=
  ⟨h.isSealed, h.mem, h.resps, fun x hx hf => h.fields x hx fun f hmem => hf f (hsub f hmem)⟩

theorem BankKept.put {fs : List Fld} {a b : Block} (h : BankKept fs a b) {f : Fld} (hf : f ∈ fs) (v : Nat) : BankKept fs a (b.put f v) :=
  ⟨h.isSealed, h.mem, h.resps, fun x hx hne => (Block.get_put_ne _ _ _ _ (hne f hf)).trans (h.fields x hx hne)⟩

theorem BankKept.outside {fs : List Fld} {a b : Block} (h : BankKept fs a b) {f : Fld} (hf : ¬isBankFld f) (v : Nat) :
    BankKept fs a (b.put f v) :=
  ⟨h.isSealed, h.mem, h.resps, fun x hx hne => (Block.get_put_ne _ _ _ _ fun e => hf (by unfold isBankFld at hx ⊢; rwa [← e])).trans
    (h.fields x hx hne)⟩

theorem BankKept.setBank {fs : List Fld} {a b : Block} (h : BankKept fs a b) (k : Nat) (c : Bank) : BankKept fs a (b.setBank k c) :=
  ⟨h.isSealed, h.mem, h.resps, h.fields⟩

theorem BankKept.countGlob {fs : List Fld} {a b : Block} (h : BankKept fs a b) (code n : Nat) : BankKept fs a (b.countGlob code n) := by
  have hframe := countGlob_frame b code n
  refine ⟨?_, ?_, ?_, fun x hx hf => (countGlob_get b code n fun i hi => ?_).trans (h.fields x hx hf)⟩
  · have e := congrArg Block.isSealed hframe
    exact Eq.trans e h.isSealed
  · have e := congrArg Block.mem hframe
    exact Eq.trans e h.mem
  · have e := congrArg Block.resps hframe
    exact Eq.trans e h.resps
  · obtain ⟨-, hlt⟩ := hx
    simp only [Fld.key, R.GPC_COUNT] at hlt ⊢
    omega

theorem BankKept.live {fs : List Fld} {a b : Block} (h : BankKept fs a b) (units : List Nat) : BankKept fs a (b.live units) := by
  have hlseq : ¬isBankFld R.SPM_LSEQ_LSEQ := by simp [isBankFld, Fld.key, R.SPM_LSEQ_LSEQ]
  obtain ⟨hseal, hmem, hresps, hfields⟩ := h.outside hlseq (b.get R.SPM_LSEQ_LSEQ + 1)
  exact ⟨hseal, hmem, hresps, hfields⟩

/-! ## An error counted and remapped (R208, R213, R214) -/

/-- ERRADDR of bank `k`. -/
def errAddr (k : Nat) : List Fld :=
  [R.CB_ERRADDR_LINE k, R.CB_ERRADDR_UE k, R.CB_ERRADDR_REFETCHED k, R.CB_ERRADDR_DROPST k, R.CB_ERRADDR_REMAPPED k]

/-- The fields in which bank `k` records its errors and its spare rows. -/
def errFields (k : Nat) : List Fld :=
  [R.CB_ECCCNT_CECNT k, R.CB_ECCCNT_RFCNT k, R.CB_ECCCNT_UECNT k, R.CB_STAT_SPUSED k, R.CB_STAT_SPFULL k, R.CB_EVT_SPFULL k,
    R.CB_EVT_UNREP k, R.CB_EVT_DROPST k] ++ errAddr k

theorem bankErr_kept (b : Block) (k line : Nat) (ue refetched drop : Bool) : BankKept (errAddr k) b (b.bankErr k line ue refetched drop) := by
  unfold Block.bankErr errAddr
  refine BankKept.put (BankKept.put (BankKept.put (BankKept.put (BankKept.put (.refl _ b) ?_ _) ?_ _) ?_ _) ?_ _) ?_ _
  all_goals simp

theorem bankErr_line (b : Block) (k line : Nat) (ue refetched drop : Bool) :
    (b.bankErr k line ue refetched drop).get (R.CB_ERRADDR_LINE k) = line % 2 ^ 14 := by
  unfold Block.bankErr
  simp (disch := (simp only [Fld.key, R.CB_ERRADDR_LINE, R.CB_ERRADDR_UE, R.CB_ERRADDR_REFETCHED, R.CB_ERRADDR_DROPST,
    R.CB_ERRADDR_REMAPPED]; omega)) only [Block.get_put_same, Block.get_put_ne]
  rfl

/-- A bank with other spare rows. -/
def Bank.respared (c : Bank) (p : Tab Nat × Tab Nat) : Bank := { c with spare := p.1, spUsed := p.2 }

/-- The tables of spare rows after a line has been remapped. -/
def Bank.remapped (c : Bank) (line : Nat) : Tab Nat × Tab Nat :=
  if c.spUsed.get (line % 2) 0 < 32 then
    (c.spare.put line (32 * (line % 2) + c.spUsed.get (line % 2) 0), c.spUsed.put (line % 2) (c.spUsed.get (line % 2) 0 + 1))
  else (c.spare, c.spUsed)

theorem bankRemap_kept (b : Block) (k line : Nat) :
    BankKept [R.CB_STAT_SPUSED k, R.CB_STAT_SPFULL k, R.CB_EVT_SPFULL k] b (b.bankRemap k line) := by
  unfold Block.bankRemap
  dsimp only
  split
  · refine BankKept.live (BankKept.put (.setBank (.refl _ b) _ _) ?_ _) _
    simp
  · refine BankKept.put (BankKept.put (.refl _ b) ?_ _) ?_ _
    all_goals simp

theorem bankRemap_bank (b : Block) (k line : Nat) :
    (b.bankRemap k line).bankAt k = (b.bankAt k).respared ((b.bankAt k).remapped line) := by
  unfold Block.bankRemap Bank.remapped
  dsimp only
  split
  · exact Block.setBank_bankAt_same ..
  · rfl

theorem countGlob_bankAt (b : Block) (code n j : Nat) : (b.countGlob code n).bankAt j = b.bankAt j := by
  have e := congrArg (fun c : Block => c.bankAt j) (countGlob_frame b code n)
  exact e

/-- The bank after a correctable error in a line. -/
theorem bankCorrect_bank (b : Block) (k line : Nat) (stays : Bool) :
    ∃ p, (b.bankCorrect k line stays).bankAt k = (b.bankAt k).respared p := by
  have herr : ∀ c : Block, (c.bankErr k line false false false).bankAt k = c.bankAt k := fun _ => rfl
  unfold Block.bankCorrect
  dsimp only
  rw [herr]
  cases stays
  · exact ⟨((b.bankAt k).spare, (b.bankAt k).spUsed), countGlob_bankAt _ _ _ _⟩
  · rw [if_pos rfl, bankRemap_bank, countGlob_bankAt]
    exact ⟨_, rfl⟩

theorem satAdd_mod (v n w : Nat) : satAdd v n w % 2 ^ w = min (v + n) (2 ^ w - 1) := by
  have hw := Nat.two_pow_pos w
  unfold satAdd
  exact Nat.mod_eq_of_lt (by omega)

theorem isBankFld_of {k : Nat} (hk : k < 64) {x : Fld} (h1 : 0x20000 * 32 + k * 0x20 * 32 ≤ x.key)
    (h2 : x.key < 0x20000 * 32 + k * 0x20 * 32 + 0x20 * 32) : isBankFld x := by
  unfold isBankFld
  omega

theorem bankCorrect_kept (b : Block) {k : Nat} (hk : k < 64) (line : Nat) (stays : Bool) :
    BankKept (errFields k) b (b.bankCorrect k line stays) ∧
      (b.bankCorrect k line stays).get (R.CB_ERRADDR_LINE k) = line % 2 ^ 14 ∧
      (b.bankCorrect k line stays).get (R.CB_ECCCNT_CECNT k) = min (b.get (R.CB_ECCCNT_CECNT k) + 1) 0xFFFF := by
  let b1 := (b.incSat (R.CB_ECCCNT_CECNT k) 1).countGlob 0x07 1
  have h1 : BankKept (errFields k) b b1 := .countGlob (.put (.refl _ b) (by simp [errFields]) _) _ _
  let b2 := if stays then b1.bankRemap k line else b1
  have h12 : BankKept [R.CB_STAT_SPUSED k, R.CB_STAT_SPFULL k, R.CB_EVT_SPFULL k] b1 b2 := by
    simp only [b2]
    split
    · exact bankRemap_kept b1 k line
    · exact .refl _ b1
  have h23 := bankErr_kept b2 k line false false false
  have hcecnt : isBankFld (R.CB_ECCCNT_CECNT k) :=
    isBankFld_of hk (by simp only [Fld.key, R.CB_ECCCNT_CECNT]; omega) (by simp only [Fld.key, R.CB_ECCCNT_CECNT]; omega)
  have hcount : b1.get (R.CB_ECCCNT_CECNT k) = min (b.get (R.CB_ECCCNT_CECNT k) + 1) 0xFFFF := by
    refine (countGlob_get _ _ _ fun i hi => ?_).trans ?_
    · simp only [Fld.key, R.CB_ECCCNT_CECNT, R.GPC_COUNT]
      omega
    · rw [Block.incSat_eq, Block.get_put_same]
      exact satAdd_mod _ _ _
  refine ⟨(h1.trans (h12.mono ?_)).trans (h23.mono ?_), bankErr_line b2 k line _ _ _, ?_⟩
  · simp [errFields]
  · exact fun f hf => List.mem_append_right _ hf
  · refine ((h23.fields _ hcecnt ?_).trans (h12.fields _ hcecnt ?_)).trans hcount
    · simp [errAddr, Fld.key, R.CB_ECCCNT_CECNT, R.CB_ERRADDR_LINE, R.CB_ERRADDR_UE, R.CB_ERRADDR_REFETCHED, R.CB_ERRADDR_DROPST,
        R.CB_ERRADDR_REMAPPED]
      omega
    · simp [Fld.key, R.CB_ECCCNT_CECNT, R.CB_STAT_SPUSED, R.CB_STAT_SPFULL, R.CB_EVT_SPFULL]
      omega

/-! ## Damage without a second source (R213) -/

theorem unrepairable_kept (b : Block) (k line : Nat) (quiet : Bool) :
    BankKept (errFields k) b (b.unrepairable k line false quiet) ∧
      (b.unrepairable k line false quiet).get (R.CB_ECCCNT_UECNT k) = min (b.get (R.CB_ECCCNT_UECNT k) + 1) 0xFF ∧
      (b.unrepairable k line false quiet).get (R.CB_EVT_UNREP k) = if quiet then b.get (R.CB_EVT_UNREP k) else 1 := by
  have hkept : BankKept (errFields k) b (b.unrepairable k line false quiet) := by
    unfold Block.unrepairable
    dsimp only
    refine BankKept.put (BankKept.put (BankKept.put (BankKept.put (BankKept.put ?_ ?_ _) ?_ _) ?_ _) ?_ _) ?_ _
    · cases quiet
      · refine BankKept.put (BankKept.put (.refl _ b) ?_ _) ?_ _
        all_goals simp [errFields]
      · exact BankKept.put (.refl _ b) (by simp [errFields]) _
    all_goals simp [errFields, errAddr]
  refine ⟨hkept, ?_⟩
  unfold Block.unrepairable
  dsimp only
  simp (disch := (simp only [Fld.key, R.CB_ERRADDR_LINE, R.CB_ERRADDR_UE, R.CB_ERRADDR_REFETCHED, R.CB_ERRADDR_DROPST,
    R.CB_ERRADDR_REMAPPED, R.CB_ECCCNT_UECNT, R.CB_EVT_UNREP]; omega)) only [Block.raise_eq, Block.clear_eq, Block.get_put_ne]
  cases quiet
  · simp (disch := (simp only [Fld.key, R.CB_ECCCNT_UECNT, R.CB_EVT_UNREP]; omega)) only [Bool.false_eq_true, if_false, Block.incSat_eq,
      Block.get_put_same, Block.get_put_ne]
    exact ⟨satAdd_mod _ _ _, rfl⟩
  · simp (disch := (simp only [Fld.key, R.CB_ECCCNT_UECNT, R.CB_EVT_UNREP]; omega)) only [if_true, Block.incSat_eq,
      Block.get_put_same, Block.get_put_ne]
    exact ⟨satAdd_mod _ _ _, trivial⟩

theorem unrepairable_bankAt (b : Block) (k line : Nat) (store quiet : Bool) (j : Nat) :
    (b.unrepairable k line store quiet).bankAt j = b.bankAt j := by
  unfold Block.unrepairable
  dsimp only
  cases quiet <;> rfl

end Sys2Proof.Machine
end

section
/-! A bank cycle: its account (R200), and the request served, lost or kept for a repair (R207, R211, R213). -/
namespace Sys2Proof.Machine

/-! ## The cycle's account -/

/-- A waiting request after `n` bank cycles. -/
def Req.older (n : Nat) (p : Req) : Req := if p.place = 0 then p else { p with age := p.age + n }

/-- The requests that wait when `q` has been taken for service. -/
def Bank.without (c : Bank) (q : Req) : List Req := (removeReq q c.waiting).map (Req.older q.cycles)

/-- Bank `k` after it has taken `q`. -/
def Bank.takes (c : Bank) (q : Req) : Bank := { c with waiting := c.without q, scrubAge := c.scrubAge.map (· + q.cycles) }

/-- Bank `k` has taken request `q`, by round robin or not: the others have waited longer, round robin moves on, and the waiting is
counted (R200, R293). -/
def Block.taken (b : Block) (k : Nat) (q : Req) (rr : Bool) : Block :=
  let rest := (b.bankAt k).without q
  let b := b.setBank k ((b.bankAt k).takes q)
  let b := if rr then b.put (R.CB_ARB_LASTRQ k) (arbNumber q.rq) else b
  let b := if rest.all (·.place == 0) then b else b.inc (R.CB_WAITCNT_COUNT k) q.cycles
  if rest.any (Req.outside k) then b.drawn.inc R.PERC_WAITS_COUNT (1 + b.freeWord.toNat) else b

section
variable {b : Block} {k : Nat} {q : Req} {rr : Bool}

theorem taken_kept (b : Block) (k : Nat) (q : Req) (rr : Bool) :
    BankKept [R.CB_ARB_LASTRQ k, R.CB_WAITCNT_COUNT k] b (b.taken k q rr) := by
  have hwaits : ¬isBankFld R.PERC_WAITS_COUNT := by simp [isBankFld, Fld.key, R.PERC_WAITS_COUNT]
  have hdrawn : ∀ {c : Block}, BankKept [R.CB_ARB_LASTRQ k, R.CB_WAITCNT_COUNT k] b c →
      BankKept [R.CB_ARB_LASTRQ k, R.CB_WAITCNT_COUNT k] b c.drawn := fun h => ⟨h.isSealed, h.mem, h.resps, h.fields⟩
  have h1 : BankKept [R.CB_ARB_LASTRQ k, R.CB_WAITCNT_COUNT k] b (b.setBank k ((b.bankAt k).takes q)) := .setBank (.refl _ b) _ _
  unfold Block.taken
  dsimp only
  split <;> split <;> split
  · exact (hdrawn (h1.put (by simp) _)).outside hwaits _
  · exact (hdrawn h1).outside hwaits _
  · exact (hdrawn ((h1.put (by simp) _).put (by simp) _)).outside hwaits _
  · exact (hdrawn (h1.put (by simp) _)).outside hwaits _
  · exact h1.put (by simp) _
  · exact h1
  · exact (h1.put (by simp) _).put (by simp) _
  · exact h1.put (by simp) _

theorem taken_bankAt (b : Block) (k : Nat) (q : Req) (rr : Bool) : (b.taken k q rr).bankAt k = (b.bankAt k).takes q := by
  have hsame : (b.taken k q rr).bankAt k = (b.setBank k ((b.bankAt k).takes q)).bankAt k := by
    unfold Block.taken
    dsimp only
    split <;> split <;> split <;> rfl
  rw [hsame, Block.setBank_bankAt_same]

theorem taken_turn (b : Block) (k : Nat) (q : Req) (rr : Bool) :
    (b.taken k q rr).get (R.CB_ARB_LASTRQ k) = if rr then arbNumber q.rq % 2 ^ 7 else b.get (R.CB_ARB_LASTRQ k) := by
  have hwait : (R.CB_ARB_LASTRQ k).key ≠ (R.CB_WAITCNT_COUNT k).key := by
    simp only [Fld.key, R.CB_ARB_LASTRQ, R.CB_WAITCNT_COUNT]
    omega
  have hperc : (R.CB_ARB_LASTRQ k).key ≠ R.PERC_WAITS_COUNT.key := by
    simp only [Fld.key, R.CB_ARB_LASTRQ, R.PERC_WAITS_COUNT]
    omega
  have hout : ∀ (c : Block) (l : List Req), (if l.any (Req.outside k) then c.drawn.inc R.PERC_WAITS_COUNT (1 + c.freeWord.toNat) else c).get
      (R.CB_ARB_LASTRQ k) = c.get (R.CB_ARB_LASTRQ k) := fun c l => by
    split
    · exact Block.get_put_ne _ _ _ _ hperc
    · rfl
  have hcount : ∀ (c : Block) (l : List Req), (if l.all (·.place == 0) then c else c.inc (R.CB_WAITCNT_COUNT k) q.cycles).get
      (R.CB_ARB_LASTRQ k) = c.get (R.CB_ARB_LASTRQ k) := fun c l => by
    split
    · rfl
    · exact Block.get_put_ne _ _ _ _ hwait
  unfold Block.taken
  dsimp only
  rw [hout, hcount]
  cases rr
  · rfl
  · exact Block.get_put_same _ _ _

/-! ## The cycle's end -/

/-- The waiting requests of bank `k` when `q` has been kept waiting for a repair. -/
def Bank.deferring (c : Bank) (q : Req) : List Req := c.waiting.map fun p => if p = q then q else p.older q.cycles

theorem bankStep_picked {find : BankFind} {u : Block} {r : Served} (hpick : b.bankPick k = some (q, rr))
    (hdo : (b.taken k q rr).bankDo k q find = (u, r)) :
    b.bankStep k find = if r = .later then (u.setBank k { u.bankAt k with waiting := (b.bankAt k).deferring q }, some (q, .later))
      else (u.setBank k { u.bankAt k with waiting := seat k (u.bankAt k).waiting }, some (q, r)) := by
  unfold Block.bankStep
  rw [hpick]
  unfold Block.taken at hdo
  dsimp only at hdo ⊢
  unfold Bank.takes Bank.without Req.older at hdo
  unfold Bank.deferring Req.older
  rw [hdo]
  cases r <;> rfl

theorem bankServe_picked {find : BankFind} {u : Block} {r : Served} (hpick : b.bankPick k = some (q, rr))
    (hdo : (b.taken k q rr).bankDo k q find = (u, r)) :
    b.bankServe k find = if r = .later then u.setBank k { u.bankAt k with waiting := (b.bankAt k).deferring q }
      else (u.setBank k { u.bankAt k with waiting := seat k (u.bankAt k).waiting }).bankReply q r := by
  unfold Block.bankServe
  rw [bankStep_picked hpick hdo]
  cases r <;> rfl

theorem bankReply_data (b : Block) (q : Req) (d : List Byte) : b.bankReply q (.data d) = b.answer q d false := rfl

theorem answer_resps (b : Block) (q : Req) (d : List Byte) (bad : Bool) : (b.answer q d bad).resps = b.resps ++
    (if q.reply = .none ∨ q.reply = .now then [] else [⟨q.rq, q.reply, q.addr, d, bad, [], q.cls⟩]) := by
  unfold Block.answer
  cases q.reply <;> simp

theorem answer_beside (b : Block) (q : Req) (d : List Byte) (bad : Bool) : { b.answer q d bad with resps := b.resps } = b := by
  unfold Block.answer
  split <;> rfl

end

end Sys2Proof.Machine
end

section
/-! What a bank cycle does with the request it serves: its effect, its errors, its repair (R196, R199, R207, R208, R211, R213). -/
namespace Sys2Proof.Machine

/-! ## What a store leaves unchanged beside memory -/

theorem breakBank_kept (b : Block) (k line rq : Nat) : BankKept [] b (b.breakBank k line rq) := by
  unfold Block.breakBank
  dsimp only
  split
  · exact .refl _ b
  · refine List.foldlRecOn (motive := BankKept [] b) _ _ (.setBank (.refl _ b) _ _) fun c hc p _ => ?_
    exact ⟨hc.isSealed, hc.mem, hc.resps, hc.fields⟩

theorem touchLine_kept (b : Block) (rq a n : Nat) (src : Option Nat) : BankKept [] b (b.touchLine rq a n src) := by
  unfold Block.touchLine
  split
  · exact (breakBank_kept b _ _ rq).setBank _ _
  · exact ⟨rfl, rfl, rfl, fun _ _ _ => rfl⟩
  · exact .refl _ b

theorem touchLines_kept (rq : Nat) (src : Option Nat) (fuel a n : Nat) (b : Block) :
    BankKept [] b (Block.touchLines rq src fuel a n b) := by
  induction fuel generalizing a n b with
  | zero => exact .refl _ b
  | succ fuel ih =>
    unfold Block.touchLines
    split
    · exact .refl _ b
    · exact (touchLine_kept b _ _ _ _).trans (ih _ _ _)

/-- What of a block a store names only as its lines' locks and sources: the registers of the banks, the answers and the waiting
requests stand. -/
theorem store_kept (b : Block) (rq a : Nat) (data : List Byte) (src : Option Nat) :
    (b.store rq a data src).isSealed = b.isSealed ∧ (b.store rq a data src).resps = b.resps ∧
      ∀ x, isBankFld x → (b.store rq a data src).get x = b.get x := by
  obtain ⟨hseal, -, hresps, hfields⟩ := touchLines_kept rq src (data.length / 64 + 2) a data.length b
  exact ⟨hseal, hresps, fun x hx => hfields x hx fun f hf => absurd hf List.not_mem_nil⟩

theorem isBankFld_lastrq {k : Nat} (hk : k < 64) : isBankFld (R.CB_ARB_LASTRQ k) :=
  isBankFld_of hk (by simp only [Fld.key, R.CB_ARB_LASTRQ]; omega) (by simp only [Fld.key, R.CB_ARB_LASTRQ]; omega)

/-! ## A request served -/

section
variable {b : Block} {k : Nat} {q : Req} {rr : Bool}

/-- No line that the picked request touches is damaged. -/
def Bank.soundFor (c : Bank) (q : Req) : Prop := ∀ x ∈ q.spans, c.bad.get x.1 0 = 0

theorem whole_of_picked (hpick : b.bankPick k = some (q, rr)) (hsound : (b.bankAt k).soundFor q) :
    ((b.taken k q rr).bankAt k).whole q := by
  rw [taken_bankAt]
  exact fun p hp => ⟨hsound p hp, repair_ne_of_servable (bankPick_cases hpick).1 hp⟩

/-- What bank `k` leaves when it has taken `q` and recorded its finds in `u`: the others wait on, the turn has moved. -/
structure CycleOf (b : Block) (k : Nat) (q : Req) (rr : Bool) (u : Block) : Prop where
  isSealed : u.isSealed = b.isSealed
  resps : u.resps = b.resps
  waiting : (u.bankAt k).waiting = (b.bankAt k).without q
  turn : u.get (R.CB_ARB_LASTRQ k) = if rr then arbNumber q.rq % 2 ^ 7 else b.get (R.CB_ARB_LASTRQ k)

theorem taken_cycle (b : Block) (k : Nat) (q : Req) (rr : Bool) : CycleOf b k q rr (b.taken k q rr) where
  isSealed := (taken_kept b k q rr).isSealed
  resps := (taken_kept b k q rr).resps
  waiting := by rw [taken_bankAt]; rfl
  turn := taken_turn b k q rr

theorem CycleOf.kept {u v : Block} (hk : k < 64) (h : CycleOf b k q rr u) {fs : List Fld} (hkept : BankKept fs u v)
    (hfs : ∀ f ∈ fs, (R.CB_ARB_LASTRQ k).key ≠ f.key) (hw : (v.bankAt k).waiting = (u.bankAt k).waiting) : CycleOf b k q rr v where
  isSealed := hkept.isSealed.trans h.isSealed
  resps := hkept.resps.trans h.resps
  waiting := hw.trans h.waiting
  turn := (hkept.fields _ (isBankFld_lastrq hk) hfs).trans h.turn

theorem lastrq_ne_errFields (k : Nat) : ∀ f ∈ errFields k, (R.CB_ARB_LASTRQ k).key ≠ f.key := by
  intro f hf
  simp only [errFields, errAddr, List.cons_append, List.nil_append, List.mem_cons, List.not_mem_nil, or_false] at hf
  obtain rfl | rfl | rfl | rfl | rfl | rfl | rfl | rfl | rfl | rfl | rfl | rfl | rfl := hf
  all_goals
    simp only [Fld.key, R.CB_ARB_LASTRQ, R.CB_ECCCNT_CECNT, R.CB_ECCCNT_RFCNT, R.CB_ECCCNT_UECNT, R.CB_STAT_SPUSED, R.CB_STAT_SPFULL,
      R.CB_EVT_SPFULL, R.CB_EVT_UNREP, R.CB_EVT_DROPST, R.CB_ERRADDR_LINE, R.CB_ERRADDR_UE, R.CB_ERRADDR_REFETCHED,
      R.CB_ERRADDR_DROPST, R.CB_ERRADDR_REMAPPED]
    omega

/-- The state of the waiting requests and of round robin after the cycle. -/
def Served.after (b : Block) (k : Nat) (q : Req) (rr : Bool) (u : Block) : Prop :=
  (u.bankAt k).waiting = seat k ((b.bankAt k).without q) ∧
    u.get (R.CB_ARB_LASTRQ k) = if rr then arbNumber q.rq % 2 ^ 7 else b.get (R.CB_ARB_LASTRQ k)

/-- The answer that a request is given. -/
def Req.answers (q : Req) (data : List Byte) (bad : Bool) : List Resp :=
  if q.reply = .none ∨ q.reply = .now then [] else [⟨q.rq, q.reply, q.addr, data, bad, [], q.cls⟩]

/-- A cycle that ends with an answer. -/
theorem bankServe_answers {find : BankFind} {u : Block} {r : Served} {data : List Byte} {bad : Bool}
    (hpick : b.bankPick k = some (q, rr)) (hdo : (b.taken k q rr).bankDo k q find = (u, r)) (hu : CycleOf b k q rr u)
    (hr : (r = .data data ∧ bad = false) ∨ (r = .lost ∧ data = [] ∧ bad = true)) :
    (b.bankServe k find).isSealed = b.isSealed ∧ Served.after b k q rr (b.bankServe k find) ∧
      (b.bankServe k find).mem = u.mem ∧ (b.bankServe k find).resps = b.resps ++ q.answers data bad ∧
      (b.bankServe k find).regs = u.regs ∧ ((b.bankServe k find).bankAt k).bad = (u.bankAt k).bad := by
  let v := u.setBank k { u.bankAt k with waiting := seat k (u.bankAt k).waiting }
  have hne : r ≠ .later := by
    obtain ⟨rfl, -⟩ | ⟨rfl, -⟩ := hr
    all_goals exact nofun
  have hrun : b.bankServe k find = v.answer q data bad := by
    rw [bankServe_picked hpick hdo, if_neg hne]
    obtain ⟨rfl, rfl⟩ | ⟨rfl, rfl, rfl⟩ := hr
    all_goals rfl
  have hbeside := answer_beside v q data bad
  have hbank : (v.answer q data bad).bankAt k = v.bankAt k := by
    have e := congrArg (fun c : Block => c.bankAt k) hbeside
    exact e
  have hregs : (v.answer q data bad).regs = v.regs := by
    have e := congrArg Block.regs hbeside
    exact e
  have hmem : (v.answer q data bad).mem = v.mem := by
    have e := congrArg Block.mem hbeside
    exact e
  have hseal : (v.answer q data bad).isSealed = v.isSealed := by
    have e := congrArg Block.isSealed hbeside
    exact e
  have hvbank : v.bankAt k = { u.bankAt k with waiting := seat k (u.bankAt k).waiting } := Block.setBank_bankAt_same ..
  rw [hrun]
  refine ⟨hseal.trans hu.isSealed, ⟨?_, ?_⟩, hmem, ?_, hregs, ?_⟩
  · rw [hbank, hvbank]
    exact congrArg (seat k) hu.waiting
  · refine Eq.trans ?_ hu.turn
    unfold Block.get
    rw [hregs]
    rfl
  · rw [answer_resps]
    exact congrArg (· ++ q.answers data bad) hu.resps
  · rw [hbank, hvbank]

theorem effect_read {c : Block} (hkind : q.kind = .read) : c.effect q = (c, c.mem.bytes q.addr q.len) := by
  unfold Block.effect
  rw [hkind]
  rfl

theorem effect_write {c : Block} (hkind : q.kind = .write) : c.effect q = (c.store q.rq q.addr q.data none, []) := by
  unfold Block.effect
  rw [hkind]

theorem bankFinds_of_read {c : Block} (hkind : q.kind = .read) (find : BankFind) :
    c.bankFinds k q find = match find with
      | .clean => c
      | .correctable second stays => c.bankCorrect k (q.findLine second) stays
      | .uncorrectable second words => if words = 0 then c else c.markBad k (q.findLine second) words.toNat
      | .sourceLost second => c.bankDead k (q.findLine second) := by
  unfold Block.bankFinds
  rw [hkind]
  rfl

/-- A request that finds its lines whole takes effect. -/
theorem bankDo_of_whole {c : Block} {find : BankFind} (h : ((c.bankFinds k q find).bankAt k).whole q) :
    c.bankDo k q find = (((c.bankFinds k q find).effect q).1, .data ((c.bankFinds k q find).effect q).2) := by
  unfold Block.bankDo
  dsimp only
  rw [h.meets, countApplied_whole h]

end

end Sys2Proof.Machine
end

section
/-! A bank's reads and writes, errors with and without a second source (R199, R200, R207, R208, R211, R213). -/
namespace Sys2Proof.Machine

section
variable {b : Block} {k : Nat} {q : Req} {rr : Bool}

/-- What a picked request that has been answered leaves: the others wait, round robin has moved on, the answer is on its way. -/
def Block.served (b : Block) (k : Nat) (q : Req) (rr : Bool) (data : List Byte) (bad : Bool) (u : Block) : Prop :=
  u.isSealed = b.isSealed ∧ Served.after b k q rr u ∧ u.resps = b.resps ++ q.answers data bad

theorem bankServe_read_clean (hpick : b.bankPick k = some (q, rr)) (hsound : (b.bankAt k).soundFor q) (hkind : q.kind = .read) :
    b.served k q rr (b.mem.bytes q.addr q.len) false (b.bankServe k .clean) ∧ (b.bankServe k .clean).mem = b.mem := by
  have hmem : (b.taken k q rr).mem = b.mem := (taken_kept b k q rr).mem
  have hdo : (b.taken k q rr).bankDo k q .clean = (b.taken k q rr, .data (b.mem.bytes q.addr q.len)) := by
    rw [bankDo_whole (whole_of_picked hpick hsound), effect_read hkind, hmem]
  obtain ⟨hseal, hafter, hm, hresps, -⟩ := bankServe_answers hpick hdo (taken_cycle b k q rr) (.inl ⟨rfl, rfl⟩)
  exact ⟨⟨hseal, hafter, hresps⟩, hm.trans hmem⟩

theorem findLine_first (q : Req) : q.findLine false = q.line := rfl

theorem bankServe_read_correctable (hk : k < 64) (stays : Bool) (hpick : b.bankPick k = some (q, rr))
    (hsound : (b.bankAt k).soundFor q) (hkind : q.kind = .read) :
    let u := b.bankServe k (.correctable false stays)
    b.served k q rr (b.mem.bytes q.addr q.len) false u ∧ u.mem = b.mem ∧ u.get (R.CB_ERRADDR_LINE k) = q.line % 2 ^ 14 ∧
      u.get (R.CB_ECCCNT_CECNT k) = min (b.get (R.CB_ECCCNT_CECNT k) + 1) 0xFFFF := by
  let c := b.taken k q rr
  let d := c.bankCorrect k q.line stays
  obtain ⟨hkept, hline, hcount⟩ := bankCorrect_kept c hk q.line stays
  obtain ⟨p, hbank⟩ := bankCorrect_bank c k q.line stays
  have hfinds : c.bankFinds k q (.correctable false stays) = d := by
    rw [bankFinds_of_read hkind]
    rfl
  have hmem : d.mem = b.mem := hkept.mem.trans (taken_kept b k q rr).mem
  have hwhole : (d.bankAt k).whole q := by
    rw [hbank]
    exact whole_of_picked hpick hsound
  have hdo : c.bankDo k q (.correctable false stays) = (d, .data (b.mem.bytes q.addr q.len)) := by
    rw [bankDo_of_whole (by rw [hfinds]; exact hwhole), hfinds, effect_read hkind, hmem]
  have hcycle : CycleOf b k q rr d :=
    (taken_cycle b k q rr).kept hk hkept (lastrq_ne_errFields k) (by rw [hbank]; rfl)
  obtain ⟨hseal, hafter, hm, hresps, hregs, -⟩ := bankServe_answers hpick hdo hcycle (.inl ⟨rfl, rfl⟩)
  have hget : ∀ x, (b.bankServe k (.correctable false stays)).get x = d.get x := fun x => by
    unfold Block.get
    rw [hregs]
  have hcecnt : c.get (R.CB_ECCCNT_CECNT k) = b.get (R.CB_ECCCNT_CECNT k) := by
    refine (taken_kept b k q rr).fields _ (isBankFld_of hk ?_ ?_) ?_
    · simp only [Fld.key, R.CB_ECCCNT_CECNT]; omega
    · simp only [Fld.key, R.CB_ECCCNT_CECNT]; omega
    · simp [Fld.key, R.CB_ECCCNT_CECNT, R.CB_ARB_LASTRQ, R.CB_WAITCNT_COUNT]
      omega
  refine ⟨⟨hseal, hafter, hresps⟩, hm.trans hmem, (hget _).trans hline, (hget _).trans ?_⟩
  rw [hcount, hcecnt]

theorem bankServe_write_clean (hk : k < 64) (hpick : b.bankPick k = some (q, rr)) (hsound : (b.bankAt k).soundFor q)
    (hkind : q.kind = .write) :
    b.served k q rr [] false (b.bankServe k .clean) ∧ Wrote q.addr q.data b (b.bankServe k .clean) := by
  let c := b.taken k q rr
  let d := c.store q.rq q.addr q.data none
  obtain ⟨hseal, hresps, hfields⟩ := store_kept c q.rq q.addr q.data none
  have hdo : c.bankDo k q .clean = (d, .data []) := by
    rw [bankDo_whole (whole_of_picked hpick hsound), effect_write hkind]
  have hcycle : CycleOf b k q rr d := by
    have ht := taken_cycle b k q rr
    exact ⟨hseal.trans ht.isSealed, hresps.trans ht.resps, ((store_mild c _ _ _ _).waiting k).trans ht.waiting,
      (hfields _ (isBankFld_lastrq hk)).trans ht.turn⟩
  have hmem : d.mem = b.mem.writes q.addr q.data := by
    simp only [d]
    rw [store_mem, (taken_kept b k q rr).mem]
  obtain ⟨hseal', hafter, hm, hresps', -⟩ := bankServe_answers hpick hdo hcycle (.inl ⟨rfl, rfl⟩)
  refine ⟨⟨hseal', hafter, hresps'⟩, ?_⟩
  unfold Wrote
  rw [hm, hmem]
  exact ⟨Mem.bytes_writes _ _ _, fun x hx => Mem.read_writes_out _ _ _ _ hx⟩

/-! ## Damaged words -/

theorem ne_zero_lor (m : Nat) {w : Nat} (h : w ≠ 0) : Nat.lor m w ≠ 0 := by
  intro e
  refine h (Nat.eq_of_testBit_eq fun i => ?_)
  have hb := congrArg (fun v => Nat.testBit v i) e
  simp only [show Nat.lor m w = m ||| w from rfl, Nat.testBit_or, Nat.zero_testBit, Bool.or_eq_false_iff] at hb
  rw [hb.2, Nat.zero_testBit]

theorem markBad_bank (b : Block) (k line words : Nat) : (b.markBad k line words).bankAt k =
    { b.bankAt k with bad := (b.bankAt k).bad.put line (Nat.lor ((b.bankAt k).bad.get line 0) words) } :=
  Block.setBank_bankAt_same ..

theorem markBad_ne_zero (b : Block) (k line : Nat) {words : Nat} (h : words ≠ 0) :
    ((b.markBad k line words).bankAt k).bad.get line 0 ≠ 0 := by
  rw [markBad_bank, Tab.get_put_same]
  exact ne_zero_lor _ h

theorem spans_head (q : Req) : ∃ x l, q.spans = (q.line, x) :: l := by
  unfold Req.spans
  dsimp only
  split
  · exact ⟨_, _, rfl⟩
  · exact ⟨_, _, rfl⟩

theorem meets_of_read {q : Req} (hkind : q.kind = .read) {bad : Nat} (h : bad ≠ 0) (o n : Nat) : q.meets bad o n = true := by
  unfold Req.meets
  rw [hkind]
  exact bne_iff_ne.mpr h

/-- A read whose first line has damaged words does not return them. -/
theorem bankDo_read_damaged {c : Block} {second : Bool} {words : BitVec 8} (hkind : q.kind = .read) (hwords : words ≠ 0)
    (hfirst : q.findLine second = q.line) :
    let m := c.markBad k q.line words.toNat
    c.bankDo k q (.uncorrectable second words) =
      if ((c.bankAt k).src.look q.line).isSome then (m.beginRepair k q.line, .later) else (m.unrepairable k q.line false false, .lost) := by
  intro m
  have hne : words.toNat ≠ 0 := fun e => hwords (BitVec.eq_of_toNat_eq e)
  have hfinds : c.bankFinds k q (.uncorrectable second words) = m := by
    rw [bankFinds_of_read hkind]
    dsimp only
    rw [hfirst]
    exact if_neg hwords
  obtain ⟨x, l, hspans⟩ := spans_head q
  have hmeets : q.meets ((m.bankAt k).bad.get q.line 0) x.1 x.2 = true := meets_of_read hkind (markBad_ne_zero c k q.line hne) _ _
  have hfind : (q.spans.find? fun s => q.meets ((m.bankAt k).bad.get s.1 0) s.2.1 s.2.2) = some (q.line, x) := by
    rw [hspans]
    exact List.find?_cons_of_pos hmeets
  have hsrc : (m.bankAt k).src = (c.bankAt k).src := by rw [markBad_bank]
  have hlost : m.bankLost k q.line q = m.unrepairable k q.line false false := by
    unfold Block.bankLost
    rw [hkind]
  unfold Block.bankDo
  dsimp only
  rw [hfinds, hfind, ← hlost, ← hsrc]

theorem taken_src (b : Block) (k : Nat) (q : Req) (rr : Bool) (line : Nat) :
    ((b.taken k q rr).bankAt k).src.look line = (b.bankAt k).src.look line := by
  rw [taken_bankAt]
  rfl

theorem markBad_kept (b : Block) (k line words : Nat) : BankKept [] b (b.markBad k line words) := .setBank (.refl _ b) _ _

/-- A read of a damaged line without a second source is answered with an error (R213). -/
theorem bankServe_read_lost (hk : k < 64) {words : BitVec 8} (hpick : b.bankPick k = some (q, rr)) (hkind : q.kind = .read)
    (hwords : words ≠ 0) (hsrc : (b.bankAt k).src.look q.line = none) :
    let u := b.bankServe k (.uncorrectable false words)
    b.served k q rr [] true u ∧ u.mem = b.mem ∧ u.get (R.CB_EVT_UNREP k) = 1 ∧ (u.bankAt k).bad.get q.line 0 ≠ 0 ∧
      u.get (R.CB_ECCCNT_UECNT k) = min (b.get (R.CB_ECCCNT_UECNT k) + 1) 0xFF := by
  let c := b.taken k q rr
  let m := c.markBad k q.line words.toNat
  let d := m.unrepairable k q.line false false
  obtain ⟨hkept, hcount, hunrep⟩ := unrepairable_kept m k q.line false
  have hbank : d.bankAt k = m.bankAt k := unrepairable_bankAt _ _ _ _ _ _
  have hdo : c.bankDo k q (.uncorrectable false words) = (d, .lost) := by
    rw [bankDo_read_damaged hkind hwords (findLine_first q), taken_src, hsrc]
    exact if_neg (by decide)
  have hcycle : CycleOf b k q rr d := by
    have hm := (taken_cycle b k q rr).kept hk (markBad_kept c k q.line words.toNat) nofun (by rw [markBad_bank])
    exact hm.kept hk hkept (lastrq_ne_errFields k) (by rw [hbank])
  obtain ⟨hseal, hafter, hm, hresps, hregs, hbad⟩ := bankServe_answers hpick hdo hcycle (.inr ⟨rfl, rfl, rfl⟩)
  have hget : ∀ x, (b.bankServe k (.uncorrectable false words)).get x = d.get x := fun x => by
    unfold Block.get
    rw [hregs]
  have hbase : m.get (R.CB_ECCCNT_UECNT k) = b.get (R.CB_ECCCNT_UECNT k) := by
    refine (taken_kept b k q rr).fields _ (isBankFld_of hk ?_ ?_) ?_
    · simp only [Fld.key, R.CB_ECCCNT_UECNT]; omega
    · simp only [Fld.key, R.CB_ECCCNT_UECNT]; omega
    · simp [Fld.key, R.CB_ECCCNT_UECNT, R.CB_ARB_LASTRQ, R.CB_WAITCNT_COUNT]
      omega
  refine ⟨⟨hseal, hafter, hresps⟩, hm.trans (hkept.mem.trans (taken_kept b k q rr).mem), (hget _).trans hunrep, ?_, (hget _).trans ?_⟩
  · rw [hbad, hbank]
    exact markBad_ne_zero c k q.line fun e => hwords (BitVec.eq_of_toNat_eq e)
  · rw [hcount, hbase]

theorem beginRepair_bank (b : Block) (k line : Nat) : (b.beginRepair k line).bankAt k = { b.bankAt k with
    repair := if (b.bankAt k).repair.any (·.1 == line) then (b.bankAt k).repair else (b.bankAt k).repair ++ [(line, false)] } :=
  Block.setBank_bankAt_same ..

theorem beginRepair_kept (b : Block) (k line : Nat) : BankKept [] b (b.beginRepair k line) := .setBank (.refl _ b) _ _

/-- A read of a damaged line with a second source waits for its repair (R211, R212). -/
theorem bankServe_read_repair (hk : k < 64) {words : BitVec 8} {wb : Nat} (hpick : b.bankPick k = some (q, rr)) (hkind : q.kind = .read)
    (hwords : words ≠ 0) (hsrc : (b.bankAt k).src.look q.line = some wb) :
    let u := b.bankServe k (.uncorrectable false words)
    u.isSealed = b.isSealed ∧ u.get (R.CB_ARB_LASTRQ k) = (if rr then arbNumber q.rq % 2 ^ 7 else b.get (R.CB_ARB_LASTRQ k)) ∧
      u.mem = b.mem ∧ u.resps = b.resps ∧ (u.bankAt k).repair = (b.bankAt k).repair ++ [(q.line, false)] ∧
      q ∈ (u.bankAt k).waiting := by
  let c := b.taken k q rr
  let m := c.markBad k q.line words.toNat
  let d := m.beginRepair k q.line
  have hdo : c.bankDo k q (.uncorrectable false words) = (d, .later) := by
    rw [bankDo_read_damaged hkind hwords (findLine_first q), taken_src, hsrc]
    exact if_pos rfl
  have hcycle : CycleOf b k q rr d := by
    have hm := (taken_cycle b k q rr).kept hk (markBad_kept c k q.line words.toNat) nofun (by rw [markBad_bank])
    exact hm.kept hk (beginRepair_kept m k q.line) nofun (by rw [beginRepair_bank])
  have hmem : d.mem = b.mem := (taken_kept b k q rr).mem
  have hrun := bankServe_picked hpick hdo
  rw [if_pos rfl] at hrun
  have hrep : (d.bankAt k).repair = (b.bankAt k).repair ++ [(q.line, false)] := by
    have hold : (m.bankAt k).repair = (b.bankAt k).repair := by rw [markBad_bank, taken_bankAt]; rfl
    obtain ⟨x, l, hspans⟩ := spans_head q
    have hnone : (b.bankAt k).repair.any (·.1 == q.line) = false := by
      rw [List.any_eq_false]
      intro r hr he
      exact repair_ne_of_servable (bankPick_cases hpick).1 (by rw [hspans]; exact List.mem_cons_self) r hr (beq_iff_eq.mp he)
    rw [beginRepair_bank]
    simp only [hold, hnone, Bool.false_eq_true, if_false]
  rw [hrun]
  refine ⟨hcycle.isSealed, hcycle.turn, hmem, hcycle.resps, ?_, ?_⟩
  · rw [Block.setBank_bankAt_same]
    exact hrep
  · rw [Block.setBank_bankAt_same]
    exact List.mem_map.mpr ⟨q, bankPick_mem hpick, if_pos rfl⟩

end

end Sys2Proof.Machine
end

section
/-! A bank's scrub, repairs from the write buffer, initialisation and registers (R201, R206, R208, R209, R211, R213, R214). -/
namespace Sys2Proof.Machine

/-! ## Scrub (R209) -/

theorem bankDead_kept (b : Block) (k line : Nat) : BankKept [] b (b.bankDead k line) := .setBank (.refl _ b) _ _

theorem report_kept (b : Block) (k key : Nat) : BankKept [] b (b.report k key) := .setBank (.refl _ b) _ _

theorem BankKept.all {b c : Block} (h : BankKept [] b c) (fs : List Fld) : BankKept fs b c := h.mono fun _ h => absurd h List.not_mem_nil

theorem scrubLost_kept (b : Block) (k line : Nat) : BankKept (errFields k) b (b.scrubLost k line) :=
  ((report_kept b k line).all _).trans (unrepairable_kept _ _ _ _).1

theorem scrubRow_kept (b : Block) {k : Nat} (hk : k < 64) (r : Nat) (find : BankFind) : BankKept (errFields k) b (b.scrubRow k r find) := by
  unfold Block.scrubRow
  split
  · exact .refl _ b
  · exact (bankCorrect_kept b hk _ _).1
  · split
    · exact .refl _ b
    · dsimp only
      split
      · exact ((markBad_kept b k _ _).all _).trans ((beginRepair_kept _ k _).all _)
      · exact ((markBad_kept b k _ _).all _).trans (scrubLost_kept _ k _)
  · exact (bankDead_kept b k _).all _
  · exact .countGlob (.put (.refl _ b) (by simp [errFields]) _) _ _
  · split
    · exact .refl _ b
    · unfold Block.scrubRowLost
      dsimp only
      have hcount := ((report_kept b k (0x8000 + r)).all (errFields k)).put (f := R.CB_ECCCNT_UECNT k) (by simp [errFields])
        (satAdd ((b.report k (0x8000 + r)).get (R.CB_ECCCNT_UECNT k)) 1 8)
      split
      · exact hcount
      · exact hcount.put (by simp [errFields]) _
  · exact .refl _ b

theorem scrubRow_correctable (b : Block) {k : Nat} (hk : k < 64) (r : Nat) (second stays : Bool) :
    (b.scrubRow k r (.correctable second stays)).get (R.CB_ECCCNT_CECNT k) = min (b.get (R.CB_ECCCNT_CECNT k) + 1) 0xFFFF := by
  unfold Block.scrubRow
  cases b.rowLine k r with
  | some l => exact (bankCorrect_kept b hk l stays).2.2
  | none =>
    refine (countGlob_get _ _ _ fun i hi => ?_).trans ?_
    · simp only [Fld.key, R.CB_ECCCNT_CECNT, R.GPC_COUNT]
      omega
    · rw [Block.incSat_eq, Block.get_put_same]
      exact satAdd_mod _ _ _

theorem report_bank (b : Block) (k key : Nat) : (b.report k key).bankAt k = { b.bankAt k with
    seen := if (b.bankAt k).seen.contains key then (b.bankAt k).seen else key :: (b.bankAt k).seen } := Block.setBank_bankAt_same ..

theorem report_seen (b : Block) (k key : Nat) : key ∈ ((b.report k key).bankAt k).seen := by
  rw [report_bank]
  dsimp only
  split
  next h => exact List.contains_iff_mem.mp h
  · exact List.mem_cons_self

/-- What scrub makes of damaged words in a line (R209, R211, R213). -/
theorem scrubRow_uncorrectable (b : Block) {k r line : Nat} {second : Bool} {words : BitVec 8} (hwords : words ≠ 0)
    (hline : b.rowLine k r = some line) :
    let u := b.scrubRow k r (.uncorrectable second words)
    (u.bankAt k).bad.get line 0 ≠ 0 ∧
      ((b.bankAt k).src.look line = none → u.get (R.CB_ECCCNT_UECNT k) = min (b.get (R.CB_ECCCNT_UECNT k) + 1) 0xFF ∧
        line ∈ (u.bankAt k).seen ∧
        u.get (R.CB_EVT_UNREP k) = if (b.bankAt k).seen.contains line then b.get (R.CB_EVT_UNREP k) else 1) ∧
      ∀ wb, (b.bankAt k).src.look line = some wb → ∃ p ∈ (u.bankAt k).repair, p.1 = line := by
  let m := b.markBad k line words.toNat
  have hne : words.toNat ≠ 0 := fun e => hwords (BitVec.eq_of_toNat_eq e)
  have hbad := markBad_ne_zero b k line hne
  have hrun : b.scrubRow k r (.uncorrectable second words) =
      if ((b.bankAt k).src.look line).isSome then m.beginRepair k line else m.scrubLost k line := by
    unfold Block.scrubRow
    rw [hline]
    dsimp only
    rw [if_neg hwords, markBad_bank]
  have hseen : (m.bankAt k).seen = (b.bankAt k).seen := by rw [markBad_bank]
  intro u
  cases hsrc : (b.bankAt k).src.look line with
  | none =>
    have hu : u = m.scrubLost k line := hrun.trans (by rw [hsrc]; exact if_neg (by decide))
    have hubank : u.bankAt k = (m.report k line).bankAt k := by
      rw [hu]
      exact unrepairable_bankAt _ _ _ _ _ _
    obtain ⟨-, hcount, hunrep⟩ := unrepairable_kept (m.report k line) k line ((m.bankAt k).seen.contains line)
    refine ⟨?_, fun _ => ⟨?_, ?_, ?_⟩, fun wb h => by cases h⟩
    · rw [hubank, report_bank]
      exact hbad
    · rw [hu]
      exact hcount
    · rw [hubank]
      exact report_seen m k line
    · rw [hu, ← hseen]
      exact hunrep
  | some wb =>
    have hu : u = m.beginRepair k line := hrun.trans (by rw [hsrc]; exact if_pos rfl)
    refine ⟨?_, fun h => (by cases h), fun _ _ => ?_⟩
    · rw [hu, beginRepair_bank]
      exact hbad
    · rw [hu, beginRepair_bank]
      dsimp only
      split
      next h =>
        obtain ⟨p, hp, he⟩ := List.any_eq_true.mp h
        exact ⟨p, hp, beq_iff_eq.mp he⟩
      · exact ⟨(line, false), List.mem_append_right _ List.mem_cons_self, rfl⟩

/-- The block whose row scrub has just read: no read waits, and NEXT names the next row. -/
def Block.scrubbed (b : Block) (k : Nat) : Block :=
  (b.setBank k { b.bankAt k with scrubAge := none }).put (R.CB_SCRUB_NEXT k) ((b.get (R.CB_SCRUB_NEXT k) + 1) % 0x4040)

theorem scrubbed_bank (b : Block) (k : Nat) : (b.scrubbed k).bankAt k = { b.bankAt k with scrubAge := none } :=
  Block.setBank_bankAt_same ..

theorem scrubbed_rowLine (b : Block) (k r : Nat) : (b.scrubbed k).rowLine k r = b.rowLine k r := by
  unfold Block.rowLine
  rw [scrubbed_bank]

theorem scrubbed_get (b : Block) (k : Nat) {x : Fld} (h : x.key ≠ (R.CB_SCRUB_NEXT k).key) : (b.scrubbed k).get x = b.get x :=
  Block.get_put_ne _ _ _ _ h

theorem execCarafeScrub_reads {k : BankId} {s : State} (find : BankFind) (hon : s.blk.get (R.CB_STAT_PSTATE k) = 2)
    (hfree : (∀ p ∈ (s.blk.bankAt k).waiting, p.place = 0) ∨ 16 ≤ (s.blk.bankAt k).scrubAge.getD 0) :
    exec (.carafeScrub k find) s = done s ((s.blk.scrubbed k).scrubRow k (s.blk.get (R.CB_SCRUB_NEXT k)) find) := by
  refine congrArg (done s) ?_
  dsimp only
  rw [if_neg (not_not.mpr hon), if_neg]
  · rfl
  · simp only [Bool.and_eq_true, List.any_eq_true, bne_iff_ne, decide_eq_true_eq, not_and, not_lt]
    rintro ⟨p, hp, hplace⟩
    exact hfree.resolve_left fun h => hplace (h p hp)

theorem execCarafeScrub_waits {k : BankId} {s : State} (find : BankFind) (hon : s.blk.get (R.CB_STAT_PSTATE k) = 2)
    (hbusy : ¬((∀ p ∈ (s.blk.bankAt k).waiting, p.place = 0) ∨ 16 ≤ (s.blk.bankAt k).scrubAge.getD 0)) :
    exec (.carafeScrub k find) s =
      done s (s.blk.setBank k { s.blk.bankAt k with scrubAge := some ((s.blk.bankAt k).scrubAge.getD 0) }) := by
  refine congrArg (done s) ?_
  dsimp only
  rw [if_neg (not_not.mpr hon)]
  refine if_pos ?_
  obtain ⟨hwait, hage⟩ := not_or.mp hbusy
  simp only [not_forall] at hwait
  obtain ⟨p, hp, hplace⟩ := hwait
  simp only [Bool.and_eq_true, List.any_eq_true, bne_iff_ne, decide_eq_true_eq]
  exact ⟨⟨p, hp, hplace⟩, not_le.mp hage⟩

/-! ## Repairs from the write buffer (R211, R213) -/

theorem execRefetch_none {k : BankId} {s : State} (err same stays : Bool) (h : (s.blk.bankAt k).repairing false = none) :
    exec (.secondSourceRefetch k err same stays) s = done s s.blk := by
  refine congrArg (done s) ?_
  rw [h]

theorem execRefetch_sourced {k : BankId} {s : State} (err same stays : Bool) {line wb : Nat}
    (h : (s.blk.bankAt k).repairing false = some line) (hsrc : (s.blk.bankAt k).src.look line = some wb) :
    exec (.secondSourceRefetch k err same stays) s = done s (if err then s.blk.handRepair k line true
      else if same && (s.blk.bankAt k).bad.get line 0 != 255 then s.blk.repairLine k line wb stays else s.blk.bankDead k line) := by
  refine congrArg (done s) ?_
  rw [h]
  dsimp only
  rw [hsrc]

theorem execRefetch_unsourced {k : BankId} {s : State} (err same stays : Bool) {line : Nat}
    (h : (s.blk.bankAt k).repairing false = some line) (hsrc : (s.blk.bankAt k).src.look line = none) :
    exec (.secondSourceRefetch k err same stays) s = done s (s.blk.bankDead k line) := by
  refine congrArg (done s) ?_
  rw [h]
  dsimp only
  rw [hsrc]

/-- A line without a second source has no source field and no repair (R211, R213). -/
theorem bankDead_given (b : Block) (k line : Nat) :
    ((b.bankDead k line).bankAt k).src.look line = none ∧ (∀ r ∈ ((b.bankDead k line).bankAt k).repair, r.1 ≠ line) ∧
      (b.bankDead k line).mem = b.mem := by
  have hbank : (b.bankDead k line).bankAt k = { b.bankAt k with
      src := (b.bankAt k).src.del line, repair := (b.bankAt k).repair.filter (·.1 != line) } := Block.setBank_bankAt_same ..
  rw [hbank]
  exact ⟨Tab.look_del_same _ _, fun r hr => bne_iff_ne.mp (List.mem_filter.mp hr).2, rfl⟩

theorem heal_all {c : Bank} {line : Nat} (h : c.bad.get line 0 < 255) : (c.heal line 255).bad.get line 0 = 0 := by
  have hland : Nat.land (c.bad.get line 0) 255 = c.bad.get line 0 :=
    (Nat.and_two_pow_sub_one_eq_mod _ 8).trans (Nat.mod_eq_of_lt (by omega))
  unfold Bank.heal
  dsimp only
  rw [hland, if_pos (Nat.sub_self _)]
  unfold Tab.get
  rw [Tab.look_del_same]
  rfl

/-- A line repaired from the write buffer (R211). -/
theorem repairLine_repairs (b : Block) {k : Nat} (hk : k < 64) (line wb : Nat) (stays : Bool) (hbad : (b.bankAt k).bad.get line 0 < 255) :
    let u := b.repairLine k line wb stays
    u.isSealed = b.isSealed ∧ Wrote (k * 2 ^ 20 + line * 64) (b.mem.bytes (dramBase + 64 * wb) 64) b u ∧
      (∀ r ∈ (u.bankAt k).repair, r.1 ≠ line) ∧ (u.bankAt k).bad.get line 0 = 0 ∧
      u.get (R.CB_ECCCNT_RFCNT k) = min (b.get (R.CB_ECCCNT_RFCNT k) + 1) 0xFF := by
  let b1 : Block := { b with mem := b.mem.writes (k * 2 ^ 20 + line * 64) (b.mem.bytes (dramBase + 64 * wb) 64) }
  let b2 := if stays then b1.bankRemap k line else b1
  have h12 : BankKept [R.CB_STAT_SPUSED k, R.CB_STAT_SPFULL k, R.CB_EVT_SPFULL k] b1 b2 := by
    simp only [b2]
    split
    · exact bankRemap_kept b1 k line
    · exact .refl _ b1
  have hb2 : ∃ p, b2.bankAt k = (b.bankAt k).respared p := by
    simp only [b2]
    cases stays
    · exact ⟨((b.bankAt k).spare, (b.bankAt k).spUsed), rfl⟩
    · exact ⟨_, bankRemap_bank b1 k line⟩
  let c := (b2.bankAt k).heal line 255
  let b3 := b2.setBank k { c with repair := c.repair.filter (·.1 != line) }
  let b4 := (b3.incSat (R.CB_ECCCNT_RFCNT k) 1).countGlob 0x08 1
  have hrfcnt : isBankFld (R.CB_ECCCNT_RFCNT k) :=
    isBankFld_of hk (by simp only [Fld.key, R.CB_ECCCNT_RFCNT]; omega) (by simp only [Fld.key, R.CB_ECCCNT_RFCNT]; omega)
  have h34 : BankKept [R.CB_ECCCNT_RFCNT k] b3 b4 := .countGlob (.put (.refl _ b3) (by simp) _) _ _
  have h4 := bankErr_kept b4 k line true true false
  have hrun : b.repairLine k line wb stays = b4.bankErr k line true true false := rfl
  have hbank : (b4.bankErr k line true true false).bankAt k = { c with repair := c.repair.filter (·.1 != line) } := by
    have he : (b4.bankErr k line true true false).bankAt k = b4.bankAt k := rfl
    rw [he, countGlob_bankAt]
    exact Block.setBank_bankAt_same ..
  intro u
  have hmem : u.mem = b.mem.writes (k * 2 ^ 20 + line * 64) (b.mem.bytes (dramBase + 64 * wb) 64) :=
    (h4.mem.trans h34.mem).trans h12.mem
  refine ⟨(h4.isSealed.trans h34.isSealed).trans h12.isSealed, ?_, ?_, ?_, ?_⟩
  · unfold Wrote
    rw [hmem]
    exact ⟨Mem.bytes_writes _ _ _, fun x hx => Mem.read_writes_out _ _ _ _ hx⟩
  · simp only [u]
    rw [hrun, hbank]
    exact fun r hr => bne_iff_ne.mp (List.mem_filter.mp hr).2
  · simp only [u]
    rw [hrun, hbank]
    refine heal_all ?_
    obtain ⟨p, hp⟩ := hb2
    rw [hp]
    exact hbad
  · refine (h4.fields _ hrfcnt ?_).trans ?_
    · simp [errAddr, Fld.key, R.CB_ECCCNT_RFCNT, R.CB_ERRADDR_LINE, R.CB_ERRADDR_UE, R.CB_ERRADDR_REFETCHED, R.CB_ERRADDR_DROPST,
        R.CB_ERRADDR_REMAPPED]
      omega
    · refine (countGlob_get _ _ _ fun i hi => ?_).trans ?_
      · simp only [Fld.key, R.CB_ECCCNT_RFCNT, R.GPC_COUNT]
        omega
      · rw [Block.incSat_eq, Block.get_put_same]
        refine (satAdd_mod _ _ _).trans (congrArg (fun v => min (v + 1) 0xFF) ?_)
        refine h12.fields _ hrfcnt ?_
        simp [Fld.key, R.CB_ECCCNT_RFCNT, R.CB_STAT_SPUSED, R.CB_STAT_SPFULL, R.CB_EVT_SPFULL]
        omega

/-! ## Initialisation (R206) -/

theorem Mem.look_filter_key {m : Mem} {lo : Nat} (p : Nat → Bool) (w : Mem.wfFrom lo m = true) {a : Nat} (h : p a = true) :
    Tab.look (m.filter fun c => p c.1) a = Tab.look m a := by
  induction m generalizing lo with
  | nil => rfl
  | cons c m ih =>
    obtain ⟨i, v⟩ := c
    simp only [Mem.wfFrom, Bool.and_eq_true, decide_eq_true_eq] at w
    obtain ⟨-, hw⟩ := w
    have htail := ih hw
    by_cases hp : p i = true
    · rw [List.filter_cons_of_pos (by exact hp)]
      unfold Tab.look
      rw [htail]
    · rw [List.filter_cons_of_neg (by exact hp), htail]
      have hne : a ≠ i := fun e => hp (e ▸ h)
      conv_rhs => unfold Tab.look
      rw [if_neg hne]
      split
      next hlt => exact Mem.look_below hw (by omega)
      · rfl

/-- Bank `k`'s bytes read zero and all others as before (R206). -/
theorem zeroBank_mem {b : Block} (hwf : b.mem.wf = true) (k : Nat) :
    (∀ a, a / 2 ^ 20 = k → (b.zeroBank k).mem.read a = 0) ∧ ∀ a, a / 2 ^ 20 ≠ k → (b.zeroBank k).mem.read a = b.mem.read a := by
  have hmem : (b.zeroBank k).mem = b.mem.filter fun p => p.1 / 2 ^ 20 != k := rfl
  rw [hmem]
  refine ⟨fun a ha => ?_, fun a ha => ?_⟩
  · have hnone : Tab.look (b.mem.filter fun p => p.1 / 2 ^ 20 != k) a = none := by
      refine Tab.look_of_keys_ne fun p hp e => ?_
      have hp := bne_iff_ne.mp (List.mem_filter.mp hp).2
      exact hp (e ▸ ha)
    unfold Mem.read Tab.get
    rw [hnone]
    rfl
  · unfold Mem.read Tab.get
    rw [Mem.look_filter_key (fun i => i / 2 ^ 20 != k) hwf (bne_iff_ne.mpr ha)]

theorem zeroBank_bank (b : Block) (k : Nat) : (b.zeroBank k).bankAt k =
    { b.bankAt k with src := [], bad := [], seen := [], repair := [], scrubAge := none } := Block.setBank_bankAt_same ..

/-- A bank that finishes its initialisation. -/
def Block.initialised (b : Block) (k : Nat) : Block :=
  let b := ((b.zeroBank k).clear (R.CB_STAT_INIT k)).put (R.CB_STAT_PSTATE k) 2 |>.put (R.PWR_BANK_STATE k) 2
  (b.setBank k { b.bankAt k with target := none }).live [mirBank k]

theorem execBankInitDone_inits {k : BankId} {s : State} (h : s.blk.get (R.CB_STAT_INIT k) ≠ 0) :
    exec (.bankInitDone k) s = done s (s.blk.initialised k) := by
  refine congrArg (done s) (if_pos ?_)
  unfold Block.bankInits
  rw [show s.blk.flag (R.CB_STAT_INIT k) = true from bne_iff_ne.mpr h]
  rfl

theorem live_get (b : Block) (units : List Nat) {x : Fld} (h : x.key ≠ R.SPM_LSEQ_LSEQ.key) : (b.live units).get x = b.get x :=
  Block.get_put_ne _ _ _ _ h

theorem initialised_bank (b : Block) (k : Nat) : (b.initialised k).bankAt k =
    { b.bankAt k with src := [], bad := [], seen := [], repair := [], scrubAge := none, target := none } := by
  have hz := zeroBank_bank b k
  refine (Block.setBank_bankAt_same ..).trans ?_
  simp only [Block.put_bankAt, Block.clear_eq]
  rw [hz]

theorem initialised_stat (b : Block) {k : Nat} (hk : k < 64) :
    (b.initialised k).get (R.CB_STAT_INIT k) = 0 ∧ (b.initialised k).get (R.CB_STAT_PSTATE k) = 2 := by
  unfold Block.initialised
  dsimp only
  rw [live_get _ _ (by simp only [Fld.key, R.CB_STAT_INIT, R.SPM_LSEQ_LSEQ]; omega),
    live_get _ _ (by simp only [Fld.key, R.CB_STAT_PSTATE, R.SPM_LSEQ_LSEQ]; omega), Block.setBank_get, Block.setBank_get, Block.clear_eq]
  simp (disch := (simp only [Fld.key, R.CB_STAT_INIT, R.CB_STAT_PSTATE, R.PWR_BANK_STATE]; omega)) only [Block.get_put_same,
    Block.get_put_ne]
  exact ⟨rfl, rfl⟩

end Sys2Proof.Machine
end

section
/-! The Carafe banks' obligation (R196 to R214). -/
namespace Sys2Proof.Machine

theorem cycles_eq (q : Req) : q.cycles = if q.kind.stores = true ∧ ¬(q.addr % 8 = 0 ∧ q.len % 8 = 0) then 2 else 1 := by
  unfold Req.cycles Req.wholeWords
  refine if_congr ?_ rfl rfl
  simp only [Bool.and_eq_true, Bool.not_eq_true', Bool.and_eq_false_iff, beq_eq_false_iff_ne]
  exact and_congr_right fun _ => not_and_or.symm

/-- The waiting requests and round robin after a cycle, the cycle's length written out. -/
theorem Served.after.spelled {b u : Block} {k : Nat} {q : Req} {rr : Bool} (h : Served.after b k q rr u) :
    (u.bankAt k).waiting = seat k ((removeReq q (b.bankAt k).waiting).map fun p => if p.place = 0 then p else { p with
      age := p.age + if q.kind.stores = true ∧ ¬(q.addr % 8 = 0 ∧ q.len % 8 = 0) then 2 else 1 }) ∧
      u.get (R.CB_ARB_LASTRQ k) = if rr then arbNumber q.rq % 2 ^ 7 else b.get (R.CB_ARB_LASTRQ k) := by
  rw [← cycles_eq]
  exact h

section
variable {s : State} {k : BankId} {find : BankFind}

theorem exec_bankServe (k : BankId) (find : BankFind) (s : State) : exec (.bankServe k find) s = done s (s.blk.bankServe k find) := rfl

theorem gives_bankServe_idle (h : (s.blk.bankAt k).servable = []) : Gives (.bankServe k find) s (Same s) := by
  refine gives_of_done (b := s.blk) ?_ rfl rfl
  rw [exec_bankServe]
  have hnone := (bankPick_eq_none s.blk k).mpr h
  have hstep : s.blk.bankStep k find = (s.blk, none) := by
    unfold Block.bankStep
    rw [hnone]
  unfold Block.bankServe
  rw [hstep]

/-- What a scrub read leaves (R208, R209, R213). -/
theorem gives_scrub_reads (second stays : Bool) (words : BitVec 8) (line wb : Nat) (hon : s.blk.get (R.CB_STAT_PSTATE k) = 2)
    (hfree : (∀ p ∈ (s.blk.bankAt k).waiting, p.place = 0) ∨ 16 ≤ (s.blk.bankAt k).scrubAge.getD 0) :
    Gives (.carafeScrub k find) s fun t => t.blk.mem = s.blk.mem ∧
      t.blk.get (R.CB_SCRUB_NEXT k) = (s.blk.get (R.CB_SCRUB_NEXT k) + 1) % 0x4040 ∧
      (find = .correctable second stays →
        t.blk.get (R.CB_ECCCNT_CECNT k) = min (s.blk.get (R.CB_ECCCNT_CECNT k) + 1) 0xFFFF) ∧
      (find = .clean → OnlyFields [R.CB_SCRUB_NEXT k] (s.blk.setBank k { s.blk.bankAt k with scrubAge := none }) t.blk) ∧
      (find = .uncorrectable second words → words ≠ 0 → s.blk.rowLine k (s.blk.get (R.CB_SCRUB_NEXT k)) = some line →
        (t.blk.bankAt k).bad.get line 0 ≠ 0 ∧
        ((s.blk.bankAt k).src.look line = none →
          t.blk.get (R.CB_ECCCNT_UECNT k) = min (s.blk.get (R.CB_ECCCNT_UECNT k) + 1) 0xFF ∧ line ∈ (t.blk.bankAt k).seen ∧
          t.blk.get (R.CB_EVT_UNREP k) = if (s.blk.bankAt k).seen.contains line then s.blk.get (R.CB_EVT_UNREP k) else 1) ∧
        ((s.blk.bankAt k).src.look line = some wb → ∃ r ∈ (t.blk.bankAt k).repair, r.1 = line)) := by
  obtain ⟨hseal, hmem, -, hfields⟩ := scrubRow_kept (s.blk.scrubbed k) k.isLt (s.blk.get (R.CB_SCRUB_NEXT k)) find
  refine gives_of_done (execCarafeScrub_reads find hon hfree) hseal ⟨hmem, ?_, ?_, ?_, ?_⟩
  · refine (hfields _ (isBankFld_of k.isLt ?_ ?_) ?_).trans ?_
    · simp only [Fld.key, R.CB_SCRUB_NEXT]; omega
    · simp only [Fld.key, R.CB_SCRUB_NEXT]; omega
    · intro f hf
      simp only [errFields, errAddr, List.cons_append, List.nil_append, List.mem_cons, List.not_mem_nil, or_false] at hf
      obtain rfl | rfl | rfl | rfl | rfl | rfl | rfl | rfl | rfl | rfl | rfl | rfl | rfl := hf
      all_goals
        simp only [Fld.key, R.CB_SCRUB_NEXT, R.CB_ECCCNT_CECNT, R.CB_ECCCNT_RFCNT, R.CB_ECCCNT_UECNT, R.CB_STAT_SPUSED,
          R.CB_STAT_SPFULL, R.CB_EVT_SPFULL, R.CB_EVT_UNREP, R.CB_EVT_DROPST, R.CB_ERRADDR_LINE, R.CB_ERRADDR_UE,
          R.CB_ERRADDR_REFETCHED, R.CB_ERRADDR_DROPST, R.CB_ERRADDR_REMAPPED]
        omega
    · refine (Block.get_put_same _ _ _).trans (Nat.mod_eq_of_lt ?_)
      have := Nat.mod_lt (s.blk.get (R.CB_SCRUB_NEXT k) + 1) (show 0 < 0x4040 by decide)
      simp only [R.CB_SCRUB_NEXT]
      omega
  · rintro rfl
    refine (scrubRow_correctable _ k.isLt _ second stays).trans ?_
    rw [scrubbed_get]
    simp only [Fld.key, R.CB_ECCCNT_CECNT, R.CB_SCRUB_NEXT]
    omega
  · rintro rfl
    have hclean : (s.blk.scrubbed k).scrubRow k (s.blk.get (R.CB_SCRUB_NEXT k)) .clean = s.blk.scrubbed k := by
      unfold Block.scrubRow
      split <;> simp_all
    dsimp only
    rw [hclean]
    exact (OnlyFields.refl _ _).put List.mem_cons_self _
  · rintro rfl hwords hline
    obtain ⟨hbad, hnone, hsome⟩ := scrubRow_uncorrectable (s.blk.scrubbed k) (second := second) hwords
      ((scrubbed_rowLine s.blk k _).trans hline)
    have hsrc : ((s.blk.scrubbed k).bankAt k).src = (s.blk.bankAt k).src := by rw [scrubbed_bank]
    have hseen : ((s.blk.scrubbed k).bankAt k).seen = (s.blk.bankAt k).seen := by rw [scrubbed_bank]
    have huecnt : (s.blk.scrubbed k).get (R.CB_ECCCNT_UECNT k) = s.blk.get (R.CB_ECCCNT_UECNT k) :=
      scrubbed_get _ _ (by simp only [Fld.key, R.CB_ECCCNT_UECNT, R.CB_SCRUB_NEXT]; omega)
    have hunrep : (s.blk.scrubbed k).get (R.CB_EVT_UNREP k) = s.blk.get (R.CB_EVT_UNREP k) :=
      scrubbed_get _ _ (by simp only [Fld.key, R.CB_EVT_UNREP, R.CB_SCRUB_NEXT]; omega)
    rw [hsrc, hseen, huecnt, hunrep] at hnone
    rw [hsrc] at hsome
    exact ⟨hbad, hnone, hsome wb⟩

/-- What the read of a second source returns to its line (R211, R213). -/
theorem gives_refetch (err same stays : Bool) (line wb : Nat) (hrep : (s.blk.bankAt k).repairing false = some line) :
    ((s.blk.bankAt k).src.look line = some wb →
      (err = true → Gives (.secondSourceRefetch k err same stays) s fun t => t.blk = s.blk.handRepair k line true) ∧
      (err = false → same = true → (s.blk.bankAt k).bad.get line 0 < 255 → Gives (.secondSourceRefetch k err same stays) s fun t =>
        Wrote (k.val * 2 ^ 20 + line * 64) (s.blk.mem.bytes (dramBase + 64 * wb) 64) s.blk t.blk ∧
          (∀ r ∈ (t.blk.bankAt k).repair, r.1 ≠ line) ∧ (t.blk.bankAt k).bad.get line 0 = 0 ∧
          t.blk.get (R.CB_ECCCNT_RFCNT k) = min (s.blk.get (R.CB_ECCCNT_RFCNT k) + 1) 0xFF) ∧
      (err = false → same = false ∨ (s.blk.bankAt k).bad.get line 0 = 255 → Gives (.secondSourceRefetch k err same stays) s fun t =>
        (t.blk.bankAt k).src.look line = none ∧ (∀ r ∈ (t.blk.bankAt k).repair, r.1 ≠ line) ∧ t.blk.mem = s.blk.mem)) ∧
    ((s.blk.bankAt k).src.look line = none → Gives (.secondSourceRefetch k err same stays) s fun t =>
        (t.blk.bankAt k).src.look line = none ∧ (∀ r ∈ (t.blk.bankAt k).repair, r.1 ≠ line) ∧ t.blk.mem = s.blk.mem) := by
  refine ⟨fun hsrc => ⟨?_, ?_, ?_⟩, fun hsrc => ?_⟩
  · rintro rfl
    exact gives_of_done (execRefetch_sourced true same stays hrep hsrc) rfl rfl
  · rintro rfl rfl hbad
    have hne : (s.blk.bankAt k).bad.get line 0 ≠ 255 := by omega
    have hcond : (true && (s.blk.bankAt k).bad.get line 0 != 255) = true := by simpa using hne
    obtain ⟨hseal, hwrote, hrepair, hhealed, hcount⟩ := repairLine_repairs s.blk k.isLt line wb stays hbad
    refine gives_of_done (b := s.blk.repairLine k line wb stays) ?_ hseal ⟨hwrote, hrepair, hhealed, hcount⟩
    rw [execRefetch_sourced false true stays hrep hsrc, if_neg Bool.false_ne_true, if_pos hcond]
  · rintro rfl hbad
    have hcond : ¬(same && (s.blk.bankAt k).bad.get line 0 != 255) = true := by
      obtain rfl | hbad := hbad
      · exact Bool.false_ne_true
      · simp [hbad]
    refine gives_of_done (b := s.blk.bankDead k line) ?_ rfl (bankDead_given s.blk k line)
    rw [execRefetch_sourced false same stays hrep hsrc, if_neg Bool.false_ne_true, if_neg hcond]
  · exact gives_of_done (execRefetch_unsourced err same stays hrep hsrc) rfl (bankDead_given s.blk k line)

theorem gives_initDone (hmem : MemOk s) (hinit : s.blk.get (R.CB_STAT_INIT k) ≠ 0) :
    Gives (.bankInitDone k) s fun t => t.blk.get (R.CB_STAT_INIT k) = 0 ∧ t.blk.get (R.CB_STAT_PSTATE k) = 2 ∧
      (t.blk.bankAt k).src = [] ∧ (t.blk.bankAt k).bad = [] ∧ (∀ a, a / 2 ^ 20 = k.val → t.blk.mem.read a = 0) ∧
      ∀ a, a / 2 ^ 20 ≠ k.val → t.blk.mem.read a = s.blk.mem.read a := by
  obtain ⟨hi, hp⟩ := initialised_stat s.blk k.isLt
  obtain ⟨hzero, hrest⟩ := zeroBank_mem hmem k.val
  have hbank := initialised_bank s.blk k.val
  have hm : (s.blk.initialised k).mem = (s.blk.zeroBank k).mem := rfl
  refine gives_of_done (execBankInitDone_inits hinit) rfl ⟨hi, hp, ?_, ?_, ?_, ?_⟩
  · dsimp only
    rw [hbank]
  · dsimp only
    rw [hbank]
  · dsimp only
    rw [hm]
    exact hzero
  · dsimp only
    rw [hm]
    exact hrest

theorem gives_clrcnt (hwin : s.blk.winOff (R.CB_CTRL_CLRCNT k).off = false) :
    Gives (.bankClrcnt k) s fun t => OnlyFields [R.CB_ECCCNT_CECNT k, R.CB_ECCCNT_RFCNT k, R.CB_ECCCNT_UECNT k] s.blk t.blk ∧
      ∀ f ∈ [R.CB_ECCCNT_CECNT k, R.CB_ECCCNT_RFCNT k, R.CB_ECCCNT_UECNT k], t.blk.get f = 0 := by
  refine gives_of_done (congrArg (done s) (atReg_on hwin)) rfl ⟨?_, ?_⟩
  · exact (((OnlyFields.refl _ _).put (by simp) _).put (by simp) _).put (by simp) _
  · dsimp only
    unfold Block.bankClrcnt
    simp only [Block.clear_eq, List.mem_cons, List.not_mem_nil, or_false, forall_eq_or_imp, forall_eq]
    simp (disch := (simp only [Fld.key, R.CB_ECCCNT_CECNT, R.CB_ECCCNT_RFCNT, R.CB_ECCCNT_UECNT]; omega)) only [Block.get_put_same,
      Block.get_put_ne, Nat.zero_mod, and_self]

end

/-- Settles O43: who is served (`bankPick_cases`), what the cycle does with the request (`bankServe_answers`,
`bankServe_read_repair`), scrub, repairs, initialisation and the counters. -/
theorem carafeBanks : Obligations.CarafeBanks := by
  unfold Obligations.CarafeBanks
  intro k find err same stays rr second words q line wb s hmem
  dsimp only
  refine ⟨?_, bankPick_eq_none s.blk k, gives_bankServe_idle, ?_, ?_, ?_, ?_, ?_, ?_, ?_, ?_, ?_, ?_, gives_initDone hmem, gives_clrcnt,
    gives_of_done rfl rfl rfl⟩
  · intro hpick
    obtain ⟨hmem, hwhy⟩ := bankPick_cases hpick
    refine ⟨hmem, ?_, ?_, ?_⟩
    · rintro rfl
      obtain ⟨-, h, -⟩ | ⟨-, h, -⟩ | ⟨hyoung, -, hnext⟩ := hwhy
      · cases h
      · cases h
      · exact fun p hp => ⟨hyoung p hp, hnext p hp⟩
    · rintro rfl ⟨p, hp, hold⟩
      obtain ⟨-, -, holdest⟩ | ⟨hyoung, -⟩ | ⟨-, h, -⟩ := hwhy
      · exact holdest
      · exact absurd (hyoung p hp) (not_lt.mpr hold)
      · cases h
    · rintro rfl hyoung
      obtain ⟨hold, -⟩ | ⟨-, -, howner⟩ | ⟨-, h, -⟩ := hwhy
      · exact absurd (hyoung q hmem) (not_lt.mpr hold)
      · exact howner
      · cases h
  · rintro hpick ⟨-, hsound⟩ hkind
    obtain ⟨⟨hseal, hafter, hresps⟩, hm⟩ := bankServe_read_clean hpick hsound hkind
    exact gives_of_done (exec_bankServe ..) hseal ⟨hafter.spelled, hm, hresps⟩
  · rintro hpick ⟨-, hsound⟩ hkind
    obtain ⟨⟨hseal, hafter, hresps⟩, hm, hline, hcount⟩ := bankServe_read_correctable k.isLt stays hpick hsound hkind
    exact gives_of_done (exec_bankServe ..) hseal ⟨hafter.spelled, hm, hresps, hline, hcount⟩
  · rintro hpick ⟨-, hsound⟩ hkind
    obtain ⟨⟨hseal, hafter, hresps⟩, hwrote⟩ := bankServe_write_clean k.isLt hpick hsound hkind
    exact gives_of_done (exec_bankServe ..) hseal ⟨hafter.spelled, hwrote, hresps⟩
  · rintro hpick ⟨-, hsound⟩ hkind hwords hsrc
    obtain ⟨⟨hseal, hafter, hresps⟩, hm, hunrep, hbad, hcount⟩ := bankServe_read_lost k.isLt hpick hkind hwords hsrc
    exact gives_of_done (exec_bankServe ..) hseal ⟨hafter.spelled, hm, hresps, hunrep, hbad, hcount⟩
  · rintro hpick ⟨-, hsound⟩ hkind hwords hsrc
    obtain ⟨hseal, hturn, hm, hresps, hrepair, hwaits⟩ := bankServe_read_repair k.isLt hpick hkind hwords hsrc
    exact gives_of_done (exec_bankServe ..) hseal ⟨hturn, hm, hresps, hrepair, hwaits⟩
  · rintro ⟨hon, hfree⟩
    exact gives_scrub_reads second stays words line wb hon hfree
  · intro hon hbusy
    exact gives_of_done (execCarafeScrub_waits find hon fun hfree => hbusy ⟨hon, hfree⟩) rfl rfl
  · intro hoff
    exact gives_of_done (congrArg (done s) (if_pos hoff)) rfl rfl
  · exact gives_refetch err same stays line wb
  · intro hall
    refine gives_of_done (execRefetch_none err same stays ?_) rfl rfl
    unfold Bank.repairing
    rw [Option.map_eq_none_iff, List.find?_eq_none]
    intro r hr
    rw [hall r hr]
    decide

end Sys2Proof.Machine
end

section
/-! Long instructions: their start, and the accesses and the end of a chunk (R95 to R98, R100). -/
namespace Sys2Proof.Machine

/-! ## Starts (R95, R97) -/

theorem longBad_of_nodup {d a b : BitVec 5} (h : ([d.toNat, a.toNat, b.toNat, 31] : List Nat).Nodup) : longBad d a b = false := by
  simp only [List.nodup_cons, List.mem_cons, List.not_mem_nil, or_false, not_or] at h
  obtain ⟨⟨hda, hdb, hd⟩, ⟨hab, ha⟩, hb, -⟩ := h
  have hne : ∀ {x y : BitVec 5}, x.toNat ≠ y.toNat → (x == y) = false := fun h => beq_eq_false_iff_ne.mpr fun e => h (e ▸ rfl)
  unfold longBad
  rw [hne hda, hne hdb, hne hab, hne (y := 31) hd, hne (y := 31) ha, hne (y := 31) hb]
  rfl

section
variable {c : Instr} {s : State} {n : PE} {op : Nat} {d a b : BitVec 5} {x : BitVec 9} {xbits : Nat} {zero : St → St}

theorem longOp_none (hx : exec c s = done s (s.blk.longOp n op d a b x xbits zero)) (q : Quiet s n)
    (h : AtInstr s n (wordR op d a b x)) (hnodup : ([d.toNat, a.toNat, b.toNat, 31] : List Nat).Nodup) (hbits : x.toNat < 2 ^ xbits)
    (hcnt : ((s.blk.engine n).g b.toNat).toNat = 0) :
    Gives c s (Retired s n (nextPc (s.blk.engine n).pc 4) fun e => { e with st := zero e.st }) := by
  obtain ⟨-, -, hlk, -⟩ := id q
  refine regEffect_ends (f := fun e => { e with st := zero e.st }) ⟨fun _ => rfl, fun _ => rfl, fun _ h => h⟩ hx h q ?_
    (if_pos hcnt)
  simp only [longBad_of_nodup hnodup, show s.blk.flag (R.ENG_LKSTAT_LKACT n) = false from hlk, decide_eq_false (not_le.mpr hbits)]
  rfl

theorem longOp_starts (hx : exec c s = done s (s.blk.longOp n op d a b x xbits zero)) (q : Quiet s n)
    (h : AtInstr s n (wordR op d a b x)) (hnodup : ([d.toNat, a.toNat, b.toNat, 31] : List Nat).Nodup) (hbits : x.toNat < 2 ^ xbits)
    (hcnt : ((s.blk.engine n).g b.toNat).toNat ≠ 0) :
    let e := s.blk.engine n
    Gives c s fun t => t.pending = s.pending ∧ t.blk = s.blk.setEngine n { e with
      skipIaddr := false, long := some ⟨op, d.toNat, a.toNat, b.toNat, x.toNat, true, decide (op = 0xB0 ∧
        (e.g a.toNat).toNat % 2 ^ 48 < (e.g d.toNat).toNat % 2 ^ 48 ∧
        (e.g d.toNat).toNat % 2 ^ 48 < (e.g a.toNat).toNat % 2 ^ 48 + (e.g b.toNat).toNat)⟩ } := by
  intro e
  obtain ⟨-, -, hlk, -⟩ := id q
  have htrap : firstTrap [(longBad d a b || decide (2 ^ xbits ≤ x.toNat), .illegal),
      (s.blk.flag (R.ENG_LKSTAT_LKACT n), .lockseq)] = none := by
    rw [longBad_of_nodup hnodup, hlk, decide_eq_false (not_le.mpr hbits)]
    rfl
  have hdown : (op == 0xB0 && bmovDown ((e.g d.toNat).toNat % 2 ^ 48) ((e.g a.toNat).toNat % 2 ^ 48) (e.g b.toNat).toNat) =
      decide (op = 0xB0 ∧ (e.g a.toNat).toNat % 2 ^ 48 < (e.g d.toNat).toNat % 2 ^ 48 ∧
        (e.g d.toNat).toNat % 2 ^ 48 < (e.g a.toNat).toNat % 2 ^ 48 + (e.g b.toNat).toNat) := by
    unfold bmovDown
    rw [beq_eq_decide, Bool.decide_and, Bool.decide_and]
  have hrun : s.blk.longOp n op d a b x xbits zero = (s.blk.modEngine n Engine.noSkip).modEngine n fun e => { e with
      long := some ⟨op, d.toNat, a.toNat, b.toNat, x.toNat, true,
        op == 0xB0 && bmovDown ((e.g d.toNat).toNat % 2 ^ 48) ((e.g a.toNat).toNat % 2 ^ 48) (e.g b.toNat).toNat⟩ } := by
    unfold Block.longOp
    rw [feis_at h, htrap]
    exact if_neg hcnt
  refine gives_of_done (hx.trans (congrArg (done s) hrun)) rfl ⟨rfl, ?_⟩
  unfold Block.modEngine
  rw [setEngine_setEngine, Block.setEngine_engine_same]
  rw [← hdown]
  rfl

end

/-! ## A chunk's accesses (R96) -/

theorem wholeAt_of_atBank {s : State} {n : PE} {rs : List Right} {a len k : Nat} (h : AtBank s n rs a len k) {b : Block}
    (hb : OnlyPmc n s.blk b) : b.wholeAt a len k := by
  obtain ⟨-, -, -, hwait, hlines⟩ := h
  unfold Block.wholeAt
  rw [hb.bankAt k]
  exact ⟨hwait, hlines⟩

section
variable {n : PE} {base b : Block}

theorem longRead_within {a len k : Nat} (h : OnlyPmc n base b) (hcmp : (base.engine n).cmp = []) (ht : base.target a = .carafe k)
    (hin : a % 2 ^ 20 + len ≤ 2 ^ 20) (hlen : 0 < len) (hw : base.wholeAt a len k) :
    ∃ b', b.longRead n a len .clean = (b', .ok (base.mem.bytes a len)) ∧ OnlyPmc n (Turned base n k) b' := by
  have hcount := h.trans (countAccess_only b n a false false)
  have hload : (b.countAccess n a false false).load n a len false .clean =
      (Turned (b.countAccess n a false false) n k, .ok (base.mem.bytes a len)) := by
    rw [← hcount.mem]
    refine load_within ((hcount.target a).trans ht) hin hlen ?_ false
    unfold Block.wholeAt
    rw [hcount.bankAt k]
    exact hw
  have hturned := hcount.turned k
  refine ⟨Turned (b.countAccess n a false false) n k, ?_, hturned⟩
  unfold Block.longRead
  rw [hload]
  dsimp only
  rw [cmpData_of_none (by rw [hturned.engine, Turned_engine]; exact hcmp)]

theorem longWrite_within {a k : Nat} {data : List Byte} (h : OnlyPmc n base b) (hcmp : (base.engine n).cmp = [])
    (ht : base.target a = .carafe k) (hin : a % 2 ^ 20 + data.length ≤ 2 ^ 20) :
    OnlyPmc n (Posted base n a data k) (b.longWrite n a data) := by
  have hcount := h.trans (countAccess_only b n a true false)
  have hposted := hcount.posted a data k
  unfold Block.longWrite
  rw [postStore_within ((hcount.target a).trans ht) hin, cmpData_of_none (by rw [hposted.engine]; exact hcmp)]
  exact hposted

theorem longCheck_none {r : Right} {x total a len : Nat} (hx : x + total ≤ 2 ^ 48) (h : b.check n [r] a len = none) :
    b.longCheck n r x total a len = none := by
  unfold Block.longCheck
  rw [if_neg (not_lt.mpr hx), h]

end

/-! ## A chunk's end (R96, R97) -/

/-- What an effect on the registers leaves of the engine whose chunk it records. -/
structure Records (f : Engine → Engine) (e : Engine) : Prop where
  pc : (f e).pc = e.pc
  fpt : (f e).fpt = e.fpt
  ss : (f e).st.ss = e.st.ss
  codes : e.codes = [] → (f e).codes = []

theorem setG_pc (e : Engine) (i : Nat) (v : W64) : (e.setG i v).pc = e.pc := by
  unfold Engine.setG
  repeat' split
  all_goals rfl

theorem Records.id (e : Engine) : Records (fun e => e) e := ⟨rfl, rfl, rfl, fun h => h⟩

theorem Records.setG {f : Engine → Engine} {e : Engine} (h : Records f e) (i : Nat) (v : Engine → W64) :
    Records (fun e => (f e).setG i (v e)) e where
  pc := (setG_pc _ _ _).trans h.pc
  fpt := (setG_fpt _ _ _).trans h.fpt
  ss := by rw [setG_st]; exact h.ss
  codes hc := setG_codes _ _ (h.codes hc)

theorem Records.addG {f : Engine → Engine} {e : Engine} (h : Records f e) (i m : Nat) : Records (fun e => (f e).addG i m) e :=
  h.setG i fun e => (f e).g i + BitVec.ofNat 64 m

theorem Records.subG {f : Engine → Engine} {e : Engine} (h : Records f e) (i m : Nat) : Records (fun e => (f e).subG i m) e :=
  h.setG i fun e => (f e).g i - BitVec.ofNat 64 m

theorem Records.withSt {f : Engine → Engine} {e : Engine} (h : Records f e) {st : Engine → St} (hss : (st e).ss = e.st.ss) :
    Records (fun e => { f e with st := st e }) e := ⟨h.pc, h.fpt, hss, h.codes⟩

/-- A chunk has recorded its effect: the instruction goes on, or completes with its last chunk. -/
theorem gives_chunked {c : Instr} {s : State} {n : PE} {o : LongOp} {base b : Block} {last : Bool} {f g : Engine → Engine}
    (hx : exec c s = done s (b.longNext n f last)) (q : Quiet s n) (hcodes : (s.blk.engine n).codes = [])
    (hlong : (s.blk.engine n).long = some o) (hb : OnlyPmc n base b) (hbase : ∀ m : Nat, base.engine m = s.blk.engine m)
    (hseal : base.isSealed = s.blk.isSealed) (hkeep : KeepsEngRegs s.blk base) (hf : Records f (s.blk.engine n))
    (hg : f (s.blk.engine n) = g (s.blk.engine n)) : Gives c s (Chunked base n o last g) := by
  obtain ⟨hfpt, hss, -, -⟩ := id q
  let e := s.blk.engine n
  have heng : ∀ m : Nat, b.engine m = s.blk.engine m := fun m => (hb.engine m).trans (hbase m)
  let b1 := b.modEngine n fun e => { f e with long := e.long.map fun o => { o with first := false } }
  have he1 : b1.engine n = { f e with long := some { o with first := false } } := by
    rw [Block.modEngine_engine_same, heng, hlong]
    rfl
  have hoth : ∀ m : Nat, m ≠ n.val → b1.engine m = base.engine m := fun m hm => by
    rw [Block.modEngine_engine_ne _ _ _ _ hm, heng, hbase]
  have hpmc : OnlyPmc n { base with eng := b1.eng } b1 := hb.setEng b1.eng
  unfold Chunked
  rw [hbase n, ← hg]
  cases last
  · have hrun : b.longNext n f false = b1 := rfl
    have hseal1 : b1.isSealed = s.blk.isSealed := by
      have e := congrArg Block.isSealed hb.1
      exact e.trans hseal
    rw [hrun] at hx
    exact gives_of_done hx hseal1 ⟨he1, hoth, hpmc⟩
  · have hrun : b.longNext n f true = b1.finish n (b1.engine n) (nextPc (b1.engine n).pc 4) false false := rfl
    have hpc : (b1.engine n).pc = e.pc := by rw [he1]; exact hf.pc
    obtain ⟨t, hdone, hend, -⟩ := finish_on (s := s) q (base := base.setEngine n (f e)) (b := b1) (e0 := b1.engine n) hpmc
      (by rw [he1, Block.setEngine_engine_same]; rfl)
      (fun m hm => by rw [hoth m hm, Block.setEngine_engine_ne _ _ _ _ hm])
      (by rw [he1]; exact hf.fpt.trans hfpt) (by rw [he1]; exact hf.codes hcodes) (by rw [he1]; exact hf.ss.trans hss)
      (hkeep.trans (.of_regs rfl)) hseal (nextPc e.pc 4) false
    refine ⟨t, ?_, hend⟩
    rw [hx, hrun, hpc, hdone]

/-- The chunk that the operation of long instruction `o` makes. -/
def Block.longStep (b : Block) (n : Nat) (o : LongOp) (find : BankFind) : Block :=
  match o.op with
  | 0xB0 => b.chunkBmov n o find
  | 0xB1 => b.chunkBfil n o
  | 0xB2 => b.chunkBscn n o find
  | 0xB3 => b.chunkBcmp n o find
  | 0xB4 => b.chunkBsum n o find
  | _ => b

/-- A chunk where nothing is due: the operation of the long instruction in progress. -/
theorem execLongChunk_at {s : State} {n : PE} {o : LongOp} (find : BankFind) (hruns : s.blk.runs n = true)
    (htrap : s.blk.trapFirst n = false) (hcodes : (s.blk.engine n).codes = []) (hwait : (s.blk.engine n).wait = none)
    (hhold : (s.blk.engine n).hold = .none) (hlong : (s.blk.engine n).long = some o) :
    exec (.longChunk n find) s = done s (s.blk.longStep n o find) := by
  have hcond : (s.blk.runs n && (s.blk.engine n).wait.isNone && (s.blk.engine n).hold == .none && !s.blk.trapFirst n) = true := by
    rw [hruns, hwait, hhold, htrap]
    rfl
  have hsound : (s.blk.engine n).longCorrupt o = false := by
    unfold Engine.longCorrupt
    rw [hcodes]
    rfl
  refine congrArg (done s) ?_
  rw [if_pos hcond, hlong]
  exact if_neg (by rw [hsound]; exact Bool.false_ne_true)

end Sys2Proof.Machine
end

section
/-! The chunks of BMOV, BFIL, BSCN, BCMP and BSUM, and a chunk whose check fails (R96 to R98, R100). -/
namespace Sys2Proof.Machine

/-! ## Bytes compared -/

theorem Mem.bytes_eq_map (m : Mem) (a n : Nat) : m.bytes a n = (List.range n).map fun i => m.read (a + i) := by
  induction n generalizing a with
  | zero => rfl
  | succ n ih =>
    rw [List.range_succ_eq_map, List.map_cons, List.map_map]
    refine congrArg (m.read a :: ·) ((ih (a + 1)).trans (List.map_congr_left fun i _ => ?_))
    exact congrArg m.read (by simp only [Nat.succ_eq_add_one]; omega)

/-- How far a predicate holds of a list written as a function of the index. -/
theorem length_takeWhile_map {α : Type} (f : Nat → α) (p : α → Bool) {n m : Nat} (hm : m ≤ n) (hall : ∀ i < m, p (f i) = true)
    (hend : m < n → p (f m) = false) : (((List.range n).map f).takeWhile p).length = m := by
  obtain ⟨j, rfl⟩ := Nat.exists_eq_add_of_le hm
  rw [List.range_add, List.map_append, List.takeWhile_append_of_pos fun x hx => by
    obtain ⟨i, hi, rfl⟩ := List.mem_map.mp hx
    exact hall i (List.mem_range.mp hi)]
  rw [List.length_append, List.length_map, List.length_range]
  cases j with
  | zero => rfl
  | succ j =>
    rw [List.range_succ_eq_map, List.map_cons, List.map_cons, List.takeWhile_cons_of_neg]
    · rfl
    · rw [Nat.add_zero, hend (by omega)]
      exact Bool.false_ne_true

theorem foldl_sum (l : List Byte) (v : W64) (z : Nat) :
    l.foldl (fun z y => z + y.setWidth 64) (v + BitVec.ofNat 64 z) = v + BitVec.ofNat 64 (l.foldl (fun z y => z + y.toNat) z) := by
  induction l generalizing z with
  | nil => rfl
  | cons y l ih =>
    have hbyte : BitVec.ofNat 64 y.toNat = y.setWidth 64 := BitVec.ofNat_toNat ..
    rw [List.foldl_cons, List.foldl_cons, ← ih, BitVec.ofNat_add, BitVec.add_assoc, hbyte]

/-! ## The chunks -/

section
variable {s : State} {n : PE} {o : LongOp}

/-- Engine `n` is inside long instruction `o`, and a chunk of it can run. -/
structure InLong (s : State) (n : PE) (o : LongOp) : Prop where
  quiet : Quiet s n
  cmp : (s.blk.engine n).cmp = []
  codes : (s.blk.engine n).codes = []
  long : (s.blk.engine n).long = some o
  runs : exec (.longChunk n .clean) s = done s (s.blk.longStep n o .clean)

theorem InLong.chunked (h : InLong s n o) {base b chunk : Block} {last : Bool} {f g : Engine → Engine}
    (hop : s.blk.longStep n o .clean = chunk) (hrun : chunk = b.longNext n f last) (hb : OnlyPmc n base b)
    (hbase : ∀ m : Nat, base.engine m = s.blk.engine m) (hseal : base.isSealed = s.blk.isSealed) (hkeep : KeepsEngRegs s.blk base)
    (hf : Records f (s.blk.engine n)) (hg : f (s.blk.engine n) = g (s.blk.engine n)) :
    Gives (.longChunk n .clean) s (Chunked base n o last g) :=
  gives_chunked (h.runs.trans (congrArg (done s) (hop.trans hrun))) h.quiet h.codes h.long hb hbase hseal hkeep hf hg

theorem posted_keeps {b c : Block} (h : KeepsEngRegs b c) (a : Nat) (data : List Byte) (k : Nat) : KeepsEngRegs b (Posted c n a data k) :=
  h.trans (.of_regs rfl)

/-- A read and a write of BMOV's chunk. -/
theorem bmov_moves (h : InLong s n o) {from' lo m j k : Nat} (hm : 0 < m) (hread : AtBank s n [.read] from' m j)
    (hwrite : StoresAt s n lo m k) :
    ∃ b, s.blk.longRead n from' m .clean = (b, .ok (s.blk.mem.bytes from' m)) ∧
      OnlyPmc n (Posted (Turned s.blk n j) n lo (s.blk.mem.bytes from' m) k) (b.longWrite n lo (s.blk.mem.bytes from' m)) := by
  obtain ⟨ht, hin, -, -⟩ := id hread
  obtain ⟨htw, hinw, -⟩ := hwrite
  obtain ⟨b, hb, honly⟩ := longRead_within (OnlyPmc.refl n s.blk) h.cmp ht hin hm (wholeAt_of_atBank hread (OnlyPmc.refl n s.blk))
  refine ⟨b, hb, longWrite_within honly (by rw [Turned_engine]; exact h.cmp) (target_of_carafe htw) ?_⟩
  rw [Mem.length_bytes]
  exact hinw

theorem gives_bmov_up (h : InLong s n o) (hop : o.op = 0xB0) (hdown : o.down = false) {p q cnt j k : Nat}
    (hp : ((s.blk.engine n).g o.d).toNat % 2 ^ 48 = p) (hq : ((s.blk.engine n).g o.a).toNat % 2 ^ 48 = q)
    (hcnt : ((s.blk.engine n).g o.b).toNat = cnt) (hpos : 0 < cnt) (hpin : p + cnt ≤ 2 ^ 48) (hqin : q + cnt ≤ 2 ^ 48)
    (hread : AtBank s n [.read] q (chunkLen p cnt) j) (hwrite : StoresAt s n p (chunkLen p cnt) k) :
    Gives (.longChunk n .clean) s (Chunked (Posted (Turned s.blk n j) n p (s.blk.mem.bytes q (chunkLen p cnt)) k) n o
      (chunkLen p cnt == cnt) fun g => ((g.addG o.d (chunkLen p cnt)).addG o.a (chunkLen p cnt)).subG o.b (chunkLen p cnt)) := by
  have hlen : 0 < chunkLen p cnt := by
    have := Nat.mod_lt p (show 0 < 64 by decide)
    unfold chunkLen
    omega
  obtain ⟨b, hb, honly⟩ := bmov_moves h hlen hread hwrite
  obtain ⟨ht, -, hcheck, -⟩ := hread
  obtain ⟨-, -, hcheckw⟩ := hwrite
  have hrun : s.blk.chunkBmov n o .clean = (b.longWrite n p (s.blk.mem.bytes q (chunkLen p cnt))).longNext n
      (fun g => ((g.addG o.d (chunkLen p cnt)).addG o.a (chunkLen p cnt)).subG o.b (chunkLen p cnt)) (chunkLen p cnt == cnt) := by
    unfold Block.chunkBmov
    simp only [hdown, hp, hq, hcnt, Bool.false_eq_true, if_false, Nat.sub_self, Nat.add_zero, longCheck_none hqin hcheck,
      longCheck_none hpin hcheckw, hb]
  refine h.chunked (by simp only [Block.longStep, hop]) hrun honly (fun m => Turned_engine ..) (Turned_isSealed ..)
    (posted_keeps (Turned_keepsEngRegs s.blk n (target_carafe_lt ht)) _ _ _) ?_ rfl
  exact (((Records.id _).addG o.d _).addG o.a _).subG o.b _

theorem gives_bmov_down (h : InLong s n o) (hop : o.op = 0xB0) (hdown : o.down = true) {p q cnt lo m j k : Nat}
    (hp : ((s.blk.engine n).g o.d).toNat % 2 ^ 48 = p) (hq : ((s.blk.engine n).g o.a).toNat % 2 ^ 48 = q)
    (hcnt : ((s.blk.engine n).g o.b).toNat = cnt) (hpos : 0 < cnt) (hpin : p + cnt ≤ 2 ^ 48) (hqin : q + cnt ≤ 2 ^ 48)
    (hlo : max p ((p + cnt - 1) / 64 * 64) = lo) (hm : p + cnt - lo = m)
    (hread : AtBank s n [.read] (q + (lo - p)) m j) (hwrite : StoresAt s n lo m k) :
    Gives (.longChunk n .clean) s (Chunked (Posted (Turned s.blk n j) n lo (s.blk.mem.bytes (q + (lo - p)) m) k) n o
      (m == cnt) fun g => g.subG o.b m) := by
  have hlen : 0 < m := by omega
  obtain ⟨b, hb, honly⟩ := bmov_moves h hlen hread hwrite
  obtain ⟨ht, -, hcheck, -⟩ := hread
  obtain ⟨-, -, hcheckw⟩ := hwrite
  have hrun : s.blk.chunkBmov n o .clean =
      (b.longWrite n lo (s.blk.mem.bytes (q + (lo - p)) m)).longNext n (fun g => g.subG o.b m) (m == cnt) := by
    unfold Block.chunkBmov
    simp only [hdown, hp, hq, hcnt, if_true, hlo, hm, longCheck_none hqin hcheck, longCheck_none hpin hcheckw, hb]
  exact h.chunked (by simp only [Block.longStep, hop]) hrun honly (fun m => Turned_engine ..) (Turned_isSealed ..)
    (posted_keeps (Turned_keepsEngRegs s.blk n (target_carafe_lt ht)) _ _ _) ((Records.id _).subG o.b _) rfl

theorem gives_bfil (h : InLong s n o) (hop : o.op = 0xB1) {p cnt k : Nat}
    (hp : ((s.blk.engine n).g o.d).toNat % 2 ^ 48 = p) (hcnt : ((s.blk.engine n).g o.b).toNat = cnt) (hpin : p + cnt ≤ 2 ^ 48)
    (hwrite : StoresAt s n p (chunkLen p cnt) k) :
    Gives (.longChunk n .clean) s (Chunked (Posted s.blk n p
      ((List.range (chunkLen p cnt)).map fun i => ((s.blk.engine n).g o.a).extractLsb' (8 * ((p + i) % 8)) 8) k) n o
      (chunkLen p cnt == cnt) fun g => (g.addG o.d (chunkLen p cnt)).subG o.b (chunkLen p cnt)) := by
  obtain ⟨ht, hin, hcheck⟩ := hwrite
  have honly := longWrite_within (n := n) (a := p)
    (data := (List.range (chunkLen p cnt)).map fun i => ((s.blk.engine n).g o.a).extractLsb' (8 * ((p + i) % 8)) 8)
    (OnlyPmc.refl n s.blk) h.cmp ht (by rw [List.length_map, List.length_range]; exact hin)
  have hrun : s.blk.chunkBfil n o = (s.blk.longWrite n p
      ((List.range (chunkLen p cnt)).map fun i => ((s.blk.engine n).g o.a).extractLsb' (8 * ((p + i) % 8)) 8)).longNext n
      (fun g => (g.addG o.d (chunkLen p cnt)).subG o.b (chunkLen p cnt)) (chunkLen p cnt == cnt) := by
    unfold Block.chunkBfil
    simp only [hp, hcnt, longCheck_none hpin hcheck]
  exact h.chunked (by simp only [Block.longStep, hop]) hrun honly (fun _ => rfl) rfl (.of_regs rfl)
    (((Records.id _).addG o.d _).subG o.b _) rfl

theorem gives_bscn (h : InLong s n o) (hop : o.op = 0xB2) {q cnt j m : Nat}
    (hq : ((s.blk.engine n).g o.a).toNat % 2 ^ 48 = q) (hcnt : ((s.blk.engine n).g o.b).toNat = cnt) (hpos : 0 < cnt)
    (hqin : q + cnt ≤ 2 ^ 48) (hread : AtBank s n [.read] q (chunkLen q cnt) j) (hm : m ≤ chunkLen q cnt)
    (hbefore : ∀ i < m, s.blk.mem.read (q + i) ≠ ((s.blk.engine n).g o.d).setWidth 8)
    (hfound : m < chunkLen q cnt → s.blk.mem.read (q + m) = ((s.blk.engine n).g o.d).setWidth 8) :
    Gives (.longChunk n .clean) s (Chunked (Turned s.blk n j) n o (decide (m < chunkLen q cnt) || chunkLen q cnt == cnt) fun g =>
      { (g.addG o.a m).subG o.b m with st := { ((g.addG o.a m).subG o.b m).st with
          z := if m < chunkLen q cnt then false else if chunkLen q cnt = cnt then true else ((g.addG o.a m).subG o.b m).st.z } }) := by
  have hlen : 0 < chunkLen q cnt := by
    have := Nat.mod_lt q (show 0 < 64 by decide)
    unfold chunkLen
    omega
  obtain ⟨ht, hin, hcheck, -⟩ := id hread
  obtain ⟨b, hb, honly⟩ := longRead_within (OnlyPmc.refl n s.blk) h.cmp ht hin hlen (wholeAt_of_atBank hread (OnlyPmc.refl n s.blk))
  have hk : ((s.blk.mem.bytes q (chunkLen q cnt)).takeWhile (· != ((s.blk.engine n).g o.d).setWidth 8)).length = m := by
    rw [Mem.bytes_eq_map]
    exact length_takeWhile_map _ _ hm (fun i hi => bne_iff_ne.mpr (hbefore i hi)) fun hlt => by rw [hfound hlt]; exact bne_self_eq_false _
  let f := fun e : Engine => { (e.addG o.a m).subG o.b m with st := { e.st with
    z := if m < chunkLen q cnt then false else if chunkLen q cnt = cnt then true else e.st.z } }
  have hrun : s.blk.chunkBscn n o .clean = b.longNext n f (decide (m < chunkLen q cnt) || chunkLen q cnt == cnt) := by
    unfold Block.chunkBscn
    simp only [hq, hcnt, longCheck_none hqin hcheck, hb, hk, f]
  refine h.chunked (f := f) (by simp only [Block.longStep, hop]) hrun honly (fun m => Turned_engine ..) (Turned_isSealed ..)
    (Turned_keepsEngRegs s.blk n (target_carafe_lt ht)) ?_ ?_
  · exact (((Records.id _).addG o.a m).subG o.b m).withSt rfl
  · have hst : (((s.blk.engine n).addG o.a m).subG o.b m).st = (s.blk.engine n).st := (setG_st ..).trans (setG_st ..)
    rw [hst]

theorem gives_bcmp (h : InLong s n o) (hop : o.op = 0xB3) {p q cnt j k m : Nat}
    (hp : ((s.blk.engine n).g o.d).toNat % 2 ^ 48 = p) (hq : ((s.blk.engine n).g o.a).toNat % 2 ^ 48 = q)
    (hcnt : ((s.blk.engine n).g o.b).toNat = cnt) (hpos : 0 < cnt) (hpin : p + cnt ≤ 2 ^ 48) (hqin : q + cnt ≤ 2 ^ 48)
    (hread : AtBank s n [.read] p (chunkLen p cnt) j) (hread' : AtBank s n [.read] q (chunkLen p cnt) k) (hm : m ≤ chunkLen p cnt)
    (hbefore : ∀ i < m, s.blk.mem.read (p + i) = s.blk.mem.read (q + i))
    (hfound : m < chunkLen p cnt → s.blk.mem.read (p + m) ≠ s.blk.mem.read (q + m)) :
    Gives (.longChunk n .clean) s (Chunked (Turned (Turned s.blk n j) n k) n o
      (decide (m < chunkLen p cnt) || chunkLen p cnt == cnt) fun g =>
      { ((g.addG o.d m).addG o.a m).subG o.b m with
        st :=
          if m < chunkLen p cnt then { (((g.addG o.d m).addG o.a m).subG o.b m).st with
            z := false
            c := decide ((s.blk.mem.read (q + m)).toNat ≤ (s.blk.mem.read (p + m)).toNat) }
          else if chunkLen p cnt = cnt then { (((g.addG o.d m).addG o.a m).subG o.b m).st with z := true, c := true }
          else (((g.addG o.d m).addG o.a m).subG o.b m).st }) := by
  have hlen : 0 < chunkLen p cnt := by
    have := Nat.mod_lt p (show 0 < 64 by decide)
    unfold chunkLen
    omega
  obtain ⟨ht, hin, hcheck, -⟩ := id hread
  obtain ⟨ht', hin', hcheck', -⟩ := id hread'
  obtain ⟨b, hb, honly⟩ := longRead_within (OnlyPmc.refl n s.blk) h.cmp ht hin hlen (wholeAt_of_atBank hread (OnlyPmc.refl n s.blk))
  have hwhole : (Turned s.blk n j).wholeAt q (chunkLen p cnt) k := by
    have hw := wholeAt_of_atBank hread' (OnlyPmc.refl n s.blk)
    have hbank : ∃ x, (Turned s.blk n j).bankAt k = { s.blk.bankAt k with scrubAge := x } := by
      have hset : (Turned s.blk n j).bankAt k =
          (s.blk.setBank j { s.blk.bankAt j with scrubAge := (s.blk.bankAt j).scrubAge.map (· + 1) }).bankAt k := by
        unfold Turned
        dsimp only
        split <;> rfl
      rw [hset]
      by_cases he : k = j
      · rw [he, Block.setBank_bankAt_same]
        exact ⟨_, rfl⟩
      · rw [Block.setBank_bankAt_ne _ _ _ _ he]
        exact ⟨_, rfl⟩
    obtain ⟨x, hx⟩ := hbank
    unfold Block.wholeAt
    rw [hx]
    exact hw
  obtain ⟨b', hb', honly'⟩ := longRead_within honly (by rw [Turned_engine]; exact h.cmp) (target_of_carafe ht') hin' hlen hwhole
  rw [Turned_mem] at hb'
  let mem := s.blk.mem
  have hzip : (mem.bytes p (chunkLen p cnt)).zip (mem.bytes q (chunkLen p cnt)) =
      (List.range (chunkLen p cnt)).map fun i => (mem.read (p + i), mem.read (q + i)) := by
    rw [Mem.bytes_eq_map, Mem.bytes_eq_map, List.zip_map']
  have hk : (((mem.bytes p (chunkLen p cnt)).zip (mem.bytes q (chunkLen p cnt))).takeWhile fun z => z.1 == z.2).length = m := by
    rw [hzip]
    exact length_takeWhile_map _ _ hm (fun i hi => beq_iff_eq.mpr (hbefore i hi)) fun hlt => beq_eq_false_iff_ne.mpr (hfound hlt)
  have hget : ∀ a, m < chunkLen p cnt → (mem.bytes a (chunkLen p cnt)).getD m 0 = mem.read (a + m) := fun a hlt => by
    rw [Mem.bytes_eq_map, List.getD_eq_getElem _ _ (by simpa using hlt)]
    simp
  let f := fun e : Engine => { ((e.addG o.d m).addG o.a m).subG o.b m with
    st :=
      if m < chunkLen p cnt then { e.st with
        z := false
        c := decide (((mem.bytes q (chunkLen p cnt)).getD m 0).toNat ≤ ((mem.bytes p (chunkLen p cnt)).getD m 0).toNat) }
      else if chunkLen p cnt = cnt then { e.st with z := true, c := true } else e.st }
  have hrun : s.blk.chunkBcmp n o .clean = b'.longNext n f (decide (m < chunkLen p cnt) || chunkLen p cnt == cnt) := by
    unfold Block.chunkBcmp
    simp only [hp, hq, hcnt, longCheck_none hpin hcheck, longCheck_none hqin hcheck', hb, hb']
    rw [show s.blk.mem = mem from rfl, hk]
  refine h.chunked (f := f) (by simp only [Block.longStep, hop]) hrun honly' (fun m => ?_) ?_ ?_ ?_ ?_
  · rw [Turned_engine, Turned_engine]
  · rw [Turned_isSealed, Turned_isSealed]
  · exact (Turned_keepsEngRegs s.blk n (target_carafe_lt ht)).trans (Turned_keepsEngRegs _ n (target_carafe_lt ht'))
  · refine ((((Records.id _).addG o.d m).addG o.a m).subG o.b m).withSt ?_
    split
    · rfl
    · split <;> rfl
  · have hst : ((((s.blk.engine n).addG o.d m).addG o.a m).subG o.b m).st = (s.blk.engine n).st :=
      (setG_st ..).trans ((setG_st ..).trans (setG_st ..))
    simp only [f]
    rw [hst]
    by_cases hlt : m < chunkLen p cnt
    · rw [if_pos hlt, if_pos hlt, hget p hlt, hget q hlt]
    · rw [if_neg hlt, if_neg hlt]

theorem gives_bsum (h : InLong s n o) (hop : o.op = 0xB4) {q cnt j : Nat} {r : W64}
    (hq : ((s.blk.engine n).g o.a).toNat % 2 ^ 48 = q) (hcnt : ((s.blk.engine n).g o.b).toNat = cnt) (hpos : 0 < cnt)
    (hqin : q + cnt ≤ 2 ^ 48) (hread : AtBank s n [.read] q (chunkLen q cnt) j)
    (hr : (if o.x % 2 = 1 then (s.blk.mem.bytes q (chunkLen q cnt)).foldl (fun z y => z + y.setWidth 64) ((s.blk.engine n).g o.d)
      else (crc32c (((s.blk.engine n).g o.d).setWidth 32) (s.blk.mem.bytes q (chunkLen q cnt))).setWidth 64) = r) :
    Gives (.longChunk n .clean) s (Chunked (Turned s.blk n j) n o (chunkLen q cnt == cnt) fun g =>
      ((g.setG o.d r).addG o.a (chunkLen q cnt)).subG o.b (chunkLen q cnt)) := by
  have hlen : 0 < chunkLen q cnt := by
    have := Nat.mod_lt q (show 0 < 64 by decide)
    unfold chunkLen
    omega
  obtain ⟨ht, hin, hcheck, -⟩ := id hread
  obtain ⟨b, hb, honly⟩ := longRead_within (OnlyPmc.refl n s.blk) h.cmp ht hin hlen (wholeAt_of_atBank hread (OnlyPmc.refl n s.blk))
  have hrun : s.blk.chunkBsum n o .clean = b.longNext n
      (fun g => ((g.setG o.d r).addG o.a (chunkLen q cnt)).subG o.b (chunkLen q cnt)) (chunkLen q cnt == cnt) := by
    unfold Block.chunkBsum
    simp only [hq, hcnt, longCheck_none hqin hcheck, hb, hr]
  exact h.chunked (by simp only [Block.longStep, hop]) hrun honly (fun m => Turned_engine ..) (Turned_isSealed ..)
    (Turned_keepsEngRegs s.blk n (target_carafe_lt ht)) ((((Records.id _).setG o.d fun _ => r).addG o.a _).subG o.b _) rfl

end

end Sys2Proof.Machine
end

section
/-! A chunk whose check fails, and the long instructions' obligation (R95 to R100). -/
namespace Sys2Proof.Machine

/-! ## A check that fails (R98) -/

theorem check_ne_later {b : Block} {n : Nat} {rs : List Right} {a len x : Nat} {c : Cause} (h : b.check n rs a len = some (x, c)) :
    c ≠ .later := by
  rintro rfl
  unfold Block.check at h
  split at h
  · cases h
  · obtain ⟨p, -, hp⟩ := List.exists_of_findSome?_eq_some h
    unfold Block.checkPiece at hp
    repeat' split at hp
    all_goals cases hp

/-- The engine whose chunk has failed: RSM set, no long instruction in progress. -/
def Engine.longFailed (e : Engine) : Engine := { e with st := { e.st with rsm := true }, long := none }

theorem longTrap_access {b : Block} {n addr : Nat} {c : Cause} (hc : c ≠ .later) (hfpt : (b.engine n).fpt = none) :
    b.longTrap n addr c = ((b.modEngine n Engine.longFailed).exceptRegion n addr c (b.engine n).pc.toNat) := by
  have he : (b.modEngine n Engine.longFailed).engine n = (b.engine n).longFailed := Block.modEngine_engine_same ..
  have htrap : ∀ u : Block, (u.engine n).fpt = none →
      u.trap n (.access addr c) = u.exceptRegion n addr c (u.engine n).pc.toNat := fun u hu => by
    unfold Block.trap
    cases c with
    | later => exact absurd rfl hc
    | region | misalign | bankOff | tgtErr => exact if_neg (by rw [hu]; exact Bool.false_ne_true)
  have hlater : ¬(c == .later) = true := fun e => hc (beq_iff_eq.mp e)
  have hrun := htrap (b.modEngine n Engine.longFailed) (by rw [he]; exact hfpt)
  rw [he] at hrun
  unfold Block.longTrap
  rw [if_neg hlater]
  exact hrun

/-- A chunk of BSCN that its check refuses takes vector 5 at the instruction's own address (R98). -/
theorem gives_bscn_fails {s : State} {n : PE} {o : LongOp} {addr : Nat} {c : Cause} {d : Desc} {b : Block} (q : Quiet s n)
    (hexec : exec (.longChunk n .clean) s = done s (s.blk.longStep n o .clean)) (hop : o.op = 0xB2)
    (hin : ((s.blk.engine n).g o.a).toNat % 2 ^ 48 + ((s.blk.engine n).g o.b).toNat ≤ 2 ^ 48)
    (hcheck : s.blk.check n [.read] (((s.blk.engine n).g o.a).toNat % 2 ^ 48)
      (chunkLen (((s.blk.engine n).g o.a).toNat % 2 ^ 48) ((s.blk.engine n).g o.b).toNat) = some (addr, c))
    (hd : (s.blk.modEngine n fun g => { g with
      st := { g.st with rsm := true }, long := none, faddr := g.faddr.put (bit (s.blk.engine n).st.tw) (BitVec.ofNat 48 addr),
      fcause := g.fcause.put (bit (s.blk.engine n).st.tw) (BitVec.ofNat 8 c.code) }).readDesc n 5 (s.blk.engine n).st.tw =
      (b, .good d))
    (hc : CanEnter b n d (s.blk.engine n).st.tw) :
    Gives (.longChunk n .clean) s (Entered b n 5 d (s.blk.engine n).st.tw (s.blk.engine n).pc.toNat
      { (s.blk.engine n).st with rsm := true }.word.toNat) := by
  obtain ⟨hfpt, -, hlk, htr⟩ := q
  let e := s.blk.engine n
  let b0 := s.blk.modEngine n fun g => { g with
    st := { g.st with rsm := true }, long := none, faddr := g.faddr.put (bit e.st.tw) (BitVec.ofNat 48 addr),
    fcause := g.fcause.put (bit e.st.tw) (BitVec.ofNat 8 c.code) }
  have he0 : b0.engine n = { e with
      st := { e.st with rsm := true }, long := none, faddr := e.faddr.put (bit e.st.tw) (BitVec.ofNat 48 addr),
      fcause := e.fcause.put (bit e.st.tw) (BitVec.ofNat 8 c.code) } := Block.modEngine_engine_same ..
  have hregion : (s.blk.modEngine n Engine.longFailed).exceptRegion n addr c e.pc.toNat = b0.enter n 5 e.st.tw e.pc.toNat := by
    have hset : ((s.blk.modEngine n Engine.longFailed).setEngine n { e.longFailed with
        faddr := e.faddr.put (bit e.st.tw) (BitVec.ofNat 48 addr), fcause := e.fcause.put (bit e.st.tw) (BitVec.ofNat 8 c.code) }) = b0 :=
      setEngine_modEngine ..
    have hexc : (s.blk.modEngine n Engine.longFailed).exceptRegion n addr c e.pc.toNat = b0.except n 5 e.pc.toNat := by
      rw [← hset]
      unfold Block.exceptRegion
      rw [show (s.blk.modEngine n Engine.longFailed).engine n = e.longFailed from Block.modEngine_engine_same ..]
      rfl
    rw [hexc]
    unfold Block.except
    rw [he0]
  have hrun : s.blk.longStep n o .clean = b0.enter n 5 e.st.tw e.pc.toNat := by
    rw [← hregion, ← longTrap_access (check_ne_later hcheck) hfpt]
    have hfail : s.blk.longCheck n .read (((s.blk.engine n).g o.a).toNat % 2 ^ 48) ((s.blk.engine n).g o.b).toNat
        (((s.blk.engine n).g o.a).toNat % 2 ^ 48)
        (chunkLen (((s.blk.engine n).g o.a).toNat % 2 ^ 48) ((s.blk.engine n).g o.b).toNat) = some (addr, c) := by
      unfold Block.longCheck
      rw [if_neg (not_lt.mpr hin), hcheck]
    simp only [Block.longStep, hop, Block.chunkBscn, hfail]
  have hgives := gives_enter (hexec.trans (congrArg (done s) hrun)) hlk htr hd hc
  rw [he0] at hgives
  exact hgives

/-- Settles O22: the starts (`longOp_none`, `longOp_starts`), the chunks of the five operations, and a chunk that fails. -/
theorem longInstructions : Obligations.LongInstructions := by
  unfold Obligations.LongInstructions
  refine ⟨fun n d a b sum s q hnodup => ?_, fun n o j k s q hcmp hruns => ?_, fun n o addr c desc b s q hruns => ?_⟩
  · dsimp only
    have hsum : (if sum then (1 : BitVec 9) else 0).toNat < 2 ^ 1 := by cases sum <;> decide
    have hzero : (0 : BitVec 9).toNat < 2 ^ 0 := by decide
    exact ⟨fun h => ⟨longOp_none rfl q h hnodup hzero, longOp_starts rfl q h hnodup hzero⟩,
      fun h => ⟨longOp_none rfl q h hnodup hzero, longOp_starts rfl q h hnodup hzero⟩,
      fun h => ⟨longOp_none (zero := fun t => { t with z := true }) rfl q h hnodup hzero, longOp_starts rfl q h hnodup hzero⟩,
      fun h => ⟨longOp_none (zero := fun t => { t with z := true, c := true }) rfl q h hnodup hzero, longOp_starts rfl q h hnodup hzero⟩,
      fun h => ⟨longOp_none rfl q h hnodup hsum, longOp_starts rfl q h hnodup hsum⟩⟩
  · intro e htrap hcodes hwait hhold hlong _
    dsimp only
    intro hpos
    have h : InLong s n o := ⟨q, hcmp, hcodes, hlong, execLongChunk_at .clean hruns htrap hcodes hwait hhold hlong⟩
    refine ⟨fun hop hdown hp hq hread hwrite => gives_bmov_up h hop hdown rfl rfl rfl hpos hp hq hread hwrite,
      fun hop hdown hp hq hread hwrite => gives_bmov_down h hop hdown rfl rfl rfl hpos hp hq rfl rfl hread hwrite,
      fun hop hp hwrite => gives_bfil h hop rfl rfl hp hwrite,
      fun hop hq hread m hm hbefore hfound => gives_bscn h hop rfl rfl hpos hq hread hm hbefore hfound,
      fun hop hp hq hread hread' m hm hbefore hfound => gives_bcmp h hop rfl rfl rfl hpos hp hq hread hread' hm hbefore hfound,
      fun hop hq hread => ⟨fun hx => ?_, fun hx => ?_⟩⟩
    · refine gives_bsum h hop rfl rfl hpos hq hread ?_
      rw [if_pos hx]
      have hsum := foldl_sum (s.blk.mem.bytes (((s.blk.engine n).g o.a).toNat % 2 ^ 48)
        (chunkLen (((s.blk.engine n).g o.a).toNat % 2 ^ 48) ((s.blk.engine n).g o.b).toNat)) ((s.blk.engine n).g o.d) 0
      rw [BitVec.add_zero] at hsum
      exact hsum
    · refine gives_bsum h hop rfl rfl hpos hq hread ?_
      rw [if_neg (by omega)]
      exact (BitVec.ofNat_toNat ..).symm
  · intro e tw htrap hcodes hwait hhold hlong hop
    dsimp only
    intro hin hcheck hd hc
    exact gives_bscn_fails q (execLongChunk_at .clean hruns htrap hcodes hwait hhold hlong) hop hin hcheck hd hc

end Sys2Proof.Machine
end

section
/-! Power domain requests (R445): a register table that is out of order. -/
namespace Sys2Proof.Machine

/-- A register of an engine's window, of no part of PERIPH. -/
def shadowedFld : Fld := ⟨0x10, 0, 8, .rw, 0⟩

/-- A block whose register table lists a PERIPH register before `shadowedFld`, so that the latter reads as if it were not listed; PD4 is
to be switched off. -/
def disordered : State where
  blk := { Block.reset with regs := [((R.TMR_GAT_LO_TNOW).key, 1), (shadowedFld.key, 1)], domQ := [.periph true] }
  pending := []

theorem disordered_off : afterGet (exec .domainDone disordered) shadowedFld = some 1 := by decide +kernel

/-- Refutes O53: with a register table out of order, PD4's loss of its registers uncovers another register's value. -/
theorem not_domains : ¬ Obligations.Domains := by
  intro h
  have hall := h 0 0 0 true true true 0 shadowedFld disordered (by decide)
  obtain ⟨-, -, -, -, -, -, -, -, -, -, -, -, -, -, -, hperiph, -⟩ := hall
  obtain ⟨t, ⟨-, -, -, -, hkept⟩, hone⟩ := (hperiph rfl).afterGet disordered_off
  have hsame : t.blk.get shadowedFld = disordered.blk.get shadowedFld := hkept (by decide) (by decide)
  rw [hone] at hsame
  exact absurd hsame (by decide +kernel)

end Sys2Proof.Machine
end

section
/-! Accesses of the units that pass no region table: what of the block they can name (R198, R199, R281, R494, R520). -/
namespace Sys2Proof.Machine

/-! ## What an access leaves alone -/

/-- A register field that no access of memory names: none of a bank's but PSTATE, no global counter, not PERC_WAITS. -/
def beyondAccess (x : Fld) : Prop := ¬(isBankFld x ∧ ∀ k < 64, x.key ≠ (R.CB_STAT_PSTATE k).key) ∧ (∀ i < 64, x.key ≠ (R.GPC_COUNT i).key) ∧ x.key ≠ R.PERC_WAITS_COUNT.key

/-- A block with what accesses of memory name as it is in another one. -/
def Block.asBefore (b' b : Block) : Block := { b' with
  regs := b.regs
  bank := b.bank
  dram := b.dram
  mem := b.mem
  eng := b.eng
  fresh := b.fresh
  resps := b.resps }

/-- From `b` to `b'` memory has been accessed: beside the banks, the DRAM Port, the memory, the engines' notices, the answers and the
counters of accesses nothing has changed. -/
structure Accessed (b b' : Block) : Prop where
  frame : b'.asBefore b = b
  regs : ∀ x, beyondAccess x → b'.get x = b.get x
  unmoved : ∀ k, (b'.bankAt k).target = (b.bankAt k).target

theorem Accessed.refl (b : Block) : Accessed b b := ⟨rfl, fun _ _ => rfl, fun _ => rfl⟩

theorem Accessed.trans {a b c : Block} (h : Accessed a b) (k : Accessed b c) : Accessed a c := by
  refine ⟨?_, fun x hx => (k.regs x hx).trans (h.regs x hx), fun j => (k.unmoved j).trans (h.unmoved j)⟩
  have e := congrArg (fun x : Block => x.asBefore a) k.frame
  exact Eq.trans e h.frame

section
variable {a b : Block} (h : Accessed a b)
include h

theorem Accessed.isSealed : b.isSealed = a.isSealed := by have e := congrArg Block.isSealed h.frame; exact e
theorem Accessed.spm : b.spm = a.spm := by have e := congrArg Block.spm h.frame; exact e
theorem Accessed.intake : b.intake = a.intake := by have e := congrArg Block.intake h.frame; exact e
theorem Accessed.kettle : b.kettle = a.kettle := by have e := congrArg Block.kettle h.frame; exact e
theorem Accessed.media : b.media = a.media := by have e := congrArg Block.media h.frame; exact e
theorem Accessed.ports : b.ports = a.ports := by have e := congrArg Block.ports h.frame; exact e
theorem Accessed.digQ : b.digQ = a.digQ := by have e := congrArg Block.digQ h.frame; exact e
theorem Accessed.dg : b.dg = a.dg := by have e := congrArg Block.dg h.frame; exact e
theorem Accessed.tap : b.tap = a.tap := by have e := congrArg Block.tap h.frame; exact e

theorem Accessed.put {f : Fld} (hf : ¬beyondAccess f) (v : Nat) : Accessed a (b.put f v) :=
  ⟨h.frame, fun x hx => (Block.get_put_ne _ _ _ _ fun e => hf (by unfold beyondAccess isBankFld at hx ⊢; rwa [← e])).trans (h.regs x hx), h.unmoved⟩

theorem Accessed.setBank (k : Nat) {c : Bank} (hc : c.target = (b.bankAt k).target) : Accessed a (b.setBank k c) := by
  refine ⟨h.frame, h.regs, fun j => ?_⟩
  by_cases e : j = k
  · rw [e, Block.setBank_bankAt_same, hc, h.unmoved]
  · rw [Block.setBank_bankAt_ne _ _ _ _ e, h.unmoved]

theorem Accessed.setDram (d : DramPort) : Accessed a { b with dram := d } := ⟨h.frame, h.regs, h.unmoved⟩

theorem Accessed.setMem (m : Mem) : Accessed a { b with mem := m } := ⟨h.frame, h.regs, h.unmoved⟩

theorem Accessed.drawn : Accessed a b.drawn := ⟨h.frame, h.regs, h.unmoved⟩

theorem Accessed.modEngine (n : Nat) (g : Engine → Engine) : Accessed a (b.modEngine n g) := ⟨h.frame, h.regs, h.unmoved⟩

theorem Accessed.countGlob (code n : Nat) : Accessed a (b.countGlob code n) := by
  refine h.trans ⟨?_, fun x hx => countGlob_get b code n hx.2.1, fun j => ?_⟩
  · have e := congrArg (fun x : Block => x.asBefore b) (countGlob_frame b code n)
    exact e
  · rw [countGlob_bankAt]

end

theorem not_beyond_of_bank {k : Nat} (hk : k < 64) {x : Fld} (h1 : 0x20000 * 32 + k * 0x20 * 32 ≤ x.key)
    (h2 : x.key < 0x20000 * 32 + k * 0x20 * 32 + 0x20 * 32) (h3 : x.key ≠ (R.CB_STAT_PSTATE k).key) : ¬beyondAccess x := by
  refine fun h => h.1 ⟨isBankFld_of hk h1 h2, fun j hj e => ?_⟩
  simp only [Fld.key, R.CB_STAT_PSTATE] at *
  omega

/-! ## The parts of a bank cycle -/

theorem breakBank_accessed (b : Block) (k line rq : Nat) : Accessed b (b.breakBank k line rq) := by
  unfold Block.breakBank
  dsimp only
  split
  · exact .refl b
  · refine List.foldlRecOn (motive := Accessed b) _ _ ((Accessed.refl b).setBank _ rfl) fun c hc p _ => ?_
    exact hc.modEngine _ _

theorem heal_target (c : Bank) (line words : Nat) : (c.heal line words).target = c.target := by
  unfold Bank.heal
  dsimp only
  split <;> rfl

theorem touchLine_accessed (b : Block) (rq a n : Nat) (src : Option Nat) : Accessed b (b.touchLine rq a n src) := by
  unfold Block.touchLine
  split
  · refine (breakBank_accessed b _ _ rq).setBank _ ?_
    exact heal_target _ _ _
  · exact (Accessed.refl b).setDram _
  · exact .refl b

theorem touchLines_accessed (rq : Nat) (src : Option Nat) (fuel a n : Nat) (b : Block) :
    Accessed b (Block.touchLines rq src fuel a n b) := by
  induction fuel generalizing a n b with
  | zero => exact .refl b
  | succ fuel ih =>
    unfold Block.touchLines
    split
    · exact .refl b
    · exact (touchLine_accessed b _ _ _ _).trans (ih _ _ _)

theorem store_accessed (b : Block) (rq a : Nat) (data : List Byte) (src : Option Nat) : Accessed b (b.store rq a data src) :=
  (touchLines_accessed rq src _ a data.length b).setMem _

theorem takeLock_accessed (b : Block) (rq a lock : Nat) : Accessed b (b.takeLock rq a lock) := by
  unfold Block.takeLock
  split
  · exact (Accessed.refl b).setBank _ rfl
  · exact (Accessed.refl b).setDram _
  · exact .refl b

theorem freeLock_accessed (b : Block) (rq a : Nat) : Accessed b (b.freeLock rq a) := by
  unfold Block.freeLock
  split
  · exact (Accessed.refl b).setBank _ rfl
  · exact (Accessed.refl b).setDram _
  · exact .refl b

theorem effect_accessed (b : Block) (q : Req) : Accessed b (b.effect q).1 := by
  unfold Block.effect
  split
  · exact .refl b
  · exact store_accessed b _ _ _ _
  · exact store_accessed b _ _ _ _
  · exact takeLock_accessed b _ _ _
  · exact freeLock_accessed b _ _
  · split
    · split
      · exact (freeLock_accessed b _ _).trans (store_accessed _ _ _ _ _)
      · exact freeLock_accessed b _ _
    · exact .refl b
  · exact store_accessed b _ _ _ _

theorem answer_accessed (b : Block) (q : Req) (d : List Byte) (bad : Bool) : Accessed b (b.answer q d bad) := by
  unfold Block.answer
  split
  · exact .refl b
  · exact .refl b
  · exact ⟨rfl, fun _ _ => rfl, fun _ => rfl⟩

theorem unrepairable_accessed {k : Nat} (hk : k < 64) (b : Block) (line : Nat) (store quiet : Bool) :
    Accessed b (b.unrepairable k line store quiet) := by
  have hf : ∀ f ∈ errFields k, ¬beyondAccess f := by
    intro f hf
    simp only [errFields, errAddr, List.cons_append, List.nil_append, List.mem_cons, List.not_mem_nil, or_false] at hf
    obtain rfl | rfl | rfl | rfl | rfl | rfl | rfl | rfl | rfl | rfl | rfl | rfl | rfl := hf
    all_goals
      refine not_beyond_of_bank hk ?_ ?_ ?_
    all_goals
      simp only [Fld.key, R.CB_STAT_PSTATE, R.CB_ECCCNT_CECNT, R.CB_ECCCNT_RFCNT, R.CB_ECCCNT_UECNT, R.CB_STAT_SPUSED, R.CB_STAT_SPFULL,
        R.CB_EVT_SPFULL, R.CB_EVT_UNREP, R.CB_EVT_DROPST, R.CB_ERRADDR_LINE, R.CB_ERRADDR_UE, R.CB_ERRADDR_REFETCHED,
        R.CB_ERRADDR_DROPST, R.CB_ERRADDR_REMAPPED]
      omega
  unfold Block.unrepairable
  dsimp only
  refine ((((Accessed.put ?_ (hf _ ?_) _).put (hf _ ?_) _).put (hf _ ?_) _).put (hf _ ?_) _).put (hf _ ?_) _
  · cases quiet
    · cases store
      · exact ((Accessed.refl b).put (hf _ (by simp [errFields])) _).put (hf _ (by simp [errFields])) _
      · exact ((Accessed.refl b).put (hf _ (by simp [errFields])) _).put (hf _ (by simp [errFields])) _
    · exact (Accessed.refl b).put (hf _ (by simp [errFields])) _
  all_goals simp [errFields, errAddr]

end Sys2Proof.Machine
end

section
/-! Bank cycles, turns at the DRAM Port, and whole accesses of a unit: what they leave alone (R199, R200, R281, R520). -/
namespace Sys2Proof.Machine

/-- A find that is no correctable error, so that no line is remapped. -/
def remaps (find : BankFind) : Prop := ∃ second stays, find = .correctable second stays

theorem not_remaps_clean : ¬remaps .clean := by rintro ⟨_, _, h⟩; cases h

section
variable {k : Nat} (hk : k < 64)
include hk

omit hk in
theorem bankFinds_accessed (b : Block) (q : Req) {find : BankFind} (hf : ¬remaps find) : Accessed b (b.bankFinds k q find) := by
  unfold Block.bankFinds
  split
  · exact .refl b
  · split
    · exact .refl b
    next second stays => exact absurd ⟨second, stays, rfl⟩ hf
    · split
      · exact .refl b
      · exact (Accessed.refl b).setBank _ rfl
    · exact (Accessed.refl b).setBank _ rfl

theorem countApplied_accessed (b : Block) (q : Req) : Accessed b (b.countApplied k q) := by
  unfold Block.countApplied
  refine List.foldlRecOn (motive := Accessed b) _ _ (.refl b) fun c hc p _ => ?_
  split
  · exact hc.trans (unrepairable_accessed hk _ _ _ _)
  · exact hc

theorem bankLost_accessed (b : Block) (line : Nat) (q : Req) : Accessed b (b.bankLost k line q) := by
  unfold Block.bankLost
  split
  · exact (unrepairable_accessed hk _ _ _ _).trans (freeLock_accessed _ _ _)
  · exact unrepairable_accessed hk _ _ _ _
  · exact unrepairable_accessed hk _ _ _ _
  · exact unrepairable_accessed hk _ _ _ _

theorem bankDo_accessed (b : Block) (q : Req) {find : BankFind} (hf : ¬remaps find) : Accessed b (b.bankDo k q find).1 := by
  have hfinds := bankFinds_accessed (k := k) b q hf
  unfold Block.bankDo
  dsimp only
  split
  · split
    · exact hfinds.setBank _ rfl
    · exact hfinds.trans (bankLost_accessed hk _ _ q)
  · exact hfinds.trans ((countApplied_accessed hk _ q).trans (effect_accessed _ q))

theorem taken_accessed (b : Block) (q : Req) (rr : Bool) : Accessed b (b.taken k q rr) := by
  have hlast : ¬beyondAccess (R.CB_ARB_LASTRQ k) :=
    not_beyond_of_bank hk (by simp only [Fld.key, R.CB_ARB_LASTRQ]; omega) (by simp only [Fld.key, R.CB_ARB_LASTRQ]; omega)
      (by simp only [Fld.key, R.CB_ARB_LASTRQ, R.CB_STAT_PSTATE]; omega)
  have hwait : ¬beyondAccess (R.CB_WAITCNT_COUNT k) :=
    not_beyond_of_bank hk (by simp only [Fld.key, R.CB_WAITCNT_COUNT]; omega) (by simp only [Fld.key, R.CB_WAITCNT_COUNT]; omega)
      (by simp only [Fld.key, R.CB_WAITCNT_COUNT, R.CB_STAT_PSTATE]; omega)
  have hperc : ¬beyondAccess R.PERC_WAITS_COUNT := fun h => h.2.2 rfl
  have h1 := (Accessed.refl b).setBank k (c := (b.bankAt k).takes q) rfl
  unfold Block.taken
  dsimp only
  split <;> split <;> split
  · exact ((h1.put hlast _).drawn).put hperc _
  · exact (h1.drawn).put hperc _
  · exact (((h1.put hlast _).put hwait _).drawn).put hperc _
  · exact ((h1.put hwait _).drawn).put hperc _
  · exact h1.put hlast _
  · exact h1
  · exact (h1.put hlast _).put hwait _
  · exact h1.put hwait _

theorem bankStep_accessed (b : Block) {find : BankFind} (hf : ¬remaps find) : Accessed b (b.bankStep k find).1 := by
  cases hpick : b.bankPick k with
  | none =>
    unfold Block.bankStep
    rw [hpick]
    exact .refl b
  | some p =>
    obtain ⟨q, rr⟩ := p
    have hdo := (taken_accessed hk b q rr).trans (bankDo_accessed hk (b.taken k q rr) q hf)
    generalize hr : (b.taken k q rr).bankDo k q find = p at hdo
    obtain ⟨u, r⟩ := p
    rw [bankStep_picked hpick hr]
    split
    · exact hdo.setBank _ rfl
    · exact hdo.setBank _ rfl

theorem bankServe_accessed (b : Block) {find : BankFind} (hf : ¬remaps find) : Accessed b (b.bankServe k find) := by
  have hstep := bankStep_accessed hk b hf
  unfold Block.bankServe
  split
  next u q r heq =>
    rw [heq] at hstep
    cases r with
    | data d => exact hstep.trans (answer_accessed _ _ _ _)
    | lost => exact hstep.trans (answer_accessed _ _ _ _)
    | later => exact hstep
  next u heq =>
    rw [heq] at hstep
    exact hstep

theorem bankUntil_accessed (fuel : Nat) (b : Block) {find : BankFind} (hf : ¬remaps find) : Accessed b (Block.bankUntil k find fuel b).1 := by
  induction fuel generalizing b with
  | zero => exact .refl b
  | succ fuel ih =>
    unfold Block.bankUntil
    split
    · exact .refl b
    · split
      · have hstep := bankStep_accessed hk b hf
        split
        next heq =>
          rw [heq] at hstep
          exact hstep
        next heq =>
          rw [heq] at hstep
          exact hstep
      · exact (bankServe_accessed hk b not_remaps_clean).trans (ih _)

theorem bankFlush_accessed (rq fuel : Nat) (b : Block) : Accessed b (Block.bankFlush k rq fuel b) := by
  induction fuel generalizing b with
  | zero => exact .refl b
  | succ fuel ih =>
    unfold Block.bankFlush
    split
    · exact .refl b
    · exact (bankServe_accessed hk b not_remaps_clean).trans (ih _)

end

theorem post_accessed (b : Block) (q : Req) : Accessed b (b.post q) := by
  unfold Block.post
  split
  · exact (Accessed.refl b).setBank _ rfl
  · exact (Accessed.refl b).setDram _
  · exact .refl b

theorem bankNow_accessed {k : Nat} (hk : k < 64) (b : Block) (q : Req) {find : BankFind} (hf : ¬remaps find) :
    Accessed b (b.bankNow k q find).1 := by
  have hrun := (post_accessed b { q with reply := .now }).trans
    (bankUntil_accessed hk (((b.post { q with reply := .now }).bankAt k).waiting.length + 1) _ hf)
  unfold Block.bankNow
  dsimp only
  split
  next heq =>
    rw [heq] at hrun
    exact hrun.setBank _ rfl
  · exact hrun

/-! ## The DRAM Port's turns -/

theorem countDram_accessed (b : Block) (a n : Nat) (rd wr : Bool) : Accessed b (b.countDram a n rd wr) := by
  unfold Block.countDram
  split
  · dsimp only
    have hrd : Accessed b (if rd then b.countGlob 0x0D (if n = 0 then 0 else (a + n - 1) / 64 - a / 64 + 1) else b) := by
      split
      · exact (Accessed.refl b).countGlob _ _
      · exact .refl b
    split
    · exact hrd.countGlob _ _
    · exact hrd
  · exact .refl b

theorem dramLeave_accessed (b : Block) (q : Req) : Accessed b (b.dramLeave q) := (Accessed.refl b).setDram _

theorem present_accessed (b : Block) (q : Req) : Accessed b (b.present q) :=
  ((countDram_accessed b _ _ _ _).trans (effect_accessed _ q)).setDram _

theorem dramUntil_accessed (rq fuel : Nat) (b : Block) : Accessed b (Block.dramUntil rq fuel b) := by
  induction fuel generalizing b with
  | zero => exact .refl b
  | succ fuel ih =>
    unfold Block.dramUntil
    split
    · exact .refl b
    · split
      · exact dramLeave_accessed b _
      · exact (dramLeave_accessed b _).trans ((present_accessed _ _).trans (ih _))

theorem dramFlush_accessed (rq fuel : Nat) (b : Block) : Accessed b (Block.dramFlush rq fuel b) := by
  induction fuel generalizing b with
  | zero => exact .refl b
  | succ fuel ih =>
    unfold Block.dramFlush
    split
    · exact .refl b
    · exact (dramLeave_accessed b _).trans ((present_accessed _ _).trans (ih _))

theorem dramNow_accessed (b : Block) (q : Req) (err : Bool) : Accessed b (b.dramNow q err).1 := by
  have hrun := ((post_accessed b { q with reply := .now }).trans (dramUntil_accessed q.rq
    ((b.post { q with reply := .now }).dram.waiting.length + 1) _)).trans (countDram_accessed _ q.addr q.len q.kind.reads q.kind.writes)
  unfold Block.dramNow
  dsimp only
  split
  · exact hrun
  · exact hrun.trans (effect_accessed _ q)

/-! ## Accesses of a unit -/

theorem now_accessed (b : Block) (q : Req) {find : BankFind} (hf : ¬remaps find) : Accessed b (b.now q find).1 := by
  unfold Block.now
  split
  next k ht => exact bankNow_accessed (target_carafe_lt ht) b q hf
  · exact dramNow_accessed b q _
  · exact .refl b

theorem dmaLines_accessed (rq cls : Nat) (ps : List (Nat × Nat)) (b : Block) {find : BankFind} (hf : ¬remaps find) :
    Accessed b (Block.dmaLines rq cls find ps b).1 := by
  induction ps generalizing b find with
  | nil => exact .refl b
  | cons p ps ih =>
    obtain ⟨a, n⟩ := p
    have hnow := now_accessed b (dmaReq rq .read a n [] cls) hf
    unfold Block.dmaLines
    split
    next heq =>
      rw [heq] at hnow
      have hrest := ih (find := .clean) (b.now (dmaReq rq .read a n [] cls) find).1 not_remaps_clean
      rw [heq] at hrest
      split
      next heq' =>
        rw [heq'] at hrest
        exact hnow.trans hrest
      · exact hnow.trans hrest
    · exact hnow

theorem dmaRead_accessed (b : Block) (rq cls a n : Nat) {find : BankFind} (hf : ¬remaps find) :
    Accessed b (b.dmaRead rq cls a n find).1 := by
  unfold Block.dmaRead
  split
  · exact .refl b
  · exact dmaLines_accessed rq cls _ b hf

theorem drainBank_accessed {k : Nat} (hk : k < 64) (b : Block) (rq : Nat) : Accessed b (b.drainBank rq k) :=
  bankFlush_accessed hk rq _ b

theorem drainDram_accessed (b : Block) (rq : Nat) : Accessed b (b.drainDram rq) := dramFlush_accessed rq _ b

theorem dmaPut_accessed (rq cls : Nat) (d : List Byte) (b : Block) (p : Nat × Nat × Nat) : Accessed b (Block.dmaPut rq cls d b p) := by
  have hpost := post_accessed b (dmaReq rq .write p.1 p.2.1 ((d.drop p.2.2).take p.2.1) cls)
  unfold Block.dmaPut
  dsimp only
  split
  next k ht => exact hpost.trans (drainBank_accessed (target_carafe_lt ht) _ rq)
  · exact hpost.trans (drainDram_accessed _ rq)

theorem dmaWrite_accessed (b : Block) (rq cls a : Nat) (d : List Byte) : Accessed b (b.dmaWrite rq cls a d) := by
  unfold Block.dmaWrite
  split
  · exact .refl b
  · exact List.foldlRecOn (motive := Accessed b) _ _ (.refl b) fun c hc p _ => hc.trans (dmaPut_accessed rq cls d c p)

end Sys2Proof.Machine
end

section
/-! One line's turn where nothing else waits: its bytes, its error, its repair, its write (R199 to R201, R211 to R213, R520). -/
namespace Sys2Proof.Machine

/-! ## Where nothing waits -/

/-- No request waits at a bank or at the DRAM Port, and no line is under repair. -/
structure Idle (b : Block) : Prop where
  waiting : ∀ k < 64, (b.bankAt k).waiting = []
  repair : ∀ k < 64, (b.bankAt k).repair = []
  dram : b.dram.waiting = []

/-- The line at an address is not damaged. -/
def Block.lineSound (b : Block) (a : Nat) : Prop := ∀ k, b.target a = .carafe k → (b.bankAt k).bad.get (a / 64 % 2 ^ 14) 0 = 0

/-- A bank or the DRAM Port serves an address. -/
def Block.servesAt (b : Block) (a : Nat) : Prop := (∃ k, b.target a = .carafe k) ∨ ∃ o, b.target a = .dram o

theorem idle_of_still {b : Block} (h : b.still) : Idle b := by
  obtain ⟨hbanks, hdram⟩ := h
  exact ⟨fun k hk => (hbanks k hk).1, fun k hk => (hbanks k hk).2.1, hdram⟩

theorem lineSound_of_still {b : Block} (h : b.still) (a : Nat) : b.lineSound a := fun k ht => by
  rw [(h.1 k (target_carafe_lt ht)).2.2]
  rfl

theorem Accessed.target {b b' : Block} (h : Accessed b b') (a : Nat) : b'.target a = b.target a := by
  have hsize : b'.get R.INTEG_DRAM_GIB = b.get R.INTEG_DRAM_GIB := by
    refine h.regs _ ⟨fun hb => absurd hb.1 (by simp [isBankFld, Fld.key, R.INTEG_DRAM_GIB]), fun i hi => ?_, by decide⟩
    simp only [Fld.key, R.INTEG_DRAM_GIB, R.GPC_COUNT]
    omega
  unfold Block.target Block.dramSize
  rw [hsize]

theorem Accessed.bankOn {b b' : Block} (h : Accessed b b') {k : Nat} (hk : k < 64) : b'.bankOn k = b.bankOn k := by
  have hps : b'.get (R.CB_STAT_PSTATE k) = b.get (R.CB_STAT_PSTATE k) := by
    refine h.regs _ ⟨fun hb => hb.2 k hk rfl, fun i hi => ?_, ?_⟩
    · simp only [Fld.key, R.CB_STAT_PSTATE, R.GPC_COUNT]
      omega
    · simp only [Fld.key, R.CB_STAT_PSTATE, R.PERC_WAITS_COUNT]
      omega
  unfold Block.bankOn
  rw [hps, h.unmoved]

theorem Accessed.bankFault {b b' : Block} (h : Accessed b b') (a n : Nat) : b'.bankFault a n = b.bankFault a n := by
  unfold Block.bankFault
  dsimp only
  rw [h.target, h.target]
  cases ht : b.target a with
  | carafe k =>
    dsimp only
    rw [h.bankOn (target_carafe_lt ht)]
    cases ht' : b.target (a / 2 ^ 20 * 2 ^ 20 + 2 ^ 20) with
    | carafe j =>
      dsimp only
      rw [h.bankOn (target_carafe_lt ht')]
    | _ => rfl
  | _ => rfl

theorem Accessed.reachable {b b' : Block} (h : Accessed b b') (a n : Nat) : b'.reachable a n = b.reachable a n := by
  unfold Block.reachable
  rw [h.bankFault, h.target, h.target]

theorem Accessed.servesAt {b b' : Block} (h : Accessed b b') {a : Nat} (hs : b.servesAt a) : b'.servesAt a := by
  unfold Block.servesAt
  rw [h.target]
  exact hs

/-- From `b` to `b'` lines have been read: nothing waits, the memory, the engines and the answers stand, and no line has met damage. -/
structure ReadOn (b b' : Block) : Prop where
  accessed : Accessed b b'
  idle : Idle b'
  mem : b'.mem = b.mem
  eng : b'.eng = b.eng
  resps : b'.resps = b.resps
  bad : ∀ k < 64, (b'.bankAt k).bad = (b.bankAt k).bad
  src : ∀ k < 64, (b'.bankAt k).src = (b.bankAt k).src

theorem ReadOn.refl {b : Block} (h : Idle b) : ReadOn b b := ⟨.refl b, h, rfl, rfl, rfl, fun _ _ => rfl, fun _ _ => rfl⟩

theorem ReadOn.trans {a b c : Block} (h : ReadOn a b) (k : ReadOn b c) : ReadOn a c :=
  ⟨h.accessed.trans k.accessed, k.idle, k.mem.trans h.mem, k.eng.trans h.eng, k.resps.trans h.resps,
    fun j hj => (k.bad j hj).trans (h.bad j hj), fun j hj => (k.src j hj).trans (h.src j hj)⟩

theorem ReadOn.lineSound {b b' : Block} (h : ReadOn b b') {a : Nat} (hs : b.lineSound a) : b'.lineSound a := fun k ht => by
  have ht' := (h.accessed.target a).symm.trans ht
  rw [h.bad k (target_carafe_lt ht')]
  exact hs k ht'

/-- A bank's lists alone changed: nothing waits where nothing waited. -/
theorem Idle.setBank {b : Block} (h : Idle b) {k : Nat} {c : Bank} (hw : c.waiting = []) (hr : c.repair = []) : Idle (b.setBank k c) := by
  have hat : ∀ j, (b.setBank k c).bankAt j = if j = k then c else b.bankAt j := fun j => by
    split
    next e => rw [e, Block.setBank_bankAt_same]
    next e => exact Block.setBank_bankAt_ne _ _ _ _ e
  refine ⟨fun j hj => ?_, fun j hj => ?_, h.dram⟩
  all_goals
    rw [hat]
    split
  · exact hw
  · exact h.waiting j hj
  · exact hr
  · exact h.repair j hj

theorem Idle.of_same {b b' : Block} (h : Idle b) (hbank : b'.bank = b.bank) (hdram : b'.dram.waiting = b.dram.waiting) : Idle b' := by
  have hat : ∀ j, b'.bankAt j = b.bankAt j := fun j => by
    unfold Block.bankAt
    rw [hbank]
  exact ⟨fun j hj => by rw [hat]; exact h.waiting j hj, fun j hj => by rw [hat]; exact h.repair j hj, hdram.trans h.dram⟩

/-! ## Requests within one line -/

section
variable {b : Block} {rq cls a n : Nat} {kind : ReqKind} {data : List Byte}

theorem spans_in_line (hline : a % 64 + n ≤ 64) :
    (dmaReq rq kind a n data cls).spans = [(a / 64 % 2 ^ 14, a % 64, n)] := by
  have htwo : (dmaReq rq kind a n data cls).two = false := decide_eq_false (by show ¬64 < a % 64 + n; omega)
  unfold Req.spans
  dsimp only
  rw [htwo]
  rfl

theorem whole_in_line {k : Nat} (hi : Idle b) (ht : b.target a = .carafe k) (hs : b.lineSound a) (hline : a % 64 + n ≤ 64) :
    (b.bankAt k).whole (dmaReq rq kind a n data cls) := by
  intro p hp
  rw [spans_in_line hline] at hp
  obtain rfl := List.mem_singleton.mp hp
  refine ⟨hs k ht, fun r hr => ?_⟩
  rw [hi.repair k (target_carafe_lt ht)] at hr
  exact absurd hr List.not_mem_nil

theorem serving_bankAt (b : Block) (k : Nat) (q : Req) (j : Nat) : (b.serving k q).bankAt j =
    if j = k then { b.bankAt k with waiting := [], scrubAge := (b.bankAt k).scrubAge.map (· + q.cycles) } else b.bankAt j := by
  have hset : (b.serving k q).bankAt j =
      (b.setBank k { b.bankAt k with waiting := [], scrubAge := (b.bankAt k).scrubAge.map (· + q.cycles) }).bankAt j := by
    unfold Block.serving
    dsimp only
    split <;> rfl
  rw [hset]
  split
  next e => rw [e, Block.setBank_bankAt_same]
  next e => exact Block.setBank_bankAt_ne _ _ _ _ e

theorem serving_accessed {k : Nat} (hk : k < 64) (b : Block) (q : Req) : Accessed b (b.serving k q) := by
  have hlast : ¬beyondAccess (R.CB_ARB_LASTRQ k) :=
    not_beyond_of_bank hk (by simp only [Fld.key, R.CB_ARB_LASTRQ]; omega) (by simp only [Fld.key, R.CB_ARB_LASTRQ]; omega)
      (by simp only [Fld.key, R.CB_ARB_LASTRQ, R.CB_STAT_PSTATE]; omega)
  have hset : Accessed b (b.setBank k { b.bankAt k with waiting := [], scrubAge := (b.bankAt k).scrubAge.map (· + q.cycles) }) :=
    (Accessed.refl b).setBank _ rfl
  unfold Block.serving
  dsimp only
  split
  · exact hset
  · exact hset.put hlast _

theorem serving_readOn {k : Nat} (hk : k < 64) (hi : Idle b) (q : Req) : ReadOn b (b.serving k q) := by
  have heq : (b.serving k q).eng = b.eng ∧ (b.serving k q).mem = b.mem ∧ (b.serving k q).resps = b.resps ∧
      (b.serving k q).dram = b.dram := by
    unfold Block.serving
    dsimp only
    split <;> exact ⟨rfl, rfl, rfl, rfl⟩
  obtain ⟨heng, hmem, hresps, hdram⟩ := heq
  refine ⟨serving_accessed hk b q, ⟨fun j hj => ?_, fun j hj => ?_, by rw [hdram]; exact hi.dram⟩, hmem, heng, hresps,
    fun j hj => ?_, fun j hj => ?_⟩
  all_goals
    rw [serving_bankAt]
    split
  · rfl
  · exact hi.waiting j hj
  next e => exact e ▸ hi.repair j hj
  · exact hi.repair j hj
  next e => rw [e]
  · rfl
  next e => rw [e]
  · rfl

/-- A bank that has seated its empty list. -/
theorem ReadOn.reseat {b b' : Block} {k : Nat} (hk : k < 64) (h : ReadOn b b') :
    ReadOn b (b'.setBank k { b'.bankAt k with waiting := seat k (b'.bankAt k).waiting }) := by
  have hw : seat k (b'.bankAt k).waiting = [] := by rw [h.idle.waiting k hk]; rfl
  refine ⟨h.accessed.setBank _ rfl, h.idle.setBank hw (h.idle.repair k hk), h.mem, h.eng, h.resps, fun j hj => ?_, fun j hj => ?_⟩
  · by_cases e : j = k
    · rw [e, Block.setBank_bankAt_same]
      exact h.bad k hk
    · rw [Block.setBank_bankAt_ne _ _ _ _ e]
      exact h.bad j hj
  · by_cases e : j = k
    · rw [e, Block.setBank_bankAt_same]
      exact h.src k hk
    · rw [Block.setBank_bankAt_ne _ _ _ _ e]
      exact h.src j hj

/-! ## The DRAM Port's turn of one request -/

theorem dramPick_alone {q : Req} (hw : b.dram.waiting = [q]) : b.dramPick q.channel = some q := by
  unfold Block.dramPick
  rw [hw]
  simp [firstsOf, rrFirst]

theorem dramNext_alone {q : Req} (hw : b.dram.waiting = [q]) : b.dramNext q.rq = some q := by
  unfold Block.dramNext
  rw [hw]
  simp only [List.find?_cons_of_pos (p := fun r : Req => r.rq == q.rq) (beq_self_eq_true _), Option.bind_some]
  exact dramPick_alone hw

theorem dramLeave_alone {q : Req} (hw : b.dram.waiting = [q]) : (b.dramLeave q).dram.waiting = [] := by
  unfold Block.dramLeave
  dsimp only
  rw [hw, removeReq, if_pos rfl]

theorem post_dram {q : Req} {o : Nat} (hi : Idle b) (ht : b.target q.addr = .dram o) :
    b.post q = { b with dram := { b.dram with waiting := [q] } } := by
  unfold Block.post
  rw [ht]
  dsimp only
  rw [hi.dram]
  rfl

/-- The DRAM Port where a command's request has had its turn. -/
def Block.dramTurned (b : Block) (q : Req) : Block :=
  (({ b with dram := { b.dram with waiting := [{ q with reply := .now }] } } : Block).dramLeave { q with reply := .now }).countDram
    q.addr q.len q.kind.reads q.kind.writes

theorem dramNow_idle {q : Req} {o : Nat} (hi : Idle b) (ht : b.target q.addr = .dram o) (err : Bool) :
    b.dramNow q err = if err then (b.dramTurned q, .lost) else (((b.dramTurned q).effect q).1, .data ((b.dramTurned q).effect q).2) := by
  have hpost : b.post { q with reply := .now } = { b with dram := { b.dram with waiting := [{ q with reply := .now }] } } :=
    post_dram (q := { q with reply := .now }) hi ht
  have huntil : Block.dramUntil q.rq ([{ q with reply := .now }].length + 1)
      ({ b with dram := { b.dram with waiting := [{ q with reply := .now }] } } : Block) =
      ({ b with dram := { b.dram with waiting := [{ q with reply := .now }] } } : Block).dramLeave { q with reply := .now } := by
    unfold Block.dramUntil
    rw [dramNext_alone (q := { q with reply := .now }) rfl]
    dsimp only
    rw [if_pos rfl]
  unfold Block.dramNow
  dsimp only
  rw [hpost, huntil]
  rfl

theorem countDram_bank (b : Block) (a n : Nat) (rd wr : Bool) : (b.countDram a n rd wr).bank = b.bank ∧
    (b.countDram a n rd wr).dram = b.dram ∧ (b.countDram a n rd wr).mem = b.mem ∧ (b.countDram a n rd wr).eng = b.eng ∧
    (b.countDram a n rd wr).resps = b.resps := by
  have hglob : ∀ (c : Block) (code k : Nat), (c.countGlob code k).bank = c.bank ∧ (c.countGlob code k).dram = c.dram ∧
      (c.countGlob code k).mem = c.mem ∧ (c.countGlob code k).eng = c.eng ∧ (c.countGlob code k).resps = c.resps := fun c code k => by
    have h := countGlob_frame c code k
    have h1 := congrArg Block.bank h
    have h2 := congrArg Block.dram h
    have h3 := congrArg Block.mem h
    have h4 := congrArg Block.eng h
    have h5 := congrArg Block.resps h
    exact ⟨h1, h2, h3, h4, h5⟩
  unfold Block.countDram
  split
  · cases rd <;> cases wr
    · exact ⟨rfl, rfl, rfl, rfl, rfl⟩
    · exact hglob _ _ _
    · exact hglob _ _ _
    · obtain ⟨h1, h2, h3, h4, h5⟩ := hglob b 0x0D (if n = 0 then 0 else (a + n - 1) / 64 - a / 64 + 1)
      obtain ⟨k1, k2, k3, k4, k5⟩ := hglob (b.countGlob 0x0D (if n = 0 then 0 else (a + n - 1) / 64 - a / 64 + 1)) 0x0E
        (if n = 0 then 0 else (a + n - 1) / 64 - a / 64 + 1)
      exact ⟨k1.trans h1, k2.trans h2, k3.trans h3, k4.trans h4, k5.trans h5⟩
  · exact ⟨rfl, rfl, rfl, rfl, rfl⟩

theorem dramTurned_readOn (hi : Idle b) (q : Req) : ReadOn b (b.dramTurned q) := by
  let c : Block := { b with dram := { b.dram with waiting := [{ q with reply := .now }] } }
  let d := c.dramLeave { q with reply := .now }
  obtain ⟨hbank, hdram, hmem, heng, hresps⟩ := countDram_bank d q.addr q.len q.kind.reads q.kind.writes
  have hacc : Accessed b (b.dramTurned q) :=
    (((Accessed.refl b).setDram _).trans (dramLeave_accessed c _)).trans (countDram_accessed d _ _ _ _)
  have hbank' : (b.dramTurned q).bank = b.bank := hbank
  have hat : ∀ j, (b.dramTurned q).bankAt j = b.bankAt j := fun j => by
    unfold Block.bankAt
    rw [hbank']
  refine ⟨hacc, hi.of_same hbank' ?_, hmem, heng, hresps, fun j _ => by rw [hat], fun j _ => by rw [hat]⟩
  have hw : d.dram.waiting = [] := dramLeave_alone rfl
  have hw' : (b.dramTurned q).dram.waiting = d.dram.waiting := congrArg DramPort.waiting hdram
  rw [hw', hw, hi.dram]

/-! ## A line read -/

theorem now_read (hi : Idle b) (hs : b.servesAt a) (hsound : b.lineSound a) (hline : a % 64 + n ≤ 64) (hc : cls < 6) :
    ∃ b', b.now (dmaReq rq .read a n [] cls) .clean = (b', .data (b.mem.bytes a n)) ∧ ReadOn b b' := by
  obtain ⟨k, ht⟩ | ⟨o, ht⟩ := hs
  · have hk := target_carafe_lt ht
    have hturn := serving_readOn hk hi (dmaReq rq .read a n [] cls)
    have hnow := bankNow_alone (q := dmaReq rq .read a n [] cls) ht (hi.waiting k hk) rfl (by decide : 0 < 16) hc
      (whole_in_line hi ht hsound hline)
    rw [effect_read rfl, hturn.mem] at hnow
    refine ⟨_, ?_, hturn.reseat hk⟩
    unfold Block.now
    rw [show (dmaReq rq .read a n [] cls).addr = a from rfl, ht]
    exact hnow
  · have hturn := dramTurned_readOn hi (dmaReq rq .read a n [] cls)
    have hnow := dramNow_idle (q := dmaReq rq .read a n [] cls) hi ht false
    rw [if_neg Bool.false_ne_true, effect_read rfl, hturn.mem] at hnow
    refine ⟨_, ?_, hturn⟩
    unfold Block.now
    rw [show (dmaReq rq .read a n [] cls).addr = a from rfl, ht]
    exact hnow

end

end Sys2Proof.Machine
end

section
/-! A line lost, a line under repair, a line written, where nothing else waits (R199, R211 to R213, R520). -/
namespace Sys2Proof.Machine

/-! ## The request of a command at its bank -/

section
variable {b : Block} {rq cls a n k : Nat}

theorem findLine_in_line {q : Req} (h : q.two = false) (second : Bool) : q.findLine second = q.line := by
  unfold Req.findLine
  rw [h, Bool.and_false]
  rfl

theorem two_in_line {kind : ReqKind} {data : List Byte} (hline : a % 64 + n ≤ 64) : (dmaReq rq kind a n data cls).two = false :=
  decide_eq_false (by show ¬64 < a % 64 + n; omega)

/-- The bank where a command's request is the only one that waits. -/
theorem post_bank {q : Req} (hi : Idle b) (ht : b.target q.addr = .carafe k) (hp : q.place = 0) (hc : q.cls < 6) :
    ∃ p, p ≠ 0 ∧ b.post q = b.setBank k { b.bankAt k with waiting := [{ q with place := p }] } := by
  obtain ⟨p, hp0, hseat⟩ := seat_alone (k := k) hp hc
  refine ⟨p, hp0, ?_⟩
  unfold Block.post
  rw [ht]
  dsimp only
  rw [hi.waiting k (target_carafe_lt ht), List.nil_append, hseat]

/-- What a damaged line's read makes of the bank, for want of a second source. -/
def Block.lostLine (b : Block) (k : Nat) (q : Req) (rr : Bool) (words : Nat) : Block :=
  ((b.taken k q rr).markBad k q.line words).unrepairable k q.line false false

theorem lostLine_bank (b : Block) (k : Nat) (q : Req) (rr : Bool) (words : Nat) : (b.lostLine k q rr words).bankAt k =
    { (b.bankAt k).takes q with bad := (b.bankAt k).bad.put q.line (Nat.lor ((b.bankAt k).bad.get q.line 0) words) } := by
  unfold Block.lostLine
  rw [unrepairable_bankAt, markBad_bank, taken_bankAt]
  rfl

theorem taken_other {q : Req} {rr : Bool} {j : Nat} (h : j ≠ k) : (b.taken k q rr).bankAt j = b.bankAt j := by
  have hsame : (b.taken k q rr).bankAt j = (b.setBank k ((b.bankAt k).takes q)).bankAt j := by
    unfold Block.taken
    dsimp only
    split <;> split <;> split <;> rfl
  rw [hsame, Block.setBank_bankAt_ne _ _ _ _ h]

theorem taken_same (b : Block) (k : Nat) (q : Req) (rr : Bool) : (b.taken k q rr).mem = b.mem ∧ (b.taken k q rr).eng = b.eng ∧
    (b.taken k q rr).dram = b.dram ∧ (b.taken k q rr).resps = b.resps := by
  unfold Block.taken
  dsimp only
  split <;> split <;> split <;> exact ⟨rfl, rfl, rfl, rfl⟩

theorem unrepairable_same (b : Block) (k line : Nat) (store quiet : Bool) : (b.unrepairable k line store quiet).mem = b.mem ∧
    (b.unrepairable k line store quiet).eng = b.eng ∧ (b.unrepairable k line store quiet).dram = b.dram ∧
    (b.unrepairable k line store quiet).resps = b.resps := by
  unfold Block.unrepairable
  dsimp only
  cases quiet <;> exact ⟨rfl, rfl, rfl, rfl⟩

/-- From `b` to `b'` a read of the line at `a` has been lost: nothing waits, and no other line has met damage. -/
structure LostOn (a : Nat) (b b' : Block) : Prop where
  accessed : Accessed b b'
  idle : Idle b'
  mem : b'.mem = b.mem
  eng : b'.eng = b.eng
  resps : b'.resps = b.resps
  bad : ∀ j < 64, ∀ l, (b.target a = .carafe j → l ≠ a / 64 % 2 ^ 14) → (b'.bankAt j).bad.get l 0 = (b.bankAt j).bad.get l 0

theorem ReadOn.lostOn {b' : Block} (h : ReadOn b b') (a : Nat) : LostOn a b b' :=
  ⟨h.accessed, h.idle, h.mem, h.eng, h.resps, fun j hj l _ => by rw [h.bad j hj]⟩

theorem LostOn.lineSound {b' : Block} (h : LostOn a b b') {x : Nat} (hne : x / 64 ≠ a / 64 ∨ ∀ k, b.target a ≠ .carafe k)
    (hs : b.lineSound x) : b'.lineSound x := fun j ht => by
  have ht' := (h.accessed.target x).symm.trans ht
  rw [h.bad j (target_carafe_lt ht') _ fun hta => ?_]
  · exact hs j ht'
  · obtain hne | hno := hne
    · obtain ⟨-, hx⟩ := carafe_of_target ht'
      obtain ⟨-, hj⟩ := carafe_of_target hta
      omega
    · exact absurd hta (hno j)

/-- What a command's request comes to at a bank that has stepped for it: a request still waiting is withdrawn. -/
def Block.nowOf (k : Nat) : Block × Option (Req × Served) → Block × Served
  | (b, some (_, .data d)) => (b, .data d)
  | (b, some (_, .lost)) => (b, .lost)
  | (b, _) => (b.bankWithdraw k, .later)

/-- A request that is picked where it alone waits. -/
theorem bankNow_step {q : Req} (find : BankFind) (hi : Idle b) (ht : b.target q.addr = .carafe k) (hp : q.place = 0)
    (hage : q.age < 16) (hc : q.cls < 6) (hw : (b.bankAt k).whole q) :
    ∃ p rr, (b.setBank k { b.bankAt k with waiting := [{ q with reply := .now, place := p }] }).bankPick k =
        some ({ q with reply := .now, place := p }, rr) ∧
      b.bankNow k q find =
        Block.nowOf k ((b.setBank k { b.bankAt k with waiting := [{ q with reply := .now, place := p }] }).bankStep k find) := by
  obtain ⟨p, hp0, hpost⟩ := post_bank (q := { q with reply := .now }) hi ht hp hc
  let q' : Req := { q with reply := .now, place := p }
  let c := b.setBank k { b.bankAt k with waiting := [q'] }
  have hbank : c.bankAt k = { b.bankAt k with waiting := [q'] } := Block.setBank_bankAt_same ..
  have hwait : (c.bankAt k).waiting = [q'] := by rw [hbank]
  have hwhole : (c.bankAt k).whole q' := by rw [hbank]; exact hw
  have hpick := bankPick_alone hwait hp0 hage hwhole
  refine ⟨p, _, hpick, ?_⟩
  unfold Block.bankNow
  dsimp only
  rw [hpost]
  change (match Block.bankUntil k find ((c.bankAt k).waiting.length + 1) c with
    | (b, .later) => (b.bankWithdraw k, .later)
    | r => r) = Block.nowOf k (c.bankStep k find)
  rw [hwait]
  unfold Block.bankUntil
  rw [hpick]
  dsimp only
  rw [if_pos rfl]
  generalize c.bankStep k find = z
  obtain ⟨u, _ | ⟨x, _ | _ | _⟩⟩ := z
  all_goals rfl

end

end Sys2Proof.Machine
end

section
/-! A line's read that is lost, or kept for its repair, where nothing else waits (R211 to R213, R520). -/
namespace Sys2Proof.Machine

section
variable {b : Block} {rq cls a n k : Nat}

theorem markBad_other (b : Block) (line words : Nat) {j : Nat} (h : j ≠ k) : (b.markBad k line words).bankAt j = b.bankAt j :=
  Block.setBank_bankAt_ne _ _ _ _ h

/-- A request that alone waits leaves nothing when it is taken. -/
theorem without_alone {c : Bank} {q : Req} (h : c.waiting = [q]) : c.without q = [] := by
  unfold Bank.without
  rw [h, removeReq, if_pos rfl, List.map_nil]

/-- The bank where a request alone waits. -/
def Block.alone (b : Block) (k : Nat) (q : Req) : Block := b.setBank k { b.bankAt k with waiting := [q] }

theorem alone_bank (b : Block) (k : Nat) (q : Req) : (b.alone k q).bankAt k = { b.bankAt k with waiting := [q] } :=
  Block.setBank_bankAt_same ..

theorem alone_other {q : Req} {j : Nat} (h : j ≠ k) : (b.alone k q).bankAt j = b.bankAt j := Block.setBank_bankAt_ne _ _ _ _ h

/-- The bank after a lost read has left its place. -/
theorem lostLine_leaves (hi : Idle b) (q : Req) (rr : Bool) (words : Nat) :
    let u := (b.alone k q).lostLine k q rr words
    Idle (u.setBank k { u.bankAt k with waiting := seat k (u.bankAt k).waiting }) ∧
    (∀ j < 64, ∀ l, (j = k → l ≠ q.line) →
      ((u.setBank k { u.bankAt k with waiting := seat k (u.bankAt k).waiting }).bankAt j).bad.get l 0 = (b.bankAt j).bad.get l 0) := by
  intro u
  have hsame := lostLine_bank (b.alone k q) k q rr words
  have hwait : (u.bankAt k).waiting = [] := by
    show (((b.alone k q).lostLine k q rr words).bankAt k).waiting = []
    rw [hsame]
    exact without_alone (congrArg Bank.waiting (alone_bank b k q))
  have hrepair : (u.bankAt k).repair = (b.bankAt k).repair := by
    show (((b.alone k q).lostLine k q rr words).bankAt k).repair = _
    rw [hsame]
    have hold : (((b.alone k q).bankAt k).takes q).repair = ((b.alone k q).bankAt k).repair := rfl
    rw [hold, alone_bank]
  have hbad : (u.bankAt k).bad = (b.bankAt k).bad.put q.line (Nat.lor ((b.bankAt k).bad.get q.line 0) words) := by
    show (((b.alone k q).lostLine k q rr words).bankAt k).bad = _
    rw [hsame, alone_bank]
  have hother : ∀ j, j ≠ k → u.bankAt j = b.bankAt j := fun j hj => by
    show ((b.alone k q).lostLine k q rr words).bankAt j = _
    unfold Block.lostLine
    rw [unrepairable_bankAt, markBad_other _ _ _ hj, taken_other hj, alone_other hj]
  have hdram : u.dram = b.dram :=
    (unrepairable_same _ k q.line false false).2.2.1.trans (taken_same (b.alone k q) k q rr).2.2.1
  have hat : ∀ j, (u.setBank k { u.bankAt k with waiting := seat k (u.bankAt k).waiting }).bankAt j =
      if j = k then { u.bankAt k with waiting := seat k (u.bankAt k).waiting } else b.bankAt j := fun j => by
    split
    next e => rw [e, Block.setBank_bankAt_same]
    next e => rw [Block.setBank_bankAt_ne _ _ _ _ e, hother j e]
  refine ⟨⟨fun j hj => ?_, fun j hj => ?_, ?_⟩, fun j hj l hl => ?_⟩
  · rw [hat]
    split
    · dsimp only
      rw [hwait]
      rfl
    · exact hi.waiting j hj
  · rw [hat]
    split
    next e => exact hrepair.trans (hi.repair k (e ▸ hj))
    · exact hi.repair j hj
  · show u.dram.waiting = []
    rw [hdram]
    exact hi.dram
  · rw [hat]
    split
    next e =>
      dsimp only
      rw [hbad, Tab.get_put_ne _ _ _ _ _ (hl e), e]
    · rfl

/-! ## A line read without success -/

/-- A read whose line is damaged and has no second source (R213), or that the DRAM answers with an error (R520). -/
theorem now_lost {words : BitVec 8} {second : Bool} (hi : Idle b) (hs : b.servesAt a) (hsound : b.lineSound a)
    (hline : a % 64 + n ≤ 64) (hc : cls < 6) (hwords : words ≠ 0)
    (hsrc : ∀ k, b.target a = .carafe k → (b.bankAt k).src.look (a / 64 % 2 ^ 14) = none) :
    ∃ b', b.now (dmaReq rq .read a n [] cls) (.uncorrectable second words) = (b', .lost) ∧ LostOn a b b' := by
  have hacc : Accessed b (b.now (dmaReq rq .read a n [] cls) (.uncorrectable second words)).1 :=
    now_accessed b _ (by rintro ⟨_, _, h⟩; cases h)
  obtain ⟨k, ht⟩ | ⟨o, ht⟩ := hs
  · obtain ⟨p, rr, hpick, hnow⟩ := bankNow_step (q := dmaReq rq .read a n [] cls) (.uncorrectable second words) hi ht rfl
      (by decide : 0 < 16) hc (whole_in_line hi ht hsound hline)
    let q : Req := { dmaReq rq .read a n [] cls with reply := .now, place := p }
    have htwo : q.two = false := two_in_line (rq := rq) (cls := cls) (kind := .read) (data := []) hline
    have hnone : (((b.alone k q).taken k q rr).bankAt k).src.look q.line = none := by
      rw [taken_src, alone_bank]
      exact hsrc k ht
    have hdo : ((b.alone k q).taken k q rr).bankDo k q (.uncorrectable second words) =
        ((b.alone k q).lostLine k q rr words.toNat, .lost) := by
      rw [bankDo_read_damaged rfl hwords (findLine_in_line htwo second), hnone]
      rfl
    have hstep := bankStep_picked hpick hdo
    rw [if_neg (by decide)] at hstep
    obtain ⟨hidle, hbad⟩ := lostLine_leaves (k := k) hi q rr words.toNat
    have hrun : b.now (dmaReq rq .read a n [] cls) (.uncorrectable second words) =
        (((b.alone k q).lostLine k q rr words.toNat).setBank k { ((b.alone k q).lostLine k q rr words.toNat).bankAt k with
          waiting := seat k (((b.alone k q).lostLine k q rr words.toNat).bankAt k).waiting }, .lost) := by
      unfold Block.now
      rw [show (dmaReq rq .read a n [] cls).addr = a from rfl, ht]
      refine hnow.trans ?_
      rw [hstep]
      rfl
    obtain ⟨hmem, heng, -, hresps⟩ := taken_same (b.alone k q) k q rr
    obtain ⟨hmem', heng', -, hresps'⟩ := unrepairable_same (((b.alone k q).taken k q rr).markBad k q.line words.toNat) k q.line false false
    refine ⟨_, hrun, by rw [hrun] at hacc; exact hacc, hidle, hmem'.trans hmem, heng'.trans heng, hresps'.trans hresps, fun j hj l hl => ?_⟩
    exact hbad j hj l fun e => hl (e ▸ ht)
  · have hturn := dramTurned_readOn hi (dmaReq rq .read a n [] cls)
    have hfails : readFails (.uncorrectable second words) = true := bne_iff_ne.mpr hwords
    have hnow := dramNow_idle (q := dmaReq rq .read a n [] cls) hi ht true
    rw [if_pos rfl] at hnow
    refine ⟨_, ?_, hturn.lostOn a⟩
    unfold Block.now
    rw [show (dmaReq rq .read a n [] cls).addr = a from rfl, ht]
    dsimp only
    rw [hfails]
    exact hnow

/-! ## A line read that waits for its repair -/

/-- A read of a damaged line with a second source is withdrawn; the line is under repair (R211, R212). -/
theorem now_repair {words : BitVec 8} {second : Bool} (hi : Idle b) (ht : b.target a = .carafe k) (hsound : b.lineSound a)
    (hline : a % 64 + n ≤ 64) (hc : cls < 6) (hwords : words ≠ 0) (hsrc : (b.bankAt k).src.look (a / 64 % 2 ^ 14) ≠ none) :
    ∃ b', b.now (dmaReq rq .read a n [] cls) (.uncorrectable second words) = (b', .later) ∧ Accessed b b' ∧
      (b'.bankAt k).repair = [(a / 64 % 2 ^ 14, false)] ∧ b'.mem = b.mem := by
  have hk := target_carafe_lt ht
  have hacc : Accessed b (b.now (dmaReq rq .read a n [] cls) (.uncorrectable second words)).1 :=
    now_accessed b _ (by rintro ⟨_, _, h⟩; cases h)
  obtain ⟨p, rr, hpick, hnow⟩ := bankNow_step (q := dmaReq rq .read a n [] cls) (.uncorrectable second words) hi ht rfl
    (by decide : 0 < 16) hc (whole_in_line hi ht hsound hline)
  let q : Req := { dmaReq rq .read a n [] cls with reply := .now, place := p }
  let u := (((b.alone k q).taken k q rr).markBad k q.line words.toNat).beginRepair k q.line
  have htwo : q.two = false := two_in_line (rq := rq) (cls := cls) (kind := .read) (data := []) hline
  have hsome : (((b.alone k q).taken k q rr).bankAt k).src.look q.line ≠ none := by
    rw [taken_src, alone_bank]
    exact hsrc
  have hdo : ((b.alone k q).taken k q rr).bankDo k q (.uncorrectable second words) = (u, .later) := by
    rw [bankDo_read_damaged rfl hwords (findLine_in_line htwo second)]
    exact if_pos (Option.isSome_iff_ne_none.mpr hsome)
  have hstep := bankStep_picked hpick hdo
  rw [if_pos rfl] at hstep
  have hrun : b.now (dmaReq rq .read a n [] cls) (.uncorrectable second words) =
      ((u.setBank k { u.bankAt k with waiting := ((b.alone k q).bankAt k).deferring q }).bankWithdraw k, .later) := by
    unfold Block.now
    rw [show (dmaReq rq .read a n [] cls).addr = a from rfl, ht]
    refine hnow.trans ?_
    rw [hstep]
    rfl
  have hmem : u.mem = b.mem := (taken_same (b.alone k q) k q rr).1
  have hrep : (u.bankAt k).repair = [(q.line, false)] := by
    have hold : ((((b.alone k q).taken k q rr).markBad k q.line words.toNat).bankAt k).repair = [] := by
      rw [markBad_bank, taken_bankAt]
      exact (congrArg Bank.repair (alone_bank b k q)).trans (hi.repair k hk)
    rw [beginRepair_bank]
    dsimp only
    rw [hold]
    rfl
  refine ⟨_, hrun, by rw [hrun] at hacc; exact hacc, ?_, hmem⟩
  unfold Block.bankWithdraw
  rw [Block.setBank_bankAt_same, Block.setBank_bankAt_same]
  exact hrep

end

end Sys2Proof.Machine
end

section
/-! The line by line reads and writes of a DMA where nothing else waits (R22, R199, R200, R495). -/
namespace Sys2Proof.Machine

/-! ## The lines of a range -/

theorem lineParts_step {fuel a n : Nat} (h : n ≠ 0) :
    lineParts (fuel + 1) a n = (a, min n (64 - a % 64)) :: lineParts fuel (a + min n (64 - a % 64)) (n - min n (64 - a % 64)) :=
  if_neg h

theorem lineParts_line {fuel a n : Nat} (h : n ≠ 0) (hline : a % 64 + n ≤ 64) : lineParts (fuel + 1) a n = [(a, n)] := by
  rw [lineParts_step h, Nat.min_eq_left (by omega), Nat.sub_self]
  cases fuel <;> rfl

/-- What a range of at least two lines leaves after its first. -/
theorem parts_rest {a n fuel : Nat} (h : a % 64 + n ≤ 64 * (fuel + 1)) :
    (a + min n (64 - a % 64)) % 64 + (n - min n (64 - a % 64)) ≤ 64 * fuel ∨ n - min n (64 - a % 64) = 0 := by
  omega

section
variable {b : Block} {rq cls : Nat}

theorem servesAt_iff (b : Block) (a : Nat) : b.servesAt a ↔ a < 0x4000000 ∨ dramBase ≤ a ∧ a - dramBase < b.dramSize := by
  unfold Block.servesAt Block.target
  constructor
  · rintro (⟨k, h⟩ | ⟨o, h⟩)
    all_goals
      split at h
      · exact .inl ‹_›
      · split at h
        · cases h
        · split at h
          · cases h
          · split at h
            · exact .inr ‹_›
            · cases h
  · rintro (h | ⟨h, h'⟩)
    · exact .inl ⟨_, if_pos h⟩
    · have hbase : dramBase = 0x100000000 := rfl
      refine .inr ⟨a - dramBase, ?_⟩
      rw [if_neg (by omega), if_neg (by omega), if_neg (by omega), if_pos ⟨h, h'⟩]

theorem servesAt_of_match {a : Nat} (h : (match b.target a with
    | .carafe _ | .dram _ => true
    | _ => false) = true) : b.servesAt a := by
  unfold Block.servesAt
  generalize b.target a = t at h
  cases t with
  | carafe k => exact .inl ⟨k, rfl⟩
  | dram o => exact .inr ⟨o, rfl⟩
  | _ => cases h

/-- A range that is reachable is served at every byte, where it is not longer than a bank. -/
theorem servesAt_of_reachable {a n : Nat} (h : b.reachable a n = true) (hn : n ≤ 2 ^ 20) {x : Nat} (hx : a ≤ x ∧ x < a + n) :
    b.servesAt x := by
  unfold Block.reachable at h
  simp only [Bool.and_eq_true] at h
  obtain ⟨⟨hfirst, -⟩, hlast⟩ := h
  have hfirst := (servesAt_iff b a).mp (servesAt_of_match hfirst)
  have hlast := (servesAt_iff b (a + n - 1)).mp (servesAt_of_match hlast)
  rw [servesAt_iff]
  have hbase : dramBase = 0x100000000 := rfl
  omega

theorem servesAt_head {a n : Nat} (h : b.reachable a n = true) : b.servesAt a := by
  unfold Block.reachable at h
  simp only [Bool.and_eq_true] at h
  exact servesAt_of_match h.1.1

/-! ## Reads -/

theorem dmaLines_read (fuel : Nat) {a n : Nat} (hi : Idle b) (hfuel : a % 64 + n ≤ 64 * fuel ∨ n = 0) (hc : cls < 6)
    (hx : ∀ x, a ≤ x → x < a + n → b.servesAt x ∧ b.lineSound x) :
    ∃ b', Block.dmaLines rq cls .clean (lineParts fuel a n) b = (b', .data (b.mem.bytes a n)) ∧ ReadOn b b' := by
  induction fuel generalizing a n b with
  | zero =>
    obtain rfl : n = 0 := by omega
    exact ⟨b, rfl, .refl hi⟩
  | succ fuel ih =>
    by_cases hn : n = 0
    · subst hn
      exact ⟨b, rfl, .refl hi⟩
    · have hfirst := hx a (Nat.le_refl a) (by omega)
      obtain ⟨c, hnow, hread⟩ := now_read (rq := rq) (n := min n (64 - a % 64)) hi hfirst.1 hfirst.2 (by omega) hc
      obtain ⟨d, hrest, hread'⟩ := ih (a := a + min n (64 - a % 64)) (n := n - min n (64 - a % 64)) hread.idle
        (parts_rest (by omega)) fun x h1 h2 =>
          ⟨hread.accessed.servesAt (hx x (by omega) (by omega)).1, hread.lineSound (hx x (by omega) (by omega)).2⟩
      refine ⟨d, ?_, hread.trans hread'⟩
      rw [lineParts_step hn]
      unfold Block.dmaLines
      rw [hnow]
      dsimp only
      rw [hrest]
      dsimp only
      rw [hread.mem, ← bytes_add, Nat.add_sub_of_le (Nat.min_le_left _ _)]

/-- A DMA read of sound lines where nothing else waits. -/
theorem dmaRead_sound {a n : Nat} (hi : Idle b) (hc : cls < 6) (hr : b.reachable a n = true) (hn : n ≤ 2 ^ 20)
    (hsound : ∀ x, a ≤ x → x < a + n → b.lineSound x) :
    ∃ b', b.dmaRead rq cls a n .clean = (b', .data (b.mem.bytes a n)) ∧ ReadOn b b' := by
  unfold Block.dmaRead
  rw [hr]
  exact dmaLines_read _ hi (.inl (by omega)) hc fun x h1 h2 => ⟨servesAt_of_reachable hr hn ⟨h1, h2⟩, hsound x h1 h2⟩

theorem dmaRead_still {a n : Nat} (hst : b.still) (hc : cls < 6) (hr : b.reachable a n = true) (hn : n ≤ 2 ^ 20) :
    ∃ b', b.dmaRead rq cls a n .clean = (b', .data (b.mem.bytes a n)) ∧ ReadOn b b' :=
  dmaRead_sound (idle_of_still hst) hc hr hn fun x _ _ => lineSound_of_still hst x

theorem LostOn.refl {a : Nat} (hi : Idle b) : LostOn a b b := (ReadOn.refl hi).lostOn a

/-- A DMA read that answers with an error. -/
theorem dmaRead_lost {a n : Nat} {find : BankFind} (hi : Idle b) (hc : cls < 6) (hn : n ≠ 0) (hsound : b.lineSound a)
    (h : b.readLost a n find) : ∃ b', b.dmaRead rq cls a n find = (b', .lost) ∧ LostOn a b b' := by
  unfold Block.dmaRead
  by_cases hr : b.reachable a n = true
  · obtain hno | ⟨second, words, rfl, hwords, hsrc⟩ := h
    · rw [hr] at hno
      cases hno
    · obtain ⟨c, hnow, hlost⟩ := now_lost (rq := rq) (n := min n (64 - a % 64)) (second := second) hi (servesAt_head hr) hsound
        (by omega) hc hwords hsrc
      refine ⟨c, ?_, hlost⟩
      rw [hr, lineParts_step hn]
      unfold Block.dmaLines
      rw [hnow]
      rfl
  · rw [Bool.not_eq_true] at hr
    rw [hr]
    exact ⟨b, rfl, .refl hi⟩

/-! ## Writes -/

theorem Mem.writes_append (m : Mem) (a : Nat) (d e : List Byte) : (m.writes a d).writes (a + d.length) e = m.writes a (d ++ e) := by
  induction d generalizing m a with
  | nil => rfl
  | cons v vs ih =>
    simp only [Mem.writes, List.cons_append, List.length_cons]
    rw [← ih, Nat.add_assoc, Nat.add_comm 1]

/-- From `b` to `b'` bytes have been written: nothing waits, no answer has come, no line has met damage, and of the engines at most
break notices have changed. -/
structure WroteOn (b b' : Block) : Prop where
  accessed : Accessed b b'
  idle : Idle b'
  resps : b'.resps = b.resps
  bad : ∀ j, (b.bankAt j).bad = [] → (b'.bankAt j).bad = []
  eng : EngNoticed b b'

theorem WroteOn.refl (hi : Idle b) : WroteOn b b := ⟨.refl b, hi, rfl, fun _ h => h, .refl b⟩

theorem WroteOn.trans {c d : Block} (h : WroteOn b c) (k : WroteOn c d) : WroteOn b d :=
  ⟨h.accessed.trans k.accessed, k.idle, k.resps.trans h.resps, fun j hj => k.bad j (h.bad j hj), h.eng.trans k.eng⟩

theorem ReadOn.wroteOn {b' : Block} (h : ReadOn b b') (hbad : ∀ j, (b.bankAt j).bad = [] → (b'.bankAt j).bad = []) : WroteOn b b' :=
  ⟨h.accessed, h.idle, h.resps, hbad, .of_same fun m => by unfold Block.engine; rw [h.eng]⟩

end

end Sys2Proof.Machine
end

section
/-! A DMA's writes where nothing else waits (R22, R199, R495). -/
namespace Sys2Proof.Machine

section
variable {b : Block} {rq cls : Nat}

/-- A request's effect on a block where nothing waits. -/
theorem store_wroteOn (hi : Idle b) (r a : Nat) (data : List Byte) (src : Option Nat) : WroteOn b (b.store r a data src) := by
  have hm := store_mild b r a data src
  exact ⟨store_accessed b r a data src, ⟨fun j hj => (hm.waiting j).trans (hi.waiting j hj),
    fun j hj => (hm.repair j).trans (hi.repair j hj), hm.dram.trans hi.dram⟩, (store_kept b r a data src).2.1, hm.bad, hm.eng⟩

theorem WroteOn.reseat {c : Block} {k : Nat} (hk : k < 64) (h : WroteOn b c) :
    WroteOn b (c.setBank k { c.bankAt k with waiting := seat k (c.bankAt k).waiting }) := by
  have hw : seat k (c.bankAt k).waiting = [] := by rw [h.idle.waiting k hk]; rfl
  refine ⟨h.accessed.setBank _ rfl, h.idle.setBank hw (h.idle.repair k hk), h.resps, fun j hj => ?_, h.eng⟩
  by_cases e : j = k
  · rw [e, Block.setBank_bankAt_same]
    exact h.bad k (e ▸ hj)
  · rw [Block.setBank_bankAt_ne _ _ _ _ e]
    exact h.bad j hj

theorem serving_alone (b : Block) (k : Nat) (q : Req) : (b.alone k q).serving k q = b.serving k q := by
  unfold Block.serving
  rw [alone_bank]
  unfold Block.alone
  dsimp only
  rw [Block.setBank_setBank]

theorem serving_wroteOn {k : Nat} (hk : k < 64) (hi : Idle b) (q : Req) : WroteOn b (b.serving k q) := by
  refine (serving_readOn hk hi q).wroteOn fun j hj => ?_
  rw [serving_bankAt]
  split
  next e => exact e ▸ hj
  · exact hj

theorem bankFlush_one {k : Nat} {q : Req} {rr : Bool} (hw : (b.bankAt k).waiting = [q]) (hrq : q.rq = rq)
    (hpick : b.bankPick k = some (q, rr)) : Block.bankFlush k rq 1 b = b.bankServe k .clean := by
  have hgo : ((b.bankAt k).waiting.all (·.rq != rq) || (b.bankPick k).isNone) = false := by
    rw [hw, hpick]
    simp [hrq]
  exact if_neg (by rw [hgo]; decide)

theorem dramFlush_one {q : Req} (h : b.dramNext rq = some q) : Block.dramFlush rq 1 b = (b.dramLeave q).present q := by
  unfold Block.dramFlush
  rw [h]
  rfl

/-- The write of a line's bytes at a bank. -/
theorem drainBank_write {k a : Nat} {data : List Byte} (hi : Idle b) (ht : b.target a = .carafe k) (hs : b.lineSound a)
    (hline : a % 64 + data.length ≤ 64) (hc : cls < 6) :
    ∃ b', (b.post (dmaReq rq .write a data.length data cls)).drainBank rq k = b' ∧ b'.mem = b.mem.writes a data ∧ WroteOn b b' := by
  have hk := target_carafe_lt ht
  obtain ⟨p, hp0, hpost⟩ := post_bank (q := dmaReq rq .write a data.length data cls) hi ht rfl hc
  let q : Req := { dmaReq rq .write a data.length data cls with place := p }
  have hpost : b.post (dmaReq rq .write a data.length data cls) = b.alone k q := hpost
  have hwait : ((b.alone k q).bankAt k).waiting = [q] := by rw [alone_bank]
  have hwhole : ((b.alone k q).bankAt k).whole q := by
    rw [alone_bank]
    exact whole_in_line (rq := rq) (cls := cls) (kind := .write) (data := data) hi ht hs hline
  have hpick := bankPick_alone hwait hp0 (by decide : 0 < 16) hwhole
  have hstep := bankStep_alone hwait hp0 (by decide : 0 < 16) hwhole
  have hturn := serving_wroteOn hk hi q
  have hstore := store_wroteOn hturn.idle rq a data none
  have hmem : (b.serving k q).mem = b.mem := (serving_readOn hk hi q).mem
  have hserve : (b.alone k q).bankServe k .clean =
      ((b.serving k q).store rq a data none).setBank k { ((b.serving k q).store rq a data none).bankAt k with
        waiting := seat k (((b.serving k q).store rq a data none).bankAt k).waiting } := by
    unfold Block.bankServe
    rw [hstep, serving_alone]
    rfl
  refine ⟨_, rfl, ?_⟩
  have hflush : Block.bankFlush k rq 1 (b.alone k q) = (b.alone k q).bankServe k .clean := bankFlush_one hwait rfl hpick
  unfold Block.drainBank
  rw [hpost, hwait]
  change (Block.bankFlush k rq 1 (b.alone k q)).mem = _ ∧ WroteOn b (Block.bankFlush k rq 1 (b.alone k q))
  rw [hflush, hserve]
  refine ⟨?_, (hturn.trans hstore).reseat hk⟩
  rw [← hmem]
  exact store_mem _ _ _ _ _

theorem dramLeave_wroteOn (hi : Idle b) (q : Req) :
    WroteOn b (({ b with dram := { b.dram with waiting := [q] } } : Block).dramLeave q) := by
  have hw := dramLeave_alone (b := { b with dram := { b.dram with waiting := [q] } }) (q := q) rfl
  exact ⟨((Accessed.refl b).setDram _).trans (dramLeave_accessed _ q), ⟨hi.waiting, hi.repair, hw⟩, rfl, fun _ h => h, .refl b⟩

theorem countDram_wroteOn (hi : Idle b) (a n : Nat) (rd wr : Bool) : WroteOn b (b.countDram a n rd wr) := by
  obtain ⟨hbank, hdram, -, heng, hresps⟩ := countDram_bank b a n rd wr
  refine ⟨countDram_accessed b a n rd wr, hi.of_same hbank (by rw [hdram]), hresps, fun j hj => ?_, .of_same fun m => ?_⟩
  · unfold Block.bankAt at hj ⊢
    rwa [hbank]
  · unfold Block.engine
    rw [heng]

theorem WroteOn.presented {c : Block} (h : WroteOn b c) (l : List Req) :
    WroteOn b { c with dram := { c.dram with presented := l } } :=
  ⟨h.accessed.setDram _, ⟨h.idle.waiting, h.idle.repair, h.idle.dram⟩, h.resps, h.bad, h.eng⟩

theorem present_write {q : Req} (hi : Idle b) (hkind : q.kind = .write) :
    (b.present q).mem = b.mem.writes q.addr q.data ∧ WroteOn b (b.present q) := by
  have hcount := countDram_wroteOn hi q.addr q.len q.kind.reads q.kind.writes
  have hmem : (b.countDram q.addr q.len q.kind.reads q.kind.writes).mem = b.mem := (countDram_bank b _ _ _ _).2.2.1
  unfold Block.present
  dsimp only
  generalize b.countDram q.addr q.len q.kind.reads q.kind.writes = c at hcount hmem
  rw [effect_write hkind]
  refine ⟨?_, (hcount.trans (store_wroteOn hcount.idle _ _ _ _)).presented _⟩
  rw [← hmem]
  exact store_mem _ _ _ _ _

/-- The write of a line's bytes at the DRAM Port. -/
theorem drainDram_write {o a : Nat} {data : List Byte} (hi : Idle b) (ht : b.target a = .dram o) :
    ∃ b', (b.post (dmaReq rq .write a data.length data cls)).drainDram rq = b' ∧ b'.mem = b.mem.writes a data ∧ WroteOn b b' := by
  let q : Req := dmaReq rq .write a data.length data cls
  have hleave : WroteOn b (({ b with dram := { b.dram with waiting := [q] } } : Block).dramLeave q) := dramLeave_wroteOn hi q
  obtain ⟨hmem, hw⟩ := present_write (q := q) hleave.idle rfl
  have hnext : ({ b with dram := { b.dram with waiting := [q] } } : Block).dramNext rq = some q :=
    dramNext_alone (b := { b with dram := { b.dram with waiting := [q] } }) (q := q) rfl
  refine ⟨_, rfl, ?_⟩
  unfold Block.drainDram
  rw [post_dram hi ht]
  change (Block.dramFlush rq 1 { b with dram := { b.dram with waiting := [q] } }).mem = _ ∧
    WroteOn b (Block.dramFlush rq 1 { b with dram := { b.dram with waiting := [q] } })
  rw [dramFlush_one hnext]
  exact ⟨hmem, hleave.trans hw⟩

/-- The write of one part of a DMA's bytes. -/
theorem dmaPut_write {a n o : Nat} {d : List Byte} (hi : Idle b) (hs : b.servesAt a) (hsound : b.lineSound a)
    (hline : a % 64 + n ≤ 64) (hlen : o + n ≤ d.length) (hc : cls < 6) :
    (Block.dmaPut rq cls d b (a, n, o)).mem = b.mem.writes a ((d.drop o).take n) ∧ WroteOn b (Block.dmaPut rq cls d b (a, n, o)) := by
  have hn : ((d.drop o).take n).length = n := by rw [List.length_take, List.length_drop]; omega
  obtain ⟨k, ht⟩ | ⟨u, ht⟩ := hs
  · obtain ⟨b', hb', h⟩ := drainBank_write (rq := rq) (cls := cls) (data := (d.drop o).take n) hi ht hsound (by omega) hc
    have hrun : Block.dmaPut rq cls d b (a, n, o) = b' := by
      rw [← hb', hn]
      unfold Block.dmaPut
      dsimp only
      rw [(post_accessed b _).target, ht]
    rw [hrun]
    exact h
  · obtain ⟨b', hb', h⟩ := drainDram_write (rq := rq) (cls := cls) (data := (d.drop o).take n) hi ht
    have hrun : Block.dmaPut rq cls d b (a, n, o) = b' := by
      rw [← hb', hn]
      unfold Block.dmaPut
      dsimp only
      rw [(post_accessed b _).target, ht]
    rw [hrun]
    exact h

theorem foldl_dmaPut (fuel : Nat) {a n o : Nat} {d : List Byte} {base : Nat} (hi : Idle b) (hbad : ∀ k < 64, (b.bankAt k).bad = [])
    (hx : ∀ x, a ≤ x → x < a + n → b.servesAt x) (hfuel : a % 64 + n ≤ 64 * fuel ∨ n = 0) (ho : a = base + o) (hlen : o + n ≤ d.length)
    (hc : cls < 6) :
    let u := ((lineParts fuel a n).map fun p => (p.1, p.2, p.1 - base)).foldl (Block.dmaPut rq cls d) b
    u.mem = b.mem.writes a ((d.drop o).take n) ∧ WroteOn b u := by
  induction fuel generalizing a n o b with
  | zero =>
    obtain rfl : n = 0 := by omega
    exact ⟨by rw [List.take_zero]; rfl, .refl hi⟩
  | succ fuel ih =>
    by_cases hn : n = 0
    · subst hn
      exact ⟨by rw [List.take_zero]; rfl, .refl hi⟩
    · let k := min n (64 - a % 64)
      have hk : k ≤ n := Nat.min_le_left _ _
      have hsound : b.lineSound a := fun j ht => by
        rw [hbad j (target_carafe_lt ht)]
        rfl
      obtain ⟨hmem, hw⟩ := dmaPut_write (rq := rq) (n := k) (o := o) (d := d) hi (hx a (Nat.le_refl a) (by omega)) hsound (by omega)
        (by omega) hc
      obtain ⟨hmem', hw'⟩ := ih (b := Block.dmaPut rq cls d b (a, k, o)) (a := a + k) (n := n - k) (o := o + k) hw.idle
        (fun j hj => hw.bad j (hbad j hj)) (fun x h1 h2 => hw.accessed.servesAt (hx x (by omega) (by omega)))
        (parts_rest (by omega)) (by omega) (by omega)
      intro u
      have hu : u = ((lineParts fuel (a + k) (n - k)).map fun p => (p.1, p.2, p.1 - base)).foldl (Block.dmaPut rq cls d)
          (Block.dmaPut rq cls d b (a, k, o)) := by
        simp only [u]
        rw [lineParts_step hn, List.map_cons, List.foldl_cons]
        dsimp only
        rw [show a - base = o by omega]
      rw [hu]
      refine ⟨?_, hw.trans hw'⟩
      have hpart : ((d.drop o).take k).length = k := by rw [List.length_take, List.length_drop]; omega
      have hjoin := Mem.writes_append b.mem a ((d.drop o).take k) ((d.drop (o + k)).take (n - k))
      rw [hpart] at hjoin
      rw [hmem', hmem, hjoin, ← List.drop_drop, ← List.take_add, Nat.add_sub_of_le hk]

/-- A DMA write where nothing waits and no line is damaged. -/
theorem dmaWrite_sound {a : Nat} {d : List Byte} (hi : Idle b) (hbad : ∀ k < 64, (b.bankAt k).bad = []) (hc : cls < 6)
    (hr : b.reachable a d.length = true) (hn : d.length ≤ 2 ^ 20) :
    (b.dmaWrite rq cls a d).mem = b.mem.writes a d ∧ WroteOn b (b.dmaWrite rq cls a d) := by
  unfold Block.dmaWrite
  cases d with
  | nil => exact ⟨rfl, .refl hi⟩
  | cons v vs =>
    have hgo : ((v :: vs).isEmpty || !b.reachable a (v :: vs).length) = false := by rw [hr]; rfl
    rw [if_neg (by rw [hgo]; decide)]
    have h := foldl_dmaPut (rq := rq) (d := v :: vs) (base := a) (o := 0) ((v :: vs).length / 64 + 2) hi hbad
      (fun x h1 h2 => servesAt_of_reachable hr hn ⟨h1, h2⟩) (.inl (by omega)) rfl (by omega) hc
    rw [List.drop_zero, List.take_length] at h
    exact h

theorem dmaWrite_still {a : Nat} {d : List Byte} (hst : b.still) (hc : cls < 6) (hr : b.reachable a d.length = true)
    (hn : d.length ≤ 2 ^ 20) : (b.dmaWrite rq cls a d).mem = b.mem.writes a d ∧ WroteOn b (b.dmaWrite rq cls a d) :=
  dmaWrite_sound (idle_of_still hst) (fun k hk => (hst.1 k hk).2.2) hc hr hn

/-- A DMA write within one sound line where nothing waits. -/
theorem dmaWrite_line {a : Nat} {d : List Byte} (hi : Idle b) (hsound : b.lineSound a) (hc : cls < 6)
    (hr : b.reachable a d.length = true) (hline : a % 64 + d.length ≤ 64) :
    (b.dmaWrite rq cls a d).mem = b.mem.writes a d ∧ WroteOn b (b.dmaWrite rq cls a d) := by
  unfold Block.dmaWrite
  cases d with
  | nil => exact ⟨rfl, .refl hi⟩
  | cons v vs =>
    have hgo : ((v :: vs).isEmpty || !b.reachable a (v :: vs).length) = false := by rw [hr]; rfl
    rw [if_neg (by rw [hgo]; decide), lineParts_line (n := (v :: vs).length) (Nat.succ_ne_zero _) hline]
    have h := dmaPut_write (rq := rq) (n := (v :: vs).length) (o := 0) (d := v :: vs) hi (servesAt_head hr) hsound hline (by omega) hc
    rw [List.drop_zero, List.take_length] at h
    simp only [List.map_cons, List.map_nil, List.foldl_cons, List.foldl_nil, Nat.sub_self]
    exact h

theorem wrote_of_mem {b' : Block} {a : Nat} {d : List Byte} (h : b'.mem = b.mem.writes a d) : Wrote a d b b' := by
  unfold Wrote
  rw [h]
  exact ⟨Mem.bytes_writes _ _ _, fun x hx => Mem.read_writes_out _ _ _ _ hx⟩

end

end Sys2Proof.Machine
end

section
/-! The DRAM Port's requests and responses, and the host's outbound reads (R20, R494, R495, R520, R521). -/
namespace Sys2Proof.Machine

/-! ## The next request of a channel (R20) -/

/-- Of a list the requests before which none of the same requester stands. -/
theorem mem_firstsOf {seen : List Nat} {l : List Req} {y : Req} :
    y ∈ firstsOf seen l ↔ y.rq ∉ seen ∧ ∃ u v, l = u ++ y :: v ∧ ∀ z ∈ u, z.rq ≠ y.rq := by
  induction l generalizing seen with
  | nil => simp [firstsOf]
  | cons q l ih =>
    unfold firstsOf
    constructor
    · intro h
      split at h
      next hq =>
        obtain ⟨hs, u, v, rfl, hu⟩ := ih.mp h
        refine ⟨hs, q :: u, v, rfl, fun z hz => ?_⟩
        obtain rfl | hz := List.mem_cons.mp hz
        · exact fun e => hs (e ▸ List.contains_iff_mem.mp hq)
        · exact hu z hz
      next hq =>
        obtain rfl | h := List.mem_cons.mp h
        · exact ⟨fun e => hq (List.contains_iff_mem.mpr e), [], l, rfl, nofun⟩
        · obtain ⟨hs, u, v, rfl, hu⟩ := ih.mp h
          refine ⟨fun e => hs (List.mem_cons_of_mem _ e), q :: u, v, rfl, fun z hz => ?_⟩
          obtain rfl | hz := List.mem_cons.mp hz
          · exact fun e => hs (e ▸ List.mem_cons_self)
          · exact hu z hz
    · rintro ⟨hs, u, v, hl, hu⟩
      cases u with
      | nil =>
        obtain ⟨rfl, rfl⟩ := List.cons.inj hl
        rw [if_neg fun e => hs (List.contains_iff_mem.mp e)]
        exact List.mem_cons_self
      | cons p u =>
        obtain ⟨rfl, rfl⟩ := List.cons.inj hl
        have hne : y.rq ≠ q.rq := fun e => hu q List.mem_cons_self e.symm
        have hrest : ∀ z ∈ u, z.rq ≠ y.rq := fun z hz => hu z (List.mem_cons_of_mem _ hz)
        split
        · exact ih.mpr ⟨hs, u, v, rfl, hrest⟩
        · exact List.mem_cons_of_mem _ (ih.mpr ⟨fun e => (List.mem_cons.mp e).elim hne hs, u, v, rfl, hrest⟩)

/-- A request that is the first of its requester and goes to channel `c`. -/
def DramPort.heads (d : DramPort) (c : Nat) (y : Req) : Prop :=
  ∃ l r, d.waiting = l ++ y :: r ∧ y.addr / 64 % 4 = c ∧ ∀ z ∈ l, z.rq ≠ y.rq

theorem heads_iff {d : DramPort} {c : Nat} {y : Req} : d.heads c y ↔ y ∈ (firstsOf [] d.waiting).filter (·.channel == c) := by
  rw [List.mem_filter, mem_firstsOf, beq_iff_eq]
  constructor
  · rintro ⟨l, r, hw, hc, hl⟩
    exact ⟨⟨List.not_mem_nil, l, r, hw, hl⟩, hc⟩
  · rintro ⟨⟨-, l, r, hw, hl⟩, hc⟩
    exact ⟨l, r, hw, hc, hl⟩

section
variable {b : Block} {c : Nat} {q : Req}

theorem dramPick_heads (h : b.dramPick c = some q) : b.dram.heads c q ∧
    ∀ y, b.dram.heads c y → rrAfter (b.dram.last.get c 75) q.rq ≤ rrAfter (b.dram.last.get c 75) y.rq := by
  unfold Block.dramPick at h
  exact ⟨heads_iff.mpr (rrFirst_mem h), fun y hy => rrFirst_le h y (heads_iff.mp hy)⟩

theorem dramPick_ne_none (h : ∃ y, b.dram.heads c y) : b.dramPick c ≠ none := by
  obtain ⟨y, hy⟩ := h
  have hsome := rrFirst_isSome (last := b.dram.last.get c 75) (List.ne_nil_of_mem (heads_iff.mp hy))
  exact Option.isSome_iff_ne_none.mp hsome

/-! ## A request presented (R495, R520) -/

theorem touchLines_dram (rq : Nat) (src : Option Nat) (fuel a n : Nat) (b : Block) :
    (Block.touchLines rq src fuel a n b).dram.presented = b.dram.presented ∧
    (Block.touchLines rq src fuel a n b).dram.last = b.dram.last := by
  have hbreak : ∀ (b : Block) (k line : Nat), (b.breakBank k line rq).dram = b.dram := fun b k line => by
    unfold Block.breakBank
    dsimp only
    split
    · rfl
    · exact List.foldlRecOn (motive := fun c : Block => c.dram = b.dram) _ _ rfl fun c hc p _ => hc
  have hline : ∀ (b : Block) (a n : Nat), (b.touchLine rq a n src).dram.presented = b.dram.presented ∧
      (b.touchLine rq a n src).dram.last = b.dram.last := fun b a n => by
    unfold Block.touchLine
    split
    · exact ⟨congrArg DramPort.presented (hbreak b _ _), congrArg DramPort.last (hbreak b _ _)⟩
    · exact ⟨rfl, rfl⟩
    · exact ⟨rfl, rfl⟩
  induction fuel generalizing a n b with
  | zero => exact ⟨rfl, rfl⟩
  | succ fuel ih =>
    unfold Block.touchLines
    split
    · exact ⟨rfl, rfl⟩
    · exact ⟨(ih _ _ _).1.trans (hline b a _).1, (ih _ _ _).2.trans (hline b a _).2⟩

theorem present_read (hkind : q.kind = .read) :
    (b.present q).dram = { b.dram with presented := b.dram.presented ++ [{ q with data := b.mem.bytes q.addr q.len }] } ∧
      (b.present q).mem = b.mem ∧ (b.present q).isSealed = b.isSealed := by
  obtain ⟨-, hdram, hmem, -, -⟩ := countDram_bank b q.addr q.len q.kind.reads q.kind.writes
  have hsealed := (countDram_accessed b q.addr q.len q.kind.reads q.kind.writes).isSealed
  unfold Block.present
  dsimp only
  generalize b.countDram q.addr q.len q.kind.reads q.kind.writes = u at hdram hmem hsealed
  rw [effect_read hkind]
  dsimp only
  rw [hdram, hmem]
  exact ⟨rfl, rfl, hsealed⟩

theorem present_written (hkind : q.kind = .write) :
    (b.present q).dram.waiting = b.dram.waiting ∧ (b.present q).dram.presented = b.dram.presented ++ [{ q with data := [] }] ∧
      (b.present q).dram.last = b.dram.last ∧ (b.present q).mem = b.mem.writes q.addr q.data ∧ (b.present q).isSealed = b.isSealed := by
  have hsealed := (present_accessed b q).isSealed
  obtain ⟨-, hdram, hmem, -, -⟩ := countDram_bank b q.addr q.len q.kind.reads q.kind.writes
  unfold Block.present at hsealed ⊢
  dsimp only at hsealed ⊢
  generalize b.countDram q.addr q.len q.kind.reads q.kind.writes = u at hdram hmem hsealed
  rw [effect_write hkind] at hsealed ⊢
  obtain ⟨hpresented, hlast⟩ := touchLines_dram q.rq none (q.data.length / 64 + 2) q.addr q.data.length u
  refine ⟨(store_mild u _ _ _ _).dram.trans (congrArg DramPort.waiting hdram), ?_, hlast.trans (congrArg DramPort.last hdram), ?_,
    hsealed⟩
  · exact congrArg (· ++ [{ q with data := [] }]) (hpresented.trans (congrArg DramPort.presented hdram))
  · rw [← hmem]
    exact store_mem _ _ _ _ _

theorem channel_of_pick (h : b.dramPick c = some q) : q.channel = c := (dramPick_heads h).1.elim fun _ ⟨_, _, hc, _⟩ => hc

end

section
variable {s : State} {c : Fin 4} {q : Req}

theorem gives_dramPort_idle (h : s.blk.dramPick c.val = none) : Gives (.dramPortRequest c) s (Same s) := by
  refine gives_of_done (b := s.blk) ?_ rfl rfl
  show execDramPortRequest c s = _
  unfold execDramPortRequest
  dsimp only
  rw [h]

theorem exec_dramPort (h : s.blk.dramPick c.val = some q) :
    exec (.dramPortRequest c) s = done s ((s.blk.dramLeave q).present q) := by
  show execDramPortRequest c s = _
  unfold execDramPortRequest
  dsimp only
  rw [h]

/-- What the DRAM Port shows of a request presented with `data` as what its response will bring. -/
def Block.shows (b : Block) (c : Nat) (q : Req) (data : List Byte) (u : Block) : Prop :=
  u.dram.waiting = removeReq q b.dram.waiting ∧ u.dram.presented = b.dram.presented ++ [{ q with data := data }] ∧
    u.dram.last = b.dram.last.put c (arbNumber q.rq)

theorem gives_dramPort_read (h : s.blk.dramPick c.val = some q) (hkind : q.kind = .read) : Gives (.dramPortRequest c) s fun t =>
    s.blk.shows c.val q (s.blk.mem.bytes q.addr q.len) t.blk ∧ t.blk.mem = s.blk.mem := by
  obtain ⟨hdram, hmem, hsealed⟩ := present_read (b := s.blk.dramLeave q) hkind
  refine gives_of_done (exec_dramPort h) hsealed ⟨?_, hmem⟩
  unfold Block.shows
  dsimp only
  rw [hdram, ← channel_of_pick h]
  exact ⟨rfl, rfl, rfl⟩

theorem gives_dramPort_write (h : s.blk.dramPick c.val = some q) (hkind : q.kind = .write) : Gives (.dramPortRequest c) s fun t =>
    s.blk.shows c.val q [] t.blk ∧ Wrote q.addr q.data s.blk t.blk := by
  obtain ⟨hw, hp, hl, hmem, hsealed⟩ := present_written (b := s.blk.dramLeave q) hkind
  refine gives_of_done (exec_dramPort h) hsealed ⟨⟨hw, hp, ?_⟩, wrote_of_mem hmem⟩
  rw [← channel_of_pick h]
  exact hl

end

/-! ## A response (R495, R521) -/

section
variable {s : State} {k : BitVec 10} {q : Req}

/-- The DRAM Port when its request `k` has been answered. -/
def Block.undrammed (b : Block) (k : Nat) : Block := { b with dram := { b.dram with presented := b.dram.presented.eraseIdx k } }

/-- A request's answer joins those on their way. -/
def Block.repliesTo (b : Block) (q : Req) (data : List Byte) (bad : Bool) (u : Block) : Prop := u.resps = b.resps ++
  (if q.reply = .none ∨ q.reply = .now then [] else [⟨q.rq, q.reply, q.addr, data, bad, [], q.cls⟩])

theorem answer_fields (b : Block) (q : Req) (d : List Byte) (bad : Bool) : (b.answer q d bad).isSealed = b.isSealed ∧
    (b.answer q d bad).dram = b.dram ∧ (b.answer q d bad).mem = b.mem ∧ (b.answer q d bad).regs = b.regs := by
  have h := answer_beside b q d bad
  have h1 := congrArg Block.isSealed h
  have h2 := congrArg Block.dram h
  have h3 := congrArg Block.mem h
  have h4 := congrArg Block.regs h
  exact ⟨h1, h2, h3, h4⟩

theorem gives_dramResponse_stray (err : Bool) (h : s.blk.dram.presented[k.toNat]? = none) : Gives (.dramResponse k err) s (Same s) := by
  refine gives_of_done (b := s.blk) ?_ rfl rfl
  show execDramResponse k err s = _
  unfold execDramResponse
  dsimp only
  rw [h]

/-- What a response with an error makes of a request's account: an answer, or for want of one an engine's WRERR. -/
def Block.failed (b : Block) (q : Req) : Block :=
  if q.reply = .none then if q.kind.writes && decide (q.rq < 72) then b.wrErr q.rq else b else b.answer q [] true

theorem exec_dramResponse (err : Bool) (h : s.blk.dram.presented[k.toNat]? = some q) : exec (.dramResponse k err) s = done s
    (if err = false then (s.blk.undrammed k.toNat).answer q q.data false
      else (if q.kind.writes then (s.blk.undrammed k.toNat).scramble q.addr q.len else s.blk.undrammed k.toNat).failed q) := by
  show execDramResponse k err s = _
  unfold execDramResponse
  dsimp only
  rw [h]
  dsimp only
  unfold Block.failed Block.undrammed
  cases err
  · rfl
  · cases q.reply <;> rfl

theorem gives_dramResponse_data (h : s.blk.dram.presented[k.toNat]? = some q) : Gives (.dramResponse k false) s fun t =>
    t.blk.dram = (s.blk.undrammed k.toNat).dram ∧ s.blk.repliesTo q q.data false t.blk ∧ t.blk.mem = s.blk.mem ∧
      t.blk.regs = s.blk.regs := by
  obtain ⟨hsealed, hdram, hmem, hregs⟩ := answer_fields (s.blk.undrammed k.toNat) q q.data false
  have hx := exec_dramResponse false h
  rw [if_pos rfl] at hx
  exact gives_of_done hx hsealed ⟨hdram, answer_resps _ _ _ _, hmem, hregs⟩

theorem failed_answers (b : Block) (hw : q.kind.writes = false) : (b.failed q).isSealed = b.isSealed ∧ (b.failed q).dram = b.dram ∧
    b.repliesTo q [] true (b.failed q) ∧ (b.failed q).mem = b.mem ∧ (b.failed q).regs = b.regs := by
  unfold Block.failed Block.repliesTo
  split
  next hr =>
    rw [hw, Bool.false_and, if_neg Bool.false_ne_true, if_pos (Or.inl hr)]
    exact ⟨rfl, rfl, (List.append_nil _).symm, rfl, rfl⟩
  · obtain ⟨hsealed, hdram, hmem, hregs⟩ := answer_fields b q [] true
    exact ⟨hsealed, hdram, answer_resps _ _ _ _, hmem, hregs⟩

theorem gives_dramResponse_error (h : s.blk.dram.presented[k.toNat]? = some q) (hw : q.kind.writes = false) :
    Gives (.dramResponse k true) s fun t => t.blk.dram = (s.blk.undrammed k.toNat).dram ∧ s.blk.repliesTo q [] true t.blk ∧
      t.blk.mem = s.blk.mem ∧ t.blk.regs = s.blk.regs := by
  obtain ⟨hsealed, hrest⟩ := failed_answers (s.blk.undrammed k.toNat) hw
  have hx := exec_dramResponse true h
  rw [if_neg (by decide), hw, if_neg (by decide)] at hx
  exact gives_of_done hx hsealed hrest

/-- The block in which a write could not be confirmed. -/
theorem scramble_eq (b : Block) (a n : Nat) : ∃ d, d.length = 64 * ((a + n - 1) / 64 - a / 64 + 1) ∧
    b.scramble a n = { b with mem := b.mem.writes (a / 64 * 64) d, fresh := b.fresh + 1 } := by
  refine ⟨b.freeBytes (64 * ((a + n - 1) / 64 - a / 64 + 1)), ?_, rfl⟩
  unfold Block.freeBytes
  rw [List.length_map, List.length_range]

theorem gives_dramResponse_unwritten (h : s.blk.dram.presented[k.toNat]? = some q) (hw : q.kind.writes = true) (hlen : 1 ≤ q.len) :
    Gives (.dramResponse k true) s fun t => t.blk.dram = (s.blk.undrammed k.toNat).dram ∧ s.blk.repliesTo q [] true t.blk ∧
      (∀ j, j < q.addr / 64 * 64 ∨ (q.addr + q.len - 1) / 64 * 64 + 64 ≤ j → t.blk.mem.read j = s.blk.mem.read j) ∧
      (q.reply = .none → q.rq < 72 → t.blk.get (R.ENG_USTAT_WRERR q.rq) = 1 ∧
        OnlyFields [R.ENG_USTAT_WRERR q.rq] { s.blk with dram := t.blk.dram, mem := t.blk.mem, fresh := t.blk.fresh } t.blk) := by
  obtain ⟨d, hd, hs⟩ := scramble_eq (s.blk.undrammed k.toNat) q.addr q.len
  let u : Block := { s.blk.undrammed k.toNat with mem := s.blk.mem.writes (q.addr / 64 * 64) d, fresh := s.blk.fresh + 1 }
  have hu : (s.blk.undrammed k.toNat).scramble q.addr q.len = u := hs
  have hmem : ∀ j, j < q.addr / 64 * 64 ∨ (q.addr + q.len - 1) / 64 * 64 + 64 ≤ j → u.mem.read j = s.blk.mem.read j :=
    fun j hj => Mem.read_writes_out _ _ _ _ (by omega)
  have hx := exec_dramResponse true h
  rw [if_neg (by decide), hw, if_pos rfl, hu] at hx
  by_cases hr : q.reply = .none
  · by_cases hrq : q.rq < 72
    · have hf : u.failed q = u.put (R.ENG_USTAT_WRERR q.rq) 1 := by
        unfold Block.failed
        rw [if_pos hr, hw, decide_eq_true hrq]
        rfl
      rw [hf] at hx
      refine gives_of_done hx rfl ⟨rfl, ?_, hmem, fun _ _ => ⟨Block.get_put_same _ _ _, ?_⟩⟩
      · unfold Block.repliesTo
        rw [if_pos (.inl hr)]
        exact (List.append_nil _).symm
      · exact (OnlyFields.refl [R.ENG_USTAT_WRERR q.rq] u).put (List.mem_singleton.mpr rfl) 1
    · have hf : u.failed q = u := by
        unfold Block.failed
        rw [if_pos hr, decide_eq_false hrq, Bool.and_false, if_neg (by decide)]
      rw [hf] at hx
      refine gives_of_done hx rfl ⟨rfl, ?_, hmem, fun _ h => absurd h hrq⟩
      unfold Block.repliesTo
      rw [if_pos (.inl hr)]
      exact (List.append_nil _).symm
  · have hf : u.failed q = u.answer q [] true := if_neg hr
    obtain ⟨hsealed, hdram, hmem', -⟩ := answer_fields u q [] true
    rw [hf] at hx
    exact gives_of_done hx hsealed ⟨hdram, answer_resps u _ _ _, fun j hj => by rw [hmem']; exact hmem j hj, fun h => absurd h hr⟩

end

end Sys2Proof.Machine
end

section
/-! The host's outbound reads, and the DRAM Port's statement (R494, R495, R520). -/
namespace Sys2Proof.Machine

section
variable {b : Block}

theorem countGlob_beside (b : Block) (code k : Nat) : (b.countGlob code k).isSealed = b.isSealed ∧
    (b.countGlob code k).ports = b.ports ∧ (b.countGlob code k).mem = b.mem ∧ (b.countGlob code k).eng = b.eng := by
  have h := countGlob_frame b code k
  have h1 := congrArg Block.isSealed h
  have h2 := congrArg Block.ports h
  have h3 := congrArg Block.mem h
  have h4 := congrArg Block.eng h
  exact ⟨h1, h2, h3, h4⟩

/-! ## The register window -/

/-- A read of the engine-free registers from 0x2000 up changes nothing. -/
theorem winRead_window {o : Nat} (h1 : 0x2000 ≤ o) (h2 : o < 0x3000) : (b.winRead rqHost o).1 = b := by
  have hturn : b.readTurn o = b := by
    unfold Block.readTurn
    rw [if_neg (by omega), if_neg (by omega)]
  have hnote : b.readNote o = b := if_neg (by omega)
  have heffect : b.readEffect o = b := by
    unfold Block.readEffect
    rw [if_neg (by omega), if_neg (by omega), if_neg (by omega), if_neg (by omega), if_neg (by omega), if_neg (by omega)]
  have hfree : readsFree o = false := by
    unfold readsFree
    rw [decide_eq_false (by omega), decide_eq_false (by omega)]
    rfl
  unfold Block.winRead
  rw [if_neg (by omega)]
  split
  · rfl
  · dsimp only
    rw [if_neg (show ¬rqHost = 75 by decide), if_neg (show ¬rqHost = 75 by decide), hturn, hnote, heffect, hfree]
    rfl

theorem hostWords_window (n : Nat) {o : Nat} (h1 : 0x2000 ≤ o) (h2 : o + 4 * n ≤ 0x3000) :
    Block.hostWords o n b = (b, (List.range n).flatMap fun i => leBytes (b.winRead rqHost (o + 4 * i)).2 4) := by
  induction n generalizing o with
  | zero => rfl
  | succ n ih =>
    unfold Block.hostWords
    dsimp only
    rw [winRead_window h1 (by omega), ih (by omega) (by omega), List.range_succ_eq_map, List.flatMap_cons, List.flatMap_map]
    simp only [Nat.mul_zero, Nat.add_zero, Nat.mul_succ, Nat.add_assoc, Nat.add_comm 4]

/-! ## Lines of the memory -/

/-- What the host's read finds of a line. -/
def lineFound (err : Bool) : BankFind := if err then .uncorrectable false 0xFF else .clean

theorem not_window_of_serves {a : Nat} (h : b.servesAt a) : ∀ j, b.target a ≠ .window j ∧ b.target a ≠ .tags j := by
  intro j
  obtain ⟨k, h⟩ | ⟨o, h⟩ := h
  · rw [h]
    exact ⟨nofun, nofun⟩
  · rw [h]
    exact ⟨nofun, nofun⟩

theorem hostLine_memory {a : Nat} (h : ∀ j, b.target a ≠ .window j ∧ b.target a ≠ .tags j) (err : Bool) : b.hostLine a err =
    match b.dmaRead rqHost 4 a 64 (lineFound err) with
    | (b, .data d) => some (b, d, false)
    | (b, .lost) => some (b.drawn, b.freeBytes 64, true)
    | (_, .later) => none := by
  unfold Block.hostLine lineFound
  generalize b.target a = t at h
  cases t with
  | window o => exact absurd rfl (h o).1
  | tags o => exact absurd rfl (h o).2
  | _ => rfl

theorem hostWaits_memory {a i : Nat} {errs : Nat → Bool} (h : ∀ j, b.target a ≠ .window j ∧ b.target a ≠ .tags j) :
    Block.hostWaits errs 1 i a b = (b.dmaRead rqHost 4 a 64 (lineFound (errs i))).1 := by
  unfold Block.hostWaits Block.hostWaits lineFound
  generalize b.target a = t at h
  cases t with
  | window o => exact absurd rfl (h o).1
  | tags o => exact absurd rfl (h o).2
  | _ => rfl

theorem hostLines_one (errs : Nat → Bool) (i a : Nat) :
    Block.hostLines errs 1 i a b = (b.hostLine a (errs i)).map fun r => (r.1, [r.2]) := by
  unfold Block.hostLines Block.hostLines
  cases b.hostLine a (errs i) <;> rfl

theorem hostLines_read {errs : Nat → Bool} (n : Nat) {i a : Nat} (hi : Idle b) (hs : ∀ x, b.lineSound x)
    (h : ∀ j < n, errs (i + j) = false ∧ b.reachable (a + 64 * j) 64 = true) :
    ∃ b', Block.hostLines errs n i a b = some (b', (List.range n).map fun j => (b.mem.bytes (a + 64 * j) 64, false)) ∧ ReadOn b b' := by
  induction n generalizing b i a with
  | zero => exact ⟨b, rfl, .refl hi⟩
  | succ n ih =>
    obtain ⟨herr, hr⟩ := h 0 (Nat.succ_pos n)
    rw [Nat.add_zero] at herr
    rw [Nat.mul_zero, Nat.add_zero] at hr
    obtain ⟨c, hread, hon⟩ := dmaRead_sound (rq := rqHost) (cls := 4) hi (by decide) hr (by decide) fun x _ _ => hs x
    have hreach : ∀ x, b.servesAt x → c.servesAt x := fun x => hon.accessed.servesAt
    have hrest : ∀ j < n, errs (i + 1 + j) = false ∧ b.reachable (a + 64 + 64 * j) 64 = true := fun j hj => by
      have hj' := h (j + 1) (by omega)
      rw [show i + (j + 1) = i + 1 + j by omega, show a + 64 * (j + 1) = a + 64 + 64 * j by omega] at hj'
      exact hj'
    have hsame : ∀ x m, c.reachable x m = b.reachable x m := fun x m => hon.accessed.reachable x m
    obtain ⟨d, hlines, hon'⟩ := ih (b := c) (i := i + 1) (a := a + 64) hon.idle (fun x => hon.lineSound (hs x)) fun j hj =>
      ⟨(hrest j hj).1, (hsame _ _).trans (hrest j hj).2⟩
    refine ⟨d, ?_, hon.trans hon'⟩
    unfold Block.hostLines
    rw [hostLine_memory (not_window_of_serves (servesAt_head hr)), herr, show lineFound false = .clean from rfl, hread]
    dsimp only
    rw [Option.bind_some, hlines, Option.map_some, hon.mem, List.range_succ_eq_map, List.map_cons, List.map_map]
    simp only [Function.comp_def, Nat.mul_zero, Nat.add_zero, Nat.mul_succ, Nat.add_assoc, Nat.add_comm 64]

end

/-! ## The commands -/

section
variable {s : State} {id : Byte} {addr : Addr} {lines : Byte} {errs : BitVec 255}

/-- Where an outbound read starts: at its line. -/
def lineOf (addr : Addr) : Nat := addr.toNat / 64 * 64

/-- The block when an outbound read has been answered. -/
def Block.outbound (b : Block) (id n : Nat) (l : List (List Byte × Bool)) : Block :=
  ({ b with ports := { b.ports with tx := some (id, l) } } : Block).countGlob 0x0F n

theorem outbound_fields (b : Block) (id n : Nat) (l : List (List Byte × Bool)) : (b.outbound id n l).isSealed = b.isSealed ∧
    (b.outbound id n l).ports.tx = some (id, l) ∧ (b.outbound id n l).mem = b.mem ∧ (b.outbound id n l).eng = b.eng := by
  obtain ⟨h1, h2, h3, h4⟩ := countGlob_beside { b with ports := { b.ports with tx := some (id, l) } } 0x0F n
  exact ⟨h1, congrArg Ports.tx h2, h3, h4⟩

theorem gives_outbound_drips (h : s.blk.drips = true) : Gives (.outboundRead id addr lines errs) s (Same s) := by
  refine gives_of_done (b := s.blk) ?_ rfl rfl
  exact congrArg (done s) (if_pos h)

theorem exec_outbound {c : Block} {l : List (List Byte × Bool)} (h : s.blk.drips = false)
    (hl : Block.hostLines errs.getLsbD lines.toNat 0 (lineOf addr) s.blk = some (c, l)) :
    exec (.outboundRead id addr lines errs) s = done s (c.outbound id.toNat lines.toNat l) := by
  refine congrArg (done s) ((if_neg (by rw [h]; decide)).trans ?_)
  unfold lineOf at hl
  rw [hl]
  rfl

theorem gives_outbound_read (h : s.blk.drips = false) (hst : s.blk.still)
    (hx : ∀ i < lines.toNat, errs.getLsbD i = false ∧ s.blk.reachable (lineOf addr + 64 * i) 64 = true) :
    Gives (.outboundRead id addr lines errs) s fun t =>
      t.blk.ports.tx = some (id.toNat, (List.range lines.toNat).map fun i => (s.blk.mem.bytes (lineOf addr + 64 * i) 64, false)) ∧
      t.blk.mem = s.blk.mem ∧ t.blk.eng = s.blk.eng := by
  obtain ⟨c, hlines, hon⟩ := hostLines_read (errs := errs.getLsbD) (i := 0) lines.toNat (idle_of_still hst) (lineSound_of_still hst)
    fun j hj => by rw [Nat.zero_add]; exact hx j hj
  obtain ⟨hsealed, htx, hmem, heng⟩ := outbound_fields c id.toNat lines.toNat
    ((List.range lines.toNat).map fun i => (s.blk.mem.bytes (lineOf addr + 64 * i) 64, false))
  exact gives_of_done (exec_outbound h hlines) (hsealed.trans hon.accessed.isSealed) ⟨htx, hmem.trans hon.mem, heng.trans hon.eng⟩

theorem gives_outbound_lost (h : s.blk.drips = false) (hst : s.blk.still) (hn : lines.toNat = 1)
    (ht : ∀ j, s.blk.target (lineOf addr) ≠ .window j ∧ s.blk.target (lineOf addr) ≠ .tags j)
    (hlost : s.blk.readLost (lineOf addr) 64 (lineFound (errs.getLsbD 0))) :
    Gives (.outboundRead id addr lines errs) s fun t =>
      (∃ x, t.blk.ports.tx = some (id.toNat, [(x, true)])) ∧ t.blk.mem = s.blk.mem := by
  obtain ⟨c, hread, hon⟩ := dmaRead_lost (rq := rqHost) (cls := 4) (idle_of_still hst) (by decide) (by decide)
    (lineSound_of_still hst _) hlost
  have hlines : Block.hostLines errs.getLsbD lines.toNat 0 (lineOf addr) s.blk = some (c.drawn, [(c.freeBytes 64, true)]) := by
    rw [hn, hostLines_one, hostLine_memory ht, hread]
    rfl
  obtain ⟨hsealed, htx, hmem, -⟩ := outbound_fields c.drawn id.toNat lines.toNat [(c.freeBytes 64, true)]
  exact gives_of_done (exec_outbound h hlines) (hsealed.trans hon.accessed.isSealed) ⟨⟨_, htx⟩, hmem.trans hon.mem⟩

theorem gives_outbound_repair {j : Nat} (h : s.blk.drips = false) (hst : s.blk.still) (hn : lines.toNat = 1)
    (ht : s.blk.target (lineOf addr) = .carafe j) (hr : s.blk.reachable (lineOf addr) 64 = true) (herr : errs.getLsbD 0 = true)
    (hsrc : (s.blk.bankAt j).src.look (lineOf addr / 64 % 2 ^ 14) ≠ none) : Gives (.outboundRead id addr lines errs) s fun t =>
      (t.blk.bankAt j).repair = [(lineOf addr / 64 % 2 ^ 14, false)] ∧ t.blk.ports.tx = s.blk.ports.tx ∧ t.blk.mem = s.blk.mem := by
  have halign : lineOf addr % 64 = 0 := Nat.mul_mod_left _ _
  obtain ⟨c, hnow, hacc, hrep, hmem⟩ := now_repair (rq := rqHost) (cls := 4) (n := 64) (words := 0xFF) (second := false)
    (idle_of_still hst) ht (lineSound_of_still hst _) (by omega) (by decide) (by decide) hsrc
  have hread : s.blk.dmaRead rqHost 4 (lineOf addr) 64 (lineFound (errs.getLsbD 0)) = (c, .later) := by
    unfold Block.dmaRead
    rw [hr, herr, lineParts_line (by decide) (by omega)]
    unfold Block.dmaLines
    rw [show lineFound true = .uncorrectable false 0xFF from rfl, hnow]
    rfl
  have ht' := not_window_of_serves (.inl ⟨j, ht⟩)
  have hnone : Block.hostLines errs.getLsbD lines.toNat 0 (lineOf addr) s.blk = none := by
    rw [hn, hostLines_one, hostLine_memory ht', hread]
    rfl
  have hwaits : Block.hostWaits errs.getLsbD lines.toNat 0 (lineOf addr) s.blk = c := by
    rw [hn, hostWaits_memory ht', hread]
  have hx : exec (.outboundRead id addr lines errs) s = done s c := by
    refine congrArg (done s) ((if_neg (by rw [h]; decide)).trans ?_)
    unfold lineOf at hnone hwaits
    rw [hnone]
    exact hwaits
  exact gives_of_done hx hacc.isSealed ⟨hrep, by rw [hacc.ports], hmem⟩

theorem gives_outbound_window {o : Nat} (h : s.blk.drips = false) (hn : lines.toNat = 1)
    (ht : s.blk.target (lineOf addr) = .window o) (h1 : 0x2000 ≤ o) (h2 : o + 64 ≤ 0x3000) :
    Gives (.outboundRead id addr lines errs) s fun t =>
      t.blk.ports.tx = some (id.toNat, [((List.range 16).flatMap fun i => leBytes (s.blk.winRead rqHost (o + 4 * i)).2 4, false)]) ∧
      t.blk.mem = s.blk.mem ∧ t.blk.eng = s.blk.eng := by
  have hlines : Block.hostLines errs.getLsbD lines.toNat 0 (lineOf addr) s.blk =
      some (s.blk, [((List.range 16).flatMap fun i => leBytes (s.blk.winRead rqHost (o + 4 * i)).2 4, false)]) := by
    rw [hn, hostLines_one]
    unfold Block.hostLine
    rw [ht]
    dsimp only
    rw [hostWords_window 16 h1 (by omega)]
    rfl
  obtain ⟨hsealed, htx, hmem, heng⟩ := outbound_fields s.blk id.toNat lines.toNat
    [((List.range 16).flatMap fun i => leBytes (s.blk.winRead rqHost (o + 4 * i)).2 4, false)]
  exact gives_of_done (exec_outbound h hlines) hsealed ⟨htx, hmem, heng⟩

end

/-- Settles O56: channel by channel the DRAM Port presents the request whose turn it is, and its response is the answer; the host's
reads are answered line by line. -/
theorem dramAndHost : Obligations.DramAndHost := by
  intro c k err id addr lines errs q j s _
  dsimp only
  refine ⟨dramPick_heads, dramPick_ne_none, gives_dramPort_idle, gives_dramPort_read, gives_dramPort_write,
    gives_dramResponse_stray err, ?_, ?_, ?_, gives_outbound_drips, gives_outbound_read, gives_outbound_lost,
    gives_outbound_repair, ?_⟩
  · rintro h rfl
    exact gives_dramResponse_data h
  · rintro h rfl
    exact gives_dramResponse_error h
  · rintro h rfl
    exact gives_dramResponse_unwritten h
  · exact gives_outbound_window

end Sys2Proof.Machine
end

section
/-! Digest requests (R501): a job that names a logical engine the map does not hold. -/
namespace Sys2Proof.Machine

/-- The index whose place in the Spare Manager's map is that of bank 0's LASTRQ. -/
def pastMap : Nat := 122777

theorem mapPE_pastMap : (R.mapPE pastMap).key = (R.CB_ARB_LASTRQ 0).key := rfl

/-- A digest is awaited in context 1 for a request block at address 0, whose doorbell is to go to logical engine `pastMap`; LASTRQ of the
bank that takes the status is 10. -/
def strayDoorbell : State where
  blk := { Block.reset with
    regs := [((R.CB_STAT_PSTATE 0).key, 2), ((R.CB_ARB_LASTRQ 0).key, 10)]
    dg := [(1, ⟨some 9, some (0, 64, true, true, pastMap)⟩)] }
  pending := []

theorem strayDoorbell_rung : afterGet (exec (.digestResult 1 0 true) strayDoorbell) (R.DIST_PENDSET_PEND 2) = some 0 := by decide +kernel

/-- Refutes O46: the map's entry for an index of no logical engine is read where the bank counts its round robin, so that the write of the
status moves the doorbell. -/
theorem not_digestRequests : ¬ Obligations.DigestRequests := by
  intro h
  have hall := h .clean true 1 0 9 0 0 64 pastMap true true [] strayDoorbell (by unfold MemOk; decide) (by unfold Block.still; decide +kernel)
  obtain ⟨-, -, -, -, -, -, hresult, -⟩ := hall
  obtain ⟨hcompared, -⟩ := hresult (by decide) (by decide) (by decide +kernel) (by decide +kernel)
  obtain ⟨t, ⟨-, -, hbell⟩, hzero⟩ := (hcompared rfl).afterGet strayDoorbell_rung
  have hpend : t.blk.srcBit R.DIST_PENDSET_PEND 92 = true := hbell rfl
  unfold Block.srcBit at hpend
  rw [show R.DIST_PENDSET_PEND (92 / 32) = R.DIST_PENDSET_PEND 2 from rfl, hzero] at hpend
  exact absurd hpend (by decide)

end Sys2Proof.Machine
end

section
/-! The Media Port's completion entries: the write, the tail, the counts and the doorbell (R261). -/
namespace Sys2Proof.Machine

/-! ## Events of any source -/

section
variable (b : Block) (x : Nat)

/-- An event leaves a register below the Distributor's alone, but for an engine's BUSY. -/
theorem event_get_low {g : Fld} (hlow : g.key < 0x10000 * 32) (hbusy : ∀ n < 72, g.key ≠ (R.PWR_ENG_BUSY n).key) :
    (b.event x).get g = b.get g := by
  have hpend : ∀ r, g.key ≠ (R.DIST_PENDSET_PEND r).key := fun r => by
    rw [pendArray.key]
    omega
  have hw := autowakeSrc_mayWake ((b.distAt 1).putSrcBit R.DIST_PENDSET_PEND x true) x
  exact (hw.get hbusy).trans ((Block.get_put_ne _ _ _ _ (hpend _)).trans ((distAt_cycled b 1).get g fun r _ => hpend r))

theorem event_beside : { b.event x with regs := b.regs, domQ := b.domQ, dcycle := b.dcycle, tick := b.tick } = b := by
  have hw := autowakeSrc_mayWake ((b.distAt 1).putSrcBit R.DIST_PENDSET_PEND x true) x
  have h1 := congrArg (fun c : Block => { c with regs := b.regs, domQ := b.domQ, dcycle := b.dcycle, tick := b.tick }) hw.frame
  have h2 := congrArg (fun c : Block => { c with domQ := b.domQ, tick := b.tick }) (distAt_cycled b 1).frame
  exact h1.trans h2

theorem event_parts : (b.event x).isSealed = b.isSealed ∧ (b.event x).mem = b.mem ∧ (b.event x).media = b.media ∧
    (b.event x).intake = b.intake ∧ (b.event x).kettle = b.kettle ∧ (b.event x).ports = b.ports := by
  have h := event_beside b x
  have h1 := congrArg Block.isSealed h
  have h2 := congrArg Block.mem h
  have h3 := congrArg Block.media h
  have h4 := congrArg Block.intake h
  have h5 := congrArg Block.kettle h
  have h6 := congrArg Block.ports h
  exact ⟨h1, h2, h3, h4, h5, h6⟩

end

/-! ## What the Media Port's commands leave alone -/

/-- A register field of the Media Port. -/
def mediaFld (f : Fld) : Prop := 0x200 * 32 ≤ f.key ∧ f.key < 0x300 * 32

theorem mediaFld_ne_busy {f : Fld} (h : mediaFld f) (n : Nat) (_ : n < 72) : f.key ≠ (R.PWR_ENG_BUSY n).key := by
  unfold mediaFld at h
  simp only [Fld.key, R.PWR_ENG_BUSY] at h ⊢
  omega

theorem mediaFld_beyond {f : Fld} (h : mediaFld f) : beyondAccess f := by
  unfold mediaFld at h
  refine ⟨fun hb => ?_, fun i hi => ?_, ?_⟩
  · unfold isBankFld at hb
    omega
  · simp only [Fld.key, R.GPC_COUNT] at h ⊢
    omega
  · simp only [Fld.key, R.PERC_WAITS_COUNT] at h ⊢
    omega

/-- From `b` to `b'` the Media Port's registers but the listed ones stand, the map of the logical engines too, and so do its state but
for the completions not consumed, the Intake and the Kettle. -/
structure MpKept (fs : List Fld) (b b' : Block) : Prop where
  isSealed : b'.isSealed = b.isSealed
  get : ∀ f, mediaFld f → (∀ g ∈ fs, f.key ≠ g.key) → b'.get f = b.get f
  intake : b'.intake = b.intake
  kettle : b'.kettle = b.kettle
  media : { b'.media with unread := b.media.unread } = b.media

section
variable {fs : List Fld} {a b : Block}

theorem MpKept.refl (fs : List Fld) (b : Block) : MpKept fs b b := ⟨rfl, fun _ _ _ => rfl, rfl, rfl, rfl⟩

theorem MpKept.put (h : MpKept fs a b) {f : Fld} (hf : f ∈ fs) (v : Nat) : MpKept fs a (b.put f v) :=
  ⟨h.isSealed, fun g hg hgs => (Block.get_put_ne _ _ _ _ (hgs f hf)).trans (h.get g hg hgs), h.intake, h.kettle, h.media⟩

theorem MpKept.accessed (h : MpKept fs a b) {c : Block} (hc : Accessed b c) : MpKept fs a c :=
  ⟨hc.isSealed.trans h.isSealed, fun f hf hfs => (hc.regs f (mediaFld_beyond hf)).trans (h.get f hf hfs), hc.intake.trans h.intake,
    hc.kettle.trans h.kettle, by rw [hc.media]; exact h.media⟩

theorem MpKept.event (h : MpKept fs a b) (x : Nat) : MpKept fs a (b.event x) := by
  obtain ⟨h1, -, h3, h4, h5, -⟩ := event_parts b x
  refine ⟨h1.trans h.isSealed, fun f hf hfs => ?_, h4.trans h.intake, h5.trans h.kettle, by rw [h3]; exact h.media⟩
  refine (event_get_low b x ?_ (mediaFld_ne_busy hf)).trans (h.get f hf hfs)
  unfold mediaFld at hf
  omega

end

/-! ## The counts of a status -/

/-- The fields that a status counts in. -/
def statusFields : MpStatus → List Fld
  | .mediaErr => [R.MP_EVT_MEDIAERR, R.MP_ERRCNT_MEDIA]
  | .srcErr => [R.MP_EVT_SRCERR, R.MP_ERRCNT_SRC]
  | .badDesc | .badAddr => [R.MP_EVT_BADDESC]
  | _ => []

/-- The event of a status. -/
def statusEvent : MpStatus → Option Fld
  | .mediaErr => some R.MP_EVT_MEDIAERR
  | .srcErr => some R.MP_EVT_SRCERR
  | .badDesc | .badAddr => some R.MP_EVT_BADDESC
  | _ => none

theorem mpCount_kept {fs : List Fld} {a b : Block} (h : MpKept fs a b) {st : MpStatus} (hst : ∀ f ∈ statusFields st, f ∈ fs) :
    MpKept fs a (b.mpCount st) := by
  unfold Block.mpCount
  cases st with
  | mediaErr => exact (h.put (hst _ (by simp [statusFields])) _).put (hst _ (by simp [statusFields])) _
  | srcErr => exact (h.put (hst _ (by simp [statusFields])) _).put (hst _ (by simp [statusFields])) _
  | badDesc => exact h.put (hst _ (by simp [statusFields])) _
  | badAddr => exact h.put (hst _ (by simp [statusFields])) _
  | _ => exact h

theorem mpCount_regs (b : Block) (st : MpStatus) : { b.mpCount st with regs := b.regs } = b := by
  unfold Block.mpCount
  cases st <;> rfl

theorem raise_counted (b : Block) {f g : Fld} (h : f.key ≠ g.key) (hw : f.w = 1) : ((b.raise f).incSat g 1).get f = 1 := by
  rw [Block.incSat_eq, Block.get_put_ne _ _ _ _ h, Block.raise_eq, Block.get_put_same]
  simp [hw]

theorem mpCount_event (b : Block) {st : MpStatus} {f : Fld} (h : statusEvent st = some f) : (b.mpCount st).get f = 1 := by
  cases st <;> cases h
  case mediaErr => exact raise_counted b (by decide) rfl
  case srcErr => exact raise_counted b (by decide) rfl
  case badDesc => exact Block.get_put_same _ _ _
  case badAddr => exact Block.get_put_same _ _ _

/-! ## An entry (R261) -/

/-- The fields that an entry of status `st` moves. -/
def entryFields (st : MpStatus) : List Fld := [R.MP_CPLTAIL_INDEX, R.MP_CPLTAIL_PHASE, R.MP_STAT_OUTST] ++ statusFields st

/-- The address of the next completion entry. -/
def Block.entryAddr (b : Block) : Nat := b.getAddr R.MP_CPL_LO_ADDR R.MP_CPL_HI_ADDR + 16 * b.get R.MP_CPLTAIL_INDEX

theorem entryAddr_mod (b : Block) : b.entryAddr % 64 + 16 ≤ 64 := by
  unfold Block.entryAddr Block.getAddr
  rw [show R.MP_CPL_LO_ADDR.lo = 19 from rfl]
  omega

/-- The tail moved on. -/
def Block.tailOn (b : Block) (tail phase : Nat) : Block :=
  let b := b.put R.MP_CPLTAIL_INDEX (tail + 1)
  if tail + 1 = 32768 then b.put R.MP_CPLTAIL_PHASE (1 - phase) else b

/-- An entry counted: one more that is not consumed, the status, and what is held. -/
def Block.entryCount (b : Block) (st : MpStatus) : Block :=
  (((b.modMp fun m => { m with unread := m.unread + 1 }).mpCount st).settleMp).countGlob 0x06 1

/-- The bytes of a completion entry. -/
def entryBytes (cookie op data code phase : Nat) : List Byte :=
  leBytes cookie 4 ++ leBytes code 2 ++ leBytes op 1 ++ leBytes phase 1 ++ leBytes data 8

theorem mpEntry_eq (b : Block) (cookie op data : Nat) (st : MpStatus) (db : Option Nat) : b.mpEntry cookie op data st db =
    (match db with
      | some k => (((b.dmaWrite rqMedia 0 b.entryAddr (entryBytes cookie op data st.code (b.get R.MP_CPLTAIL_PHASE))).tailOn
          (b.get R.MP_CPLTAIL_INDEX) (b.get R.MP_CPLTAIL_PHASE)).entryCount st).ringLe k
      | none => ((b.dmaWrite rqMedia 0 b.entryAddr (entryBytes cookie op data st.code (b.get R.MP_CPLTAIL_PHASE))).tailOn
          (b.get R.MP_CPLTAIL_INDEX) (b.get R.MP_CPLTAIL_PHASE)).entryCount st) := by
  cases db <;> rfl

theorem length_entryBytes (cookie op data code phase : Nat) : (entryBytes cookie op data code phase).length = 16 := by
  unfold entryBytes
  simp [leBytes_length]

theorem tailOn_kept {fs : List Fld} {a b : Block} (h : MpKept fs a b) (h1 : R.MP_CPLTAIL_INDEX ∈ fs) (h2 : R.MP_CPLTAIL_PHASE ∈ fs)
    (tail phase : Nat) : MpKept fs a (b.tailOn tail phase) := by
  unfold Block.tailOn
  dsimp only
  split
  · exact (h.put h1 _).put h2 _
  · exact h.put h1 _

theorem tailOn_regs (b : Block) (tail phase : Nat) : { b.tailOn tail phase with regs := b.regs } = b := by
  unfold Block.tailOn
  dsimp only
  split <;> rfl

theorem tailOn_get (b : Block) (tail phase : Nat) : (b.tailOn tail phase).get R.MP_CPLTAIL_INDEX = (tail + 1) % 2 ^ 15 ∧
    (b.tailOn tail phase).get R.MP_CPLTAIL_PHASE = if tail + 1 = 2 ^ 15 then (1 - phase) % 2 else b.get R.MP_CPLTAIL_PHASE := by
  unfold Block.tailOn
  dsimp only
  rw [show (32768 : Nat) = 2 ^ 15 from rfl]
  split
  · refine ⟨?_, Block.get_put_same _ _ _⟩
    rw [Block.get_put_ne _ _ _ _ (by decide)]
    exact Block.get_put_same _ _ _
  · exact ⟨Block.get_put_same _ _ _, Block.get_put_ne _ _ _ _ (by decide)⟩

/-- What an entry's counts leave: the counters of the surroundings aside, one completion more waits. -/
theorem entryCount_facts (b : Block) (st : MpStatus) : (b.entryCount st).mem = b.mem ∧
    (b.entryCount st).media = { b.media with unread := b.media.unread + 1 } ∧
    (∀ f, mediaFld f → (∀ g ∈ R.MP_STAT_OUTST :: statusFields st, f.key ≠ g.key) → (b.entryCount st).get f = b.get f) ∧
    (∀ f, statusEvent st = some f → (b.entryCount st).get f = 1) ∧
    (b.entryCount st).isSealed = b.isSealed ∧ (b.entryCount st).intake = b.intake ∧ (b.entryCount st).kettle = b.kettle := by
  let c := b.modMp fun m => { m with unread := m.unread + 1 }
  have hcount := mpCount_regs c st
  have hmedia : (c.mpCount st).media = c.media := by have e := congrArg Block.media hcount; exact e
  have hmem : (c.mpCount st).mem = c.mem := by have e := congrArg Block.mem hcount; exact e
  have hglob := (Accessed.refl (c.mpCount st).settleMp).countGlob 0x06 1
  have hframe := countGlob_frame (c.mpCount st).settleMp 0x06 1
  have hmem' : (b.entryCount st).mem = (c.mpCount st).mem := by have e := congrArg Block.mem hframe; exact e
  have hkept : MpKept (R.MP_STAT_OUTST :: statusFields st) c (b.entryCount st) :=
    ((mpCount_kept (.refl _ c) fun f hf => List.mem_cons_of_mem _ hf).put List.mem_cons_self _).accessed hglob
  refine ⟨hmem'.trans hmem, hglob.media.trans hmedia, fun f hf hfs => hkept.get f hf hfs, fun f hf => ?_, hkept.isSealed, hkept.intake,
    hkept.kettle⟩
  have hfld : mediaFld f := by
    unfold mediaFld
    cases st <;> cases hf <;> decide
  have hne : f.key ≠ R.MP_STAT_OUTST.key := by cases st <;> cases hf <;> decide
  refine (hglob.regs f (mediaFld_beyond hfld)).trans ?_
  unfold Block.settleMp
  rw [Block.get_put_ne _ _ _ _ hne]
  exact mpCount_event c hf

/-- The block after a completion entry, but for its doorbell. -/
def Block.entered (b : Block) (cookie op data : Nat) (st : MpStatus) : Block :=
  ((b.dmaWrite rqMedia 0 b.entryAddr (entryBytes cookie op data st.code (b.get R.MP_CPLTAIL_PHASE))).tailOn
    (b.get R.MP_CPLTAIL_INDEX) (b.get R.MP_CPLTAIL_PHASE)).entryCount st

theorem mpEntry_entered (b : Block) (cookie op data : Nat) (st : MpStatus) (db : Option Nat) : b.mpEntry cookie op data st db =
    match db with
    | some k => (b.entered cookie op data st).ringLe k
    | none => b.entered cookie op data st := by
  cases db <;> rfl

/-- What an entry of status `st` leaves beside its doorbell. -/
structure EntryMade (st : MpStatus) (b b' : Block) : Prop where
  isSealed : b'.isSealed = b.isSealed
  get : ∀ f, mediaFld f → (∀ g ∈ entryFields st, f.key ≠ g.key) → b'.get f = b.get f
  event : ∀ f, statusEvent st = some f → b'.get f = 1
  intake : b'.intake = b.intake
  kettle : b'.kettle = b.kettle
  media : b'.media = { b.media with unread := b.media.unread + 1 }

theorem entered_facts (b : Block) (cookie op data : Nat) (st : MpStatus) : EntryMade st b (b.entered cookie op data st) := by
  let c := b.dmaWrite rqMedia 0 b.entryAddr (entryBytes cookie op data st.code (b.get R.MP_CPLTAIL_PHASE))
  let d := c.tailOn (b.get R.MP_CPLTAIL_INDEX) (b.get R.MP_CPLTAIL_PHASE)
  have hacc : Accessed b c := dmaWrite_accessed b rqMedia 0 _ _
  have hkept : MpKept (entryFields st) b d :=
    tailOn_kept ((MpKept.refl _ b).accessed hacc) (by simp [entryFields]) (by simp [entryFields]) _ _
  obtain ⟨-, hmedia, hget, hevent, hsealed, hintake, hkettle⟩ := entryCount_facts d st
  have htail : d.media = c.media := by have e := congrArg Block.media (tailOn_regs c (b.get R.MP_CPLTAIL_INDEX) (b.get R.MP_CPLTAIL_PHASE)); exact e
  refine ⟨hsealed.trans hkept.isSealed, fun f hf hfs => (hget f hf fun g hg => hfs g ?_).trans (hkept.get f hf hfs), hevent,
    hintake.trans hkept.intake, hkettle.trans hkept.kettle, ?_⟩
  · unfold entryFields
    obtain rfl | hg := List.mem_cons.mp hg
    · simp
    · exact List.mem_append_right _ hg
  · refine hmedia.trans ?_
    rw [htail, hacc.media]

theorem entered_completed {b : Block} (hi : Idle b) (hs : b.lineSound b.entryAddr) (cookie op data : Nat) (st : MpStatus) :
    Completed cookie op data st.code b (b.entered cookie op data st) := by
  let e := entryBytes cookie op data st.code (b.get R.MP_CPLTAIL_PHASE)
  let c := b.dmaWrite rqMedia 0 b.entryAddr e
  let d := c.tailOn (b.get R.MP_CPLTAIL_INDEX) (b.get R.MP_CPLTAIL_PHASE)
  have hlen : e.length = 16 := length_entryBytes _ _ _ _ _
  have hacc : Accessed b c := dmaWrite_accessed b rqMedia 0 _ _
  obtain ⟨hindex, hphase⟩ := tailOn_get c (b.get R.MP_CPLTAIL_INDEX) (b.get R.MP_CPLTAIL_PHASE)
  have hframe := tailOn_regs c (b.get R.MP_CPLTAIL_INDEX) (b.get R.MP_CPLTAIL_PHASE)
  have hmem : d.mem = c.mem := by have x := congrArg Block.mem hframe; exact x
  obtain ⟨hmem', hmedia, hget, -⟩ := entryCount_facts d st
  have hfields : ∀ f, mediaFld f → f = R.MP_CPLTAIL_INDEX ∨ f = R.MP_CPLTAIL_PHASE →
      ∀ g ∈ R.MP_STAT_OUTST :: statusFields st, f.key ≠ g.key := by
    rintro f - (rfl | rfl) g hg
    all_goals
      obtain rfl | hg := List.mem_cons.mp hg
      · decide
      · cases st <;> simp only [statusFields, List.mem_cons, List.not_mem_nil, or_false] at hg
        all_goals
          rcases hg with rfl | rfl
          all_goals decide
  have hph : c.get R.MP_CPLTAIL_PHASE = b.get R.MP_CPLTAIL_PHASE := hacc.regs _ (mediaFld_beyond (by unfold mediaFld; decide))
  refine ⟨(hget _ (by unfold mediaFld; decide) (hfields _ (by unfold mediaFld; decide) (.inl rfl))).trans hindex, ?_, ?_, fun hr => ?_⟩
  · refine (hget _ (by unfold mediaFld; decide) (hfields _ (by unfold mediaFld; decide) (.inr rfl))).trans (hphase.trans ?_)
    rw [hph]
  · have hmed : d.media = c.media := by have x := congrArg Block.media hframe; exact x
    have h := congrArg Media.unread hmedia
    refine h.trans ?_
    show d.media.unread + 1 = _
    rw [hmed, hacc.media]
  · obtain ⟨hwrote, -⟩ := dmaWrite_line (rq := rqMedia) (cls := 0) (d := e) hi hs (by decide) (by rw [hlen]; exact hr)
      (by rw [hlen]; exact entryAddr_mod b)
    exact wrote_of_mem (hmem'.trans (hmem.trans hwrote))

theorem mapPE_beyond {k : Nat} (hk : k < 64) : beyondAccess (R.mapPE k) := by
  refine ⟨fun hb => ?_, fun i hi => ?_, ?_⟩
  · unfold isBankFld at hb
    simp only [Fld.key, R.mapPE] at hb
    omega
  · simp only [Fld.key, R.GPC_COUNT, R.mapPE]
    omega
  · simp only [Fld.key, R.PERC_WAITS_COUNT, R.mapPE]
    omega

theorem Accessed.peOf {b b' : Block} (h : Accessed b b') {k : Nat} (hk : k < 64) : b'.peOf k = b.peOf k := h.regs _ (mapPE_beyond hk)

/-- A Media Port field written leaves the map alone. -/
theorem put_mapPE (b : Block) {f : Fld} (hf : mediaFld f) (v : Nat) (k : Nat) : (b.put f v).peOf k = b.peOf k := by
  unfold mediaFld at hf
  refine Block.get_put_ne _ _ _ _ ?_
  simp only [Fld.key, R.mapPE] at hf ⊢
  omega

theorem entered_peOf (b : Block) (cookie op data : Nat) (st : MpStatus) {k : Nat} (hk : k < 64) :
    (b.entered cookie op data st).peOf k = b.peOf k := by
  have hm : ∀ f ∈ [R.MP_CPLTAIL_INDEX, R.MP_CPLTAIL_PHASE, R.MP_STAT_OUTST, R.MP_EVT_MEDIAERR, R.MP_EVT_SRCERR, R.MP_EVT_BADDESC,
      R.MP_ERRCNT_MEDIA, R.MP_ERRCNT_SRC], mediaFld f := by
    unfold mediaFld
    decide
  have hstat : ∀ c : Block, (c.mpCount st).peOf k = c.peOf k := fun c => by
    unfold Block.mpCount
    cases st with
    | mediaErr => exact (put_mapPE _ (hm R.MP_ERRCNT_MEDIA (by simp)) _ k).trans (put_mapPE _ (hm R.MP_EVT_MEDIAERR (by simp)) _ k)
    | srcErr => exact (put_mapPE _ (hm R.MP_ERRCNT_SRC (by simp)) _ k).trans (put_mapPE _ (hm R.MP_EVT_SRCERR (by simp)) _ k)
    | badDesc => exact put_mapPE _ (hm R.MP_EVT_BADDESC (by simp)) _ k
    | badAddr => exact put_mapPE _ (hm R.MP_EVT_BADDESC (by simp)) _ k
    | _ => rfl
  have htail : ∀ (c : Block) (x y : Nat), (c.tailOn x y).peOf k = c.peOf k := fun c x y => by
    unfold Block.tailOn
    dsimp only
    split
    · exact (put_mapPE _ (hm R.MP_CPLTAIL_PHASE (by simp)) _ k).trans (put_mapPE _ (hm R.MP_CPLTAIL_INDEX (by simp)) _ k)
    · exact put_mapPE _ (hm R.MP_CPLTAIL_INDEX (by simp)) _ k
  unfold Block.entered Block.entryCount
  rw [((Accessed.refl _).countGlob 0x06 1).peOf hk]
  unfold Block.settleMp
  rw [put_mapPE _ (hm R.MP_STAT_OUTST (by simp)), hstat]
  exact (htail _ _ _).trans ((dmaWrite_accessed b rqMedia 0 _ _).peOf hk)

/-- A completion entry with its doorbell. -/
theorem mpEntry_made (b : Block) (cookie op data : Nat) (st : MpStatus) (db : Option Nat) :
    EntryMade st b (b.mpEntry cookie op data st db) ∧ (b.mpEntry cookie op data st db).mem = (b.entered cookie op data st).mem ∧
      (∀ k < 64, db = some k → (b.mpEntry cookie op data st db).srcBit R.DIST_PENDSET_PEND (72 + 2 * b.peOf k) = true) := by
  have h := entered_facts b cookie op data st
  rw [mpEntry_entered]
  cases db with
  | none => exact ⟨h, rfl, nofun⟩
  | some k =>
    obtain ⟨h1, h2, h3, h4, h5, -⟩ := event_parts (b.entered cookie op data st)
      (72 + 2 * (b.entered cookie op data st).peOf k)
    have hget : ∀ f, mediaFld f → ((b.entered cookie op data st).ringLe k).get f = (b.entered cookie op data st).get f := fun f hf =>
      event_get_low _ _ (by unfold mediaFld at hf; omega) (mediaFld_ne_busy hf)
    refine ⟨⟨h1.trans h.isSealed, fun f hf hfs => (hget f hf).trans (h.get f hf hfs), fun f hf => ?_, h4.trans h.intake,
      h5.trans h.kettle, h3.trans h.media⟩, h2, ?_⟩
    · refine (hget f ?_).trans (h.event f hf)
      unfold mediaFld
      cases st <;> cases hf <;> decide
    · rintro k' hk' he
      cases he
      rw [← entered_peOf b cookie op data st hk']
      exact event_pend_self _ _

theorem mpEntry_completed {b : Block} (hi : Idle b) (hs : b.lineSound b.entryAddr) (cookie op data : Nat) (st : MpStatus) (db : Option Nat) :
    Completed cookie op data st.code b (b.mpEntry cookie op data st db) := by
  obtain ⟨hindex, hphase, hunread, hwrote⟩ := entered_completed hi hs cookie op data st
  obtain ⟨-, hmem, -⟩ := mpEntry_made b cookie op data st db
  rw [mpEntry_entered] at hmem ⊢
  cases db with
  | none => exact ⟨hindex, hphase, hunread, hwrote⟩
  | some k =>
    obtain ⟨-, -, h3, -⟩ := event_parts (b.entered cookie op data st) (72 + 2 * (b.entered cookie op data st).peOf k)
    have hget : ∀ f, mediaFld f → ((b.entered cookie op data st).ringLe k).get f = (b.entered cookie op data st).get f := fun f hf =>
      event_get_low _ _ (by unfold mediaFld at hf; omega) (mediaFld_ne_busy hf)
    refine ⟨(hget _ (by unfold mediaFld; decide)).trans hindex, (hget _ (by unfold mediaFld; decide)).trans hphase, ?_, fun hr => ?_⟩
    · exact (congrArg Media.unread h3).trans hunread
    · have hw := hwrote hr
      unfold Wrote at hw ⊢
      rw [hmem]
      exact hw

end Sys2Proof.Machine
end

section
/-! Media traffic: hand-offs, data, completions and the journal (R250, R254, R255, R258, R261 to R263, R497). -/
namespace Sys2Proof.Machine

section
variable {s : State} {slot : BitVec 5} {idx : BitVec 15} {gidx : BitVec 12} {beat : BitVec 3} {x : Accepted}

/-! ## The hand-off (R254, R497) -/

theorem gives_handoff (h : s.blk.mpNext slot.toNat = some x) : Gives (.mediaDescriptorHandoff slot) s fun t =>
    t.blk.ports.mpd = some (slot.toNat, x.idx, x.desc.raw) ∧
      t.blk.media = { s.blk.media with
        accepted := s.blk.media.accepted.map fun y => if y.idx = x.idx then { y with handed := true } else y } ∧
      ({ t.blk with media := s.blk.media, ports := s.blk.ports } : Block) = s.blk := by
  refine gives_of_done (b := { s.blk.modAccepted x.idx fun y => { y with handed := true } with
    ports := { s.blk.ports with mpd := some (slot.toNat, x.idx, x.desc.raw) } }) ?_ rfl ⟨rfl, rfl, rfl⟩
  show execMediaDescriptorHandoff slot s = _
  unfold execMediaDescriptorHandoff
  dsimp only
  rw [h]

theorem gives_handoff_none (h : s.blk.mpNext slot.toNat = none) : Gives (.mediaDescriptorHandoff slot) s (Same s) := by
  refine gives_of_done (b := s.blk) ?_ rfl rfl
  show execMediaDescriptorHandoff slot s = _
  unfold execMediaDescriptorHandoff
  dsimp only
  rw [h]

/-! ## The data of a program (R250, R255, R497) -/

/-- The bytes of a program's granule `g`. -/
def Accepted.granLen (x : Accepted) (g : Nat) : Nat := min 512 (x.desc.blen - 512 * g)

/-- A granule's beats on MPWD. -/
def Block.sendGran (b : Block) (slot idx g : Nat) (x : Accepted) (d : List Byte) : Block := { b with
  ports := { b.ports with mpwd := some ⟨slot, idx, g, d ++ List.replicate (512 - d.length) 0, x.oobBytes g⟩ } }

theorem exec_program {find : BankFind} (h : s.blk.handedAt slot.toNat idx.toNat = some x) (hop : x.desc.op = 1) :
    exec (.programDataRequest slot idx gidx find) s = done s (
      if x.srcErr || x.granLen gidx.toNat == 0 then s.blk.sendGran slot.toNat idx.toNat gidx.toNat x []
      else match s.blk.dmaRead rqMedia 0 (x.desc.buf + 512 * gidx.toNat) (x.granLen gidx.toNat) find with
        | (b, .data d) => b.sendGran slot.toNat idx.toNat gidx.toNat x d
        | (b, .lost) => (b.modAccepted x.idx fun y => { y with srcErr := true }).sendGran slot.toNat idx.toNat gidx.toNat x []
        | (b, .later) => b) := by
  show execProgramDataRequest slot idx gidx find s = _
  unfold execProgramDataRequest
  dsimp only
  rw [h]
  dsimp only
  rw [if_neg (not_not.mpr hop)]
  rfl

theorem gives_program_empty {find : BankFind} (h : s.blk.handedAt slot.toNat idx.toNat = some x) (hop : x.desc.op = 1)
    (he : x.srcErr = true ∨ x.granLen gidx.toNat = 0) : Gives (.programDataRequest slot idx gidx find) s fun t =>
      t.blk = s.blk.sendGran slot.toNat idx.toNat gidx.toNat x [] := by
  have hgo : (x.srcErr || x.granLen gidx.toNat == 0) = true := by
    rw [Bool.or_eq_true, beq_iff_eq]
    exact he
  have hx := exec_program (gidx := gidx) (find := find) h hop
  rw [if_pos hgo] at hx
  exact gives_of_done hx rfl rfl

theorem gives_program_read (hst : s.blk.still) (h : s.blk.handedAt slot.toNat idx.toNat = some x) (hop : x.desc.op = 1)
    (hs : x.srcErr = false) (hn : x.granLen gidx.toNat ≠ 0)
    (hr : s.blk.reachable (x.desc.buf + 512 * gidx.toNat) (x.granLen gidx.toNat) = true) :
    Gives (.programDataRequest slot idx gidx .clean) s fun t =>
      t.blk.ports.mpwd = some ⟨slot.toNat, idx.toNat, gidx.toNat,
        s.blk.mem.bytes (x.desc.buf + 512 * gidx.toNat) (x.granLen gidx.toNat) ++
          List.replicate (512 - (s.blk.mem.bytes (x.desc.buf + 512 * gidx.toNat) (x.granLen gidx.toNat)).length) 0,
        x.oobBytes gidx.toNat⟩ ∧ t.blk.mem = s.blk.mem ∧ t.blk.media = s.blk.media := by
  have hle : x.granLen gidx.toNat ≤ 512 := Nat.min_le_left _ _
  obtain ⟨c, hread, hon⟩ := dmaRead_still (rq := rqMedia) (cls := 0) hst (by decide) hr (by omega)
  have hx := exec_program (gidx := gidx) (find := .clean) h hop
  rw [hs, Bool.false_or, beq_eq_false_iff_ne.mpr hn, if_neg Bool.false_ne_true, hread] at hx
  exact gives_of_done hx hon.accessed.isSealed ⟨rfl, hon.mem, hon.accessed.media⟩

theorem gives_program_lost {find : BankFind} (hst : s.blk.still) (h : s.blk.handedAt slot.toNat idx.toNat = some x) (hop : x.desc.op = 1)
    (hs : x.srcErr = false) (hn : x.granLen gidx.toNat ≠ 0)
    (hl : s.blk.readLost (x.desc.buf + 512 * gidx.toNat) (x.granLen gidx.toNat) find) :
    Gives (.programDataRequest slot idx gidx find) s fun t =>
      t.blk.ports.mpwd = some ⟨slot.toNat, idx.toNat, gidx.toNat, [] ++ List.replicate (512 - 0) 0, x.oobBytes gidx.toNat⟩ ∧
        t.blk.mem = s.blk.mem ∧
        t.blk.media.accepted = s.blk.media.accepted.map fun y => if y.idx = x.idx then { y with srcErr := true } else y := by
  obtain ⟨c, hread, hon⟩ := dmaRead_lost (rq := rqMedia) (cls := 0) (idle_of_still hst) (by decide) hn (lineSound_of_still hst _) hl
  have hx := exec_program (gidx := gidx) (find := find) h hop
  rw [hs, Bool.false_or, beq_eq_false_iff_ne.mpr hn, if_neg Bool.false_ne_true, hread] at hx
  refine gives_of_done hx hon.accessed.isSealed ⟨rfl, hon.mem, ?_⟩
  show c.media.accepted.map _ = _
  rw [hon.accessed.media]

/-! ## The data of a read (R254, R497) -/

/-- Where a beat of a read goes. -/
def Accepted.beatAddr (x : Accepted) (g beat : Nat) : Nat := x.desc.buf + 512 * g + 64 * beat

/-- Where a granule's out-of-band bytes go. -/
def Accepted.oobAddr (x : Accepted) (g : Nat) : Nat := x.desc.buf + 512 * x.desc.gcnt + 16 * g

theorem exec_readData {data : BitVec 512} {oob : W128} (h : s.blk.handedAt slot.toNat idx.toNat = some x)
    (hop : x.desc.op = 2 ∨ x.desc.op = 3) : exec (.readData slot idx gidx beat data oob) s = done s (
      if x.desc.oob && beat == 0 then
        (s.blk.dmaWrite rqMedia 4 (x.beatAddr gidx.toNat beat.toNat) (leBytes data.toNat 64)).dmaWrite rqMedia 4
          (x.oobAddr gidx.toNat) (leBytes oob.toNat 16)
      else s.blk.dmaWrite rqMedia 4 (x.beatAddr gidx.toNat beat.toNat) (leBytes data.toNat 64)) := by
  show execReadData slot idx gidx beat data oob s = _
  unfold execReadData
  dsimp only
  rw [h]
  dsimp only
  rw [if_neg fun hne => hop.elim hne.1 hne.2]
  rfl

theorem gives_readData_plain {data : BitVec 512} {oob : W128} (hst : s.blk.still) (h : s.blk.handedAt slot.toNat idx.toNat = some x)
    (hop : x.desc.op = 2 ∨ x.desc.op = 3) (hr : s.blk.reachable (x.beatAddr gidx.toNat beat.toNat) 64 = true)
    (hp : x.desc.oob = false ∨ beat ≠ 0) : Gives (.readData slot idx gidx beat data oob) s fun t =>
      Wrote (x.beatAddr gidx.toNat beat.toNat) (leBytes data.toNat 64) s.blk t.blk ∧ t.blk.media = s.blk.media := by
  have hlen : (leBytes data.toNat 64).length = 64 := leBytes_length _ _
  obtain ⟨hmem, hw⟩ := dmaWrite_still (rq := rqMedia) (cls := 4) (d := leBytes data.toNat 64) hst (by decide) (by rw [hlen]; exact hr)
    (by rw [hlen]; decide)
  have hno : (x.desc.oob && beat == 0) = false := by
    rw [Bool.and_eq_false_iff, beq_eq_false_iff_ne]
    exact hp
  have hx := exec_readData (gidx := gidx) (beat := beat) (data := data) (oob := oob) h hop
  rw [hno, if_neg Bool.false_ne_true] at hx
  exact gives_of_done hx hw.accessed.isSealed ⟨wrote_of_mem hmem, hw.accessed.media⟩

theorem bytes_writes_apart (m : Mem) {a n e : Nat} {d : List Byte} (h : a + n ≤ e) : (m.writes e d).bytes a n = m.bytes a n := by
  rw [Mem.bytes_eq_map, Mem.bytes_eq_map]
  exact List.map_congr_left fun i hi => Mem.read_writes_out _ _ _ _ (.inl (by have := List.mem_range.mp hi; omega))

theorem WroteOn.still {b b' : Block} (h : WroteOn b b') (hst : b.still) : b'.still :=
  ⟨fun k hk => ⟨h.idle.waiting k hk, h.idle.repair k hk, h.bad k (hst.1 k hk).2.2⟩, h.idle.dram⟩

/-- Two writes, one after the other. -/
theorem dmaWrite_twice {b : Block} {rq cls rq' cls' a e : Nat} {d f : List Byte} (hst : b.still) (hc : cls < 6) (hc' : cls' < 6)
    (hr : b.reachable a d.length = true) (hn : d.length ≤ 2 ^ 20) (hr' : b.reachable e f.length = true) (hn' : f.length ≤ 2 ^ 20) :
    ∃ u, (b.dmaWrite rq cls a d).dmaWrite rq' cls' e f = u ∧ u.mem = (b.mem.writes a d).writes e f ∧ WroteOn b u := by
  obtain ⟨hmem, hw⟩ := dmaWrite_still (rq := rq) (cls := cls) hst hc hr hn
  obtain ⟨hmem', hw'⟩ := dmaWrite_still (rq := rq') (cls := cls') (a := e) (d := f) (hw.still hst) hc'
    (by rw [hw.accessed.reachable]; exact hr') hn'
  exact ⟨_, rfl, by rw [hmem', hmem], hw.trans hw'⟩

theorem gives_readData_oob {data : BitVec 512} {oob : W128} (hst : s.blk.still) (h : s.blk.handedAt slot.toNat idx.toNat = some x)
    (hop : x.desc.op = 2 ∨ x.desc.op = 3) (hr : s.blk.reachable (x.beatAddr gidx.toNat beat.toNat) 64 = true)
    (hoob : x.desc.oob = true) (hbeat : beat = 0) (hr' : s.blk.reachable (x.oobAddr gidx.toNat) 16 = true)
    (hap : x.beatAddr gidx.toNat beat.toNat + 64 ≤ x.oobAddr gidx.toNat) : Gives (.readData slot idx gidx beat data oob) s fun t =>
      t.blk.mem.bytes (x.beatAddr gidx.toNat beat.toNat) 64 = leBytes data.toNat 64 ∧
        t.blk.mem.bytes (x.oobAddr gidx.toNat) 16 = leBytes oob.toNat 16 ∧ t.blk.media = s.blk.media := by
  have hlen : (leBytes data.toNat 64).length = 64 := leBytes_length _ _
  have hlen' : (leBytes oob.toNat 16).length = 16 := leBytes_length _ _
  obtain ⟨u, hu, hmem, hw⟩ := dmaWrite_twice (rq := rqMedia) (rq' := rqMedia) (cls := 4) (cls' := 4) (d := leBytes data.toNat 64)
    (f := leBytes oob.toNat 16) hst (by decide) (by decide) (by rw [hlen]; exact hr) (by rw [hlen]; decide) (by rw [hlen']; exact hr')
    (by rw [hlen']; decide)
  have hx := exec_readData (gidx := gidx) (beat := beat) (data := data) (oob := oob) h hop
  rw [hoob, beq_iff_eq.mpr hbeat, if_pos (by decide), hu] at hx
  have hfirst := Mem.bytes_writes s.blk.mem (x.beatAddr gidx.toNat beat.toNat) (leBytes data.toNat 64)
  have hsecond := Mem.bytes_writes (s.blk.mem.writes (x.beatAddr gidx.toNat beat.toNat) (leBytes data.toNat 64))
    (x.oobAddr gidx.toNat) (leBytes oob.toNat 16)
  rw [hlen] at hfirst
  rw [hlen', ← hmem] at hsecond
  refine gives_of_done hx hw.accessed.isSealed ⟨?_, hsecond, hw.accessed.media⟩
  show u.mem.bytes _ 64 = _
  rw [hmem, bytes_writes_apart _ hap, hfirst]

end

end Sys2Proof.Machine
end

section
/-! Completions of the channel controllers, the journal's blocks, and the statement of media traffic (R255, R258, R261 to R263). -/
namespace Sys2Proof.Machine

section
variable {s : State} {slot : BitVec 5} {idx : BitVec 15} {x : Accepted} {fail : Bool}

/-! ## A descriptor's completion (R258, R261) -/

/-- The status of a completion. -/
def Accepted.status (x : Accepted) (fail : Bool) : MpStatus := if x.srcErr then .srcErr else if fail then .mediaErr else .ok

theorem status_code (x : Accepted) (fail : Bool) : (x.status fail).code = if x.srcErr then 2 else if fail then 1 else 0 := by
  unfold Accepted.status
  cases x.srcErr <;> cases fail <;> rfl

theorem status_srcErr : x.status fail = .srcErr ↔ x.srcErr = true := by
  unfold Accepted.status
  cases x.srcErr <;> cases fail <;> decide

theorem status_mediaErr : x.status fail = .mediaErr ↔ x.srcErr = false ∧ fail = true := by
  unfold Accepted.status
  cases x.srcErr <;> cases fail <;> decide

/-- Only a failed source read touches its event. -/
theorem srcErr_apart (st : MpStatus) : st = .srcErr ∨ ∀ g ∈ entryFields st, R.MP_EVT_SRCERR.key ≠ g.key := by
  cases st <;> decide

/-- Only an error of the medium touches its event. -/
theorem mediaErr_apart (st : MpStatus) : st = .mediaErr ∨ ∀ g ∈ entryFields st, R.MP_EVT_MEDIAERR.key ≠ g.key := by
  cases st <;> decide

/-- The block without a descriptor that has completed. -/
def Block.without (b : Block) (idx : Nat) : Block := b.modMp fun m => { m with accepted := m.accepted.filter (·.idx != idx) }

/-- What REL gives back. -/
def Block.relHonoured (b : Block) (x : Accepted) (fail : Bool) : Block :=
  if x.desc.rel && x.status fail == .ok then (b.without x.idx).mpRelease x.desc else b.without x.idx

theorem relHonoured_same (b : Block) (x : Accepted) (fail : Bool) : (b.relHonoured x fail).isSealed = b.isSealed ∧
    (b.relHonoured x fail).mem = b.mem ∧ (b.relHonoured x fail).regs = b.regs ∧ (b.relHonoured x fail).bank = b.bank ∧
    (b.relHonoured x fail).dram = b.dram ∧ (b.relHonoured x fail).media = { b.media with accepted := b.media.accepted.filter (·.idx != x.idx) } := by
  unfold Block.relHonoured
  split <;> exact ⟨rfl, rfl, rfl, rfl, rfl, rfl⟩

theorem relHonoured_gives (b : Block) (x : Accepted) (fail : Bool) : ((b.relHonoured x fail).intake.wbRel, (b.relHonoured x fail).kettle.moving) =
    if x.desc.rel = true ∧ (x.status fail).code = 0 then
      (b.intake.wbRel ++ [(x.desc.wbuf, x.desc.wblen)], b.kettle.moving ++ [.release x.desc.kres])
    else (b.intake.wbRel, b.kettle.moving) := by
  unfold Block.relHonoured
  cases hr : x.desc.rel
  · rfl
  · have hcode : (x.status fail == .ok) = decide ((x.status fail).code = 0) := by
      unfold Accepted.status
      cases x.srcErr <;> cases fail <;> rfl
    rw [hcode]
    by_cases h0 : (x.status fail).code = 0
    · rw [decide_eq_true h0, if_pos (show (true = true ∧ (x.status fail).code = 0) from ⟨rfl, h0⟩)]
      rfl
    · rw [decide_eq_false h0, if_neg fun h : true = true ∧ (x.status fail).code = 0 => h0 h.2]
      rfl

theorem exec_completion (h : s.blk.handedAt slot.toNat idx.toNat = some x) (hb : x.block = none) :
    exec (.mediaCompletion slot idx fail) s = done s ((s.blk.relHonoured x fail).mpFinish x.desc x.data (x.status fail)) := by
  show execMediaCompletion slot idx fail s = _
  unfold execMediaCompletion
  dsimp only
  rw [h]
  dsimp only
  rw [hb]
  rfl

/-- A block with the registers, banks, memory and media count of another reads the same to a completion. -/
theorem Completed.of_same {a b c : Block} {cookie op data code : Nat} (h : Completed cookie op data code b c) (hregs : b.regs = a.regs)
    (hbank : b.bank = a.bank) (hmem : b.mem = a.mem) (hunread : b.media.unread = a.media.unread) : Completed cookie op data code a c := by
  have hget : ∀ f, b.get f = a.get f := fun f => by
    unfold Block.get
    rw [hregs]
  have htarget : ∀ y, b.target y = a.target y := fun y => by
    unfold Block.target Block.dramSize
    rw [hget]
  have hon : ∀ k, b.bankOn k = a.bankOn k := fun k => by
    unfold Block.bankOn Block.bankAt
    rw [hget, hbank]
  have hreach : ∀ y n, b.reachable y n = a.reachable y n := fun y n => by
    unfold Block.reachable Block.bankFault
    simp only [htarget, hon]
  unfold Completed Block.getAddr at h ⊢
  dsimp only at h ⊢
  simp only [hget, hreach, hunread] at h
  unfold Wrote at h ⊢
  rw [hmem] at h
  exact h

theorem gives_completion (hst : s.blk.still) (h : s.blk.handedAt slot.toNat idx.toNat = some x) (hb : x.block = none) :
    Gives (.mediaCompletion slot idx fail) s fun t =>
      Completed x.desc.cookie (if 1 ≤ x.desc.op ∧ x.desc.op ≤ 5 then x.desc.op else 0) x.data
        (if x.srcErr then 2 else if fail then 1 else 0) s.blk t.blk ∧
      t.blk.media.accepted = s.blk.media.accepted.filter (·.idx != x.idx) ∧
      (t.blk.intake.wbRel, t.blk.kettle.moving) =
        (if x.desc.rel = true ∧ (if x.srcErr then 2 else if fail then 1 else 0) = 0 then
          (s.blk.intake.wbRel ++ [(x.desc.wbuf, x.desc.wblen)], s.blk.kettle.moving ++ [.release x.desc.kres])
        else (s.blk.intake.wbRel, s.blk.kettle.moving)) ∧
      t.blk.get R.MP_EVT_SRCERR = (if x.srcErr then 1 else s.blk.get R.MP_EVT_SRCERR) ∧
      t.blk.get R.MP_EVT_MEDIAERR = (if x.srcErr = false ∧ fail = true then 1 else s.blk.get R.MP_EVT_MEDIAERR) ∧
      (x.desc.db = true → t.blk.srcBit R.DIST_PENDSET_PEND (72 + 2 * s.blk.peOf (x.desc.le % 64)) = true) := by
  let b := s.blk.relHonoured x fail
  obtain ⟨hsealed, hmem, hregs, hbank, hdram, hmedia⟩ := relHonoured_same s.blk x fail
  have hget : ∀ f, b.get f = s.blk.get f := fun f => congrArg (fun r : Tab Nat => r.get f.key f.rst) hregs
  have hidle : Idle b := (idle_of_still hst).of_same hbank (congrArg DramPort.waiting hdram)
  have hsound : ∀ y, b.lineSound y := fun y k ht => by
    have hat : b.bankAt k = s.blk.bankAt k := by
      unfold Block.bankAt
      rw [hbank]
    rw [hat, (hst.1 k (target_carafe_lt ht)).2.2]
    rfl
  obtain ⟨hmade, -, hbell⟩ := mpEntry_made b x.desc.cookie (if 1 ≤ x.desc.op ∧ x.desc.op ≤ 5 then x.desc.op else 0) x.data (x.status fail)
    (if x.desc.db then some (x.desc.le % 64) else none)
  have hdone := mpEntry_completed hidle (hsound _) x.desc.cookie (if 1 ≤ x.desc.op ∧ x.desc.op ≤ 5 then x.desc.op else 0) x.data
    (x.status fail) (if x.desc.db then some (x.desc.le % 64) else none)
  have hx := exec_completion (fail := fail) h hb
  refine gives_of_done hx (hmade.isSealed.trans hsealed) ⟨?_, ?_, ?_, ?_, ?_, fun hdb => ?_⟩
  · rw [← status_code]
    exact hdone.of_same hregs hbank hmem (by rw [hmedia])
  · exact (congrArg Media.accepted hmade.media).trans (congrArg Media.accepted hmedia)
  · have hgive := relHonoured_gives s.blk x fail
    rw [status_code] at hgive
    rw [← hgive]
    exact congrArg₂ (fun (i : Intake) (k : Kettle) => (i.wbRel, k.moving)) hmade.intake hmade.kettle
  · obtain hst | hap := srcErr_apart (x.status fail)
    · rw [if_pos (status_srcErr.mp hst)]
      exact hmade.event _ (by rw [hst]; rfl)
    · have hno : x.srcErr ≠ true := fun e => hap R.MP_EVT_SRCERR (by rw [status_srcErr.mpr e]; decide) rfl
      rw [if_neg hno]
      exact (hmade.get _ (by unfold mediaFld; decide) hap).trans (hget _)
  · obtain hst | hap := mediaErr_apart (x.status fail)
    · rw [if_pos (status_mediaErr.mp hst)]
      exact hmade.event _ (by rw [hst]; rfl)
    · have hno : ¬(x.srcErr = false ∧ fail = true) := fun e => hap R.MP_EVT_MEDIAERR (by rw [status_mediaErr.mpr e]; decide) rfl
      rw [if_neg hno]
      exact (hmade.get _ (by unfold mediaFld; decide) hap).trans (hget _)
  · have hpe : b.peOf (x.desc.le % 64) = s.blk.peOf (x.desc.le % 64) := hget _
    rw [← hpe]
    exact hbell _ (Nat.mod_lt _ (by decide)) (if_pos hdb)

theorem gives_completion_none (h : s.blk.handedAt slot.toNat idx.toNat = none) : Gives (.mediaCompletion slot idx fail) s (Same s) := by
  refine gives_of_done (b := s.blk) ?_ rfl rfl
  show execMediaCompletion slot idx fail s = _
  unfold execMediaCompletion
  dsimp only
  rw [h]

/-! ## The end of a journal program (R262) -/

theorem exec_journalDone (h : s.blk.handedAt slot.toNat idx.toNat = some x) (hb : x.block ≠ none) :
    exec (.mediaCompletion slot idx fail) s =
      done s (((s.blk.without x.idx).journalDone x (fail || x.srcErr)).settleMp) := by
  show execMediaCompletion slot idx fail s = _
  unfold execMediaCompletion
  dsimp only
  rw [h]
  dsimp only
  rw [if_pos (Option.isSome_iff_ne_none.mpr hb)]
  rfl

/-- The journal's own end of a program that went well. -/
def Block.journalOn (b : Block) (gran : Nat) : Block :=
  (b.put64 R.MP_JLAST_LO_GRAN R.MP_JLAST_HI_GRAN gran).modMp fun m =>
    { m with
      jclosed := m.jclosed.drop 1
      jprog := true
      jopen := m.jopen.or (some ⟨((m.jclosed.getLast?.map (·.at')).getD 0 + 1) % 16, 0, 0⟩) }

theorem journalDone_eq (b : Block) (x : Accepted) (bad : Bool) : b.journalDone x bad =
    if bad then (b.modMp fun m => { m with jbusy := false }).mpCount .mediaErr
    else (b.modMp fun m => { m with jbusy := false }).journalOn x.desc.gran := rfl

theorem gives_journalDone (h : s.blk.handedAt slot.toNat idx.toNat = some x) (hb : x.block ≠ none) :
    Gives (.mediaCompletion slot idx fail) s fun t => t.blk.media.accepted = s.blk.media.accepted.filter (·.idx != x.idx) ∧
      t.blk.media.jbusy = false ∧ t.blk.mem = s.blk.mem ∧ t.blk.get R.MP_CPLTAIL_INDEX = s.blk.get R.MP_CPLTAIL_INDEX ∧
      (fail = true ∨ x.srcErr = true → t.blk.media.jclosed = s.blk.media.jclosed ∧ t.blk.get R.MP_EVT_MEDIAERR = 1) ∧
      (fail = false → x.srcErr = false → t.blk.media.jclosed = s.blk.media.jclosed.drop 1 ∧ t.blk.media.jprog = true ∧
        t.blk.get R.MP_JLAST_LO_GRAN = x.desc.gran % 2 ^ 32 ∧ t.blk.get R.MP_JLAST_HI_GRAN = x.desc.gran / 2 ^ 32 % 2 ^ 8) := by
  have hx := exec_journalDone (fail := fail) h hb
  rw [journalDone_eq] at hx
  cases hbad : (fail || x.srcErr)
  · rw [hbad, if_neg Bool.false_ne_true] at hx
    rw [Bool.or_eq_false_iff] at hbad
    refine gives_of_done hx rfl ⟨rfl, rfl, rfl, ?_, fun hf => ?_, fun _ _ => ⟨rfl, rfl, ?_, ?_⟩⟩
    · refine (Block.get_put_ne _ _ _ _ (by decide)).trans ((Block.get_put_ne _ _ _ _ (by decide)).trans ?_)
      exact Block.get_put_ne _ _ _ _ (by decide)
    · rw [hbad.1, hbad.2] at hf
      exact absurd hf (by decide)
    · refine (Block.get_put_ne _ _ _ _ (by decide)).trans ((Block.get_put_ne _ _ _ _ (by decide)).trans ?_)
      exact Block.get_put_same _ _ _
    · refine (Block.get_put_ne _ _ _ _ (by decide)).trans ?_
      exact Block.get_put_same _ _ _
  · rw [hbad, if_pos rfl] at hx
    rw [Bool.or_eq_true] at hbad
    refine gives_of_done hx rfl ⟨rfl, rfl, rfl, ?_, fun _ => ⟨rfl, ?_⟩, fun hf hs => ?_⟩
    · refine (Block.get_put_ne _ _ _ _ (by decide)).trans ?_
      exact (mpCount_kept (st := .mediaErr) (.refl (statusFields .mediaErr) _) fun _ hf => hf).get _ (by unfold mediaFld; decide) (by decide)
    · refine (Block.get_put_ne _ _ _ _ (by decide)).trans ?_
      exact mpCount_event (st := .mediaErr) _ rfl
    · rw [hf, hs] at hbad
      exact absurd hbad (by decide)

end

/-! ## JFLUSH (R262) -/

section
variable {s : State} {j : JBlock}

/-- A journal block's header. -/
def JBlock.header (j : JBlock) : List Byte :=
  leBytes 0x4C4E524A 4 ++ leBytes j.count 2 ++ [0, 0] ++ leBytes j.first 8 ++ List.replicate 16 0

theorem length_header (j : JBlock) : j.header.length = 32 := by
  unfold JBlock.header
  simp [leBytes_length]

/-- The open block closed, and the next one open where there is room. -/
def Media.closes (m : Media) (j : JBlock) : Media :=
  { m with
    jclosed := m.jclosed ++ [j]
    jopen := if (m.jclosed ++ [j]).length < 16 then some ⟨(j.at' + 1) % 16, 0, 0⟩ else none }

theorem closeJournal_none {b : Block} (h : b.media.jopen = none) : b.closeJournal = b := by
  unfold Block.closeJournal
  rw [h]

theorem closeJournal_empty {b : Block} (h : b.media.jopen = some j) (hc : j.count = 0) : b.closeJournal = b := by
  unfold Block.closeJournal
  rw [h]
  exact if_pos hc

theorem closeJournal_eq {b : Block} (h : b.media.jopen = some j) (hc : j.count ≠ 0) : b.closeJournal =
    ((b.dmaWrite rqMedia 2 (b.jAddr j.at') j.header).dmaWrite rqMedia 2 (b.jAddr j.at' + 0x20 + 32 * j.count)
      (List.replicate (4096 - 0x20 - 32 * j.count) 0)).modMp fun m => m.closes j := by
  unfold Block.closeJournal
  rw [h]
  exact if_neg hc

theorem gives_jflush (hwin : s.blk.winOff R.MP_CTRL_JFLUSH.off = false) (hst : s.blk.still) (h : s.blk.media.jopen = some j)
    (hc : 0 < j.count) (hr : s.blk.reachable (s.blk.jAddr 0 + 4096 * j.at') 32 = true) : Gives .jflush s fun t =>
      t.blk.media.jclosed = s.blk.media.jclosed ++ [j] ∧ t.blk.mem.bytes (s.blk.jAddr 0 + 4096 * j.at') 32 = j.header := by
  have haddr : s.blk.jAddr j.at' = s.blk.jAddr 0 + 4096 * j.at' := by
    unfold Block.jAddr
    omega
  have hlen := length_header j
  let b := s.blk.dmaWrite rqMedia 2 (s.blk.jAddr j.at') j.header
  let zeros : List Byte := List.replicate (4096 - 0x20 - 32 * j.count) 0
  obtain ⟨hmem, hw⟩ := dmaWrite_still (rq := rqMedia) (cls := 2) (a := s.blk.jAddr j.at') (d := j.header) hst (by decide)
    (by rw [hlen, haddr]; exact hr) (by rw [hlen]; decide)
  have hacc := hw.accessed.trans (dmaWrite_accessed b rqMedia 2 (s.blk.jAddr j.at' + 0x20 + 32 * j.count) zeros)
  have hhead : b.mem.bytes (s.blk.jAddr j.at') 32 = j.header := by
    have hself := Mem.bytes_writes s.blk.mem (s.blk.jAddr j.at') j.header
    rw [hlen] at hself
    show Mem.bytes b.mem _ 32 = _
    rw [hmem, hself]
  have hboth : (b.dmaWrite rqMedia 2 (s.blk.jAddr j.at' + 0x20 + 32 * j.count) zeros).mem.bytes (s.blk.jAddr j.at') 32 = j.header := by
    by_cases hz : b.reachable (s.blk.jAddr j.at' + 0x20 + 32 * j.count) zeros.length = true
    · obtain ⟨hmem', -⟩ := dmaWrite_still (rq := rqMedia) (cls := 2) (a := s.blk.jAddr j.at' + 0x20 + 32 * j.count) (d := zeros)
        (hw.still hst) (by decide) hz (by rw [List.length_replicate]; omega)
      rw [hmem', bytes_writes_apart _ (by omega), hhead]
    · have hskip : b.dmaWrite rqMedia 2 (s.blk.jAddr j.at' + 0x20 + 32 * j.count) zeros = b := by
        unfold Block.dmaWrite
        rw [Bool.not_eq_true] at hz
        rw [hz, Bool.not_false, Bool.or_true, if_pos rfl]
      rw [hskip, hhead]
  have hx : exec .jflush s = done s s.blk.closeJournal := congrArg (done s) (atReg_on hwin)
  rw [closeJournal_eq h (by omega)] at hx
  refine gives_of_done hx hacc.isSealed ⟨?_, ?_⟩
  · show (Block.media _).jclosed ++ [j] = _
    rw [hacc.media]
  · rw [← haddr]
    exact hboth

theorem gives_jflush_same (hwin : s.blk.winOff R.MP_CTRL_JFLUSH.off = false) (h : s.blk.closeJournal = s.blk) :
    Gives .jflush s (Same s) := by
  refine gives_of_done (b := s.blk) ?_ rfl rfl
  exact congrArg (done s) ((atReg_on hwin).trans h)

/-! ## The hand-off of a journal block (R262) -/

/-- The last block's place, or 0 in a journal's first block. -/
def Block.jPrev (b : Block) : Nat := if b.media.jprog then b.get64 R.MP_JLAST_LO_GRAN R.MP_JLAST_HI_GRAN else 0

/-- A journal block's link and check, written. -/
def Block.jSealed (b : Block) (a : Nat) : Block :=
  let c := b.dmaWrite rqMedia 0 (a + 0x10) (leBytes b.jPrev 8 ++ List.replicate 8 0)
  c.dmaWrite rqMedia 0 (a + 0x1C) (leBytes (crcStandard (c.fetch a 4096)) 4)

/-- A journal block's granules taken, and one less to take. -/
def Block.jTake (b : Block) (gran : Nat) : Block :=
  let b := (b.put R.MP_JNEXT_LO_GRAN ((gran + 8) % 2 ^ 32 / 8)).put R.MP_JNEXT_HI_GRAN ((gran + 8) / 2 ^ 32)
  b.put R.MP_JROOM_ROOM (b.get R.MP_JROOM_ROOM - 1)

/-- The internal program of a journal block. -/
def Block.jProgram (b : Block) (gran a at' : Nat) : Accepted :=
  ⟨b.freeIdx, 32, granSlot gran, b.media.order, Desc64.ofBytes (journalDesc gran a), some at', false, false, false, 0⟩

/-- The internal program accepted. -/
def Block.jAccept (b : Block) (gran a at' : Nat) : Block :=
  (b.modMp fun m => { m with accepted := m.accepted ++ [b.jProgram gran a at'], order := m.order + 1, jbusy := true }).settleMp

theorem exec_journalHandoff {js : List JBlock} (hj : s.blk.media.jclosed = j :: js)
    (hgo : (s.blk.media.jbusy || s.blk.get R.MP_JROOM_ROOM == 0 || s.blk.mpFull) = false) : exec .journalHandoff s = done s
      (((s.blk.jSealed (s.blk.jAddr j.at')).jTake (s.blk.getAddr R.MP_JNEXT_LO_GRAN R.MP_JNEXT_HI_GRAN)).jAccept
        (s.blk.getAddr R.MP_JNEXT_LO_GRAN R.MP_JNEXT_HI_GRAN) (s.blk.jAddr j.at') j.at') := by
  show execJournalHandoff s = _
  unfold execJournalHandoff
  dsimp only
  rw [hj]
  dsimp only
  rw [hgo]
  rfl

theorem jSealed_accessed (b : Block) (a : Nat) : Accessed b (b.jSealed a) := by
  unfold Block.jSealed
  exact (dmaWrite_accessed b rqMedia 0 _ _).trans (dmaWrite_accessed _ rqMedia 0 _ _)

theorem jTake_get (b : Block) (gran : Nat) : (b.jTake gran).get R.MP_JROOM_ROOM = (b.get R.MP_JROOM_ROOM - 1) % 2 ^ 16 ∧
    (b.jTake gran).getAddr R.MP_JNEXT_LO_GRAN R.MP_JNEXT_HI_GRAN = (gran + 8) % 2 ^ 40 / 8 * 8 := by
  have hlo : (b.jTake gran).get R.MP_JNEXT_LO_GRAN = (gran + 8) % 2 ^ 32 / 8 % 2 ^ 29 := by
    refine (Block.get_put_ne _ _ _ _ (by decide)).trans ((Block.get_put_ne _ _ _ _ (by decide)).trans ?_)
    exact Block.get_put_same _ _ _
  have hhi : (b.jTake gran).get R.MP_JNEXT_HI_GRAN = (gran + 8) / 2 ^ 32 % 2 ^ 8 := by
    refine (Block.get_put_ne _ _ _ _ (by decide)).trans ?_
    exact Block.get_put_same _ _ _
  refine ⟨?_, ?_⟩
  · refine (Block.get_put_same _ _ _).trans ?_
    rw [Block.get_put_ne _ _ _ _ (by decide), Block.get_put_ne _ _ _ _ (by decide)]
    rfl
  · unfold Block.getAddr
    rw [hlo, hhi, show R.MP_JNEXT_LO_GRAN.lo = 3 from rfl]
    omega

theorem jAccept_get (b : Block) (gran a at' : Nat) {f : Fld} (hf : f.key ≠ R.MP_STAT_OUTST.key) :
    (b.jAccept gran a at').get f = b.get f := Block.get_put_ne _ _ _ _ hf

theorem jAccept_next (b : Block) (gran a at' : Nat) : (b.jAccept gran a at').getAddr R.MP_JNEXT_LO_GRAN R.MP_JNEXT_HI_GRAN =
    b.getAddr R.MP_JNEXT_LO_GRAN R.MP_JNEXT_HI_GRAN := by
  unfold Block.getAddr
  rw [jAccept_get _ _ _ _ (by decide), jAccept_get _ _ _ _ (by decide)]

/-- What a journal block's hand-off leaves, from a block `c` in which its link and check are written. -/
theorem jHanded_facts {b c : Block} (hacc : Accessed b c) (gran a at' : Nat) :
    ((c.jTake gran).jAccept gran a at').isSealed = b.isSealed ∧ ((c.jTake gran).jAccept gran a at').media.jbusy = true ∧
    ((c.jTake gran).jAccept gran a at').get R.MP_JROOM_ROOM = (b.get R.MP_JROOM_ROOM - 1) % 2 ^ 16 ∧
    ((c.jTake gran).jAccept gran a at').getAddr R.MP_JNEXT_LO_GRAN R.MP_JNEXT_HI_GRAN = (gran + 8) % 2 ^ 40 / 8 * 8 ∧
    ((c.jTake gran).jAccept gran a at').media.accepted = b.media.accepted ++ [b.jProgram gran a at'] := by
  obtain ⟨hr, hn⟩ := jTake_get c gran
  have hroom : c.get R.MP_JROOM_ROOM = b.get R.MP_JROOM_ROOM := hacc.regs _ (mediaFld_beyond (by unfold mediaFld; decide))
  rw [hroom] at hr
  refine ⟨hacc.isSealed, rfl, (jAccept_get _ _ _ _ (by decide)).trans hr, (jAccept_next _ _ _ _).trans hn, ?_⟩
  have hmedia : (c.jTake gran).media = b.media := hacc.media
  show (c.jTake gran).media.accepted ++ [(c.jTake gran).jProgram gran a at'] = _
  unfold Block.jProgram Block.freeIdx
  rw [hmedia]

theorem gives_journalHandoff {js : List JBlock} (hj : s.blk.media.jclosed = j :: js) (hbusy : s.blk.media.jbusy = false)
    (hroom : s.blk.get R.MP_JROOM_ROOM ≠ 0) (hfull : s.blk.mpFull = false) : Gives .journalHandoff s fun t =>
      t.blk.media.jbusy = true ∧ t.blk.get R.MP_JROOM_ROOM = (s.blk.get R.MP_JROOM_ROOM - 1) % 2 ^ 16 ∧
      t.blk.getAddr R.MP_JNEXT_LO_GRAN R.MP_JNEXT_HI_GRAN =
        (s.blk.getAddr R.MP_JNEXT_LO_GRAN R.MP_JNEXT_HI_GRAN + 8) % 2 ^ 40 / 8 * 8 ∧
      t.blk.media.accepted = s.blk.media.accepted ++
        [s.blk.jProgram (s.blk.getAddr R.MP_JNEXT_LO_GRAN R.MP_JNEXT_HI_GRAN) (s.blk.jAddr j.at') j.at'] := by
  have hgo : (s.blk.media.jbusy || s.blk.get R.MP_JROOM_ROOM == 0 || s.blk.mpFull) = false := by
    rw [hbusy, hfull, beq_eq_false_iff_ne.mpr hroom]
    rfl
  obtain ⟨hsealed, hrest⟩ := jHanded_facts (jSealed_accessed s.blk (s.blk.jAddr j.at'))
    (s.blk.getAddr R.MP_JNEXT_LO_GRAN R.MP_JNEXT_HI_GRAN) (s.blk.jAddr j.at') j.at'
  exact gives_of_done (exec_journalHandoff hj hgo) hsealed hrest

theorem gives_journalHandoff_none (h : s.blk.media.jclosed = [] ∨ s.blk.media.jbusy = true ∨ s.blk.get R.MP_JROOM_ROOM = 0 ∨
    s.blk.mpFull = true) : Gives .journalHandoff s (Same s) := by
  refine gives_of_done (b := s.blk) ?_ rfl rfl
  show execJournalHandoff s = _
  unfold execJournalHandoff
  dsimp only
  split
  · rfl
  next j js hj =>
    have hno : (s.blk.media.jbusy || s.blk.get R.MP_JROOM_ROOM == 0 || s.blk.mpFull) = true := by
      rw [hj] at h
      obtain h | h | h | h := h
      · cases h
      · rw [h]
        rfl
      · rw [h, beq_self_eq_true, Bool.or_true]
        rfl
      · rw [h, Bool.or_true]
    rw [hno]
    rfl

end

/-- Settles O39: each hand-off, beat and completion moves what it names, and the journal's blocks go out one after the other. -/
theorem mediaTraffic : Obligations.MediaTraffic := by
  intro slot idx gidx beat data oob fail find x s _ hst
  dsimp only
  refine ⟨gives_handoff, gives_handoff_none, fun h hop => ⟨fun he => ?_, fun hs hn hl => ?_, fun hs hn hr => ?_⟩,
    fun h hop hr => ⟨gives_readData_plain hst h hop hr, fun ho hb hr' hap => gives_readData_oob hst h hop hr ho hb hr' hap⟩,
    gives_completion hst, gives_journalDone, gives_completion_none, fun hwin => ⟨fun j hj hc _ hr => ?_, fun j hj hc => ?_, fun hj => ?_⟩,
    fun j js => gives_journalHandoff, gives_journalHandoff_none⟩
  · obtain ⟨t, hx, ht⟩ := gives_program_empty (gidx := gidx) (find := find) h hop he
    have hmem : t.blk.mem = s.blk.mem := (congrArg Block.mem ht).trans rfl
    have hmedia : t.blk.media = s.blk.media := (congrArg Block.media ht).trans rfl
    exact ⟨t, hx, ⟨congrArg (fun u : Block => u.ports.mpwd) ht, hmem⟩, hmedia⟩
  · obtain ⟨t, hx, hp, hm, ha⟩ := gives_program_lost (gidx := gidx) hst h hop hs hn hl
    exact ⟨t, hx, ⟨hp, hm⟩, ha⟩
  · obtain ⟨t, hx, hp, hm, ha⟩ := gives_program_read (gidx := gidx) hst h hop hs hn hr
    exact ⟨t, hx, ⟨hp, hm⟩, ha⟩
  · exact gives_jflush hwin hst hj hc hr
  · exact gives_jflush_same hwin (closeJournal_empty hj hc)
  · exact gives_jflush_same hwin (closeJournal_none hj)

end Sys2Proof.Machine
end

section
/-! Installs: the map slots written and the journal records appended (R248, R256, R257, R264). -/
namespace Sys2Proof.Machine

/-! ## What the journal leaves alone -/

/-- From `b` to `b'` memory has been accessed and JSEQ and the journal's blocks may have moved on; nothing else has changed. -/
structure Journaled (b b' : Block) : Prop where
  isSealed : b'.isSealed = b.isSealed
  media : { b'.media with jopen := b.media.jopen, jclosed := b.media.jclosed } = b.media
  regs : ∀ f, beyondAccess f → f.key ≠ R.MP_JSEQ_LO_JSEQ.key → f.key ≠ R.MP_JSEQ_HI_JSEQ.key → b'.get f = b.get f
  unmoved : ∀ k, (b'.bankAt k).target = (b.bankAt k).target

section
variable {b c d : Block}

theorem Journaled.refl (b : Block) : Journaled b b := ⟨rfl, rfl, fun _ _ _ _ => rfl, fun _ => rfl⟩

theorem Journaled.accessed (h : Journaled b c) (k : Accessed c d) : Journaled b d :=
  ⟨k.isSealed.trans h.isSealed, by rw [k.media]; exact h.media, fun f hf h1 h2 => (k.regs f hf).trans (h.regs f hf h1 h2),
    fun j => (k.unmoved j).trans (h.unmoved j)⟩

theorem Journaled.jseq (h : Journaled b c) (v : Nat) : Journaled b (c.put64 R.MP_JSEQ_LO_JSEQ R.MP_JSEQ_HI_JSEQ v) :=
  ⟨h.isSealed, h.media, fun f hf h1 h2 =>
    (Block.get_put_ne _ _ _ _ h2).trans ((Block.get_put_ne _ _ _ _ h1).trans (h.regs f hf h1 h2)), h.unmoved⟩

theorem Journaled.blocks (h : Journaled b c) {f : Media → Media}
    (hf : ∀ m o l, { f m with jopen := o, jclosed := l } = { m with jopen := o, jclosed := l }) : Journaled b (c.modMp f) :=
  ⟨h.isSealed, (hf c.media b.media.jopen b.media.jclosed).trans h.media, h.regs, h.unmoved⟩

theorem Journaled.trans (h : Journaled b c) (k : Journaled c d) : Journaled b d := by
  refine ⟨k.isSealed.trans h.isSealed, ?_, fun f hf h1 h2 => (k.regs f hf h1 h2).trans (h.regs f hf h1 h2),
    fun j => (k.unmoved j).trans (h.unmoved j)⟩
  have e := congrArg (fun m : Media => { m with jopen := b.media.jopen, jclosed := b.media.jclosed }) k.media
  exact Eq.trans e h.media

end

/-- A field of a map or of the journal's buffer address stands. -/
theorem Journaled.mediaGet {b c : Block} (h : Journaled b c) {f : Fld} (hf : mediaFld f) (h1 : f.key ≠ R.MP_JSEQ_LO_JSEQ.key)
    (h2 : f.key ≠ R.MP_JSEQ_HI_JSEQ.key) : c.get f = b.get f := h.regs f (mediaFld_beyond hf) h1 h2

theorem Journaled.jAddr {b c : Block} (h : Journaled b c) (n : Nat) : c.jAddr n = b.jAddr n := by
  unfold Block.jAddr Block.getAddr
  rw [h.mediaGet (by unfold mediaFld; decide) (by decide) (by decide), h.mediaGet (by unfold mediaFld; decide) (by decide) (by decide)]

theorem closeJournal_journaled (b : Block) : Journaled b b.closeJournal := by
  cases hj : b.media.jopen with
  | none => rw [closeJournal_none hj]; exact .refl b
  | some j =>
    by_cases hc : j.count = 0
    · rw [closeJournal_empty hj hc]
      exact .refl b
    · rw [closeJournal_eq hj hc]
      exact ((Journaled.refl b).accessed ((dmaWrite_accessed b rqMedia 2 _ _).trans (dmaWrite_accessed _ rqMedia 2 _ _))).blocks fun _ _ _ => rfl

/-! ## A record (R256, R264) -/

section
variable {b : Block} {d : Desc64} {kind gran ugran : Nat} {run : Nat × Nat} {j : JBlock}

/-- The 32 bytes of a record with sequence number `q`. -/
def recordBytes (d : Desc64) (kind gran ugran : Nat) (run : Nat × Nat) (q : Nat) : List Byte :=
  let r := leBytes q 8 ++ leBytes (d.iu + run.1 + 2 ^ 48 * d.nss + 2 ^ 52 * kind + 2 ^ 54 * (if kind = 2 then run.1 else 0)) 8 ++
    leBytes (gran + 2 ^ 40 * ugran + 2 ^ 52 * run.2) 8 ++ leBytes d.cookie 4
  r ++ leBytes (crcStandard r) 4

theorem length_recordBytes (d : Desc64) (kind gran ugran : Nat) (run : Nat × Nat) (q : Nat) :
    (recordBytes d kind gran ugran run q).length = 32 := by
  unfold recordBytes
  simp [leBytes_length]

/-- The open block with one more record. -/
def JBlock.more (j : JBlock) (q : Nat) : JBlock := { j with count := j.count + 1, first := if j.count = 0 then q else j.first }

/-- A record written, with JSEQ and the open block moved on. -/
def Block.recorded (b : Block) (d : Desc64) (kind gran ugran : Nat) (run : Nat × Nat) (j : JBlock) : Block :=
  ((b.dmaWrite rqMedia 2 (b.jAddr j.at' + 0x20 + 32 * j.count) (recordBytes d kind gran ugran run b.jseq)).put64 R.MP_JSEQ_LO_JSEQ
    R.MP_JSEQ_HI_JSEQ (b.jseq + 1)).modMp fun m => { m with jopen := some (j.more b.jseq) }

theorem appendRecord_none (h : b.media.jopen = none) : b.appendRecord d kind gran ugran run = b := by
  unfold Block.appendRecord
  rw [h]

theorem appendRecord_some (h : b.media.jopen = some j) : b.appendRecord d kind gran ugran run =
    if j.count + 1 = 127 then (b.recorded d kind gran ugran run j).closeJournal else b.recorded d kind gran ugran run j := by
  unfold Block.appendRecord
  rw [h]
  rfl

theorem recorded_journaled (b : Block) (d : Desc64) (kind gran ugran : Nat) (run : Nat × Nat) (j : JBlock) :
    Journaled b (b.recorded d kind gran ugran run j) :=
  (((Journaled.refl b).accessed (dmaWrite_accessed b rqMedia 2 _ _)).jseq (b.jseq + 1)).blocks fun _ _ _ => rfl

theorem appendRecord_journaled (b : Block) (d : Desc64) (kind gran ugran : Nat) (run : Nat × Nat) :
    Journaled b (b.appendRecord d kind gran ugran run) := by
  cases hj : b.media.jopen with
  | none => rw [appendRecord_none hj]; exact .refl b
  | some j =>
    have h := recorded_journaled b d kind gran ugran run j
    rw [appendRecord_some hj]
    split
    · exact h.trans (closeJournal_journaled _)
    · exact h

theorem records_journaled (l : List (Nat × Nat)) (b : Block) :
    Journaled b (l.foldl (fun b r => b.appendRecord d kind gran ugran r) b) :=
  List.foldlRecOn (motive := Journaled b) _ _ (.refl b) fun c hc p _ => hc.trans (appendRecord_journaled c d kind gran ugran p)

/-! ## JSEQ (R264) -/

theorem jseq_put64 (b : Block) (v : Nat) : (b.put64 R.MP_JSEQ_LO_JSEQ R.MP_JSEQ_HI_JSEQ v).jseq = v % 2 ^ 64 := by
  have hlo : (b.put64 R.MP_JSEQ_LO_JSEQ R.MP_JSEQ_HI_JSEQ v).get R.MP_JSEQ_LO_JSEQ = v % 2 ^ 32 := by
    refine (Block.get_put_ne _ _ _ _ (by decide)).trans ?_
    exact Block.get_put_same _ _ _
  have hhi : (b.put64 R.MP_JSEQ_LO_JSEQ R.MP_JSEQ_HI_JSEQ v).get R.MP_JSEQ_HI_JSEQ = v / 2 ^ 32 % 2 ^ 32 := Block.get_put_same _ _ _
  unfold Block.jseq Block.get64
  rw [hlo, hhi]
  omega

theorem jseq_modMp (b : Block) (f : Media → Media) : (b.modMp f).jseq = b.jseq := rfl

theorem modMp_media (b : Block) (f : Media → Media) : (b.modMp f).media = f b.media := rfl

theorem put64_media (b : Block) (lo hi : Fld) (v : Nat) : (b.put64 lo hi v).media = b.media := rfl

theorem jseq_accessed {c : Block} (h : Accessed b c) : c.jseq = b.jseq := by
  have hlo := h.regs R.MP_JSEQ_LO_JSEQ (mediaFld_beyond (by unfold mediaFld; decide))
  have hhi := h.regs R.MP_JSEQ_HI_JSEQ (mediaFld_beyond (by unfold mediaFld; decide))
  unfold Block.jseq Block.get64
  rw [hlo, hhi]

theorem closeJournal_jseq (b : Block) : b.closeJournal.jseq = b.jseq := by
  cases hj : b.media.jopen with
  | none => rw [closeJournal_none hj]
  | some j =>
    by_cases hc : j.count = 0
    · rw [closeJournal_empty hj hc]
    · rw [closeJournal_eq hj hc]
      rw [jseq_modMp]
      exact jseq_accessed ((dmaWrite_accessed b rqMedia 2 _ _).trans (dmaWrite_accessed _ rqMedia 2 _ _))

theorem recorded_jseq (b : Block) (d : Desc64) (kind gran ugran : Nat) (run : Nat × Nat) (j : JBlock) :
    (b.recorded d kind gran ugran run j).jseq = (b.jseq + 1) % 2 ^ 64 := (jseq_modMp _ _).trans (jseq_put64 _ _)

theorem recorded_jopen (b : Block) (d : Desc64) (kind gran ugran : Nat) (run : Nat × Nat) (j : JBlock) :
    (b.recorded d kind gran ugran run j).media.jopen = some (j.more b.jseq) := congrArg Media.jopen (modMp_media _ _)

theorem recorded_jclosed (b : Block) (d : Desc64) (kind gran ugran : Nat) (run : Nat × Nat) (j : JBlock) :
    (b.recorded d kind gran ugran run j).media.jclosed = b.media.jclosed := by
  have h := (dmaWrite_accessed b rqMedia 2 (b.jAddr j.at' + 0x20 + 32 * j.count) (recordBytes d kind gran ugran run b.jseq)).media
  unfold Block.recorded
  rw [modMp_media, put64_media, h]

theorem closeJournal_blocks (h : b.media.jopen = some j) (hc : j.count ≠ 0) :
    b.closeJournal.media.jopen = (if (b.media.jclosed ++ [j]).length < 16 then some ⟨(j.at' + 1) % 16, 0, 0⟩ else none) ∧
      b.closeJournal.media.jclosed = b.media.jclosed ++ [j] := by
  have hacc := ((dmaWrite_accessed b rqMedia 2 (b.jAddr j.at') j.header).trans (dmaWrite_accessed _ rqMedia 2
    (b.jAddr j.at' + 0x20 + 32 * j.count) (List.replicate (4096 - 0x20 - 32 * j.count) 0))).media
  rw [closeJournal_eq h hc]
  generalize Block.dmaWrite _ _ _ _ _ = c at hacc
  unfold Block.modMp Media.closes
  rw [hacc]
  exact ⟨rfl, rfl⟩

/-- A record takes the next JSEQ, and at most one place of the journal's room. -/
theorem appendRecord_room (hroom : 1 ≤ b.jRoomFor) : (b.appendRecord d kind gran ugran run).jseq = (b.jseq + 1) % 2 ^ 64 ∧
    b.jRoomFor ≤ (b.appendRecord d kind gran ugran run).jRoomFor + 1 := by
  cases hj : b.media.jopen with
  | none =>
    have h0 : b.jRoomFor = 0 := by
      unfold Block.jRoomFor
      rw [hj]
    omega
  | some j =>
    have hr : b.jRoomFor = 127 - j.count + 127 * (15 - b.media.jclosed.length) := by
      unfold Block.jRoomFor
      rw [hj]
    rw [appendRecord_some hj, hr]
    split
    next hc =>
      obtain ⟨hopen, hclosed⟩ := closeJournal_blocks (recorded_jopen b d kind gran ugran run j) (Nat.succ_ne_zero _)
      refine ⟨(closeJournal_jseq _).trans (recorded_jseq b d kind gran ugran run j), ?_⟩
      unfold Block.jRoomFor
      rw [hopen, hclosed, recorded_jclosed, List.length_append, List.length_singleton]
      split
      next j' hj' =>
        split at hj'
        · cases hj'
          dsimp only
          omega
        · cases hj'
      next hj' =>
        split at hj'
        · cases hj'
        · omega
    next hc =>
      refine ⟨recorded_jseq b d kind gran ugran run j, ?_⟩
      unfold Block.jRoomFor
      rw [recorded_jopen, recorded_jclosed]
      show _ ≤ 127 - (j.count + 1) + 127 * (15 - b.media.jclosed.length) + 1
      omega

theorem records_jseq (l : List (Nat × Nat)) (hroom : l.length ≤ b.jRoomFor) :
    (l.foldl (fun b r => b.appendRecord d kind gran ugran r) b).jseq = (b.jseq + l.length) % 2 ^ 64 ∨
      b.jseq = (l.foldl (fun b r => b.appendRecord d kind gran ugran r) b).jseq ∧ l = [] := by
  induction l generalizing b with
  | nil => exact .inr ⟨rfl, rfl⟩
  | cons r l ih =>
    rw [List.length_cons] at hroom
    obtain ⟨hseq, hnext⟩ := appendRecord_room (d := d) (kind := kind) (gran := gran) (ugran := ugran) (run := r)
      (show 1 ≤ b.jRoomFor by omega)
    left
    rw [List.foldl_cons, List.length_cons]
    obtain h | ⟨h, rfl⟩ := ih (b := b.appendRecord d kind gran ugran r) (by omega)
    · rw [h, hseq]
      omega
    · rw [← h, hseq]
      rfl

end

end Sys2Proof.Machine
end

section
/-! Installs in memory: each map slot receives its word, and the journal's buffer is apart from the map (R248, R256, R262). -/
namespace Sys2Proof.Machine

/-! ## Writes of a bounded range -/

/-- From `b` to `b'` no byte outside `[lo, hi)` has changed, and nothing waits. -/
structure Within (lo hi : Nat) (b b' : Block) : Prop where
  still : b'.still
  read : ∀ x, x < lo ∨ hi ≤ x → b'.mem.read x = b.mem.read x

section
variable {lo hi : Nat} {b c d : Block}

theorem Within.refl (h : b.still) : Within lo hi b b := ⟨h, fun _ _ => rfl⟩

theorem Within.trans (h : Within lo hi b c) (k : Within lo hi c d) : Within lo hi b d :=
  ⟨k.still, fun x hx => (k.read x hx).trans (h.read x hx)⟩

theorem dmaWrite_unreached {rq cls a : Nat} {l : List Byte} (h : b.reachable a l.length ≠ true) : b.dmaWrite rq cls a l = b := by
  unfold Block.dmaWrite
  rw [Bool.eq_false_iff.mpr h, Bool.not_false, Bool.or_true, if_pos rfl]

theorem dmaWrite_within {rq cls a : Nat} {l : List Byte} (hst : b.still) (hc : cls < 6) (hn : l.length ≤ 2 ^ 20) (hlo : lo ≤ a)
    (hhi : a + l.length ≤ hi) : Within lo hi b (b.dmaWrite rq cls a l) := by
  by_cases hr : b.reachable a l.length = true
  · obtain ⟨hmem, hw⟩ := dmaWrite_still (rq := rq) (cls := cls) hst hc hr hn
    exact ⟨hw.still hst, fun x hx => by rw [hmem]; exact Mem.read_writes_out _ _ _ _ (by omega)⟩
  · rw [dmaWrite_unreached hr]
    exact .refl hst

theorem Within.modMp (h : Within lo hi b c) (f : Media → Media) : Within lo hi b (c.modMp f) := ⟨h.still, h.read⟩

theorem Within.put64 (h : Within lo hi b c) (f g : Fld) (v : Nat) : Within lo hi b (c.put64 f g v) := ⟨h.still, h.read⟩

theorem Within.bytes (h : Within lo hi b c) {a n : Nat} (ha : a + n ≤ lo ∨ hi ≤ a) : c.mem.bytes a n = b.mem.bytes a n := by
  rw [Mem.bytes_eq_map, Mem.bytes_eq_map]
  exact List.map_congr_left fun i hi => h.read _ (by have := List.mem_range.mp hi; omega)

end

/-! ## The journal's records -/

/-- The open journal block is one of the sixteen and has room for a record. -/
def Block.journalFits (b : Block) : Prop := ∀ j, b.media.jopen = some j → j.at' < 16 ∧ j.count < 127

section
variable {b : Block} {d : Desc64} {kind gran ugran : Nat} {run : Nat × Nat} {j : JBlock}

theorem closeJournal_within (hst : b.still) (h : b.media.jopen = some j) (hat : j.at' < 16) (hc0 : j.count ≠ 0) (hc : j.count ≤ 127) :
    Within (b.jAddr 0) (b.jAddr 16) b b.closeJournal := by
  have hj : b.jAddr j.at' = b.jAddr 0 + 4096 * j.at' := by unfold Block.jAddr; omega
  have h16 : b.jAddr 16 = b.jAddr 0 + 4096 * 16 := by unfold Block.jAddr; omega
  have hlen := length_header j
  rw [closeJournal_eq h hc0]
  have h1 := dmaWrite_within (lo := b.jAddr 0) (hi := b.jAddr 16) (rq := rqMedia) (cls := 2) (a := b.jAddr j.at') (l := j.header) hst
    (by decide) (by rw [hlen]; decide) (by omega) (by rw [hlen]; omega)
  have h2 := dmaWrite_within (lo := b.jAddr 0) (hi := b.jAddr 16) (rq := rqMedia) (cls := 2) (a := b.jAddr j.at' + 0x20 + 32 * j.count)
    (l := List.replicate (4096 - 0x20 - 32 * j.count) 0) h1.still (by decide) (by rw [List.length_replicate]; omega) (by omega)
    (by rw [List.length_replicate]; omega)
  exact (h1.trans h2).modMp _

theorem recorded_within (hst : b.still) (hat : j.at' < 16) (hc : j.count < 127) :
    Within (b.jAddr 0) (b.jAddr 16) b (b.recorded d kind gran ugran run j) := by
  have hj : b.jAddr j.at' = b.jAddr 0 + 4096 * j.at' := by unfold Block.jAddr; omega
  have h16 : b.jAddr 16 = b.jAddr 0 + 4096 * 16 := by unfold Block.jAddr; omega
  have hlen := length_recordBytes d kind gran ugran run b.jseq
  have h := dmaWrite_within (lo := b.jAddr 0) (hi := b.jAddr 16) (rq := rqMedia) (cls := 2) (a := b.jAddr j.at' + 0x20 + 32 * j.count)
    (l := recordBytes d kind gran ugran run b.jseq) hst (by decide) (by rw [hlen]; decide) (by omega) (by rw [hlen]; omega)
  exact (h.put64 _ _ _).modMp _

theorem appendRecord_within (hst : b.still) (hfit : b.journalFits) :
    Within (b.jAddr 0) (b.jAddr 16) b (b.appendRecord d kind gran ugran run) ∧ (b.appendRecord d kind gran ugran run).journalFits := by
  cases hj : b.media.jopen with
  | none =>
    rw [appendRecord_none hj]
    exact ⟨.refl hst, hfit⟩
  | some j =>
    obtain ⟨hat, hc⟩ := hfit j hj
    have hrec := recorded_within (d := d) (kind := kind) (gran := gran) (ugran := ugran) (run := run) hst hat hc
    have hjour := recorded_journaled b d kind gran ugran run j
    have hopen := recorded_jopen b d kind gran ugran run j
    rw [appendRecord_some hj]
    split
    next h127 =>
      have hclose := closeJournal_within hrec.still hopen hat (Nat.succ_ne_zero _) (show j.count + 1 ≤ 127 by omega)
      rw [hjour.jAddr, hjour.jAddr] at hclose
      refine ⟨hrec.trans hclose, fun j' hj' => ?_⟩
      rw [(closeJournal_blocks hopen (Nat.succ_ne_zero _)).1] at hj'
      split at hj'
      · cases hj'
        exact ⟨Nat.mod_lt _ (by decide), show (0 : Nat) < 127 by decide⟩
      · cases hj'
    next h127 =>
      refine ⟨hrec, fun j' hj' => ?_⟩
      rw [hopen] at hj'
      cases hj'
      exact ⟨hat, show j.count + 1 < 127 by omega⟩

theorem records_within (l : List (Nat × Nat)) (hst : b.still) (hfit : b.journalFits) :
    Within (b.jAddr 0) (b.jAddr 16) b (l.foldl (fun b r => b.appendRecord d kind gran ugran r) b) := by
  induction l generalizing b with
  | nil => exact .refl hst
  | cons r l ih =>
    obtain ⟨hw, hfit'⟩ := appendRecord_within (d := d) (kind := kind) (gran := gran) (ugran := ugran) (run := r) hst hfit
    have hjour := appendRecord_journaled b d kind gran ugran r
    have hrest := ih hw.still hfit'
    rw [hjour.jAddr, hjour.jAddr] at hrest
    exact hw.trans hrest

/-! ## The map slots (R248) -/

/-- The words of some slots written. -/
def Block.slotted (b : Block) (at' : Nat → Nat) (word : Nat → Nat) (l : List Nat) : Block :=
  l.foldl (fun b i => b.dmaWrite rqMedia 2 (at' i) (leBytes (word i) 8)) b

theorem slotted_accessed (b : Block) (at' word : Nat → Nat) (l : List Nat) : Accessed b (b.slotted at' word l) :=
  List.foldlRecOn (motive := Accessed b) _ _ (.refl b) fun _ hc _ _ => hc.trans (dmaWrite_accessed _ rqMedia 2 _ _)

/-- Slots eight bytes apart hold what was written there last, and what they held elsewhere. -/
theorem slotted_bytes {base : Nat} {word : Nat → Nat} (l : List Nat) (hst : b.still)
    (hr : ∀ i ∈ l, b.reachable (base + 8 * i) 8 = true) : (b.slotted (base + 8 * ·) word l).still ∧
    ∀ i, (b.slotted (base + 8 * ·) word l).mem.bytes (base + 8 * i) 8 =
      if i ∈ l then leBytes (word i) 8 else b.mem.bytes (base + 8 * i) 8 := by
  induction l generalizing b with
  | nil => exact ⟨hst, fun i => (if_neg List.not_mem_nil).symm⟩
  | cons k l ih =>
    have hlen : (leBytes (word k) 8).length = 8 := leBytes_length _ _
    obtain ⟨hmem, hw⟩ := dmaWrite_still (rq := rqMedia) (cls := 2) (a := base + 8 * k) (d := leBytes (word k) 8) hst (by decide)
      (by rw [hlen]; exact hr k List.mem_cons_self) (by rw [hlen]; decide)
    obtain ⟨hstill, hbytes⟩ := ih (b := b.dmaWrite rqMedia 2 (base + 8 * k) (leBytes (word k) 8)) (hw.still hst) fun i hi => by
      rw [hw.accessed.reachable]
      exact hr i (List.mem_cons_of_mem _ hi)
    refine ⟨hstill, fun i => (hbytes i).trans ?_⟩
    have hself := Mem.bytes_writes b.mem (base + 8 * k) (leBytes (word k) 8)
    rw [hlen] at hself
    by_cases hi : i ∈ l
    · rw [if_pos hi, if_pos (List.mem_cons_of_mem _ hi)]
    · rw [if_neg hi, hmem]
      by_cases hk : i = k
      · rw [if_pos (hk ▸ List.mem_cons_self), hk, hself]
      · rw [if_neg fun h => (List.mem_cons.mp h).elim hk hi]
        rw [Mem.bytes_eq_map, Mem.bytes_eq_map]
        refine List.map_congr_left fun y hy => Mem.read_writes_out _ _ _ _ ?_
        have := List.mem_range.mp hy
        omega

end

/-! ## An install (R256, R257) -/

section
variable {b : Block} {d : Desc64} {kind gran ugran : Nat}

/-- The block after an install. -/
def Block.installed (b : Block) (d : Desc64) (kind gran ugran : Nat) : Block :=
  (runsOf (b.installSet d)).foldl (fun b r => b.appendRecord d kind gran ugran r)
    (b.slotted (b.mapAddr d.nss d.iu + 8 * ·) (slotWord kind gran ugran) (b.installSet d))

theorem Accessed.mapAddr {c : Block} (h : Accessed b c) {n : Nat} (hn : n < 8) (iu : Nat) : c.mapAddr n iu = b.mapAddr n iu := by
  have hfld : ∀ f, f = R.MP_NS_MAP_LO_ADDR n ∨ f = R.MP_NS_MAP_HI_ADDR n → mediaFld f := by
    unfold mediaFld
    rintro f (rfl | rfl)
    · simp only [Fld.key, R.MP_NS_MAP_LO_ADDR]
      omega
    · simp only [Fld.key, R.MP_NS_MAP_HI_ADDR]
      omega
  unfold Block.mapAddr Block.getAddr
  rw [h.regs _ (mediaFld_beyond (hfld _ (.inl rfl))), h.regs _ (mediaFld_beyond (hfld _ (.inr rfl)))]

theorem nss_lt (d : Desc64) : d.nss < 8 := by
  unfold Desc64.nss
  omega

theorem slotted_install (l : List Nat) {c : Block} (h : Accessed b c) : l.foldl (fun b i =>
      b.dmaWrite rqMedia 2 (b.mapAddr d.nss (d.iu + i)) (leBytes (slotWord kind gran ugran i) 8)) c =
    c.slotted (b.mapAddr d.nss d.iu + 8 * ·) (slotWord kind gran ugran) l := by
  unfold Block.slotted
  induction l generalizing c with
  | nil => rw [List.foldl_nil, List.foldl_nil]
  | cons i l ih =>
    have haddr : c.mapAddr d.nss (d.iu + i) = b.mapAddr d.nss d.iu + 8 * i := by
      rw [h.mapAddr (nss_lt d)]
      unfold Block.mapAddr
      omega
    rw [List.foldl_cons, List.foldl_cons, haddr]
    exact ih (h.trans (dmaWrite_accessed c rqMedia 2 _ _))

theorem install_some (hroom : (runsOf (b.installSet d)).length ≤ b.jRoomFor) : b.install d kind gran ugran =
    some (b.installed d kind gran ugran, if (runsOf (b.installSet d)).isEmpty then 0 else b.jseq) := by
  unfold Block.install
  dsimp only
  rw [if_neg (by omega), slotted_install _ (.refl b)]
  rfl

theorem install_none (hroom : b.jRoomFor < (runsOf (b.installSet d)).length) : b.install d kind gran ugran = none := if_pos hroom

theorem installed_journaled (b : Block) (d : Desc64) (kind gran ugran : Nat) : Journaled b (b.installed d kind gran ugran) :=
  ((Journaled.refl b).accessed (slotted_accessed b _ _ _)).trans (records_journaled _ _)

theorem jRoom_accessed {c : Block} (h : Accessed b c) : c.jRoomFor = b.jRoomFor := by
  unfold Block.jRoomFor
  rw [h.media]

theorem installed_jseq (hroom : (runsOf (b.installSet d)).length ≤ b.jRoomFor) :
    (b.installed d kind gran ugran).jseq = (b.jseq + (runsOf (b.installSet d)).length) % 2 ^ 64 ∨
      b.jseq = (b.installed d kind gran ugran).jseq ∧ runsOf (b.installSet d) = [] := by
  have hacc := slotted_accessed b (b.mapAddr d.nss d.iu + 8 * ·) (slotWord kind gran ugran) (b.installSet d)
  have h := records_jseq (d := d) (kind := kind) (gran := gran) (ugran := ugran) (runsOf (b.installSet d))
    (b := b.slotted (b.mapAddr d.nss d.iu + 8 * ·) (slotWord kind gran ugran) (b.installSet d)) (by rw [jRoom_accessed hacc]; exact hroom)
  rw [jseq_accessed hacc] at h
  exact h

theorem installSet_lt {i : Nat} (h : i ∈ b.installSet d) : i < d.iucnt := List.mem_range.mp (List.mem_filter.mp h).1

/-- The map after an install whose slots are in reach and apart from the journal's buffer. -/
theorem installed_slots (hst : b.still) (hfit : b.journalFits) (hmap : ∀ i < d.iucnt, b.reachable (b.mapAddr d.nss d.iu + 8 * i) 8 = true ∧
      (b.mapAddr d.nss d.iu + 8 * i + 8 ≤ b.jAddr 0 ∨ b.jAddr 16 ≤ b.mapAddr d.nss d.iu + 8 * i)) {i : Nat} (hi : i < d.iucnt) :
    leNat ((b.installed d kind gran ugran).mem.bytes (b.mapAddr d.nss d.iu + 8 * i) 8) =
      if i ∈ b.installSet d then slotWord kind gran ugran i % 2 ^ 64 else leNat (b.mem.bytes (b.mapAddr d.nss d.iu + 8 * i) 8) := by
  let c := b.slotted (b.mapAddr d.nss d.iu + 8 * ·) (slotWord kind gran ugran) (b.installSet d)
  have hacc : Accessed b c := slotted_accessed b _ _ _
  have hjour := (Journaled.refl b).accessed hacc
  obtain ⟨hstill, hbytes⟩ := slotted_bytes (word := slotWord kind gran ugran) (base := b.mapAddr d.nss d.iu) (b.installSet d) hst
    fun k hk => (hmap k (installSet_lt hk)).1
  have hfit' : c.journalFits := by
    unfold Block.journalFits
    rw [hacc.media]
    exact hfit
  have hrec := records_within (d := d) (kind := kind) (gran := gran) (ugran := ugran) (runsOf (b.installSet d)) (b := c) hstill hfit'
  rw [hjour.jAddr, hjour.jAddr] at hrec
  have hkeep := hrec.bytes (hmap i hi).2
  show leNat (Mem.bytes (Block.mem ((runsOf (b.installSet d)).foldl _ c)) _ 8) = _
  rw [hkeep, hbytes i]
  split
  · rw [leNat_leBytes, show (256 : Nat) ^ 8 = 2 ^ 64 by decide]
  · rfl

end

end Sys2Proof.Machine
end

section
/-! Media submission, fetch and acceptance (R252 to R254, R256, R257, R259, R260). -/
namespace Sys2Proof.Machine

/-! ## Completions of descriptors that are not handed over -/

theorem mediaFld_ne_target {f : Fld} (h : mediaFld f) : f.key ≠ R.INTEG_DRAM_GIB.key ∧ ∀ k, f.key ≠ (R.CB_STAT_PSTATE k).key := by
  unfold mediaFld at h
  refine ⟨?_, fun k => ?_⟩
  · simp only [Fld.key, R.INTEG_DRAM_GIB] at h ⊢
    omega
  · simp only [Fld.key, R.CB_STAT_PSTATE] at h ⊢
    omega

theorem reachable_congr {b c : Block} (h1 : c.get R.INTEG_DRAM_GIB = b.get R.INTEG_DRAM_GIB)
    (h2 : ∀ k, c.get (R.CB_STAT_PSTATE k) = b.get (R.CB_STAT_PSTATE k)) (h3 : ∀ k, (c.bankAt k).target = (b.bankAt k).target) (a n : Nat) :
    c.reachable a n = b.reachable a n := by
  have htarget : ∀ y, c.target y = b.target y := fun y => by
    unfold Block.target Block.dramSize
    rw [h1]
  have hon : ∀ k, c.bankOn k = b.bankOn k := fun k => by
    unfold Block.bankOn
    rw [h2, h3]
  unfold Block.reachable Block.bankFault
  simp only [htarget, hon]

theorem put_reachable (b : Block) {f : Fld} (hf : mediaFld f) (v a n : Nat) : (b.put f v).reachable a n = b.reachable a n := by
  obtain ⟨h1, h2⟩ := mediaFld_ne_target hf
  exact reachable_congr (Block.get_put_ne _ _ _ _ h1.symm) (fun k => Block.get_put_ne _ _ _ _ (h2 k).symm) (fun _ => rfl) a n

/-- A completion reads of its block the registers of the Media Port, what is in reach, the memory and the count. -/
theorem Completed.reads {a b c : Block} {cookie op data code : Nat} (h : Completed cookie op data code b c)
    (hget : ∀ f, mediaFld f → f.key ≠ R.MP_STAT_JSTALL.key → b.get f = a.get f) (hreach : ∀ y n, b.reachable y n = a.reachable y n)
    (hmem : b.mem = a.mem) (hunread : b.media.unread = a.media.unread) : Completed cookie op data code a c := by
  have h1 := hget R.MP_CPLTAIL_INDEX (by unfold mediaFld; decide) (by decide)
  have h2 := hget R.MP_CPLTAIL_PHASE (by unfold mediaFld; decide) (by decide)
  have h3 := hget R.MP_CPL_LO_ADDR (by unfold mediaFld; decide) (by decide)
  have h4 := hget R.MP_CPL_HI_ADDR (by unfold mediaFld; decide) (by decide)
  unfold Completed Block.getAddr at h ⊢
  dsimp only at h ⊢
  rw [h1, h2, h3, h4, hreach, hunread] at h
  unfold Wrote at h ⊢
  rw [hmem] at h
  exact h

section
variable {b : Block} {d : Desc64} {c op : Nat}

theorem mpPop_media (b : Block) : b.mpPop.media = { b.media with fetched := b.media.fetched.drop 1 } := rfl

theorem mpPop_get (b : Block) {f : Fld} (hf : f.key ≠ R.MP_STAT_JSTALL.key) : b.mpPop.get f = b.get f := Block.get_put_ne _ _ _ _ hf

theorem mpPop_mem (b : Block) : b.mpPop.mem = b.mem := rfl

theorem modMp_reachable (b : Block) (f : Media → Media) (a n : Nat) : (b.modMp f).reachable a n = b.reachable a n :=
  reachable_congr (Block.modMp_get b f _) (fun _ => Block.modMp_get b f _) (fun k => congrArg Bank.target (Block.modMp_bankAt b f k)) a n

theorem mpPop_reachable (b : Block) (a n : Nat) : b.mpPop.reachable a n = b.reachable a n :=
  (modMp_reachable _ _ a n).trans (put_reachable b (f := R.MP_STAT_JSTALL) (by unfold mediaFld; decide) 0 a n)

theorem mpPop_idle (hst : b.still) : Idle b.mpPop ∧ ∀ a, b.mpPop.lineSound a :=
  ⟨(idle_of_still hst).of_same rfl rfl, fun a k ht => by
    have hbad : (b.mpPop.bankAt k).bad = (b.bankAt k).bad := rfl
    rw [hbad, (hst.1 k (target_carafe_lt ht)).2.2]
    rfl⟩

/-- From `b` to `b'` the head has been completed without a channel. -/
def Finishes (d : Desc64) (data code : Nat) (b b' : Block) : Prop :=
  Completed d.cookie (if 1 ≤ d.op ∧ d.op ≤ 5 then d.op else 0) data code b b' ∧
    b'.media.accepted = b.media.accepted ∧ b'.media.fetched = b.media.fetched.drop 1

theorem mpFinish_facts (hst : b.still) (d : Desc64) (data : Nat) (st : MpStatus) :
    EntryMade st b.mpPop (b.mpPop.mpFinish d data st) ∧ Finishes d data st.code b (b.mpPop.mpFinish d data st) := by
  obtain ⟨hidle, hsound⟩ := mpPop_idle hst
  have hmade : EntryMade st b.mpPop (b.mpPop.mpFinish d data st) := (mpEntry_made b.mpPop d.cookie (if 1 ≤ d.op ∧ d.op ≤ 5 then d.op else 0) data st
    (if d.db then some (d.le % 64) else none)).1
  have hdone := mpEntry_completed hidle (hsound _) d.cookie (if 1 ≤ d.op ∧ d.op ≤ 5 then d.op else 0) data st
    (if d.db then some (d.le % 64) else none)
  have hunread : b.mpPop.media.unread = b.media.unread := by rw [mpPop_media]
  refine ⟨hmade, hdone.reads (fun f _ hne => mpPop_get b hne) (mpPop_reachable b) (mpPop_mem b) hunread, ?_, ?_⟩
  · rw [hmade.media, mpPop_media]
  · rw [hmade.media, mpPop_media]

/-! ## Acceptance (R252 to R254) -/

/-- The next descriptor is `d` of ring `c`, and it may be taken. -/
def Block.nextIs (b : Block) (c : Nat) (d : Desc64) (op : Nat) : Prop :=
  b.mpFull = false ∧ b.mpHead = some (c, d) ∧ d.op = op ∧ (op = 2 ∨ op = 3 → b.get R.MP_STAT_PFAIL = 0)

theorem acceptOp_full {f : Nat → Desc64 → Block → Block} (h : b.mpFull = true) : b.acceptOp op f = b := by
  unfold Block.acceptOp
  split
  · rfl
  · rw [if_pos h]

theorem acceptOp_next {f : Nat → Desc64 → Block → Block} (h : b.nextIs c d op) (h1 : 1 ≤ op) (h5 : op ≤ 5) : b.acceptOp op f =
    if b.badDesc d then b.mpPop.mpFinish d 0 .badDesc else if b.badAddr c d then b.mpPop.mpFinish d 0 .badAddr else f c d b := by
  obtain ⟨hfull, hhead, hop, hfail⟩ := h
  have hopen : (b.flag R.MP_STAT_PFAIL && (op == 2 || op == 3)) = false := by
    by_cases ho : op = 2 ∨ op = 3
    · have hflag : b.flag R.MP_STAT_PFAIL = false := by
        unfold Block.flag
        rw [hfail ho]
        rfl
      rw [hflag, Bool.false_and]
    · have hno : (op == 2 || op == 3) = false := by
        rw [Bool.or_eq_false_iff, beq_eq_false_iff_ne, beq_eq_false_iff_ne]
        exact ⟨fun e => ho (.inl e), fun e => ho (.inr e)⟩
      rw [hno, Bool.and_false]
  unfold Block.acceptOp
  rw [hhead]
  dsimp only
  rw [hfull, if_neg Bool.false_ne_true, if_neg (by omega), if_neg (not_not.mpr hop), hopen, if_neg Bool.false_ne_true]

theorem acceptOp_sound {f : Nat → Desc64 → Block → Block} (h : b.nextIs c d op) (h1 : 1 ≤ op) (h5 : op ≤ 5)
    (hs : b.badDesc d = false ∧ b.badAddr c d = false) : b.acceptOp op f = f c d b := by
  rw [acceptOp_next h h1 h5, hs.1, hs.2]
  rfl

/-- From `b` to `b'` the head has gone to a channel as the descriptor `e`. -/
def Accepts (c : Nat) (e : Desc64) (slot data : Nat) (held : Bool) (b b' : Block) : Prop :=
  b'.media.accepted = b.media.accepted ++ [⟨b.freeIdx, c, slot, b.media.order, e, none, false, held, false, data⟩] ∧
    b'.media.fetched = b.media.fetched.drop 1 ∧ b'.media.order = b.media.order + 1

theorem mpAccept_facts {u : Block} (hj : Journaled b u) (c slot data : Nat) (e : Desc64) (held : Bool) :
    (u.mpAccept c slot data e held).isSealed = b.isSealed ∧ Accepts c e slot data held b (u.mpAccept c slot data e held) ∧
      (u.mpAccept c slot data e held).mem = u.mem ∧ (u.mpAccept c slot data e held).jseq = u.jseq := by
  let x : Accepted := ⟨u.freeIdx, c, slot, u.media.order, e, none, false, held, false, data⟩
  let v := (u.mpPop.modMp fun m => { m with accepted := m.accepted ++ [x], order := m.order + 1 }).settleMp
  have hv : Accessed v (u.mpAccept c slot data e held) ∧ (u.mpAccept c slot data e held).mem = v.mem := by
    unfold Block.mpAccept
    dsimp only
    split
    · exact ⟨(Accessed.refl v).countGlob 0x05 1, (countGlob_beside v 0x05 1).2.2.1⟩
    · exact ⟨.refl v, rfl⟩
  have hacc : u.media.accepted = b.media.accepted := by have e := congrArg Media.accepted hj.media; exact e
  have hord : u.media.order = b.media.order := by have e := congrArg Media.order hj.media; exact e
  have hfet : u.media.fetched = b.media.fetched := by have e := congrArg Media.fetched hj.media; exact e
  have hidx : u.freeIdx = b.freeIdx := by
    unfold Block.freeIdx
    rw [hacc]
  have hseq : v.jseq = u.jseq := by
    have hget : ∀ f, f.key ≠ R.MP_STAT_JSTALL.key → f.key ≠ R.MP_STAT_OUTST.key → v.get f = u.get f := fun f h1 h2 =>
      (Block.get_put_ne _ _ _ _ h2).trans (mpPop_get u h1)
    unfold Block.jseq Block.get64
    rw [hget _ (by decide) (by decide), hget _ (by decide) (by decide)]
  refine ⟨hv.1.isSealed.trans hj.isSealed, ?_, hv.2, (jseq_accessed hv.1).trans hseq⟩
  unfold Accepts
  rw [hv.1.media, ← hacc, ← hord, ← hidx, ← hfet]
  exact ⟨rfl, rfl, rfl⟩

end

/-! ## Submission and fetch (R253) -/

section
variable {s : State} {slot : BitVec 5} {count : BitVec 11}

theorem mpSubmit_taken {b : Block} {c n : Nat} (hn : n ≠ 0) (hroom : n ≤ 1024 - b.media.used.get c 0) : b.mpSubmit c n =
    b.modMp fun m => { m with subs := m.subs ++ [(c, n)], used := m.used.put c (b.media.used.get c 0 + n) } := if_neg (by omega)

theorem gives_submit (hwin : s.blk.winOff R.MP_SUBMIT_SLOT.off = false) (hc : count.toNat ≠ 0)
    (hroom : count.toNat ≤ 1024 - s.blk.media.used.get slot.toNat 0) : Gives (.mpSubmit slot count) s fun t =>
      t.blk = { s.blk with media := { s.blk.media with
        subs := s.blk.media.subs ++ [(slot.toNat, count.toNat)]
        used := s.blk.media.used.put slot.toNat (s.blk.media.used.get slot.toNat 0 + count.toNat) } } := by
  exact gives_of_done (congrArg (done s) ((atReg_on hwin).trans (mpSubmit_taken hc hroom))) rfl rfl

theorem gives_submit_refused (hwin : s.blk.winOff R.MP_SUBMIT_SLOT.off = false)
    (hc : count.toNat = 0 ∨ 1024 - s.blk.media.used.get slot.toNat 0 < count.toNat) : Gives (.mpSubmit slot count) s fun t =>
      t.blk.get R.MP_EVT_SUBOVF = 1 ∧ OnlyFields [R.MP_EVT_SUBOVF] s.blk t.blk := by
  refine gives_of_done (b := s.blk.raise R.MP_EVT_SUBOVF) (congrArg (done s) ((atReg_on hwin).trans (if_pos hc))) rfl ⟨?_, ?_⟩
  · exact Block.get_put_same _ _ _
  · exact (OnlyFields.refl _ s.blk).put (List.mem_singleton.mpr rfl) 1

variable {c n : Nat} {rest : List (Nat × Nat)} {find : BankFind}

/-- The address of the entry fetched next. -/
def Block.ringEntry (b : Block) (c : Nat) : Nat :=
  b.getAddr R.MP_RING_LO_ADDR R.MP_RING_HI_ADDR + c * 0x10000 + 64 * b.media.heads.get c 0

/-- The first submitted entry may be fetched. -/
def Block.fetches (b : Block) (c n : Nat) (rest : List (Nat × Nat)) : Prop :=
  b.media.subs = (c, n) :: rest ∧ b.get R.MP_CTRL_EN ≠ 0 ∧ b.mpHeld + b.media.fetched.length < 32768

/-- What the entry's read comes to. -/
def fetchGo (c n : Nat) (rest : List (Nat × Nat)) (i : Nat) : Block × Served → Block
  | (b, .later) => b
  | (b, .data d) => b.modMp fun m => { m.advance c n rest with fetched := m.fetched ++ [(c, d)] }
  | (b, .lost) =>
    if b.media.retried then (b.modMp fun m => m.advance c n rest).mpEntry 0 0 (i + 2 ^ 16 * c) .badDesc none
    else b.modMp fun m => { m with retried := true }

theorem exec_fetch (h : s.blk.fetches c n rest) {z : Block × Served}
    (hread : s.blk.dmaRead rqMedia 0 (s.blk.ringEntry c) 64 find = z) :
    exec (.descriptorFetch find) s = done s (fetchGo c n rest (s.blk.media.heads.get c 0) z) := by
  obtain ⟨hsubs, hen, hroom⟩ := h
  have hgo : (!s.blk.flag R.MP_CTRL_EN || decide (32768 ≤ s.blk.mpHeld + s.blk.media.fetched.length)) = false := by
    have hflag : s.blk.flag R.MP_CTRL_EN = true := bne_iff_ne.mpr hen
    rw [hflag, decide_eq_false (by omega)]
    rfl
  unfold Block.ringEntry at hread
  show execDescriptorFetch find s = _
  unfold execDescriptorFetch
  refine congrArg (done s) ?_
  split
  next h0 =>
    rw [hsubs] at h0
    cases h0
  next h0 =>
    rw [hsubs] at h0
    cases h0
    refine (if_neg (by rw [hgo]; decide)).trans ?_
    lift_lets
    intro i
    split
    next u hz =>
      rw [show z = (u, .later) from hread.symm.trans hz]
      rfl
    next u d hz =>
      rw [show z = (u, .data d) from hread.symm.trans hz]
      rfl
    next u hz =>
      rw [show z = (u, .lost) from hread.symm.trans hz]
      rfl

/-- From `m` to `k` the first submitted entry is done with. -/
def EntryTurned (c n : Nat) (rest : List (Nat × Nat)) (m k : Media) : Prop :=
  k.subs = (if n ≤ 1 then rest else (c, n - 1) :: rest) ∧ k.heads.get c 0 = (m.heads.get c 0 + 1) % 1024 ∧
    k.used.get c 0 = m.used.get c 0 - 1 ∧ k.retried = false

theorem advance_turned (m : Media) (c n : Nat) (rest : List (Nat × Nat)) : EntryTurned c n rest m (m.advance c n rest) :=
  ⟨rfl, Tab.get_put_same _ _ _ _, Tab.get_put_same _ _ _ _, rfl⟩

theorem gives_fetch (hst : s.blk.still) (h : s.blk.fetches c n rest) (hr : s.blk.reachable (s.blk.ringEntry c) 64 = true) :
    Gives (.descriptorFetch .clean) s fun t => EntryTurned c n rest s.blk.media t.blk.media ∧
      t.blk.media.fetched = s.blk.media.fetched ++ [(c, s.blk.mem.bytes (s.blk.ringEntry c) 64)] ∧
      t.blk.media.accepted = s.blk.media.accepted ∧ t.blk.mem = s.blk.mem := by
  obtain ⟨u, hread, hon⟩ := dmaRead_still (rq := rqMedia) (cls := 0) hst (by decide) hr (by decide)
  have hx := exec_fetch h hread
  have hm := hon.accessed.media
  refine gives_of_done hx hon.accessed.isSealed ⟨?_, ?_, ?_, hon.mem⟩
  · rw [← hm]
    exact advance_turned _ _ _ _
  · rw [← hm]
    rfl
  · rw [← hm]
    rfl

theorem gives_fetch_again (hst : s.blk.still) (h : s.blk.fetches c n rest) (hl : s.blk.readLost (s.blk.ringEntry c) 64 find)
    (hret : s.blk.media.retried = false) : Gives (.descriptorFetch find) s fun t =>
      t.blk.media = { s.blk.media with retried := true } ∧ t.blk.mem = s.blk.mem := by
  obtain ⟨u, hread, hon⟩ := dmaRead_lost (rq := rqMedia) (cls := 0) (idle_of_still hst) (by decide) (by decide)
    (lineSound_of_still hst _) hl
  have hx := exec_fetch h hread
  have hm := hon.accessed.media
  unfold fetchGo at hx
  dsimp only at hx
  rw [hm, hret, if_neg Bool.false_ne_true] at hx
  refine gives_of_done hx hon.accessed.isSealed ⟨?_, hon.mem⟩
  rw [← hm]
  rfl

theorem gives_fetch_bad (hst : s.blk.still) (h : s.blk.fetches c n rest) (hl : s.blk.readLost (s.blk.ringEntry c) 64 find)
    (hret : s.blk.media.retried = true) : Gives (.descriptorFetch find) s fun t =>
      EntryTurned c n rest s.blk.media t.blk.media ∧ t.blk.get R.MP_EVT_BADDESC = 1 ∧
      ((∀ k, s.blk.target (s.blk.ringEntry c) ≠ .carafe k) →
        Completed 0 0 (s.blk.media.heads.get c 0 + 2 ^ 16 * c) 3 s.blk t.blk) := by
  obtain ⟨u, hread, hon⟩ := dmaRead_lost (rq := rqMedia) (cls := 0) (idle_of_still hst) (by decide) (by decide)
    (lineSound_of_still hst _) hl
  have hx := exec_fetch h hread
  have hm := hon.accessed.media
  unfold fetchGo at hx
  dsimp only at hx
  rw [hm, hret, if_pos rfl] at hx
  let v := u.modMp fun m => m.advance c n rest
  have hmade := (mpEntry_made v 0 0 (s.blk.media.heads.get c 0 + 2 ^ 16 * c) .badDesc none).1
  refine gives_of_done hx (hmade.isSealed.trans hon.accessed.isSealed) ⟨?_, hmade.event _ rfl, fun hno => ?_⟩
  · have hmedia := hmade.media
    have hturn := advance_turned u.media c n rest
    rw [hm] at hturn
    obtain ⟨h1, h2, h3, h4⟩ := hturn
    have hv : v.media = s.blk.media.advance c n rest := congrArg (fun m : Media => m.advance c n rest) hm
    rw [hv] at hmedia
    unfold EntryTurned
    dsimp only
    rw [hmedia]
    exact ⟨h1, h2, h3, h4⟩
  · have hidle : Idle v := hon.idle.of_same rfl rfl
    have hsound : ∀ y, v.lineSound y := fun y => hon.lineSound (.inr hno) (lineSound_of_still hst y)
    have hdone := mpEntry_completed hidle (hsound _) 0 0 (s.blk.media.heads.get c 0 + 2 ^ 16 * c) .badDesc none
    have hreach : ∀ y k, v.reachable y k = s.blk.reachable y k := fun y k =>
      (modMp_reachable u _ y k).trans (hon.accessed.reachable y k)
    refine hdone.reads (fun f hf _ => hon.accessed.regs f (mediaFld_beyond hf)) hreach hon.mem ?_
    exact (show v.media.unread = u.media.unread from rfl).trans (congrArg Media.unread hm)

theorem gives_fetch_none (h : s.blk.media.subs = []) : Gives (.descriptorFetch find) s (Same s) := by
  refine gives_of_done (b := s.blk) ?_ rfl rfl
  show execDescriptorFetch find s = _
  unfold execDescriptorFetch
  refine congrArg (done s) ?_
  split
  · rfl
  next h0 =>
    rw [h] at h0
    cases h0

end

end Sys2Proof.Machine
end

section
/-! The five media operations at acceptance, and the statement of the media rings (R254, R256, R257, R259, R260). -/
namespace Sys2Proof.Machine

section
variable {s : State} {c : Nat} {d : Desc64}

/-- A descriptor that keeps its rules and lies where its ring is. -/
def Block.soundDesc (b : Block) (c : Nat) (d : Desc64) : Prop := b.badDesc d = false ∧ b.badAddr c d = false

theorem gives_full (hfull : s.blk.mpFull = true) : Gives .mpProg s (Same s) ∧ Gives .mpRead s (Same s) ∧ Gives .mpMread s (Same s) ∧
    Gives .mpErase s (Same s) ∧ Gives .mpUnmap s (Same s) :=
  ⟨gives_of_done (b := s.blk) (congrArg (done s) (acceptOp_full hfull)) rfl rfl,
    gives_of_done (b := s.blk) (congrArg (done s) (acceptOp_full hfull)) rfl rfl,
    gives_of_done (b := s.blk) (congrArg (done s) (acceptOp_full hfull)) rfl rfl,
    gives_of_done (b := s.blk) (congrArg (done s) (acceptOp_full hfull)) rfl rfl,
    gives_of_done (b := s.blk) (congrArg (done s) (acceptOp_full hfull)) rfl rfl⟩

/-- A command that hands the head over as it is. -/
theorem gives_accepts {i : Instr} {slot data : Nat} {e : Desc64} {held : Bool}
    (hx : exec i s = done s (s.blk.mpAccept c slot data e held)) :
    Gives i s fun t => Accepts c e slot data held s.blk t.blk ∧ t.blk.mem = s.blk.mem := by
  obtain ⟨hsealed, hacc, hmem, -⟩ := mpAccept_facts (.refl s.blk) c slot data e held
  exact gives_of_done hx hsealed ⟨hacc, hmem⟩

/-- A command that completes the head at once. -/
theorem gives_finishes {i : Instr} {data : Nat} {st : MpStatus} (hst : s.blk.still)
    (hx : exec i s = done s (s.blk.mpPop.mpFinish d data st)) :
    Gives i s fun t => Finishes d data st.code s.blk t.blk ∧ (∀ f, statusEvent st = some f → t.blk.get f = 1) := by
  obtain ⟨hmade, hfin⟩ := mpFinish_facts hst d data st
  exact gives_of_done hx hmade.isSealed ⟨hfin, hmade.event⟩

theorem gives_mpProg_plain (h : s.blk.nextIs c d 1) (hs : s.blk.soundDesc c d) (hm : d.map = false) : Gives .mpProg s fun t =>
    Accepts c d c 0 false s.blk t.blk ∧ t.blk.mem = s.blk.mem := by
  refine gives_accepts (congrArg (done s) ((acceptOp_sound h (by decide) (by decide) hs).trans ?_))
  exact if_neg (by rw [hm]; decide)

/-- The block after an install, as a whole: JSEQ, and the map where it is clear of the journal's buffer. -/
def Installs (d : Desc64) (kind gran ugran : Nat) (b b' : Block) : Prop :=
  (b'.jseq = (b.jseq + (runsOf (b.installSet d)).length) % 2 ^ 64 ∨ b.jseq = b'.jseq ∧ runsOf (b.installSet d) = []) ∧
    (b.still → b.journalFits → (∀ i < d.iucnt, b.reachable (b.mapAddr d.nss d.iu + 8 * i) 8 = true ∧
        (b.mapAddr d.nss d.iu + 8 * i + 8 ≤ b.jAddr 0 ∨ b.jAddr 16 ≤ b.mapAddr d.nss d.iu + 8 * i)) →
      ∀ i < d.iucnt, leNat (b'.mem.bytes (b.mapAddr d.nss d.iu + 8 * i) 8) =
        if i ∈ b.installSet d then slotWord kind gran ugran i % 2 ^ 64 else leNat (b.mem.bytes (b.mapAddr d.nss d.iu + 8 * i) 8))

theorem gives_mpProg_install (h : s.blk.nextIs c d 1) (hs : s.blk.soundDesc c d) (hm : d.map = true)
    (hroom : (runsOf (s.blk.installSet d)).length ≤ s.blk.jRoomFor) : Gives .mpProg s fun t =>
      Accepts c d c (if (runsOf (s.blk.installSet d)).isEmpty then 0 else s.blk.jseq) false s.blk t.blk ∧
        Installs d d.kind d.gran d.gcnt s.blk t.blk := by
  let u := s.blk.installed d d.kind d.gran d.gcnt
  have hx : exec .mpProg s = done s (u.mpAccept c c (if (runsOf (s.blk.installSet d)).isEmpty then 0 else s.blk.jseq) d false) := by
    refine congrArg (done s) ((acceptOp_sound h (by decide) (by decide) hs).trans ((if_pos hm).trans ?_))
    rw [install_some hroom]
  obtain ⟨hsealed, hacc, hmem, hseq⟩ := mpAccept_facts (installed_journaled s.blk d d.kind d.gran d.gcnt) c c
    (if (runsOf (s.blk.installSet d)).isEmpty then 0 else s.blk.jseq) d false
  refine gives_of_done hx hsealed ⟨hacc, ?_, fun hst hfit hmap i hi => ?_⟩
  · rw [hseq]
    exact installed_jseq hroom
  · rw [hmem]
    exact installed_slots hst hfit hmap hi

theorem jStall_facts (b : Block) : b.jStall.get R.MP_STAT_JSTALL = 1 ∧ b.jStall.media = b.media ∧ b.jStall.mem = b.mem ∧
    b.jStall.isSealed = b.isSealed := by
  unfold Block.jStall Block.follow
  dsimp only
  refine ⟨Block.get_put_same _ _ _, ?_⟩
  split <;> exact ⟨rfl, rfl, rfl⟩

theorem gives_mpProg_stall (h : s.blk.nextIs c d 1) (hs : s.blk.soundDesc c d) (hm : d.map = true)
    (hroom : s.blk.jRoomFor < (runsOf (s.blk.installSet d)).length) : Gives .mpProg s fun t =>
      t.blk.get R.MP_STAT_JSTALL = 1 ∧ t.blk.media = s.blk.media ∧ t.blk.mem = s.blk.mem := by
  have hx : exec .mpProg s = done s s.blk.jStall := by
    refine congrArg (done s) ((acceptOp_sound h (by decide) (by decide) hs).trans ((if_pos hm).trans ?_))
    rw [install_none hroom]
  obtain ⟨h1, h2, h3, h4⟩ := jStall_facts s.blk
  exact gives_of_done hx h4 ⟨h1, h2, h3⟩

theorem gives_mpRead (h : s.blk.nextIs c d 2) (hs : s.blk.soundDesc c d) : Gives .mpRead s fun t =>
    Accepts c d c 0 false s.blk t.blk ∧ t.blk.mem = s.blk.mem :=
  gives_accepts (congrArg (done s) (acceptOp_sound h (by decide) (by decide) hs))

theorem gives_mpErase (h : s.blk.nextIs c d 4) (hs : s.blk.soundDesc c d) : Gives .mpErase s fun t =>
    Accepts c d c 0 (s.blk.readsBefore s.blk.media.order) s.blk t.blk ∧ t.blk.mem = s.blk.mem :=
  gives_accepts (congrArg (done s) (acceptOp_sound h (by decide) (by decide) hs))

theorem gives_mpUnmap (h : s.blk.nextIs c d 5) (hs : s.blk.soundDesc c d)
    (hroom : (runsOf (s.blk.installSet d)).length ≤ s.blk.jRoomFor) : Gives .mpUnmap s fun t =>
      t.blk.media.fetched = s.blk.media.fetched.drop 1 ∧ t.blk.media.accepted = s.blk.media.accepted ∧
      t.blk.media.unread = s.blk.media.unread + 1 ∧
      (t.blk.jseq = (s.blk.jseq + (runsOf (s.blk.installSet d)).length) % 2 ^ 64 ∨
        s.blk.jseq = t.blk.jseq ∧ runsOf (s.blk.installSet d) = []) := by
  let u := s.blk.installed d 3 0 0
  let q := if (runsOf (s.blk.installSet d)).isEmpty then 0 else s.blk.jseq
  have hx : exec .mpUnmap s = done s (u.mpPop.mpFinish d q .ok) := by
    refine congrArg (done s) ((acceptOp_sound h (by decide) (by decide) hs).trans ?_)
    rw [install_some hroom]
  have hj : Journaled s.blk u := installed_journaled s.blk d 3 0 0
  have hmade : EntryMade .ok u.mpPop (u.mpPop.mpFinish d q .ok) := (mpEntry_made u.mpPop d.cookie
    (if 1 ≤ d.op ∧ d.op ≤ 5 then d.op else 0) q .ok (if d.db then some (d.le % 64) else none)).1
  have hseq : (u.mpPop.mpFinish d q .ok).jseq = u.jseq := by
    have hget : ∀ f, mediaFld f → f.key ≠ R.MP_STAT_JSTALL.key → (∀ g ∈ entryFields .ok, f.key ≠ g.key) →
        (u.mpPop.mpFinish d q .ok).get f = u.get f := fun f hf h1 h2 => (hmade.get f hf h2).trans (mpPop_get u h1)
    unfold Block.jseq Block.get64
    rw [hget _ (by unfold mediaFld; decide) (by decide) (by decide), hget _ (by unfold mediaFld; decide) (by decide) (by decide)]
  have hfet : u.media.fetched = s.blk.media.fetched := by have e := congrArg Media.fetched hj.media; exact e
  have hacc : u.media.accepted = s.blk.media.accepted := by have e := congrArg Media.accepted hj.media; exact e
  have hunr : u.media.unread = s.blk.media.unread := by have e := congrArg Media.unread hj.media; exact e
  refine gives_of_done hx (hmade.isSealed.trans hj.isSealed) ?_
  dsimp only
  rw [hseq, hmade.media, mpPop_media, ← hfet, ← hacc, ← hunr]
  exact ⟨rfl, rfl, rfl, installed_jseq hroom⟩

/-! ## MREAD (R259) -/

/-- The map slot that an MREAD names. -/
def Block.mreadSlot (b : Block) (d : Desc64) : Nat := b.mapSlot d.nss d.iu

/-- A program of the slot's granules that is still under way. -/
def programming (w : Nat) (x : Accepted) : Bool := x.desc.op == 1 && x.block.isNone && x.desc.gran == w % 2 ^ 40

/-- What an MREAD of a slot in range comes to. -/
def Block.mreadGo (b : Block) (c : Nat) (d : Desc64) (w : Nat) : Block :=
  if w / 2 ^ 58 % 4 = 0 ∨ w / 2 ^ 58 % 4 = 3 then b.mpPop.mpFinish d w .unmapped
  else match (b.media.accepted.filter (programming w)).getLast? with
    | some x => b.mpPop.mpFinish d x.desc.buf .pending
    | none =>
      if b.extentOk (w % 2 ^ 40) (w / 2 ^ 40 % 2 ^ 12) then
        b.mpAccept c (granSlot (w % 2 ^ 40)) w (d.resolved (w % 2 ^ 40) (w / 2 ^ 40 % 2 ^ 12)) false
      else b.mpPop.mpFinish d w .badAddr

theorem granSlot_slot (w : Nat) : granSlot (w % 2 ^ 40) = w / 2 ^ 35 % 32 := by
  unfold granSlot
  omega

theorem exec_mread (h : s.blk.nextIs c d 3) (hs : s.blk.soundDesc c d) : exec .mpMread s = done s
    (if s.blk.iuCount d.nss ≤ d.iu then s.blk.mpPop.mpFinish d 0 .range else s.blk.mreadGo c d (s.blk.mreadSlot d)) := by
  refine congrArg (done s) ((acceptOp_sound h (by decide) (by decide) hs).trans ?_)
  unfold Block.mreadGo Block.mreadSlot
  split
  · rfl
  · dsimp only
    split
    · rfl
    · cases hl : (s.blk.media.accepted.filter (programming (s.blk.mapSlot d.nss d.iu))).getLast? with
      | none =>
        unfold programming at hl
        rw [hl]
      | some x =>
        unfold programming at hl
        rw [hl]

theorem gives_mread_range (hst : s.blk.still) (h : s.blk.nextIs c d 3) (hs : s.blk.soundDesc c d) (hr : s.blk.iuCount d.nss ≤ d.iu) :
    Gives .mpMread s fun t => Finishes d 0 8 s.blk t.blk := by
  have hx := exec_mread h hs
  rw [if_pos hr] at hx
  obtain ⟨t, ht, hfin, -⟩ := gives_finishes hst hx
  exact ⟨t, ht, hfin⟩

variable (hst : s.blk.still) (h : s.blk.nextIs c d 3) (hs : s.blk.soundDesc c d) (hr : d.iu < s.blk.iuCount d.nss)
include hst h hs hr

theorem gives_mread_unset (hu : s.blk.mreadSlot d / 2 ^ 58 % 4 = 0 ∨ s.blk.mreadSlot d / 2 ^ 58 % 4 = 3) :
    Gives .mpMread s fun t => Finishes d (s.blk.mreadSlot d) 6 s.blk t.blk := by
  have hx := exec_mread h hs
  rw [if_neg (by omega)] at hx
  obtain ⟨t, ht, hfin, -⟩ := gives_finishes hst (hx.trans (congrArg (done s) (if_pos hu)))
  exact ⟨t, ht, hfin⟩

variable (hu : ¬(s.blk.mreadSlot d / 2 ^ 58 % 4 = 0 ∨ s.blk.mreadSlot d / 2 ^ 58 % 4 = 3))
include hu

theorem gives_mread_pending {x : Accepted}
    (hl : (s.blk.media.accepted.filter (programming (s.blk.mreadSlot d))).getLast? = some x) :
    Gives .mpMread s fun t => Finishes d x.desc.buf 7 s.blk t.blk := by
  have hx := exec_mread h hs
  rw [if_neg (by omega)] at hx
  have hgo : s.blk.mreadGo c d (s.blk.mreadSlot d) = s.blk.mpPop.mpFinish d x.desc.buf .pending := by
    unfold Block.mreadGo
    rw [if_neg hu, hl]
  obtain ⟨t, ht, hfin, -⟩ := gives_finishes hst (hx.trans (congrArg (done s) hgo))
  exact ⟨t, ht, hfin⟩

variable (hl : s.blk.media.accepted.filter (programming (s.blk.mreadSlot d)) = [])
include hl

omit hst in
theorem gives_mread_extent (he : s.blk.extentOk (s.blk.mreadSlot d % 2 ^ 40) (s.blk.mreadSlot d / 2 ^ 40 % 2 ^ 12) = true) :
    Gives .mpMread s fun t => Accepts c (d.resolved (s.blk.mreadSlot d % 2 ^ 40) (s.blk.mreadSlot d / 2 ^ 40 % 2 ^ 12))
      (granSlot (s.blk.mreadSlot d % 2 ^ 40)) (s.blk.mreadSlot d) false s.blk t.blk ∧ t.blk.mem = s.blk.mem := by
  have hx := exec_mread h hs
  rw [if_neg (by omega)] at hx
  have hgo : s.blk.mreadGo c d (s.blk.mreadSlot d) = s.blk.mpAccept c (granSlot (s.blk.mreadSlot d % 2 ^ 40)) (s.blk.mreadSlot d)
      (d.resolved (s.blk.mreadSlot d % 2 ^ 40) (s.blk.mreadSlot d / 2 ^ 40 % 2 ^ 12)) false := by
    unfold Block.mreadGo
    rw [if_neg hu, hl]
    exact if_pos he
  exact gives_accepts (hx.trans (congrArg (done s) hgo))

theorem gives_mread_noExtent (he : s.blk.extentOk (s.blk.mreadSlot d % 2 ^ 40) (s.blk.mreadSlot d / 2 ^ 40 % 2 ^ 12) = false) :
    Gives .mpMread s fun t => Finishes d (s.blk.mreadSlot d) 4 s.blk t.blk := by
  have hx := exec_mread h hs
  rw [if_neg (by omega)] at hx
  have hgo : s.blk.mreadGo c d (s.blk.mreadSlot d) = s.blk.mpPop.mpFinish d (s.blk.mreadSlot d) .badAddr := by
    unfold Block.mreadGo
    rw [if_neg hu, hl]
    exact if_neg (by rw [he]; decide)
  obtain ⟨t, ht, hfin, -⟩ := gives_finishes hst (hx.trans (congrArg (done s) hgo))
  exact ⟨t, ht, hfin⟩

end

/-! ## Refusals, and the release of a held ERASE (R252, R260) -/

section
variable {s : State} {c : Nat} {d : Desc64}

theorem gives_mpRead_bad (hst : s.blk.still) (h : s.blk.nextIs c d 2) (hb : s.blk.badDesc d = true) : Gives .mpRead s fun t =>
    Finishes d 0 3 s.blk t.blk ∧ t.blk.get R.MP_EVT_BADDESC = 1 := by
  have hx : exec .mpRead s = done s (s.blk.mpPop.mpFinish d 0 .badDesc) :=
    congrArg (done s) ((acceptOp_next h (by decide) (by decide)).trans (if_pos hb))
  obtain ⟨t, ht, hfin, hev⟩ := gives_finishes hst hx
  exact ⟨t, ht, hfin, hev _ rfl⟩

theorem acceptOp_badAddr {b : Block} {op : Nat} {f : Nat → Desc64 → Block → Block} (h : b.nextIs c d op) (h1 : 1 ≤ op) (h5 : op ≤ 5)
    (hb : b.badDesc d = false) (ha : b.badAddr c d = true) : b.acceptOp op f = b.mpPop.mpFinish d 0 .badAddr := by
  rw [acceptOp_next h h1 h5, hb, ha]
  rfl

theorem gives_eraseRelease : Gives .eraseRelease s fun t => t.blk.mem = s.blk.mem ∧
    t.blk.media = { s.blk.media with accepted := s.blk.media.accepted.map fun x =>
      if (s.blk.media.accepted.any fun y => (y.desc.op == 2 || y.desc.op == 3) && decide (y.order < x.order)) then x
      else { x with held := false } } := by
  have hx : exec .eraseRelease s = done s (s.blk.modMp fun m => { m with accepted := m.accepted.map fun x =>
    if !(s.blk.readsBefore x.order) then { x with held := false } else x }) := rfl
  refine gives_of_done hx rfl ⟨rfl, ?_⟩
  have hmap : ∀ x : Accepted, (if !(s.blk.readsBefore x.order) then { x with held := false } else x) =
      if (s.blk.media.accepted.any fun y => (y.desc.op == 2 || y.desc.op == 3) && decide (y.order < x.order)) then x
      else { x with held := false } := fun x => by
    unfold Block.readsBefore
    cases s.blk.media.accepted.any fun y => (y.desc.op == 2 || y.desc.op == 3) && decide (y.order < x.order)
    · rfl
    · rfl
  simp only [← hmap]
  rfl

end

/-- Settles O38: submissions are counted, entries are fetched in turn, and each operation is accepted, completed or held back. -/
theorem mediaRings : Obligations.MediaRings := by
  intro slot count find c n rest d s _ hst
  dsimp only
  refine ⟨fun hwin => ⟨gives_submit hwin, gives_submit_refused hwin⟩, fun hf => ⟨gives_fetch hst hf, fun hl =>
      ⟨gives_fetch_again hst hf hl, gives_fetch_bad hst hf hl⟩⟩, gives_fetch_none, gives_full, gives_mpProg_plain,
    fun h hs hm => ⟨fun hroom => ?_, gives_mpProg_stall h hs hm⟩, gives_mpRead, fun h hs => ?_, fun h hs hroom _ => gives_mpUnmap h hs hroom,
    fun h hs => ⟨gives_mread_range hst h hs, fun hr => ⟨gives_mread_unset hst h hs hr, fun hu =>
      ⟨fun x => gives_mread_pending hst h hs hr hu, fun hl => ⟨fun he => ?_, gives_mread_noExtent hst h hs hr hu hl⟩⟩⟩⟩,
    gives_mpRead_bad hst, fun h hb ha => ?_, fun h hb ha => ?_, gives_eraseRelease⟩
  · obtain ⟨t, ht, hacc, hseq, hslots⟩ := gives_mpProg_install h hs hm hroom
    have haddr : ∀ i, s.blk.getAddr (R.MP_NS_MAP_LO_ADDR d.nss) (R.MP_NS_MAP_HI_ADDR d.nss) + 8 * (d.iu + i) =
        s.blk.mapAddr d.nss d.iu + 8 * i := fun i => by
      unfold Block.mapAddr
      omega
    simp only [haddr]
    refine ⟨t, ht, hacc, hseq, fun hclear i hi => ?_⟩
    have hword := hslots hst hclear.1 hclear.2 i hi
    unfold slotWord at hword
    exact hword
  · obtain ⟨t, ht, hacc, hmem⟩ := gives_mpErase h hs
    exact ⟨t, ht, hmem, hacc⟩
  · obtain ⟨t, ht, hacc, hmem⟩ := gives_mread_extent h hs hr hu hl he
    rw [granSlot_slot] at hacc
    exact ⟨t, ht, hmem, hacc⟩
  · have hx : exec .mpErase s = done s (s.blk.mpPop.mpFinish d 0 .badAddr) :=
      congrArg (done s) (acceptOp_badAddr h (by decide) (by decide) hb ha)
    obtain ⟨t, ht, hfin, -⟩ := gives_finishes hst hx
    exact ⟨t, ht, hfin⟩
  · have hx : exec .mpUnmap s = done s (s.blk.mpPop.mpFinish d 0 .badAddr) :=
      congrArg (done s) (acceptOp_badAddr h (by decide) (by decide) hb ha)
    obtain ⟨t, ht, hfin, -⟩ := gives_finishes hst hx
    exact ⟨t, ht, hfin⟩

end Sys2Proof.Machine
end

section
/-! The Loader: the manifest, the start, the failures and the end of a load (R183, R186, R188, R488, R503). -/
namespace Sys2Proof.Machine

/-- A step for every index below `n` establishes what it says of the index, and the other steps leave it. -/
theorem forEach_each {α : Type} {Q : Nat → α → Prop} {f : Nat → α → α} {n : Nat} (hset : ∀ i y, i < n → Q i (f i y))
    (hkeep : ∀ i j y, i < n → j < n → j ≠ i → Q i y → Q i (f j y)) (x : α) : ∀ i < n, Q i (forEach n f x) := by
  have h := forEach_induct (P := fun k y => ∀ i < k, Q i y) (n := n) (f := f) (x := x) (fun i hi => absurd hi (Nat.not_lt_zero i))
    fun k y hk hy i hi => by
      by_cases he : i = k
      · rw [he]
        exact hset k y hk
      · exact hkeep i k y (by omega) hk (fun h => he h.symm) (hy i (by omega))
  exact h

theorem modEngine_engine (b : Block) (n : Nat) (g : Engine → Engine) (m : Nat) :
    (b.modEngine n g).engine m = if m = n then g (b.engine n) else b.engine m := by
  split
  next h => rw [h, Block.modEngine_engine_same]
  next h => exact Block.modEngine_engine_ne b n m g h

/-! ## The manifest, the clocks and the start (R183, R186, R488, R503) -/

section
variable {s : State} {idx : BitVec 4} {data : W32}

theorem rotBusy_iff (b : Block) : b.rotBusy = true ↔ (b.get R.LDR_STAT_PHASE = 1 ∨ b.get R.LDR_STAT_PHASE = 2 ∨
    b.get R.LDR_STAT_PHASE = 3 ∨ b.get R.ACT_STAT_PHASE = 1) := by
  unfold Block.rotBusy
  rw [Bool.or_eq_true, Bool.and_eq_true, decide_eq_true_iff, decide_eq_true_iff, beq_iff_eq]
  omega

theorem gives_rotWrite_refused (h : s.blk.rotBusy = true ∨ 12 ≤ idx.toNat) : Gives (.rootOfTrustWrite idx data) s (Same s) := by
  refine gives_of_done (b := s.blk) (congrArg (done s) (if_pos ?_)) rfl rfl
  rw [Bool.or_eq_true, decide_eq_true_iff]
  exact h

theorem gives_rotWrite (h : s.blk.rotBusy = false) (hi : idx.toNat < 12) : Gives (.rootOfTrustWrite idx data) s fun t =>
    t.blk.get (R.LDR_MANIFEST_DIG idx.toNat) = data.toNat ∧ t.blk.get R.LDR_STAT_MVALID = (if idx.toNat = 11 then 1 else 0) ∧
      OnlyFields [R.LDR_MANIFEST_DIG idx.toNat, R.LDR_STAT_MVALID] s.blk t.blk := by
  have hgo : ¬(s.blk.rotBusy || decide (12 ≤ idx.toNat)) = true := by
    rw [h, decide_eq_false (by omega)]
    decide
  refine gives_of_done (b := (s.blk.put (R.LDR_MANIFEST_DIG idx.toNat) data.toNat).put R.LDR_STAT_MVALID (bit (idx.toNat == 11)))
    (congrArg (done s) (if_neg hgo)) rfl ⟨?_, ?_, ?_⟩
  · refine (Block.get_put_ne _ _ _ _ ?_).trans ((Block.get_put_same _ _ _).trans (Nat.mod_eq_of_lt data.isLt))
    simp only [Fld.key, R.LDR_MANIFEST_DIG, R.LDR_STAT_MVALID]
    omega
  · refine (Block.get_put_same _ _ _).trans ?_
    by_cases he : idx.toNat = 11
    · rw [if_pos he, he]
      rfl
    · rw [if_neg he, beq_eq_false_iff_ne.mpr he]
      rfl
  · exact ((OnlyFields.refl _ s.blk).put (by simp) _).put (by simp) _

theorem gives_pllLock : Gives .pllLock s fun t => t.blk = { s.blk with spm := { s.blk.spm with locked := true } } :=
  gives_of_done (b := s.blk.modSpm fun x => { x with locked := true }) rfl rfl rfl

/-- A store without its rows, its row errors and its digest. -/
def Engine.unloaded (e : Engine) : Engine := { e with cs := [], csErr := [], csDigest := none }

theorem Engine.unloaded_row (e : Engine) (a : Nat) : e.unloaded.row a = fillWord := by
  unfold Engine.row Tab.get Tab.look
  exact Option.getD_none

theorem clearStore_engine (b : Block) (n m : Nat) : (b.clearStore n).engine m =
    if m = n then (b.engine n).unloaded else b.engine m :=
  Eq.trans (by unfold Block.clearStore Block.clear; rfl) (modEngine_engine b n Engine.unloaded m)

theorem clearStore_frame (b : Block) (n : Nat) : (b.clearStore n).mem = b.mem ∧ (b.clearStore n).isSealed = b.isSealed := by
  unfold Block.clearStore Block.clear
  exact ⟨rfl, rfl⟩

/-- The stores are cleared one after the other. -/
theorem clearStores_facts (b : Block) :
    (∀ n < 72, (forEach 72 Block.clearStore b).get (R.ENG_CSSTAT_IMGST n) = 1 ∧
      (forEach 72 Block.clearStore b).get (R.ENG_CSSTAT_UEPEND n) = 0 ∧
      ∀ a, ((forEach 72 Block.clearStore b).engine n).row a = fillWord) ∧
    (forEach 72 Block.clearStore b).mem = b.mem ∧ (forEach 72 Block.clearStore b).isSealed = b.isSealed := by
  refine ⟨forEach_each (Q := fun n u => u.get (R.ENG_CSSTAT_IMGST n) = 1 ∧ u.get (R.ENG_CSSTAT_UEPEND n) = 0 ∧
    ∀ a, (u.engine n).row a = fillWord) (fun i y _ => ⟨?_, ?_, fun a => ?_⟩) (fun i j y _ _ hne ⟨h1, h2, h3⟩ => ⟨?_, ?_, fun a => ?_⟩) b,
    forEach_keeps (fun u : Block => u.mem = b.mem) 72 _ b rfl fun i y _ h => (clearStore_frame y i).1.trans h,
    forEach_keeps (fun u : Block => u.isSealed = b.isSealed) 72 _ b rfl fun i y _ h => (clearStore_frame y i).2.trans h⟩
  · refine (Block.get_put_ne _ _ _ _ ?_).trans (Block.get_put_same _ _ _)
    simp only [Fld.key, R.ENG_CSSTAT_IMGST, R.ENG_CSSTAT_UEPEND]
    omega
  · exact (Block.get_put_same _ _ _).trans (Nat.zero_mod _)
  · rw [clearStore_engine, if_pos rfl]
    exact Engine.unloaded_row _ a
  · refine (Block.get_put_ne _ _ _ _ ?_).trans ((Block.get_put_ne _ _ _ _ ?_).trans h1)
    · simp only [Fld.key, R.ENG_CSSTAT_IMGST, R.ENG_CSSTAT_UEPEND]
      omega
    · simp only [Fld.key, R.ENG_CSSTAT_IMGST]
      omega
  · refine (Block.get_put_ne _ _ _ _ ?_).trans ((Block.get_put_ne _ _ _ _ ?_).trans h2)
    · simp only [Fld.key, R.ENG_CSSTAT_UEPEND]
      omega
    · simp only [Fld.key, R.ENG_CSSTAT_IMGST, R.ENG_CSSTAT_UEPEND]
      omega
  · rw [clearStore_engine, if_neg (Ne.symm hne)]
    exact h3 a

/-- The Loader leaves WAITMAN with its stores cleared. -/
def Block.loading (b : Block) : Block :=
  (b.put R.LDR_STAT_PHASE 1).modSpm fun s => { s with img := some ⟨none, 0, [], [], false⟩ }

theorem loading_facts (b : Block) : b.loading.isSealed = b.isSealed ∧ b.loading.mem = b.mem ∧ b.loading.get R.LDR_STAT_PHASE = 1 ∧
    b.loading.spm.img = some ⟨none, 0, [], [], false⟩ ∧ (∀ n, b.loading.engine n = b.engine n) ∧
    ∀ x, x.key ≠ R.LDR_STAT_PHASE.key → b.loading.get x = b.get x :=
  ⟨rfl, rfl, Block.get_put_same _ _ _, rfl, fun _ => rfl, fun _ h => Block.get_put_ne _ _ _ _ h⟩

theorem gives_loaderStart (hp : s.blk.get R.LDR_STAT_PHASE = 0) (hv : s.blk.get R.LDR_STAT_MVALID ≠ 0) (hl : s.blk.spm.locked = true) :
    Gives .loaderStart s fun t => t.blk.get R.LDR_STAT_PHASE = 1 ∧ t.blk.spm.img = some ⟨none, 0, [], [], false⟩ ∧
      t.blk.mem = s.blk.mem ∧ ∀ n < 72, t.blk.get (R.ENG_CSSTAT_IMGST n) = 1 ∧ t.blk.get (R.ENG_CSSTAT_UEPEND n) = 0 ∧
        ∀ a, (t.blk.engine n).row a = fillWord := by
  obtain ⟨hstores, hmem, hsealed⟩ := clearStores_facts s.blk
  have hgo : s.blk.get R.LDR_STAT_PHASE = 0 ∧ s.blk.flag R.LDR_STAT_MVALID ∧ s.blk.spm.locked := ⟨hp, bne_iff_ne.mpr hv, hl⟩
  have hx : exec .loaderStart s = done s (forEach 72 Block.clearStore s.blk).loading := congrArg (done s) (if_pos hgo)
  obtain ⟨h1, h2, h3, h4, h5, h6⟩ := loading_facts (forEach 72 Block.clearStore s.blk)
  refine gives_of_done hx (h1.trans hsealed) ⟨h3, h4, h2.trans hmem, fun n hn => ?_⟩
  obtain ⟨g1, g2, g3⟩ := hstores n hn
  refine ⟨(h6 _ ?_).trans g1, (h6 _ ?_).trans g2, fun a => ?_⟩
  · simp only [Fld.key, R.ENG_CSSTAT_IMGST, R.LDR_STAT_PHASE]
    omega
  · simp only [Fld.key, R.ENG_CSSTAT_UEPEND, R.LDR_STAT_PHASE]
    omega
  · rw [h5]
    exact g3 a

theorem gives_loaderStart_none (h : s.blk.get R.LDR_STAT_PHASE ≠ 0 ∨ s.blk.get R.LDR_STAT_MVALID = 0 ∨ s.blk.spm.locked = false) :
    Gives .loaderStart s (Same s) := by
  have hno : ¬(s.blk.get R.LDR_STAT_PHASE = 0 ∧ s.blk.flag R.LDR_STAT_MVALID ∧ s.blk.spm.locked) := by
    rintro ⟨hp, hv, hl⟩
    obtain h | h | h := h
    · exact h hp
    · exact absurd h (bne_iff_ne.mp hv)
    · rw [h] at hl
      cases hl
  exact gives_of_done (b := s.blk) (congrArg (done s) (if_neg hno)) rfl rfl

end

/-! ## A load that fails (R183) -/

/-- The Loader gives up with a cause. -/
def Block.givenUp (b : Block) (cause : Nat) : Block :=
  ((b.put R.LDR_STAT_CAUSE cause).put R.LDR_STAT_PHASE 5).modSpm fun s => { s with img := none }

theorem givenUp_facts (b : Block) (cause : Nat) : (b.givenUp cause).get R.LDR_STAT_PHASE = 5 ∧
    (b.givenUp cause).get R.LDR_STAT_CAUSE = cause % 16 ∧ (b.givenUp cause).spm.img = none ∧ (b.givenUp cause).eng = b.eng ∧
    (b.givenUp cause).isSealed = b.isSealed ∧
    ∀ x, x.key ≠ R.LDR_STAT_PHASE.key → x.key ≠ R.LDR_STAT_CAUSE.key → (b.givenUp cause).get x = b.get x :=
  ⟨Block.get_put_same _ _ _, (Block.get_put_ne _ _ _ _ (by decide)).trans (Block.get_put_same _ _ _), rfl, rfl, rfl, fun _ h1 h2 =>
    (Block.get_put_ne _ _ _ _ h1).trans (Block.get_put_ne _ _ _ _ h2)⟩

theorem markInvalid_facts (b : Block) : (forEach 72 Block.markInvalid b).eng = b.eng ∧
    (forEach 72 Block.markInvalid b).isSealed = b.isSealed ∧
    ∀ n < 72, (forEach 72 Block.markInvalid b).get (R.ENG_CSSTAT_IMGST n) = 3 ∧
      (forEach 72 Block.markInvalid b).get (R.ENG_ID_RUN n) = b.get (R.ENG_ID_RUN n) := by
  refine ⟨forEach_keeps (fun u : Block => u.eng = b.eng) 72 Block.markInvalid b rfl fun _ _ _ h => h,
    forEach_keeps (fun u : Block => u.isSealed = b.isSealed) 72 Block.markInvalid b rfl fun _ _ _ h => h, fun n hn => ⟨?_, ?_⟩⟩
  · refine forEach_each (Q := fun n u => u.get (R.ENG_CSSTAT_IMGST n) = 3) (f := Block.markInvalid) (fun i y _ => Block.get_put_same _ _ _)
      (fun i j y _ _ hne h => (Block.get_put_ne _ _ _ _ ?_).trans h) b n hn
    simp only [Fld.key, R.ENG_CSSTAT_IMGST]
    omega
  · refine forEach_keeps (fun u => u.get (R.ENG_ID_RUN n) = b.get (R.ENG_ID_RUN n)) 72 Block.markInvalid b rfl fun i y _ h =>
      (Block.get_put_ne _ _ _ _ ?_).trans h
    simp only [Fld.key, R.ENG_CSSTAT_IMGST, R.ENG_ID_RUN]
    omega

/-- What a failed load leaves (R183): the stores are INVALID, and no engine starts. -/
structure LoadFailed (cause : Nat) (b t : Block) : Prop where
  phase : t.get R.LDR_STAT_PHASE = 5
  cause : t.get R.LDR_STAT_CAUSE = cause % 16
  img : t.spm.img = none
  eng : t.eng = b.eng
  stores : ∀ n < 72, t.get (R.ENG_CSSTAT_IMGST n) = 3 ∧ t.get (R.ENG_ID_RUN n) = b.get (R.ENG_ID_RUN n)

theorem loaderFail_facts (b : Block) (cause : Nat) : LoadFailed cause b (b.loaderFail cause) ∧
    (b.loaderFail cause).isSealed = b.isSealed := by
  obtain ⟨h1, h2, h3⟩ := markInvalid_facts b
  have hx : b.loaderFail cause = (forEach 72 Block.markInvalid b).givenUp cause := by
    unfold Block.loaderFail Block.givenUp
    rfl
  obtain ⟨g1, g2, g3, g4, g5, g6⟩ := givenUp_facts (forEach 72 Block.markInvalid b) cause
  rw [hx]
  refine ⟨⟨g1, g2, g3, g4.trans h1, fun n hn => ?_⟩, g5.trans h2⟩
  obtain ⟨k1, k2⟩ := h3 n hn
  refine ⟨(g6 _ ?_ ?_).trans k1, (g6 _ ?_ ?_).trans k2⟩
  all_goals
    simp only [Fld.key, R.ENG_CSSTAT_IMGST, R.ENG_ID_RUN, R.LDR_STAT_PHASE, R.LDR_STAT_CAUSE]
    omega

end Sys2Proof.Machine
end

section
/-! The end of a load (R183): every store is LOADED, and each logical engine starts on the engine of its reset map. -/
namespace Sys2Proof.Machine

/-! ## One store marked LOADED -/

/-- What a store that holds image `h` shows of it. -/
def ShowsImage (h dig : List Byte) (n : Nat) (u : Block) : Prop :=
  u.get (R.ENG_CSSTAT_IMGST n) = 2 ∧ u.get (R.ENG_CSVER_MAJOR n) = imgVersion h / 4096 % 16 ∧
    u.get (R.ENG_CSVER_MINOR n) = imgVersion h / 256 % 16 ∧ u.get (R.ENG_CSVER_PATCH n) = imgVersion h / 16 % 16 ∧
    u.get (R.ENG_CSVER_MSFV n) = imgVersion h % 16 ∧ (u.engine n).csDigest = some dig

/-- The fields that say what a store holds. -/
def storeFields (n : Nat) : List Fld := [R.ENG_CSSTAT_IMGST n, R.ENG_CSVER_MAJOR n, R.ENG_CSVER_MINOR n, R.ENG_CSVER_PATCH n,
  R.ENG_CSVER_MSFV n]

theorem ShowsImage.of_same {h dig : List Byte} {n : Nat} {u t : Block} (hs : ShowsImage h dig n u)
    (hget : ∀ x ∈ storeFields n, t.get x = u.get x) (hdig : (t.engine n).csDigest = (u.engine n).csDigest) : ShowsImage h dig n t := by
  obtain ⟨h1, h2, h3, h4, h5, h6⟩ := hs
  exact ⟨(hget _ (by simp [storeFields])).trans h1, (hget _ (by simp [storeFields])).trans h2, (hget _ (by simp [storeFields])).trans h3,
    (hget _ (by simp [storeFields])).trans h4, (hget _ (by simp [storeFields])).trans h5, hdig.trans h6⟩

/-- An engine whose store holds a verified image. -/
def Engine.signed (dig : List Byte) (e : Engine) : Engine := { e with csDigest := some dig }

theorem Engine.signed_row (dig : List Byte) (e : Engine) (a : Nat) : (e.signed dig).row a = e.row a := rfl

theorem markLoaded_engine (h dig : List Byte) (n m : Nat) (b : Block) : (Block.markLoaded h dig n b).engine m =
    if m = n then (b.engine n).signed dig else b.engine m :=
  Eq.trans (by unfold Block.markLoaded; rfl) (modEngine_engine b n (Engine.signed dig) m)

theorem markLoaded_frame (h dig : List Byte) (n : Nat) (b : Block) : (Block.markLoaded h dig n b).mem = b.mem ∧
    (Block.markLoaded h dig n b).isSealed = b.isSealed := by
  unfold Block.markLoaded
  exact ⟨rfl, rfl⟩

theorem markLoaded_shows (h dig : List Byte) (n : Nat) (b : Block) : ShowsImage h dig n (Block.markLoaded h dig n b) := by
  refine ⟨?_, ?_, ?_, ?_, ?_, ?_⟩
  case refine_6 =>
    rw [markLoaded_engine, if_pos rfl]
    rfl
  all_goals
    unfold Block.markLoaded
    dsimp only
    simp (disch := (simp only [Fld.key, R.ENG_CSSTAT_IMGST, R.ENG_CSVER_MAJOR, R.ENG_CSVER_MINOR, R.ENG_CSVER_PATCH, R.ENG_CSVER_MSFV,
      R.ENG_CSVER_DIGPFX]; omega)) only [Block.get_put_same, Block.get_put_ne]
  all_goals rfl

theorem markLoaded_keeps {h dig : List Byte} {i n : Nat} {b : Block} (hne : i ≠ n) (hs : ShowsImage h dig n b) :
    ShowsImage h dig n (Block.markLoaded h dig i b) := by
  refine hs.of_same (fun x hx => ?_) ?_
  · simp only [storeFields, List.mem_cons, List.not_mem_nil, or_false] at hx
    unfold Block.markLoaded
    dsimp only
    obtain rfl | rfl | rfl | rfl | rfl := hx <;>
    · simp (disch := (simp only [Fld.key, R.ENG_CSSTAT_IMGST, R.ENG_CSVER_MAJOR, R.ENG_CSVER_MINOR, R.ENG_CSVER_PATCH, R.ENG_CSVER_MSFV,
        R.ENG_CSVER_DIGPFX]; omega)) only [Block.get_put_ne, Block.modEngine_get]
  · rw [markLoaded_engine, if_neg (Ne.symm hne)]

/-- Every store is marked LOADED. -/
theorem markLoaded_all (h dig : List Byte) (b : Block) :
    (∀ n < 72, ShowsImage h dig n (forEach 72 (Block.markLoaded h dig) b)) ∧
    (∀ n a, ((forEach 72 (Block.markLoaded h dig) b).engine n).row a = (b.engine n).row a) ∧
    (forEach 72 (Block.markLoaded h dig) b).mem = b.mem ∧ (forEach 72 (Block.markLoaded h dig) b).isSealed = b.isSealed := by
  refine ⟨forEach_each (Q := ShowsImage h dig) (f := Block.markLoaded h dig) (fun i y _ => markLoaded_shows h dig i y)
      (fun i j y _ _ hne hy => markLoaded_keeps hne hy) b, fun n a => ?_,
    forEach_keeps (fun u : Block => u.mem = b.mem) 72 _ b rfl fun i y _ hy => (markLoaded_frame h dig i y).1.trans hy,
    forEach_keeps (fun u : Block => u.isSealed = b.isSealed) 72 _ b rfl fun i y _ hy => (markLoaded_frame h dig i y).2.trans hy⟩
  refine forEach_keeps (fun u : Block => (u.engine n).row a = (b.engine n).row a) 72 _ b rfl fun i y _ hy => ?_
  rw [markLoaded_engine]
  split
  next he => rw [Engine.signed_row, ← he, hy]
  next => exact hy

/-! ## The state of an engine and the start of a logical engine -/

/-- The fields that a change of an engine's state may change. -/
def peFields (n : Nat) : List Fld := [R.peState n, R.SPM_STAT_FREE, R.SPM_EVT_RETIRED, R.SPM_EVT_SPARELOW]

theorem setPe_get (b : Block) (n : Nat) (st : PeState) {x : Fld} (h : ∀ f ∈ peFields n, x.key ≠ f.key) :
    (b.setPe n st).get x = b.get x := by
  have h1 := h (R.peState n) (by simp [peFields])
  have h2 := h R.SPM_STAT_FREE (by simp [peFields])
  have h3 := h R.SPM_EVT_RETIRED (by simp [peFields])
  have h4 := h R.SPM_EVT_SPARELOW (by simp [peFields])
  have hbase : ((b.put (R.peState n) st.code).countFree).get x = b.get x :=
    (Block.get_put_ne _ _ _ _ h2).trans (Block.get_put_ne _ _ _ _ h1)
  unfold Block.setPe
  dsimp only
  split <;> split <;> simp only [Block.raise, Block.get_put_ne _ _ _ _ h3, Block.get_put_ne _ _ _ _ h4, hbase]

theorem setPe_state (b : Block) {n : Nat} (hn : n < 72) (st : PeState) : (b.setPe n st).get (R.peState n) = st.code := by
  have h2 : (R.peState n).key ≠ R.SPM_STAT_FREE.key := by simp only [Fld.key, R.peState, R.SPM_STAT_FREE]; omega
  have h3 : (R.peState n).key ≠ R.SPM_EVT_RETIRED.key := by simp only [Fld.key, R.peState, R.SPM_EVT_RETIRED]; omega
  have h4 : (R.peState n).key ≠ R.SPM_EVT_SPARELOW.key := by simp only [Fld.key, R.peState, R.SPM_EVT_SPARELOW]; omega
  have hbase : ((b.put (R.peState n) st.code).countFree).get (R.peState n) = st.code :=
    (Block.get_put_ne _ _ _ _ h2).trans ((Block.get_put_same _ _ _).trans (by cases st <;> rfl))
  unfold Block.setPe
  dsimp only
  split <;> split <;> simp only [Block.raise, Block.get_put_ne _ _ _ _ h3, Block.get_put_ne _ _ _ _ h4, hbase]

theorem setPe_frame (b : Block) (n : Nat) (st : PeState) : (b.setPe n st).mem = b.mem ∧ (b.setPe n st).eng = b.eng ∧
    (b.setPe n st).isSealed = b.isSealed := by
  unfold Block.setPe
  dsimp only
  split <;> split <;> exact ⟨rfl, rfl, rfl⟩

theorem setLe_started (b : Block) (k : Nat) : b.setLe k 0 =
    (b.modSpm fun s => { s with leState := s.leState.put k 0 }).put (R.mapRun k) (bit ((0 : Nat) == 0)) := by
  unfold Block.setLe
  exact if_neg (by decide)

/-- The fields that the start of logical engine `k` on engine `n` may change. -/
def sendFields (n k : Nat) : List Fld := R.mapPE k :: R.mapRun k :: R.ENG_ID_RUN n :: R.ENG_ID_LE n :: peFields n

/-- An engine to which a start has been sent. -/
def Engine.toStart (e : Engine) : Engine := { e with startDue := true, running := false }

theorem engine_congr {b c : Block} (h : c.eng = b.eng) (m : Nat) : c.engine m = b.engine m := by
  unfold Block.engine
  rw [h]

/-- The start's map and the engine's identity. -/
def Block.mappedTo (b : Block) (n k : Nat) : Block :=
  (((b.put (R.mapPE k) n).raise (R.ENG_ID_RUN n)).put (R.ENG_ID_LE n) k).modEngine n Engine.toStart

theorem sendStart_eq (b : Block) (n k : Nat) : b.sendStart n k =
    (((b.mappedTo n k).setPe n .active).modSpm fun s => { s with leState := s.leState.put k 0 }).put (R.mapRun k) 1 :=
  setLe_started ((b.mappedTo n k).setPe n .active) k

theorem sendStart_get (b : Block) (n k : Nat) {x : Fld} (h : ∀ f ∈ sendFields n k, x.key ≠ f.key) :
    (b.sendStart n k).get x = b.get x := by
  rw [sendStart_eq]
  refine (Block.get_put_ne _ _ _ _ (h _ (by simp [sendFields]))).trans ((Block.modSpm_get ..).trans ?_)
  refine (setPe_get _ _ _ fun f hf => h f (by simp [sendFields, hf])).trans ?_
  refine (Block.modEngine_get ..).trans ((Block.get_put_ne _ _ _ _ (h _ (by simp [sendFields]))).trans ?_)
  exact (Block.get_put_ne _ _ _ _ (h _ (by simp [sendFields]))).trans (Block.get_put_ne _ _ _ _ (h _ (by simp [sendFields])))

theorem sendStart_frame (b : Block) (n k : Nat) : (b.sendStart n k).mem = b.mem ∧ (b.sendStart n k).isSealed = b.isSealed := by
  obtain ⟨h1, _, h3⟩ := setPe_frame (b.mappedTo n k) n .active
  rw [sendStart_eq]
  exact ⟨h1, h3⟩

theorem sendStart_engine (b : Block) (n k m : Nat) : (b.sendStart n k).engine m =
    if m = n then (b.engine n).toStart else b.engine m := by
  rw [sendStart_eq]
  exact (engine_congr (setPe_frame (b.mappedTo n k) n .active).2.1 m).trans (modEngine_engine _ n _ m)

/-- Logical engine `k` is mapped to its engine of the reset map, and its start sent. -/
def StartSent (k : Nat) (u : Block) : Prop :=
  u.get (R.mapPE k) = 9 * (k / 8) + k % 8 ∧ u.get (R.mapRun k) = 1 ∧ u.get (R.ENG_ID_LE (9 * (k / 8) + k % 8)) = k ∧
    u.get (R.ENG_ID_RUN (9 * (k / 8) + k % 8)) = 1 ∧ u.get (R.peState (9 * (k / 8) + k % 8)) = 1 ∧
    (u.engine (9 * (k / 8) + k % 8)).startDue = true

theorem reset_engine_lt {k : Nat} (hk : k < 64) : 9 * (k / 8) + k % 8 < 72 := by omega

theorem sendStart_state (b : Block) {n k : Nat} (hn : n < 72) : (b.sendStart n k).get (R.peState n) = 1 := by
  rw [sendStart_eq]
  refine (Block.get_put_ne _ _ _ _ ?_).trans ((Block.modSpm_get ..).trans (setPe_state _ hn .active))
  simp only [Fld.key, R.peState, R.mapRun]
  omega

/-- A field apart from those that a change of state changes, through the last steps of a start. -/
theorem sendStart_mapped (b : Block) {n k : Nat} {x : Fld} (h : ∀ f ∈ R.mapRun k :: peFields n, x.key ≠ f.key) :
    (b.sendStart n k).get x = (((b.put (R.mapPE k) n).raise (R.ENG_ID_RUN n)).put (R.ENG_ID_LE n) k).get x := by
  rw [sendStart_eq]
  refine (Block.get_put_ne _ _ _ _ (h _ (by simp))).trans ((Block.modSpm_get ..).trans ?_)
  exact (setPe_get _ _ _ fun f hf => h f (by simp [hf])).trans (Block.modEngine_get ..)

theorem sendStart_sent (b : Block) {k : Nat} (hk : k < 64) : StartSent k (b.sendStart (9 * (k / 8) + k % 8) k) := by
  refine ⟨(sendStart_mapped b ?_).trans ?_, ?_, (sendStart_mapped b ?_).trans ?_, (sendStart_mapped b ?_).trans ?_,
    sendStart_state b (reset_engine_lt hk), ?_⟩
  · simp only [peFields, List.forall_mem_cons, Fld.key, R.mapPE, R.mapRun, R.peState, R.SPM_STAT_FREE, R.SPM_EVT_RETIRED,
      R.SPM_EVT_SPARELOW]
    refine ⟨?_, ?_, ?_, ?_, ?_, fun _ h => absurd h List.not_mem_nil⟩ <;> omega
  · unfold Block.raise
    simp (disch := (simp only [Fld.key, R.mapPE, R.ENG_ID_RUN, R.ENG_ID_LE]; omega)) only [Block.get_put_same, Block.get_put_ne]
    exact Nat.mod_eq_of_lt (show _ < 128 by omega)
  · rw [sendStart_eq]
    exact Block.get_put_same _ _ _
  · simp only [peFields, List.forall_mem_cons, Fld.key, R.ENG_ID_LE, R.mapRun, R.peState, R.SPM_STAT_FREE, R.SPM_EVT_RETIRED,
      R.SPM_EVT_SPARELOW]
    refine ⟨?_, ?_, ?_, ?_, ?_, fun _ h => absurd h List.not_mem_nil⟩ <;> omega
  · exact (Block.get_put_same _ _ _).trans (Nat.mod_eq_of_lt (show _ < 64 by omega))
  · simp only [peFields, List.forall_mem_cons, Fld.key, R.ENG_ID_RUN, R.mapRun, R.peState, R.SPM_STAT_FREE, R.SPM_EVT_RETIRED,
      R.SPM_EVT_SPARELOW]
    refine ⟨?_, ?_, ?_, ?_, ?_, fun _ h => absurd h List.not_mem_nil⟩ <;> omega
  · refine (Block.get_put_ne _ _ _ _ ?_).trans (Block.get_put_same _ _ _)
    simp only [Fld.key, R.ENG_ID_RUN, R.ENG_ID_LE]
    omega
  · rw [sendStart_engine, if_pos rfl]
    rfl

/-- The fields of the map and of an engine that a start changes for no other logical engine. -/
theorem sendFields_apart {i k : Nat} (hi : i < 64) (hk : k < 64) (hne : i ≠ k) {x : Fld}
    (hx : x ∈ [R.mapPE k, R.mapRun k, R.ENG_ID_LE (9 * (k / 8) + k % 8), R.ENG_ID_RUN (9 * (k / 8) + k % 8),
      R.peState (9 * (k / 8) + k % 8)]) : ∀ f ∈ sendFields (9 * (i / 8) + i % 8) i, x.key ≠ f.key := by
  simp only [List.mem_cons, List.not_mem_nil, or_false] at hx
  have hpe : 9 * (i / 8) + i % 8 ≠ 9 * (k / 8) + k % 8 := by omega
  have hi' := reset_engine_lt hi
  have hk' := reset_engine_lt hk
  generalize 9 * (i / 8) + i % 8 = m at hpe hi'
  generalize 9 * (k / 8) + k % 8 = n at hx hpe hk'
  simp only [sendFields, peFields, List.forall_mem_cons, Fld.key, R.mapPE, R.mapRun, R.ENG_ID_RUN, R.ENG_ID_LE, R.peState,
    R.SPM_STAT_FREE, R.SPM_EVT_RETIRED, R.SPM_EVT_SPARELOW]
  obtain rfl | rfl | rfl | rfl | rfl := hx <;>
  · simp only [R.mapPE, R.mapRun, R.ENG_ID_RUN, R.ENG_ID_LE, R.peState]
    refine ⟨?_, ?_, ?_, ?_, ?_, ?_, ?_, ?_, fun _ h => absurd h List.not_mem_nil⟩ <;> omega

theorem sendStart_keeps (b : Block) {i k : Nat} (hi : i < 64) (hk : k < 64) (hne : i ≠ k) (h : StartSent k b) :
    StartSent k (b.sendStart (9 * (i / 8) + i % 8) i) := by
  obtain ⟨h1, h2, h3, h4, h5, h6⟩ := h
  have hget : ∀ x ∈ [R.mapPE k, R.mapRun k, R.ENG_ID_LE (9 * (k / 8) + k % 8), R.ENG_ID_RUN (9 * (k / 8) + k % 8),
      R.peState (9 * (k / 8) + k % 8)], (b.sendStart (9 * (i / 8) + i % 8) i).get x = b.get x := fun x hx =>
    sendStart_get b _ _ (sendFields_apart hi hk hne hx)
  refine ⟨(hget _ (by simp)).trans h1, (hget _ (by simp)).trans h2, (hget _ (by simp)).trans h3, (hget _ (by simp)).trans h4,
    (hget _ (by simp)).trans h5, ?_⟩
  rw [sendStart_engine, if_neg (by omega)]
  exact h6

/-! ## The stages of the end of a load -/

/-- A field that the start of logical engines leaves alone. -/
def beyondStart (x : Fld) : Prop := ∀ n < 72, ∀ k < 64, ∀ f ∈ sendFields n k, x.key ≠ f.key

theorem spares_facts (b : Block) : (∀ n < 72, (forEach 72 (fun n b => b.setPe n .spare) b).get (R.peState n) = 2) ∧
    (forEach 72 (fun n b => b.setPe n .spare) b).eng = b.eng ∧ (forEach 72 (fun n b => b.setPe n .spare) b).mem = b.mem ∧
    (forEach 72 (fun n b => b.setPe n .spare) b).isSealed = b.isSealed ∧
    ∀ x, beyondStart x → (forEach 72 (fun n b => b.setPe n .spare) b).get x = b.get x := by
  refine ⟨forEach_each (Q := fun n u => u.get (R.peState n) = 2) (fun i y hi => setPe_state y hi .spare)
      (fun i j y hi hj hne h => (setPe_get y j .spare ?_).trans h) b,
    forEach_keeps (fun u : Block => u.eng = b.eng) 72 _ b rfl fun i y _ h => (setPe_frame y i .spare).2.1.trans h,
    forEach_keeps (fun u : Block => u.mem = b.mem) 72 _ b rfl fun i y _ h => (setPe_frame y i .spare).1.trans h,
    forEach_keeps (fun u : Block => u.isSealed = b.isSealed) 72 _ b rfl fun i y _ h => (setPe_frame y i .spare).2.2.trans h,
    fun x hx => forEach_keeps (fun u : Block => u.get x = b.get x) 72 _ b rfl fun i y hi h =>
      (setPe_get y i .spare fun f hf => hx i hi 0 (by omega) f (by simp [sendFields, hf])).trans h⟩
  simp only [peFields, List.forall_mem_cons, Fld.key, R.peState, R.SPM_STAT_FREE, R.SPM_EVT_RETIRED, R.SPM_EVT_SPARELOW]
  refine ⟨?_, ?_, ?_, ?_, fun _ h => absurd h List.not_mem_nil⟩ <;> omega

/-- The start of logical engine `k` on its engine of the reset map. -/
def startReset (k : Nat) (b : Block) : Block := b.sendStart (9 * (k / 8) + k % 8) k

/-- What the engines keep when starts are sent. -/
theorem starts_facts (b : Block) : (∀ k < 64, StartSent k (forEach 64 startReset b)) ∧
    (∀ n, ((forEach 64 startReset b).engine n).csDigest = (b.engine n).csDigest ∧
      ∀ a, ((forEach 64 startReset b).engine n).row a = (b.engine n).row a) ∧
    (forEach 64 startReset b).mem = b.mem ∧ (forEach 64 startReset b).isSealed = b.isSealed ∧
    (∀ c < 8, (forEach 64 startReset b).get (R.peState (9 * c + 8)) = b.get (R.peState (9 * c + 8))) ∧
    ∀ x, beyondStart x → (forEach 64 startReset b).get x = b.get x := by
  refine ⟨forEach_each (Q := StartSent) (f := startReset) (fun i y hi => sendStart_sent y hi)
      (fun i j y hi hj hne h => sendStart_keeps y hj hi hne h) b, fun n => ?_,
    forEach_keeps (fun u : Block => u.mem = b.mem) 64 _ b rfl fun i y _ h => (sendStart_frame y _ i).1.trans h,
    forEach_keeps (fun u : Block => u.isSealed = b.isSealed) 64 _ b rfl fun i y _ h => (sendStart_frame y _ i).2.trans h, fun c hc => ?_,
    fun x hx => forEach_keeps (fun u : Block => u.get x = b.get x) 64 _ b rfl fun i y hi h =>
      (sendStart_get y _ i (hx _ (reset_engine_lt hi) i hi)).trans h⟩
  · refine forEach_keeps (fun u : Block => (u.engine n).csDigest = (b.engine n).csDigest ∧ ∀ a, (u.engine n).row a = (b.engine n).row a)
      64 _ b ⟨rfl, fun _ => rfl⟩ fun i y _ h => ?_
    unfold startReset
    rw [sendStart_engine]
    split
    next he => exact he ▸ h
    next => exact h
  · refine forEach_keeps (fun u : Block => u.get (R.peState (9 * c + 8)) = b.get (R.peState (9 * c + 8))) 64 _ b rfl fun i y hi h =>
      (sendStart_get y _ i ?_).trans h
    have hne : 9 * c + 8 ≠ 9 * (i / 8) + i % 8 := by omega
    have hc' : 9 * c + 8 < 72 := by omega
    have hi' := reset_engine_lt hi
    generalize 9 * c + 8 = n at hne hc'
    generalize 9 * (i / 8) + i % 8 = m at hne hi'
    simp only [sendFields, peFields, List.forall_mem_cons, Fld.key, R.mapPE, R.mapRun, R.ENG_ID_RUN, R.ENG_ID_LE, R.peState,
      R.SPM_STAT_FREE, R.SPM_EVT_RETIRED, R.SPM_EVT_SPARELOW]
    refine ⟨?_, ?_, ?_, ?_, ?_, ?_, ?_, ?_, fun _ h => absurd h List.not_mem_nil⟩ <;> omega

/-- A load's end but for its stores and its engines. -/
def Block.settledLoad (b : Block) : Block := (b.clear R.LDR_STAT_MVALID).put R.LDR_STAT_PHASE 4

/-- The mirror's share of a load's end. -/
def Block.loadMirrored (b : Block) : Block :=
  (b.modSpm fun s => { s with img := none }).live (((List.range 72).map mirPe) ++ (List.range 64).map mirLe)

theorem loaderDone_eq (b : Block) (h : List Byte) : b.loaderDone h = (forEach 64 startReset (forEach 72 (fun n b => b.setPe n .spare)
    (forEach 72 (Block.markLoaded h b.manifest) b).settledLoad)).loadMirrored := by
  unfold Block.loaderDone Block.settledLoad Block.loadMirrored startReset
  rfl

theorem settledLoad_facts (b : Block) : b.settledLoad.get R.LDR_STAT_PHASE = 4 ∧ b.settledLoad.get R.LDR_STAT_MVALID = 0 ∧
    b.settledLoad.eng = b.eng ∧ b.settledLoad.mem = b.mem ∧ b.settledLoad.isSealed = b.isSealed ∧
    ∀ x, x.key ≠ R.LDR_STAT_PHASE.key → x.key ≠ R.LDR_STAT_MVALID.key → b.settledLoad.get x = b.get x :=
  ⟨Block.get_put_same _ _ _, (Block.get_put_ne _ _ _ _ (by decide)).trans ((Block.get_put_same _ _ _).trans (Nat.zero_mod _)), rfl, rfl,
    rfl, fun _ h1 h2 => (Block.get_put_ne _ _ _ _ h1).trans (Block.get_put_ne _ _ _ _ h2)⟩

theorem loadMirrored_facts (b : Block) : b.loadMirrored.spm.img = none ∧ b.loadMirrored.eng = b.eng ∧ b.loadMirrored.mem = b.mem ∧
    b.loadMirrored.isSealed = b.isSealed ∧ ∀ x, x.key ≠ R.SPM_LSEQ_LSEQ.key → b.loadMirrored.get x = b.get x :=
  ⟨rfl, rfl, rfl, rfl, fun _ hx => (live_get _ _ hx).trans (Block.modSpm_get ..)⟩

theorem beyondStart_of {x : Fld} (h : x.key < 0x2004 * 32 ∨ x.key % 8192 < 0x3c * 32 ∧ 0x40000 * 32 ≤ x.key) : beyondStart x := by
  intro n hn k hk
  simp only [sendFields, peFields, List.forall_mem_cons, Fld.key, R.mapPE, R.mapRun, R.ENG_ID_RUN, R.ENG_ID_LE, R.peState,
    R.SPM_STAT_FREE, R.SPM_EVT_RETIRED, R.SPM_EVT_SPARELOW] at h ⊢
  refine ⟨?_, ?_, ?_, ?_, ?_, ?_, ?_, ?_, fun _ h => absurd h List.not_mem_nil⟩ <;> omega

theorem storeField_key {n : Nat} {x : Fld} (hx : x ∈ storeFields n) : x.key % 8192 < 0x3c * 32 ∧ 0x40000 * 32 ≤ x.key := by
  simp only [storeFields, List.mem_cons, List.not_mem_nil, or_false] at hx
  obtain rfl | rfl | rfl | rfl | rfl := hx <;>
  · simp only [Fld.key, R.ENG_CSSTAT_IMGST, R.ENG_CSVER_MAJOR, R.ENG_CSVER_MINOR, R.ENG_CSVER_PATCH, R.ENG_CSVER_MSFV]
    omega

/-- What a load that ends well leaves (R183). -/
structure LoadDone (h dig : List Byte) (b t : Block) : Prop where
  phase : t.get R.LDR_STAT_PHASE = 4
  mvalid : t.get R.LDR_STAT_MVALID = 0
  img : t.spm.img = none
  mem : t.mem = b.mem
  stores : ∀ n < 72, ShowsImage h dig n t
  rows : ∀ n a, (t.engine n).row a = (b.engine n).row a
  starts : ∀ k < 64, StartSent k t
  spares : ∀ c < 8, t.get (R.peState (9 * c + 8)) = 2

theorem loaderDone_facts (b : Block) (h : List Byte) : LoadDone h b.manifest b (b.loaderDone h) ∧
    (b.loaderDone h).isSealed = b.isSealed := by
  rw [loaderDone_eq]
  obtain ⟨m1, m2, m3, m4⟩ := markLoaded_all h b.manifest b
  generalize forEach 72 (Block.markLoaded h b.manifest) b = c1 at m1 m2 m3 m4
  obtain ⟨s1, s2, s3, s4, s5, s6⟩ := settledLoad_facts c1
  generalize c1.settledLoad = c2 at s1 s2 s3 s4 s5 s6
  obtain ⟨p1, p2, p3, p4, p5⟩ := spares_facts c2
  generalize forEach 72 (fun n b => b.setPe n .spare) c2 = c3 at p1 p2 p3 p4 p5
  obtain ⟨e1, e2, e3, e4, e5, e6⟩ := starts_facts c3
  generalize forEach 64 startReset c3 = c4 at e1 e2 e3 e4 e5 e6
  obtain ⟨l1, l2, l3, l4, l5⟩ := loadMirrored_facts c4
  generalize c4.loadMirrored = t at l1 l2 l3 l4 l5
  have hlow : ∀ x : Fld, x.key < 0x2004 * 32 → t.get x = c2.get x := fun x hx => by
    have hb := beyondStart_of (Or.inl hx)
    refine (l5 x ?_).trans ((e6 x hb).trans (p5 x hb))
    simp only [Fld.key, R.SPM_LSEQ_LSEQ] at hx ⊢
    omega
  have heng : ∀ n, (t.engine n).csDigest = (c1.engine n).csDigest ∧ ∀ a, (t.engine n).row a = (c1.engine n).row a := fun n => by
    obtain ⟨g1, g2⟩ := e2 n
    rw [engine_congr l2, ← engine_congr s3, ← engine_congr p2]
    exact ⟨g1, g2⟩
  have hmap : ∀ x ∈ [R.mapPE, R.mapRun, R.peState, R.ENG_ID_LE, R.ENG_ID_RUN], ∀ i < 72, t.get (x i) = c4.get (x i) := fun x hx i hi => by
    refine l5 _ ?_
    simp only [List.mem_cons, List.not_mem_nil, or_false] at hx
    obtain rfl | rfl | rfl | rfl | rfl := hx <;>
    · simp only [Fld.key, R.mapPE, R.mapRun, R.ENG_ID_RUN, R.ENG_ID_LE, R.peState, R.SPM_LSEQ_LSEQ]
      omega
  refine ⟨⟨(hlow _ (by decide)).trans s1, (hlow _ (by decide)).trans s2, l1, l3.trans (e3.trans (p3.trans (s4.trans m3))), fun n hn => ?_,
    fun n a => ((heng n).2 a).trans (m2 n a), fun k hk => ?_, fun c hc => ?_⟩, l4.trans (e4.trans (p4.trans (s5.trans m4)))⟩
  · refine (m1 n hn).of_same (fun x hx => ?_) (heng n).1
    obtain ⟨hk1, hk2⟩ := storeField_key hx
    have hb := beyondStart_of (Or.inr ⟨hk1, hk2⟩)
    refine (l5 x ?_).trans ((e6 x hb).trans ((p5 x hb).trans (s6 x ?_ ?_)))
    all_goals
      simp only [Fld.key, R.SPM_LSEQ_LSEQ, R.LDR_STAT_PHASE, R.LDR_STAT_MVALID] at hk2 ⊢
      omega
  · have hk' := reset_engine_lt hk
    obtain ⟨g1, g2, g3, g4, g5, g6⟩ := e1 k hk
    refine ⟨(hmap _ (by simp) k (by omega)).trans g1, (hmap _ (by simp) k (by omega)).trans g2, (hmap _ (by simp) _ hk').trans g3,
      (hmap _ (by simp) _ hk').trans g4, (hmap _ (by simp) _ hk').trans g5, ?_⟩
    rw [engine_congr l2]
    exact g6
  · exact (hmap _ (by simp) _ (by omega)).trans ((e5 c hc).trans (p1 _ (by omega)))

/-- Each engine is a spare, or a logical engine's of the reset map. -/
theorem LoadDone.peState {h dig : List Byte} {b t : Block} (hd : LoadDone h dig b t) {n : Nat} (hn : n < 72) :
    t.get (R.peState n) = (if n % 9 = 8 then 2 else 1) := by
  split
  next h8 =>
    have hs := hd.spares (n / 9) (by omega)
    rw [show 9 * (n / 9) + 8 = n by omega] at hs
    exact hs
  next h8 =>
    obtain ⟨_, _, _, _, hs, _⟩ := hd.starts (8 * (n / 9) + n % 9) (by omega)
    rw [show 9 * ((8 * (n / 9) + n % 9) / 8) + (8 * (n / 9) + n % 9) % 8 = n by omega] at hs
    exact hs

end Sys2Proof.Machine
end

section
/-! The words of an image: where a microword goes, and what a read's bytes store (R181 to R183). -/
namespace Sys2Proof.Machine

/-! ## The microaddresses of an image's words (R181, R182) -/

theorem wordAddr_within : ∀ {secs : List (Nat × Nat)} {lo i a : Nat}, sectionsOk lo secs = true → wordAddr secs i = some a →
    lo ≤ a ∧ a < 8192
  | [], _, _, _, _, h => by cases h
  | (s, n) :: t, lo, i, a, hok, h => by
    simp only [sectionsOk, Bool.and_eq_true, decide_eq_true_iff] at hok
    obtain ⟨⟨⟨h1, h2⟩, h3⟩, h4⟩ := hok
    unfold wordAddr at h
    split at h
    next hi =>
      cases h
      omega
    next =>
      have hr := wordAddr_within h4 h
      omega

/-- No two words of an image share a microaddress. -/
theorem wordAddr_inj : ∀ {secs : List (Nat × Nat)} {lo i j a : Nat}, sectionsOk lo secs = true → wordAddr secs i = some a →
    wordAddr secs j = some a → i = j
  | [], _, _, _, _, _, h, _ => by cases h
  | (s, n) :: t, lo, i, j, a, hok, hi, hj => by
    have hok' := hok
    simp only [sectionsOk, Bool.and_eq_true, decide_eq_true_iff] at hok'
    obtain ⟨⟨⟨h1, h2⟩, h3⟩, h4⟩ := hok'
    unfold wordAddr at hi hj
    split at hi <;> split at hj
    next => simp only [Option.some.injEq] at hi hj; omega
    next =>
      have hr := wordAddr_within h4 hj
      simp only [Option.some.injEq] at hi
      omega
    next =>
      have hr := wordAddr_within h4 hi
      simp only [Option.some.injEq] at hj
      omega
    next =>
      have hr := wordAddr_inj h4 hi hj
      omega

theorem headerOk_sections {h : List Byte} (hok : headerOk h = true) : sectionsOk 0 (sections h) = true := by
  unfold headerOk at hok
  simp only [Bool.and_eq_true] at hok
  exact hok.1.1.2

/-! ## The whole words at the head of some bytes -/

/-- Word `j` of some bytes. -/
def imageWord (d : List Byte) (j : Nat) : BitVec 192 := BitVec.ofNat 192 (leNat ((d.drop (24 * j)).take 24))

theorem takeWords_eq : ∀ (fuel : Nat) (d : List Byte), d.length < 24 * (fuel + 1) →
    takeWords fuel d = ((List.range (d.length / 24)).map (imageWord d), d.drop (d.length / 24 * 24))
  | 0, d, h => by
    have h0 : d.length / 24 = 0 := by omega
    unfold takeWords
    rw [h0]
    rfl
  | fuel + 1, d, h => by
    unfold takeWords
    split
    next hs =>
      have h0 : d.length / 24 = 0 := by omega
      rw [h0]
      rfl
    next hs =>
      have hd : (d.drop 24).length / 24 = d.length / 24 - 1 := by
        rw [List.length_drop]
        omega
      have hr := takeWords_eq fuel (d.drop 24) (by rw [List.length_drop]; omega)
      dsimp only
      rw [hr, hd]
      obtain ⟨m, hm⟩ : ∃ m, d.length / 24 = m + 1 := ⟨d.length / 24 - 1, by omega⟩
      rw [hm, Nat.add_sub_cancel, List.range_succ_eq_map, List.map_cons, List.map_map]
      refine Prod.ext (congrArg₂ List.cons rfl (List.map_congr_left fun j _ => ?_)) ?_
      · unfold imageWord Function.comp
        rw [List.drop_drop, show 24 + 24 * j = 24 * (j + 1) by omega]
      · exact List.drop_drop.trans (congrArg (fun i => d.drop i) (by omega))

/-! ## A word broadcast to every store -/

/-- Only the engines differ. -/
def OnlyEngines (b u : Block) : Prop := { u with eng := b.eng } = b

theorem OnlyEngines.trans {a b c : Block} (h : OnlyEngines a b) (k : OnlyEngines b c) : OnlyEngines a c := by
  have e := congrArg (fun x : Block => { x with eng := a.eng }) k
  exact Eq.trans e h

theorem OnlyEngines.of_fold {α : Type} {f : Block → α → Block} (hf : ∀ y p, OnlyEngines y (f y p)) :
    ∀ (l : List α) (b : Block), OnlyEngines b (l.foldl f b)
  | [], _ => rfl
  | p :: l, b => (hf b p).trans (OnlyEngines.of_fold hf l (f b p))

section
variable {b u : Block} (h : OnlyEngines b u)
include h

theorem OnlyEngines.get (x : Fld) : u.get x = b.get x := by have e := congrArg (fun y : Block => y.get x) h; exact e
theorem OnlyEngines.mem : u.mem = b.mem := by have e := congrArg Block.mem h; exact e
theorem OnlyEngines.ports : u.ports = b.ports := by have e := congrArg Block.ports h; exact e
theorem OnlyEngines.spm : u.spm = b.spm := by have e := congrArg Block.spm h; exact e
theorem OnlyEngines.isSealed : u.isSealed = b.isSealed := by have e := congrArg Block.isSealed h; exact e

end

/-- An engine whose store holds `w` at `a`. -/
def Engine.rowed (e : Engine) (a : Nat) (w : BitVec 192) : Engine := { e with cs := e.cs.put a w }

theorem Engine.rowed_row (e : Engine) (a c : Nat) (w : BitVec 192) : (e.rowed a w).row c = if c = a then w else e.row c := by
  unfold Engine.rowed Engine.row
  split
  next h => exact h ▸ Tab.get_put_same ..
  next h => exact Tab.get_put_ne _ _ _ _ _ h

/-- A word written to every store. -/
def Block.castWord (b : Block) (a : Nat) (w : BitVec 192) : Block := (List.range 72).foldl (fun b n => b.writeRow n a w) b

theorem writeRow_engine (b : Block) (n a m : Nat) (w : BitVec 192) : (b.writeRow n a w).engine m =
    if m = n then (b.engine n).rowed a w else b.engine m := modEngine_engine b n _ m

theorem writeRow_onlyEngines (b : Block) (n a : Nat) (w : BitVec 192) : OnlyEngines b (b.writeRow n a w) := rfl

theorem castWord_onlyEngines (b : Block) (a : Nat) (w : BitVec 192) : OnlyEngines b (b.castWord a w) :=
  OnlyEngines.of_fold (fun y n => writeRow_onlyEngines y n a w) _ b

theorem castWord_row (b : Block) (a : Nat) (w : BitVec 192) {n : Nat} (hn : n < 72) (c : Nat) :
    ((b.castWord a w).engine n).row c = if c = a then w else (b.engine n).row c := by
  split
  next hc =>
    refine forEach_each (Q := fun n u => (u.engine n).row c = w) (f := fun n b => b.writeRow n a w) (fun i y _ => ?_)
      (fun i j y _ _ hne h => ?_) b n hn
    · rw [writeRow_engine, if_pos rfl, Engine.rowed_row, if_pos hc]
    · rw [writeRow_engine, if_neg (Ne.symm hne)]
      exact h
  next hc =>
    refine forEach_keeps (fun u : Block => (u.engine n).row c = (b.engine n).row c) 72 (fun n b => b.writeRow n a w) b rfl fun i y _ h => ?_
    rw [writeRow_engine]
    split
    next he => rw [Engine.rowed_row, if_neg hc, ← he, h]
    next => exact h

/-- Word `p.1` of some bytes of an image, `p.2`, broadcast to its microaddress. -/
def Block.castAt (secs : List (Nat × Nat)) (i0 : Nat) (b : Block) (p : Nat × BitVec 192) : Block :=
  match wordAddr secs (i0 + p.1) with
  | some a => b.castWord a p.2
  | none => b

theorem castAt_onlyEngines (secs : List (Nat × Nat)) (i0 : Nat) (b : Block) (p : Nat × BitVec 192) :
    OnlyEngines b (Block.castAt secs i0 b p) := by
  unfold Block.castAt
  split
  · exact castWord_onlyEngines b _ _
  · rfl

theorem castAt_row (secs : List (Nat × Nat)) (i0 : Nat) (b : Block) (p : Nat × BitVec 192) {n : Nat} (hn : n < 72) (a : Nat) :
    ((Block.castAt secs i0 b p).engine n).row a = if wordAddr secs (i0 + p.1) = some a then p.2 else (b.engine n).row a := by
  unfold Block.castAt
  split
  next c hc =>
    rw [hc, castWord_row b c p.2 hn a]
    simp only [Option.some.injEq, eq_comm]
  next hc => rw [hc, if_neg (by simp)]

theorem castAts_unchanged {secs : List (Nat × Nat)} {i0 n a : Nat} (hn : n < 72) : ∀ (l : List (Nat × BitVec 192)) (b : Block),
    (∀ p ∈ l, wordAddr secs (i0 + p.1) ≠ some a) → ((l.foldl (Block.castAt secs i0) b).engine n).row a = (b.engine n).row a
  | [], _, _ => rfl
  | p :: l, b, h => by
    rw [List.foldl_cons, castAts_unchanged hn l _ fun q hq => h q (by simp [hq]), castAt_row _ _ _ _ hn, if_neg (h p (by simp))]

theorem castAts_changed {secs : List (Nat × Nat)} {i0 n a : Nat} {w : BitVec 192} (hn : n < 72) :
    ∀ (l : List (Nat × BitVec 192)) (b : Block), (∀ p ∈ l, wordAddr secs (i0 + p.1) = some a → p.2 = w) →
      (∃ p ∈ l, wordAddr secs (i0 + p.1) = some a) → ((l.foldl (Block.castAt secs i0) b).engine n).row a = w
  | [], _, _, h => by simp at h
  | p :: l, b, hall, h => by
    rw [List.foldl_cons]
    by_cases hl : ∃ q ∈ l, wordAddr secs (i0 + q.1) = some a
    · exact castAts_changed hn l _ (fun q hq => hall q (by simp [hq])) hl
    · have hp : wordAddr secs (i0 + p.1) = some a := by
        obtain ⟨q, hq, hqa⟩ := h
        obtain rfl | hq := List.mem_cons.mp hq
        · exact hqa
        · exact absurd ⟨q, hq, hqa⟩ hl
      rw [castAts_unchanged hn l _ fun q hq hqa => hl ⟨q, hq, hqa⟩, castAt_row _ _ _ _ hn, if_pos hp]
      exact hall p (by simp) hp

/-- The pairs of a list's indices and its elements. -/
theorem mem_indexed {α : Type} {f : Nat → α} {m : Nat} {p : Nat × α} :
    p ∈ (List.range m).zip ((List.range m).map f) ↔ p.1 < m ∧ p.2 = f p.1 := by
  rw [← List.map_id (List.range m), List.map_map, List.zip_map']
  simp only [List.mem_map, List.mem_range, Function.comp]
  constructor
  · rintro ⟨i, hi, rfl⟩
    exact ⟨hi, rfl⟩
  · rintro ⟨h1, h2⟩
    exact ⟨p.1, h1, Prod.ext rfl h2.symm⟩

end Sys2Proof.Machine
end

section
/-! The Loader's reads and the end of its digest (R181 to R183). -/
namespace Sys2Proof.Machine

/-! ## What a read's data do -/

/-- The data sent to the digest engine. -/
def Sent (first last : Bool) (d dig : List Byte) (u : Block) : Prop :=
  u.ports.dgq = some ⟨0, first, last, d, if last then some dig else none⟩

/-- The Loader's place in the image. -/
def Block.placed (b : Block) (x : ImgRead) : Block := b.modSpm fun s => { s with img := some x }

/-- The Loader waits for the digest when the image is whole. -/
def Block.streamed (b : Block) (last : Bool) : Block := if last then b.put R.LDR_STAT_PHASE 3 else b

section
variable {b : Block} {x : ImgRead} {d : List Byte}

theorem imageData_header (hdst : x.dst = none) (hlow : x.got + d.length ≤ 256) (hd : d.length ≠ 0)
    (hok : x.got + d.length = 256 → headerOk (x.hdr ++ d) = true) :
    b.imageData x 0 d = (b.sendDigest 0 (x.got == 0) false d none).placed ⟨none, x.got + d.length, x.hdr ++ d, [], false⟩ := by
  have hlt : x.got < 256 := by omega
  have hlast : decide (256 < x.got + d.length) = false := decide_eq_false (by omega)
  have hcause : (if x.got + d.length = 256 then (b.sendDigest 0 (x.got == 0) false d none).headerCause x (x.hdr ++ d) else none) = none := by
    split
    next h =>
      unfold Block.headerCause
      rw [hok h, hdst]
      rfl
    next => rfl
  unfold Block.imageData
  dsimp only
  simp only [if_pos hlt, hlast, Bool.false_and, Bool.false_eq_true, if_false, hcause, hdst]
  rfl

theorem imageData_refused (hwhole : x.got + d.length = 256) (hd : d.length ≠ 0) (hok : headerOk (x.hdr ++ d) = false) (hdst : x.dst = none) :
    b.imageData x 0 d = (b.sendDigest 0 (x.got == 0) false d none).loaderFail 1 := by
  have hlt : x.got < 256 := by omega
  have hlast : decide (256 < x.got + d.length) = false := decide_eq_false (by omega)
  have hcause : (b.sendDigest 0 (x.got == 0) false d none).headerCause x (x.hdr ++ d) = some 1 := by
    unfold Block.headerCause
    rw [hok]
    rfl
  unfold Block.imageData
  dsimp only
  simp only [if_pos hlt, hlast, Bool.false_and, Bool.false_eq_true, if_false, if_pos hwhole, hcause, hdst]
  unfold Block.loadFail
  rfl

/-- The bytes since the last whole word broadcast. -/
def Block.castAll (b : Block) (x : ImgRead) (d : List Byte) : Block :=
  ((List.range ((x.part ++ d).length / 24)).zip ((List.range ((x.part ++ d).length / 24)).map (imageWord (x.part ++ d)))).foldl
    (Block.castAt (sections x.hdr) ((x.got - 256 - x.part.length) / 24)) b

theorem broadcast_eq (hdst : x.dst = none) (hlen : (x.part ++ d).length < 216) :
    b.broadcast x d = (b.castAll x d, (x.part ++ d).drop ((x.part ++ d).length / 24 * 24)) := by
  unfold Block.broadcast Block.castAll
  rw [takeWords_eq 8 _ hlen, hdst]
  dsimp only
  rw [List.length_map, List.length_range]
  rfl

theorem imageData_words (hdst : x.dst = none) (hgot : 256 ≤ x.got) (hd : d.length ≠ 0) (hlen : (x.part ++ d).length < 216)
    {last : Bool} (hlast : decide (x.got + d.length = imgLen x.hdr) = last) : b.imageData x 0 d =
      (((b.sendDigest 0 false last d (if last then some b.manifest else none)).castAll x d).placed
        ⟨none, x.got + d.length, x.hdr, (x.part ++ d).drop ((x.part ++ d).length / 24 * 24), false⟩).streamed last := by
  have h1 : ¬x.got < 256 := by omega
  have h2 : ¬x.got + d.length = 256 := by omega
  have h3 : decide (256 < x.got + d.length) = true := decide_eq_true (by omega)
  have h4 : (x.got == 0) = false := beq_eq_false_iff_ne.mpr (by omega)
  have h5 : (x.got + d.length == imgLen x.hdr) = last := by rw [← hlast]; rfl
  unfold Block.imageData
  dsimp only
  simp only [if_neg h1, if_neg h2, h3, h4, h5, Bool.true_and, hdst]
  rw [broadcast_eq (x := ⟨none, x.got, x.hdr, x.part, x.retried⟩) rfl hlen]
  unfold Block.streamed
  rw [show (last && (none : Option Nat).isNone) = last from Bool.and_true last]
  rfl

theorem castAll_onlyEngines (b : Block) (x : ImgRead) (d : List Byte) : OnlyEngines b (b.castAll x d) :=
  OnlyEngines.of_fold (castAt_onlyEngines _ _) _ b

/-- The rows that a read's words change, and those that they leave. -/
theorem castAll_rows {w n : Nat} (hok : headerOk x.hdr = true) (hgot : x.got = 256 + 24 * w + x.part.length) (hn : n < 72) :
    (∀ j, 24 * (j + 1) ≤ (x.part ++ d).length → ∀ a, wordAddr (sections x.hdr) (w + j) = some a →
      ((b.castAll x d).engine n).row a = imageWord (x.part ++ d) j) ∧
    ∀ a, (∀ j, 24 * (j + 1) ≤ (x.part ++ d).length → wordAddr (sections x.hdr) (w + j) ≠ some a) →
      ((b.castAll x d).engine n).row a = (b.engine n).row a := by
  have hsecs := headerOk_sections hok
  have hi0 : (x.got - 256 - x.part.length) / 24 = w := by omega
  unfold Block.castAll
  rw [hi0]
  refine ⟨fun j hj a ha => castAts_changed hn _ b (fun p hp hpa => ?_) ⟨(j, imageWord (x.part ++ d) j), ?_, ha⟩,
    fun a ha => castAts_unchanged hn _ b fun p hp => ?_⟩
  · obtain ⟨_, hp2⟩ := mem_indexed.mp hp
    have he := wordAddr_inj hsecs hpa ha
    rw [hp2, show p.1 = j by omega]
  · exact mem_indexed.mpr ⟨by show j < _; omega, rfl⟩
  · obtain ⟨hp1, _⟩ := mem_indexed.mp hp
    exact ha p.1 (by omega)

end

/-! ## LOADER_READ_DATA -/

section
variable {s : State} {x : ImgRead} {find : BankFind} {k : Nat}

/-- The bytes of the image that the Loader asks for next, `k` of them. -/
def Block.reads (b : Block) (x : ImgRead) (k : Nat) : Prop :=
  b.spm.img = some x ∧ x.dst = none ∧ k ≠ 0 ∧ k = if x.got < 256 then 128 else min 128 (imgLen x.hdr - x.got)

/-- Where the next bytes of the image stand. -/
def Block.imageAt (b : Block) (x : ImgRead) : Nat := b.get R.LDR_IMGADDR_LO_ADDR + 2 ^ 32 * b.get R.LDR_IMGADDR_HI_ADDR + x.got

/-- The Loader streams. -/
def Block.streaming (b : Block) : Block := b.put R.LDR_STAT_PHASE 2

/-- What the image's read comes to. -/
def imageGo (x : ImgRead) : Block × Served → Block
  | (b, .later) => b
  | (b, .data d) => b.imageData x 0 d
  | (b, .lost) => if x.retried then b.loadFail x.dst 3 else b.modSpm fun s => { s with img := some { x with retried := true } }

theorem imageAt_eq (b : Block) (x : ImgRead) : b.streaming.imageAddr none + x.got = b.imageAt x := by
  have h1 : b.streaming.get R.LDR_IMGADDR_LO_ADDR = b.get R.LDR_IMGADDR_LO_ADDR := Block.get_put_ne _ _ _ _ (by decide)
  have h2 : b.streaming.get R.LDR_IMGADDR_HI_ADDR = b.get R.LDR_IMGADDR_HI_ADDR := Block.get_put_ne _ _ _ _ (by decide)
  unfold Block.imageAddr Block.imageAt Block.get64
  rw [if_pos Option.isNone_none, h1, h2]
  omega

theorem exec_imageRead (h : s.blk.reads x k) {z : Block × Served}
    (hread : s.blk.streaming.dmaRead rqDigest 4 (s.blk.imageAt x) k find = z) :
    exec (.loaderReadData find) s = done s (imageGo x z) := by
  obtain ⟨himg, hdst, hk, hke⟩ := h
  rw [← imageAt_eq] at hread
  show execLoaderReadData find s = _
  unfold execLoaderReadData
  refine congrArg (done s) ?_
  split
  next h0 =>
    rw [himg] at h0
    cases h0
  next y h0 =>
    rw [himg] at h0
    cases h0
    have hctx : s.blk.loadCtx x.dst = some 0 := by rw [hdst]; rfl
    split
    next h0 =>
      rw [hctx] at h0
      cases h0
    next c h0 =>
      rw [hctx] at h0
      cases h0
      lift_lets
      intro n b
      have hb : b = s.blk.streaming := if_pos (by rw [hdst]; rfl)
      refine (if_neg (fun hn => hk (hke.trans hn))).trans ?_
      rw [hb]
      have hread' : s.blk.streaming.dmaRead rqDigest 4 (s.blk.streaming.imageAddr x.dst + x.got) n find = z := by
        rw [hdst, show n = k from hke.symm]
        exact hread
      split
      next u hz => rw [show z = (u, .later) from hread'.symm.trans hz]; rfl
      next u d hz => rw [show z = (u, .data d) from hread'.symm.trans hz]; rfl
      next u hz => rw [show z = (u, .lost) from hread'.symm.trans hz]; rfl

end

section
variable {s : State} {x : ImgRead} {find : BankFind} {k : Nat}

theorem streaming_get (b : Block) {f : Fld} (h : f.key ≠ R.LDR_STAT_PHASE.key) : b.streaming.get f = b.get f := Block.get_put_ne _ _ _ _ h

theorem streaming_reachable (b : Block) (a n : Nat) : b.streaming.reachable a n = b.reachable a n :=
  reachable_congr (streaming_get b (by decide)) (fun k => streaming_get b (by simp only [Fld.key, R.CB_STAT_PSTATE, R.LDR_STAT_PHASE]; omega))
    (fun _ => rfl) a n

theorem streaming_target (b : Block) (a : Nat) : b.streaming.target a = b.target a := by
  unfold Block.target Block.dramSize
  rw [streaming_get b (by decide)]

theorem streaming_idle {b : Block} (hst : b.still) : Idle b.streaming ∧ ∀ a, b.streaming.lineSound a :=
  ⟨(idle_of_still hst).of_same rfl rfl, fun a j hj => lineSound_of_still hst a j ((streaming_target b a).symm.trans hj)⟩

theorem streaming_lost {b : Block} {a n : Nat} (h : b.readLost a n find) : b.streaming.readLost a n find := by
  obtain h | ⟨second, words, h1, h2, h3⟩ := h
  · exact .inl ((streaming_reachable b a n).trans h)
  · exact .inr ⟨second, words, h1, h2, fun j hj => h3 j ((streaming_target b a).symm.trans hj)⟩

theorem reads_le {b : Block} (h : b.reads x k) : k ≤ 128 := by
  obtain ⟨_, _, _, rfl⟩ := h
  split <;> omega

theorem manifest_congr {b u : Block} (h : ∀ i < 12, u.get (R.LDR_MANIFEST_DIG i) = b.get (R.LDR_MANIFEST_DIG i)) :
    u.manifest = b.manifest := by
  unfold Block.manifest
  refine List.flatMap_congr fun i hi => ?_
  rw [h i (List.mem_range.mp hi)]

/-- A field of the Loader or of an engine's registers, but for PHASE. -/
def loaderFld (f : Fld) : Prop := beyondAccess f ∧ f.key ≠ R.LDR_STAT_PHASE.key

/-- A block after a read of the image, which only its accounts tell from the block before. -/
structure ImageRead (b u : Block) : Prop where
  phase : u.get R.LDR_STAT_PHASE = 2
  regs : ∀ f, loaderFld f → u.get f = b.get f
  spm : u.spm = b.spm
  mem : u.mem = b.mem
  eng : u.eng = b.eng
  isSealed : u.isSealed = b.isSealed

theorem loaderFld_phase : beyondAccess R.LDR_STAT_PHASE := by
  refine ⟨fun hb => ?_, fun i hi => ?_, by decide⟩
  · unfold isBankFld at hb
    simp only [Fld.key, R.LDR_STAT_PHASE] at hb
    omega
  · simp only [Fld.key, R.GPC_COUNT, R.LDR_STAT_PHASE]
    omega

theorem loaderFld_of {f : Fld} (h : f.key < 0x2000 * 32 ∨ 0x40000 * 32 ≤ f.key ∧ f.key < 0x44800 * 32)
    (hne : f.key ≠ R.LDR_STAT_PHASE.key) : loaderFld f := by
  refine ⟨⟨fun hb => ?_, fun i hi => ?_, ?_⟩, hne⟩
  · unfold isBankFld at hb
    omega
  · simp only [Fld.key, R.GPC_COUNT] at h ⊢
    omega
  · simp only [Fld.key, R.PERC_WAITS_COUNT] at h ⊢
    omega

theorem ImageRead.manifest {b u : Block} (h : ImageRead b u) : u.manifest = b.manifest :=
  manifest_congr fun i hi => h.regs _ (loaderFld_of (by simp only [Fld.key, R.LDR_MANIFEST_DIG]; omega)
    (by simp only [Fld.key, R.LDR_MANIFEST_DIG, R.LDR_STAT_PHASE]; omega))

theorem ImageRead.run {b u : Block} (h : ImageRead b u) {n : Nat} (hn : n < 72) : u.get (R.ENG_ID_RUN n) = b.get (R.ENG_ID_RUN n) :=
  h.regs _ (loaderFld_of (by simp only [Fld.key, R.ENG_ID_RUN]; omega) (by simp only [Fld.key, R.ENG_ID_RUN, R.LDR_STAT_PHASE]; omega))

theorem imageRead_of {b u : Block} (h : Accessed b.streaming u) (hmem : u.mem = b.streaming.mem) (heng : u.eng = b.streaming.eng) :
    ImageRead b u :=
  ⟨(h.regs _ (loaderFld_phase)).trans (Block.get_put_same _ _ _), fun f hf => (h.regs f hf.1).trans (streaming_get b hf.2), h.spm, hmem, heng,
    h.isSealed⟩

/-- The read of the image's next bytes returns them. -/
theorem image_read (hst : s.blk.still) (h : s.blk.reads x k) (hr : s.blk.reachable (s.blk.imageAt x) k = true) :
    ∃ u, exec (.loaderReadData .clean) s = done s (u.imageData x 0 (s.blk.mem.bytes (s.blk.imageAt x) k)) ∧ ImageRead s.blk u := by
  have hle := reads_le h
  obtain ⟨hi, hsound⟩ := streaming_idle hst
  obtain ⟨u, hread, hon⟩ := dmaRead_sound (rq := rqDigest) (cls := 4) hi (by decide) ((streaming_reachable _ _ _).trans hr) (by omega)
    fun y _ _ => hsound y
  exact ⟨u, exec_imageRead h hread, imageRead_of hon.accessed hon.mem hon.eng⟩

/-- The read of the image's next bytes answers with an error. -/
theorem image_lost (hst : s.blk.still) (h : s.blk.reads x k) (hl : s.blk.readLost (s.blk.imageAt x) k find) :
    ∃ u, exec (.loaderReadData find) s = done s (imageGo x (u, .lost)) ∧ ImageRead s.blk u := by
  obtain ⟨hi, hsound⟩ := streaming_idle hst
  obtain ⟨u, hread, hon⟩ := dmaRead_lost (rq := rqDigest) (cls := 4) hi (by decide) h.2.2.1 (hsound _) (streaming_lost hl)
  exact ⟨u, exec_imageRead h hread, imageRead_of hon.accessed hon.mem hon.eng⟩

/-- A failed load, seen from the block before its read. -/
theorem LoadFailed.before {b u t : Block} {cause : Nat} (h : LoadFailed cause u t) (heng : u.eng = b.eng)
    (hrun : ∀ n < 72, u.get (R.ENG_ID_RUN n) = b.get (R.ENG_ID_RUN n)) : LoadFailed cause b t :=
  ⟨h.phase, h.cause, h.img, h.eng.trans heng, fun n hn => ⟨(h.stores n hn).1, (h.stores n hn).2.trans (hrun n hn)⟩⟩

theorem gives_imageRetry (hst : s.blk.still) (h : s.blk.reads x k) (hl : s.blk.readLost (s.blk.imageAt x) k find) (hret : x.retried = false) :
    Gives (.loaderReadData find) s fun t => t.blk.spm = { s.blk.spm with img := some { x with retried := true } } ∧
      t.blk.mem = s.blk.mem ∧ t.blk.get R.LDR_STAT_PHASE = 2 := by
  obtain ⟨u, hx, hon⟩ := image_lost hst h hl
  have he : imageGo x (u, .lost) = u.placed { x with retried := true } := if_neg (by rw [hret]; decide)
  rw [he] at hx
  refine gives_of_done hx hon.isSealed ⟨?_, hon.mem, hon.phase⟩
  rw [← hon.spm]
  rfl

theorem gives_imageLost (hst : s.blk.still) (h : s.blk.reads x k) (hl : s.blk.readLost (s.blk.imageAt x) k find) (hret : x.retried = true) :
    Gives (.loaderReadData find) s fun t => LoadFailed 3 s.blk t.blk := by
  obtain ⟨u, hx, hon⟩ := image_lost hst h hl
  have he : imageGo x (u, .lost) = u.loaderFail 3 := by
    unfold imageGo Block.loadFail
    dsimp only
    rw [hret, if_pos rfl, h.2.1]
    exact if_pos rfl
  rw [he] at hx
  obtain ⟨hf, hsealed⟩ := loaderFail_facts u 3
  exact gives_of_done hx (hsealed.trans hon.isSealed) (hf.before hon.eng fun n hn => hon.run hn)

/-- A read of the header, which stands when it is whole. -/
theorem gives_imageHeader (hst : s.blk.still) (h : s.blk.reads x k) (hr : s.blk.reachable (s.blk.imageAt x) k = true)
    (hlow : x.got + k ≤ 256) (hok : x.got + k = 256 → headerOk (x.hdr ++ s.blk.mem.bytes (s.blk.imageAt x) k) = true) :
    Gives (.loaderReadData .clean) s fun t => Sent (x.got == 0) false (s.blk.mem.bytes (s.blk.imageAt x) k) s.blk.manifest t.blk ∧
      t.blk.get R.LDR_STAT_PHASE = 2 ∧
      t.blk.spm.img = some ⟨none, x.got + k, x.hdr ++ s.blk.mem.bytes (s.blk.imageAt x) k, [], false⟩ ∧ t.blk.eng = s.blk.eng ∧
      t.blk.mem = s.blk.mem := by
  obtain ⟨u, hx, hon⟩ := image_read hst h hr
  have hlen := Mem.length_bytes s.blk.mem (s.blk.imageAt x) k
  rw [imageData_header h.2.1 (by omega) (by rw [hlen]; exact h.2.2.1) (by rw [hlen]; exact hok), hlen] at hx
  exact gives_of_done hx hon.isSealed ⟨rfl, hon.phase, rfl, hon.eng, hon.mem⟩

/-- A header that R182 refuses. -/
theorem gives_imageRefused (hst : s.blk.still) (h : s.blk.reads x k) (hr : s.blk.reachable (s.blk.imageAt x) k = true)
    (hwhole : x.got + k = 256) (hok : headerOk (x.hdr ++ s.blk.mem.bytes (s.blk.imageAt x) k) = false) :
    Gives (.loaderReadData .clean) s fun t => LoadFailed 1 s.blk t.blk := by
  obtain ⟨u, hx, hon⟩ := image_read hst h hr
  have hlen := Mem.length_bytes s.blk.mem (s.blk.imageAt x) k
  rw [imageData_refused (by rw [hlen]; exact hwhole) (by rw [hlen]; exact h.2.2.1) hok h.2.1] at hx
  obtain ⟨hf, hsealed⟩ := loaderFail_facts (u.sendDigest 0 (x.got == 0) false (s.blk.mem.bytes (s.blk.imageAt x) k) none) 1
  exact gives_of_done hx (hsealed.trans hon.isSealed) (hf.before hon.eng fun n hn => hon.run hn)

/-- What the words of a read of the image, which begin at word `w`, store. -/
def Stored (secs : List (Nat × Nat)) (w : Nat) (whole : List Byte) (b u : Block) : Prop := ∀ n < 72,
  (∀ j, 24 * (j + 1) ≤ whole.length → ∀ a, wordAddr secs (w + j) = some a → (u.engine n).row a = imageWord whole j) ∧
  ∀ a, (∀ j, 24 * (j + 1) ≤ whole.length → wordAddr secs (w + j) ≠ some a) → (u.engine n).row a = (b.engine n).row a

/-- A read of the image's words. -/
theorem gives_imageWords (hst : s.blk.still) (h : s.blk.reads x k) (hr : s.blk.reachable (s.blk.imageAt x) k = true)
    (hok : headerOk x.hdr = true) {w : Nat} (hgot : x.got = 256 + 24 * w + x.part.length) (hpart : x.part.length < 24)
    {last : Bool} (hlast : decide (x.got + k = imgLen x.hdr) = last) {whole : List Byte}
    (hwhole : x.part ++ s.blk.mem.bytes (s.blk.imageAt x) k = whole) :
    Gives (.loaderReadData .clean) s fun t => Sent false last (s.blk.mem.bytes (s.blk.imageAt x) k) s.blk.manifest t.blk ∧
      Stored (sections x.hdr) w whole s.blk t.blk ∧ t.blk.get R.LDR_STAT_PHASE = (if last then 3 else 2) ∧ t.blk.mem = s.blk.mem ∧
      t.blk.spm.img = some ⟨none, x.got + k, x.hdr, whole.drop (whole.length / 24 * 24), false⟩ := by
  obtain ⟨u, hx, hon⟩ := image_read hst h hr
  have hle := reads_le h
  have hlen := Mem.length_bytes s.blk.mem (s.blk.imageAt x) k
  generalize s.blk.mem.bytes (s.blk.imageAt x) k = d at hx hlen hwhole
  have hshort : (x.part ++ d).length < 216 := by
    rw [List.length_append]
    omega
  rw [imageData_words (last := last) h.2.1 (by omega) (by rw [hlen]; exact h.2.2.1) hshort (by rw [hlen]; exact hlast), hlen] at hx
  generalize hv : u.sendDigest 0 false last d (if last then some u.manifest else none) = v at hx
  have hsame := castAll_onlyEngines v x d
  have heng : v.eng = s.blk.eng := by rw [← hv]; exact hon.eng
  have hrows := fun (n : Nat) (hn : n < 72) => castAll_rows (b := v) (d := d) hok hgot hn
  have hsent : (v.castAll x d).ports.dgq = some ⟨0, false, last, d, if last then some s.blk.manifest else none⟩ := by
    rw [hsame.ports, ← hv, ← hon.manifest]
    rfl
  have hphase : (v.castAll x d).get R.LDR_STAT_PHASE = 2 := by
    rw [hsame.get, ← hv]
    exact hon.phase
  have hmem : (v.castAll x d).mem = s.blk.mem := by
    rw [hsame.mem, ← hv]
    exact hon.mem
  have hsealed : (v.castAll x d).isSealed = s.blk.isSealed := by
    rw [hsame.isSealed, ← hv]
    exact hon.isSealed
  generalize v.castAll x d = c at hx hrows hsent hphase hmem hsealed
  rw [hwhole] at hx hrows
  have hstored : Stored (sections x.hdr) w whole s.blk c := fun n hn => by
    obtain ⟨h1, h2⟩ := hrows n hn
    exact ⟨h1, fun a ha => (h2 a ha).trans (by rw [engine_congr heng])⟩
  cases last
  · exact gives_of_done hx hsealed ⟨hsent, hstored, hphase, hmem, rfl⟩
  · exact gives_of_done hx hsealed ⟨hsent, hstored, Block.get_put_same _ _ _, hmem, rfl⟩

theorem gives_loaderRead_idle (h : s.blk.spm.img = none) : Gives (.loaderReadData find) s (Same s) := by
  have hx : exec (.loaderReadData find) s = done s s.blk := by
    show execLoaderReadData find s = _
    unfold execLoaderReadData
    refine congrArg (done s) ?_
    split
    next => rfl
    next y h0 =>
      rw [h] at h0
      cases h0
  exact gives_of_done hx rfl rfl

/-! ## DIGEST_RESULT of the Loader (R183) -/

theorem exec_digestResult_loader {digest : BitVec 384} {ok : Bool} (himg : s.blk.spm.img = some x) (hdst : x.dst = none)
    (hphase : s.blk.get R.LDR_STAT_PHASE = 3) :
    exec (.digestResult 0 digest ok) s = done s (if ok then s.blk.loaderDone x.hdr else s.blk.loaderFail 2) := by
  show execDigestResult 0 digest ok s = _
  unfold execDigestResult
  refine congrArg (done s) ((if_pos rfl).trans ?_)
  rw [himg]
  refine if_pos ⟨?_, hphase⟩
  rw [hdst]
  rfl

end

/-- A failed load in the obligation's words. -/
theorem gives_loadFailed {s : State} {i : Instr} {cause : Nat} (hc : cause < 16) (h : Gives i s fun t => LoadFailed cause s.blk t.blk) :
    Gives i s fun t => t.blk.get R.LDR_STAT_PHASE = 5 ∧ t.blk.get R.LDR_STAT_CAUSE = cause ∧ t.blk.spm.img = none ∧
      t.blk.eng = s.blk.eng ∧ ∀ n < 72, t.blk.get (R.ENG_CSSTAT_IMGST n) = 3 ∧
        t.blk.get (R.ENG_ID_RUN n) = s.blk.get (R.ENG_ID_RUN n) :=
  h.mono fun _ hf => ⟨hf.phase, hf.cause.trans (Nat.mod_eq_of_lt hc), hf.img, hf.eng, hf.stores⟩

theorem rotBusy_eq_false {b : Block} (h : ¬(b.get R.LDR_STAT_PHASE = 1 ∨ b.get R.LDR_STAT_PHASE = 2 ∨ b.get R.LDR_STAT_PHASE = 3 ∨
    b.get R.ACT_STAT_PHASE = 1)) : b.rotBusy = false := by
  rw [← Bool.not_eq_true, rotBusy_iff]
  exact h

theorem gives_digestFailed {s : State} {x : ImgRead} {digest : BitVec 384} (himg : s.blk.spm.img = some x) (hdst : x.dst = none)
    (hphase : s.blk.get R.LDR_STAT_PHASE = 3) : Gives (.digestResult 0 digest false) s fun t => LoadFailed 2 s.blk t.blk := by
  obtain ⟨hf, hsealed⟩ := loaderFail_facts s.blk 2
  exact gives_of_done (exec_digestResult_loader himg hdst hphase) hsealed hf

theorem gives_digestDone {s : State} {x : ImgRead} {digest : BitVec 384} (himg : s.blk.spm.img = some x) (hdst : x.dst = none)
    (hphase : s.blk.get R.LDR_STAT_PHASE = 3) :
    Gives (.digestResult 0 digest true) s fun t => LoadDone x.hdr s.blk.manifest s.blk t.blk := by
  obtain ⟨hf, hsealed⟩ := loaderDone_facts s.blk x.hdr
  exact gives_of_done (exec_digestResult_loader himg hdst hphase) hsealed hf

/-- Settles O45: what the Loader reads is a header, checked when it is whole, or words, each at its own microaddress. -/
theorem imageLoading : Obligations.ImageLoading := by
  unfold Obligations.ImageLoading
  intro idx data find ok digest x w s _ hst
  dsimp only
  have hreads : ∀ h : s.blk.spm.img = some x ∧ x.dst = none ∧
      (if x.got < 256 then 128 else min 128 (imgLen x.hdr - x.got)) ≠ 0, s.blk.reads x _ := fun ⟨h1, h2, h3⟩ => ⟨h1, h2, h3, rfl⟩
  generalize hk : (if x.got < 256 then 128 else min 128 (imgLen x.hdr - x.got)) = k at hreads ⊢
  refine ⟨fun h => gives_rotWrite_refused (h.imp_left (rotBusy_iff _).mpr), fun h hi => gives_rotWrite (rotBusy_eq_false h) hi, gives_pllLock,
    gives_loaderStart, gives_loaderStart_none,
    fun h hl => ⟨gives_imageRetry hst (hreads h) hl, fun hret => gives_loadFailed (by decide) (gives_imageLost hst (hreads h) hl hret)⟩,
    fun h ⟨hf, hr⟩ h0 => ?_, fun h ⟨hf, hr⟩ h128 => ?_, fun h ⟨hf, hr⟩ hok hgot hpart => ?_, fun himg hdst hp hno => ?_,
    fun himg hdst hp hyes => ?_, gives_loaderRead_idle⟩
  · have hk' : k = 128 := by rw [← hk, if_pos (by omega)]
    subst hf hk'
    have hg := gives_imageHeader hst (hreads h) hr (by omega) (fun h' => absurd h' (by omega))
    rw [h0, Nat.zero_add] at hg
    exact hg.mono fun t ⟨h1, h2, h3, h4, h5⟩ => ⟨h1, h2, h3, h4, h5⟩
  · have hk' : k = 128 := by rw [← hk, if_pos (by omega)]
    subst hf hk'
    refine ⟨fun hbad => gives_loadFailed (by decide) (gives_imageRefused hst (hreads h) hr (by omega) hbad), fun hgood => ?_⟩
    have hg := gives_imageHeader hst (hreads h) hr (by omega) fun _ => hgood
    rw [h128] at hg
    exact hg.mono fun t ⟨h1, _, h3, h4, h5⟩ => ⟨h1, h3, h4, h5⟩
  · subst hf
    refine (gives_imageWords hst (hreads h) hr hok hgot hpart rfl rfl).mono fun t ⟨h1, h2, h3, h4, h5⟩ => ⟨h1, fun n hn => ?_, ?_, h4, h5⟩
    · obtain ⟨g1, g2⟩ := h2 n hn
      refine ⟨g1, fun a _ ha => g2 a fun j hj => ?_⟩
      refine ha j ?_ hj
      have hle := reads_le (hreads h)
      rw [List.length_append, Mem.length_bytes] at hj
      omega
    · simpa only [decide_eq_true_iff] using h3
  · subst hno
    exact gives_loadFailed (by decide) (gives_digestFailed himg hdst hp)
  · subst hyes
    refine (gives_digestDone himg hdst hp).mono fun t hd => ⟨hd.phase, hd.mvalid, hd.img, hd.mem, fun n hn => ?_, fun le hle => ?_⟩
    · obtain ⟨h1, h2, h3, h4, h5, h6⟩ := hd.stores n hn
      exact ⟨h1, h2, h3, h4, h5, h6, hd.rows n, hd.peState hn⟩
    · obtain ⟨h1, h2, h3, h4, _, h6⟩ := hd.starts le hle
      exact ⟨h1, h2, h3, h4, h6⟩

end Sys2Proof.Machine
end
